-- ==== Sys2Proof/Word.lean ====
section
/-! DEFINITION. The plain value types the spec's bytes and words are made of (00_scope.md R2). -/

namespace Sys2Proof

/-- One byte. -/
abbrev Byte := BitVec 8

/-- A byte string, first byte first. -/
abbrev Bytes := List Byte

/-- A 64-bit word. -/
abbrev W64 := BitVec 64

/-- A 32-bit word. -/
abbrev W32 := BitVec 32

/-- A table of values by number, the numbers strictly rising. -/
abbrev Tbl (α : Type) := List (Nat × α)

end Sys2Proof
end

