-- ==== Sys2Proof/Syntax.lean ====
section
/-! DEFINITION. The commands: one constructor of Instr per row of the spec's table of operations and events
(95_what_each_step_holds.md), with the operands its rule names. Numbers are natural numbers; Sys2Proof/WellFormed.lean
bounds them by their fields' widths. A command of the table that is a mailbox command carries its header (R407) and its
block's fields as its chapter names them. -/

namespace Sys2Proof

/-- Who sent a mailbox command and how it is answered (R407, R417): the mailbox, the tag, the form, and whether it
came through the lighter of that number under an SPDM session. -/
structure CmdHdr where
  mailbox : Nat
  tag : Nat
  expert : Bool
  viaLighter : Bool
  deriving DecidableEq, Repr

/-- A job command's header: also the sequence number, the job queue and the raw queue_owner byte (R407). -/
structure JobHdr where
  hdr : CmdHdr
  seq : Nat
  queue : Nat
  owner : Nat
  deriving DecidableEq, Repr

/-- One port context of a BERTH.CONFIGURE block (R273). -/
structure CtxCfg where
  contextId : Nat
  role : Nat
  hostId : Nat
  coherent : Bool
  enable : Bool
  deriving DecidableEq, Repr

/-- A Manifest entry (R44). `baseFpa` is the whole 56-bit address of the extent's first byte, `reserved` holds bits
[129:128] and [95:0]. -/
structure Entry where
  baseFpa : Nat
  sizeCode : Nat
  tier : Nat
  cls : Nat
  redundancy : Nat
  charter : Nat
  ownerHost : Nat
  generation : Nat
  keyEpoch : Nat
  state : Nat
  compressed : Bool
  readOnly : Bool
  shadowLink : Bool
  memberPerm : Nat
  homeDevice : Nat
  shadowEntry : Nat
  objectId : Nat
  reserved : Nat
  deriving DecidableEq, Repr

/-- A window descriptor (R41). -/
structure Window where
  enable : Bool
  sizeCode : Nat
  firstEntry : Nat
  entryCount : Nat
  deriving DecidableEq, Repr

/-- One member of a stripe group (R330): device, tray and module, and the state 0 OK, 1 FAILED, 2 REBUILDING. -/
structure GroupMember where
  device : Nat
  tray : Nat
  module : Nat
  state : Nat
  deriving DecidableEq, Repr

/-- A stripe group's entry (R330), with the formatting mark of R334 and the rebuild rate of R339. -/
structure Group where
  groupId : Nat
  mode : Nat
  memberBytes : Nat
  formatLimit : Nat
  anchor : Nat
  members : List GroupMember
  formatting : Option Nat
  rebuildRate : Nat
  reserved : Nat
  deriving DecidableEq, Repr

/-- A multicast group at one device: local egress contexts and span contexts (R303). -/
structure McGroup where
  locals : List Nat
  spans : List Nat
  deriving DecidableEq, Repr

/-- A route map (R56): egress contexts towards every device and every host, and the multicast groups. -/
structure RouteMap where
  toDevice : Tbl (List Nat)
  toHost : Tbl (List Nat)
  groups : Tbl McGroup
  deriving DecidableEq, Repr

/-- A composition: member devices, site map and buddy assignment. -/
structure Composition where
  members : List Nat
  sites : Tbl Nat
  buddies : Tbl Nat
  /-- running release of each member as the issuer knows it, and the members in confidential mode (R378, R380, R438) -/
  releases : Tbl Nat
  confidential : List Nat
  deriving DecidableEq, Repr

/-- What a domain change does at its boundary (R49, R377, R332, R334, R339, R254, R434). -/
inductive Change where
  | map (index : Nat) (e : Entry)
  | revoke (index : Nat)
  | window (charter win : Nat) (w : Window)
  | route (m : RouteMap)
  | composition (c : Composition) (m : RouteMap)
  | role (host group : Nat) (join leave : List Nat)
  | tideLength (code : Nat)
  | groupDefine (g : Group)
  | groupDelete (groupId : Nat)
  | formatStart (groupId limit : Nat)
  | formatEnd (groupId limit : Nat) (ok : Bool)
  | replace (groupId member device tray module rate : Nat)
  | charterCreate (charter : Nat) (confidential : Bool) (key : Bytes)
  | charterMembers (charter : Nat) (add remove : List Nat)
  | charterRotate (charter rate : Nat) (key : Bytes)
  | charterRevoke (charter : Nat)
  | migrate (entries : List (Nat × Entry))
  | fwActivate (deviceMask release : Nat)
  deriving DecidableEq, Repr

/-- A change's name in the domain: its issuer and the issuer's number of it. -/
structure ChangeId where
  issuer : Nat
  number : Nat
  deriving DecidableEq, Repr

/-- A KFP request as a host sends it on a port context (R90); context 256 is the host link. `length` is length_m1 + 1. -/
structure HostReq where
  ctx : Nat
  tag : Nat
  charter : Nat
  address : Nat
  length : Nat
  tclass : Nat
  sealWindow : Nat
  aux : Nat
  payload : Bytes
  deriving DecidableEq, Repr

/-- A KFP request inside the fabric (R89). -/
structure FabReq where
  opcode : Nat
  length : Nat
  charter : Nat
  srcEngine : Bool
  source : Nat
  tag : Nat
  address : Nat
  entry : Nat
  generation : Nat
  routeEpoch : Nat
  home : Nat
  tclass : Nat
  sealWindow : Nat
  jobValid : Bool
  jobDevice : Nat
  jobSlot : Nat
  attempt : Nat
  parts : Nat
  aux : Nat
  payload : Bytes
  deriving DecidableEq, Repr

/-- A KFP response (R95); its type is one of the opcodes of R96. -/
structure Resp where
  opcode : Nat
  dstEngine : Bool
  destination : Nat
  tag : Nat
  reason : Nat
  ll : Nat
  responder : Nat
  parts : Nat
  aux : Nat
  data : Bytes
  deriving DecidableEq, Repr

/-- A Crane segment (R141). -/
structure Segment where
  kind : Nat
  jobDevice : Nat
  jobSlot : Nat
  attempt : Nat
  srcDevice : Bool
  sender : Nat
  tile : Nat
  aux : Nat
  members : Nat
  format : Nat
  poison : Bool
  seqLo : Nat
  data : Bytes
  deriving DecidableEq, Repr

/-- What an engine-stream item is stamped with between devices: the multicast group or the device it is bound for, and the
route-map epoch (R56, R140, R303); `back` when it comes back to its sending device with 0x0507. -/
structure Stamp where
  multicast : Bool
  target : Nat
  epoch : Nat
  back : Bool
  deriving DecidableEq, Repr

/-- A stream record (R264). -/
structure StreamRec where
  kind : Nat
  jobSlot : Nat
  attempt : Nat
  pass : Nat
  layer : Nat
  shadow : Bool
  late : Bool
  poison : Bool
  aux : Nat
  objectId : Nat
  data : Bytes
  deriving DecidableEq, Repr

/-- A snoop request (R119). -/
structure SnoopReq where
  line : Nat
  kind : Nat
  requester : Nat
  snoopId : Nat
  generation : Nat
  entry : Nat
  targets : List Nat
  deriving DecidableEq, Repr

/-- A logbook record's fields (R356); its crc is what `Machine.recordCrc` computes, and `crcOk` says whether the stored
record still passes it. -/
structure LogRec where
  kind : Nat
  owner : Nat
  replica : Bool
  queue : Nat
  attempt : Nat
  seq : Nat
  jobSlot : Nat
  command : Nat
  tide : Nat
  logSeq : Nat
  stageBound : Bool
  redelivered : Bool
  queueOwner : Nat
  body : Bytes
  crcOk : Bool
  deriving DecidableEq, Repr

/-- An IDENTIFY control block (R280). -/
structure Ident where
  partClass : Nat
  partCode : Nat
  role : Nat
  widths : Nat
  deviceId : Nat
  coherent : Bool
  refuse : Bool
  deriving DecidableEq, Repr

/-- The message in a ring slot's payload block (R20 to R22). -/
inductive SlotMsg where
  | empty
  | snoop (rs : List SnoopReq)
  | accept (kind fromDev toDev msgId logSeq fragOffset : Nat) (last : Bool) (body : Bytes)
  | control (fromDev msgId code : Nat) (args : List Nat)
  /-- a span measurement, or the IDENTIFY block exchanged with the next LZ6 site -/
  | measure (spanTenthsNs : Nat) (ident : Option Ident)
  /-- a KFP block between devices -/
  | data (block : Bytes)
  deriving DecidableEq, Repr

/-- A ring slot as it stands on the wire: direction, the 128-bit header and trailer, the 512-byte KFP block of its payload and
the 256-byte answer field (R20 to R23). -/
structure RingSlot where
  east : Bool
  header : BitVec 128
  block : Bytes
  answers : Bytes
  trailer : BitVec 128
  deriving DecidableEq, Repr

/-- What ring training finds: the number of sites S, this device's site, and the sites of the LZ6 devices on the ring (R18). -/
structure RingMap where
  sites : Nat
  site : Nat
  devices : Tbl Nat
  deriving DecidableEq, Repr

/-- What a ring measurement finds besides its span: the partner's IDENTIFY, or the ring's sites where training ends (R18, R22). -/
inductive RingFound where
  | partner (ident : Ident)
  | ring (map : RingMap)
  deriving DecidableEq, Repr

/-- An owned slot's place after its lap: its direction, its number by its place in the train, and what came back there, none
where nothing did (R19, R23, R28). -/
structure SlotBack where
  east : Bool
  position : Nat
  slot : Option RingSlot
  deriving DecidableEq, Repr

/-- What another device says of a program: a message kind of the model's own and its bytes (R223 to R225). -/
structure ProgramMsg where
  kind : Nat
  data : Bytes
  deriving DecidableEq, Repr

/-- Stage as the loader finds it: a stack does not train; all train and nothing was kept; all train and what they kept passes its
checks (R431, R451, R454). -/
inductive StageFound where
  | untrained | empty | kept
  deriving DecidableEq, Repr

/-- The engine arrays that run tide slices (R35). -/
inductive EngineKind where
  | crane | stevedore | customs | codec | stream
  deriving DecidableEq, Repr

/-- The natural units of work a slice retires (R34, R152, R177, R197, R240): rows, accumulator rows, entries of a compaction pass and cycles
of a merge pass in runs of consecutive ones, a Stevedore's rows counted over its engine's share of the list; `linkFrame` encodes closed frames of a context and `frameDecode` decodes received ones,
both in runs counted from the first frame of the context. -/
inductive Work where
  | craneAdd (tile : Nat) (fromDevice : Bool) (src : Nat)
  | cranePass (tile : Nat)
  | rows (first count : Nat)
  | bag (j : Nat)
  | fill (first count : Nat)
  | writeOut (first count : Nat)
  | compaction (first count : Nat)
  | merge (first count : Nat)
  | block (i : Nat)
  | linkFrame (ctx first count : Nat)
  | frameDecode (ctx first count : Nat)
  | piece (offset bytes : Nat)
  deriving DecidableEq, Repr

/-- The descriptor of CRANE.COLLECTIVE (R159). -/
structure CraneDesc where
  collective : Nat
  op : Nat
  inFormat : Nat
  outFormat : Nat
  rounding : Nat
  policy : Nat
  tileCode : Nat
  flags : Nat
  charter : Nat
  memberCount : Nat
  sourceIndex : Nat
  memberTimeout : Nat
  elementCount : Nat
  memberList : Nat
  shardTiles : Nat
  programId : Nat
  seed : Nat
  outVa : Nat
  sealVa : Nat
  sealValue : Nat
  spillBase : Nat
  spillBytes : Nat
  deriving DecidableEq, Repr

/-- What a device that takes part in another device's Crane job holds of it as an attempt begins (R140, R142, R157): the job, the
device that runs it, and the tiles recorded as sealed. -/
structure CraneJoin where
  holder : Nat
  device : Nat
  slot : Nat
  hdr : JobHdr
  attempt : Nat
  seed : Nat
  desc : CraneDesc
  members : List Nat
  live : List Nat
  parts : List Nat
  done : List Nat
  deriving DecidableEq, Repr

/-- The descriptor of STEVEDORE.MOVE (R178). -/
structure StevDesc where
  op : Nat
  idxFormat : Nat
  spaces : Nat
  flags : Nat
  elemFormat : Nat
  outFormat : Nat
  rounding : Nat
  engines : Nat
  charter : Nat
  recordBytes : Nat
  indexOffset : Nat
  rowSize : Nat
  indexCount : Nat
  idxAddr : Nat
  srcAddr : Nat
  dstAddr : Nat
  rowCount : Nat
  baseAddr : Nat
  accBase : Nat
  bagAddr : Nat
  bagCount : Nat
  seed : Nat
  sealTable : Nat
  sealValue : Nat
  deriving DecidableEq, Repr

/-- The descriptor of the three CUSTOMS commands (R201). -/
structure CustDesc where
  op : Nat
  metric : Nat
  vecFormat : Nat
  spaces : Nat
  flags : Nat
  engines : Nat
  batch : Nat
  termCount : Nat
  charter : Nat
  dim : Nat
  k : Nat
  listCount : Nat
  rowCount : Nat
  storeAddr : Nat
  stride : Nat
  indexBase : Nat
  attrAddr : Nat
  schemaAddr : Nat
  queryAddr : Nat
  outAddr : Nat
  outCapacity : Nat
  programId : Nat
  workBase : Nat
  sealVa : Nat
  sealValue : Nat
  listAddr : Nat
  deriving DecidableEq, Repr

/-- The descriptor of CODEC.ENCODE and CODEC.DECODE (R242). -/
structure CodecDesc where
  op : Nat
  elemWidth : Nat
  spaces : Nat
  modeMask : Nat
  engines : Nat
  charter : Nat
  objectId : Nat
  rawBytes : Nat
  rawAddr : Nat
  indexAddr : Nat
  payloadBase : Nat
  sealVa : Nat
  sealValue : Nat
  deriving DecidableEq, Repr

/-- The descriptor of STREAM.SCHEDULE (R255). -/
structure StreamDesc where
  windowLayers : Nat
  tclass : Nat
  charter : Nat
  layerCount : Nat
  group : Nat
  prefetchCap : Nat
  leadTides : Nat
  startTide : Nat
  passTides : Nat
  passCount : Nat
  layerTable : Nat
  windowBase : Nat
  slotBytes : Nat
  shadowSlotBytes : Nat
  shadowBase : Nat
  deriving DecidableEq, Repr

/-- The block of COPY.RUN (R414). -/
structure CopyDesc where
  spaces : Nat
  charter : Nat
  bytes : Nat
  srcAddr : Nat
  dstAddr : Nat
  sealVa : Nat
  sealValue : Nat
  deriving DecidableEq, Repr

/-- The block of TIER.PLACE (R252); `tier` is the tier named, 1 in a well-formed command (R250). -/
structure PlaceDesc where
  tier : Nat
  charter : Nat
  objectId : Nat
  srcVa : Nat
  bytes : Nat
  stageAddr : Nat
  deriving DecidableEq, Repr

/-- The block of PILOT.PILOTQ (R321). -/
structure PilotqBlock where
  queue : Nat
  flags : Nat
  reserved : Nat
  rate : Nat
  burst : Nat
  latencyTarget : Nat
  deriving DecidableEq, Repr

/-- The source of a mirror session (R305): a port context (0 ingress, 1 egress, 2 both) or a value and mask over the
filter's five fields charter, source host, home device, opcode and traffic class. -/
inductive MirrorSource where
  | port (ctx direction : Nat)
  | flow (value mask : List Nat)
  deriving DecidableEq, Repr

/-- The operations of the lifeboat registers arrive on one of two paths (R421). -/
inductive LbPath where
  | window | sideband
  deriving DecidableEq, Repr

/-- The commands of the table (95_what_each_step_holds.md). -/
inductive Instr where
  -- mailbox commands
  | mboxPad (mailbox : Nat)
  | mboxNop (h : CmdHdr)
  | commandTake (mailbox : Nat)
  | berthConfigure (h : CmdHdr) (berth split : Nat) (ctxs : List CtxCfg)
  | linkCodec (h : CmdHdr) (ctx classMask elemWidth maxWait : Nat)
  | switchForwarding (h : CmdHdr) (ctx : Nat) (modes : List (Nat × Nat))
  | mirrorSession (h : CmdHdr) (session target : Nat) (src : MirrorSource)
  | sampleConfigure (h : CmdHdr) (ctx : Nat) (egress : Bool) (n : Nat)
  | pilotQueues (h : CmdHdr) (ctx cls pool count select : Nat)
  | pilotClass (h : CmdHdr) (cls alpha kind delayTarget k : Nat)
  | pilotPort (h : CmdHdr) (ctx : Nat) (weights : List Nat) (overhead : Nat)
  | pilotPilotq (h : CmdHdr) (b : PilotqBlock)
  | pilotHost (h : CmdHdr) (host maxOutstanding rate burst : Nat)
  | pilotStats (h : CmdHdr) (user : Bool) (first count : Nat) (clear : Bool)
  | manifestMap (h : CmdHdr) (index : Nat) (e : Entry) (atTide : Nat)
  | manifestRevoke (h : CmdHdr) (index atTide : Nat)
  | manifestWindow (h : CmdHdr) (charter win : Nat) (w : Window) (atTide : Nat)
  | manifestSync (h : CmdHdr) (source boundary : Nat) (entries : Tbl Entry) (windows : Tbl Window) (route : RouteMap)
      (routeEpoch : Nat)
  | routeCommit (h : CmdHdr) (m : RouteMap) (atTide : Nat)
  | compositionSet (h : CmdHdr) (c : Composition) (m : RouteMap) (atTide : Nat)
  | roleShift (h : CmdHdr) (host group : Nat) (join leave : List Nat) (atTide : Nat)
  | tideSetLength (h : CmdHdr) (code atTide : Nat)
  | redundancyGroup (h : CmdHdr) (delete : Bool) (g : Group) (atTide : Nat)
  | redundancyFormat (h : CmdHdr) (groupId limit atTide : Nat)
  | redundancyReplace (h : CmdHdr) (groupId member device tray module rate atTide : Nat)
  | charterCreate (h : CmdHdr) (charter : Nat) (confidential : Bool) (keySource : Nat) (key : Bytes) (atTide : Nat)
  | charterMembers (h : CmdHdr) (charter : Nat) (add remove : List Nat) (atTide : Nat)
  | charterRotate (h : CmdHdr) (charter keySource rate : Nat) (key : Bytes) (atTide : Nat)
  | charterRevoke (h : CmdHdr) (charter atTide : Nat)
  | confidentialEnter (h : CmdHdr)
  | jobqOpen (h : CmdHdr) (queue mailbox : Nat)
  | jobqClose (h : CmdHdr) (queue owner : Nat)
  | craneCollective (h : JobHdr) (d : CraneDesc)
  | stevedoreMove (h : JobHdr) (d : StevDesc)
  | customsScan (h : JobHdr) (d : CustDesc)
  | customsScore (h : JobHdr) (d : CustDesc)
  | customsMerge (h : JobHdr) (d : CustDesc)
  | codecEncode (h : JobHdr) (d : CodecDesc)
  | codecDecode (h : JobHdr) (d : CodecDesc)
  | streamSchedule (h : JobHdr) (d : StreamDesc)
  | streamStop (h : CmdHdr) (slot : Nat)
  | tierPlace (h : JobHdr) (d : PlaceDesc)
  | tierDrop (h : CmdHdr) (objectId stageAddr : Nat)
  | tierMigrate (h : CmdHdr) (tier charter objectId srcVa bytes : Nat) (dst : List Nat) (atTide : Nat)
  | tierQuery (h : CmdHdr) (objectId : Nat)
  | copyRun (h : JobHdr) (d : CopyDesc)
  | programKeyEnroll (h : CmdHdr) (slot : Nat) (key : Bytes)
  | programKeyClear (h : CmdHdr) (slot : Nat)
  | programLoadBlock (h : CmdHdr) (programId offset : Nat) (data : Bytes)
  | programCommit (h : CmdHdr) (programId totalLength deviceMask : Nat)
  | programUnload (h : CmdHdr) (programId deviceMask : Nat)
  | programQuery (h : CmdHdr) (programId : Nat)
  | fwLoadBlock (h : CmdHdr) (offset : Nat) (data : Bytes)
  | fwCommit (h : CmdHdr) (totalLength deviceMask : Nat) (holdupMv : Option Nat) (writeOk : Bool)
  | fwActivateAt (h : CmdHdr) (deviceMask release atTide : Nat)
  | fwMeasurements (h : CmdHdr) (start : Nat)
  | fwStatus (h : CmdHdr)
  | logbookFlush (h : CmdHdr) (holdupMv : Option Nat)
  | telemetrySamples (h : CmdHdr)
  | telemetryCounters (h : CmdHdr) (group start : Nat)
  -- the exchange of domain changes
  | domainChangeNotice (id : ChangeId) (c : Change) (atTide : Nat)
  | domainChangeReady (number member : Nat) (ok : Bool) (code : Nat)
  | domainChangeCommit (id : ChangeId)
  | domainChangeCancel (id : ChangeId)
  | changeReadyDeadline (number : Nat)
  | domainChangeApply
  | routeGraceEnd
  -- tide, ring and bypass
  | tideBoundary
  | tideMarkerReceive (east : Bool) (hops count : Nat) (offset : Int)
  | markerMissed
  | masterTakeover
  | ringSlotArrive (slot : RingSlot) (position : Nat)
  | snoopAnswer (slot : RingSlot)
  | slotReturn (slot : SlotBack)
  | dataSlotReceive (slot : RingSlot)
  | ringMeasure (east : Bool) (spanTenthsNs hops : Nat) (ident : Option RingFound)
  | ringLinkFail (link : Nat)
  | ringLinkRestore (link : Nat)
  | trainRestore
  | bypassReleaseRequest
  | bypassReleaseTimeout
  | bypassLeaveRequest
  | spliceRequest (site : Nat) (leave : Bool)
  | spliceGrant
  | splice
  | bypassClose
  | coreHeartbeatTimeout
  /-- `bad`: Stage granules whose reads meet an uncorrectable error, `corrected`: stacks of corrected errors (R487) -/
  | sliceRetire (kind : EngineKind) (engine slot : Nat) (w : Work) (bad corrected : List Nat)
  | tideOverrun (kind : EngineKind) (engine : Nat)
  | budgetRestore (kind : EngineKind) (engine : Nat)
  | powerSample (milliwatts : Nat)
  -- host requests
  | read (r : HostReq)
  | readAcq (r : HostReq)
  | acquire (r : HostReq)
  | write (r : HostReq)
  | writePartial (r : HostReq)
  | writeSeal (r : HostReq)
  | stow (r : HostReq)
  | atomic (r : HostReq)
  | regionPublish (r : HostReq)
  -- the coherent class
  | cReadShared (r : HostReq)
  | cReadOwn (r : HostReq)
  | cUpgrade (r : HostReq)
  | cWriteback (r : HostReq)
  | cEvictClean (r : HostReq)
  | cRecallAnswer (host line : Nat) (data : Option Bytes)
  | hostRecallTimeout (host line : Nat)
  | cStowFill (r : FabReq)
  | cStowFillAnswer (device line : Nat) (taken : Bool)
  | cSnoopDone (r : FabReq)
  | snoopRoundReturn (snoopId : Nat) (answers : List (Nat × Nat))
  | deadAgentNotice (device : Nat)
  | directoryScanDone (device : Nat)
  -- the home
  | homeAdmit (r : FabReq)
  | attemptFence (r : FabReq)
  | granuleBatchStart (entry offset : Nat)
  | trayResponse (request : Nat) (kind : Nat) (data : Bytes)
  | granuleBatchDone (entry offset : Nat)
  | sealTimeout (source window : Nat)
  | windowForget (source : Nat)
  | responseReceive (r : Resp)
  | loadLevelUpdate
  -- the link layer
  /-- `stamp` says where an engine-stream item that ends in the block is bound, none for one that ends here -/
  | blockReceive (ctx : Nat) (block : Bytes) (marked : Bool) (stamp : Option Stamp)
  /-- `pool`: 1 a REQ block, 2 an RSP block -/
  | cutItemArrive (ctx seq unit pool : Nat) (item : Bytes)
  | idle (ctx ack : Nat)
  | nak (ctx seq : Nat)
  | credit (ctx req rsp strm : Nat)
  | nakHoldoffExpire (ctx : Nat)
  | resendTimeout (ctx : Nat)
  | signalDetect (ctx : Nat)
  | equalizeLock (ctx : Nat)
  | blockLock (ctx : Nat)
  | identify (ctx : Nat) (ident : Ident)
  | ping (ctx : Nat)
  | pong (ctx rttTenthsNs : Nat)
  | initialCredit (ctx req rsp strm : Nat)
  | trainingTimeout (ctx : Nat)
  | laneFail (ctx lane : Nat)
  | spanSeqQuery (device ctx : Nat)
  | spanSeqAnswer (ctx seq : Nat)
  | spanAnswerTimeout (ctx : Nat)
  -- switch core and Pilot
  | planeMatch (plane : Nat)
  /-- `eccError`: 1 an uncorrectable error in the item's data, 2 in both copies of its header, 0 none -/
  | transmitSlot (ctx eccError : Nat)
  | pilotQueuesApply
  | latencySample
  -- engines
  | contribReceive (g : Segment)
  | partialReceive (g : Segment)
  | resultReceive (g : Segment)
  | tileOpen (slot tile : Nat)
  | memberTimeout (slot host : Nat)
  | exclusionNotice (slot host : Nat)
  | exclusionApply (slot host : Nat)
  | engineReadResponse (slot : Nat) (address : Nat) (poison : Bool) (data : Bytes) (bad corrected : List Nat)
  | engineJobStop (slot : Nat)
  /-- `join`: the attempt is of another device's Crane job in which this device takes part -/
  | attemptStart (slot : Nat) (join : Option CraneJoin)
  | linkFrameTimeout (ctx : Nat)
  | linkFrameReceive (ctx : Nat) (header payload : Bytes)
  | linkFrameAck (ctx seq : Nat)
  | linkFrameNack (ctx seq : Nat)
  | prefetchBlockLand (slot layer : Nat) (shadow : Bool) (block generation : Nat) (poison : Bool) (header : Bytes)
      (data : Bytes)
  | formRetranslate (slot layer : Nat) (shadow : Bool)
  | layerChoice (slot : Nat)
  | deliveryClose (slot : Nat)
  | streamAbandoned (slot : Nat)
  -- redundancy and loss
  | trayRequestTimeout (request : Nat)
  | moduleFailedNotice (device tray module count : Nat)
  | formatStep (groupId rows : Nat)
  | formatDone (groupId : Nat)
  | rebuildStep (groupId : Nat)
  | rebuildDoneReport (groupId device : Nat)
  | rebuildDone (groupId : Nat)
  | resyncStep (entry : Nat)
  | heartbeatReceive (device : Nat)
  | heartbeatTimeout (device : Nat)
  | hostDeath (host : Nat)
  | resetRequest (device epoch : Nat)
  -- acceptance and the logbook
  | replica (fromDev msgId fragOffset : Nat) (last : Bool) (r : LogRec)
  | replicaAck (fromDev logSeq : Nat) (full : Bool)
  | receiptClear (fromDev msgId jobDevice jobSlot : Nat)
  | clearAck (home jobDevice jobSlot : Nat)
  | replicaResendTimeout (logSeq : Nat)
  | jobComplete (slot : Nat)
  | flushComplete (ok : Bool)
  -- keys and charters
  | sweepPageStep (charter entry page : Nat)
  | rotationDoneReport (charter device : Nat)
  | rotationComplete (charter : Nat)
  | removalDoneReport (charter device poisoned refused stopped : Nat)
  | removalComplete (charter : Nat)
  | harbourKeyAgreement (ok : Bool) (key : Bytes)
  | pageMapTransfer (entry : Nat) (pages : Tbl Nat)
  | lighterRecord (lighter : Nat) (content sessionId counter : Nat) (authentic : Bool) (plaintext : Bytes)
  | lighterReadRetry (lighter : Nat)
  -- the host link and SPDM
  | mboxRead (tag offset length : Nat)
  | mboxWrite (tag offset : Nat) (data : Bytes)
  | getVersion (body : Bytes)
  | getCapabilities (body : Bytes)
  | negotiateAlgorithms (body : Bytes)
  | getDigests (body : Bytes)
  | getCertificate (slot offset length : Nat)
  | challenge (slot : Nat) (nonce : Bytes)
  | getMeasurements (index : Nat) (nonce : Bytes)
  | keyExchange (reqSession : Nat) (exchange : Bytes)
  | finish (sessionId : Nat) (verify : Bytes)
  | spdmUnsupported (code : Nat)
  -- programs and firmware
  | programImageReceive (issuer : Nat) (image : ProgramMsg)
  | programCommitAnswer (device code : Nat)
  | programStageExpire (programId : Nat)
  | fwImageReceive (issuer : Nat) (image : Bytes) (holdupMv : Option Nat) (writeOk : Bool)
  | fwCommitAnswer (device code : Nat)
  | fwPostReadyWrites (holdupMv : Option Nat)
  | fwSelectPending (holdupMv : Option Nat)
  | fwDoneReport (device : Nat)
  -- registers
  | cmdTailWrite (mailbox value : Nat)
  | cplHeadWrite (mailbox value : Nat)
  | evHeadWrite (value : Nat)
  | reasonClear (value : W32)
  | lighterEnable (lighter : Nat) (value : W32)
  | inTailWrite (lighter value : Nat)
  | outHeadWrite (lighter value : Nat)
  | tideCountLowRead (tag : Nat)
  | registerWrite (offset width : Nat) (value : W64)
  -- lifeboat operations
  | lifeboatStatus (path : LbPath) (issueId param : Nat)
  | freeze (path : LbPath) (issueId param : Nat)
  | dumpSnapshot (path : LbPath) (issueId param : Nat)
  | zeroizeCharter (path : LbPath) (issueId param : Nat)
  | zeroizeAll (path : LbPath) (issueId param : Nat)
  | ringBypassClose (path : LbPath) (issueId param : Nat)
  | lifeboatLogbookFlush (path : LbPath) (issueId param : Nat) (holdupMv : Option Nat)
  | subsystemReset (path : LbPath) (issueId param : Nat)
  | readMeasurements (path : LbPath) (issueId param : Nat)
  -- reset, power and pins
  | coldReset (vstby : Bool)
  | warmReset (ring : Bool)
  | resetRelease (bank0Ok bank1Ok ssdOk : Bool) (stageOk : StageFound) (bad corrected : List Nat)
  | railFault (rail : Nat)
  | thermalLimit (high : Bool)
  | holdupFail (holdupMv : Option Nat)
  | boardDeclWrite (decl : Bytes)
  | pmbusOther (command : Nat)
  | tapInstruction (code : Nat)
  -- ticks, boundaries and reads that carry nothing
  | groupDegraded
  | heartbeatSend
  | lossBoundary
  | asyncResend
  | logbookReplay
  | keyEpochTurn
  | confidentialEntry
  | fwStageExpire
  | fwActivation
  | hmWatchdog
  | hmHeartbeat
  | firmwareReady
  | thermtrip
  | inputPowerReturn
  | oneSecondPeriodEnd
  | lbStatusRead
  | statusWord
  | readTemperature1
  | readPout
  deriving DecidableEq, Repr

end Sys2Proof
end

