-- ==== Sys2Proof/Machine/State.lean ====
section
/-! DEFINITION. The state of one LZ6 as plain data. Every field's docstring reads: what it holds; width; file and rule of
spec/; value at reset. Tables are lists of (number, value) pairs with rising numbers; an absent number stands for the
value the docstring names. -/

namespace Sys2Proof.Machine
open Sys2Proof

/-- The bypass states of R29. -/
inductive Bypass where
  | closed | releasing | open | closing
  deriving DecidableEq, Repr

/-- The training states of a port context (R279). -/
inductive Train where
  | down | detect | equalize | align | identify | measure | credit | up | retrain
  deriving DecidableEq, Repr

/-- The core's reset state (R478, LB_STATUS reset_state). -/
inductive ResetState where
  | running | cold | warm | recovery
  deriving DecidableEq, Repr

/-- What the device transmits. The list of these is the model's own record of its outputs (log 2). -/
inductive Out where
  | response (host : Nat) (r : Resp)
  | request (r : FabReq)
  | answer (r : Resp)
  | recall (host line : Nat) (downgrade : Bool)
  /-- a message that leaves in no slot of this device's own: a MEASURE slot of ring training (R22), a splice request of a core
  that is not yet on the ring (R29, R30) -/
  | ring (east : Bool) (m : SlotMsg)
  | slot (s : RingSlot)
  | tray (id device tray module offset : Nat) (write : Bool) (data : Bytes)
  /-- a control block or the end of a block: 1 IDENTIFY, 2 NAK, 3 CREDIT, 4 PING, 5 PONG, 6 IDLE with an ack, 7 initial
  CREDIT, 8 a frame's acknowledgement, 9 a block ended with an inverted CRC, 10 a frame's NACK -/
  | link (ctx kind : Nat) (args : List Nat)
  | block (ctx seq : Nat) (resend : Bool) (payload : Bytes)
  | segment (host : Nat) (s : Segment)
  | partialTo (device : Nat) (s : Segment)
  /-- an attempt of a Crane job told to a device that takes part in it (R140; log 17) -/
  | join (device : Nat) (j : CraneJoin)
  | stream (s : StreamRec)
  /-- an engine-stream item returned to the device that sent it with 0x0507 (R56) -/
  | bounced (device : Nat) (stamp : Stamp) (item : Bytes)
  | frame (ctx seq : Nat) (raw : Bool) (header payload : Bytes)
  | signal (vector : Nat)
  | khl (tag : Nat) (r : Resp)
  | lighter (l : Nat) (content counter : Nat) (cipher : Bytes)
  | lighterRead (l offset : Nat)
  | ssd (offset : Nat) (data : Bytes)
  | spdm (code : Nat) (body : Bytes)
  | image (device : Nat) (kind : Nat) (data : Bytes)
  | pmbus (value : Option Nat)
  | tap (instruction : Nat)
  deriving DecidableEq, Repr

/-- The tide unit (02). -/
structure TideUnit where
  /-- Tide count (TIDE_COUNT); 64 bits; 02 R16, 22 R470; 0 -/
  count : Nat
  /-- Tide length code; 3 bits; 02 R14, 22 R470; 1 -/
  lengthCode : Nat
  /-- Boundary of the last marker received from the master; 64 bits; 02 R17; 0 (DESIGN CHOICE, log 4) -/
  lastMarker : Nat
  /-- A marker has been followed since the core started; 1 bit; 02 R16, 22 R470; false -/
  followed : Bool
  /-- Marker of the present boundary received; 1 bit; 02 R24; false -/
  markerSeen : Bool
  /-- Consecutive expected boundaries without a marker (TIDE_PHASE.missed); 8 bits; 02 R25, 22 R470; 0 -/
  missed : Nat
  /-- In tide lock (STATUS.tide_lock); 1 bit; 02 R25, 22 R468; false -/
  locked : Bool
  /-- Boundary of the last eastbound marker taken; 64 bits; 02 R24; none -/
  eastMark : Option Nat
  /-- Westbound markers that wait for the eastbound one of their boundary: count, hops and correction in 0.1 ns; list; 02 R24;
  empty -/
  wests : List (Nat × Nat × Int)
  /-- Device ID of the tide master; 6 bits; 02 R15, 22 R470; 0 -/
  master : Nat
  /-- A device is master on this ring and known to this device; 1 bit; 02 R15; false -/
  hasMaster : Bool
  /-- Hops from the master on the marker in use; 6 bits; 22 R470; 0 -/
  hops : Nat
  /-- This device's site; 6 bits; 22 R470; 0 -/
  site : Nat
  /-- Number of sites S, 0 before ring training; 7 bits; 22 R470; 0 -/
  sites : Nat
  /-- Last measured boundary offset from the master in 0.1 ns; 16 bits signed; 22 R470; 0 -/
  offset : Int
  /-- Phase correction applied to the counter, in 0.1 ns; signed; 02 R24; 0 (DESIGN CHOICE, log 4) -/
  phase : Int
  /-- Length code for which this tide's engine budgets are fixed; 3 bits; 02 R32, R35; 1 -/
  budgetCode : Nat
  /-- This tide's engine budgets are halved; 1 bit; 02 R32, 19 R419; false -/
  budgetHalved : Bool
  /-- This tide's engine budgets are lowered for power or heat; 1 bit; 01 R13, 02 R32, 21 R449; false -/
  budgetLow : Bool
  /-- Boundary at which this device originates as new master; 64 bits; 02 R17; none -/
  takeover : Option Nat
  /-- High half of TIDE_COUNT latched by a read of the low half; 32 bits; 22 R465; none -/
  latch : Option Nat
  deriving DecidableEq, Repr

/-- A message written into an owned slot, or waiting for one (R19, R28). -/
structure RingTx where
  east : Bool
  /-- the receiver, or none for a message to every member -/
  dest : Option Nat
  msg : SlotMsg
  /-- first byte of the message that this slot carries: a CONTROL message may take several slots -/
  at_ : Nat
  /-- slot number once written -/
  slot : Option Nat
  reissues : Nat
  routeEpoch : Nat
  compEpoch : Nat
  deriving DecidableEq, Repr

/-- A pending splice request or grant at the master (R30). -/
structure SpliceReq where
  site : Nat
  leave : Bool
  tide : Nat
  deriving DecidableEq, Repr

/-- The tide ring (02). -/
structure RingUnit where
  /-- Messages waiting for an owned slot or on their lap; list; 02 R19, R28; empty -/
  tx : List RingTx
  /-- Messages already handled, by sender and message identifier; list; 02 R28; empty -/
  handled : List (Nat × Nat)
  /-- Next message identifier; 16 bits; 02 R28, 17 R354; 0 (DESIGN CHOICE, log 4) -/
  nextMsg : Nat
  /-- Devices on the ring and their sites as ring training found them; table; 02 R18, R24; empty -/
  map : Tbl Nat
  /-- IDENTIFY of the next LZ6 site to the west (0) and the east (1); table; 02 R22; empty -/
  partners : Tbl Ident
  /-- The next eastbound slot leaves with tide_mark 1; 1 bit; 02 R17, R21; false -/
  markEast : Bool
  /-- The next westbound slot leaves with tide_mark 1; 1 bit; 02 R17, R21; false -/
  markWest : Bool
  /-- Slots of reserved type forwarded; count; 02 R23; 0 -/
  reservedSeen : Nat
  /-- Header CRC errors; count; 02 R23; 0 -/
  headerErrors : Nat
  /-- Ring messages discarded under a stale composition epoch; count; 03 R58; 0 -/
  staleDiscards : Nat
  /-- RESET_REQUESTs discarded; count; 21 R452; 0 -/
  resetDiscards : Nat
  /-- Failed ring link, by the site before it; 6 bits; 02 R26; none -/
  broken : Option Nat
  /-- Boundary of the announced restore; 64 bits; 02 R26; none -/
  restoreAt : Option Nat
  /-- Ring ports disabled by training, with the code; 16 bits; 02 R18, R22; none -/
  disabled : Option Nat
  /-- Splice requests pending at this device as master; list; 02 R30; empty -/
  splices : List SpliceReq
  /-- Splices granted by this device, with their boundaries; list; 02 R30; empty -/
  grants : List SpliceReq
  /-- Device heartbeats: the tide of the last one from each member; table; 16 R342; empty -/
  heartbeats : Tbl Nat
  /-- Span reports of R291 not yet followed by a heartbeat: tide of the report by device; table; 16 R342; empty -/
  spanReports : Tbl Nat
  /-- Devices declared lost and their loss boundaries; table; 16 R342; empty -/
  losses : Tbl Nat
  deriving DecidableEq, Repr

/-- Work of an engine (R34): the job's number, or 0 for a link frame, and the unit or the run of units. -/
structure Task where
  key : Nat
  work : Work
  deriving DecidableEq, Repr

/-- One engine's tide budget book (R34 to R36, R221). -/
structure EngineSt where
  /-- this tide's plan is skipped: a slice of an earlier tide still runs (R36) -/
  skipped : Bool
  /-- that slice's overrun is still to be raised (R36) -/
  late : Bool
  /-- tides of overruns, newest first -/
  overruns : List Nat
  /-- budget lowered by one eighth from the next boundary on -/
  lowered : Bool
  /-- this tide's budget is so lowered -/
  low : Bool
  /-- cycles issued this tide outside a plan: a bound codec engine's, a received frame's; bytes of a stream or copy job -/
  used : Nat
  /-- program held in the instruction store -/
  program : Option Nat
  /-- work in the order in which it became ready (R34, R38) -/
  ready : List Task
  /-- work of the slice issued at the last boundary and not yet retired, in its order (R34) -/
  plan : List Task
  /-- boundary by which a long slice is to have retired (R34) -/
  long : Option Nat
  /-- job to which a codec engine is bound (R241) -/
  bound : Option Nat
  /-- context whose received frames a codec engine without a plan has decoded this tide (R241) -/
  served : Option Nat
  deriving DecidableEq, Repr

/-- A Manifest charter entry (R376). Slot states: 0 EMPTY, 1 LIVE, 2 RETIRING, 3 REVOKED; states 0 FREE, 1 ACTIVE,
2 REMOVING. -/
structure Charter where
  state : Nat
  confidential : Bool
  epoch : Nat
  rotating : Bool
  slot0 : Nat
  slot1 : Nat
  createdTide : Nat
  deriving DecidableEq, Repr

/-- A domain change stored by a member (R50). -/
structure Notice where
  id : ChangeId
  change : Change
  atTide : Nat
  committed : Bool
  ready : Bool
  deriving DecidableEq, Repr

/-- A domain change this device issues (R50). `hdr` is absent for a change the device issues itself (R334). -/
structure Issued where
  number : Nat
  hdr : Option CmdHdr
  command : Nat
  change : Change
  atTide : Nat
  awaiting : List Nat
  committed : Bool
  applied : Bool
  reports : List Nat
  endAt : Option Nat
  tally : List Nat
  /-- code, detail and data of its RESULT, while the firmware is down (R420) -/
  outcome : Option (Nat × Option (Nat × Nat) × Bytes)
  deriving DecidableEq, Repr

/-- A MANIFEST.SYNC under way: what another member holds in force at the named boundary (R51). -/
structure ManSync where
  hdr : CmdHdr
  boundary : Nat
  entries : Tbl Entry
  windows : Tbl Window
  route : RouteMap
  routeEpoch : Nat
  deriving DecidableEq, Repr

/-- Manifest, windows, route maps, composition, charters, groups and domain changes (03, 16, 18). -/
structure Manifest where
  /-- Manifest entries by index, absent UNMAPPED; 524,288 x 256 bits; 03 R44; empty (cold reset clears, 21 R450) -/
  entries : Tbl Entry
  /-- Window descriptors by 8 x charter + window, absent disabled; 32,768 x 64 bits; 03 R41; empty -/
  windows : Tbl Window
  /-- Charter table, absent FREE; 4,096 x 128 bits; 18 R376; empty -/
  charters : Tbl Charter
  /-- Membership table: hosts by charter; 4,096 x 4,096 bits; 18 R376; empty -/
  members : Tbl (List Nat)
  /-- Group table by group number; 4,096 entries; 16 R330; empty -/
  groups : Tbl Group
  /-- Role group of each host; table; 03 R59; empty (DESIGN CHOICE, log 4) -/
  roles : Tbl Nat
  /-- Route map in force; map; 03 R56; empty (DESIGN CHOICE, log 4) -/
  route : RouteMap
  /-- Route-map epoch in force; 16 bits; 03 R56, 22 R470; 0 -/
  routeEpoch : Nat
  /-- Previous route map, while honoured; map; 03 R56; none -/
  prevRoute : Option RouteMap
  /-- Boundary at which the present map took effect; 64 bits; 03 R56; 0 (DESIGN CHOICE, log 4) -/
  routeSince : Nat
  /-- Composition in force; set; 03 R57; no member -/
  comp : Composition
  /-- Composition epoch in force; 16 bits; 22 R470; 0 -/
  compEpoch : Nat
  /-- Boundary at which the present composition took effect; 64 bits; 03 R58; 0 (DESIGN CHOICE, log 4) -/
  compSince : Nat
  /-- A composition change has taken effect since reset, so that the present one has a grace; 1 bit; 03 R52; false -/
  compTurned : Bool
  /-- MANIFEST.SYNC waiting for its boundary; 03 R51; none -/
  sync : Option ManSync
  /-- Domain changes stored as notice or commit; list; 03 R50, R490; empty -/
  notices : List Notice
  /-- Domain changes this device issues; list; 03 R49; empty -/
  issued : List Issued
  /-- Number of the next change this device issues; count; 03 R50; 0 (DESIGN CHOICE, log 4) -/
  nextChange : Nat
  /-- Charters not served because of a missed commit; list; 03 R51; empty -/
  desyncCharters : List Nat
  /-- Routes not served because of a missed commit; 1 bit; 03 R51; false -/
  desyncRoutes : Bool
  /-- Boundaries of route-map changes in force, by R52; list; 03 R52; empty -/
  routeChanges : List Nat
  deriving DecidableEq, Repr

/-- One part of a combined request, or a request held (R103 to R106). -/
structure Part where
  host : Nat
  opcode : Nat
  req : HostReq
  deriving DecidableEq, Repr

/-- A read window (R103). -/
structure ReadWin where
  granule : Nat
  entry : Nat
  charter : Nat
  generation : Nat
  tag : Nat
  parts : List Part
  barred : List Nat
  fill : Bool
  deriving DecidableEq, Repr

/-- A granule's atomic windows: the request outstanding at the home and the windows collecting behind it (R104). -/
structure AtomWin where
  granule : Nat
  tag : Nat
  sent : List Part
  collecting : List (List Part)
  deriving DecidableEq, Repr

/-- A request outstanding at the ingress device (R93, R323). -/
structure Outst where
  host : Nat
  ctx : Nat
  tag : Nat
  tclass : Nat
  opcode : Nat
  /-- the packet as sent; its tag and source are the host's, or the device's own for a window -/
  req : FabReq
  /-- sent, or joined to a window; false while it is held -/
  sent : Bool
  /-- a job's request held behind an earlier one of the job to a granule (R66) -/
  waits : Bool
  /-- book of the engine that issued it -/
  engine : Option Nat
  /-- reference cycle of admission -/
  since : Nat
  deriving DecidableEq, Repr

/-- A combining-cache line (R81, R388). -/
structure CacheLine where
  entry : Nat
  charter : Nat
  generation : Nat
  /-- tide of the fill -/
  filled : Nat
  cls : Nat
  data : Bytes
  deriving DecidableEq, Repr

/-- An agent filter entry (R111): state 1 S, 2 O; holders as hosts; `vector` the 16-bit holder vector. -/
structure FilterEnt where
  line : Nat
  entry : Nat
  generation : Nat
  charter : Nat
  /-- home under which the line was taken -/
  home : Nat
  /-- the pool virtual address by which each host asked for the line -/
  vas : Tbl Nat
  state : Nat
  holders : List Nat
  vector : Nat
  cached : Bool
  /-- coherent request outstanding, by opcode, with the host it serves -/
  asking : Option (Nat × Option Part)
  /-- release outstanding: 0x43 or 0x44, with the host to answer -/
  releasing : Option (Nat × Option Part)
  /-- recalls awaited: host, downgrade, why (0 local, 1 snoop, 2 eviction) -/
  recalls : List (Nat × Bool × Nat)
  dirty : Option Bytes
  /-- data newer than the home's that the owning host was given -/
  owed : Option Bytes
  /-- the owner died while other recalls of the line are awaited (R126) -/
  lost : Bool
  deriving DecidableEq, Repr

/-- Per-host policing state (R323, R326). -/
structure HostSt where
  maxOutstanding : Nat
  rate : Nat
  burst : Nat
  limit : Nat
  balance : Int
  llMax : Nat
  /-- classes in which requests have been held this tide (R323, R326) -/
  heldThisTide : List Nat
  /-- one record per USER class: class, high-water outstanding, high-water latency in ns, held tides -/
  records : List (Nat × Nat × Nat × Nat)
  deriving DecidableEq, Repr

/-- The ingress side of the transaction engine and the combining unit (05, 06, 15). -/
structure Ingress where
  /-- Requests outstanding; table; 05 R93; empty -/
  outst : List Outst
  /-- Next tag of the device's own requests; 16 bits; 05 R89; 0 (DESIGN CHOICE, log 4) -/
  nextTag : Nat
  /-- Writes refused at ingress, by host, home and window; list; 04 R75; empty -/
  refused : List (Nat × Nat × Nat)
  /-- Requests held by same-address order, in arrival order; list; 04 R67, 05 R106, 14 R299; empty -/
  held : List Part
  /-- Requests held by policing, in arrival order; list; 15 R323; empty -/
  policed : List Part
  /-- Open read windows; at most 4,096 windows with the atomic ones; 05 R103, R105; empty -/
  reads : List ReadWin
  /-- Atomic windows; list; 05 R104; empty -/
  atoms : List AtomWin
  /-- Requests sent uncombined for want of combining room; count; 05 R105; 0 -/
  uncombined : Nat
  /-- Combining-cache lines by granule; 64 MiB; 04 R81, 05 R103; empty -/
  cache : Tbl CacheLine
  /-- Agent filter, oldest first; at most 524,288 C lines; 06 R111, R112; empty -/
  filter : List FilterEnt
  /-- Snoops answered: owner site, the snoop, the answer and the reference cycle; list; 06 R120; empty -/
  snooped : List (Nat × SnoopReq × Nat × Nat)
  /-- Ranges that each host has acquired: host, charter, start and granules; list; 04 R80; empty -/
  acquired : List (Nat × Nat × Nat × Nat)
  /-- Coherent requests waiting for an eviction or a line in change; list; 06 R112, R116; empty -/
  waiting : List Part
  /-- Per-host limits and records; table by host; 15 R323, R326; empty (absent: reset values of R323) -/
  hosts : Tbl HostSt
  /-- USER records as they are reported in confidential mode, by 16 x host + class; table; 18 R400; empty -/
  shown : Tbl (Nat × Nat × Nat)
  /-- Responses of unknown opcode discarded; count; 05 R96; 0 -/
  badResponses : Nat
  /-- Uncertain granules by lost device: device, entry, offset; list; 16 R343; empty -/
  uncertain : List (Nat × Nat × Nat)
  /-- Devices declared lost whose homes are refused; list; 16 R343; empty -/
  lostHomes : List Nat
  /-- Hosts declared dead; list; 16 R345, 06 R125; empty -/
  deadHosts : List Nat
  deriving DecidableEq, Repr

/-- One seal window of a source at this home (R73). -/
structure SealWin where
  window : Nat
  landed : Nat
  refused : Nat
  /-- a held seal and the tide it arrived -/
  held : Option (FabReq × Nat)
  charters : List Nat
  deriving DecidableEq, Repr

/-- A source's window state at this home (R76). Sources are numbered hosts by ID, devices' jobs from 4,096 up. -/
structure SealSrc where
  newest : Nat
  wins : List SealWin
  lastOpened : Nat
  /-- landed counts of the windows seen and closed (R95) -/
  closed : Tbl Nat
  deriving DecidableEq, Repr

/-- An access queued for a granule (R109): the request's number and its step's place. -/
structure Access where
  id : Nat
  req : FabReq
  /-- byte of the granule at which the step begins, and its bytes -/
  lo : Nat
  len : Nat
  /-- bytes of the request before this step -/
  skip : Nat
  /-- counted in the drain of a revoked generation -/
  drain : Bool
  /-- the entry under which it was admitted -/
  ent : Entry
  deriving DecidableEq, Repr

/-- A request under way at the home: steps left, worst outcome so far (0 done, 1 poison, 2 refuse), its code and
address, and the data read (R63). -/
structure HomeReq where
  id : Nat
  req : FabReq
  left : Nat
  worst : Nat
  code : Nat
  codeAt : Nat
  data : Tbl Bytes
  deriving DecidableEq, Repr

/-- A step under way on a granule, a page or a row (R109, R335, R395): kind 0 a batch of accesses, 1 a sweep of a page,
2 a row rebuilt, 3 a row resynced, 4 a row formatted; stage 0 snooping, 1 reading, 2 writing. -/
structure Batch where
  kind : Nat
  /-- entry and page, or group and row -/
  place : Nat × Nat
  accesses : List Access
  stage : Nat
  /-- tray requests awaited -/
  awaiting : List Nat
  /-- what the trays answered, by 16 x row + member: none poison -/
  got : Tbl (Option Bytes)
  /-- outcome of each access: its number, 0 done 1 poison 2 refused 3 conflict, the code, the data -/
  outcomes : List (Nat × Nat × Nat × Bytes)
  /-- data an owner returned for the line -/
  dirty : Option Bytes
  /-- an owner's data is lost -/
  lost : Bool
  /-- the step writes a whole page -/
  whole : Bool
  /-- the granule's value after the accesses -/
  final : Bytes
  deriving DecidableEq, Repr

/-- One granule's queue (R109). -/
structure GranQ where
  queue : List Access
  batch : Option Batch
  deriving DecidableEq, Repr

/-- A request to a tray (R275): `key` is the queue whose step awaits it, `cell` 16 x row + member. -/
structure TrayReq where
  id : Nat
  device : Nat
  tray : Nat
  module : Nat
  offset : Nat
  write : Bool
  key : Nat
  cell : Nat
  since : Nat
  /-- Its 20 µs have passed (R336). -/
  late : Bool
  deriving DecidableEq, Repr

/-- The keeper's formatting of a group: the next row, and bytes zeroed on each member in this tide (R334). -/
structure Formatting where
  next : Nat
  spent : Nat
  deriving DecidableEq, Repr

/-- A home directory entry (R114): state 1 SHARED, 2 OWNED. -/
structure DirEnt where
  line : Nat
  entry : Nat
  generation : Nat
  /-- the entry under which the line was taken -/
  ent : Entry
  state : Nat
  presence : List Nat
  busy : Bool
  donePending : Nat
  deriving DecidableEq, Repr

/-- A snoop round (R121): `recall` for a RECALL, retries counted, devices still to ask and those awaited. -/
structure Round where
  snoopId : Nat
  line : Nat
  kind : Nat
  requester : Nat
  ask : List Nat
  awaiting : List Nat
  retries : Nat
  /-- devices whose data came before their answer -/
  early : List Nat
  data : Option Bytes
  lost : Bool
  /-- the queue whose batch waits for the round -/
  granule : Option Nat
  /-- the round recalls a line of a revoked or remapped entry and counts in its drain -/
  drain : Option Nat
  deriving DecidableEq, Repr

/-- A rebuild of a member by this device (R340): extents or keeper ranges in order, with the cursor of each. -/
structure Rebuild where
  groupId : Nat
  member : Nat
  rate : Nat
  /-- first row, row past the last, cursor -/
  ranges : List (Nat × Nat × Nat)
  /-- bytes written this tide -/
  spent : Nat
  reported : List Nat
  atTide : Nat
  deriving DecidableEq, Repr

/-- An extent that TIER.MIGRATE copies to its new storage at its home (R254, R390): the entry as it will be, the byte offset
reached, the change. -/
structure Move where
  entry : Nat
  target : Entry
  next : Nat
  id : ChangeId
  deriving DecidableEq, Repr

/-- The home agent: queues, seals, fences, receipts, directory, redundancy (04 to 06, 16 to 18). -/
structure Home where
  /-- Granule queues by 2^24 x entry + granule of the extent; queue; 05 R109; empty -/
  queues : Tbl GranQ
  /-- Accesses waiting in the shared buffer for a full queue; list; 05 R109; empty -/
  waiting : List FabReq
  /-- Requests under way; list; 04 R63; empty -/
  reqs : List HomeReq
  /-- Next request number of the home; count; 05 R109; 0 (DESIGN CHOICE, log 4) -/
  nextId : Nat
  /-- Seal-window state by source; table; 04 R73, R76; empty -/
  seals : Tbl SealSrc
  /-- Fence entries by 4,096 x job device + slot: attempt; 4,096 entries; 04 R85; empty -/
  fences : Tbl Nat
  /-- Receipts: attempt and tide of each SEALED entry; 262,144 x 128 bits; 17 R363; empty -/
  receipts : Tbl (Nat × Nat)
  /-- Drain counts by entry, with the change whose issuer learns of the end; counts; 03 R54; empty -/
  drains : Tbl (Nat × Option ChangeId)
  /-- Home directory, oldest entry first; 4,194,304 entries; 06 R114; empty -/
  dir : List DirEnt
  /-- Snoop rounds under way; at most 256 lines; 06 R119, R121; empty -/
  rounds : List Round
  /-- Next snoop identifier; 16 bits; 06 R119; 0 (DESIGN CHOICE, log 4) -/
  nextSnoop : Nat
  /-- Dead devices; list; 06 R125; empty -/
  dead : List Nat
  /-- Reference cycle of the first 0b0000 that each device's site answered to this home; table; 06 R125; empty -/
  zeros : Tbl Nat
  /-- Lines poisoned for dead agents and not yet reported; count by device; 06 R126; empty -/
  linesPoisoned : Tbl Nat
  /-- Requests to trays under way; list; 13 R275; empty -/
  trays : List TrayReq
  /-- Next tray request number; count; 13 R275; 0 (DESIGN CHOICE, log 4) -/
  nextTray : Nat
  /-- Modules treated as failed: device, tray, module; list; 16 R336; empty -/
  failed : List (Nat × Nat × Nat)
  /-- Unanswered requests of the last 1 ms: module and reference cycle; list; 16 R336; empty -/
  timeouts : List (Nat × Nat)
  /-- Granules answered POISON in the last 1 ms: module, offset and reference cycle; list; 16 R336; empty -/
  poisons : List (Nat × Nat × Nat)
  /-- Notices of failed modules for the next boundary; list; 16 R336; empty -/
  failNotices : List (Nat × Nat × Nat × Nat)
  /-- Groups reported lost and not whole since; list; 16 R337; empty -/
  lostGroups : List Nat
  /-- Rebuilds under way; list; 16 R340; empty -/
  rebuilds : List Rebuild
  /-- Formatting cursors of groups this device keeps: next row and the tide's bytes; table; 16 R334; empty -/
  formats : Tbl Formatting
  /-- Resync cursors of re-homed extents: entry and next row, and rows done out of order; table; 16 R344; empty -/
  resyncs : Tbl (Nat × List Nat)
  /-- Page map: 4 bits by 2^18 x entry + page: 8 written, low 2 bits the epoch; 2 GiB; 18 R386; empty -/
  pages : Tbl Nat
  /-- Extents whose page map is awaited from another home; list; 18 R390; empty -/
  pageWait : List Nat
  /-- Extents whose page map goes to another home once their drain is over; list; 18 R390; empty -/
  pageSend : List Nat
  /-- Extents being copied by TIER.MIGRATE; list; 12 R254, 18 R390; empty -/
  moves : List Move
  /-- Load level LL; 3 bits; 05 R98; 0 -/
  ll : Nat
  deriving DecidableEq, Repr

/-- A whole transaction or a part of an engine-stream item, as the switch core carries it (R282, R283). -/
structure Item where
  bytes : Bytes
  /-- opcode of a request or response, 0 for an engine-stream item -/
  opcode : Nat
  /-- the charter, where the device knows it (R306) -/
  charter : Option Nat
  /-- source of a request, responder of a response, sender of an engine-stream item (R313) -/
  source : Nat
  home : Nat
  deriving DecidableEq, Repr

/-- A cell in its virtual output queue (R295): where it came from, where it goes, and its items. `place` says what holds it:
0 its port's reserve, 1 the shared part, 2 its pilot queue's reserve, 3 the ingress input buffer (R294, R316). -/
structure Cell where
  id : Nat
  ingress : Nat
  ctx : Nat
  queue : Nat
  voqSeq : Nat
  pool : Nat
  tclass : Nat
  items : List Item
  /-- an engine-stream item's channel, first, last and kind -/
  channel : Nat
  first : Bool
  last : Bool
  itemKind : Nat
  place : Nat
  eligible : Bool
  /-- reference cycle at which it became eligible -/
  since : Nat
  /-- changes of its base queue before it was enqueued (R314) -/
  era : Nat
  /-- multicast group, against which its cell is counted (R315) -/
  group : Option Nat
  /-- context and sequence number of the block it arrived in -/
  origin : Option (Nat × Nat)
  /-- taken under CUT from a block not yet judged -/
  cutThrough : Bool
  deriving DecidableEq, Repr

/-- Configured and running state of a port context (R272 to R291); number 256 is the host link (R442). -/
structure PortCtx where
  berth : Nat
  part : Nat
  role : Nat
  host : Nat
  coherent : Bool
  enable : Bool
  train : Train
  cause : Nat
  lanes : Nat
  partner : Option Ident
  nextTx : Nat
  nextRx : Nat
  lastAck : Nat
  /-- blocks sent and not acknowledged: sequence number and the cell each carried -/
  kept : List (Nat × Cell)
  nakFor : Option Nat
  resends : Nat
  replay : Bool
  txCredit : List Nat
  txTotal : List Nat
  rxCredit : List Nat
  rxTotal : List Nat
  pings : List Nat
  fecMarks : List Nat
  /-- open STRM items by channel: item kind and bytes so far -/
  channels : Tbl (Nat × Bytes)
  /-- tide at which the partner was asked for its last sequence number (R291) -/
  spanWait : Option Nat
  /-- sequence number and first unit of each item taken under CUT from the block now arriving -/
  cut : List (Nat × Nat)
  /-- EQUALIZE finished in the present retrain -/
  locked : Bool
  /-- REQ credits not returned while requests of the host are held (R323) -/
  owed : Nat
  /-- STRM credits not returned while segments that came here wait for deck or spill room (R151) -/
  owedStream : Nat
  /-- open items of the sending side by channel: 256 x ingress port + channel there (R283) -/
  txOpen : Tbl Nat
  /-- lanes that have failed (R278) -/
  bad : List Nat
  deriving DecidableEq, Repr

/-- A link frame under way on a span context (R246); it takes its sequence number when it is sent. `since` is the reference
cycle at which it was closed. -/
structure Frame where
  seq : Nat
  since : Nat
  /-- its items in order, with pool and class -/
  items : List (Nat × Nat × Item)
  deriving DecidableEq, Repr

/-- LINK.CODEC configuration and frames of a context (R246). -/
structure LinkCodec where
  classMask : Nat
  elemWidth : Nat
  maxWait : Nat
  gather : List (Nat × Nat × Item)
  /-- reference cycle at which the oldest gathered item came -/
  since : Nat
  nextSeq : Nat
  /-- frames closed and waiting for a codec engine -/
  closed : List Frame
  /-- frames sent and not acknowledged -/
  sent : List Frame
  rxSeq : Nat
  /-- frames received and waiting for a codec engine: header and payload (R240, R241) -/
  rx : List (Bytes × Bytes)
  /-- frames that have left `closed`, and `rx`, so far -/
  closedBase : Nat
  rxBase : Nat
  deriving DecidableEq, Repr

/-- The berths and their link layer (13, 11). -/
structure Ports where
  /-- Split code of each berth; 128 x 2 bits; 13 R272; empty, absent 0 (DESIGN CHOICE, log 4) -/
  splits : Tbl Nat
  /-- Port contexts by number, 256 the host link; 257 contexts; 13 R273, 21 R442; only the host link, DOWN -/
  ctxs : Tbl PortCtx
  /-- Link compression by context; table; 11 R246; empty -/
  codecs : Tbl LinkCodec
  deriving DecidableEq, Repr

/-- A sampler (R308). -/
structure Sampler where
  ctx : Nat
  egress : Bool
  n : Nat
  skip : Nat
  taken : Nat
  dropped : Nat
  deriving DecidableEq, Repr

/-- The switch core (14). -/
structure Switch where
  /-- Cells in the shared buffer, in order of arrival; 393,216 cells; 14 R294, R295; empty -/
  cells : List Cell
  /-- Name of the next cell; count; 14 R295; 0 (DESIGN CHOICE, log 4) -/
  nextCell : Nat
  /-- Next voq_seq by virtual output queue, 2^14 x ingress port + queue; 12 bits each; 14 R295; empty -/
  seqs : Tbl Nat
  /-- Grant pointers of the outputs, by 428 x plane + output; 428 per plane; 14 R298; 0 (DESIGN CHOICE, log 4) -/
  grant : Tbl Nat
  /-- Accept pointers of the inputs, by 428 x plane + input; 428 per plane; 14 R298; 0 (DESIGN CHOICE, log 4) -/
  accept : Tbl Nat
  /-- Last match of each plane: input and output pairs; list; 14 R297; empty -/
  matched : Tbl (List (Nat × Nat))
  /-- CUT mode by 16 x context + class, absent STORE; 256 x 16 bits; 14 R300; STORE -/
  cut : List Nat
  /-- Mirror sessions by number; 8; 14 R305; empty -/
  mirrors : Tbl (Nat × MirrorSource)
  /-- Mirror copies dropped, by session; counts; 14 R306; empty -/
  mirrorDrops : Tbl Nat
  /-- Samplers; at most 512; 14 R308; empty -/
  samplers : List Sampler
  /-- Sample ring, oldest first; 14,563 records of 144 bytes; 14 R309; empty -/
  samples : List Bytes
  /-- Sample records delivered this tide; count; 14 R310; 0 -/
  samplesThisTide : Nat
  /-- Items withdrawn; count; 14 R301; 0 -/
  withdrawn : Nat
  /-- Multicast items discarded for a missing group; count; 14 R303; 0 -/
  groupMisses : Nat
  deriving DecidableEq, Repr

/-- A pilot queue (R319 to R322, R328). -/
structure PilotQ where
  queue : Nat
  rate : Nat
  burst : Nat
  latencyTarget : Nat
  grantTide : Nat
  /-- credit in thousandths of a byte -/
  credit : Int
  /-- reference cycle up to which the credit is counted -/
  since : Nat
  /-- rate now owed, MB/s -/
  owed : Nat
  /-- cleared, its reserve still holding cells (R322) -/
  ending : Bool
  deriving DecidableEq, Repr

/-- A child of a fair queuing node (R320). -/
structure FairChild where
  start : Nat
  finish : Nat
  active : Bool
  weight : Nat
  deriving DecidableEq, Repr

/-- A fair queuing node (R320). -/
structure FairNode where
  v : Nat
  ptr : Nat
  children : Tbl FairChild
  deriving DecidableEq, Repr

/-- A DATA queue's latency record (R325). -/
structure QueueRec where
  lastDepth : Nat
  maxDepth : Nat
  lastDelay : Nat
  maxDelay : Nat
  overTarget : Nat
  streak : Nat
  deriving DecidableEq, Repr

/-- Pilot (15). -/
structure Pilot where
  /-- Sub-queues of a base queue, with the select rule; table by base queue; 15 R313; empty -/
  subs : Tbl (List Nat × Nat)
  /-- Sub-queue changes for the next boundary; list; 15 R314; empty -/
  pendingSubs : List (Nat × List Nat × Nat)
  /-- Queues released and not yet empty; list; 15 R314; empty -/
  releasing : List Nat
  /-- Alpha code of each class; 16 x 3 bits; 15 R315; 4 -/
  alpha : Tbl Nat
  /-- Kind of each class, true DATA; 16 bits; 15 R324; classes 8 to 15 DATA -/
  kinds : Tbl Bool
  /-- Delay target of each class in ns, 0 none; 15 R324; 0 -/
  targets : Tbl Nat
  /-- Sampling exponent k of each class; 4 bits; 15 R325; 4 -/
  ks : Tbl Nat
  /-- Length overhead of each context; 8 bits; 15 R317; 16 -/
  overheads : Tbl Nat
  /-- Class weights by 16 x context + class; 15 R320; 64 -/
  weights : Tbl Nat
  /-- Fair queuing nodes: 17 x context the class node, 17 x context + 1 + class the queue nodes; 15 R320; empty -/
  nodes : Tbl FairNode
  /-- Enabled pilot queues in grant order; at most 64; 15 R319; empty -/
  pilots : List PilotQ
  /-- Rotating pointer over pilot queues by context; 15 R318, R37; 0 (DESIGN CHOICE, log 4) -/
  pilotPtr : Tbl Nat
  /-- Latency records by queue; 128 bits; 15 R325; empty -/
  recs : Tbl QueueRec
  /-- Cells resent under R291 at the head of a span context; table; 15 R318; empty -/
  resends : Tbl (List Cell)
  /-- Changes of each base queue that have taken effect; table; 15 R314; empty, absent 0 -/
  eras : Tbl Nat
  /-- Queue named for the transmit slot of each context; 14 bits; 15 R318; none -/
  named : Tbl Nat
  deriving DecidableEq, Repr

/-- A contribution or partial of a tile (R142, R150): `spilled` is the Stage address of one written to the spill area (R151), whose
pieces are then empty. -/
structure Contrib where
  fromDevice : Bool
  src : Nat
  pieces : List (Nat × Bytes)
  members : Nat
  added : Bool
  poison : Bool
  spilled : Option Nat
  deriving DecidableEq, Repr

/-- A tile of a Crane job on this device (R150 to R157): `passed` once its result has been formed, `sealed` once it counts as
sealed, `sent` the member count of the partial last sent, `sat` and `nan` the elements its pass saturated and made NaN. -/
structure Tile where
  opened : Bool
  contribs : List Contrib
  acc : List (BitVec 64)
  count : Nat
  poison : Bool
  passed : Bool
  sealed : Bool
  sent : Option Nat
  sat : Nat
  nan : Nat
  deriving DecidableEq, Repr

/-- Progress of a Crane job (R143 to R161): members declared and live, the tide of each member's last segment, exclusions for
the next boundary, tiles, and segments that wait for deck or spill room. -/
structure CraneSt where
  members : List Nat
  live : List Nat
  /-- participating devices of the present attempt -/
  parts : List Nat
  heard : Tbl Nat
  /-- lowest member count that a partial of each device has carried in the attempt (R154) -/
  counts : Tbl Nat
  excluded : List Nat
  firstDead : Option Nat
  tiles : Tbl Tile
  waiting : List Segment
  sealedTiles : Nat
  shortTiles : Nat
  lastUsed : Nat
  saturated : Nat
  inOverflow : Nat
  poisonedTiles : Nat
  nanOut : Nat
  discarded : Nat
  deriving DecidableEq, Repr

/-- Progress of a Stevedore job (R166 to R180). -/
structure StevSt where
  /-- accumulator rows whose filling was issued, and those whose writing out was issued -/
  filled : Nat
  written : Nat
  /-- list positions issued, by engine, counted from the start of its range or over its bags in order -/
  issued : Tbl Nat
  /-- accumulator rows whose base reads have not all landed, in order -/
  waitFill : List Nat
  /-- engine and list position of rows issued whose reads have not all landed, in the engine's order -/
  waitRows : List (Nat × Nat)
  /-- rows of bags that have landed, by list position: none poison, empty one that is skipped (R171) -/
  held : Tbl (Option Bytes)
  /-- bags summed and written -/
  bags : List Nat
  indices : Nat
  oob : Nat
  poisoned : List Nat
  /-- some index was poisoned -/
  indexLost : Bool
  /-- a RUNS list in pool has landed whole and its expanded size was taken into account (R165, R178) -/
  sized : Bool
  deriving DecidableEq, Repr

/-- Progress of a Customs job (R186 to R203), its engines' scratch with it (R182): the query partition, loaded at the attempt's start, the
sorters by 64 x engine + query with (score, index) best first, the staged matches, and the blocks of a compressed store that its
codec engines have decoded into the ingest buffers. -/
structure CustSt where
  /-- queries loaded; none poison (R198) -/
  queries : Tbl (Option Bytes)
  /-- blocks decoded for an engine, by 2^48 x (2 x engine + store) + block, the attribute store 1; none poison (R197) -/
  decoded : Tbl (Option Bytes)

  /-- rows examined, by engine -/
  cursor : Tbl Nat
  /-- poisoned queries -/
  badQueries : List Nat
  examined : Nat
  passed : Nat
  poisoned : Nat
  nan : Nat
  incomplete : Bool
  sorters : Tbl (List (BitVec 32 × Nat))
  matches_ : Tbl (List Nat)
  /-- cycles of the merge pass, or entries of the compaction pass, done -/
  passDone : Nat
  merged : Bool
  truncated : Bool
  deriving DecidableEq, Repr

/-- Progress of a codec job (R244, R245). -/
structure CodecSt where
  /-- blocks handled, by engine -/
  cursor : Tbl Nat
  blocks : Nat
  blocksPoisoned : Nat
  firstBad : Option (Nat × Nat)
  storedTotal : Nat
  deriving DecidableEq, Repr

/-- A block of a form in its slot (R260): the entries and generations it was read under, whether it is poisoned or
malformed, its stored bytes and where they lie behind the slot's headers. -/
structure FormBlock where
  index : Nat
  gens : List (Nat × Nat)
  bad : Bool
  stored : Nat
  offset : Nat
  deriving DecidableEq, Repr

/-- A form of a layer in its slot (R259, R260), by the layer's global number, or its index in a resident schedule. -/
structure FormSt where
  g : Nat
  shadow : Bool
  blocks : List FormBlock
  available : Bool
  deriving DecidableEq, Repr

/-- A delivery under way (R265), with the layer bytes sent so far. -/
structure Delivery where
  shadow : Bool
  opened : Nat
  deadline : Nat
  poison : Bool
  bytes : Bytes
  /-- tide in which its first poisoned block was found (R267) -/
  poisonAt : Option Nat
  deriving DecidableEq, Repr

/-- Progress of a stream schedule (R259 to R270): the pass and layer to deliver, the first boundary at which it may start, and
the bytes of pool reads asked this tide. -/
structure StreamSt where
  pass : Nat
  layer : Nat
  forms : List FormSt
  delivery : Option Delivery
  earliest : Nat
  asked : Nat
  full : Nat
  shadows : Nat
  late : Nat
  poisoned : Nat
  abandoned : Nat
  deriving DecidableEq, Repr

/-- Progress of a copy or placement job (R415). -/
structure CopySt where
  copied : Nat
  granulesPoisoned : Nat
  deriving DecidableEq, Repr

/-- A job's descriptor. -/
inductive JobDesc where
  | crane (d : CraneDesc) | stev (d : StevDesc) | cust (d : CustDesc) | codec (d : CodecDesc)
  | stream (d : StreamDesc) | copy (d : CopyDesc) | place (d : PlaceDesc)
  deriving DecidableEq, Repr

/-- A job's engine progress. -/
inductive JobSt where
  | crane (p : CraneSt) | stev (p : StevSt) | cust (p : CustSt) | codec (p : CodecSt)
  | stream (p : StreamSt) | copy (p : CopySt)
  deriving DecidableEq, Repr

/-- Where a job stands (R350, R361, R368): offered, accepted, its ATTEMPT record waiting for the buddy, running an attempt, stopping with a code at the next boundary,
its COMPLETE record waiting for the buddy, completion posted, DELIVERED, RETIRE written. -/
inductive JobPhase where
  | offered | accepted | starting | running | stopping (code : Nat) | completing | posted | delivered | retiring
  deriving DecidableEq, Repr

/-- A pool read of a job as it landed: the book of the engine that asked for it, its fabric address, poison, bytes. -/
structure Landed where
  engine : Option Nat
  address : Nat
  poison : Bool
  data : Bytes
  deriving DecidableEq, Repr

/-- A job (17). -/
structure Job where
  slot : Nat
  device : Nat
  command : Nat
  hdr : JobHdr
  desc : JobDesc
  /-- the Stage tables its ACCEPT record carries (R358) -/
  attach : Bytes
  phase : JobPhase
  attempt : Nat
  attempts : Nat
  /-- tide in which the present attempt began, and the first one -/
  startTide : Nat
  firstTide : Option Nat
  /-- seed of the attempt's stochastic rounding (R137) -/
  seed : Nat
  stageBound : Bool
  awaitFence : List Nat
  fenced : List Nat
  /-- writes of the attempt sent, by home -/
  sent : Tbl Nat
  sealsSent : Bool
  sealed : List Nat
  reason : Nat
  st : JobSt
  /-- reads landed and not yet used (R164, R182) -/
  landing : List Landed
  /-- addresses of the attempt's writes that were answered POISON -/
  badWrites : List Nat
  result : Bytes
  clears : List Nat
  log : List Nat
  /-- the device that runs a job in which this device only takes part (R140) -/
  guest : Option Nat
  deriving DecidableEq, Repr

/-- A T1 copy (R252). -/
structure TierCopy where
  objectId : Nat
  charter : Nat
  srcVa : Nat
  stageAddr : Nat
  bytes : Nat
  sources : List (Nat × Nat)
  /-- the job that makes it -/
  job : Nat
  usable : Bool
  deriving DecidableEq, Repr

/-- A job queue (R349, R373): `owner` is the device it belongs to. -/
structure JobQueue where
  queue : Nat
  owner : Nat
  next : Nat
  mailbox : Nat
  viaLighter : Bool
  deriving DecidableEq, Repr

/-- An ACCEPT message awaiting its answer (R355). -/
structure AcceptTx where
  msgId : Nat
  dest : Nat
  clear : Option (Nat × Nat)
  record : Option LogRec
  sync : Bool
  resends : Nat
  sentTide : Nat
  deriving DecidableEq, Repr

/-- Who started a flush: a mailbox command, a lifeboat operation on a path, the power failure, or the device's own reset (R371,
R422, R453, R459). -/
inductive FlushOwner where
  | command (h : CmdHdr)
  | lifeboat (window : Bool)
  | powerFail
  | selfReset
  deriving DecidableEq, Repr

/-- The acceptance unit and logbook (17). -/
structure Accept where
  /-- Job queues open, own and adopted; 256 own; 17 R349, R373; empty -/
  queues : List JobQueue
  /-- Queues other devices hold open, as they announced them: holder, queue, owner; list; 17 R373 (log 17); empty -/
  peers : List (Nat × Nat × Nat)
  /-- Jobs holding a slot, and jobs adopted; 4,096 slots; 17 R351; empty -/
  jobs : List Job
  /-- Retirement tide and last attempt of each slot used before; table by slot; 17 R351, R361; empty -/
  slots : Tbl (Nat × Nat)
  /-- Submissions waiting for an offer of the same queue or for a new buddy; list; 17 R349, R353; empty -/
  waiting : List (JobHdr × Nat × JobDesc)
  /-- Logbook, head first; 64 MiB ring; 17 R356; empty -/
  log : List LogRec
  /-- Tail of the logbook ring in bytes; 26 bits; 17 R356; 0 (DESIGN CHOICE, log 4) -/
  logTail : Nat
  /-- Next log_seq; 64 bits; 17 R356; 1 (DESIGN CHOICE, log 4) -/
  nextLog : Nat
  /-- Replica fragments received of records not yet whole: sender, message, bytes; list; 17 R354; empty -/
  frags : List (Nat × Nat × Nat)
  /-- ACCEPT messages unanswered; list; 17 R355; empty -/
  tx : List AcceptTx
  /-- Buddy in force; 6 bits; 17 R352; none -/
  buddy : Option Nat
  /-- Records the new buddy has not acknowledged; list; 17 R353; empty -/
  rebuddy : List Nat
  /-- Flush under way: FULL or HEADERS, and the records up to its start; 17 R371; none -/
  flush : Option (Bool × List LogRec)
  /-- Flush image headers on the SSD: flush_count, full and records, areas A and B; 17 R371; empty -/
  images : List (Nat × Bool × List LogRec)
  /-- Who learns of the end of the flush under way, in order; list; 17 R371, 19 R422, 21 R453, R459; empty -/
  flushFor : List FlushOwner
  /-- Device in flush mode; 1 bit; 17 R370, 22 R478; false -/
  flushMode : Bool
  deriving DecidableEq, Repr

/-- A lighter (R475, R393). -/
structure Lighter where
  base : Nat
  ltSignal : Bool
  enable : Bool
  sizeCode : Nat
  inTail : Nat
  inHead : Nat
  outTail : Nat
  outHead : Nat
  session : Nat
  reason : Nat
  fault : Bool
  bound : Bool
  inCounter : Nat
  outCounter : Nat
  failures : Nat
  deriving DecidableEq, Repr

/-- An SPDM session (R394): ID, whether the handshake is finished, and its secret. -/
structure Session where
  id : Nat
  open_ : Bool
  secret : Bytes
  deriving DecidableEq, Repr

/-- A rotation or removal under way on this device (R395 to R398). -/
structure Sweep where
  charter : Nat
  rate : Nat
  /-- bytes that may still be swept this tide -/
  credit : Nat
  /-- items of R398's completion that this device handled: poisoned, refused, and jobs stopped -/
  poisoned : Nat
  refused : Nat
  stopped : Nat
  reported : Bool
  removal : Bool
  endAt : Option Nat
  deriving DecidableEq, Repr

/-- The security block (18, 20). -/
structure Security where
  /-- Lockout latch; 1 bit; 18 R380, 22 R472; false -/
  latch : Bool
  /-- Confidential mode; 1 bit; 18 R380, 22 R468; false -/
  confidential : Bool
  /-- CONFIDENTIAL.ENTER pending: the boundary it takes effect at and its command; 18 R380; none -/
  enterAt : Option (Nat × CmdHdr)
  /-- Key slots by 2 x charter + slot; 8,192 x 512 bits; 18 R382; empty -/
  keys : Tbl Bytes
  /-- Keys loaded for a rotation or creation notified, by change; list; 18 R395; empty -/
  staged : List (ChangeId × Nat × Bytes)
  /-- Harbour key; 256 bits; 18 R384; none -/
  harbourKey : Option Bytes
  /-- SPDM sessions, oldest first; at most 4; 18 R394; empty -/
  sessions : List Session
  /-- Number of the next session; 20 R440; 1 (DESIGN CHOICE, log 4) -/
  nextSession : Nat
  /-- Lighters by number; 16; 18 R391, 22 R475; empty, absent all zero -/
  lighters : Tbl Lighter
  /-- Rotations and removals; list; 18 R395, R398; empty -/
  sweeps : List Sweep
  /-- Charters zeroized by the lifeboat engine; list; 18 R399; empty -/
  zeroized : List Nat
  /-- Stage page map: charter and epoch by page; 288 MiB; 18 R387; empty -/
  stagePages : Tbl (Nat × Nat)
  /-- Records discarded, by lighter; counts; 18 R393; empty -/
  discards : Tbl Nat
  /-- Unique device secret in fuses; 384 bits; 20 R427; zero (DESIGN CHOICE, log 4: the fuse's contents) -/
  uds : Bytes
  /-- CDI_1 and CDI_2 of the layers that run; 2 x 384 bits; 20 R427; empty (derived at boot) -/
  cdi1 : Bytes
  cdi2 : Bytes
  /-- Chain of the measurement log when the alias certificate was issued; 384 bits; 20 R428; empty -/
  aliasChain : Bytes
  deriving DecidableEq, Repr

/-- Pointers of a mailbox (R404, R473) and the answers waiting for room (R405). -/
structure Mailbox where
  cmdTail : Nat
  cmdHead : Nat
  cplTail : Nat
  cplHead : Nat
  signal : Bool
  reserved : Nat
  waiting : List (Bytes × Option (Nat × Nat))
  /-- posted job completions not yet consumed: end unit and job slot -/
  posted : List (Nat × Nat)
  deriving DecidableEq, Repr

/-- A command taken and not yet answered (R405, R420). -/
structure Taken where
  mailbox : Nat
  tag : Nat
  command : Nat
  units : Nat
  job : Bool
  change : Option Nat
  deriving DecidableEq, Repr

/-- A loaded operator program (R220), with the devices known to hold it. A program whose commit is under way, or that is being unloaded, has none,
and no descriptor check takes it (R224, R225). -/
structure Program where
  image : Bytes
  measurement : Bytes
  devices : List Nat
  deriving DecidableEq, Repr

/-- A commit of a program or firmware image, or an unload of a program, under way at its issuer (R224, R225, R433). -/
structure Commit where
  hdr : CmdHdr
  id : Nat
  awaiting : List Nat
  first : Option (Nat × Nat)
  done : List Nat
  /-- 0 the named devices are asked for another program of this ID, 1 they install, 2 they unload -/
  stage : Nat
  named : List Nat
  /-- devices known to hold the program before -/
  holders : List Nat
  image : Bytes
  deriving DecidableEq, Repr

/-- A measurement log entry (R439). -/
structure Meas where
  kind : Nat
  measurer : Nat
  flags : Nat
  tide : Nat
  id : Nat
  aux : Nat
  digest : Bytes
  chain : Bytes
  deriving DecidableEq, Repr

/-- A firmware bank (R430): image and whether its header is valid. -/
structure Bank where
  commitCount : Nat
  image : Bytes
  valid : Bool
  deriving DecidableEq, Repr

/-- The Harbourmaster (19, 20, 10). -/
structure Harbour where
  /-- Mailboxes by number; 16; 19 R404, 22 R473; empty, absent all zero -/
  boxes : Tbl Mailbox
  /-- Rotating pointer over mailboxes; 4 bits; 19 R405, R37; 0 (DESIGN CHOICE, log 4) -/
  boxPtr : Nat
  /-- Commands in progress; at most 1,024; 19 R405; empty -/
  taken : List Taken
  /-- Firmware ready to take commands (STATUS.fw_ready); 1 bit; 22 R468; false -/
  fwReady : Bool
  /-- Firmware heartbeat present (HM_ALIVE); 1 bit; 19 R419, 22 R468; false -/
  alive : Bool
  /-- Engine budgets halved for want of a heartbeat or of power capping; 1 bit; 19 R419, 20 R435; false -/
  halved : Bool
  /-- Frozen (R424); 1 bit; 19 R424, 22 R468; false -/
  frozen : Bool
  /-- Budgets lowered for power; 1 bit; 01 R13, 22 R468; false -/
  capped : Bool
  /-- Budgets lowered for heat; 1 bit; 21 R449; false -/
  hot : Bool
  /-- Changes of the power lowering taking effect at the next boundary; 01 R13; none -/
  capNext : Option Bool
  /-- Last 1 ms power average in mW; 01 R13, 18 R401; 0 (DESIGN CHOICE, log 4) -/
  power : Nat
  /-- Sum and number of power averages in the present 1 s period; 18 R401; 0 (DESIGN CHOICE, log 4) -/
  powerSum : Nat × Nat
  /-- Power reading reported in confidential mode, mW; 18 R401; 0 (DESIGN CHOICE, log 4) -/
  powerShown : Nat
  /-- Harbourmaster takes no command: activation committed for this boundary; 20 R435; none -/
  activateAt : Option Nat
  /-- Loaded programs by program_id; 256 programs, 16 MiB; 10 R220; empty -/
  programs : Tbl Program
  /-- Program images staged: blocks by offset and the tide of the last; at most 4; 10 R220, R222; empty -/
  staged : Tbl (List (Nat × Bytes) × Nat)
  /-- Program-signing keys by slot; 8 x 97 bytes; 10 R221; empty -/
  keys : Tbl Bytes
  /-- Program commits under way; list; 10 R224; empty -/
  commits : List Commit
  /-- Firmware banks 0 and 1; 2 x 32 MiB; 20 R430; empty, absent invalid (SSD contents are kept through reset, log 4) -/
  banks : Tbl Bank
  /-- Bank that runs; 1 bit; 20 R431, 22 R467; 0 (DESIGN CHOICE, log 4) -/
  active : Nat
  /-- Select records: select_count and bank; 20 R430; empty -/
  selects : List (Nat × Nat)
  /-- Firmware blocks staged in the inactive slot and the tide of the last; 20 R432; none -/
  fwStage : Option (List (Nat × Bytes) × Nat)
  /-- Firmware commit under way; 20 R433; none -/
  fwCommit : Option Commit
  /-- Steps left after an activation: 1 settings, 2 select record, 3 floor, 4 report; 20 R435; empty -/
  fwSteps : List Nat
  /-- FW_SELECT_PENDING raised in this activation; 1 bit; 20 R435; false -/
  fwPendingRaised : Bool
  /-- Issuer of the activation under way; 20 R435; none -/
  fwIssuer : Option Nat
  /-- Settings slots: format, capacitance uF, vmin mV, valid; 20 R436; empty -/
  settings : List (Nat × Nat × Nat × Bool)
  /-- Fuse floor; 0 to 64; 20 R437, 22 R472; 0 (DESIGN CHOICE, log 4) -/
  floor : Nat
  /-- Firmware-signing keys revoked; 3 bits; 20 R429, 22 R472; 0 (DESIGN CHOICE, log 4) -/
  fwRevoked : Nat
  /-- SHA-384 of the firmware-signing public keys, by key; fuses, 3 x 384 bits; 20 R429; empty (DESIGN CHOICE, log 4) -/
  fwKeyFuses : Tbl Bytes
  /-- Measurement log, first entry first; 8,192 entries; 20 R439; empty -/
  meas : List Meas
  /-- Boot measurement cache on the standby island; 512 entries; 19 R422; empty -/
  bootCache : List Meas
  deriving DecidableEq, Repr

/-- An event to be summed in its period (R484): period 0 a tide, 1 64 tides, 2 a second. -/
structure Summary where
  code : Nat
  key : Nat
  period : Nat
  count : Nat
  fields : List (Nat × Nat)
  deriving DecidableEq, Repr

/-- Telemetry: events, reasons and counters (22, 23). -/
structure Telemetry where
  /-- Event ring tail; 32 bits; 22 R471; 0 -/
  evTail : Nat
  /-- Event ring head; 32 bits; 22 R471; 0 -/
  evHead : Nat
  /-- Events not written since reset; 32 bits saturating; 22 R471; 0 -/
  evLost : Nat
  /-- Events not written since the last EVENTS_LOST record; count; 19 R418; 0 -/
  evGap : Nat
  /-- Signal enable of the event ring; 1 bit; 22 R471; false -/
  evSignal : Bool
  /-- Next event number; 32 bits; 23 R482; 0 -/
  evNumber : Nat
  /-- SUBSYS_REASON: tide low, count, code; 21 x 64 bits; 22 R469; empty, absent zero -/
  reasons : Tbl (Nat × Nat × Nat)
  /-- Events to be summed at the end of their period; list; 23 R484; empty -/
  summaries : List Summary
  /-- Corrected Stage errors of the last second by stack: reference cycles; 23 R487; empty -/
  corrected : Tbl (List Nat)
  /-- Last SIGNAL of each vector: reference cycle; 21 R446; empty -/
  signalled : Tbl Nat
  /-- Vectors whose SIGNAL waits for its 1 µs to pass; list; 21 R446; empty -/
  owed : List Nat
  deriving DecidableEq, Repr

/-- One path's LB_RESULT (R478, R479). -/
structure LbResult where
  lastOp : Nat
  lastId : Nat
  reason : Nat
  state : Nat
  deriving DecidableEq, Repr

/-- A lifeboat operation that runs (R423, R479). -/
structure LbRun where
  op : Nat
  path : LbPath
  id : Nat
  code : Nat
  deriving DecidableEq, Repr

/-- The standby island: bypass, lifeboat engine, pins and board declaration (02, 19, 21, 22). -/
structure Island where
  /-- Ring bypass state; 2 bits; 02 R29, 22 R478; CLOSED -/
  bypass : Bypass
  /-- Boundary granted to this device's splice; 02 R30; none -/
  granted : Option Nat
  /-- Core rail within tolerance; 1 bit; 22 R478; true (DESIGN CHOICE, log 4) -/
  corePower : Bool
  /-- Reset state; 2 bits; 22 R478; running -/
  resetState : ResetState
  /-- LB_RESULT of the window; 64 bits; 22 R478; zero (VSTBY) -/
  window : LbResult
  /-- LB_RESULT of the sideband; 64 bits; 22 R478; zero (VSTBY) -/
  sideband : LbResult
  /-- Exclusive operation running: operation code; 19 R423; none -/
  exclusive : Option Nat
  /-- Lifeboat operations other than a flush that run, in order of issue; 19 R423, 22 R479; empty -/
  lbRuns : List LbRun
  /-- Lifeboat data buffer; 4 KiB; 22 R478; empty, reads zero -/
  buffer : Bytes
  /-- Last hold-up voltage read in mV; 16 bits; 22 R478; 0 -/
  holdupMv : Nat
  /-- Last reset cause; 16 bits; 22 R478; 0 -/
  cause : Nat
  /-- Rail named with cause 0x1113; 3 bits; 22 R478; 0 -/
  rail : Nat
  /-- ALERT_N asserted; 1 bit; 22 R478, 23 R483; false -/
  alert : Bool
  /-- THERMTRIP_N asserted; 1 bit; 21 R449, 22 R478; false -/
  thermtrip : Bool
  /-- Core held in reset until a cold reset; 1 bit; 21 R448, R449; false -/
  held : Bool
  /-- PWR_SAFE asserted; 1 bit; 21 R459; false (DESIGN CHOICE, log 4) -/
  pwrSafe : Bool
  /-- HOLDUP_FAIL_N asserted by the board; 1 bit; 21 R459; false -/
  holdupFail : Bool
  /-- Board declaration: capacitance uF, vmin mV, monitor address, page, namespace; 64 bytes; 21 R460; none -/
  decl : Option (Nat × Nat × Nat × Nat × Nat)
  /-- Device ID strap; 6 bits; 21 R462, 22 R467; 0 (DESIGN CHOICE, log 4) -/
  devid : Nat
  /-- ADDR strap; 3 bits; 21 R462, 22 R467; 0 (DESIGN CHOICE, log 4) -/
  addr : Nat
  /-- Serial number fuse; 64 bits; 22 R467; 0 (DESIGN CHOICE, log 4) -/
  serial : Nat
  /-- JTAG instruction selected: 0 IDCODE, 1 BYPASS, 2 SAMPLE/PRELOAD, 3 EXTEST; 21 R461; 0 (PRESUMED, log 4) -/
  tap : Nat
  /-- UDS fuse read port locked; 1 bit; 20 R427, 22 R472; true (written by the ROM) -/
  udsLocked : Bool
  deriving DecidableEq, Repr

/-- The device. -/
structure State where
  /-- Commands waiting, first in first out; list; the model's queue; empty -/
  pending : List Instr
  /-- Reference cycles since the last cold reset release; count; 23 R484; 0 -/
  refCycles : Nat
  tide : TideUnit
  ring : RingUnit
  /-- Engine budget books by 64 x kind + engine (crane 0, stevedore 1, customs 2, codec 3, stream 4); 02 R35; empty -/
  engines : Tbl EngineSt
  /-- Bytes of spill traffic of all Cranes this tide; count; 07 R151; 0 -/
  spillUsed : Nat
  /-- Segments discarded that name no active job; count; 07 R143; 0 -/
  straySegments : Nat
  man : Manifest
  ing : Ingress
  home : Home
  ports : Ports
  sw : Switch
  pilot : Pilot
  acc : Accept
  sec : Security
  hm : Harbour
  tel : Telemetry
  isl : Island
  /-- T1 copy table; at most 4,096; 12 R252; empty -/
  copies : List TierCopy
  /-- Stage memory, bytes that are not zero; 576 GiB; 12 R251; empty (cold reset clears, log 3) -/
  stage : List Host.Cell
  /-- Mailbox space, bytes that are not zero; 2,304 KiB; 19 R403; empty (cleared, log 3) -/
  mbox : List Host.Cell
  /-- Everything transmitted, oldest first; the model's own (log 2); empty -/
  out : List Out
  /-- Free values drawn so far; count; the model's own (log 1); 0 -/
  freeCount : Nat
  deriving DecidableEq, Repr

/-- Why the device model stops with a fault. -/
inductive Fault where
  /-- Raised by nobody: every refusal of the spec is an answer with a reason code, every failure an effect on the state.
  Kept because a machine names its faults. Safe. -/
  | none
  deriving DecidableEq, Repr

/-- Why the device model refuses a command. -/
inductive Refusal where
  /-- Raised by Machine/Dispatch.lean for a command that has no meaning yet. Safe: the model stops. -/
  | notModelled (mnemonic : String)
  deriving DecidableEq, Repr

/-- The host link's port context at reset (R442): 8 lanes, enabled, DOWN. -/
def khlReset : PortCtx :=
  { berth := 128, part := 0, role := 1, host := 0xFC0, coherent := true, enable := true, train := .down, cause := 0,
    lanes := 8, partner := none, nextTx := 0, nextRx := 0, lastAck := 4095, kept := [], nakFor := none, resends := 0,
    replay := false, txCredit := [0, 0, 0], txTotal := [0, 0, 0], rxCredit := [0, 0, 0], rxTotal := [0, 0, 0],
    pings := [], fecMarks := [], channels := [], spanWait := none, cut := [],
    locked := false, owed := 0, owedStream := 0, txOpen := [], bad := [] }

/-- The machine right after reset: every register at the Reset value of its map (22 R466 to R478), memories cleared as
R450 clears them, the firmware not yet ready. -/
def State.reset : State :=
  { pending := [], refCycles := 0,
    tide := { count := 0, lengthCode := 1, lastMarker := 0, followed := false, markerSeen := false, missed := 0,
              locked := false, eastMark := none, wests := [], budgetCode := 1, budgetHalved := false, budgetLow := false, master := 0, hasMaster := false, hops := 0, site := 0, sites := 0, offset := 0,
              phase := 0, takeover := none, latch := none },
    ring := { tx := [], handled := [], nextMsg := 0, map := [], partners := [], markEast := false, markWest := false, reservedSeen := 0, headerErrors := 0, staleDiscards := 0,
              resetDiscards := 0, broken := none, restoreAt := none, disabled := none, splices := [], grants := [],
              heartbeats := [], spanReports := [], losses := [] },
    engines := [], spillUsed := 0, straySegments := 0,
    man := { entries := [], windows := [], charters := [], members := [], groups := [], roles := [],
             route := ⟨[], [], []⟩, routeEpoch := 0, prevRoute := none, routeSince := 0, comp := ⟨[], [], [], [], []⟩,
             compEpoch := 0, compSince := 0, compTurned := false, sync := none, notices := [], issued := [], nextChange := 0, desyncCharters := [],
             desyncRoutes := false, routeChanges := [] },
    ing := { outst := [], nextTag := 0, refused := [], held := [], policed := [], reads := [], atoms := [],
             uncombined := 0, cache := [], filter := [], snooped := [], acquired := [], waiting := [], hosts := [], shown := [], badResponses := 0,
             uncertain := [], lostHomes := [], deadHosts := [] },
    home := { queues := [], waiting := [], reqs := [], nextId := 0, seals := [], fences := [], receipts := [],
              drains := [], dir := [], rounds := [], nextSnoop := 0, dead := [], zeros := [], linesPoisoned := [], trays := [],
              nextTray := 0, failed := [], timeouts := [], poisons := [], failNotices := [], lostGroups := [],
              rebuilds := [], formats := [], resyncs := [], pages := [], pageWait := [], pageSend := [], moves := [], ll := 0 },
    ports := { splits := [], ctxs := [(256, khlReset)], codecs := [] },
    sw := { cells := [], nextCell := 0, seqs := [], grant := [], accept := [], matched := [], cut := [], mirrors := [],
            mirrorDrops := [], samplers := [], samples := [], samplesThisTide := 0, withdrawn := 0, groupMisses := 0 },
    pilot := { subs := [], pendingSubs := [], releasing := [], alpha := [], kinds := [], targets := [],
               ks := [], overheads := [], weights := [], nodes := [], pilots := [], pilotPtr := [], recs := [],
               resends := [], eras := [], named := [] },
    acc := { queues := [], jobs := [], slots := [], waiting := [], log := [], logTail := 0, nextLog := 1, frags := [], tx := [],
             peers := [], buddy := none, rebuddy := [], flush := none, images := [], flushFor := [], flushMode := false },
    sec := { latch := false, confidential := false, enterAt := none, keys := [], staged := [], harbourKey := none,
             sessions := [], nextSession := 1, lighters := [], sweeps := [], zeroized := [], stagePages := [],
             discards := [], uds := List.replicate 48 0#8, cdi1 := [], cdi2 := [], aliasChain := [] },
    hm := { boxes := [], boxPtr := 0, taken := [], fwReady := false, alive := false, halved := false, frozen := false,
            capped := false, hot := false, capNext := none, power := 0, powerSum := (0, 0), powerShown := 0,
            activateAt := none, programs := [], staged := [], keys := [], commits := [], banks := [], active := 0,
            selects := [], fwStage := none, fwCommit := none, fwSteps := [], fwPendingRaised := false,
            fwIssuer := none, settings := [], floor := 0, fwRevoked := 0, fwKeyFuses := [], meas := [], bootCache := [] },
    tel := { evTail := 0, evHead := 0, evLost := 0, evGap := 0, evSignal := false, evNumber := 0, reasons := [],
             summaries := [], corrected := [], signalled := [], owed := [] },
    isl := { bypass := .closed, granted := none, corePower := true, resetState := .running, window := ⟨0, 0, 0, 0⟩,
             sideband := ⟨0, 0, 0, 0⟩, exclusive := none, lbRuns := [], buffer := [], holdupMv := 0, cause := 0, rail := 0,
             alert := false, thermtrip := false, held := false, pwrSafe := false, holdupFail := false, decl := none, devid := 0,
             addr := 0, serial := 0, tap := 0, udsLocked := true },
    copies := [], stage := [], mbox := [], out := [], freeCount := 0 }

end Sys2Proof.Machine
end

