-- ==== Sys2Proof/Decode.lean ====
section
/-! DEFINITION. The commands of the block arrive in the forms their chapters give; the spec's table gives no row any bits,
so no word of table bits spells a command. -/

namespace Sys2Proof

/-- The command a word of the table's bits spells: none, since no row of the table has bits. -/
def decodeTableWord (_nbits _w : Nat) : Option Instr := none

end Sys2Proof
end

