-- ==== Sys2Proof/Config.lean ====
section
/-! DEFINITION. What the spec leaves to an implementation or to another standard, as constants with no body. `free` is
the fresh free value the device draws for an unstated value (log 1); the cryptographic functions stand for the standards
the spec names (log 5); the block layouts the chapters do not tabulate are log 6. -/

namespace Sys2Proof.Config

/-- The n-th free value. -/
opaque free : Nat → Nat

/-- SHA-384 (20_firmware_attestation_update.md R427, R439). -/
opaque sha384 : Bytes → Bytes

/-- HMAC or HKDF with SHA-384 over a key and an input (R394, R427). -/
opaque hmac384 : Bytes → Bytes → Bytes

/-- ECDSA with SHA-384 on brainpoolP384r1: does the signature over the message verify under the 97-byte key (R223, R433)? -/
opaque ecdsaVerify : Bytes → Bytes → Bytes → Bool

/-- A signature by the device's alias key over a message (R428, R440). -/
opaque aliasSign : Bytes → Bytes

/-- Is this 97-byte string a point on brainpoolP384r1 in the form of PROGRAM.KEY_ENROLL (R225)? -/
opaque onCurve : Bytes → Bool

/-- ECDHE on brainpoolP384r1: the device's share and the secret for a partner's share (R384, R394). -/
opaque ecdhe : Bytes → Bytes

/-- AES-256-GCM of a plaintext under a key and nonce material (R384, R392). -/
opaque gcm : Bytes → List Nat → Bytes → Bytes

/-- XTS-AES-256 encryption and decryption of a granule under a key and a tweak (R385). -/
opaque xtsEnc : Bytes → Nat → Bytes → Bytes
opaque xtsDec : Bytes → Nat → Bytes → Bytes

/-- The bytes of a command block or of return data whose layout the chapters do not tabulate, from its fields (R409). -/
opaque blockImage : Nat → List Nat → Bytes

/-- Is this block, of a command whose layout the chapters do not tabulate, of the right size, and are its reserved fields
zero, and, in basic form, the firmware's fields zero? (R408; 0 or the refusal's code) -/
opaque blockCheck : Nat → Bool → Bytes → Nat

/-- The issue budget of an engine kind lowered for power or heat, from its full budget (R13, R449): the spec gives no
amount. -/
opaque cappedBudget : Nat → Nat → Nat

/-- RSQRT, EXP2 and LOG2 of an FP32 bit pattern, within 1 ulp (R214): opcode and operand. -/
opaque approx : Nat → BitVec 32 → BitVec 32

/-- Sign and payload of a NaN that a binary32 operation of two bit patterns gives: IEEE 754 leaves them open (R134; log 1). -/
opaque nanBits : BitVec 32 → BitVec 32 → Nat

/-- The 11-bit length-limited table the encoder builds from the byte counts of a plane (R236). -/
opaque huffLengths : List Nat → List Nat

/-- The DER certificate chain of slot 0 (R428, R440). -/
opaque certChain : Bytes

/-- SPDM response bodies fixed by SPDM 1.2 and the choices of R440, from the request's body. -/
opaque spdmBody : Nat → Bytes → Bytes

/-- Control state beyond the items R422 lists, in the 4 KiB snapshot's layout, from those items. -/
opaque snapshot : List Nat → Bytes

/-- The traffic class in which a response travels, from its destination and tag, and an engine-stream item, from its job: the
spec gives none (R295; log 1). -/
opaque respClass : Nat → Nat → Nat
opaque streamClass : Nat → Nat → Nat

/-- The upper half of a register after a 32-bit integer result in its lower half: the spec states none (R209; log 1). -/
opaque highHalf : Nat → Nat

/-- The random bits of stochastic rounding, from the seed, the tile or row and the element (R137): its algorithm is not
specified (log 1). -/
opaque seeded : Nat → Nat → Nat → Nat

/-- The device to which a host of another device is attached: the spec names no table that holds it (R140; log 1). -/
opaque hostDevice : Nat → Nat

/-- A counter group's size in 8-byte counters, none where reserved (R489). -/
opaque counterGroup : Nat → Option Nat

end Sys2Proof.Config
end

