-- ==== Sys2Proof/Machine/Bits.lean ====
section
/-! DEFINITION. Bit fields, byte order (R2), CRC-32C, tables and the sparse byte memories. -/

namespace Sys2Proof.Machine
open Sys2Proof

/-- The value at a number of a table. -/
def tget {α : Type} (t : Tbl α) (k : Nat) : Option α :=
  match t with
  | [] => none
  | (a, v) :: r => if a = k then some v else if k < a then none else tget r k

/-- A table with one value put in its place. -/
def tput {α : Type} (t : Tbl α) (k : Nat) (v : α) : Tbl α :=
  match t with
  | [] => [(k, v)]
  | (a, w) :: r => if a = k then (k, v) :: r else if k < a then (k, v) :: (a, w) :: r else (a, w) :: tput r k v

/-- A table without one number. -/
def tdel {α : Type} (t : Tbl α) (k : Nat) : Tbl α := t.filter fun p => p.1 ≠ k

/-- The value at a number, or a default. -/
def tgetD {α : Type} (t : Tbl α) (k : Nat) (d : α) : α := (tget t k).getD d

/-- Bits [hi:lo] of a number. -/
def bits (w hi lo : Nat) : Nat := (w / 2 ^ lo) % 2 ^ (hi + 1 - lo)

/-- Bit i of a number. -/
def bit (w i : Nat) : Bool := (w / 2 ^ i) % 2 == 1

/-- One bit as a number. -/
def b2n (b : Bool) : Nat := if b then 1 else 0

/-- Ceiling division. -/
def cdiv (a b : Nat) : Nat := (a + b - 1) / b

/-- Round up to a multiple. -/
def roundUp (a b : Nat) : Nat := cdiv a b * b

/-- The n little-endian bytes of a number (R2). -/
def le (n w : Nat) : Bytes :=
  match n with
  | 0 => []
  | k + 1 => BitVec.ofNat 8 w :: le k (w / 256)

/-- The number of a little-endian byte string (R2). -/
def unle (b : Bytes) : Nat :=
  match b with
  | [] => 0
  | x :: r => x.toNat + 256 * unle r

/-- Zero bytes. -/
def zeros (n : Nat) : Bytes := List.replicate n 0#8

/-- n bytes of a string from an offset, zeros past its end. -/
def slice (b : Bytes) (off n : Nat) : Bytes :=
  let c := (b.drop off).take n
  c ++ zeros (n - c.length)

/-- A little-endian field of a byte string. -/
def fld (b : Bytes) (off n : Nat) : Nat := unle (slice b off n)

/-- A string padded with zeros to a multiple of n bytes. -/
def padTo (n : Nat) (b : Bytes) : Bytes := b ++ zeros (roundUp b.length n - b.length)

/-- A string cut or padded with zeros to n bytes. -/
def fit (n : Nat) (b : Bytes) : Bytes := slice b 0 n

/-- Bytes of a string overwritten at an offset. -/
def splice' (b : Bytes) (off : Nat) (d : Bytes) : Bytes := slice b 0 off ++ d ++ b.drop (off + d.length)

/-- One bit step of the reflected CRC-32C. -/
def crcBit (c : Nat) : Nat := if c % 2 = 1 then Nat.xor (c / 2) 0x82F63B78 else c / 2

/-- CRC-32C of a byte string. -/
def crc32c (b : Bytes) : Nat :=
  Nat.xor 0xFFFFFFFF
    (b.foldl (fun c x =>
      crcBit (crcBit (crcBit (crcBit (crcBit (crcBit (crcBit (crcBit (Nat.xor c x.toNat)))))))))
      0xFFFFFFFF)

/-- Bytewise exclusive or of two strings. -/
def xorBytes (a b : Bytes) : Bytes := List.zipWith (fun x y => x ^^^ y) a b

/-- One byte of a sparse memory whose unlisted bytes read zero. -/
def mread1 (m : List Host.Cell) (a : Nat) : Byte := tgetD m a 0#8

/-- n bytes from an address on, of a memory whose cells below it are gone. -/
def mwalk (m : List Host.Cell) (a n : Nat) : Bytes :=
  match n, m with
  | 0, _ => []
  | k + 1, [] => 0#8 :: mwalk [] (a + 1) k
  | k + 1, (x, v) :: r => if x = a then v :: mwalk r (a + 1) k else 0#8 :: mwalk ((x, v) :: r) (a + 1) k

/-- n bytes read. -/
def mread (m : List Host.Cell) (a n : Nat) : Bytes := mwalk (m.dropWhile fun p => decide (p.1 < a)) a n

/-- The cells of a byte string laid from an address on: its zero bytes are not listed. -/
def cellsOf (a : Nat) (d : Bytes) : List Host.Cell :=
  match d with
  | [] => []
  | x :: r => if x = 0#8 then cellsOf (a + 1) r else (a, x) :: cellsOf (a + 1) r

/-- Bytes written from an address on. -/
def mwrite (m : List Host.Cell) (a : Nat) (d : Bytes) : List Host.Cell :=
  (m.takeWhile fun p => decide (p.1 < a)) ++ cellsOf a d ++ m.dropWhile fun p => decide (p.1 < a + d.length)

/-- A field read from a memory. -/
def mfld (m : List Host.Cell) (a n : Nat) : Nat := unle (mread m a n)

/-- A memory is in its canonical form: addresses strictly rising and no zero byte listed. -/
abbrev Memory.wf (m : List Host.Cell) : Prop :=
  m.Pairwise (fun p q => p.1 < q.1) ∧ ∀ p ∈ m, p.2 ≠ 0#8

/-- The poison stamp (23 R485). -/
def stamp : Bytes :=
  le 8 0x7E5AA5C30F1E2D00 ++ le 8 0x7E5AA5C30F1E2D01 ++ le 8 0x7E5AA5C30F1E2D02 ++ le 8 0x7E5AA5C30F1E2D03 ++
  le 8 0x7E5AA5C30F1E2D04 ++ le 8 0x7E5AA5C30F1E2D05 ++ le 8 0x7E5AA5C30F1E2D06 ++ le 8 0x7E5AA5C30F1E2D07

/-- A granule's value is the poison stamp (23 R485). -/
def isPoison (g : Bytes) : Bool := decide (g = stamp)

/-- The numbers lo to lo + n - 1. -/
def upto (lo n : Nat) : List Nat := (List.range n).map (· + lo)

/-- A list cut into pieces of n elements; `fuel` bounds their number. -/
def chunks {α : Type} (fuel n : Nat) (l : List α) : List (List α) :=
  match fuel with
  | 0 => []
  | k + 1 => if l.isEmpty then [] else l.take n :: chunks k n (l.drop n)

/-- A number put into a rising list without repeats. -/
def insertSorted (x : Nat) (l : List Nat) : List Nat :=
  match l with
  | [] => [x]
  | a :: r => if a = x then a :: r else if x < a then x :: a :: r else a :: insertSorted x r

/-- A list's numbers, rising and without repeats. -/
def sorted (l : List Nat) : List Nat := l.foldl (fun a x => insertSorted x a) []

/-- The party at or after a pointer in ascending order, wrapping round (02 R37). -/
def rotating (ptr : Nat) (asking : List Nat) : Option Nat :=
  let s := sorted asking
  match s.find? (fun p => decide (ptr ≤ p)) with
  | some p => some p
  | none => s.head?

/-- The winner of a tie within tide t among a resource's possible requesters (02 R38): the party whose index is t mod N,
else the first asking party after it, wrapping round. -/
def tieWinner (t : Nat) (parties asking : List Nat) : Option Nat :=
  let n := parties.length
  if n = 0 then none
  else
    let i := t % n
    (parties.drop i ++ parties.take i).find? (fun p => asking.contains p)

/-- Attempt or window a is lower than b as serial numbers modulo 256 (17 R361). -/
def attemptLower (a b : Nat) : Bool :=
  let d := (b + 256 - a % 256) % 256
  decide (1 ≤ d ∧ d ≤ 127)

end Sys2Proof.Machine
end

