-- ==== Sys2Proof/Machine/Operands.lean ====
section
/-! DEFINITION. The operand forms: every header, record and descriptor the chapters lay out in bits or bytes, written and
read (R2: little-endian). -/

namespace Sys2Proof.Machine
open Sys2Proof

/-- Fields from the highest to the lowest, each with its width, as one number. -/
def packBits (fs : List (Nat × Nat)) : Nat := fs.foldl (fun a p => a * 2 ^ p.1 + p.2 % 2 ^ p.1) 0

/-- Fields in byte order, each with its size. -/
def packBytes (fs : List (Nat × Nat)) : Bytes := fs.flatMap fun p => le p.1 p.2

/-! KFP headers. -/

/-- A request's 32-byte header (R89). -/
def reqHeader (r : FabReq) : Bytes :=
  le 32 (packBits [(8, r.opcode), (8, r.length - 1), (12, r.charter), (1, b2n r.srcEngine), (12, r.source), (16, r.tag),
    (56, r.address), (19, r.entry), (16, r.generation), (16, r.routeEpoch), (6, r.home), (4, r.tclass),
    (8, r.sealWindow), (1, b2n r.jobValid), (6, r.jobDevice), (12, r.jobSlot), (8, r.attempt), (13, r.parts),
    (32, r.aux), (2, 0)])

/-- A request from its header and payload (R89). -/
def reqOf (b payload : Bytes) : FabReq :=
  let w := fld b 0 32
  { opcode := bits w 255 248, length := bits w 247 240 + 1, charter := bits w 239 228, srcEngine := bit w 227,
    source := bits w 226 215, tag := bits w 214 199, address := bits w 198 143, entry := bits w 142 124,
    generation := bits w 123 108, routeEpoch := bits w 107 92, home := bits w 91 86, tclass := bits w 85 82,
    sealWindow := bits w 81 74, jobValid := bit w 73, jobDevice := bits w 72 67, jobSlot := bits w 66 55,
    attempt := bits w 54 47, parts := bits w 46 34, aux := bits w 33 2, payload := payload }

/-- A response's 16-byte header (R95). -/
def respHeader (r : Resp) : Bytes :=
  le 16 (packBits [(8, r.opcode), (1, b2n r.dstEngine), (12, r.destination), (16, r.tag), (16, r.reason), (3, r.ll),
    (6, r.responder), (8, r.data.length - 1), (13, r.parts), (32, r.aux), (13, 0)])

/-- A response from its header and data (R95). -/
def respOf (b data : Bytes) : Resp :=
  let w := fld b 0 16
  { opcode := bits w 127 120, dstEngine := bit w 119, destination := bits w 118 107, tag := bits w 106 91,
    reason := bits w 90 75, ll := bits w 74 72, responder := bits w 71 66, parts := bits w 57 45,
    aux := bits w 44 13, data := data }

/-- A segment's header bits [255:32] (R141). -/
def segBits (g : Segment) : Nat :=
  packBits [(4, g.kind), (6, g.jobDevice), (12, g.jobSlot), (8, g.attempt), (1, b2n g.srcDevice), (12, g.sender),
    (32, g.tile), (32, g.aux), (13, g.data.length), (13, g.members), (5, g.format), (1, b2n g.poison), (1, 0),
    (16, g.seqLo), (68, 0)]

/-- A segment's bytes, its header CRC included (R141). -/
def segBytes (g : Segment) : Bytes :=
  let h := le 28 (segBits g)
  le 4 (crc32c h) ++ h ++ g.data

/-- A segment read from an item's bytes; none where the header CRC fails (R141). -/
def segOf (b : Bytes) : Option Segment :=
  let w := fld b 0 32
  if bits w 31 0 ≠ crc32c (slice b 4 28) then none
  else some
    { kind := bits w 255 252, jobDevice := bits w 251 246, jobSlot := bits w 245 234, attempt := bits w 233 226,
      srcDevice := bit w 225, sender := bits w 224 213, tile := bits w 212 181, aux := bits w 180 149,
      members := bits w 135 123, format := bits w 122 118, poison := bit w 117, seqLo := bits w 115 100,
      data := slice b 32 (bits w 148 136) }

/-- A stream record's header bits [255:32] for this device's job (R264). -/
def strmBits (dev : Nat) (g : StreamRec) : Nat :=
  packBits [(4, g.kind), (6, dev), (12, g.jobSlot), (8, g.attempt), (32, g.pass), (12, g.layer), (1, b2n g.shadow),
    (1, b2n g.late), (1, b2n g.poison), (32, g.aux), (13, g.data.length), (32, g.objectId), (70, 0)]

/-- A stream record's bytes (R264). -/
def strmBytes (dev : Nat) (g : StreamRec) : Bytes :=
  let h := le 28 (strmBits dev g)
  le 4 (crc32c h) ++ h ++ g.data

/-- A snoop request's 62 bytes (R119). -/
def snoopBytes (q : SnoopReq) : Bytes :=
  packBytes [(8, q.line), (1, q.kind), (1, q.requester), (2, q.snoopId), (2, q.generation), (4, q.entry),
    (8, q.targets.foldl (fun a d => a ||| 2 ^ d) 0), (36, 0)]

/-- An ACCEPT message's 16-byte header (R354). -/
def acceptHeader (kind fromDev toDev msgId logSeq fragOffset bytes : Nat) (last : Bool) : Bytes :=
  le 16 (packBits [(4, kind), (6, fromDev), (6, toDev), (16, msgId), (32, logSeq), (19, fragOffset), (9, bytes),
    (1, b2n last), (35, 0)])

/-- Bits of a RECEIPT_CLEAR's body (R354). -/
def clearBody (dev slot : Nat) : Bytes := le 8 (dev % 64 + 65536 * (slot % 4096))

/-- The snoop requests of a SNOOP payload: a place of type 0 holds none (R119). -/
def snoopsOf (p : Bytes) : List SnoopReq :=
  (List.range 8).filterMap fun i =>
    let b := slice p (62 * i) 62
    if fld b 8 1 = 0 then none
    else some { line := fld b 0 8, kind := fld b 8 1, requester := fld b 9 1, snoopId := fld b 10 2,
                generation := fld b 12 2, entry := fld b 14 4,
                targets := (List.range 64).filter fun d => bit (fld b 18 8) d }

/-- The ACCEPT message of a payload (R354). -/
def acceptOf (p : Bytes) : SlotMsg :=
  let w := fld p 0 16
  .accept (bits w 127 124) (bits w 123 118) (bits w 117 112) (bits w 111 96) (bits w 95 64) (bits w 63 45) (bit w 35)
    (slice p 16 (bits w 44 36))

/-- A CONTROL message's arguments as bytes, each led by its length (the model's encoding, log 18). -/
def argsBytes (args : List Nat) : Bytes :=
  args.flatMap fun a => let n := if a = 0 then 0 else Nat.log2 a / 8 + 1
    le 1 n ++ le n a

/-- Arguments read back; `fuel` bounds their number. -/
def argsOf (fuel : Nat) (b : Bytes) : List Nat :=
  match fuel, b with
  | 0, _ => []
  | _, [] => []
  | k + 1, n :: r => unle (r.take n.toNat) :: argsOf k (r.drop n.toNat)

/-- The payload of a CONTROL slot: sender, code, message identifier, the fragment's offset and bytes, the last mark, and the
fragment (the model's encoding, log 18). -/
def controlPayload (fromDev msgId code at_ : Nat) (args : List Nat) : Bytes :=
  let b := (argsBytes args).drop at_
  packBytes [(1, fromDev), (1, code), (2, msgId), (4, at_), (2, min 480 b.length), (1, b2n (decide (b.length ≤ 480))), (5, 0)] ++
    b.take 480

/-- The CONTROL message of a payload; of a message of several slots a fragment alone is not one. -/
def controlOf (p : Bytes) : SlotMsg :=
  if fld p 4 4 = 0 ∧ fld p 10 1 = 1 then
    .control (fld p 0 1) (fld p 2 2) (fld p 1 1) (argsOf 480 (slice p 16 (fld p 8 2)))
  else .empty

/-- A receipt's 16 bytes: state 1 SEALED (R363). -/
def receiptBytes (attempt tide : Nat) : Bytes := le 16 (packBits [(2, 1), (8, attempt), (64, tide), (54, 0)])

/-! The logbook. -/

/-- A record's header bytes 0 to 59 (R356). -/
def recordHead (r : LogRec) : Bytes :=
  packBytes [(4, 0x4C424B31), (1, r.kind), (1, r.owner % 64 + 64 * b2n r.replica), (1, r.queue), (1, r.attempt),
    (8, r.seq % 2 ^ 48), (2, r.jobSlot % 4096), (2, r.command), (4, r.body.length), (8, r.tide), (8, r.logSeq),
    (4, b2n r.stageBound + 2 * b2n r.redelivered), (1, r.queueOwner), (15, 0)]

/-- A record's bytes, padded to 64 (R356). -/
def recordBytes (r : LogRec) : Bytes :=
  let h := recordHead r
  padTo 64 (h ++ le 4 (crc32c (h ++ r.body)) ++ r.body)

/-- Bytes a record takes in the ring (R356). -/
def recordSize (r : LogRec) : Nat := 64 + roundUp r.body.length 64

/-! Job descriptors. -/

/-- CRANE.COLLECTIVE's 128 bytes (R159). -/
def craneBytes (d : CraneDesc) : Bytes :=
  packBytes [(1, d.collective), (1, d.op), (1, d.inFormat), (1, d.outFormat), (1, d.rounding), (1, d.policy),
    (1, d.tileCode), (1, d.flags), (2, d.charter), (2, d.memberCount), (2, d.sourceIndex), (2, d.memberTimeout),
    (8, d.elementCount), (8, d.memberList), (4, d.shardTiles), (4, d.programId), (4, d.seed), (4, 0), (8, d.outVa),
    (8, d.sealVa), (8, d.sealValue), (8, d.spillBase), (8, d.spillBytes), (40, 0)]

/-- CRANE.COLLECTIVE's descriptor from its bytes (R159). -/
def craneOf (b : Bytes) : CraneDesc :=
  { collective := fld b 0 1, op := fld b 1 1, inFormat := fld b 2 1, outFormat := fld b 3 1, rounding := fld b 4 1,
    policy := fld b 5 1, tileCode := fld b 6 1, flags := fld b 7 1, charter := fld b 8 2, memberCount := fld b 10 2,
    sourceIndex := fld b 12 2, memberTimeout := fld b 14 2, elementCount := fld b 16 8, memberList := fld b 24 8,
    shardTiles := fld b 32 4, programId := fld b 36 4, seed := fld b 40 4, outVa := fld b 48 8, sealVa := fld b 56 8,
    sealValue := fld b 64 8, spillBase := fld b 72 8, spillBytes := fld b 80 8 }

/-- STEVEDORE.MOVE's 128 bytes (R178). -/
def stevBytes (d : StevDesc) : Bytes :=
  packBytes [(1, d.op), (1, d.idxFormat), (1, d.spaces), (1, d.flags), (1, d.elemFormat), (1, d.outFormat),
    (1, d.rounding), (1, d.engines), (2, d.charter), (1, d.recordBytes), (1, d.indexOffset), (4, d.rowSize),
    (8, d.indexCount), (8, d.idxAddr), (8, d.srcAddr), (8, d.dstAddr), (8, d.rowCount), (8, d.baseAddr),
    (8, d.accBase), (8, d.bagAddr), (4, d.bagCount), (4, d.seed), (8, d.sealTable), (8, d.sealValue), (24, 0)]

/-- STEVEDORE.MOVE's descriptor from its bytes (R178). -/
def stevOf (b : Bytes) : StevDesc :=
  { op := fld b 0 1, idxFormat := fld b 1 1, spaces := fld b 2 1, flags := fld b 3 1, elemFormat := fld b 4 1,
    outFormat := fld b 5 1, rounding := fld b 6 1, engines := fld b 7 1, charter := fld b 8 2,
    recordBytes := fld b 10 1, indexOffset := fld b 11 1, rowSize := fld b 12 4, indexCount := fld b 16 8,
    idxAddr := fld b 24 8, srcAddr := fld b 32 8, dstAddr := fld b 40 8, rowCount := fld b 48 8,
    baseAddr := fld b 56 8, accBase := fld b 64 8, bagAddr := fld b 72 8, bagCount := fld b 80 4, seed := fld b 84 4,
    sealTable := fld b 88 8, sealValue := fld b 96 8 }

/-- The Customs commands' 128 bytes (R201). -/
def custBytes (d : CustDesc) : Bytes :=
  packBytes [(1, d.op), (1, d.metric), (1, d.vecFormat), (1, d.spaces), (1, d.flags), (1, d.engines), (1, d.batch),
    (1, d.termCount), (2, d.charter), (2, d.dim), (2, d.k), (1, d.listCount), (1, 0), (8, d.rowCount),
    (8, d.storeAddr), (4, d.stride), (4, d.indexBase), (8, d.attrAddr), (8, d.schemaAddr), (8, d.queryAddr),
    (8, d.outAddr), (8, d.outCapacity), (4, d.programId), (4, 0), (8, d.workBase), (8, d.sealVa), (8, d.sealValue),
    (8, d.listAddr), (8, 0)]

/-- The Customs commands' descriptor from its bytes (R201). -/
def custOf (b : Bytes) : CustDesc :=
  { op := fld b 0 1, metric := fld b 1 1, vecFormat := fld b 2 1, spaces := fld b 3 1, flags := fld b 4 1,
    engines := fld b 5 1, batch := fld b 6 1, termCount := fld b 7 1, charter := fld b 8 2, dim := fld b 10 2,
    k := fld b 12 2, listCount := fld b 14 1, rowCount := fld b 16 8, storeAddr := fld b 24 8, stride := fld b 32 4,
    indexBase := fld b 36 4, attrAddr := fld b 40 8, schemaAddr := fld b 48 8, queryAddr := fld b 56 8,
    outAddr := fld b 64 8, outCapacity := fld b 72 8, programId := fld b 80 4, workBase := fld b 88 8,
    sealVa := fld b 96 8, sealValue := fld b 104 8, listAddr := fld b 112 8 }

/-- The codec commands' 64 bytes (R242). -/
def codecBytes (d : CodecDesc) : Bytes :=
  packBytes [(1, d.op), (1, d.elemWidth), (1, d.spaces), (1, d.modeMask), (1, d.engines), (3, 0), (2, d.charter),
    (2, 0), (4, d.objectId), (8, d.rawBytes), (8, d.rawAddr), (8, d.indexAddr), (8, d.payloadBase), (8, d.sealVa),
    (8, d.sealValue)]

/-- The codec commands' descriptor from its bytes (R242). -/
def codecOf (b : Bytes) : CodecDesc :=
  { op := fld b 0 1, elemWidth := fld b 1 1, spaces := fld b 2 1, modeMask := fld b 3 1, engines := fld b 4 1,
    charter := fld b 8 2, objectId := fld b 12 4, rawBytes := fld b 16 8, rawAddr := fld b 24 8,
    indexAddr := fld b 32 8, payloadBase := fld b 40 8, sealVa := fld b 48 8, sealValue := fld b 56 8 }

/-- STREAM.SCHEDULE's 64 bytes (R255). -/
def streamBytes (d : StreamDesc) : Bytes :=
  packBytes [(1, 0), (1, d.windowLayers), (1, d.tclass), (1, 0), (2, d.charter), (2, d.layerCount), (2, d.group),
    (2, d.prefetchCap), (4, d.leadTides), (8, d.startTide), (4, d.passTides), (4, d.passCount), (8, d.layerTable),
    (8, d.windowBase), (4, d.slotBytes), (4, d.shadowSlotBytes), (8, d.shadowBase)]

/-- STREAM.SCHEDULE's descriptor from its bytes (R255). -/
def streamOf (b : Bytes) : StreamDesc :=
  { windowLayers := fld b 1 1, tclass := fld b 2 1, charter := fld b 4 2, layerCount := fld b 6 2, group := fld b 8 2,
    prefetchCap := fld b 10 2, leadTides := fld b 12 4, startTide := fld b 16 8, passTides := fld b 24 4,
    passCount := fld b 28 4, layerTable := fld b 32 8, windowBase := fld b 40 8, slotBytes := fld b 48 4,
    shadowSlotBytes := fld b 52 4, shadowBase := fld b 56 8 }

/-- COPY.RUN's 64 bytes (R414). -/
def copyBytes (d : CopyDesc) : Bytes :=
  packBytes [(1, d.spaces), (7, 0), (2, d.charter), (6, 0), (8, d.bytes), (8, d.srcAddr), (8, d.dstAddr),
    (8, d.sealVa), (8, d.sealValue), (8, 0)]

/-- COPY.RUN's block from its bytes (R414). -/
def copyOf (b : Bytes) : CopyDesc :=
  { spaces := fld b 0 1, charter := fld b 8 2, bytes := fld b 16 8, srcAddr := fld b 24 8, dstAddr := fld b 32 8,
    sealVa := fld b 40 8, sealValue := fld b 48 8 }

/-- TIER.PLACE's block in the model's own layout, which the chapters do not tabulate (log 6). -/
def placeBytes (d : PlaceDesc) : Bytes :=
  packBytes [(1, d.tier), (7, 0), (2, d.charter), (2, 0), (4, d.objectId), (8, d.srcVa), (8, d.bytes),
    (8, d.stageAddr), (24, 0)]

/-- TIER.PLACE's block from the model's layout (log 6). -/
def placeOf (b : Bytes) : PlaceDesc :=
  { tier := fld b 0 1, charter := fld b 8 2, objectId := fld b 12 4, srcVa := fld b 16 8, bytes := fld b 24 8,
    stageAddr := fld b 32 8 }

/-- A job's descriptor bytes. -/
def descBytes (d : JobDesc) : Bytes :=
  match d with
  | .crane d => craneBytes d
  | .stev d => stevBytes d
  | .cust d => custBytes d
  | .codec d => codecBytes d
  | .stream d => streamBytes d
  | .copy d => copyBytes d
  | .place d => placeBytes d

/-- Command codes of the job commands (R413). -/
def cmdCrane : Nat := 0x1001
def cmdStev : Nat := 0x1101
def cmdScan : Nat := 0x1201
def cmdScore : Nat := 0x1202
def cmdMerge : Nat := 0x1203
def cmdEncode : Nat := 0x1301
def cmdDecode : Nat := 0x1302
def cmdStream : Nat := 0x1401
def cmdPlace : Nat := 0x1501
def cmdCopy : Nat := 0x1601

/-- A job's descriptor from its command code and its ACCEPT record's body (R356, R358). -/
def descOf (command : Nat) (b : Bytes) : Option JobDesc :=
  if command = cmdCrane then some (.crane (craneOf b))
  else if command = cmdStev then some (.stev (stevOf b))
  else if command = cmdScan ∨ command = cmdScore ∨ command = cmdMerge then some (.cust (custOf b))
  else if command = cmdEncode ∨ command = cmdDecode then some (.codec (codecOf b))
  else if command = cmdStream then some (.stream (streamOf b))
  else if command = cmdPlace then some (.place (placeOf b))
  else if command = cmdCopy then some (.copy (copyOf b))
  else none

/-! Mailbox commands. -/

/-- A command's header as it lies in a ring (R407). -/
structure RawHdr where
  command : Nat
  flags : Nat
  units : Nat
  tag : Nat
  seq : Nat
  queue : Nat
  owner : Nat
  bodyBytes : Nat
  rest : Nat
  deriving DecidableEq, Repr

/-- A command's header from its 32 bytes (R407). -/
def rawHdr (b : Bytes) : RawHdr :=
  { command := fld b 0 2, flags := fld b 2 1, units := fld b 3 1, tag := fld b 4 4, seq := fld b 8 6,
    queue := fld b 14 1, owner := fld b 15 1, bodyBytes := fld b 16 4, rest := fld b 20 12 }

/-- An IDENTIFY control block's bytes (R280). -/
def identBytes (i : Ident) : Bytes :=
  packBytes [(1, i.partClass), (4, i.partCode), (1, i.role), (1, i.widths), (1, i.deviceId), (1, b2n i.coherent),
    (1, b2n i.refuse)]

/-- Does every value of an entry fit its field; base_fpa holds bits [55:16] of an address (R44)? -/
def entryFits (e : Entry) : Bool :=
  decide (e.baseFpa < 2 ^ 56 ∧ e.baseFpa % 2 ^ 16 = 0 ∧ e.sizeCode < 2 ^ 4 ∧ e.tier < 4 ∧ e.cls < 4 ∧ e.redundancy < 8 ∧
    e.charter < 2 ^ 12 ∧ e.ownerHost < 2 ^ 12 ∧ e.generation < 2 ^ 16 ∧ e.keyEpoch < 4 ∧ e.state < 4 ∧
    e.memberPerm < 8 ∧ e.homeDevice < 64 ∧ e.shadowEntry < 2 ^ 19 ∧ e.objectId < 2 ^ 32)

/-! Link blocks. -/

/-- A link block's header field and payload (R281). -/
structure LinkHdr where
  kind : Nat
  seq : Nat
  ack : Nat
  pool : Nat
  count : Nat
  resend : Bool
  unitMap : Nat
  channel : Nat
  first : Bool
  last : Bool
  itemKind : Nat
  bytes : Nat
  deriving DecidableEq, Repr

/-- A link block's header (R281). -/
def linkHdr (b : Bytes) : LinkHdr :=
  let w := fld b 0 12
  { kind := bits w 95 92, seq := bits w 91 80, ack := bits w 79 68, pool := bits w 67 66, count := bits w 65 58,
    resend := bit w 57, unitMap := bits w 56 26, channel := bits w 56 49, first := bit w 48, last := bit w 47,
    itemKind := bits w 46 44, bytes := bits w 43 35 }

/-- A block's CRC passes (R281). -/
def linkCrcOk (b : Bytes) : Bool := decide (b.length = 512 ∧ fld b 508 4 = crc32c (b.take 508))

/-- The bytes of a sequenced REQ or RSP block (R281, R282). -/
def linkBlock (kind seq ack unitMap : Nat) (resend : Bool) (payload : Bytes) : Bytes :=
  let w := packBits [(4, kind), (12, seq), (12, ack), (2, 0), (8, 0), (1, b2n resend), (31, unitMap), (26, 0)]
  let b := le 12 w ++ fit 496 payload
  b ++ le 4 (crc32c b)

/-- The bytes of a STRM block (R281, R283). -/
def strmBlock (seq ack channel itemKind : Nat) (resend first last : Bool) (payload : Bytes) : Bytes :=
  let w := packBits [(4, 3), (12, seq), (12, ack), (2, 0), (8, 0), (1, b2n resend), (8, channel), (1, b2n first),
    (1, b2n last), (3, itemKind), (9, payload.length), (9, 0), (26, 0)]
  let b := le 12 w ++ fit 496 payload
  b ++ le 4 (crc32c b)

end Sys2Proof.Machine
end

