-- ==== Sys2Proof/Machine/Ops.lean ====
section
/-! DEFINITION. The operations every family shares: who runs (gates), reason codes and events (R469, R482 to R484), answers
(R404, R410, R411), outputs, the tide's arithmetic, and free values (log 1). -/

namespace Sys2Proof.Machine
open Sys2Proof

/-- What a step answers. -/
abbrev Ans := Host.Outcome State Fault Refusal

/-- The core runs: its rail is up and no reset holds it (R450, R478). -/
def coreRuns (s : State) : Bool := s.isl.corePower && decide (s.isl.resetState = .running)

/-- The firmware runs and takes commands (R420, R424, R435, R468). -/
def fwRuns (s : State) : Bool :=
  coreRuns s && s.hm.fwReady && !s.hm.frozen && s.hm.activateAt.isNone

/-- The Harbourmaster's firmware runs: from the commit of an activation to its boundary it takes no command, and goes on with the
rest (R13, R424, R435). -/
def hmRuns (s : State) : Bool := coreRuns s && s.hm.fwReady && !s.hm.frozen

/-- The ROM is in recovery and serves mailbox 0 (R430). -/
def inRecovery (s : State) : Bool := s.isl.corePower && decide (s.isl.resetState = .recovery)

/-- The restrictions of confidential mode hold: from its entry on, and after a warm reset while the lockout latch is set (R380,
R480). -/
def locked (s : State) : Bool := s.sec.confidential || s.sec.latch

/-- A step of the core: nothing while the core is off or in reset (R450). -/
def onCore (s : State) (f : State → State) : Ans := .next (if coreRuns s then f s else s)

/-- What the firmware does without a command: nothing while it does not run (R420, R424, R435). -/
def onHm (s : State) (f : State → State) : Ans := .next (if hmRuns s then f s else s)

/-- A step of the firmware: nothing while it does not run (R420, R424). -/
def onFw (s : State) (f : State → State) : Ans := .next (if fwRuns s then f s else s)

/-- This device's ID (R467). -/
def self (s : State) : Nat := s.isl.devid

/-- Time in tenths of a nanosecond since the last cold reset release: a reference cycle is 6.4 ns (R11). -/
def now10 (s : State) : Nat := s.refCycles * 64

/-- Time in nanoseconds. -/
def nowNs (s : State) : Nat := s.refCycles * 64 / 10

/-- Tide length in ns for a code (R14). -/
def tideNs (code : Nat) : Nat := 512 * 2 ^ code

/-- Tide length in force in ns. -/
def tau (s : State) : Nat := tideNs s.tide.lengthCode

/-- Something transmitted. -/
def emit (o : Out) (s : State) : State := { s with out := s.out ++ [o] }

/-- A fresh free value and the state after drawing it. -/
def draw (s : State) : Nat × State := (Config.free s.freeCount, { s with freeCount := s.freeCount + 1 })

/-! Signals. -/

/-- One microsecond in reference cycles, rounded up (R11). -/
def usCycles : Nat := 157

/-- A vector signalled to the companion in the last microsecond (R446). -/
def signalledLately (v : Nat) (s : State) : Bool :=
  match tget s.tel.signalled v with
  | some c => decide (s.refCycles < c + usCycles)
  | none => false

/-- SIGNAL of a vector, at most once a microsecond: one that comes sooner waits for its time (R446). -/
def signal (v : Nat) (s : State) : State :=
  if signalledLately v s then { s with tel := { s.tel with owed := insertSorted v s.tel.owed } }
  else emit (.signal v) { s with tel := { s.tel with signalled := tput s.tel.signalled v s.refCycles } }

/-- The signals whose time has come (R446). -/
def sendOwed (s : State) : State :=
  s.tel.owed.foldl (fun s v => signal v s) { s with tel := { s.tel with owed := [] } }

/-- Is this site the last one that a direction reaches on a broken ring: the site just before the failed link (R26)? The ring is
broken behind the site `broken`. -/
def removesSlots (east : Bool) (s : State) : Bool :=
  match s.ring.broken with
  | none => false
  | some k => if east then s.tide.site == k else s.tide.site == (k + 1) % max 1 s.tide.sites

/-- Does this site, just past the failed link, originate the slots of a direction on a broken ring (R26)? -/
def originates (east : Bool) (s : State) : Bool := s.ring.broken.isSome && removesSlots (!east) s

/-- Site of a device: by the composition's site map (R24), or as ring training found it (R18). -/
def siteOf (dev : Nat) (s : State) : Option Nat :=
  match tget s.man.comp.sites dev with
  | some k => some k
  | none => tget s.ring.map dev

/-- The direction towards a device: the one with fewer hops, eastbound on a tie (R22); on a broken ring the one that reaches it
(R26). -/
def eastTo (dev : Nat) (s : State) : Bool :=
  match siteOf dev s with
  | none => true
  | some k =>
    let n := s.tide.sites
    let hops (x : Nat) : Nat := (x + n - s.tide.site) % max 1 n
    match s.ring.broken with
    | none => decide (hops k ≤ n - hops k)
    | some b => decide (hops k ≤ hops b)

/-- A message for one direction of the ring, to be written into an owned slot (R19). -/
def ringPush (east : Bool) (dest : Option Nat) (m : SlotMsg) (s : State) : State :=
  { s with ring := { s.ring with
      tx := s.ring.tx ++ [{ east := east, dest := dest, msg := m, at_ := 0, slot := none, reissues := 0,
                            routeEpoch := s.man.routeEpoch, compEpoch := s.man.compEpoch }] } }

/-- A message to a device, in the direction of R22 or R26; or, without one, to every member: eastbound, and on a broken ring in
each direction that reaches another site (R26). -/
def ringSend (dest : Option Nat) (m : SlotMsg) (s : State) : State :=
  match dest with
  | some d => ringPush (eastTo d s) dest m s
  | none =>
    if s.ring.broken.isNone then ringPush true none m s
    else ([true, false].filter fun e => !removesSlots e s).foldl (fun s e => ringPush e none m s) s

/-- A CONTROL message's codes. The spec names what CONTROL slots carry and gives their payload no encoding: these numbers, and
the order of the arguments where each message is sent, are the model's (R22; DESIGN CHOICE, log 18). -/
def ctlNotice : Nat := 1
def ctlReady : Nat := 2
def ctlNotReady : Nat := 3
def ctlCommit : Nat := 4
def ctlCancel : Nat := 5
def ctlHeartbeat : Nat := 6
def ctlLoss : Nat := 7
def ctlExclusion : Nat := 8
def ctlModuleFailed : Nat := 9
def ctlRebuildDone : Nat := 10
def ctlDead : Nat := 11
def ctlSpliceGrant : Nat := 12
def ctlSpliceAsk : Nat := 13
def ctlRestore : Nat := 14
def ctlSeqQuery : Nat := 15
def ctlSeqAnswer : Nat := 16
def ctlRotationDone : Nat := 17
def ctlRemovalDone : Nat := 18
def ctlKeyBoundary : Nat := 19
def ctlFwDone : Nat := 20
def ctlResetRequest : Nat := 21
def ctlUncertain : Nat := 22
def ctlPageMap : Nat := 23
def ctlSpanReport : Nat := 24
def ctlSpliceRefused : Nat := 25
def ctlDrainDone : Nat := 26
def ctlQueue : Nat := 27

/-- A CONTROL message to a device, or to every member, under the next message identifier (R26, R28). -/
def control (dest : Option Nat) (code : Nat) (args : List Nat) (s : State) : State :=
  let m := SlotMsg.control (self s) s.ring.nextMsg code args
  ringSend dest m { s with ring := { s.ring with nextMsg := (s.ring.nextMsg + 1) % 65536 } }

/-- A CONTROL message to every member. -/
def broadcast (code : Nat) (args : List Nat) (s : State) : State := control none code args s

/-! Reason codes and events. -/

/-- The codes raised as events of severity INFO (R489). -/
def infoCodes : List Nat :=
  [0x020A, 0x0302, 0x0407, 0x0408, 0x0623, 0x0624, 0x0701, 0x0809, 0x0D0A, 0x0E06, 0x0E14, 0x130D]

/-- The codes raised as events of severity WARNING (R489). -/
def warnCodes : List Nat :=
  [0x0006, 0x0103, 0x0105, 0x0209, 0x0304, 0x0305, 0x0307, 0x0308, 0x0406, 0x0409, 0x0621, 0x0807, 0x0808,
   0x0902, 0x0903, 0x0904, 0x0907, 0x0A06, 0x0A07, 0x0E05, 0x0E0A, 0x0F02, 0x1009, 0x100A, 0x100B, 0x1104, 0x1110,
   0x1111, 0x112B, 0x112C, 0x1203, 0x1204, 0x1205, 0x130B]

/-- The codes raised as events of severity ERROR (R489). -/
def errorCodes : List Nat :=
  [0x0009, 0x0309, 0x050A, 0x0620, 0x0622, 0x0627, 0x080A, 0x0908, 0x0D04, 0x0D05, 0x0D06, 0x0D07, 0x0D08, 0x0F01,
   0x100C, 0x1125, 0x130C]

/-- The codes raised as events of severity CRITICAL (R489). -/
def criticalCodes : List Nat := [0x0F03, 0x1112, 0x1113, 0x1114, 0x1115, 0x130F]

/-- Severity of an event code (R483, R489). -/
def severity (code : Nat) : Nat :=
  if infoCodes.contains code then 0
  else if warnCodes.contains code then 1
  else if errorCodes.contains code then 2
  else if criticalCodes.contains code then 3
  else 0

/-- A code recorded in SUBSYS_REASON (R469). -/
def recordReason (code : Nat) (s : State) : State :=
  if code = 0 then s
  else
    let n := code / 256
    let old := tgetD s.tel.reasons n (0, 0, 0)
    let c := if old.2.1 < 0xFFFF then old.2.1 + 1 else 0xFFFF
    { s with tel := { s.tel with reasons := tput s.tel.reasons n (s.tide.count % 2 ^ 32, c, code) } }

/-- The numbers of an event's optional fields. -/
def evContext : Nat := 0
def evCharter : Nat := 1
def evHost : Nat := 2
def evAddress : Nat := 3
def evCount : Nat := 4
def evSlot : Nat := 5
def evJobDevice : Nat := 6
def evDetail : Nat := 7

/-- An optional 16-bit field: bit 15 says that it is valid; the host link has no number among the port contexts (R442, R482). -/
def optField (fields : List (Nat × Nat)) (k : Nat) : Nat :=
  match fields.find? (fun p => p.1 == k) with
  | some p => if k = evContext ∧ 256 ≤ p.2 then 0 else 0x8000 + p.2 % 0x1000
  | none => 0

/-- A plain field, zero where absent. -/
def numField (fields : List (Nat × Nat)) (k d : Nat) : Nat :=
  match fields.find? (fun p => p.1 == k) with
  | some p => p.2
  | none => d

/-- Is the charter confidential? -/
def isConfidential (c : Nat) (s : State) : Bool :=
  match tget s.man.charters c with
  | some e => e.confidential
  | none => false

/-- Must an event with these fields be redacted (R400)? -/
def redacted (fields : List (Nat × Nat)) (s : State) : Bool :=
  s.sec.confidential && (match fields.find? (fun p => p.1 == evCharter) with
    | some p => isConfidential p.2 s
    | none => false)

/-- The first 60 bytes of an event record (R482). -/
def eventBody (code number : Nat) (summary : Bool) (fields : List (Nat × Nat)) (s : State) : Bytes :=
  let r := redacted fields s
  let hide (n : Nat) : Nat := if r then 0 else n
  le 2 code ++ le 1 (severity code) ++ le 1 (b2n r + 2 * b2n summary) ++ le 1 (self s) ++ le 1 0 ++
  le 2 (optField fields evContext) ++ le 8 s.tide.count ++ le 4 number ++
  le 2 (optField fields evCharter) ++ le 2 (hide (optField fields evHost)) ++
  le 8 (hide (numField fields evAddress 0 % 2 ^ 56)) ++ le 4 (numField fields evCount 1) ++
  le 2 (optField fields evSlot) ++ le 1 (numField fields evJobDevice 0) ++ le 1 0 ++
  le 16 (hide (numField fields evDetail 0)) ++ le 4 0

/-- A whole event record with its CRC (R482). -/
def eventBytes (code number : Nat) (summary : Bool) (fields : List (Nat × Nat)) (s : State) : Bytes :=
  let b := eventBody code number summary fields s
  b ++ le 4 (crc32c b)

/-- A lighter's state, all zero where it was never set (R475). -/
def lighter0 : Lighter :=
  { base := 0, ltSignal := false, enable := false, sizeCode := 0, inTail := 0, inHead := 0, outTail := 0, outHead := 0,
    session := 0, reason := 0, fault := false, bound := false, inCounter := 0, outCounter := 0, failures := 0 }

/-- Lighter l. -/
def lighterOf (l : Nat) (s : State) : Lighter := tgetD s.sec.lighters l lighter0

/-- Lighter l changed. -/
def setLighter (l : Nat) (x : Lighter) (s : State) : State :=
  { s with sec := { s.sec with lighters := tput s.sec.lighters l x } }

/-- A session's secret. -/
def secretOf (id : Nat) (s : State) : Bytes :=
  match s.sec.sessions.find? (fun x => x.id == id) with
  | some x => x.secret
  | none => []

/-- A record towards the companion on lighter l (R392, R393, R446): encrypted under the bound session, the outbound tail
advanced by its units with a wrap unit where it would cross the ring's end (R476), the vector signalled. Discarded while
the lighter is not bound. After 2^32 records no further record is sent. -/
def lighterSend (l content : Nat) (plain : Bytes) (s : State) : State :=
  let x := lighterOf l s
  if !x.enable || !x.bound then s
  else if 2 ^ 32 ≤ x.outCounter then s
  else
    let units := cdiv (48 + roundUp plain.length 16) 64
    let ring := 256 * 2 ^ x.sizeCode
    let at_ := x.outTail % ring
    let wrap := if at_ + units ≤ ring then 0 else ring - at_
    let x' := { x with outTail := (x.outTail + wrap + units) % 2 ^ 32, outCounter := x.outCounter + 1 }
    let s := setLighter l x' s
    let s := emit (.lighter l content x.outCounter
      (Config.gcm (secretOf x.session s) [1, l, x.outCounter] plain)) s
    if x.ltSignal then signal (16 + l) s else s

/-- A record written at the tail of the event ring (R471), or on lighter 0 in confidential mode (R417). -/
def eventWrite (rec : Bytes) (s : State) : State :=
  if locked s then lighterSend 0 3 rec s
  else
    let t := s.tel.evTail
    let s := { s with mbox := mwrite s.mbox (0x200000 + 64 * (t % 4096)) rec,
                      tel := { s.tel with evTail := (t + 1) % 2 ^ 32 } }
    if s.tel.evSignal then signal 32 s else s

/-- The event ring is full (R471). -/
def evFull (s : State) : Bool := decide ((s.tel.evTail + 2 ^ 32 - s.tel.evHead) % 2 ^ 32 = 4096)

/-- A record that found the ring full is lost and counted (R471, R483). -/
def countLost (s : State) : State :=
  { s with tel := { s.tel with evLost := min (s.tel.evLost + 1) 0xFFFFFFFF, evGap := s.tel.evGap + 1 } }

/-- An event record takes its number and is written, or counted as lost in a full ring; a CRITICAL one asserts ALERT_N
(R418, R482, R483). -/
def eventPut (code : Nat) (summary : Bool) (fields : List (Nat × Nat)) (s : State) : State :=
  let n := s.tel.evNumber
  let rec' := eventBytes code n summary fields s
  let s := { s with tel := { s.tel with evNumber := (n + 1) % 2 ^ 32 } }
  let s := if evFull s && !locked s then countLost s else eventWrite rec' s
  if severity code = 3 then { s with isl := { s.isl with alert := true } } else s

/-- An event raised: its code recorded and its record written (R469, R484). -/
def raise (code : Nat) (fields : List (Nat × Nat)) (s : State) : State :=
  eventPut code false fields (recordReason code s)

/-- An event limited to once a period (0 a tide, 1 64 tides, 2 a second) for a key: counted until the period's end (R484). -/
def raiseLimited (code key period : Nat) (fields : List (Nat × Nat)) (n : Nat) (s : State) : State :=
  let s := recordReason code s
  let same (x : Summary) : Bool := x.code == code && x.key == key && x.period == period
  let l := s.tel.summaries
  let l' := if l.any same then l.map (fun x => if same x then { x with count := x.count + n } else x)
    else l ++ [{ code := code, key := key, period := period, count := n, fields := fields }]
  { s with tel := { s.tel with summaries := l' } }

/-- The records of the periods that end now: one each, with summary set and the count (R484). -/
def flushSummaries (period : Nat) (s : State) : State :=
  let due := s.tel.summaries.filter fun x => x.period == period
  let s := { s with tel := { s.tel with summaries := s.tel.summaries.filter fun x => x.period != period } }
  due.foldl (fun s x => eventPut x.code true ((evCount, x.count) :: x.fields) s) s

/-! Answers. -/

/-- A mailbox's state, all zero where it was never used (R473). -/
def mailbox0 : Mailbox :=
  { cmdTail := 0, cmdHead := 0, cplTail := 0, cplHead := 0, signal := false, reserved := 0, waiting := [], posted := [] }

/-- Mailbox m. -/
def boxOf (m : Nat) (s : State) : Mailbox := tgetD s.hm.boxes m mailbox0

/-- Mailbox m changed. -/
def setBox (m : Nat) (b : Mailbox) (s : State) : State := { s with hm := { s.hm with boxes := tput s.hm.boxes m b } }

/-- The fields of an answer (R410). -/
structure Answer where
  command : Nat
  reason : Nat
  tag : Nat
  seq : Nat
  queue : Nat
  kind : Nat
  flags : Nat
  jobDevice : Nat
  state : Nat
  jobSlot : Nat
  detailReason : Nat
  detailDevice : Nat
  body : Bytes
  deriving DecidableEq, Repr

/-- Units of 64 bytes an answer takes (R410). -/
def answerUnits (a : Answer) : Nat := cdiv (32 + a.body.length) 64

/-- An answer's bytes, padded to its units (R410). -/
def answerBytes (a : Answer) (s : State) : Bytes :=
  padTo 64 (le 2 a.command ++ le 2 a.reason ++ le 4 a.tag ++ le 6 a.seq ++ le 1 a.queue ++ le 1 a.kind ++
    le 1 (answerUnits a) ++ le 1 a.flags ++ le 1 a.jobDevice ++ le 1 a.state ++ le 2 a.jobSlot ++
    le 2 a.detailReason ++ le 1 a.detailDevice ++ le 3 0 ++ le 4 (s.tide.count % 2 ^ 32) ++ a.body)

/-- Units before the ring's end at a tail, when an item of n units would cross it (R404). -/
def padUnits (tail n : Nat) : Nat := if tail % 1024 + n ≤ 1024 then 0 else 1024 - tail % 1024

/-- Units of the completion ring in use. -/
def cplUsed (b : Mailbox) : Nat := (b.cplTail + 2 ^ 32 - b.cplHead) % 2 ^ 32

/-- A pad written over the ring's remaining units, then the answer's units, the tail advanced and signalled (R404, R446). -/
def ringPost (m : Nat) (bytes : Bytes) (job : Option (Nat × Nat)) (s : State) : State :=
  let b := boxOf m s
  let n := bytes.length / 64
  let p := padUnits b.cplTail n
  let base := 0x20000 * m + 0x10000
  let padRec : Bytes := zeros 16 ++ le 1 p ++ zeros 47
  let mem := if p = 0 then s.mbox else mwrite s.mbox (base + 64 * (b.cplTail % 1024)) padRec
  let t := (b.cplTail + p) % 2 ^ 32
  let mem := mwrite mem (base + 64 * (t % 1024)) bytes
  let t' := (t + n) % 2 ^ 32
  let b' := { b with cplTail := t', posted := match job with
    | some j => b.posted ++ [(t', j.2)]
    | none => b.posted }
  let s := setBox m b' { s with mbox := mem }
  if b.signal then signal m s else s

/-- An answer posted on mailbox m, or kept until the ring has room; a job completion leaves the reserved units alone (R405). -/
def post (m : Nat) (a : Answer) (job : Option (Nat × Nat)) (s : State) : State :=
  let bytes := answerBytes a s
  let b := boxOf m s
  let n := bytes.length / 64
  let kept := if job.isSome then b.reserved else 0
  if (job.isSome ∧ b.waiting ≠ []) ∨ cplUsed b + padUnits b.cplTail n + n + kept > 1024 then
    setBox m { b with waiting := b.waiting ++ [(bytes, job)] } s
  else ringPost m bytes job s

/-- An answer sent by the path of its command or queue (R417): the lighter of the mailbox, or its ring. A job
completion sent on a lighter counts as consumed when it is sent (log 7). -/
def send (m : Nat) (viaLighter : Bool) (a : Answer) (job : Option (Nat × Nat)) (s : State) : State :=
  if viaLighter || locked s then lighterSend m 2 (answerBytes a s) s else post m a job s

/-- The command of a mailbox and tag is no longer in progress; its reserved units are free (R405). -/
def untake (m tag : Nat) (s : State) : State :=
  match s.hm.taken.find? (fun t => t.mailbox == m && t.tag == tag) with
  | none => s
  | some t =>
    let b := boxOf m s
    let s := { s with hm := { s.hm with taken := s.hm.taken.erase t } }
    setBox m { b with reserved := b.reserved - t.units } s

/-- The one RESULT of a command (R411): its reason recorded, its header and body posted. -/
def resultWith (h : CmdHdr) (code reason : Nat) (detail : Option (Nat × Nat)) (body : Bytes) (s : State) : State :=
  let a : Answer :=
    { command := code, reason := reason, tag := h.tag, seq := 0, queue := 0, kind := 1, flags := 0,
      jobDevice := 0, state := 0, jobSlot := 0,
      detailReason := match detail with | some d => d.2 | none => 0,
      detailDevice := match detail with | some d => 0x80 + d.1 % 64 | none => 0, body := body }
  send h.mailbox h.viaLighter a none (untake h.mailbox h.tag (recordReason reason s))

/-- A RESULT without detail. -/
def result (h : CmdHdr) (code reason : Nat) (body : Bytes) (s : State) : State :=
  resultWith h code reason none body s

/-- The immediate commands whose basic form leaves fields to the firmware (R409, R413); the two forms of the others are the
same. -/
def firmwareChooses (code : Nat) : Bool := [0x0201, 0x0604, 0x0605, 0x1704].contains code

/-- An immediate command of the firmware: its checks give a code, its effect and its return data follow when the code is
zero, and one RESULT is posted; the block as applied leads the body of a basic form (R408, R409, R411, R416). -/
def immediate (h : CmdHdr) (code : Nat) (check : State → Nat) (effect : State → State) (data : State → Bytes)
    (applied : List Nat) (s : State) : Ans :=
  onFw s fun s =>
    let c := check s
    if c ≠ 0 then result h code c [] s
    else
      let lead : Bytes := if h.expert || !firmwareChooses code then [] else Config.blockImage code applied
      result h code 0 (lead ++ data s) (effect s)

/-- A command block field wider than its place is refused (R39, R41, R408): 0 when each value fits its bits. -/
def fits (fs : List (Nat × Nat)) : Bool := fs.all fun p => decide (p.1 < 2 ^ p.2)

/-- The first code that applies of a list of conditions in order, 0 when none does. -/
def firstCode (cs : List (Bool × Nat)) : Nat :=
  match cs.find? (fun c => c.1) with
  | some c => c.2
  | none => 0

/-- The charter's state (R376): 0 FREE, 1 ACTIVE, 2 REMOVING. -/
def charterState (c : Nat) (s : State) : Nat :=
  match tget s.man.charters c with
  | some e => e.state
  | none => 0

/-- Items of a charter handled under its removal: poisoned, refused, and jobs stopped (R397, R398). -/
def countRemoval (c poisoned refused stopped : Nat) (s : State) : State :=
  { s with sec := { s.sec with sweeps := s.sec.sweeps.map fun (x : Sweep) =>
      if x.charter == c && x.removal then
        { x with poisoned := x.poisoned + poisoned, refused := x.refused + refused, stopped := x.stopped + stopped }
      else x } }

/-- Is a host a member of a charter (R376)? -/
def isMember (c h : Nat) (s : State) : Bool := (tgetD s.man.members c []).contains h

/-- The Manifest entry, all zero where never mapped (R44). -/
def entry0 : Entry :=
  { baseFpa := 0, sizeCode := 0, tier := 0, cls := 0, redundancy := 0, charter := 0, ownerHost := 0, generation := 0,
    keyEpoch := 0, state := 0, compressed := false, readOnly := false, shadowLink := false, memberPerm := 0,
    homeDevice := 0, shadowEntry := 0, objectId := 0, reserved := 0 }

/-- Entry i of the Manifest. -/
def entryOf (i : Nat) (s : State) : Entry := tgetD s.man.entries i entry0

/-- Window w of charter c (R41). -/
def windowOf (c w : Nat) (s : State) : Window :=
  tgetD s.man.windows (8 * c + w) { enable := false, sizeCode := 0, firstEntry := 0, entryCount := 0 }

/-- Extent size in bytes for a size code (R41). -/
def extentBytes (code : Nat) : Nat := 65536 * 2 ^ code

/-- Is the device a member of the composition in force? -/
def deviceMember (d : Nat) (s : State) : Bool := s.man.comp.members.contains d

/-- This device is the tide master in force (R15). -/
def isMaster (s : State) : Bool :=
  decide (s.isl.bypass = .open ∨ s.isl.bypass = .closing) && s.tide.hasMaster && decide (s.tide.master = self s)

end Sys2Proof.Machine
end

