-- ==== Sys2Proof/Machine/Accept.lean ====
section
/-! DEFINITION. The acceptance unit's shared operations: job slots, the logbook and its replication, offers, acceptance,
completion, retirement (17_acceptance_and_logbook.md). -/

namespace Sys2Proof.Machine
open Sys2Proof

/-! Jobs. -/

/-- The number of a job among all devices' jobs: 4,096 x device + slot, which also numbers receipts and fences (R363). -/
def jobKey (dev slot : Nat) : Nat := 4096 * dev + slot

/-- A job's number. -/
def keyOf (j : Job) : Nat := jobKey j.device j.slot

/-- The job a command's slot operand names: below 4,096 this device's own job, else 4,096 x (d + 1) + slot for an adopted
job of device d. -/
def jobNo (n : Nat) (s : State) : Nat := if n < 4096 then jobKey (self s) n else n - 4096

/-- The job of a number. -/
def jobOf (key : Nat) (s : State) : Option Job := s.acc.jobs.find? fun j => keyOf j == key

/-- A job changed in its place. -/
def setJob (j : Job) (s : State) : State :=
  { s with acc := { s.acc with jobs := s.acc.jobs.map fun k => if keyOf k == keyOf j then j else k } }

/-- A job added. -/
def addJob (j : Job) (s : State) : State := { s with acc := { s.acc with jobs := s.acc.jobs ++ [j] } }

/-- A job taken out. -/
def dropJob (key : Nat) (s : State) : State :=
  { s with acc := { s.acc with jobs := s.acc.jobs.filter fun j => keyOf j != key } }

/-- The device whose queue a job header names (R373, R407). -/
def queueOwner (h : JobHdr) (dev : Nat) : Nat := if 128 ≤ h.owner then h.owner % 64 else dev

/-- Are two jobs of the same queue? -/
def sameQueue (h k : JobHdr) (dh dk : Nat) : Bool :=
  h.queue == k.queue && queueOwner h dh == queueOwner k dk

/-- The open queue of a number and owner. -/
def queueAt (q owner : Nat) (s : State) : Option JobQueue :=
  s.acc.queues.find? fun x => x.queue == q && x.owner == owner

/-- A queue's next sequence set. -/
def setNext (q owner n : Nat) (s : State) : State :=
  { s with acc := { s.acc with
      queues := s.acc.queues.map fun x => if x.queue == q && x.owner == owner then { x with next := n } else x } }

/-- The attempt number after a (R361). -/
def nextAttempt (a : Nat) : Nat := if 255 ≤ a then 1 else a + 1

/-! The logbook. -/

/-- Do two records concern one job (R368)? -/
def sameJob (a b : LogRec) : Bool :=
  a.owner == b.owner && a.queueOwner == b.queueOwner && a.queue == b.queue && a.seq == b.seq

/-- Does a record concern this job? -/
def ofJob (r : LogRec) (j : Job) : Bool :=
  r.owner == j.device && r.queueOwner == j.hdr.owner && r.queue == j.hdr.queue && r.seq == j.hdr.seq && r.jobSlot == j.slot

/-- A record is live: of a job not yet retired. A replica is dead once RETIRE or VOID of its job has been written after it
(R351, R353, R359). -/
def recordLive (s : State) (after : List LogRec) (r : LogRec) : Bool :=
  if r.kind = 7 ∨ r.kind = 15 then false
  else if r.replica then r.kind != 6 && !(after.any fun x => x.replica && (x.kind == 6 || x.kind == 7) && sameJob x r)
  else s.acc.jobs.any (ofJob r) && !(after.any fun x => !x.replica && x.kind == 7 && sameJob x r)

/-- The live records of a run of the logbook, in order. -/
def liveOf (s : State) (l : List LogRec) : List LogRec :=
  match l with
  | [] => []
  | r :: t => if recordLive s t r then r :: liveOf s t else liveOf s t

/-- The live records of the logbook. -/
def liveRecords (s : State) : List LogRec := liveOf s s.acc.log

/-- Bytes of a list of records in the ring. -/
def recordsSize (l : List LogRec) : Nat := (l.map recordSize).sum

/-- Live bytes of the logbook (R351). -/
def liveBytes (s : State) : Nat := recordsSize (liveRecords s)

/-- The ring less the 8 MiB margin (R351). -/
def logRoom : Nat := 56 * 2 ^ 20

/-- A record put at the tail, after a PAD where it would cross the ring's end (R356). -/
def logPut (r : LogRec) (s : State) : State :=
  let n := recordSize r
  let rest := 2 ^ 26 - s.acc.logTail
  let pad : List LogRec :=
    if n ≤ rest then []
    else [{ kind := 15, owner := self s, replica := false, queue := 0, attempt := 0, seq := 0, jobSlot := 0,
            command := 0, tide := s.tide.count, logSeq := 0, stageBound := false, redelivered := false,
            queueOwner := 0, body := zeros (rest - 64), crcOk := true }]
  let tail := if n ≤ rest then (s.acc.logTail + n) % 2 ^ 26 else n
  { s with acc := { s.acc with log := s.acc.log ++ pad ++ [r], logTail := tail } }

/-- The head past records that are not live; a live head within 8 MiB of the tail is copied to the tail (R359). -/
def logTrim (fuel : Nat) (s : State) : State :=
  match fuel with
  | 0 => s
  | k + 1 =>
    match s.acc.log with
    | [] => s
    | r :: rest =>
      let s' := { s with acc := { s.acc with log := rest } }
      if !recordLive s rest r then logTrim k s'
      else if recordsSize s.acc.log ≤ logRoom then s
      else
        let c := { r with logSeq := s.acc.nextLog }
        logTrim k { logPut c s' with acc := { (logPut c s').acc with nextLog := s.acc.nextLog + 1 } }

/-- A record appended with the next record number (R356). -/
def logAppend (r : LogRec) (s : State) : State :=
  let s := logPut { r with logSeq := s.acc.nextLog } s
  logTrim (2 * s.acc.log.length) { s with acc := { s.acc with nextLog := s.acc.nextLog + 1 } }

/-- A record of a job (R356). -/
def recordOf (kind : Nat) (body : Bytes) (j : Job) (s : State) : LogRec :=
  { kind := kind, owner := j.device, replica := false, queue := j.hdr.queue, attempt := j.attempt, seq := j.hdr.seq,
    jobSlot := j.slot, command := j.command, tide := s.tide.count, logSeq := s.acc.nextLog,
    stageBound := j.stageBound, redelivered := false, queueOwner := j.hdr.owner, body := body, crcOk := true }

/-! ACCEPT messages. -/

/-- A record's fragments of up to 480 bytes on the ring, with message numbers from a first one (R354). -/
def sendFragments (dest : Nat) (r : LogRec) (msg0 : Nat) (s : State) : State :=
  let b := recordBytes r
  let n := cdiv b.length 480
  (List.range n).foldl (fun s i =>
    ringSend (some dest)
      (.accept 1 (self s) dest ((msg0 + i) % 65536) (r.logSeq % 2 ^ 32) (480 * i) (decide (i + 1 = n))
        ((b.drop (480 * i)).take 480)) s) s

/-- The number of fragments of a record. -/
def fragments (r : LogRec) : Nat := cdiv (recordSize r) 480

/-- A record sent to a device, its answer awaited (R355). -/
def sendRecord (dest : Nat) (sync : Bool) (r : LogRec) (s : State) : State :=
  let m := s.ring.nextMsg
  let s := sendFragments dest r m s
  let s := { s with ring := { s.ring with nextMsg := (m + fragments r) % 65536 } }
  { s with acc := { s.acc with
      tx := s.acc.tx ++ [{ msgId := m, dest := dest, clear := none, record := some r, sync := sync, resends := 0,
                            sentTide := s.tide.count }] } }

/-- A record of a job written to the logbook and sent to the buddy; a domain of one device has none (R352, R353, R357). -/
def logJob (kind : Nat) (body : Bytes) (sync : Bool) (j : Job) (s : State) : State :=
  let r := recordOf kind body j s
  let s := logAppend r s
  match s.acc.buddy with
  | none => s
  | some b => sendRecord b sync r s

/-- An 8-byte PROGRESS item (R357). -/
def progressItem (code value : Nat) : Nat := code * 2 ^ 60 + value % 2 ^ 60

/-- A PROGRESS item logged for a job, by the device that runs it (R357). -/
def logProgress (code value : Nat) (j : Job) (s : State) : State :=
  if j.guest.isSome then setJob j s
  else
    let i := progressItem code value
    logJob 3 (le 8 i) false j (setJob { j with log := j.log ++ [i] } s)

/-! Receipts and fences of this home. -/

/-- A job's receipt EMPTY and its fence entry free at this home (R85, R366). -/
def clearHere (key : Nat) (s : State) : State :=
  { s with home := { s.home with receipts := tdel s.home.receipts key, fences := tdel s.home.fences key } }

/-- RECEIPT_CLEAR to a home (R354, R366). -/
def sendClear (homeDev dev slot : Nat) (s : State) : State :=
  let m := s.ring.nextMsg
  let s := { s with ring := { s.ring with nextMsg := (m + 1) % 65536 } }
  let s := ringSend (some homeDev) (.accept 3 (self s) homeDev m 0 0 false (clearBody dev slot)) s
  { s with acc := { s.acc with
      tx := s.acc.tx ++ [{ msgId := m, dest := homeDev, clear := some (dev, slot), record := none, sync := false,
                            resends := 0, sentTide := s.tide.count }] } }

/-! Retirement. -/

/-- A job whose RETIRE has completed: its slot is free from now on, with the last attempt it used (R351, R361, R367). An
adopted job held no slot of this device. -/
def freeSlot (j : Job) (s : State) : State :=
  let s := dropJob (keyOf j) s
  if j.device = self s then
    { s with acc := { s.acc with slots := tput s.acc.slots j.slot (s.tide.count, j.attempt) } }
  else s

/-- DELIVERED and RETIRE written, the receipts cleared (R366). -/
def retireJob (key : Nat) (s : State) : State :=
  match jobOf key s with
  | none => s
  | some j =>
    let homes := j.fenced.foldl (fun l h => insertSorted h l) (j.sealed.foldl (fun l h => insertSorted h l) [])
    let mask := homes.foldl (fun a h => a + 2 ^ h) 0
    let away := homes.filter fun h => h != self s
    let s := logJob 5 [] false j s
    let j := { j with phase := .retiring, clears := away }
    let s := setJob j s
    let s := logJob 6 (le 8 mask) false j s
    let s := if homes.contains (self s) then clearHere key s else s
    let s := away.foldl (fun s h => sendClear h j.device j.slot s) s
    if away = [] then freeSlot j s else s

/-! Answers of jobs. -/

/-- An answer of a job (R410). -/
def jobAnswer (h : JobHdr) (command kind reason flags dev st slot : Nat) (body : Bytes) : Answer :=
  { command := command, reason := reason, tag := h.hdr.tag, seq := h.seq, queue := h.queue, kind := kind,
    flags := flags, jobDevice := dev, state := st, jobSlot := slot, detailReason := 0, detailDevice := 0,
    body := body }

/-- A submission refused: one RESULT, no sequence number used (R349, R350). -/
def refuseJob (h : JobHdr) (command reason st : Nat) (s : State) : State :=
  send h.hdr.mailbox h.hdr.viaLighter (jobAnswer h command 1 reason 0 0 st 0 []) none
    (untake h.hdr.mailbox h.hdr.tag (recordReason reason s))

/-- The mailbox and path of a job's queue: the queue's, mailbox 0 for one no longer open (R411, R417). -/
def noticePath (j : Job) (s : State) : Nat × Bool :=
  match queueAt j.hdr.queue (queueOwner j.hdr j.device) s with
  | some q => (q.mailbox, q.viaLighter)
  | none => (0, false)

/-- The ACCEPTED notice of a job, the command no longer in progress (R350, R411). -/
def postAccepted (j : Job) (s : State) : State :=
  let p := noticePath j s
  send p.1 p.2 (jobAnswer j.hdr j.command 2 0 0 j.device 0 j.slot (descBytes j.desc)) none
    (untake j.hdr.hdr.mailbox j.hdr.hdr.tag s)

/-- A job's completion posted; while the firmware is down it is posted when the firmware is ready (R365, R411, R420). A
completion on a lighter counts as consumed when it is sent (log 7). -/
def postComplete (redelivered : Bool) (j : Job) (s : State) : State :=
  let s := setJob { j with phase := .posted } s
  if !hmRuns s then s
  else
    let p := noticePath j s
    let adopted := decide (j.device ≠ self s)
    let a := jobAnswer j.hdr j.command 3 j.reason (b2n redelivered + 2 * b2n adopted) j.device 0 j.slot j.result
    let s := send p.1 p.2 a (some (0, keyOf j)) (recordReason j.reason s)
    if p.2 || locked s then retireJob (keyOf j) s else s

/-- COMPLETE written for a job with its code and result header; posted once the buddy has acknowledged it (R365). -/
def completeJob (key reason : Nat) (result : Bytes) (s : State) : State :=
  match jobOf key s with
  | none => s
  | some j =>
    let j := { j with phase := .completing, reason := reason, result := result }
    let s := logJob 4 result true j (setJob j s)
    match s.acc.buddy with
    | none => postComplete false j s
    | some _ => s

/-! Offers. -/

/-- Slots that hold a job of this device. -/
def usedSlots (s : State) : List Nat := (s.acc.jobs.filter fun j => j.device == self s).map fun j => j.slot

/-- The slot that has been free longest and was not retired within the last 16,384 tides (R351). -/
def allocSlot (s : State) : Option Nat :=
  let used := usedSlots s
  match (List.range 4096).find? fun k => !(used.contains k) && (tget s.acc.slots k).isNone with
  | some k => some k
  | none =>
    let free := s.acc.slots.filter fun p => !(used.contains p.1) && decide (p.2.1 + 16384 ≤ s.tide.count)
    match free with
    | [] => none
    | p :: r => some (r.foldl (fun b q => if q.2.1 < b.2.1 then q else b) p).1

/-- The Stage tables a job names that its ACCEPT record carries (R358). -/
def attachments (d : JobDesc) (s : State) : Bytes :=
  match d with
  | .crane d => mread s.stage d.memberList (2 * d.memberCount)
  | .stev d => if bit d.spaces 2 then mread s.stage d.sealTable 512 else []
  | .cust d =>
    let schema := if d.op = 3 ∨ (d.op = 2 ∧ bit d.flags 0 = false) then []
      else mread s.stage d.schemaAddr (16 + 8 * mfld s.stage (d.schemaAddr + 2) 1 + 24 * d.termCount)
    let lists := if d.op = 3 then mread s.stage d.listAddr (8 * d.listCount) else []
    schema ++ lists
  | .stream d => mread s.stage d.layerTable (64 * d.layerCount)
  | _ => []

/-- Does a job name Stage inputs or outputs that are not copied (R358)? -/
def stageBoundOf (d : JobDesc) : Bool :=
  match d with
  | .crane d => decide (d.spillBytes ≠ 0)
  | .stev d => !(bit d.spaces 0 && bit d.spaces 1 && bit d.spaces 2) || (bit d.flags 1 && !bit d.spaces 3) ||
      decide (d.accBase ≠ 0) || decide (d.bagCount ≠ 0)
  | .cust d => !(bit d.spaces 0 && bit d.spaces 3) || decide (d.workBase ≠ 0) ||
      (decide (d.op = 2) && (!bit d.spaces 2 || (bit d.flags 0 && !bit d.spaces 1)))
  | .codec d => !(bit d.spaces 0 && bit d.spaces 1 && bit d.spaces 2)
  | .stream _ => true
  | .copy d => !(bit d.spaces 0 && bit d.spaces 1)
  | .place _ => true

/-- The little-endian 16-bit entries of a table. -/
def table16 (b : Bytes) : List Nat :=
  match b with
  | x :: y :: r => (x.toNat + 256 * y.toNat) :: table16 r
  | _ => []

/-- A job's progress at its start, its tables taken from the ACCEPT record (R358). -/
def startSt (d : JobDesc) (attach : Bytes) : JobSt :=
  match d with
  | .crane _ =>
    let ms := (table16 attach).map fun h => h % 4096
    .crane { members := ms, live := ms, parts := [], heard := [], counts := [], excluded := [], firstDead := none, tiles := [], waiting := [],
             sealedTiles := 0, shortTiles := 0, lastUsed := 0, saturated := 0, inOverflow := 0, poisonedTiles := 0,
             nanOut := 0, discarded := 0 }
  | .stev _ => .stev { filled := 0, written := 0, issued := [], waitFill := [], waitRows := [], held := [], bags := [], indices := 0, oob := 0,
                       poisoned := [], indexLost := false, sized := false }
  | .cust _ => .cust { queries := [], decoded := [], cursor := [], badQueries := [], examined := 0, passed := 0, poisoned := 0, nan := 0, incomplete := false,
                       sorters := [], matches_ := [], passDone := 0, merged := false, truncated := false }
  | .codec _ => .codec { cursor := [], blocks := 0, blocksPoisoned := 0, firstBad := none, storedTotal := 0 }
  | .stream _ => .stream { pass := 0, layer := 0, forms := [], delivery := none, earliest := 0, asked := 0,
                           full := 0, shadows := 0, late := 0, poisoned := 0, abandoned := 0 }
  | .copy _ => .copy { copied := 0, granulesPoisoned := 0 }
  | .place _ => .copy { copied := 0, granulesPoisoned := 0 }

/-- A job offered for acceptance. -/
def newJob (slot dev command lastAttempt : Nat) (h : JobHdr) (d : JobDesc) (attach : Bytes) : Job :=
  { slot := slot, device := dev, command := command, hdr := h, desc := d, attach := attach, phase := .offered, attempt := lastAttempt,
    attempts := 0, startTide := 0, firstTide := none, seed := 0, stageBound := stageBoundOf d, awaitFence := [], fenced := [],
    sent := [], sealsSent := false, sealed := [], reason := 0, st := startSt d attach, landing := [], badWrites := [],
    result := [], clears := [], log := [], guest := none }

/-- A job accepted: its queue's next sequence advanced and the notice posted; a notice owed while the firmware is down is
posted when it is ready (R350, R420). -/
def acceptJob (key : Nat) (s : State) : State :=
  match jobOf key s with
  | none => s
  | some j =>
    let j := { j with phase := .accepted }
    let s := setNext j.hdr.queue (queueOwner j.hdr j.device) (j.hdr.seq + 1) (setJob j s)
    if hmRuns s then postAccepted j s else s

/-- An offer that fails: VOID written, the submission refused (R351). -/
def voidJob (key reason : Nat) (s : State) : State :=
  match jobOf key s with
  | none => s
  | some j =>
    let s := logJob 7 [] false j s
    refuseJob j.hdr j.command reason 0 (dropJob key s)

/-- A job's state as DUPLICATE gives it: 1 ACCEPTED, 2 COMPLETE, 3 RETIRED (R349, R410). -/
def dupState (h : JobHdr) (s : State) : Nat :=
  match s.acc.jobs.find? fun j => j.guest.isNone && sameQueue j.hdr h j.device (self s) && j.hdr.seq == h.seq with
  | none => 3
  | some j =>
    match j.phase with
    | .posted => 2
    | .delivered => 2
    | .retiring => 3
    | _ => 1

/-- A submission judged against its queue, and offered when its turn has come (R349 to R351). -/
def judge (h : JobHdr) (command : Nat) (d : JobDesc) (s : State) : State :=
  match queueAt h.queue (queueOwner h (self s)) s with
  | none => refuseJob h command 0x1301 0 s
  | some q =>
    if q.next < h.seq then refuseJob h command 0x1302 0 s
    else if h.seq < q.next then refuseJob h command 0x1303 (dupState h s) s
    else
      match allocSlot s with
      | none => refuseJob h command 0x1305 0 s
      | some slot =>
        let attach := attachments d s
        let j := newJob slot (self s) command (tgetD s.acc.slots slot (0, 0)).2 h d attach
        let body := descBytes d ++ attach
        if logRoom < liveBytes s + 64 + roundUp body.length 64 then refuseJob h command 0x1304 0 s
        else
          let s := logJob 1 body true j (addJob j s)
          match s.acc.buddy with
          | none => acceptJob (keyOf j) s
          | some _ => s

/-- Is a submission to this queue being offered? -/
def offerBusy (h : JobHdr) (s : State) : Bool :=
  s.acc.jobs.any fun j => decide (j.phase = .offered) && sameQueue j.hdr h j.device (self s)

/-- Submissions may be judged at all: the device is a member (R454), its new buddy has every record (R353), no commanded
flush runs (R371), and it is not frozen (R424). -/
def offersOpen (s : State) : Bool :=
  deviceMember (self s) s && s.acc.rebuddy.isEmpty && s.acc.flush.isNone && !s.hm.frozen

/-- The waiting submissions that may be judged now, in order of arrival (R349). -/
def judgeWaiting (fuel : Nat) (s : State) : State :=
  match fuel with
  | 0 => s
  | k + 1 =>
    match s.acc.waiting.find? fun w => offersOpen s && !offerBusy w.1 s with
    | none => s
    | some w =>
      judgeWaiting k (judge w.1 w.2.1 w.2.2 { s with acc := { s.acc with waiting := s.acc.waiting.erase w } })

/-- Waiting submissions reconsidered. -/
def wakeOffers (s : State) : State := judgeWaiting s.acc.waiting.length s

/-- A submission whose descriptor check has passed waits for its turn, and is judged when it has come (R349). -/
def submitChecked (h : JobHdr) (command : Nat) (d : JobDesc) (s : State) : State :=
  wakeOffers { s with acc := { s.acc with waiting := s.acc.waiting ++ [(h, command, d)] } }

/-- Reserved bits of a descriptor: those above the charter, and of the space, flag and mode bytes (R5, R159, R178, R201, R242, R255,
R408, R414). R408's step comes before the descriptor's own check. -/
def descReserved (d : JobDesc) : Bool :=
  match d with
  | .crane d => decide (4096 ≤ d.charter ∨ 2 ≤ d.flags)
  | .stev d => decide (4096 ≤ d.charter ∨ 16 ≤ d.spaces ∨ 4 ≤ d.flags)
  | .cust d => decide (4096 ≤ d.charter ∨ 16 ≤ d.spaces ∨ 4 ≤ d.flags)
  | .codec d => decide (4096 ≤ d.charter ∨ 8 ≤ d.spaces ∨ 8 ≤ d.modeMask)
  | .stream d => decide (4096 ≤ d.charter)
  | .copy d => decide (4096 ≤ d.charter ∨ 4 ≤ d.spaces)
  | .place d => decide (4096 ≤ d.charter)

/-- The fields firmware chooses in a basic form that a descriptor sets (R159, R178, R201, R242, R255, R409). -/
def basicSet (d : JobDesc) : Bool :=
  match d with
  | .crane d => decide (d.policy ≠ 0 ∨ d.rounding ≠ 0 ∨ d.memberTimeout ≠ 0 ∨ d.seed ≠ 0 ∨ d.spillBase ≠ 0 ∨
      d.spillBytes ≠ 0 ∨ d.flags ≠ 0 ∨ d.programId ≠ 0 ∨ d.tileCode ≠ 0)
  | .stev d => decide (d.flags ≠ 0 ∨ d.baseAddr ≠ 0 ∨ d.rounding ≠ 0 ∨ d.seed ≠ 0 ∨ d.accBase ≠ 0 ∨ d.engines ≠ 0)
  | .cust d => decide (d.engines ≠ 0 ∨ d.indexBase ≠ 0 ∨ d.workBase ≠ 0 ∨ 2 ≤ d.flags ∨ d.programId ≠ 0)
  | .codec d => decide (d.modeMask ≠ 0 ∨ d.engines ≠ 0)
  | .stream d => decide (d.tclass ≠ 0 ∨ d.prefetchCap ≠ 0 ∨ d.windowLayers ≠ 0 ∨ d.slotBytes ≠ 0 ∨
      d.shadowSlotBytes ≠ 0 ∨ d.windowBase ≠ 0 ∨ d.shadowBase ≠ 0)
  | .copy _ => false
  | .place d => decide (d.stageAddr ≠ 0)

/-- A job command: header checks 4 to 6 of R408, the fields firmware fills in the basic form (R409), the command's own
check, then the offer. -/
def submit (h : JobHdr) (command : Nat) (desc : JobDesc) (fill : State → JobDesc × State)
    (check : JobDesc → State → Nat) (s : State) : Ans :=
  onFw s fun s =>
    if descReserved desc = true ∨ 64 ≤ h.owner % 128 ∨ (h.owner < 128 ∧ h.owner ≠ 0) then refuseJob h command 0x0003 0 s
    else if !h.hdr.expert && basicSet desc then refuseJob h command 0x0004 0 s
    else if h.seq = 0 then refuseJob h command 0x0007 0 s
    else
      let p := if h.hdr.expert then (desc, s) else fill s
      let c := check p.1 p.2
      if c ≠ 0 then refuseJob h command c 0 s else submitChecked h command p.1 p.2

/-! Completion room. -/

/-- Answers that waited for room are posted as the ring has it, in order (R405). -/
def drainWaiting (fuel m : Nat) (s : State) : State :=
  match fuel with
  | 0 => s
  | k + 1 =>
    let b := boxOf m s
    match b.waiting with
    | [] => s
    | (bytes, job) :: r =>
      let n := bytes.length / 64
      if cplUsed b + padUnits b.cplTail n + n > 1024 then s
      else drainWaiting k m (ringPost m bytes job (setBox m { b with waiting := r } s))

/-- Job completions whose units lie before the completion head are consumed: DELIVERED, then RETIRE (R366, R411). -/
def consumePosted (m old new : Nat) (s : State) : State :=
  let b := boxOf m s
  let gone (p : Nat × Nat) : Bool := decide ((p.1 + 2 ^ 32 - old) % 2 ^ 32 ≤ (new + 2 ^ 32 - old) % 2 ^ 32)
  let done := b.posted.filter gone
  let s := setBox m { b with posted := b.posted.filter fun p => !gone p } s
  done.foldl (fun s p => retireJob p.2 s) s

/-! Buddy. -/

/-- The buddy the composition gives a device: the one assigned, else the next member in ascending order, wrapping round,
leaving out those named; none in a domain of one (R352, R353). -/
def buddyOf (d : Nat) (out : List Nat) (c : Composition) : Option Nat :=
  let live := c.members.filter fun m => m != d && !(out.contains m)
  match tget c.buddies d with
  | some b => if live.contains b then some b else
      (match live.find? fun m => decide (d < m) with | some m => some m | none => live.head?)
  | none => match live.find? fun m => decide (d < m) with | some m => some m | none => live.head?

/-- A synchronous record is as good as acknowledged when the domain has no other member: offers are accepted and
completions posted (R352). -/
def settleAlone (s : State) : State :=
  let s := (s.acc.jobs.filter fun j => j.phase == .offered).foldl (fun s j => acceptJob (keyOf j) s) s
  (s.acc.jobs.filter fun j => j.phase == .completing).foldl (fun s j => postComplete false j s) s

/-- A queue opened or closed is announced to the devices that may come to adopt it (R373; log 17). -/
def announceQueue (queue owner : Nat) (opened : Bool) (s : State) : State :=
  match s.acc.buddy with
  | none => s
  | some _ => broadcast ctlQueue [self s, queue, owner, if opened then 1 else 0] s

/-- What a device announced of one of its queues (R373; log 17). -/
def peerQueue (holder queue owner : Nat) (opened : Bool) (s : State) : State :=
  let rest := s.acc.peers.filter fun x => x != (holder, queue, owner)
  { s with acc := { s.acc with peers := if opened then rest ++ [(holder, queue, owner)] else rest } }

/-- At the loss of a device its buddy holds the queues it held open (R373; log 17). -/
def passQueues (d : Nat) (heir : Option Nat) (s : State) : State :=
  let rest := s.acc.peers.filter fun x => x.1 != d
  let moved := match heir with
    | some b =>
      if b = self s then [] else (s.acc.peers.filter fun (x : Nat × Nat × Nat) => x.1 == d).map fun (x : Nat × Nat × Nat) => (b, x.2)
    | none => []
  { s with acc := { s.acc with peers := rest ++ moved.filter fun x => !rest.contains x } }

/-- A new buddy takes the ACCEPT and latest ATTEMPT record of every job not retired, and every record the old one had not
acknowledged; submissions wait until it has acknowledged the former (R353, R355). -/
def rebuddyTo (b : Option Nat) (s : State) : State :=
  if b = s.acc.buddy then s
  else
    let open_ := s.acc.tx.filterMap fun t => t.record
    let s := { s with acc := { s.acc with buddy := b, tx := s.acc.tx.filter fun t => t.record.isNone, rebuddy := [] } }
    match b with
    | none => settleAlone s
    | some d =>
      let mine := (liveRecords s).filter fun r => !r.replica
      let latest (r : LogRec) : Bool :=
        !(mine.any fun x => x.kind == r.kind && sameJob x r && decide (r.logSeq < x.logSeq))
      let recs := mine.filter fun r => (r.kind == 1 || r.kind == 2) && latest r
      let s := recs.foldl (fun s r => sendRecord d true r s) s
      let rest := open_.filter fun r => r.kind != 1 && r.kind != 2
      let s := rest.foldl (fun s r => sendRecord d (r.kind == 4) r s) s
      let s := s.acc.queues.foldl (fun s q => announceQueue q.queue q.owner true s) s
      { s with acc := { s.acc with rebuddy := recs.map fun r => r.logSeq } }

end Sys2Proof.Machine
end

