-- ==== Sys2Proof/Machine/Float.lean ====
section
/-! DEFINITION. Number formats (R131 to R137, R187): exact values, rounding, packing. A finite value is m × 2^e. -/

namespace Sys2Proof.Machine
open Sys2Proof

/-- A value of a float format: a NaN with its sign, an infinity, or (-1)^neg × m × 2^e. -/
inductive Num where
  | nan (neg : Bool)
  | inf (neg : Bool)
  | fin (neg : Bool) (m : Nat) (e : Int)
  deriving DecidableEq, Repr

/-- A signed integer mantissa. -/
def signed (neg : Bool) (m : Nat) : Int := if neg then -(m : Int) else m

/-- A signed integer as a value, +0 for zero. -/
def ofInt (z : Int) : Num := .fin (decide (z < 0)) z.natAbs 0

/-- Exact sum of two values; an exact zero sum is +0 unless both are −0 (R134). -/
def addNum (a b : Num) : Num :=
  match a, b with
  | .nan n, _ => .nan n
  | _, .nan n => .nan n
  | .inf n, .inf k => if n = k then .inf n else .nan false
  | .inf n, _ => .inf n
  | _, .inf n => .inf n
  | .fin n m e, .fin k p f =>
    let g := min e f
    let z := signed n m * 2 ^ (e - g).toNat + signed k p * 2 ^ (f - g).toNat
    if z = 0 then .fin (n && k) 0 g else .fin (decide (z < 0)) z.natAbs g

/-- Exact product. -/
def mulNum (a b : Num) : Num :=
  match a, b with
  | .nan n, _ => .nan n
  | _, .nan n => .nan n
  | .inf n, .inf k => .inf (n != k)
  | .inf n, .fin k p _ => if p = 0 then .nan false else .inf (n != k)
  | .fin k p _, .inf n => if p = 0 then .nan false else .inf (n != k)
  | .fin n m e, .fin k p f => .fin (n != k) (m * p) (e + f)

/-- A value's negative. -/
def negNum (a : Num) : Num :=
  match a with
  | .nan n => .nan n
  | .inf n => .inf !n
  | .fin n m e => .fin (!n) m e

/-- Is a below b among numbers (−0 equals +0); false with a NaN. -/
def ltNum (a b : Num) : Bool :=
  match a, b with
  | .nan _, _ => false
  | _, .nan _ => false
  | .inf n, .inf k => n && !k
  | .inf n, _ => n
  | _, .inf k => !k
  | .fin n m e, .fin k p f =>
    let g := min e f
    decide (signed n m * 2 ^ (e - g).toNat < signed k p * 2 ^ (f - g).toNat)

/-- Do a and b have the same value; false with a NaN. -/
def eqNum (a b : Num) : Bool :=
  match a, b with
  | .nan _, _ => false
  | _, .nan _ => false
  | _, _ => !(ltNum a b) && !(ltNum b a)

/-- Is a value negative by its sign bit? -/
def isNeg (a : Num) : Bool :=
  match a with
  | .nan n => n
  | .inf n => n
  | .fin n _ _ => n

/-- Is it a NaN? -/
def isNan (a : Num) : Bool :=
  match a with
  | .nan _ => true
  | _ => false

/-- minimum of IEEE 754-2019: NaN operands give NaN, −0 is less than +0 (R134). -/
def minNum (a b : Num) : Num :=
  if isNan a then a else if isNan b then b
  else if ltNum a b then a else if ltNum b a then b else if isNeg a then a else b

/-- maximum of IEEE 754-2019 (R134). -/
def maxNum (a b : Num) : Num :=
  if isNan a then a else if isNan b then b
  else if ltNum a b then b else if ltNum b a then a else if isNeg a then b else a

/-- How a value between two neighbours is rounded: to nearest even, or up with the probability its distance gives, by a
random number below 2^32 (R137). -/
inductive RoundMode where
  | even
  | stochastic (r : Nat)
  deriving DecidableEq, Repr

/-- RoundMode m × 2^e to a multiple of 2^q: the multiple's count. -/
def roundAt (mode : RoundMode) (m : Nat) (e q : Int) : Nat :=
  if q ≤ e then m * 2 ^ (e - q).toNat
  else
    let s := (q - e).toNat
    let d := m / 2 ^ s
    let r := m % 2 ^ s
    let up := match mode with
      | .even => decide (2 ^ s < 2 * r ∨ (2 ^ s = 2 * r ∧ d % 2 = 1))
      | .stochastic x => decide ((x % 2 ^ 32) * 2 ^ s < r * 2 ^ 32)
    if up then d + 1 else d

/-- The exponent of the spacing at m × 2^e in a format of mb fraction bits and lowest exponent emin. -/
def spacing (mb : Nat) (emin : Int) (m : Nat) (e : Int) : Int :=
  max ((Nat.log2 m : Int) + e) emin - mb

/-- Bits of an IEEE-like format of eb exponent and mb fraction bits for k × 2^q, k × 2^q being representable: the biased
exponent and fraction as one number. -/
def packFin (eb mb k : Nat) (q : Int) : Nat :=
  let bias : Int := 2 ^ (eb - 1) - 1
  if k < 2 ^ mb then k
  else
    let up := 2 ^ (mb + 1) ≤ k
    let k' := if up then k / 2 else k
    let q' := if up then q + 1 else q
    ((q' + mb + bias).toNat) * 2 ^ mb + (k' - 2 ^ mb)

/-- Value of an IEEE-like format's bits, `special` saying whether the top exponent holds infinities and NaNs. -/
def unpackFin (eb mb : Nat) (special : Bool) (w : Nat) : Num :=
  let neg := bit w (eb + mb)
  let x := bits w (eb + mb - 1) mb
  let f := w % 2 ^ mb
  let bias : Int := 2 ^ (eb - 1) - 1
  if special && x == 2 ^ eb - 1 then (if f = 0 then .inf neg else .nan neg)
  else if x = 0 then .fin neg f (1 - bias - mb)
  else .fin neg (2 ^ mb + f) ((x : Int) - bias - mb)

/-- Value of a binary32 bit pattern. -/
def dec32 (w : BitVec 32) : Num := unpackFin 8 23 true w.toNat

/-- A value as binary32, rounded to nearest even; a NaN is 0x7FC0_0000 with the given further bits. -/
def enc32 (nan : Nat) (a : Num) : BitVec 32 :=
  match a with
  | .nan _ => BitVec.ofNat 32 (0x7FC00000 ||| nan % 2 ^ 32)
  | .inf n => BitVec.ofNat 32 (b2n n * 2 ^ 31 + 0x7F800000)
  | .fin n m e =>
    let q := spacing 23 (-126) m e
    let k := roundAt .even m e q
    let p := packFin 8 23 k q
    BitVec.ofNat 32 (b2n n * 2 ^ 31 + min p 0x7F800000)

/-- A NaN of the engines whose sign and payload IEEE 754 leaves open. -/
def anyNan (a b : BitVec 32) : Nat := Config.nanBits a b

/-- binary32 sum, round to nearest even (R134). -/
def add32 (a b : BitVec 32) : BitVec 32 := enc32 (anyNan a b) (addNum (dec32 a) (dec32 b))

/-- binary32 sum with the one NaN of FADD32 and of programs (R94, R208). -/
def fadd32 (a b : BitVec 32) : BitVec 32 := enc32 0 (addNum (dec32 a) (dec32 b))

/-- binary32 minimum and maximum (R134). -/
def min32 (a b : BitVec 32) : BitVec 32 :=
  let m := minNum (dec32 a) (dec32 b)
  if isNan m then enc32 (anyNan a b) m else enc32 0 m

/-- binary32 maximum (R134). -/
def max32 (a b : BitVec 32) : BitVec 32 :=
  let m := maxNum (dec32 a) (dec32 b)
  if isNan m then enc32 (anyNan a b) m else enc32 0 m

/-! Element formats (R131). -/

/-- Is this code listed (R131)? -/
def formatListed (f : Nat) : Bool := decide (f ≤ 0x0D ∨ f = 0x10)

/-- The integer family. -/
def intFormat (f : Nat) : Bool := f == 5 || f == 6 || f == 7 || f == 16

/-- The MX formats. -/
def mxFormat (f : Nat) : Bool := decide (8 ≤ f ∧ f ≤ 13)

/-- Bits of an element. -/
def elemBits (f : Nat) : Nat :=
  if f = 0 ∨ f = 7 then 32
  else if f = 1 ∨ f = 2 ∨ f = 6 then 16
  else if f = 10 ∨ f = 11 then 6
  else if f = 12 then 4
  else if f = 16 then 64
  else 8

/-- Elements one lane adds per cycle (R131). -/
def perLane (f : Nat) : Nat :=
  if f = 3 ∨ f = 4 ∨ f = 5 ∨ f = 8 ∨ f = 9 ∨ f = 13 then 2 else if f = 10 ∨ f = 11 ∨ f = 12 then 4 else 1

/-- Bytes of n elements, MX ones with a scale byte for every 32 (R132). -/
def packedBytes (f n : Nat) : Nat := (if mxFormat f then n / 32 else 0) + n * elemBits f / 8

/-- Value of an element's bits before any shared scale (R131). -/
def elemValue (f w : Nat) : Num :=
  if f = 0 then unpackFin 8 23 true w
  else if f = 1 then unpackFin 8 7 true w
  else if f = 2 then unpackFin 5 10 true w
  else if f = 3 ∨ f = 8 then (if w % 128 = 127 then .nan (bit w 7) else unpackFin 4 3 false w)
  else if f = 4 ∨ f = 9 then unpackFin 5 2 true w
  else if f = 10 then unpackFin 3 2 false w
  else if f = 11 then unpackFin 2 3 false w
  else if f = 12 then unpackFin 2 1 false w
  else if f = 13 then
    let z : Int := if w < 128 then w else (w : Int) - 256
    .fin (decide (z < 0)) z.natAbs (-6)
  else .fin false w 0

/-- A two's complement number of n bits. -/
def sext (n w : Nat) : Int := if bit w (n - 1) then (w : Int) - 2 ^ n else w

/-- An MX element under its scale byte; scale 0xFF makes it NaN (R132). -/
def scaled (scale : Nat) (a : Num) : Num :=
  if scale = 255 then .nan false
  else
    match a with
    | .fin n m e => .fin n m (e + scale - 127)
    | x => x

/-- Elements of a packed byte string, little-endian within bytes (R132). -/
def unpackElems (f : Nat) (b : Bytes) : List Nat :=
  let w := elemBits f
  if w = 4 then b.flatMap fun x => [x.toNat % 16, x.toNat / 16]
  else if w = 6 then go6 b
  else goN (w / 8) (b.length / (w / 8)) b
where
  go6 (b : Bytes) : List Nat :=
    match b with
    | x :: y :: z :: r =>
      let v := unle [x, y, z]
      bits v 5 0 :: bits v 11 6 :: bits v 17 12 :: bits v 23 18 :: go6 r
    | _ => []
  goN (k n : Nat) (b : Bytes) : List Nat :=
    match n with
    | 0 => []
    | i + 1 => unle (b.take k) :: goN k i (b.drop k)

/-- Elements packed (R132). -/
def packElems (f : Nat) (l : List Nat) : Bytes :=
  let w := elemBits f
  if w = 4 then go4 l
  else if w = 6 then go6 l
  else l.flatMap fun x => le (w / 8) x
where
  go4 (l : List Nat) : Bytes :=
    match l with
    | x :: y :: r => BitVec.ofNat 8 (x % 16 + 16 * (y % 16)) :: go4 r
    | [x] => [BitVec.ofNat 8 (x % 16)]
    | [] => []
  go6 (l : List Nat) : Bytes :=
    match l with
    | a :: b :: c :: d :: r => le 3 (a % 64 + 64 * (b % 64) + 4096 * (c % 64) + 262144 * (d % 64)) ++ go6 r
    | _ => []

/-- Values of a group of n elements in an MX format: n ÷ 32 scale bytes, then the elements (R132, R187). -/
def groupValues (f n : Nat) (b : Bytes) : List Num :=
  let scales := b.take (n / 32)
  let es := unpackElems f (slice b (n / 32) (n * elemBits f / 8))
  (es.zip (List.range n)).map fun p => scaled ((scales.getD (p.2 / 32) 0#8).toNat) (elemValue f p.1)

/-- The values of packed elements of a float-family format; MX data in groups of 1,024 (R132). -/
def floatValues (f n : Nat) (b : Bytes) : List Num :=
  if mxFormat f then goG (n / 1024) b
  else (unpackElems f (fit (n * elemBits f / 8) b)).map (elemValue f)
where
  goG (k : Nat) (b : Bytes) : List Num :=
    match k with
    | 0 => []
    | j + 1 => groupValues f 1024 (b.take (packedBytes f 1024)) ++ goG j (b.drop (packedBytes f 1024))

/-- The values of packed elements of an integer format. -/
def intValues (f n : Nat) (b : Bytes) : List Int :=
  (unpackElems f (fit (n * elemBits f / 8) b)).map fun w => sext (elemBits f) w

/-- Is a value beyond the FP32 range, so that it becomes an infinity (R133)? -/
def beyond32 (a : Num) : Bool :=
  match a with
  | .fin _ m e => decide (m ≠ 0) && decide (128 ≤ (Nat.log2 m : Int) + e)
  | _ => false

/-- An input element as FP32 (R133). -/
def toF32 (a : Num) : BitVec 32 :=
  match a with
  | .nan n => BitVec.ofNat 32 (b2n n * 2 ^ 31 + 0x7FC00000)
  | x => enc32 0 x

/-- An output element: its bits, whether it counts in `saturated`, and whether in `nan_out` (R135). -/
structure OutElem where
  w : Nat
  sat : Bool
  nan : Bool
  deriving DecidableEq, Repr

/-- A small float format with saturation: eb and mb bits, largest finite pattern, and how infinities and NaNs come out. -/
def satElem (mode : RoundMode) (eb mb big infW nanW : Nat) (infSat : Bool) (a : Num) : OutElem :=
  let s (n : Bool) : Nat := b2n n * 2 ^ (eb + mb)
  match a with
  | .nan n => { w := s n + nanW, sat := false, nan := true }
  | .inf n => { w := s n + infW, sat := infSat, nan := false }
  | .fin n m e =>
    let q := spacing mb (2 - 2 ^ (eb - 1)) m e
    let k := roundAt mode m e q
    let p := packFin eb mb k q
    if big < p then { w := s n + big, sat := true, nan := false } else { w := s n + p, sat := false, nan := false }

/-- A half-width format with infinities: eb and mb bits (R135). -/
def halfElem (mode : RoundMode) (eb mb : Nat) (a : Num) : OutElem :=
  let s (n : Bool) : Nat := b2n n * 2 ^ (eb + mb)
  let top := (2 ^ eb - 1) * 2 ^ mb
  match a with
  | .nan n => { w := s n + top + 2 ^ (mb - 1), sat := false, nan := true }
  | .inf n => { w := s n + top, sat := false, nan := false }
  | .fin n m e =>
    let q := spacing mb (2 - 2 ^ (eb - 1)) m e
    let k := roundAt mode m e q
    let p := packFin eb mb k q
    if top ≤ p then { w := s n + top, sat := true, nan := false } else { w := s n + p, sat := false, nan := false }

/-- MXINT8: value × 2^6 rounded, symmetric range ±127 (R135). -/
def int8Elem (mode : RoundMode) (a : Num) : OutElem :=
  match a with
  | .fin n m e =>
    let k := roundAt mode m e (-6)
    let k' := min k 127
    { w := if n ∧ k' ≠ 0 then 256 - k' else k', sat := decide (127 < k), nan := false }
  | _ => { w := 0, sat := false, nan := true }

/-- An accumulator in a float output format without shared scale (R135). -/
def outElem (f : Nat) (mode : RoundMode) (x : BitVec 32) : OutElem :=
  let a := dec32 x
  if f = 1 then halfElem mode 8 7 a
  else if f = 2 then halfElem mode 5 10 a
  else if f = 3 then satElem mode 4 3 126 126 127 true a
  else if f = 4 then satElem mode 5 2 0x7B 0x7C 0x7E false a
  else { w := x.toNat, sat := false, nan := isNan a }

/-- An MX element of a block, its value already divided by the scale (R136). -/
def mxElem (f : Nat) (mode : RoundMode) (a : Num) : OutElem :=
  if f = 8 then satElem mode 4 3 126 126 127 true a
  else if f = 9 then satElem mode 5 2 0x7B 0x7B 0x7E true a
  else if f = 10 then satElem mode 3 2 31 31 31 true a
  else if f = 11 then satElem mode 2 3 31 31 31 true a
  else if f = 12 then satElem mode 2 1 7 7 7 true a
  else int8Elem mode a

/-- emax of an MX element format (R136). -/
def emaxOf (f : Nat) : Int := if f = 8 then 8 else if f = 9 then 15 else if f = 10 then 4 else if f = 13 then 0 else 2

/-- floor(log2) of a value's magnitude. -/
def exponent (a : Num) : Int :=
  match a with
  | .fin _ m e => (Nat.log2 m : Int) + e
  | _ => 0

/-- Does a value have a nonzero finite magnitude? -/
def nonzero (a : Num) : Bool :=
  match a with
  | .fin _ m _ => decide (m ≠ 0)
  | _ => false

/-- Is it finite? -/
def finite (a : Num) : Bool :=
  match a with
  | .fin _ _ _ => true
  | _ => false

/-- A block of 32 accumulators in an MX format: its scale byte and elements (R136). -/
def mxBlock (f : Nat) (modes : List RoundMode) (xs : List (BitVec 32)) : Nat × List OutElem :=
  let vs := xs.map dec32
  if vs.any fun v => !(finite v) then (255, vs.map fun _ => { w := 0, sat := false, nan := true })
  else if vs.all fun v => !(nonzero v) then (0, vs.map fun _ => { w := 0, sat := false, nan := false })
  else
    let top := ((vs.filter nonzero).map exponent).foldl max (-200)
    let x := max (-127) (min 127 (top - emaxOf f))
    let down (v : Num) : Num := match v with
      | .fin n m e => .fin n m (e - x)
      | y => y
    ((x + 127).toNat, (vs.zip modes).map fun p => mxElem f p.2 (down p.1))

/-- An INT64 accumulator in an integer output format, saturated (R135). -/
def intElem (f : Nat) (x : BitVec 64) : OutElem :=
  let n := elemBits f
  let z := x.toInt
  let hi : Int := 2 ^ (n - 1) - 1
  let lo : Int := -(2 ^ (n - 1))
  let c := max lo (min hi z)
  { w := (c % 2 ^ n).toNat, sat := decide (c ≠ z), nan := false }

/-! Correctly rounded operations of programs (R208, R214). -/

/-- Quotient of two values, kept exact enough to round once. -/
def divNum (a b : Num) : Num :=
  match a, b with
  | .nan n, _ => .nan n
  | _, .nan n => .nan n
  | .inf _, .inf _ => .nan false
  | .inf n, .fin k _ _ => .inf (n != k)
  | .fin n _ _, .inf k => .fin (n != k) 0 0
  | .fin n m e, .fin k p f =>
    if p = 0 then (if m = 0 then .nan false else .inf (n != k))
    else
      let t := m * 2 ^ 80
      .fin (n != k) (2 * (t / p) + (if t % p = 0 then 0 else 1)) (e - f - 81)

/-- Square root of a value, kept exact enough to round once. -/
def sqrtNum (a : Num) : Num :=
  match a with
  | .nan n => .nan n
  | .inf n => if n then .nan false else .inf false
  | .fin n m e =>
    if m = 0 then .fin n 0 0
    else if n then .nan false
    else
      let odd := e % 2 ≠ 0
      let m' := (if odd then 2 * m else m) * 2 ^ 80
      let e' := (if odd then e - 1 else e) - 80
      let r := Nat.sqrt m'
      .fin false (2 * r + (if r * r = m' then 0 else 1)) (e' / 2 - 1)

/-- Largest integral value not above a value. -/
def floorNum (a : Num) : Num :=
  match a with
  | .fin n m e =>
    if 0 ≤ e then .fin n m e
    else
      let s := (-e).toNat
      let d := m / 2 ^ s
      let r := m % 2 ^ s
      .fin n (if n ∧ r ≠ 0 then d + 1 else d) 0
  | x => x

/-- A value rounded toward zero to an integer within bounds, NaN giving 0 (R214). -/
def toIntSat (lo hi : Int) (a : Num) : Int :=
  match a with
  | .nan _ => 0
  | .inf n => if n then lo else hi
  | .fin n m e =>
    let t := if 0 ≤ e then m * 2 ^ e.toNat else m / 2 ^ (-e).toNat
    max lo (min hi (signed n t))

end Sys2Proof.Machine
end

