-- ==== Sys2Proof/Machine/Layout.lean ====
section
/-! DEFINITION. Where an extent's granules lie and how rows are computed (R330 to R341), and how granules of confidential
charters are encrypted (R382, R385, R386). -/

namespace Sys2Proof.Machine
open Sys2Proof

/-! The field GF(2^8) of R333, polynomial x^8 + x^4 + x^3 + x^2 + 1. -/

/-- A byte times 2. -/
def gfTwo (x : Byte) : Byte := if x.msb then (x <<< 1) ^^^ 0x1D#8 else x <<< 1

/-- A byte times 2^j. -/
def gfPow2 (j : Nat) (x : Byte) : Byte :=
  match j with
  | 0 => x
  | k + 1 => gfTwo (gfPow2 k x)

/-- The product of two bytes. -/
def gfMul (a b : Byte) : Byte :=
  (List.range 8).foldl (fun acc i => if b.getLsbD i then acc ^^^ gfPow2 i a else acc) 0#8

/-- The inverse of a byte, its 254th power. -/
def gfInv (a : Byte) : Byte :=
  let sq (x : Byte) : Byte := gfMul x x
  let a2 := sq a
  let a4 := sq a2
  let a8 := sq a4
  let a16 := sq a8
  let a32 := sq a16
  let a64 := sq a32
  let a128 := sq a64
  gfMul a2 (gfMul a4 (gfMul a8 (gfMul a16 (gfMul a32 (gfMul a64 a128)))))

/-- A granule times a byte. -/
def gfScale (c : Byte) (g : Bytes) : Bytes := g.map (gfMul c)

/-- A granule of zeros. -/
def zeroGranule : Bytes := zeros 64

/-- P of a row's data granules (R333). -/
def parityP (ds : List Bytes) : Bytes := ds.foldl xorBytes zeroGranule

/-- Q of a row's data granules (R333). -/
def parityQ (ds : List Bytes) : Bytes :=
  (ds.zipIdx).foldl (fun a d => xorBytes a (gfScale (gfPow2 d.2 1#8) d.1)) zeroGranule

/-- The coefficient of data position j in a parity granule: P 0, Q 1. -/
def coef (which j : Nat) : Byte := if which = 0 then 1#8 else gfPow2 j 1#8

/-- The sum of the known granules of a row in a parity, its unknown ones left out. -/
def partialSum (which : Nat) (ds : List (Option Bytes)) : Bytes :=
  (ds.zipIdx).foldl (fun a d => match d.1 with
    | some g => xorBytes a (gfScale (coef which d.2) g)
    | none => a) zeroGranule

/-- A row's data granules, the unknown ones solved from its parity where the equations suffice (R333, R337). -/
def solveRow (ds : List (Option Bytes)) (p q : Option Bytes) : List (Option Bytes) :=
  let unknown := (ds.zipIdx).filterMap fun d => if d.1.isNone then some d.2 else none
  match unknown, p, q with
  | [u], some p, _ => ds.set u (some (xorBytes p (partialSum 0 ds)))
  | [u], none, some q => ds.set u (some (gfScale (gfInv (coef 1 u)) (xorBytes q (partialSum 1 ds))))
  | [u, v], some p, some q =>
    let a := xorBytes p (partialSum 0 ds)
    let b := xorBytes q (partialSum 1 ds)
    let du := gfScale (gfInv (coef 1 u ^^^ coef 1 v)) (xorBytes b (gfScale (coef 1 v) a))
    (ds.set u (some du)).set v (some (xorBytes a du))
  | _, _, _ => ds

/-! Groups and layouts. -/

/-- Members, data positions and parity granules of a mode (R330, R333, R44). -/
def modeWidth (m : Nat) : Nat := if m = 1 then 2 else if m = 2 then 5 else if m = 3 then 9 else if m = 4 then 6 else if m = 5 then 10 else 1
def modeData (m : Nat) : Nat := if m = 2 ∨ m = 4 then 4 else if m = 3 ∨ m = 5 then 8 else 1
def modeParity (m : Nat) : Nat := if m = 1 ∨ m = 2 ∨ m = 3 then 1 else if m = 4 ∨ m = 5 then 2 else 0

/-- Bits [55:38] of an address: device, tray and module (R40). -/
def modAddr (fpa : Nat) : Nat := bits fpa 55 38

/-- The three parts of an 18-bit module address (R40). -/
def modParts (a : Nat) : Nat × Nat × Nat := (bits a 17 12, bits a 11 4, bits a 3 0)

/-- A module's 18-bit address (R40). -/
def modNum (device tray module : Nat) : Nat := device * 4096 + tray * 16 + module

/-- The group of an anchor (R331). -/
def groupAt (anchor : Nat) (s : State) : Option Group :=
  (s.man.groups.find? fun p => p.2.anchor == anchor).map fun p => p.2

/-- A layout: data positions, parity granules, whether parity rotates, the members' addresses, the group, the first
granule's number, and the rows not yet resynced are judged apart. -/
structure Lay where
  k : Nat
  par : Nat
  rot : Bool
  mems : List (Nat × Nat × Nat)
  states : List Nat
  group : Option Nat
  base : Nat
  deriving DecidableEq, Repr

/-- The layout of a group, for an extent at a logical offset (R333). -/
def layGroup (g : Group) (offset : Nat) : Lay :=
  { k := modeData g.mode, par := modeParity g.mode, rot := decide (2 ≤ g.mode),
    mems := g.members.map fun m => (m.device, m.tray, m.module), states := g.members.map fun m => m.state,
    group := some g.groupId, base := offset / 64 }

/-- The layout of an extent (R44, R331). An entry whose group is not defined has no storage. -/
def layOf (e : Entry) (s : State) : Lay :=
  let off := e.baseFpa % 2 ^ 38
  if e.redundancy = 0 then
    { k := 1, par := 0, rot := false, mems := [modParts (modAddr e.baseFpa)], states := [0], group := none,
      base := off / 64 }
  else
    match groupAt (modAddr e.baseFpa) s with
    | some g => layGroup g off
    | none => { k := modeData e.redundancy, par := modeParity e.redundancy, rot := false, mems := [], states := [],
                group := none, base := off / 64 }

/-- Row and data position of a byte offset of the extent (R333). -/
def rowOf (l : Lay) (off : Nat) : Nat := (l.base + off / 64) / l.k
def posOf (l : Lay) (off : Nat) : Nat := (l.base + off / 64) % l.k

/-- The members of a row's parity granules, P first (R333). -/
def parityMembers (l : Lay) (row : Nat) : List Nat :=
  let w := l.k + l.par
  if l.rot then (List.range l.par).map fun i => (row + i) % w else (List.range l.par).map fun i => 1 + i

/-- The members of a row's data positions, in ascending member order (R333). -/
def dataMembers (l : Lay) (row : Nat) : List Nat :=
  (List.range (l.k + l.par)).filter fun m => !((parityMembers l row).contains m)

/-- The member of data position j. -/
def dataMember (l : Lay) (row j : Nat) : Nat := (dataMembers l row).getD j 0

/-- Is a row below the rebuild cursor of its extent or keeper range on this device (R340)? -/
def belowCursor (g row : Nat) (s : State) : Bool :=
  s.home.rebuilds.any fun r => r.groupId == g && r.ranges.any fun x => decide (x.1 ≤ row ∧ row < x.2.2)

/-- A module the device treats as failed: declared so, or behind a lost device (R336, R343). -/
def moduleFailed (d t m : Nat) (s : State) : Bool := s.home.failed.contains (d, t, m) || s.ing.lostHomes.contains d

/-- A member is missing at a row: FAILED, treated as failed, or REBUILDING above its cursor (R336, R337). -/
def missing (l : Lay) (row m : Nat) (s : State) : Bool :=
  match l.mems[m]? with
  | none => true
  | some (d, t, mo) =>
    let st := l.states.getD m 1
    st == 1 || moduleFailed d t mo s ||
      (st == 2 && (match l.group with | some g => !belowCursor g row s | none => false))

/-- Members of a row that are not missing. -/
def liveMembers (l : Lay) (row : Nat) (s : State) : List Nat :=
  (List.range (l.k + l.par)).filter fun m => !missing l row m s

/-- The row is beyond tolerance (R337). -/
def beyond (l : Lay) (row : Nat) (s : State) : Bool :=
  decide (l.par < (List.range (l.k + l.par)).countP fun m => missing l row m s)

/-- The cell of a member's granule of a row. -/
def cellOf (row m : Nat) : Nat := 16 * row + m

/-- What a tray answered for a cell: none when it has not answered with a value. -/
def cellVal (got : Tbl (Option Bytes)) (row m : Nat) : Option Bytes := (tget got (cellOf row m)).join

/-- A tray answered POISON for a cell. -/
def cellBad (got : Tbl (Option Bytes)) (row m : Nat) : Bool := decide (tget got (cellOf row m) = some none)

/-- A row's data granules from what was read, solved from parity where the row is recoverable (R337, R338). -/
def rowData (l : Lay) (row : Nat) (got : Tbl (Option Bytes)) (s : State) : List (Option Bytes) :=
  let val (m : Nat) : Option Bytes := if missing l row m s then none else cellVal got row m
  let ds := (dataMembers l row).map val
  if beyond l row s then ds
  else
    match parityMembers l row with
    | [p] => solveRow ds (val p) none
    | [p, q] => solveRow ds (val p) (val q)
    | _ => ds

/-- The members a granule step reads of a row (R335, R337, R338): the data member; with a write, parity too; every live
member when the data member is missing or a member read answered POISON. -/
def needMembers (l : Lay) (row j : Nat) (write : Bool) (got : Tbl (Option Bytes)) (s : State) : List Nat :=
  let d := dataMember l row j
  let live := liveMembers l row s
  if beyond l row s then (if live.contains d then [d] else [])
  else if !live.contains d then live
  else
    let few := if write && l.k != 1 then d :: (parityMembers l row).filter live.contains else [d]
    if few.any fun m => cellBad got row m then live else few

/-- New parity (P 0, Q 1) from the row's old and new data and its old parity: whole from the new data when all of it is
known, else the old parity changed by the granules that changed (R335). -/
def newParity (which : Nat) (old new : List (Option Bytes)) (oldP : Option Bytes) : Option Bytes :=
  if new.all Option.isSome then some (partialSum which new)
  else
    match oldP with
    | none => none
    | some p => some (((List.zip old new).zipIdx).foldl (fun a x => match x.1 with
        | (some o, some n) => xorBytes a (gfScale (coef which x.2) (xorBytes o n))
        | _ => a) p)

/-! Charters' keys and pages. -/

/-- The state of the slot that epoch e of a charter uses: 0 EMPTY, 1 LIVE, 2 RETIRING, 3 REVOKED (R376, R382). -/
def slotState (c e : Nat) (s : State) : Nat :=
  match tget s.man.charters c with
  | none => 0
  | some x => if e % 2 = 0 then x.slot0 else x.slot1

/-- The key of a charter's epoch, while its slot is LIVE or RETIRING and not zeroized (R382, R396, R399). -/
def keyAt (c e : Nat) (s : State) : Option Bytes :=
  let st := slotState c e s
  if s.sec.zeroized.contains c || !(st == 1 || st == 2) then none else tget s.sec.keys (2 * c + e % 2)

/-- The charter's current epoch (R376). -/
def epochOf (c : Nat) (s : State) : Nat := match tget s.man.charters c with | some x => x.epoch | none => 0

/-- The page map's entry of a page: none unwritten, else its epoch (R386). -/
def pageEpoch (entry page : Nat) (s : State) : Option Nat :=
  match tget s.home.pages (2 ^ 18 * entry + page) with
  | some v => if 8 ≤ v then some (v % 4) else none
  | none => none

/-- The page map's entry set written at an epoch. -/
def setPage (entry page epoch : Nat) (s : State) : State :=
  { s with home := { s.home with pages := tput s.home.pages (2 ^ 18 * entry + page) (8 + epoch % 4) } }

/-- The XTS tweak of a granule of an extent (R385). -/
def tweakOf (e : Entry) (off : Nat) : Nat := e.baseFpa + off

/-- The entry, VALID or REVOKED, that names a logical offset of a group (R340, R486), with its index. -/
def extentAt (anchor lo : Nat) (s : State) : Option (Nat × Entry) :=
  s.man.entries.find? fun p =>
    (p.2.state == 1 || p.2.state == 2) && p.2.redundancy != 0 && modAddr p.2.baseFpa == anchor &&
    decide (p.2.baseFpa % 2 ^ 38 ≤ lo ∧ lo < p.2.baseFpa % 2 ^ 38 + extentBytes p.2.sizeCode)

/-- A granule's plaintext as it is stored for an extent: encrypted under an epoch for a confidential charter (R385). -/
def sealGranule (e : Entry) (off epoch : Nat) (v : Bytes) (s : State) : Bytes :=
  if !isConfidential e.charter s then v
  else
    match keyAt e.charter epoch s with
    | some k => Config.xtsEnc k (tweakOf e off) v
    | none => v

/-- A stored granule's plaintext under an epoch; none without its key (R385, R396). -/
def openGranule (e : Entry) (off epoch : Nat) (v : Bytes) (s : State) : Option Bytes :=
  if !isConfidential e.charter s then some v
  else (keyAt e.charter epoch s).map fun k => Config.xtsDec k (tweakOf e off) v

/-- The poison stamp as it is stored at a logical offset of a group: encrypted under the page's epoch for a confidential
extent (R486, R492). -/
def storedStamp (anchor lo : Nat) (s : State) : Bytes :=
  match extentAt anchor lo s with
  | none => stamp
  | some (i, e) =>
    let off := lo - e.baseFpa % 2 ^ 38
    sealGranule e off ((pageEpoch i (off / 4096) s).getD (epochOf e.charter s)) stamp s

end Sys2Proof.Machine
end

