-- ==== Sys2Proof/Machine/Switch.lean ====
section
/-! DEFINITION. The switch core: routes, items entering the shared buffer in their virtual output queues, mirror and sample
copies, matching (R56, R246, R293 to R310, R313 to R317). -/

namespace Sys2Proof.Machine
open Sys2Proof

/-! Contexts and routes. -/

/-- A port context. -/
def ctxAt (n : Nat) (s : State) : Option PortCtx := tget s.ports.ctxs n

/-- A port context put in place. -/
def setCtx (n : Nat) (c : PortCtx) (s : State) : State := { s with ports := { s.ports with ctxs := tput s.ports.ctxs n c } }

/-- A context is up. -/
def ctxUp (n : Nat) (s : State) : Bool := match ctxAt n s with | some c => c.train == .up | none => false

/-- The contexts bound to a host, the host link's for the companion (R443). -/
def ctxsOf (host : Nat) (s : State) : List (Nat × PortCtx) :=
  s.ports.ctxs.filter fun p => p.2.role == 1 && p.2.enable &&
    (if p.1 = 256 then host == 0xFC0 + self s else p.2.host == host)

/-- The context that carries traffic among several: the first that is up, else the first (log 14). -/
def pickCtx (l : List Nat) (s : State) : Option Nat :=
  match l.find? fun n => ctxUp n s with
  | some n => some n
  | none => l.head?

/-- The map of a packet's epoch, while it is honoured: the current one, or the previous for fewer than 4 tides (R56). -/
def mapOf (epoch : Nat) (s : State) : Option RouteMap :=
  if epoch = s.man.routeEpoch then some s.man.route
  else if epoch = (s.man.routeEpoch + 65535) % 65536 ∧ s.tide.count < s.man.routeSince + 4 then s.man.prevRoute
  else none

/-- The egress context towards a device under a map. -/
def deviceCtx (d : Nat) (m : RouteMap) (s : State) : Option Nat := pickCtx (tgetD m.toDevice d []) s

/-- The egress context towards a host: its own contexts, else the map's (R59). -/
def hostCtx (h : Nat) (m : RouteMap) (s : State) : Option Nat :=
  match (ctxsOf h s).map fun p => p.1 with
  | [] => pickCtx (tgetD m.toHost h []) s
  | l => pickCtx l s

/-- The scheduler port of a context for a pool (R293, R442). -/
def portOf (n pool : Nat) (s : State) : Nat :=
  if n = 256 then (if pool = 1 then 128 else 129) else match ctxAt n s with | some c => c.berth | none => 0

/-- The port of the transaction engine and home agent that the model uses for what they send (R293; log 14). -/
def homePort : Nat := 364

/-- The scheduler port of the engine that a budget book belongs to, the first of its ports (R293; log 14): the Cranes' from 132, the
Stevedores' from 332, the Customs engines' from 260, the codec engines' from 292, and the stream engine's by the place of the job's slot
among its 8. -/
def enginePort (book : Option Nat) : Nat :=
  match book with
  | none => homePort
  | some b =>
    let e := b % 64
    if b < 64 then 132 + 4 * e else if b < 128 then 332 + e else if b < 192 then 260 + 2 * e else if b < 256 then 292 + 2 * e
    else 324 + b % 8

/-! Queues. -/

/-- The base queue of a context, class and pool (R312). -/
def baseQueue (ctx cls pool : Nat) : Nat := (if ctx = 256 then 12288 else 48 * ctx) + 3 * cls + pool - 1

/-- The Pilot queue of an item (R313). -/
def queueFor (ctx cls pool : Nat) (i : Item) (s : State) : Nat :=
  let b := baseQueue ctx cls pool
  match tget s.pilot.subs b with
  | none => b
  | some (qs, sel) =>
    let key := if sel = 1 then i.charter.getD 0 else if sel = 2 then i.source else 0
    (qs[key % max 1 qs.length]?).getD b

/-! The shared buffer. -/

/-- Cells of a port's reserve for a pool (R294). -/
def reserveOf (pool : Nat) : Nat := if pool = 2 then 64 else 32

/-- A pilot queue's cell reserve (R316). -/
def pilotReserve (p : PilotQ) : Nat := min 256 (cdiv p.burst 512)

/-- Cells of the shared part not taken by reserves of pilot queues (R294, R316). -/
def sharedSize (s : State) : Nat :=
  let holds (p : PilotQ) : Bool := !p.ending || s.sw.cells.any fun c => c.place == 2 && c.queue == p.queue
  338432 - ((s.pilot.pilots.filter holds).map pilotReserve).sum

/-- Distinct cells among references. -/
def distinct (l : List Cell) : Nat := ((l.map fun c => c.id).dedup).length

/-- Cells of the segments that wait for deck or spill room (R151). -/
def waitingCells (s : State) : Nat :=
  (s.acc.jobs.map fun j => match j.st with
    | .crane p => (p.waiting.map fun g => cdiv (32 + g.data.length) 496).sum
    | _ => 0).sum

/-- Free cells of the shared part. -/
def sharedFree (s : State) : Nat := sharedSize s - distinct (s.sw.cells.filter fun c => c.place == 1) - waitingCells s

/-- Sixteen times α of a code (R315). -/
def alpha16 (code : Nat) : Nat := 2 ^ code

/-- The reserve or part that takes a cell now: 0, 1, 2, or 3 when it waits in its input buffer (R294, R315, R316). -/
def placeFor (c : Cell) (s : State) : Nat :=
  let behind := s.sw.cells.any fun x => x.place == 3 && x.ingress == c.ingress && x.pool == c.pool && x.id != c.id
  let own := distinct (s.sw.cells.filter fun x => x.place == 0 && x.ingress == c.ingress && x.pool == c.pool)
  let kept := match s.pilot.pilots.find? fun p => p.queue == c.queue && !p.ending with
    | some p => decide (distinct (s.sw.cells.filter fun x => x.place == 2 && x.queue == c.queue) < pilotReserve p)
    | none => false
  let held := distinct (s.sw.cells.filter fun x => x.place == 1 &&
    (match c.group with | some g => x.group == some g | none => x.queue == c.queue && x.group.isNone))
  let free := sharedFree s
  if behind then 3
  else if own < reserveOf c.pool then 0
  else if kept then 2
  else if 16 * held < alpha16 (tgetD s.pilot.alpha c.tclass 4) * free ∧ 0 < free then 1
  else 3

/-- Credits of a pool granted again to the partner, told in a CREDIT block (R288). -/
def returnCredit (n pool k : Nat) (s : State) : State :=
  match ctxAt n s with
  | none => s
  | some c =>
    let add (l : List Nat) (v : Nat) : List Nat := l.zipIdx.map fun x => if x.2 + 1 = pool then x.1 + v else x.1
    let total := (add c.rxTotal k).map fun x => x % 65536
    emit (.link n 3 total) (setCtx n { c with rxCredit := add c.rxCredit k, rxTotal := total } s)

/-- Hosts and devices of which segments wait for deck or spill room (R151). -/
def waitingSenders (s : State) : List (Bool × Nat) :=
  s.acc.jobs.flatMap fun j => match j.st with
    | .crane p => p.waiting.map fun g => (g.srcDevice, if g.srcDevice then g.sender / 64 else g.sender)
    | _ => []

/-- Segments that came on a context wait: its STRM credits are held back (R151, R288). -/
def streamHeld (n : Nat) (s : State) : Bool :=
  match ctxAt n s with
  | none => false
  | some c => (waitingSenders s).any fun x =>
      if x.1 then c.role == 3 && deviceCtx x.2 s.man.route s == some n
      else c.role == 1 && x.2 == (if n = 256 then 0xFC0 + self s else c.host)

/-- STRM credits held back are returned on every context of which no segment waits any more (R151, R288). -/
def streamCredits (s : State) : State :=
  (s.ports.ctxs.filter fun p => p.2.owedStream != 0).foldl (fun s p =>
    if streamHeld p.1 s then s
    else match ctxAt p.1 s with
      | none => s
      | some c => returnCredit p.1 3 c.owedStream (setCtx p.1 { c with owedStream := 0 } s)) s

/-- Cells waiting in input buffers taken into the buffer, in order, as it has room; a block whose last cell has left its input
buffer returns its credit (R288, R294). -/
def admitWaiting (s : State) : State :=
  (s.sw.cells.filter fun c => c.place == 3).foldl (fun s c =>
    let earlier := s.sw.cells.find? fun x => x.place == 3 && x.ingress == c.ingress && x.pool == c.pool
    if earlier.map (fun x => x.id) ≠ some c.id then s
    else
      let without := { s with sw := { s.sw with cells := s.sw.cells.filter fun x => x.id != c.id } }
      let p := placeFor c without
      if p = 3 then s
      else
        let s := { s with sw := { s.sw with cells := s.sw.cells.map fun x => if x.id == c.id then { x with place := p } else x } }
        match c.origin with
        | none => s
        | some o =>
          if s.sw.cells.any fun x => x.place == 3 && x.origin == some o then s
          else returnCredit o.1 c.pool 1 s) s

/-- A cell's virtual output queue (R295, R314). -/
def voqKey (c : Cell) : Nat := 2 ^ 14 * c.ingress + c.queue

/-- A cell put into its virtual output queue (R294, R295). Its queue, sequence, place and era are taken here. -/
def enterCell (c : Cell) (s : State) : State :=
  let q := match c.items with | i :: _ => queueFor c.ctx c.tclass c.pool i s | [] => baseQueue c.ctx c.tclass c.pool
  let c := { c with queue := q, since := s.refCycles, era := tgetD s.pilot.eras (baseQueue c.ctx c.tclass c.pool) 0 }
  let n := tgetD s.sw.seqs (voqKey c) 0
  let c := { c with voqSeq := n, place := placeFor c s }
  { s with sw := { s.sw with cells := s.sw.cells ++ [c], seqs := tput s.sw.seqs (voqKey c) ((n + 1) % 4096) } }

/-- A cell of one item, not yet in a queue. -/
def cellFor (ingress ctx pool cls : Nat) (items : List Item) (s : State) : Cell :=
  { id := s.sw.nextCell, ingress := ingress, ctx := ctx, queue := 0, voqSeq := 0, pool := pool, tclass := cls,
    items := items, channel := 0, first := true, last := true, itemKind := 0, place := 3, eligible := true, since := 0,
    era := 0, group := none, origin := none, cutThrough := false }

/-- The next cell's name used. -/
def nameCell (s : State) : State := { s with sw := { s.sw with nextCell := s.sw.nextCell + 1 } }

/-! Copies. -/

/-- The fields a flow filter covers: charter, source, home, opcode, class (R305). -/
def flowFields (i : Item) (cls : Nat) : List Nat := [i.charter.getD 0, i.source, i.home, i.opcode, cls]

/-- Pieces of an engine-stream item, a block's payload each (R283). -/
def pieces (b : Bytes) : List Bytes := (List.range (cdiv b.length 496)).map fun k => (b.drop (496 * k)).take 496

/-- Does a mirror session take an item that passes a context in a direction (R305)? -/
def mirrorTakes (src : MirrorSource) (ctx : Nat) (egress : Bool) (i : Item) (cls : Nat) : Bool :=
  match src with
  | .port n dir => n == ctx && (dir == 2 || (dir == 1) == egress)
  | .flow value mask => (List.zip (flowFields i cls) (List.zip value mask)).all fun x =>
      Nat.land x.1 x.2.2 == Nat.land x.2.1 x.2.2

/-- A copy of an item for a session: a reference towards its analysis context, or dropped and counted (R306). -/
def mirrorCopy (session target pool cls itemKind : Nat) (i : Item) (s : State) : State :=
  let waiting := (s.sw.cells.filter fun c => c.ctx == target && c.pool == pool && c.tclass == cls).length
  let credit := match ctxAt target s with | some c => c.txCredit.getD (pool - 1) 0 | none => 0
  if credit = 0 ∨ 1024 < waiting then
    raiseLimited 0x0305 session 0 [(evContext, target)] 1
      { s with sw := { s.sw with mirrorDrops := tput s.sw.mirrorDrops session (tgetD s.sw.mirrorDrops session 0 + 1) } }
  else
    let ps := if pool = 3 then pieces i.bytes else [i.bytes]
    (ps.zipIdx).foldl (fun s p =>
      let c := { cellFor homePort target pool cls [{ i with bytes := p.1 }] s with
        channel := session, first := decide (p.2 = 0), last := decide (p.2 + 1 = ps.length), itemKind := itemKind }
      nameCell (enterCell c s)) s

/-- A sample's record (R309). -/
def sampleRecord (x : Sampler) (pool : Nat) (i : Item) (s : State) : Bytes :=
  let head := max 1 (min 128 i.bytes.length)
  le 16 (packBits [(32, s.tide.count), (8, x.ctx), (1, b2n x.egress), (2, pool), (13, i.bytes.length), (8, head),
    (32, x.taken), (32, x.dropped)]) ++ fit 128 i.bytes

/-- A sampler meets an item: skipped, or taken with a fresh skip drawn (R308 to R310). -/
def sampleItem (k : Nat) (x : Sampler) (pool : Nat) (i : Item) (s : State) : State :=
  let put (x : Sampler) (s : State) : State := { s with sw := { s.sw with samplers := s.sw.samplers.set k x } }
  if 0 < x.skip then put { x with skip := x.skip - 1 } s
  else
    let d := draw s
    let s := d.2
    let x' := { x with skip := d.1 % (2 * 2 ^ x.n - 1) + 1, taken := (x.taken + 1) % 2 ^ 32 }
    if 256 ≤ s.sw.samplesThisTide ∨ 14563 ≤ s.sw.samples.length then
      raiseLimited 0x0307 0 0 [] 1 (put { x' with dropped := x.dropped + 1 } s)
    else
      let s := put { x' with dropped := 0 } s
      { s with sw := { s.sw with samples := s.sw.samples ++ [sampleRecord x pool i s],
                                  samplesThisTide := s.sw.samplesThisTide + 1 } }

/-- The mirror and sample copies of an item as it passes a context (R306, R308): none of a confidential charter or of an
unknown one. -/
def observe (ctx : Nat) (egress : Bool) (pool cls itemKind : Nat) (i : Item) (s : State) : State :=
  match i.charter with
  | none => s
  | some ch =>
    if isConfidential ch s then s
    else
      let s := s.sw.mirrors.foldl (fun s m =>
        if mirrorTakes m.2.2 ctx egress i cls then mirrorCopy m.1 m.2.1 pool cls itemKind i s else s) s
      (s.sw.samplers.zipIdx).foldl (fun s x =>
        if x.1.ctx = ctx ∧ x.1.egress = egress then sampleItem x.2 x.1 pool i s else s) s

/-! Items entering. -/

/-- Bytes of an item in a link frame: a prefix of 8 bytes and its own (log 6). -/
def frameBytes (i : Item) : Nat := 8 + roundUp i.bytes.length 8

/-- Bytes of a link frame's gathered items (R246). -/
def gatherBytes (l : List (Nat × Nat × Item)) : Nat := (l.map fun x => frameBytes x.2.2).sum

/-- Link compression of a context put in place. -/
def setCodec (ctx : Nat) (k : LinkCodec) (s : State) : State :=
  { s with ports := { s.ports with codecs := tput s.ports.codecs ctx k } }

/-- A context without link compression (R246). -/
def noCodec : LinkCodec :=
  { classMask := 0, elemWidth := 1, maxWait := 256, gather := [], since := 0, nextSeq := 0, closed := [], sent := [], rxSeq := 0,
    rx := [], closedBase := 0, rxBase := 0 }

/-- The gathered items closed into a frame that waits for an engine (R246). -/
def closeGather (now : Nat) (k : LinkCodec) : LinkCodec :=
  if k.gather = [] then k
  else { k with gather := [], closed := k.closed ++ [{ seq := 0, since := now, items := k.gather }] }

/-- Does a context gather items of this pool, class, kind and charter into link frames: transactions and segments, none of a
confidential charter (R246)? An item whose charter the device does not know may be one of any charter: it is gathered where no charter is
confidential (DEDUCED, log 14). -/
def gathers (ctx pool cls itemKind : Nat) (i : Item) (s : State) : Option LinkCodec :=
  match tget s.ports.codecs ctx with
  | none => none
  | some k =>
    if bit k.classMask cls && (pool != 3 || itemKind == 1) &&
        (match i.charter with
          | some c => !isConfidential c s
          | none => s.man.charters.all fun p => !isConfidential p.1 s) then some k else none

/-- An item sent uncompressed into the queues of a context: a cell of its own, or one cell for each block of an
engine-stream item (R295). -/
def enterPlain (ingress ctx pool cls itemKind channel : Nat) (i : Item) (s : State) : State :=
  if pool = 3 then
    let ps := pieces i.bytes
    (ps.zipIdx).foldl (fun s p =>
      let c := { cellFor ingress ctx 3 cls [{ i with bytes := p.1 }] s with
        channel := channel, first := decide (p.2 = 0), last := decide (p.2 + 1 = ps.length), itemKind := itemKind }
      nameCell (enterCell c s)) s
  else nameCell (enterCell (cellFor ingress ctx pool cls [i] s) s)

/-- An item enters the switch core towards a context: gathered into a link frame, or queued (R246, R295). -/
def enterItem (ingress ctx pool cls itemKind channel : Nat) (i : Item) (s : State) : State :=
  match gathers ctx pool cls itemKind i s with
  | none => enterPlain ingress ctx pool cls itemKind channel i s
  | some k =>
    let k := if 65536 < gatherBytes k.gather + frameBytes i then closeGather s.refCycles k else k
    let k := { k with gather := k.gather ++ [(pool, cls, i)], since := if k.gather = [] then s.refCycles else k.since }
    setCodec ctx (if 65536 ≤ gatherBytes k.gather then closeGather s.refCycles k else k) s

/-- A request's item. -/
def reqItem (r : FabReq) : Item :=
  { bytes := reqHeader r ++ r.payload, opcode := r.opcode, charter := some r.charter, source := r.source, home := r.home }

/-- A response's item; its charter is known where this device produced or delivers it. -/
def respItem (r : Resp) (charter : Option Nat) : Item :=
  { bytes := respHeader r ++ r.data, opcode := r.opcode, charter := charter, source := r.responder, home := r.responder }

/-- A request into the fabric from a scheduler port (R90, R293): handed to the switch core, queued towards its home when that is another
device. -/
def sendFrom (port : Nat) (r : FabReq) (s : State) : State :=
  let s := emit (.request r) s
  if r.home = self s then s
  else
    match deviceCtx r.home s.man.route s with
    | none => s
    | some n => enterItem port n 1 r.tclass 0 0 (reqItem r) s

/-- A request into the fabric from the transaction engine's port. -/
def sendFabric (r : FabReq) (s : State) : State := sendFrom homePort r s

/-- A response of this home (R95): handed to the switch core, queued towards its destination when that is elsewhere. -/
def sendAnswer (r : Resp) (charter : Nat) (s : State) : State :=
  let s := emit (.answer r) s
  let cls := Config.respClass r.destination r.tag % 16
  let to_ := if r.dstEngine then
      (if r.destination / 64 = self s then none else deviceCtx (r.destination / 64) s.man.route s)
    else if ctxsOf r.destination s ≠ [] then none
    else pickCtx (tgetD s.man.route.toHost r.destination []) s
  match to_ with
  | none => s
  | some n => enterItem homePort n 2 cls 0 0 (respItem r (some charter)) s

/-- A response leaves towards a host on a context of its own (R95). -/
def sendHost (host : Nat) (r : Resp) (charter : Option Nat) (s : State) : State :=
  let s := emit (.response host r) s
  match hostCtx host s.man.route s with
  | none => s
  | some n => enterItem homePort n 2 (Config.respClass r.destination r.tag % 16) 0 0 (respItem r charter) s

/-- The pool virtual address of a byte of an entry in its charter's first window that holds it, 0 with none. -/
def vaOf (entry off : Nat) (s : State) : Nat :=
  let c := (entryOf entry s).charter
  match (List.range 8).find? fun w =>
      let x := windowOf c w s
      x.enable && decide (x.firstEntry ≤ entry ∧ entry < x.firstEntry + x.entryCount) with
  | some w => w * 2 ^ 53 + (entry - (windowOf c w s).firstEntry) * extentBytes (windowOf c w s).sizeCode + off
  | none => 0

/-- A C_RECALL to a coherent host on a context of its own, with the line's pool virtual address in its charter (R116). -/
def sendRecall (host charter va line : Nat) (downgrade : Bool) (s : State) : State :=
  let s := emit (.recall host line downgrade) s
  match hostCtx host s.man.route s with
  | none => s
  | some n =>
    let r : FabReq :=
      { opcode := 0x46, length := 64, charter := charter, srcEngine := true, source := 64 * self s, tag := 0,
        address := va, entry := 0, generation := 0, routeEpoch := s.man.routeEpoch,
        home := self s, tclass := 0, sealWindow := 0, jobValid := false, jobDevice := 0, jobSlot := 0, attempt := 0,
        parts := 1, aux := b2n downgrade, payload := [] }
    enterItem homePort n 1 0 0 0 (reqItem r) s

/-- A request to a tray (R275): on its seaward context here, else towards the attaching device. -/
def sendTray (id device tray module offset cls : Nat) (write : Bool) (data : Bytes) (s : State) : State :=
  let s := emit (.tray id device tray module offset write data) s
  let r : FabReq :=
    { opcode := if write then 0x10 else 0x01, length := 64, charter := 0, srcEngine := true, source := 64 * self s,
      tag := id % 65536, address := (device * 4096 + tray * 16 + module) * 2 ^ 38 + offset, entry := 0,
      generation := 0, routeEpoch := s.man.routeEpoch, home := device, tclass := cls, sealWindow := 0, jobValid := false,
      jobDevice := 0, jobSlot := 0, attempt := 0, parts := 1, aux := 0, payload := data }
  let to_ := if device = self s then some tray else deviceCtx device s.man.route s
  match to_ with
  | none => s
  | some n => enterItem homePort n 1 cls 0 0 { reqItem r with charter := none } s

/-- The contexts of a multicast group at this device under a map: local egress and span contexts (R303). -/
def groupCtxs (g : Nat) (m : RouteMap) : Option (List Nat) := (tget m.groups g).map fun x => x.locals ++ x.spans

/-- An engine-stream item replicated to a group by reference: one cell's name, a reference in each context's queue; a group
missing from the map discards the item (R303). -/
def enterGroup (ingress g epoch cls itemKind channel : Nat) (i : Item) (s : State) : State :=
  match (mapOf epoch s).bind fun m => groupCtxs g m with
  | none => raiseLimited 0x0308 g 0 [] 1 { s with sw := { s.sw with groupMisses := s.sw.groupMisses + 1 } }
  | some l =>
    let ps := pieces i.bytes
    (ps.zipIdx).foldl (fun s p =>
      let c := { cellFor ingress 0 3 cls [{ i with bytes := p.1 }] s with
        channel := channel, first := decide (p.2 = 0), last := decide (p.2 + 1 = ps.length), itemKind := itemKind,
        group := some g }
      nameCell (l.foldl (fun s n => enterCell { c with ctx := n } s) s)) s

/-! Matching. -/

/-- May a cell leave when its queue is named: in the buffer, eligible, and no cell enqueued before a change of its base queue
left before it (R300, R314)? -/
def cellReady (c : Cell) (s : State) : Bool :=
  c.eligible && c.place != 3 &&
  !(s.sw.cells.any fun x => x.ctx == c.ctx && x.tclass == c.tclass && x.pool == c.pool && decide (x.era < c.era))

/-- The blocks a context's retry buffer holds: 64 for each lane of its split (R272, R442). -/
def retryBlocks (n : Nat) (s : State) : Nat :=
  if n = 256 then 512
  else
    match ctxAt n s with
    | none => 0
    | some c => let k := tgetD s.ports.splits c.berth 0; if k = 0 then 256 else if k = 1 then 128 else 64

/-- A context has a free transmit slot and credit of a pool (R285, R287, R297). -/
def slotFree (n pool : Nat) (s : State) : Bool :=
  match ctxAt n s with
  | none => false
  | some c => c.train == .up && decide (c.kept.length < retryBlocks n s) && decide (0 < c.txCredit.getD (pool - 1) 0)

/-- The pairs of ports that request each other: an eligible cell of the queue named for a context with a free slot (R297). -/
def requestsNow (s : State) : List (Nat × Nat) :=
  (s.sw.cells.filter fun c => tget s.pilot.named c.ctx == some c.queue && cellReady c s && slotFree c.ctx c.pool s).map
    fun c => (c.ingress, portOf c.ctx c.pool s)

/-- The state of a plane's matching: pairs made, grant pointers and accept pointers. -/
structure Matching where
  pairs : List (Nat × Nat)
  grant : Tbl Nat
  accept : Tbl Nat
  deriving DecidableEq, Repr

/-- One iteration of request, grant and accept of a plane; the first moves the pointers of grants that are taken (R37, R298). -/
def iterate (plane : Nat) (first : Bool) (reqs : List (Nat × Nat)) (m : Matching) : Matching :=
  let freeIn (i : Nat) : Bool := !(m.pairs.any fun p => p.1 == i)
  let freeOut (o : Nat) : Bool := !(m.pairs.any fun p => p.2 == o)
  let outs := sorted ((reqs.map fun p => p.2).filter freeOut)
  let grants := outs.filterMap fun o =>
    let asking := ((reqs.filter fun p => p.2 == o).map fun p => p.1).filter freeIn
    (rotating (tgetD m.grant (428 * plane + o) 0) asking).map fun i => (i, o)
  let ins := sorted (grants.map fun p => p.1)
  let taken := ins.filterMap fun i =>
    let offers := (grants.filter fun p => p.1 == i).map fun p => p.2
    (rotating (tgetD m.accept (428 * plane + i) 0) offers).map fun o => (i, o)
  let m' := { m with pairs := m.pairs ++ taken }
  if first then
    taken.foldl (fun m p => { m with grant := tput m.grant (428 * plane + p.2) ((p.1 + 1) % 428),
                                      accept := tput m.accept (428 * plane + p.1) ((p.2 + 1) % 428) }) m'
  else m'

/-- PLANE_MATCH: three iterations on the requests at the start of the cell time (R297, R298). -/
def execPlaneMatch (plane : Nat) (s : State) : Ans :=
  onCore s fun s =>
    let reqs := (requestsNow s).dedup
    let m0 : Matching := { pairs := [], grant := s.sw.grant, accept := s.sw.accept }
    let m := iterate plane false reqs (iterate plane false reqs (iterate plane true reqs m0))
    { s with sw := { s.sw with grant := m.grant, accept := m.accept, matched := tput s.sw.matched plane m.pairs } }

end Sys2Proof.Machine
end

