-- ==== Sys2Proof/Machine/Home.lean ====
section
/-! DEFINITION. The home: seal windows (R72 to R76), fences and receipts (R85, R363, R364), admission to the granule queues
(R48, R109), and answers (R95, R96). -/

namespace Sys2Proof.Machine
open Sys2Proof

/-! Opcodes of R91, R96 and R116. -/
def opRead : Nat := 0x01
def opReadAcq : Nat := 0x02
def opAcquire : Nat := 0x03
def opWrite : Nat := 0x10
def opWritePartial : Nat := 0x11
def opWriteSeal : Nat := 0x12
def opStow : Nat := 0x13
def opAtomic : Nat := 0x20
def opPublish : Nat := 0x21
def opFence : Nat := 0x30
def opCShared : Nat := 0x40
def opCOwn : Nat := 0x41
def opCUpgrade : Nat := 0x42
def opCWriteback : Nat := 0x43
def opCEvict : Nat := 0x44
def opCDone : Nat := 0x45
def opCRecall : Nat := 0x46
def opCFill : Nat := 0x47
def opAck : Nat := 0x80
def opData : Nat := 0x81
def opRefuse : Nat := 0x82
def opPoison : Nat := 0x83
def opConflict : Nat := 0x84

/-- The model's own accesses: a granule marked poisoned (R486), and a line's returned data written (R121). -/
def opMark : Nat := 0x100
def opReturn : Nat := 0x101

/-- The model's own read of a granule that TIER.MIGRATE copies (R254). -/
def opCopy : Nat := 0x102

/-- The source field of a device (R89). -/
def devSource (d : Nat) : Nat := 64 * d

/-- The device of a request's source field (R89). -/
def srcDevice (r : FabReq) : Nat := r.source / 64

/-- A response to a request, from this device (R95); the model's own accesses have none. -/
def answerTo (r : FabReq) (opcode reason aux : Nat) (data : Bytes) (s : State) : State :=
  if opMark ≤ r.opcode then s
  else
    sendAnswer { opcode := opcode, dstEngine := r.srcEngine, destination := r.source, tag := r.tag, reason := reason,
                 ll := s.home.ll, responder := self s, parts := r.parts, aux := aux, data := data } r.charter
      (recordReason reason s)

/-! Seal windows. -/

/-- Is this a write that its source counts in a seal window (R72)? -/
def countedWrite (r : FabReq) : Bool := r.opcode == opWrite || r.opcode == opWritePartial || r.opcode == opStow

/-- The source of a write or seal: a host by its ID, a job of any device from 4,096 up; none for other parties (R72). -/
def sealSource (r : FabReq) : Option Nat :=
  if r.jobValid then some (4096 + jobKey r.jobDevice r.jobSlot)
  else if r.srcEngine then none else some r.source

/-- A home's state of one source. -/
def sealSrc (q : Nat) (s : State) : Option SealSrc := tget s.home.seals q

/-- A source's state put in place. -/
def setSrc (q : Nat) (x : SealSrc) (s : State) : State :=
  { s with home := { s.home with seals := tput s.home.seals q x } }

/-- An open window of a source. -/
def winOf (q w : Nat) (s : State) : Option SealWin := (sealSrc q s).bind fun x => x.wins.find? fun v => v.window == w

/-- A window changed in its place. -/
def setWin (q : Nat) (v : SealWin) (s : State) : State :=
  match sealSrc q s with
  | none => s
  | some x => setSrc q { x with wins := x.wins.map fun u => if u.window == v.window then v else u } s

/-- A window closed; its landed count is kept while its number may still be named (R76, R95). -/
def dropWin (q w : Nat) (s : State) : State :=
  match sealSrc q s with
  | none => s
  | some x =>
    let n := match x.wins.find? fun u => u.window == w with | some u => u.landed | none => tgetD x.closed w 0
    setSrc q { x with wins := x.wins.filter fun u => u.window != w, closed := tput x.closed w n } s

/-- The landed count of a window, 0 where nothing landed (R95). -/
def landedOf (q w : Nat) (s : State) : Nat :=
  match sealSrc q s with
  | none => 0
  | some x => match x.wins.find? fun u => u.window == w with
    | some u => u.landed
    | none => tgetD x.closed w 0

/-- The aux of an answer to a request: a seal's landed count, else 0 (R95). -/
def sealAux (r : FabReq) (s : State) : Nat :=
  if r.opcode = opWriteSeal then (match sealSource r with | some q => landedOf q r.sealWindow s | none => 0) else 0

/-- A held seal refused with a code, its window closed (R74). -/
def refuseHeld (q code : Nat) (v : SealWin) (s : State) : State :=
  let s := dropWin q v.window s
  match v.held with
  | none => s
  | some (r, _) => answerTo r opRefuse code v.landed [] s

/-- A window number newer than every one seen: the source's state with it as the newest, and the windows more than 128 before it,
which close (R76). -/
def renewSrc (w tide : Nat) (x : SealSrc) : SealSrc × List SealWin :=
  let far (v : Nat) : Bool := decide (128 < (w + 256 - v % 256) % 256)
  ({ x with newest := w, lastOpened := tide, closed := x.closed.filter fun p => p.1 != w && !far p.1 },
    x.wins.filter fun v => far v.window)

/-- A write or seal of a window arrives: the code that refuses it, or the window open, opened now when its number is 1 to
127 after the newest, and windows more than 128 before it closed (R74, R76). The limit of 8 is tested before those close: R76 opens
under the limit and closes older windows by the opening, and says no more of the order (DESIGN CHOICE, log 22). -/
def admitWindow (q w charter : Nat) (s : State) : Nat × State :=
  let fresh : SealWin := { window := w, landed := 0, refused := 0, held := none, charters := [charter] }
  match sealSrc q s with
  | none => (0, setSrc q { newest := w, wins := [fresh], lastOpened := s.tide.count, closed := [] } s)
  | some x =>
    let d := (w + 256 - x.newest % 256) % 256
    if 1 ≤ d ∧ d ≤ 127 then
      if 8 ≤ x.wins.length then (0x0613, s)
      else
        let y := renewSrc w s.tide.count x
        let s := setSrc q { y.1 with wins := x.wins ++ [fresh] } s
        (0, y.2.foldl (fun s v => refuseHeld q 0x0614 v s) s)
    else
      match x.wins.find? fun v => v.window == w with
      | none => (0x0612, s)
      | some v => (0, setWin q { v with charters := insertSorted charter v.charters } s)

/-- A refused seal closes its window, seen before or not (R74, R76); a held first seal keeps it. -/
def shutWindow (q w : Nat) (s : State) : State :=
  match sealSrc q s with
  | none => setSrc q { newest := w, wins := [], lastOpened := s.tide.count, closed := [] } s
  | some x =>
    let d := (w + 256 - x.newest % 256) % 256
    if 1 ≤ d ∧ d ≤ 127 then
      let y := renewSrc w s.tide.count x
      y.2.foldl (fun s v => refuseHeld q 0x0614 v s) (setSrc q y.1 s)
    else
      match x.wins.find? fun v => v.window == w with
      | some v => if v.held.isNone then dropWin q w s else s
      | none => s

/-! Queues. -/

/-- The number of a granule's queue: 2^24 x entry + granule of the extent. -/
def granKey (entry gran : Nat) : Nat := 2 ^ 24 * entry + gran

/-- A granule's queue. -/
def queueOf (key : Nat) (s : State) : GranQ := tgetD s.home.queues key { queue := [], batch := none }

/-- A granule's queue put in place; an idle empty one takes no place. -/
def setQueue (key : Nat) (q : GranQ) (s : State) : State :=
  let t := if q.queue = [] ∧ q.batch = none then tdel s.home.queues key else tput s.home.queues key q
  { s with home := { s.home with queues := t } }

/-- Accesses in a queue, those of the batch under way counted (R109). -/
def queueDepth (q : GranQ) : Nat := q.queue.length + (match q.batch with | some b => b.accesses.length | none => 0)

/-- Granules an access touches, with the step's first byte in the granule, its bytes, and the bytes before it (R63). -/
def stepsOf (off len : Nat) : List (Nat × Nat × Nat × Nat) :=
  let first := off / 64
  let last := (off + len - 1) / 64
  (upto first (last + 1 - first)).map fun g =>
    let lo := max off (64 * g)
    let hi := min (off + len) (64 * g + 64)
    (g, lo - 64 * g, hi - lo, lo - off)

/-- Bytes of its granules that a request touches: a coherent request and a WRITE_PARTIAL a whole granule (R91, R116). -/
def touched (r : FabReq) : Nat :=
  if r.opcode = opWritePartial ∨ opCShared ≤ r.opcode then 64
  else if r.opcode = opAtomic then (if bit r.aux 4 then 8 else 4)
  else if r.opcode = opWriteSeal ∨ r.opcode = opPublish then 8
  else r.length

/-- Offset of a request in its extent. -/
def offsetIn (r : FabReq) (e : Entry) : Nat := r.address - e.baseFpa

/-- The queues a request of an entry needs. -/
def queuesOf (r : FabReq) (e : Entry) : List Nat :=
  (stepsOf (offsetIn r e) (touched r)).map fun x => granKey r.entry x.1

/-- A request admitted: one access in the queue of each granule it touches (R63, R109), at the front for a release, whose
stores came before (R113). -/
def pushRequest (front : Bool) (r : FabReq) (e : Entry) (s : State) : State :=
  let ss := stepsOf (offsetIn r e) (touched r)
  let id := s.home.nextId
  let hr : HomeReq := { id := id, req := r, left := ss.length, worst := 0, code := 0, codeAt := 0, data := [] }
  let s := { s with home := { s.home with nextId := id + 1, reqs := s.home.reqs ++ [hr] } }
  ss.foldl (fun s x =>
    let key := granKey r.entry x.1
    let q := queueOf key s
    let a : Access := { id := id, req := r, lo := x.2.1, len := x.2.2.1, skip := x.2.2.2, drain := false, ent := e }
    setQueue key { q with queue := if front then a :: q.queue else q.queue ++ [a] } s) s

/-- An access of the model's own on one granule of an entry (R121, R486). -/
def ownAccess (opcode entry off : Nat) (e : Entry) (data : Bytes) : FabReq :=
  { opcode := opcode, length := 64, charter := e.charter, srcEngine := true, source := 0, tag := 0,
    address := e.baseFpa + off, entry := entry, generation := e.generation, routeEpoch := 0, home := e.homeDevice,
    tclass := 0, sealWindow := 0, jobValid := false, jobDevice := 0, jobSlot := 0, attempt := 0, parts := 1, aux := 0,
    payload := data }

/-- A granule marked poisoned: one access of its queue (R486). -/
def markPoison (entry off : Nat) (s : State) : State :=
  let e := entryOf entry s
  pushRequest false (ownAccess opMark entry (off / 64 * 64) e []) e s

/-! Seals judged. -/

/-- A held seal judged after a write of its window ended, or on its arrival (R73, R74): refused, performed through its
granule's queue with the window closed, or held. -/
def judgeSeal (q w : Nat) (s : State) : State :=
  match winOf q w s with
  | none => s
  | some v =>
    match v.held with
    | none => s
    | some (r, _) =>
      if 0 < v.refused ∧ r.aux ≤ v.landed + v.refused then refuseHeld q 0x0610 v s
      else if r.aux < v.landed then refuseHeld q 0x0611 v s
      else if v.landed = r.aux ∧ v.refused = 0 then
        pushRequest false r (entryOf r.entry s) (dropWin q w s)
      else s

/-- A write of a window landed, or was refused at the home (R63, R73, R74, R97). -/
def noteWrite (r : FabReq) (refused : Bool) (s : State) : State :=
  match sealSource r with
  | none => s
  | some q =>
    if !countedWrite r then s
    else
      match winOf q r.sealWindow s with
      | none => s
      | some v =>
        let v := if refused then { v with refused := v.refused + 1 } else { v with landed := v.landed + 1 }
        judgeSeal q r.sealWindow (setWin q v s)

/-- A request refused at admission; a write counts as refused in its window, which it may open; a seal refused under R48's
first check closes its window (R63, R74, R76). -/
def refuseArrival (r : FabReq) (code : Nat) (s : State) : State :=
  let s := answerTo r opRefuse code (sealAux r s) [] s
  match sealSource r with
  | none => s
  | some q =>
    if countedWrite r then
      let p := admitWindow q r.sealWindow r.charter s
      if p.1 = 0 then noteWrite r true p.2 else s
    else if r.opcode = opWriteSeal ∧ code = 0x0506 then shutWindow q r.sealWindow s
    else s

/-! Fences and receipts. -/

/-- The receipt of a job at this home is SEALED (R363, R364). -/
def jobSealed (r : FabReq) (s : State) : Bool := (tget s.home.receipts (jobKey r.jobDevice r.jobSlot)).isSome

/-- The request's attempt is lower than the fenced one (R85, R361). -/
def staleAttempt (r : FabReq) (s : State) : Bool :=
  match tget s.home.fences (jobKey r.jobDevice r.jobSlot) with
  | some a => attemptLower r.attempt a
  | none => false

/-- A write, seal or fence of a job (R48). -/
def jobWrite (r : FabReq) : Bool := r.jobValid && (countedWrite r || r.opcode == opWriteSeal || r.opcode == opFence)

/-- This member serves a charter and the routes (R51). A request that it does not serve it refuses with 0x050A, at an ingress device
before the checks of R46 and at a home before those of R48: R51 names neither the code nor its place (DESIGN CHOICE, log 21). -/
def serves (charter : Nat) (s : State) : Bool := !(s.man.desyncRoutes || s.man.desyncCharters.contains charter)

/-- ATTEMPT_FENCE at the home (R85, R364): refused for a sealed job, a lower attempt or a full table; else the entry holds
the attempt. -/
def fence (r : FabReq) (s : State) : State :=
  let key := jobKey r.jobDevice r.jobSlot
  if !serves r.charter s then answerTo r opRefuse 0x050A 0 [] s
  else if jobSealed r s then answerTo r opRefuse 0x1306 0 [] s
  else if staleAttempt r s then answerTo r opRefuse 0x0616 0 [] s
  else if (tget s.home.fences key).isNone ∧ 4096 ≤ s.home.fences.length then answerTo r opRefuse 0x0617 0 [] s
  else
    answerTo r opAck 0 0 [] { s with home := { s.home with fences := tput s.home.fences key r.attempt } }

/-! The directory's entries (R114). -/

/-- A line's directory entry. -/
def dirOf (line : Nat) (s : State) : Option DirEnt := s.home.dir.find? fun d => d.line == line

/-- A directory entry changed in its place, or taken as the newest. -/
def setDir (d : DirEnt) (s : State) : State :=
  let l := if s.home.dir.any fun x => x.line == d.line then s.home.dir.map fun x => if x.line == d.line then d else x
    else s.home.dir ++ [d]
  { s with home := { s.home with dir := l } }

/-- A line UNCACHED. -/
def dropDir (line : Nat) (s : State) : State :=
  { s with home := { s.home with dir := s.home.dir.filter fun x => x.line != line } }

/-- The set of a line (R114). -/
def dirSet (line : Nat) : Nat := bits line 23 6

/-- A round under way for a line (R121). -/
def roundOf (line : Nat) (s : State) : Option Round := s.home.rounds.find? fun r => r.line == line

/-- A round changed in its place. -/
def setRound (r : Round) (s : State) : State :=
  { s with home := { s.home with rounds := s.home.rounds.map fun x => if x.snoopId == r.snoopId then r else x } }

/-- A round started: a snoop for the line goes into the home's eastbound slots (R119), its entry busy. Round kinds: 1
SHARE, 2 INVALIDATE, 3 RECALL. -/
def startRound (line kind requester entry : Nat) (targets : List Nat) (granule drain : Option Nat) (s : State) : State :=
  let gen := match dirOf line s with | some d => d.generation | none => 0
  let id := s.home.nextSnoop
  let r : Round := { snoopId := id, line := line, kind := kind, requester := requester, ask := targets, awaiting := [],
                     retries := 0, early := [], data := none, lost := false, granule := granule,
                     drain := drain }
  let s := { s with home := { s.home with nextSnoop := (id + 1) % 65536, rounds := s.home.rounds ++ [r] } }
  let s := match dirOf line s with | some d => setDir { d with busy := true } s | none => s
  ringSend none (.snoop [{ line := line, kind := kind, requester := requester, snoopId := id, generation := gen,
                           entry := entry, targets := targets }]) s

/-- A line without an entry whose set is full: a recall must make room (R115). -/
def needsRoom (line : Nat) (s : State) : Bool :=
  (dirOf line s).isNone && decide (16 ≤ (s.home.dir.filter fun d => dirSet d.line == dirSet line).length)

/-- Room in a line's directory set: true when the line has an entry or its set has room; else the oldest entry of the set
that is not busy is recalled, unless one is already being recalled, the ring is broken or 256 lines are in rounds (R115, R119,
R128). -/
def dirRoom (line : Nat) (s : State) : Bool × State :=
  if !needsRoom line s then (true, s)
  else if s.ring.broken.isSome ∨ 256 ≤ s.home.rounds.length then (false, s)
  else if s.home.rounds.any fun r => r.kind == 3 && dirSet r.line == dirSet line then (false, s)
  else
    match s.home.dir.find? fun d => dirSet d.line == dirSet line && !d.busy with
    | none => (false, s)
    | some d => (false, startRound d.line 3 0x3F d.entry d.presence none none (raise 0x0809 [(evAddress, d.line)] s))

/-! Admission. -/

/-- R48's first check: the entry is VALID here at the request's generation, and homed here. -/
def entryCurrent (r : FabReq) (s : State) : Bool :=
  let e := entryOf r.entry s
  e.state == 1 && e.generation == r.generation && e.homeDevice == self s

/-- A request of a granule queue judged at its admission, in the order of R48, and queued, held or refused. -/
def admitNow (r : FabReq) (s : State) : State :=
  let e := entryOf r.entry s
  if !serves e.charter s then refuseArrival r 0x050A s
  else if !entryCurrent r s then refuseArrival r 0x0506 s
  else if jobWrite r && jobSealed r s then refuseArrival r 0x1306 s
  else if jobWrite r && staleAttempt r s then refuseArrival r 0x0616 s
  else
    match (if countedWrite r || r.opcode == opWriteSeal then sealSource r else none) with
    | none =>
      let s := if r.opcode = opCShared ∨ r.opcode = opCOwn ∨ r.opcode = opCUpgrade then (dirRoom r.address s).2 else s
      pushRequest false r e s
    | some q =>
      let p := admitWindow q r.sealWindow r.charter s
      if p.1 ≠ 0 then answerTo r opRefuse p.1 (sealAux r s) [] s
      else if r.opcode ≠ opWriteSeal then pushRequest false r e p.2
      else
        match winOf q r.sealWindow p.2 with
        | none => p.2
        | some v =>
          if v.held.isSome then answerTo r opRefuse 0x0612 v.landed [] p.2
          else judgeSeal q r.sealWindow (setWin q { v with held := some (r, s.tide.count) } p.2)

/-- The granules a waiting request needs. -/
def waitsFor (r : FabReq) (s : State) : List Nat := queuesOf r (entryOf r.entry s)

/-- Does a queue the request needs hold 1,024 accesses (R109)? -/
def queueFull (r : FabReq) (s : State) : Bool := (waitsFor r s).any fun k => decide (1024 ≤ queueDepth (queueOf k s))

/-- A request arrives: admitted, or waiting in the shared buffer behind a full queue and earlier waiters of its granules
(R109). -/
def arriveHome (r : FabReq) (s : State) : State :=
  let behind := s.home.waiting.any fun w => (waitsFor w s).any fun k => (waitsFor r s).contains k
  if queueFull r s ∨ behind = true then
    { s with home := { s.home with waiting := s.home.waiting ++ [r] } }
  else admitNow r s

/-- The waiting requests admitted whose queues have room, in order of arrival (R109). -/
def wakeHome (s : State) : State :=
  let all := s.home.waiting
  all.foldl (fun s r => arriveHome r s) { s with home := { s.home with waiting := [] } }

/-- ATTEMPT_FENCE (R85, R364). -/
def execAttemptFence (r : FabReq) (s : State) : Ans := onCore s (fence r)

/-- SEAL_TIMEOUT: a seal held for 2,048 tides is refused (R74). -/
def execSealTimeout (source window : Nat) (s : State) : Ans :=
  onCore s fun s =>
    match winOf source window s with
    | none => s
    | some v =>
      match v.held with
      | none => s
      | some (_, t) => if t + 2048 ≤ s.tide.count then refuseHeld source 0x0614 v s else s

/-- WINDOW_FORGET: a source with no open window, and none opened for 2,048 tides, is forgotten (R76). -/
def execWindowForget (source : Nat) (s : State) : Ans :=
  onCore s fun s =>
    match sealSrc source s with
    | none => s
    | some x =>
      if x.wins = [] ∧ x.lastOpened + 2048 ≤ s.tide.count then
        { s with home := { s.home with seals := tdel s.home.seals source } }
      else s

/-- LOAD_LEVEL_UPDATE: the largest of three occupancies in eighths, capped at 7 (R98). The admission queues' limit is not
stated: their eighths are a free value (log 1). -/
def execLoadLevelUpdate (s : State) : Ans :=
  onCore s fun s =>
    let d := draw s
    let s := d.2
    let cap (n : Nat) : Nat := min 7 n
    let shared := cap (8 * (s.sw.cells.filter fun c => c.place != 3).length / 393216)
    let deepest := cap (8 * (s.home.queues.map fun p => queueDepth p.2).foldl max 0 / 1024)
    { s with home := { s.home with ll := max (d.1 % 8) (max shared deepest) } }

end Sys2Proof.Machine
end

