-- ==== Sys2Proof/Machine/Issue.lean ====
section
/-! DEFINITION. Domain changes as their issuer keeps them, and how their commands complete (R49, R50, R54, R411, R420). -/

namespace Sys2Proof.Machine
open Sys2Proof

/-- A change this device issues, by its number. -/
def issuedOf (n : Nat) (s : State) : Option Issued := s.man.issued.find? fun i => i.number == n

/-- An issued change altered in its place. -/
def setIssued (i : Issued) (s : State) : State :=
  { s with man := { s.man with issued := s.man.issued.map fun x => if x.number == i.number then i else x } }

/-- An issued change no longer kept. -/
def dropIssued (n : Nat) (s : State) : State :=
  { s with man := { s.man with issued := s.man.issued.filter fun x => x.number != n } }

/-- A Manifest entry's fields in order. -/
def entryFields (e : Entry) : List Nat :=
  [e.baseFpa, e.sizeCode, e.tier, e.cls, e.redundancy, e.charter, e.ownerHost, e.generation, e.keyEpoch, e.state,
   b2n e.compressed, b2n e.readOnly, b2n e.shadowLink, e.memberPerm, e.homeDevice, e.shadowEntry, e.objectId, e.reserved]

/-- A list's fields, its length first. -/
def listFields (l : List Nat) : List Nat := l.length :: l

/-- A table of lists' fields. -/
def tableFields (t : Tbl (List Nat)) : List Nat := t.length :: t.flatMap fun p => p.1 :: listFields p.2

/-- A route map's fields. -/
def routeFields (m : RouteMap) : List Nat :=
  tableFields m.toDevice ++ tableFields m.toHost ++
  m.groups.length :: m.groups.flatMap fun p => p.1 :: (listFields p.2.locals ++ listFields p.2.spans)

/-- A group's fields. -/
def groupFields (g : Group) : List Nat :=
  [g.groupId, g.mode, g.memberBytes] ++ g.members.length ::
    g.members.flatMap fun m => [m.device, m.tray, m.module]

/-- A change as its notice carries it: its kind and fields, a key as the byte string given (R50, R384). -/
def changeFields (c : Change) (key : Bytes) : List Nat :=
  match c with
  | .map i e => [1, i] ++ entryFields e
  | .revoke i => [2, i]
  | .window ch w d => [3, ch, w, b2n d.enable, d.sizeCode, d.firstEntry, d.entryCount]
  | .route m => 4 :: routeFields m
  | .composition c m => 5 :: (listFields c.members ++ tableFields (c.sites.map fun p => (p.1, [p.2])) ++
      tableFields (c.buddies.map fun p => (p.1, [p.2])) ++ routeFields m)
  | .role h g j l => [6, h, g] ++ listFields j ++ listFields l
  | .tideLength k => [7, k]
  | .groupDefine g => 8 :: groupFields g
  | .groupDelete g => [9, g]
  | .formatStart g l => [10, g, l]
  | .formatEnd g l ok => [11, g, l, b2n ok]
  | .replace g m d t mo r => [12, g, m, d, t, mo, r]
  | .charterCreate c conf _ => [13, c, b2n conf] ++ key.map fun b => b.toNat
  | .charterMembers c a r => [14, c] ++ listFields a ++ listFields r
  | .charterRotate c r _ => [15, c, r] ++ key.map fun b => b.toNat
  | .charterRevoke c => [16, c]
  | .migrate l => 17 :: l.length :: l.flatMap fun p => p.1 :: entryFields p.2
  | .fwActivate m r => [18, m, r]

/-- The body of a domain change's RESULT: the block as applied in basic form, its boundary, and further data (R409, R411).
A key is left out of the block. -/
def issuedBody (i : Issued) (h : CmdHdr) (boundary : Nat) (extra : Bytes) : Bytes :=
  (if h.expert then [] else Config.blockImage i.command (changeFields i.change [] ++ [i.atTide])) ++ le 8 boundary ++ extra

/-- An issued change's command completes with a code; while the firmware is down its RESULT is kept (R411, R420). A change
that the device issued for itself has no command. -/
def completeIssued (n reason : Nat) (detail : Option (Nat × Nat)) (boundary : Option Nat) (extra : Bytes) (s : State) : State :=
  match issuedOf n s with
  | none => s
  | some i =>
    match i.hdr with
    | none => dropIssued n s
    | some h =>
      let body := if reason = 0 then issuedBody i h (boundary.getD i.atTide) extra else []
      if hmRuns s then resultWith h i.command reason detail body (dropIssued n s)
      else setIssued { i with outcome := some (reason, detail, body) } s

/-- The RESULTs kept while the firmware was down (R420). -/
def postOutcomes (s : State) : State :=
  s.man.issued.foldl (fun s i =>
    match i.outcome, i.hdr with
    | some (reason, detail, body), some h => resultWith h i.command reason detail body (dropIssued i.number s)
    | _, _ => s) s

/-- The notice of a change. -/
def noticeOf (id : ChangeId) (s : State) : Option Notice := s.man.notices.find? fun n => n.id == id

/-- A stored notice altered in its place. -/
def setNotice (n : Notice) (s : State) : State :=
  { s with man := { s.man with notices := s.man.notices.map fun x => if x.id == n.id then n else x } }

/-- Is this device named in a device mask? -/
def named (mask : Nat) (s : State) : Bool := bit mask (self s)

/-- A notice committed; a named Harbourmaster takes no further command from the commit of an activation on (R435). -/
def commitNotice (id : ChangeId) (s : State) : State :=
  match noticeOf id s with
  | none => s
  | some n =>
    let s := setNotice { n with committed := true } s
    match n.change with
    | .fwActivate mask _ => if named mask s then { s with hm := { s.hm with activateAt := some n.atTide } } else s
    | _ => s

/-- A change whose members are all ready is committed, no later than boundary at_tide - 4 (R50). -/
def commitReady (n : Nat) (s : State) : State :=
  match issuedOf n s with
  | none => s
  | some i =>
    let id : ChangeId := ⟨self s, n⟩
    let own := match noticeOf id s with | some x => x.ready | none => false
    if i.committed || i.awaiting != [] || !own || decide (i.atTide < s.tide.count + 4) then s
    else broadcast ctlCommit [self s, n] (commitNotice id (setIssued { i with committed := true } s))

/-- A notice dropped, with the keys it loaded (R50, R395). -/
def dropNotice (id : ChangeId) (s : State) : State :=
  let mine := s.sec.staged.filter fun k => k.1 == id
  let keys := mine.foldl (fun t k => tdel t k.2.1) s.sec.keys
  { s with man := { s.man with notices := s.man.notices.filter fun n => n.id != id },
           sec := { s.sec with keys := keys, staged := s.sec.staged.filter fun k => k.1 != id },
           home := { s.home with moves := s.home.moves.filter fun m => m.id != id } }

/-- A change cancelled: the members are told, and the command completes with a code (R50, R384, R416). -/
def cancelIssued (n reason : Nat) (detail : Option (Nat × Nat)) (s : State) : State :=
  match issuedOf n s with
  | none => s
  | some i =>
    if i.committed then s
    else completeIssued n reason detail none [] (dropNotice ⟨self s, n⟩ (broadcast ctlCancel [self s, n] s))

/-- The entries whose drains an issued change waits for (R54, R254). -/
def drainEntries (c : Change) : List Nat :=
  match c with
  | .revoke i => [i]
  | .migrate l => l.map fun p => p.1
  | _ => []

/-- An entry's old generation is drained at its home: the revocation or migration that waits for it completes when it is the
last (R54, R254). -/
def drained (n entry : Nat) (s : State) : State :=
  match issuedOf n s with
  | none => s
  | some i =>
    let i := { i with reports := insertSorted entry i.reports }
    let s := setIssued i s
    if i.applied && (drainEntries i.change).all i.reports.contains && drainEntries i.change != [] && i.outcome.isNone then
      completeIssued n 0 none none [] s
    else s

end Sys2Proof.Machine
end

