-- ==== Sys2Proof/Machine/Batch.lean ====
section
/-! DEFINITION. Granule batches and row steps at the home: starting, reading, applying, writing, answering (R63 to R71, R94,
R97, R100, R109, R118, R333 to R344, R385 to R396), and module failures seen by a tray's answers (R336). -/

namespace Sys2Proof.Machine
open Sys2Proof

/-! The value of a granule through a batch. -/

/-- What one access does to a granule: the value after it, whether it wrote, its outcome 0 done, 1 poison, 2 refused,
3 conflict, its code, and the data it returns. -/
structure Applied where
  value : Bytes
  wrote : Bool
  kind : Nat
  code : Nat
  data : Bytes
  deriving DecidableEq, Repr

/-- A granule poisoned for an access (R97). -/
def metPoison (v : Bytes) : Applied := { value := v, wrote := false, kind := 1, code := 0x0607, data := [] }

/-- An access that only reads. -/
def readOf (v d : Bytes) : Applied := { value := v, wrote := false, kind := 0, code := 0, data := d }

/-- An access that writes. -/
def wroteAs (v d : Bytes) : Applied := { value := v, wrote := true, kind := 0, code := 0, data := d }

/-- A granule's bytes under a byte-enable mask (R91). -/
def maskBytes (mask : Nat) (old new : Bytes) : Bytes :=
  ((List.zip old new).zipIdx).map fun x => if bit mask x.2 then x.1.2 else x.1.1

/-- The result of an atomic operation on old and operand, of n bytes (R94). -/
def atomicNew (aux old x y n : Nat) : Nat :=
  let w := 2 ^ (8 * n)
  let op := aux % 16
  let less (a b : Nat) : Bool := if bit aux 5 then decide (sext (8 * n) a < sext (8 * n) b) else decide (a < b)
  if op = 0 then (old + x) % w
  else if op = 1 then (if less x old then x else old)
  else if op = 2 then (if less old x then x else old)
  else if op = 3 then (if old = x then y else old)
  else (enc32 0 (addNum (dec32 (BitVec.ofNat 32 old)) (dec32 (BitVec.ofNat 32 x)))).toNat

/-- Operand bytes of an atomic (R94). -/
def atomicBytes (aux : Nat) : Nat := if bit aux 4 then 8 else 4

/-- REGION_PUBLISH is malformed (R100). -/
def publishBad (a : Access) : Bool :=
  let old := fld a.req.payload 0 8
  let new := fld a.req.payload 8 8
  decide (a.req.address % 64 ≠ 0) || a.ent.cls != 2 || decide (2 < new % 16) ||
  decide (new / 2 ^ 16 ≤ old / 2 ^ 16) || a.req.srcEngine || decide (bits new 15 4 ≠ a.req.source)

/-- One access applied to a granule's value (R91, R94, R97, R100). -/
def applyAccess (a : Access) (v : Bytes) : Applied :=
  let op := a.req.opcode
  let p := a.req.payload
  if op = opCopy then (if isPoison v then metPoison v else readOf v v)
  else if op = opMark then wroteAs stamp []
  else if op = opReturn then wroteAs (fit 64 p) []
  else if op = opRead ∨ op = opReadAcq then (if isPoison v then metPoison v else readOf v (slice v a.lo a.len))
  else if op = opCShared ∨ op = opCOwn ∨ op = opCUpgrade then (if isPoison v then metPoison v else readOf v v)
  else if op = opWrite ∨ op = opStow then
    if a.len = 64 then wroteAs (slice p a.skip 64) []
    else if isPoison v then metPoison v
    else wroteAs (fit 64 (splice' v a.lo (slice p a.skip a.len))) []
  else if op = opWritePartial then
    if isPoison v then metPoison v else wroteAs (maskBytes (fld p 0 8) v (slice p 8 64)) []
  else if op = opWriteSeal then
    if isPoison v then metPoison v else wroteAs (fit 64 (splice' v a.lo (slice p 0 8))) []
  else if op = opAtomic then
    if isPoison v then metPoison v
    else
      let n := atomicBytes a.req.aux
      let old := fld v a.lo n
      let new := atomicNew a.req.aux old (fld p 0 n) (fld p n n) n
      wroteAs (fit 64 (splice' v a.lo (le n new))) (le n old)
  else if op = opPublish then
    if publishBad a then { value := v, wrote := false, kind := 2, code := 0x0606, data := [] }
    else if isPoison v then metPoison v
    else if fld v 0 8 = fld p 0 8 then wroteAs (fit 64 (splice' v 0 (slice p 8 16))) (slice v 0 16)
    else { value := v, wrote := false, kind := 3, code := 0x0605, data := slice v 0 16 }
  else readOf v []

/-- A batch's accesses applied in order: the final value, whether any wrote, and the outcomes (R69, R109). -/
def applyAll (l : List Access) (v : Bytes) : Bytes × Bool × List (Nat × Nat × Nat × Bytes) :=
  l.foldl (fun acc a =>
    let r := applyAccess a acc.1
    (r.value, acc.2.1 || r.wrote, acc.2.2 ++ [(a.id, r.kind, r.code, r.data)])) (v, false, [])

/-- An access that needs only to read. -/
def readsOnly (a : Access) : Bool := [opRead, opReadAcq, opCShared, opCOwn, opCUpgrade, opCopy].contains a.req.opcode

/-- An access that sets the whole granule without its old value. -/
def setsWhole (a : Access) : Bool :=
  a.req.opcode == opMark || a.req.opcode == opReturn || ((a.req.opcode == opWrite || a.req.opcode == opStow) && a.len == 64)

/-! Requests to trays. -/

/-- A request to a tray's module (R275). -/
def trayIssue (l : Lay) (key row m : Nat) (write : Bool) (data : Bytes) (s : State) : State :=
  match l.mems[m]? with
  | none => s
  | some (d, t, mo) =>
    let id := s.home.nextTray
    let r : TrayReq := { id := id, device := d, tray := t, module := mo, offset := 64 * row, write := write, key := key,
                         cell := cellOf row m, since := s.refCycles, late := false }
    sendTray id d t mo (64 * row) (if key < 2 ^ 60 then 0 else 15) write data
      { s with home := { s.home with nextTray := id + 1, trays := s.home.trays ++ [r] } }

/-- Tray requests that a key awaits. -/
def awaited (key : Nat) (s : State) : List Nat := (s.home.trays.filter fun r => r.key == key).map fun r => r.id

/-- A batch under way changed in its place. -/
def setBatch (key : Nat) (b : Batch) (s : State) : State :=
  setQueue key { queueOf key s with batch := some b } s

/-! What a step covers. -/

/-- A granule step's extent: its entry index, entry, and byte offset. -/
def stepEntry (key : Nat) (b : Batch) (s : State) : Nat × Entry × Nat :=
  if b.kind = 0 then
    (key / 2 ^ 24, (match b.accesses with | a :: _ => a.ent | [] => entryOf (key / 2 ^ 24) s), key % 2 ^ 24 * 64)
  else (b.place.1, entryOf b.place.1 s, b.place.2 * 4096)

/-- Does a batch write, as far as can be known before its value is read? -/
def batchWrites (b : Batch) : Bool := b.kind == 1 || b.dirty.isSome || b.lost || b.accesses.any fun a => !readsOnly a

/-- The page map's epoch of a step's page; pages of other charters count as written in the clear (R386). -/
def stepPage (key : Nat) (b : Batch) (s : State) : Option Nat :=
  let x := stepEntry key b s
  if isConfidential x.2.1.charter s then pageEpoch x.1 (x.2.2 / 4096) s else some 0

/-- The step takes a whole page: a sweep, or a write to a page unwritten or under another epoch (R386, R395). -/
def wholePage (key : Nat) (b : Batch) (s : State) : Bool :=
  let x := stepEntry key b s
  isConfidential x.2.1.charter s && batchWrites b && decide (stepPage key b s ≠ some (epochOf x.2.1.charter s))

/-- The byte offsets of the granules a step covers. -/
def stepGranules (key : Nat) (b : Batch) (s : State) : List Nat :=
  let x := stepEntry key b s
  if b.kind = 1 || b.whole || wholePage key b s then (List.range 64).map fun i => x.2.2 / 4096 * 4096 + 64 * i else [x.2.2]

/-- A row of a re-homed extent still to be resynced (R344). -/
def unsynced (entry row : Nat) (s : State) : Bool :=
  match tget s.home.resyncs entry with
  | none => false
  | some (cursor, done) => decide (cursor ≤ row) && !done.contains row

/-- A step resyncs a row first (R344); a mirror with one copy left has nothing to compare. -/
def mustSync (entry row : Nat) (l : Lay) (s : State) : Bool :=
  unsynced entry row s && !(l.k == 1 && missing l row 0 s)

/-- The members a resync reads: the live data members, and a mirror's other copy when the first answered POISON (R338, R344). -/
def syncMembers (l : Lay) (row : Nat) (got : Tbl (Option Bytes)) (s : State) : List Nat :=
  let live := liveMembers l row s
  if l.k = 1 ∧ cellBad got row 0 = true then live else live.filter fun m => (dataMembers l row).contains m

/-- The layout of a group by its number, from row 0. -/
def layOfGroup (g : Nat) (s : State) : Option Lay := (tget s.man.groups g).map fun x => layGroup x 0

/-- The cells a granule step still has to read (R335, R337, R338, R344, R386). -/
def granuleNeeds (key : Nat) (b : Batch) (s : State) : List (Nat × Nat) :=
  let x := stepEntry key b s
  let l := layOf x.2.1 s
  let fresh := (stepPage key b s).isNone
  let writes := batchWrites b
  let skip := decide (l.k = 1) && !wholePage key b s && (b.dirty.isSome || b.lost ||
    (match b.accesses with | a :: _ => setsWhole a | [] => false))
  (stepGranules key b s).flatMap fun off =>
    let row := rowOf l off
    if mustSync x.1 row l s then (syncMembers l row b.got s).map fun m => (row, m)
    else if fresh || skip then []
    else (needMembers l row (posOf l off) writes b.got s).map fun m => (row, m)

/-- The cells a step still has to read. -/
def stepNeeds (key : Nat) (b : Batch) (s : State) : List (Nat × Nat) :=
  if b.kind ≤ 1 then granuleNeeds key b s
  else if b.kind = 4 then []
  else
    match (if b.kind = 2 then layOfGroup b.place.1 s else some (layOf (entryOf b.place.1 s) s)) with
    | none => []
    | some l =>
      (if b.kind = 2 then liveMembers l b.place.2 s else syncMembers l b.place.2 b.got s).map fun m => (b.place.2, m)

/-- The layout whose members a step reads and writes. -/
def stepLay (key : Nat) (b : Batch) (s : State) : Option Lay :=
  if b.kind ≤ 1 then some (layOf (stepEntry key b s).2.1 s)
  else if b.kind = 3 then some (layOf (entryOf b.place.1 s) s)
  else layOfGroup b.place.1 s

/-- Reads or writes issued for a step, which then awaits them. -/
def issueFor (key : Nat) (l : Lay) (write : Bool) (cells : List (Nat × Nat × Bytes)) (s : State) : State :=
  cells.foldl (fun s c => trayIssue l key c.1 c.2.1 write c.2.2 s) s

/-! Applying a granule step. -/

/-- The events of granules marked poisoned, at most one an extent a tide (R486). -/
def poisonEvent (entry n : Nat) (e : Entry) (s : State) : State :=
  if n = 0 then s else raiseLimited 0x0627 entry 0 [(evAddress, e.baseFpa), (evCharter, e.charter)] n s

/-- A granule's old plaintext as a step finds it: the value, unrecoverable, or under a key that is not held. -/
inductive Found where
  | value (v : Bytes) | gone | bad | noKey
  deriving DecidableEq, Repr

/-- A granule's old plaintext (R337, R338, R344, R386, R396). -/
def findGranule (key : Nat) (b : Batch) (off : Nat) (s : State) : Found :=
  let x := stepEntry key b s
  let e := x.2.1
  let l := layOf e s
  let row := rowOf l off
  let j := posOf l off
  match stepPage key b s with
  | none => .value zeroGranule
  | some ep =>
    let miss := missing l row (dataMember l row j) s
    if beyond l row s && miss then .gone
    else if mustSync x.1 row l s && miss then .bad
    else
      match (rowData l row b.got s).getD j none with
      | none => .bad
      | some c => match openGranule e off ep c s with | some v => .value v | none => .noKey

/-- The writes of a row whose data granules change: data members, then parity (R333, R335, R337). `all` rewrites parity
even where no data changed. -/
def rowWrites (l : Lay) (row : Nat) (old new : List (Option Bytes)) (changed : List Nat) (got : Tbl (Option Bytes))
    (s : State) : List (Nat × Nat × Bytes) :=
  let live := liveMembers l row s
  let dataW := changed.filterMap fun j =>
    let m := dataMember l row j
    if live.contains m then (new.getD j none).map fun v => (row, m, v) else none
  let parW := if beyond l row s then []
    else ((parityMembers l row).zipIdx).filterMap fun p =>
      if live.contains p.1 then
        (newParity p.2 old new (cellVal got row p.1)).map fun v => (row, p.1, v)
      else none
  dataW ++ parW

/-- The codes of an access whose granule is gone or has no key (R337, R397, R399). -/
def stopCode (f : Found) (e : Entry) (s : State) : Nat :=
  match f with
  | .gone => 0x0620
  | _ => if charterState e.charter s = 2 then 0x1003 else if s.sec.zeroized.contains e.charter then 0x1006 else 0x0620

/-- Outcomes of accesses that cannot be performed: a read meets poison, a write is refused; R100's own checks come first. -/
def stopped (l : List Access) (code : Nat) : List (Nat × Nat × Nat × Bytes) :=
  l.map fun a =>
    if a.req.opcode = opPublish ∧ publishBad a = true then (a.id, 2, 0x0606, [])
    else if readsOnly a then (a.id, 1, 0x0607, []) else (a.id, 2, code, [])

/-- A granule step whose reads are all there: its accesses applied, its writes issued (R109). -/
def applyGranule (key : Nat) (b : Batch) (s : State) : State :=
  let x := stepEntry key b s
  let e := x.2.1
  let l := layOf e s
  let target := x.2.2
  let whole := b.kind == 1 || wholePage key b s
  let ep := epochOf e.charter s
  let conf := isConfidential e.charter s
  let found := findGranule key b target s
  let noWriteKey := conf && (keyAt e.charter ep s).isNone
  let stale := conf && found == .noKey && charterState e.charter s != 2 && !s.sec.zeroized.contains e.charter
  let s := if stale then raise 0x100C [(evCharter, e.charter), (evAddress, e.baseFpa + target)] s else s
  let base : Bytes := match b.dirty with
    | some v => v
    | none => if b.lost then stamp else match found with | .value v => v | _ => stamp
  let blocked := found == .gone || (found == .noKey && b.dirty.isNone && !stale) || (noWriteKey && batchWrites b)
  let marks := (b.accesses.filter fun a => a.req.opcode == opMark && a.req.aux == 0).length
  let damaged := b.dirty.isNone && !b.lost && found == .bad
  if blocked then
    let outs := if found == .value base && noWriteKey then
        b.accesses.map fun a =>
          if readsOnly a then let r := applyAccess a base; (a.id, r.kind, r.code, r.data)
          else (a.id, 2, stopCode found e s, [])
      else stopped b.accesses (stopCode found e s)
    setBatch key { b with stage := 2, outcomes := outs } s
  else
    let r := if b.kind = 1 then (base, false, []) else applyAll b.accesses base
    let changed := r.2.1 || b.dirty.isSome || b.lost || damaged
    let s := poisonEvent x.1 (marks + (if damaged then 1 else 0)) e s
    let s := if b.lost then raise 0x080A [(evCount, 1)] s else s
    let newAt (off : Nat) : Bytes :=
      if off = target ∧ b.kind = 0 then r.1
      else match findGranule key b off s with | .value v => v | _ => stamp
    let offs := if whole then stepGranules key b s else if changed then [target] else []
    let rows := sorted ((stepGranules key b s).map fun o => rowOf l o)
    let ws := rows.flatMap fun row =>
      let old := rowData l row b.got s
      let mine := offs.filter fun o => rowOf l o == row
      let sync := mustSync x.1 row l s
      let fixed := if sync then (old.zipIdx).map fun d =>
          match d.1 with
          | some v => some v
          | none => some (storedStamp (modAddr e.baseFpa) (64 * (row * l.k + d.2)) s)
        else old
      let new := mine.foldl (fun n o => n.set (posOf l o) (some (sealGranule e o ep (newAt o) s))) fixed
      let repair := (dataMembers l row).zipIdx.filterMap fun m =>
        if cellBad b.got row m.1 && !missing l row m.1 s && (old.getD m.2 none).isSome &&
          !(mine.any fun o => posOf l o == m.2) then (old.getD m.2 none).map fun v => (row, m.1, v) else none
      let repairP := if mine = [] && !sync && old.all Option.isSome then
          ((parityMembers l row).zipIdx).filterMap fun p =>
            if cellBad b.got row p.1 && !missing l row p.1 s then some (row, p.1, partialSum p.2 old) else none
        else []
      let main := if mine = [] && !sync then [] else rowWrites l row old new (mine.map fun o => posOf l o) b.got s
      main ++ repair ++ repairP
    let fixed := rows.foldl (fun n row =>
      let old := rowData l row b.got s
      let bad (m : Nat) : Bool := cellBad b.got row m && !missing l row m s
      n + (old.zip (dataMembers l row)).countP (fun d => bad d.2 && d.1.isSome) +
        (if old.all Option.isSome then (parityMembers l row).countP bad else 0)) 0
    let s := (List.range fixed).foldl (fun s _ => raise 0x0623 [(evAddress, e.baseFpa + target)] s) s
    let s := if conf && offs != [] then setPage x.1 (target / 4096) ep s else s
    let s := match tget s.home.resyncs x.1 with
      | none => s
      | some (c, d) => { s with home := { s.home with
          resyncs := tput s.home.resyncs x.1 (c, rows.foldl (fun d r => insertSorted r d) d) } }
    let s := issueFor key l true ws s
    setBatch key { b with stage := 2, outcomes := r.2.2, awaiting := awaited key s, whole := whole, final := r.1 } s

/-! Row steps: rebuild, resync, format. -/

/-- A row's data with missing or unrecoverable granules holding the poison stamp (R344, R492), and how many. -/
def stampedRow (l : Lay) (row : Nat) (anchor : Nat) (got : Tbl (Option Bytes)) (s : State) : List Bytes × Nat :=
  let ds := rowData l row got s
  ((ds.zipIdx).map fun d => d.1.getD (storedStamp anchor (64 * (row * l.k + d.2)) s),
    ds.countP fun d => d.isNone)

/-- Poison raised for a row's stamped granules: against the extent that names it, else against its group (R486). -/
def rowPoison (g : Nat) (anchor row n : Nat) (l : Lay) (s : State) : State :=
  if n = 0 then s
  else
    match extentAt anchor (64 * (row * l.k)) s with
    | some (i, e) => poisonEvent i n e s
    | none => raiseLimited 0x0627 (2 ^ 19 + g) 0 [(evAddress, anchor * 2 ^ 38)] n s

/-- A row step whose reads are there: its writes issued (R334, R340, R344, R492). -/
def applyRow (key : Nat) (b : Batch) (s : State) : State :=
  match stepLay key b s with
  | none => setBatch key { b with stage := 2 } s
  | some l =>
    let row := b.place.2
    let anchor := match (if b.kind = 3 then none else tget s.man.groups b.place.1) with
      | some g => g.anchor
      | none => modAddr (entryOf b.place.1 s).baseFpa
    let p := stampedRow l row anchor b.got s
    let parVal (i : Nat) : Bytes := partialSum i (p.1.map some)
    let live := liveMembers l row s
    let valOf (m : Nat) : Bytes := match (parityMembers l row).zipIdx.find? fun x => x.1 == m with
      | some x => parVal x.2
      | none => ((p.1.zip (dataMembers l row)).find? fun d => d.2 == m).elim zeroGranule fun d => d.1
    let ws : List (Nat × Nat × Bytes) :=
      if b.kind = 4 then (List.range (l.k + l.par)).map fun m => (row, m, zeroGranule)
      else if b.kind = 2 then
        let target := ((s.home.rebuilds.find? fun r => r.groupId == b.place.1).map fun r => r.member).getD 0
        let parities := if beyond l row s then (parityMembers l row).filter live.contains else []
        (target :: parities.filter fun m => m != target).map fun m => (row, m, valOf m)
      else if l.k = 1 then
        if live.contains 0 && live.contains 1 then [(row, 1, valOf 1)] else []
      else ((parityMembers l row).filter live.contains).map fun m => (row, m, valOf m)
    let data := rowData l row b.got s
    let bad : List Nat := if b.kind = 4 then [] else live.filter fun m => cellBad b.got row m
    let mended := (data.zip (dataMembers l row)).countP (fun d => bad.contains d.2 && d.1.isSome) +
      (if b.kind = 2 && data.all Option.isSome then (parityMembers l row).countP bad.contains else 0)
    let ws := ws ++ (bad.filter fun m => !ws.any fun w => w.2.1 == m).map fun m => (row, m, valOf m)
    let s := (List.range mended).foldl (fun s _ => raise 0x0623 [(evAddress, anchor * 2 ^ 38)] s) s
    let s := if b.kind = 4 ∨ (b.kind = 3 ∧ l.k = 1 ∧ missing l row 0 s = true) then s else rowPoison b.place.1 anchor row p.2 l s
    let s := setBatch key { b with stage := 2 } s
    let s := issueFor key l true ws s
    setBatch key { b with stage := 2, awaiting := awaited key s } s

/-- A step reads what it still needs, or applies (R109, R335, R338). -/
def pumpReads (key : Nat) (s : State) : State :=
  match (queueOf key s).batch with
  | none => s
  | some b =>
    if b.stage ≠ 1 ∨ awaited key s ≠ [] then s
    else
      let need := (stepNeeds key b s).dedup.filter fun c => (tget b.got (cellOf c.1 c.2)).isNone
      match need, stepLay key b s with
      | [], _ => if b.kind ≤ 1 then applyGranule key b s else applyRow key b s
      | _, none => applyRow key b s
      | cs, some l =>
        let s := issueFor key l false (cs.map fun c => (c.1, c.2, [])) s
        setBatch key { b with awaiting := awaited key s } s

/-! Completing accesses. -/

/-- A confidential extent whose mapping moved to another home: its page map is sent once its drain has completed (R390). -/
def sendPages (entry : Nat) (s : State) : State :=
  let e := entryOf entry s
  let mine := s.home.pages.filter fun p => p.1 / 2 ^ 18 == entry
  if s.home.pageSend.contains entry then
    let s := control (some e.homeDevice) ctlPageMap ([e.homeDevice, entry] ++ mine.flatMap fun p => [p.1 % 2 ^ 18, p.2]) s
    { s with home := { s.home with pages := s.home.pages.filter fun p => p.1 / 2 ^ 18 != entry,
                                   pageSend := s.home.pageSend.filter fun x => x != entry } }
  else s

/-- One of an access's revoked-generation drains ends; the issuer is told when the count reaches zero (R54). -/
def drainOne (entry : Nat) (s : State) : State :=
  match tget s.home.drains entry with
  | none => s
  | some (n, id) =>
    if 2 ≤ n then { s with home := { s.home with drains := tput s.home.drains entry (n - 1, id) } }
    else
      let s := { s with home := { s.home with drains := tdel s.home.drains entry } }
      let s := sendPages entry s
      match id with
      | some c => if c.issuer = self s then drained c.number entry s
          else broadcast ctlDrainDone [c.issuer, c.number, entry] s
      | none => s

/-- The queue number of an extent that is being copied, beside its entry's own. -/
def moveIndex (entry : Nat) : Nat := entry + 2 ^ 19

/-- The next granule of an extent being copied is read; pages that the source never wrote are left out; at the end the home
answers ready (R50, R254, R390). -/
def moveNext (fuel entry : Nat) (s : State) : State :=
  match fuel, s.home.moves.find? fun m => m.entry == entry with
  | k + 1, some m =>
    let e := entryOf entry s
    let size := extentBytes e.sizeCode
    let put (n : Nat) (s : State) : State :=
      { s with home := { s.home with moves := s.home.moves.map fun x => if x.entry == entry then { x with next := n } else x } }
    if size ≤ m.next then
      let rest := s.home.moves.any fun x => x.id == m.id && decide (x.next < extentBytes (entryOf x.entry s).sizeCode)
      if rest then s
      else
        let s := { s with man := { s.man with notices := s.man.notices.map fun n => if n.id == m.id then { n with ready := true } else n } }
        if m.id.issuer = self s then commitReady m.id.number s
        else control (some m.id.issuer) ctlReady [m.id.issuer, m.id.number] s
    else if isConfidential e.charter s ∧ (pageEpoch entry (m.next / 4096) s).isNone then
      moveNext k entry (put ((m.next / 4096 + 1) * 4096) s)
    else pushRequest false { ownAccess opCopy entry m.next e [] with aux := 1 } e (put (m.next + 64) s)
  | _, _ => s

/-- A granule read for a copy is written to its new storage, poison as poison (R254, R390). -/
def moveGranule (h : HomeReq) (s : State) : State :=
  match s.home.moves.find? fun m => m.entry == h.req.entry with
  | none => s
  | some m =>
    let off := h.req.address - (entryOf m.entry s).baseFpa
    let op := if h.worst = 0 then opReturn else opMark
    pushRequest false { ownAccess op (moveIndex m.entry) off m.target (h.data.flatMap fun p => p.2) with aux := 1 } m.target s

/-- The answer of a request whose steps have all ended (R63, R91, R95, R96, R116). -/
def answerDone (h : HomeReq) (listed : Bool) (s : State) : State :=
  let r := h.req
  if r.opcode = opCopy then moveGranule h s
  else if opMark ≤ r.opcode ∧ 2 ^ 19 ≤ r.entry then moveNext (2 ^ 18 + 1) (r.entry - 2 ^ 19) s
  else if h.worst = 2 then answerTo r opRefuse h.code (sealAux r s) [] s
  else if h.worst = 1 then answerTo r opPoison 0x0607 (sealAux r s) [] s
  else
    let data := h.data.flatMap fun p => p.2
    if h.worst = 3 then answerTo r opConflict 0x0605 (bits (unle (data.take 8)) 63 32) data s
    else if r.opcode = opWriteSeal then answerTo r opAck 0 r.aux [] s
    else if countedWrite r then answerTo r opAck 0 0 [] s
    else if r.opcode = opAtomic ∧ bit r.aux 6 = true then answerTo r opAck 0 0 [] s
    else if r.opcode = opCUpgrade ∧ listed = true then answerTo r opAck 0 0 [] s
    else answerTo r opData 0 0 data s

/-- One step of a request ended with an outcome; the request is answered, counted in its window and sealed when it was the
last (R63, R73, R85, R364). -/
def endStep (a : Access) (kind code : Nat) (data : Bytes) (listed : Bool) (s : State) : State :=
  let s := if a.drain then drainOne a.req.entry s else s
  match s.home.reqs.find? fun h => h.id == a.id with
  | none => s
  | some h =>
    let rank (k : Nat) : Nat := if k = 2 then 3 else if k = 1 then 2 else if k = 3 then 1 else 0
    let worse := decide (rank h.worst < rank kind)
    let first := kind == 2 && (h.worst != 2 || decide (a.skip < h.codeAt))
    let h' : HomeReq := { h with left := h.left - 1, worst := if worse then kind else h.worst,
                                 code := if first then code else h.code, codeAt := if first then a.skip else h.codeAt,
                                 data := tput h.data a.skip data }
    if 0 < h'.left then
      { s with home := { s.home with reqs := s.home.reqs.map fun x => if x.id == h.id then h' else x } }
    else
      let s := { s with home := { s.home with reqs := s.home.reqs.filter fun x => x.id != h.id } }
      let r := h.req
      let s := if r.opcode = opWriteSeal ∧ r.jobValid = true ∧ h'.worst = 0 then
          let k := jobKey r.jobDevice r.jobSlot
          { s with home := { s.home with receipts := tput s.home.receipts k (r.attempt, s.tide.count),
                                          fences := tdel s.home.fences k } }
        else s
      let gone := charterState r.charter s == 2 && isConfidential r.charter s && decide (r.opcode < opMark)
      let s := if gone then
          countRemoval r.charter (b2n (h'.worst == 1 && !r.srcEngine)) (b2n (h'.worst == 2 && h'.code == 0x1003)) 0 s
        else s
      noteWrite r (h'.worst == 2) (answerDone h' listed s)

/-! Coherent lines. -/

/-- The kinds of access that a batch on a C line keeps apart: 0 reads, 1 conflicting, 2 asking for the line, 3 the
model's own, 4 a STOW with a target (R118, R124). -/
def lineClass (a : Access) : Nat :=
  let op := a.req.opcode
  if op = opRead ∨ op = opCShared ∨ op = opCopy then 0
  else if op = opCOwn ∨ op = opCUpgrade then 2
  else if op = opMark ∨ op = opReturn then 3
  else if op = opStow ∧ bits a.req.aux 7 6 = 1 then 4
  else 1

/-- Two admission entries name the same granule, for a C line under the same generation (R129). -/
def sameStorage (a b : Entry) : Bool :=
  a.baseFpa == b.baseFpa && a.redundancy == b.redundancy && a.charter == b.charter && a.cls == b.cls &&
  (a.cls != 1 || a.generation == b.generation)

/-- The accesses that one batch takes, at most n. On a C line a batch ends where one round could not serve what follows: after a
request for ownership or a filled STOW, and before a change to a line that the batch has shared (R109, R118, R122, R124; DEDUCED,
log 22). -/
def takeBatch (e : Entry) (shared : Bool) : Nat → List Access → List Access
  | 0, _ => []
  | _, [] => []
  | n + 1, b :: rest =>
    if !sameStorage e b.ent || (e.cls == 1 && shared && lineClass b != 0) then []
    else if e.cls == 1 && (lineClass b == 2 || lineClass b == 4) then [b]
    else b :: takeBatch e (shared || b.req.opcode == opCShared) n rest

/-- The accesses at the head of a queue that one batch takes: every one queued, up to 256 (R109). -/
def batchPrefix (q : List Access) : List Access :=
  match q with
  | [] => []
  | a :: _ => takeBatch a.ent false 256 q

/-- A change to the line that invalidates every holder (R118). -/
def conflicts (a : Access) : Bool := lineClass a == 1 || lineClass a == 4

/-- Does an access need a snoop, from the line's entry (R116, R118)? -/
def needsSnoop (d : Option DirEnt) (a : Access) : Bool :=
  match d with
  | none => false
  | some d =>
    let c := lineClass a
    if c = 3 then false
    else if c = 0 then d.state == 2 && !(a.req.opcode == opCShared && d.presence == [srcDevice a.req])
    else if c = 2 then d.presence.any fun k => k != srcDevice a.req
    else d.presence != []

/-- The one round that a batch on a C line needs: kind, requester and targets (R118, R119, R121). Any conflicting access invalidates
every listed device; a request for ownership every other one, after an owner has returned what the batch reads before it; else
an owner is downgraded. -/
def roundFor (l : List Access) (d : Option DirEnt) : Option (Nat × Nat × List Nat) :=
  match d with
  | none => none
  | some x =>
    if l.any fun a => conflicts a then
      (if x.presence = [] then none
      else some (2, ((l.find? fun a => conflicts a).map fun a => srcDevice a.req).getD 0x3F, x.presence))
    else
      let share := match l.find? fun a => lineClass a == 0 && needsSnoop d a with
        | some a => some (1, srcDevice a.req, x.presence)
        | none => none
      match l.find? fun a => lineClass a == 2 with
      | none => share
      | some a =>
        let t := x.presence.filter fun k => k != srcDevice a.req
        if t = [] then share else some (2, srcDevice a.req, t)

/-- A directory entry as R126 sees it after dead devices are taken out; none when an owner is dead. -/
def livePresence (d : DirEnt) (s : State) : DirEnt :=
  { d with presence := d.presence.filter fun k => !s.home.dead.contains k }

/-- A C line looked up: dead sharers cleared, a line of a dead owner poisoned and UNCACHED (R126). -/
def lookLine (line : Nat) (s : State) : State :=
  match dirOf line s with
  | none => s
  | some d =>
    let d' := livePresence d s
    if d' = d then s
    else if d.state = 2 then
      let s := dropDir line s
      let owner := d.presence.headD 0
      let s := { s with home := { s.home with
          linesPoisoned := tput s.home.linesPoisoned owner (tgetD s.home.linesPoisoned owner 0 + 1) } }
      pushRequest true { ownAccess opMark d.entry (line - d.ent.baseFpa) d.ent [] with aux := 1 } d.ent s
    else if d'.presence = [] ∧ d.busy = false then dropDir line s
    else setDir d' s

/-- Does an access of this kind leave the line with a directory entry? -/
def takesEntry (a : Access) : Bool := lineClass a == 2 || lineClass a == 4 || a.req.opcode == opCShared

/-- Does an access need a snoop, for the line or for room in its set (R115, R128)? -/
def needsRing (line : Nat) (d : Option DirEnt) (a : Access) (s : State) : Bool :=
  needsSnoop d a || (takesEntry a && needsRoom line s)

/-- While the ring is broken: the accesses at the head that all need a snoop, or that all need none, with whether they do (R128). -/
def brokenPrefix (line : Nat) (d : Option DirEnt) (l : List Access) (s : State) : List Access × Bool :=
  match l with
  | [] => ([], false)
  | a :: _ =>
    let n := needsRing line d a s
    (l.takeWhile fun x => needsRing line d x s == n, n)

/-- A line listed under a mapping that has changed. -/
def staleLine (d : DirEnt) (s : State) : Bool := (entryOf d.entry s).generation != d.generation

/-- The next line that waits for its recall is recalled, while fewer than 256 lines are in rounds (R119, R129). -/
def nextRecall (s : State) : State :=
  if 256 ≤ s.home.rounds.length then s
  else
    match s.home.dir.find? fun d => !d.busy && staleLine d s with
    | none => s
    | some d =>
      if d.presence = [] then dropDir d.line s
      else startRound d.line 3 0x3F d.entry d.presence none
        (if (tget s.home.drains d.entry).isSome then some d.entry else none) s

/-- A line still listed under a mapping that has changed: its recall counts in a drain under way (R129). -/
def recallStale (line : Nat) (s : State) : State :=
  match dirOf line s with
  | none => s
  | some d =>
    if d.busy || !staleLine d s then s
    else if d.presence = [] then dropDir line s
    else
      match tget s.home.drains d.entry with
      | some (n, id) => nextRecall { s with home := { s.home with drains := tput s.home.drains d.entry (n + 1, id) } }
      | none => nextRecall s

/-- The directory after a batch on a C line (R116, R118, R124): its new sharers listed, then its owner, or a STOW's target, which is
filled. -/
def settleLine (line entry : Nat) (b : Batch) (final : Bytes) (s : State) : State :=
  match dirOf line s with
  | none => s
  | some d =>
    let good (a : Access) : Bool := b.outcomes.any fun o => o.1 == a.id && o.2.1 == 0
    let add := b.accesses.filter fun a => a.req.opcode == opCShared && good a
    let d := { d with busy := false, state := if add = [] then d.state else 1,
                      presence := add.foldl (fun l a => insertSorted (srcDevice a.req) l) d.presence }
    match b.accesses.find? fun a => (lineClass a == 2 || lineClass a == 4) && good a with
    | none => if d.presence = [] then dropDir line s else setDir d s
    | some a =>
      if lineClass a = 2 then setDir { d with state := 2, presence := [srcDevice a.req] } s
      else
        let t := a.req.aux % 64
        let r : FabReq := { ownAccess opCFill entry (line - a.ent.baseFpa) a.ent final with
          home := t, source := devSource (self s) }
        sendFabric r (setDir { d with state := 1, presence := [t], busy := true } s)

/-! Starting and ending a batch. -/

/-- The group and rows a step under way holds (R335). -/
def heldRows (key : Nat) (b : Batch) (s : State) : Option (Nat × Nat × Nat) :=
  if b.kind ≤ 1 then
    let x := stepEntry key b s
    let l := layOf x.2.1 s
    let lo := if b.kind = 1 then x.2.2 else x.2.2 / 4096 * 4096
    match l.group with
    | none => none
    | some g =>
      if b.kind = 1 || b.whole || wholePage key b s then some (g, rowOf l lo, rowOf l (lo + 4032)) else some (g, rowOf l x.2.2, rowOf l x.2.2)
  else if b.kind = 3 then (layOf (entryOf b.place.1 s) s).group.map fun g => (g, b.place.2, b.place.2)
  else some (b.place.1, b.place.2, b.place.2)

/-- Do two steps share a row (R335)? -/
def rowsClash (a b : Option (Nat × Nat × Nat)) : Bool :=
  match a, b with
  | some x, some y => x.1 == y.1 && decide (x.2.1 ≤ y.2.2 ∧ y.2.1 ≤ x.2.2)
  | _, _ => false

/-- The entry and page that a step holds whole (R386, R395). -/
def heldPage (key : Nat) (b : Batch) (s : State) : Option (Nat × Nat) :=
  let x := stepEntry key b s
  if b.kind = 1 || (b.kind == 0 && (b.whole || wholePage key b s)) then some (x.1, x.2.2 / 4096) else none

/-- May a step begin beside those under way: no step of the same row, and no step of the same page where either takes the
whole page (R335, R395)? -/
def stepFree (key : Nat) (b : Batch) (s : State) : Bool :=
  let mine := heldRows key b s
  let myPage := heldPage key b s
  let x := stepEntry key b s
  s.home.queues.all fun p =>
    match p.2.batch with
    | none => true
    | some c =>
      let y := stepEntry p.1 c s
      let samePage := b.kind ≤ 1 && c.kind ≤ 1 && y.1 == x.1 && y.2.2 / 4096 == x.2.2 / 4096
      !rowsClash mine (heldRows p.1 c s) &&
      !(samePage && (myPage.isSome || (heldPage p.1 c s).isSome))

/-- A new step of no stage yet. -/
def newStep (kind : Nat) (place : Nat × Nat) (l : List Access) : Batch :=
  { kind := kind, place := place, accesses := l, stage := 1, awaiting := [], got := [], outcomes := [], dirty := none,
    lost := false, whole := false, final := [] }

/-- A batch begun on a granule whose queue is not empty and which no step holds: snooped first on a C line, or refused there
while the ring is broken (R109, R118, R128). -/
def startBatch (entry off : Nat) (s : State) : State :=
  let key := granKey entry (off / 64)
  let q := queueOf key s
  match q.batch, q.queue with
  | none, a :: _ =>
    let line := a.ent.baseFpa + off / 64 * 64
    let s := if a.ent.cls = 1 then lookLine line s else s
    let q := queueOf key s
    match batchPrefix q.queue with
    | [] => s
    | a :: l =>
      let d := dirOf line s
      let down := a.ent.cls == 1 && s.ring.broken.isSome
      let cut := if down then brokenPrefix line d (a :: l) s else (a :: l, false)
      let acc := cut.1
      let b := newStep 0 (entry, off / 64) acc
      if s.home.pageWait.contains entry ∨ stepFree key b s = false then s
      else
        let begin_ (b : Batch) (s : State) : State := setQueue key { queue := q.queue.drop acc.length, batch := some b } s
        if a.ent.cls ≠ 1 then (if d.isSome then s else pumpReads key (begin_ b s))
        else if (match d with | some x => x.busy || x.generation != a.ent.generation | none => false) then s
        else if cut.2 then begin_ { b with stage := 2, outcomes := acc.map fun x => (x.id, 2, 0x0804, []) } s
        else
          let room := if acc.any takesEntry then dirRoom line s else (true, s)
          let s := room.2
          if !room.1 then s
          else
            match roundFor acc d with
            | some (k, who, t) =>
              if 256 ≤ s.home.rounds.length then s
              else startRound line k who entry t (some key) none (begin_ { b with stage := 0 } s)
            | none =>
              let s := match d with
                | some x => setDir { x with busy := true } s
                | none => if acc.any takesEntry then
                    setDir { line := line, entry := entry, generation := a.ent.generation, ent := a.ent, state := 1, presence := [],
                             busy := true, donePending := 0 } s else s
              pumpReads key (begin_ b s)
  | _, _ => s

/-- A row step's end: the cursor moves on (R334, R340, R344). -/
def endRow (b : Batch) (s : State) : State :=
  if b.kind = 2 then
    { s with home := { s.home with rebuilds := s.home.rebuilds.map fun r =>
        if r.groupId == b.place.1 then
          { r with spent := r.spent + 64,
                   ranges := r.ranges.map fun x => if x.1 ≤ b.place.2 ∧ b.place.2 < x.2.1 ∧ x.2.2 = b.place.2 then
                     (x.1, x.2.1, x.2.2 + 1) else x }
        else r } }
  else if b.kind = 3 then
    match tget s.home.resyncs b.place.1 with
    | none => s
    | some (c, d) => { s with home := { s.home with
        resyncs := tput s.home.resyncs b.place.1 (if c = b.place.2 then c + 1 else c, d) } }
  else s

/-- A row or page step whose writes have all been answered ends. -/
def endOwnStep (key : Nat) (s : State) : State :=
  match (queueOf key s).batch with
  | none => s
  | some b =>
    if b.kind = 0 ∨ b.stage ≠ 2 ∨ awaited key s ≠ [] then s
    else endRow b (setQueue key { queueOf key s with batch := none } s)

/-- A batch whose writes have all completed: a module that failed meanwhile refuses the writes it leaves without storage;
every access answered, seals judged, drains counted, the line's directory entry settled, waiting requests admitted (R62,
R73, R109, R337). -/
def endBatch (entry off : Nat) (s : State) : State :=
  let key := granKey entry (off / 64)
  match (queueOf key s).batch with
  | none => s
  | some b =>
    if b.kind ≠ 0 ∨ b.stage ≠ 2 ∨ awaited key s ≠ [] then s
    else
      let x := stepEntry key b s
      let l := layOf x.2.1 s
      let row := rowOf l x.2.2
      let gone := beyond l row s && missing l row (dataMember l row (posOf l x.2.2)) s
      let late (a : Access) (o : Nat × Nat × Nat × Bytes) : Nat × Nat × Nat × Bytes :=
        if gone && !readsOnly a && o.2.1 == 0 then (o.1, 2, 0x0620, []) else o
      let line := x.2.1.baseFpa + x.2.2
      let now := dirOf line s
      let listed (a : Access) : Bool := match now with | some d => d.presence.contains (srcDevice a.req) | none => false
      let s := setQueue key { queueOf key s with batch := none } s
      let s := if x.2.1.cls = 1 then recallStale line (settleLine line entry b b.final s) else s
      let s := b.accesses.foldl (fun s a =>
        match b.outcomes.find? fun o => o.1 == a.id with
        | none => endStep a 2 0x0620 [] (listed a) s
        | some o => let o := late a o; endStep a o.2.1 o.2.2.1 o.2.2.2 (listed a) s) s
      wakeHome s

/-! Modules and trays. -/

/-- Every request under way to a module, answered REFUSE 0x0620 by the attaching device: no longer awaited (R336). -/
def failRequests (d t m : Nat) (s : State) : State :=
  let mine := s.home.trays.filter fun r => r.device == d && r.tray == t && r.module == m
  let s := { s with home := { s.home with
      trays := s.home.trays.filter fun r => !(r.device == d && r.tray == t && r.module == m) } }
  (mine.map fun r => r.key).dedup.foldl (fun s k => endOwnStep k (pumpReads k s)) s

/-- A module treated as failed from now on (R336). -/
def treatFailed (d t m : Nat) (s : State) : State :=
  if moduleFailed d t m s then s
  else failRequests d t m { s with home := { s.home with failed := s.home.failed ++ [(d, t, m)] } }

/-- This device keeps a group: it is the device of the lowest-numbered member whose device is not lost (R332). -/
def isKeeper (g : Group) (s : State) : Bool :=
  match g.members.find? fun m => !(s.ing.lostHomes.contains m.device) with
  | some m => m.device == self s
  | none => false

/-- Rows below a logical offset of a group (R333). -/
def rowsBelow (g : Group) (limit : Nat) : Nat := cdiv limit (64 * modeData g.mode)

/-- The VALID and REVOKED extents of a group: first row, row past the last, and home, in ascending order. -/
def extentRows (g : Group) (s : State) : List (Nat × Nat × Nat) :=
  let mine := s.man.entries.filter fun p => (p.2.state == 1 || p.2.state == 2) && p.2.redundancy != 0 &&
    modAddr p.2.baseFpa == g.anchor
  let rows := mine.map fun p =>
    let off := p.2.baseFpa % 2 ^ 38
    (rowsBelow g off, rowsBelow g (off + extentBytes p.2.sizeCode), p.2.homeDevice)
  (sorted (rows.map fun x => x.1)).filterMap fun lo => rows.find? fun x => x.1 == lo

/-- The gaps between rising row ranges below a limit. -/
def rowGaps (lo limit : Nat) (l : List (Nat × Nat × Nat)) : List (Nat × Nat) :=
  match l with
  | [] => if lo < limit then [(lo, limit)] else []
  | x :: r => (if lo < min x.1 limit then [(lo, min x.1 limit)] else []) ++ rowGaps (max lo x.2.1) limit r

/-- The rows of a group that this device rebuilds: its own extents', and as the keeper the rows of no extent (R340). -/
def rebuildRanges (g : Group) (s : State) : List (Nat × Nat × Nat) :=
  let ext := extentRows g s
  let own := (ext.filter fun x => x.2.2 == self s).map fun x => (x.1, x.2.1)
  let keep := if isKeeper g s then rowGaps 0 (rowsBelow g g.formatLimit) ext else []
  let all := own ++ keep
  (sorted (all.map fun x => x.1)).filterMap fun lo => (all.find? fun x => x.1 == lo).map fun x => (x.1, x.2, x.1)

/-- GROUP_LOST raised once for a group with a row beyond tolerance among the rows of this device's extents or keeper ranges, until every member has been OK
again (R337). -/
def judgeGroups (s : State) : State :=
  s.man.groups.foldl (fun s p =>
    let g := p.2
    let bad := g.members.countP fun m => m.state == 1 || moduleFailed m.device m.tray m.module s
    let part := g.members.any fun m => m.state == 2 && !moduleFailed m.device m.tray m.module s
    let open_ := part && (match s.home.rebuilds.find? fun r => r.groupId == g.groupId with
      | some r => r.ranges.any fun x => decide (x.2.2 < x.2.1)
      | none => true)
    let lost := decide (modeParity g.mode < bad + (if open_ then 1 else 0))
    if lost && !s.home.lostGroups.contains g.groupId && rebuildRanges g s != [] then
      raise 0x0622 [(evAddress, g.anchor * 2 ^ 38)]
        { s with home := { s.home with lostGroups := s.home.lostGroups ++ [g.groupId] } }
    else if bad = 0 && !part then
      { s with home := { s.home with lostGroups := s.home.lostGroups.filter fun x => x != g.groupId } }
    else s) s

/-- The attaching device declares a module failed: the event, the notice, and its own state (R336). `all` for a whole tray. -/
def declareModule (t m : Nat) (all : Bool) (s : State) : State :=
  let d := self s
  let ms := if all then List.range 16 else [m]
  let s := ms.foldl (fun s k => treatFailed d t k s) s
  let m' := if all then 0 else m
  let n := if all then 16 else 1
  let s := raise 0x0620 [(evContext, t), (evAddress, modNum d t m' * 2 ^ 38), (evCount, n)] s
  let s := { s with home := { s.home with failNotices := s.home.failNotices ++ [(d, t, m', n)] } }
  judgeGroups (broadcast ctlModuleFailed [d, t, m', n] s)

/-- One millisecond in reference cycles (R11). -/
def msCycles : Nat := 156250

/-- A granule answered POISON by a tray of this device; the 64th within 1 ms fails its module (R336). -/
def notePoison (r : TrayReq) (s : State) : State :=
  if r.device ≠ self s then s
  else
    let k := modNum r.device r.tray r.module
    let l := (s.home.poisons.filter fun x => decide (s.refCycles < x.2.2 + msCycles) && !(x.1 == k && x.2.1 == r.offset)) ++
      [(k, r.offset, s.refCycles)]
    let s := { s with home := { s.home with poisons := l } }
    if 64 ≤ l.countP (fun x => x.1 == k) ∧ moduleFailed r.device r.tray r.module s = false then
      declareModule r.tray r.module false s
    else s

/-- A tray's answer to a request under way (R275, R336, R338): DATA, ACK, POISON for a granule it cannot read, or the
attaching device's REFUSE for a failed module. -/
def trayAnswer (id kind : Nat) (data : Bytes) (s : State) : State :=
  match s.home.trays.find? fun r => r.id == id with
  | none => s
  | some r =>
    let s := { s with home := { s.home with trays := s.home.trays.filter fun x => x.id != id } }
    let note (v : Option Bytes) (s : State) : State :=
      match (queueOf r.key s).batch with
      | none => s
      | some b => setBatch r.key { b with awaiting := b.awaiting.erase id,
                                          got := if r.write then b.got else tput b.got r.cell v } s
    let s := if kind = opData ∨ kind = opAck then note (some (fit 64 data)) s
      else if kind = opPoison then notePoison r (note none s)
      else judgeGroups (treatFailed r.device r.tray r.module
        (match (queueOf r.key s).batch with
          | none => s
          | some b => setBatch r.key { b with awaiting := b.awaiting.erase id } s))
    endOwnStep r.key (pumpReads r.key s)

/-- GRANULE_BATCH_START (R109). -/
def execGranuleBatchStart (entry offset : Nat) (s : State) : Ans := onCore s (startBatch entry offset)

/-- TRAY_RESPONSE (R109, R275, R335, R338). -/
def execTrayResponse (request kind : Nat) (data : Bytes) (s : State) : Ans := onCore s (trayAnswer request kind data)

/-- GRANULE_BATCH_DONE (R62, R109). -/
def execGranuleBatchDone (entry offset : Nat) (s : State) : Ans := onCore s (endBatch entry offset)

end Sys2Proof.Machine
end

