-- ==== Sys2Proof/Machine/Translate.lean ====
section
/-! DEFINITION. The ingress side's shared operations: translation and its checks (R39 to R46), requests sent into the fabric
(R89, R90), answers to hosts (R95, R323, R326). -/

namespace Sys2Proof.Machine
open Sys2Proof

/-- A host's access needs: read, write or atomic permission, both of the first two for REGION_PUBLISH, or none for a
release of a line (R46). -/
inductive Need where
  | read | write | atomic | both | none
  deriving DecidableEq, Repr

/-- The permission an opcode needs (R46). -/
def needOf (op : Nat) : Need :=
  if op = opRead ∨ op = opReadAcq ∨ op = opAcquire ∨ op = opCShared then .read
  else if op = opAtomic then .atomic
  else if op = opPublish then .both
  else if op = opCEvict then .none
  else .write

/-- Does an entry permit a host's access (R44, R46)? -/
def permitted (e : Entry) (host : Nat) (n : Need) : Bool :=
  let owner := e.ownerHost == host
  let rd := owner || bit e.memberPerm 0
  let wr := !e.readOnly && (owner || bit e.memberPerm 1)
  let at_ := !e.readOnly && (owner || bit e.memberPerm 2)
  match n with
  | .read => rd
  | .write => wr
  | .atomic => at_
  | .both => rd && wr
  | .none => true

/-- Where a pool virtual address of a charter leads: window enabled, index within it (R39, R42); the code of the first
check that fails, else the Manifest index and the offset in the extent. -/
def findExtent (charter va : Nat) (s : State) : Nat × Nat × Nat :=
  let w := windowOf charter (bits va 55 53) s
  let off := bits va 52 0
  let size := extentBytes w.sizeCode
  if !w.enable then (0x0501, 0, 0)
  else if w.entryCount ≤ off / size then (0x0502, 0, 0)
  else (0, w.firstEntry + off / size, off % size)

/-- R46's checks in their order: code 0 when they all pass; the entry's index when it is known, and the offset. -/
def translate (charter va host : Nat) (n : Need) (s : State) : Nat × Option Nat × Nat :=
  let f := findExtent charter va s
  if f.1 ≠ 0 then (f.1, none, 0)
  else
    let e := entryOf f.2.1 s
    if e.state = 2 then (0x0506, some f.2.1, f.2.2)
    else if e.state ≠ 1 then (0x0503, none, f.2.2)
    else if !isMember charter host s then (0x0504, some f.2.1, f.2.2)
    else if !permitted e host n then (0x0505, some f.2.1, f.2.2)
    else (0, some f.2.1, f.2.2)

/-- The port context's host, for a context on which hosts may send: shore and up, or the host link (R275, R442). -/
def hostAt (ctx : Nat) (s : State) : Option PortCtx :=
  match tget s.ports.ctxs ctx with
  | none => none
  | some c =>
    if c.role = 1 ∧ c.train = .up then some (if ctx = 256 then { c with host := 0xFC0 + self s } else c) else none

/-- Is a host bound to this device? -/
def ownHost (host : Nat) (s : State) : Bool := ctxsOf host s != []

/-- Some context of the host is not down (R291, R345). -/
def hostAlive (host : Nat) (s : State) : Bool := (ctxsOf host s).any fun p => p.2.train == .up || p.2.train == .retrain

/-- A host's policing state, at its reset values where it was never set (R323): the rate of its widest context. -/
def hostOf (host : Nat) (s : State) : HostSt :=
  match tget s.ing.hosts host with
  | some h => h
  | none =>
    let wide := ((ctxsOf host s).map fun p => p.2.lanes).foldl max 0
    { maxOutstanding := 1024, rate := 50000 * wide, burst := 1048576, limit := 1024, balance := 1048576, llMax := 0,
      heldThisTide := [], records := [] }

/-- A host's policing state put in place. -/
def setHost (host : Nat) (h : HostSt) (s : State) : State :=
  { s with ing := { s.ing with hosts := tput s.ing.hosts host h } }

/-- Requests of a host outstanding (R323). -/
def outstandingOf (host : Nat) (s : State) : Nat := s.ing.outst.countP fun o => o.host == host

/-- A class's kind: true DATA, false USER (R324). -/
def isData (cls : Nat) (s : State) : Bool := tgetD s.pilot.kinds cls (decide (8 ≤ cls))

/-- A USER record of a host updated (R326). -/
def hostRecord (host cls : Nat) (f : Nat × Nat × Nat × Nat → Nat × Nat × Nat × Nat) (s : State) : State :=
  if isData cls s then s
  else
    let h := hostOf host s
    let l := h.records
    let l' := if l.any fun r => r.1 == cls then l.map fun r => if r.1 == cls then f r else r
      else l ++ [f (cls, 0, 0, 0)]
    setHost host { h with records := l' } s

/-- A response leaves towards a host (R95, R98, R323): the highest LL of the tide is kept. -/
def toHost (host : Nat) (charter : Option Nat) (r : Resp) (s : State) : State :=
  let h := hostOf host s
  let s := setHost host { h with llMax := max h.llMax r.ll } s
  if hostAlive host s then sendHost host r charter s else s

/-- A refusal made at the ingress device (R46, R98). -/
def refuseHost (host tag code : Nat) (s : State) : State :=
  let r : Resp := { opcode := opRefuse, dstEngine := false, destination := host, tag := tag, reason := code,
                    ll := s.home.ll, responder := self s, parts := 1, aux := 0, data := [] }
  toHost host none r (recordReason code s)

/-- A host's outstanding request. -/
def outstOf (host tag : Nat) (s : State) : Option Outst := s.ing.outst.find? fun o => o.host == host && o.tag == tag

/-- A host's request answered: no longer outstanding, its latency recorded, the response sent (R93, R323, R326). DATA of a
charter under removal is converted to poison (R397). -/
def answerHost (host tag : Nat) (r : Resp) (s : State) : State :=
  match outstOf host tag s with
  | none => s
  | some o =>
    let s := { s with ing := { s.ing with outst := s.ing.outst.erase o } }
    let ns := (s.refCycles - o.since) * 64 / 10
    let s := hostRecord host o.tclass (fun x => (x.1, x.2.1, min 0xFFFFFF (max x.2.2.1 ns), x.2.2.2)) s
    let gone := charterState o.req.charter s == 2 && r.opcode == opData
    let r := if gone then { r with opcode := opPoison, reason := 0x0607, data := [] } else r
    let s := if gone then countRemoval o.req.charter 1 0 0 s else s
    toHost host (some o.req.charter) { r with destination := host, dstEngine := false, tag := tag } s

/-- The number that stands for this device as the source of a request in the outstanding table. -/
def ownSource : Nat := 4096

/-- A request of the device itself under an entry as it was: every field filled, a tag taken, outstanding (R90). -/
def askUnder (opcode length entry : Nat) (e : Entry) (off aux parts tclass : Nat) (payload : Bytes) (s : State) : Nat × State :=
  let tag := s.ing.nextTag
  let r : FabReq :=
    { opcode := opcode, length := length, charter := e.charter, srcEngine := true, source := devSource (self s),
      tag := tag, address := e.baseFpa + off, entry := entry, generation := e.generation,
      routeEpoch := s.man.routeEpoch, home := e.homeDevice, tclass := tclass, sealWindow := 0, jobValid := false,
      jobDevice := 0, jobSlot := 0, attempt := 0, parts := parts, aux := aux, payload := payload }
  let o : Outst := { host := ownSource, ctx := 0, tag := tag, tclass := tclass, opcode := opcode, req := r,
                     sent := true, waits := false, engine := none, since := s.refCycles }
  (tag, sendFabric r { s with ing := { s.ing with nextTag := (tag + 1) % 65536, outst := s.ing.outst ++ [o] } })

/-- A request of the device itself under an entry in force. -/
def askHome (opcode length entry off : Nat) (aux parts tclass : Nat) (payload : Bytes) (s : State) : Nat × State :=
  askUnder opcode length entry (entryOf entry s) off aux parts tclass payload s

/-- A host's packet after translation (R90). -/
def packetOf (op host : Nat) (r : HostReq) (entry off : Nat) (s : State) : FabReq :=
  let e := entryOf entry s
  { opcode := op, length := r.length, charter := r.charter, srcEngine := false, source := host, tag := r.tag,
    address := e.baseFpa + off, entry := entry, generation := e.generation, routeEpoch := s.man.routeEpoch,
    home := e.homeDevice, tclass := r.tclass, sealWindow := r.sealWindow, jobValid := false, jobDevice := 0,
    jobSlot := 0, attempt := 0, parts := 1, aux := r.aux, payload := r.payload }

/-- The granules of fabric addresses that a request touches (R63). -/
def granulesOf (r : FabReq) : List Nat :=
  let n := touched r
  (upto (r.address / 64) ((r.address + n - 1) / 64 + 1 - r.address / 64)).map fun g => 64 * g

/-- Does a granule of an entry lie in a range of a charter's addresses (R78)? -/
def inRange (charter start granules entry off : Nat) (s : State) : Bool :=
  let w := windowOf charter (bits start 55 53) s
  let size := extentBytes w.sizeCode
  let at_ := (entry - w.firstEntry) * size + off
  decide (w.firstEntry ≤ entry ∧ entry < w.firstEntry + w.entryCount) && (entryOf entry s).charter == charter &&
  decide (at_ < bits start 52 0 + 64 * granules ∧ bits start 52 0 < at_ + 64)

/-- The acquired range is not one of 1 to 16,777,216 granules within its window (R78). -/
def rangeBad (charter start granules : Nat) (s : State) : Bool :=
  let w := windowOf charter (bits start 55 53) s
  decide (granules = 0 ∨ 2 ^ 24 < granules ∨
    w.entryCount * extentBytes w.sizeCode < bits start 52 0 + 64 * granules)

end Sys2Proof.Machine
end

