-- ==== Sys2Proof/Machine/Agent.lean ====
section
/-! DEFINITION. The device as a coherent agent: its filter, its hosts' lines, recalls, releases and answers to snoops (R111 to
R120, R125, R126). -/

namespace Sys2Proof.Machine
open Sys2Proof

/-- C lines the filter may hold (R112). -/
def filterLimit : Nat := 524288

/-- The filter's entry of a line. -/
def filterOf (line : Nat) (s : State) : Option FilterEnt := s.ing.filter.find? fun f => f.line == line

/-- A filter entry changed in its place, or taken as the newest. -/
def setFilter (f : FilterEnt) (s : State) : State :=
  let l := if s.ing.filter.any fun x => x.line == f.line then
      s.ing.filter.map fun x => if x.line == f.line then f else x
    else s.ing.filter ++ [f]
  { s with ing := { s.ing with filter := l } }

/-- A line no longer in the filter. -/
def dropFilter (line : Nat) (s : State) : State :=
  { s with ing := { s.ing with filter := s.ing.filter.filter fun x => x.line != line } }

/-- A line's copy in the combining cache dropped. -/
def dropCache (line : Nat) (s : State) : State := { s with ing := { s.ing with cache := tdel s.ing.cache line } }

/-- An entry of no state yet. -/
def newFilter (line entry gen charter home : Nat) : FilterEnt :=
  { line := line, entry := entry, generation := gen, charter := charter, home := home, vas := [], state := 0, holders := [],
    vector := 0, cached := false, asking := none, releasing := none, recalls := [], dirty := none, owed := none, lost := false }

/-- The entry is changing state (R120). -/
def filterBusy (f : FilterEnt) : Bool := f.asking.isSome || f.releasing.isSome || f.recalls != []

/-- Holder bits of a host: bit i covers contexts 16i to 16i+15, the host link bit 15 (R111, R443). -/
def holderBits (host : Nat) (s : State) : List Nat :=
  ((ctxsOf host s).map fun p => if p.1 = 256 then 15 else p.1 / 16).dedup

/-- A vector with bits set. -/
def setBits (v : Nat) (l : List Nat) : Nat := l.foldl (fun v i => v ||| 2 ^ i) v

/-- The host of a request added to a line's holders, with the address it asked by. -/
def addHolder (p : Part) (f : FilterEnt) (s : State) : FilterEnt :=
  { f with holders := insertSorted p.host f.holders, vector := setBits f.vector (holderBits p.host s),
           vas := tput f.vas p.host (p.req.address / 64 * 64) }

/-- A host removed from a line's holders; a bit stays set while another holder lies under it (R117). -/
def removeHolder (host : Nat) (f : FilterEnt) (s : State) : FilterEnt :=
  let rest := f.holders.filter fun h => h != host
  let kept := rest.flatMap fun h => holderBits h s
  let gone := (holderBits host s).filter fun i => !kept.contains i
  { f with holders := rest,
           vector := setBits 0 ((List.range 16).filter fun i => bit f.vector i && !gone.contains i) }

/-- Coherent hosts of this device that a recall of a line reaches: its holders, and those under the set bits of its vector (R113,
R117). -/
def recallHosts (f : FilterEnt) (s : State) : List Nat :=
  let under := ((s.ports.ctxs.filter fun p => p.2.role == 1 && p.2.enable && p.2.coherent).filter fun p =>
      bit f.vector (if p.1 = 256 then 15 else p.1 / 16)).map fun p => if p.1 = 256 then 0xFC0 + self s else p.2.host
  (sorted (f.holders ++ under)).filter fun h => !s.ing.deadHosts.contains h

/-- Is the host a coherent agent (R111)? -/
def coherentHost (host : Nat) (s : State) : Bool := (ctxsOf host s).any fun p => p.2.coherent

/-- An answer to a host's request, from this device. -/
def hostReply (p : Part) (opcode reason : Nat) (data : Bytes) (s : State) : State :=
  answerHost p.host p.req.tag
    { opcode := opcode, dstEngine := false, destination := p.host, tag := p.req.tag, reason := reason, ll := s.home.ll,
      responder := self s, parts := 1, aux := 0, data := data } s

/-- The pool virtual address of a line towards a host: the one the host asked by, else another host's, else by its entry in force
(R116). -/
def recallVa (host : Nat) (f : FilterEnt) (s : State) : Nat :=
  match tget f.vas host, f.vas with
  | some a, _ => a
  | none, x :: _ => x.2
  | none, [] => vaOf f.entry (f.line - (entryOf f.entry s).baseFpa) s

/-- C_RECALL sent to hosts of a line (R116), for a reason: 0 a local request, 1 a snoop, 2 an eviction. -/
def sendRecalls (hosts : List Nat) (downgrade : Bool) (why : Nat) (f : FilterEnt) (s : State) : State :=
  let s := setFilter { f with recalls := f.recalls ++ hosts.map fun h => (h, downgrade, why) } s
  hosts.foldl (fun s h => sendRecall h f.charter (recallVa h f s) f.line downgrade s) s

/-- A message about a line to the home under which it was taken. -/
def askFor (op aux tclass : Nat) (data : Bytes) (f : FilterEnt) (s : State) : State :=
  let e := { entryOf f.entry s with baseFpa := f.line, generation := f.generation, charter := f.charter, homeDevice := f.home }
  (askUnder op 64 f.entry e 0 aux 1 tclass data s).2

/-- A line whose owner's data is lost written back so, the device's state I (R126). -/
def sendLost (f : FilterEnt) (s : State) : State :=
  askFor opCWriteback 1 0 [] f (setFilter { f with state := 0, releasing := some (opCWriteback, none) } s)

/-- C_SNOOP_DONE to the home (R120, R126). -/
def sendDone (f : FilterEnt) (data : Option Bytes) (lost : Bool) (s : State) : State :=
  askFor opCDone (b2n lost) 0 (data.getD []) f s

/-- A release sent to the home for a line, the device's state I (R112, R117). -/
def sendRelease (op : Nat) (data : Bytes) (part : Option Part) (f : FilterEnt) (s : State) : State :=
  let s := dropCache f.line s
  let s := setFilter { f with state := 0, holders := [], vector := 0, cached := false, dirty := none, owed := none,
                              releasing := some (op, part) } s
  askFor op 0 0 data f s

/-- A line evicted: its hosts' copies recalled first, then C_WRITEBACK or C_EVICT_CLEAN (R112). -/
def evictLine (f : FilterEnt) (s : State) : State :=
  match recallHosts f s with
  | [] =>
    match f.dirty with
    | some d => sendRelease opCWriteback d none f s
    | none => sendRelease opCEvict [] none f s
  | hs => sendRecalls hs false 2 f s

/-- The oldest line that is not changing state is evicted, when none is being evicted (R112). -/
def makeRoom (s : State) : State :=
  if s.ing.filter.any fun f => f.releasing.isSome || f.recalls.any fun r => r.2.2 == 2 then s
  else
    match s.ing.filter.find? fun f => !filterBusy f with
    | some f => evictLine f s
    | none => s

/-- A coherent request of a host waits for its line, or for an eviction (R112, R116). -/
def waitLine (p : Part) (s : State) : State := { s with ing := { s.ing with waiting := s.ing.waiting ++ [p] } }

/-- A request of the device sent home for a line, its entry asking (R116, R118). -/
def askLine (op : Nat) (part : Option Part) (f : FilterEnt) (s : State) : State :=
  let tclass := match part with | some p => p.req.tclass | none => 0
  askFor op 0 tclass [] f (setFilter { f with asking := some (op, part) } s)

/-- A combining-cache line of an S line dropped: a clean eviction when no host holds it (R81, R118). -/
def dropSharedLine (line : Nat) (s : State) : State :=
  let s := dropCache line s
  match filterOf line s with
  | none => s
  | some f =>
    if !f.cached || f.dirty.isSome then s
    else if filterBusy f then setFilter { f with cached := false } s
    else
      let f := { f with cached := false }
      if f.holders = [] then sendRelease opCEvict [] none f s else setFilter f s

/-! The combining cache. -/

/-- A valid cache line of a granule for a request (R81): of its entry, generation and charter; class O within 2 tides,
which count boundaries (00_scope.md). -/
def cacheLine (entry granule : Nat) (s : State) : Option CacheLine :=
  match tget s.ing.cache granule with
  | none => none
  | some c =>
    let e := entryOf entry s
    if c.entry ≠ entry ∨ c.generation ≠ e.generation ∨ c.charter ≠ e.charter ∨ e.state ≠ 1 then none
    else if c.cls = 2 ∧ c.filled + 2 ≤ s.tide.count then none
    else if c.cls = 1 ∧ !((filterOf granule s).elim false fun f => f.cached) then none
    else some c

/-- Lines the cache may hold (01 R7): 64 MiB. -/
def cacheLimit : Nat := 1048576

/-- Room for one more line: the line filled longest ago leaves a full cache, an expired one among them first. R7 gives the size and no
rule says which line leaves (DESIGN CHOICE, log 22). -/
def cacheRoom (s : State) : State :=
  if s.ing.cache.length < cacheLimit then s
  else
    let old := s.ing.cache.foldl (fun (m : Option (Nat × Nat)) p => match m with
      | none => some (p.1, p.2.filled)
      | some x => if p.2.filled < x.2 then some (p.1, p.2.filled) else m) none
    match old with
    | some x => dropSharedLine x.1 s
    | none => s

/-- A line filled (R81, R103). -/
def fillLine (entry granule : Nat) (data : Bytes) (s : State) : State :=
  let s := if (tget s.ing.cache granule).isNone then cacheRoom s else s
  let e := entryOf entry s
  let c : CacheLine := { entry := entry, charter := e.charter, generation := e.generation, filled := s.tide.count,
                         cls := e.cls, data := fit 64 data }
  { s with ing := { s.ing with cache := tput s.ing.cache granule c } }

/-- A granule's line dropped, its read window's fill forbidden; a C line is a clean eviction (R81, R118). -/
def dropGranule (granule : Nat) (s : State) : State :=
  let s := if (tget s.ing.cache granule).isSome then dropSharedLine granule s else s
  { s with ing := { s.ing with reads := s.ing.reads.map fun w => if w.granule == granule then { w with fill := false } else w } }

/-- A host barred from a granule's read window (R78, R82). -/
def barWindow (host granule : Nat) (s : State) : State :=
  { s with ing := { s.ing with reads := s.ing.reads.map fun w =>
      if w.granule == granule then { w with barred := insertSorted host w.barred } else w } }

/-! Read windows. -/

/-- Windows open and part records held (R105). -/
def windowCount (s : State) : Nat := s.ing.reads.length + (s.ing.atoms.map fun w => 1 + w.collecting.length).sum
def partCount (s : State) : Nat :=
  (s.ing.reads.map fun w => w.parts.length).sum +
  (s.ing.atoms.map fun w => ((w.sent :: w.collecting).map List.length).sum).sum

/-- Room for one more part, and for one more window (R105). -/
def partRoom (s : State) : Bool := decide (partCount s < 65536)
def windowRoom (s : State) : Bool := decide (windowCount s < 4096) && partRoom s

/-- A host's request marked as sent under the current map (R56). -/
def markSent (host tag : Nat) (s : State) : State :=
  { s with ing := { s.ing with outst := s.ing.outst.map fun o =>
      if o.host == host && o.tag == tag then { o with sent := true, req := { o.req with routeEpoch := s.man.routeEpoch } }
      else o } }

/-- A host's request sent on its own, under its own tag (R90, R102). -/
def sendAlone (host tag : Nat) (s : State) : State :=
  let s := markSent host tag s
  match outstOf host tag s with
  | some o => sendFabric o.req s
  | none => s

/-- One more request sent uncombined for want of room (R105). -/
def countUncombined (s : State) : State := { s with ing := { s.ing with uncombined := s.ing.uncombined + 1 } }

/-- The bytes of a granule that a part asked for. -/
def partBytes (p : FabReq) (line : Bytes) : Bytes := slice line (p.address % 64) p.length

/-- A read window opened for a READ (R103): the unit sends the read for the whole granule. It travels in the class of the READ that opens
it: the spec names none for a combined request (DESIGN CHOICE, log 22). -/
def openRead (p : Part) (k : FabReq) (f : Option FilterEnt) (s : State) : State :=
  let g := k.address / 64 * 64
  let e := entryOf k.entry s
  if !windowRoom s then countUncombined (sendAlone p.host p.req.tag s)
  else
    let q := match f with
      | some f => askHome opCShared 64 k.entry (g - e.baseFpa) 0 1 p.req.tclass []
          (setFilter { f with asking := some (opCShared, none) } s)
      | none => askHome opRead 64 k.entry (g - e.baseFpa) 0 1 p.req.tclass [] s
    let w : ReadWin := { granule := g, entry := k.entry, charter := k.charter, generation := k.generation, tag := q.1, parts := [p],
                         barred := [], fill := true }
    markSent p.host p.req.tag { q.2 with ing := { q.2.ing with reads := q.2.ing.reads ++ [w] } }

/-- A READ of one granule (R102, R103, R105, R118): served by a line, joined to a window, sent for the whole granule, or sent alone. A C
line in change is waited for; one that a local host owns is recalled for a shared copy first (R113, R116). A combined read travels in the
class of the READ that opened its window: the spec names none (R66; DESIGN CHOICE, log 22). -/
def readGranule (p : Part) (k : FabReq) (s : State) : State :=
  let g := k.address / 64 * 64
  let e := entryOf k.entry s
  let served (d : Bytes) (s : State) : State := hostReply p opData 0 (partBytes k d) s
  match cacheLine k.entry g s with
  | some c => served c.data s
  | none =>
    match s.ing.reads.find? fun w => w.granule == g with
    | some w =>
      if w.charter = k.charter ∧ w.entry = k.entry ∧ w.generation = k.generation ∧ w.barred.contains p.host = false ∧
          w.parts.length < 4096 then
        (if partRoom s then
          markSent p.host p.req.tag { s with ing := { s.ing with reads := s.ing.reads.map fun x =>
            if x.granule == g then { x with parts := x.parts ++ [p] } else x } }
        else countUncombined (sendAlone p.host p.req.tag s))
      else sendAlone p.host p.req.tag s
    | none =>
      if e.cls ≠ 1 then openRead p k none s
      else
        match filterOf g s with
        | none =>
          if filterLimit ≤ s.ing.filter.length then sendAlone p.host p.req.tag s
          else openRead p k (some (newFilter g k.entry k.generation k.charter k.home)) s
        | some f =>
          if filterBusy f then waitLine p s
          else if f.state = 2 then
            match f.dirty with
            | some d => served d s
            | none => sendRecalls f.holders true 0 f (waitLine p s)
          else openRead p k (some f) s

/-! Coherent requests. -/

/-- A coherent host's request for a line of an entry (R116): served from the filter's state, after recalls of other hosts, or
from the home. -/
def askCoherent (p : Part) (entry off : Nat) (s : State) : State :=
  let e := entryOf entry s
  let line := e.baseFpa + off / 64 * 64
  match filterOf line s with
  | none =>
    if filterLimit ≤ s.ing.filter.length then makeRoom (waitLine p s)
    else askLine p.opcode (some p) (newFilter line entry e.generation e.charter e.homeDevice) s
  | some f =>
    if filterBusy f then waitLine p s
    else
      let others := (recallHosts f s).filter fun h => h != p.host
      if p.opcode = opCShared then
        if f.state = 2 then
          match f.dirty with
          | some d => hostReply p opData 0 d (setFilter (addHolder p f s) s)
          | none => sendRecalls f.holders true 0 f (waitLine p s)
        else
          match tget s.ing.cache line with
          | some c => if f.cached then hostReply p opData 0 c.data (setFilter (addHolder p f s) s)
              else askLine opCShared (some p) f s
          | none => askLine opCShared (some p) f s
      else if others ≠ [] then sendRecalls others false 0 f (waitLine p s)
      else if f.state = 2 ∧ f.dirty.isSome = true then
        let own := p.opcode == opCUpgrade && f.holders.contains p.host
        hostReply p (if own then opAck else opData) 0 (if own then [] else f.dirty.getD [])
          (setFilter { addHolder p f s with dirty := none, owed := f.dirty, cached := false } (dropCache line s))
      else if f.state = 2 ∧ p.opcode = opCUpgrade ∧ f.holders.contains p.host = true then hostReply p opAck 0 [] s
      else askLine p.opcode (some p) f s

/-- The place of a coherent request's line: its entry and offset as translated when it was admitted. -/
def placeOfPart (p : Part) (s : State) : Nat × Nat :=
  match outstOf p.host p.req.tag s with
  | some o => (o.req.entry, o.req.address - (entryOf o.req.entry s).baseFpa)
  | none => (0, 0)

/-- Some stored composition change removes this device (R127). -/
def leaving (s : State) : Bool :=
  s.man.notices.any fun n => match n.change with
    | .composition c _ => !c.members.contains (self s)
    | _ => false

/-- A device that a composition change will remove writes back or evicts its C lines before the boundary (R127): those that are not in
change now, the others once they have settled. -/
def leaveLines (s : State) : State :=
  if leaving s then
    s.ing.filter.foldl (fun s x => match filterOf x.line s with
      | some f => if filterBusy f then s else evictLine f s
      | none => s) s
  else s

/-- Requests of hosts that waited for a C line, taken up again in order. -/
def wakeLines (s : State) : State :=
  let l := s.ing.waiting
  leaveLines (l.foldl (fun s p =>
    match outstOf p.host p.req.tag s with
    | none => s
    | some o =>
      if p.opcode = opRead then readGranule p o.req s
      else
        let x := placeOfPart p s
        askCoherent p x.1 x.2 s) { s with ing := { s.ing with waiting := [] } })

/-- All recalls of a line answered: the device goes on with what it recalled for (R112, R116, R120). `inv` when the copies
were invalidated; `data` when one was dirty; `lost` when the owner died. -/
def recallsDone (why : Nat) (inv : Bool) (data : Option Bytes) (lost : Bool) (f : FilterEnt) (s : State) : State :=
  if why = 1 then
    if inv then wakeLines (dropFilter f.line (dropCache f.line (sendDone f data lost s)))
    else
      let s := sendDone f data lost s
      let f := { f with state := 1, dirty := none }
      wakeLines (if f.holders = [] ∧ f.cached = false then sendRelease opCEvict [] none f s else setFilter f s)
  else if why = 2 then
    match data with
    | some d => sendRelease opCWriteback d none f s
    | none => if lost then
        sendLost f s
      else sendRelease opCEvict [] none f s
  else if lost then
        sendLost f s
  else
    match data with
    | some d => wakeLines (setFilter { f with dirty := some d } s)
    | none => wakeLines (setFilter (if inv then f else { f with state := 1 }) s)

/-- A host's answer to a C_RECALL of a line: dirty with data, or clean (R116, R117); `gone` when the host holds the line no more, having
released it or died, `lost` when it died (R126). An owner's clean answer leaves the data it was given. -/
def recallAnswer (gone : Bool) (host line : Nat) (data : Option Bytes) (lost : Bool) (s : State) : State :=
  match filterOf line s with
  | none => s
  | some f =>
    match f.recalls.find? fun r => r.1 == host with
    | none => s
    | some (_, down, why) =>
      let owner := f.state == 2 && f.dirty.isNone && f.holders.contains host
      let f := if down && !gone then f else removeHolder host f s
      let keep := match data with
        | some d => some d
        | none => if owner && !lost && f.owed.isSome then f.owed else f.dirty
      let bad := f.lost || (lost && owner)
      let f := { f with recalls := f.recalls.filter fun r => r.1 != host, dirty := keep, lost := bad,
                        owed := if owner then none else f.owed }
      if f.recalls ≠ [] then setFilter f s
      else
        let d := f.dirty
        let f := { f with lost := false }
        recallsDone why (!down) (if bad then none else d) bad (if why = 0 then f else { f with dirty := none })
          (setFilter f s)

/-- A host's release of a line (R117), its request outstanding. -/
def releaseLine (p : Part) (entry off : Nat) (s : State) : State :=
  let e := entryOf entry s
  let line := e.baseFpa + off / 64 * 64
  let back := p.opcode == opCWriteback
  match filterOf line s with
  | none => hostReply p opAck 0 [] s
  | some f =>
    if f.recalls.any fun r => r.1 == p.host then
      hostReply p opAck 0 [] (recallAnswer true p.host line (if back then some (fit 64 p.req.payload) else none) false s)
    else if !f.holders.contains p.host || f.releasing.isSome then hostReply p opAck 0 [] s
    else if f.state = 2 ∧ f.dirty = none then
      (match back, f.owed with
        | true, _ => sendRelease opCWriteback (fit 64 p.req.payload) (some p) f s
        | false, some d => sendRelease opCWriteback d (some p) f s
        | false, none => sendRelease opCEvict [] (some p) f s)
    else
      let f := removeHolder p.host f s
      let s := setFilter f s
      let s := hostReply p opAck 0 [] s
      if f.holders = [] ∧ f.cached = false ∧ f.dirty = none ∧ filterBusy f = false then sendRelease opCEvict [] none f s else s

/-- The home's answer to a coherent request of the device (R116, R117): delivered to the host it served, the filter's state
as granted. -/
def agentAnswer (o : Outst) (r : Resp) (s : State) : State :=
  let line := o.req.address
  match filterOf line s with
  | none => s
  | some f =>
    if o.opcode = opCWriteback ∨ o.opcode = opCEvict then
      match f.releasing with
      | none => s
      | some (_, part) =>
        let s := dropFilter line s
        let s := match part with
          | some p => answerHost p.host p.req.tag { r with opcode := if r.opcode = opRefuse ∨ r.opcode = opPoison then r.opcode else opAck } s
          | none => s
        wakeLines s
    else
      match f.asking with
      | none => s
      | some (op, part) =>
        let f := { f with asking := none }
        let good := r.opcode == opData || r.opcode == opAck
        let f := if !good then f
          else
            match part with
            | none => f
            | some p => if op = opCShared then { addHolder p f s with state := 1, dirty := none }
                else { addHolder p f s with state := 2, cached := false, dirty := none, owed := none }
        let s := if good ∧ op ≠ opCShared then dropCache line s else s
        let s := if good ∨ f.holders ≠ [] ∨ f.cached = true then setFilter f s
          else if f.state = 0 then dropFilter line s else sendRelease opCEvict [] none f s
        let s := match part with
          | some p => answerHost p.host p.req.tag r s
          | none => s
        wakeLines s

/-! Snoops. -/

/-- Answer nibbles (R27). -/
def ansMiss : Nat := 8
def ansClean : Nat := 9
def ansDirty : Nat := 10
def ansRetry : Nat := 11

/-- A snoop that asks this device: the answer from the filter, and the actions that follow (R120). -/
def snoopFilter (q : SnoopReq) (s : State) : Nat × State :=
  match filterOf q.line s with
  | none => (ansMiss, s)
  | some f =>
    match f.releasing with
    | some (op, _) => (if op = opCWriteback then ansDirty else ansClean, s)
    | none =>
      if filterBusy f then (ansRetry, s)
      else if f.state = 0 then (ansMiss, s)
      else if f.state = 1 then
        if q.kind = 1 then (ansClean, s)
        else
          let s := dropCache f.line s
          let f := { f with cached := false }
          match recallHosts f s with
          | [] => (ansClean, dropFilter f.line (sendDone f none false s))
          | hs => (ansClean, sendRecalls hs false 1 f s)
      else
        match f.dirty with
        | some d =>
          if q.kind = 1 then (ansDirty, setFilter { f with state := 1, dirty := none } (sendDone f (some d) false s))
          else
            match recallHosts f s with
            | [] => (ansDirty, dropFilter f.line (dropCache f.line (sendDone f (some d) false s)))
            | hs => (ansDirty, sendRecalls hs false 1 f (dropCache f.line s))
        | none => (ansDirty, sendRecalls (recallHosts f s) (q.kind == 1) 1 f s)

/-- How long a snoop answered is remembered: 100 µs in reference cycles, above R28's three reissues and below the reuse of a 16-bit
snoop_id (DESIGN CHOICE, log 22). -/
def snoopCycles : Nat := 15625

/-- A snoop of an owner site answered: miss when not asked; a snoop answered before is answered so again, without action (R120). -/
def answerSnoop (ownerSite : Nat) (q : SnoopReq) (s : State) : Nat × State :=
  if !q.targets.contains (self s) then (ansMiss, s)
  else
    let l := s.ing.snooped.filter fun x => decide (s.refCycles < x.2.2.2 + snoopCycles)
    match l.find? fun x => x.1 == ownerSite && x.2.1 == q with
    | some x => (x.2.2.1, s)
    | none =>
      let p := snoopFilter q s
      (p.1, { p.2 with ing := { p.2.ing with snooped := l ++ [(ownerSite, q, p.1, s.refCycles)] } })

/-! Dead hosts. -/

/-- A coherent host declared dead by its device: its S copies dropped, each line it held in O reported lost (R126). -/
def buryHost (host : Nat) (s : State) : State :=
  s.ing.filter.foldl (fun s f0 =>
    match filterOf f0.line s with
    | none => s
    | some f =>
      if f.recalls.any fun r => r.1 == host then recallAnswer true host f.line none true s
      else if !f.holders.contains host then s
      else if f.state = 2 ∧ f.dirty = none then
        sendLost { f with holders := [], vector := 0, cached := false } (dropCache f.line s)
      else
        let f := removeHolder host f s
        if f.holders = [] ∧ f.cached = false ∧ f.dirty = none ∧ filterBusy f = false then
          sendRelease opCEvict [] none f s
        else setFilter f s) s

/-- A host recorded as dead, once (R345). -/
def hostDies (host : Nat) (s : State) : State :=
  if s.ing.deadHosts.contains host then s
  else
    let s := if coherentHost host s then raise 0x0807 [(evHost, host)] s else s
    buryHost host { s with ing := { s.ing with deadHosts := insertSorted host s.ing.deadHosts } }

/-- C_STOW_FILL at the target: the line installed in S, or declined for want of room (R112, R124). -/
def execCStowFill (r : FabReq) (s : State) : Ans :=
  onCore s fun s =>
    let line := r.address
    let e := entryOf r.entry s
    let room := decide (s.ing.filter.length < filterLimit)
    match filterOf line s with
    | some _ => answerTo r opRefuse 0x0801 0 [] s
    | none =>
      if !room || e.state != 1 || e.generation != r.generation then answerTo r opRefuse 0x0801 0 [] s
      else
        let c : CacheLine := { entry := r.entry, charter := e.charter, generation := r.generation, filled := s.tide.count,
                               cls := e.cls, data := fit 64 r.payload }
        let s := cacheRoom s
        let s := { s with ing := { s.ing with cache := tput s.ing.cache line c } }
        answerTo r opAck 0 0 [] (setFilter { newFilter line r.entry r.generation e.charter e.homeDevice with state := 1, cached := true } s)

end Sys2Proof.Machine
end

