-- ==== Sys2Proof/Machine/Flags.lean ====
section
/-! DEFINITION. The registers' values as the window and the sideband read them (R464 to R480), computed from the state. -/

namespace Sys2Proof.Machine
open Sys2Proof

/-- The running image: the active bank's (R430, R431). -/
def runImage (s : State) : Bytes :=
  match tget s.hm.banks s.hm.active with
  | some b => b.image
  | none => []

/-- An image's release, svn and settings format (R429). -/
def imageRelease (b : Bytes) : Nat := fld b 12 4
def imageSvn (b : Bytes) : Nat := fld b 16 1
def imageSettings (b : Bytes) : Nat := fld b 18 2

/-- The settings slot in use: the valid one of the running image's format (R436). -/
def activeSettings (s : State) : Option (Nat × Nat × Nat) :=
  (s.hm.settings.find? fun x => x.2.2.2 && x.1 == imageSettings (runImage s)).map fun x => (x.1, x.2.1, x.2.2.1)

/-- ID_PART (R467). -/
def idPart : Nat := 0x4C060201

/-- ID_SITE (R467, R443). -/
def idSite (s : State) : Nat := (0xFC0 + s.isl.devid) * 2 ^ 20 + s.isl.addr % 8 * 2 ^ 8 + s.isl.devid % 64

/-- ID_FW (R467). -/
def idFw (s : State) : Nat :=
  let i := runImage s
  imageSettings i * 2 ^ 48 + s.hm.active % 2 * 2 ^ 40 + imageSvn i * 2 ^ 32 + imageRelease i

/-- The host link runs at 4 lanes (R442, R468). -/
def khlHalf (s : State) : Bool :=
  match tget s.ports.ctxs 256 with
  | some c => decide (c.lanes = 4)
  | none => false

/-- STATUS (R468). -/
def statusReg (s : State) : Nat :=
  b2n (khlHalf s) * 1024 + b2n s.ring.broken.isSome * 512 + b2n (isMaster s) * 256 + b2n s.tide.locked * 128 +
  b2n (deviceMember (self s) s) * 64 + b2n s.hm.frozen * 32 + b2n s.sec.confidential * 16 +
  b2n (decide (s.isl.resetState = .recovery)) * 8 + b2n s.hm.alive * 4 + b2n (fwRuns s) * 2 +
  b2n (s.hm.capped || s.hm.hot)

/-- SUBSYS_REASON n (R469). -/
def reasonReg (n : Nat) (s : State) : Nat :=
  let r := tgetD s.tel.reasons n (0, 0, 0)
  r.1 * 2 ^ 32 + r.2.1 * 2 ^ 16 + r.2.2

/-- TIDE_INFO (R470). -/
def tideInfo (s : State) : Nat :=
  packBits [(16, s.man.routeEpoch), (16, s.man.compEpoch), (6, s.tide.master), (6, s.tide.hops), (6, s.tide.site),
    (7, s.tide.sites), (4, 0), (3, s.tide.lengthCode)]

/-- TIDE_PHASE (R470). -/
def tidePhase (s : State) : Nat := (s.tide.offset % 65536).toNat * 65536 + min s.tide.missed 255

/-- SEC_STATE (R472). -/
def secState (s : State) : Nat :=
  s.hm.fwRevoked % 8 * 2 ^ 37 + (s.sec.sessions.filter fun x => x.open_).length % 8 * 2 ^ 34 +
  b2n s.sec.harbourKey.isSome * 2 ^ 33 + b2n s.isl.udsLocked * 2 ^ 32 + s.hm.floor % 128 * 2 ^ 24 +
  b2n s.sec.confidential * 2 + b2n s.sec.latch

/-- Bypass field of LB_STATUS (R478). -/
def bypassCode (b : Bypass) : Nat :=
  match b with
  | .closed => 0
  | .releasing => 1
  | .open => 2
  | .closing => 3

/-- Reset state field of LB_STATUS (R478). -/
def resetCode (r : ResetState) : Nat :=
  match r with
  | .running => 0
  | .cold => 1
  | .warm => 2
  | .recovery => 3

/-- A persistent store is running (R13, R370, R478). -/
def inFlush (s : State) : Bool := s.acc.flushMode

/-- LB_STATUS (R478). -/
def lbStatus (s : State) : Nat :=
  s.isl.holdupMv % 65536 * 2 ^ 48 + s.isl.cause % 65536 * 2 ^ 32 + s.isl.rail % 8 * 2 ^ 29 +
  b2n s.sec.latch * 2048 + b2n s.hm.frozen * 1024 + b2n s.hm.alive * 512 + b2n (inFlush s) * 256 +
  bypassCode s.isl.bypass * 64 + resetCode s.isl.resetState * 16 + b2n s.isl.corePower * 8 +
  b2n s.isl.thermtrip * 4 + b2n s.isl.alert * 2

/-- LB_RESULT of a path (R478). -/
def lbResult (r : LbResult) : Nat := r.lastOp % 256 * 2 ^ 40 + r.lastId % 256 * 2 ^ 32 + r.reason % 65536 * 2 ^ 16 + r.state % 4

/-- Is a lifeboat operation of a code exclusive (R422)? -/
def lbIsExclusive (op : Nat) : Bool := op == 3 || op == 7 || op == 8 || op == 9

/-- An exclusive lifeboat operation runs (R423). -/
def lbBusy (s : State) : Bool := s.isl.exclusive.isSome || s.isl.lbRuns.any fun r => lbIsExclusive r.op

/-- The lifeboat data buffer as it reads: zeros while an exclusive operation runs (R479). -/
def bufferRead (s : State) : Bytes := if lbBusy s then zeros 4096 else fit 4096 s.isl.buffer

/-- A mailbox's register block (R473, R474). -/
def boxReg (m off : Nat) (s : State) : Nat :=
  let b := boxOf m s
  if locked s then 0
  else if off = 0 then b.cmdTail
  else if off = 4 then b.cmdHead
  else if off = 8 then b.cplTail
  else if off = 12 then b.cplHead
  else if off = 16 then b2n b.signal
  else 0

/-- A lighter's register block, 4 bytes at an offset (R475). -/
def lighterReg (l off : Nat) (s : State) : Nat :=
  let x := lighterOf l s
  if off = 0 then x.base % 2 ^ 32
  else if off = 4 then x.base / 2 ^ 32
  else if off = 8 then b2n x.ltSignal * 32 + b2n x.enable * 16 + x.sizeCode % 16
  else if off = 12 then x.inTail
  else if off = 16 then x.inHead
  else if off = 20 then x.outTail
  else if off = 24 then x.outHead
  else if off = 32 then x.reason * 65536 + b2n x.fault * 2 + b2n x.bound
  else if off = 36 then x.session % 2 ^ 32
  else 0

/-- A half of a 64-bit register. -/
def half (v off : Nat) : Nat := if off % 8 = 0 then v % 2 ^ 32 else v / 2 ^ 32 % 2 ^ 32

/-- Four bytes of the register window at an aligned offset (R464 to R480). -/
def regRead4 (off : Nat) (s : State) : Nat :=
  if off < 0x08 then half idPart off
  else if off < 0x10 then half (idSite s) off
  else if off < 0x18 then half s.isl.serial off
  else if off < 0x20 then half (idFw s) off
  else if off = 0x100 then statusReg s
  else if 0x140 ≤ off ∧ off < 0x1E8 then half (reasonReg ((off - 0x140) / 8) s) off
  else if 0x200 ≤ off ∧ off < 0x208 then half s.tide.count off
  else if 0x208 ≤ off ∧ off < 0x210 then half (tideInfo s) off
  else if off = 0x210 then tidePhase s
  else if 0x300 ≤ off ∧ off < 0x310 then
    if locked s then 0
    else if off = 0x300 then s.tel.evTail
    else if off = 0x304 then s.tel.evHead
    else if off = 0x308 then s.tel.evLost
    else b2n s.tel.evSignal
  else if 0x400 ≤ off ∧ off < 0x408 then half (secState s) off
  else if 0x1000 ≤ off ∧ off < 0x1200 then boxReg ((off - 0x1000) / 32) (off % 32) s
  else if 0x1800 ≤ off ∧ off < 0x1C00 then lighterReg ((off - 0x1800) / 64) (off % 64) s
  else if 0x2008 ≤ off ∧ off < 0x2010 then half (lbResult s.isl.window) off
  else if 0x2010 ≤ off ∧ off < 0x2018 then half (lbStatus s) off
  else if 0x3000 ≤ off ∧ off < 0x4000 then unle (slice (bufferRead s) (off - 0x3000) 4)
  else 0

end Sys2Proof.Machine
end

