-- ==== Sys2Proof/Machine/Measure.lean ====
section
/-! DEFINITION. The measurement log (R439) and its cache on the standby island (R422). -/

namespace Sys2Proof.Machine
open Sys2Proof

/-- Entries the log holds. -/
def measRoom : Nat := 8192

/-- Bytes 0 to 79 of an entry: index, kind, measurer, flags, tide, id, aux and digest (R439). -/
def measHead (index : Nat) (m : Meas) : Bytes :=
  packBytes [(4, index), (1, m.kind), (1, m.measurer), (2, m.flags), (8, m.tide), (4, m.id), (4, m.aux), (8, 0)] ++
  fit 48 m.digest

/-- An entry's 128 bytes (R439). -/
def measBytes (index : Nat) (m : Meas) : Bytes := measHead index m ++ fit 48 m.chain

/-- The log has room for n entries. -/
def measFits (n : Nat) (s : State) : Bool := decide (s.hm.meas.length + n ≤ measRoom)

/-- An entry appended, chained to the one before (R439). A full log takes none. -/
def measure (kind measurer id aux : Nat) (digest : Bytes) (s : State) : State :=
  if !measFits 1 s then s
  else
    let n := s.hm.meas.length
    let before := match s.hm.meas.getLast? with
      | some m => fit 48 m.chain
      | none => zeros 48
    let m : Meas := { kind := kind, measurer := measurer, flags := b2n s.sec.confidential + 2 * b2n s.sec.latch,
                      tide := if s.tide.followed then s.tide.count else 0, id := id, aux := aux, digest := digest,
                      chain := [] }
    let m := { m with chain := Config.sha384 (before ++ measHead n m) }
    { s with hm := { s.hm with meas := s.hm.meas ++ [m] } }

/-- A SECURITY_STATE entry: the fuse floor, the latch and mode in its flags (R439). -/
def measureSecurity (s : State) : State := measure 7 1 s.hm.floor 0 (zeros 48) s

/-- A list of entries' bytes from an index, at most n. -/
def measSlice (start n : Nat) (s : State) : Bytes :=
  (((s.hm.meas.drop start).take n).zipIdx start).flatMap fun p => measBytes p.2 p.1

end Sys2Proof.Machine
end

