-- ==== Sys2Proof/Machine/Change.lean ====
section
/-! DEFINITION. Domain changes: what each sets (R45, R49 to R59, R332 to R339, R377, R395, R397), its checks, and the exchange
of R50. -/

namespace Sys2Proof.Machine
open Sys2Proof

/-! What a change sets in the Manifest's tables. -/

/-- The generation after a (R53). -/
def nextGen (g : Nat) : Nat := if 0xFFFF ≤ g then 1 else g + 1

/-- An entry put in place. -/
def putEntry (i : Nat) (e : Entry) (s : State) : State := { s with man := { s.man with entries := tput s.man.entries i e } }

/-- An entry mapped: VALID at the next generation; a confidential charter's epoch is the current one (R45, R53, R395). -/
def mapEntry (i : Nat) (e : Entry) (s : State) : State :=
  putEntry i { e with generation := nextGen (entryOf i s).generation, state := 1,
                      keyEpoch := if isConfidential e.charter s then epochOf e.charter s else e.keyEpoch } s

/-- An entry REVOKED at the next generation (R53, R54). -/
def revokeEntry (i : Nat) (s : State) : State :=
  let e := entryOf i s
  putEntry i { e with generation := nextGen e.generation, state := 2 } s

/-- A route map in force from a boundary, under the next epoch (R56). -/
def setRoute (m : RouteMap) (at_ : Nat) (s : State) : State :=
  { s with man := { s.man with prevRoute := some s.man.route, route := m, routeEpoch := (s.man.routeEpoch + 1) % 65536,
                               routeSince := at_, routeChanges := at_ :: s.man.routeChanges.take 3 } }

/-- A group altered in its place. -/
def onGroup (g : Nat) (f : Group → Group) (s : State) : State :=
  match tget s.man.groups g with
  | none => s
  | some x => { s with man := { s.man with groups := tput s.man.groups g (f x) } }

/-- A charter's entry put in place. -/
def putCharter (c : Nat) (x : Charter) (s : State) : State :=
  { s with man := { s.man with charters := tput s.man.charters c x } }

/-- The members of a charter (R376). -/
def membersOf (c : Nat) (s : State) : List Nat := tgetD s.man.members c []

/-- A rotation's turn of a charter (R395): epoch, slots, and the key epoch of its entries. -/
def turnEpoch (c : Nat) (s : State) : State :=
  match tget s.man.charters c with
  | none => s
  | some x =>
    let e := (x.epoch + 1) % 4
    let x := if e % 2 = 0 then { x with epoch := e, rotating := true, slot0 := 1, slot1 := 2 }
      else { x with epoch := e, rotating := true, slot1 := 1, slot0 := 2 }
    let s := putCharter c x s
    { s with man := { s.man with entries := s.man.entries.map fun p =>
        if p.2.charter == c && p.2.state != 0 then (p.1, { p.2 with keyEpoch := e }) else p } }

/-- A host's multicast groups of a route map changed at its own device (R59, R303). -/
def shiftGroups (host : Nat) (join leave : List Nat) (s : State) : RouteMap :=
  let m := s.man.route
  match ctxsOf host s, hostCtx host m s with
  | _ :: _, some ctx =>
    let gs := m.groups.map fun p =>
      if leave.contains p.1 then (p.1, { p.2 with locals := p.2.locals.filter fun k => k != ctx })
      else if join.contains p.1 then (p.1, { p.2 with locals := insertSorted ctx p.2.locals }) else p
    let more := join.filter fun g => (tget m.groups g).isNone
    { m with groups := more.foldl (fun t g => tput t g { locals := [ctx], spans := [] }) gs }
  | _, _ => m

/-- A group's anchor: bits [55:38] of member 0's address (R330). -/
def anchorOf (g : Group) : Nat :=
  match g.members with
  | m :: _ => modNum m.device m.tray m.module
  | [] => 0

/-- What a change sets when it takes effect at a boundary, in the tables every member holds alike. -/
def configure (c : Change) (at_ : Nat) (s : State) : State :=
  match c with
  | .map i e => mapEntry i e s
  | .revoke i => revokeEntry i s
  | .window ch w d => { s with man := { s.man with windows := tput s.man.windows (8 * ch + w) d } }
  | .route m => setRoute m at_ s
  | .composition c m =>
    let s := setRoute m at_ s
    { s with man := { s.man with
        comp := c, compEpoch := (s.man.compEpoch + 1) % 65536, compSince := at_, compTurned := true } }
  | .role h g j l =>
    let s := setRoute (shiftGroups h j l s) at_ s
    { s with man := { s.man with roles := tput s.man.roles h g } }
  | .tideLength k => { s with tide := { s.tide with lengthCode := k } }
  | .groupDefine g =>
    let g := { g with members := g.members.map fun m => { m with state := 0 }, formatLimit := 0, anchor := anchorOf g,
                      formatting := none, rebuildRate := 0 }
    { s with man := { s.man with groups := tput s.man.groups g.groupId g } }
  | .groupDelete g => { s with man := { s.man with groups := tdel s.man.groups g } }
  | .formatStart g l => onGroup g (fun x => { x with formatting := some l }) s
  | .formatEnd g l ok => onGroup g (fun x => { x with formatting := none, formatLimit := if ok then l else x.formatLimit }) s
  | .replace g m d t mo r =>
    onGroup g (fun x => { x with rebuildRate := r, members := x.members.zipIdx.map fun p =>
      if p.2 = m then { device := d, tray := t, module := mo, state := 2 } else p.1 }) s
  | .charterCreate c conf _ =>
    putCharter c { state := 1, confidential := conf, epoch := 0, rotating := false, slot0 := b2n conf, slot1 := 0,
                   createdTide := at_ } s
  | .charterMembers c a r =>
    let l := r.foldl (fun l h => l.filter fun x => x != h) (a.foldl (fun l h => insertSorted h l) (membersOf c s))
    { s with man := { s.man with members := tput s.man.members c l } }
  | .charterRotate c _ _ => turnEpoch c s
  | .charterRevoke c =>
    match tget s.man.charters c with
    | none => s
    | some x =>
      let s := putCharter c { x with state := 2, slot0 := 3, slot1 := 3 } s
      let s := { s with man := { s.man with windows := s.man.windows.map fun (p : Nat × Window) =>
        if p.1 / 8 == c then (p.1, { p.2 with enable := false }) else p } }
      (s.man.entries.filter fun p => p.2.charter == c && p.2.state == 1).foldl (fun s p => revokeEntry p.1 s) s
  | .migrate l => l.foldl (fun s p => mapEntry p.1 p.2 s) s
  | .fwActivate _ _ => s

/-- The order in which changes of one boundary take effect (R32, R50, R377): Manifest and groups, charters, route maps, the
composition, the tide length; then key epochs; then firmware. -/
def rank (c : Change) : Nat :=
  match c with
  | .charterCreate _ _ _ => 1
  | .charterMembers _ _ _ => 1
  | .charterRevoke _ => 1
  | .route _ => 2
  | .role _ _ _ _ => 2
  | .composition _ _ => 3
  | .tideLength _ => 4
  | .charterRotate _ _ _ => 5
  | .fwActivate _ _ => 6
  | _ => 0

/-- A notice put in its place among notices ordered by boundary and rank. -/
def placeNotice (n : Notice) (l : List Notice) : List Notice :=
  match l with
  | [] => [n]
  | m :: r =>
    if n.atTide < m.atTide ∨ (n.atTide = m.atTide ∧ rank n.change < rank m.change) then n :: m :: r
    else m :: placeNotice n r

/-- Notices in the order in which they take effect. -/
def ordered (l : List Notice) : List Notice := l.foldl (fun l n => placeNotice n l) []

/-- The configuration as every change pending for a boundary up to one would leave it, a change itself left out (R416). -/
def projected (at_ : Nat) (self_ : Option ChangeId) (s : State) : State :=
  (ordered (s.man.notices.filter fun n => decide (n.atTide ≤ at_) && some n.id != self_)).foldl
    (fun s n => configure n.change n.atTide s) s

/-! Checks. -/

/-- The conditions of 0x050E for MANIFEST.MAP (R45), under the configuration that will be in force at its boundary. -/
def entryBad (i : Nat) (e : Entry) (p : State) : Bool :=
  let size := extentBytes e.sizeCode
  let off := e.baseFpa % 2 ^ 38
  decide (524288 ≤ i) || !entryFits { e with reserved := 0 } || e.generation != 0 || e.state != 0 ||
  decide (e.tier < 2 ∨ e.cls = 0 ∨ 5 < e.redundancy ∨ e.sizeCode = 15) ||
  (e.cls == 3 && (!e.readOnly || bit e.memberPerm 1 || bit e.memberPerm 2)) ||
  (e.compressed && !e.readOnly) ||
  (e.shadowLink && (e.cls != 3 || (entryOf e.shadowEntry p).cls != 3)) ||
  decide (off % size ≠ 0) || (e.redundancy == 0 && decide (2 ^ 38 < off + size)) ||
  (p.man.windows.any fun w => w.2.enable && decide (w.2.firstEntry ≤ i ∧ i < w.2.firstEntry + w.2.entryCount) &&
    (w.2.sizeCode != e.sizeCode || w.1 / 8 != e.charter)) ||
  !deviceMember e.homeDevice p || !deviceMember (bits e.baseFpa 55 50) p

/-- The layout checks (R331). -/
def layoutBad (e : Entry) (s : State) : Bool :=
  e.redundancy != 0 && (match groupAt (modAddr e.baseFpa) s with
    | none => true
    | some g => g.mode != e.redundancy || decide (g.formatLimit < e.baseFpa % 2 ^ 38 + extentBytes e.sizeCode) ||
        g.members.any fun m => m.state == 2)

/-- The home's page map would pass its 16 TiB of confidential extents (R386). -/
def pageMapFull (i : Nat) (e : Entry) (s : State) : Bool :=
  isConfidential e.charter s &&
  decide (2 ^ 44 < extentBytes e.sizeCode + ((s.man.entries.filter fun p => p.1 != i && p.2.state == 1 &&
    p.2.homeDevice == e.homeDevice && isConfidential p.2.charter s).map fun p => extentBytes p.2.sizeCode).sum)

/-- The drain of an entry that is REVOKED, now or by the boundary, has not completed, as the home, or the revocation's issuer,
knows (R55, R416). -/
def draining (i : Nat) (p s : State) : Bool :=
  (entryOf i p).state == 2 && ((entryOf i s).state != 2 || (tget s.home.drains i).isSome ||
    s.man.issued.any fun x => x.applied && (drainEntries x.change).contains i && x.outcome.isNone && !x.reports.contains i)

/-- MANIFEST.MAP's checks in their order (R45); `p` is the configuration with every change pending up to the boundary (R416). -/
def mapCode (i : Nat) (e : Entry) (p s : State) : Nat :=
  let valid := p.man.entries.countP fun x => x.1 != i && x.2.state == 1 && x.2.cls == 1
  firstCode [
    (charterState e.charter p != 1, 0x1001), (entryBad i e p, 0x050E), (layoutBad e p, 0x0512),
    (e.cls == 1 && decide (8192 ≤ valid), 0x050D), (draining i p s, 0x050F), (pageMapFull i e p, 0x1007)]

/-- Two ranges of indexes overlap. -/
def rangesMeet (a b : Window) : Bool :=
  decide (a.firstEntry < b.firstEntry + b.entryCount ∧ b.firstEntry < a.firstEntry + a.entryCount)

/-- MANIFEST.WINDOW's checks (R43, R378). -/
def windowCode (c w : Nat) (d : Window) (p : State) : Nat :=
  if charterState c p ≠ 1 then 0x1001
  else if !d.enable then 0
  else firstCode [
    (decide (15 ≤ d.sizeCode ∨ d.entryCount = 0 ∨ 524288 < d.entryCount ∨ 524288 < d.firstEntry + d.entryCount), 0x050B),
    ((p.man.windows.any fun x => x.1 != 8 * c + w && x.2.enable && rangesMeet d x.2), 0x050C),
    ((p.man.entries.any fun x => x.2.state == 1 && decide (d.firstEntry ≤ x.1 ∧ x.1 < d.firstEntry + d.entryCount) &&
      (x.2.sizeCode != d.sizeCode || x.2.charter != c)), 0x050E)]

/-- Some charter of the domain is confidential. -/
def anyConfidential (s : State) : Bool := s.man.charters.any fun p => p.2.state != 0 && p.2.confidential

/-- Devices that a composition admits. -/
def admitted (c : Composition) (s : State) : List Nat := c.members.filter fun m => !(s.man.comp.members.contains m)

/-- COMPOSITION.SET's checks (R57, R380, R438); `p` is the configuration with every change pending up to the boundary (R416). -/
def compositionCode (c : Composition) (p s : State) : Nat :=
  let gone := p.man.comp.members.filter fun m => !(c.members.contains m)
  let joins := admitted c p
  let mine := joins.contains (self s)
  let known := c.members.filter fun m => m != self s
  firstCode [
    ((p.man.entries.any fun x => x.2.state == 1 && (gone.contains x.2.homeDevice || gone.contains (bits x.2.baseFpa 55 50))),
      0x0511),
    (anyConfidential p && joins.any (fun m => if m = self s then !s.sec.confidential else !c.confidential.contains m), 0x1004),
    (mine && known.any (fun m => match tget c.releases m with
      | some r => r != imageRelease (runImage s)
      | none => false), 0x112A)]

/-- A module belongs to a group other than one. -/
def moduleUsed (d t m : Nat) (s : State) : Bool :=
  s.man.groups.any fun p => p.2.members.any fun x => x.device == d && x.tray == t && x.module == m

/-- REDUNDANCY.GROUP's definition is wrong (R332). -/
def groupBad (g : Group) (s : State) : Bool :=
  let w := modeWidth g.mode
  let limit := if g.mode = 1 then 2 ^ 38 else 2 ^ 38 / modeData g.mode
  let trays := g.members.map fun m => (m.device, m.tray)
  decide (4096 ≤ g.groupId ∨ g.mode = 0 ∨ 5 < g.mode) || g.members.length != w ||
  decide (g.memberBytes = 0 ∨ g.memberBytes % 65536 ≠ 0 ∨ limit < g.memberBytes) ||
  (tget s.man.groups g.groupId).isSome || (s.man.groups.any fun p => p.2.anchor == anchorOf g) ||
  trays.dedup.length != trays.length || (g.members.any fun m => moduleUsed m.device m.tray m.module s) ||
  (g.members.any fun m => !deviceMember m.device s || decide (256 ≤ m.tray ∨ 16 ≤ m.module))

/-- A VALID or REVOKED entry names a group. -/
def groupNamed (g : Nat) (s : State) : Bool :=
  match tget s.man.groups g with
  | none => false
  | some x => s.man.entries.any fun p => (p.2.state == 1 || p.2.state == 2) && p.2.redundancy != 0 &&
      modAddr p.2.baseFpa == x.anchor

/-- Logical bytes of a group (R330). -/
def groupBytes (g : Group) : Nat := modeData g.mode * g.memberBytes

/-- REDUNDANCY.FORMAT is refused (R334). -/
def formatBad (g limit : Nat) (s : State) : Bool :=
  match tget s.man.groups g with
  | none => true
  | some x => x.formatting.isSome || (x.members.any fun m => m.state != 0) ||
      decide (limit ≤ x.formatLimit ∨ groupBytes x < limit)

/-- REDUNDANCY.REPLACE is refused (R339). -/
def replaceBad (g m d t mo rate : Nat) (s : State) : Bool :=
  match tget s.man.groups g with
  | none => true
  | some x =>
    decide (rate = 0 ∨ 200 < rate) || (match x.members[m]? with | some y => y.state != 1 | none => true) ||
    (x.members.zipIdx.any fun y => y.2 != m && (y.1.state == 2 || (y.1.device == d && y.1.tray == t))) ||
    moduleUsed d t mo s || decide (64 ≤ d ∨ 256 ≤ t ∨ 16 ≤ mo)

/-- CHARTER.CREATE's check at a member (R378). -/
def createCode (c : Nat) (conf : Bool) (p s : State) : Nat :=
  firstCode [
    (decide (4096 ≤ c) || charterState c s != 0 || charterState c p != 0, 0x1001),
    (conf && (!s.sec.confidential || (s.man.comp.members.any fun m => m != self s && !(s.man.comp.confidential.contains m))),
      0x1004)]

/-- CHARTER.MEMBERS's check (R377). -/
def membersCode (c : Nat) (add remove : List Nat) (s : State) : Nat :=
  let all := add ++ remove
  if charterState c s ≠ 1 ∨ 256 < all.length ∨ all.dedup.length ≠ all.length ∨ all.any (fun h => decide (4096 ≤ h)) = true then
    0x1001
  else 0

/-- CHARTER.ROTATE's check (R377, R395). A sweep rate outside 1 to 100 is refused in the same way. -/
def rotateCode (c rate : Nat) (s : State) : Nat :=
  match tget s.man.charters c with
  | none => 0x1001
  | some x =>
    if x.state ≠ 1 ∨ x.confidential = false ∨ rate = 0 ∨ 100 < rate then 0x1001
    else if x.rotating ∨ (if x.epoch % 2 = 0 then x.slot1 else x.slot0) ≠ 0 then 0x1005
    else 0

/-- An image can take over the settings (R436): its format is the current one, migration reaches it, or the other slot
already holds it. -/
def settingsOk (image : Bytes) (s : State) : Bool :=
  let f := imageSettings image
  let lo := fld image 20 2
  let cur := match activeSettings s with | some x => x.1 | none => imageSettings (runImage s)
  decide (lo ≤ cur ∧ cur ≤ f) || (decide (f < cur) && s.hm.settings.any fun x => x.2.2.2 && x.1 == f)

/-- Why a named device is not ready to activate a release (R434); 0 when it is. -/
def activateCode (mask release : Nat) (s : State) : Nat :=
  if !named mask s then 0
  else
    match tget s.hm.banks (1 - s.hm.active) with
    | none => 0x1128
    | some b =>
      firstCode [
        (!b.valid || imageRelease b.image != release || s.hm.fwStage.isSome, 0x1128),
        (decide (imageSvn b.image < s.hm.floor), 0x1123), (!settingsOk b.image s, 0x1129), (s.hm.frozen, 0x1127),
        (!measFits 4 s, 0x1126)]

/-- A change's consistency check at the issuer and at every member (R416). -/
def checkChange (c : Change) (at_ : Nat) (self_ : Option ChangeId) (s : State) : Nat :=
  let p := projected at_ self_ s
  match c with
  | .map i e => mapCode i e p s
  | .revoke i => let st := (entryOf i p).state; if st = 2 then 0x0506 else if st ≠ 1 then 0x0503 else 0
  | .window ch w d => windowCode ch w d p
  | .composition c _ => compositionCode c p s
  | .tideLength k => if 5 ≤ k then 0x0909 else 0
  | .groupDefine g => if groupBad g p then 0x0626 else 0
  | .groupDelete g => if groupNamed g p then 0x0626 else 0
  | .formatStart g l => if formatBad g l p then 0x0626 else 0
  | .replace g m d t mo r => if replaceBad g m d t mo r p then 0x0626 else 0
  | .charterCreate c conf _ => createCode c conf p s
  | .charterMembers c a r => membersCode c a r p
  | .charterRotate c r _ => rotateCode c r p
  | .charterRevoke c => if charterState c p = 1 then 0 else 0x1001
  | .migrate l => firstCode (l.map fun x => let k := mapCode x.1 x.2 p s; (k != 0, k))
  | .fwActivate m r => activateCode m r s
  | _ => 0

/-- The entries of a charter, VALID or being mapped by a stored change. -/
def entriesOf (c : Nat) (s : State) : List Nat :=
  ((s.man.entries.filter fun p => p.2.charter == c && p.2.state == 1).map fun p => p.1) ++
    s.man.notices.flatMap fun n => match n.change with
      | .map i e => if e.charter = c then [i] else []
      | .migrate l => (l.filter fun p => p.2.charter == c).map fun p => p.1
      | _ => []

/-- The objects a change alters: kind and number. The removal of a charter alters its entries and windows too (R52, R397). -/
def objectsOf (c : Change) (s : State) : List (Nat × Nat) :=
  match c with
  | .map i _ => [(0, i)]
  | .revoke i => [(0, i)]
  | .migrate l => l.map fun p => (0, p.1)
  | .window ch w _ => [(1, 8 * ch + w)]
  | .charterCreate c _ _ => [(2, c)]
  | .charterMembers c _ _ => [(2, c)]
  | .charterRotate c _ _ => [(2, c)]
  | .charterRevoke c => (2, c) :: ((List.range 8).map fun w => (1, 8 * c + w)) ++ (entriesOf c s).map fun i => (0, i)
  | .groupDefine g => [(3, g.groupId)]
  | .groupDelete g => [(3, g)]
  | .formatStart g _ => [(3, g)]
  | .formatEnd g _ _ => [(3, g)]
  | .replace g _ _ _ _ _ => [(3, g)]
  | .tideLength _ => [(4, 0)]
  | _ => []

/-- A change of the route map (R52). -/
def isRoute (c : Change) : Bool :=
  match c with
  | .route _ => true
  | .composition _ _ => true
  | .role _ _ _ _ => true
  | _ => false

/-- A change of the composition. -/
def isComposition (c : Change) : Bool :=
  match c with
  | .composition _ _ => true
  | _ => false

/-- Two boundaries lie fewer than 4 tides apart. -/
def within4 (a b : Nat) : Bool := decide (a < b + 4 ∧ b < a + 4)

/-- A change meets another for the same object and boundary, a route-map change too near, or a composition change under way
or within its grace (R33, R52, R332, R377). -/
def changeBusy (c : Change) (at_ : Nat) (self_ : Option ChangeId) (s : State) : Bool :=
  (s.man.notices.any fun n => some n.id != self_ &&
    ((n.atTide == at_ && ((objectsOf c s).any (objectsOf n.change s).contains ||
        (match c, n.change with
          | .map _ e, .charterRevoke k => e.charter == k
          | _, _ => false))) ||
     (isRoute c && isRoute n.change && within4 at_ n.atTide) || (isComposition c && isComposition n.change))) ||
  (isRoute c && s.man.routeChanges.any fun b => within4 at_ b) ||
  (isComposition c && s.man.compTurned && decide (s.tide.count < s.man.compSince + 4))

/-- An earlier, unfinished change of the same mailbox alters the same object: the command is not started yet (R406). -/
def changeHeld (h : CmdHdr) (c : Change) (s : State) : Bool :=
  s.man.issued.any fun i => (match i.hdr with | some x => x.mailbox == h.mailbox && x.viaLighter == h.viaLighter | none => false) &&
    ((objectsOf c s).filter fun o => o.1 < 4).any (objectsOf i.change s).contains

/-! The exchange. -/

/-- A composition change needs a fresh harbour key (R384): it admits a device while some charter is confidential. -/
def needsHarbour (c : Change) (s : State) : Bool :=
  match c with
  | .composition c _ => admitted c s != [] && anyConfidential s
  | _ => false

/-- The key slot and key that a change loads (R395). -/
def loadedKey (c : Change) (s : State) : Option (Nat × Bytes) :=
  match c with
  | .charterCreate c true k => some (2 * c, k)
  | .charterRotate c _ k => some (2 * c + (epochOf c s + 1) % 2, k)
  | _ => none

/-- A key loaded into its slot before the answer to the notice (R395). -/
def loadKey (id : ChangeId) (c : Change) (s : State) : State :=
  match loadedKey c s with
  | none => s
  | some (slot, k) =>
    { s with sec := { s.sec with keys := tput s.sec.keys slot k, staged := s.sec.staged ++ [(id, slot, k)] } }

/-- The granules of an extent of a lost home that this device knows to be uncertain: its uncertain list, and the lines its
hosts hold OWNED (R343, R344). -/
def uncertainOf (entry : Nat) (s : State) : List Nat :=
  let e := entryOf entry s
  let listed := (s.ing.uncertain.filter fun u => u.2.1 == entry).map fun u => u.2.2
  let owned := (s.ing.filter.filter fun f => f.entry == entry && f.state == 2 && s.ing.lostHomes.contains f.home).map
    fun f => f.line - e.baseFpa
  sorted (listed ++ owned)

/-- The uncertain granules of a re-homed extent sent to its new home (R344). -/
def sendUncertain (c : Change) (s : State) : State :=
  match c with
  | .map i e =>
    let offs := uncertainOf i s
    if s.ing.lostHomes.contains (entryOf i s).homeDevice && e.homeDevice != self s && offs != [] then
      (chunks offs.length 40 offs).foldl (fun s l => control (some e.homeDevice) ctlUncertain ([e.homeDevice, i] ++ l) s) s
    else s
  | _ => s

/-- The extents of a migration that this device homes: their copying begins with the notice (R254). -/
def startMoves (id : ChangeId) (c : Change) (s : State) : State :=
  match c with
  | .migrate l =>
    let mine := l.filter fun p => (entryOf p.1 s).homeDevice == self s
    mine.foldl (fun s p =>
      moveNext (2 ^ 18 + 1) p.1 { s with home := { s.home with
        moves := s.home.moves ++ [{ entry := p.1, target := p.2, next := 0, id := id }] } }) s
  | _ => s

/-- The home of a migrating extent is ready when it has copied it. -/
def movesHere (c : Change) (s : State) : Bool :=
  match c with
  | .migrate l => l.any fun p => (entryOf p.1 s).homeDevice == self s
  | _ => false

/-- A notice stored, its key loaded, its uncertain granules and copies seen to (R50, R344, R395). -/
def storeNotice (id : ChangeId) (c : Change) (at_ : Nat) (ok : Bool) (s : State) : State :=
  let ready := ok && !needsHarbour c s && !movesHere c s
  let s := { s with man := { s.man with
      notices := s.man.notices ++ [{ id := id, change := c, atTide := at_, committed := false, ready := ready }] } }
  if ok then leaveLines (startMoves id c (sendUncertain c (loadKey id c s))) else s

/-- The key of a notice under the harbour key (R384). -/
def noticeKey (c : Change) (s : State) : Bytes :=
  match loadedKey c s with
  | none => []
  | some (_, k) => Config.gcm (s.sec.harbourKey.getD []) [self s, s.ring.nextMsg] k

/-- A change issued: its notice stored and sent to every other active member, and to devices it admits (R50). -/
def issue (h : Option CmdHdr) (command : Nat) (c : Change) (at_ : Nat) (s : State) : State :=
  let n := s.man.nextChange
  let joins := match c with | .composition x _ => admitted x s | _ => []
  let await := (s.man.comp.members ++ joins).filter fun m => m != self s && !(s.ing.lostHomes.contains m && !joins.contains m)
  let i : Issued := { number := n, hdr := h, command := command, change := c, atTide := at_, awaiting := await,
                      committed := false, applied := false, reports := [], endAt := none, tally := [], outcome := none }
  let s := { s with man := { s.man with nextChange := n + 1, issued := s.man.issued ++ [i] } }
  let s := broadcast ctlNotice ([self s, n, at_] ++ changeFields c (noticeKey c s)) s
  let s := storeNotice ⟨self s, n⟩ c at_ true s
  commitReady n s

/-- A domain change's command: held behind an earlier one of its object, else refused with the first code that applies, or
issued (R49, R50, R52, R406). `late` is the code of R50's first step for it. The spec gives no order among the consistency
check, that code and 0x0510: they come in this order (DESIGN CHOICE, log 21). -/
def changeCommand (h : CmdHdr) (command atTide late : Nat) (set : Bool) (code : State → Nat)
    (change : State → Change × State) (s : State) : Ans :=
  onFw s fun s =>
    let at_ := if h.expert then atTide else s.tide.count + 32
    if !h.expert && (set || decide (atTide ≠ 0)) then result h command 0x0004 [] s
    else
      let p := change s
      if changeHeld h p.1 s then s
      else
        let k := code s
        if k ≠ 0 then result h command k [] s
        else
          let k := checkChange p.1 at_ none s
          let ready : Nat := match p.1 with | .fwActivate _ _ => 0 | _ => k
          let k' := firstCode [(ready != 0, ready), (decide (at_ < s.tide.count + 16), late), (changeBusy p.1 at_ none s, 0x0510)]
          if k' ≠ 0 then result h command k' [] s
          else if k ≠ 0 then resultWith h command 0x0509 (some (self s, k)) [] s
          else issue (some h) command p.1 at_ p.2

/-- A fixed change. -/
def just (c : Change) (s : State) : Change × State := (c, s)

/-- MANIFEST_MAP (R45). -/
def execManifestMap (h : CmdHdr) (index : Nat) (e : Entry) (atTide : Nat) (s : State) : Ans :=
  changeCommand h 0x0701 atTide 0x0508 false (fun _ => if e.reserved ≠ 0 then 0x0003 else 0) (just (.map index e)) s

/-- MANIFEST_REVOKE (R54). -/
def execManifestRevoke (h : CmdHdr) (index atTide : Nat) (s : State) : Ans :=
  changeCommand h 0x0702 atTide 0x0508 false (fun _ => 0) (just (.revoke index)) s

/-- MANIFEST_WINDOW (R43). -/
def execManifestWindow (h : CmdHdr) (charter win : Nat) (w : Window) (atTide : Nat) (s : State) : Ans :=
  changeCommand h 0x0703 atTide 0x0508 false
    (fun _ => if fits [(charter, 12), (win, 3), (w.sizeCode, 4), (w.firstEntry, 19), (w.entryCount, 20)] then 0 else 0x0003)
    (just (.window charter win w)) s

/-- ROUTE_COMMIT (R49, R56). -/
def execRouteCommit (h : CmdHdr) (m : RouteMap) (atTide : Nat) (s : State) : Ans :=
  changeCommand h 0x0801 atTide 0x0508 false (fun _ => 0) (just (.route m)) s

/-- COMPOSITION_SET (R57). -/
def execCompositionSet (h : CmdHdr) (c : Composition) (m : RouteMap) (atTide : Nat) (s : State) : Ans :=
  changeCommand h 0x0901 atTide 0x0508 false (fun _ => 0) (just (.composition c m)) s

/-- ROLE_SHIFT (R59). The spec names host_id, role_group and at_tide and no table that says which multicast groups a role group
stands for: the groups that the host joins and leaves are further operands (DESIGN CHOICE, log 21). -/
def execRoleShift (h : CmdHdr) (host group : Nat) (join leave : List Nat) (atTide : Nat) (s : State) : Ans :=
  changeCommand h 0x0A01 atTide 0x0508 false (fun _ => if fits [(host, 12)] then 0 else 0x0003)
    (just (.role host group join leave)) s

/-- TIDE_SET_LENGTH: a reserved length code is refused before every other check (R33). -/
def execTideSetLength (h : CmdHdr) (code atTide : Nat) (s : State) : Ans :=
  if 5 ≤ code then onFw s (result h 0x0B01 0x0909 [])
  else changeCommand h 0x0B01 atTide 0x0906 false (fun _ => 0) (just (.tideLength code)) s

/-- REDUNDANCY_GROUP (R332). -/
def execRedundancyGroup (h : CmdHdr) (delete : Bool) (g : Group) (atTide : Nat) (s : State) : Ans :=
  changeCommand h 0x0C01 atTide 0x0508 false (fun _ => if g.reserved ≠ 0 then 0x0003 else 0)
    (just (if delete then .groupDelete g.groupId else .groupDefine g)) s

/-- REDUNDANCY_FORMAT (R334). -/
def execRedundancyFormat (h : CmdHdr) (groupId limit atTide : Nat) (s : State) : Ans :=
  changeCommand h 0x0C02 atTide 0x0508 false (fun _ => 0) (just (.formatStart groupId limit)) s

/-- REDUNDANCY_REPLACE (R339); the basic form's rate is 20. -/
def execRedundancyReplace (h : CmdHdr) (groupId member device tray module rate atTide : Nat) (s : State) : Ans :=
  changeCommand h 0x0C03 atTide 0x0508 (decide (rate ≠ 0)) (fun _ => 0)
    (just (.replace groupId member device tray module (if h.expert then rate else 20))) s

/-- A key that the device draws: 64 free bytes (R383). -/
def drawKey (s : State) : Bytes × State :=
  ((List.range 64).map fun i => BitVec.ofNat 8 (Config.free (s.freeCount + i)), { s with freeCount := s.freeCount + 64 })

/-- The key of a command: drawn under GENERATE, the block's under IMPORT, none without a source (R383). -/
def keyFor (source : Nat) (key : Bytes) (s : State) : Bytes × State :=
  if source = 1 then drawKey s else if source = 2 then (fit 64 key, s) else ([], s)

/-- CHARTER_CREATE (R378). -/
def execCharterCreate (h : CmdHdr) (charter : Nat) (confidential : Bool) (keySource : Nat) (key : Bytes) (atTide : Nat)
    (s : State) : Ans :=
  let src := if h.expert then keySource else b2n confidential
  changeCommand h 0x0D01 atTide 0x0508 (decide (keySource ≠ 0))
    (fun s =>
      let k := createCode charter confidential s s
      firstCode [
        (decide (k = 0x1001) || (if confidential then decide (src = 0 ∨ 2 < src) else decide (src ≠ 0)), 0x1001),
        (decide (k ≠ 0), k), (decide (src = 2) && !h.viaLighter, 0x1008)])
    (fun s => let p := keyFor src key s; (.charterCreate charter confidential p.1, p.2)) s

/-- CHARTER_MEMBERS (R377). -/
def execCharterMembers (h : CmdHdr) (charter : Nat) (add remove : List Nat) (atTide : Nat) (s : State) : Ans :=
  changeCommand h 0x0D02 atTide 0x0508 false (fun _ => 0) (just (.charterMembers charter add remove)) s

/-- CHARTER_ROTATE (R377, R395). -/
def execCharterRotate (h : CmdHdr) (charter keySource rate : Nat) (key : Bytes) (atTide : Nat) (s : State) : Ans :=
  let src := if h.expert then keySource else 1
  let r := if h.expert then rate else 20
  changeCommand h 0x0D03 atTide 0x0508 (decide (keySource ≠ 0 ∨ rate ≠ 0))
    (fun s => firstCode [
      (decide (src = 0 ∨ 2 < src) || decide (rotateCode charter r s = 0x1001), 0x1001),
      (decide (rotateCode charter r s ≠ 0), 0x1005), (decide (src = 2) && !h.viaLighter, 0x1008)])
    (fun s => let p := keyFor src key s; (.charterRotate charter r p.1, p.2)) s

/-- CHARTER_REVOKE (R377, R397). -/
def execCharterRevoke (h : CmdHdr) (charter atTide : Nat) (s : State) : Ans :=
  changeCommand h 0x0D04 atTide 0x0508 false (fun _ => 0) (just (.charterRevoke charter)) s

/-- FW_ACTIVATE_AT (R434). -/
def execFwActivateAt (h : CmdHdr) (deviceMask release atTide : Nat) (s : State) : Ans :=
  changeCommand h 0x1803 atTide 0x0508 false (fun _ => 0) (just (.fwActivate deviceMask release)) s

/-- The VALID entries that hold an object's range of a charter: their indexes, first to last; none where one is not VALID,
not read_only or of another object (R252, R254). -/
def objectEntries (charter objectId srcVa bytes : Nat) (s : State) : Option (List Nat) :=
  let f := findExtent charter srcVa s
  let g := findExtent charter (srcVa + bytes - 1) s
  if bytes = 0 ∨ f.1 ≠ 0 ∨ g.1 ≠ 0 ∨ bits srcVa 55 53 ≠ bits (srcVa + bytes - 1) 55 53 then none
  else
    let l := upto f.2.1 (g.2.1 + 1 - f.2.1)
    if l.all fun i => let e := entryOf i s; e.state == 1 && e.readOnly && e.objectId == objectId && e.charter == charter then
      some l
    else none

/-- TIER_MIGRATE: T2 and T3 only; an object that is not read-only is refused (R250, R254). -/
def execTierMigrate (h : CmdHdr) (tier charter objectId srcVa bytes : Nat) (dst : List Nat) (atTide : Nat) (s : State) : Ans :=
  changeCommand h 0x1503 atTide 0x0508 false
    (fun s => firstCode [
      (decide (tier < 2 ∨ 3 < tier), 0x0E11), ((objectEntries charter objectId srcVa bytes s).isNone, 0x0E10),
      (decide (((objectEntries charter objectId srcVa bytes s).getD []).length ≠ dst.length), 0x0E12)])
    (fun s =>
      let l := (objectEntries charter objectId srcVa bytes s).getD []
      (.migrate ((l.zip dst).map fun p =>
        (p.1, { entryOf p.1 s with baseFpa := p.2, tier := tier, generation := 0, state := 0 })), s)) s

/-- DOMAIN_CHANGE_NOTICE: the member checks, stores and answers (R50, R416, R434). -/
def execDomainChangeNotice (id : ChangeId) (c : Change) (atTide : Nat) (s : State) : Ans :=
  onCore s fun s =>
    if (noticeOf id s).isSome ∨ id.issuer = self s then s
    else
      let k := checkChange c atTide (some id) s
      let k := if k ≠ 0 then k else if changeBusy c atTide (some id) s then 0x0510 else 0
      let s := storeNotice id c atTide (k == 0) s
      if k ≠ 0 then control (some id.issuer) ctlNotReady [id.issuer, id.number, k] s
      else match noticeOf id s with
        | some n => if n.ready then control (some id.issuer) ctlReady [id.issuer, id.number] s else s
        | none => s

/-- DOMAIN_CHANGE_READY: the last ready answer brings the commit, an answer not ready the cancel, with the member and its code
(R50, R384, R416). -/
def execDomainChangeReady (number member : Nat) (ok : Bool) (code : Nat) (s : State) : Ans :=
  onCore s fun s =>
    match issuedOf number s with
    | none => s
    | some i =>
      if ok then commitReady number (setIssued { i with awaiting := i.awaiting.filter fun m => m != member } s)
      else cancelIssued number (if code = 0x100E then 0x100E else 0x0509) (some (member, code)) s

/-- DOMAIN_CHANGE_COMMIT (R50). -/
def execDomainChangeCommit (id : ChangeId) (s : State) : Ans := onCore s (commitNotice id)

/-- DOMAIN_CHANGE_CANCEL (R50). -/
def execDomainChangeCancel (id : ChangeId) (s : State) : Ans :=
  onCore s fun s => match noticeOf id s with
    | some n => if n.committed then s else dropNotice id s
    | none => s

/-- CHANGE_READY_DEADLINE: boundary at_tide - 4 without every ready answer (R50). -/
def execChangeReadyDeadline (number : Nat) (s : State) : Ans :=
  onCore s fun s => match issuedOf number s with
    | some i => if i.atTide ≤ s.tide.count + 4 then cancelIssued number 0x0509 none s else s
    | none => s

/-- HARBOUR_KEY_AGREEMENT: the fresh harbour key is held and the notices that waited for it are answered ready, or a failed
agreement answers not ready (R384). -/
def execHarbourKeyAgreement (ok : Bool) (key : Bytes) (s : State) : Ans :=
  onCore s fun s =>
    let waits := s.man.notices.filter fun n => !n.committed && isComposition n.change
    if ok then
      let s := { s with sec := { s.sec with harbourKey := some (fit 32 key) } }
      (waits.filter fun n => !n.ready && needsHarbour n.change s).foldl (fun s n =>
        let s := setNotice { n with ready := true } s
        if n.id.issuer = self s then commitReady n.id.number s
        else control (some n.id.issuer) ctlReady [n.id.issuer, n.id.number] s) s
    else
      waits.foldl (fun s n =>
        if n.id.issuer = self s then cancelIssued n.id.number 0x100E (some (self s, 0x100E)) s
        else control (some n.id.issuer) ctlNotReady [n.id.issuer, n.id.number, 0x100E] s) s

/-- Four tides after the present map took effect the previous one is no longer honoured (R56). -/
def endGrace (s : State) : State :=
  if s.man.routeSince + 4 ≤ s.tide.count then { s with man := { s.man with prevRoute := none } } else s

/-- ROUTE_GRACE_END (R56). -/
def execRouteGraceEnd (s : State) : Ans := onCore s endGrace

end Sys2Proof.Machine
end

