-- ==== Sys2Proof/Machine/Coherent.lean ====
section
/-! DEFINITION. The home side of the coherent class: snoop rounds and their answers, releases, STOW fills, dead agents (R114 to
R129), and admission at the home (R48). -/

namespace Sys2Proof.Machine
open Sys2Proof

/-- A device no longer in a line's presence; the entry stays while a round or fill holds it (R114). -/
def unlist (line d : Nat) (s : State) : State :=
  match dirOf line s with
  | none => s
  | some x => setDir { x with presence := x.presence.filter fun k => k != d } s

/-- A round snoops again the devices it still asks, under a new identifier (R119, R121). -/
def reAsk (r : Round) (s : State) : State :=
  let id := s.home.nextSnoop
  let gen := match dirOf r.line s with | some d => d.generation | none => 0
  let entry := match dirOf r.line s with | some d => d.entry | none => 0
  let r' := { r with snoopId := id }
  let s := { s with home := { s.home with nextSnoop := (id + 1) % 65536,
                                            rounds := s.home.rounds.map fun x => if x.snoopId == r.snoopId then r' else x } }
  ringSend none (.snoop [{ line := r.line, kind := r.kind, requester := r.requester, snoopId := id, generation := gen,
                           entry := entry, targets := r.ask }]) s

/-- The first access of a queue counts in its entry's drain (R54, R129). -/
def countHead (key : Nat) (s : State) : State :=
  let q := queueOf key s
  match q.queue with
  | [] => s
  | a :: rest => setQueue key { q with queue := { a with drain := true } :: rest } s

/-- A line's returned data written, or the line poisoned, before any access that waits (R121, R126). -/
def landLine (line entry : Nat) (e : Entry) (data : Option Bytes) (lost drain : Bool) (s : State) : State :=
  let off := line - e.baseFpa
  let key := granKey entry (off / 64)
  if lost then
    let s := raise 0x080A [(evCount, 1)] s
    let s := pushRequest true { ownAccess opMark entry off e [] with aux := 1 } e s
    if drain then countHead key s else s
  else
    match data with
    | none => if drain then drainOne entry s else s
    | some b =>
      let s := pushRequest true (ownAccess opReturn entry off e b) e s
      if drain then countHead key s else s

/-- A round whose devices have all answered and returned what they held: its line settled, its batch goes on, or its requests
are refused after 16 retries (R115, R121, R129). -/
def finishRound (r : Round) (s : State) : State :=
  let left := r.awaiting.filter fun d => !r.early.contains d
  let s := match dirOf r.line s with
    | some d => setDir { d with donePending := left.length } s
    | none => s
  if r.ask ≠ [] ∨ left ≠ [] then setRound r s
  else
    let s := { s with home := { s.home with rounds := s.home.rounds.filter fun x => x.snoopId != r.snoopId } }
    let entry := match dirOf r.line s with | some d => d.entry | none => 0
    let ent := match dirOf r.line s with | some d => d.ent | none => entry0
    match r.granule with
    | none => nextRecall (landLine r.line entry ent r.data r.lost r.drain.isSome (dropDir r.line s))
    | some key =>
      match (queueOf key s).batch with
      | none => s
      | some b =>
        let s := match dirOf r.line s with
          | some d => if r.kind = 1 then setDir { d with state := 1 } s else s
          | none => s
        if 16 ≤ r.retries then
          let outs := b.accesses.map fun a => (a.id, 2, 0x0805, ([] : Bytes))
          landLine r.line entry ent r.data r.lost false (setBatch key { b with stage := 2, outcomes := outs } s)
        else pumpReads key (setBatch key { b with stage := 1, dirty := if r.lost then none else r.data, lost := r.lost } s)

/-- Two microseconds in reference cycles, rounded up (R11, R125). -/
def zeroCycles : Nat := 313

/-- A device's answer to a round that asked it (R121, R125): the round, the state, and whether the device is dead. A device's first
0b0000 to this home stands until it is readmitted, whichever line's round met it: R125 asks for two rounds at least 2 µs apart
(DEDUCED, log 22). -/
def takeAnswer (d nib : Nat) (r : Round) (s : State) : Round × State × Bool :=
  let rest := r.ask.filter fun k => k != d
  if nib = ansMiss then ({ r with ask := rest }, unlist r.line d s, false)
  else if nib = ansClean ∨ nib = ansDirty then
    let waits := (r.kind != 1 || nib == ansDirty) && !r.early.contains d
    ({ r with ask := rest, awaiting := if waits then insertSorted d r.awaiting else r.awaiting }, s, false)
  else if nib = 0 then
    match tget s.home.zeros d with
    | some z => (r, s, decide (z + zeroCycles ≤ s.refCycles))
    | none => (r, { s with home := { s.home with zeros := tput s.home.zeros d s.refCycles } }, false)
  else (r, s, false)

/-- A round treats a dead device as having answered miss, or as having returned lost data for a line it owned (R126). -/
def roundLoses (d : Nat) (r : Round) (s : State) : State :=
  if !(r.ask.contains d || r.awaiting.contains d) || r.early.contains d then s
  else
    let owned := match dirOf r.line s with | some x => x.state == 2 && x.presence.contains d | none => false
    finishRound { r with ask := r.ask.filter fun k => k != d, awaiting := r.awaiting.filter fun k => k != d,
                         lost := r.lost || owned, data := if owned then none else r.data } (unlist r.line d s)

/-- A device is a dead agent from now on: every round that waits for it goes on (R126). -/
def buryDevice (d : Nat) (s : State) : State :=
  if s.home.dead.contains d then s
  else
    let s := { s with home := { s.home with dead := insertSorted d s.home.dead } }
    s.home.rounds.foldl (fun s r => match roundOf r.line s with | some x => roundLoses d x s | none => s) s

/-- This home declares a device dead, once, and tells every member (R125). -/
def declareDead (d : Nat) (s : State) : State :=
  if s.home.dead.contains d then s
  else buryDevice d (broadcast ctlDead [d] (raise 0x0807 [(evDetail, d)] s))

/-- A dead device takes part again once a composition change has admitted it (R127). -/
def readmit (d : Nat) (s : State) : State :=
  { s with home := { s.home with dead := s.home.dead.filter fun k => k != d, zeros := tdel s.home.zeros d } }

/-- The answers of a returning SNOOP slot: retries are asked again, a request that has met 16 is refused, devices twice
silent are declared dead, and the rest awaited (R121, R125). -/
def roundReturns (id : Nat) (answers : List (Nat × Nat)) (s : State) : State :=
  match s.home.rounds.find? fun r => r.snoopId == id with
  | none => s
  | some r =>
    let own := if r.ask.contains (self s) then
        let gen := match dirOf r.line s with | some d => d.generation | none => 0
        let entry := match dirOf r.line s with | some d => d.entry | none => 0
        let p := answerSnoop s.tide.site { line := r.line, kind := r.kind, requester := r.requester, snoopId := id,
                                           generation := gen, entry := entry, targets := r.ask } s
        ([(self s, p.1)], p.2)
      else (([] : List (Nat × Nat)), s)
    let heard := own.1 ++ answers.filter fun a => a.1 != self s && r.ask.contains a.1
    let t := heard.foldl (fun (acc : Round × State × List Nat) a =>
      let x := takeAnswer a.1 a.2 acc.1 acc.2.1
      (x.1, x.2.1, if x.2.2 then acc.2.2 ++ [a.1] else acc.2.2)) (r, own.2, ([] : List Nat))
    let retried := heard.any fun a => a.2 != ansMiss && a.2 != ansClean && a.2 != ansDirty && a.2 != 0
    let r := { t.1 with retries := t.1.retries + (if retried then 1 else 0) }
    let s := setRound r t.2.1
    let s := t.2.2.foldl (fun s d => declareDead d s) s
    match roundOf r.line s with
    | none => s
    | some r =>
      if 16 ≤ r.retries ∧ r.granule.isSome = true ∧ r.ask ≠ [] then finishRound { r with ask := [] } s
      else if r.ask = [] then finishRound r s
      else reAsk r s

/-- A C_WRITEBACK or C_EVICT_CLEAN of a device (R116, R120, R121, R127): refused for a dead device; taken as its C_SNOOP_DONE
by a round that asks it; else the line is released, a write-back's data written before any access that waits. -/
def releaseAtHome (r : FabReq) (s : State) : State :=
  let d := srcDevice r
  let line := r.address
  let back := r.opcode == opCWriteback
  let lost := back && r.aux % 2 == 1
  let data : Option Bytes := if back && !lost then some (fit 64 r.payload) else none
  if !serves (entryOf r.entry s).charter s then answerTo r opRefuse 0x050A 0 [] s
  else if s.home.dead.contains d then answerTo r opRefuse 0x0806 0 [] s
  else
    let s := answerTo r opAck 0 0 [] s
    match roundOf line s with
    | some x =>
      if (x.ask.contains d || x.awaiting.contains d) && !x.early.contains d then
        finishRound { x with early := insertSorted d x.early, lost := x.lost || lost,
                             data := if lost then none else (match data with | some b => some b | none => x.data) }
          (unlist line d s)
      else s
    | none =>
      match dirOf line s with
      | none => s
      | some x =>
        if !x.presence.contains d then s
        else if x.state = 2 then
          if back then landLine line r.entry x.ent data lost false (dropDir line s) else dropDir line s
        else
          let p := x.presence.filter fun k => k != d
          if p = [] ∧ x.busy = false then dropDir line s else setDir { x with presence := p } s

/-- C_SNOOP_DONE of a device (R121, R127). -/
def snoopDone (r : FabReq) (s : State) : State :=
  let d := srcDevice r
  let line := r.address
  if s.home.dead.contains d then answerTo r opRefuse 0x0806 0 [] s
  else
    let s := answerTo r opAck 0 0 [] s
    match roundOf line s with
    | none => s
    | some x =>
      if !(x.ask.contains d || x.awaiting.contains d) || x.early.contains d then s
      else
        let lost := r.aux % 2 == 1
        let s := if x.kind = 1 then s else unlist line d s
        finishRound { x with early := insertSorted d x.early, lost := x.lost || lost,
                             data := if lost then none else if r.payload = [] then x.data else some (fit 64 r.payload) } s

/-- The answer to a STOW fill: the entry no longer busy, its presence cleared when the target declined (R124). -/
def fillAnswered (device line : Nat) (taken : Bool) (s : State) : State :=
  match dirOf line s with
  | none => s
  | some d =>
    if !d.busy || (roundOf line s).isSome || d.presence ≠ [device] then s
    else if taken then recallStale line (setDir { d with busy := false } s)
    else dropDir line s

/-- The background scan for a dead device: its presence bits cleared, the lines it owned poisoned, the event raised with their
count (R126). -/
def scanDirectory (d : Nat) (s : State) : State :=
  let idle_ := s.home.dir.filter fun x => x.presence.contains d && (roundOf x.line s).isNone
  let r := idle_.foldl (fun (acc : Nat × State) x =>
    if x.state = 2 then
      let e := x.ent
      (acc.1 + 1, pushRequest true { ownAccess opMark x.entry (x.line - e.baseFpa) e [] with aux := 1 } e (dropDir x.line acc.2))
    else
      let p := x.presence.filter fun k => k != d
      (acc.1, if p = [] ∧ x.busy = false then dropDir x.line acc.2 else setDir { x with presence := p } acc.2)) (0, s)
  let n := r.1 + tgetD r.2.home.linesPoisoned d 0
  let s := { r.2 with home := { r.2.home with linesPoisoned := tdel r.2.home.linesPoisoned d } }
  if n = 0 then s else raise 0x080A [(evCount, n)] s

/-- HOME_ADMIT (R48, R109). -/
def execHomeAdmit (r : FabReq) (s : State) : Ans :=
  onCore s fun s =>
    if r.opcode = opFence then fence r s
    else if r.opcode = opCWriteback ∨ r.opcode = opCEvict then releaseAtHome r s
    else if r.opcode = opCDone then snoopDone r s
    else arriveHome r s

/-- C_SNOOP_DONE (R121, R127). -/
def execCSnoopDone (r : FabReq) (s : State) : Ans := onCore s (snoopDone r)

/-- C_STOW_FILL_ANSWER (R124). -/
def execCStowFillAnswer (device line : Nat) (taken : Bool) (s : State) : Ans := onCore s (fillAnswered device line taken)

/-- SNOOP_ROUND_RETURN (R121, R125). -/
def execSnoopRoundReturn (snoopId : Nat) (answers : List (Nat × Nat)) (s : State) : Ans :=
  onCore s (roundReturns snoopId answers)

/-- DEAD_AGENT_NOTICE: another home's declaration of a dead device (R125, R126). -/
def execDeadAgentNotice (device : Nat) (s : State) : Ans := onCore s (buryDevice device)

/-- DIRECTORY_SCAN_DONE (R126). -/
def execDirectoryScanDone (device : Nat) (s : State) : Ans :=
  onCore s fun s => if s.home.dead.contains device then scanDirectory device s else s

end Sys2Proof.Machine
end

