-- ==== Sys2Proof/Machine/Requests.lean ====
section
/-! DEFINITION. Host requests at the ingress device: policing, checks, same-address order, combining and the combining cache
(R46, R66 to R68, R75, R78 to R82, R91 to R93, R102 to R108, R118, R299, R323). -/

namespace Sys2Proof.Machine
open Sys2Proof

/-! Checks before translation. -/

/-- A request's length as policing counts it: 16 bytes per unit, plus the context's overhead (R317, R323). -/
def lengthOf (r : HostReq) (s : State) : Nat := 32 + roundUp r.payload.length 16 + tgetD s.pilot.overheads r.ctx 16

/-- An ATOMIC's aux and operand address (R94). -/
def atomicCode (r : HostReq) : Nat :=
  let op := r.aux % 16
  let size := atomicBytes r.aux
  if 4 < op ∨ (op = 4 ∧ size = 8) ∨ 128 ≤ r.aux ∨ (bit r.aux 5 = true ∧ op ≠ 1 ∧ op ≠ 2) then 0x0602
  else if r.address % size ≠ 0 then 0x0603
  else 0

/-- Length and alignment faults that need no translation (R92, R94). -/
def lengthFault (op address length aux : Nat) : Bool :=
  if op = opRead ∨ op = opReadAcq ∨ op = opWrite ∨ op = opStow then decide (256 < address % 256 + length)
  else if op = opWritePartial then decide (address % 64 ≠ 0 ∨ length ≠ 64)
  else if op = opWriteSeal ∨ op = opPublish then decide (address % 8 ≠ 0)
  else if op = opAcquire ∨ op = opFence then decide (length ≠ 1)
  else if op = opAtomic then decide (length ≠ atomicBytes aux * (if aux % 16 = 3 then 2 else 1))
  else false

/-- Those of a host's request. -/
def lengthBad (op : Nat) (r : HostReq) : Bool := lengthFault op r.address r.length r.aux

/-- The opcodes that a host may send as pool requests (R91, R116): none undefined, no ATTEMPT_FENCE, and of the coherent class those
that R116 sends from a host (the last DEDUCED, log 22). -/
def hostOpcode (op : Nat) : Bool :=
  [opRead, opReadAcq, opAcquire, opWrite, opWritePartial, opWriteSeal, opStow, opAtomic, opPublish, opCShared, opCOwn, opCUpgrade,
    opCWriteback, opCEvict].contains op

/-- Bytes a request touches from its address (R91, R94). -/
def spanOf (op : Nat) (r : HostReq) : Nat :=
  if op = opAtomic then atomicBytes r.aux
  else if op = opWriteSeal then 8
  else if op = opPublish then 16
  else r.length

/-- The acquired range of READ_ACQ or ACQUIRE: start and granules (R78, R91). -/
def rangeOf (op : Nat) (r : HostReq) : Nat × Nat := (if op = opReadAcq then fld r.payload 0 7 else r.address, r.aux)

/-- A write's ingress refusal recorded against its host's window for its home; 64 stands for every home where the entry is
not known (R75). -/
def noteRefused (host window : Nat) (home : Option Nat) (s : State) : State :=
  let h := home.getD 64
  let l := s.ing.refused.filter fun x => !(x.1 == host && x.2.2 == window && decide (128 ≤ x.2.1) && h == 64)
  { s with ing := { s.ing with refused := if l.contains (host, h, window) then l else l ++ [(host, h, window)] } }

/-- Is a seal refused at the ingress device (R75)? -/
def sealSpoiled (host home window : Nat) (s : State) : Bool :=
  s.ing.refused.contains (host, home, window) ||
  (s.ing.refused.contains (host, 64, window) && !s.ing.refused.contains (host, 128 + home, window))

/-- The record of a seal refused at the ingress device is used up for that home (R75). -/
def sealUsed (host home window : Nat) (s : State) : State :=
  let l := s.ing.refused.filter fun x => x != (host, home, window)
  let l := if l.contains (host, 64, window) then l ++ [(host, 128 + home, window)] else l
  { s with ing := { s.ing with refused := l } }

/-- A seal refused at the ingress device with 0x0610 (R75). R95 gives its answer the window's landed count, which only the home holds:
another device's is a free value (log 1). -/
def refuseSeal (host home : Nat) (r : HostReq) (s : State) : State :=
  let d := draw s
  let n := if home = self s then landedOf host r.sealWindow s else d.1 % 2 ^ 32
  let s := if home = self s then s else d.2
  toHost host (some r.charter)
    { opcode := opRefuse, dstEngine := false, destination := host, tag := r.tag, reason := 0x0610, ll := s.home.ll,
      responder := self s, parts := 1, aux := n, data := [] } (recordReason 0x0610 s)

/-- The checks of a request in order: its code, and the entry and offset when they all pass (R46, R78, R91, R92, R94, R116,
R123, R343). A desynchronised member answers 0x050A before it translates: R51 gives neither the code nor its place (DESIGN CHOICE, log 21). -/
def requestCode (op host : Nat) (r : HostReq) (s : State) : Nat × Option Nat × Nat :=
  let a := if !hostOpcode op then 0x0601 else if op = opAtomic then atomicCode r else 0
  if a ≠ 0 then (a, none, 0)
  else if lengthBad op r then (0x0604, none, 0)
  else if !serves r.charter s then (0x050A, none, 0)
  else
    let t := translate r.charter r.address host (needOf op) s
    if t.1 ≠ 0 then t
    else
      let i := t.2.1.getD 0
      let e := entryOf i s
      let g := rangeOf op r
      let first := if op = opReadAcq then (translate r.charter g.1 host .read s).1 else 0
      let coherent := decide (opCShared ≤ op)
      let target := r.aux % 256
      let code := firstCode [
        (decide (extentBytes e.sizeCode < t.2.2 + spanOf op r), 0x0604),
        (op == opReadAcq && first != 0, first),
        ((op == opReadAcq || op == opAcquire) && rangeBad r.charter g.1 g.2 s, 0x0615),
        (coherent && (r.length != 64 || decide (r.address % 64 ≠ 0)), 0x0803),
        (coherent && (!coherentHost host s || e.cls != 1), 0x0802),
        (op == opStow && (decide (128 ≤ target) || (decide (64 ≤ target) && !deviceMember (target % 64) s)), 0x0801),
        (s.ing.lostHomes.contains e.homeDevice, 0x0625)]
      (code, some i, t.2.2)

/-! Acquires. -/

/-- What an acquire of a host does (R78): lines of the range dropped, later reads barred from windows opened before. -/
def acquireRange (host charter start granules : Nat) (s : State) : State :=
  let off (entry g : Nat) : Nat := g - (entryOf entry s).baseFpa
  let lines := s.ing.cache.filter fun p => p.2.charter == charter && inRange charter start granules p.2.entry (off p.2.entry p.1) s
  let s := lines.foldl (fun s p => dropGranule p.1 s) s
  { s with ing := { s.ing with reads := s.ing.reads.map fun w =>
      if w.charter == charter && inRange charter start granules w.entry (off w.entry w.granule) s then
        { w with barred := insertSorted host w.barred, fill := false } else w } }

/-- A host's acquired range remembered (R80). -/
def noteAcquire (host charter start granules : Nat) (s : State) : State :=
  let x := (host, charter, start, granules)
  if s.ing.acquired.contains x then s else { s with ing := { s.ing with acquired := s.ing.acquired ++ [x] } }

/-- A host's READ_ACQ answered (R78, R80): its range acquired, and with it every range of the charter that the host acquired before,
whose granules a seal just read may cover. -/
def acquireAgain (host charter start granules : Nat) (s : State) : State :=
  let s := noteAcquire host charter start granules s
  (s.ing.acquired.filter fun x => x.1 == host && x.2.1 == charter).foldl
    (fun s x => acquireRange host charter x.2.2.1 x.2.2.2 s) s

/-- After a host's request to granules was performed at the home, no line and no open window gives the host an older value (R68). C
lines are current by the directory. -/
def freshen (host entry : Nat) (gs : List Nat) (s : State) : State :=
  if (entryOf entry s).cls = 1 then s else gs.foldl (fun s g => barWindow host g (dropGranule g s)) s

/-! Windows. -/

/-- Does a host have a part in a read window, or in an atomic window, of a granule (R106)? -/
def inReads (host granule : Nat) (s : State) : Bool :=
  s.ing.reads.any fun w => w.granule == granule && w.parts.any fun p => p.host == host
def inAtoms (host granule : Nat) (s : State) : Bool :=
  s.ing.atoms.any fun w => w.granule == granule && ((w.sent :: w.collecting).any fun l => l.any fun p => p.host == host)

/-- Do two atomics agree, so that they share a window (R104)? -/
def atomsAgree (a b : FabReq) : Bool :=
  a.address == b.address && a.entry == b.entry && a.generation == b.generation && a.charter == b.charter &&
  a.aux % 64 == b.aux % 64 && (a.aux % 16 != 3 || a.payload == b.payload)

/-- The packets of parts. -/
def packetsOf (l : List Part) (s : State) : List FabReq := l.filterMap fun p => (outstOf p.host p.req.tag s).map fun o => o.req

/-- The combined operand of parts in recorded order (R107). -/
def combinedOperand (l : List FabReq) : Bytes :=
  match l with
  | [] => []
  | a :: rest =>
    let n := atomicBytes a.aux
    if a.aux % 16 = 3 then a.payload
    else le n (rest.foldl (fun acc b => atomicNew b.aux acc (fld b.payload 0 n) 0 n) (fld a.payload 0 n))

/-- The parts of a window sent as one atomic (R104): its tag, and the state. It travels in the class of its first part: the spec names none
for a combined request (DESIGN CHOICE, log 22). -/
def sendAtoms (l : List Part) (s : State) : Nat × State :=
  let ps := packetsOf l s
  match ps with
  | [] => (0, s)
  | a :: _ =>
    let e := entryOf a.entry s
    let quiet := ps.all fun b => bit b.aux 6
    let aux := a.aux % 64 + (if quiet then 64 else 0)
    askHome opAtomic a.length a.entry (a.address - e.baseFpa) aux l.length a.tclass (combinedOperand ps) s

/-- Does an atomic join the window that collects for its granule (R104)? -/
def atomJoins (w : AtomWin) (k : FabReq) (s : State) : Bool :=
  match w.collecting.getLast? with
  | some l => decide (l.length < 4096) && (packetsOf l s).all fun b => atomsAgree b k
  | none => false

/-- Room for an atomic behind the one outstanding (R105). -/
def atomRoom (w : AtomWin) (k : FabReq) (s : State) : Bool := if atomJoins w k s then partRoom s else windowRoom s

/-- An ATOMIC (R104): sent at once when none of its granule is outstanding, else collected. -/
def atomicGranule (p : Part) (k : FabReq) (s : State) : State :=
  let g := k.address / 64 * 64
  let s := barWindow p.host g (dropGranule g s)
  match s.ing.atoms.find? fun w => w.granule == g with
  | none =>
    if !windowRoom s then countUncombined (sendAlone p.host p.req.tag s)
    else
      let s := markSent p.host p.req.tag s
      let q := sendAtoms [p] s
      { q.2 with ing := { q.2.ing with atoms := q.2.ing.atoms ++ [{ granule := g, tag := q.1, sent := [p], collecting := [] }] } }
  | some w =>
    if !atomRoom w k s then countUncombined (sendAlone p.host p.req.tag s)
    else
      let coll := if atomJoins w k s then w.collecting.dropLast ++ [(w.collecting.getLast?.getD []) ++ [p]] else w.collecting ++ [[p]]
      markSent p.host p.req.tag { s with ing := { s.ing with atoms := s.ing.atoms.map fun x =>
        if x.granule == g then { x with collecting := coll } else x } }

/-! Order and dispatch. -/

/-- The unit answers or sends a request under the device's name rather than the host's: a READ of one granule, a READ that lines serve, an
ATOMIC, a coherent request (R102 to R104, R116). -/
def unitServed (p : Part) (k : FabReq) (s : State) : Bool :=
  (p.opcode == opRead && ((granulesOf k).length == 1 || (granulesOf k).all fun g => (cacheLine k.entry g s).isSome)) ||
  p.opcode == opAtomic || decide (opCShared ≤ p.opcode)

/-- Must a request wait for an earlier one of its host to a granule it touches (R66, R67, R106, R299)? Two requests that do not travel
under one name in one queue could pass each other, so the later waits (R66; DEDUCED, log 22). -/
def mustHold (p : Part) (k : FabReq) (s : State) : Bool :=
  let gs := granulesOf k
  let meets (o : FabReq) : Bool := (granulesOf o).any gs.contains
  ((s.ing.held ++ s.ing.waiting).any fun q => q.host == p.host && (match outstOf q.host q.req.tag s with
    | some o => meets o.req
    | none => false)) ||
  (s.ing.outst.any fun o => o.host == p.host && o.tag != p.req.tag && o.sent && meets o.req &&
    !gs.any (fun g => inAtoms p.host g s) &&
    (o.req.routeEpoch != s.man.routeEpoch || o.tclass != p.req.tclass || unitServed p k s || decide (opCShared ≤ o.opcode))) ||
  gs.any fun g =>
    inReads p.host g s || (inAtoms p.host g s && (p.opcode != opAtomic || gs.length != 1 ||
      (s.ing.atoms.any fun w => w.granule == g && !atomRoom w k s)))

/-- A checked request goes on: held, served, combined or sent (R102 to R106). -/
def dispatchHost (p : Part) (s : State) : State :=
  match outstOf p.host p.req.tag s with
  | none => s
  | some o =>
    let k := o.req
    let gs := granulesOf k
    if mustHold p k s then { s with ing := { s.ing with held := s.ing.held ++ [p] } }
    else if opCWriteback = p.opcode ∨ opCEvict = p.opcode then
      releaseLine p k.entry (k.address - (entryOf k.entry s).baseFpa) (markSent p.host p.req.tag s)
    else if opCShared ≤ p.opcode then
      askCoherent p k.entry (k.address - (entryOf k.entry s).baseFpa) (markSent p.host p.req.tag s)
    else if p.opcode = opRead then
      match gs with
      | [_] => readGranule p k s
      | _ =>
        let ls := gs.map fun g => cacheLine k.entry g s
        if ls.all Option.isSome then
          let all := ls.flatMap fun c => (c.map fun c => c.data).getD []
          hostReply p opData 0 (slice all (k.address % 64) k.length) s
        else sendAlone p.host p.req.tag s
    else if p.opcode = opAtomic then atomicGranule p k s
    else if p.opcode = opReadAcq then sendAlone p.host p.req.tag s
    else
      let s := gs.foldl (fun s g => barWindow p.host g (dropGranule g s)) s
      sendAlone p.host p.req.tag s

/-- Held requests taken up again in their order. -/
def wakeHeld (s : State) : State :=
  let l := s.ing.held
  l.foldl (fun s p => dispatchHost p s) { s with ing := { s.ing with held := [] } }

/-- A request admitted at the ingress device: its tag, its checks, then its way (R46, R75, R91, R93). -/
def admitHost (p : Part) (s : State) : State :=
  let r := p.req
  let h := p.host
  if (outstOf h r.tag s).isSome then refuseHost h r.tag 0x0608 s
  else
    let c := requestCode p.opcode h r s
    if c.1 ≠ 0 then
      let r46 := [0x0501, 0x0502, 0x0503, 0x0504, 0x0505, 0x0506].contains c.1
      let counted := p.opcode == opWrite || p.opcode == opWritePartial || p.opcode == opStow
      let s := if r46 && counted then noteRefused h r.sealWindow (c.2.1.map fun i => (entryOf i s).homeDevice) s else s
      refuseHost h r.tag c.1 s
    else
      let entry := c.2.1.getD 0
      let k := packetOf p.opcode h r entry c.2.2 s
      if p.opcode = opAcquire then
        let g := rangeOf opAcquire r
        let s := noteAcquire h r.charter g.1 g.2 (acquireRange h r.charter g.1 g.2 s)
        let a : Resp := { opcode := opAck, dstEngine := false, destination := h, tag := r.tag, reason := 0,
                          ll := s.home.ll, responder := self s, parts := 1, aux := 0, data := [] }
        toHost h (some r.charter) a s
      else if p.opcode = opWriteSeal ∧ sealSpoiled h k.home r.sealWindow s = true then
        refuseSeal h k.home r (sealUsed h k.home r.sealWindow s)
      else
        let o : Outst := { host := h, ctx := r.ctx, tag := r.tag, tclass := r.tclass, opcode := p.opcode, req := k,
                           sent := false, waits := false, engine := none, since := s.refCycles }
        let s := { s with ing := { s.ing with outst := s.ing.outst ++ [o] } }
        let n := outstandingOf h s
        let s := hostRecord h r.tclass (fun x => (x.1, max x.2.1 (min n 8191), x.2.2.1, x.2.2.2)) s
        dispatchHost p s

/-- A host over its limits: its outstanding limit reached, or no balance left (R323). -/
def overLimit (host : Nat) (s : State) : Bool :=
  let h := hostOf host s
  decide (h.limit ≤ outstandingOf host s) || decide (h.balance ≤ 0)

/-- A request passes policing: its length is taken from the balance (R323). -/
def passPolice (p : Part) (s : State) : State :=
  let h := hostOf p.host s
  admitHost p (setHost p.host { h with balance := h.balance - (lengthOf p.req s : Int) } s)

/-- Requests held by policing admitted in order while their hosts' limits allow (R323). -/
def wakePoliced (s : State) : State :=
  let l := s.ing.policed
  l.foldl (fun s p =>
    if overLimit p.host s || s.ing.policed.any (fun q => q.host == p.host) then
      { s with ing := { s.ing with policed := s.ing.policed ++ [p] } }
    else passPolice p s) { s with ing := { s.ing with policed := [] } }

/-- A request of a host arrives on a context: held by policing or admitted (R323). -/
def hostArrive (op : Nat) (r : HostReq) (s : State) : State :=
  match hostAt r.ctx s with
  | none => s
  | some c =>
    let p : Part := { host := c.host, opcode := op, req := r }
    if overLimit c.host s || s.ing.policed.any (fun q => q.host == c.host) then
      let h := hostOf c.host s
      let first := !h.heldThisTide.contains r.tclass
      let s := setHost c.host { h with heldThisTide := insertSorted r.tclass h.heldThisTide } s
      let s := if first then
          hostRecord c.host r.tclass (fun x => (x.1, x.2.1, x.2.2.1, min 0x7FFFFFF (x.2.2.2 + 1))) s else s
      raiseLimited 0x0408 c.host 0 [(evHost, c.host)] 1 { s with ing := { s.ing with policed := s.ing.policed ++ [p] } }
    else passPolice p s

/-! Responses. -/

/-- What part i of a combined atomic receives, from the old value and the parts before it (R107). -/
def rebuilt (v : Nat) (l : List FabReq) (i : Nat) : Nat :=
  match l with
  | [] => v
  | a :: _ =>
    let n := atomicBytes a.aux
    let before := l.take i
    let op := a.aux % 16
    if i = 0 then v
    else if op = 3 then (if v = fld a.payload 0 n then fld a.payload n n else v)
    else if op = 4 then
      match before with
      | [] => v
      | b :: rest =>
        let sum := rest.foldl (fun acc c => atomicNew 4 acc (fld c.payload 0 4) 0 4) (fld b.payload 0 4)
        atomicNew 4 v sum 0 4
    else before.foldl (fun acc b => atomicNew b.aux acc (fld b.payload 0 n) 0 n) v

/-- A combined request replayed: each part sent uncombined in recorded order, the event raised (R108). -/
def replayParts (l : List Part) (granule : Nat) (s : State) : State :=
  let s := l.foldl (fun s p => sendAlone p.host p.req.tag s) s
  raise 0x0701 [(evAddress, granule), (evCount, l.length)] s

/-- The next collected window of a granule sent, or the granule's atomics over (R104). -/
def nextAtoms (granule : Nat) (s : State) : State :=
  match s.ing.atoms.find? fun w => w.granule == granule with
  | none => s
  | some w =>
    match w.collecting with
    | [] => { s with ing := { s.ing with atoms := s.ing.atoms.filter fun x => x.granule != granule } }
    | l :: rest =>
      let q := sendAtoms l s
      { q.2 with ing := { q.2.ing with atoms := q.2.ing.atoms.map fun x =>
          if x.granule == granule then { x with tag := q.1, sent := l, collecting := rest } else x } }

/-- The larger of a received LL and this device's own (R98). -/
def relayLl (r : Resp) (s : State) : Resp := { r with ll := max r.ll s.home.ll }

/-- A request of the device sent again under the current map, with a new tag (R56, R108). -/
def resendOwn (o : Outst) (s : State) : Nat × State :=
  let e := entryOf o.req.entry s
  let p := o.req
  let tag := s.ing.nextTag
  let k := { p with tag := tag, routeEpoch := s.man.routeEpoch, home := if e.state = 1 then e.homeDevice else p.home }
  let ing := { s.ing with nextTag := (tag + 1) % 65536, outst := s.ing.outst ++ [{ o with tag := tag, req := k }] }
  (tag, sendFrom (enginePort o.engine) k { s with ing := ing })

/-- A read window's answer (R81, R103, R108). -/
def readWindowAnswer (w : ReadWin) (o : Outst) (r : Resp) (s : State) : State :=
  let r := relayLl r s
  let ps := w.parts
  let s := { s with ing := { s.ing with reads := s.ing.reads.filter fun x => x.granule != w.granule } }
  let give (s : State) : State := ps.foldl (fun s p =>
    match outstOf p.host p.req.tag s with
    | none => s
    | some x =>
      let d := if r.opcode = opData then partBytes x.req r.data else []
      answerHost p.host p.req.tag { r with data := d, parts := 1 } s) s
  let s := match filterOf w.granule s with
    | none => s
    | some f =>
      if o.opcode ≠ opCShared then s
      else if r.opcode = opData ∧ w.fill = true then setFilter { f with asking := none, state := 1, cached := true } s
      else if r.opcode = opData ∧ f.holders = [] then sendRelease opCEvict [] none { f with asking := none, state := 1 } s
      else if r.opcode = opData then setFilter { f with asking := none, state := 1 } s
      else if f.holders = [] then dropFilter w.granule s
      else setFilter { f with asking := none } s
  let s := if r.opcode = opData ∧ w.fill = true then fillLine o.req.entry w.granule r.data s else s
  let s := if r.opcode = opPoison ∧ charterState w.charter s = 2 ∧ isConfidential w.charter s = true then
      countRemoval w.charter ps.length 0 0 s else s
  let s := if r.opcode = opRefuse ∧ 1 < ps.length then replayParts ps w.granule s else give s
  wakeHeld (wakeLines s)

/-- An atomic window's answer: return values rebuilt, or the parts replayed; the next window sent (R104, R107, R108). -/
def atomWindowAnswer (w : AtomWin) (r : Resp) (s : State) : State :=
  let r := relayLl r s
  let ps := packetsOf w.sent s
  let n := match ps with | a :: _ => atomicBytes a.aux | [] => 8
  let v := fld r.data 0 n
  let s := if r.opcode = opRefuse ∧ 1 < w.sent.length then replayParts w.sent w.granule s
    else (w.sent.zipIdx).foldl (fun s p =>
      match outstOf p.1.host p.1.req.tag s with
      | none => s
      | some x =>
        let quiet := bit x.req.aux 6
        let good := r.opcode == opData || r.opcode == opAck
        let out : Resp := if !good then r
          else if quiet then { r with opcode := opAck, data := [] }
          else { r with opcode := opData, data := le n (rebuilt v ps p.2) }
        answerHost p.1.host p.1.req.tag { out with parts := 1 } s) s
  let entry := match ps with | a :: _ => a.entry | [] => 0
  let s := w.sent.foldl (fun s p => freshen p.host entry [w.granule] s) s
  wakeHeld (nextAtoms w.granule s)

/-- A host's own request answered (R67, R78): a REROUTE also returns its held requests to the granules; READ_ACQ acquires its
range first; what was read or written makes older copies useless to the host (R68). -/
def aloneAnswer (o : Outst) (r : Resp) (s : State) : State :=
  if r.opcode = opRefuse ∧ r.reason = 0x0507 then
    let gs := granulesOf o.req
    let touched (p : Part) : Bool := p.host == o.host && (match outstOf p.host p.req.tag s with
      | some x => (granulesOf x.req).any gs.contains
      | none => false)
    let back := s.ing.held.filter touched
    let s := { s with ing := { s.ing with held := s.ing.held.filter fun p => !touched p } }
    let s := answerHost o.host o.tag r s
    let s := back.foldl (fun s p => hostReply p opRefuse 0x0507 [] s) s
    wakeHeld s
  else
    let s := if o.opcode = opReadAcq then acquireAgain o.host o.req.charter (fld o.req.payload 0 7) o.req.aux s else s
    let s := freshen o.host o.req.entry (granulesOf o.req) s
    wakeHeld (answerHost o.host o.tag r s)

/-- C_RECALL_ANSWER (R113, R116). -/
def execCRecallAnswer (host line : Nat) (data : Option Bytes) (s : State) : Ans :=
  onCore s fun s => wakeHeld (recallAnswer false host line (data.map (fit 64)) false s)

/-- HOST_RECALL_TIMEOUT: a coherent host that has not answered a C_RECALL for 4 µs is declared dead (R113, R125). -/
def execHostRecallTimeout (host line : Nat) (s : State) : Ans :=
  onCore s fun s =>
    match filterOf line s with
    | none => s
    | some f =>
      if f.recalls.any fun r => r.1 == host then
        wakeHeld (hostDies host (raise 0x0808 [(evHost, host), (evAddress, line)] s)) else s

/-- READ (R103, R118). -/
def execRead (r : HostReq) (s : State) : Ans := onCore s (hostArrive opRead r)

/-- READ_ACQ (R78). -/
def execReadAcq (r : HostReq) (s : State) : Ans := onCore s (hostArrive opReadAcq r)

/-- ACQUIRE (R78, R91). -/
def execAcquire (r : HostReq) (s : State) : Ans := onCore s (hostArrive opAcquire r)

/-- WRITE (R62, R91). -/
def execWrite (r : HostReq) (s : State) : Ans := onCore s (hostArrive opWrite r)

/-- WRITE_PARTIAL (R91). -/
def execWritePartial (r : HostReq) (s : State) : Ans := onCore s (hostArrive opWritePartial r)

/-- WRITE_SEAL (R72, R75). -/
def execWriteSeal (r : HostReq) (s : State) : Ans := onCore s (hostArrive opWriteSeal r)

/-- STOW (R123). -/
def execStow (r : HostReq) (s : State) : Ans := onCore s (hostArrive opStow r)

/-- ATOMIC (R94, R104). -/
def execAtomic (r : HostReq) (s : State) : Ans := onCore s (hostArrive opAtomic r)

/-- REGION_PUBLISH (R99, R100). -/
def execRegionPublish (r : HostReq) (s : State) : Ans := onCore s (hostArrive opPublish r)

/-- C_READ_SHARED of a coherent host (R116). -/
def execCReadShared (r : HostReq) (s : State) : Ans := onCore s (hostArrive opCShared r)

/-- C_READ_OWN of a coherent host (R116). -/
def execCReadOwn (r : HostReq) (s : State) : Ans := onCore s (hostArrive opCOwn r)

/-- C_UPGRADE of a coherent host (R116). -/
def execCUpgrade (r : HostReq) (s : State) : Ans := onCore s (hostArrive opCUpgrade r)

/-- C_WRITEBACK of a coherent host (R117). -/
def execCWriteback (r : HostReq) (s : State) : Ans := onCore s (hostArrive opCWriteback r)

/-- C_EVICT_CLEAN of a coherent host (R117). -/
def execCEvictClean (r : HostReq) (s : State) : Ans := onCore s (hostArrive opCEvict r)

end Sys2Proof.Machine
end

