-- ==== Sys2Proof/Machine/Jobs.lean ====
section
/-! DEFINITION. What every engine job shares: Stage and pool accesses of a job (R61, R83 to R85, R92, R164, R251, R387,
R487), its fences, seals and stop (R148, R174, R199, R244, R364, R365), and the engines' tide budgets (R34 to R36). -/

namespace Sys2Proof.Machine
open Sys2Proof

/-! Stage space. -/

/-- First byte of the device region (R251). -/
def stageTop : Nat := 0x8C00000000

/-- An area lies within what descriptors may address; one that firmware chose itself (`fw`) lies in firmware's partition (R251). -/
def stageArea (fw : Bool) (a n : Nat) : Bool :=
  if fw then decide (stageTop ≤ a ∧ a + n ≤ 0x8E00000000) else decide (a + n ≤ stageTop)

/-- Do two areas overlap? -/
def overlap (a n b m : Nat) : Bool := decide (n ≠ 0 ∧ m ≠ 0 ∧ a < b + m ∧ b < a + n)

/-- The 4 KiB pages that an area touches. -/
def pagesIn (a n : Nat) : List Nat := if n = 0 then [] else upto (a / 4096) ((a + n - 1) / 4096 + 1 - a / 4096)

/-- The 64-byte granules that an area touches, by their first bytes. -/
def granulesIn (a n : Nat) : List Nat :=
  if n = 0 then [] else (upto (a / 64) ((a + n - 1) / 64 + 1 - a / 64)).map fun g => 64 * g

/-- Some page of the area belongs to another, confidential charter (R387). -/
def pageForeign (charter a n : Nat) (s : State) : Bool :=
  (pagesIn a n).any fun p => match tget s.sec.stagePages p with
    | some c => c.1 != charter
    | none => false

/-- Some page of the area is the charter's own, under an epoch whose key is not held (R387, R397, R399). -/
def pageLocked (charter a n : Nat) (s : State) : Bool :=
  (pagesIn a n).any fun p => match tget s.sec.stagePages p with
    | some c => c.1 == charter && (keyAt charter c.2 s).isNone
    | none => false

/-- Stage bytes as a job of a charter reads them: poison where a granule is poisoned, a page is another charter's or its key is gone
(R387, R399, R485). -/
def stageRead (charter a n : Nat) (s : State) : Option Bytes :=
  if pageForeign charter a n s || pageLocked charter a n s then none
  else if (granulesIn a n).any fun g => isPoison (mread s.stage g 64) then none
  else some (mread s.stage a n)

/-- The XTS tweak of a Stage granule: its address with bit 127 set (R385). -/
def stageTweak (a : Nat) : Nat := 2 ^ 127 + a

/-- A Stage page's plaintext turned into the ciphertext that the controllers hold (R385). -/
def cipherPage (key : Bytes) (page : Nat) (m : List Host.Cell) : List Host.Cell :=
  (List.range 64).foldl (fun m i =>
    mwrite m (4096 * page + 64 * i)
      (fit 64 (Config.xtsEnc key (stageTweak (4096 * page + 64 * i)) (mread m (4096 * page + 64 * i) 64)))) m

/-- A charter's Stage pages as they stay once its keys are gone: the ciphertext (R385, R398). -/
def lockStage (c : Nat) (s : State) : State :=
  (s.sec.stagePages.filter fun p => p.2.1 == c).foldl (fun s p =>
    match tget s.sec.keys (2 * c + p.2.2 % 2) with
    | none => s
    | some k => { s with stage := cipherPage k p.1 s.stage }) s

/-- The code of a Stage write whose charter has no key to encrypt it with (R397, R399). -/
def noStageKey (charter : Nat) (s : State) : Nat :=
  if !isConfidential charter s || (keyAt charter (epochOf charter s) s).isSome then 0
  else if s.sec.zeroized.contains charter then 0x1006 else 0x1003

/-- Stage pages taken by a confidential charter at its current epoch (R387). -/
def takePages (charter a n : Nat) (s : State) : State :=
  if isConfidential charter s then
    { s with sec := { s.sec with
        stagePages := (pagesIn a n).foldl (fun t p => tput t p (charter, epochOf charter s)) s.sec.stagePages } }
  else s

/-- The memory with every granule that an area touches poisoned (R486). -/
def stampArea (a n : Nat) (m : List Host.Cell) : List Host.Cell :=
  (granulesIn a n).foldl (fun m g => mwrite m g stamp) m

/-- The granules an area covers in part that are poisoned: they stay so, for only a whole write clears poison (R97, R486). -/
def keptPoison (a n : Nat) (s : State) : List Nat :=
  (granulesIn a n).filter fun g => !decide (a ≤ g ∧ g + 64 ≤ a + n) && isPoison (mread s.stage g 64)

/-- A Stage write of a job: bytes, or poison; code 0x1010 and no change where a page is another charter's, and none without a key (R387,
R399, R486). A poisoned
granule that it covers only in part stays poisoned. -/
def stageWrite (charter a n : Nat) (d : Option Bytes) (s : State) : Nat × State :=
  if pageForeign charter a n s then (0x1010, s)
  else if noStageKey charter s ≠ 0 then (noStageKey charter s, s)
  else
    let s := takePages charter a n s
    match d with
    | some b => (0, { s with stage := (keptPoison a n s).foldl (fun m g => mwrite m g stamp) (mwrite s.stage a (b.take n)) })
    | none => (0, { s with stage := stampArea a n s.stage })

/-- Stage reads that met errors: granules beyond correction return poison and are stamped, each reported; more than 256
corrected errors of a stack within 1 s are reported (R487). -/
def stageErrors (bad corrected : List Nat) (s : State) : State :=
  let s := bad.foldl (fun s a =>
    raise 0x0F01 [(evAddress, a)] { s with stage := stampArea (a / 64 * 64) 64 s.stage }) s
  corrected.foldl (fun s k =>
    let l := (tgetD s.tel.corrected k []).filter (fun c => decide (s.refCycles < c + 156250000)) ++ [s.refCycles]
    let s := { s with tel := { s.tel with corrected := tput s.tel.corrected k l } }
    if 256 < l.length then raise 0x0F02 [(evDetail, k)] { s with tel := { s.tel with corrected := tput s.tel.corrected k [] } }
    else s) s

/-! A job's pool accesses. -/

/-- A job's charter. -/
def descCharter (d : JobDesc) : Nat :=
  match d with
  | .crane d => d.charter
  | .stev d => d.charter
  | .cust d => d.charter
  | .codec d => d.charter
  | .stream d => d.charter
  | .copy d => d.charter
  | .place d => d.charter

/-- The charter of a job. -/
def charterOf (j : Job) : Nat := descCharter j.desc

/-- The number that stands for a job in the outstanding table. -/
def jobHost (key : Nat) : Nat := 8192 + key

/-- Is a job's number in the outstanding table? -/
def jobRow (host : Nat) : Bool := decide (8192 ≤ host)

/-- Requests of a job outstanding. -/
def jobOuts (key : Nat) (s : State) : List Outst := s.ing.outst.filter fun o => o.host == jobHost key

/-- Reads of a job's present attempt outstanding; `sent` is cleared in those of a superseded one. -/
def readsOut (key : Nat) (s : State) : List Outst := (jobOuts key s).filter fun o => o.opcode == opRead && o.sent

/-- The reads of a job outstanding are superseded: what they bring is discarded (R362). -/
def supersede (key : Nat) (s : State) : State :=
  let f (o : Outst) : Outst := if o.host == jobHost key && o.opcode == opRead then { o with sent := false } else o
  { s with ing := { s.ing with outst := s.ing.outst.map f } }

/-- A write or a seal. -/
def writeOp (op : Nat) : Bool := op == opWrite || op == opWritePartial || op == opWriteSeal

/-- Requests of the present attempt that are not reads (R148, R174). -/
def writesOut (j : Job) (s : State) : List Outst :=
  (jobOuts (keyOf j) s).filter fun o => o.opcode != opRead && o.req.attempt == j.attempt

/-- Translation of a job's pool address in its charter (R46, R51, R163, R343): the code of the first check that fails, the entry's
index and the offset. -/
def jobTranslate (charter va : Nat) (write : Bool) (s : State) : Nat × Nat × Nat :=
  let f := findExtent charter va s
  if !serves charter s then (0x050A, 0, 0)
  else if f.1 ≠ 0 then f
  else
    let e := entryOf f.2.1 s
    let c := if e.state = 2 then 0x0506 else if e.state ≠ 1 then 0x0503
      else if e.charter ≠ charter then 0x0504 else if write ∧ e.readOnly = true then 0x0505
      else if s.ing.lostHomes.contains e.homeDevice then 0x0625 else 0
    (c, f.2.1, f.2.2)

/-- The job stops at the next boundary with a code; the first code stands (R148, R166, R175). -/
def stopJob (key code : Nat) (s : State) : State :=
  match jobOf key s with
  | none => s
  | some j =>
    match j.phase with
    | .running => setJob { j with phase := .stopping code } s
    | _ => s

/-- Two requests of a job touch a common granule. -/
def meetsReq (a b : FabReq) : Bool := (granulesOf a).any (granulesOf b).contains

/-- A request of a job by one of its engines, every field filled (R89, R90); one whose length is wrong or that fails translation stops the job (R92, R175). A
home that has performed the job's seal is sent nothing more (R364). A request waits while an earlier one of the job to a granule it
touches is unanswered, so that the home performs them in program order (R66). -/
def jobAsk (key : Nat) (engine : Option Nat) (op len va aux : Nat) (payload : Bytes) (s : State) : State :=
  match jobOf key s with
  | none => s
  | some j =>
    let t := jobTranslate (charterOf j) va (writeOp op) s
    let e := entryOf t.2.1 s
    let c := if lengthFault op va len aux then 0x0604 else if t.1 ≠ 0 then t.1
      else if extentBytes e.sizeCode < t.2.2 + len then 0x0604 else 0
    if c ≠ 0 then stopJob key c (recordReason c s)
    else if op ≠ opRead ∧ j.sealed.contains e.homeDevice = true then s
    else
      let tag := s.ing.nextTag
      let counted := op == opWrite || op == opWritePartial
      let r : FabReq :=
        { opcode := op, length := len, charter := charterOf j, srcEngine := true, source := devSource (self s),
          tag := tag, address := e.baseFpa + t.2.2, entry := t.2.1, generation := e.generation,
          routeEpoch := s.man.routeEpoch, home := e.homeDevice, tclass := Config.streamClass key 0,
          sealWindow := if op = opRead then 0 else j.attempt, jobValid := decide (op ≠ opRead),
          jobDevice := if op = opRead then 0 else j.device, jobSlot := if op = opRead then 0 else j.slot,
          attempt := if op = opRead then 0 else j.attempt, parts := 1, aux := aux, payload := payload }
      let waits := (jobOuts key s).any fun x => x.opcode != opFence && meetsReq x.req r
      let o : Outst := { host := jobHost key, ctx := 0, tag := tag, tclass := r.tclass, opcode := op,
                         req := r, sent := true, waits := waits, engine := engine, since := s.refCycles }
      let j' := if counted then { j with sent := tput j.sent e.homeDevice (tgetD j.sent e.homeDevice 0 + 1) } else j
      let s := setJob j' { s with ing := { s.ing with nextTag := (tag + 1) % 65536, outst := s.ing.outst ++ [o] } }
      if waits then s else sendFrom (enginePort engine) r s

/-- A waiting request of a job taken up: sent once no other request of the job to its granules is unanswered or waits before it; given up
where the job writes no more, or its attempt is over, or its home has performed the seal (R66, R148, R362, R364). -/
def freeOne (j : Job) (o : Outst) (s : State) : State :=
  let mine := jobOuts (keyOf j) s
  let before := mine.takeWhile fun x => x.tag != o.tag
  let dead := j.phase != .running || !o.sent || (o.opcode != opRead && (o.req.attempt != j.attempt || j.sealed.contains o.req.home))
  if dead then { s with ing := { s.ing with outst := s.ing.outst.erase o } }
  else if mine.any fun x => x.tag != o.tag && x.opcode != opFence && meetsReq x.req o.req && (!x.waits || before.contains x) then s
  else
    let r := { o.req with routeEpoch := s.man.routeEpoch }
    sendFrom (enginePort o.engine) r
      { s with ing := { s.ing with outst := s.ing.outst.map fun x => if x == o then { x with waits := false, req := r } else x } }

/-- A job's waiting requests taken up in their order (R66). -/
def freeJob (key : Nat) (s : State) : State :=
  match jobOf key s with
  | none => { s with ing := { s.ing with outst := s.ing.outst.filter fun o => !(o.host == jobHost key && o.waits) } }
  | some j => ((jobOuts key s).filter fun o => o.waits).foldl (fun s o => freeOne j o s) s

/-- ATTEMPT_FENCE to a home, which names no address (R85). -/
def jobFence (key homeDev : Nat) (s : State) : State :=
  match jobOf key s with
  | none => s
  | some j =>
    let tag := s.ing.nextTag
    let r : FabReq :=
      { opcode := opFence, length := 1, charter := charterOf j, srcEngine := true, source := devSource (self s),
        tag := tag, address := 0, entry := 0, generation := 0, routeEpoch := s.man.routeEpoch, home := homeDev,
        tclass := Config.streamClass key 0, sealWindow := 0, jobValid := true, jobDevice := j.device,
        jobSlot := j.slot, attempt := j.attempt, parts := 1, aux := 0, payload := [] }
    let o : Outst := { host := jobHost key, ctx := 0, tag := tag, tclass := r.tclass, opcode := opFence,
                       req := r, sent := true, waits := false, engine := none, since := s.refCycles }
    sendFabric r { s with ing := { s.ing with nextTag := (tag + 1) % 65536, outst := s.ing.outst ++ [o] } }

/-- An area cut at 256-byte aligned boundaries (R92, R164): addresses and lengths. -/
def pieces256 (a n : Nat) : List (Nat × Nat) :=
  if n = 0 then []
  else (upto (a / 256) ((a + n - 1) / 256 + 1 - a / 256)).map fun p =>
    let lo := max a (256 * p)
    (lo, min (a + n) (256 * p + 256) - lo)

/-- A pool write of a job: bytes, or the whole granules it touches written as poisoned (R164, R486). -/
def poolWrite (key : Nat) (engine : Option Nat) (a n : Nat) (d : Option Bytes) (s : State) : State :=
  match d with
  | some b => (pieces256 a n).foldl (fun s p => jobAsk key engine opWrite p.2 p.1 0 (slice b (p.1 - a) p.2) s) s
  | none => (granulesIn a n).foldl (fun s g => jobAsk key engine opWrite 64 g 0 stamp s) s

/-- An output of a job, in pool or in Stage; a Stage write to another charter's page stops the job (R387). -/
def outWrite (key : Nat) (engine : Option Nat) (pool : Bool) (a n : Nat) (d : Option Bytes) (s : State) : State :=
  if n = 0 then s
  else if pool then poolWrite key engine a n d s
  else
    match jobOf key s with
    | none => s
    | some j =>
      let w := stageWrite (charterOf j) a n d s
      if w.1 = 0 then w.2 else stopJob key w.1 (recordReason w.1 w.2)

/-- Pool reads that an engine has outstanding, over all jobs (R177, R197). -/
def engineReads (book : Nat) (s : State) : Nat := s.ing.outst.countP fun o => o.engine == some book && o.opcode == opRead

/-- Bytes of an engine's pool reads outstanding or landed and not yet used (R182). -/
def engineBytes (book : Nat) (s : State) : Nat :=
  ((s.ing.outst.filter fun o => o.engine == some book && o.opcode == opRead).map fun o => o.req.length).sum +
  (s.acc.jobs.map fun j => ((j.landing.filter fun x => x.engine == some book).map fun x => x.data.length).sum).sum

/-- What landed of a piece that begins at a pool address: its poison mark and bytes. -/
def landedPiece (j : Job) (p : Nat × Nat) (s : State) : Option (Bool × Bytes) :=
  let t := jobTranslate (charterOf j) p.1 false s
  if t.1 ≠ 0 then none
  else
    let fpa := (entryOf t.2.1 s).baseFpa + t.2.2
    (j.landing.find? fun x => x.address == fpa && decide (p.2 ≤ x.data.length ∨ x.poison = true)).map fun x => (x.poison, x.data.take p.2)

/-- A pool input as it has landed: none while a piece is missing, poison when a piece is poisoned. -/
def poolRead (j : Job) (a n : Nat) (s : State) : Option (Option Bytes) :=
  (pieces256 a n).foldl (fun acc p =>
    match acc, landedPiece j p s with
    | some (some b), some (false, d) => some (some (b ++ d))
    | some _, some _ => some none
    | _, _ => none) (some (some []))

/-- A job's input in either space. -/
def areaRead (j : Job) (pool : Bool) (a n : Nat) (s : State) : Option (Option Bytes) :=
  if pool then poolRead j a n s else some (stageRead (charterOf j) a n s)

/-- The piece is being read. -/
def pieceAsked (j : Job) (p : Nat × Nat) (s : State) : Bool :=
  let t := jobTranslate (charterOf j) p.1 false s
  let fpa := (entryOf t.2.1 s).baseFpa + t.2.2
  (readsOut (keyOf j) s).any fun o => o.req.address == fpa && o.req.length == p.2

/-- One piece of an engine read, when it has neither landed nor been asked for, while the engine has fewer than a limit of reads
outstanding and its ingest buffer has room (R177, R182, R197). -/
def askPiece (key book limit room : Nat) (p : Nat × Nat) (s : State) : State :=
  match jobOf key s with
  | none => s
  | some j =>
    if j.phase ≠ .running then s
    else if (landedPiece j p s).isSome || pieceAsked j p s then s
    else if limit ≤ engineReads book s ∨ room < engineBytes book s + p.2 then s
    else jobAsk key (some book) opRead p.2 p.1 0 [] s

/-- Pieces of an engine read in order (R177, R197). -/
def askPieces (key book limit room : Nat) (ps : List (Nat × Nat)) (s : State) : State :=
  ps.foldl (fun s p => askPiece key book limit room p s) s

/-- The first landing at an address taken out. -/
def takeOne (fpa : Nat) (l : List Landed) : List Landed :=
  match l with
  | [] => []
  | x :: r => if x.address = fpa then r else x :: takeOne fpa r

/-- What landed of some pieces is used up. -/
def dropLanded (ps : List (Nat × Nat)) (j : Job) (s : State) : Job :=
  let fpa (p : Nat × Nat) : Nat :=
    let t := jobTranslate (charterOf j) p.1 false s
    (entryOf t.2.1 s).baseFpa + t.2.2
  { j with landing := ps.foldl (fun l p => takeOne (fpa p) l) j.landing }

/-- n bytes at a of an input that is read as a whole area: the pieces are those of the area. -/
def areaSlice (j : Job) (pool : Bool) (base total a n : Nat) (s : State) : Option (Option Bytes) :=
  if !pool then some (stageRead (charterOf j) a n s)
  else
    let ps := (pieces256 base total).filter fun p => decide (p.1 < a + n ∧ a < p.1 + p.2)
    let got := ps.foldl (fun acc p =>
      match acc, landedPiece j p s with
      | some (some b), some (false, d) => some (some (b ++ d))
      | some _, some _ => some none
      | _, _ => none) (some (some ([] : Bytes)))
    match got, ps with
    | some (some b), p :: _ => some (some (slice b (a - p.1) n))
    | x, _ => x

/-! Areas of a descriptor. -/

/-- The Manifest entries that an area of a charter's addresses covers; none where its window does not hold it (R42). -/
def entriesOver (charter va n : Nat) (s : State) : Option (List Nat) :=
  let w := windowOf charter (bits va 55 53) s
  let size := extentBytes w.sizeCode
  let lo := bits va 52 0
  if !w.enable ∨ n = 0 ∨ 2 ^ 53 < lo + n ∨ w.entryCount * size < lo + n then none
  else some (upto (w.firstEntry + lo / size) ((lo + n - 1) / size + 1 - lo / size))

/-- Every entry of an area is VALID and of the charter (R46, R163). -/
def poolOk (charter va n : Nat) (s : State) : Bool :=
  match entriesOver charter va n s with
  | none => false
  | some l => l.all fun i => (entryOf i s).state == 1 && (entryOf i s).charter == charter

/-- An output area in pool: translatable, class O and writable (R148, R164, R199). -/
def poolOut (charter va n : Nat) (s : State) : Bool :=
  poolOk charter va n s && (match entriesOver charter va n s with
    | none => false
    | some l => l.all fun i => (entryOf i s).cls == 2 && !(entryOf i s).readOnly)

/-- The homes of an area. -/
def areaHomes (charter va n : Nat) (s : State) : List Nat :=
  match entriesOver charter va n s with
  | none => []
  | some l => sorted (l.map fun i => (entryOf i s).homeDevice)

/-- An area of a descriptor in one of the spaces: within Stage, or in firmware's partition where firmware chose it (`fw`), or
translatable (R251). -/
def areaOk (fw pool : Bool) (charter a n : Nat) (s : State) : Bool :=
  if pool then decide (a < 2 ^ 56) && poolOk charter a n s else stageArea fw a n

/-- An output and its seal in pool, at one home (R148, R199, R243, R415). -/
def sealedOut (charter va n sealVa : Nat) (s : State) : Bool :=
  decide (va < 2 ^ 56 ∧ sealVa < 2 ^ 56 ∧ sealVa % 8 = 0) && poolOut charter va n s && poolOut charter sealVa 8 s &&
  decide ((sorted (areaHomes charter va n s ++ areaHomes charter sealVa 8 s)).length = 1)

/-- Two areas of the same space that overlap. -/
def clash (pa : Bool) (a n : Nat) (pb : Bool) (b m : Nat) : Bool := pa == pb && overlap a n b m

/-- An acquire of a job's pool input, in ranges of at most 1 GiB, each of whole granules (R78, R84): the combining cache holds no older
line of it. -/
def acquireArea (charter va n : Nat) (s : State) : State :=
  let first := va / 64
  let granules := if n = 0 then 0 else (va + n - 1) / 64 + 1 - first
  (List.range (cdiv granules (2 ^ 24))).foldl (fun s i =>
    acquireRange ownSource charter (64 * (first + 2 ^ 24 * i)) (min (2 ^ 24) (granules - 2 ^ 24 * i)) s) s

/-! Seals and ends. -/

/-- Is a job of this kind not yet completed? -/
def jobLive (j : Job) : Bool :=
  j.phase != .completing && j.phase != .posted && j.phase != .delivered && j.phase != .retiring

/-- Stage areas that firmware chose for the jobs not yet completed: spill areas, accumulators, work areas and stream slots (R159, R178,
R201, R255). -/
def chosenAreas (s : State) : List (Nat × Nat) :=
  (s.acc.jobs.filter fun j => jobLive j && !j.hdr.hdr.expert).flatMap fun j => match j.desc with
    | .crane d => [(d.spillBase, d.spillBytes)]
    | .stev d => [(d.accBase, d.rowCount * d.rowSize)]
    | .cust d => [(d.workBase, 8 * d.engines * min d.outCapacity (cdiv d.rowCount (max 1 d.engines)))]
    | .stream d => [(d.windowBase, d.windowLayers * d.slotBytes), (d.shadowBase, d.windowLayers * d.shadowSlotBytes)]
    | .place d => [(d.stageAddr, d.bytes)]
    | _ => []

/-- An area of firmware's own partition: the choice is the firmware's, but it takes none of an area in use where there is another (R251,
R409; log 11). -/
def firmwareArea (n : Nat) (s : State) : Nat × State :=
  let d := draw s
  let used := chosenAreas s ++ s.copies.map fun c => (c.stageAddr, c.bytes)
  let first := stageTop + 64 * (d.1 % (2 ^ 27 - min (2 ^ 27 - 1) (cdiv n 64)))
  let fits (a : Nat) : Bool := stageArea true a n && !(used.any fun x => overlap a n x.1 x.2)
  (((first :: stageTop :: used.map fun x => roundUp (x.1 + x.2) 64).find? fits).getD first, d.2)

/-- The job's seal at a home, once every write of the attempt has been answered (R148, R174, R199, R244). -/
def sendSeals (key value : Nat) (seals : List (Nat × Nat)) (s : State) : State :=
  match jobOf key s with
  | none => s
  | some j =>
    if j.sealsSent ∨ j.awaitFence ≠ [] ∨ writesOut j s ≠ [] then s
    else
      let s := setJob { j with sealsSent := true } s
      seals.foldl (fun s x => jobAsk key none opWriteSeal 8 x.2 (tgetD j.sent x.1 0) (le 8 value) s) s

/-- The seal of a home is answered: logged, and nothing more is sent there (R364). -/
def sealAnswered (key homeDev : Nat) (s : State) : State :=
  match jobOf key s with
  | none => s
  | some j =>
    if j.sealed.contains homeDev then s
    else logProgress 3 homeDev { j with sealed := insertSorted homeDev j.sealed,
                                        awaitFence := j.awaitFence.filter fun h => h != homeDev } s

/-- A read of a job lands (R164, R175); one of another charter's pages or a poisoned granule lands as poison. -/
def landRead (key : Nat) (engine : Option Nat) (fpa : Nat) (poison : Bool) (d : Bytes) (s : State) : State :=
  match jobOf key s with
  | none => s
  | some j =>
    if j.phase = .running then
      setJob { j with landing := j.landing ++ [{ engine := engine, address := fpa, poison := poison, data := d }] } s
    else s

/-- A home of the job's outputs has answered its fence (R85). -/
def fenceAnswered (key homeDev : Nat) (s : State) : State :=
  match jobOf key s with
  | none => s
  | some j =>
    logProgress 4 homeDev { j with awaitFence := j.awaitFence.filter fun h => h != homeDev,
                                   fenced := insertSorted homeDev j.fenced } s

/-- Crane and Stevedore outputs may share granules with poisoned ones: a write of theirs answered POISON poisons the output and does not
stop the job (R156, R175). -/
def keepsPoison (j : Job) : Bool :=
  match j.desc with
  | .crane _ => true
  | .stev _ => true
  | _ => false

/-- What a request of a job is answered (R85, R148, R175, R364). A REROUTE is sent again; a fence the home has no room for is
sent again at the next boundary; the answers of a superseded attempt do nothing, save that a seal performed stands. -/
def jobAnswered (key : Nat) (o : Outst) (r : Resp) (s : State) : State :=
  let s := { s with ing := { s.ing with outst := s.ing.outst.erase o } }
  match jobOf key s with
  | none => s
  | some j =>
    let done := r.opcode == opAck || r.opcode == opData
    let refused (c : Nat) : Bool := r.opcode == opRefuse && r.reason == c
    let present := if o.opcode = opRead then o.sent else o.req.attempt == j.attempt
    if o.opcode = opWriteSeal ∧ (done || refused 0x1306) = true then sealAnswered key o.req.home s
    else if refused 0x0507 then (if present then (resendOwn o s).2 else s)
    else if !present then s
    else if o.opcode = opRead then
      if r.opcode = opData then landRead key o.engine o.req.address false r.data s
      else if r.opcode = opPoison then landRead key o.engine o.req.address true [] s
      else stopJob key r.reason s
    else if o.opcode = opFence then
      if done then fenceAnswered key o.req.home s
      else if refused 0x1306 then sealAnswered key o.req.home s
      else if refused 0x0617 then s
      else stopJob key r.reason s
    else if done then s
    else if refused 0x1306 then sealAnswered key o.req.home s
    else if r.opcode = opPoison ∧ keepsPoison j = true ∧ o.opcode ≠ opWriteSeal then setJob { j with badWrites := insertSorted o.req.address j.badWrites } s
    else stopJob key (if r.opcode = opPoison then 0x0607 else r.reason) s

/-- Fences not answered and not outstanding are sent again: FENCE_TABLE_FULL retries at the next slice (R85). -/
def retryFences (key : Nat) (s : State) : State :=
  match jobOf key s with
  | none => s
  | some j =>
    if j.phase ≠ .running then s
    else
      let out := (jobOuts key s).filter fun o => o.opcode == opFence && o.req.attempt == j.attempt
      (j.awaitFence.filter fun h => !(out.any fun o => o.req.home == h)).foldl (fun s h => jobFence key h s) s

/-- Tides of the present attempt, saturating; none before the first (R180, R203, R245). -/
def attemptTides (j : Job) (s : State) : Nat := if j.firstTide.isNone then 0 else min 0xFFFF (s.tide.count + 1 - j.startTide)

/-! Tide budgets. -/

/-- An engine kind's number. -/
def kindNo (k : EngineKind) : Nat :=
  match k with
  | .crane => 0
  | .stevedore => 1
  | .customs => 2
  | .codec => 3
  | .stream => 4

/-- Engines of a kind; the stream and tier engine runs its jobs side by side, each under its own number (R35, R415). -/
def kindEngines (k : EngineKind) : Nat :=
  match k with
  | .crane => 32
  | .stevedore => 32
  | .customs => 16
  | .codec => 16
  | .stream => 262144

/-- Number of an engine's book. -/
def bookNo (k : EngineKind) (e : Nat) : Nat := 64 * kindNo k + e

/-- A book never opened. -/
def engine0 : EngineSt :=
  { skipped := false, late := false, overruns := [], lowered := false, low := false, used := 0, program := none, ready := [],
    plan := [], long := none, bound := none, served := none }

/-- An engine's book. -/
def bookOf (k : EngineKind) (e : Nat) (s : State) : EngineSt := tgetD s.engines (bookNo k e) engine0

/-- An engine's book put in place. -/
def setBook (k : EngineKind) (e : Nat) (b : EngineSt) (s : State) : State :=
  { s with engines := tput s.engines (bookNo k e) b }

/-- Pipeline depth and plan switch of a kind (R35). -/
def engineCost (k : EngineKind) : Nat :=
  match k with
  | .crane => 123
  | .customs => 187
  | .codec => 155
  | .stevedore => 49
  | .stream => 0

/-- Cycles of a tide on the kind's clock, rounded down (R35); for the stream and tier engine, the bytes a job may move at 200
GB/s (R415). -/
def cyclesPerTide (k : EngineKind) (code : Nat) : Nat :=
  match k with
  | .stevedore => 165 * tideNs code / 100
  | .stream => 200 * tideNs code
  | _ => 33 * tideNs code / 10

/-- An engine's issue budget this tide, as fixed at its boundary (R13, R32, R35, R36, R419, R424). A budget lowered by one eighth
loses a whole number of cycles, the eighth rounded down (R36 gives no rounding; DESIGN CHOICE, log 19). A budget lowered for
power or heat is any lower one (R13); the stream and tier engine, which has no issue budget of R35, is neither halved nor lowered. -/
def budgetOf (k : EngineKind) (e : Nat) (s : State) : Nat :=
  let full := cyclesPerTide k s.tide.budgetCode - engineCost k
  let b := if (bookOf k e s).low then full - full / 8 else full
  let b := if s.tide.budgetHalved && k != .stream then b / 2 else b
  let b := if s.tide.budgetLow && k != .stream then min (b - 1) (Config.cappedBudget (kindNo k) b) else b
  if s.hm.frozen then 0 else b

/-- Cycles to load a program an engine does not hold (R221). -/
def switchCost (k : EngineKind) (e : Nat) (program : Option Nat) (size : Nat) (s : State) : Nat :=
  if program.isNone || (bookOf k e s).program == program then 0 else cdiv size 512

/-- Cycles, or bytes of a stream or copy job, that an engine may still use this tide outside a plan (R241, R415). -/
def mayUse (k : EngineKind) (e n : Nat) (s : State) : Bool :=
  let b := bookOf k e s
  decide (e < kindEngines k ∧ b.used + n ≤ budgetOf k e s)

/-- Cycles or bytes used outside a plan. -/
def useCycles (k : EngineKind) (e n : Nat) (s : State) : State :=
  let b := bookOf k e s
  setBook k e { b with used := b.used + n } s

/-- The codec engines bound to a job, ascending (R241). -/
def boundCodecs (key : Nat) (s : State) : List Nat := (List.range 16).filter fun e => (bookOf .codec e s).bound == some key

/-! Runs of work. -/

/-- The run of a work: its first unit and their number. -/
def runOf (w : Work) : Option (Nat × Nat) :=
  match w with
  | .rows a n => some (a, n)
  | .fill a n => some (a, n)
  | .writeOut a n => some (a, n)
  | .compaction a n => some (a, n)
  | .merge a n => some (a, n)
  | .linkFrame _ a n => some (a, n)
  | .frameDecode _ a n => some (a, n)
  | _ => none

/-- A work with another run. -/
def withRun (w : Work) (a n : Nat) : Work :=
  match w with
  | .rows _ _ => .rows a n
  | .fill _ _ => .fill a n
  | .writeOut _ _ => .writeOut a n
  | .compaction _ _ => .compaction a n
  | .merge _ _ => .merge a n
  | .linkFrame c _ _ => .linkFrame c a n
  | .frameDecode c _ _ => .frameDecode c a n
  | w => w

/-- Two tasks of one job that are the same unit, or runs of the same units. -/
def sameTask (x y : Task) : Bool := x.key == y.key && withRun x.work 0 0 == withRun y.work 0 0

/-- What two tasks have in common. -/
def meetTask (x y : Task) : Option Task :=
  if !sameTask x y then none
  else
    match runOf x.work, runOf y.work with
    | some (a, n), some (b, m) =>
      let lo := max a b
      let hi := min (a + n) (b + m)
      if lo < hi then some { x with work := withRun x.work lo (hi - lo) } else none
    | _, _ => some x

/-- What of a task lies past some others: nothing of a unit among them. -/
def beyondTasks (l : List Task) (x : Task) : Option Task :=
  let mine := l.filter (sameTask x)
  match runOf x.work with
  | none => if mine = [] then some x else none
  | some (a, n) =>
    let from_ := mine.foldl (fun m y => match runOf y.work with | some (b, k) => max m (b + k) | none => m) a
    if from_ < a + n then some { x with work := withRun x.work from_ (a + n - from_) } else none

/-- What of a task is left once another has been done. -/
def withoutTask (done x : Task) : Option Task :=
  if !sameTask done x then some x
  else
    match runOf done.work, runOf x.work with
    | some (a, n), some (b, m) =>
      let lo := max b (a + n)
      if lo < b + m then some { x with work := withRun x.work lo (b + m - lo) } else none
    | _, _ => none

/-- A task is the next of a plan whose first is given: that unit, or the run's beginning. -/
def startsTask (t x : Task) : Bool :=
  sameTask t x && (match runOf t.work, runOf x.work with
    | some (a, n), some (b, m) => a == b && decide (0 < n ∧ n ≤ m)
    | _, _ => t.work == x.work)

/-- Work retired: taken from the engine's plan and from its ready work, and the program it used is the one the engine holds (R34,
R221). -/
def retireTask (k : EngineKind) (e : Nat) (t : Task) (program : Option Nat) (s : State) : State :=
  let b := bookOf k e s
  let plan := b.plan.filterMap (withoutTask t)
  setBook k e { b with plan := plan, ready := b.ready.filterMap (withoutTask t), long := if plan = [] then none else b.long,
                       program := if program.isSome then program else b.program } s

/-- A slice has not retired by its boundary: the tide's plan was skipped there, and 0x0904 is raised; 4 overruns in 16 consecutive
tides lower the budget by one eighth (R36). A frozen engine raises none (R424). -/
def execTideOverrun (kind : EngineKind) (engine : Nat) (s : State) : Ans :=
  onCore s fun s =>
    let b := bookOf kind engine s
    if s.hm.frozen || !b.late then s
    else
      let t := s.tide.count
      let recent := t :: b.overruns.filter fun x => decide (t < x + 16)
      let b := { b with late := false, overruns := recent, lowered := b.lowered || decide (4 ≤ recent.length) }
      raise 0x0904 [(evDetail, bookNo kind engine)] (setBook kind engine b s)

/-- 64 tides without an overrun restore a lowered budget (R36). -/
def execBudgetRestore (kind : EngineKind) (engine : Nat) (s : State) : Ans :=
  onCore s fun s =>
    let b := bookOf kind engine s
    if b.lowered && b.overruns.all (fun x => decide (x + 64 ≤ s.tide.count)) then
      setBook kind engine { b with lowered := false, overruns := [] } s
    else s

/-! Jobs active on a device. -/

/-- Jobs accepted or offered and not yet completed, of some command codes (R152, R177, R197, R241, R415). -/
def activeJobs (codes : List Nat) (s : State) : Nat :=
  s.acc.jobs.countP fun j => codes.contains j.command &&
    (j.phase != .completing && j.phase != .posted && j.phase != .delivered && j.phase != .retiring)

/-- GATHER_REDUCE jobs count as Crane jobs too (R171). -/
def activeCranes (s : State) : Nat :=
  s.acc.jobs.countP fun j => jobLive j && (match j.desc with
    | .crane _ => true
    | .stev d => d.op == 4
    | _ => false)

end Sys2Proof.Machine
end

