-- ==== Sys2Proof/Machine/Programs.lean ====
section
/-! DEFINITION. Operator programs (10_operator_programs.md): the instruction word, the machine that runs it, the image, its
checks and its loading. -/

namespace Sys2Proof.Machine
open Sys2Proof

/-! The instruction word (R213). -/

/-- An instruction's fields. -/
structure PInstr where
  op : Nat
  guard : Nat
  guardNeg : Bool
  ty : Nat
  d : Nat
  a : Nat
  b : Nat
  immSel : Bool
  imm : Nat
  deriving DecidableEq, Repr

/-- An instruction from its word. -/
def pInstr (w : Nat) : PInstr :=
  { op := bits w 63 56, guard := bits w 55 53, guardNeg := bit w 52, ty := bits w 51 48, d := bits w 47 43,
    a := bits w 42 38, b := bits w 37 33, immSel := bit w 32, imm := bits w 31 0 }

/-- Cost in cycles; none for an opcode that is not in the table (R214). -/
def pCost (op : Nat) : Option Nat :=
  if [0x01, 0x02, 0x03, 0x04, 0x05, 0x06, 0x07, 0x08, 0x0F, 0x10, 0x11, 0x12, 0x13, 0x14, 0x15, 0x16, 0x20, 0x21, 0x22,
      0x23, 0x26, 0x27, 0x28, 0x30, 0x31, 0x32, 0x40, 0x41, 0x42, 0x43, 0x44, 0x61].contains op then some 1
  else if [0x09, 0x0A, 0x0B, 0x0C, 0x0D, 0x0E].contains op then some 4
  else if [0x50, 0x51, 0x52].contains op then some 8
  else if op = 0x60 ∨ op = 0x62 then some 0
  else none

/-- Types an opcode takes: 0 FP32, 1 I32, 2 I64, 3 U32, 4 U64 (R214). -/
def pTypes (op : Nat) : List Nat :=
  if op = 0x07 ∨ op = 0x08 then [0, 1, 2]
  else if 0x09 ≤ op ∧ op ≤ 0x0F then [0]
  else if 0x10 ≤ op ∧ op ≤ 0x15 then [1, 2, 3, 4]
  else if op = 0x16 then [1, 2]
  else if op = 0x40 ∨ op = 0x41 then [4, 0]
  else if op = 0x42 then [0, 2, 4]
  else if op = 0x43 ∨ op = 0x44 then [4]
  else if op = 0x50 then [0, 2, 4]
  else [0, 1, 2, 3, 4]

/-- How an opcode uses its fields: registers read in a and b, whether b may be an immediate, a third source, what is written
(0 nothing, 1 a register, 2 a predicate), and whether imm has a meaning of its own. -/
structure PUse where
  a : Bool
  b : Bool
  bImm : Bool
  c : Bool
  dest : Nat
  imm : Bool
  deriving DecidableEq, Repr

/-- Field use of an opcode (R213, R214). -/
def pUse (op : Nat) : PUse :=
  if op = 0x04 then ⟨true, true, false, true, 1, true⟩
  else if op = 0x01 ∨ op = 0x02 ∨ op = 0x03 ∨ op = 0x05 ∨ op = 0x06 ∨ op = 0x09 then ⟨true, true, true, false, 1, false⟩
  else if op = 0x07 ∨ op = 0x08 ∨ op = 0x13 ∨ (0x0A ≤ op ∧ op ≤ 0x0F) then ⟨true, false, false, false, 1, false⟩
  else if 0x10 ≤ op ∧ op ≤ 0x16 then ⟨true, true, true, false, 1, false⟩
  else if 0x20 ≤ op ∧ op ≤ 0x23 then ⟨true, true, true, false, 2, false⟩
  else if op = 0x26 ∨ op = 0x27 then ⟨false, false, false, false, 2, false⟩
  else if op = 0x28 then ⟨false, false, false, false, 2, false⟩
  else if op = 0x30 then ⟨true, false, true, false, 1, false⟩
  else if op = 0x31 then ⟨true, true, false, false, 1, true⟩
  else if op = 0x32 then ⟨true, false, false, false, 1, true⟩
  else if op = 0x40 ∨ op = 0x42 ∨ op = 0x43 then ⟨false, false, false, false, 1, true⟩
  else if op = 0x41 then ⟨true, false, false, false, 1, true⟩
  else if op = 0x44 then ⟨false, false, false, false, 1, false⟩
  else if 0x50 ≤ op ∧ op ≤ 0x52 then ⟨true, false, false, false, 1, false⟩
  else if op = 0x60 then ⟨false, false, false, false, 0, true⟩
  else ⟨false, false, false, false, 0, false⟩

/-- A register number names a vector register (R209). -/
def isVec (r : Nat) : Bool := decide (r < 24)

/-- One word's own rules (R209, R213, R214, R218): kind 1 Crane, 2 Customs. -/
def wordOk (kind constWords : Nat) (w : Nat) : Bool :=
  let i := pInstr w
  let u := pUse i.op
  let control := i.op == 0x60 || i.op == 0x61 || i.op == 0x62
  let pred := i.op == 0x26 || i.op == 0x27 || i.op == 0x28
  let useImm := i.immSel
  let reads := (if u.a && !(i.op == 0x30 && useImm) then [i.a] else []) ++ (if u.b && !useImm then [i.b] else []) ++
    (if u.c then [i.imm % 32] else [])
  let anyVec := reads.any isVec || i.op == 0x42 || i.op == 0x43 || i.op == 0x44
  let reduce := decide (0x50 ≤ i.op ∧ i.op ≤ 0x52)
  (pCost i.op).isSome && (pred || control || (pTypes i.op).contains i.ty) &&
  (decide (i.ty ≤ 4) || pred || control) &&
  (!control || (i.guard == 7 && !i.guardNeg && i.d == 0 && i.a == 0 && i.b == 0 && !i.immSel)) &&
  (!useImm || (u.bImm && i.b == 0)) &&
  (u.a || i.a == 0 || pred) && (u.b || i.b == 0 || i.op == 0x26 || i.op == 0x27) &&
  (!(i.op == 0x30 && useImm) || i.a == 0) &&
  (u.imm || useImm || i.imm == 0) &&
  (!pred || (decide (i.a < 8) && decide (i.b < 8) && !i.immSel && i.imm == 0)) &&
  (u.dest != 2 || decide (i.d < 7)) &&
  (!u.c || decide (i.imm < 32)) &&
  (u.dest != 1 || (if reduce then !(isVec i.d) && isVec i.a else !anyVec || isVec i.d)) &&
  (i.op != 0x31 || decide (i.imm < 8)) && (i.op != 0x32 || decide (i.imm ≤ 4)) &&
  (i.op != 0x40 || decide (i.imm < constWords)) &&
  (i.op != 0x41 || decide (1 ≤ bits i.imm 31 16 ∧ bits i.imm 15 0 + bits i.imm 31 16 ≤ constWords)) &&
  (i.op != 0x42 || decide (i.imm < 16)) &&
  (i.op != 0x60 || decide (1 ≤ i.imm ∧ i.imm ≤ 4096)) &&
  (!(i.op == 0x42 || i.op == 0x43) || kind == 2) &&
  (!(i.op == 0x44 || reduce) || kind == 1)

/-- LOOP and ENDLOOP pair, at most 2 deep, and no END stands inside a loop, over words from a depth (R218). -/
def loopsOk (depth : Nat) (ws : List Nat) : Bool :=
  match ws with
  | [] => depth == 0
  | w :: r =>
    let op := (pInstr w).op
    if op = 0x60 then decide (depth < 2) && loopsOk (depth + 1) r
    else if op = 0x61 then decide (0 < depth) && loopsOk (depth - 1) r
    else if op = 0x62 then depth == 0 && loopsOk 0 r
    else loopsOk depth r

/-- An entry's words up to its END, at loop depth 0; none where it meets none (R218). -/
def entryWords (depth : Nat) (ws : List Nat) : Option (List Nat) :=
  match ws with
  | [] => none
  | w :: r =>
    let op := (pInstr w).op
    if op = 0x62 then (if depth = 0 then some [] else none)
    else if op = 0x61 ∧ depth = 0 then none
    else
      let d := if op = 0x60 then depth + 1 else if op = 0x61 then depth - 1 else depth
      (entryWords d r).map fun l => w :: l

/-- Unit cycles of an entry's words (R219). -/
def unitCycles (cycles mult : Nat) (stack : List (Nat × Nat)) (ws : List Nat) : Nat :=
  match ws with
  | [] => cycles
  | w :: r =>
    let i := pInstr w
    if i.op = 0x60 then unitCycles cycles (mult * i.imm) ((mult, i.imm) :: stack) r
    else if i.op = 0x61 then
      match stack with
      | [] => unitCycles cycles mult [] r
      | (m, n) :: t => unitCycles (cycles + m * n) m t r
    else unitCycles (cycles + mult * (pCost i.op).getD 0) mult stack r

/-! Running a unit (R205 to R212). -/

/-- The registers of a unit: vector registers by number with a value per lane, scalars, predicates. -/
structure PRegs where
  v : Tbl (List (BitVec 64))
  s : Tbl (BitVec 64)
  p : Tbl (List Bool)
  deriving DecidableEq, Repr

/-- What a unit is given besides its registers: lanes, which are active, the record of each with its schema, constants. -/
structure PEnv where
  lanes : Nat
  active : List Bool
  records : List Bytes
  schema : Bytes
  consts : Bytes
  deriving DecidableEq, Repr

/-- A register in every lane (R209). -/
def pReg (e : PEnv) (m : PRegs) (r : Nat) : List (BitVec 64) :=
  if isVec r then tgetD m.v r (List.replicate e.lanes 0#64) else List.replicate e.lanes (tgetD m.s r 0#64)

/-- A predicate in every lane; p7 is 1 in every active lane (R209). -/
def pPred (e : PEnv) (m : PRegs) (k : Nat) : List Bool :=
  if k = 7 then e.active else tgetD m.p k (List.replicate e.lanes false)

/-- Lanes in which an instruction writes (R213). -/
def pGuard (e : PEnv) (m : PRegs) (i : PInstr) : List Bool :=
  (pPred e m i.guard).map fun g => if i.guardNeg then !g else g

/-- Width of a type. -/
def tyWidth (ty : Nat) : Nat := if ty = 2 ∨ ty = 4 then 64 else 32

/-- An operand's value as an integer of its type. -/
def tyInt (ty : Nat) (x : BitVec 64) : Int :=
  if ty = 1 then (x.setWidth 32).toInt else if ty = 2 then x.toInt else if ty = 3 then (x.setWidth 32).toNat else x.toNat

/-- An integer in a register: the upper half of a 32-bit integer is not stated and is free (log 1). -/
def intReg (ty : Nat) (z : Int) : BitVec 64 :=
  if tyWidth ty = 64 then BitVec.ofInt 64 z
  else
    let lo := (z % 2 ^ 32).toNat
    BitVec.ofNat 64 (Config.highHalf lo % 2 ^ 32 * 2 ^ 32 + lo)

/-- An FP32 result in a register; every NaN is 0x7FC0_0000 (R208, R209). -/
def numReg (a : Num) : BitVec 64 := (enc32 0 a).setWidth 64

/-- A register's FP32 value. -/
def regNum (x : BitVec 64) : Num := dec32 (x.setWidth 32)

/-- The immediate in an instruction's type (R213). -/
def immReg (ty imm : Nat) : BitVec 64 :=
  if ty = 2 then BitVec.ofInt 64 (BitVec.ofNat 32 imm).toInt else BitVec.ofNat 64 imm

/-- A finite FP32 value as an exact fraction. -/
def numRat (a : Num) : ℚ :=
  match a with
  | .fin n m e => signed n m * (2 : ℚ) ^ e
  | _ => 0

/-- Is a fraction at most 1/√a, 2^a or log2 a, exactly? Roots and logarithms are compared through powers: with a = p/q in lowest terms, r ≤
2^a where r^q ≤ 2^p, and r ≤ log2 a where 2^p ≤ a^q for r = p/q (R214). -/
def belowExact (op : Nat) (a : ℚ) (r : ℚ) : Bool :=
  if op = 0x0C then decide (r ≤ 0 ∨ r * r * a ≤ 1)
  else if op = 0x0D then decide (r ≤ 0 ∨ r ^ a.den ≤ (2 : ℚ) ^ a.num)
  else decide ((2 : ℚ) ^ r.num ≤ a ^ r.den)

/-- Is a fraction at least that value? -/
def aboveExact (op : Nat) (a : ℚ) (r : ℚ) : Bool :=
  if op = 0x0C then decide (0 < r ∧ 1 ≤ r * r * a)
  else if op = 0x0D then decide (0 < r ∧ (2 : ℚ) ^ a.num ≤ r ^ a.den)
  else decide (a ^ r.den ≤ (2 : ℚ) ^ r.num)

/-- One unit in the last place of a binary32 value. -/
def ulp32 (x : BitVec 32) : ℚ := (2 : ℚ) ^ ((max 1 (bits x.toNat 30 23) : Nat) - 150 : Int)

/-- A result lies within 1 ulp of the exact value (R214). -/
def withinUlp (op : Nat) (a : Num) (r : BitVec 32) : Bool :=
  match dec32 r with
  | .fin n m e =>
    let v := numRat (.fin n m e)
    belowExact op (numRat a) (v - ulp32 r) && aboveExact op (numRat a) (v + ulp32 r)
  | _ => false

/-- The exact value is a number within binary32's range. -/
def approxDomain (op : Nat) (a : Num) : Bool :=
  match a with
  | .fin n m e => if op = 0x0D then ltNum (.fin n m e) (.fin false 128 0) else !n && m != 0
  | _ => false

/-- RSQRT, EXP2 and LOG2: any result within 1 ulp, the same for the same operand; beyond the range the spec states no result, and only that a NaN
is 0x7FC0_0000 (R208, R214; log 1). -/
def approxOp (op : Nat) (x : BitVec 32) : BitVec 32 :=
  let r := Config.approx op x
  let a := dec32 x
  if !approxDomain op a then enc32 0 (dec32 r)
  else if withinUlp op a r then r
  else BitVec.ofNat 32 (((List.range (2 ^ 32)).find? fun k => withinUlp op a (BitVec.ofNat 32 k)).getD 0x7FC00000)

/-- One FP32 operation (R214). -/
def fpOp (op : Nat) (a b c : Num) (aw : BitVec 64) : BitVec 64 :=
  if op = 0x01 then numReg (addNum a b)
  else if op = 0x02 then numReg (addNum a (negNum b))
  else if op = 0x03 then numReg (mulNum a b)
  else if op = 0x04 then numReg (addNum (mulNum a b) c)
  else if op = 0x05 then numReg (minNum a b)
  else if op = 0x06 then numReg (maxNum a b)
  else if op = 0x07 then numReg (if isNeg a then negNum a else a)
  else if op = 0x08 then numReg (negNum a)
  else if op = 0x09 then numReg (divNum a b)
  else if op = 0x0A then numReg (divNum (.fin false 1 0) a)
  else if op = 0x0B then numReg (sqrtNum a)
  else if op = 0x0F then numReg (floorNum a)
  else (approxOp op (aw.setWidth 32)).setWidth 64

/-- One integer operation (R208, R214). -/
def intOp (op ty : Nat) (aw bw cw : BitVec 64) : BitVec 64 :=
  let n := tyWidth ty
  let a := tyInt ty aw
  let b := tyInt ty bw
  let ua := (a % 2 ^ n).toNat
  let ub := (b % 2 ^ n).toNat
  let sh := ub % n
  let z : Int :=
    if op = 0x01 then a + b
    else if op = 0x02 then a - b
    else if op = 0x03 then a * b
    else if op = 0x04 then a * b + tyInt ty cw
    else if op = 0x05 then min a b
    else if op = 0x06 then max a b
    else if op = 0x07 then a.natAbs
    else if op = 0x08 then -a
    else if op = 0x10 then Nat.land ua ub
    else if op = 0x11 then Nat.lor ua ub
    else if op = 0x12 then Nat.xor ua ub
    else if op = 0x13 then (2 ^ n - 1 - ua : Nat)
    else if op = 0x14 then (ua * 2 ^ sh : Nat)
    else if op = 0x15 then (ua / 2 ^ sh : Nat)
    else a / 2 ^ sh
  intReg ty z

/-- A comparison (R214): EQ, NE, LT, LE; false with a NaN save NE. -/
def cmpOp (op ty : Nat) (aw bw : BitVec 64) : Bool :=
  if ty = 0 then
    let a := regNum aw
    let b := regNum bw
    if op = 0x20 then eqNum a b
    else if op = 0x21 then !(eqNum a b)
    else if op = 0x22 then ltNum a b
    else ltNum a b || eqNum a b
  else
    let a := tyInt ty aw
    let b := tyInt ty bw
    if op = 0x20 then decide (a = b)
    else if op = 0x21 then decide (a ≠ b)
    else if op = 0x22 then decide (a < b)
    else decide (a ≤ b)

/-- A conversion (R214). -/
def cvtOp (src ty : Nat) (x : BitVec 64) : BitVec 64 :=
  let lo : Int := if ty = 1 then -(2 ^ 31) else if ty = 2 then -(2 ^ 63) else 0
  let hi : Int := if ty = 1 then 2 ^ 31 - 1 else if ty = 2 then 2 ^ 63 - 1 else if ty = 3 then 2 ^ 32 - 1 else 2 ^ 64 - 1
  if ty = 0 then numReg (if src = 0 then regNum x else ofInt (tyInt src x))
  else if src = 0 then intReg ty (toIntSat lo hi (regNum x))
  else intReg ty (max lo (min hi (tyInt src x)))

/-- A constant word of an image (R215). -/
def constWord (consts : Bytes) (k : Nat) : Nat := fld consts (8 * k) 8

/-- A field of a record as FLD reads it (R183, R184, R214): zero where the schema lacks it. -/
def fldOp (schema record : Bytes) (f : Nat) : BitVec 64 :=
  if schema = [] ∨ record = [] ∨ fld schema 2 1 ≤ f then 0#64
  else
    let off := fld schema (16 + 8 * f) 2
    let ty := fld schema (18 + 8 * f) 1
    let width := fld schema (19 + 8 * f) 1
    if ty = 1 ∨ ty = 2 ∨ ty = 3 ∨ ty = 4 then BitVec.ofNat 64 (fld record off (2 ^ (ty - 1)))
    else if ty = 5 ∨ ty = 6 ∨ ty = 7 ∨ ty = 8 then
      BitVec.ofInt 64 (sext (8 * 2 ^ (ty - 5)) (fld record off (2 ^ (ty - 5))))
    else if ty = 9 then numReg (elemValue 2 (fld record off 2))
    else if ty = 10 then numReg (elemValue 1 (fld record off 2))
    else if ty = 11 then numReg (elemValue 0 (fld record off 4))
    else BitVec.ofNat 64 ((slice record off width).foldl (fun a x => 256 * a + x.toNat) 0)

/-- A pairwise tree over lanes, in lane order: an absent lane adds nothing (R214). -/
def pairTree (fuel : Nat) (f : BitVec 64 → BitVec 64 → BitVec 64) (l : List (Option (BitVec 64))) : Option (BitVec 64) :=
  match fuel with
  | 0 => none
  | k + 1 =>
    match l with
    | [] => none
    | [x] => x
    | _ => pairTree k f (pairUp f l)
where
  pairUp (f : BitVec 64 → BitVec 64 → BitVec 64) (l : List (Option (BitVec 64))) : List (Option (BitVec 64)) :=
    match l with
    | x :: y :: r => (match x, y with
        | some a, some b => some (f a b)
        | some a, none => some a
        | none, b => b) :: pairUp f r
    | l => l

/-- A lane reduction over the lanes it selects; zero with none (R214). -/
def reduceOp (op ty : Nat) (xs : List (BitVec 64)) (sel : List Bool) : BitVec 64 :=
  let l := (xs.zip sel).map fun p => if p.2 then some p.1 else none
  let f (a b : BitVec 64) : BitVec 64 :=
    let o := if op = 0x50 then 0x01 else if op = 0x51 then 0x05 else 0x06
    if ty = 0 then fpOp o (regNum a) (regNum b) (.fin false 0 0) a else intOp o ty a b 0#64
  match pairTree 16 f l with
  | none => 0#64
  | some x => if ty = 0 then numReg (regNum x) else x

/-- Lanes where a value is written, old value elsewhere. -/
def mergeLanes {α : Type} (sel : List Bool) (new old : List α) : List α :=
  (sel.zip (new.zip old)).map fun p => if p.1 then p.2.1 else p.2.2

/-- A value of a type as its register holds it: an FP32 value has bits 63 to 32 zero (R209). -/
def heldAs (ty : Nat) (x : BitVec 64) : BitVec 64 := if ty = 0 then (x.setWidth 32).setWidth 64 else x

/-- One instruction executed (R209, R213, R214). A scalar result is written where the guard is 1 in an active lane: inactive lanes compute
nothing that is kept (R205). -/
def pStep (e : PEnv) (m : PRegs) (w : Nat) : PRegs :=
  let i := pInstr w
  let u := pUse i.op
  let g := pGuard e m i
  let imm := List.replicate e.lanes (immReg i.ty i.imm)
  let a := if i.op = 0x30 ∧ i.immSel = true then imm else pReg e m i.a
  let b := if i.immSel then imm else pReg e m i.b
  let c := pReg e m (i.imm % 32)
  let abc := a.zip (b.zip c)
  let val : List (BitVec 64) :=
    if i.op = 0x30 then a.map (heldAs i.ty)
    else if i.op = 0x31 then ((pPred e m (i.imm % 8)).zip (a.zip b)).map fun p => heldAs i.ty (if p.1 then p.2.1 else p.2.2)
    else if i.op = 0x32 then a.map (cvtOp (i.imm % 16) i.ty)
    else if i.op = 0x40 then
      List.replicate e.lanes (if i.ty = 0 then BitVec.ofNat 64 (constWord e.consts i.imm % 2 ^ 32)
        else BitVec.ofNat 64 (constWord e.consts i.imm))
    else if i.op = 0x41 then a.map fun x =>
      let k := constWord e.consts (bits i.imm 15 0 + x.toNat % max 1 (bits i.imm 31 16))
      BitVec.ofNat 64 (if i.ty = 0 then k % 2 ^ 32 else k)
    else if i.op = 0x42 then e.records.map fun r => fldOp e.schema r (i.imm % 16)
    else if i.op = 0x43 then e.records.map fun r => BitVec.ofNat 64 (if r = [] then 0 else fld r i.imm 8)
    else if i.op = 0x44 then (List.range e.lanes).map fun k => BitVec.ofNat 64 k
    else if 0x50 ≤ i.op ∧ i.op ≤ 0x52 then
      List.replicate e.lanes (reduceOp i.op i.ty a ((e.active.zip g).map fun p => p.1 && p.2))
    else if i.ty = 0 then abc.map fun p => fpOp i.op (regNum p.1) (regNum p.2.1) (regNum p.2.2) p.1
    else abc.map fun p => intOp i.op i.ty p.1 p.2.1 p.2.2
  let pv : List Bool :=
    if i.op = 0x26 then ((pPred e m (i.a % 8)).zip (pPred e m (i.b % 8))).map fun p => p.1 && p.2
    else if i.op = 0x27 then ((pPred e m (i.a % 8)).zip (pPred e m (i.b % 8))).map fun p => p.1 || p.2
    else if i.op = 0x28 then (pPred e m (i.a % 8)).map fun x => !x
    else (a.zip b).map fun p => cmpOp i.op i.ty p.1 p.2
  if u.dest = 2 then { m with p := tput m.p (i.d % 8) (mergeLanes g pv (pPred e m (i.d % 8))) }
  else if u.dest = 1 then
    if isVec i.d then { m with v := tput m.v i.d (mergeLanes g val (pReg e m i.d)) }
    else if (0x50 ≤ i.op ∧ i.op ≤ 0x52) ∨ (e.active.zip g).any (fun p => p.1 && p.2) = true then { m with s := tput m.s i.d (val.headD 0#64) }
    else m
  else m

/-- The body of a loop and what follows its ENDLOOP. -/
def loopBody (depth : Nat) (ws : List Nat) : List Nat × List Nat :=
  match ws with
  | [] => ([], [])
  | w :: r =>
    let op := (pInstr w).op
    if op = 0x61 ∧ depth = 0 then ([], r)
    else
      let p := loopBody (if op = 0x60 then depth + 1 else if op = 0x61 then depth - 1 else depth) r
      (w :: p.1, p.2)

/-- An entry's words executed in order, loops repeated (R206, R214). -/
def pRun (fuel : Nat) (e : PEnv) (ws : List Nat) (m : PRegs) : PRegs :=
  match fuel with
  | 0 => m
  | k + 1 =>
    match ws with
    | [] => m
    | w :: r =>
      let i := pInstr w
      if i.op = 0x60 then
        let p := loopBody 0 r
        let m := (List.range i.imm).foldl (fun m _ => pRun k e p.1 m) m
        pRun k e p.2 m
      else pRun k e r (pStep e m w)

/-! Images (R215 to R217). -/

/-- Fields of an image. -/
def imgKind (b : Bytes) : Nat := fld b 6 1
def imgVariants (b : Bytes) : Nat := fld b 7 1
def imgId (b : Bytes) : Nat := fld b 8 4
def imgInstrs (b : Bytes) : Nat := fld b 12 2
def imgConsts (b : Bytes) : Nat := fld b 14 2
def imgScope (b : Bytes) : Nat := fld b 16 1
def imgKey (b : Bytes) : Nat := fld b 17 1
def imgCharter (b : Bytes) : Nat := fld b 18 2
def imgBytes (b : Bytes) : Nat := fld b 20 4

/-- An image's instruction words. -/
def imgCode (b : Bytes) : List Nat := (List.range (imgInstrs b)).map fun k => fld b (320 + 8 * k) 8

/-- An image's constants. -/
def imgConstBytes (b : Bytes) : Bytes := slice b (320 + 8 * imgInstrs b) (8 * imgConsts b)

/-- The bytes that the signature and the measurement cover (R223). -/
def imgSigned (b : Bytes) : Bytes := b.take (imgBytes b - 96)

/-- The words of an entry of an image. -/
def imgEntry (b : Bytes) (first : Nat) : Option (List Nat) :=
  if first = 0xFFFF then none else entryWords 0 ((imgCode b).drop first)

/-- The header of an image of a program is well formed and of the size R215 gives (R223). -/
def imgFormatOk (id : Nat) (b : Bytes) : Bool :=
  let n := imgVariants b
  decide (fld b 0 4 = 0x4C5A4F50 ∧ fld b 4 2 = 1 ∧ (imgKind b = 1 ∨ imgKind b = 2) ∧ 1 ≤ n ∧ n ≤ 8 ∧ imgId b = id ∧ id ≠ 0 ∧
    1 ≤ imgInstrs b ∧ imgInstrs b ≤ 4096 ∧ imgConsts b ≤ 2048 ∧ imgScope b ≤ 1 ∧ imgKey b ≤ 7 ∧ imgCharter b < 4096 ∧
    (imgScope b = 1 ∨ imgCharter b = 0) ∧ imgBytes b = b.length ∧
    b.length = 320 + 8 * imgInstrs b + 8 * imgConsts b + 96) &&
  decide (slice b 24 40 = zeros 40 ∧ slice b (64 + 32 * n) (256 - 32 * n) = zeros (256 - 32 * n)) &&
  (List.range n).all fun v =>
    decide (slice b (64 + 32 * v + 12) 20 = zeros 20) && (imgKind b == 2 || fld b (64 + 32 * v + 6) 2 == 0xFFFF)

/-- The entries of an image with their declared cycles. -/
def imgEntries (b : Bytes) : List (Nat × Nat) :=
  (List.range (imgVariants b)).flatMap fun v =>
    let o := 64 + 32 * v
    [(fld b (o + 4) 2, fld b (o + 8) 2), (fld b (o + 6) 2, fld b (o + 10) 2)].filter fun p => p.1 != 0xFFFF

/-- The code obeys R218. -/
def imgCodeOk (b : Bytes) : Bool :=
  (imgCode b).all (wordOk (imgKind b) (imgConsts b)) && loopsOk 0 (imgCode b) &&
  (imgEntries b).all fun p => decide (p.1 < imgInstrs b) && (imgEntry b p.1).isSome

/-- The declared unit cycles are those the code has, at most 1,024 (R219). -/
def imgBudgetOk (b : Bytes) : Bool :=
  (imgEntries b).all fun p => match imgEntry b p.1 with
    | none => false
    | some ws => let c := unitCycles 0 1 [] ws; c == p.2 && decide (c ≤ 1024)

/-- The checks of a device on an image, before identity: 0 or the first failure's code (R223). -/
def imgCheck (id : Nat) (b : Bytes) (s : State) : Nat :=
  let signed := match tget s.hm.keys (imgKey b) with
    | none => false
    | some k => Config.ecdsaVerify k (imgSigned b) (b.drop (b.length - 96))
  firstCode [(!imgFormatOk id b, 0x1141), (!signed, 0x1142), (!imgCodeOk b, 0x1143), (!imgBudgetOk b, 0x1144)]

/-- The measurement of a program (R223). -/
def imgMeasurement (b : Bytes) : Bytes := Config.sha384 (imgSigned b)

/-- The lowest variant of an image that holds a format (R217). -/
def variantOf (b : Bytes) (format : Nat) : Option Nat :=
  (List.range (imgVariants b)).find? fun v => bit (fld b (64 + 32 * v) 4) format

/-- The entry words and declared cycles of a variant: the first entry, or the SCORE entry. -/
def variantEntry (b : Bytes) (v : Nat) (score : Bool) : Option (List Nat × Nat) :=
  let o := 64 + 32 * v
  (imgEntry b (fld b (if score then o + 6 else o + 4) 2)).map fun ws => (ws, fld b (if score then o + 10 else o + 8) 2)

/-- Bytes that loading a program into an engine moves (R221). -/
def loadBytes (b : Bytes) : Nat := 8 * imgInstrs b + 8 * imgConsts b

/-- A loaded program that a job of a charter may use: held here by a commit that has completed, of the kind, in scope, with a variant for the
format; the image and the variant (R217, R224, R225). -/
def usable (id kind charter format : Nat) (s : State) : Option (Bytes × Nat) :=
  match tget s.hm.programs id with
  | none => none
  | some p =>
    if imgKind p.image ≠ kind ∨ (imgScope p.image = 1 ∧ imgCharter p.image ≠ charter) ∨ p.devices.contains (self s) = false then none
    else (variantOf p.image format).map fun v => (p.image, v)

/-! Entries at work (R205, R210, R211). -/

/-- Enough steps for an entry: each loop and word takes one. -/
def pFuel : Nat := 8192

/-- A unit of 128 elements of a tile: the new elements and the scalars kept for the next unit (R210, R211). -/
def passUnit (consts : Bytes) (ws : List Nat) (count tile first : Nat) (kept : List (BitVec 64)) (xs : List (BitVec 64)) :
    List (BitVec 64) × List (BitVec 64) :=
  let n := xs.length
  let e : PEnv := { lanes := 128, active := (List.range 128).map fun k => decide (k < n), records := [], schema := [],
                    consts := consts }
  let sc : Tbl (BitVec 64) := [(24, BitVec.ofNat 64 count), (25, numReg (ofInt count)), (26, BitVec.ofNat 64 tile),
    (27, BitVec.ofNat 64 first)] ++ (kept.zipIdx 28).map fun p => (p.2, p.1)
  let m := pRun pFuel e ws { v := [(0, xs ++ List.replicate (128 - n) 0#64)], s := sc, p := [] }
  ((pReg e m 0).take n, (upto 28 4).map fun r => tgetD m.s r 0#64)

/-- PASS over a tile's accumulator, 128 elements at a time in ascending order (R205, R210). -/
def passTile (consts : Bytes) (ws : List Nat) (count tile first : Nat) (units : Nat) (kept xs : List (BitVec 64)) :
    List (BitVec 64) :=
  match units with
  | 0 => []
  | k + 1 =>
    let r := passUnit consts ws count tile first kept (xs.take 128)
    r.1 ++ passTile consts ws count tile (first + 128) k r.2 (xs.drop 128)

/-- FILTER on one row: is it accepted (R211)? Lanes do not meet, so a row is run alone (R212). -/
def filterRow (consts : Bytes) (ws : List Nat) (index : Nat) (schema record : Bytes) : Bool :=
  let e : PEnv := { lanes := 1, active := [true], records := [record], schema := schema, consts := consts }
  let m := pRun pFuel e ws { v := [(0, [BitVec.ofNat 64 index])], s := [], p := [(0, [true])] }
  (pPred e m 0).headD true

/-- SCORE on one candidate: its new score, or none where it is rejected (R211). -/
def scoreRow (consts : Bytes) (ws : List Nat) (score : BitVec 32) (index : Nat) (schema record : Bytes) : Option (BitVec 32) :=
  let e : PEnv := { lanes := 1, active := [true], records := [record], schema := schema, consts := consts }
  let m := pRun pFuel e ws { v := [(0, [score.setWidth 64]), (1, [BitVec.ofNat 64 index])], s := [], p := [(0, [true])] }
  if (pPred e m 0).headD true then some (((pReg e m 0).headD 0#64).setWidth 32) else none

/-! Loading (R220 to R226). -/

/-- Largest image (R220). -/
def imageMax : Nat := 49568

/-- Bytes of a staged image from 0 to n, where its blocks cover them exactly (R222). -/
def stagedImage (blocks : List (Nat × Bytes)) (n : Nat) : Option Bytes :=
  let total := (blocks.map fun p => p.2.length).sum
  if total ≠ n ∨ (blocks.any fun p => decide (n < p.1 + p.2.length)) = true then none
  else some (blocks.foldl (fun b p => splice' b p.1 p.2) (zeros n))

/-- A program's entry in the measurement log: ID, measurement, kind and scope, key slot (R224, R439). -/
def measureProgram (b : Bytes) (s : State) : State :=
  measure 5 1 (imgId b) (imgKind b + 256 * imgScope b + 65536 * imgKey b) (imgMeasurement b) s

/-- Identity and room on this device (R220, R223, R439): 0 when it already holds the program or may install it. -/
def installCode (id : Nat) (b : Bytes) (s : State) : Nat :=
  match tget s.hm.programs id with
  | some p => if p.measurement = imgMeasurement b then 0 else 0x1145
  | none => if 256 ≤ s.hm.programs.length then 0x1146 else if !measFits 1 s then 0x1126 else 0

/-- A program measured, then installed, to be used once its commit has completed; one already held stays as it is (R224). -/
def install (id : Nat) (b : Bytes) (s : State) : State :=
  if (tget s.hm.programs id).isSome then s
  else
    let s := measureProgram b s
    { s with hm := { s.hm with programs := tput s.hm.programs id { image := b, measurement := imgMeasurement b, devices := [] } } }

/-- The devices known to hold a program. -/
def holdersOf (id : Nat) (s : State) : List Nat := match tget s.hm.programs id with | some p => p.devices | none => []

/-- The devices known to hold a program set. -/
def setHolders (id : Nat) (l : List Nat) (s : State) : State :=
  match tget s.hm.programs id with
  | none => s
  | some p => { s with hm := { s.hm with programs := tput s.hm.programs id { p with devices := l } } }

/-- A program removed. -/
def dropProgram (id : Nat) (s : State) : State := { s with hm := { s.hm with programs := tdel s.hm.programs id } }

/-- A program installed for a commit that failed is removed again; one usable by another commit stays (R224). -/
def dropPending (id : Nat) (s : State) : State :=
  if (tget s.hm.programs id).isSome && holdersOf id s == [] then dropProgram id s else s

/-- The devices of a mask. -/
def maskDevices (m : Nat) : List Nat := (List.range 64).filter fun d => bit m d

/-- The mask of some devices. -/
def deviceMaskOf (l : List Nat) : Nat := l.foldl (fun a d => a ||| 2 ^ d) 0

/-- What a device says to others about a program: 5 a failed commit's program is removed, 7 devices hold it, 9 may it be unloaded, 11 devices
hold it no longer, 13 is another program of its ID held (R223 to R225). The spec gives these no form: the codes are the model's (log 17). -/
def tellAbout (kind : Nat) (devs : List Nat) (data : Bytes) (s : State) : State :=
  (devs.filter fun d => d != self s).foldl (fun s d => emit (.image d kind data) s) s

/-- A staged image discarded. -/
def unstage (id : Nat) (s : State) : State := { s with hm := { s.hm with staged := tdel s.hm.staged id } }

/-- A commit or unload no longer under way. -/
def dropCommit (c : Commit) (s : State) : State :=
  { s with hm := { s.hm with commits := s.hm.commits.filter fun x => !(x.hdr == c.hdr && x.id == c.id) } }

/-- A commit or unload under way, in its place among the others. -/
def keepCommit (c : Commit) (s : State) : State :=
  let l := s.hm.commits
  let same (x : Commit) : Bool := x.hdr == c.hdr && x.id == c.id
  { s with hm := { s.hm with commits := if l.any same then l.map fun x => if same x then c else x else l ++ [c] } }

/-- What a commit or unload that fails undoes: the devices that installed the program for it remove it again; those that were to unload it
hold it as before (R224, R225). -/
def undoCommit (c : Commit) (s : State) : State :=
  if c.stage = 1 then
    let s := if c.done.contains (self s) then dropPending c.id s else s
    tellAbout 5 c.done (le 4 c.id) s
  else if c.stage = 2 then
    let s := if c.named.contains (self s) then setHolders c.id c.holders s else s
    tellAbout 7 c.done (le 4 c.id ++ le 8 (deviceMaskOf c.holders)) s
  else s

/-- A commit ends: every named device has answered. Its staged image is discarded. On success the program is usable, and every device that
holds it learns where it is held (R222, R224, R225). -/
def endCommit (c : Commit) (s : State) : State :=
  let s := unstage c.id (dropCommit c s)
  match c.first with
  | none =>
    let all := sorted (c.named ++ c.holders)
    let s := setHolders c.id all s
    let s := tellAbout 7 all (le 4 c.id ++ le 8 (deviceMaskOf all)) s
    result c.hdr 0x1704 0 (if c.hdr.expert then [] else Config.blockImage 0x1704 [deviceMaskOf c.named]) s
  | some f => resultWith c.hdr 0x1704 0x1148 (some f) [] (undoCommit c s)

/-- A commit whose ID is free everywhere installs: here where this device is named, and at every other named device (R220, R224). -/
def startInstall (c : Commit) (s : State) : State :=
  let mine := c.named.contains (self s)
  let code := if mine then installCode c.id c.image s else 0
  if code = 0x1145 ∨ code = 0x1146 then result c.hdr 0x1704 code [] (unstage c.id (dropCommit c s))
  else if code ≠ 0 then resultWith c.hdr 0x1704 0x1148 (some (self s, code)) [] (unstage c.id (dropCommit c s))
  else
    let away := c.named.filter fun d => d != self s
    let s := tellAbout 1 c.named c.image (if mine then install c.id c.image s else s)
    let c := { c with stage := 1, awaiting := away, first := none, done := if mine then [self s] else [] }
    if away = [] then endCommit c s else keepCommit c s

/-- An unload ends: refused where a device named has a job of the program, and else the program is removed from the named devices (R225). -/
def endUnload (c : Commit) (s : State) : State :=
  let s := dropCommit c s
  match c.first with
  | some f => result c.hdr 0x1705 f.2 [] (undoCommit c s)
  | none =>
    let s := tellAbout 11 (sorted (c.named ++ c.holders)) (le 4 c.id ++ le 8 (deviceMaskOf c.named)) s
    let s := if c.named.contains (self s) then dropProgram c.id s else setHolders c.id (c.holders.filter fun d => !c.named.contains d) s
    result c.hdr 0x1705 0 [] s

/-- A commit or unload goes on once every device it awaits has answered (R223 to R225). -/
def settleCommit (c : Commit) (s : State) : State :=
  if c.awaiting ≠ [] then keepCommit c s
  else if c.stage = 2 then endUnload c s
  else if c.stage = 1 then endCommit c s
  else match c.first with
    | some f => result c.hdr 0x1704 f.2 [] (unstage c.id (dropCommit c s))
    | none => startInstall c s

/-- PROGRAM.KEY_ENROLL: a key into an empty slot, measured (R225, R226). -/
def execProgramKeyEnroll (h : CmdHdr) (slot : Nat) (key : Bytes) (s : State) : Ans :=
  immediate h 0x1701
    (fun s => firstCode [
      (decide (7 < slot) || (tget s.hm.keys slot).isSome || decide (key.length ≠ 97) || !(Config.onCurve key), 0x1149),
      (!measFits 1 s, 0x1126)])
    (fun s => measure 6 1 slot 0 (Config.sha384 key) { s with hm := { s.hm with keys := tput s.hm.keys slot key } })
    (fun _ => []) [slot] s

/-- PROGRAM.KEY_CLEAR: a slot that no loaded program names is emptied (R225). -/
def execProgramKeyClear (h : CmdHdr) (slot : Nat) (s : State) : Ans :=
  immediate h 0x1702
    (fun s => if 7 < slot ∨ (s.hm.programs.any fun p => imgKey p.2.image == slot) = true then 0x1149 else 0)
    (fun s => { s with hm := { s.hm with keys := tdel s.hm.keys slot } }) (fun _ => []) [slot] s

/-- PROGRAM.LOAD_BLOCK: a part of an image staged (R220, R222). -/
def execProgramLoadBlock (h : CmdHdr) (programId offset : Nat) (data : Bytes) (s : State) : Ans :=
  let before (s : State) : List (Nat × Bytes) := (tgetD s.hm.staged programId ([], 0)).1
  immediate h 0x1703
    (fun s => firstCode [
      (decide (data = [] ∨ 4096 < data.length ∨ imageMax < offset + data.length) ||
        (before s).any fun p => overlap p.1 p.2.length offset data.length, 0x1140),
      ((tget s.hm.staged programId).isNone && decide (4 ≤ s.hm.staged.length), 0x1146)])
    (fun s => { s with hm := { s.hm with
      staged := tput s.hm.staged programId (before s ++ [(offset, data)], s.tide.count) } })
    (fun _ => []) [programId, offset, data.length] s

/-- PROGRAM.COMMIT: the staged image checked on this device; then the other named devices are asked for another program of its ID, and it is
installed at every named device (R222 to R224). -/
def execProgramCommit (h : CmdHdr) (programId totalLength deviceMask : Nat) (s : State) : Ans :=
  onFw s fun s =>
    let mask := if h.expert then deviceMask else deviceMaskOf s.man.comp.members
    let devs := maskDevices mask
    let away := devs.filter fun d => d != self s
    let fail (c : Nat) (s : State) : State := result h 0x1704 c [] (unstage programId s)
    match stagedImage (tgetD s.hm.staged programId ([], 0)).1 totalLength with
    | none => fail 0x1140 s
    | some b =>
      let c := imgCheck programId b s
      if c ≠ 0 then fail c s
      else if devs.contains (self s) && installCode programId b s == 0x1145 then fail 0x1145 s
      else if devs.any fun d => !(deviceMember d s) then fail 0x1148 s
      else settleCommit { hdr := h, id := programId, awaiting := away, first := none, done := [], stage := 0, named := devs,
                          holders := holdersOf programId s, image := b }
        (tellAbout 13 devs (le 4 programId ++ imgMeasurement b) s)

/-- The program that a job's descriptor names. -/
def jobProgram (d : JobDesc) : Option Nat :=
  match d with
  | .crane d => if bit d.flags 0 then some d.programId else none
  | .cust d => if bit d.flags 1 then some d.programId else none
  | _ => none

/-- A job here that names the program is accepted and not completed (R225). -/
def programBusy (id : Nat) (s : State) : Bool :=
  s.acc.jobs.any fun j => jobProgram j.desc == some id && j.phase != .offered && jobLive j

/-- What another device says of a program: an image to check, measure and install, a question, or who holds it; a question is answered
(R223 to R225). -/
def execProgramImageReceive (issuer : Nat) (image : ProgramMsg) (s : State) : Ans :=
  onCore s fun s =>
    let kind := image.kind
    let image := image.data
    let answer (c : Nat) (s : State) : State := emit (.image issuer 3 (le 2 c)) (recordReason c s)
    let id := fld image 0 4
    let devs := maskDevices (fld image 4 8)
    if kind = 1 then
      let c := imgCheck (imgId image) image s
      let c := if c ≠ 0 then c else installCode (imgId image) image s
      if c ≠ 0 then answer c s else answer 0 (install (imgId image) image s)
    else if kind = 5 then dropPending id s
    else if kind = 7 then setHolders id (sorted (holdersOf id s ++ devs)) s
    else if kind = 9 then (if programBusy id s then answer 0x1147 s else answer 0 (setHolders id [] s))
    else if kind = 11 then
      (if devs.contains (self s) then dropProgram id s else setHolders id ((holdersOf id s).filter fun d => !devs.contains d) s)
    else if kind = 13 then
      answer (match tget s.hm.programs id with
        | some p => if p.measurement = image.drop 4 then 0 else 0x1145
        | none => 0) s
    else s

/-- A named device's answer to a commit or an unload (R224, R225). -/
def execProgramCommitAnswer (device code : Nat) (s : State) : Ans :=
  onHm s fun s =>
    match s.hm.commits.find? fun c => c.awaiting.contains device with
    | none => s
    | some c =>
      let c := { c with awaiting := c.awaiting.erase device,
                        first := if c.first.isSome || code == 0 then c.first else some (device, code),
                        done := if code = 0 then c.done ++ [device] else c.done }
      settleCommit c s

/-- A staged image without a block or a commit for 65,536 tides is discarded (R222). -/
def execProgramStageExpire (programId : Nat) (s : State) : Ans :=
  onHm s fun s =>
    match tget s.hm.staged programId with
    | none => s
    | some x => if x.2 + 65536 ≤ s.tide.count then unstage programId s else s

/-- PROGRAM.UNLOAD: refused while a job that names the program is accepted and not completed on any named device; removed there once all have
answered. Meanwhile no new job takes it (R225). -/
def execProgramUnload (h : CmdHdr) (programId deviceMask : Nat) (s : State) : Ans :=
  onFw s fun s =>
    let devs := maskDevices deviceMask
    let mine := devs.contains (self s)
    if mine && programBusy programId s then result h 0x1705 0x1147 [] s
    else
      let c : Commit := { hdr := h, id := programId, awaiting := devs.filter fun d => d != self s, first := none, done := [], stage := 2,
                          named := devs, holders := holdersOf programId s, image := [] }
      settleCommit c (tellAbout 9 devs (le 4 programId) (if mine then setHolders programId [] s else s))

/-- PROGRAM.QUERY: measurement, kind, scope, variants and the devices that hold it, in the layout of the configuration
(R222, log 6). -/
def execProgramQuery (h : CmdHdr) (programId : Nat) (s : State) : Ans :=
  immediate h 0x1706 (fun _ => 0) id
    (fun s => match tget s.hm.programs programId with
      | none => Config.blockImage 0x1706 [0]
      | some p => Config.blockImage 0x1706
          ([1, unle p.measurement, imgKind p.image, imgScope p.image, imgVariants p.image] ++ p.devices))
    [programId] s

end Sys2Proof.Machine
end

