-- ==== Sys2Proof/Machine/Crane.lean ====
section
/-! DEFINITION. The reduce array (07_cranes.md): the collective's checks, segments, tiles, adds and passes, membership and its
undo. -/

namespace Sys2Proof.Machine
open Sys2Proof

/-! Shapes. -/

/-- Elements of a full tile (R139). -/
def tileElems (d : CraneDesc) : Nat := 1024 * 2 ^ d.tileCode

/-- Tiles of a job (R139). -/
def tileCount (d : CraneDesc) : Nat := cdiv d.elementCount (tileElems d)

/-- Elements of tile i; the last holds whatever remains (R139). -/
def tileLen (d : CraneDesc) (i : Nat) : Nat := min (tileElems d) (d.elementCount - i * tileElems d)

/-- Integer family (R131). -/
def craneInt (d : CraneDesc) : Bool := intFormat d.inFormat

/-- Format of partials: FP32, or INT64 (R133). -/
def partialFormat (d : CraneDesc) : Nat := if craneInt d then 0x10 else 0

/-- Bytes of an accumulator element (R150). -/
def accBytes (d : CraneDesc) : Nat := if craneInt d then 8 else 4

/-- Bytes of a contribution or partial of tile i. -/
def inputBytes (d : CraneDesc) (fromDevice : Bool) (i : Nat) : Nat :=
  if fromDevice then accBytes d * tileLen d i else packedBytes d.inFormat (tileLen d i)

/-- BROADCAST (R147). -/
def isBroadcast (d : CraneDesc) : Bool := d.collective == 4

/-- The members that contribute: every one, the source alone under BROADCAST (R147). -/
def contributors (d : CraneDesc) (p : CraneSt) : List Nat :=
  if isBroadcast d then (p.members[d.sourceIndex]?).toList else p.members

/-- Device to which a host is attached: this one, the companion's by its ID (R443), else as the domain has it (log 1). -/
def attachedTo (h : Nat) (s : State) : Nat :=
  if ownHost h s then self s else if 0xFC0 ≤ h then h - 0xFC0 else Config.hostDevice h % 64

/-- The participating devices in force, in ascending order (R140). -/
def partsNow (p : CraneSt) (s : State) : List Nat :=
  (sorted (p.live.map fun h => attachedTo h s)).filter fun d => d == self s || (deviceMember d s && !s.home.dead.contains d)

/-- The participating devices of the attempt, which its roots are taken from (R140, R157). -/
def partDevices (p : CraneSt) : List Nat := p.parts

/-- Root of tile i (R140). -/
def rootOf (p : CraneSt) (i : Nat) (s : State) : Nat :=
  let ds := partDevices p
  (ds[i % max 1 ds.length]?).getD (self s)

/-- Live contributors attached to a device. -/
def liveAt (d : CraneDesc) (p : CraneSt) (dev : Nat) (s : State) : List Nat :=
  (contributors d p).filter fun h => p.live.contains h && attachedTo h s == dev

/-- Live members attached here. -/
def liveHere (p : CraneSt) (s : State) : List Nat := p.live.filter fun h => attachedTo h s == self s

/-- Members that receive tile i (R147). -/
def receivers (d : CraneDesc) (p : CraneSt) (i : Nat) : List Nat :=
  if d.collective = 3 then []
  else if d.collective = 2 then (p.members[i / max 1 d.shardTiles]?).toList.filter p.live.contains
  else p.live

/-- A tile not yet open. -/
def tile0 : Tile :=
  { opened := false, contribs := [], acc := [], count := 0, poison := false, passed := false, sealed := false, sent := none, sat := 0,
    nan := 0 }

/-- Tile i. -/
def tileOf (p : CraneSt) (i : Nat) : Tile := tgetD p.tiles i tile0

/-- Tile i put in place. -/
def setTile (i : Nat) (t : Tile) (p : CraneSt) : CraneSt := { p with tiles := tput p.tiles i t }

/-- A Crane job's descriptor and progress. -/
def craneOf? (j : Job) : Option (CraneDesc × CraneSt) :=
  match j.desc, j.st with
  | .crane d, .crane p => some (d, p)
  | _, _ => none

/-- A Crane job's progress put in place. -/
def setCrane (key : Nat) (p : CraneSt) (s : State) : State :=
  match jobOf key s with
  | none => s
  | some j => setJob { j with st := .crane p } s

/-! The collective's checks. -/

/-- Bytes that one tile retains under EXCLUDE at the device where it retains most: the contributions of the members there, and as a
root the other devices' partials (R150, R151). -/
def retention (d : CraneDesc) (ms : List Nat) (s : State) : Nat :=
  if d.policy ≠ 1 then 0
  else
    let givers := if isBroadcast d then (ms[d.sourceIndex]?).toList else ms
    let devs := sorted (ms.map fun h => attachedTo h s)
    let parts := (sorted (givers.map fun h => attachedTo h s)).length
    (devs.map fun v =>
      (givers.countP fun h => attachedTo h s == v) * packedBytes d.inFormat (tileElems d) +
      (parts - 1) * (accBytes d * tileElems d)).foldl max 0

/-- The member list as Stage holds it, where a job of the charter may read it. -/
def memberList (d : CraneDesc) (s : State) : Option (List Nat) :=
  if !stageArea false d.memberList (2 * d.memberCount) then none
  else (stageRead d.charter d.memberList (2 * d.memberCount) s).map table16

/-- Spill areas of jobs not yet completed. -/
def spillAreas (s : State) : List (Nat × Nat) :=
  s.acc.jobs.filterMap fun j => match j.desc with
    | .crane d => if jobLive j then some (d.spillBase, d.spillBytes) else none
    | _ => none

/-- A program serves a Crane job: usable for its output format with a PASS entry, and held by every participating device
(R160, R217, R225). -/
def craneProgramOk (d : CraneDesc) (ms : List Nat) (s : State) : Bool :=
  match usable d.programId 1 d.charter d.outFormat s, tget s.hm.programs d.programId with
  | some (b, v), some p => (variantEntry b v false).isSome &&
      (ms.map fun h => attachedTo h s).all fun x => p.devices.contains x
  | _, _ => false

/-- The checks of CRANE.COLLECTIVE in their order (R160). -/
def craneCheck (expert : Bool) (d : CraneDesc) (s : State) : Nat :=
  let fmt (f : Nat) : Bool := formatListed f && f != 0x10
  let ms := (memberList d s).getD []
  let member (h : Nat) : Bool := decide (h < 4096) && isMember d.charter h s
  firstCode [
    (!fmt d.inFormat || !fmt d.outFormat || intFormat d.inFormat != intFormat d.outFormat ||
      decide (d.collective < 1 ∨ 4 < d.collective ∨ 3 < d.op ∨ (isBroadcast d = true ↔ d.op ≠ 0) ∨ 1 < d.rounding ∨
        1 < d.policy), 0x0A01),
    (decide (d.memberCount < 1 ∨ 4096 < d.memberCount) || (memberList d s).isNone ||
      decide ((sorted ms).length ≠ ms.length) || !ms.all member || decide (d.memberCount ≤ d.sourceIndex), 0x0A02),
    (decide (6 < d.tileCode ∨ d.elementCount = 0 ∨ d.elementCount % 1024 ≠ 0 ∨
      (d.collective = 2 ∧ tileCount d ≠ d.memberCount * d.shardTiles)), 0x0A03),
    (bit d.flags 0 && !craneProgramOk d ms s, 0x0A04),
    (decide (d.spillBytes < retention d ms s) ||
      (d.spillBytes != 0 && (!stageArea (!expert) d.spillBase d.spillBytes || d.policy == 0 ||
        (spillAreas s).any fun a => overlap a.1 a.2 d.spillBase d.spillBytes)), 0x0A08),
    (decide (d.collective = 3) && !sealedOut d.charter d.outVa (packedBytes d.outFormat d.elementCount) d.sealVa s, 0x0A0B),
    (decide (64 ≤ activeCranes s), 0x0A09)]

/-- What firmware fills in a basic form (R159). -/
def craneFill (d : CraneDesc) (s : State) : JobDesc × State :=
  let ms := (memberList d s).getD []
  let d := { d with policy := 1, rounding := 0, memberTimeout := 0, seed := 0, flags := 0, programId := 0 }
  let fitsIn (c : Nat) : Bool :=
    let d := { d with tileCode := c }
    decide (2 * (tileElems d * accBytes d + retention d ms s) ≤ 2 ^ 21)
  let d := { d with tileCode := ([5, 4, 3, 2, 1].find? fitsIn).getD 0 }
  let a := firmwareArea (retention d ms s) s
  (.crane { d with spillBase := a.1, spillBytes := retention d ms s }, a.2)

/-- CRANE.COLLECTIVE (R147, R159, R160). -/
def execCraneCollective (h : JobHdr) (d : CraneDesc) (s : State) : Ans :=
  submit h cmdCrane (.crane d) (craneFill d)
    (fun x s => match x with
      | .crane d => craneCheck h.hdr.expert d s
      | _ => 0) s

/-! Segments. -/

/-- A segment of a job from this device (R141). -/
def segmentOf (j : Job) (kind tile aux members format : Nat) (poison : Bool) (data : Bytes) (s : State) : Segment :=
  { kind := kind, jobDevice := j.device, jobSlot := j.slot, attempt := j.attempt, srcDevice := true, sender := 64 * self s,
    tile := tile, aux := aux, members := members, format := format, poison := poison, seqLo := j.hdr.seq % 65536,
    data := data }

/-- A segment's item. -/
def segItem (charter : Nat) (g : Segment) : Item :=
  { bytes := segBytes g, opcode := 0, charter := some charter, source := g.sender, home := g.jobDevice }

/-- The scheduler port of the Crane that a segment's tile belongs to, the first of its four (R140, R293; log 14). -/
def cranePort (tile : Nat) : Nat := enginePort (some (tile % 32))

/-- A segment towards a host attached here (R140, R142, R146). -/
def segToHost (host charter : Nat) (g : Segment) (s : State) : State :=
  let s := emit (.segment host g) s
  match hostCtx host s.man.route s with
  | none => s
  | some n => enterItem (cranePort g.tile) n 3 (Config.streamClass (jobKey g.jobDevice g.jobSlot) 1 % 16) 1 0 (segItem charter g) s

/-- A segment towards another device of the job (R140). -/
def segToDevice (dev charter : Nat) (g : Segment) (s : State) : State :=
  let s := emit (.partialTo dev g) s
  match deviceCtx dev s.man.route s with
  | none => s
  | some n => enterItem (cranePort g.tile) n 3 (Config.streamClass (jobKey g.jobDevice g.jobSlot) 1 % 16) 1 0 (segItem charter g) s

/-- Segments of up to 4,096 bytes that carry a tile's data, in order (R141). -/
def dataSegments (j : Job) (kind tile members format : Nat) (poison : Bool) (b : Bytes) (s : State) : List Segment :=
  (List.range (cdiv b.length 4096)).map fun k =>
    segmentOf j kind tile (4096 * k) members format poison ((b.drop (4096 * k)).take 4096) s

/-- Consecutive runs of a rising list: first and length. -/
def runsOf (l : List Nat) : List (Nat × Nat) :=
  l.foldl (fun acc x => match acc.getLast? with
    | some (a, n) => if a + n = x then acc.dropLast ++ [(a, n + 1)] else acc ++ [(x, 1)]
    | none => [(x, 1)]) []

/-- DONE to every live member: to those attached here, and to the other devices of the job for theirs; of a job that no other device
takes part in yet, to every member under the route map (R155, R158). -/
def sendDones (j : Job) (reason : Nat) (s : State) : State :=
  match craneOf? j with
  | none => s
  | some (d, p) =>
    let g := segmentOf j 6 0 reason 0 0 false [] s
    let hosts := if j.guest.isNone && p.parts == [] then p.live else liveHere p s
    let s := hosts.foldl (fun s h => segToHost h d.charter g s) s
    if j.guest.isSome then s
    else (p.parts.filter fun v => v != self s).foldl (fun s v => segToDevice v d.charter g s) s

/-- What a device that takes part in a job tells the device that runs it: a tile sealed, with its count and poison, and what it adds
to the job's counts: elements saturated, inputs out of range, NaN elements and pool writes. The kind 0 is the model's own
(log 17). -/
def reportGuest (j : Job) (tile members : Nat) (poison : Bool) (counts : List Nat) (s : State) : State :=
  match j.guest with
  | none => s
  | some v => segToDevice v (descCharter j.desc) (segmentOf j 0 tile 0 members 0 poison (counts.flatMap (le 4)) s) s

/-! Deck room. -/

/-- Deck bytes that the open tiles of a Crane hold as accumulators, over all jobs (R150). -/
def deckUsed (crane : Nat) (s : State) : Nat :=
  (s.acc.jobs.map fun j => match craneOf? j with
    | some (d, p) => ((p.tiles.filter fun t => t.1 % 32 == crane && t.2.opened && !t.2.sealed).map
        fun t => accBytes d * tileLen d t.1).sum
    | none => 0).sum

/-- Bytes retained by a tile in the worst case: local contributions and partials (R150). -/
def tileRetains (d : CraneDesc) (p : CraneSt) (i : Nat) (s : State) : Nat :=
  if d.policy ≠ 1 then 0
  else
    (liveAt d p (self s) s).length * inputBytes d false i +
    (if rootOf p i s = self s then ((partDevices p).length - 1) * inputBytes d true i else 0)

/-- Bytes that the added inputs of a Crane's open tiles hold in its deck, over all jobs (R150). -/
def deckKept (crane : Nat) (s : State) : Nat :=
  (s.acc.jobs.map fun j => match craneOf? j with
    | some (_, p) => ((p.tiles.filter fun t => t.1 % 32 == crane && !t.2.sealed).map fun t =>
        ((t.2.contribs.filter fun c => c.added).map fun c => (c.pieces.map fun x => x.2.length).sum).sum).sum
    | none => 0).sum

/-- A tile may open: its accumulator fits in the 4 MiB deck, and what its Crane's tiles of the job retain fits beside the
accumulators or in the spill area (R150, R151). -/
def tileRoom (d : CraneDesc) (p : CraneSt) (i : Nat) (s : State) : Bool :=
  let used := deckUsed (i % 32) s + accBytes d * tileLen d i
  let open_ := p.tiles.filter fun t => t.1 % 32 == i % 32 && t.2.opened && !t.2.sealed
  let kept := ((open_.map fun t => tileRetains d p t.1 s).sum) + tileRetains d p i s
  decide (used ≤ 2 ^ 22 ∧ kept ≤ 2 ^ 22 - used + d.spillBytes)

/-! Contributions and partials. -/

/-- Bytes received of a contribution. -/
def contribBytes (c : Contrib) : Nat := (c.pieces.map fun x => x.2.length).sum

/-- A contribution's bytes, in order, once it is complete. -/
def contribData (c : Contrib) (n : Nat) : Bytes := c.pieces.foldl (fun b x => splice' b x.1 x.2) (zeros n)

/-- A contribution is complete (R142). -/
def complete (d : CraneDesc) (i : Nat) (c : Contrib) : Bool := c.spilled.isSome || contribBytes c == inputBytes d c.fromDevice i

/-- The contribution of a source in a tile. -/
def contribOf (t : Tile) (fromDevice : Bool) (src : Nat) : Option Contrib :=
  t.contribs.find? fun c => c.fromDevice == fromDevice && c.src == src

/-- A contribution put in its place in a tile. -/
def putContrib (c : Contrib) (t : Tile) : Tile :=
  if t.contribs.any fun x => x.fromDevice == c.fromDevice && x.src == c.src then
    { t with contribs := t.contribs.map fun x => if x.fromDevice == c.fromDevice && x.src == c.src then c else x }
  else { t with contribs := t.contribs ++ [c] }

/-- A tile's accumulator reset: what it retains is added again (R154). -/
def resetTile (t : Tile) : Tile :=
  { t with acc := [], count := 0, passed := false, sat := 0, nan := 0, contribs := t.contribs.map fun c => { c with added := false } }

/-! Spill (R151). -/

/-- Bytes of spill traffic that a tide allows: 6.4 TB/s. -/
def spillLimit (s : State) : Nat := 6400 * tau s

/-- The parts of a job's spill area in use. -/
def spillUse (d : CraneDesc) (p : CraneSt) : List (Nat × Nat) :=
  p.tiles.flatMap fun t => t.2.contribs.filterMap fun c => c.spilled.map fun a => (a, inputBytes d c.fromDevice t.1)

/-- Where n bytes fit in a job's spill area. -/
def spillSlot (d : CraneDesc) (p : CraneSt) (n : Nat) : Option Nat :=
  let used := spillUse d p
  (d.spillBase :: used.map fun x => x.1 + x.2).find? fun a =>
    decide (a + n ≤ d.spillBase + d.spillBytes) && !(used.any fun x => overlap a n x.1 x.2)

/-- n bytes may be spilled now. -/
def maySpill (d : CraneDesc) (p : CraneSt) (n : Nat) (s : State) : Bool :=
  (spillSlot d p n).isSome && decide (s.spillUsed + n ≤ spillLimit s)

/-- The deck of tile i's Crane holds n more bytes of retained inputs, beside the accumulator that the tile has or needs, or the spill
area takes them. -/
def mayRetain (d : CraneDesc) (p : CraneSt) (i n : Nat) (s : State) : Bool :=
  let own := if (tileOf p i).opened then 0 else accBytes d * tileLen d i
  d.policy != 1 || decide (deckUsed (i % 32) s + own + deckKept (i % 32) s + n ≤ 2 ^ 22) || maySpill d p n s

/-- An added input of a tile written to the spill area where the deck of its Crane does not hold it beside the open accumulators
(R151). -/
def spillContrib (key i : Nat) (fromDevice : Bool) (src : Nat) (s : State) : State :=
  match jobOf key s with
  | none => s
  | some j => match craneOf? j with
    | none => s
    | some (d, p) =>
      match contribOf (tileOf p i) fromDevice src with
      | none => s
      | some c =>
        let n := inputBytes d fromDevice i
        if c.spilled.isSome ∨ c.added = false ∨ d.policy ≠ 1 ∨ deckUsed (i % 32) s + deckKept (i % 32) s ≤ 2 ^ 22 then s
        else match spillSlot d p n with
          | none => s
          | some a =>
            if spillLimit s < s.spillUsed + n then s
            else
              let w := stageWrite d.charter a n (if c.poison then none else some (contribData c n)) s
              if w.1 ≠ 0 then stopJob key w.1 (recordReason w.1 w.2)
              else setCrane key (setTile i (putContrib { c with pieces := [], spilled := some a } (tileOf p i)) p)
                { w.2 with spillUsed := w.2.spillUsed + n }

/-- A segment counted as discarded, with its job or among those that name none, and reported at most once per job per tide (R143). -/
def discardSegment (g : Segment) (s : State) : State :=
  let key := jobKey g.jobDevice g.jobSlot
  let s := match (jobOf key s).bind craneOf? with
    | none => { s with straySegments := s.straySegments + 1 }
    | some (_, p) => setCrane key { p with discarded := p.discarded + 1 } s
  raiseLimited 0x0A07 key 0 [(evJobDevice, g.jobDevice), (evSlot, g.jobSlot)] 1 s

/-- A segment stored in its tile (R142, R150, R154): a partial with a lower count than the one held replaces it, and the tile
is recomputed when the old one had been added. A poisoned segment poisons its contribution (R156). -/
def storeSegment (d : CraneDesc) (g : Segment) (p : CraneSt) : CraneSt :=
  let t := tileOf p g.tile
  let src := if g.srcDevice then g.sender / 64 else g.sender
  let old := contribOf t g.srcDevice src
  let fresh : Contrib := { fromDevice := g.srcDevice, src := src, pieces := [], members := if g.srcDevice then g.members else 1,
                           added := false, poison := false, spilled := none }
  let c := match old with
    | none => fresh
    | some c => if g.srcDevice ∧ g.members < c.members then fresh else c
  let t := if (match old with | some o => o.added && !c.added | none => false) then resetTile t else t
  let c := { c with pieces := c.pieces ++ [(g.aux, g.data)], poison := c.poison || g.poison }
  let p := if g.srcDevice then { p with counts := tput p.counts src (min g.members (tgetD p.counts src g.members)) } else p
  setTile g.tile (putContrib c { t with opened := true }) p

/-- Does a segment overlap what the same sender sent of the tile (R143)? A contribution that has been added came whole; a partial of a
lower count is a new one (R154). -/
def segOverlaps (g : Segment) (p : CraneSt) : Bool :=
  match contribOf (tileOf p g.tile) g.srcDevice (if g.srcDevice then g.sender / 64 else g.sender) with
  | none => false
  | some c => !(g.srcDevice && decide (g.members < c.members)) &&
      (c.added || c.spilled.isSome || c.pieces.any fun x => overlap x.1 x.2.length g.aux g.data.length)

/-- A CONTRIB or PARTIAL segment of a live job: discarded in the cases of R143, one of a tile already sealed among them, whose bytes all
came; else stored, or held until its tile has deck and spill room (R151). -/
def takeSegment (g : Segment) (s : State) : State :=
  let key := jobKey g.jobDevice g.jobSlot
  match jobOf key s with
  | none => discardSegment g s
  | some j =>
    match craneOf? j with
    | none => discardSegment g s
    | some (d, p) =>
      let isPart := g.kind == 3
      let t := tileOf p g.tile
      let sender := if g.srcDevice then decide (isPart = true) && (partDevices p).contains (g.sender / 64)
        else !isPart && (liveAt d p (self s) s).contains g.sender
      if j.phase ≠ .running ∨ j.hdr.seq % 65536 ≠ g.seqLo ∨ j.attempt ≠ g.attempt ∨ sender = false ∨ tileCount d ≤ g.tile ∨
          g.format ≠ (if isPart then partialFormat d else d.inFormat) ∨
          inputBytes d g.srcDevice g.tile < g.aux + g.data.length ∨ segOverlaps g p = true ∨ t.sealed = true then discardSegment g s
      else
        let p := if g.srcDevice then p else { p with heard := tput p.heard g.sender s.tide.count }
        let room := (t.opened || tileRoom d p g.tile s) && mayRetain d p g.tile (inputBytes d g.srcDevice g.tile) s &&
          !(p.waiting.any fun x => x.tile == g.tile)
        if room then setCrane key (storeSegment d g p) s
        else setCrane key { p with waiting := p.waiting ++ [g] } s

/-- CONTRIB_RECEIVE (R142, R143, R151, R156). -/
def execContribReceive (g : Segment) (s : State) : Ans := onCore s (takeSegment { g with kind := 2, srcDevice := false })

/-- An exclusion taken for the next boundary (R153). -/
def noteExclusion (key host : Nat) (s : State) : State :=
  match jobOf key s with
  | none => s
  | some j => match craneOf? j with
    | none => s
    | some (_, p) =>
      if p.live.contains host then
        setCrane key { p with excluded := insertSorted host p.excluded,
                              firstDead := if p.firstDead.isSome then p.firstDead else some host } s
      else s

/-- PARTIAL_RECEIVE (R154). -/
def execPartialReceive (g : Segment) (s : State) : Ans := onCore s (takeSegment { g with kind := 3, srcDevice := true })

/-- TILE_OPEN: a tile that waited for deck or spill room opens, and its segments enter (R151). -/
def execTileOpen (slot tile : Nat) (s : State) : Ans :=
  onCore s fun s =>
    let key := jobNo slot s
    match jobOf key s with
    | none => s
    | some j => match craneOf? j with
      | none => s
      | some (d, p) =>
        let mine := p.waiting.filter fun g => g.tile == tile
        let most := (mine.map fun g => inputBytes d g.srcDevice tile).foldl max 0
        if mine = [] ∨ ((tileOf p tile).opened || tileRoom d p tile s) = false ∨ mayRetain d p tile most s = false then s
        else
          let s := setCrane key { p with waiting := p.waiting.filter (fun g => g.tile != tile),
                                         tiles := tput p.tiles tile { tileOf p tile with opened := true } } s
          streamCredits (mine.foldl (fun s g => takeSegment g s) s)

/-! Adds. -/

/-- One operation on accumulator elements (R134). -/
def craneOp (d : CraneDesc) (a b : BitVec 64) : BitVec 64 :=
  if craneInt d then
    if d.op = 2 then (if a.toInt ≤ b.toInt then a else b)
    else if d.op = 3 then (if a.toInt ≤ b.toInt then b else a)
    else a + b
  else
    let x := a.setWidth 32
    let y := b.setWidth 32
    (if d.op = 2 then min32 x y else if d.op = 3 then max32 x y else add32 x y).setWidth 64

/-- Elements of an input as accumulator values, and the number beyond the FP32 range (R133); FP32 elements and partials unchanged. -/
def inputValues (format n : Nat) (b : Bytes) : List (BitVec 64) × Nat :=
  if intFormat format then ((intValues format n b).map fun z => BitVec.ofInt 64 z, 0)
  else if format = 0 then ((List.range n).map fun k => BitVec.ofNat 64 (fld b (4 * k) 4), 0)
  else
    let vs := floatValues format n b
    (vs.map fun v => (toF32 v).setWidth 64, vs.countP beyond32)

/-- Live contributions of a tile that this device has not added yet. -/
def pendingAdds (d : CraneDesc) (p : CraneSt) (i : Nat) (s : State) : List Nat :=
  (liveAt d p (self s) s).filter fun h => match contribOf (tileOf p i) false h with
    | some c => !c.added
    | none => true

/-- Live contributors of a device as this one knows them: a partial of a lower count is taken as an exclusion notice (R154). -/
def liveCount (d : CraneDesc) (p : CraneSt) (v : Nat) (s : State) : Nat :=
  let n := (liveAt d p v s).length
  min n (tgetD p.counts v n)

/-- Partials a root still needs: of each other device with live contributors, one of that device's live count, added (R154). -/
def pendingPartials (d : CraneDesc) (p : CraneSt) (i : Nat) (s : State) : List Nat :=
  (partDevices p).filter fun v => v != self s && liveCount d p v s != 0 &&
    (match contribOf (tileOf p i) true v with
      | some c => !(c.added && c.members == liveCount d p v s)
      | none => true)

/-- A non-root device whose live contributions are all added sends its partial, again after an exclusion (R140, R154). -/
def sendPartial (key i : Nat) (s : State) : State :=
  match jobOf key s with
  | none => s
  | some j => match craneOf? j with
    | none => s
    | some (d, p) =>
      let t := tileOf p i
      let root := rootOf p i s
      let n := (liveAt d p (self s) s).length
      if root = self s ∨ n = 0 ∨ pendingAdds d p i s ≠ [] ∨ t.sent = some n ∨ t.acc = [] then s
      else
        let b := t.acc.flatMap fun x => le (accBytes d) x.toNat
        let gs := dataSegments j 3 i n (partialFormat d) t.poison b s
        let s := setCrane key (setTile i { t with sent := some n } p) s
        gs.foldl (fun s g => segToDevice root d.charter g s) s

/-- Cycles of an add (R152). -/
def addCost (d : CraneDesc) (fromDevice : Bool) (i : Nat) : Nat :=
  cdiv (tileLen d i) (128 * (if fromDevice then 1 else perLane d.inFormat))

/-- A complete contribution or partial merged into its tile's accumulator (R133, R134, R150, R156): freed under ABORT, spilled under
EXCLUDE where the deck has no room. One that was spilled is read back from Stage; a poisoned granule there poisons it (R151, R156). -/
def addContrib (key i : Nat) (fromDevice : Bool) (src : Nat) (s : State) : State :=
  match jobOf key s with
  | none => s
  | some j => match craneOf? j with
    | none => s
    | some (d, p) =>
      let t := tileOf p i
      match contribOf t fromDevice src with
      | none => s
      | some c =>
        let f := if fromDevice then partialFormat d else d.inFormat
        let n := inputBytes d fromDevice i
        let back : Option (Option Bytes) := c.spilled.map fun a => stageRead d.charter a n s
        let c := { c with poison := c.poison || back == some none }
        let data := match back with
          | none => contribData c n
          | some v => v.getD (zeros n)
        let s := if back.isSome then { s with spillUsed := s.spillUsed + n } else s
        let vs := inputValues f (tileLen d i) data
        let acc := if t.acc = [] then vs.1 else List.zipWith (craneOp d) t.acc vs.1
        let c := { c with added := true, pieces := if d.policy = 1 then c.pieces else [] }
        let t := putContrib c { t with acc := acc, count := t.count + c.members, poison := t.poison || c.poison }
        let p := { setTile i t p with inOverflow := p.inOverflow + vs.2 }
        let s := if vs.2 = 0 then s else reportGuest j 0 0 false [0, vs.2, 0, 0] s
        sendPartial key i (spillContrib key i fromDevice src (setCrane key p s))

/-! Passes. -/

/-- An accumulator in the output format: bytes, elements saturated, NaN elements (R135 to R137). -/
def outputTile (format : Nat) (stoch : Bool) (seed row : Nat) (xs : List (BitVec 64)) : Bytes × Nat × Nat :=
  let mode (k : Nat) : RoundMode := if stoch then .stochastic (Config.seeded seed row k) else .even
  if intFormat format then
    let es := xs.map (intElem format)
    (packElems format (es.map fun e => e.w), es.countP fun e => e.sat, 0)
  else if mxFormat format then
    let n := xs.length / 1024 + (if xs.length % 1024 = 0 then 0 else 1)
    (List.range n).foldl (fun acc g =>
      let grp := (xs.drop (1024 * g)).take 1024
      let blocks := (List.range (grp.length / 32)).map fun b =>
        mxBlock format ((upto (1024 * g + 32 * b) 32).map mode) (((grp.drop (32 * b)).take 32).map fun x => x.setWidth 32)
      let es := blocks.flatMap fun b => b.2
      (acc.1 ++ (blocks.map fun b => BitVec.ofNat 8 b.1) ++ packElems format (es.map fun e => e.w),
        acc.2.1 + es.countP (fun e => e.sat), acc.2.2 + es.countP fun e => e.nan)) ([], 0, 0)
  else
    let es := xs.zipIdx.map fun x => outElem format (mode x.2) (x.1.setWidth 32)
    (packElems format (es.map fun e => e.w), es.countP fun e => e.sat, es.countP fun e => e.nan)

/-- The program of a Crane job: constants, PASS words, unit cycles, bytes to load (R149, R217). -/
def cranePass (d : CraneDesc) (s : State) : Option (Bytes × List Nat × Nat × Nat) :=
  if !bit d.flags 0 then none
  else
    match tget s.hm.programs d.programId with
    | none => none
    | some p => (variantOf p.image d.outFormat).bind fun v => (variantEntry p.image v false).map fun e =>
        (imgConstBytes p.image, e.1, e.2, loadBytes p.image)

/-- Cycles of a pass (R152, R207). -/
def passCost (d : CraneDesc) (i : Nat) (s : State) : Nat :=
  let n := cdiv (tileLen d i) 128
  n + (match cranePass d s with | some x => n * x.2.2.1 | none => 0)

/-- A tile counts as sealed: recorded by the acceptance unit of the device that runs the job, its inputs freed (R148, R150,
R157). -/
def recordTile (key i : Nat) (s : State) : State :=
  match jobOf key s with
  | none => s
  | some j => match craneOf? j with
    | none => s
    | some (d, p) =>
      let t := tileOf p i
      if t.sealed then s
      else
        let t' := { t with sealed := true, contribs := [], acc := [] }
        let p := { setTile i t' p with
          sealedTiles := p.sealedTiles + 1, shortTiles := p.shortTiles + b2n (decide (t.count < d.memberCount)),
          saturated := p.saturated + t.sat, nanOut := p.nanOut + t.nan,
          lastUsed := t.count, poisonedTiles := p.poisonedTiles + b2n t.poison }
        logProgress 1 i { j with st := .crane p } s

/-- Where tile i's output lies in the pool: address and bytes (R148). -/
def tileArea (d : CraneDesc) (i : Nat) : Nat × Nat :=
  (d.outVa + packedBytes d.outFormat (i * tileElems d), packedBytes d.outFormat (tileLen d i))

/-- Addresses that the writes of tile i may bear. -/
def tileAddrs (j : Job) (d : CraneDesc) (i : Nat) (s : State) : List Nat :=
  let a := tileArea d i
  (pieces256 a.1 a.2 ++ (granulesIn a.1 a.2).map fun g => (g, 64)).map fun (x : Nat × Nat) =>
    let t := jobTranslate (charterOf j) x.1 false s
    (entryOf t.2.1 s).baseFpa + t.2.2

/-- Some write of tile i is not answered yet. -/
def tileWriting (j : Job) (d : CraneDesc) (i : Nat) (s : State) : Bool :=
  let fpas := tileAddrs j d i s
  (writesOut j s).any fun o => o.opcode == opWrite && fpas.contains o.req.address

/-- Pool writes that carry tile i (R148, R486). -/
def tileWrites (d : CraneDesc) (i : Nat) (poison : Bool) : Nat :=
  let a := tileArea d i
  if poison then (granulesIn a.1 a.2).length else (pieces256 a.1 a.2).length

/-- A tile sealed here, with the counts of its pass: recorded, or reported to the device that runs the job; the other devices of
the job learn that it is sealed, and free what they retained (R150, R157; log 17). -/
def sealTile (key i : Nat) (told : List Nat) (s : State) : State :=
  match jobOf key s with
  | none => s
  | some j => match craneOf? j with
    | none => s
    | some (d, p) =>
      let t := tileOf p i
      let s := recordTile key i s
      let holder := j.guest.getD (self s)
      let rest := p.parts.filter fun v => v != self s && v != holder && !told.contains v
      let s := rest.foldl (fun s v => segToDevice v d.charter (segmentOf j 0 i 0 t.count 0 t.poison [] s) s) s
      reportGuest j i t.count t.poison [t.sat, 0, t.nan, if d.collective = 3 then tileWrites d i t.poison else 0] s

/-- The tiles of a REDUCE_TO_POOL job whose writes have all been answered count as sealed; one that shares a poisoned granule is
poisoned (R148, R156). -/
def recordWritten (key : Nat) (s : State) : State :=
  match jobOf key s with
  | none => s
  | some j => match craneOf? j with
    | none => s
    | some (d, p) =>
      if d.collective ≠ 3 ∨ j.phase ≠ .running then s
      else
        let ready := p.tiles.filter fun t => t.2.passed && !t.2.sealed && !tileWriting j d t.1 s
        let p := ready.foldl (fun p t =>
          if (tileAddrs j d t.1 s).any j.badWrites.contains then setTile t.1 { t.2 with poison := true } p else p) p
        ready.foldl (fun s t => sealTile key t.1 [] s) (setCrane key p s)

/-- Devices other than this one that tile i's result goes to (R146). -/
def resultDevices (d : CraneDesc) (p : CraneSt) (i : Nat) (s : State) : List Nat :=
  (sorted ((receivers d p i).map fun h => attachedTo h s)).filter fun v => v != self s

/-- A sealed tile sent to its receivers: RESULT segments, then CLOSE, to each host here and once to each other device that has
one (R140, R146, R147, R156). -/
def sendResult (j : Job) (d : CraneDesc) (p : CraneSt) (i count : Nat) (poison : Bool) (b : Bytes) (s : State) : State :=
  let rs := receivers d p i
  let gs := dataSegments j 4 i count d.outFormat poison b s ++
    [segmentOf j 5 i (crc32c b) count d.outFormat poison [] s]
  let here := rs.filter fun h => attachedTo h s == self s
  let away := resultDevices d p i s
  let s := here.foldl (fun s h => gs.foldl (fun s g => segToHost h d.charter g s) s) s
  away.foldl (fun s v => gs.foldl (fun s g => segToDevice v d.charter g s) s) s

/-- Bytes of a Crane's 256 KiB output buffer in use (R150): what waits before the switch core's buffer at its ports, each segment once,
and writes that are held. -/
def craneOut (crane : Nat) (s : State) : Nat :=
  let port (n : Nat) : Bool := decide (132 + 4 * crane ≤ n ∧ n < 136 + 4 * crane)
  (((s.sw.cells.filter fun c => c.place == 3 && port c.ingress).map fun c => c.items).dedup.map fun l =>
    (l.map fun i => i.bytes.length).sum).sum +
  ((s.ing.outst.filter fun o => o.engine == some crane && o.waits).map fun o => o.req.payload.length).sum

/-- May the root seal tile i (R154)? -/
def mayPass (d : CraneDesc) (p : CraneSt) (i : Nat) (s : State) : Bool :=
  let t := tileOf p i
  rootOf p i s == self s && decide (i < tileCount d) && !t.sealed && !t.passed && t.acc != [] && pendingAdds d p i s == [] &&
  pendingPartials d p i s == []

/-- A pass: the program, the conversion, and the tile sent or written (R135 to R137, R146, R148, R149, R156). -/
def passOver (key i : Nat) (s : State) : State :=
  match jobOf key s with
  | none => s
  | some j => match craneOf? j with
    | none => s
    | some (d, p) =>
      let t := tileOf p i
      let acc := match cranePass d s with
        | none => t.acc
        | some x => passTile x.1 x.2.1 t.count i (i * tileElems d) (cdiv (tileLen d i) 128) (List.replicate 4 0#64) t.acc
      let out := outputTile d.outFormat (d.rounding == 1) j.seed i acc
      let p := setTile i { t with passed := true, sat := out.2.1, nan := out.2.2 } p
      let s := setCrane key p s
      if d.collective = 3 then
        let a := tileArea d i
        recordWritten key (poolWrite key (some (i % 32)) a.1 a.2 (if t.poison then none else some out.1) s)
      else sealTile key i (resultDevices d p i s) (sendResult j d p i t.count t.poison out.1 s)

/-- Work of a Crane job that is ready (R152): every complete input not yet added, in its order of arrival, and behind them the pass that
they allow; each with the Crane it falls to (R140). -/
def craneReady (j : Job) (s : State) : List (Nat × Work) :=
  match craneOf? j with
  | none => []
  | some (d, p) =>
    if j.phase ≠ .running then []
    else p.tiles.flatMap fun x =>
      let adds := if x.2.sealed || x.2.passed then [] else x.2.contribs.filter fun c => !c.added && complete d x.1 c
      let all := { x.2 with contribs := x.2.contribs.map fun c => if complete d x.1 c then { c with added := true } else c,
                            acc := if adds = [] then x.2.acc else [0#64] }
      let pass := mayPass d (setTile x.1 all p) x.1 s && j.awaitFence == []
      (adds.map fun c => (x.1 % 32, Work.craneAdd x.1 c.fromDevice c.src)) ++ (if pass then [(x.1 % 32, Work.cranePass x.1)] else [])

/-- Cycles of a unit of a Crane job, the program it runs, and its bytes to load (R152, R207, R221). -/
def craneCost (j : Job) (w : Work) (s : State) : Nat × Option Nat × Nat :=
  match craneOf? j, w with
  | some (d, _), .craneAdd i fromDevice _ => (addCost d fromDevice i, none, 0)
  | some (d, _), .cranePass i =>
    (passCost d i s, if bit d.flags 0 then some d.programId else none, match cranePass d s with | some x => x.2.2.2 | none => 0)
  | _, _ => (0, none, 0)

/-- A unit of a Crane job can retire now: its input is complete and the spill traffic of reading it back fits the tide, or its tile may
pass and the Crane's output buffer has room (R150 to R154). -/
def craneMay (j : Job) (w : Work) (s : State) : Bool :=
  match craneOf? j, w with
  | some (d, p), .craneAdd i fromDevice src =>
    j.phase == .running && (match contribOf (tileOf p i) fromDevice src with
      | none => false
      | some c => !c.added && complete d i c &&
          (c.spilled.isNone || decide (s.spillUsed + inputBytes d fromDevice i ≤ spillLimit s)))
  | some (d, p), .cranePass i =>
    j.phase == .running && mayPass d p i s && j.awaitFence == [] &&
    decide (craneOut (i % 32) s + packedBytes d.outFormat (tileLen d i) ≤ 262144)
  | _, _ => false

/-- A unit of a Crane job retires: an add, or a pass (R34, R152). -/
def craneUnit (key : Nat) (w : Work) (s : State) : State :=
  match w with
  | .craneAdd i fromDevice src => addContrib key i fromDevice src s
  | .cranePass i => passOver key i s
  | _ => s

/-- A tile's result from its root goes on to the members here; at its CLOSE the tile is sealed and what it retained is freed
(R146, R150). The device that runs the job records it with the root's report. -/
def takeResult (key : Nat) (j : Job) (d : CraneDesc) (p : CraneSt) (g : Segment) (s : State) : State :=
  if (tileOf p g.tile).sealed then s
  else
    let here := (receivers d p g.tile).filter fun h => attachedTo h s == self s
    let s := here.foldl (fun s h => segToHost h d.charter g s) s
    if g.kind ≠ 5 ∨ j.guest.isNone then s
    else recordTile key g.tile (setCrane key (setTile g.tile { tileOf p g.tile with count := g.members, poison := g.poison } p) s)

/-- A report of a device that takes part in the job: its counts are added, its tile is recorded (R157, R161). -/
def takeCounts (key : Nat) (j : Job) (d : CraneDesc) (p : CraneSt) (g : Segment) (s : State) : State :=
  let c (k : Nat) : Nat := fld g.data (4 * k) 4
  let home := (areaHomes d.charter d.sealVa 8 s).headD 0
  let j := if c 3 = 0 then j else { j with sent := tput j.sent home (tgetD j.sent home 0 + c 3) }
  let p := { p with inOverflow := p.inOverflow + c 1 }
  let p := if g.members = 0 ∨ (tileOf p g.tile).sealed = true then p
    else setTile g.tile { tileOf p g.tile with count := g.members, poison := g.poison, sat := c 0, nan := c 2 } p
  let s := setJob { j with st := .crane p } s
  if g.members = 0 then s else recordTile key g.tile s

/-- RESULT_RECEIVE: results and CLOSEs of a tile, the reports and DONEs of the devices of a job (R146, R155, R157, R158). What is of
a superseded attempt is dropped. A DONE from the device that runs the job goes to the members here and ends this device's part; one
from another device stops the job with its code, or begins its next attempt with code 0 (log 17). -/
def takeFromDevice (g : Segment) (s : State) : State :=
  let key := jobKey g.jobDevice g.jobSlot
  match jobOf key s with
  | none => s
  | some j => match craneOf? j with
    | none => s
    | some (d, p) =>
      if g.attempt ≠ j.attempt ∨ g.seqLo ≠ j.hdr.seq % 65536 then s
      else if g.kind = 6 ∧ j.guest.isSome = true then dropJob key (supersede key (sendDones j g.aux s))
      else if j.phase ≠ .running then s
      else if g.kind = 6 then
        (if g.aux = 0 then supersede key (setJob { j with phase := .accepted } s) else stopJob key g.aux (recordReason g.aux s))
      else if g.kind = 0 then (if j.guest.isSome then recordTile key g.tile s else takeCounts key j d p g s)
      else takeResult key j d p g s

/-! Membership. -/

/-- A member removed from every tile not yet sealed (R154): a tile that had added its contribution, or a partial that may hold it, is
recomputed, one whose result is being written to pool included. -/
def removeMember (host : Nat) (d : CraneDesc) (p : CraneSt) (s : State) : CraneSt :=
  let dev := attachedTo host s
  let p1 := { p with live := p.live.erase host }
  let n := (liveAt d p1 dev s).length
  let gone (c : Contrib) : Bool := if c.fromDevice then c.src == dev && decide (n < c.members) else c.src == host
  let fix (t : Tile) : Tile :=
    if t.sealed then t
    else
      let had := t.contribs.any fun c => gone c && c.added
      let t := { t with contribs := t.contribs.filter fun c => !gone c }
      if had then resetTile t else t
  { p1 with excluded := p.excluded.erase host, heard := tdel p.heard host,
            firstDead := if p.firstDead.isSome then p.firstDead else some host,
            waiting := p.waiting.filter (fun g => g.srcDevice || g.sender != host),
            tiles := if (contributors d p).contains host then p.tiles.map (fun (x : Nat × Tile) => (x.1, fix x.2)) else p.tiles }

/-- A Crane job stops at the boundary with a code, between attempts too (R155). -/
def stopCrane (key code : Nat) (s : State) : State :=
  match jobOf key s with
  | none => s
  | some j =>
    match j.phase with
    | .accepted => setJob { j with phase := .stopping code } s
    | .starting => setJob { j with phase := .stopping code } s
    | _ => stopJob key code s

/-- An exclusion applied (R154, R155): the source of a BROADCAST stops the job, a dead receiver of one is dropped; under ABORT
the job stops, and under EXCLUDE the member is removed and partials are sent again. -/
def applyExclusion (key host : Nat) (s : State) : State :=
  match jobOf key s with
  | none => s
  | some j => match craneOf? j with
    | none => s
    | some (d, p) =>
      if !p.live.contains host then s
      else
        let src := isBroadcast d && (contributors d p).contains host
        let p' := removeMember host d p s
        let s := setCrane key p' s
        if src then stopCrane key 0x0A0A s
        else if isBroadcast d then s
        else if d.policy = 0 then
          stopCrane key 0x0A05 (setCrane key { p' with tiles := p'.tiles.filter fun t => t.2.sealed } s)
        else (p'.tiles.map fun t => t.1).foldl (fun s i => sendPartial key i s) s

/-- A member declared dead by the device it is attached to: reported, and every participating device told (R153). -/
def declareMember (key host : Nat) (s : State) : State :=
  match jobOf key s with
  | none => s
  | some j => match craneOf? j with
    | none => s
    | some (_, p) =>
      if !p.live.contains host || p.excluded.contains host then s
      else
        let s := raise 0x0A06 [(evHost, host), (evJobDevice, j.device), (evSlot, j.slot)] s
        let s := broadcast ctlExclusion [j.device, j.slot, host] s
        noteExclusion key host s

/-- Tides a member may stay silent (R159). -/
def memberTides (d : CraneDesc) : Nat := if d.memberTimeout = 0 then 16384 else 16 * d.memberTimeout

/-- Has a member a tile outstanding (R153)? What waits for deck or spill room has been sent. -/
def owesTile (d : CraneDesc) (p : CraneSt) (host : Nat) : Bool :=
  (List.range (tileCount d)).any fun i =>
    let t := tileOf p i
    let here := ((p.waiting.filter fun g => g.tile == i && !g.srcDevice && g.sender == host).map fun g => g.data.length).sum
    !t.sealed && !t.passed && (match contribOf t false host with
      | some c => !complete d i c && !c.added && decide (contribBytes c + here < inputBytes d false i)
      | none => decide (here < inputBytes d false i))

/-- MEMBER_TIMEOUT: no segment for a called tile within member_timeout tides (R153). -/
def execMemberTimeout (slot host : Nat) (s : State) : Ans :=
  onCore s fun s =>
    let key := jobNo slot s
    match jobOf key s with
    | none => s
    | some j => match craneOf? j with
      | none => s
      | some (d, p) =>
        if j.phase = .running ∧ (liveAt d p (self s) s).contains host = true ∧ owesTile d p host = true ∧
            tgetD p.heard host j.startTide + memberTides d ≤ s.tide.count then declareMember key host s
        else s

/-- EXCLUSION_NOTICE: applied at the first boundary after it (R153). -/
def execExclusionNotice (slot host : Nat) (s : State) : Ans := onCore s (noteExclusion (jobNo slot s) host)

/-- Crane jobs that run. -/
def craneKeys (s : State) : List Nat :=
  (s.acc.jobs.filter fun j => (craneOf? j).isSome && jobLive j).map keyOf

/-- A host is dead: every Crane job of which it is a member here declares it (R153, R345). -/
def craneHostDead (host : Nat) (s : State) : State := (craneKeys s).foldl (fun s k => declareMember k host s) s

/-- A device is lost or leaves: its members are declared dead and removed at this boundary (R153). -/
def craneDeviceLost (dev : Nat) (s : State) : State :=
  (craneKeys s).foldl (fun s k =>
    match jobOf k s with
    | none => s
    | some j => match craneOf? j with
      | none => s
      | some (_, p) =>
        (p.live.filter fun h => attachedTo h s == dev).foldl (fun s h =>
          applyExclusion k h (raise 0x0A06 [(evHost, h), (evJobDevice, j.device), (evSlot, j.slot)] s)) s) s

/-- At a boundary: the members of devices that R125 declared dead are declared dead and removed (R153). -/
def dropDeadDevices (key : Nat) (s : State) : State :=
  match jobOf key s with
  | none => s
  | some j => match craneOf? j with
    | none => s
    | some (_, p) =>
      if !jobLive j then s
      else (p.live.filter fun h => s.home.dead.contains (attachedTo h s)).foldl (fun s h =>
        applyExclusion key h (raise 0x0A06 [(evHost, h), (evJobDevice, j.device), (evSlot, j.slot)] s)) s

/-! Attempts and ends. -/

/-- A Crane job's progress as an attempt begins: recorded tiles stay, the others are computed again (R157). -/
def craneFresh (p : CraneSt) : CraneSt :=
  { p with tiles := p.tiles.filter (fun t => t.2.sealed), waiting := [], heard := [], counts := [], excluded := [] }

/-- CALLs of an attempt to the contributors here, naming the tiles it still needs (R142, R157). -/
def callMembers (key : Nat) (s : State) : State :=
  match jobOf key s with
  | none => s
  | some j => match craneOf? j with
    | none => s
    | some (d, p) =>
      if j.phase ≠ .running then s
      else
        let need := (List.range (tileCount d)).filter fun i => !(tileOf p i).sealed
        let hs := liveAt d p (self s) s
        let s := setCrane key { p with heard := hs.foldl (fun t h => tput t h s.tide.count) p.heard } s
        hs.foldl (fun s h => (runsOf need).foldl (fun s r =>
          segToHost h d.charter (segmentOf j 1 r.1 r.2 0 d.inFormat false [] s) s) s) s

/-- The attempt told to the other devices that take part in it (R140; log 17). -/
def tellDevices (key : Nat) (s : State) : State :=
  match jobOf key s with
  | none => s
  | some j => match craneOf? j with
    | none => s
    | some (d, p) =>
      let x : CraneJoin :=
        { holder := self s, device := j.device, slot := j.slot, hdr := j.hdr, attempt := j.attempt, seed := j.seed, desc := d,
          members := p.members, live := p.live, parts := p.parts,
          done := (p.tiles.filter fun t => t.2.sealed).map fun t => t.1 }
      (p.parts.filter fun v => v != self s).foldl (fun s v => emit (.join v x) s) s

/-- An attempt begins at the device that runs the job: members whose host or device is down are removed first, then the devices of
the job are told, for their DONE when the job stops on that, and the members called (R140, R142, R153, R155, R157). -/
def craneBegin (key : Nat) (s : State) : State :=
  match jobOf key s with
  | none => s
  | some j => match craneOf? j with
    | none => s
    | some (_, p) =>
      let gone := (p.live.filter fun h => attachedTo h s == self s && !hostAlive h s) ++
        p.live.filter fun h => attachedTo h s != self s && !(deviceMember (attachedTo h s) s)
      let s := gone.foldl (fun s h =>
        applyExclusion key h (raise 0x0A06 [(evHost, h), (evJobDevice, j.device), (evSlot, j.slot)] s)) s
      match jobOf key s with
      | none => s
      | some j => match craneOf? j with
        | none => s
        | some (_, p) => callMembers key (tellDevices key (setCrane key { p with parts := partsNow p s } s))

/-- This device takes part in another device's job: it holds the job under the attempt it is told of, in place of an earlier one,
fences the home it may write to, and calls its members (R85, R140, R142, R148, R157). It joins once fewer than 64 other Crane jobs
are active here (R152). -/
def joinJob (x : CraneJoin) (s : State) : State :=
  let key := jobKey x.device x.slot
  let old := jobOf key s
  let fresh := match old with
    | none => true
    | some o => o.guest.isSome && attemptLower o.attempt x.attempt
  let others := s.acc.jobs.filter fun j => jobKey j.device j.slot != key
  if x.holder = self s ∨ !fresh ∨ 64 ≤ activeCranes { s with acc := { s.acc with jobs := others } } then s
  else
    let s := dropJob key (supersede key s)
    let p : CraneSt :=
      { members := x.members, live := x.live, parts := x.parts, heard := [], counts := [], excluded := [], firstDead := none,
        tiles := x.done.map fun i => (i, { tile0 with sealed := true }), waiting := [], sealedTiles := 0, shortTiles := 0,
        lastUsed := 0, saturated := 0, inOverflow := 0, poisonedTiles := 0, nanOut := 0, discarded := 0 }
    let homes := if x.desc.collective = 3 then areaHomes x.desc.charter x.desc.sealVa 8 s else []
    let j := { newJob x.slot x.device cmdCrane x.attempt x.hdr (.crane x.desc) [] with
      phase := .running, startTide := s.tide.count, firstTide := some s.tide.count, seed := x.seed, awaitFence := homes,
      st := .crane p, guest := some x.holder }
    let s := homes.foldl (fun s h => jobFence key h s) (addJob j s)
    let s := (p.live.filter fun h => attachedTo h s == self s && !hostAlive h s).foldl (fun s h => declareMember key h s) s
    callMembers key s

/-- Every tile counts as sealed (R158). -/
def craneDone (d : CraneDesc) (p : CraneSt) : Bool := decide (tileCount d ≤ p.sealedTiles)

/-- Reason of a Crane job that reached its end (R156, R158). -/
def craneReason (p : CraneSt) : Nat := if p.poisonedTiles = 0 then 0 else 0x0A0C

/-- A Crane job's result header (R161). -/
def craneResult (j : Job) (d : CraneDesc) (p : CraneSt) (reason : Nat) (s : State) : Bytes :=
  packBytes [(2, reason), (2, d.memberCount), (2, if isBroadcast d then 1 else p.lastUsed), (1, j.attempts), (1, 0),
    (4, p.sealedTiles), (4, p.shortTiles), (4, p.saturated), (2, min 0xFFFF p.inOverflow), (2, min 0xFFFF p.poisonedTiles),
    (4, p.nanOut), (2, p.firstDead.getD 0xFFFF), (2, min 0xFFFF (s.tide.count + 1 - j.firstTide.getD s.tide.count))]

end Sys2Proof.Machine
end

