-- ==== Sys2Proof/Machine/Store.lean ====
section
/-! DEFINITION. Persistent stores: the hold-up check and the logbook flush (R370, R371, R457 to R459). -/

namespace Sys2Proof.Machine
open Sys2Proof

/-- The board declaration the stores take: capacitance in µF and minimum voltage in mV, as written over the sideband and in
effect, else from the active settings slot (R458, R460; log 20). -/
def declaration (s : State) : Option (Nat × Nat) :=
  match s.isl.decl with
  | some d => some (d.1, d.2.1)
  | none => (activeSettings s).map fun x => (x.2.1, x.2.2)

/-- The hold-up check of R370 for a store of n bytes at a bank voltage in mV: E = ½ C (V² − Vmin²) is at least 1.5 times
180 W × (n ÷ 12 GB/s + 50 µs). Both sides are in units of 1/24 pJ. -/
def energyOk (c vmin v n : Nat) : Bool :=
  decide (540000 * n + 324000000000 ≤ 12 * c * (v * v - vmin * vmin))

/-- The hold-up check with the voltage read, none when V cannot be read (R370, R457, R458). -/
def holdupOk (mv : Option Nat) (n : Nat) (s : State) : Bool :=
  match mv, declaration s with
  | some v, some d => energyOk d.1 d.2 v n
  | _, _ => false

/-- The last hold-up voltage read (R478). -/
def noteHoldup (mv : Option Nat) (s : State) : State :=
  match mv with
  | some v => { s with isl := { s.isl with holdupMv := v % 65536 } }
  | none => s

/-- The image header of a flush (R371). -/
def imageHeader (full : Bool) (count : Nat) (recs : List LogRec) (s : State) : Bytes :=
  let b := packBytes [(4, 0x4C42494D), (1, if full then 1 else 2), (1, self s), (2, 0), (8, count), (8, s.tide.count),
    (8, if full then recordsSize recs else 64 * recs.length),
    (8, match recs with | r :: _ => r.logSeq | [] => 0), (4052, 0)]
  b ++ le 4 (crc32c b)

/-- flush_count of the newest image, 0 before any. -/
def lastFlush (s : State) : Nat := (s.acc.images.map fun x => x.1).foldl max 0

/-- Offset of the older image area on the SSD: area A for an odd flush count, area B for an even one (R371, R456). -/
def flushArea (count : Nat) : Nat := if count % 2 = 1 then 0x04C00000 else 0x09000000

/-- A flush after its hold-up check: full, else headers, else nothing; 0x130B raised when the full one fails (R370). Its
flag is false when nothing is written. A flush already under way serves its new owner too (log 10). -/
def startFlush (mv : Option Nat) (owner : FlushOwner) (s : State) : Bool × State :=
  let s := noteHoldup mv s
  let own (s : State) : State := { s with acc := { s.acc with flushFor := s.acc.flushFor ++ [owner] } }
  if s.acc.flush.isSome then (true, own s)
  else
    let recs := s.acc.log
    let live := liveRecords s
    let count := lastFlush s + 1
    let begin_ (full : Bool) (rs : List LogRec) (data : Bytes) (s : State) : State :=
      emit (.ssd (flushArea count + 4096) data)
        (own { s with acc := { s.acc with flush := some (full, rs), flushMode := true } })
    if holdupOk mv (recordsSize recs) s then (true, begin_ true recs (recs.flatMap recordBytes) s)
    else
      let s := raise 0x130B [] s
      if holdupOk mv (4096 + 64 * live.length) s then
        (true, begin_ false live (live.flatMap fun r => (recordBytes r).take 64) s)
      else (false, s)

/-- The flush ends: its image header written, or a failed write (R371). Its code and its owners. -/
def endFlush (ok : Bool) (s : State) : Nat × List FlushOwner × State :=
  match s.acc.flush with
  | none => (0, [], s)
  | some (full, recs) =>
    let count := lastFlush s + 1
    let owners := s.acc.flushFor
    let s := { s with acc := { s.acc with flush := none, flushFor := [], flushMode := false } }
    let s := if ok then
        let s := emit (.ssd (flushArea count) (imageHeader full count recs s)) s
        let keep := s.acc.images.filter fun x => decide (count < x.1 + 2)
        { s with acc := { s.acc with images := keep ++ [(count, full, recs)] } }
      else raise 0x130C [] s
    (if !ok then 0x130C else if full then 0 else 0x130B, owners, s)

/-- The records a cold start restores: those of the image with the highest flush count; records of a HEADERS image whose
body is missing no longer pass their CRC (R368, R371). -/
def restoredLog (s : State) : List LogRec :=
  match s.acc.images.find? fun x => x.1 == lastFlush s with
  | none => []
  | some (_, full, recs) => if full then recs else recs.map fun r => { r with crcOk := r.body.isEmpty, body := [] }

end Sys2Proof.Machine
end

