-- ==== Sys2Proof/Machine/Firmware.lean ====
section
/-! DEFINITION. Firmware images, banks, commits, activation and readiness (R419, R420, R427 to R439). -/

namespace Sys2Proof.Machine
open Sys2Proof

/-! Images and banks. -/

/-- Digest, offset and length of component i of an image: loader, firmware, microcode (R429). -/
def compDigest (b : Bytes) (i : Nat) : Bytes := slice b (32 + 48 * i) 48
def compOffset (b : Bytes) (i : Nat) : Nat := fld b (176 + 8 * i) 8
def compLength (b : Bytes) (i : Nat) : Nat := fld b (200 + 4 * i) 4

/-- A component's bytes. -/
def compBytes (b : Bytes) (i : Nat) : Bytes := slice b (compOffset b i) (compLength b i)

/-- The image's raise_floor flag and signing key (R429). -/
def imageRaises (b : Bytes) : Bool := bit (fld b 6 2) 0
def imageKey (b : Bytes) : Nat := fld b 17 1

/-- Header fields, reserved bytes and size (R429, R433 step 1). -/
def imageFormed (b : Bytes) : Bool :=
  decide (fld b 0 4 = 0x4C5A4657 ∧ fld b 4 2 = 1 ∧ fld b 6 2 < 2 ∧ imageSvn b ≤ 64 ∧ imageKey b ≤ 2 ∧ fld b 22 2 = 0 ∧
    fld b 24 8 = b.length ∧ 4096 ≤ b.length ∧ b.length ≤ 33554432 ∧ slice b 212 3788 = zeros 3788) &&
  (List.range 3).all fun i => decide (compOffset b i % 4096 = 0 ∧ compOffset b i + compLength b i ≤ b.length)

/-- The signing key, carried in the loader's first 97 bytes, is an unrevoked one of the fuses and its signature verifies (R429,
R433 step 3). -/
def imageSigned (b : Bytes) (s : State) : Bool :=
  let key := (compBytes b 0).take 97
  !bit s.hm.fwRevoked (imageKey b) && tget s.hm.fwKeyFuses (imageKey b) == some (Config.sha384 key) &&
  Config.ecdsaVerify key (b.take 4000) (slice b 4000 96)

/-- The components match their digests (R433 step 5). -/
def imageDigests (b : Bytes) : Bool := (List.range 3).all fun i => Config.sha384 (compBytes b i) == compDigest b i

/-- The checks of a commit before anything is written (R433 steps 1 to 6); 0 when all pass. -/
def commitCode (b : Bytes) (mv : Option Nat) (s : State) : Nat :=
  firstCode [(!imageFormed b, 0x1121), (decide (fld b 8 4 ≠ idPart), 0x1124), (!imageSigned b s, 0x1122),
    (decide (imageSvn b < s.hm.floor), 0x1123), (!imageDigests b, 0x1121), (!holdupOk mv (b.length + 12288) s, 0x130B)]

/-- Place of a bank on the SSD (R456). -/
def bankPlace (n : Nat) : Nat := if n = 0 then 0x00400000 else 0x02800000

/-- A bank header, whose layout is not tabulated (R430; log 6). -/
def bankHeader (n count : Nat) (b : Bytes) : Bytes := Config.blockImage 0x4C5A424B [n, count, b.length] ++ Config.sha384 b

/-- An image committed to the inactive bank: the first check that fails, or the outcome of the writes (R433). -/
def commitImage (b : Bytes) (mv : Option Nat) (writeOk : Bool) (s : State) : Nat × State :=
  let s := noteHoldup mv s
  let c := commitCode b mv s
  if c = 0x130B then (c, raise 0x130B [] s)
  else if c ≠ 0 then (c, recordReason c s)
  else
    let n := 1 - s.hm.active
    let count := match tget s.hm.banks n with | some k => k.commitCount + 1 | none => 1
    let s := emit (.ssd (bankPlace n + 4096) b) (emit (.ssd (bankPlace n) (zeros 4096)) s)
    let put (k : Bank) (s : State) : State := { s with hm := { s.hm with banks := tput s.hm.banks n k } }
    if writeOk then
      (0, emit (.ssd (bankPlace n) (bankHeader n count b))
        (put { commitCount := count, image := b, valid := true } { s with hm := { s.hm with fwStage := none } }))
    else
      (0x1125, raise 0x1125 [] (put { commitCount := count - 1, image := b, valid := false } s))

/-! Update. -/

/-- An activation that names this device is notified or committed, or a commit runs (R432, R434). -/
def fwBusy (s : State) : Bool :=
  s.hm.fwCommit.isSome || s.man.notices.any fun n => match n.change with
    | .fwActivate mask _ => named mask s
    | _ => false

/-- Blocks staged so far. -/
def fwBlocks (s : State) : List (Nat × Bytes) := match s.hm.fwStage with | some x => x.1 | none => []

/-- The firmware, or the ROM in recovery, carries out a command of FW (R430). -/
def onFwOrRom (s : State) (f : State → State) : Ans := .next (if fwRuns s || inRecovery s then f s else s)

/-- FW_LOAD_BLOCK (R430, R432). -/
def execFwLoadBlock (h : CmdHdr) (offset : Nat) (data : Bytes) (s : State) : Ans :=
  onFwOrRom s fun s =>
    let l := fwBlocks s
    let c := firstCode [(fwBusy s, 0x1127),
      (decide (data = [] ∨ 4096 < data.length ∨ 33554432 < offset + data.length) ||
        l.any (fun p => overlap p.1 p.2.length offset data.length), 0x1120)]
    if c ≠ 0 then result h 0x1801 c [] s
    else result h 0x1801 0 [] { s with hm := { s.hm with fwStage := some (l ++ [(offset, data)], s.tide.count) } }

/-- A commit of firmware over; its command completes with the first failing device's code (R433). -/
def settleFw (c : Commit) (s : State) : State :=
  if c.awaiting ≠ [] then { s with hm := { s.hm with fwCommit := some c } }
  else
    let s := { s with hm := { s.hm with fwCommit := none } }
    match c.first with
    | none => result c.hdr 0x1802 0 [] s
    | some f => resultWith c.hdr 0x1802 f.2 (some f) [] s

/-- FW_COMMIT: the staged image sent to the other named devices, and committed here where this one is named (R430, R433). -/
def execFwCommit (h : CmdHdr) (totalLength deviceMask : Nat) (holdupMv : Option Nat) (writeOk : Bool) (s : State) : Ans :=
  onFwOrRom s fun s =>
    if fwBusy s then result h 0x1802 0x1127 [] s
    else
      match stagedImage (fwBlocks s) totalLength with
      | none => result h 0x1802 0x1120 [] s
      | some b =>
        let devs := maskDevices deviceMask
        let away := devs.filter fun d => d != self s
        let s := { s with hm := { s.hm with fwStage := some (fwBlocks s, s.tide.count) } }
        let s := away.foldl (fun s d => emit (.image d 2 b) s) s
        let p := if devs.contains (self s) then commitImage b holdupMv writeOk s else (0, s)
        settleFw { hdr := h, id := 0, awaiting := away, first := if p.1 = 0 then none else some (self p.2, p.1),
                   done := if devs.contains (self s) && p.1 == 0 then [self s] else [], stage := 1, named := devs, holders := [],
                   image := [] } p.2

/-- FW_IMAGE_RECEIVE: another device's image committed here, and the issuer answered (R433). -/
def execFwImageReceive (issuer : Nat) (image : Bytes) (holdupMv : Option Nat) (writeOk : Bool) (s : State) : Ans :=
  onHm s fun s =>
    let p := commitImage image holdupMv writeOk s
    emit (.image issuer 4 (le 2 p.1)) p.2

/-- FW_COMMIT_ANSWER (R433). -/
def execFwCommitAnswer (device code : Nat) (s : State) : Ans :=
  onHm s fun s =>
    match s.hm.fwCommit with
    | none => s
    | some c =>
      if !c.awaiting.contains device then s
      else settleFw { c with awaiting := c.awaiting.erase device,
                             first := if c.first.isSome || code == 0 then c.first else some (device, code),
                             done := if code = 0 then c.done ++ [device] else c.done } s

/-- FW_STAGE_EXPIRE: the staged blocks discarded, the slot refilled from its bank (R432). -/
def execFwStageExpire (s : State) : Ans :=
  onCore s fun s =>
    match s.hm.fwStage with
    | none => s
    | some x => if x.2 + 65536 ≤ s.tide.count then { s with hm := { s.hm with fwStage := none } } else s

/-- FW_MEASUREMENTS: entry count and first index, then up to 32 entries (R439). -/
def execFwMeasurements (h : CmdHdr) (start : Nat) (s : State) : Ans :=
  onFw s fun s => result h 0x1804 0 (le 8 s.hm.meas.length ++ le 8 start ++ measSlice start 32 s) s

/-- FW_STATUS: its block's layout is not tabulated (R413, R430; log 6). -/
def execFwStatus (h : CmdHdr) (s : State) : Ans :=
  onFwOrRom s fun s =>
    let bank (n : Nat) : List Nat := match tget s.hm.banks n with
      | some b => [b.commitCount, b2n b.valid, imageRelease b.image, imageSvn b.image]
      | none => [0, 0, 0, 0]
    result h 0x1805 0 (Config.blockImage 0x1805
      ([s.hm.active % 2, s.hm.floor] ++ bank 0 ++ bank 1 ++ [(fwBlocks s).length, s.hm.fwSteps.length])) s

/-! Layers and settings. -/

/-- The settings in use as they are measured: format, capacitance, minimum voltage (R436; log 6). -/
def settingsBytes (s : State) : Bytes :=
  let d := (declaration s).getD (0, 0)
  Config.blockImage 0x436 [imageSettings (runImage s), d.1, d.2]

/-- The secrets of the layers that run, and the alias certificate's chain (R427, R428). -/
def deriveKeys (s : State) : State :=
  let b := runImage s
  let c1 := Config.hmac384 s.sec.uds (compDigest b 0)
  let c2 := Config.hmac384 c1 (compDigest b 1 ++ compDigest b 2 ++ le 1 (imageSvn b))
  let chain := match s.hm.meas.getLast? with | some m => m.chain | none => []
  { s with sec := { s.sec with cdi1 := c1, cdi2 := c2, aliasChain := chain } }

/-- Firmware, microcode and settings entries of the image that runs (R427, R435, R439). -/
def measureLayers (s : State) : State :=
  let b := runImage s
  let s := measure 2 1 (imageRelease b) (imageSvn b) (compDigest b 1) s
  let s := measure 3 1 (imageRelease b) (imageSvn b) (compDigest b 2) s
  measure 4 1 (imageRelease b) (imageSettings b) (Config.sha384 (settingsBytes s)) s

/-- The settings written in the running image's format: into its own slot, or into the other one, which leaves the previous image's
slot as it is (R436, R460). -/
def writeSettings (s : State) : State :=
  let f := imageSettings (runImage s)
  let d := (declaration s).getD (0, 0)
  let prev := match tget s.hm.banks (1 - s.hm.active) with | some b => imageSettings b.image | none => f
  let keep := s.hm.settings.filter fun x => x.1 != f && x.1 == prev
  emit (.ssd (if f % 2 = 0 then 0x00100000 else 0x00200000) (settingsBytes s))
    { s with hm := { s.hm with settings := keep ++ [(f, d.1, d.2, true)] } }

/-- The select record naming a bank, with select_count one higher (R430, R435). -/
def writeSelect (s : State) : State :=
  let n := (s.hm.selects.map fun x => x.1).foldl max 0 + 1
  emit (.ssd (if n % 2 = 0 then 0 else 0x1000) (Config.blockImage 0x5E1 [n, s.hm.active]))
    { s with hm := { s.hm with selects := (s.hm.selects.filter fun x => decide (n < x.1 + 2)) ++ [(n, s.hm.active)] } }

/-! Activation. -/

/-- A named device's activation at its boundary: the other bank's image runs, the log extended, the alias key derived, the firmware
restarted (R435). -/
def activate (issuer release : Nat) (s : State) : State :=
  let s := { s with hm := { s.hm with
    active := 1 - s.hm.active, activateAt := none, fwReady := false, halved := true, fwPendingRaised := false,
    fwIssuer := some issuer } }
  let b := runImage s
  let s := { s with hm := { s.hm with fwSteps := [1, 2] ++ (if imageRaises b then [3] else []) ++ [4] } }
  let s := measureLayers (measure 8 1 release (imageSvn b) (Config.sha384 b) s)
  deriveKeys s

/-- A named device has done: the issuer's command completes when every one has (R435). -/
def fwDone (device : Nat) (s : State) : State :=
  match s.man.issued.find? fun i => i.applied && i.awaiting.contains device && (match i.change with
      | .fwActivate _ _ => true
      | _ => false) with
  | none => s
  | some i =>
    let i := { i with awaiting := i.awaiting.erase device }
    let s := setIssued i s
    if i.awaiting = [] then completeIssued i.number 0 none none [] s else s

/-- FW_DONE_REPORT (R435). -/
def execFwDoneReport (device : Nat) (s : State) : Ans := onCore s (fwDone device)

/-- A write of the last steps is put off: the code raised once (R435). -/
def selectPending (s : State) : State :=
  let s := raise 0x130B [] s
  if s.hm.fwPendingRaised then s else raise 0x112B [] { s with hm := { s.hm with fwPendingRaised := true } }

/-- The steps after an activation in order, each write under the hold-up check; the first that fails waits (R370, R435 to R437,
R439). -/
def postReady (fuel : Nat) (mv : Option Nat) (s : State) : State :=
  match fuel with
  | 0 => s
  | k + 1 =>
    match s.hm.fwSteps with
    | [] => s
    | 1 :: r =>
      if holdupOk mv (2 ^ 20) s then postReady k mv (writeSettings { s with hm := { s.hm with fwSteps := r } })
      else selectPending s
    | 2 :: r =>
      if holdupOk mv 4096 s then postReady k mv (writeSelect { s with hm := { s.hm with fwSteps := r } })
      else selectPending s
    | 3 :: r =>
      let s := { s with hm := { s.hm with fwSteps := r, floor := max s.hm.floor (imageSvn (runImage s)) } }
      postReady k mv (measureSecurity s)
    | _ :: r =>
      let i := s.hm.fwIssuer.getD (self s)
      let s := { s with hm := { s.hm with fwSteps := r, fwIssuer := none } }
      if i = self s then fwDone (self s) s else control (some i) ctlFwDone [self s] s

/-- FW_POST_READY_WRITES (R435). -/
def execFwPostReadyWrites (holdupMv : Option Nat) (s : State) : Ans :=
  onHm s fun s => if s.hm.fwSteps = [] then s else postReady 8 holdupMv (noteHoldup holdupMv s)

/-- FW_SELECT_PENDING: a write that failed the check is tried again (R435). -/
def execFwSelectPending (holdupMv : Option Nat) (s : State) : Ans :=
  onHm s fun s => if s.hm.fwPendingRaised && s.hm.fwSteps != [] then postReady 8 holdupMv (noteHoldup holdupMv s) else s

/-! Heartbeat and readiness. -/

/-- HM_HEARTBEAT: the halved budgets are back with it, once the firmware is ready (R419, R435). -/
def execHmHeartbeat (s : State) : Ans :=
  onCore s fun s =>
    if s.hm.frozen then s
    else { s with hm := { s.hm with alive := true, halved := if s.hm.fwReady then false else s.hm.halved } }

/-- HM_WATCHDOG: 1 ms without a heartbeat (R419). -/
def execHmWatchdog (s : State) : Ans :=
  .next <|
    if s.hm.alive then
      raise 0x1104 [] { s with hm := { s.hm with alive := false, halved := true }, isl := { s.isl with alert := true } }
    else s

/-- A command taken before the firmware stopped, answered when it runs again (R420). Changes go on by themselves. -/
def answerTaken (t : Taken) (s : State) : State :=
  let h : CmdHdr := { mailbox := t.mailbox, tag := t.tag, expert := true, viaLighter := false }
  let mine (x : CmdHdr) : Bool := x.mailbox == t.mailbox && x.tag == t.tag
  if s.man.issued.any fun i => match i.hdr with | some x => mine x | none => false then s
  else
    match s.acc.jobs.find? fun j => mine j.hdr.hdr with
    | some j =>
      if j.phase = .offered then voidJob (keyOf j) 0x0008 s else postAccepted j s
    | none => result h t.command 0x0008 [] s

/-- Commands of the firmware that were cut off are answered and leave nothing behind (R224, R420, R433). -/
def dropCut (s : State) : State :=
  let commits := s.hm.commits
  let fw := s.hm.fwCommit
  let enter := s.sec.enterAt
  let waiting := s.acc.waiting
  let cmds := s.acc.flushFor.filterMap fun o => match o with
    | .command h => some h
    | _ => none
  let other (o : FlushOwner) : Bool := match o with | .command _ => false | _ => true
  let s := { s with
    hm := { s.hm with commits := [], fwCommit := none },
    sec := { s.sec with enterAt := none },
    acc := { s.acc with waiting := [], flushFor := s.acc.flushFor.filter other } }
  let s := commits.foldl (fun s c =>
    result c.hdr (if c.stage = 2 then 0x1705 else 0x1704) 0x0008 [] (undoCommit c s)) s
  let s := match fw with | some c => result c.hdr 0x1802 0x0008 [] s | none => s
  let s := match enter with | some p => result p.2 0x0E01 0x0008 [] s | none => s
  let s := cmds.foldl (fun s h => result h 0x1901 0x0008 [] s) s
  waiting.foldl (fun s w => refuseJob w.1 w.2.1 0x0008 0 s) s

/-- The firmware is ready: interrupted commands are answered, completions not delivered are posted again, and outcomes kept
are posted (R419, R420, R435). -/
def becomeReady (s : State) : State :=
  let s := { s with hm := { s.hm with fwReady := true, alive := true, halved := false } }
  let s := s.hm.taken.foldl (fun s t => answerTaken t s) (dropCut s)
  let s := postOutcomes s
  let s := (s.acc.jobs.filter fun j => j.phase == .posted).foldl (fun s j => postComplete true j s) s
  wakeOffers s

/-- FIRMWARE_READY (R420). -/
def execFirmwareReady (s : State) : Ans :=
  onCore s fun s => if s.hm.fwReady || s.hm.frozen then s else becomeReady s

end Sys2Proof.Machine
end

