-- ==== Sys2Proof/Machine/Link.lean ====
section
/-! DEFINITION. The berths' link layer: configuration, training, blocks, acknowledgement, credits, and contexts that go down
(R272 to R291, R300, R301, R303, R442). -/

namespace Sys2Proof.Machine
open Sys2Proof

/-! A context that goes down. -/

/-- Lanes a part of a berth has under a split (R272), and the host link (R442). -/
def lanesOf (split : Nat) : Nat := if split = 0 then 4 else if split = 1 then 2 else 1

/-- Cells of a context leave its queues; a cell's place is free when its last reference is gone (R304). -/
def dropCells (p : Cell → Bool) (s : State) : State :=
  admitWaiting { s with sw := { s.sw with cells := s.sw.cells.filter fun c => !p c } }

/-- Requests and responses waiting for a context of a host go out on another of its contexts (R291). -/
def moveCells (n m : Nat) (s : State) : State :=
  let mine := s.sw.cells.filter fun c => c.ctx == n && c.group.isNone && c.pool != 3
  let s := dropCells (fun c => c.ctx == n) s
  mine.foldl (fun s c => enterCell { c with ctx := m } s) s

/-- A context goes down: PORT_DOWN with the cause, and what it holds handled by its role (R275, R291). -/
def contextDown (n cause : Nat) (s : State) : State :=
  match ctxAt n s with
  | none => s
  | some c =>
    if c.train = .down then s
    else
      let kept := c.kept
      let keep := if c.role = 3 then kept else []
      let s := setCtx n { c with train := .down, cause := cause, kept := keep, channels := [], cut := [], nakFor := none,
                                 owed := 0, owedStream := 0, txOpen := [] } s
      let s := raise 0x0209 [(evContext, n), (evDetail, cause)] (recordReason cause s)
      if c.role = 1 then
        let host := if n = 256 then 0xFC0 + self s else c.host
        match ((ctxsOf host s).filter fun p => p.1 != n && (p.2.train == .up || p.2.train == .retrain)).map fun p => p.1 with
        | [] => hostDies host (dropCells (fun x => x.ctx == n) s)
        | l =>
          let m := (pickCtx l s).getD n
          let again := (kept.map fun k => k.2).filter fun x => x.pool == 2
          again.foldl (fun s x => enterCell { x with ctx := m, id := s.sw.nextCell } (nameCell s)) (moveCells n m s)
      else if c.role = 2 then declareModule n 0 true (dropCells (fun x => x.ctx == n) s)
      else if c.role = 3 then
        let dev := match c.partner with | some i => i.deviceId % 64 | none => 64
        match ctxAt n s with
        | none => s
        | some c => control (some dev) ctlSeqQuery [dev, n] (setCtx n { c with spanWait := some s.tide.count } s)
      else dropCells (fun x => x.ctx == n) s

/-! Configuration. -/

/-- Enabled contexts, the host link left out. -/
def enabledCtxs (s : State) : List (Nat × PortCtx) := s.ports.ctxs.filter fun p => p.1 != 256 && p.2.enable

/-- Contexts to which a host is bound; the companion counts as bound to 4 (R274, R443). -/
def boundCount (host : Nat) (s : State) : Nat :=
  if host = 0xFC0 + self s then 4 else (enabledCtxs s).countP fun p => p.2.role == 1 && p.2.host == host

/-- The configuration check of a context on setting enable (R274). -/
def enableCode (split : Nat) (x : CtxCfg) (s : State) : Nat :=
  firstCode [
    (decide (2 < split ∨ x.role = 0 ∨ 4 < x.role ∨ (x.role ≠ 1 ∧ x.hostId ≠ 0)) || (decide (x.role ≠ 1) && x.coherent), 0x0106),
    (((enabledCtxs s).any fun p => p.1 == x.contextId), 0x0107),
    (decide (x.role = 1 ∧ 4 ≤ boundCount x.hostId s), 0x0107),
    (decide (x.role = 4 ∧ 8 < s.man.comp.members.length), 0x0108)]

/-- A context enabled: it begins to train (R279). -/
def startCtx (berth part split : Nat) (x : CtxCfg) (s : State) : State :=
  setCtx x.contextId
    { berth := berth, part := part, role := x.role, host := x.hostId, coherent := x.coherent, enable := true,
      train := .detect, cause := 0, lanes := lanesOf split, partner := none, nextTx := 0, nextRx := 0, lastAck := 4095,
      kept := [], nakFor := none, resends := 0, replay := false, txCredit := [0, 0, 0], txTotal := [0, 0, 0],
      rxCredit := [0, 0, 0], rxTotal := [0, 0, 0], pings := [], fecMarks := [], channels := [], spanWait := none,
      cut := [], locked := false, owed := 0, owedStream := 0, txOpen := [], bad := [] } s

/-- A context disabled: it goes down at once (R274, R291). -/
def stopCtx (n : Nat) (s : State) : State :=
  let s := contextDown n 0 s
  match ctxAt n s with
  | none => s
  | some c => setCtx n { c with enable := false } s

/-- One context of a BERTH.CONFIGURE command: disabled, or enabled when its check passes, which leaves the context aside that
it replaces; on failure everything stays as it was (R273, R274, R416). The code, and the state. -/
def configCtx (berth split part : Nat) (x : CtxCfg) (s : State) : Nat × State :=
  let here := (enabledCtxs s).find? fun p => p.2.berth == berth && p.2.part == part
  let same := match here with
    | some p => p.1 == x.contextId && p.2.role == x.role && p.2.host == x.hostId && p.2.coherent == x.coherent
    | none => false
  let aside := match here with
    | some p => { s with ports := { s.ports with ctxs := tdel s.ports.ctxs p.1 } }
    | none => s
  let stop (s : State) : State := match here with | some p => stopCtx p.1 s | none => s
  if !x.enable then (0, stop s)
  else
    let code := enableCode split x aside
    if code ≠ 0 then (code, s) else if same then (0, s) else (0, startCtx berth part split x (stop s))

/-- The refusal of a change of split while a context of the berth is enabled: its contexts' own codes come before BERTH_BUSY (R274). -/
def splitCode (berth split : Nat) (ctxs : List CtxCfg) (s : State) : Nat :=
  let aside : State := { s with ports := { s.ports with ctxs := s.ports.ctxs.filter fun p => !(p.1 != 256 && p.2.berth == berth) } }
  firstCode (((ctxs.filter fun x => x.enable).map fun x => let c := enableCode split x aside; (c != 0, c)) ++ [(true, 0x0109)])

/-- BERTH.CONFIGURE (R272 to R274). -/
def execBerthConfigure (h : CmdHdr) (berth split : Nat) (ctxs : List CtxCfg) (s : State) : Ans :=
  onFw s fun s =>
    let wide := ctxs.any fun x => decide (256 ≤ x.contextId ∨ 4096 ≤ x.hostId)
    let stays := (enabledCtxs s).any fun p => p.2.berth == berth
    if 128 ≤ berth ∨ wide = true then result h 0x0101 0x0003 [] s
    else if 2 < split then result h 0x0101 0x0106 [] s
    else if stays && split != tgetD s.ports.splits berth 0 then
      result h 0x0101 (splitCode berth split ctxs s) [] s
    else
      let s := { s with ports := { s.ports with splits := tput s.ports.splits berth split } }
      let r := (ctxs.zipIdx).foldl (fun (acc : Nat × State) x =>
        if 2 ^ split ≤ x.2 then (if acc.1 = 0 then 0x0106 else acc.1, acc.2)
        else
          let y := configCtx berth split x.2 x.1 acc.2
          (if acc.1 = 0 then y.1 else acc.1, y.2)) (0, s)
      result h 0x0101 r.1 [] r.2

/-! Training. -/

/-- A context whose state is as given changes by a function. -/
def whenTrain (n : Nat) (t : Train) (f : PortCtx → State → State) (s : State) : State :=
  match ctxAt n s with
  | some c => if c.train = t then f c s else s
  | none => s

/-- SIGNAL_DETECT (R279). -/
def execSignalDetect (ctx : Nat) (s : State) : Ans :=
  onCore s (whenTrain ctx .detect fun c s => setCtx ctx { c with train := .equalize } s)

/-- EQUALIZE_LOCK (R279): to ALIGN, or on in a retrain. -/
def execEqualizeLock (ctx : Nat) (s : State) : Ans :=
  onCore s fun s =>
    whenTrain ctx .retrain (fun c s => setCtx ctx { c with locked := true } s)
      (whenTrain ctx .equalize (fun c s => setCtx ctx { c with train := .align } s) s)

/-- Our own IDENTIFY block in a role (R280). -/
def ownIdent (role : Nat) (refuse : Bool) (s : State) : Ident :=
  { partClass := 1, partCode := idPartCode, role := role, widths := 7, deviceId := self s, coherent := false,
    refuse := refuse }
where idPartCode : Nat := 0x4C060201

/-- An IDENTIFY control block sent. -/
def sendIdent (n : Nat) (c : PortCtx) (refuse : Bool) (s : State) : State :=
  emit (.link n 1 ((identBytes (ownIdent c.role refuse s)).map fun b => b.toNat)) s

/-- A kept block sent again, with resend set and the present ack (R285). -/
def resendFrom (n : Nat) (seq : Option Nat) (s : State) : State :=
  match ctxAt n s with
  | none => s
  | some c =>
    let l := match seq with
      | none => c.kept
      | some q => c.kept.dropWhile fun k => k.1 != q
    l.foldl (fun s k => emit (.block n k.1 true (k.2.items.flatMap fun i => padTo 16 i.bytes)) s) s

/-- A DATA response of a charter under removal in a kept block or cell becomes POISON when it is sent (R397). -/
def scrubItem (i : Item) (s : State) : Item :=
  let gone := i.opcode == 0x81 && (match i.charter with | some c => charterState c s == 2 | none => false)
  if gone then
    let r := respOf i.bytes []
    { i with opcode := 0x83, bytes := respHeader { r with opcode := 0x83, reason := 0x0607, data := [] } }
  else i

/-- The items of a list that R397 converts counted for their charters. -/
def countScrubs (l : List Item) (s : State) : State :=
  l.foldl (fun s i => match i.charter with
    | some c => if scrubItem i s = i then s else countRemoval c 1 0 0 s
    | none => s) s

/-- The kept blocks of a context as R397 rebuilds them. -/
def scrubKept (n : Nat) (s : State) : State :=
  match ctxAt n s with
  | none => s
  | some c =>
    if c.role ≠ 1 then s
    else
    let s := countScrubs (c.kept.flatMap fun k => k.2.items) s
    let l := c.kept.map fun k => (k.1, { k.2 with items := k.2.items.map fun i => scrubItem i s })
    setCtx n { c with kept := l } s

/-- BLOCK_LOCK (R279): to IDENTIFY, or back UP after a retrain, resending every kept block. -/
def execBlockLock (ctx : Nat) (s : State) : Ans :=
  onCore s fun s =>
    match ctxAt ctx s with
    | none => s
    | some c =>
      if c.train = .align then sendIdent ctx c false (setCtx ctx { c with train := .identify } s)
      else if c.train = .retrain ∧ c.locked = true then
        resendFrom ctx none (scrubKept ctx (setCtx ctx { c with train := .up, resends := 0, replay := false, locked := false } s))
      else s

/-- The code of an IDENTIFY that this side refuses, 0 when it is accepted (R12, R280, R442). -/
def identCode (n : Nat) (c : PortCtx) (i : Ident) : Nat :=
  let wide := if n = 256 then true else bit i.widths (if c.lanes = 4 then 2 else if c.lanes = 2 then 1 else 0)
  let fits :=
    if n = 256 then decide (i.partClass = 0x40)
    else if c.role = 1 then decide (i.partClass = 0x10)
    else if c.role = 2 then decide (i.partClass = 0x20)
    else if c.role = 3 then decide (i.partClass = 0x01)
    else decide (i.partClass = 0x30)
  if i.partClass = 0x02 then 0x0203
  else if !fits || (n != 256 && i.role != c.role) then 0x0202
  else if !wide then 0x0202
  else if c.coherent && !i.coherent then 0x0202
  else 0

/-- IDENTIFY (R280). A context that refuses its partner goes to DOWN and keeps its enable: R12 says that the port is disabled and
R280 that it goes to DOWN, and neither that enable is cleared (DESIGN CHOICE, log 20). -/
def execIdentify (ctx : Nat) (i : Ident) (s : State) : Ans :=
  onCore s (whenTrain ctx .identify fun c s =>
    let code := identCode ctx c i
    if code ≠ 0 then contextDown ctx code (sendIdent ctx c true s)
    else if i.refuse then setCtx ctx { c with partner := some i } s
    else emit (.link ctx 4 []) (setCtx ctx { c with partner := some i, train := .measure, pings := [] } s))

/-- PING: answered while the round trip is measured (R279, R290). -/
def execPing (ctx : Nat) (s : State) : Ans := onCore s (whenTrain ctx .measure fun _ s => emit (.link ctx 5 []) s)

/-- Credits granted to the partner in each pool: 64 for 4 lanes, half and a quarter for fewer, 128 on the host link (R289,
R442). -/
def grantOf (n : Nat) (c : PortCtx) : Nat := if n = 256 then 128 else 16 * c.lanes

/-- PONG: after 16 samples the mean is judged against 600 ns (R279, R290). -/
def execPong (ctx rttTenthsNs : Nat) (s : State) : Ans :=
  onCore s (whenTrain ctx .measure fun c s =>
    let l := c.pings ++ [rttTenthsNs]
    let s := setCtx ctx { c with pings := l } s
    if l.length < 16 then emit (.link ctx 4 []) s
    else if 16 * 6000 < l.sum then contextDown ctx 0x0204 s
    else
      let g := grantOf ctx c
      emit (.link ctx 7 [g, g, g]) (setCtx ctx { c with pings := l, train := .credit } s))

/-- INITIAL_CREDIT: both sides' next sequence 0, and the context UP (R279, R287, R289). -/
def execInitialCredit (ctx req rsp strm : Nat) (s : State) : Ans :=
  onCore s (whenTrain ctx .credit fun c s =>
    let g := grantOf ctx c
    setCtx ctx { c with train := .up, nextTx := 0, nextRx := 0, lastAck := 4095, kept := [], resends := 0,
                        txCredit := [req, rsp, strm], txTotal := [0, 0, 0], rxCredit := [g, g, g],
                        rxTotal := [0, 0, 0], nakFor := none, channels := [], cut := [] } s)

/-- The code of a training state that exceeds its limit (R279). -/
def timeoutCode (c : PortCtx) : Option Nat :=
  match c.train with
  | .down => none
  | .detect => some 0x0101
  | .equalize => some 0x0102
  | .align => some 0x0104
  | .identify => some 0x0201
  | .measure => some 0x0204
  | .credit => some 0x0201
  | .up => none
  | .retrain => some (if c.replay then 0x0205 else if c.locked then 0x0104 else 0x0102)

/-- TRAINING_TIMEOUT (R279). -/
def execTrainingTimeout (ctx : Nat) (s : State) : Ans :=
  onCore s fun s =>
    match ctxAt ctx s with
    | none => s
    | some c =>
      match timeoutCode c with
      | none => s
      | some code => contextDown ctx code s

/-- The lanes of a context in two halves: (its own lanes, lower half, upper half). -/
def halves (n : Nat) (c : PortCtx) : List Nat × List Nat :=
  if n = 256 then (upto 512 4, upto 516 4)
  else if c.lanes = 4 ∨ c.bad ≠ [] then (upto (4 * c.berth) 2, upto (4 * c.berth + 2) 2)
  else ([], [])

/-- LANE_FAIL: a wide context retrains on the half that still works, or goes down (R278, R442). One that was not yet UP begins its training
again on that half: R278 does not say where it resumes (DESIGN CHOICE, log 20). -/
def execLaneFail (ctx lane : Nat) (s : State) : Ans :=
  onCore s fun s =>
    match ctxAt ctx s with
    | none => s
    | some c =>
      if c.train = .down then s
      else
        let h := halves ctx c
        let bad := insertSorted lane c.bad
        let ok (l : List Nat) : Bool := l != [] && l.all fun x => !bad.contains x
        if ok h.1 || ok h.2 then
          let half := if ctx = 256 then 4 else 2
          let first := c.bad == []
          let again : Train := if c.train = .up ∨ c.train = .retrain then .retrain else .detect
          let s := setCtx ctx { c with bad := bad, lanes := half, train := if first then again else c.train,
                                       locked := if first then false else c.locked, replay := false } s
          if first then raise 0x0105 [(evContext, ctx)] s else s
        else contextDown ctx 0x0105 (setCtx ctx { c with bad := bad } s)

/-! Acknowledgement and credits. -/

/-- An ack taken: kept blocks freed, or a sequence fault (R285, R286). -/
def takeAck (n ack : Nat) (s : State) : State :=
  match ctxAt n s with
  | none => s
  | some c =>
    if c.train ≠ .up then s
    else
      let ahead (x : Nat) : Nat := (x + 4096 - c.lastAck % 4096) % 4096
      if ahead ((c.nextTx + 4095) % 4096) < ahead ack then contextDown n 0x0207 s
      else if ahead ack = 0 then s
      else setCtx n { c with kept := c.kept.filter fun k => decide (ahead ack < ahead k.1), lastAck := ack, resends := 0 } s

/-- A number of credits of a pool received in a sequenced block (R288). -/
def takeCredits (n pool k : Nat) (s : State) : State :=
  match ctxAt n s with
  | none => s
  | some c =>
    let add (l : List Nat) : List Nat := l.zipIdx.map fun x => if x.2 + 1 = pool then x.1 + k else x.1
    setCtx n { c with txCredit := add c.txCredit, txTotal := (add c.txTotal).map fun x => x % 65536 } s

/-- IDLE (R284, R285). -/
def execIdle (ctx ack : Nat) (s : State) : Ans := onCore s (takeAck ctx ack)

/-- CREDIT: per pool, the larger of the sender's own count and the block's total (R288). -/
def execCredit (ctx req rsp strm : Nat) (s : State) : Ans :=
  onCore s (whenTrain ctx .up fun c s =>
    let up (i t : Nat) : Nat × Nat :=
      let own := c.txTotal.getD i 0
      let d := (t % 65536 + 65536 - own) % 65536
      if d < 32768 then (c.txCredit.getD i 0 + d, t % 65536) else (c.txCredit.getD i 0, own)
    let l := [up 0 req, up 1 rsp, up 2 strm]
    setCtx ctx { c with txCredit := l.map fun x => x.1, txTotal := l.map fun x => x.2 } s)

/-- NAK: every kept block from the named number resent, or a sequence fault (R285, R286, R397). -/
def execNak (ctx seq : Nat) (s : State) : Ans :=
  onCore s (whenTrain ctx .up fun c s =>
    let first := (c.lastAck + 1) % 4096
    let d (x : Nat) : Nat := (x + 4096 - first) % 4096
    if d c.nextTx < d (seq % 4096) ∨ 4096 ≤ seq then contextDown ctx 0x0207 s
    else resendFrom ctx (some seq) (scrubKept ctx s))

/-- NAK_HOLDOFF_EXPIRE (R284). -/
def execNakHoldoffExpire (ctx : Nat) (s : State) : Ans :=
  onCore s (whenTrain ctx .up fun c s => setCtx ctx { c with nakFor := none } s)

/-- RESEND_TIMEOUT: resent from the oldest kept block; after 8 resends in a row, RETRAIN (R285). -/
def execResendTimeout (ctx : Nat) (s : State) : Ans :=
  onCore s (whenTrain ctx .up fun c s =>
    if c.kept = [] then s
    else if 8 ≤ c.resends then setCtx ctx { c with train := .retrain, replay := true, locked := false } s
    else resendFrom ctx none (scrubKept ctx (setCtx ctx { c with resends := c.resends + 1 } s)))

/-! Blocks. -/

/-- Bytes of a request's payload from its header (R91, R94, R116, R444); C_SNOOP_DONE carries 0 or 64. -/
def reqPayload (op len : Nat) : Nat :=
  if op = opWrite ∨ op = opStow ∨ op = opAtomic ∨ op = 0x63 ∨ op = 0x71 ∨ op = 0x61 then len
  else if op = opReadAcq ∨ op = opWriteSeal then 8
  else if op = opWritePartial then 72
  else if op = opPublish then 24
  else if op = opCWriteback ∨ op = opCFill then 64
  else 0

/-- Bytes of a response's data from its header (R95, R96). -/
def respData (op len : Nat) : Nat := if op = opData ∨ op = opConflict then len else 0

/-- Units an item may take, from its header (R282). -/
def itemUnits (kind : Nat) (b : Bytes) : List Nat :=
  if kind = 1 then
    let w := fld b 0 32
    let n := reqPayload (bits w 255 248) (bits w 247 240 + 1)
    if bits w 255 248 = opCDone then [2, 6] else [cdiv (32 + n) 16]
  else
    let w := fld b 0 16
    [cdiv (16 + respData (bits w 127 120) (bits w 65 58 + 1)) 16]

/-- The items of a REQ or RSP block with their first units; none where they disagree with its map (R282, R301). -/
def blockItems (kind unitMap : Nat) (p : Bytes) : Option (List (Nat × Bytes)) :=
  let starts := (List.range 31).filter fun u => bit unitMap u
  if starts = [] then (if p.all fun b => b == 0#8 then some [] else none)
  else if starts.head? ≠ some 0 then none
  else
    let ends := starts.drop 1 ++ [31]
    let l := (List.zip starts ends).map fun x => (x.1, x.2, slice p (16 * x.1) (16 * (x.2 - x.1)))
    let good (x : Nat × Nat × Bytes) : Bool := (itemUnits kind x.2.2).any fun n =>
      if x.2.1 = 31 then decide (x.1 + n ≤ 31) && (x.2.2.drop (16 * n)).all fun b => b == 0#8 else n == x.2.1 - x.1
    if l.all good then some (l.map fun x => (x.1, x.2.2)) else none

/-- Where an item goes on: it stays on this device, a context, or it is returned with REROUTE (R56, R95). -/
inductive Way where
  | here | ctx (n : Nat) | lost | reroute
  deriving DecidableEq, Repr

/-- The way of an item that arrives on a context (R56, R59, R275). -/
def wayOf (n kind : Nat) (b : Bytes) (s : State) : Way :=
  if kind = 1 then
    let r := reqOf b []
    let span := match ctxAt n s with | some c => c.role == 3 | none => false
    if !span then .here
    else if r.home = self s then .here
    else
      match mapOf r.routeEpoch s with
      | none => .reroute
      | some m => match deviceCtx r.home m s with | some k => .ctx k | none => .lost
  else
    let r := respOf b []
    if r.dstEngine then
      if r.destination / 64 = self s then .here
      else match deviceCtx (r.destination / 64) s.man.route s with | some k => .ctx k | none => .lost
    else if ctxsOf r.destination s ≠ [] then .here
    else match pickCtx (tgetD s.man.route.toHost r.destination []) s with | some k => .ctx k | none => .lost

/-- An item read from a block, with its class. -/
def arrivedItem (kind : Nat) (b : Bytes) : Item × Nat :=
  if kind = 1 then
    let r := reqOf b []
    ({ bytes := b, opcode := r.opcode, charter := some r.charter, source := r.source, home := r.home }, r.tclass)
  else
    let r := respOf b []
    ({ bytes := b, opcode := r.opcode, charter := none, source := r.responder, home := r.responder },
      Config.respClass r.destination r.tag % 16)

/-- A request returned to its source unperformed (R56). -/
def returnRequest (b : Bytes) (s : State) : State :=
  let r := reqOf b []
  answerTo r opRefuse 0x0507 0 [] s

/-- A request of a host in a block: its header's host fields and payload (R89, R90). -/
def hostReqOf (ctx : Nat) (b : Bytes) : HostReq :=
  let r := reqOf b (b.drop 32)
  { ctx := ctx, tag := r.tag, charter := r.charter, address := r.address, length := r.length, tclass := r.tclass,
    sealWindow := r.sealWindow, aux := r.aux, payload := r.payload }

/-- Requests of a host whose opcode it may not send are taken here, to be refused (R91, R444); every other request of a host is a command
of its own. -/
def takeForeign (n : Nat) (items : List (Nat × Bytes)) (s : State) : State :=
  items.foldl (fun s x =>
    let op := (reqOf x.2 []).opcode
    if hostOpcode op || (n == 256 && decide (0x60 ≤ op ∧ op ≤ 0x63)) then s else hostArrive op (hostReqOf n x.2) s) s

/-- The items of an accepted block that go on, packed into one cell for each queue, and those returned (R56, R295). `skip`
are the units already taken under CUT. -/
def forwardItems (n kind seq : Nat) (items : List (Nat × Bytes)) (skip : List Nat) (s : State) : State :=
  let port := portOf n kind s
  let left := items.filter fun x => !skip.contains x.1
  let s := left.foldl (fun s x =>
    let a := arrivedItem kind x.2
    observe n false kind a.2 0 a.1 s) s
  let s := left.foldl (fun s x => if wayOf n kind x.2 s = .reroute then returnRequest x.2 s else s) s
  let going := left.filterMap fun x =>
    let a := arrivedItem kind x.2
    match wayOf n kind x.2 s with
    | .ctx k => some ((k, a.2, queueFor k a.2 kind a.1 s), a.1)
    | _ => none
  let keys := (going.map fun x => x.1).dedup
  keys.foldl (fun s k =>
    let mine := (going.filter fun x => x.1 == k).map fun x => x.2
    match mine with
    | [] => s
    | i :: _ =>
      if (gathers k.1 kind k.2.1 0 i s).isSome then mine.foldl (fun s i => enterItem port k.1 kind k.2.1 0 0 i s) s
      else nameCell (enterCell { cellFor port k.1 kind k.2.1 mine s with origin := some (n, seq) } s)) s

/-- Does an engine-stream item's header length agree with its bytes (R283)? -/
def streamLengthOk (kind : Nat) (b : Bytes) : Bool :=
  let w := fld b 0 32
  if kind = 1 then decide (b.length = 32 + bits w 148 136)
  else if kind = 2 then decide (b.length = 32 + bits w 146 134)
  else decide (b.length = 64 + fld b 12 4)

/-- A STRM block's bytes join their channel's item; none for a framing fault; the whole item when it is the last (R283). -/
def joinChannel (c : PortCtx) (h : LinkHdr) (p : Bytes) : Option (Tbl (Nat × Bytes) × Option Bytes) :=
  let d := p.take h.bytes
  let open_ := tget c.channels h.channel
  let item : Option Bytes := match open_, h.first with
    | none, true => some d
    | some o, false => if o.1 = h.itemKind then some (o.2 ++ d) else none
    | _, _ => none
  if h.itemKind = 0 ∨ 3 < h.itemKind ∨ h.bytes = 0 ∨ 496 < h.bytes then none
  else
    match item with
    | none => none
    | some b =>
      if !h.last then some (tput c.channels h.channel (h.itemKind, b), none)
      else if streamLengthOk h.itemKind b then some (tdel c.channels h.channel, some b)
      else none

/-- The charter of an engine-stream item at a device that takes part in its job (R306). -/
def streamCharter (kind : Nat) (b : Bytes) (s : State) : Option Nat :=
  let w := fld b 0 32
  let dev := bits w 251 246
  let slot := bits w 245 234
  if kind = 3 then none
  else
    match s.acc.jobs.find? fun j => j.device == dev && j.slot == slot with
    | none => none
    | some j => match j.desc with
      | .crane d => some d.charter
      | .stream d => some d.charter
      | _ => none

/-- Items taken under CUT from a block that is then discarded are withdrawn: taken out of cells that wait and of kept blocks,
which stand as void blocks when nothing is left (R301). -/
def withdraw (n seq : Nat) (s : State) : State :=
  let mine (c : Cell) : Bool := c.cutThrough && c.origin == some (n, seq)
  let waiting := (s.sw.cells.filter mine).length
  let sent := s.ports.ctxs.flatMap fun p => (p.2.kept.filter fun k => mine k.2).map fun k => (p.1, k.1)
  let n' := waiting + sent.length
  let s := match ctxAt n s with
    | some c => setCtx n { c with cut := c.cut.filter fun x => x.1 != seq } s
    | none => s
  if n' = 0 then s
  else
    let s := dropCells mine s
    let s := sent.foldl (fun s x => emit (.link x.1 9 [x.2]) s) s
    let void (k : Nat × Cell) : Nat × Cell :=
      if mine k.2 then (k.1, { k.2 with items := [], origin := none, cutThrough := false }) else k
    let voided (p : Nat × PortCtx) : Nat × PortCtx := (p.1, { p.2 with kept := p.2.kept.map void })
    let s := { s with ports := { s.ports with ctxs := s.ports.ctxs.map voided } }
    raiseLimited 0x0302 n 0 [(evContext, n)] n' { s with sw := { s.sw with withdrawn := s.sw.withdrawn + n' } }

/-- Cells taken under CUT from a block that has passed: checked from now on (R295, R300). -/
def confirmCut (n seq : Nat) (s : State) : State :=
  let ok (c : Cell) : Cell :=
    if c.cutThrough && c.origin == some (n, seq) then { c with cutThrough := false } else c
  { s with sw := { s.sw with cells := s.sw.cells.map ok },
           ports := { s.ports with ctxs := s.ports.ctxs.map fun p =>
             (p.1, { p.2 with kept := p.2.kept.map fun k => (k.1, ok k.2) }) } }

/-- A credit of an accepted block returned once its contents have left the input buffer: at once, or when its last waiting
cell is taken into the buffer, or when no request of the host is held (R288, R323). -/
def settleCredit (n pool seq : Nat) (s : State) : State :=
  match ctxAt n s with
  | none => s
  | some c =>
    let held := pool == 1 && c.role == 1 &&
      s.ing.policed.any fun p => p.host == (if n = 256 then 0xFC0 + self s else c.host)
    if held then setCtx n { c with owed := c.owed + 1 } s
    else if pool = 3 ∧ streamHeld n s = true then setCtx n { c with owedStream := c.owedStream + 1 } s
    else if s.sw.cells.any fun x => x.place == 3 && x.origin == some (n, seq) then s
    else returnCredit n pool 1 s

/-- The codeword marks of the last 1 ms with one more; FEC_DEGRADED when they exceed 16 (R277). -/
def noteMark (n : Nat) (s : State) : State :=
  match ctxAt n s with
  | none => s
  | some c =>
    let l := (c.fecMarks.filter fun t => decide (s.refCycles < t + msCycles)) ++ [s.refCycles]
    if 16 < l.length then raise 0x0103 [(evContext, n)] (setCtx n { c with fecMarks := [] } s)
    else setCtx n { c with fecMarks := l } s

/-- A sequenced block discarded: its CUT items withdrawn, and for an error or a gap one NAK for the expected number; a repeat of a block that
was accepted is neither (R284, R301). -/
def discardBlock (n seq : Nat) (repeated : Bool) (s : State) : State :=
  let s := withdraw n seq s
  match ctxAt n s with
  | none => s
  | some c =>
    if repeated ∨ c.nakFor = some c.nextRx then s
    else emit (.link n 2 [c.nextRx]) (setCtx n { c with nakFor := some c.nextRx } s)

/-- The device that sent an engine-stream item: a segment's sender, or the device of the job (R141, R264). -/
def streamSender (kind : Nat) (b : Bytes) : Nat :=
  let w := fld b 0 32
  if kind = 1 ∧ bit w 225 = true then bits w 224 219 else bits w 251 246

/-- An engine-stream item on its way to a device or a group under the present map (R56, R303). -/
def sendStream (ingress : Nat) (t : Stamp) (cls kind channel : Nat) (i : Item) (s : State) : State :=
  if t.multicast then enterGroup ingress t.target s.man.routeEpoch cls kind channel i s
  else match deviceCtx t.target s.man.route s with
    | none => s
    | some k => enterItem ingress k 3 cls kind channel i s

/-- An engine-stream item that does not end here: routed by the map of its epoch, returned to its sending device with 0x0507 where
that map is not honoured, and sent again by that device when it is back (R56, R140, R303). -/
def passStream (n : Nat) (t : Stamp) (cls kind channel : Nat) (i : Item) (s : State) : State :=
  let sender := streamSender kind i.bytes
  let home (s : State) : State := match deviceCtx sender s.man.route s with
    | none => s
    | some k => enterItem (portOf n 3 s) k 3 cls kind channel i s
  if t.back then (if sender = self s then sendStream homePort t cls kind 0 i s else home s)
  else if t.multicast = false ∧ t.target = self s then s
  else
    match mapOf t.epoch s with
    | none => home (emit (.bounced sender { t with back := true } i.bytes) s)
    | some m =>
      if t.multicast then enterGroup (portOf n 3 s) t.target t.epoch cls kind channel i s
      else match deviceCtx t.target m s with
        | none => s
        | some k => enterItem (portOf n 3 s) k 3 cls kind channel i s

/-- A block accepted in sequence: its contents taken, its ack answered (R282 to R284, R303). -/
def acceptBlock (n : Nat) (h : LinkHdr) (p : Bytes) (stamp : Option Stamp) (c : PortCtx) (s : State) : State :=
  let bad := (c.role == 2 && h.kind != 2) || c.role == 4 || (c.role == 1 && h.kind == 3 && h.itemKind != 1)
  let pay (l : List Nat) : List Nat := l.zipIdx.map fun x => if x.2 + 1 = h.kind then x.1 - 1 else x.1
  let c1 := { c with nextRx := (c.nextRx + 1) % 4096, nakFor := none, rxCredit := pay c.rxCredit,
                     cut := c.cut.filter fun x => x.1 != h.seq }
  let skip := (c.cut.filter fun x => x.1 == h.seq).map fun x => x.2
  if bad then contextDown n 0x0208 s
  else if c.rxCredit.getD (h.kind - 1) 0 = 0 then contextDown n 0x0206 s
  else if h.kind = 3 then
    match joinChannel c h p with
    | none => contextDown n 0x0208 s
    | some (ch, whole) =>
      let foreign := match whole with | some b => c.role == 1 && bits (fld b 0 32) 255 252 != 2 | none => false
      if foreign then contextDown n 0x0208 s
      else
      let s := setCtx n { c1 with channels := ch } s
      let s := match whole with
        | none => s
        | some b =>
          let i : Item := { bytes := b, opcode := 0, charter := streamCharter h.itemKind b s, source := if h.itemKind = 1 then bits (fld b 0 32) 224 213 else bits (fld b 0 32) 251 246,
                            home := 0 }
          let w := fld b 0 32
          let cls := Config.streamClass (jobKey (bits w 251 246) (bits w 245 234)) 1 % 16
          let s := observe n false 3 cls h.itemKind i s
          match stamp with
          | none => s
          | some t => passStream n t cls h.itemKind h.channel i s
      settleCredit n 3 h.seq (emit (.link n 6 [h.seq]) s)
  else
    match blockItems h.kind h.unitMap p with
    | none => contextDown n 0x0208 s
    | some items =>
      let s := confirmCut n h.seq (setCtx n c1 s)
      let s := forwardItems n h.kind h.seq items skip s
      let s := if c.role = 1 ∧ h.kind = 1 then takeForeign n items s else s
      settleCredit n h.kind h.seq (emit (.link n 6 [h.seq]) s)

/-- BLOCK_RECEIVE (R277, R281 to R288). -/
def execBlockReceive (ctx : Nat) (block : Bytes) (marked : Bool) (stamp : Option Stamp) (s : State) : Ans :=
  onCore s (whenTrain ctx .up fun _ s =>
    let h := linkHdr block
    let s := if marked then noteMark ctx s else s
    if h.kind = 0 ∨ 3 < h.kind then s
    else if marked || !linkCrcOk block then discardBlock ctx h.seq false s
    else
      let s := takeAck ctx h.ack s
      match ctxAt ctx s with
      | none => s
      | some c =>
        if c.train ≠ .up then s
        else if h.seq ≠ c.nextRx then discardBlock ctx h.seq (decide ((c.nextRx + 4096 - h.seq) % 4096 ≤ 2048)) s
        else
          let s := if h.pool = 0 then s else takeCredits ctx h.pool h.count s
          match ctxAt ctx s with
          | none => s
          | some c => acceptBlock ctx h (slice block 12 496) stamp c s)

/-- CUT_ITEM_ARRIVE: an item taken before its block is judged (R300). -/
def execCutItemArrive (ctx seq unit pool : Nat) (item : Bytes) (s : State) : Ans :=
  onCore s (whenTrain ctx .up fun c s =>
    let kind := if pool = 1 then 1 else 2
    let a := arrivedItem kind item
    match wayOf ctx kind item s with
    | .ctx k =>
      let slow := match ctxAt k s with | some x => decide (x.lanes < c.lanes) | none => true
      if ctx = 256 ∨ seq ≠ c.nextRx ∨ slow = true ∨ s.sw.cut.contains (16 * ctx + a.2) = false ∨
          c.cut.contains (seq, unit) = true ∨ (gathers k kind a.2 0 a.1 s).isSome = true then s
      else
        let s := setCtx ctx { c with cut := c.cut ++ [(seq, unit)] } s
        let s := observe ctx false kind a.2 0 a.1 s
        let x := { cellFor (portOf ctx kind s) k kind a.2 [a.1] s with origin := some (ctx, seq), cutThrough := true }
        nameCell (enterCell x s)
    | _ => s)

/-! Span contexts that went down. -/

/-- SPAN_SEQ_QUERY: the last sequence number accepted on the context that faces the asking device; the context is down here
too (R291). -/
def execSpanSeqQuery (device ctx : Nat) (s : State) : Ans :=
  onCore s fun s =>
    match ctxAt ctx s with
    | none => s
    | some c =>
      if c.role ≠ 3 then s
      else
        let last := (c.nextRx + 4095) % 4096
        let s := contextDown ctx 0 s
        control (some device) ctlSeqAnswer [device, ctx, last] s

/-- Another span context towards the partner of a context. -/
def otherSpan (n : Nat) (c : PortCtx) (s : State) : Option Nat :=
  match c.partner with
  | none => none
  | some i => ((tgetD s.man.route.toDevice (i.deviceId % 64) []).filter fun k => k != n && ctxUp k s).head?

/-- SPAN_SEQ_ANSWER: every kept block after the number goes out again by another span route, as a first send (R291). -/
def execSpanSeqAnswer (ctx seq : Nat) (s : State) : Ans :=
  onCore s fun s =>
    match ctxAt ctx s with
    | none => s
    | some c =>
      if c.spanWait.isNone ∨ c.train ≠ .down then s
      else
        let ahead (x : Nat) : Nat := (x + 4096 - c.lastAck % 4096) % 4096
        let l := (c.kept.filter fun k => decide (ahead seq < ahead k.1)).map fun k => k.2
        match otherSpan ctx c s with
        | none => s
        | some m =>
          let s := setCtx ctx { c with kept := [], spanWait := none } s
          let old := tgetD s.pilot.resends m []
          let t := if l = [] then s.pilot.resends else tput s.pilot.resends m (old ++ l.map fun x => { x with ctx := m })
          let s := { s with pilot := { s.pilot with resends := t } }
          if l = [] then s else raise 0x020A [(evContext, ctx), (evCount, l.length)] s

/-- SPAN_ANSWER_TIMEOUT: after 16 tides the partner is reported to the master, and its loss decides the kept blocks (R291,
R342). -/
def execSpanAnswerTimeout (ctx : Nat) (s : State) : Ans :=
  onCore s fun s =>
    match ctxAt ctx s with
    | none => s
    | some c =>
      match c.spanWait, c.partner with
      | some t, some i =>
        if t + 16 ≤ s.tide.count then
          let d := i.deviceId % 64
          let s := setCtx ctx { c with spanWait := none } s
          if isMaster s then
            { s with ring := { s.ring with spanReports := tput s.ring.spanReports d s.tide.count } }
          else control (some s.tide.master) ctlSpanReport [d] s
        else s
      | _, _ => s

end Sys2Proof.Machine
end

