-- ==== Sys2Proof/Machine/Redundancy.lean ====
section
/-! DEFINITION. Stripe groups: formatting, failed members, rebuilds and resync (R332 to R344, R492). -/

namespace Sys2Proof.Machine
open Sys2Proof

/-! Row steps. -/

/-- The number of a row step's queue: kind 2 rebuild, 3 resync, 4 format. Row steps travel in traffic class 15. -/
def rowKey (kind place row : Nat) : Nat := 2 ^ 60 + kind * 2 ^ 56 + place * 2 ^ 36 + row

/-- May a row step begin: no step holds its row (R335)? -/
def rowFree (kind place row : Nat) (s : State) : Bool :=
  let key := rowKey kind place row
  (queueOf key s).batch.isNone && stepFree key (newStep kind (place, row) []) s

/-- A row step begun, when no step holds its row (R335). -/
def startRow (kind place row : Nat) (s : State) : State :=
  let key := rowKey kind place row
  if rowFree kind place row s then
    endOwnStep key (pumpReads key (setQueue key { queue := [], batch := some (newStep kind (place, row) []) } s))
  else s

/-- A row step of a kind is under way for a group or extent. -/
def rowBusy (kind place : Nat) (s : State) : Bool :=
  s.home.queues.any fun p => match p.2.batch with
    | some b => b.kind == kind && b.place.1 == place
    | none => false

/-! Formatting. -/

/-- The keeper's formatting begins at the first added row (R334). -/
def startFormat (groupId : Nat) (s : State) : State :=
  match tget s.man.groups groupId with
  | none => s
  | some g =>
    if isKeeper g s then
      { s with home := { s.home with formats := tput s.home.formats groupId { next := rowsBelow g g.formatLimit, spent := 0 } } }
    else s

/-- The next n rows of a formatting begun, as far as the tide's 20 GB/s per member and the steps under way allow (R334, R335). -/
def formatRows (fuel groupId last : Nat) (s : State) : State :=
  match fuel, tget s.home.formats groupId with
  | k + 1, some f =>
    if last ≤ f.next ∨ 20 * tau s < f.spent + 64 ∨ rowFree 4 groupId f.next s = false then s
    else
      let s := { s with home := { s.home with formats := tput s.home.formats groupId { next := f.next + 1, spent := f.spent + 64 } } }
      formatRows k groupId last (startRow 4 groupId f.next s)
  | _, _ => s

/-- FORMAT_STEP: the next rows zeroed on every member (R334). -/
def execFormatStep (groupId rows : Nat) (s : State) : Ans :=
  onCore s fun s =>
    match (tget s.man.groups groupId).bind fun g => g.formatting.map fun limit => rowsBelow g limit with
    | some last => formatRows (min rows last) groupId last s
    | none => s

/-- The keeper ends a formatting by a change of its own, at the first boundary 16 tides on (R334). -/
def endFormat (groupId : Nat) (ok : Bool) (s : State) : State :=
  match tget s.home.formats groupId, tget s.man.groups groupId with
  | some _, some g =>
    match g.formatting with
    | none => s
    | some limit =>
      issue none 0x0C02 (.formatEnd groupId limit ok) (s.tide.count + 16)
        { s with home := { s.home with formats := tdel s.home.formats groupId } }
  | _, _ => s

/-- A lost keeper's formatting is ended by the next keeper, unless the lost one's own change is already on its way (R332, R334). -/
def endLostFormats (d : Nat) (s : State) : State :=
  s.man.groups.foldl (fun s x =>
    let g := x.2
    let was := g.members.find? fun m => m.device == d || !(s.ing.lostHomes.contains m.device)
    let onWay := s.man.notices.any fun n => n.committed && (match n.change with | .formatEnd k _ _ => k == g.groupId | _ => false)
    match g.formatting, was with
    | some limit, some m =>
      if m.device == d && isKeeper g s && !onWay then issue none 0x0C02 (.formatEnd g.groupId limit false) (s.tide.count + 16) s else s
    | _, _ => s) s

/-- FORMAT_DONE (R334). -/
def execFormatDone (groupId : Nat) (s : State) : Ans :=
  onCore s fun s =>
    match tget s.home.formats groupId, tget s.man.groups groupId with
    | some f, some g =>
      (match g.formatting with
        | none => s
        | some limit =>
          if rowsBelow g limit ≤ f.next ∧ rowBusy 4 groupId s = false then endFormat groupId true s else s)
    | _, _ => s

/-! Failed members. -/

/-- TRAY_REQUEST_TIMEOUT: a request to a module of this device unanswered for 20 µs, counted once; the third within 1 ms fails the
module (R336). -/
def execTrayRequestTimeout (request : Nat) (s : State) : Ans :=
  onCore s fun s =>
    match s.home.trays.find? fun r => r.id == request with
    | none => s
    | some r =>
      if r.device ≠ self s ∨ r.late = true then s
      else
        let k := modNum r.device r.tray r.module
        let l := (s.home.timeouts.filter fun x => decide (s.refCycles < x.2 + msCycles)) ++ [(k, s.refCycles)]
        let late := s.home.trays.map fun x => if x.id == request then { x with late := true } else x
        let s := { s with home := { s.home with timeouts := l, trays := late } }
        if 3 ≤ l.countP (fun x => x.1 == k) ∧ moduleFailed r.device r.tray r.module s = false then
          declareModule r.tray r.module false s
        else s

/-- MODULE_FAILED_NOTICE: taken for the next boundary; `count` is 16 for a whole tray (R336). -/
def execModuleFailedNotice (device tray module count : Nat) (s : State) : Ans :=
  onCore s fun s =>
    { s with home := { s.home with failNotices := s.home.failNotices ++ [(device, tray, module, count)] } }

/-- Does a notice name a member? -/
def noticeNames (n : Nat × Nat × Nat × Nat) (m : GroupMember) : Bool :=
  m.device == n.1 && m.tray == n.2.1 && decide (n.2.2.1 ≤ m.module ∧ m.module < n.2.2.1 + n.2.2.2)

/-- Members of groups set FAILED, each with its event; a formatting of their group is ended by its keeper, and a rebuild onto
a failed replacement is over (R334, R336). -/
def failMembers (p : GroupMember → Bool) (s : State) : State :=
  let s := s.man.groups.foldl (fun s x =>
    let g := x.2
    let gone : List (GroupMember × Nat) := g.members.zipIdx.filter fun m => p m.1 && m.1.state != 1
    if gone = [] then s
    else
      let ms := g.members.map fun m => if p m then { m with state := 1 } else m
      let s := { s with man := { s.man with groups := tput s.man.groups g.groupId { g with members := ms } } }
      let s := gone.foldl (fun s m => raise 0x0621 [(evAddress, g.anchor * 2 ^ 38), (evDetail, m.2)] s) s
      let s := { s with home := { s.home with rebuilds := s.home.rebuilds.filter fun r =>
        !(r.groupId == g.groupId && gone.any fun m => m.2 == r.member) } }
      endFormat g.groupId false s) s
  judgeGroups s

/-- The notices of failed modules take effect (R336). -/
def degradeGroups (s : State) : State :=
  let l := s.home.failNotices
  if l = [] then s
  else
    let s := { s with home := { s.home with failNotices := [] } }
    let one (n : Nat × Nat × Nat × Nat) (s : State) : State :=
      (upto n.2.2.1 n.2.2.2).foldl (fun s m => treatFailed n.1 n.2.1 m s) s
    failMembers (fun m => l.any fun n => noticeNames n m) (l.foldl (fun s n => one n s) s)

/-- GROUP_DEGRADED (R336). -/
def execGroupDegraded (s : State) : Ans := onCore s degradeGroups

/-! Rebuilds. -/

/-- The rebuild of a group on this device. -/
def rebuildOf (g : Nat) (s : State) : Option Rebuild := s.home.rebuilds.find? fun r => r.groupId == g

/-- A rebuild put in place. -/
def setRebuild (r : Rebuild) (s : State) : State :=
  { s with home := { s.home with rebuilds := (s.home.rebuilds.filter fun x => x.groupId != r.groupId) ++ [r] } }

/-- A rebuild begins on every member: each has its rows, which may be none (R339, R340). -/
def startRebuild (groupId member rate : Nat) (s : State) : State :=
  match tget s.man.groups groupId with
  | none => s
  | some g => setRebuild { groupId := groupId, member := member, rate := rate, ranges := rebuildRanges g s, spent := 0,
                           reported := [], atTide := s.tide.count } s

/-- The devices that take part in a rebuild: the keeper and the homes of the group's extents, lost ones left out (R340). -/
def rebuilders (g : Group) (s : State) : List Nat :=
  let keeper := (g.members.find? fun m => !(s.ing.lostHomes.contains m.device)).map fun m => m.device
  sorted ((extentRows g s).map (fun x => x.2.2) ++ keeper.toList) |>.filter fun d => !s.ing.lostHomes.contains d

/-- A device that has finished its rows reports done, once (R340). -/
def reportRebuild (groupId : Nat) (s : State) : State :=
  match rebuildOf groupId s, tget s.man.groups groupId with
  | some r, some g =>
    if (rebuilders g s).contains (self s) && r.ranges.all (fun x => decide (x.2.1 ≤ x.2.2)) && !r.reported.contains (self s) then
      broadcast ctlRebuildDone [groupId, self s] (setRebuild { r with reported := insertSorted (self s) r.reported } s)
    else s
  | _, _ => s

/-- REBUILD_STEP: the next row of the first unfinished range, within the rate; at the end done is reported (R340). -/
def execRebuildStep (groupId : Nat) (s : State) : Ans :=
  onCore s fun s =>
    match rebuildOf groupId s with
    | none => s
    | some r =>
      match r.ranges.find? fun x => decide (x.2.2 < x.2.1) with
      | none => reportRebuild groupId s
      | some x =>
        if r.rate * tau s < r.spent + 64 ∨ rowBusy 2 groupId s = true then s
        else startRow 2 groupId x.2.2 s

/-- REBUILD_DONE_REPORT (R340). -/
def execRebuildDoneReport (groupId device : Nat) (s : State) : Ans :=
  onCore s fun s =>
    match rebuildOf groupId s with
    | none => s
    | some r => setRebuild { r with reported := insertSorted device r.reported } s

/-- A rebuild whose devices have all reported ends at a boundary: the member is OK, and the keeper raises REBUILD_DONE (R340). -/
def finishRebuild (groupId : Nat) (s : State) : State :=
  match rebuildOf groupId s, tget s.man.groups groupId with
  | some r, some g =>
    if (rebuilders g s).all r.reported.contains then
      let ms := g.members.zipIdx.map fun m => if m.2 = r.member then { m.1 with state := 0 } else m.1
      let s := { s with man := { s.man with groups := tput s.man.groups groupId { g with members := ms, rebuildRate := 0 } },
                        home := { s.home with rebuilds := s.home.rebuilds.filter fun x => x.groupId != groupId } }
      let s := if isKeeper g s then raise 0x0624 [(evAddress, g.anchor * 2 ^ 38)] s else s
      judgeGroups s
    else s
  | _, _ => s

/-- REBUILD_DONE (R340). -/
def execRebuildDone (groupId : Nat) (s : State) : Ans := onCore s (finishRebuild groupId)

/-- A new tide: each rebuild and formatting may write its bytes again, and finished rebuilds end (R334, R340). -/
def rebuildTide (s : State) : State :=
  let s := { s with home := { s.home with
    rebuilds := s.home.rebuilds.map fun (r : Rebuild) => { r with spent := 0 },
    formats := s.home.formats.map fun (p : Nat × Formatting) => (p.1, { p.2 with spent := 0 }) } }
  s.home.rebuilds.foldl (fun s r => finishRebuild r.groupId s) s

/-! Resync. -/

/-- A re-homed extent's rows are to be resynced from its first (R344). -/
def startResync (entry : Nat) (s : State) : State :=
  let e := entryOf entry s
  if e.redundancy = 0 then s
  else { s with home := { s.home with resyncs := tput s.home.resyncs entry (rowOf (layOf e s) 0, []) } }

/-- The first row not yet resynced. -/
def nextUnsynced (fuel row : Nat) (done : List Nat) : Nat :=
  match fuel with
  | 0 => row
  | k + 1 => if done.contains row then nextUnsynced k (row + 1) done else row

/-- RESYNC_STEP: the next row in ascending order; at the end the extent is in step again (R344). -/
def execResyncStep (entry : Nat) (s : State) : Ans :=
  onCore s fun s =>
    match tget s.home.resyncs entry with
    | none => s
    | some (c, done) =>
      let e := entryOf entry s
      let l := layOf e s
      let last := rowOf l (extentBytes e.sizeCode - 64)
      let c := nextUnsynced (done.length + 1) c done
      let done := done.filter fun r => decide (c ≤ r)
      if e.homeDevice ≠ self s ∨ (last < c ∧ rowBusy 3 entry s = false) then
        { s with home := { s.home with resyncs := tdel s.home.resyncs entry } }
      else
        let s := { s with home := { s.home with resyncs := tput s.home.resyncs entry (c, done) } }
        if last < c ∨ rowBusy 3 entry s = true then s else startRow 3 entry c s

end Sys2Proof.Machine
end

