-- ==== Sys2Proof/Machine/Ktc.lean ====
section
/-! DEFINITION. The Kenjor Tensor Codec's format (11_codec.md): block headers, modes, length tables, the encoder and the
decoder's checks (R228 to R239). -/

namespace Sys2Proof.Machine
open Sys2Proof

/-- Raw bytes of a whole block (R228). -/
def blockBytes : Nat := 65536

/-- Blocks of an object, and the raw bytes of block i (R228). -/
def blockCount (raw : Nat) : Nat := cdiv raw blockBytes
def blockRaw (raw i : Nat) : Nat := min blockBytes (raw - blockBytes * i)

/-- A plane's fields in a header: kind 0 CONST, 1 RAW, 2 HUFF; its value; the bits of its streams (R230). -/
structure Plane where
  kind : Nat
  value : Nat
  codedBits : Nat
  deriving DecidableEq, Repr

/-- A block header's fields (R230): mode 0 RAW, 1 PLANE, 2 ZRUN, 3 CONST. -/
structure BlockHdr where
  mode : Nat
  width : Nat
  last : Bool
  poisoned : Bool
  raw : Nat
  stored : Nat
  offset : Nat
  objectId : Nat
  index : Nat
  planes : List Plane
  word : Nat
  deriving DecidableEq, Repr

/-- A header's 64 bytes with its CRC (R230). -/
def blockHeader (h : BlockHdr) : Bytes :=
  let b := fit 60 (packBytes [(2, 0x544B), (1, 1), (1, h.mode), (1, h.width), (1, h.planes.length),
      (2, b2n h.last + 2 * b2n h.poisoned), (4, h.raw), (4, h.stored), (8, h.offset), (4, h.objectId), (4, h.index)] ++
    fit 24 (h.planes.flatMap fun p => packBytes [(1, p.kind), (1, p.value), (4, p.codedBits)]) ++ le 4 h.word)
  b ++ le 4 (crc32c b)

/-- Plane p's fields as a header's bytes hold them. -/
def planeAt (b : Bytes) (p : Nat) : Plane :=
  { kind := fld b (32 + 6 * p) 1, value := fld b (33 + 6 * p) 1, codedBits := fld b (34 + 6 * p) 4 }

/-- A header's fields read from its bytes. -/
def headerOf (b : Bytes) : BlockHdr :=
  { mode := fld b 3 1, width := fld b 4 1, last := bit (fld b 6 2) 0, poisoned := bit (fld b 6 2) 1, raw := fld b 8 4,
    stored := fld b 12 4, offset := fld b 16 8, objectId := fld b 24 4, index := fld b 28 4,
    planes := (List.range (min 4 (fld b 5 1))).map (planeAt b), word := fld b 56 4 }

/-- The first check of R238: the header by itself (R230). -/
def ktcHeaderOk (b : Bytes) : Bool :=
  let h := headerOf b
  let count := fld b 5 1
  let planeOk (p : Nat) : Bool :=
    let x := planeAt b p
    if p < count then decide (x.kind ≤ 2 ∧ (x.kind = 0 ∨ x.value = 0) ∧ (x.kind = 2 ∨ x.codedBits = 0))
    else x.kind == 0 && x.value == 0 && x.codedBits == 0
  fld b 60 4 == crc32c (fit 60 b) && fld b 0 2 == 0x544B && fld b 2 1 == 1 &&
  decide (h.mode ≤ 3 ∧ fld b 6 2 < 4) && [1, 2, 4].contains h.width && (h.mode != 0 || h.width == 1) &&
  count == (if h.mode = 1 then h.width else 0) && decide (1 ≤ h.raw ∧ h.raw ≤ blockBytes ∧ h.raw % h.width = 0) &&
  decide (h.offset % 64 = 0) && (List.range 4).all planeOk &&
  (h.mode == 2 || h.word == 0 || (h.mode == 3 && decide (h.word < 2 ^ (8 * h.width))))

/-! Codes. -/

/-- The 256 code lengths of a table (R233). -/
def tableLengths (t : Bytes) : List Nat := (fit 128 t).flatMap fun b => [b.toNat % 16, b.toNat / 16]

/-- A table's 128 bytes. -/
def tableBytes (l : List Nat) : Bytes := (List.range 128).map fun i => BitVec.ofNat 8 (l.getD (2 * i) 0 + 16 * l.getD (2 * i + 1) 0)

/-- A table is valid (R233). -/
def tableOk (l : List Nat) : Bool :=
  let nz := l.filter fun n => n != 0
  decide (2 ≤ nz.length) && nz.all (fun n => decide (n ≤ 11)) && (nz.map fun n => 2 ^ (11 - n)).sum == 2 ^ 11

/-- Canonical codes: length, code and symbol, by length and symbol (R233). -/
def canonical (l : List Nat) : List (Nat × Nat × Nat) :=
  ((List.range 11).foldl (fun acc k =>
    let n := k + 1
    ((l.zipIdx).filter fun x => x.1 == n).foldl (fun acc x => (acc.1 ++ [(n, acc.2, x.2)], acc.2 + 1)) (acc.1, 2 * acc.2))
    (([] : List (Nat × Nat × Nat)), 0)).1

/-- Bit i of a byte string, bytes taken from bit 0 (R234). -/
def bitAt (b : Bytes) (i : Nat) : Bool := bit (b.getD (i / 8) 0#8).toNat (i % 8)

/-- Bytes of a list of bits, bit 0 first, the last byte padded with zeros (R234). -/
def bitsToBytes (l : List Bool) : Bytes :=
  (List.range (cdiv l.length 8)).map fun k =>
    BitVec.ofNat 8 ((List.range 8).map fun i => 2 ^ i * b2n (l.getD (8 * k + i) false)).sum

/-- A code's bits, most significant first (R234). -/
def codeBits (n code : Nat) : List Bool := (List.range n).map fun i => bit code (n - 1 - i)

/-- One lane of the emit stage: bytes of a stream of `left` bits from bit `pos`, until `want` bytes; 0 or its code (R238). -/
def lane (fuel : Nat) (codes : List (Nat × Nat × Nat)) (d : Bytes) (pos left want n code : Nat) (out : Bytes) : Nat × Bytes :=
  match fuel with
  | 0 => (0x0D08, [])
  | f + 1 =>
    if want = 0 then (if left = 0 then 0 else 0x0D07, out)
    else if left = 0 then (0x0D08, [])
    else
      let c := 2 * code + b2n (bitAt d pos)
      match codes.find? fun x => x.1 == n + 1 && x.2.1 == c with
      | some x => lane f codes d (pos + 1) (left - 1) (want - 1) 0 0 (out ++ [BitVec.ofNat 8 x.2.2])
      | none => lane f codes d (pos + 1) (left - 1) want (n + 1) c out

/-! Planes and elements. -/

/-- Plane p of a raw block (R232). -/
def planeOf (w p : Nat) (b : Bytes) : Bytes := (List.range (b.length / w)).map fun e => b.getD (w * e + p) 0#8

/-- A raw block from its planes (R232). -/
def joinPlanes (planes : List Bytes) (n : Nat) : Bytes := (List.range n).flatMap fun e => planes.map fun p => p.getD e 0#8

/-- Elements of a block. -/
def elements (w : Nat) (b : Bytes) : List Bytes := (List.range (b.length / w)).map fun e => slice b (w * e) w

/-- Streams of a plane of n bytes, and the bytes of stream j (R232). -/
def streamTotal (n : Nat) : Nat := cdiv n 256
def streamSize (n j : Nat) : Nat := min 256 (n - 256 * j)

/-- Bytes of a ZRUN bitmap for n elements (R235). -/
def bitmapBytes (n : Nat) : Nat := roundUp (cdiv n 8) 8

/-! Encoding (R236). -/

/-- A complete table for the byte values that occur, all codes of one length or the next: the shortest uniform code (R233). -/
def flatLengths (counts : List Nat) : List Nat :=
  let n := counts.countP fun c => c != 0
  let k := ((List.range 9).find? fun k => decide (n ≤ 2 ^ k)).getD 8
  let short := 2 ^ k - n
  (counts.foldl (fun (a : List Nat × Nat) c =>
    if c = 0 then (a.1 ++ [0], a.2) else (a.1 ++ [if a.2 < short then k - 1 else k], a.2 + 1)) ([], 0)).1

/-- The length-limited table the encoder builds from the counts of a plane's bytes: any valid table with a code for each value that occurs, for
the algorithm is not specified (R233, R236; log 1). -/
def tableFor (counts : List Nat) : List Nat :=
  let l := Config.huffLengths counts
  if tableOk l ∧ l.length = 256 ∧ (counts.zip l).all (fun x => x.1 == 0 || x.2 != 0) = true then l else flatLengths counts

/-- A HUFF plane's table and streams (R232 to R234): table, directory entries, data, coded bits. -/
def huffPlane (plane : Bytes) : Bytes × List Nat × Bytes × Nat :=
  let counts := (List.range 256).map fun v => plane.countP fun b => b.toNat == v
  let l := tableFor counts
  let codes := canonical l
  let bitsOf (b : Byte) : List Bool := match codes.find? fun x => x.2.2 == b.toNat with
    | some x => codeBits x.1 x.2.1
    | none => []
  let streams := (List.range (streamTotal plane.length)).map fun j => (slice plane (256 * j) (streamSize plane.length j)).flatMap bitsOf
  (tableBytes l, streams.map fun x => x.length, bitsToBytes streams.flatten, (streams.map fun x => x.length).sum)

/-- The PLANE candidate: payload and planes (R232, R236). A HUFF plane is taken where it is strictly smaller than RAW. -/
def planeCandidate (w : Nat) (b : Bytes) : Bytes × List Plane :=
  let ps := (List.range w).map fun p => planeOf w p b
  let coded := ps.map fun p =>
    if p.all fun x => some x == p.head? then (({ kind := 0, value := (p.headD 0#8).toNat, codedBits := 0 } : Plane), ([] : Bytes), ([] : List Nat), ([] : Bytes))
    else
      let h := huffPlane p
      if 128 + 2 * streamTotal p.length + cdiv h.2.2.2 8 < p.length then
        ({ kind := 2, value := 0, codedBits := h.2.2.2 }, h.1, h.2.1, h.2.2.1)
      else ({ kind := 1, value := 0, codedBits := 0 }, [], [], p)
  let dir := padTo 8 ((coded.flatMap fun x => x.2.2.1).flatMap fun n => le 2 n)
  ((coded.flatMap fun x => x.2.1) ++ dir ++ (coded.flatMap fun x => x.2.2.2), coded.map fun x => x.1)

/-- The ZRUN candidate: payload and count of nonzero elements (R235). -/
def zrunCandidate (w : Nat) (b : Bytes) : Bytes × Nat :=
  let es := elements w b
  let nz := es.filter fun e => !(e.all fun x => x == 0#8)
  (fit (bitmapBytes es.length) (bitsToBytes (es.map fun e => !(e.all fun x => x == 0#8))) ++ nz.flatten, nz.length)

/-- A block encoded: header and payload. The smallest candidate the mask allows, ties in the order CONST, ZRUN, PLANE, RAW
(R236). A block whose size is no multiple of the element width is RAW (R230). -/
def encodeBlock (w mask oid idx offset : Nat) (last : Bool) (b : Bytes) : Bytes × Bytes :=
  let n := b.length
  let base : BlockHdr := { mode := 0, width := 1, last := last, poisoned := false, raw := n, stored := n, offset := offset,
                           objectId := oid, index := idx, planes := [], word := 0 }
  let whole := decide (n % w = 0)
  let e0 := slice b 0 w
  let const := whole && bit mask 0 && (elements w b).all fun e => e == e0
  let cands : List (BlockHdr × Bytes) :=
    (if const then [({ base with mode := 3, width := w, stored := 0, word := unle e0 }, [])] else []) ++
    (if whole && bit mask 1 then
      let z := zrunCandidate w b
      [({ base with mode := 2, width := w, stored := z.1.length, word := z.2 }, z.1)] else []) ++
    (if whole && bit mask 2 then
      let p := planeCandidate w b
      [({ base with mode := 1, width := w, stored := p.1.length, planes := p.2 }, p.1)] else [])
  let best := cands.foldl (fun (best : BlockHdr × Bytes) c => if c.2.length < best.2.length then c else best) (base, b)
  (blockHeader best.1, best.2)

/-- A poisoned block's header: RAW with flags[1] set and no payload (R237). -/
def poisonHeader (oid idx offset raw : Nat) (last : Bool) : Bytes :=
  blockHeader { mode := 0, width := 1, last := last, poisoned := true, raw := raw, stored := 0, offset := offset,
                objectId := oid, index := idx, planes := [], word := 0 }

/-! Decoding (R238, R239). -/

/-- The first two checks of R238: 0, or the code. -/
def ktcCode (hdr : Bytes) (oid idx raw : Nat) : Nat :=
  let h := headerOf hdr
  if !ktcHeaderOk hdr then 0x0D04
  else if h.objectId ≠ oid ∨ h.index ≠ idx ∨ h.raw ≠ raw then 0x0D05
  else 0

/-- Payload bytes that the fetch stage brings in for a header that passed its checks (R240). -/
def fetchBytes (hdr : Bytes) : Nat := min blockBytes (headerOf hdr).stored

/-- Tables of a header's HUFF planes. -/
def huffCount (h : BlockHdr) : Nat := h.planes.countP fun p => p.kind == 2

/-- Bytes a plane's data takes in the payload (R232). -/
def planeData (n : Nat) (p : Plane) : Nat := if p.kind = 2 then cdiv p.codedBits 8 else if p.kind = 1 then n else 0

/-- The size that the layout gives a payload (R231, R232, R235, R237). -/
def layoutBytes (h : BlockHdr) : Nat :=
  let n := h.raw / h.width
  if h.mode = 0 then (if h.poisoned then 0 else h.raw)
  else if h.mode = 1 then
    128 * huffCount h + roundUp (2 * (streamTotal n * huffCount h)) 8 + (h.planes.map (planeData n)).sum
  else if h.mode = 2 then bitmapBytes n + h.word * h.width
  else 0

/-- A coded directory of n streams for HUFF plane k. -/
def directory (h : BlockHdr) (p : Bytes) (k : Nat) : List Nat :=
  let n := streamTotal (h.raw / h.width)
  (List.range n).map fun j => fld p (128 * huffCount h + 2 * (n * k + j)) 2

/-- The first code that is not 0. -/
def firstNonzero (l : List Nat) : Nat := (l.find? fun c => c != 0).getD 0

/-- Sums of the directories against coded_bits, in plane order (R238). -/
def directoryCode (h : BlockHdr) (p : Bytes) : Nat :=
  firstNonzero (((h.planes.filter fun x => x.kind == 2).zipIdx).map fun x =>
    let sum := (directory h p x.2).sum
    if x.1.codedBits < sum then 0x0D07 else if sum < x.1.codedBits then 0x0D08 else 0)

/-- A HUFF plane's streams decoded: the first code, the bytes. -/
def decodePlane (codes : List (Nat × Nat × Nat)) (dir : List Nat) (d : Bytes) (n : Nat) : Nat × Bytes :=
  let r := (dir.zipIdx).foldl (fun (acc : Nat × Nat × Bytes) x =>
    if acc.1 ≠ 0 then acc
    else
      let r := lane (x.1 + 2) codes d acc.2.1 x.1 (streamSize n x.2) 0 0 []
      (r.1, acc.2.1 + x.1, acc.2.2 ++ r.2)) ((0, 0, []) : Nat × Nat × Bytes)
  (r.1, r.2.2)

/-- Where plane p's data begins in the payload. -/
def planeStart (h : BlockHdr) (p : Nat) : Nat :=
  let n := h.raw / h.width
  128 * huffCount h + roundUp (2 * (streamTotal n * huffCount h)) 8 + ((h.planes.take p).map (planeData n)).sum

/-- A PLANE payload after its directory check: streams, then padding bits, then the block (R234, R238). -/
def decodePlanes (h : BlockHdr) (p : Bytes) : Nat × Bytes :=
  let n := h.raw / h.width
  let got := (h.planes.zipIdx).map fun x =>
    let d := slice p (planeStart h x.2) (planeData n x.1)
    if x.1.kind = 2 then
      let k := (h.planes.take x.2).countP fun y => y.kind == 2
      decodePlane (canonical (tableLengths (slice p (128 * k) 128))) (directory h p k) d n
    else if x.1.kind = 1 then (0, d)
    else (0, List.replicate n (BitVec.ofNat 8 x.1.value))
  let code := firstNonzero (got.map fun x => x.1)
  let padded := (h.planes.zipIdx).any fun x => x.1.kind == 2 &&
    (List.range (8 * cdiv x.1.codedBits 8 - x.1.codedBits)).any fun i =>
      bitAt (slice p (planeStart h x.2) (planeData n x.1)) (x.1.codedBits + i)
  if code ≠ 0 then (code, [])
  else if padded then (0x0D07, [])
  else (0, joinPlanes (got.map fun x => x.2) n)

/-- A ZRUN payload of the right size (R235, R238). -/
def decodeZrun (h : BlockHdr) (p : Bytes) : Nat × Bytes :=
  let n := h.raw / h.width
  let m := bitmapBytes n
  let set_ := (List.range n).filter fun e => bitAt p e
  let vals := (List.range h.word).map fun k => slice p (m + h.width * k) h.width
  if (List.range (8 * m - n)).any fun i => bitAt p (n + i) then (0x0D07, [])
  else if set_.length < h.word then (0x0D07, [])
  else if h.word < set_.length then (0x0D08, [])
  else if vals.any fun v => v.all fun x => x == 0#8 then (0x0D07, [])
  else
    let step (acc : Bytes × List Bytes) (e : Nat) : Bytes × List Bytes :=
      if bitAt p e then (acc.1 ++ acc.2.headD [], acc.2.drop 1) else (acc.1 ++ zeros h.width, acc.2)
    (0, ((List.range n).foldl step ([], vals)).1)

/-- A block decoded against what its user expects: 0 and its bytes, or the code with which it is delivered as poison (R237 to
R239). `p` is the payload as far as it was fetched. -/
def decodeBlock (hdr p : Bytes) (oid idx raw : Nat) : Nat × Bytes :=
  let h := headerOf hdr
  let c := ktcCode hdr oid idx raw
  let tables := (List.range (huffCount h)).map fun k => tableLengths (slice p (128 * k) 128)
  if c ≠ 0 then (c, [])
  else if h.mode = 1 ∧ (tables.all tableOk) = false then (0x0D06, [])
  else if h.mode ≠ 0 ∧ h.raw ≤ h.stored then (0x0D07, [])
  else if layoutBytes h < h.stored then (0x0D07, [])
  else if h.stored < layoutBytes h then (0x0D08, [])
  else
    let r :=
      if h.mode = 0 then (0, slice p 0 h.stored)
      else if h.mode = 3 then (0, (List.range (h.raw / h.width)).flatMap fun _ => le h.width h.word)
      else if h.mode = 2 then decodeZrun h p
      else
        let d := directoryCode h p
        if d ≠ 0 then (d, []) else decodePlanes h p
    if r.1 ≠ 0 then r else if h.poisoned then (0x0607, []) else r

/-- Emit cycles of a block (R240). -/
def emitCost (raw : Nat) : Nat := cdiv raw 512

/-- Cycles of an encoded block (R240). -/
def encodeCost (raw : Nat) : Nat := cdiv raw 512 + 120

end Sys2Proof.Machine
end

