-- ==== Sys2Proof/Machine/Codec.lean ====
section
/-! DEFINITION. Codec jobs and link frames (11_codec.md R240 to R246). -/

namespace Sys2Proof.Machine
open Sys2Proof

/-! Codec jobs. -/

/-- A codec job's descriptor and progress. -/
def codecOf? (j : Job) : Option (CodecDesc × CodecSt) :=
  match j.desc, j.st with
  | .codec d, .codec p => some (d, p)
  | _, _ => none

/-- A codec job's progress put in place. -/
def setCodecSt (key : Nat) (p : CodecSt) (s : State) : State :=
  match jobOf key s with
  | none => s
  | some j => setJob { j with st := .codec p } s

/-- Spaces (R242). -/
def rawPool (d : CodecDesc) : Bool := bit d.spaces 0
def hdrPool (d : CodecDesc) : Bool := bit d.spaces 1
def payPool (d : CodecDesc) : Bool := bit d.spaces 2

/-- An ENCODE job. -/
def isEncode (d : CodecDesc) : Bool := d.op == 1

/-- Bytes from payload_base that the payloads of a DECODE reach, by the headers of an index in Stage; an index in pool has not been read
yet, and the first granule stands for them (R228, R242; DEDUCED, log 14). -/
def payloadSpan (d : CodecDesc) (s : State) : Nat :=
  if hdrPool d then 64
  else (List.range (blockCount d.rawBytes)).foldl (fun m i =>
    let h := mread s.stage (d.indexAddr + 64 * i) 64
    if ktcCode h d.objectId i (blockRaw d.rawBytes i) = 0 then max m ((headerOf h).offset + fetchBytes h) else m) 64

/-- Areas of a codec job: space, address, bytes, output (R229, R242). -/
def codecAreas (d : CodecDesc) (s : State) : List (Bool × Nat × Nat × Bool) :=
  let n := blockCount d.rawBytes
  [(rawPool d, d.rawAddr, d.rawBytes, !isEncode d), (hdrPool d, d.indexAddr, 64 * n, isEncode d),
   (payPool d, d.payloadBase, if isEncode d then 65536 * n else payloadSpan d s, isEncode d)]

/-- Pairs of a list, the first before the second. -/
def pairsOf {α : Type} (l : List α) : List (α × α) :=
  match l with
  | [] => []
  | x :: r => r.map (fun y => (x, y)) ++ pairsOf r

/-- The checks of the codec commands in their order (R242, R243). -/
def codecCheck (encode : Bool) (d : CodecDesc) (s : State) : Nat :=
  let areas := codecAreas d s
  let outs := areas.filter fun a => a.1 && a.2.2.2
  let homes := sorted (outs.flatMap fun a => areaHomes d.charter a.2.1 a.2.2.1 s)
  firstCode [
    (decide (d.op ≠ (if encode then 1 else 2) ∨ 8 ≤ d.spaces ∨ 8 ≤ d.modeMask ∨ d.engines < 1 ∨ 16 < d.engines ∨
        d.rawBytes < 1 ∨ 2 ^ 40 < d.rawBytes) ||
      !(if encode then [1, 2, 4].contains d.elemWidth else d.elemWidth == 0), 0x0D01),
    ((areas.any fun a => decide (a.2.1 % 64 ≠ 0) || !areaOk false a.1 d.charter a.2.1 a.2.2.1 s ||
        (a.1 && a.2.2.2 && !poolOut d.charter a.2.1 a.2.2.1 s)) ||
      (outs != [] && (decide (d.sealVa % 8 ≠ 0 ∨ 2 ^ 56 ≤ d.sealVa) || !poolOut d.charter d.sealVa 8 s ||
        decide ((sorted (homes ++ areaHomes d.charter d.sealVa 8 s)).length ≠ 1))) ||
      ((pairsOf areas).any fun p => clash p.1.1 p.1.2.1 p.1.2.2.1 p.2.1 p.2.2.1 p.2.2.2.1), 0x0D02),
    (decide (64 ≤ activeJobs [cmdEncode, cmdDecode] s), 0x0D03)]

/-- What firmware fills in a basic form (R242). -/
def codecFill (d : CodecDesc) (s : State) : JobDesc × State :=
  (.codec { d with modeMask := 7, engines := max 1 (min 16 (blockCount d.rawBytes)) }, s)

/-- CODEC.ENCODE (R229, R241 to R243). -/
def execCodecEncode (h : JobHdr) (d : CodecDesc) (s : State) : Ans :=
  submit h cmdEncode (.codec d) (codecFill d)
    (fun x s => match x with
      | .codec d => codecCheck true d s
      | _ => 0) s

/-- CODEC.DECODE (R241 to R243). -/
def execCodecDecode (h : JobHdr) (d : CodecDesc) (s : State) : Ans :=
  submit h cmdDecode (.codec d) (codecFill d)
    (fun x s => match x with
      | .codec d => codecCheck false d s
      | _ => 0) s

/-- A job's progress at the start of an attempt (R361). -/
def codecFresh : CodecSt := { cursor := [], blocks := 0, blocksPoisoned := 0, firstBad := none, storedTotal := 0 }

/-- Block i's header as it has landed. -/
def headerLanded (j : Job) (d : CodecDesc) (i : Nat) (s : State) : Option (Option Bytes) :=
  areaSlice j (hdrPool d) d.indexAddr (64 * blockCount d.rawBytes) (d.indexAddr + 64 * i) 64 s

/-- Block i's payload for its header: none while a part has not landed; nothing is fetched where the header fails (R238,
R240). -/
def payloadLanded (j : Job) (d : CodecDesc) (i : Nat) (hdr : Bytes) (s : State) : Option (Option Bytes) :=
  if ktcCode hdr d.objectId i (blockRaw d.rawBytes i) ≠ 0 ∨ fetchBytes hdr = 0 then some (some [])
  else areaRead j (payPool d) (d.payloadBase + (headerOf hdr).offset) (fetchBytes hdr) s

/-- Pieces that block i needs, as far as they are known: the raw block, or its header and then its payload. -/
def blockPieces (j : Job) (d : CodecDesc) (i : Nat) (s : State) : List (Nat × Nat) :=
  if isEncode d then (if rawPool d then pieces256 (d.rawAddr + 65536 * i) (blockRaw d.rawBytes i) else [])
  else
    let hs := if hdrPool d then (pieces256 d.indexAddr (64 * blockCount d.rawBytes)).filter fun p =>
        decide (p.1 < d.indexAddr + 64 * i + 64 ∧ d.indexAddr + 64 * i < p.1 + p.2) else []
    match headerLanded j d i s with
    | some (some h) =>
      if payPool d = false ∨ ktcCode h d.objectId i (blockRaw d.rawBytes i) ≠ 0 ∨ fetchBytes h = 0 then hs
      else hs ++ pieces256 (d.payloadBase + (headerOf h).offset) (fetchBytes h)
    | _ => hs

/-- A well-formed header names a payload that runs past Stage space or overlaps the raw side or the index (R243). The command is refused
for it where the index is in Stage; an index in pool is read later, and the job stops with the same code (DEDUCED, log 14). -/
def payloadBad (d : CodecDesc) (i : Nat) (h : Bytes) : Bool :=
  let a := d.payloadBase + (headerOf h).offset
  let n := fetchBytes h
  ktcCode h d.objectId i (blockRaw d.rawBytes i) == 0 && n != 0 &&
    ((!payPool d && !stageArea false a n) || clash (payPool d) a n (rawPool d) d.rawAddr d.rawBytes ||
      clash (payPool d) a n (hdrPool d) d.indexAddr (64 * blockCount d.rawBytes))

/-- Reads of a block asked for. Payloads in pool whose index was in pool too are acquired as their header shows where they lie, before they
are first read (R84, R244; DEDUCED, log 14). -/
def askBlock (key e i : Nat) (s : State) : State :=
  match jobOf key s with
  | none => s
  | some j => match codecOf? j with
    | none => s
    | some (d, _) =>
      let late := match headerLanded j d i s with
        | some (some h) => if !isEncode d && payPool d && hdrPool d && ktcCode h d.objectId i (blockRaw d.rawBytes i) == 0 then
            pieces256 (d.payloadBase + (headerOf h).offset) (fetchBytes h) else []
        | _ => []
      let fresh := late.all fun p => (landedPiece j p s).isNone && !pieceAsked j p s
      let s := match late with
        | p :: _ => if fresh then acquireArea d.charter p.1 ((late.map fun x => x.2).sum) s else s
        | [] => s
      askPieces key (bookNo .codec e) (2 ^ 60) (2 ^ 60) (blockPieces j d i s) s

/-- Reads asked ahead: of each engine, its next 128 blocks, more than a tide of the longest length emits (R240; log 16). -/
def codecPlan (key : Nat) (s : State) : State :=
  match jobOf key s with
  | none => s
  | some j => match codecOf? j with
    | none => s
    | some (d, p) =>
      let n := blockCount d.rawBytes
      let next := (List.range d.engines).flatMap fun e =>
        ((List.range 128).map fun k => (e, e + d.engines * (tgetD p.cursor e 0 + k))).filter fun x => decide (x.2 < n)
      next.foldl (fun s x => askBlock key x.1 x.2 s) s

/-- What landed allows more to be asked for. -/
def codecLand (key : Nat) (s : State) : State := codecPlan key s
/-- A block counted: its engine's cursor, its stored bytes, and its code when it is poison (R245). -/
def countBlock (e i stored code : Nat) (p : CodecSt) : CodecSt :=
  let bad := if code = 0 then p.firstBad else
    match p.firstBad with
    | some b => if i < b.1 then some (i, code) else some b
    | none => some (i, code)
  { cursor := tput p.cursor e (tgetD p.cursor e 0 + 1), blocks := p.blocks + 1,
    blocksPoisoned := p.blocksPoisoned + b2n (code != 0), firstBad := bad, storedTotal := p.storedTotal + stored }

/-- A block of a codec job retired by a physical engine (R236, R237, R239, R244). -/
def codecBlock (engine key i : Nat) (s : State) : State :=
  match jobOf key s with
  | none => s
  | some j => match codecOf? j with
    | none => s
    | some (d, p) =>
      let e := i % max 1 d.engines
      let book := some (bookNo .codec engine)
      let n := blockRaw d.rawBytes i
      let last := decide (i + 1 = blockCount d.rawBytes)
      let used := (if isEncode d then blockPieces j d i s else (blockPieces j d i s).filter fun x => decide (x.1 < d.indexAddr ∨
          d.indexAddr + 64 * blockCount d.rawBytes ≤ x.1))
      let put (p : CodecSt) (s : State) : State := setJob (dropLanded used { j with st := .codec p } s) s
      if isEncode d then
        match areaRead j (rawPool d) (d.rawAddr + 65536 * i) n s with
        | none => s
        | some v =>
          let b := match v with
            | some b => encodeBlock d.elemWidth d.modeMask d.objectId i (65536 * i) last b
            | none => (poisonHeader d.objectId i (65536 * i) n last, [])
          let s := put (countBlock e i b.2.length (if v.isNone then 0x0607 else 0) p) s
          let s := outWrite key book (payPool d) (d.payloadBase + 65536 * i) b.2.length (some b.2) s
          outWrite key book (hdrPool d) (d.indexAddr + 64 * i) 64 (some b.1) s
      else
        match headerLanded j d i s with
        | none => s
        | some none =>
          outWrite key book (rawPool d) (d.rawAddr + 65536 * i) n none (put (countBlock e i 0 0x0607 p) s)
        | some (some h) =>
          if payloadBad d i h then stopJob key 0x0D02 (recordReason 0x0D02 s)
          else
            match payloadLanded j d i h s with
            | none => s
            | some v =>
              let r := match v with
                | some x => decodeBlock h x d.objectId i n
                | none => (0x0607, [])
              let s := put (countBlock e i (headerOf h).stored r.1 p) s
              let s := if r.1 = 0 ∨ r.1 = 0x0607 then s
                else raiseLimited r.1 key 0 [(evJobDevice, j.device), (evSlot, j.slot), (evCharter, d.charter)] 1 s
              outWrite key book (rawPool d) (d.rawAddr + 65536 * i) n (if r.1 = 0 then some r.2 else none) s

/-- The spaces a job writes its output to. -/
def codecOutPool (d : CodecDesc) : Bool := if isEncode d then hdrPool d || payPool d else rawPool d

/-- Its block has landed and its header stage is done (R240); one whose payload lies where none may stops the job when its turn comes. -/
def blockReady (j : Job) (d : CodecDesc) (i : Nat) (s : State) : Bool :=
  if isEncode d then (areaRead j (rawPool d) (d.rawAddr + 65536 * i) (blockRaw d.rawBytes i) s).isSome
  else match headerLanded j d i s with
    | none => false
    | some none => true
    | some (some h) => payloadBad d i h || (payloadLanded j d i h s).isSome

/-- Work of a codec job that is ready, with its logical engine: of each, the blocks from its next on that have landed, in order (R240,
R242, R244). -/
def codecReady (j : Job) (s : State) : List (Nat × Work) :=
  match codecOf? j with
  | none => []
  | some (d, p) =>
    if j.phase ≠ .running ∨ (codecOutPool d = true ∧ j.awaitFence ≠ []) then []
    else (List.range d.engines).flatMap fun e =>
      ((((List.range 128).map fun k => e + d.engines * (tgetD p.cursor e 0 + k)).filter fun i => decide (i < blockCount d.rawBytes)).takeWhile
        fun i => blockReady j d i s).map fun i => (e, Work.block i)

/-- Emit cycles of a block (R240). -/
def blockCost (j : Job) (w : Work) : Nat :=
  match codecOf? j, w with
  | some (d, _), .block i =>
    let n := blockRaw d.rawBytes i
    if isEncode d then encodeCost n else emitCost n
  | _, _ => 0
/-- Every block has been handled. -/
def codecWritten (d : CodecDesc) (p : CodecSt) : Bool := p.blocks == blockCount d.rawBytes

/-- Pool inputs acquired at the start of an attempt (R244): all whose place is known then. -/
def codecInputs (d : CodecDesc) (s : State) : List (Nat × Nat) :=
  ((codecAreas d s).filter fun a => a.1 && !a.2.2.2).map fun a => (a.2.1, a.2.2.1)

/-- The home of a pool output (R244). -/
def codecHomes (d : CodecDesc) (s : State) : List Nat := if codecOutPool d then areaHomes d.charter d.sealVa 8 s else []

/-- Reason of a codec job that ran to its end (R244). -/
def codecReason (p : CodecSt) : Nat := if p.blocksPoisoned = 0 then 0 else 0x0D09

/-- A codec job's result header (R245). -/
def codecResult (j : Job) (d : CodecDesc) (p : CodecSt) (reason : Nat) (s : State) : Bytes :=
  packBytes [(2, reason), (1, d.engines), (1, j.attempts), (4, p.blocks), (4, p.blocksPoisoned),
    (4, match p.firstBad with | some b => b.1 | none => 0xFFFFFFFF), (2, match p.firstBad with | some b => b.2 | none => 0),
    (2, attemptTides j s), (4, 0), (8, p.storedTotal)]

/-! Link frames (R246). -/

/-- LINK.CODEC: the classes, element width and max_wait of a span context; a class mask of zero turns compression off. The
basic form takes element width 2 and 1,024 ns (R246, R416). Other values are refused with 0x0D01, the codec's code for
command values (DESIGN CHOICE, log 14: R246 names none). -/
def execLinkCodec (h : CmdHdr) (ctx classMask elemWidth maxWait : Nat) (s : State) : Ans :=
  let w := if h.expert then elemWidth else 2
  let m := if h.expert then maxWait else 1024
  let span (s : State) : Bool := match ctxAt ctx s with | some c => c.enable && c.role == 3 | none => false
  immediate h 0x0201
    (fun s => firstCode [(!h.expert && (elemWidth != 0 || maxWait != 0), 0x0004),
      (!span s || decide (65536 ≤ classMask ∨ m < 256 ∨ 8192 < m) || !([1, 2, 4].contains w), 0x0D01)])
    (fun s =>
      let k : LinkCodec := match tget s.ports.codecs ctx with
        | some k => { k with classMask := classMask, elemWidth := w, maxWait := m }
        | none => { noCodec with classMask := classMask, elemWidth := w, maxWait := m }
      setCodec ctx k s)
    (fun _ => []) [ctx, classMask, w, m] s

/-- A frame's raw bytes: each item's pool, class and length before it, padded (log 6). -/
def frameRaw (items : List (Nat × Nat × Item)) : Bytes :=
  items.flatMap fun x => packBytes [(1, x.1), (1, x.2.1), (2, 0), (4, x.2.2.bytes.length)] ++ padTo 8 x.2.2.bytes

/-- The items of a frame's raw bytes: pool, class and bytes. -/
def frameItems (fuel : Nat) (b : Bytes) : List (Nat × Nat × Bytes) :=
  match fuel with
  | 0 => []
  | f + 1 =>
    if b.length < 8 then []
    else
      let n := fld b 4 4
      (fld b 0 1, fld b 1 1, slice b 8 n) :: frameItems f (b.drop (8 + roundUp n 8))

/-- A frame's items sent uncompressed, in order. -/
def sendPlain (ctx : Nat) (items : List (Nat × Nat × Item)) (s : State) : State :=
  items.foldl (fun s x => enterPlain homePort ctx x.1 x.2.1 (if x.1 = 3 then 1 else 0) 0 x.2.2 s) s

/-- A codec engine encodes the oldest closed frame of a context as one block with object_id 0 and the frame's sequence number;
one that encodes as RAW goes uncompressed (R246). -/
def encodeFrame (ctx : Nat) (s : State) : State :=
  match tget s.ports.codecs ctx with
  | none => s
  | some k =>
    match k.closed with
    | [] => s
    | f :: rest =>
      let b := encodeBlock k.elemWidth 7 0 k.nextSeq 0 true (frameRaw f.items)
      let k := { k with closed := rest, closedBase := k.closedBase + 1 }
      if (headerOf b.1).mode = 0 then sendPlain ctx f.items (setCodec ctx k s)
      else
        let s := setCodec ctx { k with nextSeq := (k.nextSeq + 1) % 2 ^ 32, sent := k.sent ++ [{ f with seq := k.nextSeq }] } s
        let cls := match f.items with | x :: _ => x.2.1 | [] => 0
        let i : Item := { bytes := b.1 ++ b.2, opcode := 0, charter := none, source := self s, home := 0 }
        enterPlain homePort ctx 3 cls 3 0 i (emit (.frame ctx k.nextSeq false b.1 b.2) s)
/-- A time in ns since a reference cycle has passed. -/
def waited (since ns : Nat) (s : State) : Bool := decide (10 * ns ≤ 64 * (s.refCycles - since))

/-- LINK_FRAME_TIMEOUT: the oldest gathered item has waited max_wait and its frame is closed; closed frames that found no
engine within max_wait go uncompressed (R246). -/
def execLinkFrameTimeout (ctx : Nat) (s : State) : Ans :=
  onCore s fun s =>
    match tget s.ports.codecs ctx with
    | none => s
    | some k =>
      let old := k.closed.takeWhile fun f => waited f.since k.maxWait s
      let k := { k with closed := k.closed.drop old.length, closedBase := k.closedBase + old.length }
      let k := if k.gather ≠ [] ∧ waited k.since k.maxWait s = true then closeGather s.refCycles k else k
      old.foldl (fun s f => sendPlain ctx f.items s) (setCodec ctx k s)

/-- An item of a frame proceeds as if it had arrived singly (R246). -/
def releaseItem (ctx : Nat) (x : Nat × Nat × Bytes) (s : State) : State :=
  let kind := x.1
  if kind = 3 then
    let b := x.2.2
    let i : Item := { bytes := b, opcode := 0, charter := streamCharter 1 b s, source := bits (fld b 0 32) 224 213, home := 0 }
    observe ctx false 3 x.2.1 1 i s
  else
    let a := arrivedItem kind x.2.2
    let s := observe ctx false kind a.2 0 a.1 s
    match wayOf ctx kind x.2.2 s with
    | .ctx k => enterItem (portOf ctx kind s) k kind a.2 0 0 a.1 s
    | .reroute => returnRequest x.2.2 s
    | _ => s

/-- The oldest received frame of a context is decoded and checked with object_id 0 and the next sequence number; its items are released in
their order and the frame acknowledged, or none of them and a NACK (R238, R246). A frame already released is acknowledged
again. -/
def decodeFrame (ctx : Nat) (s : State) : State :=
  match tget s.ports.codecs ctx with
  | none => s
  | some k =>
    match k.rx with
    | [] => s
    | f :: rest =>
      let k := { k with rx := rest, rxBase := k.rxBase + 1 }
      let h := headerOf f.1
      let behind := ktcHeaderOk f.1 && h.objectId == 0 && decide (1 ≤ (k.rxSeq + 2 ^ 32 - h.index) % 2 ^ 32 ∧
        (k.rxSeq + 2 ^ 32 - h.index) % 2 ^ 32 < 2 ^ 31)
      if behind then emit (.link ctx 8 [h.index]) (setCodec ctx k s)
      else
        let r := decodeBlock f.1 f.2 0 k.rxSeq h.raw
        let s := setCodec ctx { k with rxSeq := (k.rxSeq + 1) % 2 ^ 32 } s
        if r.1 ≠ 0 then emit (.link ctx 10 [k.rxSeq]) s
        else (frameItems (r.2.length + 1) r.2).foldl (fun s x => releaseItem ctx x s) (emit (.link ctx 8 [k.rxSeq]) s)

/-- Emit cycles of a received frame: those of the raw bytes that its header gives (R240). -/
def frameCost (header : Bytes) : Nat := emitCost (min blockBytes (headerOf header).raw)

/-- The codec engines bound to no job, which link frames and codec jobs share (R241). -/
def sharedCodecs (s : State) : List Nat := (List.range 16).filter fun e => (bookOf .codec e s).bound.isNone

/-- The shared engine that a number falls to: a codec job's logical engine, or a context. The spec does not say how work is dealt to the
engines (DESIGN CHOICE, log 23: by the number, round the shared engines). -/
def sharedEngine (n : Nat) (s : State) : Option Nat :=
  let u := sharedCodecs s
  if u = [] then none else u[n % u.length]?

/-- A codec engine may decode a context's frame as it arrives: it has no slice under way and has served no other context this tide, and
the cycles are in its budget (R240, R241; DESIGN CHOICE, log 23). -/
def mayServe (ctx cost : Nat) (s : State) : Option Nat :=
  match sharedEngine ctx s with
  | none => none
  | some e =>
    let b := bookOf .codec e s
    if b.plan = [] ∧ b.long.isNone = true ∧ (b.served = none ∨ b.served = some ctx) ∧ mayUse .codec e cost s = true then some e else none

/-- LINK_FRAME_RECEIVE: a frame arrives. It is decoded at once where its codec engine is free for it, and otherwise waits for that engine's
slice (R240, R241, R246). -/
def execLinkFrameReceive (ctx : Nat) (header payload : Bytes) (s : State) : Ans :=
  onCore s fun s =>
    match ctxAt ctx s with
    | none => s
    | some c =>
      if c.role ≠ 3 then s
      else
        let k := (tget s.ports.codecs ctx).getD noCodec
        let s := setCodec ctx { k with rx := k.rx ++ [(header, payload)] } s
        match k.rx, mayServe ctx (frameCost header) s with
        | [], some e =>
          let s := useCycles .codec e (frameCost header) s
          decodeFrame ctx (setBook .codec e { bookOf .codec e s with served := some ctx } s)
        | _, _ => s

/-- Link frames that are ready, with their contexts: closed ones to encode and received ones to decode (R241, R246). -/
def frameReady (s : State) : List (Nat × Work) :=
  s.ports.codecs.flatMap fun x =>
    (if x.2.closed = [] then [] else [(x.1, Work.linkFrame x.1 x.2.closedBase x.2.closed.length)]) ++
    (if x.2.rx = [] then [] else [(x.1, Work.frameDecode x.1 x.2.rxBase x.2.rx.length)])

/-- Cycles of the frames of a run, one by one (R240). -/
def frameCosts (w : Work) (s : State) : List Nat :=
  match w with
  | .linkFrame ctx a n => (match tget s.ports.codecs ctx with
    | some k => ((k.closed.drop (a - k.closedBase)).take n).map fun f => encodeCost (frameRaw f.items).length
    | none => [])
  | .frameDecode ctx a n => (match tget s.ports.codecs ctx with
    | some k => ((k.rx.drop (a - k.rxBase)).take n).map fun f => frameCost f.1
    | none => [])
  | _ => []

/-- A unit of a codec engine's slice: a job's block, or link frames (R241, R246). -/
def codecUnit (engine key : Nat) (w : Work) (s : State) : State :=
  match w with
  | .linkFrame ctx _ n => (List.range n).foldl (fun s _ => encodeFrame ctx s) s
  | .frameDecode ctx _ n => (List.range n).foldl (fun s _ => decodeFrame ctx s) s
  | .block i => codecBlock engine key i s
  | _ => s

/-- LINK_FRAME_ACK: the frame's items are held no longer (R246). -/
def execLinkFrameAck (ctx seq : Nat) (s : State) : Ans :=
  onCore s fun s =>
    match tget s.ports.codecs ctx with
    | none => s
    | some k => setCodec ctx { k with sent := k.sent.filter fun f => f.seq != seq } s

/-- LINK_FRAME_NACK: the frame's items are resent uncompressed, and 0x0D0A raised (R246). -/
def execLinkFrameNack (ctx seq : Nat) (s : State) : Ans :=
  onCore s fun s =>
    match tget s.ports.codecs ctx with
    | none => s
    | some k =>
      match k.sent.find? fun f => f.seq == seq with
      | none => s
      | some f =>
        let s := setCodec ctx { k with sent := k.sent.filter fun f => f.seq != seq } s
        raise 0x0D0A [(evContext, ctx)] (sendPlain ctx f.items s)

end Sys2Proof.Machine
end

