-- ==== Sys2Proof/Machine/Customs.lean ====
section
/-! DEFINITION. The filter array (09_customs.md): schemas and predicates, scans, scores, top-k, merges. -/

namespace Sys2Proof.Machine
open Sys2Proof

/-- A Customs job's descriptor and progress. -/
def custOf? (j : Job) : Option (CustDesc × CustSt) :=
  match j.desc, j.st with
  | .cust d, .cust p => some (d, p)
  | _, _ => none

/-- A Customs job's progress put in place. -/
def setCust (key : Nat) (p : CustSt) (s : State) : State :=
  match jobOf key s with
  | none => s
  | some j => setJob { j with st := .cust p } s

/-- Spaces (R201). -/
def storePool (d : CustDesc) : Bool := bit d.spaces 0
def attrPool (d : CustDesc) : Bool := bit d.spaces 1
def queryPool (d : CustDesc) : Bool := bit d.spaces 2
def outPool (d : CustDesc) : Bool := bit d.spaces 3

/-- The job has a predicate over records: a scan's, or a score's with flags[0] (R185, R188). -/
def hasRecords (d : CustDesc) : Bool := d.op == 1 || (d.op == 2 && bit d.flags 0)

/-! Schemas and predicates (R183 to R185). -/

/-- Fields of a schema descriptor. -/
def schRecord (sc : Bytes) : Nat := fld sc 0 2
def schFields (sc : Bytes) : Nat := fld sc 2 1
def schOffset (sc : Bytes) (f : Nat) : Nat := fld sc (16 + 8 * f) 2
def schType (sc : Bytes) (f : Nat) : Nat := fld sc (18 + 8 * f) 1
def schWidth (sc : Bytes) (f : Nat) : Nat := fld sc (19 + 8 * f) 1
def termAt (sc : Bytes) (t : Nat) : Nat := 16 + 8 * schFields sc + 24 * t

/-- Bytes of a field of a type and width (R183). -/
def typeBytes (ty width : Nat) : Nat :=
  if ty = 1 ∨ ty = 5 then 1 else if ty = 2 ∨ ty = 6 ∨ ty = 9 ∨ ty = 10 then 2 else if ty = 3 ∨ ty = 7 ∨ ty = 11 then 4
  else if ty = 4 ∨ ty = 8 then 8 else width

/-- A float type. -/
def floatType (ty : Nat) : Bool := ty == 9 || ty == 10 || ty == 11

/-- A value of a type from its bytes (R184): floats as numbers, BYTES with the first byte most significant. -/
def typeValue (ty width : Nat) (b : Bytes) : Num :=
  let n := typeBytes ty width
  if ty = 9 then elemValue 2 (fld b 0 2)
  else if ty = 10 then elemValue 1 (fld b 0 2)
  else if ty = 11 then elemValue 0 (fld b 0 4)
  else if 5 ≤ ty ∧ ty ≤ 8 then ofInt (sext (8 * n) (fld b 0 n))
  else if ty = 12 then .fin false ((fit n b).foldl (fun a x => 256 * a + x.toNat) 0) 0
  else .fin false (fld b 0 n) 0

/-- A value's bits as an unsigned number, for the mask operations. -/
def typeBits (ty width : Nat) (b : Bytes) : Nat :=
  let n := typeBytes ty width
  if ty = 12 then (fit n b).foldl (fun a x => 256 * a + x.toNat) 0 else fld b 0 n

/-- A term on a record (R183, R184). -/
def termTrue (sc record : Bytes) (t : Nat) : Bool :=
  let o := termAt sc t
  let f := fld sc o 1
  let op := fld sc (o + 1) 1
  let neg := bit (fld sc (o + 3) 1) 0
  let ty := schType sc f
  let w := schWidth sc f
  let fb := slice record (schOffset sc f) (typeBytes ty w)
  let b0 := slice sc (o + 8) 8
  let b1 := slice sc (o + 16) 8
  let v := typeValue ty w fb
  let c0 := typeValue ty w b0
  let c1 := typeValue ty w b1
  let m := typeBits ty w fb
  let m0 := typeBits ty w b0
  let m1 := typeBits ty w b1
  let le_ (a b : Num) : Bool := ltNum a b || eqNum a b
  let r := if op = 1 then eqNum v c0
    else if op = 2 then !(eqNum v c0)
    else if op = 3 then ltNum v c0
    else if op = 4 then le_ v c0
    else if op = 5 then ltNum c0 v
    else if op = 6 then le_ c0 v
    else if op = 7 then le_ c0 v && le_ v c1
    else if op = 8 then decide (Nat.land m m0 ≠ 0)
    else if op = 9 then decide (Nat.land m m0 = m0)
    else decide (Nat.land m m1 = m0)
  r != neg

/-- A record passes the terms: one clause in use is satisfied (R185). -/
def passesTerms (d : CustDesc) (sc record : Bytes) : Bool :=
  if d.termCount = 0 ∨ bit d.flags 0 = false then true
  else
    (List.range 8).any fun c =>
      let ts := (List.range d.termCount).filter fun t => bit (fld sc (termAt sc t + 2) 1) c
      ts != [] && ts.all fun t => termTrue sc record t

/-- The schema descriptor and its terms are well formed (R183, R202). -/
def schemaOk (d : CustDesc) (sc : Bytes) : Bool :=
  let rb := schRecord sc
  let fc := schFields sc
  decide (4 ≤ rb ∧ rb ≤ 4096 ∧ rb % 4 = 0 ∧ 1 ≤ fc ∧ fc ≤ 16 ∧ slice sc 3 13 = zeros 13) &&
  ((List.range fc).all fun f =>
    let ty := schType sc f
    let w := schWidth sc f
    let n := typeBytes ty w
    decide (1 ≤ ty ∧ ty ≤ 12 ∧ (ty = 12 → 1 ≤ w ∧ w ≤ 8) ∧ (ty ≠ 12 → w = 0) ∧ schOffset sc f + n ≤ rb ∧
      (ty ≠ 12 → schOffset sc f % n = 0) ∧ fld sc (20 + 8 * f) 4 = 0)) &&
  (List.range d.termCount).all fun t =>
    let o := termAt sc t
    let f := fld sc o 1
    let op := fld sc (o + 1) 1
    decide (f < fc ∧ 1 ≤ op ∧ op ≤ 10 ∧ fld sc (o + 3) 1 ≤ 1 ∧ fld sc (o + 4) 4 = 0) &&
    !(decide (8 ≤ op) && floatType (schType sc f))

/-! Vectors and scores (R187 to R191). -/

/-- Vector formats (R187). -/
def vecFormatOk (f : Nat) : Bool := [1, 2, 3, 4, 5, 8, 9, 10, 11, 12, 13].contains f

/-- Packed bytes of a vector (R187). -/
def vecBytes (d : CustDesc) : Nat :=
  (if mxFormat d.vecFormat then d.dim / 32 else 0) + d.dim * elemBits d.vecFormat / 8

/-- Elements per array cycle (R187). -/
def arrayL (f : Nat) : Nat := if f = 1 ∨ f = 2 then 32 else if f = 12 then 128 else 64

/-- Elements of a vector as exact values, its shared scales applied (R187, R190). -/
def vecValues (d : CustDesc) (b : Bytes) : List Num :=
  if d.vecFormat = 5 then (intValues 5 d.dim b).map ofInt
  else if mxFormat d.vecFormat then groupValues d.vecFormat d.dim b
  else (unpackElems d.vecFormat (fit (vecBytes d) b)).map (elemValue d.vecFormat)

/-- Exact sum of products. -/
def dotExact (a b : List Num) : Num := (List.zipWith mulNum a b).foldl addNum (.fin false 0 0)

/-- A dot product: INT8 exactly over the whole vector; else groups of 32 summed exactly and added in ascending order into an
FP32 accumulator, each addition rounded to nearest even (R190). -/
def dotOf (d : CustDesc) (a b : List Num) : BitVec 32 :=
  if d.vecFormat = 5 then enc32 0 (dotExact a b)
  else
    (List.range (d.dim / 32)).foldl (fun acc g =>
      enc32 0 (addNum (dec32 acc) (dotExact ((a.drop (32 * g)).take 32) ((b.drop (32 * g)).take 32)))) 0#32

/-- The score of a vector against a query (R189). -/
def scoreOf (d : CustDesc) (q v : List Num) : BitVec 32 :=
  let qv := dotOf d q v
  if d.metric ≠ 3 then qv
  else
    let two := enc32 0 (mulNum (.fin false 2 0) (dec32 qv))
    let a := enc32 0 (addNum (dec32 (dotOf d q q)) (negNum (dec32 two)))
    let r := enc32 0 (addNum (dec32 a) (dec32 (dotOf d v v)))
    if ltNum (dec32 r) (.fin false 0 0) then 0#32 else r

/-- Does a candidate rank before another (R189, R192)? -/
def ranksBefore (d : CustDesc) (a b : BitVec 32 × Nat) : Bool :=
  let x := dec32 a.1
  let y := dec32 b.1
  if eqNum x y then decide (a.2 < b.2) else if d.metric = 3 then ltNum x y else ltNum y x

/-- A candidate put into a list best first. -/
def rankIn (d : CustDesc) (c : BitVec 32 × Nat) (l : List (BitVec 32 × Nat)) : List (BitVec 32 × Nat) :=
  match l with
  | [] => [c]
  | x :: r => if ranksBefore d c x then c :: x :: r else x :: rankIn d c r

/-- A candidate offered to a sorter of k (R192); equal candidates are both kept (R195). -/
def offer (d : CustDesc) (c : BitVec 32 × Nat) (l : List (BitVec 32 × Nat)) : List (BitVec 32 × Nat) := (rankIn d c l).take d.k

/-! The descriptor's checks (R202). -/

/-- Bytes of a result area (R194). -/
def resultBytes (d : CustDesc) : Nat := 256 + 8 * d.batch * d.k

/-- Bytes of one query, padded to 4 (R187). -/
def queryStride (d : CustDesc) : Nat := roundUp (vecBytes d) 4

/-- Entries of each engine's share of the work area (R186). -/
def scanShare (d : CustDesc) : Nat := min d.outCapacity (cdiv d.rowCount (max 1 d.engines))

/-- A store lies in an extent marked compressed and is read through the codec (R44, R197). -/
def storeCoded (pool : Bool) (charter a : Nat) (s : State) : Bool :=
  let f := findExtent charter a s
  pool && f.1 == 0 && (entryOf f.2.1 s).compressed

/-- Bytes that a store of some raw bytes takes where it lies: as a compressed object, its index, and behind it its payloads, which never
exceed the raw data (R228, R231). The descriptor names one address for both; the spec does not say where the payloads of a store lie
(DESIGN CHOICE, log 24: behind the index). -/
def storedBytes (coded : Bool) (raw : Nat) : Nat := if coded then 64 * blockCount raw + roundUp raw 64 else raw

/-- Bytes of the schema descriptor with its terms. -/
def schemaBytes (d : CustDesc) (s : State) : Nat := 16 + 8 * mfld s.stage (d.schemaAddr + 2) 1 + 24 * d.termCount

/-- The areas of a job: which (0 input, 1 output, 2 work area), space, address, bytes. -/
def custAreas (d : CustDesc) (s : State) : List (Nat × Bool × Nat × Nat) :=
  let rb := mfld s.stage d.schemaAddr 2
  let at_ (pool : Bool) (a raw : Nat) : Nat × Bool × Nat × Nat := (0, pool, a, storedBytes (storeCoded pool d.charter a s) raw)
  let schema := if hasRecords d then [(0, false, d.schemaAddr, schemaBytes d s)] else []
  if d.op = 1 then
    schema ++ [at_ (storePool d) d.storeAddr (d.rowCount * rb), (1, outPool d, d.outAddr, 8 * d.outCapacity),
      (2, false, d.workBase, 8 * d.engines * scanShare d)]
  else if d.op = 2 then
    schema ++ [at_ (storePool d) d.storeAddr ((d.rowCount - 1) * d.stride + vecBytes d),
      (0, queryPool d, d.queryAddr, d.batch * queryStride d), (1, outPool d, d.outAddr, resultBytes d)] ++
    (if bit d.flags 0 then [at_ (attrPool d) d.attrAddr (d.rowCount * rb)] else [])
  else
    [(0, false, d.listAddr, 8 * d.listCount), (1, outPool d, d.outAddr, resultBytes d)] ++
    (List.range d.listCount).map fun k => (0, storePool d, mfld s.stage (d.listAddr + 8 * k) 8, resultBytes d)

/-- The format by which a Customs job picks a variant: the vector format, bit 31 for a scan (R216). -/
def custFormat (d : CustDesc) : Nat := if d.op = 1 then 31 else d.vecFormat

/-- A program serves a Customs job (R217). -/
def custProgramOk (d : CustDesc) (s : State) : Bool :=
  match usable d.programId 2 d.charter (custFormat d) s with
  | none => false
  | some (b, v) => (variantEntry b v false).isSome || (d.op == 2 && (variantEntry b v true).isSome)

/-- The checks of the Customs commands in their order (R201, R202); `op` is the command's own. -/
def custCheck (expert : Bool) (op : Nat) (d : CustDesc) (s : State) : Nat :=
  let areas := custAreas d s
  let outs := areas.filter fun a => a.1 == 1
  let rest := areas.filter fun a => a.1 != 1
  let sc := mread s.stage d.schemaAddr (schemaBytes d s)
  let scIn := stageArea false d.schemaAddr 16 && stageArea false d.schemaAddr (schemaBytes d s)
  firstCode [
    (decide (d.op ≠ op ∨ 16 ≤ d.spaces ∨ 4 ≤ d.flags ∨ d.engines < 1 ∨ 16 < d.engines ∨ 32 < d.termCount ∨
        (op ≠ 1 ∧ (d.metric < 1 ∨ 3 < d.metric ∨ d.batch < 1 ∨ 64 < d.batch ∨ (d.metric = 3 ∧ 63 < d.batch) ∨ d.k < 1 ∨
          1024 < d.k)) ∨
        (op = 2 ∧ (vecFormatOk d.vecFormat = false ∨ d.dim < 32 ∨ 4096 < d.dim ∨ d.dim % 32 ≠ 0)) ∨
        (op = 3 ∧ (d.engines ≠ 1 ∨ d.listCount < 1 ∨ 64 < d.listCount))), 0x0C01),
    (hasRecords d && scIn && !schemaOk d sc, 0x0C02),
    ((hasRecords d && !scIn) || decide (d.storeAddr % 4 ≠ 0 ∨ d.queryAddr % 4 ≠ 0 ∨ d.outAddr % 64 ≠ 0) ||
      decide ((op = 1 ∧ (d.rowCount < 1 ∨ 2 ^ 48 < d.rowCount)) ∨
        (op = 2 ∧ (d.rowCount < 1 ∨ 2 ^ 32 ≤ d.rowCount ∨ d.stride % 4 ≠ 0 ∨ d.stride < vecBytes d ∨ 16384 < d.stride ∨
          2 ^ 32 ≤ d.indexBase + d.rowCount))) ||
      areas.any (fun a => decide (a.2.2.2 ≠ 0) && !areaOk (!expert && a.1 == 2) a.2.1 d.charter a.2.2.1 a.2.2.2 s) ||
      (outs.any fun a => rest.any fun b => clash a.2.1 a.2.2.1 a.2.2.2 b.2.1 b.2.2.1 b.2.2.2) ||
      (outPool d && outs.any fun a => !sealedOut d.charter a.2.2.1 (max 1 a.2.2.2) d.sealVa s), 0x0C03),
    (decide (op ≠ 3) && bit d.flags 1 && !custProgramOk d s, 0x0C04),
    (decide (32 ≤ activeJobs [cmdScan, cmdScore, cmdMerge] s), 0x0C05)]

/-- What firmware fills in a basic form (R201). -/
def custFill (d : CustDesc) (s : State) : JobDesc × State :=
  let d := { d with flags := d.flags % 2, programId := 0, indexBase := 0,
                    engines := if d.op = 3 then 1 else max 1 (min 16 (cdiv d.rowCount 65536)) }
  if d.op = 1 then
    let a := firmwareArea (8 * d.engines * scanShare d) s
    (.cust { d with workBase := a.1 }, a.2)
  else (.cust { d with workBase := 0 }, s)

/-- A Customs command (R201, R202). -/
def custSubmit (command op : Nat) (h : JobHdr) (d : CustDesc) (s : State) : Ans :=
  submit h command (.cust d) (custFill d)
    (fun x s => match x with
      | .cust d => custCheck h.hdr.expert op d s
      | _ => 0) s

/-- CUSTOMS.SCAN (R183, R186). -/
def execCustomsScan (h : JobHdr) (d : CustDesc) (s : State) : Ans := custSubmit cmdScan 1 h d s

/-- CUSTOMS.SCORE (R187 to R189). -/
def execCustomsScore (h : JobHdr) (d : CustDesc) (s : State) : Ans := custSubmit cmdScore 2 h d s

/-- CUSTOMS.MERGE (R195). -/
def execCustomsMerge (h : JobHdr) (d : CustDesc) (s : State) : Ans := custSubmit cmdMerge 3 h d s

/-! Work of an engine. -/

/-- Rows of logical engine e: first and number. Ranges of equal length, rounded up as the work area's shares are, so that every match
within out_capacity is staged; the last takes what is left (R186; DEDUCED, log 24). -/
def custRange (d : CustDesc) (e : Nat) : Nat × Nat :=
  let per := cdiv d.rowCount (max 1 d.engines)
  (e * per, min per (d.rowCount - e * per))

/-- The physical engine of a logical one: engines (s + i) mod 16 for job slot s (R197). -/
def custPhys (j : Job) (i : Nat) : Nat := (j.slot + i) % 16

/-- The book of a job's logical engine. -/
def custBook (j : Job) (i : Nat) : Nat := bookNo .customs (custPhys j i)

/-- A store of a job by number, 0 the record or vector store, 1 the attribute store: space, address, raw bytes. -/
def storeOf (d : CustDesc) (sc : Bytes) (which : Nat) : Bool × Nat × Nat :=
  if which = 1 then (attrPool d, d.attrAddr, d.rowCount * schRecord sc)
  else if d.op = 1 then (storePool d, d.storeAddr, d.rowCount * schRecord sc)
  else (storePool d, d.storeAddr, (d.rowCount - 1) * d.stride + vecBytes d)

/-- What row r takes of the stores: the store, the offset and the bytes; its record, and its vector (R183, R187, R188). -/
def recordAt (d : CustDesc) (sc : Bytes) (r : Nat) : Nat × Nat × Nat := (if d.op = 1 then 0 else 1, r * schRecord sc, schRecord sc)
def vectorAt (d : CustDesc) (r : Nat) : Nat × Nat × Nat := (0, r * d.stride, vecBytes d)
def rowParts (d : CustDesc) (sc : Bytes) (r : Nat) : List (Nat × Nat × Nat) :=
  (if hasRecords d then [recordAt d sc r] else []) ++ (if d.op = 2 then [vectorAt d r] else [])

/-- A decoded block's number in the table: engine, store and block. -/
def blockNo (e which b : Nat) : Nat := 2 ^ 48 * (2 * e + which) + b

/-- Blocks that n raw bytes at an offset lie in. -/
def blocksOver (off n : Nat) : List Nat := if n = 0 then [] else upto (off / 65536) ((off + n - 1) / 65536 + 1 - off / 65536)

/-- Part of a store as engine e has it: none while it has not landed, poison, or its bytes; of a compressed store, from the blocks decoded
for the engine (R197, R198, R200). -/
def storeGet (j : Job) (d : CustDesc) (p : CustSt) (e : Nat) (x : Nat × Nat × Nat) (s : State) : Option (Option Bytes) :=
  let st := storeOf d j.attach x.1
  if !storeCoded st.1 d.charter st.2.1 s then areaRead j st.1 (st.2.1 + x.2.1) x.2.2 s
  else
    let bs := (blocksOver x.2.1 x.2.2).map fun b => tget p.decoded (blockNo e x.1 b)
    if bs.any fun b => b.isNone then none
    else if bs.any fun b => b == some none then some none
    else some (some (slice (bs.flatMap fun b => (b.join).getD []) (x.2.1 % 65536) x.2.2))

/-- Pieces of a store's part that are read from pool, as far as they are known: of a compressed store, each block's header, and its
payload once the header has landed. -/
def storePieces (j : Job) (d : CustDesc) (p : CustSt) (e : Nat) (x : Nat × Nat × Nat) (s : State) : List (Nat × Nat) :=
  let st := storeOf d j.attach x.1
  if !st.1 then []
  else if !storeCoded true d.charter st.2.1 s then pieces256 (st.2.1 + x.2.1) x.2.2
  else ((blocksOver x.2.1 x.2.2).filter fun b => (tget p.decoded (blockNo e x.1 b)).isNone).flatMap fun b =>
    let h := pieces256 (st.2.1 + 64 * b) 64
    match areaRead j true (st.2.1 + 64 * b) 64 s with
    | some (some w) => h ++ pieces256 (st.2.1 + 64 * blockCount st.2.2 + (headerOf w).offset) (fetchBytes w)
    | _ => h

/-- Bytes of a row in an engine's ingest buffer. -/
def rowIngest (d : CustDesc) (sc : Bytes) : Nat := (if hasRecords d then schRecord sc else 0) + (if d.op = 2 then d.stride else 0)

/-- Rows of engine e that its 4 MiB ingest buffer may hold, from its next on (R182, R197). -/
def rowsAhead (j : Job) (d : CustDesc) (p : CustSt) (e : Nat) : Nat :=
  min ((custRange d e).2 - tgetD p.cursor e 0) (max 1 (2 ^ 22 / max 1 (rowIngest d j.attach)))

/-- Query q as loaded: poison, or its values (R189, R198, R200). -/
def queryOf (d : CustDesc) (p : CustSt) (q : Nat) : Option (Option (List Num)) :=
  (tget p.queries q).map fun x => x.map (vecValues d)

/-- What a row came to: poisoned; its record and vector, whether it passed the terms, and whether the program accepted it. -/
structure RowSeen where
  poison : Bool
  record : Bytes
  vector : Bytes
  terms : Bool
  accepted : Bool
  deriving DecidableEq, Repr

/-- The program of a Customs job: constants, the variant's FILTER and SCORE entries with cycles, bytes to load. -/
def custProgram (d : CustDesc) (s : State) :
    Option (Bytes × Option (List Nat × Nat) × Option (List Nat × Nat) × Nat) :=
  if !bit d.flags 1 then none
  else (usable d.programId 2 d.charter (custFormat d) s).map fun x =>
    (imgConstBytes x.1, variantEntry x.1 x.2 false, if d.op = 2 then variantEntry x.1 x.2 true else none, loadBytes x.1)

/-- Row r of engine e read and judged (R185, R188, R200). -/
def seeRow (j : Job) (d : CustDesc) (p : CustSt) (e r : Nat) (s : State) : RowSeen :=
  let sc := j.attach
  let rec' := if hasRecords d then (storeGet j d p e (recordAt d sc r) s).join else some []
  let vec := if d.op = 2 then (storeGet j d p e (vectorAt d r) s).join else some []
  match rec', vec with
  | some a, some b =>
    let t := passesTerms d sc a
    let index := if d.op = 1 then r else d.indexBase + r
    let ok := match custProgram d s with
      | some (k, some f, _, _) => t && filterRow k f.1 index sc a
      | _ => t
    { poison := false, record := a, vector := b, terms := t, accepted := ok }
  | _, _ => { poison := true, record := [], vector := [], terms := false, accepted := false }

/-- What some rows take of the array, ingest and predicate streams, in 64ths of a cycle, bytes and 64ths of a cycle (R196, R207): a SCORE
program runs once for each candidate, a vector and a query. -/
def rowStreams (d : CustDesc) (sc : Bytes) (rows : List RowSeen) (s : State) : Nat × Nat × Nat :=
  let n := rows.length
  let pass := rows.countP fun x => x.accepted
  let terms := rows.countP fun x => x.terms
  let prog := custProgram d s
  let fc := match prog with | some (_, some f, _, _) => f.2 | _ => 0
  let scc := match prog with | some (_, _, some f, _) => f.2 | _ => 0
  (if d.op = 2 then 64 * pass * max 1 (cdiv d.dim (arrayL d.vecFormat)) + pass * d.batch * scc else 0,
    n * rowIngest d sc, n * d.termCount + terms * fc)

/-- A candidate scored and offered to the sorter of its query on engine e (R189 to R192). -/
def scoreRowFor (j : Job) (d : CustDesc) (e r q : Nat) (x : RowSeen) (s : State) (p : CustSt) : CustSt :=
  match queryOf d p q with
  | some (some qv) =>
    let raw := scoreOf d qv (vecValues d x.vector)
    let got := match custProgram d s with
      | some (k, _, some f, _) => scoreRow k f.1 raw (d.indexBase + r) j.attach x.record
      | _ => some raw
    match got with
    | none => p
    | some w =>
      if isNan (dec32 w) then { p with nan := p.nan + 1 }
      else { p with sorters := tput p.sorters (64 * e + q) (offer d (w, d.indexBase + r) (tgetD p.sorters (64 * e + q) [])) }
  | _ => p

/-- One row's effect on a job's progress (R186, R188, R191, R200). -/
def takeRow (j : Job) (d : CustDesc) (e r : Nat) (x : RowSeen) (s : State) (p : CustSt) : CustSt :=
  let p := { p with cursor := tput p.cursor e (tgetD p.cursor e 0 + 1), examined := p.examined + 1 }
  if x.poison then { p with poisoned := p.poisoned + 1, incomplete := true }
  else if !x.accepted then p
  else
    let p := { p with passed := p.passed + 1 }
    if d.op = 1 then
      let l := tgetD p.matches_ e []
      if l.length < scanShare d then { p with matches_ := tput p.matches_ e (l ++ [r]) } else p
    else (List.range d.batch).foldl (fun p q => scoreRowFor j d e r q x s p) p

/-- Rows examined by an engine: their matches staged in the work area (R186), their landings used. -/
def scanRows (key e first count : Nat) (s : State) : State :=
  match jobOf key s with
  | none => s
  | some j => match custOf? j with
    | none => s
    | some (d, p) =>
      let rows := upto first count
      let p' := rows.foldl (fun p r => takeRow j d e r (seeRow j d p e r s) s p) p
      let before := (tgetD p.matches_ e []).length
      let fresh := (tgetD p'.matches_ e []).drop before
      let parts := rows.flatMap fun r => rowParts d j.attach r
      let j' := parts.foldl (fun j x => if storeCoded (storeOf d j.attach x.1).1 d.charter (storeOf d j.attach x.1).2.1 s then j
        else dropLanded (storePieces j d p e x s) j s) j
      let next := (rowParts d j.attach (first + count)).map fun x => (x.1, x.2.1 / 65536)
      let old (k : Nat) : Bool := next.any fun x => decide (blockNo e x.1 0 ≤ k ∧ k < blockNo e x.1 x.2)
      let p' := { p' with decoded := p'.decoded.filter fun x => !old x.1 }
      let s := setJob { j' with st := .cust p' } s
      if fresh = [] then s
      else outWrite key (some (custBook j e)) false (d.workBase + 8 * (e * scanShare d + before)) (8 * fresh.length)
        (some (fresh.flatMap fun r => le 8 r)) s

/-- Every engine has examined its rows. -/
def rowsExamined (d : CustDesc) (p : CustSt) : Bool :=
  (List.range d.engines).all fun e => tgetD p.cursor e 0 == (custRange d e).2

/-- Are all queries loaded (R198)? -/
def queriesReady (d : CustDesc) (p : CustSt) : Bool :=
  d.op != 2 || (List.range d.batch).all fun q => (tget p.queries q).isSome

/-- A result area's bytes (R194): counts with their incomplete marks, then entries best first. -/
def resultArea (d : CustDesc) (lists : List (Bool × List (BitVec 32 × Nat))) : Bytes :=
  let counts := lists.flatMap fun x => le 4 (x.2.length + (if x.1 then 2 ^ 31 else 0))
  let entry (c : Option (BitVec 32 × Nat)) : Bytes := match c with
    | some c => le 4 c.1.toNat ++ le 4 c.2
    | none => le 4 0x7FC00000 ++ le 4 0xFFFFFFFF
  fit 256 counts ++ lists.flatMap fun x => (List.range d.k).flatMap fun i => entry x.2[i]?

/-- The engines' lists of a query merged, and its incomplete mark (R192, R200). -/
def mergedQuery (d : CustDesc) (p : CustSt) (q : Nat) : Bool × List (BitVec 32 × Nat) :=
  match queryOf d p q with
  | some (some _) =>
    (p.incomplete, ((List.range d.engines).flatMap fun e => tgetD p.sorters (64 * e + q) []).foldl (fun l c => offer d c l) [])
  | _ => (true, [])

/-- SCORE's merge pass: the result area written (R192, R194). -/
def mergeScores (key : Nat) (s : State) : State :=
  match jobOf key s with
  | none => s
  | some j => match custOf? j with
    | none => s
    | some (d, p) =>
      let lists := (List.range d.batch).map fun q => mergedQuery d p q
      let bad := (List.range d.batch).filter fun q => queryOf d p q == some none
      let p := { p with merged := true, badQueries := bad }
      outWrite key (some (custBook j 0)) (outPool d) d.outAddr (resultBytes d) (some (resultArea d lists)) (setCust key p s)

/-- A scan's compaction pass: the selection list written in index order (R186). -/
def compact (key : Nat) (s : State) : State :=
  match jobOf key s with
  | none => s
  | some j => match custOf? j with
    | none => s
    | some (d, p) =>
      let all := ((List.range d.engines).flatMap fun e => tgetD p.matches_ e []).take d.outCapacity
      let p := { p with merged := true, truncated := decide (d.outCapacity < p.passed) }
      outWrite key (some (custBook j 0)) (outPool d) d.outAddr (8 * all.length) (some (all.flatMap fun r => le 8 r)) (setCust key p s)

/-- Input k of a MERGE job (R195, R198). -/
def mergeInput (j : Job) (d : CustDesc) (k : Nat) (s : State) : Option (Option Bytes) :=
  areaRead j (storePool d) (fld j.attach (8 * k) 8) (resultBytes d) s

/-- Candidates of query q in a result area, with its incomplete mark; none where the area is malformed (R195). -/
def areaQuery (d : CustDesc) (b : Bytes) (q : Nat) : Option (Bool × List (BitVec 32 × Nat)) :=
  let w := fld b (4 * q) 4
  let n := bits w 10 0
  let es := (List.range n).map fun i => (BitVec.ofNat 32 (fld b (256 + 8 * (q * d.k + i)) 4), fld b (260 + 8 * (q * d.k + i)) 4)
  if d.k < n ∨ (es.any fun e => e.2 == 0xFFFFFFFF) = true then none else some (bit w 31, es)

/-- MERGE: for each query the candidates of every input in one list of the best k; a malformed input stops the job (R195). A NaN score
enters no list and is counted (R191). A poisoned input counts as poisoned and leaves every query incomplete (R200). -/
def mergeAreas (key : Nat) (s : State) : State :=
  match jobOf key s with
  | none => s
  | some j => match custOf? j with
    | none => s
    | some (d, p) =>
      let ins := (List.range d.listCount).filterMap fun k => mergeInput j d k s
      let good := ins.filterMap id
      let bad := ins.length - good.length
      let per := (List.range d.batch).map fun q => good.map fun b => areaQuery d b q
      if per.any fun l => l.any fun x => x.isNone then stopJob key 0x0C07 (recordReason 0x0C07 s)
      else
        let lists := per.map fun l =>
          let xs := l.filterMap id
          (decide (bad ≠ 0) || xs.any (fun x => x.1), ((xs.flatMap fun x => x.2).filter fun c => !isNan (dec32 c.1)).foldl (fun acc c => offer d c acc) [])
        let nans := (per.map fun l => ((l.filterMap id).map fun x => x.2.countP fun c => isNan (dec32 c.1)).sum).sum
        let seen := ((per.map fun l => ((l.filterMap id).map fun x => x.2.length).sum)).sum
        let p := { p with merged := true, examined := seen, poisoned := bad, nan := p.nan + nans, incomplete := lists.any fun x => x.1 }
        outWrite key (some (custBook j 0)) (outPool d) d.outAddr (resultBytes d) (some (resultArea d lists)) (setCust key p s)

/-- Entries of a scan's compaction pass (R196). -/
def compactSize (d : CustDesc) (p : CustSt) : Nat := max 1 ((List.range d.engines).map fun e => (tgetD p.matches_ e []).length).sum

/-- Cycles of a merge pass (R192, R195). -/
def mergeSize (d : CustDesc) : Nat := (if d.op = 2 then d.engines else d.listCount) * d.k

/-- A pool output's home is fenced. -/
def custFenced (j : Job) (d : CustDesc) : Bool := !outPool d || j.awaitFence == []

/-- Rows of engine e from its next on that have landed in its ingest buffer, in store order (R197). -/
def landedAhead (j : Job) (d : CustDesc) (p : CustSt) (e : Nat) (s : State) : Nat :=
  let first := (custRange d e).1 + tgetD p.cursor e 0
  ((upto first (rowsAhead j d p e)).takeWhile fun r => (rowParts d j.attach r).all fun x => (storeGet j d p e x s).isSome).length

/-- Work of a Customs job that is ready, with the physical engine it falls to (R186, R192, R195, R197): rows, then the job's first engine's
compaction or merge pass. -/
def custReady (j : Job) (s : State) : List (Nat × Work) :=
  match custOf? j with
  | none => []
  | some (d, p) =>
    if j.phase ≠ .running then []
    else
      let rows := if d.op = 3 ∨ queriesReady d p = false then [] else (List.range d.engines).filterMap fun e =>
        let k := landedAhead j d p e s
        if k = 0 then none else some (custPhys j e, Work.rows ((custRange d e).1 + tgetD p.cursor e 0) k)
      let done := rowsExamined d p && !p.merged && custFenced j d
      let last := if d.op = 1 then (if done then [Work.compaction p.passDone (compactSize d p - p.passDone)] else [])
        else if d.op = 2 then (if done && queriesReady d p then [Work.merge p.passDone (mergeSize d - p.passDone)] else [])
        else if !p.merged && custFenced j d && (List.range d.listCount).all fun k => (mergeInput j d k s).isSome then
          [Work.merge p.passDone (mergeSize d - p.passDone)] else []
      rows ++ last.map fun w => (custPhys j 0, w)

/-- The logical engine of a physical one (R197). -/
def custEngine (j : Job) (d : CustDesc) (engine : Nat) : Option Nat :=
  let i := (engine + 16 - j.slot % 16) % 16
  if engine < 16 ∧ i < d.engines then some i else none

/-- What a run of a Customs job takes of the three streams; a pass takes of all alike (R196). -/
def custStreams (j : Job) (engine : Nat) (w : Work) (s : State) : Nat × Nat × Nat :=
  match custOf? j, w with
  | some (d, p), .rows first n =>
    (match custEngine j d engine with
    | some e => rowStreams d j.attach ((upto first n).map fun r => seeRow j d p e r s) s
    | none => (0, 0, 0))
  | some _, .compaction _ n => (n, 8 * n, n)
  | some _, .merge _ n => (64 * n, 512 * n, 64 * n)
  | _, _ => (0, 0, 0)

/-- The program that a run of a Customs job needs, and its bytes to load (R221). -/
def custLoad (j : Job) (w : Work) (s : State) : Option Nat × Nat :=
  match custOf? j, w with
  | some (d, _), .rows _ _ => (match custProgram d s with | some x => (some d.programId, x.2.2.2) | none => (none, 0))
  | _, _ => (none, 0)

/-- A run of a Customs job retires on a physical engine (R34, R186, R192, R195 to R197): rows, or part of the last pass, whose output is
written when the pass ends. -/
def custUnit (engine key : Nat) (w : Work) (s : State) : State :=
  match jobOf key s with
  | none => s
  | some j => match custOf? j with
    | none => s
    | some (d, p) =>
      match custEngine j d engine with
      | none => s
      | some e =>
        match w with
        | .rows first count => scanRows key e first count s
        | .compaction _ count =>
          let s := setCust key { p with passDone := p.passDone + count } s
          if p.passDone + count < compactSize d p then s else compact key s
        | .merge _ count =>
          let s := setCust key { p with passDone := p.passDone + count } s
          if p.passDone + count < mergeSize d then s else if d.op = 2 then mergeScores key s else mergeAreas key s
        | _ => s

/-! Attempts and ends. -/

/-- A Customs job's progress at the start of an attempt: it runs again from its first row (R198). -/
def custFresh : CustSt :=
  { queries := [], decoded := [], cursor := [], badQueries := [], examined := 0, passed := 0, poisoned := 0, nan := 0, incomplete := false, sorters := [],
    matches_ := [], passDone := 0, merged := false, truncated := false }

/-- Queries that have landed are loaded into the query partition, for the whole attempt (R182, R198). -/
def loadQueries (key : Nat) (s : State) : State :=
  match jobOf key s with
  | none => s
  | some j => match custOf? j with
    | none => s
    | some (d, _) =>
      if d.op ≠ 2 ∨ j.phase ≠ .running then s
      else (List.range d.batch).foldl (fun s q =>
        match jobOf key s with
        | none => s
        | some j => match custOf? j with
          | none => s
          | some (d, p) =>
            let a := d.queryAddr + q * queryStride d
            if (tget p.queries q).isSome then s
            else match areaRead j (queryPool d) a (vecBytes d) s with
              | none => s
              | some v =>
                let j := if queryPool d then dropLanded (pieces256 a (vecBytes d)) j s else j
                setJob { j with st := .cust { p with queries := tput p.queries q v } } s) s

/-- One block of a compressed store decoded for engine e by its codec engine, once its header and payload have landed and the codec
engine has cycles left this tide; a block that fails its checks arrives as poison, its code reported (R197, R200, R238, R240). -/
def decodeFor (key e codec which b : Nat) (s : State) : State :=
  match jobOf key s with
  | none => s
  | some j => match custOf? j with
    | none => s
    | some (d, p) =>
      let st := storeOf d j.attach which
      let n := blockRaw st.2.2 b
      let f := findExtent d.charter st.2.1 s
      let obj := (entryOf f.2.1 s).objectId
      if (tget p.decoded (blockNo e which b)).isSome ∨ mayUse .codec codec (emitCost n) s = false then s
      else
        let got : Option (Nat × Option Bytes) := match areaRead j true (st.2.1 + 64 * b) 64 s with
          | none => none
          | some none => some (0x0607, none)
          | some (some h) =>
            if ktcCode h obj b n ≠ 0 then some (ktcCode h obj b n, none)
            else (areaRead j true (st.2.1 + 64 * blockCount st.2.2 + (headerOf h).offset) (fetchBytes h) s).map fun x =>
              match x with
              | none => (0x0607, none)
              | some w => let r := decodeBlock h w obj b n; (r.1, if r.1 = 0 then some r.2 else none)
        match got with
        | none => s
        | some r =>
          let used := storePieces j d p e (which, 65536 * b, n) s
          let s := setJob { dropLanded used j s with st := .cust { p with decoded := tput p.decoded (blockNo e which b) r.2 } } s
          let s := useCycles .codec codec (emitCost n) s
          if r.1 = 0 ∨ r.1 = 0x0607 then s
          else raiseLimited r.1 key 0 [(evJobDevice, j.device), (evSlot, j.slot), (evCharter, d.charter)] 1 s

/-- Blocks that engine e's next rows need, store and block, in their order. -/
def blocksAhead (j : Job) (d : CustDesc) (p : CustSt) (e : Nat) (s : State) : List (Nat × Nat) :=
  let first := (custRange d e).1 + tgetD p.cursor e 0
  ((upto first (rowsAhead j d p e)).flatMap fun r => (rowParts d j.attach r).flatMap fun x =>
    let st := storeOf d j.attach x.1
    if storeCoded st.1 d.charter st.2.1 s then (blocksOver x.2.1 x.2.2).map fun b => (x.1, b) else []).dedup

/-- Blocks of compressed stores decoded as far as they have landed: the i-th codec engine bound to the job decodes for its i-th engine
(R197, R241). -/
def decodeStores (key : Nat) (s : State) : State :=
  ((boundCodecs key s).zipIdx).foldl (fun s c =>
    match jobOf key s with
    | none => s
    | some j => match custOf? j with
      | none => s
      | some (d, p) =>
        if j.phase ≠ .running ∨ d.engines ≤ c.2 then s
        else (blocksAhead j d p c.2 s).foldl (fun s x => decodeFor key c.2 c.1 x.1 x.2 s) s) s

/-- Reads asked ahead: queries, MERGE inputs, and for each engine the rows after its cursor, in store order, while it has fewer than 4,096
reads outstanding and room in its ingest buffer (R182, R197, R198). What has landed is loaded or decoded first. -/
def custPlan (key : Nat) (s : State) : State :=
  let s := decodeStores key (loadQueries key s)
  match jobOf key s with
  | none => s
  | some j => match custOf? j with
    | none => s
    | some (d, p) =>
      let qs := if d.op = 2 ∧ queryPool d = true then ((List.range d.batch).filter fun q => (tget p.queries q).isNone).flatMap fun q =>
          pieces256 (d.queryAddr + q * queryStride d) (vecBytes d) else []
      let ms := if d.op = 3 ∧ storePool d = true then (List.range d.listCount).flatMap fun k =>
          pieces256 (fld j.attach (8 * k) 8) (resultBytes d) else []
      let s := askPieces key (custBook j 0) 4096 (2 ^ 60) (qs ++ ms) s
      if d.op = 3 then s
      else (List.range d.engines).foldl (fun s e =>
        let first := (custRange d e).1 + tgetD p.cursor e 0
        askPieces key (custBook j e) 4096 (2 ^ 22) ((upto first (rowsAhead j d p e)).flatMap fun r =>
          (rowParts d j.attach r).flatMap fun x => storePieces j d p e x s) s) s

/-- The job's output has been written. -/
def custWritten (p : CustSt) : Bool := p.merged

/-- Pool inputs acquired at the start of an attempt (R198). -/
def custInputs (d : CustDesc) (s : State) : List (Nat × Nat) :=
  ((custAreas d s).filter fun a => a.1 == 0 && a.2.1).map fun a => (a.2.2.1, a.2.2.2)

/-- The home of a pool output, and its seal (R199). -/
def custHomes (d : CustDesc) (s : State) : List Nat :=
  if !outPool d then [] else areaHomes d.charter d.sealVa 8 s

/-- Reason of a Customs job that ran to its end (R200). -/
def custReason (p : CustSt) : Nat := if p.poisoned = 0 ∧ p.badQueries = [] then 0 else 0x0C06

/-- A Customs job's result header (R203). -/
def custResult (j : Job) (d : CustDesc) (p : CustSt) (reason : Nat) (s : State) : Bytes :=
  packBytes [(2, reason), (1, d.engines), (1, j.attempts), (2, attemptTides j s),
    (2, b2n p.truncated + 2 * b2n (p.incomplete && d.op == 1)), (8, p.examined), (8, p.passed),
    (4, min 0xFFFFFFFF p.poisoned), (4, min 0xFFFFFFFF p.nan)]

end Sys2Proof.Machine
end

