-- ==== Sys2Proof/Machine/Stevedore.lean ====
section
/-! DEFINITION. Gather and scatter (08_stevedores.md): the descriptor's checks, index lists, rows moved, accumulators, bags
handed to the Cranes, seals by home. -/

namespace Sys2Proof.Machine
open Sys2Proof

/-- A Stevedore job's descriptor and progress. -/
def stevOf? (j : Job) : Option (StevDesc × StevSt) :=
  match j.desc, j.st with
  | .stev d, .stev p => some (d, p)
  | _, _ => none

/-- A Stevedore job's progress put in place. -/
def setStev (key : Nat) (p : StevSt) (s : State) : State :=
  match jobOf key s with
  | none => s
  | some j => setJob { j with st := .stev p } s

/-- Spaces (R178). -/
def idxPool (d : StevDesc) : Bool := bit d.spaces 0
def srcPool (d : StevDesc) : Bool := bit d.spaces 1
def dstPool (d : StevDesc) : Bool := bit d.spaces 2
def basePool (d : StevDesc) : Bool := bit d.spaces 3

/-- Bytes of an index entry (R165). -/
def idxSize (d : StevDesc) : Nat := if d.idxFormat = 1 then 4 else if d.idxFormat = 3 then d.recordBytes else 8

/-- Bytes of the index list. -/
def idxBytes (d : StevDesc) : Nat := d.indexCount * idxSize d

/-- Bytes of a row read, and of an output row of GATHER_REDUCE (R172). -/
def rowBytes (d : StevDesc) : Nat := if d.op = 4 then packedBytes d.elemFormat d.rowSize else d.rowSize
def outRowBytes (d : StevDesc) : Nat := if d.op = 4 then packedBytes d.outFormat d.rowSize else d.rowSize

/-- The accumulator of SCATTER_ADD: the destination in Stage, else acc_base (R170). -/
def accAddr (d : StevDesc) : Nat := if dstPool d then d.accBase else d.dstAddr

/-- A 4-byte entry of the bag list, and the bounds of bag j (R171). -/
def bagAt (d : StevDesc) (j : Nat) (s : State) : Nat := mfld s.stage (d.bagAddr + 4 * j) 4
def bagStart (d : StevDesc) (j : Nat) (s : State) : Nat := bagAt d j s
def bagEnd (d : StevDesc) (j : Nat) (s : State) : Nat := bagAt d (j + 1) s

/-! Index lists (R165, R166). -/

/-- Entry k of the index list as it has landed: none while it has not, poison, or its 8 bytes. -/
def idxEntry (j : Job) (d : StevDesc) (k : Nat) (s : State) : Option (Option Nat) :=
  let off := if d.idxFormat = 3 then d.indexOffset else 0
  let n := if d.idxFormat = 2 ∨ d.idxFormat = 4 then 8 else 4
  (areaSlice j (idxPool d) d.idxAddr (idxBytes d) (d.idxAddr + k * idxSize d + off) n s).map fun x => x.map unle

/-- Rows that the entries of a RUNS list name in order: their number and whether all have landed. -/
def runsTotal (j : Job) (d : StevDesc) (s : State) : Option Nat :=
  (List.range d.indexCount).foldl (fun acc k =>
    match acc, idxEntry j d k s with
    | some n, some (some w) => some (n + bits w 63 48 + 1)
    | some n, some none => some (n + 1)
    | _, _ => none) (some 0)

/-- Indices after expansion; none while a RUNS list has not landed (R165). -/
def expanded (j : Job) (d : StevDesc) (s : State) : Option Nat :=
  if d.idxFormat = 4 then runsTotal j d s else some d.indexCount

/-- Position i of a RUNS list from entry k on. -/
def runsAt (fuel : Nat) (j : Job) (d : StevDesc) (k i : Nat) (s : State) : Option (Option (Option Nat)) :=
  match fuel with
  | 0 => none
  | f + 1 =>
    match idxEntry j d k s with
    | none => none
    | some none => if i = 0 then some none else runsAt f j d (k + 1) (i - 1) s
    | some (some w) =>
      let n := bits w 63 48 + 1
      let first := bits w 47 0
      if i < n then some (some (if first + n ≤ d.rowCount then some (first + i) else none))
      else runsAt f j d (k + 1) (i - n) s

/-- The row that list position i names: none while it has not landed; poison; none in range; or the row (R166). -/
def indexAt (j : Job) (d : StevDesc) (i : Nat) (s : State) : Option (Option (Option Nat)) :=
  if d.idxFormat = 4 then runsAt (d.indexCount + 1) j d 0 i s
  else
    (idxEntry j d i s).map fun x => x.map fun w => if w < d.rowCount then some w else none

/-! The descriptor's checks (R179). -/

/-- Indices after expansion as far as the Harbourmaster can read the list: a RUNS list in pool counts its runs, each of which names a row
at least; its whole size is checked when it has landed (`sizeUp`). -/
def declaredRows (d : StevDesc) (s : State) : Nat :=
  if d.idxFormat = 4 ∧ idxPool d = false then
    ((List.range d.indexCount).map fun k => mfld s.stage (d.idxAddr + 8 * k + 6) 2 + 1).sum
  else d.indexCount

/-- The areas of a job: space, address, bytes, and which they are (0 index, 1 source, 2 destination, 3 base, 4 bag list, 5 seal
table, 6 accumulator). -/
def stevAreas (d : StevDesc) (rows : Nat) : List (Nat × Bool × Nat × Nat) :=
  let table := d.rowCount * rowBytes d
  let dense := rows * rowBytes d
  let isTable := d.op == 1 || d.op == 4
  [(0, idxPool d, d.idxAddr, idxBytes d), (1, srcPool d, d.srcAddr, if isTable then table else dense),
   (2, dstPool d, d.dstAddr, if d.op = 4 then d.bagCount * outRowBytes d else if d.op = 1 then dense else table)] ++
  (if bit d.flags 1 then [(3, basePool d, d.baseAddr, table)] else []) ++
  (if d.op = 4 then [(4, false, d.bagAddr, 4 * (d.bagCount + 1))] else []) ++
  (if dstPool d then [(5, false, d.sealTable, 512)] else []) ++
  (if d.op = 3 ∧ dstPool d = true then [(6, false, d.accBase, table)] else [])

/-- A nonzero entry d of a seal table: 8-byte aligned, class O, writable and homed at device d (R179). -/
def sealEntryOk (charter dev va : Nat) (s : State) : Bool :=
  va == 0 || (decide (va % 8 = 0 ∧ va < 2 ^ 56) && poolOut charter va 8 s && areaHomes charter va 8 s == [dev])

/-- The areas of a job are within bounds: each in Stage space or translatable, the accumulator of a basic form in firmware's partition, a
pool destination class O and writable, and the destination apart from every other area (R173, R179, R251). -/
def stevAreasOk (expert : Bool) (d : StevDesc) (rows : Nat) (s : State) : Bool :=
  let areas := stevAreas d rows
  let dst := areas.filter fun a => a.1 == 2
  let others := areas.filter fun a => a.1 != 2 && a.1 != 6
  decide (rows ≤ 2 ^ 32) && areas.all (fun a => areaOk (!expert && a.1 == 6) a.2.1 d.charter a.2.2.1 a.2.2.2 s) &&
  (!dstPool d || dst.all fun a => poolOut d.charter a.2.2.1 a.2.2.2 s) &&
  dst.all fun a => others.all fun b => !clash a.2.1 a.2.2.1 a.2.2.2 b.2.1 b.2.2.1 b.2.2.2

/-- The checks of STEVEDORE.MOVE in their order (R172, R178, R179). -/
def stevCheck (expert : Bool) (d : StevDesc) (s : State) : Nat :=
  let fmt (f : Nat) : Bool := formatListed f && f != 0x10
  let mxSize (f : Nat) : Bool := !mxFormat f || d.rowSize % 1024 == 0
  firstCode [
    (decide (d.op < 1 ∨ 4 < d.op ∨ d.idxFormat < 1 ∨ 4 < d.idxFormat ∨ 16 ≤ d.spaces ∨ 4 ≤ d.flags ∨ 1 < d.rounding ∨
        (bit d.flags 1 = true ∧ d.op ≠ 3) ∨ (d.op ≠ 4 ∧ d.rounding ≠ 0) ∨ d.engines < 1 ∨ 32 < d.engines) ||
      (d.op == 3 && !([0, 7, 16].contains d.elemFormat)) ||
      (d.op == 4 && (!fmt d.elemFormat || !fmt d.outFormat || intFormat d.elemFormat != intFormat d.outFormat)), 0x0B01),
    (decide (d.rowSize = 0 ∨ 65536 < d.rowSize ∨ (d.op ≠ 4 ∧ d.rowSize % 4 ≠ 0) ∨ (d.op = 4 ∧ d.rowSize % 128 ≠ 0) ∨
        (d.op = 3 ∧ d.elemFormat = 16 ∧ d.rowSize % 8 ≠ 0) ∨
        d.indexCount < 1 ∨ 2 ^ 32 < d.indexCount ∨ d.rowCount < 1 ∨ 2 ^ 40 < d.rowCount ∨
        d.idxAddr % 4 ≠ 0 ∨ d.srcAddr % 4 ≠ 0 ∨ d.dstAddr % 4 ≠ 0 ∨
        (d.idxFormat = 3 ∧ (d.recordBytes < 8 ∨ 252 < d.recordBytes ∨ d.recordBytes % 4 ≠ 0 ∨ d.indexOffset % 4 ≠ 0 ∨
          d.recordBytes < d.indexOffset + 4)) ∨
        (d.op = 4 ∧ (d.bagCount < 1 ∨ 2 ^ 24 < d.bagCount))) ||
      (d.op == 4 && (!mxSize d.elemFormat || !mxSize d.outFormat)) || !stevAreasOk expert d (declaredRows d s) s ||
      (dstPool d && (decide (d.sealTable = 0) ||
        (List.range 64).any fun k => !sealEntryOk d.charter k (mfld s.stage (d.sealTable + 8 * k) 8) s)), 0x0B02),
    (d.op == 4 && decide (64 ≤ activeCranes s), 0x0A09),
    (decide (128 ≤ activeJobs [cmdStev] s), 0x0B05)]

/-- What firmware fills in a basic form (R178). -/
def stevFill (d : StevDesc) (s : State) : JobDesc × State :=
  let d := { d with flags := 0, baseAddr := 0, rounding := 0, seed := 0,
                    engines := if d.op = 2 ∨ d.op = 3 then 1 else max 1 (min 32 (cdiv (declaredRows d s) 65536)) }
  if d.op = 3 ∧ dstPool d = true then
    let a := firmwareArea (d.rowCount * d.rowSize) s
    (.stev { d with accBase := a.1 }, a.2)
  else (.stev { d with accBase := 0 }, s)

/-- STEVEDORE.MOVE (R163, R172, R178, R179). -/
def execStevedoreMove (h : JobHdr) (d : StevDesc) (s : State) : Ans :=
  submit h cmdStev (.stev d) (stevFill d)
    (fun x s => match x with
      | .stev d => stevCheck h.hdr.expert d s
      | _ => 0) s

/-! Work of an engine. -/

/-- List positions of engine e in its order: its contiguous range, or its bags (R168). -/
def enginePositions (d : StevDesc) (n e : Nat) (s : State) : Nat × Nat :=
  let per := n / max 1 d.engines
  let _ := s
  (e * per, if e + 1 = d.engines then n - e * per else per)

/-- The k-th list position of engine e, and how many it has (R168). -/
def positionAt (d : StevDesc) (n e k : Nat) (s : State) : Option Nat :=
  if d.op = 4 then
    let bags := (List.range d.bagCount).filter fun b => b % max 1 d.engines == e
    let go := bags.foldl (fun (acc : Nat × Option Nat) b =>
      match acc.2 with
      | some _ => acc
      | none =>
        let len := bagEnd d b s - bagStart d b s
        if acc.1 < len then (0, some (bagStart d b s + acc.1)) else (acc.1 - len, none)) (k, none)
    go.2
  else
    let r := enginePositions d n e s
    if k < r.2 then some (r.1 + k) else none

/-- Positions that engine e has in all. -/
def positionCount (d : StevDesc) (n e : Nat) (s : State) : Nat :=
  if d.op = 4 then
    (((List.range d.bagCount).filter fun b => b % max 1 d.engines == e).map fun b => bagEnd d b s - bagStart d b s).sum
  else (enginePositions d n e s).2

/-- The bag of a list position. -/
def bagOf (d : StevDesc) (i : Nat) (s : State) : Option Nat :=
  (List.range d.bagCount).find? fun b => decide (bagStart d b s ≤ i ∧ i < bagEnd d b s)

/-- The bag list is well formed: it begins with 0, ascends, and ends within the expanded count (R171). -/
def bagsOk (d : StevDesc) (n : Nat) (s : State) : Bool :=
  d.op != 4 || (decide (bagAt d 0 s = 0 ∧ bagAt d d.bagCount s ≤ n) &&
    (List.range d.bagCount).all fun b => decide (bagStart d b s ≤ bagEnd d b s))

/-- Where the source row of list position i lies, for the row it names. -/
def sourceAt (d : StevDesc) (i row : Nat) : Nat := d.srcAddr + (if d.op = 1 ∨ d.op = 4 then row else i) * rowBytes d

/-- Cycles of a row (R176). -/
def rowCost (d : StevDesc) : Nat :=
  if d.op = 3 then max 2 (cdiv (rowBytes d) 64) else max 2 (cdiv (rowBytes d) 128)

/-- A row recorded as poisoned (R175). -/
def notePoisoned (row : Nat) (v : Option Bytes) (p : StevSt) : StevSt :=
  if v.isNone then { p with poisoned := insertSorted row p.poisoned } else p

/-- Output row `row` written at an address by an engine, where its homes have seal entries; else the job stops (R174, R175). A row that
shares a poisoned granule of Stage stays poisoned there. -/
def writeRow (key : Nat) (engine : Option Nat) (row a n : Nat) (v : Option Bytes) (s : State) : State :=
  match jobOf key s with
  | none => s
  | some j => match stevOf? j with
    | none => s
    | some (d, p) =>
      if dstPool d && (areaHomes d.charter a n s).any fun h => fld j.attach (8 * h) 8 == 0 then stopJob key 0x0B04 (recordReason 0x0B04 s)
      else
        let kept := v.isNone || (!dstPool d && keptPoison a n s != [])
        outWrite key engine (dstPool d) a n v (setStev key (notePoisoned row (if kept then none else v) p) s)

/-- The output row that a pool address belongs to: its entry is found in the destination's window (R41, R42). -/
def rowOfAddr (d : StevDesc) (address : Nat) (s : State) : Nat :=
  let w := windowOf d.charter (bits d.dstAddr 55 53) s
  let off (i : Nat) : Option Nat :=
    let e := entryOf i s
    if e.state = 1 ∧ e.baseFpa ≤ address ∧ address < e.baseFpa + extentBytes e.sizeCode then
      some ((i - w.firstEntry) * extentBytes w.sizeCode + (address - e.baseFpa)) else none
  match (upto w.firstEntry w.entryCount).findSome? off with
  | some x => (x - bits d.dstAddr 52 0) / max 1 (outRowBytes d)
  | none => 0

/-- The rows of writes answered POISON are poisoned: they share granules with poisoned ones (R175). -/
def noteBadWrites (key : Nat) (s : State) : State :=
  match jobOf key s with
  | none => s
  | some j => match stevOf? j with
    | none => s
    | some (d, p) =>
      let p := j.badWrites.foldl (fun p a => { p with poisoned := insertSorted (rowOfAddr d a s) p.poisoned }) p
      setJob { j with badWrites := [], st := .stev p } s

/-- Elements summed (R170): FP32 with NaN as 0x7FC0_0000, or integers modulo their width. -/
def addRows (format : Nat) (a b : Bytes) : Bytes :=
  let w := if format = 16 then 8 else 4
  (List.range (a.length / w)).flatMap fun k =>
    let x := fld a (w * k) w
    let y := fld b (w * k) w
    le w (if format = 0 then (fadd32 (BitVec.ofNat 32 x) (BitVec.ofNat 32 y)).toNat else (x + y) % 2 ^ (8 * w))

/-- A source row added into its accumulator row, one step on each granule (R170, R175). -/
def accumulate (key : Nat) (engine : Option Nat) (row : Nat) (v : Option Bytes) (s : State) : State :=
  match jobOf key s with
  | none => s
  | some j => match stevOf? j with
    | none => s
    | some (d, p) =>
      let a := accAddr d + row * d.rowSize
      let old := stageRead d.charter a d.rowSize s
      let new := match old, v with
        | some x, some y => some (addRows d.elemFormat x y)
        | _, _ => none
      outWrite key engine false a d.rowSize new (setStev key (notePoisoned row new p) s)

/-- The book of a Stevedore (R35). -/
def stevBook (e : Nat) : Nat := bookNo .stevedore e

/-- What an engine does with a row of list position i that names a table row, once its source has landed (R167, R175). -/
def moveRow (key e i row : Nat) (v : Option Bytes) (s : State) : State :=
  match jobOf key s with
  | none => s
  | some j => match stevOf? j with
    | none => s
    | some (d, p) =>
      let b := some (stevBook e)
      if d.op = 1 then writeRow key b i (d.dstAddr + i * d.rowSize) d.rowSize v s
      else if d.op = 2 then writeRow key b row (d.dstAddr + row * d.rowSize) d.rowSize v s
      else if d.op = 3 then accumulate key b row v s
      else setStev key { p with held := tput p.held i v } s

/-- The first waiting row of some engine whose source has landed whole. -/
def landedRow (j : Job) (d : StevDesc) (p : StevSt) (s : State) : Option ((Nat × Nat) × Nat × Option Bytes) :=
  let heads := p.waitRows.filter fun r => (p.waitRows.find? fun x => x.1 == r.1) == some r
  heads.findSome? fun r =>
    match indexAt j d r.2 s with
    | some (some (some row)) => (areaRead j (srcPool d) (sourceAt d r.2 row) (rowBytes d) s).map fun v => (r, row, v)
    | _ => none

/-- Rows moved as their sources have landed, each engine's in its order (R168). -/
def drainRows (fuel key : Nat) (s : State) : State :=
  match fuel with
  | 0 => s
  | k + 1 =>
    match jobOf key s with
    | none => s
    | some j => match stevOf? j with
      | none => s
      | some (d, p) =>
        if j.phase ≠ .running then s
        else
          match landedRow j d p s with
          | none => s
          | some (r, row, v) =>
            let j := if srcPool d then dropLanded (pieces256 (sourceAt d r.2 row) (rowBytes d)) j s else j
            let s := setJob { j with st := .stev { p with waitRows := p.waitRows.erase r } } s
            drainRows k key (moveRow key r.1 r.2 row v s)

/-- An index that names no row, or is poisoned: skipped or stopping the job (R166, R175). A poisoned index of a SCATTER names no row to
poison. -/
def oddIndex (key e i : Nat) (poison : Bool) (s : State) : State :=
  match jobOf key s with
  | none => s
  | some j => match stevOf? j with
    | none => s
    | some (d, p) =>
      let b := some (stevBook e)
      if poison then
        let s := setStev key { p with indexLost := true } s
        if d.op = 1 then writeRow key b i (d.dstAddr + i * d.rowSize) d.rowSize none s
        else if d.op = 4 then setStev key { p with indexLost := true, held := tput p.held i none } s
        else s
      else if !bit d.flags 0 then stopJob key 0x0B03 (recordReason 0x0B03 s)
      else
        let p := { p with oob := p.oob + 1 }
        if d.op = 1 then writeRow key b i (d.dstAddr + i * d.rowSize) d.rowSize (some (zeros d.rowSize)) (setStev key p s)
        else if d.op = 4 then setStev key { p with held := tput p.held i (some []) } s
        else setStev key p s

/-- One index issued by an engine: its row's reads go out, or its Stage source is at hand (R164, R166, R168). -/
def issueIndex (key e i : Nat) (s : State) : State :=
  match jobOf key s with
  | none => s
  | some j => match stevOf? j with
    | none => s
    | some (d, p) =>
      if j.phase ≠ .running then s
      else
        let p := { p with issued := tput p.issued e (tgetD p.issued e 0 + 1), indices := p.indices + 1 }
        let s := setStev key p s
        match indexAt j d i s with
        | some none => oddIndex key e i true s
        | some (some none) => oddIndex key e i false s
        | some (some (some row)) =>
          let s := setStev key { p with waitRows := p.waitRows ++ [(e, i)] } s
          let s := if srcPool d then
              (pieces256 (sourceAt d i row) (rowBytes d)).foldl (fun s x => jobAsk key (some (stevBook e)) opRead x.2 x.1 0 [] s) s
            else s
          drainRows (p.waitRows.length + 1) key s
        | none => s

/-- An accumulator row filled: from the base, or with zeros (R170, R175). -/
def fillRow (key r : Nat) (v : Option Bytes) (s : State) : State :=
  match jobOf key s with
  | none => s
  | some j => match stevOf? j with
    | none => s
    | some (d, p) =>
      outWrite key (some (stevBook 0)) false (accAddr d + r * d.rowSize) d.rowSize v (setStev key (notePoisoned r v p) s)

/-- Accumulator rows whose base has landed are filled, in order (R170). -/
def drainFills (fuel key : Nat) (s : State) : State :=
  match fuel with
  | 0 => s
  | k + 1 =>
    match jobOf key s with
    | none => s
    | some j => match stevOf? j with
      | none => s
      | some (d, p) =>
        match p.waitFill with
        | [] => s
        | r :: rest =>
          let a := d.baseAddr + r * d.rowSize
          match areaRead j (basePool d) a d.rowSize s with
          | none => s
          | some v =>
            let j := if basePool d then dropLanded (pieces256 a d.rowSize) j s else j
            let s := setJob { j with st := .stev { p with waitFill := rest } } s
            drainFills k key (fillRow key r v s)

/-- Accumulator rows issued for filling, by the job's first engine (R170; log 23). -/
def issueFill (key first count : Nat) (s : State) : State :=
  match jobOf key s with
  | none => s
  | some j => match stevOf? j with
    | none => s
    | some (d, p) =>
      let rows := upto first count
      if bit d.flags 1 then
        let s := setStev key { p with filled := first + count, waitFill := p.waitFill ++ rows } s
        let ask (s : State) (x : Nat × Nat) : State := jobAsk key (some (stevBook 0)) opRead x.2 x.1 0 [] s
        let s := if basePool d then rows.foldl (fun s r => (pieces256 (d.baseAddr + r * d.rowSize) d.rowSize).foldl ask s) s else s
        drainFills (p.waitFill.length + count) key s
      else
        rows.foldl (fun s r => fillRow key r (some (zeros d.rowSize)) s) (setStev key { p with filled := first + count } s)

/-- Accumulator rows written to a pool destination, by the job's first engine (R170; log 23). -/
def writeOutRows (key first count : Nat) (s : State) : State :=
  match jobOf key s with
  | none => s
  | some j => match stevOf? j with
    | none => s
    | some (d, p) =>
      (upto first count).foldl (fun s r =>
        writeRow key (some (stevBook 0)) r (d.dstAddr + r * d.rowSize) d.rowSize
          (stageRead d.charter (accAddr d + r * d.rowSize) d.rowSize s) s)
        (setStev key { p with written := first + count } s)

/-- Every index of every engine has been issued, and its row moved. -/
def rowsDone (d : StevDesc) (p : StevSt) (n : Nat) (s : State) : Bool :=
  p.waitRows == [] && (List.range d.engines).all fun e => tgetD p.issued e 0 == positionCount d n e s

/-- The size of a job is known: only a RUNS list in pool tells it after it has landed (R165, R178). -/
def sizeKnown (d : StevDesc) (p : StevSt) : Bool := !(idxPool d && d.idxFormat == 4) || p.sized

/-- The expanded indices of a job that may issue them: its index list has landed whole where that takes a RUNS list, and its bag list is
well formed (R165, R171). -/
def stevSize (j : Job) (d : StevDesc) (p : StevSt) (s : State) : Option Nat :=
  match expanded j d s with
  | none => none
  | some n => if j.phase == .running && sizeKnown d p && bagsOk d n s then some n else none

/-- Positions of engine e from its next on whose indices have landed (R168, R177). -/
def landedRows (j : Job) (d : StevDesc) (p : StevSt) (n e : Nat) (s : State) : Nat :=
  let k := tgetD p.issued e 0
  let left := positionCount d n e s - k
  if !idxPool d then left
  else ((upto k left).takeWhile fun x => ((positionAt d n e x s).bind fun i => indexAt j d i s).isSome).length

/-- Rows of the job may be moved: a pool destination's homes are fenced, or the accumulator is filled (R170, R174). -/
def mayMove (j : Job) (d : StevDesc) (p : StevSt) : Bool :=
  if d.op = 3 then decide (d.rowCount ≤ p.filled) && p.waitFill == [] else !dstPool d || j.awaitFence == []

/-- Work of a Stevedore job that is ready, with the engine it falls to (R168, R170, R177). -/
def stevReady (j : Job) (s : State) : List (Nat × Work) :=
  match stevOf? j with
  | none => []
  | some (d, p) =>
    match stevSize j d p s with
    | none => []
    | some n =>
      let fills := if d.op = 3 ∧ p.filled < d.rowCount then [(0, Work.fill p.filled (d.rowCount - p.filled))] else []
      let rows := if mayMove j d p then (List.range d.engines).filterMap fun e =>
          let k := landedRows j d p n e s
          if k = 0 then none else some (e, Work.rows (tgetD p.issued e 0) k) else []
      let outs := if d.op = 3 ∧ dstPool d = true ∧ j.awaitFence = [] ∧ mayMove j d p = true ∧ rowsDone d p n s = true ∧
          p.written < d.rowCount then [(0, Work.writeOut p.written (d.rowCount - p.written))] else []
      fills ++ rows ++ outs

/-- Cycles of a run of a Stevedore job (R176). -/
def stevCost (j : Job) (w : Work) : Nat :=
  match stevOf? j, w with
  | some (d, _), .rows _ n => n * rowCost d
  | some (d, _), .fill _ n => n * cdiv d.rowSize 128
  | some (d, _), .writeOut _ n => n * cdiv d.rowSize 128
  | _, _ => 0

/-- Pool reads of a run of a Stevedore job on engine e (R177). -/
def stevReads (j : Job) (e : Nat) (w : Work) (s : State) : Nat :=
  match stevOf? j, w with
  | some (d, _), .rows k n =>
    if !srcPool d then 0
    else ((upto k n).map fun x =>
      match (positionAt d ((expanded j d s).getD 0) e x s).map fun i => (i, indexAt j d i s) with
      | some (i, some (some (some row))) => (pieces256 (sourceAt d i row) (rowBytes d)).length
      | _ => 0).sum
  | some (d, _), .fill r n =>
    if !(bit d.flags 1 && basePool d) then 0
    else ((upto r n).map fun r => (pieces256 (d.baseAddr + r * d.rowSize) d.rowSize).length).sum
  | _, _ => 0

/-- A run of a Stevedore job retires on engine e (R34, R166 to R170, R176, R177). -/
def stevUnit (e key : Nat) (w : Work) (s : State) : State :=
  match jobOf key s with
  | none => s
  | some j => match stevOf? j with
    | none => s
    | some (d, p) =>
      match stevSize j d p s with
      | none => s
      | some n =>
        match w with
        | .rows first count => ((upto first count).filterMap fun x => positionAt d n e x s).foldl (fun s i => issueIndex key e i s) s
        | .fill first count => issueFill key first count s
        | .writeOut first count => writeOutRows key first count s
        | _ => s

/-- Cycles of a bag on its Crane: an add for each row and a pass (R152, R171). -/
def bagCost (d : StevDesc) (rows : Nat) : Nat := rows * cdiv d.rowSize (128 * perLane d.elemFormat) + cdiv d.rowSize 128

/-- A bag summed in list order on its Crane, converted and written (R171). -/
def sumBag (key b : Nat) (s : State) : State :=
  match jobOf key s with
  | none => s
  | some j => match stevOf? j with
    | none => s
    | some (d, p) =>
      let is := upto (bagStart d b s) (bagEnd d b s - bagStart d b s)
      let rows := is.map fun i => tgetD p.held i none
      let add (x y : BitVec 64) : BitVec 64 :=
        if intFormat d.elemFormat then x + y else (add32 (x.setWidth 32) (y.setWidth 32)).setWidth 64
      let zero := List.replicate d.rowSize 0#64
      let sum := (rows.filter fun r => r != some []).foldl (fun (acc : Option (Option (List (BitVec 64)))) r =>
        match acc, r with
        | some a, some x =>
          let vs := (inputValues d.elemFormat d.rowSize x).1
          some (some (match a with | none => vs | some y => List.zipWith add y vs))
        | _, _ => none) (some none)
      let v : Option Bytes := sum.map fun a => (outputTile d.outFormat (d.rounding == 1) j.seed b (a.getD zero)).1
      let p := { p with bags := insertSorted b p.bags, held := is.foldl (fun t i => tdel t i) p.held }
      writeRow key (some (b % 32)) b (d.dstAddr + b * outRowBytes d) (outRowBytes d) v (setStev key p s)

/-- Bags that are ready: every row of theirs has landed in the deck; each with its Crane (R171). -/
def bagReady (j : Job) (s : State) : List (Nat × Work) :=
  match stevOf? j with
  | none => []
  | some (d, p) =>
    if d.op ≠ 4 ∨ (stevSize j d p s).isNone = true ∨ (dstPool d = true ∧ j.awaitFence ≠ []) then []
    else (List.range d.bagCount).filterMap fun b =>
      if p.bags.contains b = false ∧ ((upto (bagStart d b s) (bagEnd d b s - bagStart d b s)).all fun i => (tget p.held i).isSome) = true then
        some (b % 32, Work.bag b) else none

/-- A bag can retire now: its Crane's output buffer has room (R150). -/
def bagMay (j : Job) (b : Nat) (s : State) : Bool :=
  (bagReady j s).contains (b % 32, Work.bag b) && (match stevOf? j with
    | some (d, _) => decide (craneOut (b % 32) s + outRowBytes d ≤ 262144)
    | none => false)

/-- Homes of a pool destination of some rows. -/
def destHomes (d : StevDesc) (rows : Nat) (s : State) : List Nat :=
  if !dstPool d then []
  else sorted (((stevAreas d rows).filter fun a => a.1 == 2).map fun a => areaHomes d.charter a.2.2.1 a.2.2.2 s).flatten

/-- A RUNS list in pool has landed whole: the areas of the expanded job are checked, a basic form's engines set, the source acquired
and the homes of the destination fenced (R165, R173, R174, R178, R179). The check comes late only because the Harbourmaster
cannot read the list earlier, and a failure stops the job with its code (DEDUCED, log 23). -/
def sizeUp (key : Nat) (s : State) : State :=
  match jobOf key s with
  | none => s
  | some j => match stevOf? j with
    | none => s
    | some (d, p) =>
      if j.phase ≠ .running ∨ sizeKnown d p = true then s
      else match expanded j d s with
        | none => s
        | some n =>
          let expert := j.hdr.hdr.expert
          let d' := if !expert && (d.op == 1 || d.op == 4) then { d with engines := max 1 (min 32 (cdiv n 65536)) } else d
          let more := (destHomes d n s).filter fun h => !j.sealed.contains h && !(destHomes d (declaredRows d s) s).contains h
          let s := setJob { j with desc := .stev d', st := .stev { p with sized := true }, awaitFence := sorted (j.awaitFence ++ more) } s
          if !stevAreasOk expert d' n s then stopJob key 0x0B02 (recordReason 0x0B02 s)
          else
            let s := if srcPool d && (d.op == 2 || d.op == 3) then acquireArea d.charter d.srcAddr (n * rowBytes d) s else s
            more.foldl (fun s h => jobFence key h s) s

/-- A bag list that is not well formed stops the job at the boundary (R171). -/
def checkBags (key : Nat) (s : State) : State :=
  match jobOf key s with
  | none => s
  | some j => match stevOf? j with
    | none => s
    | some (d, _) =>
      match expanded j d s with
      | none => s
      | some n => if j.phase = .running ∧ bagsOk d n s = false then stopJob key 0x0B07 (recordReason 0x0B07 s) else s

/-! Attempts and ends. -/

/-- A Stevedore job's progress at the start of an attempt (R170, R173). -/
def stevFresh : StevSt :=
  { filled := 0, written := 0, issued := [], waitFill := [], waitRows := [], held := [], bags := [], indices := 0, oob := 0,
    poisoned := [], indexLost := false, sized := false }

/-- Index list reads, on a separate port: piece k of the list is read by engine k mod engines, which has at most 2,048 reads outstanding
(R176, R177; log 23). -/
def stevPlan (key : Nat) (s : State) : State :=
  match (jobOf key s).bind stevOf? with
  | none => s
  | some (d, _) =>
    if idxPool d then
      ((pieces256 d.idxAddr (idxBytes d)).zipIdx).foldl (fun s x => askPiece key (stevBook (x.2 % max 1 d.engines)) 2048 (2 ^ 60) x.1 s) s
    else s

/-- What landed is used (R164). -/
def stevLand (key : Nat) (s : State) : State :=
  let s := sizeUp key (noteBadWrites key s)
  match (jobOf key s).bind stevOf? with
  | none => s
  | some (_, p) => drainRows (p.waitRows.length + 1) key (drainFills p.waitFill.length key s)

/-- Every output of the job has been written (R170, R171). -/
def stevWritten (j : Job) (d : StevDesc) (p : StevSt) (s : State) : Bool :=
  match stevSize j d p s with
  | none => false
  | some n => rowsDone d p n s && (d.op != 3 || (decide (d.rowCount ≤ p.filled) && p.waitFill == [] &&
      (!dstPool d || decide (d.rowCount ≤ p.written)))) && (d.op != 4 || decide (d.bagCount ≤ p.bags.length))

/-- The homes of a pool destination, as far as its size is known (R174). -/
def stevHomes (d : StevDesc) (s : State) : List Nat := destHomes d (declaredRows d s) s

/-- Seals of the homes that the attempt wrote (R174). -/
def stevSeals (j : Job) (d : StevDesc) : List (Nat × Nat) :=
  if !dstPool d then [] else j.sent.filterMap fun h => if h.2 = 0 then none else some (h.1, fld j.attach (8 * h.1) 8)

/-- Pool inputs acquired at the start of an attempt: index list, table or source, base (R173). -/
def stevInputs (d : StevDesc) (s : State) : List (Nat × Nat) :=
  ((stevAreas d (declaredRows d s)).filter fun a => a.2.1 && (a.1 == 0 || a.1 == 1 || a.1 == 3)).map fun a => (a.2.2.1, a.2.2.2)

/-- Reason of a Stevedore job that ran to its end (R175). -/
def stevReason (p : StevSt) : Nat := if p.poisoned = [] ∧ p.indexLost = false then 0 else 0x0B06

/-- A Stevedore job's result header (R180). -/
def stevResult (j : Job) (d : StevDesc) (p : StevSt) (reason : Nat) (s : State) : Bytes :=
  packBytes [(2, reason), (1, d.engines), (1, j.attempts), (4, p.poisoned.length), (8, p.indices), (8, p.oob),
    (2, attemptTides j s), (6, 0)]

end Sys2Proof.Machine
end

