-- ==== Sys2Proof/Machine/Tiers.lean ====
section
/-! DEFINITION. Tiers and copies: T1 copies (R248 to R254), COPY.RUN and TIER.PLACE as copy jobs (R414, R415). -/

namespace Sys2Proof.Machine
open Sys2Proof

/-- Stage areas of a job (R252, R258). -/
def jobStageAreas (j : Job) (s : State) : List (Nat × Nat) :=
  match j.desc with
  | .crane d => [(d.memberList, 2 * d.memberCount), (d.spillBase, d.spillBytes)]
  | .stev d => ((stevAreas d (declaredRows d s)).filter fun a => !a.2.1).map fun a => a.2.2
  | .cust d => ((custAreas d s).filter fun a => !a.2.1).map fun a => a.2.2
  | .codec d => ((codecAreas d s).filter fun a => !a.1).map fun a => (a.2.1, a.2.2.1)
  | .stream d => [(d.layerTable, 64 * d.layerCount), (d.windowBase, d.windowLayers * d.slotBytes),
      (d.shadowBase, d.windowLayers * d.shadowSlotBytes)]
  | .copy d => (if bit d.spaces 0 then [] else [(d.srcAddr, d.bytes)]) ++ (if bit d.spaces 1 then [] else [(d.dstAddr, d.bytes)])
  | .place d => [(d.stageAddr, d.bytes)]

/-- An area overlaps a T1 copy or the area of an active job (R252, R258). -/
def areaTaken (a n : Nat) (s : State) : Bool :=
  (s.copies.any fun c => overlap a n c.stageAddr c.bytes) ||
  s.acc.jobs.any fun j => jobLive j && (jobStageAreas j s).any fun x => overlap a n x.1 x.2

/-! Copies. -/

/-- A copy's source entries all stand at the generation it records (R252, R253). -/
def copyCurrent (c : TierCopy) (s : State) : Bool := c.sources.all fun x => (entryOf x.1 s).generation == x.2

/-- Copies whose sources changed are dropped at the boundary, each with its event (R253). -/
def dropCopies (s : State) : State :=
  let gone := s.copies.filter fun c => !copyCurrent c s
  gone.foldl (fun s c => raise 0x0E14 [(evAddress, c.stageAddr), (evCharter, c.charter), (evDetail, c.objectId)] s)
    { s with copies := s.copies.filter fun c => copyCurrent c s }

/-- The usable, current T1 copy that holds an area of a charter's pool object, and where the area lies in it (R252, R253, R259). -/
def copyFor (charter va n : Nat) (s : State) : Option TierCopy :=
  s.copies.find? fun c => c.usable && c.charter == charter && copyCurrent c s && decide (c.srcVa ≤ va ∧ va + n ≤ c.srcVa + c.bytes)
def copyHolds (charter va n : Nat) (s : State) : Option Nat := (copyFor charter va n s).map fun c => c.stageAddr + (va - c.srcVa)

/-- The checks of TIER.PLACE in their order (R250, R252). -/
def placeCheck (expert : Bool) (d : PlaceDesc) (s : State) : Nat :=
  let placing := s.acc.jobs.countP fun j => jobLive j && j.command == cmdPlace && j.phase != .running
  firstCode [
    (decide (d.tier ≠ 1), 0x0E11),
    ((objectEntries d.charter d.objectId d.srcVa d.bytes s).isNone, 0x0E10),
    (decide (d.stageAddr % 64 ≠ 0) || !stageArea (!expert) d.stageAddr d.bytes || areaTaken d.stageAddr d.bytes s, 0x0E12),
    (decide (4096 ≤ s.copies.length + placing), 0x0E12)]

/-- TIER.PLACE: firmware chooses the Stage range of a basic form (R252, R413). -/
def execTierPlace (h : JobHdr) (d : PlaceDesc) (s : State) : Ans :=
  submit h cmdPlace (.place d)
    (fun s => let a := firmwareArea d.bytes s; (.place { d with stageAddr := a.1 }, a.2))
    (fun x s => match x with
      | .place d => placeCheck h.hdr.expert d s
      | _ => 0) s

/-- The entries of a placement's source with their generations, as its copy records them (R252). -/
def placeSources (d : PlaceDesc) (s : State) : List (Nat × Nat) :=
  ((entriesOver d.charter d.srcVa d.bytes s).getD []).map fun i => (i, (entryOf i s).generation)

/-- A placement's copy enters the table with its attempt, not yet usable (R252). Its source is tested again, for the Manifest may have changed
since the command: one no longer read-only, or of another object, has no copy, and the job stops (R249). -/
def placeBegin (key : Nat) (d : PlaceDesc) (s : State) : State :=
  if (objectEntries d.charter d.objectId d.srcVa d.bytes s).isNone then stopJob key 0x0E10 (recordReason 0x0E10 s)
  else
    let c : TierCopy := { objectId := d.objectId, charter := d.charter, srcVa := d.srcVa, stageAddr := d.stageAddr, bytes := d.bytes,
                          sources := placeSources d s, job := key, usable := false }
    { s with copies := (s.copies.filter fun x => !(x.job == key && !x.usable)) ++ [c] }

/-- A placement that ends makes its copy usable, or takes it out of the table (R83, R252). -/
def placeEnd (key reason : Nat) (s : State) : State :=
  if reason = 0 then { s with copies := s.copies.map fun c => if c.job == key then { c with usable := true } else c }
  else { s with copies := s.copies.filter fun c => !(c.job == key && !c.usable) }

/-- A layer table's entry (R256). -/
structure LayerEnt where
  fullIndex : Nat
  fullPayload : Nat
  shadowIndex : Nat
  shadowPayload : Nat
  fullRaw : Nat
  shadowRaw : Nat
  deadline : Nat
  flags : Nat
  deriving DecidableEq, Repr

/-- Entry j of a layer table's bytes (R256). -/
def layerEnt (table : Bytes) (j : Nat) : LayerEnt :=
  let b := slice table (64 * j) 64
  { fullIndex := fld b 0 8, fullPayload := fld b 8 8, shadowIndex := fld b 16 8, shadowPayload := fld b 24 8,
    fullRaw := fld b 32 4, shadowRaw := fld b 36 4, deadline := fld b 40 4, flags := fld b 44 1 }

/-- A form of a layer: index address, payload base, raw bytes, compressed (R256). -/
def formOf (x : LayerEnt) (shadow : Bool) : Nat × Nat × Nat × Bool :=
  if shadow then (x.shadowIndex, x.shadowPayload, x.shadowRaw, bit x.flags 1) else (x.fullIndex, x.fullPayload, x.fullRaw, bit x.flags 0)

/-- Areas of a form known without its headers (R256; log 14: the first granule of its payloads). -/
def formAreas (f : Nat × Nat × Nat × Bool) : List (Nat × Nat) :=
  if f.2.2.2 then [(f.1, 64 * blockCount f.2.2.1), (f.2.1, 64)] else [(f.1, f.2.2.1)]

/-- A schedule takes a form from its T1 copies where they hold every one of its known areas; a payload comes from the copy that holds the
first of them (R259). -/
def formHeld (charter : Nat) (f : Nat × Nat × Nat × Bool) (s : State) : Bool :=
  (formAreas f).all fun a => (copyFor charter a.1 a.2 s).isSome

/-- Where the copy that a form is taken from holds n of its bytes at an address: its index and raw bytes, or its payloads. -/
def formBytesAt (charter : Nat) (f : Nat × Nat × Nat × Bool) (payload : Bool) (va n : Nat) (s : State) : Option Nat :=
  if !formHeld charter f s then none
  else
    let c := if payload then copyFor charter f.2.1 64 s else copyFor charter f.1 (if f.2.2.2 then 64 * blockCount f.2.2.1 else f.2.2.1) s
    match c with
    | some c => if c.srcVa ≤ va ∧ va + n ≤ c.srcVa + c.bytes then some (c.stageAddr + (va - c.srcVa)) else none
    | none => none

/-- A schedule of a job reads a copy: some form of its table is taken from it (R254). -/
def streamReads (j : Job) (c : TierCopy) (s : State) : Bool :=
  match j.desc with
  | .stream d => (List.range d.layerCount).any fun k =>
      let x := layerEnt j.attach k
      ([formOf x false] ++ (if x.shadowIndex = 0 then [] else [formOf x true])).any fun f =>
        formHeld d.charter f s && (formAreas f).any fun a => copyFor d.charter a.1 a.2 s == some c
  | _ => false

/-- An active schedule reads a copy (R254). -/
def copyInUse (c : TierCopy) (s : State) : Bool := s.acc.jobs.any fun j => jobLive j && streamReads j c s

/-- TIER_DROP (R254). A copy that is not in the table is refused with 0x0E12 (DESIGN CHOICE, log 14). -/
def execTierDrop (h : CmdHdr) (objectId stageAddr : Nat) (s : State) : Ans :=
  let this (c : TierCopy) : Bool := c.objectId == objectId && c.stageAddr == stageAddr && c.usable
  immediate h 0x1502
    (fun s => firstCode [(!s.copies.any this, 0x0E12), ((s.copies.filter this).any fun c => copyInUse c s, 0x0E13)])
    (fun s => { s with copies := s.copies.filter fun c => !this c }) (fun _ => []) [objectId, stageAddr] s

/-- TIER_QUERY: home tier, copies, and the schedules that use them (R249; layout log 6). -/
def execTierQuery (h : CmdHdr) (objectId : Nat) (s : State) : Ans :=
  immediate h 0x1504 (fun _ => 0) (fun s => s)
    (fun s =>
      let e := s.man.entries.find? fun p => p.2.objectId == objectId && p.2.state == 1
      let tier := match e with | some p => p.2.tier | none => 0
      let cs := s.copies.filter fun c => c.objectId == objectId
      let users := (s.acc.jobs.filter fun j => jobLive j && cs.any fun c => streamReads j c s).map fun j => j.slot
      Config.blockImage 0x1504 ([tier, cs.length] ++ (cs.flatMap fun c => [c.stageAddr, c.bytes]) ++ [users.length] ++ users))
    [objectId] s

/-! Copy jobs. -/

/-- What a copy job moves: source space, address, destination space, address, bytes. -/
def copyOps (d : JobDesc) : Option (Bool × Nat × Bool × Nat × Nat) :=
  match d with
  | .copy d => some (bit d.spaces 0, d.srcAddr, bit d.spaces 1, d.dstAddr, d.bytes)
  | .place d => some (true, d.srcVa, false, d.stageAddr, d.bytes)
  | _ => none

/-- The checks of COPY.RUN in their order (R414, R415). -/
def copyCheck (d : CopyDesc) (s : State) : Nat :=
  let sp := bit d.spaces 0
  let dp := bit d.spaces 1
  firstCode [
    (decide (4 ≤ d.spaces ∨ d.bytes < 64 ∨ 2 ^ 40 < d.bytes ∨ d.bytes % 64 ≠ 0 ∨ d.srcAddr % 64 ≠ 0 ∨ d.dstAddr % 64 ≠ 0), 0x0E15),
    (!areaOk false sp d.charter d.srcAddr d.bytes s || !areaOk false dp d.charter d.dstAddr d.bytes s ||
      clash sp d.srcAddr d.bytes dp d.dstAddr d.bytes || (dp && !sealedOut d.charter d.dstAddr d.bytes d.sealVa s), 0x0E16),
    (decide (64 ≤ activeJobs [cmdCopy] s), 0x0E17)]

/-- COPY.RUN (R414, R415). -/
def execCopyRun (h : JobHdr) (d : CopyDesc) (s : State) : Ans :=
  submit h cmdCopy (.copy d) (fun s => (.copy d, s))
    (fun x s => match x with
      | .copy d => copyCheck d s
      | _ => 0) s

/-- A copy job's progress at the start of an attempt (R415). -/
def copyFresh : CopySt := { copied := 0, granulesPoisoned := 0 }

/-- A copy job's progress. -/
def copyOf? (j : Job) : Option ((Bool × Nat × Bool × Nat × Nat) × CopySt) :=
  match copyOps j.desc, j.st with
  | some c, .copy p => some (c, p)
  | _, _ => none

/-- Granule pieces of an area: a copy reads granule by granule, so that each poisoned one shows (R415). -/
def pieces64 (a n : Nat) : List (Nat × Nat) :=
  (granulesIn a n).map fun g => let lo := max a g; (lo, min (a + n) (g + 64) - lo)

/-- Reads asked ahead: the present block-sized piece and the next. -/
def copyPlan (key : Nat) (s : State) : State :=
  match jobOf key s with
  | none => s
  | some j => match copyOf? j with
    | none => s
    | some ((sp, src, _, _, n), p) =>
      if sp then askPieces key (bookNo .stream key) (2 ^ 60) (2 ^ 60) (pieces64 (src + p.copied) (min 131072 (n - p.copied))) s else s

/-- One granule of a copy written: as it was read, or as poisoned. -/
def copyGranule (key : Nat) (src : Nat) (dp : Bool) (dst : Nat) (x : Nat × Nat) (s : State) : State :=
  match jobOf key s with
  | none => s
  | some j => match copyOf? j with
    | none => s
    | some ((sp, _, _, _, _), p) =>
      let v := if sp then (match landedPiece j x s with | some (false, d) => some d | _ => none) else stageRead (charterOf j) x.1 x.2 s
      let j' := if sp then dropLanded [x] j s else j
      let p := { p with copied := p.copied + x.2, granulesPoisoned := p.granulesPoisoned + b2n v.isNone }
      outWrite key (some (bookNo .stream key)) dp (dst + (x.1 - src)) x.2 v (setJob { j' with st := .copy p } s)

/-- A block-sized piece of a copy or placement retires: at most 200 GB/s for each job (R415). -/
def copySlice (key : Nat) (w : Work) (s : State) : State :=
  match jobOf key s with
  | none => s
  | some j => match copyOf? j with
    | none => s
    | some ((sp, src, dp, dst, n), p) =>
      match w with
      | .piece off bytes =>
        let ps := pieces64 (src + off) bytes
        if j.phase ≠ .running ∨ off ≠ p.copied ∨ bytes ≠ min 65536 (n - off) ∨ bytes = 0 ∨ (dp = true ∧ j.awaitFence ≠ []) ∨
            (sp = true ∧ (ps.all fun x => (landedPiece j x s).isSome) = false) ∨ mayUse .stream key bytes s = false then s
        else
          let s := ps.foldl (fun s x => copyGranule key src dp dst x s) (useCycles .stream key bytes s)
          copyPlan key s
      | _ => s

/-- Everything has been copied. -/
def copyWritten (d : JobDesc) (p : CopySt) : Bool := match copyOps d with | some c => decide (c.2.2.2.2 ≤ p.copied) | none => false

/-- Pool inputs and the home of a pool output (R244, R415). -/
def copyInputs (d : JobDesc) : List (Nat × Nat) := match copyOps d with | some c => (if c.1 then [(c.2.1, c.2.2.2.2)] else []) | none => []
def copyHomes (j : Job) (s : State) : List Nat :=
  match j.desc with
  | .copy d => if bit d.spaces 1 then areaHomes d.charter d.sealVa 8 s else []
  | _ => []

/-- A copy job's result header (R415). -/
def copyResult (j : Job) (p : CopySt) (reason : Nat) (s : State) : Bytes :=
  packBytes [(2, reason), (1, j.attempts), (1, 0), (2, attemptTides j s), (2, 0), (8, p.copied), (4, p.granulesPoisoned), (12, 0)]

end Sys2Proof.Machine
end

