-- ==== Sys2Proof/Machine/Stream.lean ====
section
/-! DEFINITION. Stream schedules (12_tiers_and_streaming.md R255 to R270): window and prefetch, the choice of form, delivery,
abandoning, stopping. -/

namespace Sys2Proof.Machine
open Sys2Proof

/-- A schedule's descriptor and progress. -/
def streamOf? (j : Job) : Option (StreamDesc × StreamSt) :=
  match j.desc, j.st with
  | .stream d, .stream p => some (d, p)
  | _, _ => none

/-- A schedule's progress put in place. -/
def setStream (key : Nat) (p : StreamSt) (s : State) : State :=
  match jobOf key s with
  | none => s
  | some j => setJob { j with st := .stream p } s

/-! Descriptor (R255 to R258). -/

/-- Layer entries of a table. -/
def layerEnts (d : StreamDesc) (table : Bytes) : List LayerEnt := (List.range d.layerCount).map (layerEnt table)

/-- Reserved bytes and flags of a table are zero, absent forms are zero, and its deadlines ascend (R256). -/
def layersOk (d : StreamDesc) (table : Bytes) : Bool :=
  let l := layerEnts d table
  (List.range d.layerCount).all (fun j => decide (fld table (64 * j + 44) 1 < 4) && (slice table (64 * j + 45) 19).all fun b => b == 0#8) &&
  l.all (fun x => decide (1 ≤ x.fullRaw) && (bit x.flags 0 || x.fullPayload == 0) &&
    (if x.shadowIndex = 0 then x.shadowRaw == 0 && x.shadowPayload == 0 && !bit x.flags 1
      else decide (1 ≤ x.shadowRaw) && (bit x.flags 1 || x.shadowPayload == 0))) &&
  (List.zip l (l.drop 1)).all (fun x => decide (x.1.deadline < x.2.deadline)) &&
  l.all fun x => decide (x.deadline ≤ d.passTides)

/-- A form's range is VALID, read_only and class S in the charter (R258). -/
def formRangeOk (charter : Nat) (f : Nat × Nat × Nat × Bool) (s : State) : Bool :=
  (formAreas f).all fun a => decide (a.1 < 2 ^ 56) && poolOk charter a.1 a.2 s &&
    ((entriesOver charter a.1 a.2 s).getD []).all fun i => (entryOf i s).readOnly && (entryOf i s).cls == 3

/-- Bytes of a slot that a form needs at least (R258). -/
def slotNeed (f : Nat × Nat × Nat × Bool) : Nat := if f.2.2.2 then 64 * blockCount f.2.2.1 else f.2.2.1

/-- The entry that holds an address of a charter. -/
def entryHolding (charter va : Nat) (s : State) : Option Nat :=
  let f := findExtent charter va s
  if f.1 = 0 then some f.2.1 else none

/-- A shadow is registered for a layer (R257). -/
def registered (charter : Nat) (x : LayerEnt) (s : State) : Bool :=
  match entryHolding charter x.fullIndex s, entryHolding charter x.shadowIndex s with
  | some f, some g => x.shadowIndex != 0 && (entryOf f s).shadowLink && (entryOf f s).shadowEntry == g
  | _, _ => false

/-- Schedules active on the device (R258). -/
def activeStreams (s : State) : Nat := activeJobs [cmdStream] s

/-- The checks of STREAM.SCHEDULE in their order (R258). -/
def streamCheck (expert : Bool) (d : StreamDesc) (s : State) : Nat :=
  let inStage := stageArea false d.layerTable (64 * d.layerCount)
  let table := mread s.stage d.layerTable (64 * d.layerCount)
  let l := layerEnts d table
  let full := l.map fun x => formOf x false
  let shadows := (l.filter fun x => x.shadowIndex != 0).map fun x => formOf x true
  let w := d.windowLayers
  let slots : List (Nat × Nat) := [(d.windowBase, w * d.slotBytes), (d.shadowBase, w * d.shadowSlotBytes)]
  firstCode [
    (decide (d.windowLayers < 2 ∨ 64 < d.windowLayers ∨ 16 ≤ d.tclass ∨ d.layerCount < 1 ∨ 4096 < d.layerCount ∨
      d.leadTides < 1 ∨ d.passTides < d.leadTides ∨ d.layerTable % 64 ≠ 0), 0x0E01),
    (inStage && !layersOk d table, 0x0E01),
    (!inStage || (full ++ shadows).any (fun f => !formRangeOk d.charter f s) || (groupCtxs d.group s.man.route).isNone ||
      slots.any (fun a => !stageArea (!expert) a.1 a.2 || areaTaken a.1 a.2 s) ||
      full.any (fun f => decide (d.slotBytes < slotNeed f)) || shadows.any (fun f => decide (d.shadowSlotBytes < slotNeed f)), 0x0E02),
    (l.any fun x => x.shadowIndex != 0 && !registered d.charter x s, 0x0E03),
    (decide (8 ≤ activeStreams s), 0x0E04)]

/-- Bytes firmware gives a slot for a form: all it can hold, stored (R255). -/
def slotRoom (f : Nat × Nat × Nat × Bool) : Nat :=
  if f.2.2.2 then 64 * blockCount f.2.2.1 + roundUp f.2.2.1 64 else f.2.2.1

/-- What firmware fills in a basic form (R255). -/
def streamFill (d : StreamDesc) (s : State) : JobDesc × State :=
  let l := layerEnts d (mread s.stage d.layerTable (64 * d.layerCount))
  let w := max 2 (min 8 d.layerCount)
  let most (b : Bool) : Nat := (l.map fun x => roundUp (slotRoom (formOf x b)) 64).foldl max 0
  let a := firmwareArea (w * (most false + most true)) s
  (.stream { d with windowLayers := w, tclass := 0, prefetchCap := 0, slotBytes := most false, shadowSlotBytes := most true,
                    windowBase := a.1, shadowBase := a.1 + w * most false }, a.2)

/-- STREAM.SCHEDULE (R255, R258). -/
def execStreamSchedule (h : JobHdr) (d : StreamDesc) (s : State) : Ans :=
  submit h cmdStream (.stream d) (streamFill d)
    (fun x s => match x with
      | .stream d => streamCheck h.hdr.expert d s
      | _ => 0) s

/-! Slots. -/

/-- The schedule is resident (R259). -/
def isResident (d : StreamDesc) : Bool := decide (d.layerCount ≤ d.windowLayers)

/-- Global number of the layer to deliver. -/
def cursorOf (d : StreamDesc) (p : StreamSt) : Nat := p.pass * d.layerCount + p.layer

/-- A form's number: the layer's global number, or its index where the schedule is resident. -/
def formNo (d : StreamDesc) (p : StreamSt) : Nat := if isResident d then p.layer else cursorOf d p

/-- A form's slot address (R259). -/
def slotAt (d : StreamDesc) (g : Nat) (shadow : Bool) : Nat :=
  if shadow then d.shadowBase + d.shadowSlotBytes * (g % d.windowLayers) else d.windowBase + d.slotBytes * (g % d.windowLayers)

/-- A form's bytes of slot. -/
def slotSize (d : StreamDesc) (shadow : Bool) : Nat := if shadow then d.shadowSlotBytes else d.slotBytes

/-- The form that number g stands for. -/
def formAt (j : Job) (d : StreamDesc) (g : Nat) (shadow : Bool) : Nat × Nat × Nat × Bool :=
  formOf (layerEnt j.attach (g % d.layerCount)) shadow

/-- A form's state. -/
def formSt (p : StreamSt) (g : Nat) (shadow : Bool) : FormSt :=
  (p.forms.find? fun f => f.g == g && f.shadow == shadow).getD { g := g, shadow := shadow, blocks := [], available := true }

/-- A form's state put in place. -/
def putForm (f : FormSt) (p : StreamSt) : StreamSt :=
  { p with forms := (p.forms.filter fun x => !(x.g == f.g && x.shadow == f.shadow)) ++ [f] }

/-- A block stands under the current generation of every entry it was read under (R260). -/
def blockCurrent (b : FormBlock) (s : State) : Bool := b.gens.all fun x => (entryOf x.1 s).generation == x.2

/-- A form is resident, and clean (R260). -/
def formResident (j : Job) (d : StreamDesc) (p : StreamSt) (g : Nat) (shadow : Bool) (s : State) : Bool :=
  let f := formAt j d g shadow
  let st := formSt p g shadow
  f.2.2.1 != 0 && st.available &&
  (List.range (blockCount f.2.2.1)).all fun i => st.blocks.any fun b => b.index == i && blockCurrent b s
def formClean (j : Job) (d : StreamDesc) (p : StreamSt) (g : Nat) (shadow : Bool) (s : State) : Bool :=
  formResident j d p g shadow s && (formSt p g shadow).blocks.all fun b => !b.bad

/-- Forms in the order in which they are fetched: those whose slots are free or their own, ascending, the shadow first
(R259). -/
def fetchOrder (j : Job) (d : StreamDesc) (p : StreamSt) : List (Nat × Bool) :=
  let first := if isResident d then 0 else cursorOf d p
  let most := if isResident d then d.layerCount else d.windowLayers
  let gs := (upto first most).filter fun g => isResident d || d.passCount == 0 || decide (g < d.passCount * d.layerCount)
  gs.flatMap fun g => (if (formAt j d g true).2.2.1 = 0 then [] else [(g, true)]) ++ [(g, false)]

/-- The form being fetched and its next block: the first block missing of the first form not fetched; a form that is
unavailable is passed by (R259, R261). -/
def fetching (j : Job) (d : StreamDesc) (p : StreamSt) : Option (Nat × Bool × Nat) :=
  (fetchOrder j d p).findSome? fun x =>
    let st := formSt p x.1 x.2
    if !st.available then none
    else
      ((List.range (blockCount (formAt j d x.1 x.2).2.2.1)).find? fun i => !(st.blocks.any fun b => b.index == i)).map fun i =>
        (x.1, x.2, i)

/-- Block i's header of a compressed form, from its copy or as it has landed: none while it has not. -/
def formHeader (j : Job) (d : StreamDesc) (f : Nat × Nat × Nat × Bool) (i : Nat) (s : State) : Option (Option Bytes) :=
  match formBytesAt d.charter f false (f.1 + 64 * i) 64 s with
  | some a => some (stageRead d.charter a 64 s)
  | none => areaSlice j true f.1 (64 * blockCount f.2.2.1) (f.1 + 64 * i) 64 s

/-- What of block i of a form is next to be read from pool: its raw bytes; its index; its payload once its header is known; nothing where the
form's copy holds it (R259). -/
def blockSource (j : Job) (d : StreamDesc) (f : Nat × Nat × Nat × Bool) (i : Nat) (s : State) : Option (Nat × Nat) :=
  let fromPool (payload : Bool) (a : Nat × Nat) : Option (Nat × Nat) :=
    if (formBytesAt d.charter f payload a.1 a.2 s).isSome then none else some a
  if !f.2.2.2 then fromPool false (f.1 + 65536 * i, blockRaw f.2.2.1 i)
  else
    match formHeader j d f i s with
    | none => some (f.1, 64 * blockCount f.2.2.1)
    | some none => none
    | some (some h) => fromPool true (f.2.1 + (headerOf h).offset, fetchBytes h)

/-- Prefetch reads asked: the index of the form first, then its blocks in order, one block at a time, paced to the cap; none
where the form's T1 copy holds them (R259, R260). -/
def streamPlan (key : Nat) (s : State) : State :=
  match jobOf key s with
  | none => s
  | some j => match streamOf? j with
    | none => s
    | some (d, p) =>
      match fetching j d p with
      | none => s
      | some (g, shadow, i) =>
        if j.phase ≠ .running ∨ jobOuts key s ≠ [] then s
        else
          match blockSource j d (formAt j d g shadow) i s with
          | none => s
          | some area =>
            let cap := d.prefetchCap * tau s
            if cap ≠ 0 ∧ p.asked ≠ 0 ∧ cap < p.asked + area.2 then s
            else askPieces key (bookNo .stream key) (2 ^ 60) (2 ^ 60) (pieces256 area.1 area.2)
              (setStream key { p with asked := p.asked + area.2 } s)

/-- End of a slot's packed payloads. -/
def slotEnd (bs : List FormBlock) : Nat := bs.foldl (fun m b => max m (b.offset + roundUp b.stored 64)) 0

/-- Headers of a slot lie before its payloads. -/
def slotHead (f : Nat × Nat × Nat × Bool) : Nat := if f.2.2.2 then 64 * blockCount f.2.2.1 else 0

/-- The header of a copied block with its new payload_offset and CRC (R229). -/
def rewritten (h : Bytes) (offset : Nat) : Bytes :=
  let b := fit 60 (splice' h 16 (le 8 offset))
  b ++ le 4 (crc32c b)

/-- A block lands in its slot (R259, R260): packed, its header rewritten, its generations recorded; a form too large for its
slot stops the schedule (0x0E08). -/
def landBlock (key g : Nat) (shadow : Bool) (i : Nat) (poison : Bool) (header data : Bytes) (gens : List (Nat × Nat))
    (s : State) : State :=
  match jobOf key s with
  | none => s
  | some j => match streamOf? j with
    | none => s
    | some (d, p) =>
      let f := formAt j d g shadow
      let st := formSt p g shadow
      let n := blockRaw f.2.2.1 i
      let obj := match entryHolding d.charter f.1 s with | some e => (entryOf e s).objectId | none => 0
      let malformed := f.2.2.2 && ktcCode header obj i n != 0
      let stored := if !f.2.2.2 then n else if poison || malformed then 0 else fetchBytes header
      let offset := if f.2.2.2 then slotEnd st.blocks else 65536 * i
      let b : FormBlock := { index := i, gens := gens, bad := poison || malformed, stored := stored, offset := offset }
      if slotSize d shadow < slotHead f + offset + (if f.2.2.2 then roundUp stored 64 else stored) then
        stopJob key 0x0E08 (recordReason 0x0E08 s)
      else
        let base := slotAt d g shadow
        let s := setStream key (putForm { st with blocks := st.blocks ++ [b] } p) s
        let s := if f.2.2.2 then (stageWrite d.charter (base + 64 * i) 64 (if poison then none else some (rewritten header offset)) s).2
          else s
        if stored = 0 then s
        else (stageWrite d.charter (base + slotHead f + offset) stored (if poison then none else some (fit stored data)) s).2

/-- PREFETCH_BLOCK_LAND: the next block of the form being fetched lands under a generation; one read under an older
generation is discarded (R259 to R261). -/
def execPrefetchBlockLand (slot layer : Nat) (shadow : Bool) (block generation : Nat) (poison : Bool) (header data : Bytes)
    (s : State) : Ans :=
  onCore s fun s =>
    let key := jobNo slot s
    match jobOf key s with
    | none => s
    | some j => match streamOf? j with
      | none => s
      | some (d, p) =>
        match fetching j d p with
        | none => s
        | some (g, sh, i) =>
          let f := formAt j d g sh
          let n := blockRaw f.2.2.1 i
          let hd := if !f.2.2.2 then some [] else
            match formBytesAt d.charter f false (f.1 + 64 * i) 64 s with
            | some a => stageRead d.charter a 64 s
            | none => if poison then none else some header
          let src := if f.2.2.2 then (f.2.1 + (headerOf (hd.getD [])).offset, fetchBytes (hd.getD [])) else (f.1 + 65536 * i, n)
          let idx := if f.2.2.2 then (entriesOver d.charter (f.1 + 64 * i) 64 s).getD [] else []
          let ents := sorted (idx ++ (entriesOver d.charter src.1 src.2 s).getD [])
          let gens := ents.map fun e => (e, (entryOf e s).generation)
          let here := entryHolding d.charter (if f.2.2.2 then f.1 + 64 * i else src.1) s
          let stale := match here with | some e => (entryOf e s).generation != generation | none => true
          if j.phase ≠ .running ∨ g % d.layerCount ≠ layer ∨ sh ≠ shadow ∨ i ≠ block ∨ stale = true then s
          else
            let s := { s with ing := { s.ing with outst := s.ing.outst.filter fun o => !(o.host == jobHost key && o.opcode == opRead) } }
            let v := match formBytesAt d.charter f f.2.2.2 src.1 src.2 s with
              | some a => stageRead d.charter a src.2 s
              | none => if poison then none else some data
            let s := landBlock key g sh i (hd.isNone || v.isNone) (hd.getD []) (v.getD []) gens s
            match jobOf key s with
            | none => s
            | some j =>
              let used := if f.2.2.2 then pieces256 src.1 src.2 else pieces256 src.1 n
              streamPlan key (setJob (dropLanded used j s) s)

/-- FORM_RETRANSLATE: at the boundary after a generation change a form is translated again; its blocks of older generations
are fetched anew, or it is unavailable (R261). The form whose delivery is under way keeps its slot. -/
def execFormRetranslate (slot layer : Nat) (shadow : Bool) (s : State) : Ans :=
  onCore s fun s =>
    let key := jobNo slot s
    match jobOf key s with
    | none => s
    | some j => match streamOf? j with
      | none => s
      | some (d, p) =>
        let gs := sorted (((fetchOrder j d p).filter fun x => x.2 == shadow && x.1 % d.layerCount == layer).map fun x => x.1)
        let delivering (g : Nat) : Bool := match p.delivery with
          | some x => x.shadow == shadow && formNo d p == g
          | none => false
        let p := (gs.filter fun g => !delivering g).foldl (fun p g =>
          let st := formSt p g shadow
          if formRangeOk d.charter (formAt j d g shadow) s then
            putForm { st with blocks := st.blocks.filter fun b => blockCurrent b s, available := true } p
          else putForm { st with available := false } p) p
        streamPlan key (setStream key p s)

/-! Delivery. -/

/-- Rate of the slowest context of the group, in GB/s (R262). -/
def groupRate (d : StreamDesc) (s : State) : Nat :=
  let lanes := ((groupCtxs d.group s.man.route).getD []).filterMap fun n => (ctxAt n s).map fun c => c.lanes
  lanes.foldl (fun r k => min r (50 * min 4 k)) 200

/-- Delivery time of a form (R262). -/
def deliveryTime (d : StreamDesc) (raw : Nat) (s : State) : Nat := cdiv raw (max 1 (groupRate d s) * tau s) + 1

/-- A stream record handed to the switch core for the schedule's group (R264, R265, R268). -/
def sendRecord' (j : Job) (d : StreamDesc) (g : StreamRec) (s : State) : State :=
  let i : Item := { bytes := strmBytes j.device g, opcode := 0, charter := some d.charter, source := j.device, home := 0 }
  enterGroup homePort d.group s.man.routeEpoch d.tclass 2 0 i (emit (.stream g) s)

/-- A record of the present delivery. -/
def streamRec (j : Job) (d : StreamDesc) (p : StreamSt) (kind : Nat) (x : Delivery) (late poison : Bool) (aux : Nat)
    (data : Bytes) (s : State) : StreamRec :=
  let f := formAt j d (formNo d p) x.shadow
  let obj := match entryHolding d.charter f.1 s with | some e => (entryOf e s).objectId | none => 0
  { kind := kind, jobSlot := j.slot, attempt := j.attempt, pass := p.pass % 2 ^ 32, layer := p.layer, shadow := x.shadow,
    late := late, poison := poison, aux := aux, objectId := obj, data := data }

/-- The event fields of a schedule. -/
def streamFields (j : Job) (d : StreamDesc) (p : StreamSt) : List (Nat × Nat) :=
  [(evCharter, d.charter), (evSlot, j.slot), (evJobDevice, j.device), (evDetail, p.pass * 4096 + p.layer)]

/-- A delivery opens (R263, R265). -/
def openDelivery (key : Nat) (shadow : Bool) (deadline : Nat) (s : State) : State :=
  match jobOf key s with
  | none => s
  | some j => match streamOf? j with
    | none => s
    | some (d, p) =>
      let x : Delivery := { shadow := shadow, opened := s.tide.count, deadline := deadline, poison := false, bytes := [], poisonAt := none }
      let s := setStream key { p with delivery := some x } s
      let s := sendRecord' j d (streamRec j d p 1 x false false (formAt j d (formNo d p) shadow).2.2.1 [] s) s
      if shadow then raise 0x0E06 (streamFields j d p) s else s

/-- The delivery under way ended by ABANDON (R267, R269). -/
def abandonDelivery (key code : Nat) (s : State) : State :=
  match jobOf key s with
  | none => s
  | some j => match streamOf? j with
    | none => s
    | some (d, p) => match p.delivery with
      | none => s
      | some x =>
        sendRecord' j d (streamRec j d p 4 x false false code [] s) (setStream key { p with delivery := none, abandoned := p.abandoned + 1 } s)

/-- Deadline of the layer to deliver. -/
def deadlineOf (j : Job) (d : StreamDesc) (p : StreamSt) : Nat :=
  d.startTide + p.pass * d.passTides + (layerEnt j.attach p.layer).deadline

/-- The passes have all run. -/
def passesDone (d : StreamDesc) (p : StreamSt) : Bool := d.passCount != 0 && decide (d.passCount ≤ p.pass)

/-- LAYER_CHOICE (R261 to R263). -/
def execLayerChoice (slot : Nat) (s : State) : Ans :=
  onCore s fun s =>
    let key := jobNo slot s
    match jobOf key s with
    | none => s
    | some j => match streamOf? j with
      | none => s
      | some (d, p) =>
        let b := s.tide.count
        let dl := deadlineOf j d p
        let g := formNo d p
        let ent := layerEnt j.attach p.layer
        let tf := deliveryTime d ent.fullRaw s
        let ts := deliveryTime d ent.shadowRaw s
        let full := formResident j d p g false s
        let fullClean := formClean j d p g false s
        let shadow := formResident j d p g true s
        let shadowClean := formClean j d p g true s
        let reg := registered d.charter ent s
        let lost := !(formSt p g false).available && (ent.shadowRaw == 0 || !(formSt p g true).available)
        if j.phase ≠ .running ∨ p.delivery.isSome = true ∨ passesDone d p = true ∨ b + d.leadTides < dl ∨ b < p.earliest then s
        else if lost ∧ dl ≤ b then stopJob key 0x0E07 (recordReason 0x0E07 s)
        else if fullClean ∧ b + tf ≤ dl then openDelivery key false dl s
        else if b + 1 + tf ≤ dl then s
        else if shadowClean ∧ b + ts ≤ dl then openDelivery key true dl s
        else if reg ∧ b + 1 + ts ≤ dl then s
        else if fullClean then openDelivery key false dl s
        else if shadowClean then openDelivery key true dl s
        else if full then openDelivery key false dl s
        else if shadow then openDelivery key true dl s
        else s

/-- Block i of the form under delivery as its slot holds it: none where it is poison. -/
def slotBlock (d : StreamDesc) (f : Nat × Nat × Nat × Bool) (g : Nat) (shadow : Bool) (st : FormSt) (obj i : Nat)
    (s : State) : Option Bytes :=
  let base := slotAt d g shadow
  let n := blockRaw f.2.2.1 i
  match st.blocks.find? fun b => b.index == i with
  | none => none
  | some b =>
    if b.bad then none
    else if !f.2.2.2 then stageRead d.charter (base + 65536 * i) n s
    else
      match stageRead d.charter (base + 64 * i) 64 s, stageRead d.charter (base + slotHead f + b.offset) b.stored s with
      | some h, some x => let r := decodeBlock h x obj i n; if r.1 = 0 then some r.2 else none
      | _, _ => none

/-- Records of at most 4,096 bytes for a block's raw bytes (R264, R265). -/
def dataRecords (b : Bytes) (off : Nat) : List (Nat × Bytes) :=
  (List.range (cdiv b.length 4096)).map fun k => (off + 4096 * k, (b.drop (4096 * k)).take 4096)

/-- The codec engine that a compressed form's blocks pass through, the one bound to the schedule (R241, R258). -/
def streamCodec (key : Nat) (s : State) : Option Nat := (boundCodecs key s).head?

/-- A block of the delivery leaves as DATA; a poisoned one as zero bytes marked poison (R265). At most 200 GB/s for each
schedule; a compressed block takes its emit cycles of the bound codec engine, and waits while none is bound (R240, R241). -/
def streamSlice (key : Nat) (w : Work) (s : State) : State :=
  match jobOf key s with
  | none => s
  | some j => match streamOf? j with
    | none => s
    | some (d, p) =>
      match w, p.delivery with
      | .piece off bytes, some x =>
        let g := formNo d p
        let f := formAt j d g x.shadow
        let i := off / 65536
        let n := blockRaw f.2.2.1 i
        let codec := if f.2.2.2 then streamCodec key s else none
        let ready := !f.2.2.2 || (match codec with | some e => mayUse .codec e (emitCost n) s | none => false)
        if off ≠ x.bytes.length ∨ f.2.2.1 ≤ off ∨ bytes ≠ n ∨ mayUse .stream key bytes s = false ∨ ready = false then s
        else
          let s := useCycles .stream key bytes s
          let s := match codec with | some e => useCycles .codec e (emitCost n) s | none => s
          let obj := match entryHolding d.charter f.1 s with | some e => (entryOf e s).objectId | none => 0
          let v := slotBlock d f g x.shadow (formSt p g x.shadow) obj i s
          let data := v.getD (zeros n)
          let s := (dataRecords data off).foldl (fun s r =>
            sendRecord' j d (streamRec j d p 2 x false v.isNone r.1 r.2 s) s) s
          setStream key { p with delivery := some { x with
            bytes := x.bytes ++ data, poison := x.poison || v.isNone,
            poisonAt := if x.poisonAt.isSome || v.isSome then x.poisonAt else some s.tide.count } } s
      | _, _ => s

/-- DELIVERY_CLOSE: CLOSE sent, the delivery recorded, the next layer's turn; its slots free where the schedule is not
resident (R259, R263, R265, R267, R269). -/
def execDeliveryClose (slot : Nat) (s : State) : Ans :=
  onCore s fun s =>
    let key := jobNo slot s
    match jobOf key s with
    | none => s
    | some j => match streamOf? j with
      | none => s
      | some (d, p) => match p.delivery with
        | none => s
        | some x =>
          if x.bytes.length ≠ (formAt j d (formNo d p) x.shadow).2.2.1 then s
          else
            let late := decide (x.deadline < s.tide.count)
            let s := sendRecord' j d (streamRec j d p 3 x late x.poison (crc32c x.bytes) [] s) s
            let s := if late then raise 0x0E05 (streamFields j d p) s else s
            let next := if p.layer + 1 = d.layerCount then (p.pass + 1, 0) else (p.pass, p.layer + 1)
            let p' := { p with pass := next.1, layer := next.2, delivery := none, earliest := s.tide.count + 1,
                               full := p.full + b2n !x.shadow, shadows := p.shadows + b2n x.shadow, late := p.late + b2n late,
                               poisoned := p.poisoned + b2n x.poison }
            let p' := { p' with forms := p'.forms.filter fun f => isResident d || decide (cursorOf d p' ≤ f.g) }
            let s := logProgress 2 (p.pass % 2 ^ 32 * 2 ^ 28 + p.layer * 2 ^ 16) { j with st := .stream p' } s
            streamPlan key s

/-- STREAM_ABANDONED: at the boundary after a block of a full delivery was found poisoned, it gives way to a shadow that is clean and fits
(R267). -/
def execStreamAbandoned (slot : Nat) (s : State) : Ans :=
  onCore s fun s =>
    let key := jobNo slot s
    match jobOf key s with
    | none => s
    | some j => match streamOf? j with
      | none => s
      | some (d, p) => match p.delivery with
        | none => s
        | some x =>
          let ent := layerEnt j.attach p.layer
          if j.phase ≠ .running ∨ x.shadow = true ∨ x.poisonAt.map (fun t => t + 1) ≠ some s.tide.count ∨ formClean j d p (formNo d p) true s = false ∨
              x.deadline < s.tide.count + deliveryTime d ent.shadowRaw s then s
          else
            let s := raise 0x0E0A (streamFields j d p) (abandonDelivery key 0x0E0A s)
            openDelivery key true x.deadline s

/-- STREAM_STOP: the schedule stops at the next boundary with 0x0E0B (R269). A slot that holds no active schedule is refused
with 0x0E01 (DESIGN CHOICE, log 14). -/
def execStreamStop (h : CmdHdr) (slot : Nat) (s : State) : Ans :=
  let here (s : State) : Bool := match jobOf (jobNo slot s) s with
    | some j => jobLive j && j.phase != .offered && (streamOf? j).isSome
    | none => false
  immediate h 0x1402 (fun s => if here s then 0 else 0x0E01)
    (fun s => match jobOf (jobNo slot s) s with
      | some j => (match j.phase with
        | .stopping _ => s
        | _ => setJob { j with phase := .stopping 0x0E0B } s)
      | none => s)
    (fun _ => []) [slot] s

/-- A schedule's progress at the start of an attempt: its slots empty, its position after the last recorded delivery (R269). -/
def streamFresh (j : Job) (d : StreamDesc) (p : StreamSt) : StreamSt :=
  let closed := (j.log.filter fun i => i / 2 ^ 60 == 2).map fun i => (bits i 59 28, bits i 27 16)
  let after (x : Nat × Nat) : Nat × Nat := if x.2 + 1 = d.layerCount then (x.1 + 1, 0) else (x.1, x.2 + 1)
  let at_ := closed.foldl (fun m x => let y := after x; if m.1 < y.1 ∨ (m.1 = y.1 ∧ m.2 < y.2) then y else m) (p.pass, p.layer)
  { p with pass := at_.1, layer := at_.2, forms := [], delivery := none, earliest := 0, asked := 0 }

/-- A schedule's next reads at a boundary, its tide's reads counted afresh (R259, R260). -/
def streamTide (key : Nat) (s : State) : State :=
  match jobOf key s with
  | none => s
  | some j => match streamOf? j with
    | none => s
    | some (_, p) => streamPlan key (setStream key { p with asked := 0 } s)

/-- Reason of a schedule that ran its passes (R267). -/
def streamReason (p : StreamSt) : Nat := if p.poisoned = 0 then 0 else 0x0E09

/-- A schedule's result header (R270). -/
def streamResult (j : Job) (p : StreamSt) (reason : Nat) : Bytes :=
  packBytes [(2, reason), (1, j.attempts), (1, 0), (4, p.pass), (4, p.full), (4, p.shadows), (4, p.late), (4, p.poisoned),
    (4, p.abandoned), (4, 0)]

end Sys2Proof.Machine
end

