-- ==== Sys2Proof/Machine/Plan.lean ====
section
/-! DEFINITION. Tide slices (R34 to R38, R152, R171, R177, R197, R221, R240, R241): the work that is ready, its order, the plan an engine makes
at a boundary, and the codec engines bound to streams and Customs jobs. -/

namespace Sys2Proof.Machine
open Sys2Proof

/-! Work that is ready. -/

/-- Ready work of a job on engines of a kind, each with the engine it falls to. Codec jobs fall to the engines that are not bound. -/
def jobReady (k : EngineKind) (j : Job) (s : State) : List (Nat × Work) :=
  match k with
  | .crane => craneReady j s ++ (if j.phase = .running then bagReady j s else [])
  | .stevedore => if j.phase = .running then stevReady j s else []
  | .customs => custReady j s
  | .codec => (codecReady j s).filterMap fun x => (sharedEngine x.1 s).map fun e => (e, x.2)
  | .stream => []

/-- Jobs in the order in which R38 takes those whose work became ready in tide t: by slot from t mod 4,096 on, a job that another device
runs behind a job of this one with its slot (DESIGN CHOICE, log 23). -/
def tieOrder (t : Nat) (jobs : List Job) : List Job :=
  let rank (j : Job) : Nat := 65 * ((j.slot + 4096 * (t / 4096 + 1) - t) % 4096) + (if j.guest.isNone then 0 else 1 + j.device)
  jobs.foldl (fun l j => (l.takeWhile fun x => decide (rank x ≤ rank j)) ++ j :: l.dropWhile fun x => decide (rank x ≤ rank j)) []

/-- The codec's requesters are the 4,096 job slots and behind them the 257 port contexts (R241). -/
def codecParties : Nat := 4096 + 257

/-- Link frames of the contexts that R38 takes before every job in tide t, and behind every job: the contexts are numbered after the
slots (R241). -/
def tieFrames (t : Nat) (s : State) : List (Nat × Work) × List (Nat × Work) :=
  let l := frameReady s
  let i := t % codecParties
  (l.filter fun x => decide (4096 ≤ i ∧ i ≤ 4096 + x.1), l.filter fun x => decide (i < 4096 ∨ 4096 + x.1 < i))

/-- Ready work of a kind with its engines, in the order of R38 for what became ready in tide t. Where a codec tie begins inside the slots,
the jobs below that slot come after the frames. -/
def kindReady (k : EngineKind) (t : Nat) (s : State) : List (Nat × Task) :=
  let of (js : List Job) : List (Nat × Task) := js.flatMap fun j => (jobReady k j s).map fun x => (x.1, { key := keyOf j, work := x.2 })
  match k with
  | .codec =>
    let i := t % codecParties
    let frames (l : List (Nat × Work)) : List (Nat × Task) :=
      l.filterMap fun x => (sharedEngine x.1 s).map fun e => (e, { key := 0, work := x.2 })
    let fs := tieFrames t s
    let js := tieOrder 0 s.acc.jobs
    if 4096 ≤ i then frames fs.1 ++ of js ++ frames fs.2
    else of (js.filter fun j => decide (i ≤ j.slot)) ++ frames fs.2 ++ of (js.filter fun j => decide (j.slot < i))
  | _ => of (tieOrder t s.acc.jobs)

/-- An engine's ready work brought up to date: what is ready still keeps its place, and what has become ready goes behind it
(R34, R38). -/
def refreshReady (old now : List Task) : List Task :=
  let kept := old.flatMap fun x => now.filterMap (meetTask x)
  kept ++ now.filterMap (beyondTasks kept)

/-! What work costs. -/

/-- What a task takes: cycles x 64 of the array, bytes ingested, cycles x 64 of the predicates, alike where an engine has one pipeline; pool
reads; its program, and the program's bytes (R152, R176, R196, R221, R240). -/
structure TaskCost where
  array : Nat
  ingest : Nat
  terms : Nat
  reads : Nat
  program : Option Nat
  bytes : Nat
  deriving DecidableEq, Repr

/-- A task of some cycles of a single pipeline. -/
def serialCost (n : Nat) : TaskCost := { array := 64 * n, ingest := 512 * n, terms := 64 * n, reads := 0, program := none, bytes := 0 }

/-- What a task takes on an engine. -/
def taskCost (k : EngineKind) (e : Nat) (t : Task) (s : State) : TaskCost :=
  match k, jobOf t.key s with
  | .crane, some j => (match t.work, stevOf? j with
    | .bag b, some (d, _) => serialCost (bagCost d (bagEnd d b s - bagStart d b s))
    | w, _ => let c := craneCost j w s; { serialCost c.1 with program := c.2.1, bytes := c.2.2 })
  | .stevedore, some j => { serialCost (stevCost j t.work) with reads := stevReads j e t.work s }
  | .customs, some j =>
    let c := custStreams j e t.work s
    let l := custLoad j t.work s
    { array := c.1, ingest := c.2.1, terms := c.2.2, reads := 0, program := l.1, bytes := l.2 }
  | .codec, j => (match t.work, j with
    | .block i, some j => serialCost (blockCost j (.block i))
    | w, _ => serialCost (frameCosts w s).sum)
  | _, _ => serialCost 0

/-- Cycles of three streams that run side by side (R196). -/
def streamCycles (array ingest terms : Nat) : Nat := max (cdiv array 64) (max (cdiv ingest 512) (cdiv terms 64))

/-! A plan. -/

/-- A plan as it is made. -/
structure Plan where
  tasks : List Task
  array : Nat
  ingest : Nat
  terms : Nat
  reads : Nat
  program : Option Nat
  changed : Bool
  full : Bool
  deriving DecidableEq, Repr

/-- Nothing planned yet on an engine that holds a program. -/
def noPlan (program : Option Nat) : Plan :=
  { tasks := [], array := 0, ingest := 0, terms := 0, reads := 0, program := program, changed := false, full := false }

/-- A plan with a task behind it: what it takes is added, and its program loaded where the engine does not hold it (R221). -/
def withTask (k : EngineKind) (e : Nat) (p : Plan) (t : Task) (s : State) : Plan :=
  let c := taskCost k e t s
  let load := if c.program.isNone || c.program == p.program then 0 else cdiv c.bytes 512
  { p with tasks := p.tasks ++ [t], array := p.array + c.array + 64 * load, ingest := p.ingest + c.ingest + 512 * load,
           terms := p.terms + c.terms + 64 * load, reads := p.reads + c.reads,
           program := if c.program.isNone then p.program else c.program,
           changed := p.changed || (c.program.isSome && c.program != p.program) }

/-- A plan stays within a budget of cycles and a number of free pool reads. -/
def withinPlan (budget room : Nat) (p : Plan) : Bool :=
  decide (streamCycles p.array p.ingest p.terms ≤ budget ∧ p.reads ≤ room)

/-- The most units, up to n, that fit; fewer fit where more do. -/
def mostUnits (fits : Nat → Bool) (n : Nat) : Nat :=
  (List.range 48).foldl (fun m i => let x := m + 2 ^ (47 - i); if x ≤ n ∧ fits x = true then x else m) 0

/-- Two tasks of a codec engine belong to one user: a job, or a context's frames (R241). -/
def sameUser (x y : Task) : Bool :=
  match x.work, y.work with
  | .linkFrame a _ _, .linkFrame b _ _ => a == b
  | .linkFrame a _ _, .frameDecode b _ _ => a == b
  | .frameDecode a _ _, .linkFrame b _ _ => a == b
  | .frameDecode a _ _, .frameDecode b _ _ => a == b
  | .block _, .block _ => x.key == y.key
  | _, _ => false

/-- The next task of the ready work planned, whole or as much of its run as fits. The first that does not fit, would change the program a
second time, or belongs to another user of a codec engine closes the plan (R34, R197, R221, R241; DESIGN CHOICE, log 23). -/
def planTask (k : EngineKind) (e budget room : Nat) (s : State) (p : Plan) (t : Task) : Plan :=
  if p.full then p
  else if k = .codec ∧ (p.tasks.all fun x => sameUser x t) = false then { p with full := true }
  else
    let c := taskCost k e t s
    if c.program.isSome ∧ c.program ≠ p.program ∧ p.changed = true then { p with full := true }
    else
      match runOf t.work with
      | none =>
        let q := withTask k e p t s
        if withinPlan budget room q then q else { p with full := true }
      | some (a, n) =>
        let part (m : Nat) : Plan := withTask k e p { t with work := withRun t.work a m } s
        let m := mostUnits (fun m => withinPlan budget room (part m)) n
        if m = 0 then { p with full := true } else { part m with full := decide (m < n) }

/-- The first unit of a task. -/
def firstUnit (t : Task) : Task :=
  match runOf t.work with
  | none => t
  | some (a, _) => { t with work := withRun t.work a 1 }

/-- Pool reads that an engine of a kind may still issue (R177). -/
def readRoom (k : EngineKind) (e : Nat) (s : State) : Nat := if k = .stevedore then 2048 - engineReads (bookNo k e) s else 2 ^ 60

/-- The slice an engine plans at a boundary: its ready work in order, as much as its budget holds; or, where the first unit alone costs more
than the budget, that unit in a long slice of ⌈(cost + depth + switch) / cycles⌉ tides (R34, R35). -/
def newPlan (k : EngineKind) (e : Nat) (b : EngineSt) (s : State) : EngineSt :=
  if s.hm.frozen then { b with plan := [], long := none }
  else
    let budget := budgetOf k e s
    let p := b.ready.foldl (planTask k e budget (readRoom k e s) s) (noPlan b.program)
    match p.tasks, b.ready with
    | [], t :: _ =>
      let q := withTask k e (noPlan b.program) (firstUnit t) s
      let cost := streamCycles q.array q.ingest q.terms
      if budget < cost ∧ q.reads ≤ readRoom k e s then
        { b with plan := [firstUnit t], long := some (s.tide.count + cdiv (cost + engineCost k) (cyclesPerTide k s.tide.budgetCode)) }
      else { b with plan := [], long := none }
    | ts, _ => { b with plan := ts, long := none }

/-- An engine's boundary. A slice not yet retired runs on: a long one until its boundary, a frozen engine's without an overrun; any other is late,
the tide's plan is skipped, and its overrun is raised once (R34, R36, R424). An engine with nothing under way plans anew. -/
def planEngine (k : EngineKind) (e : Nat) (now others : List Task) (s : State) : State :=
  let b := bookOf k e s
  let left := b.plan.flatMap fun x => (now ++ others).filterMap (meetTask x)
  let b := { b with ready := refreshReady b.ready now, plan := left }
  let b' :=
    if left = [] then newPlan k e { b with skipped := false } s
    else if s.hm.frozen then b
    else
      match b.long with
      | some n => if s.tide.count < n then b else { b with skipped := true, late := b.late || !b.skipped, long := none }
      | none => { b with skipped := true, late := b.late || !b.skipped }
  if b' = bookOf k e s then s else setBook k e b' s

/-- Work that other engines of a kind have under way. -/
def underWay (k : EngineKind) (e : Nat) (s : State) : List Task :=
  ((List.range (kindEngines k)).filter fun x => x != e).flatMap fun x => (bookOf k x s).plan

/-- The engines of a kind plan their tide: the tie count is that of the tide just ended, in which the work became ready (R34, R38). What a codec
engine still has under way is no other's to plan, however the shared engines change. -/
def planKind (k : EngineKind) (s : State) : State :=
  let all := kindReady k (s.tide.count - 1) s
  (List.range (kindEngines k)).foldl (fun s e =>
    let mine := (all.filter fun x => x.1 == e).map fun x => x.2
    let others := (all.filter fun x => x.1 != e).map fun x => x.2
    let mine := if k = .codec then mine.filterMap (beyondTasks (underWay k e s)) else mine
    planEngine k e mine (if k = .codec then others else []) s) s

/-! Codec engines bound to jobs (R241). -/

/-- Codec engines that a job wants bound: one for a schedule with a compressed form, one for each engine of a Customs job that reads a
compressed store (R197, R241, R258). -/
def codecsWanted (j : Job) (s : State) : Nat :=
  if !jobLive j || j.phase == .offered then 0
  else
    match j.desc with
    | .stream d => b2n ((List.range d.layerCount).any fun k => fld j.attach (64 * k + 44) 1 != 0)
    | .cust d =>
      let coded (which : Nat) : Bool := let x := storeOf d j.attach which; storeCoded x.1 d.charter x.2.1 s
      if d.op ≠ 3 ∧ (coded 0 || (d.op == 2 && bit d.flags 0 && coded 1)) = true then d.engines else 0
    | _ => 0

/-- Bound codec engines at a boundary: those whose job wants them no longer are released, and jobs that want more take free ones with nothing
under way, in the order of R38; who finds none waits (R241). -/
def bindCodecs (s : State) : State :=
  let wants (key : Nat) : Nat := match jobOf key s with | some j => codecsWanted j s | none => 0
  let s := (List.range 16).foldl (fun s e => match (bookOf .codec e s).bound with
    | some key => if wants key = 0 then setBook .codec e { bookOf .codec e s with bound := none } s else s
    | none => s) s
  (tieOrder (s.tide.count - 1) s.acc.jobs).foldl (fun s j =>
    let free := (List.range 16).filter fun e => let b := bookOf .codec e s; b.bound.isNone && b.plan == []
    (free.take (wants (keyOf j) - (boundCodecs (keyOf j) s).length)).foldl (fun s e =>
      setBook .codec e { bookOf .codec e s with bound := some (keyOf j) } s) s) s

/-- What the engines used outside their plans is counted afresh (R35, R415). -/
def freshBooks (s : State) : State :=
  { s with engines := s.engines.map fun (p : Nat × EngineSt) => (p.1, { p.2 with used := 0, served := none }) }

/-- Every engine plans its tide (R34 to R36, R38, R241). -/
def planTide (s : State) : State := planKind .codec (planKind .customs (planKind .stevedore (planKind .crane s)))

/-! Retiring. -/

/-- A task can retire now: it is ready, from its first unit on, and on a Crane its traffic and output have room (R150, R151). -/
def mayFinish (k : EngineKind) (t : Task) (s : State) : Bool :=
  let ready := match jobOf t.key s, t.work with
    | _, .linkFrame _ _ _ => frameReady s
    | _, .frameDecode _ _ _ => frameReady s
    | some j, _ => jobReady k j s
    | none, _ => []
  ready.any (fun x => startsTask t { key := t.key, work := x.2 }) &&
  (match k, jobOf t.key s, t.work with
    | .crane, some j, .bag b => bagMay j b s
    | .crane, some j, w => craneMay j w s
    | _, _, _ => true)

/-- A task is the next of an engine's plan that can retire (R34). -/
def isNext (k : EngineKind) (e : Nat) (t : Task) (s : State) : Bool :=
  mayFinish k t s && (match (bookOf k e s).plan.find? fun x => mayFinish k (firstUnit x) s with
    | some x => startsTask t x
    | none => false)

/-- What a unit of work does when it retires. -/
def unitDone (k : EngineKind) (e key : Nat) (w : Work) (s : State) : State :=
  match k, w with
  | .crane, .bag b => sumBag key b s
  | .crane, w => craneUnit key w s
  | .stevedore, w => stevUnit e key w s
  | .customs, w => custUnit e key w s
  | .codec, w => codecUnit e key w s
  | .stream, _ => s

end Sys2Proof.Machine
end

