-- ==== Sys2Proof/Machine/Slice.lean ====
section
/-! DEFINITION. Attempts, slices, reads and ends of every kind of job (R34, R83 to R85, R148, R164, R175, R360 to R365). -/

namespace Sys2Proof.Machine
open Sys2Proof

/-! What each kind of job gives. -/

/-- A job's progress at the start of an attempt (R157, R269, R362). -/
def freshSt (j : Job) : JobSt :=
  match j.desc, j.st with
  | .stream d, .stream p => .stream (streamFresh j d p)
  | _, .crane p => .crane (craneFresh p)
  | _, .stev _ => .stev stevFresh
  | _, .cust _ => .cust custFresh
  | _, .codec _ => .codec codecFresh
  | _, .copy _ => .copy copyFresh
  | _, .stream p => .stream p

/-- The pool inputs a job acquires (R84). -/
def jobInputs (j : Job) (s : State) : List (Nat × Nat) :=
  match j.desc with
  | .stev d => stevInputs d s
  | .cust d => custInputs d s
  | .codec d => codecInputs d s
  | .copy d => copyInputs (.copy d)
  | .place d => copyInputs (.place d)
  | _ => []

/-- The homes of a job's pool outputs (R85, R148, R174, R199, R244). -/
def jobHomes (j : Job) (s : State) : List Nat :=
  match j.desc with
  | .crane d => if d.collective = 3 then areaHomes d.charter d.sealVa 8 s else []
  | .stev d => stevHomes d s
  | .cust d => custHomes d s
  | .codec d => codecHomes d s
  | .copy _ => copyHomes j s
  | _ => []

/-- The seals of an attempt: home and address, and their value (R148, R174, R199, R244, R415). -/
def jobSeals (j : Job) (s : State) : List (Nat × Nat) × Nat :=
  match j.desc with
  | .crane d => ((jobHomes j s).map fun h => (h, d.sealVa), d.sealValue)
  | .stev d => (stevSeals j d, d.sealValue)
  | .cust d => ((jobHomes j s).map fun h => (h, d.sealVa), d.sealValue)
  | .codec d => ((jobHomes j s).map fun h => (h, d.sealVa), d.sealValue)
  | .copy d => ((jobHomes j s).map fun h => (h, d.sealVa), d.sealValue)
  | _ => ([], 0)

/-- All the work of the attempt has been done and its outputs issued. -/
def workDone (j : Job) (s : State) : Bool :=
  match j.desc, j.st with
  | .crane d, .crane p => craneDone d p
  | .stev d, .stev p => stevWritten j d p s
  | .cust _, .cust p => custWritten p
  | .codec d, .codec p => codecWritten d p
  | .stream d, .stream p => passesDone d p
  | d, .copy p => copyWritten d p
  | _, _ => false

/-- The reason of a job that ran to its end. -/
def endReason (j : Job) : Nat :=
  match j.st with
  | .crane p => craneReason p
  | .stev p => stevReason p
  | .cust p => custReason p
  | .codec p => codecReason p
  | .stream p => streamReason p
  | .copy _ => 0

/-- A job's result header (R161, R180, R203, R245, R270, R415). -/
def resultHeader (j : Job) (reason : Nat) (s : State) : Bytes :=
  match j.desc, j.st with
  | .crane d, .crane p => craneResult j d p reason s
  | .stev d, .stev p => stevResult j d p reason s
  | .cust d, .cust p => custResult j d p reason s
  | .codec d, .codec p => codecResult j d p reason s
  | _, .stream p => streamResult j p reason
  | _, .copy p => copyResult j p reason s
  | _, _ => fit 32 (le 2 reason)

/-- Reads a job asks ahead. -/
def jobPlan (key : Nat) (s : State) : State :=
  match jobOf key s with
  | none => s
  | some j => match j.desc with
    | .crane _ => s
    | .stev _ => stevPlan key s
    | .cust _ => custPlan key s
    | .codec _ => codecPlan key s
    | .stream _ => streamPlan key s
    | .copy _ => copyPlan key s
    | .place _ => copyPlan key s

/-- What a landing lets a job go on with. -/
def jobLand (key : Nat) (s : State) : State :=
  match jobOf key s with
  | none => s
  | some j => match j.desc with
    | .crane _ => recordWritten key s
    | .stev _ => stevPlan key (stevLand key s)
    | .codec _ => codecLand key s
    | _ => jobPlan key s

/-- The seals sent once the work is done and every write answered (R148, R174, R199, R244). -/
def trySeals (key : Nat) (s : State) : State :=
  match jobOf key s with
  | none => s
  | some j =>
    if j.phase = .running ∧ j.guest.isNone = true ∧ workDone j s = true then
      let x := jobSeals j s
      sendSeals key x.2 (x.1.filter fun h => !j.sealed.contains h.1) s
    else s

/-- A job is complete: its work done, every seal answered, no request of the attempt outstanding (R362, R365). -/
def jobDone (j : Job) (s : State) : Bool :=
  let seals := (jobSeals j s).1
  decide (j.phase = .running) && j.guest.isNone && workDone j s && seals.all (fun h => j.sealed.contains h.1) &&
  (writesOut j s == []) && ((streamOf? j).isSome || readsOut (keyOf j) s == [])

/-! Attempts. -/

/-- Is a job the next of its queue to begin: the COMPLETE of every earlier one is acknowledged (R360)? -/
def queueTurn (j : Job) (s : State) : Bool :=
  !(s.acc.jobs.any fun k => k.guest.isNone && sameQueue k.hdr j.hdr k.device j.device && decide (k.hdr.seq < j.hdr.seq) &&
    (k.phase != .posted && k.phase != .delivered && k.phase != .retiring))

/-- The job's ACCEPT record awaits its acknowledgement by a buddy: an adopted job begins only after it (R372). -/
def acceptSent (j : Job) (s : State) : Bool :=
  s.acc.tx.any fun t => match t.record with
    | some r => r.kind == 1 && ofJob r j
    | none => false

/-- Seed of an attempt's stochastic rounding: the descriptor's, or one drawn (R137). -/
def attemptSeed (d : JobDesc) (s : State) : Nat × State :=
  let x := match d with
    | .crane d => d.seed
    | .stev d => d.seed
    | _ => 1
  if x = 0 then draw s else (x, s)

/-- An attempt begins: inputs acquired, output homes fenced, calls and reads sent (R84, R85, R142, R361). -/
def beginAttempt (key : Nat) (s : State) : State :=
  match jobOf key s with
  | none => s
  | some j =>
    let sd := attemptSeed j.desc s
    let s := sd.2
    let homes := sorted ((jobHomes j s).filter fun h => !j.sealed.contains h)
    let j := { j with phase := .running, startTide := s.tide.count, firstTide := some (j.firstTide.getD s.tide.count),
                      seed := sd.1, awaitFence := homes, fenced := j.fenced, sent := [], sealsSent := false, landing := [], badWrites := [],
                      st := freshSt j }
    let s := setJob j s
    let s := (jobInputs j s).foldl (fun s a => acquireArea (charterOf j) a.1 a.2 s) s
    let s := homes.foldl (fun s h => jobFence key h s) s
    let s := match j.desc with
      | .crane _ => craneBegin key s
      | .place d => placeBegin key d s
      | _ => s
    jobPlan key s

/-- This device's part of another device's job is at an end: the device that runs it is told the code, or 0 for a new attempt. With a
code the job stays, inert, until that device's DONE for the members here (R155; log 17). -/
def leaveJob (key reason : Nat) (s : State) : State :=
  match jobOf key s with
  | none => s
  | some j => match j.guest with
    | none => s
    | some v =>
      let s := supersede key (segToDevice v (charterOf j) (segmentOf j 6 0 reason 0 0 false [] s) s)
      if reason = 0 then dropJob key s
      else match jobOf key s with
        | none => s
        | some j => setJob { j with phase := .delivered } s

/-- A job ends with a code: DONE to its members, a delivery abandoned, a placement's copy settled; COMPLETE is logged (R155,
R252, R269, R365). -/
def endJob (key reason : Nat) (s : State) : State :=
  match jobOf key s with
  | none => s
  | some j =>
    if j.guest.isSome then leaveJob key reason s
    else
      let s := supersede key (sendDones j reason s)
      let s := abandonDelivery key reason s
      let s := match j.desc with | .place _ => placeEnd key reason s | _ => s
      match jobOf key s with
      | none => s
      | some j => completeJob key reason (resultHeader j reason s) s

/-- A job whose turn has come takes its next attempt number: ATTEMPT is logged, and the attempt begins once the buddy has it;
after 127 attempts the job ends with 0x130A (R360, R361). -/
def startAttempt (key : Nat) (s : State) : State :=
  match jobOf key s with
  | none => s
  | some j =>
    if j.phase ≠ .accepted then s
    else if charterState (charterOf j) s = 2 then endJob key 0x1003 (countRemoval (charterOf j) 0 0 1 s)
    else if queueTurn j s = false ∨ acceptSent j s = true then s
    else if 127 ≤ j.attempts then endJob key 0x130A s
    else
      let j := { j with phase := .starting, attempt := nextAttempt j.attempt, attempts := j.attempts + 1 }
      let s := logJob 2 [] true j (setJob j s)
      match s.acc.buddy with
      | none => beginAttempt key s
      | some _ => s

/-- ATTEMPT_START (R140, R142, R360, R361). -/
def execAttemptStart (slot : Nat) (join : Option CraneJoin) (s : State) : Ans :=
  onCore s fun s => match join with
    | none => startAttempt (jobNo slot s) s
    | some x => joinJob x s

/-- A job is to run again under a new attempt (R58, R362). What its attempt has outstanding is superseded. A part of another device's
job that has ended keeps its place until that device's DONE (R155). -/
def reissueJob (key : Nat) (s : State) : State :=
  match jobOf key s with
  | none => s
  | some j =>
    if j.guest.isSome then (if j.phase = .delivered then s else dropJob key (supersede key s))
    else
      match j.phase with
      | .starting => setJob { j with phase := .accepted } s
      | .running => supersede key (setJob { j with phase := .accepted } s)
      | .stopping _ => s
      | _ => s

/-! Slices and reads. -/

/-- RESULT_RECEIVE (R146, R150, R155, R157, R158). -/
def execResultReceive (g : Segment) (s : State) : Ans :=
  onCore s fun s => trySeals (jobKey g.jobDevice g.jobSlot) (takeFromDevice g s)

/-- SLICE_RETIRE (R34, R152, R168, R176, R195, R240, R415): a natural unit of an engine's slice, or a run of them, retires. It must be the next
of the engine's plan; of a stream or copy job, the next of its pieces. A slice planned before a freeze still retires (log 8). -/
def execSliceRetire (kind : EngineKind) (engine slot : Nat) (w : Work) (bad corrected : List Nat) (s : State) : Ans :=
  onCore s fun s =>
    let s := stageErrors bad corrected s
    match kind with
    | .stream =>
      let key := jobNo slot s
      trySeals key (match jobOf key s with
        | some j => (match j.desc with
          | .stream _ => streamSlice key w s
          | _ => copySlice key w s)
        | none => s)
    | k =>
      let frame := match w with | .linkFrame _ _ _ => true | .frameDecode _ _ _ => true | _ => false
      let t : Task := { key := if frame then 0 else jobNo slot s, work := w }
      if isNext k engine t s then
        let s := retireTask k engine t (taskCost k engine t s).program s
        let s := unitDone k engine t.key w s
        if frame then s else trySeals t.key (jobPlan t.key s)
      else s

/-- ENGINE_READ_RESPONSE: a pool read of a job lands (R97, R164, R175, R177, R487). -/
def execEngineReadResponse (slot address : Nat) (poison : Bool) (data : Bytes) (bad corrected : List Nat) (s : State) : Ans :=
  onCore s fun s =>
    let s := stageErrors bad corrected s
    let key := jobNo slot s
    match (readsOut key s ++ (jobOuts key s).filter fun o => o.opcode == opRead).find? fun o => o.req.address == address with
    | none => s
    | some o =>
      let s := { s with ing := { s.ing with outst := s.ing.outst.erase o } }
      let d := fit o.req.length data
      let stale := !o.sent
      let poisoned := poison || (granulesIn 0 d.length).any fun g => decide (g + 64 ≤ d.length) && isPoison (slice d g 64)
      if stale then s else trySeals key (jobLand key (landRead key o.engine address poisoned (if poisoned then [] else d) s))

/-- ENGINE_JOB_STOP: at the boundary after a refusal or fault, once nothing of the attempt is outstanding, the job ends without a
seal (R148, R155, R175, R199, R244, R365). -/
def execEngineJobStop (slot : Nat) (s : State) : Ans :=
  onCore s fun s =>
    let key := jobNo slot s
    match jobOf key s with
    | none => s
    | some j => match j.phase with
      | .stopping code => if writesOut j s = [] then endJob key code s else s
      | _ => s

/-- JOB_COMPLETE (R365). -/
def execJobComplete (slot : Nat) (s : State) : Ans :=
  onCore s fun s =>
    let key := jobNo slot s
    match jobOf key s with
    | none => s
    | some j => if jobDone j s then endJob key (endReason j) s else s

/-- EXCLUSION_APPLY: an exclusion takes effect at the boundary after its notice (R153 to R155). -/
def execExclusionApply (slot host : Nat) (s : State) : Ans :=
  onCore s fun s =>
    let key := jobNo slot s
    match jobOf key s with
    | none => s
    | some j => match craneOf? j with
      | none => s
      | some (_, p) =>
        if p.excluded.contains host then
          applyExclusion key host (setCrane key { p with excluded := p.excluded.filter fun h => h != host } s)
        else s

/-- Pending exclusions of a job applied at a boundary (R153). -/
def applyExclusions (key : Nat) (s : State) : State :=
  match jobOf key s with
  | none => s
  | some j => match craneOf? j with
    | none => s
    | some (_, p) =>
      p.excluded.foldl (fun s h => applyExclusion key h s) (setCrane key { p with excluded := [] } s)

end Sys2Proof.Machine
end

