-- ==== Sys2Proof/Machine/Apply.lean ====
section
/-! DEFINITION. Domain changes taking effect at their boundary: entries and drains (R48 to R55, R81, R129, R344, R386 to R390),
compositions (R57, R58, R125, R307, R352), memberships and charters (R377 to R379, R395 to R398), and MANIFEST_SYNC (R51). -/

namespace Sys2Proof.Machine
open Sys2Proof

/-! Entries. -/

/-- Accesses of a queue, those of its batch counted. -/
def accessesOf (q : GranQ) : List Access := q.queue ++ (match q.batch with | some b => b.accesses | none => [])

/-- An admitted access of an entry that no drain counts yet. -/
def undrained (entry : Nat) (a : Access) : Bool := a.req.entry == entry && !a.drain

/-- The admitted accesses of an entry marked as counted in its drain, and how many (R54). -/
def markDrain (entry : Nat) (s : State) : Nat × State :=
  let n := (s.home.queues.map fun p => (accessesOf p.2).countP (undrained entry)).sum
  let mark (a : Access) : Access := if undrained entry a then { a with drain := true } else a
  let f (q : GranQ) : GranQ :=
    { queue := q.queue.map mark, batch := q.batch.map fun (b : Batch) => { b with accesses := b.accesses.map mark } }
  (n, { s with home := { s.home with queues := s.home.queues.map fun p => (p.1, f p.2) } })

/-- Recalls already under way for lines of an entry counted in its drain, and how many (R129). -/
def markRecalls (entry : Nat) (s : State) : Nat × State :=
  let is (r : Round) : Bool := r.kind == 3 && r.drain.isNone && (match dirOf r.line s with | some d => d.entry == entry | none => false)
  let rs := s.home.rounds.map fun r => if is r then { r with drain := some entry } else r
  (s.home.rounds.countP is, { s with home := { s.home with rounds := rs } })

/-- Lines of an entry that wait for their recall. -/
def linesToRecall (entry : Nat) (s : State) : Nat :=
  s.home.dir.countP fun d => d.entry == entry && !d.busy && staleLine d s && d.presence != []

/-- The drain of an entry's old generation begins at its home: admitted accesses and recalls are counted; a drain of none is
over at once (R54, R129). -/
def openDrain (entry : Nat) (id : Option ChangeId) (s : State) : State :=
  let a := markDrain entry s
  let r := markRecalls entry a.2
  let s := r.2
  let lines := linesToRecall entry s
  let old := tgetD s.home.drains entry (0, none)
  let n := old.1 + a.1 + r.1 + lines
  let who := if id.isSome then id else old.2
  let s := { s with home := { s.home with drains := tput s.home.drains entry (n + 1, who) } }
  drainOne entry ((List.range lines).foldl (fun s _ => nextRecall s) s)

/-- Held seals of an entry refused, their windows closed (R48, R54). -/
def refuseEntrySeals (entry : Nat) (s : State) : State :=
  s.home.seals.foldl (fun s q =>
    (q.2.wins.filter fun v => match v.held with | some (r, _) => r.entry == entry | none => false).foldl
      (fun s v => refuseHeld q.1 0x0506 v s) s) s

/-- The combining unit's lines of an entry invalidated, and the fills of its open windows forbidden (R54, R81). -/
def dropEntryLines (entry : Nat) (s : State) : State :=
  let s := (s.ing.cache.filter fun p => p.2.entry == entry).foldl (fun s p => dropGranule p.1 s) s
  let tags := (s.ing.outst.filter fun o => o.host == ownSource && o.req.entry == entry).map fun o => o.tag
  { s with ing := { s.ing with reads := s.ing.reads.map fun w => if tags.contains w.tag then { w with fill := false } else w } }

/-- A re-homed confidential extent without its page map: every page written at the current epoch, or every granule poisoned
while its charter rotates (R389). -/
def presumePages (entry : Nat) (s : State) : State :=
  let e := entryOf entry s
  let n := extentBytes e.sizeCode
  let ep := epochOf e.charter s
  let s := (List.range (n / 4096)).foldl (fun s p => setPage entry p ep s) s
  let rotating := match tget s.man.charters e.charter with | some c => c.rotating | none => false
  if rotating then (List.range (n / 64)).foldl (fun s g => markPoison entry (64 * g) s) s else s

/-- An extent's page map empty: every page unwritten. -/
def clearPages (entry : Nat) (s : State) : State :=
  { s with home := { s.home with pages := s.home.pages.filter fun p => p.1 / 2 ^ 18 != entry } }

/-- The page map that a copy by TIER.MIGRATE built, now that its mapping is in force: kept here, or sent to the new home (R390). -/
def migratedPages (entry : Nat) (old : Entry) (s : State) : State :=
  let e := entryOf entry s
  let built := s.home.pages.filter fun p => p.1 / 2 ^ 18 == moveIndex entry
  let s := clearPages (moveIndex entry) (clearPages entry s)
  if old.homeDevice = self s then
    let s := { s with home := { s.home with
      pages := built.foldl (fun t p => tput t (2 ^ 18 * entry + p.1 % 2 ^ 18) p.2) s.home.pages } }
    if e.homeDevice = self s then s
    else sendPages entry { s with home := { s.home with pageSend := s.home.pageSend ++ [entry] } }
  else if e.homeDevice = self s then { s with home := { s.home with pageWait := s.home.pageWait ++ [entry] } }
  else s

/-- An extent's page map at the boundary of its mapping (R386, R389, R390). -/
def mapPages (entry : Nat) (old : Entry) (moved : Bool) (s : State) : State :=
  let e := entryOf entry s
  let same := old.state != 0 && old.charter == e.charter && old.baseFpa == e.baseFpa
  let lost := s.ing.lostHomes.contains old.homeDevice
  if !isConfidential e.charter s then clearPages entry s
  else if moved then migratedPages entry old s
  else if e.homeDevice = self s then
    if same && lost then presumePages entry s
    else if same && old.homeDevice == self s then s
    else if same && old.state == 1 then
      { clearPages entry s with home := { (clearPages entry s).home with pageWait := s.home.pageWait ++ [entry] } }
    else clearPages entry s
  else if old.homeDevice = self s then
    if same && old.state == 1 then { s with home := { s.home with pageSend := s.home.pageSend ++ [entry] } }
    else clearPages entry s
  else s

/-- The lines of an extent that hosts of this device held under its lost home: recalled without an answer to anyone, and no
longer kept (R344). -/
def dropLostLines (entry : Nat) (s : State) : State :=
  let mine := s.ing.filter.filter fun f => f.entry == entry && s.ing.lostHomes.contains f.home
  mine.foldl (fun s f =>
    let hosts := recallHosts f s
    dropFilter f.line (dropCache f.line (hosts.foldl (fun s h => sendRecall h f.charter (recallVa h f s) f.line false s) s))) s

/-- An extent of a lost home mapped again: its uncertain granules poisoned and its rows to be resynced at the new home, and
what members keep about it over (R344). -/
def rehome (entry : Nat) (old : Entry) (offs : List Nat) (s : State) : State :=
  if old.state = 0 ∨ s.ing.lostHomes.contains old.homeDevice = false then s
  else
    let s := if (entryOf entry s).homeDevice = self s then
        startResync entry (offs.foldl (fun s o => markPoison entry o s) s) else s
    dropLostLines entry { s with ing := { s.ing with uncertain := s.ing.uncertain.filter fun u => u.2.1 != entry } }

/-- An entry changed at a boundary, seen from its previous home and from the ingress side (R48, R54, R129). -/
def entryTurned (entry : Nat) (old : Entry) (id : Option ChangeId) (s : State) : State :=
  let s := dropEntryLines entry s
  if old.state = 1 ∧ old.homeDevice = self s then openDrain entry id (refuseEntrySeals entry s) else s

/-- An entry mapped at a boundary (R45, R54, R129, R344, R390). -/
def turnMap (entry : Nat) (old : Entry) (moved : Bool) (id : Option ChangeId) (offs : List Nat) (s : State) : State :=
  entryTurned entry old id (mapPages entry old moved (rehome entry old offs s))

/-! Compositions. -/

/-- The devices that a job's attempt deals with. -/
def jobDevices (j : Job) (s : State) : List Nat :=
  let parts := match j.st with | .crane p => p.parts | _ => []
  parts ++ jobHomes j s ++ (jobInputs j s).flatMap (fun a => areaHomes (charterOf j) a.1 a.2 s) ++
    (jobOuts (keyOf j) s).map fun o => o.req.home

/-- Does a change of composition and routes affect a job's members or routes (R58)? -/
def jobAffected (j : Job) (old : RouteMap) (s : State) : Bool :=
  let new := s.man.route
  ((jobDevices j s).any fun d => d != self s && (!deviceMember d s || tgetD old.toDevice d [] != tgetD new.toDevice d [])) ||
  (match j.st with
    | .crane p => p.live.any fun h => attachedTo h s != self s &&
        (!deviceMember (attachedTo h s) s || tgetD old.toHost h [] != tgetD new.toHost h [])
    | _ => false) ||
  (match j.desc with
    | .stream d => decide (tget old.groups d.group ≠ tget new.groups d.group)
    | _ => false)

/-- The slices of affected jobs stop, and the jobs are to run again under the new composition (R58, R362). -/
def reissueAffected (old : RouteMap) (s : State) : State :=
  (s.acc.jobs.filter fun j => jobAffected j old s).foldl (fun s j => reissueJob (keyOf j) (abandonDelivery (keyOf j) 0 s)) s

/-- Mirror sessions stopped and analysis contexts disabled in a composition of more than 8 members (R307). -/
def stopMirrors (s : State) : State :=
  let s := { s with sw := { s.sw with mirrors := [] } }
  raise 0x0304 [(evCount, s.man.comp.members.length)]
    ((s.ports.ctxs.filter fun p => p.2.role == 4 && p.2.enable).foldl (fun s p => stopCtx p.1 s) s)

/-- A device admitted takes part again (R127, R342). -/
def admitDevice (d : Nat) (s : State) : State :=
  let s := readmit d s
  { s with ing := { s.ing with lostHomes := s.ing.lostHomes.filter fun x => x != d,
                               uncertain := s.ing.uncertain.filter fun u => u.1 != d },
           ring := { s.ring with losses := tdel s.ring.losses d, spanReports := tdel s.ring.spanReports d,
                                 heartbeats := tput s.ring.heartbeats d s.tide.count } }

/-- A composition in force (R57, R58, R125, R153, R307, R352). -/
def turnComposition (old : Composition) (oldMap : RouteMap) (s : State) : State :=
  let c := s.man.comp
  let gone := old.members.filter fun m => m != self s && !c.members.contains m
  let s := gone.foldl (fun s d => craneDeviceLost d (declareDead d s)) s
  let s := (c.members.filter fun m => !old.members.contains m).foldl (fun s d => admitDevice d s) s
  let s := if 8 < c.members.length then stopMirrors s else s
  let s := reissueAffected oldMap s
  wakeOffers (rebuddyTo (buddyOf (self s) s.ing.lostHomes c) s)

/-! Charters. -/

/-- Open windows of a source closed that a condition picks, seals held in them refused with 0x0610 (R345, R379). -/
def closeWindows (source : Nat) (p : SealWin → Bool) (s : State) : State :=
  match sealSrc source s with
  | none => s
  | some x => (x.wins.filter p).foldl (fun s v => refuseHeld source 0x0610 v s) s

/-- A host removed from a charter (R379). -/
def leaveCharter (c host : Nat) (s : State) : State :=
  let keys := (s.acc.jobs.filter fun j => charterOf j == c).map keyOf
  let s := if ownHost host s then keys.foldl (fun s k => declareMember k host s) s else s
  closeWindows host (fun v => v.charters.contains c) s

/-- Requests of a charter held at this ingress device refused (R397). -/
def refuseCharterHeld (c : Nat) (s : State) : State :=
  let is (p : Part) : Bool := p.req.charter == c
  let pol := s.ing.policed.filter is
  let inner := s.ing.held.filter is ++ s.ing.waiting.filter is
  let s := { s with ing := { s.ing with policed := s.ing.policed.filter fun p => !is p,
                                        held := s.ing.held.filter fun p => !is p,
                                        waiting := s.ing.waiting.filter fun p => !is p } }
  let s := pol.foldl (fun s p => refuseHost p.host p.req.tag 0x1003 s) s
  let s := inner.foldl (fun s p => hostReply p opRefuse 0x1003 [] s) s
  wakeHeld (countRemoval c 0 (pol.length + inner.length) 0 s)

/-- DATA responses of a charter in cells for hosts of this device converted to POISON (R397). -/
def scrubCells (s : State) : State :=
  let shore (k : Nat) : Bool := match ctxAt k s with | some c => c.role == 1 | none => false
  let s' := countScrubs ((s.sw.cells.filter fun x => shore x.ctx).flatMap fun x => x.items) s
  let clean (x : Cell) : Cell := if shore x.ctx then { x with items := x.items.map fun i => scrubItem i s } else x
  { s' with sw := { s'.sw with cells := s'.sw.cells.map clean } }

/-- Accepted jobs of a charter stopped: those that run at this boundary, those that wait at once (R397). -/
def stopCharterJobs (c : Nat) (s : State) : State :=
  (s.acc.jobs.filter fun j => charterOf j == c && j.guest.isNone).foldl (fun s j =>
    match j.phase with
    | .running => countRemoval c 0 0 1 (stopJob (keyOf j) 0x1003 (recordReason 0x1003 s))
    | .accepted => endJob (keyOf j) 0x1003 (countRemoval c 0 0 1 s)
    | .starting => endJob (keyOf j) 0x1003 (countRemoval c 0 0 1 s)
    | _ => s) s

/-- A rotation that a removal overtakes: its command completes with 0x1003 (R397). -/
def endRotation (c : Nat) (s : State) : State :=
  let s := { s with sec := { s.sec with sweeps := s.sec.sweeps.filter fun x => x.charter != c || x.removal } }
  match s.man.issued.find? fun i => (match i.change with | .charterRotate k _ _ => k == c | _ => false) && i.applied with
  | some i => completeIssued i.number 0x1003 none none [] s
  | none => s

/-- What this device holds of a charter whose removal, or zeroizing, takes effect (R397, R399). -/
def itemsOfCharter (c : Nat) (s : State) : State :=
  let s := (s.ing.cache.filter fun p => p.2.charter == c).foldl (fun s p => dropGranule p.1 s) s
  stopCharterJobs c (scrubCells (refuseCharterHeld c s))

/-- A charter's removal begins (R397, R398). -/
def beginRemoval (c : Nat) (s : State) : State :=
  let s := endRotation c s
  let x : Sweep := { charter := c, rate := 0, credit := 0, poisoned := 0, refused := 0, stopped := 0, reported := false, removal := true,
                     endAt := none }
  itemsOfCharter c { s with sec := { s.sec with sweeps := s.sec.sweeps ++ [x] } }

/-! Changes. -/

/-- What a change does at its boundary beside what it sets. -/
def takeEffect (id : ChangeId) (c : Change) (at_ : Nat) (s : State) : State :=
  match c with
  | .map i _ =>
    let old := entryOf i s
    let offs := uncertainOf i s
    turnMap i old false none offs (configure c at_ s)
  | .revoke i =>
    let old := entryOf i s
    entryTurned i old (some id) (configure c at_ s)
  | .migrate l =>
    let olds := l.map fun p => (p.1, entryOf p.1 s)
    olds.foldl (fun s p => turnMap p.1 p.2 true (some id) [] s) (configure c at_ s)
  | .composition _ _ =>
    let old := s.man.comp
    let map := s.man.route
    turnComposition old map (configure c at_ s)
  | .charterMembers ch _ r => r.foldl (fun s h => leaveCharter ch h s) (configure c at_ s)
  | .charterRotate ch rate _ =>
    let x : Sweep := { charter := ch, rate := rate, credit := max 4096 (rate * tau s), poisoned := 0, refused := 0, stopped := 0, reported := false,
                       removal := false, endAt := none }
    let s := configure c at_ s
    { s with sec := { s.sec with sweeps := s.sec.sweeps ++ [x] } }
  | .charterRevoke ch =>
    let olds := s.man.entries.filter fun p => p.2.charter == ch && p.2.state == 1
    let s := configure c at_ s
    beginRemoval ch (olds.foldl (fun s p => entryTurned p.1 p.2 none s) s)
  | .formatStart g _ => startFormat g (configure c at_ s)
  | .fwActivate mask release => if named mask s then activate id.issuer release s else s
  | .replace g m _ _ _ r => judgeGroups (reportRebuild g (startRebuild g m r (configure c at_ s)))
  | _ => configure c at_ s

/-- The command of a formatting that has ended (R334). -/
def completeFormat (g : Nat) (ok : Bool) (at_ : Nat) (s : State) : State :=
  match s.man.issued.find? fun i => i.applied && (match i.change with | .formatStart k _ => k == g | _ => false) with
  | some i => completeIssued i.number (if ok then 0 else 0x0626) none (some at_) [] s
  | none => s

/-- An issuer's change has taken effect: its command completes, or waits for drains where its entries were VALID, for a second change or for the members'
reports (R50, R54, R254, R334, R344, R396, R398). -/
def settleIssued (n : Nat) (olds : List (Nat × Entry)) (s : State) : State :=
  match issuedOf n s with
  | none => s
  | some i =>
    let live := s.man.comp.members.filter fun m => !s.ing.lostHomes.contains m
    match i.change with
    | .revoke _ => (olds.filter fun p => p.2.state != 1 || s.ing.lostHomes.contains p.2.homeDevice).foldl (fun s p => drained n p.1 s) s
    | .migrate _ => (olds.filter fun p => p.2.state != 1 || s.ing.lostHomes.contains p.2.homeDevice).foldl (fun s p => drained n p.1 s) s
    | .charterRotate _ _ _ => setIssued { i with awaiting := live, reports := [] } s
    | .charterRevoke _ => setIssued { i with awaiting := live, reports := [], tally := [0, 0, 0] } s
    | .formatStart _ _ => s
    | .fwActivate mask _ =>
      let w := live.filter fun d => bit mask d
      if w = [] then completeIssued n 0 none none [] s else setIssued { i with awaiting := w } s
    | _ => completeIssued n 0 none none [] s

/-- A committed change applied (R50). -/
def applyNotice (n : Notice) (s : State) : State :=
  let olds := (drainEntries n.change).map fun i => (i, entryOf i s)
  let mark (i : Issued) : Issued :=
    if n.id.issuer == self s && i.number == n.id.number then { i with applied := true } else i
  let s := { s with
    man := { s.man with notices := s.man.notices.filter fun x => x.id != n.id, issued := s.man.issued.map mark },
    sec := { s.sec with staged := s.sec.staged.filter fun k => k.1 != n.id },
    home := { s.home with moves := s.home.moves.filter fun m => m.id != n.id } }
  let s := takeEffect n.id n.change n.atTide s
  let s := match n.change with | .formatEnd g _ ok => completeFormat g ok n.atTide s | _ => s
  if n.id.issuer = self s then settleIssued n.id.number olds s else s

/-- The charters a notice names (R51). -/
def chartersNamed (c : Change) (s : State) : List Nat :=
  match c with
  | .map i e => [(entryOf i s).charter, e.charter]
  | .revoke i => [(entryOf i s).charter]
  | .migrate l => l.map fun p => p.2.charter
  | .window ch _ _ => [ch]
  | .charterCreate ch _ _ => [ch]
  | .charterMembers ch _ _ => [ch]
  | .charterRotate ch _ _ => [ch]
  | .charterRevoke ch => [ch]
  | _ => []

/-- A notice that holds neither commit nor cancel at its boundary: an issuer's own is cancelled; a member's leaves its charters
and routes unserved (R50, R51). -/
def missNotice (n : Notice) (s : State) : State :=
  if n.id.issuer = self s then cancelIssued n.id.number 0x0509 none s
  else
    let cs := chartersNamed n.change s
    let s := raise 0x050A [(evDetail, n.id.number)] (dropNotice n.id s)
    { s with man := { s.man with desyncCharters := sorted (s.man.desyncCharters ++ cs),
                                 desyncRoutes := s.man.desyncRoutes || isRoute n.change } }

/-- The changes due at this boundary of some ranks, in order (R32, R50). -/
def applyDue (p : Nat → Bool) (s : State) : State :=
  let due := (ordered s.man.notices).filter fun n => decide (n.atTide ≤ s.tide.count) && p (rank n.change)
  let s := due.foldl (fun s n => if n.committed then applyNotice n s else missNotice n s) s
  if due = [] then s else dropCopies s

/-- DOMAIN_CHANGE_APPLY: Manifest, windows, groups, charters, routes, composition, tide length (R25, R32, R50, R377). A device out of lock takes none. -/
def execDomainChangeApply (s : State) : Ans := onCore s fun s => if s.tide.locked then applyDue (fun r => decide (r < 5)) s else s

/-- KEY_EPOCH_TURN, of a device in lock (R25, R32, R395). -/
def execKeyEpochTurn (s : State) : Ans := onCore s fun s => if s.tide.locked then applyDue (fun r => decide (r = 5)) s else s

/-- FW_ACTIVATION (R25, R32, R435). A device out of lock takes none. -/
def execFwActivation (s : State) : Ans := onCore s fun s => if s.tide.locked then applyDue (fun r => decide (r = 6)) s else s

/-- The Manifest, windows and route map of a MANIFEST.SYNC put in force at its boundary; the member serves its charters and
routes again, and the command completes (R51). -/
def syncDue (s : State) : State :=
  match s.man.sync with
  | none => s
  | some x =>
    if s.tide.count < x.boundary then s
    else
      let olds := s.man.entries.filter fun p => p.2.state == 1 && decide (tget x.entries p.1 ≠ some p.2)
      let s := { s with man := { s.man with
        sync := none, entries := x.entries, windows := x.windows, prevRoute := none, route := x.route,
        routeEpoch := x.routeEpoch, routeSince := x.boundary, desyncCharters := [], desyncRoutes := false } }
      let s := olds.foldl (fun s p => entryTurned p.1 p.2 none s) s
      result x.hdr 0x0704 0 [] (dropCopies s)

/-- MANIFEST_SYNC: what another member holds in force at a boundary is copied, and put in force here at that boundary, at once
where it has come (R51). A source that is not another member of the composition is refused with 0x0003, and so is a second
command while one waits, with 0x0510: R51 gives no code (DESIGN CHOICE, log 21). The tables are what the source sends. -/
def execManifestSync (h : CmdHdr) (source boundary : Nat) (entries : Tbl Entry) (windows : Tbl Window) (route : RouteMap)
    (routeEpoch : Nat) (s : State) : Ans :=
  onFw s fun s =>
    if source = self s ∨ deviceMember source s = false then result h 0x0704 0x0003 [] s
    else if s.man.sync.isSome then result h 0x0704 0x0510 [] s
    else syncDue { s with man := { s.man with
      sync := some { hdr := h, boundary := boundary, entries := entries, windows := windows, route := route,
                     routeEpoch := routeEpoch } } }

end Sys2Proof.Machine
end

