-- ==== Sys2Proof/Machine/Registers.lean ====
section
/-! DEFINITION. The register window's doorbells, pointers and lighter controls (R404, R464 to R477). -/

namespace Sys2Proof.Machine
open Sys2Proof

/-- The window answers: the core runs, or its ROM serves mailbox 0 in recovery (R430, R466). -/
def onWindow (s : State) (f : State → State) : Ans := .next (if coreRuns s || inRecovery s then f s else s)

/-- Distance between two 32-bit pointers (R404). -/
def dist32 (b a : Nat) : Nat := (b % 2 ^ 32 + 2 ^ 32 - a % 2 ^ 32) % 2 ^ 32

/-- A command tail written: stored unless it would lie more than 1,024 units ahead of the head or behind its present value,
which raises RING_POINTER; ignored in confidential mode (R404, R417, R474). -/
def writeCmdTail (m v : Nat) (s : State) : State :=
  let b := boxOf m s
  if 16 ≤ m ∨ locked s = true then s
  else if 1024 < dist32 v b.cmdHead ∨ dist32 v b.cmdHead < dist32 b.cmdTail b.cmdHead then raise 0x0006 [] s
  else setBox m { b with cmdTail := v % 2 ^ 32 } s

/-- A completion head written: units freed, waiting answers posted, consumed completions retired (R366, R405, R474). -/
def writeCplHead (m v : Nat) (s : State) : State :=
  let b := boxOf m s
  if 16 ≤ m ∨ locked s = true then s
  else if dist32 b.cplTail b.cplHead < dist32 v b.cplHead then raise 0x0006 [] s
  else
    let s := consumePosted m b.cplHead v (setBox m { b with cplHead := v % 2 ^ 32 } s)
    drainWaiting (boxOf m s).waiting.length m s

/-- A mailbox's signal enable written (R473). -/
def writeMbSignal (m v : Nat) (s : State) : State :=
  if 16 ≤ m ∨ locked s = true then s else setBox m { boxOf m s with signal := bit v 0 } s

/-- The event head written; after a gap EVENTS_LOST is the first record (R418, R471). -/
def writeEvHead (v : Nat) (s : State) : State :=
  if locked s then s
  else if dist32 s.tel.evTail s.tel.evHead < dist32 v s.tel.evHead then raise 0x0006 [] s
  else
    let s := { s with tel := { s.tel with evHead := v % 2 ^ 32 } }
    if s.tel.evGap = 0 ∨ evFull s then s
    else
      let n := s.tel.evGap
      raise 0x0009 [(evCount, n)] { s with tel := { s.tel with evGap := 0 } }

/-- The event ring's signal enable written (R471, R480). -/
def writeEvSignal (v : Nat) (s : State) : State :=
  if locked s then s else { s with tel := { s.tel with evSignal := bit v 0 } }

/-- REASON_CLEAR written: each named SUBSYS_REASON reads zero (R469). -/
def writeReasonClear (v : Nat) (s : State) : State :=
  { s with tel := { s.tel with reasons := s.tel.reasons.filter fun p => !(decide (p.1 ≤ 20) && bit v p.1) } }

/-- Bytes of a lighter's ring (R475). -/
def ringBytes (x : Lighter) : Nat := 16384 * 2 ^ x.sizeCode

/-- A lighter's code recorded and raised (R476, R477). -/
def lighterCode (l code : Nat) (x : Lighter) (s : State) : State :=
  raise code [] (setLighter l { x with reason := code } s)

/-- A lighter unbound, its untaken records discarded (R477). -/
def unbind (x : Lighter) : Lighter :=
  { x with session := 0, bound := false, inCounter := 0, outCounter := 0, inHead := x.inTail, failures := 0 }

/-- Does the range of a lighter overlap another enabled one's (R477)? -/
def lighterOverlap (l : Nat) (x : Lighter) (s : State) : Bool :=
  s.sec.lighters.any fun p =>
    p.1 != l && p.2.enable &&
    decide (x.base < p.2.base + 2 * ringBytes p.2 ∧ p.2.base < x.base + 2 * ringBytes x)

/-- A lighter's control word written: signal enable, then enable with its check, size ignored while it is enabled (R475,
R477). -/
def writeLighterCtl (l v : Nat) (s : State) : State :=
  if 16 ≤ l then s
  else
    let x := { lighterOf l s with ltSignal := bit v 5 }
    let on := bit v 4
    if x.enable && on then setLighter l x s
    else if x.enable then setLighter l { unbind x with enable := false } s
    else
      let x := { x with sizeCode := v % 16 }
      if !on then setLighter l x s
      else if 8 < x.sizeCode ∨ 2 ^ 64 < x.base + 2 * ringBytes x ∨ lighterOverlap l x s = true then
        lighterCode l 0x1204 x s
      else
        setLighter l { x with enable := true, fault := false, inTail := 0, inHead := 0, outTail := 0, outHead := 0,
                              bound := false, session := 0, inCounter := 0, outCounter := 0, failures := 0 } s

/-- Half of a lighter's base written; ignored while it is enabled; bits [11:0] are reserved (R4, R475, R477). -/
def writeLighterBase (l : Nat) (high : Bool) (v : Nat) (s : State) : State :=
  if 16 ≤ l then s
  else
    let x := lighterOf l s
    let lo := x.base % 2 ^ 32
    let hi := x.base / 2 ^ 32
    let v := v % 2 ^ 32
    let base := if high then v * 2 ^ 32 + lo else hi * 2 ^ 32 + v / 4096 * 4096
    if x.enable then s else setLighter l { x with base := base } s

/-- A lighter's inbound tail written: its doorbell; records are read while it is enabled (R446, R475, R476). -/
def writeInTail (l v : Nat) (s : State) : State :=
  if 16 ≤ l then s
  else
    let x := lighterOf l s
    if ringBytes x / 64 < dist32 v x.inHead ∨ dist32 v x.inHead < dist32 x.inTail x.inHead then
      lighterCode l 0x1205 x s
    else
      let x := { x with inTail := v % 2 ^ 32 }
      let s := setLighter l x s
      if x.enable && decide (x.inHead ≠ x.inTail) then
        emit (.lighterRead l (64 * (x.inHead % (ringBytes x / 64)))) s
      else s

/-- A lighter's outbound head written (R475, R476). -/
def writeOutHead (l v : Nat) (s : State) : State :=
  if 16 ≤ l then s
  else
    let x := lighterOf l s
    if dist32 x.outTail x.outHead < dist32 v x.outHead then lighterCode l 0x1205 x s
    else setLighter l { x with outHead := v % 2 ^ 32 } s

/-- A response on the host link to a request of the companion (R443, R444). -/
def khlAnswer (tag opcode reason : Nat) (data : Bytes) (s : State) : State :=
  emit (.khl tag { opcode := opcode, dstEngine := false, destination := 0xFC0 + self s, tag := tag, reason := reason,
                   ll := s.home.ll, responder := self s, parts := 1, aux := 0, data := data }) (recordReason reason s)

/-- CMD_TAIL_WRITE (R404, R474). -/
def execCmdTailWrite (mailbox value : Nat) (s : State) : Ans := onWindow s (writeCmdTail mailbox value)

/-- CPL_HEAD_WRITE (R366, R474). -/
def execCplHeadWrite (mailbox value : Nat) (s : State) : Ans := onWindow s (writeCplHead mailbox value)

/-- EV_HEAD_WRITE (R418, R471). -/
def execEvHeadWrite (value : Nat) (s : State) : Ans := onWindow s (writeEvHead value)

/-- REASON_CLEAR (R469). -/
def execReasonClear (value : W32) (s : State) : Ans := onWindow s (writeReasonClear value.toNat)

/-- LIGHTER_ENABLE (R475, R477). -/
def execLighterEnable (lighter : Nat) (value : W32) (s : State) : Ans :=
  onWindow s (writeLighterCtl lighter value.toNat)

/-- IN_TAIL_WRITE (R476). -/
def execInTailWrite (lighter value : Nat) (s : State) : Ans := onWindow s (writeInTail lighter value)

/-- OUT_HEAD_WRITE (R476). -/
def execOutHeadWrite (lighter value : Nat) (s : State) : Ans := onWindow s (writeOutHead lighter value)

/-- TIDE_COUNT_LOW_READ: the low half is answered, the high half latched (R465). -/
def execTideCountLowRead (tag : Nat) (s : State) : Ans :=
  onWindow s fun s =>
    let c := s.tide.count
    khlAnswer tag 0x81 0 (le 4 (c % 2 ^ 32)) { s with tide := { s.tide with latch := some (c / 2 ^ 32 % 2 ^ 32) } }

/-- LB_STATUS_READ: ALERT_N held for a CRITICAL event is released (R483). It needs only the standby island. -/
def execLbStatusRead (s : State) : Ans := .next { s with isl := { s.isl with alert := false } }

end Sys2Proof.Machine
end

