-- ==== Sys2Proof/Machine/Mailbox.lean ====
section
/-! DEFINITION. Mailboxes: taking a command (R404 to R409), the mailbox space over KHL (R445), job queues (R412), telemetry
reads (R413). -/

namespace Sys2Proof.Machine
open Sys2Proof

/-- The command codes of the namespace table (R413). -/
def commandCodes : List Nat :=
  [0x0001, 0x0101, 0x0201, 0x0301, 0x0401, 0x0501, 0x0601, 0x0602, 0x0603, 0x0604, 0x0605, 0x0606, 0x0701, 0x0702,
   0x0703, 0x0704, 0x0801, 0x0901, 0x0A01, 0x0B01, 0x0C01, 0x0C02, 0x0C03, 0x0D01, 0x0D02, 0x0D03, 0x0D04, 0x0E01,
   0x0F01, 0x0F02, 0x1001, 0x1101, 0x1201, 0x1202, 0x1203, 0x1301, 0x1302, 0x1401, 0x1402, 0x1501, 0x1502, 0x1503,
   0x1504, 0x1601, 0x1701, 0x1702, 0x1703, 0x1704, 0x1705, 0x1706, 0x1801, 0x1802, 0x1803, 0x1804, 0x1805, 0x1901,
   0x1A01, 0x1A02]

/-- The kind J commands (R413). -/
def isJobCode (c : Nat) : Bool :=
  [cmdCrane, cmdStev, cmdScan, cmdScore, cmdMerge, cmdEncode, cmdDecode, cmdStream, cmdPlace, cmdCopy].contains c

/-- Block size of the commands whose layout the chapters tabulate (R408). -/
def blockSize (c : Nat) : Option Nat :=
  if c = 0x0001 then some 0
  else if c = cmdCrane ∨ c = cmdStev ∨ c = cmdScan ∨ c = cmdScore ∨ c = cmdMerge then some 128
  else if c = cmdEncode ∨ c = cmdDecode ∨ c = cmdStream ∨ c = cmdCopy then some 64
  else if c = 0x0E01 then some 0
  else if c = 0x0604 then some 16
  else none

/-- The code of R408's checks 3 to 5 for a block, 0 when it passes; those of untabulated layouts are the configuration's
(log 6). -/
def blockCode (c : Nat) (expert : Bool) (body : Bytes) : Nat :=
  match blockSize c with
  | none => Config.blockCheck c expert body
  | some n =>
    if body.length ≠ n then 0x0005
    else if c = 0x0604 then
      (if 2 ≤ fld body 2 1 ∨ fld body 3 1 ≠ 0 then 0x0003
      else if !expert && decide (fld body 8 8 ≠ 0) then 0x0004 else 0)
    else
      match descOf c body with
      | none => 0
      | some d =>
        if descBytes d ≠ body ∨ descReserved d = true then 0x0003
        else if !expert && basicSet d then 0x0004
        else 0

/-- The code of R408's checks for a command at unit p of its ring, 0 when it passes. -/
def headerCode (r : RawHdr) (body : Bytes) (p : Nat) : Nat :=
  let job := isJobCode r.command
  firstCode [
    (decide (r.units = 0 ∨ 66 < r.units ∨ 64 * r.units < r.bodyBytes + 32 ∨ 1024 < p % 1024 + r.units), 0x0001),
    (!commandCodes.contains r.command, 0x0002),
    (decide (blockCode r.command (bit r.flags 0) body = 0x0005), 0x0005),
    (decide (2 ≤ r.flags ∨ r.rest ≠ 0) || (!job && decide (r.seq ≠ 0 ∨ r.queue ≠ 0 ∨ r.owner ≠ 0)) ||
      (job && decide (64 ≤ r.owner % 128 ∨ (r.owner < 128 ∧ r.owner ≠ 0))), 0x0003),
    (decide (blockCode r.command (bit r.flags 0) body ≠ 0), blockCode r.command (bit r.flags 0) body),
    (job && decide (r.seq = 0), 0x0007)]

/-- Units of a command's largest answer, and the ACCEPTED notice of one that starts a job (R405). -/
def reserveUnits (r : RawHdr) : Nat :=
  if isJobCode r.command then 4
  else if [0x1706, 0x1504, 0x0606, 0x1804, 0x1805, 0x1A01, 0x1A02].contains r.command then 66
  else cdiv (32 + 32 + r.bodyBytes) 64

/-- The command at the head of mailbox m. -/
def headHdr (m : Nat) (s : State) : RawHdr :=
  rawHdr (mread s.mbox (0x20000 * m + 64 * ((boxOf m s).cmdHead % 1024)) 32)

/-- Its block. -/
def headBody (m : Nat) (s : State) : Bytes :=
  mread s.mbox (0x20000 * m + 64 * ((boxOf m s).cmdHead % 1024) + 32) (min (headHdr m s).bodyBytes (64 * 66))

/-- Units the command at the head takes, one for a command of units 0 (R408). -/
def headUnits (m : Nat) (s : State) : Nat := max 1 (headHdr m s).units

/-- May the command at mailbox m's head be taken (R405)? -/
def canTake (m : Nat) (s : State) : Bool :=
  let b := boxOf m s
  let need := reserveUnits (headHdr m s)
  decide (m < 16) && !locked s &&
  decide (headUnits m s ≤ dist32 b.cmdTail b.cmdHead) && decide (0 < dist32 b.cmdTail b.cmdHead) &&
  decide ((s.hm.taken.filter fun t => t.mailbox == m).length < 64) && decide (s.hm.taken.length < 1024) &&
  decide (cplUsed b + b.reserved + need ≤ 1024) && b.waiting.isEmpty

/-- The Harbourmaster, or the ROM in recovery for mailbox 0, takes commands (R420, R424, R430, R435). -/
def onTaker (s : State) (f : State → State) : Ans := .next (if fwRuns s || inRecovery s then f s else s)

/-- The command head advanced. -/
def advanceHead (m n : Nat) (s : State) : State :=
  let b := boxOf m s
  setBox m { b with cmdHead := (b.cmdHead + n) % 2 ^ 32 } s

/-- COMMAND_TAKE: the winner among the mailboxes that may be served gives up its command; it is refused by R408's first
code that applies, or its answers' units are reserved (R37, R405 to R409). In recovery every command but three is answered
0x0002 (R430). -/
def takeCommand (m : Nat) (s : State) : State :=
  let asking := (List.range 16).filter fun k => canTake k s && !(inRecovery s && decide (k ≠ 0))
  if rotating s.hm.boxPtr asking ≠ some m then s
  else
    let r := headHdr m s
    let body := headBody m s
    let p := (boxOf m s).cmdHead
    let s := advanceHead m (headUnits m s) { s with hm := { s.hm with boxPtr := (m + 1) % 16 } }
    if r.command = 0 ∧ r.units ≠ 0 ∧ r.units ≤ 66 then s
    else
      let h : CmdHdr := { mailbox := m, tag := r.tag, expert := bit r.flags 0, viaLighter := false }
      let c := if inRecovery s && !([0x1801, 0x1802, 0x1805].contains r.command) then 0x0002 else headerCode r body p
      if c ≠ 0 then result h r.command c [] s
      else
        let n := reserveUnits r
        let t : Taken := { mailbox := m, tag := r.tag, command := r.command, units := n, job := isJobCode r.command,
                           change := none }
        let b := boxOf m s
        setBox m { b with reserved := b.reserved + n } { s with hm := { s.hm with taken := s.hm.taken ++ [t] } }

/-- MBOX_PAD: the pad at a mailbox's command head is skipped, without an answer (R404). -/
def execMboxPad (mailbox : Nat) (s : State) : Ans :=
  onTaker s fun s =>
    let r := headHdr mailbox s
    let b := boxOf mailbox s
    if mailbox < 16 ∧ locked s = false ∧ r.command = 0 ∧ 0 < dist32 b.cmdTail b.cmdHead ∧
        headUnits mailbox s ≤ dist32 b.cmdTail b.cmdHead then
      advanceHead mailbox (headUnits mailbox s) s
    else s

/-- MBOX_NOP: RESULT 0x0000 (R413). -/
def execMboxNop (h : CmdHdr) (s : State) : Ans := onFw s (result h 0x0001 0 [])

/-- COMMAND_TAKE (R405 to R409). -/
def execCommandTake (mailbox : Nat) (s : State) : Ans := onTaker s (takeCommand mailbox)

/-- A mailbox access over KHL is within the space, 1 to 256 bytes and crosses no 256-byte boundary (R444, R445). -/
def mboxFits (offset length : Nat) : Bool :=
  decide (1 ≤ length ∧ length ≤ 256 ∧ offset + length ≤ 0x240000 ∧ offset / 256 = (offset + length - 1) / 256)

/-- MBOX_READ: DATA, zeros in confidential mode (R417, R445). -/
def execMboxRead (tag offset length : Nat) (s : State) : Ans :=
  onWindow s fun s =>
    if !mboxFits offset length then khlAnswer tag 0x82 0x1202 [] s
    else if locked s then khlAnswer tag 0x81 0 (zeros length) s
    else khlAnswer tag 0x81 0 (mread s.mbox offset length) s

/-- MBOX_WRITE: ACK; without effect in confidential mode (R417, R445). -/
def execMboxWrite (tag offset : Nat) (data : Bytes) (s : State) : Ans :=
  onWindow s fun s =>
    if !mboxFits offset data.length then khlAnswer tag 0x82 0x1202 [] s
    else if locked s then khlAnswer tag 0x80 0 [] s
    else khlAnswer tag 0x80 0 [] { s with mbox := mwrite s.mbox offset data }

/-- JOBQ_OPEN: the queue opens with next sequence 1, bound to the mailbox (R349, R412). -/
def execJobqOpen (h : CmdHdr) (queue mailbox : Nat) (s : State) : Ans :=
  immediate h 0x0F01
    (fun s => firstCode [(decide (16 ≤ mailbox ∨ 256 ≤ queue), 0x0003), ((queueAt queue (self s) s).isSome, 0x1301)])
    (fun s => announceQueue queue (self s) true { s with acc := { s.acc with
        queues := s.acc.queues ++ [{ queue := queue, owner := self s, next := 1, mailbox := mailbox,
                                      viaLighter := h.viaLighter }] } })
    (fun _ => []) [] s

/-- JOBQ_CLOSE: refused while the queue holds a job that has not retired (R373, R412). -/
def execJobqClose (h : CmdHdr) (queue owner : Nat) (s : State) : Ans :=
  let own (s : State) : Nat := if 128 ≤ owner then owner % 64 else self s
  let holds (s : State) : Bool := s.acc.jobs.any fun j => j.guest.isNone && j.hdr.queue == queue && queueOwner j.hdr j.device == own s
  immediate h 0x0F02
    (fun s => firstCode [
      (decide (256 ≤ queue ∨ 64 ≤ owner % 128 ∨ (owner < 128 ∧ owner ≠ 0)), 0x0003),
      ((queueAt queue (own s) s).isNone, 0x1301), (holds s, 0x1310)])
    (fun s => announceQueue queue (own s) false { s with acc := { s.acc with
        queues := s.acc.queues.filter fun q => !(q.queue == queue && q.owner == own s) } })
    (fun _ => []) [] s

/-- CONFIDENTIAL_ENTER: refused unless it came through a lighter; takes effect at the next boundary (R380, R417). -/
def execConfidentialEnter (h : CmdHdr) (s : State) : Ans :=
  onFw s fun s =>
    if !h.viaLighter then result h 0x0E01 0x000A [] s
    else { s with sec := { s.sec with enterAt := some (s.tide.count + 1, h) } }

/-- TELEMETRY_SAMPLES: up to 29 records, oldest first, removed from the ring (R413). -/
def execTelemetrySamples (h : CmdHdr) (s : State) : Ans :=
  onFw s fun s =>
    let data := (s.sw.samples.take 29).flatMap fun b => b
    result h 0x1A01 0 data { s with sw := { s.sw with samples := s.sw.samples.drop 29 } }

/-- TELEMETRY_COUNTERS: refused past the end of a group or for a reserved one; the counters' values are free values (R413,
R489; log 16). -/
def execTelemetryCounters (h : CmdHdr) (group start : Nat) (s : State) : Ans :=
  onFw s fun s =>
    match Config.counterGroup group with
    | none => result h 0x1A02 0x1401 [] s
    | some n =>
      if n ≤ start then result h 0x1A02 0x1401 [] s
      else
        let k := min 524 (n - start)
        let data := (List.range k).flatMap fun i => le 8 (Config.free (s.freeCount + i))
        result h 0x1A02 0 data { s with freeCount := s.freeCount + k }

end Sys2Proof.Machine
end

