-- ==== Sys2Proof/Machine/Ring.lean ====
section
/-! DEFINITION. The tide ring, tide markers and the ring bypass (R15 to R31, R38, R58). -/

namespace Sys2Proof.Machine
open Sys2Proof

/-- The core is on the ring (R29). -/
def onRing (s : State) : Bool := coreRuns s && decide (s.isl.bypass = .open ∨ s.isl.bypass = .closing)

/-! Slots. -/

/-- The slot types (R21). -/
def slotType (m : SlotMsg) : Nat :=
  match m with
  | .empty => 0
  | .snoop _ => 1
  | .accept _ _ _ _ _ _ _ _ => 2
  | .control _ _ _ _ => 3
  | .measure _ _ => 4
  | .data _ => 5

/-- The KFP block of a slot's payload, with its own CRC-32C (R20, R281): a DATA slot's block as it is, an IDLE block in an EMPTY
slot, else a CTRL block around the message; from byte `at_` on of a CONTROL message that takes several slots. The block type of
a message is the model's (DESIGN CHOICE, log 18). -/
def ringBlock (m : SlotMsg) (at_ : Nat) : Bytes :=
  match m with
  | .empty => linkBlock 0 0 0 0 false []
  | .snoop qs => linkBlock 4 0 0 0 false (qs.flatMap snoopBytes)
  | .accept k d t i l o last b => linkBlock 4 0 0 0 false (acceptHeader k d t i l o b.length last ++ b)
  | .control d i c args => linkBlock 4 0 0 0 false (controlPayload d i c at_ args)
  | .measure t none => linkBlock 4 0 0 0 false (0#8 :: le 4 t)
  | .measure _ (some x) => linkBlock 4 0 0 0 false (1#8 :: identBytes x)
  | .data b => fit 512 b

/-- Bytes of a CONTROL message that one slot leaves for the next. -/
def moreControl (m : SlotMsg) (at_ : Nat) : Bool :=
  match m with
  | .control _ _ _ args => decide (at_ + 480 < (argsBytes args).length)
  | _ => false

/-- The header CRC of bits [127:32] (R21). -/
def headerCrc (h : Nat) : Nat := crc32c (le 12 (h / 2 ^ 32))

/-- A slot header with its CRC (R21). -/
def slotHeader (number kind sites : Nat) (mark : Bool) (lengthCode routeEpoch compEpoch : Nat) : BitVec 128 :=
  let h := packBits [(16, number), (4, kind), (6, number % max 1 sites), (1, b2n mark), (3, lengthCode), (2, 0), (16, routeEpoch),
    (16, compEpoch), (32, 0), (32, 0)]
  BitVec.ofNat 128 (h + headerCrc h)

/-- Fields of a slot's header (R21). -/
def slotNumber (x : RingSlot) : Nat := bits x.header.toNat 127 112
def slotKind (x : RingSlot) : Nat := bits x.header.toNat 111 108
def slotOwner (x : RingSlot) : Nat := bits x.header.toNat 107 102
def slotMark (x : RingSlot) : Bool := bit x.header.toNat 101
def slotCode (x : RingSlot) : Nat := bits x.header.toNat 100 98
def slotRoute (x : RingSlot) : Nat := bits x.header.toNat 95 80
def slotComp (x : RingSlot) : Nat := bits x.header.toNat 79 64

/-- The tide count of a slot's trailer (R22). -/
def slotCount (x : RingSlot) : Nat := bits x.trailer.toNat 127 64

/-- The payload block passes its CRC (R20, R27). -/
def payloadOk (x : RingSlot) : Bool := linkCrcOk x.block

/-- The message that a slot carries (R22, R119, R354); a MEASURE slot's comes with its own row. -/
def slotMsg (x : RingSlot) : SlotMsg :=
  let p := slice x.block 12 496
  match slotKind x with
  | 1 => .snoop (snoopsOf p)
  | 2 => acceptOf p
  | 3 => controlOf p
  | 5 => .data x.block
  | _ => .empty

/-- The 800 bytes of a slot on the wire (R20). -/
def slotImage (x : RingSlot) : Bytes := le 16 x.header.toNat ++ fit 512 x.block ++ fit 256 x.answers ++ le 16 x.trailer.toNat

/-- The header passes its CRC (R23). -/
def headerOk (x : RingSlot) : Bool := decide (bits x.header.toNat 31 0 = headerCrc x.header.toNat)

/-- The answer CRC over the answer field and trailer bits [127:32] (R22). -/
def answerCrc (answers : Bytes) (trailer : Nat) : Nat := crc32c (fit 256 answers ++ le 12 (trailer / 2 ^ 32))

/-- The answers pass their CRC (R23). -/
def answersOk (x : RingSlot) : Bool := decide (bits x.trailer.toNat 31 0 = answerCrc x.answers x.trailer.toNat)

/-- A slot with its answers set and their CRC recomputed (R22). -/
def withAnswers (a : Bytes) (x : RingSlot) : RingSlot :=
  let t := x.trailer.toNat / 2 ^ 32 * 2 ^ 32
  { x with answers := a, trailer := BitVec.ofNat 128 (t + answerCrc a t) }

/-- A slot of a number with a message in it, from byte `at_` of it on (R19 to R22). -/
def makeSlot (east : Bool) (number : Nat) (m : SlotMsg) (at_ routeEpoch compEpoch : Nat) (s : State) : RingSlot :=
  withAnswers (zeros 256)
    { east := east, header := slotHeader number (slotType m) s.tide.sites false s.tide.lengthCode routeEpoch compEpoch,
      block := ringBlock m at_, answers := [], trailer := 0 }

/-- An EMPTY slot of a number (R19, R23, R26). -/
def emptySlot (east : Bool) (number : Nat) (s : State) : RingSlot := makeSlot east number .empty 0 0 0 s

/-- A slot as the master sends it: its length code, and in the slot that leaves at a boundary tide_mark 1 and the count of the
tide that begins (R17, R21, R22, R33). -/
def markSlot (mark : Bool) (s : State) (x : RingSlot) : RingSlot :=
  let h := slotHeader (slotNumber x) (slotKind x) s.tide.sites mark s.tide.lengthCode (slotRoute x) (slotComp x)
  withAnswers (fit 256 x.answers)
    { x with header := h, trailer := BitVec.ofNat 128 (if mark then s.tide.count * 2 ^ 64 else 0) }

/-- A slot leaves this site. The slot that leaves the master first after a boundary is the one that leaves at it (R17, R21). -/
def sendSlot (x : RingSlot) (s : State) : State :=
  if !isMaster s then emit (.slot x) s
  else
    let mark := if x.east then s.ring.markEast else s.ring.markWest
    emit (.slot (markSlot mark s x)) { s with ring := { s.ring with
      markEast := s.ring.markEast && !x.east, markWest := s.ring.markWest && x.east } }

/-- A slot sent on, unless this site removes it (R18, R26). -/
def forwardSlot (x : RingSlot) (s : State) : State := if removesSlots x.east s then s else sendSlot x s

/-- A message's composition epoch is current, or the previous one within its 4 tides (R58). -/
def compCurrent (e : Nat) (s : State) : Bool :=
  e == s.man.compEpoch || ((e + 1) % 65536 == s.man.compEpoch && decide (s.tide.count < s.man.compSince + 4))

/-! CONTROL messages that no row of their own delivers. -/

/-- The announced end of a rotation or removal (R396, R398). -/
def keyBoundary (charter at_ : Nat) (removal : Bool) (s : State) : State :=
  { s with sec := { s.sec with sweeps := s.sec.sweeps.map fun x =>
      if x.charter == charter && x.removal == removal then { x with endAt := some at_ } else x } }

/-- A CONTROL message acted on (R26, R30, R54, R342, R344, R396). -/
def takeControl (code : Nat) (args : List Nat) (s : State) : State :=
  match args with
  | [] => s
  | a :: r =>
    if code = ctlDrainDone ∧ a = self s then (match r with | n :: e :: _ => drained n e s | _ => s)
    else if code = ctlUncertain ∧ a = self s then
      (match r with
        | e :: offs =>
          let d := (entryOf e s).homeDevice
          { s with ing := { s.ing with uncertain := s.ing.uncertain ++ offs.map fun o => (d, e, o) } }
        | _ => s)
    else if code = ctlLoss then (match r with | b :: _ => { s with ring := { s.ring with losses := tput s.ring.losses a b } } | _ => s)
    else if code = ctlRestore then { s with ring := { s.ring with restoreAt := some a } }
    else if code = ctlSpliceGrant ∧ a = s.tide.site ∧ (s.isl.bypass = .releasing ∨ s.isl.bypass = .closing) then
      (match r with | _ :: b :: _ => { s with isl := { s.isl with granted := some b } } | _ => s)
    else if code = ctlSpanReport then
      (if isMaster s then { s with ring := { s.ring with spanReports := tput s.ring.spanReports a s.tide.count } } else s)
    else if code = ctlQueue then (match r with | q :: o :: v :: _ => peerQueue a q o (v == 1) s | _ => s)
    else if code = ctlKeyBoundary then (match r with | b :: k :: _ => keyBoundary a b (k == 1) s | _ => s)
    else s

/-- Ring messages under a stale composition epoch discarded and counted (R58). -/
def countStale (s : State) : State := { s with ring := { s.ring with staleDiscards := s.ring.staleDiscards + 1 } }

/-- A message handled once; a stale one is discarded and counted (R28, R58). The identifiers of the last 1,024 messages handled are
remembered: R28 gives no number (DESIGN CHOICE, log 18). -/
def takeMessage (x : RingSlot) (s : State) : State :=
  match slotMsg x with
  | .control d id code args =>
    if !payloadOk x || d == self s then s
    else if !compCurrent (slotComp x) s then countStale s
    else if s.ring.handled.contains (d, id) then s
    else takeControl code args
      { s with ring := { s.ring with handled := ((d, id) :: s.ring.handled).take 1024 } }
  | .accept _ d _ _ _ _ _ _ => if d ≠ self s ∧ compCurrent (slotComp x) s = false then countStale s else s
  | _ => s

/-- The message a slot that its owner has just emptied takes: the first that waits for its direction; snoops together, up to 8 of
the same number of reissues (R19, R22, R28, R119). -/
def nextMessage (east : Bool) (s : State) : Option (RingTx × List RingTx) :=
  let free (t : RingTx) : Bool := t.slot.isNone && t.east == east
  match s.ring.tx.find? free with
  | none => none
  | some t =>
    match t.msg with
    | .snoop _ =>
      let isSnoop (x : RingTx) : Bool :=
        free x && x.reissues == t.reissues && (match x.msg with | .snoop _ => true | _ => false)
      let mine := (s.ring.tx.filter isSnoop).take 8
      let qs := mine.flatMap fun x => match x.msg with | .snoop q => q | _ => []
      some ({ t with msg := .snoop qs }, mine.foldl (fun l x => l.erase x) s.ring.tx)
    | _ => some (t, s.ring.tx.erase t)

/-- An owned slot passes its owner: a waiting message is written, or it leaves EMPTY (R19, R21); the rest of a long CONTROL
message waits for the next owned slot. A site that removes the slots of a direction sends none (R26). -/
def fillSlot (east : Bool) (n : Nat) (s : State) : State :=
  if removesSlots east s then s
  else
    match nextMessage east s with
    | none => sendSlot (emptySlot east n s) s
    | some (t, rest) =>
      let more := if moreControl t.msg t.at_ then [{ t with at_ := t.at_ + 480 }] else []
      let t := { t with slot := some n, routeEpoch := s.man.routeEpoch, compEpoch := s.man.compEpoch }
      sendSlot (makeSlot east n t.msg t.at_ s.man.routeEpoch s.man.compEpoch s)
        { s with ring := { s.ring with tx := more ++ rest ++ [t] } }

/-- Is a slot number owned by this site (R19)? -/
def ownNumber (n : Nat) (s : State) : Bool := n % max 1 s.tide.sites == s.tide.site

/-- The slot of a place in the train that this site originates on a broken ring (R26). -/
def originate (east : Bool) (position : Nat) (s : State) : State :=
  if ownNumber position s then fillSlot east position s else sendSlot (emptySlot east position s) s

/-- RING_SLOT_ARRIVE: a slot is checked and sent on (R18, R21 to R23, R26, R58). The bypass only sends it on; a core in RELEASING
listens to its CONTROL messages (R29). A healthy SNOOP slot is sent on with its answers (SNOOP_ANSWER). `position` is the
slot's number by its place in the train; the site just past a failed link sends its own slot of that place instead. -/
def execRingSlotArrive (slot : RingSlot) (position : Nat) (s : State) : Ans :=
  .next <|
    if !onRing s then
      let s := emit (.slot slot) s
      if coreRuns s && s.isl.bypass == .releasing && headerOk slot && slotKind slot == 3 then takeMessage slot s else s
    else if originates slot.east s then originate slot.east position s
    else if !headerOk slot then
      forwardSlot (emptySlot slot.east position s) { s with ring := { s.ring with headerErrors := s.ring.headerErrors + 1 } }
    else if 6 ≤ slotKind slot then
      forwardSlot slot { s with ring := { s.ring with reservedSeen := s.ring.reservedSeen + 1 } }
    else if slotKind slot = 1 then
      if answersOk slot then s else forwardSlot (withAnswers (List.replicate 256 0xBB#8) slot) s
    else forwardSlot slot (takeMessage slot s)

/-- Nibble k of a snoop's 32 answer bytes set. -/
def setNibble (a : Bytes) (snoop site nib : Nat) : Bytes :=
  let i := 32 * snoop + site / 2
  let old := (slice a i 1).headD 0#8
  let new := if site % 2 = 0 then old &&& 0xF0#8 ||| BitVec.ofNat 8 nib else old &&& 0x0F#8 ||| BitVec.ofNat 8 (16 * nib)
  splice' a i [new]

/-- SNOOP_ANSWER: this site's answer to each snoop of a slot, retry where the payload cannot be read (R22, R27, R120). Snoops of a
stale composition epoch are discarded and counted, and not answered (R58). -/
def execSnoopAnswer (slot : RingSlot) (s : State) : Ans :=
  .next <|
    if !onRing s then emit (.slot slot) s
    else if slotOwner slot = s.tide.site ∨ slotKind slot ≠ 1 then s
    else if !answersOk slot then forwardSlot (withAnswers (List.replicate 256 0xBB#8) slot) s
    else if !compCurrent (slotComp slot) s then forwardSlot slot (countStale s)
    else
      let r := if payloadOk slot then
          (snoopsOf (slice slot.block 12 496)).foldl (fun (acc : Bytes × State × Nat) q =>
            let p := answerSnoop (slotOwner slot) q acc.2.1
            (setNibble acc.1 acc.2.2 s.tide.site p.1, p.2, acc.2.2 + 1)) (fit 256 slot.answers, s, 0)
        else
          ((List.range 8).foldl (fun a i => setNibble a i s.tide.site ansRetry) (fit 256 slot.answers), s, 0)
      forwardSlot (withAnswers r.1 slot) r.2.1

/-- A message whose slot came back EMPTY: reissued up to three times, then its writer is told (R28). -/
def reissue (t : RingTx) (s : State) : State :=
  let s := { s with ring := { s.ring with tx := s.ring.tx.erase t } }
  if t.reissues < 3 then
    { s with ring := { s.ring with tx := { t with slot := none, reissues := t.reissues + 1 } :: s.ring.tx } }
  else
    let s := raise 0x0907 [(evDetail, slotType t.msg)] s
    match t.msg with
    | .snoop qs => qs.foldl (fun s q => roundReturns q.snoopId [] s) s
    | _ => s

/-- SLOT_RETURN: an owned slot is back after its lap: its message is taken out, or reissued where the slot is EMPTY, has a bad
header or has not come back, and a new message is written into it (R19, R23, R28). On a broken ring nothing is reissued (R26). A
slot of another owner goes on as it came. -/
def execSlotReturn (slot : SlotBack) (s : State) : Ans :=
  .next <|
    let east := slot.east
    let position := slot.position
    let slot := slot.slot
    if !onRing s then (match slot with | some x => emit (.slot x) s | none => s)
    else
      let good := match slot with | some x => headerOk x | none => false
      let kind := match slot with | some x => if good then slotKind x else 0 | none => 0
      let n := match slot with | some x => if good then slotNumber x else position | none => position
      if !ownNumber n s then (match slot with | some x => forwardSlot x s | none => s)
      else
        let s := if slot.isSome && !good then { s with ring := { s.ring with headerErrors := s.ring.headerErrors + 1 } } else s
        let s := match s.ring.tx.find? fun t => t.slot == some n && t.east == east with
          | none => s
          | some t =>
            if kind ≠ 0 ∨ s.ring.broken.isSome = true then { s with ring := { s.ring with tx := s.ring.tx.erase t } }
            else reissue t s
        fillSlot east n s

/-- An item of a block that came in a DATA slot goes on from port 130 (R22, R293). -/
def ringItem (kind : Nat) (b : Bytes) (s : State) : State :=
  let a := arrivedItem kind b
  let r := reqOf b []
  if kind = 1 ∧ r.home ≠ self s then
    match mapOf r.routeEpoch s with
    | none => returnRequest b s
    | some m => match deviceCtx r.home m s with
      | some k => enterItem 130 k 1 a.2 0 0 a.1 s
      | none => s
  else
    match (if kind = 2 then wayOf 999 2 b s else .here) with
    | .ctx k => enterItem 130 k 2 a.2 0 0 a.1 s
    | _ => s

/-- DATA_SLOT_RECEIVE: the items of a block for this device that go on are queued; those for its own units come by their own
rows (R22, R281). A block under a stale composition epoch is discarded and counted (R58). -/
def execDataSlotReceive (slot : RingSlot) (s : State) : Ans :=
  .next <|
    if !onRing s || slotKind slot != 5 || !payloadOk slot then s
    else if !compCurrent (slotComp slot) s then countStale s
    else
      let h := linkHdr slot.block
      match blockItems h.kind h.unitMap (slice slot.block 12 496) with
      | none => s
      | some items => items.foldl (fun s x => ringItem h.kind x.2 s) s

/-- RING_MEASURE: a span longer than 24 ns a hop, or an LZ4 partner, leaves the ring port disabled (R12, R18, R22). A span
within its limit is followed by this site's own IDENTIFY in that direction, with role span (R22). What training finds of the
ring's sites is kept: the spec does not say by which slots a site learns them (DESIGN CHOICE, log 18). -/
def execRingMeasure (east : Bool) (spanTenthsNs hops : Nat) (ident : Option RingFound) (s : State) : Ans :=
  onCore s fun s =>
    let s := match ident with
      | some (.ring m) =>
        { s with tide := { s.tide with sites := m.sites, site := m.site }, ring := { s.ring with map := m.devices } }
      | _ => s
    match ident with
    | some (.partner i) =>
      if i.partClass = 2 then recordReason 0x0203 { s with ring := { s.ring with disabled := some 0x0203 } }
      else { s with ring := { s.ring with partners := tput s.ring.partners (b2n east) i } }
    | _ =>
      if 240 * hops < spanTenthsNs then recordReason 0x0901 { s with ring := { s.ring with disabled := some 0x0901 } }
      else emit (.ring east (.measure 0 (some (ownIdent 3 false s)))) s

/-- Messages that wait when the ring breaks leave in the directions that reach their receivers (R26). -/
def redirect (s : State) : State :=
  let out := (s.ring.tx.filter fun t => t.slot.isNone).flatMap fun t => match t.dest with
    | some d => [{ t with east := eastTo d s }]
    | none => ([true, false].filter fun e => !removesSlots e s).map fun e => { t with east := e }
  { s with ring := { s.ring with tx := out ++ s.ring.tx.filter fun t => t.slot.isSome } }

/-- RING_LINK_FAIL: the ring is broken behind the site `link`; rounds under way wait for its repair (R26, R128). -/
def execRingLinkFail (link : Nat) (s : State) : Ans :=
  onCore s fun s =>
    if s.ring.broken.isSome then s
    else
      let isSnoop (t : RingTx) : Bool := match t.msg with | .snoop _ => true | _ => false
      redirect (raise 0x0903 [(evDetail, link)] { s with ring := { s.ring with
        broken := some link, tx := s.ring.tx.filter fun t => !isSnoop t } })

/-- RING_LINK_RESTORE: the master announces the boundary of the restored train, at least 4 tides ahead (R26): exactly 4
(DESIGN CHOICE, log 18). -/
def execRingLinkRestore (link : Nat) (s : State) : Ans :=
  onCore s fun s =>
    if s.ring.broken = some link ∧ isMaster s = true then
      let b := s.tide.count + 4
      broadcast ctlRestore [b] { s with ring := { s.ring with restoreAt := some b } }
    else s

/-- The whole train again at the announced boundary; rounds under way are repeated (R26, R128). -/
def trainRestored (s : State) : State :=
  match s.ring.restoreAt with
  | none => s
  | some b =>
    if s.tide.count < b then s
    else
      let s := { s with ring := { s.ring with broken := none, restoreAt := none } }
      s.home.rounds.foldl (fun s r => match s.home.rounds.find? fun x => x.snoopId == r.snoopId with
        | some x => if x.ask = [] then s else reAsk x s
        | none => s) s

/-- TRAIN_RESTORE (R26, R128). -/
def execTrainRestore (s : State) : Ans := onCore s trainRestored

/-! Tide markers. -/

/-- Lock is lost; the device keeps counting on its own reference (R25). -/
def loseLock (s : State) : State :=
  if s.tide.locked then raise 0x0902 [] { s with tide := { s.tide with locked := false } } else s

/-- A correction of at most 0.4 ns (R24). -/
def clamp4 (x : Int) : Int := max (-4) (min 4 x)

/-- The device at a site (R24). -/
def deviceAt (site : Nat) (s : State) : Option Nat :=
  match (s.man.comp.sites ++ s.ring.map).find? fun p => p.2 == site with
  | some p => some p.1
  | none => none

/-- The master whose marker came over some hops (R15, R24); the field stays where the site map does not know its site. -/
def masterOf (east : Bool) (hops : Nat) (s : State) : Nat :=
  let n := max 1 s.tide.sites
  let k := if east then (s.tide.site + n - hops % n) % n else (s.tide.site + hops) % n
  (deviceAt k s).getD s.tide.master

/-- A marker in use: the counter's phase corrected by at most 0.4 ns, or lock lost where the correction exceeds 16 ns (R24,
R25). `offset` is the correction called for, in 0.1 ns. -/
def useMarker (hops : Nat) (offset : Int) (s : State) : State :=
  if 160 < offset ∨ offset < -160 then loseLock s
  else { s with tide := { s.tide with hops := hops, offset := offset, phase := s.tide.phase + clamp4 offset } }

/-- A request to the master for a splice (R30); the master's own waits at itself. A core that is not yet on the ring owns no
slots: the spec does not say in which slot its request leaves, and the model sends it as it is (DESIGN CHOICE, log 18). -/
def askSplice (leave : Bool) (s : State) : State :=
  let ask : SpliceReq := { site := s.tide.site, leave := leave, tide := s.tide.count }
  if isMaster s then { s with ring := { s.ring with splices := s.ring.splices ++ [ask] } }
  else if leave then control (some s.tide.master) ctlSpliceAsk [s.tide.site, b2n leave] s
  else emit (.ring (eastTo s.tide.master s) (.control (self s) s.ring.nextMsg ctlSpliceAsk [s.tide.site, b2n leave]))
    { s with ring := { s.ring with nextMsg := (s.ring.nextMsg + 1) % 65536 } }

/-- TIDE_MARKER_RECEIVE: the boundary placed and the counter's phase corrected by the eastbound marker, or by the westbound one
where that is missing (R15, R16, R24, R25). A westbound marker waits for the eastbound one of its boundary. The first marker
after the core started gives the count, and a core in RELEASING that has then a master asks it for its splice (R29, R30). A
device that has lost lock relocks on the first marker whose correction is at most 16 ns and takes that marker's count: the spec
does not say when a device relocks (R25; DESIGN CHOICE, log 18). -/
def execTideMarkerReceive (east : Bool) (hops count : Nat) (offset : Int) (s : State) : Ans :=
  onCore s fun s =>
    if isMaster s || s.isl.bypass == .closed then s
    else
      let heard : State := { s with tide := { s.tide with lastMarker := count, markerSeen := true, missed := 0, takeover := none,
                                                          hasMaster := true, master := masterOf east hops s } }
      if !s.tide.followed || !s.tide.locked then
        if s.tide.followed ∧ (160 < offset ∨ offset < -160) then s
        else
          let s' : State := { heard with tide := { heard.tide with
            count := count, followed := true, locked := true, hops := hops, offset := 0,
            eastMark := if east then some count else none, wests := [] } }
          if s.isl.bypass = .releasing ∧ s.tide.hasMaster = false then askSplice false s' else s'
      else if east then
        if s.tide.eastMark = some count then heard
        else useMarker hops offset { heard with tide := { heard.tide with
          eastMark := some count, wests := s.tide.wests.filter fun w => decide (count < w.1) } }
      else if s.tide.eastMark = some count then heard
      else { heard with tide := { heard.tide with wests := s.tide.wests ++ [(count, hops, offset)] } }

/-- One lap after its boundary a westbound marker whose eastbound one is missing is used (R18, R24). -/
def westDue (s : State) : State :=
  let due := s.tide.wests.filter fun w => decide (24 * s.tide.sites ≤ (s.tide.count - w.1) * tau s)
  due.foldl (fun s w => useMarker w.2.1 w.2.2 s)
    { s with tide := { s.tide with wests := s.tide.wests.filter fun w => !due.contains w } }

/-- The device with the next lowest ID among the active members that remain (R17). -/
def nextMaster (s : State) : Option Nat :=
  let members := if s.man.comp.members = [] then s.ring.map.map fun p => p.1 else s.man.comp.members
  (sorted members).find? fun d => d != s.tide.master && !s.ing.lostHomes.contains d

/-- MARKER_MISSED: two missed markers lose the master, whose successor takes over at b+3; a third without one loses lock (R17,
R25). -/
def execMarkerMissed (s : State) : Ans :=
  onCore s fun s =>
    if isMaster s || s.isl.bypass == .closed then s
    else
      let m := s.tide.missed + 1
      let s := { s with tide := { s.tide with missed := min 255 m } }
      if m = 2 ∧ s.tide.hasMaster = true then
        { s with tide := { s.tide with
          takeover := if nextMaster s = some (self s) then some (s.tide.lastMarker + 3) else none } }
      else if 3 ≤ m ∧ s.tide.takeover = none then loseLock s
      else s

/-- The new master from boundary b+3 on, which it originates like every later one (R17). -/
def takeOver (s : State) : State :=
  match s.tide.takeover with
  | none => s
  | some b =>
    if s.tide.count + 1 < b then s
    else
      { s with tide := { s.tide with takeover := none, master := self s, hasMaster := true, hops := 0, missed := 0,
                                     lastMarker := b - 1, locked := true, wests := [] },
               ring := { s.ring with heartbeats := s.man.comp.members.foldl (fun t d => tput t d b) [] } }

/-- MASTER_TAKEOVER (R17). -/
def execMasterTakeover (s : State) : Ans := onCore s takeOver

/-- The master's marker of the present boundary, once: the next slot of each direction carries it (R15, R17, R21). -/
def sendMarker (s : State) : State :=
  if isMaster s && s.tide.lastMarker != s.tide.count then
    { s with tide := { s.tide with lastMarker := s.tide.count, markerSeen := true },
             ring := { s.ring with markEast := true, markWest := true } }
  else s

/-! The bypass. -/

/-- BYPASS_RELEASE_REQUEST: the ring ports trained, the bypass enters RELEASING (R18, R29). -/
def execBypassReleaseRequest (s : State) : Ans :=
  onCore s fun s =>
    if s.isl.bypass = .closed ∧ s.ring.disabled = none ∧ 0 < s.tide.sites then
      askSplice false { s with isl := { s.isl with bypass := .releasing } }
    else s

/-- BYPASS_RELEASE_TIMEOUT (R29). -/
def execBypassReleaseTimeout (s : State) : Ans :=
  .next (if s.isl.bypass = .releasing then { s with isl := { s.isl with bypass := .closed, granted := none } } else s)

/-- BYPASS_LEAVE_REQUEST (R29). -/
def execBypassLeaveRequest (s : State) : Ans :=
  onCore s fun s =>
    if s.isl.bypass = .open then askSplice true { s with isl := { s.isl with bypass := .closing } } else s

/-- SPLICE_REQUEST arrives at the master (R30). -/
def execSpliceRequest (site : Nat) (leave : Bool) (s : State) : Ans :=
  onCore s fun s =>
    if !isMaster s || s.ring.splices.any (fun x => x.site == site) ||
        s.ring.grants.any (fun x => x.site == site && decide (s.tide.count < x.tide)) then s
    else { s with ring := { s.ring with splices := s.ring.splices ++ [{ site := site, leave := leave, tide := s.tide.count }] } }

/-- One pending splice granted in a tide; refused where a composition change is pending for the boundary (R30, R38, R58). The
boundary is the first that R30 allows, 4 tides ahead (DESIGN CHOICE, log 18). -/
def grantSplice (s : State) : State :=
  let b := s.tide.count + 4
  if !isMaster s || s.ring.grants.any (fun g => g.tide == b) then s
  else
    match tieWinner s.tide.count (List.range s.tide.sites) (s.ring.splices.map fun x => x.site) with
    | none => s
    | some k =>
      match s.ring.splices.find? fun x => x.site == k with
      | none => s
      | some x =>
        let s := { s with ring := { s.ring with splices := s.ring.splices.erase x } }
        let pending := s.man.notices.any fun n => n.atTide == b && (match n.change with | .composition _ _ => true | _ => false)
        if pending then broadcast ctlSpliceRefused [k] (recordReason 0x0905 s)
        else
          let s := { s with ring := { s.ring with grants := (s.ring.grants.filter fun g => decide (s.tide.count ≤ g.tide)) ++
              [{ x with tide := b }] } }
          if k = s.tide.site then { s with isl := { s.isl with granted := some b } }
          else broadcast ctlSpliceGrant [k, b2n x.leave, b] s

/-- SPLICE_GRANT (R30, R38). -/
def execSpliceGrant (s : State) : Ans := onCore s grantSplice

/-- The master forms both trains: slots 0 to 6S - 1 of each direction, EMPTY (R18). -/
def formTrain (s : State) : State :=
  let n := List.range (6 * s.tide.sites)
  (n.map (true, ·) ++ n.map (false, ·)).foldl (fun s p => sendSlot (emptySlot p.1 p.2 s) s) s

/-- At the first start of a domain this device is the active ring member with the lowest device ID, as ring training found
them (R15). -/
def lowestOnRing (s : State) : Bool := s.ring.map.all fun p => decide (self s ≤ p.1)

/-- The path switches at the granted boundary (R29, R30). On a ring without a master the member with the lowest ID goes onto it as
the master, in tide 0, and forms the train (R15, R16, R18). -/
def splice (s : State) : State :=
  let due := match s.isl.granted with | some b => decide (b ≤ s.tide.count) | none => false
  let first := !s.tide.hasMaster && !s.tide.followed && lowestOnRing s
  if s.isl.bypass = .releasing ∧ (due = true ∨ first = true) then
    let s := { s with isl := { s.isl with bypass := .open, granted := none } }
    if !first then s
    else formTrain { s with
      tide := { s.tide with hasMaster := true, master := self s, locked := true, hops := 0, count := 0, lastMarker := 0,
                            markerSeen := true },
      ring := { s.ring with markEast := true, markWest := true } }
  else if s.isl.bypass = .closing ∧ due = true then { s with isl := { s.isl with bypass := .closed, granted := none } }
  else s

/-- SPLICE (R29, R30). -/
def execSplice (s : State) : Ans := onCore s splice

/-- The bypass CLOSED at once, from any state (R31). -/
def closeBypass (s : State) : State := { s with isl := { s.isl with bypass := .closed, granted := none } }

/-- BYPASS_CLOSE (R31). -/
def execBypassClose (s : State) : Ans := .next (closeBypass s)

/-- CORE_HEARTBEAT_TIMEOUT (R31). -/
def execCoreHeartbeatTimeout (s : State) : Ans := .next (closeBypass s)

end Sys2Proof.Machine
end

