-- ==== Sys2Proof/Machine/Keys.lean ====
section
/-! DEFINITION. Sweeps, the ends of rotations and removals, page maps, entry into confidential mode, and lighter records (R380,
R390 to R398, R417, R446). -/

namespace Sys2Proof.Machine
open Sys2Proof

/-! Rotations. -/

/-- A charter's rotation or removal on this device. -/
def sweepOf (c : Nat) (removal : Bool) (s : State) : Option Sweep :=
  s.sec.sweeps.find? fun x => x.charter == c && x.removal == removal

/-- A rotation or removal changed in its place. -/
def setSweep (x : Sweep) (s : State) : State :=
  { s with sec := { s.sec with sweeps := s.sec.sweeps.map fun y =>
      if y.charter == x.charter && y.removal == x.removal then x else y } }

/-- Pages of a charter homed here that are written under an epoch other than the current one: entry, page and address (R395). -/
def oldPages (c : Nat) (s : State) : List (Nat × Nat × Nat) :=
  let ep := epochOf c s
  (s.home.pages.filter fun p =>
    let e := entryOf (p.1 / 2 ^ 18) s
    e.charter == c && e.homeDevice == self s && e.state != 0 && decide (8 ≤ p.2 ∧ p.2 % 4 ≠ ep)).map fun p =>
      (p.1 / 2 ^ 18, p.1 % 2 ^ 18, (entryOf (p.1 / 2 ^ 18) s).baseFpa + p.1 % 2 ^ 18 * 4096)

/-- Stage pages of a charter under an old epoch (R387, R395). -/
def oldStagePages (c : Nat) (s : State) : List Nat :=
  (s.sec.stagePages.filter fun p => p.2.1 == c && p.2.2 != epochOf c s).map fun p => p.1

/-- The page to sweep next: the lowest address (R395). -/
def nextPage (c : Nat) (s : State) : Option (Nat × Nat) :=
  match oldPages c s with
  | [] => none
  | p :: r =>
    let b := r.foldl (fun b q => if q.2.2 < b.2.2 then q else b) p
    some (b.1, b.2.1)

/-- The in-flight counter of a charter's RETIRING slot: steps that still read a page under an old epoch (R396). -/
def inFlightSteps (c : Nat) (s : State) : Nat :=
  s.home.queues.countP fun p => match p.2.batch with
    | none => false
    | some b =>
      let x := stepEntry p.1 b s
      decide (b.kind ≤ 1) && x.2.1.charter == c && (b.stage != 2) &&
      (match stepPage p.1 b s with | some ep => ep != epochOf c s | none => false)

/-- The issuer's record of a charter's rotation or removal that has taken effect. -/
def issuedFor (c : Nat) (removal : Bool) (s : State) : Option Issued :=
  s.man.issued.find? fun i => i.applied && (match i.change with
    | .charterRotate k _ _ => k == c && !removal
    | .charterRevoke k => k == c && removal
    | _ => false)

/-- Every live member has reported: the issuer names the boundary 4 tides on and announces it (R396, R398). -/
def announceEnd (c : Nat) (removal : Bool) (s : State) : State :=
  match issuedFor c removal s with
  | none => s
  | some i =>
    if i.endAt.isSome || !(i.awaiting.all fun m => i.reports.contains m || s.ing.lostHomes.contains m) then s
    else
      let b := s.tide.count + 4
      keyBoundary c b removal (broadcast ctlKeyBoundary [c, b, b2n removal] (setIssued { i with endAt := some b } s))

/-- A member's done report, with its counts for a removal, at the issuer (R396, R398). -/
def takeReport (c device : Nat) (removal : Bool) (counts : List Nat) (s : State) : State :=
  match issuedFor c removal s with
  | none => s
  | some i =>
    if i.reports.contains device then s
    else
      let tally := if removal then (i.tally.zip counts).map fun p => p.1 + p.2 else i.tally
      announceEnd c removal (setIssued { i with reports := insertSorted device i.reports, tally := tally } s)

/-- This device reports its rotation done once its sweep is at the end and its in-flight counter is zero (R396). -/
def reportRotation (c : Nat) (s : State) : State :=
  match sweepOf c false s with
  | none => s
  | some x =>
    if x.reported || oldPages c s != [] || oldStagePages c s != [] || inFlightSteps c s != 0 then s
    else takeReport c (self s) false [] (broadcast ctlRotationDone [c, self s] (setSweep { x with reported := true } s))

/-- A step of a page: its 64 granules read, and written under the current epoch (R395). -/
def sweepPage (entry page : Nat) (s : State) : State :=
  let key := 2 ^ 60 + 2 ^ 56 + entry * 2 ^ 36 + page
  let b := newStep 1 (entry, page) []
  if (queueOf key s).batch.isSome ∨ stepFree key b s = false ∨ s.home.pageWait.contains entry = true then s
  else endOwnStep key (pumpReads key (setQueue key { queue := [], batch := some b } s))

/-- A page step of this entry and page is under way. -/
def sweeping (entry page : Nat) (s : State) : Bool :=
  (queueOf (2 ^ 60 + 2 ^ 56 + entry * 2 ^ 36 + page) s).batch.isSome

/-- SWEEP_PAGE_STEP: the charter's next page within the rate (R395); an entry of 2^19 or more stands for Stage, whose controllers
sweep their pages the same way. -/
def execSweepPageStep (charter entry page : Nat) (s : State) : Ans :=
  onCore s fun s =>
    match sweepOf charter false s with
    | none => s
    | some x =>
      if x.credit < 4096 then s
      else if 2 ^ 19 ≤ entry then
        if (oldStagePages charter s).head? = some page then
          reportRotation charter (setSweep { x with credit := x.credit - 4096 }
            { s with sec := { s.sec with stagePages := tput s.sec.stagePages page (charter, epochOf charter s) } })
        else reportRotation charter s
      else if nextPage charter s = some (entry, page) ∧ sweeping entry page s = false then
        sweepPage entry page (setSweep { x with credit := x.credit - 4096 } s)
      else reportRotation charter s

/-- ROTATION_DONE_REPORT (R396). -/
def execRotationDoneReport (charter device : Nat) (s : State) : Ans :=
  onCore s (takeReport charter device false [])

/-- A rotation ends at its announced boundary: the old slot zeroized and EMPTY (R396). -/
def finishRotation (c : Nat) (s : State) : State :=
  match sweepOf c false s, tget s.man.charters c with
  | some x, some ch =>
    (match x.endAt with
      | none => s
      | some b =>
        if s.tide.count < b then s
        else
          let old := (ch.epoch + 1) % 2
          let ch := if old = 0 then { ch with rotating := false, slot0 := 0 } else { ch with rotating := false, slot1 := 0 }
          let s := { s with man := { s.man with charters := tput s.man.charters c ch },
                            sec := { s.sec with keys := tdel s.sec.keys (2 * c + old),
                                                sweeps := s.sec.sweeps.filter fun y => y.charter != c || y.removal } }
          match issuedFor c false s with
          | some i => completeIssued i.number 0 none none [] s
          | none => s)
  | _, _ => s

/-- ROTATION_COMPLETE (R396). -/
def execRotationComplete (charter : Nat) (s : State) : Ans := onCore s (finishRotation charter)

/-! Removals. -/

/-- The charter's items that this device still holds: its drain counter is not zero, or a drain of its entries is open (R398). -/
def removalBusy (c : Nat) (s : State) : Bool :=
  let shore (k : Nat) : Bool := match tget s.ports.ctxs k with | some x => x.role == 1 | none => false
  (s.ing.outst.any fun o => o.req.charter == c) || (s.home.reqs.any fun h => h.req.charter == c) ||
  (s.ing.policed.any fun p => p.req.charter == c) || (s.ing.reads.any fun w => w.charter == c) ||
  (s.home.drains.any fun d => (entryOf d.1 s).charter == c) ||
  (s.home.queues.any fun p => match p.2.batch with
    | some b => b.kind == 1 && (entryOf b.place.1 s).charter == c
    | none => false) ||
  (s.sw.cells.any fun x => shore x.ctx && x.items.any fun i => i.charter == some c && decide (0x80 ≤ i.opcode)) ||
  (s.acc.jobs.any fun j => charterOf j == c &&
    (j.phase != .completing && j.phase != .posted && j.phase != .delivered && j.phase != .retiring))

/-- This device reports its removal done, with its counts, once it holds nothing of the charter (R398). -/
def reportRemoval (c : Nat) (s : State) : State :=
  match sweepOf c true s with
  | none => s
  | some x =>
    if x.reported || removalBusy c s then s
    else
      let counts := [x.poisoned, x.refused, x.stopped]
      takeReport c (self s) true counts (broadcast ctlRemovalDone ([c, self s] ++ counts) (setSweep { x with reported := true } s))

/-- REMOVAL_DONE_REPORT (R398). -/
def execRemovalDoneReport (charter device poisoned refused stopped : Nat) (s : State) : Ans :=
  onCore s (takeReport charter device true [poisoned, refused, stopped])

/-- What a member clears when a removal completes (R398). -/
def clearCharter (c : Nat) (s : State) : State :=
  let s := lockStage c s
  { s with
    man := { s.man with charters := tdel s.man.charters c, members := tdel s.man.members c },
    sec := { s.sec with keys := tdel (tdel s.sec.keys (2 * c)) (2 * c + 1),
                        stagePages := s.sec.stagePages.filter fun p => p.2.1 != c,
                        sweeps := s.sec.sweeps.filter fun y => y.charter != c,
                        zeroized := s.sec.zeroized.filter fun z => z != c },
    home := { s.home with pages := s.home.pages.filter fun p => (entryOf (p.1 / 2 ^ 18) s).charter != c } }

/-- A removal ends at its announced boundary; the command's answer carries the numbers poisoned, refused and stopped (R398). -/
def finishRemoval (c : Nat) (s : State) : State :=
  match sweepOf c true s with
  | none => s
  | some x =>
    match x.endAt with
    | none => s
    | some b =>
      if s.tide.count < b then s
      else
        let s' := clearCharter c s
        match issuedFor c true s with
        | some i => completeIssued i.number 0 none none (i.tally.flatMap fun n => le 8 n) s'
        | none => s'

/-- REMOVAL_COMPLETE (R398). -/
def execRemovalComplete (charter : Nat) (s : State) : Ans := onCore s (finishRemoval charter)

/-- Rotations and removals at a boundary: the sweep's rate starts afresh, finished ones end, and done reports go out (R395 to
R398). -/
def keyTide (s : State) : State :=
  let s := { s with sec := { s.sec with sweeps := s.sec.sweeps.map fun (x : Sweep) =>
      { x with credit := min (max 4096 (x.rate * tau s)) (x.credit + x.rate * tau s) } } }
  s.sec.sweeps.foldl (fun s x =>
    if x.removal then finishRemoval x.charter (reportRemoval x.charter s)
    else finishRotation x.charter (reportRotation x.charter s)) s

/-! Page maps. -/

/-- PAGE_MAP_TRANSFER: the map taken, and the held requests go on (R390). -/
def execPageMapTransfer (entry : Nat) (pages : Tbl Nat) (s : State) : Ans :=
  onCore s fun s =>
    if !s.home.pageWait.contains entry then s
    else
      let kept := s.home.pages.filter fun p => p.1 / 2 ^ 18 != entry
      { s with home := { s.home with
          pages := pages.foldl (fun t p => tput t (2 ^ 18 * entry + p.1 % 2 ^ 18) (p.2 % 16)) kept,
          pageWait := s.home.pageWait.filter fun x => x != entry } }

/-! Confidential mode. -/

/-- Answers that wait for room in the plain rings leave on their lighters (R417). -/
def moveAnswers (s : State) : State :=
  s.hm.boxes.foldl (fun s p =>
    let b := boxOf p.1 s
    let s := setBox p.1 { b with waiting := [] } s
    b.waiting.foldl (fun s a =>
      let s := lighterSend p.1 2 a.1 s
      match a.2 with
      | some j => retireJob j.2 s
      | none => s) s) s

/-- Confidential mode entered at the boundary that was named: the latch set and measured, the command answered (R380, R417, R439). -/
def enterConfidential (s : State) : State :=
  match s.sec.enterAt with
  | none => s
  | some (b, h) =>
    if s.tide.count < b then s
    else
      moveAnswers (result h 0x0E01 0 []
        (measureSecurity { s with sec := { s.sec with enterAt := none, latch := true, confidential := true } }))

/-- CONFIDENTIAL_ENTRY (R380). -/
def execConfidentialEntry (s : State) : Ans := onCore s enterConfidential

/-! Lighter records. -/

/-- The record at a lighter's inbound head is passed, and the next one is read when there is one (R446, R476). -/
def passRecord (l len : Nat) (s : State) : State :=
  let x := lighterOf l s
  let ring := ringBytes x / 64
  let units := cdiv (48 + roundUp len 16) 64
  let at_ := x.inHead % ring
  let wrap := if at_ + units ≤ ring then 0 else ring - at_
  let x := { x with inHead := (x.inHead + wrap + units) % 2 ^ 32, failures := 0 }
  let s := setLighter l x s
  if x.inHead ≠ x.inTail then emit (.lighterRead l (64 * (x.inHead % ring))) s else s

/-- A record discarded: counted, its code raised at most once a tide for the lighter (R393). -/
def discardRecord (l code : Nat) (s : State) : State :=
  raiseLimited code l 0 [(evDetail, l)] 1
    { s with sec := { s.sec with discards := tput s.sec.discards l (tgetD s.sec.discards l 0 + 1) } }

/-- A command record of lighter l taken as a command of mailbox l (R408, R417); one of a charter under removal is answered
0x1003 (R397). -/
def lighterCommand (l : Nat) (b : Bytes) (s : State) : State :=
  let r := rawHdr b
  let body := (b.drop 32).take r.bodyBytes
  if r.command = 0 then s
  else
    let h : CmdHdr := { mailbox := l, tag := r.tag, expert := bit r.flags 0, viaLighter := true }
    let gone := match descOf r.command body with | some d => charterState (descCharter d) s == 2 | none => false
    let c := if gone then 0x1003 else headerCode r body 0
    if c ≠ 0 then result h r.command c [] s
    else
      let t : Taken := { mailbox := l, tag := r.tag, command := r.command, units := 0, job := isJobCode r.command,
                         change := none }
      { s with hm := { s.hm with taken := s.hm.taken ++ [t] } }

/-- A transaction record: a pool request of the companion (R391, R443); one of a charter under removal is refused (R397). -/
def lighterTransaction (b : Bytes) (s : State) : State :=
  let k := reqOf b (b.drop 32)
  if charterState k.charter s = 2 then refuseHost (0xFC0 + self s) k.tag 0x1003 (countRemoval k.charter 0 1 0 s)
  else hostArrive k.opcode { ctx := 256, tag := k.tag, charter := k.charter, address := k.address, length := k.length,
                             tclass := k.tclass, sealWindow := k.sealWindow, aux := k.aux, payload := k.payload } s

/-- The Harbourmaster may take one more command of a mailbox (R405). -/
def takesMore (m : Nat) (s : State) : Bool :=
  fwRuns s && decide ((s.hm.taken.filter fun t => t.mailbox == m).length < 64) && decide (s.hm.taken.length < 1024)

/-- LIGHTER_RECORD: the record at the inbound head judged, and taken or discarded (R393, R397, R417). A command record stays in
its ring while the firmware cannot take it. -/
def execLighterRecord (lighter content sessionId counter : Nat) (authentic : Bool) (plaintext : Bytes) (s : State) : Ans :=
  onCore s fun s =>
    let x := lighterOf lighter s
    let live := s.sec.sessions.any fun y => y.id == sessionId && y.open_
    let known := live && (!x.bound || x.session == sessionId)
    if 16 ≤ lighter ∨ x.enable = false ∨ x.inHead = x.inTail then s
    else if x.bound ∧ 2 ^ 32 ≤ x.inCounter then passRecord lighter plaintext.length (discardRecord lighter 0x100B s)
    else if !known || counter != (if x.bound then x.inCounter else 0) then
      passRecord lighter plaintext.length (discardRecord lighter 0x100A s)
    else if !authentic then passRecord lighter plaintext.length (discardRecord lighter 0x1009 s)
    else if content = 1 ∧ takesMore lighter s = false then s
    else
      let y := if x.bound then { x with inCounter := x.inCounter + 1 }
        else { x with bound := true, session := sessionId, inCounter := 1, outCounter := 0 }
      let s := passRecord lighter plaintext.length (setLighter lighter y s)
      if content = 1 then lighterCommand lighter plaintext s
      else if content = 4 then lighterTransaction plaintext s
      else s

/-- LIGHTER_READ_RETRY: a failed read is made again; after 8 the lighter is disabled (R446). -/
def execLighterReadRetry (lighter : Nat) (s : State) : Ans :=
  onCore s fun s =>
    let x := lighterOf lighter s
    if 16 ≤ lighter ∨ x.enable = false ∨ x.inHead = x.inTail then s
    else if 8 ≤ x.failures + 1 then
      lighterCode lighter 0x1203 { unbind x with enable := false, fault := true } s
    else
      emit (.lighterRead lighter (64 * (x.inHead % (ringBytes x / 64)))) (setLighter lighter { x with failures := x.failures + 1 } s)

end Sys2Proof.Machine
end

