-- ==== Sys2Proof/Machine/Reset.lean ====
section
/-! DEFINITION. Resets, boot, power, pins, PMBus and the test port (R13, R374, R427, R430, R431, R447 to R462). -/

namespace Sys2Proof.Machine
open Sys2Proof

/-! Resets. -/

/-- What every reset of the core keeps of the Harbourmaster: SSD contents, fuses, and the image that ran (R430, R450). -/
def keptHarbour (x : Harbour) : Harbour :=
  { State.reset.hm with banks := x.banks, selects := x.selects, settings := x.settings, floor := x.floor,
                        fwRevoked := x.fwRevoked, fwKeyFuses := x.fwKeyFuses, active := x.active }

/-- The island in a reset of a kind: the bypass closed, the core in reset (R31, R450, R478). -/
def islandReset (r : ResetState) (x : Island) : Island :=
  { x with bypass := .closed, granted := none, resetState := r, exclusive := none, tap := 0 }

/-- A cold reset: only fuses, SSD contents and the island's own registers remain; a rise of VSTBY clears these too (R450,
R466). A fault that already held the core in reset stays the last cause (log 20). -/
def coldReset (vstby : Bool) (cause : Nat) (s : State) : State :=
  let i := islandReset .cold s.isl
  let i := { i with thermtrip := false, held := false, pwrSafe := false,
                    cause := if s.isl.held then s.isl.cause else cause }
  let i := if vstby then
      { State.reset.isl with resetState := .cold, devid := s.isl.devid, addr := s.isl.addr, serial := s.isl.serial }
    else i
  { State.reset with
    pending := s.pending, out := s.out, freeCount := s.freeCount, hm := keptHarbour s.hm,
    sec := { State.reset.sec with uds := s.sec.uds },
    acc := { State.reset.acc with images := s.acc.images }, isl := i }

/-- A domain change that has taken effect and still waits for reports goes on; the others are discarded (R490). -/
def keptIssued (l : List Issued) : List Issued := (l.filter fun i => i.applied).map fun i => { i with hdr := none }

/-- The Manifest through a warm reset: its tables stay, notices and commits are discarded, epochs read 0 (R450, R466, R470,
R490; log 20). -/
def keptManifest (m : Manifest) : Manifest :=
  { m with routeEpoch := 0, prevRoute := none, routeSince := 0, compEpoch := 0, compSince := 0, compTurned := false, sync := none, notices := [],
           issued := keptIssued m.issued, routeChanges := [] }

/-- A formatting at its first row (R334). -/
def firstFormat (groupId : Nat) (s : State) : Formatting :=
  match tget s.man.groups groupId with
  | some g => { next := rowsBelow g g.formatLimit, spent := 0 }
  | none => { next := 0, spent := 0 }

/-- The home through a warm reset: what lies in Stage stays, failed modules stay failed, and rebuilds, formatting and resyncs start
again at their first rows (R341, R363, R386, R450; log 20). -/
def keptHome (s : State) : Home :=
  { State.reset.home with
    receipts := s.home.receipts, fences := s.home.fences, pages := s.home.pages, failed := s.home.failed,
    rebuilds := s.home.rebuilds.map fun r => { r with spent := 0, reported := [], ranges := r.ranges.map fun x => (x.1, x.2.1, x.1) },
    formats := s.home.formats.map fun p => (p.1, firstFormat p.1 s),
    resyncs := s.home.resyncs.map fun p => (p.1, (rowOf (layOf (entryOf p.1 s) s) 0, [])) }

/-- A warm reset: Stage memory and what it holds stay, with the key slots and the latch (R226, R380, R384, R450). -/
def warmReset (cause : Nat) (s : State) : State :=
  { State.reset with
    pending := s.pending, out := s.out, freeCount := s.freeCount, refCycles := s.refCycles,
    man := keptManifest s.man,
    ring := { State.reset.ring with losses := s.ring.losses },
    ing := { State.reset.ing with lostHomes := s.ing.lostHomes },
    home := keptHome s,
    hm := { keptHarbour s.hm with programs := s.hm.programs, keys := s.hm.keys },
    acc := { State.reset.acc with images := s.acc.images, log := s.acc.log, logTail := s.acc.logTail, peers := s.acc.peers,
                                  nextLog := s.acc.nextLog, queues := s.acc.queues },
    sec := { State.reset.sec with uds := s.sec.uds, latch := s.sec.latch, keys := s.sec.keys, zeroized := s.sec.zeroized,
                                  stagePages := s.sec.stagePages,
                                  sweeps := s.sec.sweeps.map fun x => { x with reported := false, endAt := none } },
    stage := s.stage, copies := s.copies.filter fun c => c.usable,
    isl := { islandReset .warm s.isl with cause := cause } }

/-- COLD_RESET: COLD_RESET_N or VSTBY; a board reset has cause zero (R450, R478). -/
def execColdReset (vstby : Bool) (s : State) : Ans := .next (coldReset vstby 0 s)

/-- WARM_RESET: the pin, or a ring request, whose cause reads 0x0908; nothing while the core is held in reset (R450, R478). -/
def execWarmReset (ring : Bool) (s : State) : Ans :=
  .next <|
    if s.isl.held || s.isl.resetState == .cold then s
    else warmReset (if ring then 0x0908 else 0) s

/-- RESET_REQUEST: read by the island in every bypass state; stale, or naming a device not declared lost, it is discarded, and
the latter counted (R58, R452). -/
def execResetRequest (device epoch : Nat) (s : State) : Ans :=
  .next <|
    if device ≠ self s then s
    else if !compCurrent epoch s then s
    else if (tget s.ring.losses device).isNone then
      { s with ring := { s.ring with resetDiscards := s.ring.resetDiscards + 1 } }
    else if s.isl.held || s.isl.resetState == .cold then s
    else warmReset 0x0908 s

/-- The device treats a fault as loss of itself: the bypass closed, the logbook flushed, a cold reset (R296, R453). Its hold-up
reading is a free value: the fault's command carries none (log 1). -/
def selfReset (s : State) : State :=
  let s := closeBypass (raise 0x1114 [] s)
  let d := draw s
  let p := startFlush (some (d.1 % 65536)) .selfReset { d.2 with isl := { d.2.isl with cause := 0x1114 } }
  if p.1 then p.2 else coldReset false 0x1114 p.2

/-! Flushes. -/

/-- A lifeboat flush's end on its path, unless a later operation is reported there (R423, R446, R479). -/
def endLbFlush (window : Bool) (code : Nat) (s : State) : State :=
  let i := { s.isl with exclusive := none }
  let f (r : LbResult) : LbResult := if r.state = 1 then { r with state := 2, reason := code } else r
  let s := { s with isl := if window then { i with window := f i.window } else { i with sideband := f i.sideband } }
  if window && coreRuns s then signal 33 s else s

/-- What the end of a flush does for one that started it (R371, R411, R453, R459). -/
def settleOwner (code : Nat) (o : FlushOwner) (s : State) : State :=
  match o with
  | .command h => result h 0x1901 code [] s
  | .lifeboat w => endLbFlush w code (recordReason code s)
  | .powerFail => { s with isl := { s.isl with pwrSafe := true } }
  | .selfReset => coldReset false 0x1114 s

/-- A flush ended for all that started it; the device's own reset comes last. -/
def settleFlush (code : Nat) (l : List FlushOwner) (s : State) : State :=
  let own (o : FlushOwner) : Bool := match o with | .selfReset => true | _ => false
  ((l.filter fun o => !own o) ++ l.filter own).foldl (fun s o => settleOwner code o s) s

/-- FLUSH_COMPLETE: the image header is written, or the SSD write fails; waiting submissions are judged (R371). -/
def execFlushComplete (ok : Bool) (s : State) : Ans :=
  .next <|
    if s.acc.flush.isNone then s
    else
      let p := endFlush ok s
      let s := settleFlush p.1 p.2.1 p.2.2
      if coreRuns s then wakeOffers s else s

/-- LOGBOOK_FLUSH (R370, R371). -/
def execLogbookFlush (h : CmdHdr) (holdupMv : Option Nat) (s : State) : Ans :=
  onFw s fun s =>
    let p := startFlush holdupMv (.command h) s
    if p.1 then p.2 else result h 0x1901 0x130B [] p.2

/-! Boot. -/

/-- The bank of the select record with the highest count (R430). -/
def selectedBank (s : State) : Nat :=
  let top := (s.hm.selects.map fun x => x.1).foldl max 0
  match s.hm.selects.find? fun x => x.1 == top with
  | some x => x.2 % 2
  | none => s.hm.active % 2

/-- A bank passes: its checks of R427, its header valid, its svn not below the floor (R430, R437). -/
def bankPasses (n : Nat) (ok : Bool) (s : State) : Bool :=
  ok && (match tget s.hm.banks n with
    | some b => b.valid && decide (s.hm.floor ≤ imageSvn b.image)
    | none => true)

/-- Banks below the floor marked invalid at a boot (R437). -/
def markBanks (s : State) : State :=
  { s with hm := { s.hm with banks := s.hm.banks.map fun p =>
      (p.1, { p.2 with valid := p.2.valid && decide (s.hm.floor ≤ imageSvn p.2.image) }) } }

/-- The core starts from a bank: the new log holds the layers, then the keys and programs that Stage kept (R226, R427, R431,
R439). -/
def bootFrom (n : Nat) (s : State) : State :=
  let s := { s with hm := { s.hm with active := n, meas := [], bootCache := [] },
                    isl := { s.isl with resetState := .running, udsLocked := true, corePower := true } }
  let b := runImage s
  let s := measureSecurity (measureLayers (measure 1 0 (imageRelease b) (imageSvn b) (compDigest b 0) s))
  let s := s.hm.keys.foldl (fun s k => measure 6 1 k.1 0 (Config.sha384 k.2) s) s
  let s := s.hm.programs.foldl (fun s p => measureProgram p.2.image s) s
  deriveKeys { s with hm := { s.hm with bootCache := s.hm.meas.take 512 } }

/-- The ROM in recovery (R430, R455). -/
def recover (s : State) : State := { s with isl := { s.isl with resetState := .recovery, corePower := true } }

/-- The ROM boots from the SSD: the selected bank, the other where it fails, recovery where both do (R430, R454, R455). -/
def bootSsd (ok0 ok1 ssdOk : Bool) (s : State) : State :=
  if !ssdOk then raise 0x1115 [] (recover { s with isl := { s.isl with cause := 0x1115 } })
  else
    let n := selectedBank s
    let ok (k : Nat) : Bool := bankPasses k (if k = 0 then ok0 else ok1) s
    let s := markBanks s
    if ok n then bootFrom n s
    else if ok (1 - n) then raise 0x112C [(evDetail, n)] (bootFrom (1 - n) s)
    else recover s

/-- The loader cannot train a Stage stack: the ROM stays in recovery, nothing measured but the loader (R427, R454, R487). -/
def untrained (s : State) : State :=
  raise 0x0F03 [] (recover { s with hm := { s.hm with meas := s.hm.meas.take 1, bootCache := s.hm.bootCache.take 1 } })

/-- RESET_RELEASE: after a warm reset from the slot that Stage kept, where it still matches; else from the SSD, after a cold
reset with the logbook of the newest image, when every Stage stack trains (R371, R431, R451, R454, R487). -/
def execResetRelease (bank0Ok bank1Ok ssdOk : Bool) (stageOk : StageFound) (bad corrected : List Nat) (s : State) : Ans :=
  .next <|
    if s.isl.held || s.isl.resetState == .running then s
    else if s.isl.resetState = .warm ∧ stageOk = .kept then
      stageErrors bad corrected (bootFrom (s.hm.active % 2) s)
    else
      let s := if s.isl.resetState = .cold then
          let l := restoredLog s
          let top := (l.map fun r => r.logSeq).foldl max 0
          { s with refCycles := 0,
                   acc := { s.acc with log := l, logTail := recordsSize l % 2 ^ 26, nextLog := top + 1 } }
        else s
      let s := bootSsd bank0Ok bank1Ok ssdOk s
      if !coreRuns s then s else if stageOk = .untrained then untrained s else stageErrors bad corrected s

/-! Power and heat. -/

/-- RAIL_FAULT: a rail other than VSTBY, by its order less 1, out of tolerance while COLD_RESET_N is high (R448). -/
def execRailFault (rail : Nat) (s : State) : Ans :=
  .next <|
    if rail = 0 ∨ 7 < rail ∨ s.isl.resetState = .cold then s
    else
      let s := raise 0x1113 [(evDetail, rail)] s
      { s with isl := { islandReset .cold s.isl with held := true, alert := true, cause := 0x1113, rail := rail,
                                                     corePower := s.isl.corePower && decide (rail ≠ 2) } }

/-- THERMTRIP (R449). -/
def execThermtrip (s : State) : Ans :=
  .next <|
    let s := raise 0x1112 [] s
    { s with isl := { islandReset .cold s.isl with held := true, thermtrip := true, cause := 0x1112 } }

/-- THERMAL_LIMIT: budgets lowered at 105 °C, restored below 100 °C (R449). -/
def execThermalLimit (high : Bool) (s : State) : Ans :=
  onHm s fun s =>
    if high == s.hm.hot then s
    else
      let s := { s with hm := { s.hm with hot := high } }
      if high then raise 0x1111 [] s else s

/-- POWER_SAMPLE: the 1 ms average; the firmware lowers the budgets above 2,000 W and restores them below 1,900 W from the next
boundary; in confidential mode the event comes at most once a second (R13, R401). -/
def execPowerSample (milliwatts : Nat) (s : State) : Ans :=
  onCore s fun s =>
    let s := { s with hm := { s.hm with power := milliwatts,
                                        powerSum := (s.hm.powerSum.1 + milliwatts, s.hm.powerSum.2 + 1) } }
    if !hmRuns s then s
    else
      let on := s.hm.capNext.getD s.hm.capped
      if 2000000 < milliwatts ∧ on = false then
        let s := { s with hm := { s.hm with capNext := some true } }
        if s.sec.confidential then raiseLimited 0x1110 0 2 [] 1 s else raise 0x1110 [] s
      else if milliwatts < 1900000 ∧ on = true then { s with hm := { s.hm with capNext := some false } }
      else s

/-- A power in mW to the nearest 10 W (R401). -/
def nearest10W (mw : Nat) : Nat := (mw + 5000) / 10000 * 10000

/-- ONE_SECOND_PERIOD_END: the second's summaries, and the power shown in confidential mode (R401, R484). -/
def execOneSecondPeriodEnd (s : State) : Ans :=
  onCore s fun s =>
    let p := s.hm.powerSum
    let shown := if p.2 = 0 then s.hm.powerShown else nearest10W (p.1 / p.2)
    flushSummaries 2 { s with hm := { s.hm with powerShown := shown, powerSum := (0, 0) } }

/-- HOLDUP_FAIL: the engines frozen, the logbook flushed, PWR_SAFE asserted when that is over (R371, R424, R459). -/
def execHoldupFail (holdupMv : Option Nat) (s : State) : Ans :=
  .next <|
    let s := { s with isl := { s.isl with holdupFail := true } }
    if !coreRuns s then { s with isl := { s.isl with pwrSafe := true } }
    else
      let p := startFlush holdupMv .powerFail { s with hm := { s.hm with frozen := true } }
      if p.1 then p.2 else { p.2 with isl := { p.2.isl with pwrSafe := true } }

/-- INPUT_POWER_RETURN: a flush runs to its end, and the device stays frozen (R459). -/
def execInputPowerReturn (s : State) : Ans := .next { s with isl := { s.isl with holdupFail := false } }

/-! Sideband, PMBus and the test port. -/

/-- BOARD_DECL_WRITE: in effect at once unless a persistent store runs or a field is out of range (R460). -/
def execBoardDeclWrite (decl : Bytes) (s : State) : Ans :=
  .next <|
    let cap := fld decl 0 4
    let vmin := fld decl 4 2
    let good := decide (decl.length = 64 ∧ 1000 ≤ cap ∧ cap ≤ 10000000 ∧ 1000 ≤ vmin ∧ vmin ≤ 60000 ∧ fld decl 6 1 < 128 ∧
      slice decl 12 48 = zeros 48 ∧ fld decl 60 4 = crc32c (decl.take 60))
    if s.acc.flushMode || !good then recordReason 0x1116 s
    else { s with isl := { s.isl with decl := some (cap, vmin, fld decl 6 1, fld decl 7 1, fld decl 8 4) } }

/-- The exponent of a LINEAR11 number whose mantissa fits: the least from a first one on. -/
def linearExp (fuel num den : Nat) : Nat :=
  match fuel with
  | 0 => 0
  | k + 1 => if num / den ≤ 1023 then 0 else linearExp k num (2 * den) + 1

/-- A value of thousandths in LINEAR11, rounded down, with an exponent not below zero (R457; PRESUMED from PMBus 1.3). -/
def linear11 (milli : Nat) : Nat :=
  let e := linearExp 16 milli 1000
  e % 32 * 2048 + milli / (1000 * 2 ^ e)

/-- READ_POUT: the last 1 ms average, coarsened in confidential mode (R401, R457). -/
def execReadPout (s : State) : Ans :=
  .next (emit (.pmbus (some (linear11 (if locked s then s.hm.powerShown else s.hm.power)))) s)

/-- READ_TEMPERATURE_1: the spec gives the reading no value; it is a free one (R457; log 1). -/
def execReadTemperature1 (s : State) : Ans :=
  let d := draw s
  .next (emit (.pmbus (some (d.1 % 65536))) d.2)

/-- STATUS_WORD: answered; its bits are free values (R457; log 1). -/
def execStatusWord (s : State) : Ans :=
  let d := draw s
  .next (emit (.pmbus (some (d.1 % 65536))) d.2)

/-- PMBUS_OTHER: NACK (R457). -/
def execPmbusOther (_command : Nat) (s : State) : Ans := .next (emit (.pmbus none) s)

/-- TAP_INSTRUCTION: one of the four, BYPASS for any other and, while the latch is set, for all but IDCODE; the port is held in
Test-Logic-Reset while the device is in reset (R381, R461, R462). -/
def execTapInstruction (code : Nat) (s : State) : Ans :=
  .next <|
    if s.isl.resetState = .cold ∨ s.isl.resetState = .warm then s
    else
      let c := if 3 < code ∨ (s.sec.latch = true ∧ 1 < code) then 1 else code
      emit (.tap c) { s with isl := { s.isl with tap := c } }

end Sys2Proof.Machine
end

