-- ==== Sys2Proof/Machine/Lifeboat.lean ====
section
/-! DEFINITION. The lifeboat engine's operations and plain register writes (R399, R421 to R425, R464, R465, R478, R479). -/

namespace Sys2Proof.Machine
open Sys2Proof

/-- A path's LB_RESULT after an operation is issued or ends: 1 RUNNING, 2 DONE, 3 REFUSED; the window's companion is signalled at
the end (R446, R479). -/
def lbReport (path : LbPath) (op id code state : Nat) (s : State) : State :=
  let r : LbResult := { lastOp := op, lastId := id, reason := code, state := state }
  let s := recordReason code s
  match path with
  | .window =>
    let s := { s with isl := { s.isl with window := r } }
    if coreRuns s && state != 1 then signal 33 s else s
  | .sideband => { s with isl := { s.isl with sideband := r } }

/-- An operation is carried out; it shows RUNNING until the next reference cycle (R423, R479; log 20). -/
def lbBegin (path : LbPath) (op id code : Nat) (effect : State → State) (s : State) : State :=
  let s := lbReport path op id 0 1 (effect s)
  { s with isl := { s.isl with lbRuns := s.isl.lbRuns ++ [{ op := op, path := path, id := id, code := code }] } }

/-- An operation ends: its path shows it, unless a later one was issued there (R479). -/
def lbEnd (r : LbRun) (s : State) : State :=
  let shown : LbResult := match r.path with | .window => s.isl.window | .sideband => s.isl.sideband
  if shown.lastOp = r.op ∧ shown.lastId = r.id ∧ shown.state = 1 then lbReport r.path r.op r.id r.code 2 s
  else recordReason r.code s

/-- The lifeboat operations under way end (R422; log 20). -/
def lbTick (s : State) : State :=
  s.isl.lbRuns.foldl (fun s r => lbEnd r s) { s with isl := { s.isl with lbRuns := [] } }

/-- What a step does with no command waiting: one reference cycle passes, in which the lifeboat operations under way end and
signals that waited go out (R11, R422, R446; log 8). -/
def idle (s : State) : State := sendOwed (lbTick { s with refCycles := s.refCycles + 1 })

/-- An immediate operation: refused for its parameter, then while one of its code runs (R423). -/
def lbDone (path : LbPath) (op id : Nat) (paramOk : Bool) (effect : State → State) (s : State) : Ans :=
  .next <|
    if !paramOk then lbReport path op id 0x1102 3 s
    else if s.isl.lbRuns.any fun r => r.op == op then lbReport path op id 0x1101 3 s
    else lbBegin path op id 0 effect s

/-- An exclusive operation: refused for its parameter, then while another exclusive one runs; without the core's rail it completes
with CORE_OFF (R422, R423). -/
def lbExclusive (path : LbPath) (op id : Nat) (paramOk needsCore : Bool) (run : State → State) (s : State) : Ans :=
  .next <|
    if !paramOk then lbReport path op id 0x1102 3 s
    else if lbBusy s then lbReport path op id 0x1101 3 s
    else if needsCore && !s.isl.corePower then lbBegin path op id 0x1103 (fun s => s) s
    else run s

/-- LIFEBOAT_STATUS: never refused (R422, R423, R479). -/
def execLifeboatStatus (path : LbPath) (issueId _param : Nat) (s : State) : Ans := .next (lbReport path 1 issueId 0 2 s)

/-- Frozen: no further slice, the Harbourmaster halted (R424). -/
def freezeDevice (s : State) : State := if coreRuns s then { s with hm := { s.hm with frozen := true } } else s

/-- FREEZE (R422, R424). -/
def execFreeze (path : LbPath) (issueId param : Nat) (s : State) : Ans :=
  lbDone path 2 issueId (decide (param = 0)) freezeDevice s

/-- Control state of a snapshot (R381, R422): counts, status, last codes, mailbox pointers, logbook ends, active jobs. -/
def snapshotItems (s : State) : List Nat :=
  [s.tide.count, statusReg s] ++ (upto 0 21).map (fun n => reasonReg n s) ++
  ((upto 0 16).flatMap fun m => let b := boxOf m s; [b.cmdTail, b.cmdHead, b.cplTail, b.cplHead]) ++
  [s.acc.log.length, s.acc.logTail] ++ ((s.acc.jobs.filter fun j => jobLive j).map fun j => keyOf j)

/-- DUMP_SNAPSHOT (R381, R422, R423). -/
def execDumpSnapshot (path : LbPath) (issueId param : Nat) (s : State) : Ans :=
  lbExclusive path 3 issueId (decide (param = 0)) true
    (lbBegin path 3 issueId 0 fun s =>
      { s with isl := { s.isl with buffer := fit 4096 (Config.snapshot (snapshotItems s)) } }) s

/-- Both slots of a charter zeroized on this device, which then treats its items as under removal (R397, R399). -/
def zeroize (c : Nat) (s : State) : State :=
  match tget s.man.charters c with
  | none => s
  | some e =>
    let s := lockStage c s
    let s := { s with
      man := { s.man with charters := tput s.man.charters c { e with slot0 := 3, slot1 := 3 } },
      sec := { s.sec with keys := tdel (tdel s.sec.keys (2 * c)) (2 * c + 1), zeroized := insertSorted c s.sec.zeroized } }
    itemsOfCharter c s

/-- ZEROIZE_CHARTER; with the core unpowered nothing remains to clear (R399, R422). -/
def execZeroizeCharter (path : LbPath) (issueId param : Nat) (s : State) : Ans :=
  lbDone path 4 issueId (decide (param < 4096)) (fun s => if s.isl.corePower then zeroize param s else s) s

/-- ZEROIZE_ALL: every charter, the harbour key and the sessions (R399). -/
def execZeroizeAll (path : LbPath) (issueId param : Nat) (s : State) : Ans :=
  lbDone path 5 issueId (decide (param = 0)) (fun s =>
    if !s.isl.corePower then s
    else
      let s := s.man.charters.foldl (fun s p => zeroize p.1 s) s
      let l := s.sec.lighters.map fun p => if p.2.bound then (p.1, unbind p.2) else p
      { s with sec := { s.sec with harbourKey := none, sessions := [], lighters := l } }) s

/-- RING_BYPASS_CLOSE (R31, R422). -/
def execRingBypassClose (path : LbPath) (issueId param : Nat) (s : State) : Ans :=
  lbDone path 6 issueId (decide (param = 0)) closeBypass s

/-- LIFEBOAT_LOGBOOK_FLUSH: the engines frozen, then the flush; RUNNING until it ends (R370, R371, R422, R423). -/
def execLifeboatLogbookFlush (path : LbPath) (issueId param : Nat) (holdupMv : Option Nat) (s : State) : Ans :=
  lbExclusive path 7 issueId (decide (param = 0)) true (fun s =>
    let p := startFlush holdupMv (.lifeboat (decide (path = .window))) (freezeDevice s)
    if p.1 then lbReport path 7 issueId 0 1 { p.2 with isl := { p.2.isl with exclusive := some 7 } }
    else lbBegin path 7 issueId 0x130B (fun s => s) p.2) s

/-! Subsystem resets. -/

/-- Subsystem number of an engine kind's reset. -/
def subsystemKind (n : Nat) : Option EngineKind :=
  if n = 0x0A then some .crane else if n = 0x0B then some .stevedore else if n = 0x0C then some .customs
  else if n = 0x0D then some .codec else if n = 0x0E then some .stream else none

/-- Does a job run slices on a kind of engine (R171, R425)? -/
def usesKind (k : EngineKind) (j : Job) : Bool :=
  match j.desc with
  | .crane _ => k == .crane
  | .stev d => k == .stevedore || (k == .crane && decide (d.bagCount ≠ 0))
  | .cust _ => k == .customs
  | .codec _ => k == .codec
  | .stream _ => k == .stream || k == .codec
  | .copy _ => k == .stream
  | .place _ => k == .stream

/-- Link frames in the codec go out again uncompressed, as on a NACK (R246, R425). -/
def dropFrames (s : State) : State :=
  s.ports.codecs.foldl (fun s p =>
    match tget s.ports.codecs p.1 with
    | none => s
    | some k =>
      let items := (k.closed ++ k.sent).flatMap (fun f => f.items) ++ k.gather
      if items = [] then s
      else raise 0x0D0A [(evContext, p.1)]
        (sendPlain p.1 items (setCodec p.1 { k with closed := [], sent := [], gather := [], closedBase := k.closedBase + k.closed.length } s))) s

/-- An engine array reset: its books cleared, its jobs stopped without a seal and run again (R362, R425). -/
def resetEngines (k : EngineKind) (s : State) : State :=
  let lo := 64 * kindNo k
  let mine (n : Nat) : Bool := if k = .stream then decide (lo ≤ n) else decide (lo ≤ n ∧ n < lo + 64)
  let s := { s with engines := s.engines.filter fun p => !mine p.1 }
  let jobs := s.acc.jobs.filter fun j => usesKind k j && decide (j.phase = .running)
  let s := jobs.foldl (fun s j =>
    if j.guest.isSome then leaveJob (keyOf j) 0 s else reissueJob (keyOf j) (abandonDelivery (keyOf j) 0 s)) s
  if k = .codec then dropFrames s else s

/-- The Harbourmaster's cores restarted, any freeze ended (R420, R425). -/
def resetHarbour (s : State) : State :=
  { s with hm := { s.hm with fwReady := false, alive := false, frozen := false, boxPtr := 0 } }

/-- Telemetry reset: counters, sampler state and sample ring cleared, mirror sessions kept (R425). -/
def resetTelemetry (s : State) : State :=
  { s with
    sw := { s.sw with samples := [], samplesThisTide := 0, withdrawn := 0, groupMisses := 0, mirrorDrops := [],
                      samplers := s.sw.samplers.map fun x => { x with skip := 0, taken := 0, dropped := 0 } },
    ring := { s.ring with reservedSeen := 0, headerErrors := 0, staleDiscards := 0, resetDiscards := 0 },
    ing := { s.ing with uncombined := 0, badResponses := 0 },
    sec := { s.sec with discards := [] },
    tel := { s.tel with corrected := [] } }

/-- SUBSYSTEM_RESET (R422, R425). -/
def execSubsystemReset (path : LbPath) (issueId param : Nat) (s : State) : Ans :=
  lbExclusive path 8 issueId ((subsystemKind param).isSome || param == 0x11 || param == 0x14) true (fun s =>
    let s := if !coreRuns s then s
      else match subsystemKind param with
        | some k => resetEngines k s
        | none => if param = 0x11 then resetHarbour s else resetTelemetry s
    lbBegin path 8 issueId 0 (fun s => { s with isl := { s.isl with buffer := [] } }) s) s

/-- READ_MEASUREMENTS: a 4 KiB page of the boot cache (R422, R439). -/
def execReadMeasurements (path : LbPath) (issueId param : Nat) (s : State) : Ans :=
  lbExclusive path 9 issueId (decide (param < 16)) false (fun s =>
    let all := (s.hm.bootCache.zipIdx).flatMap fun p => measBytes p.2 p.1
    lbBegin path 9 issueId 0 (fun s => { s with isl := { s.isl with buffer := fit 4096 (slice all (4096 * param) 4096) } }) s) s

/-! Register writes. -/

/-- LB_CMD written through the window: one operation issued (R421, R478, R479). The hold-up reading of a flush is a free value
(log 1). -/
def writeLbCmd (v : Nat) (s : State) : State :=
  let op := bits v 31 24
  let p := bits v 19 8
  let id := bits v 7 0
  let run (a : Ans) : State := match a with | .next t => t | _ => s
  if op = 1 then run (execLifeboatStatus .window id p s)
  else if op = 2 then run (execFreeze .window id p s)
  else if op = 3 then run (execDumpSnapshot .window id p s)
  else if op = 4 then run (execZeroizeCharter .window id p s)
  else if op = 5 then run (execZeroizeAll .window id p s)
  else if op = 6 then run (execRingBypassClose .window id p s)
  else if op = 7 then
    let d := draw s
    run (execLifeboatLogbookFlush .window id p (some (d.1 % 65536)) d.2)
  else if op = 8 then run (execSubsystemReset .window id p s)
  else if op = 9 then run (execReadMeasurements .window id p s)
  else lbReport .window op id 0x1102 3 s

/-- Four bytes written at an aligned offset of the window (R464, R465). -/
def regWrite4 (off v : Nat) (s : State) : State :=
  if off = 0x108 then writeReasonClear v s
  else if off = 0x304 then writeEvHead v s
  else if off = 0x30C then writeEvSignal v s
  else if 0x1000 ≤ off ∧ off < 0x1200 then
    let m := (off - 0x1000) / 32
    let o := off % 32
    if o = 0 then writeCmdTail m v s
    else if o = 12 then writeCplHead m v s
    else if o = 16 then writeMbSignal m v s
    else s
  else if 0x1800 ≤ off ∧ off < 0x1C00 then
    let l := (off - 0x1800) / 64
    let o := off % 64
    if o = 0 then writeLighterBase l false v s
    else if o = 4 then writeLighterBase l true v s
    else if o = 8 then writeLighterCtl l v s
    else if o = 12 then writeInTail l v s
    else if o = 24 then writeOutHead l v s
    else s
  else if off = 0x2000 then writeLbCmd v s
  else s

/-- REGISTER_WRITE: 4 or 8 aligned bytes; two 32-bit registers lower first; outside the window or misaligned it is refused
(R445, R464, R465). -/
def execRegisterWrite (offset width : Nat) (value : W64) (s : State) : Ans :=
  onWindow s fun s =>
    let v := value.toNat
    if (width ≠ 4 ∧ width ≠ 8) ∨ offset % width ≠ 0 ∨ 0x10000 < offset + width then recordReason 0x1202 s
    else if width = 4 then regWrite4 offset (v % 2 ^ 32) s
    else regWrite4 (offset + 4) (v / 2 ^ 32) (regWrite4 offset (v % 2 ^ 32) s)

end Sys2Proof.Machine
end

