-- ==== Sys2Proof/Machine/Replay.lean ====
section
/-! DEFINITION. Replication, its answers and resends, the logbook flush, replay and adoption (R350 to R374). -/

namespace Sys2Proof.Machine
open Sys2Proof

/-! The receiving side. -/

/-- An answer message towards a device (R354). -/
def answerAccept (kind dest logSeq : Nat) (full : Bool) (body : Bytes) (s : State) : State :=
  let m := s.ring.nextMsg
  ringSend (some dest) (.accept kind (self s) dest m logSeq 0 full body)
    { s with ring := { s.ring with nextMsg := (m + 1) % 65536 } }

/-- An ACCEPT message marked as handled (R28, R355). -/
def markHandled (fromDev msgId : Nat) (s : State) : State :=
  { s with ring := { s.ring with handled := ((fromDev, msgId) :: s.ring.handled).take 1024 } }

/-- A replica of this very content is in the logbook (R355). -/
def replicaHeld (r : LogRec) (s : State) : Bool :=
  s.acc.log.any fun x => x.replica && x.kind == r.kind && sameJob x r && x.attempt == r.attempt && x.tide == r.tide &&
    x.body == r.body

/-- A whole replica written, if an ACCEPT record has room, and answered (R351, R353). -/
def writeReplica (fromDev : Nat) (r : LogRec) (s : State) : State :=
  let q := r.logSeq % 2 ^ 32
  if r.kind = 1 ∧ logRoom < liveBytes s + recordSize r then answerAccept 2 fromDev q true [] s
  else
    let s := logPut r s
    answerAccept 2 fromDev q false [] (logTrim (2 * s.acc.log.length) s)

/-- REPLICA: a fragment taken; the record is written once every fragment is there, and answered (R351, R353 to R355). -/
def execReplica (fromDev msgId fragOffset : Nat) (last : Bool) (r : LogRec) (s : State) : Ans :=
  onCore s fun s =>
    let r := { r with replica := true }
    let n := fragments r
    let mine (f : Nat × Nat × Nat) : Bool := f.1 == fromDev && f.2.1 == r.logSeq
    if last ≠ decide (fragOffset = 480 * (n - 1)) then s
    else if s.ring.handled.contains (fromDev, msgId) then
      if s.acc.frags.any mine then s
      else answerAccept 2 fromDev (r.logSeq % 2 ^ 32) (decide (r.kind = 1) && !replicaHeld r s) [] s
    else
      let l := s.acc.frags ++ [(fromDev, r.logSeq, fragOffset)]
      let s := markHandled fromDev msgId { s with acc := { s.acc with frags := l } }
      if (List.range n).all fun i => l.contains (fromDev, r.logSeq, 480 * i) then
        let s := { s with acc := { s.acc with frags := l.filter fun f => !mine f } }
        if replicaHeld r s then answerAccept 2 fromDev (r.logSeq % 2 ^ 32) false [] s else writeReplica fromDev r s
      else s

/-- RECEIPT_CLEAR: the receipt EMPTY and the fence entry free; CLEAR_ACK, again for a message handled before (R85, R355,
R366). -/
def execReceiptClear (fromDev msgId jobDevice jobSlot : Nat) (s : State) : Ans :=
  onCore s fun s =>
    let s := if s.ring.handled.contains (fromDev, msgId) then s
      else markHandled fromDev msgId (clearHere (jobKey jobDevice jobSlot) s)
    answerAccept 4 fromDev 0 false (clearBody jobDevice jobSlot) s

/-! The sending side. -/

/-- What a synchronous record lets its job do once the buddy has it (R350, R361, R365). -/
def recordSafe (r : LogRec) (s : State) : State :=
  let key := jobKey r.owner r.jobSlot
  match jobOf key s with
  | none => s
  | some j =>
    if ofJob r j = false then s
    else if r.kind = 1 ∧ j.phase = .offered then acceptJob key s
    else if r.kind = 2 ∧ j.phase = .starting ∧ r.attempt = j.attempt then beginAttempt key s
    else if r.kind = 4 ∧ j.phase = .completing then postComplete r.redelivered j s
    else s

/-- REPLICA_ACK: the record is safe, or the buddy's logbook has no room for it, which refuses an offer (R350, R351). -/
def execReplicaAck (fromDev logSeq : Nat) (full : Bool) (s : State) : Ans :=
  onCore s fun s =>
    let is (t : AcceptTx) : Bool := t.dest == fromDev && (match t.record with
      | some r => r.logSeq % 2 ^ 32 == logSeq
      | none => false)
    match s.acc.tx.find? is with
    | none => s
    | some t =>
      match t.record with
      | none => s
      | some r =>
        let gone := { s with acc := { s.acc with tx := s.acc.tx.erase t } }
        let key := jobKey r.owner r.jobSlot
        let offered := match jobOf key s with | some j => decide (j.phase = .offered) && ofJob r j | none => false
        if full then (if r.kind = 1 ∧ offered = true then wakeOffers (voidJob key 0x1304 gone) else s)
        else
          wakeOffers (recordSafe r { gone with acc := { gone.acc with rebuddy := gone.acc.rebuddy.filter fun q => q != r.logSeq } })

/-- CLEAR_ACK: the slot is free when every home has answered (R367). -/
def execClearAck (home jobDevice jobSlot : Nat) (s : State) : Ans :=
  onCore s fun s =>
    let key := jobKey jobDevice jobSlot
    let s := { s with acc := { s.acc with
      tx := s.acc.tx.filter fun t => !(t.dest == home && t.clear == some (jobDevice, jobSlot)) } }
    match jobOf key s with
    | none => s
    | some j =>
      let j := { j with clears := j.clears.filter fun h => h != home }
      if j.phase = .retiring ∧ j.clears = [] then wakeOffers (freeSlot j (setJob j s)) else setJob j s

/-- A message sent again under its identifier (R355). -/
def sendAgain (t : AcceptTx) (s : State) : State :=
  match t.record, t.clear with
  | some r, _ => sendFragments t.dest r t.msgId s
  | none, some c =>
    ringSend (some t.dest) (.accept 3 (self s) t.dest t.msgId 0 0 false (clearBody c.1 c.2)) s
  | none, none => s

/-- A message that stays unanswered after 4 µs: resent up to three times; then the offer of an ACCEPT record fails (R351, R355). -/
def resendOne (t : AcceptTx) (s : State) : State :=
  if t.resends < 3 then
    let s := { s with acc := { s.acc with
      tx := s.acc.tx.map fun x => if x == t then { x with resends := x.resends + 1, sentTide := s.tide.count } else x } }
    sendAgain t s
  else
    match t.record with
    | none => s
    | some r =>
      let key := jobKey r.owner r.jobSlot
      let offered := match jobOf key s with | some j => decide (j.phase = .offered) && ofJob r j | none => false
      if r.kind = 1 ∧ offered = true then
        wakeOffers (voidJob key 0x1307 { s with acc := { s.acc with tx := s.acc.tx.erase t } })
      else s

/-- REPLICA_RESEND_TIMEOUT: of the record of this number; RECEIPT_CLEARs carry the number 0 (R354, R355). -/
def execReplicaResendTimeout (logSeq : Nat) (s : State) : Ans :=
  onCore s fun s =>
    (s.acc.tx.filter fun t => match t.record with | some r => r.logSeq == logSeq | none => logSeq == 0).foldl
      (fun s t => resendOne t s) s

/-- ASYNC_RESEND: after three resends the messages go out again every 64 tides (R355). -/
def execAsyncResend (s : State) : Ans :=
  onCore s fun s =>
    (s.acc.tx.filter fun t => decide (3 ≤ t.resends ∧ t.sentTide + 64 ≤ s.tide.count)).foldl (fun s t =>
      let s := { s with acc := { s.acc with
        tx := s.acc.tx.map fun x => if x == t then { x with sentTide := s.tide.count } else x } }
      sendAgain t s) s

/-! Replay. -/

/-- What the records of one job say, in logbook order (R359, R368). -/
structure Told where
  /-- any record of the job, for its identity -/
  id : LogRec
  accept : Option LogRec
  /-- attempts logged, oldest first, without repeats -/
  attempts : List Nat
  items : List Nat
  complete : Option LogRec
  delivered : Bool
  retire : Option LogRec
  deriving DecidableEq, Repr

/-- The items of a PROGRESS body (R357). -/
def itemsOf (b : Bytes) : List Nat :=
  (List.range (b.length / 8)).map fun i => fld b (8 * i) 8

/-- A job of which nothing is known yet. -/
def told0 (r : LogRec) : Told :=
  { id := r, accept := none, attempts := [], items := [], complete := none, delivered := false, retire := none }

/-- Numbers added that a list does not hold. -/
def addNew (l m : List Nat) : List Nat := m.foldl (fun l x => if l.contains x then l else l ++ [x]) l

/-- One more record of a job (R356, R357, R359). An ACCEPT record after a RETIRE begins another job. -/
def hear (t : Told) (r : LogRec) : Told :=
  if r.kind = 1 then (if t.retire.isSome then { told0 r with accept := some r } else { t with accept := some r })
  else if r.kind = 2 then { t with attempts := addNew t.attempts [r.attempt] }
  else if r.kind = 3 then { t with items := addNew t.items (itemsOf r.body) }
  else if r.kind = 4 then { t with complete := some r }
  else if r.kind = 5 then { t with delivered := true }
  else if r.kind = 6 then { t with retire := some r }
  else t

/-- The jobs that a run of records tells of, in order of their first records; VOID leaves nothing (R368, R369). A record whose
CRC fails counts only for the job's identity. -/
def tellJobs (l : List LogRec) : List Told :=
  l.foldl (fun ts r =>
    if r.kind = 15 then ts
    else if r.kind = 7 then ts.filter fun t => !sameJob t.id r
    else
      let ts := if ts.any fun t => sameJob t.id r then ts else ts ++ [told0 r]
      if !r.crcOk then ts else ts.map fun t => if sameJob t.id r then hear t r else t) []

/-- A job's progress from its PROGRESS items: tiles sealed, deliveries closed (R157, R269, R357). -/
def restoreSt (st : JobSt) (items : List Nat) : JobSt :=
  match st with
  | .crane p =>
    let is := (items.filter fun i => i / 2 ^ 60 == 1).map fun i => bits i 31 0
    let t : Tile := { opened := false, contribs := [], acc := [], count := 0, poison := false, passed := true,
                      sealed := true, sent := none, sat := 0, nan := 0 }
    .crane { p with tiles := is.foldl (fun m i => tput m i t) p.tiles, sealedTiles := is.length }
  | x => x

/-- Homes that items of a code name (R357). -/
def itemHomes (code : Nat) (items : List Nat) : List Nat :=
  sorted ((items.filter fun i => i / 2 ^ 60 == code).map fun i => bits i 5 0)

/-- The job of some records: the number of its command's tag is lost with the device's memory (log 1). -/
def toldJob (t : Told) (tag : Nat) : Job :=
  let r := t.accept.getD t.id
  let n := match descOf r.command [] with
    | some d => (descBytes d).length
    | none => 0
  let d := (descOf r.command (r.body.take n)).getD (.copy (copyOf []))
  let at_ := r.body.drop n
  let h : JobHdr := { hdr := { mailbox := 0, tag := tag, expert := true, viaLighter := false }, seq := r.seq,
                      queue := r.queue, owner := r.queueOwner }
  let j := newJob r.jobSlot r.owner r.command (t.attempts.getLastD 0) h d at_
  { j with phase := .accepted, attempts := t.attempts.length, stageBound := r.stageBound,
           fenced := itemHomes 4 t.items, sealed := itemHomes 3 t.items, log := t.items,
           st := restoreSt j.st t.items,
           reason := match t.complete with | some c => fld c.body 0 2 | none => 0,
           result := match t.complete with | some c => c.body | none => [] }

/-- Homes of a RETIRE record's mask (R366). -/
def maskHomes (r : LogRec) : List Nat := (List.range 64).filter fun h => bit (fld r.body 0 8) h

/-- A job replayed (R368): `lost` when no good copy of its ACCEPT record exists. -/
def replayJob (t : Told) (s : State) : State :=
  let d := draw s
  let j := toldJob t (d.1 % 2 ^ 32)
  let s := d.2
  match t.retire with
  | some r =>
    if s.acc.jobs.any fun k => k.slot == j.slot && k.device == j.device then s
    else
      let away := (maskHomes r).filter fun h => h != self s
      let s := addJob { j with phase := .retiring, clears := away } s
      let s := if (maskHomes r).contains (self s) then clearHere (keyOf j) s else s
      let s := away.foldl (fun s h => sendClear h j.device j.slot s) s
      if away = [] then freeSlot j s else s
  | none =>
    let s := addJob j s
    match t.complete with
    | some _ => if t.delivered then retireJob (keyOf j) (setJob { j with phase := .delivered } s) else postComplete true j s
    | none => if t.accept.isNone then endJob (keyOf j) 0x1308 s else s

/-- Next sequences of the queues that records name: one more than the highest ACCEPT of each (R369, R373). -/
def queueNexts (ts : List Told) : Tbl Nat :=
  ts.foldl (fun m t =>
    let q := t.id.queue * 256 + (if 128 ≤ t.id.queueOwner then t.id.queueOwner % 64 else t.id.owner)
    tput m q (max (tgetD m q 0) (t.id.seq + 1))) []

/-- Queues held open with their next sequences; one not open before is bound to mailbox 0 (R369, R373). -/
def openQueues (m : Tbl Nat) (s : State) : State :=
  m.foldl (fun s p =>
    let q := p.1 / 256
    let owner := p.1 % 256
    match queueAt q owner s with
    | some x => setNext q owner (max x.next p.2) s
    | none => { s with acc := { s.acc with
        queues := s.acc.queues ++ [{ queue := q, owner := owner, next := p.2, mailbox := 0, viaLighter := false }] } }) s

/-- The last attempt of every slot of this device that records name (R361). -/
def slotAttempts (ts : List Told) (s : State) : State :=
  ts.foldl (fun s t => if t.id.owner ≠ self s then s else
    { s with acc := { s.acc with slots := tput s.acc.slots t.id.jobSlot (s.tide.count, t.attempts.getLastD
        (tgetD s.acc.slots t.id.jobSlot (0, 0)).2) } }) s

/-- This device was declared lost, so far as it has learned: its loss was announced, or the composition it holds has members and
it is none of them (R374). -/
def wasLost (s : State) : Bool :=
  (tget s.ring.losses (self s)).isSome || (decide (s.man.comp.members ≠ []) && !deviceMember (self s) s)

/-- LOGBOOK_REPLAY: once the core is on the ring. A device declared lost discards its own records, else each job goes on from
where its records leave it, in queue order (R353, R362, R368, R369, R374). -/
def replay (s : State) : State :=
  let own := s.acc.log.filter fun r => !r.replica
  let back := s.acc.log.filter fun r => r.replica && r.owner == self s && r.kind == 1
  let s := { s with acc := { s.acc with buddy := buddyOf (self s) s.ing.lostHomes s.man.comp } }
  if wasLost s then
    { s with acc := { s.acc with log := s.acc.log.filter fun r => r.replica, queues := [], jobs := [], waiting := [] } }
  else if s.acc.jobs ≠ [] then s
  else
    let ts := (tellJobs own).map fun t => match t.accept with
      | some _ => t
      | none => { t with accept := back.find? fun r => r.crcOk && sameJob r t.id }
    let s := slotAttempts ts (openQueues (queueNexts ts) s)
    wakeOffers (ts.foldl (fun s t => replayJob t s) s)

/-- LOGBOOK_REPLAY (R368, R374). -/
def execLogbookReplay (s : State) : Ans :=
  onCore s fun s => if s.isl.bypass = .open then replay s else s

/-! Adoption. -/

/-- A record of another device's job that its lost device or an earlier one owned. -/
def orphan (d : Nat) (s : State) (r : LogRec) : Bool :=
  r.replica && (r.owner == d || (r.owner != self s && (s.ing.lostHomes.contains r.owner || !deviceMember r.owner s)))

/-- An adopted job: written as this device's own records, sent to its buddy, and run again, posted again or retired (R372). -/
def adoptJob (t : Told) (s : State) : State :=
  let dr := draw s
  let j := toldJob t (dr.1 % 2 ^ 32)
  let s := addJob j dr.2
  let key := keyOf j
  let put (r : LogRec) (sync : Bool) (s : State) : State :=
    let r := { r with replica := false, logSeq := s.acc.nextLog }
    let s := logAppend r s
    match s.acc.buddy with
    | none => s
    | some b => sendRecord b sync r s
  let s := match t.accept with | some r => put r true s | none => s
  let s := if t.attempts = [] then s else put (recordOf 2 [] j s) true s
  let s := if t.items = [] then s else put (recordOf 3 (t.items.flatMap (le 8)) j s) false s
  match t.complete with
  | some _ =>
    if t.delivered then retireJob key (setJob { j with phase := .delivered } s)
    else
      let s := put { recordOf 4 j.result j s with redelivered := true } true (setJob { j with phase := .completing } s)
      match s.acc.buddy with
      | none => postComplete true { j with phase := .completing } s
      | some _ => s
  | none =>
    if t.accept.isNone then endJob key 0x1308 s
    else if j.stageBound then endJob key 0x1309 s
    else s

/-- The buddy of a lost device adopts its jobs and its queues: those it announced and those of open jobs; where it has heard of
none, those its records name (R372, R373; log 17). -/
def adopt (d : Nat) (s : State) : State :=
  let all := s.acc.log.filter (orphan d s)
  let ts := tellJobs all
  let open_ := ts.filter fun t => t.retire.isNone
  let nexts := queueNexts ts
  let mine := (s.acc.peers.filter fun x => x.1 == d).map fun x => x.2.1 * 256 + x.2.2
  let held := (mine ++ (queueNexts open_).map fun p => p.1).dedup
  let qs := if mine = [] then nexts else held.map fun k => (k, tgetD nexts k 1)
  let s := openQueues qs { s with acc := { s.acc with log := s.acc.log.filter fun r => !all.contains r } }
  let s := open_.foldl (fun s t => adoptJob t s) s
  wakeOffers (if open_ = [] then s else raise 0x130D [(evJobDevice, d), (evCount, open_.length)] s)

end Sys2Proof.Machine
end

