-- ==== Sys2Proof/Machine/Respond.lean ====
section
/-! DEFINITION. Responses received: for a host's own request, for a window of the combining unit, for the coherence agent and for
a job (R56, R95, R96, R102 to R108, R116, R175). -/

namespace Sys2Proof.Machine
open Sys2Proof

/-- A response of unknown opcode or to nothing outstanding: discarded and counted (R96). -/
def discardResponse (s : State) : State := { s with ing := { s.ing with badResponses := s.ing.badResponses + 1 } }

/-- The request is part of a combined one, so that its answer comes to the device. -/
def combinedPart (host tag : Nat) (s : State) : Bool :=
  let mine (p : Part) : Bool := p.host == host && p.req.tag == tag
  (s.ing.reads.any fun w => w.parts.any mine) || s.ing.atoms.any fun w => w.sent.any mine || w.collecting.any fun l => l.any mine

/-- A combined read or atomic sent again under the current map (R56, R108). -/
def resendWindow (o : Outst) (s : State) : State :=
  let q := resendOwn o { s with ing := { s.ing with outst := s.ing.outst.erase o } }
  let s := q.2
  { s with ing := { s.ing with reads := s.ing.reads.map (fun w => if w.tag = o.tag then { w with tag := q.1 } else w),
                               atoms := s.ing.atoms.map (fun w => if w.tag = o.tag then { w with tag := q.1 } else w) } }

/-- What a job does next when a request of it has been answered. -/
def jobNext (key : Nat) (s : State) : State := trySeals key (jobLand key (freeJob key s))

/-- A request of the device itself answered: of a job, a window or the agent. -/
def ownAnswered (o : Outst) (r : Resp) (s : State) : State :=
  if jobRow o.host then jobNext (o.host - 8192) (jobAnswered (o.host - 8192) o r s)
  else if r.opcode = opRefuse ∧ r.reason = 0x0507 then resendWindow o s
  else
    let s := { s with ing := { s.ing with outst := s.ing.outst.erase o } }
    match s.ing.reads.find? fun w => w.tag == o.tag && o.req.charter == w.charter with
    | some w => readWindowAnswer w o r s
    | none =>
      match s.ing.atoms.find? fun w => w.tag == o.tag with
      | some w => atomWindowAnswer w r s
      | none => wakeHeld (agentAnswer o r s)

/-- RESPONSE_RECEIVE (R95, R96). A request that is answered leaves the outstanding table. -/
def execResponseReceive (r : Resp) (s : State) : Ans :=
  onCore s fun s =>
    if !([opAck, opData, opRefuse, opPoison, opConflict].contains r.opcode) then discardResponse s
    else if r.dstEngine then
      if r.destination / 64 ≠ self s then discardResponse s
      else
        match s.ing.outst.find? fun o => decide (4096 ≤ o.host) && o.tag == r.tag with
        | none => discardResponse s
        | some o => ownAnswered o r s
    else
      match outstOf r.destination r.tag s with
      | none => discardResponse s
      | some o => if !o.sent || decide (opCShared ≤ o.opcode) || combinedPart o.host o.tag s then discardResponse s else aloneAnswer o (relayLl r s) s

end Sys2Proof.Machine
end

