-- ==== Sys2Proof/Machine/Loss.lean ====
section
/-! DEFINITION. Heartbeats, the loss of a device and the death of a host (R342, R343, R345, R353, R372). -/

namespace Sys2Proof.Machine
open Sys2Proof

/-! Heartbeats. -/

/-- A member's heartbeat noted; every member on the ring hears it, so that a new master goes on from what it heard (R17, R342). -/
def takeHeartbeat (d : Nat) (s : State) : State :=
  { s with ring := { s.ring with heartbeats := tput s.ring.heartbeats d s.tide.count,
                                 spanReports := tdel s.ring.spanReports d } }

/-- HEARTBEAT_SEND: once every 16 tides, while a member on the ring (R342). -/
def execHeartbeatSend (s : State) : Ans :=
  onCore s fun s =>
    if !onRing s || !deviceMember (self s) s || decide (s.tide.count % 16 ≠ 0) then s
    else control (if isMaster s then none else some s.tide.master) ctlHeartbeat [self s] (takeHeartbeat (self s) s)

/-- HEARTBEAT_RECEIVE (R342). -/
def execHeartbeatReceive (device : Nat) (s : State) : Ans :=
  onCore s fun s => if deviceMember device s then takeHeartbeat device s else s

/-- Tide of the last heartbeat of a member, or since which the master has awaited one. -/
def lastHeartbeat (d : Nat) (s : State) : Nat := tgetD s.ring.heartbeats d s.man.compSince

/-- The master may declare a member lost: 32 tides without a heartbeat, or a span report and no heartbeat since (R291, R342). -/
def silent (d : Nat) (s : State) : Bool :=
  decide (lastHeartbeat d s + 32 ≤ s.tide.count) || (tget s.ring.spanReports d).isSome

/-- A member declared lost: its loss boundary announced, 4 tides on; a device that still answers on the ring is asked to reset,
once a lap for 4 laps (R342, R452). -/
def declareLost (d : Nat) (s : State) : State :=
  let b := s.tide.count + 4
  let s := { s with ring := { s.ring with losses := tput s.ring.losses d b, spanReports := tdel s.ring.spanReports d } }
  let s := raise 0x0908 [(evDetail, d)] (broadcast ctlLoss [d, b] s)
  if s.home.dead.contains d then s
  else (List.range 4).foldl (fun s _ => broadcast ctlResetRequest [d] s) s

/-- HEARTBEAT_TIMEOUT (R342). -/
def execHeartbeatTimeout (device : Nat) (s : State) : Ans :=
  onCore s fun s =>
    if isMaster s && deviceMember device s && device != self s && (tget s.ring.losses device).isNone && silent device s then
      declareLost device s
    else s

/-! Requests to a lost home. -/

/-- Granules of a request, as entry and offset (R343). -/
def requestGranules (r : FabReq) (s : State) : List (Nat × Nat) :=
  if r.opcode = opFence then []
  else
    let off := r.address - (entryOf r.entry s).baseFpa
    (granulesIn off (max 1 r.length)).map fun g => (r.entry, g)

/-- Reads, whose outcome needs no list (R343). -/
def plainRead (op : Nat) : Bool := op == opRead || op == opReadAcq || op == opCShared || op == opCOwn

/-- The answer of a request to a lost home: a read is refused, any other poisoned (R343). -/
def lostAnswer (o : Outst) (s : State) : Resp :=
  { opcode := if plainRead o.opcode then opRefuse else opPoison, dstEngine := o.req.srcEngine, destination := o.req.source,
    tag := o.tag, reason := if plainRead o.opcode then 0x0625 else 0x0607, ll := s.home.ll, responder := self s, parts := 1,
    aux := 0, data := [] }

/-- One request outstanding to a lost home answered, its granules uncertain unless it read (R343). -/
def answerLost (d : Nat) (o : Outst) (s : State) : State :=
  let s := if plainRead o.opcode then s
    else
      let add := (requestGranules o.req s).map fun g => (d, g.1, g.2)
      { s with ing := { s.ing with uncertain := s.ing.uncertain ++ add.filter fun u => !s.ing.uncertain.contains u } }
  let r := lostAnswer o s
  if 4096 ≤ o.host then ownAnswered o r s else aloneAnswer o r s

/-- Every request outstanding to a lost home answered; those of combined windows by the window's own. -/
def answerAllLost (fuel d : Nat) (s : State) : State :=
  match fuel with
  | 0 => s
  | k + 1 =>
    match s.ing.outst.find? fun o => o.sent && o.req.home == d && (decide (4096 ≤ o.host) || !combinedPart o.host o.tag s) with
    | none => s
    | some o =>
      answerAllLost k d (answerLost d o s)

/-- Requests held at this device for extents of a lost home are refused (R343). -/
def refuseHeldLost (d : Nat) (s : State) : State :=
  let mine := s.ing.outst.filter fun o => !o.sent && decide (o.host < 4096) && o.req.home == d
  let is (p : Part) : Bool := mine.any fun o => o.host == p.host && o.tag == p.req.tag
  let s := { s with ing := { s.ing with held := s.ing.held.filter fun p => !is p,
                                        waiting := s.ing.waiting.filter fun p => !is p } }
  mine.foldl (fun s o => answerHost o.host o.tag { lostAnswer o s with opcode := opRefuse, reason := 0x0625 } s) s

/-! Span blocks. -/

/-- A kept cell without its requests to a home; none when nothing is left. -/
def withoutHome (d : Nat) (c : Cell) : Option Cell :=
  let l := c.items.filter fun i => !(c.pool == 1 && i.home == d)
  if l = [] then none else some { c with items := l }

/-- Blocks kept for a lost partner: those for its homes discarded, the others sent again by another way (R291, R343). -/
def lossSpans (d : Nat) (s : State) : State :=
  (s.ports.ctxs.filter fun p => p.2.role == 3 && p.2.train == .down &&
      (match p.2.partner with | some i => i.deviceId % 64 == d | none => false)).foldl (fun s p =>
    let cells := (p.2.kept.map fun k => k.2).filterMap (withoutHome d)
    let s := setCtx p.1 { p.2 with kept := [], spanWait := none } s
    if cells = [] then s
    else
      let s := raise 0x020A [(evContext, p.1), (evCount, cells.length)] s
      match otherSpan p.1 p.2 s with
      | some m => { s with pilot := { s.pilot with
          resends := tput s.pilot.resends m (tgetD s.pilot.resends m [] ++ cells.map fun x => { x with ctx := m }) } }
      | none => (cells.filter fun c => c.pool != 3).foldl (fun s c => c.items.foldl (fun s i => ringItem c.pool i.bytes s) s) s) s

/-! The loss boundary. -/

/-- Domain changes that this device issues go on without a lost member (R50, R54, R396, R398). -/
def issuedWithout (d : Nat) (s : State) : State :=
  s.man.issued.foldl (fun s i0 =>
    match issuedOf i0.number s with
    | none => s
    | some i =>
      let i := { i with awaiting := i.awaiting.filter fun m => m != d }
      let s := setIssued i s
      if !i.committed then commitReady i.number s
      else
        let s := ((drainEntries i.change).filter fun e => (entryOf e s).homeDevice == d && i.applied).foldl
          (fun s e => drained i.number e s) s
        match i.change with
        | .charterRotate c _ _ => announceEnd c false s
        | .charterRevoke c => announceEnd c true s
        | .fwActivate _ _ => if i.applied && i.awaiting == [] then completeIssued i.number 0 none none [] s else s
        | _ => s) s

/-- Rebuilds go on under their devices' present parts: a part newly this device's begins at its first row (R341, R344). -/
def rebuildsWithout (d : Nat) (s : State) : State :=
  s.home.rebuilds.foldl (fun s r =>
    match tget s.man.groups r.groupId with
    | none => s
    | some g =>
      let now_ := rebuildRanges g s
      let cur := now_.map fun x => match r.ranges.find? fun y => y.1 == x.1 && y.2.1 == x.2.1 with
        | some y => y
        | none => x
      let done := cur.all fun x => decide (x.2.1 ≤ x.2.2)
      setRebuild { r with ranges := cur, reported := r.reported.filter fun m => m != d && (m != self s || done) } s) s

/-- A lost home owes no CLEAR_ACK (R367). -/
def clearsWithout (d : Nat) (s : State) : State :=
  let s := { s with acc := { s.acc with tx := s.acc.tx.filter fun t => !(t.dest == d && t.clear.isSome) } }
  (s.acc.jobs.filter fun j => j.phase == .retiring && j.clears.contains d).foldl (fun s j =>
    let j := { j with clears := j.clears.filter fun h => h != d }
    if j.clears = [] then freeSlot j s else setJob j s) s

/-- Crane jobs that run here and in which a device takes part: they are run again without it (R157). -/
def craneJobsOn (d : Nat) (s : State) : List Nat :=
  (s.acc.jobs.filter fun j => j.guest.isNone && j.phase == .running && (match craneOf? j with
    | some (_, p) => p.parts.contains d
    | none => false)).map keyOf

/-- What one member does at the loss boundary of a device (R343, R345, R353, R372). `before` are the devices lost earlier. -/
def loseDevice (d : Nat) (before : List Nat) (s : State) : State :=
  let s := endLostFormats d (failMembers (fun m => m.device == d) s)
  let mods := ((s.home.trays.filter fun t => t.device == d).map fun t => (t.tray, t.module)).dedup
  let s := mods.foldl (fun s m => failRequests d m.1 m.2 s) s
  let s := if s.home.dead.contains d then s else buryDevice d (raise 0x0807 [(evDetail, d)] s)
  let s := (s.acc.jobs.filter fun j => j.guest == some d).foldl (fun s j => dropJob (keyOf j) (supersede (keyOf j) s)) s
  let parts := craneJobsOn d s
  let s := craneDeviceLost d s
  let s := parts.foldl (fun s k => reissueJob k s) s
  let hosts := (s.home.seals.map fun p => p.1).filter fun h => decide (h < 4096) && attachedTo h s == d
  let s := hosts.foldl (fun s h => closeWindows h (fun _ => true) s) s
  let s := refuseHeldLost d s
  let s := answerAllLost (2 * s.ing.outst.length + 1) d s
  let s := rebuildsWithout d (issuedWithout d (lossSpans d s))
  let s := clearsWithout d s
  let s := if s.acc.buddy = some d then wakeOffers (rebuddyTo (buddyOf (self s) s.ing.lostHomes s.man.comp) s) else s
  let s := if buddyOf d before s.man.comp = some (self s) then adopt d s else s
  passQueues d (buddyOf d before s.man.comp) s

/-- The loss boundaries reached at this tide (R342, R343); a device and its buddy lost together are reported by the master
(R372). -/
def lossesDue (s : State) : State :=
  let due := (s.ring.losses.filter fun p => decide (p.2 ≤ s.tide.count) && !s.ing.lostHomes.contains p.1 && p.1 != self s).map
    fun p => p.1
  let before := s.ing.lostHomes
  let s := { s with ing := { s.ing with lostHomes := due.foldl (fun l d => insertSorted d l) before } }
  let s := due.foldl (fun s d => loseDevice d before s) s
  if isMaster s then
    (due.filter fun d => match buddyOf d before s.man.comp with
      | some b => due.contains b
      | none => false).foldl (fun s d => raise 0x130F [(evDetail, d)] s) s
  else s

/-- LOSS_BOUNDARY (R343). -/
def execLossBoundary (s : State) : Ans := onCore s lossesDue

/-- HOST_DEATH: every home closes the host's windows; the host's own device declares it to its Crane jobs and poisons the lines it
held (R126, R153, R345). -/
def execHostDeath (host : Nat) (s : State) : Ans :=
  onCore s fun s =>
    if ownHost host s && hostAlive host s then s
    else
      let s := if ownHost host s then craneHostDead host (hostDies host s) else s
      closeWindows host (fun _ => true) s

end Sys2Proof.Machine
end

