-- ==== Sys2Proof/Machine/Pilot.lean ====
section
/-! DEFINITION. The switch core's configuration and the traffic manager: queues, pilot queues, fair queuing, policing, latency
records (R300 to R310, R312 to R328, R400). -/

namespace Sys2Proof.Machine
open Sys2Proof

/-! Configuration of the switch core. -/

/-- The context exists: an enabled one, or the host link. -/
def ctxExists (n : Nat) (s : State) : Bool := match ctxAt n s with | some c => c.enable | none => false

/-- SWITCH.FORWARDING: modes 0 STORE and 1 CUT of the classes it names (R300, R302). -/
def execSwitchForwarding (h : CmdHdr) (ctx : Nat) (modes : List (Nat × Nat)) (s : State) : Ans :=
  immediate h 0x0301
    (fun s => if (modes.any fun m => decide (1 < m.2 ∨ 15 < m.1)) || !ctxExists ctx s then 0x0301 else 0)
    (fun s => { s with sw := { s.sw with cut := modes.foldl (fun l m =>
      let k := 16 * ctx + m.1
      if m.2 = 1 then insertSorted k l else l.filter fun x => x != k) s.sw.cut } })
    (fun _ => []) (ctx :: modes.flatMap fun m => [m.1, m.2]) s

/-- A mirror source's encoding is one R305 gives. -/
def mirrorSourceOk (src : MirrorSource) : Bool :=
  match src with
  | .port n dir => decide (n ≤ 256 ∧ dir ≤ 2)
  | .flow value mask => decide (value.length = 5 ∧ mask.length = 5)

/-- MIRROR.SESSION (R305, R307). -/
def execMirrorSession (h : CmdHdr) (session target : Nat) (src : MirrorSource) (s : State) : Ans :=
  let ready (s : State) : Bool := match ctxAt target s with | some c => c.enable && c.role == 4 | none => false
  immediate h 0x0401
    (fun s => if !ready s || decide (7 < session) || !mirrorSourceOk src || decide (8 < s.man.comp.members.length)
      then 0x0303 else 0)
    (fun s => { s with sw := { s.sw with mirrors := tput s.sw.mirrors session (target, src) } })
    (fun _ => []) [session, target] s

/-- SAMPLE.CONFIGURE: the sampler of a context and direction set, its first skip drawn (R308). -/
def execSampleConfigure (h : CmdHdr) (ctx : Nat) (egress : Bool) (n : Nat) (s : State) : Ans :=
  let mine (x : Sampler) : Bool := x.ctx == ctx && x.egress == egress
  immediate h 0x0501
    (fun s => if decide (n < 6 ∨ 20 < n) || !ctxExists ctx s ||
      (!(s.sw.samplers.any mine) && decide (512 ≤ s.sw.samplers.length)) then 0x0306 else 0)
    (fun s =>
      let d := draw s
      let x : Sampler := { ctx := ctx, egress := egress, n := n, skip := d.1 % (2 * 2 ^ n), taken := 0, dropped := 0 }
      let l := d.2.sw.samplers
      { d.2 with sw := { d.2.sw with samplers := if l.any mine then l.map fun y => if mine y then x else y else l ++ [x] } })
    (fun _ => []) [ctx, b2n egress, n] s

/-! Queues. -/

/-- Context and class of a base queue (R312). -/
def queueCtx (q : Nat) : Nat := if q < 12288 then q / 48 else 256
def queueClass (q : Nat) : Nat := (q % 48) / 3

/-- The base queue that a queue serves: itself, or the one whose sub-queue it is, present or pending. -/
def baseOf (q : Nat) (s : State) : Option Nat :=
  if q < 12336 then some q
  else
    match s.pilot.subs.find? fun p => p.2.1.contains q with
    | some p => some p.1
    | none => (s.pilot.pendingSubs.find? fun p => p.2.1.contains q).map fun p => p.1

/-- Queues of the extra pool in use: sub-queues, pending ones, and those released that still hold cells (R313, R314). -/
def takenQueues (s : State) : List Nat :=
  (s.pilot.subs.flatMap fun p => p.2.1.drop 1) ++ (s.pilot.pendingSubs.flatMap fun p => p.2.1.drop 1) ++
  s.pilot.releasing.filter fun q => s.sw.cells.any fun c => c.queue == q

/-- A base queue's sub-queues as the last command set them. -/
def latestSubs (b : Nat) (s : State) : List Nat :=
  match (s.pilot.pendingSubs.filter fun p => p.1 == b).getLast? with
  | some p => p.2.1
  | none => match tget s.pilot.subs b with | some p => p.1 | none => [b]

/-- The sub-queues of a command: those held now, and free queues of the extra pool in ascending order; none when the pool
cannot supply them (R313). -/
def subsFor (b count : Nat) (s : State) : Option (List Nat) :=
  let held := (latestSubs b s).take count
  let used := takenQueues s
  let free := (upto 12336 4048).filter fun q => !used.contains q
  if free.length < count - held.length then none else some (held ++ free.take (count - held.length))

/-- PILOT.QUEUES: sub-queues for the next boundary, their numbers returned (R313, R314). -/
def execPilotQueues (h : CmdHdr) (ctx cls pool count select : Nat) (s : State) : Ans :=
  let b := baseQueue ctx cls pool
  let bad := decide (256 < ctx ∨ 15 < cls ∨ pool = 0 ∨ 3 < pool ∨ count = 0 ∨ 64 < count ∨ 2 < select ∨
    (select = 1 ∧ pool ≠ 1))
  immediate h 0x0601
    (fun s => if bad then 0x0401 else if (subsFor b count s).isNone then 0x0402 else 0)
    (fun s => match subsFor b count s with
      | none => s
      | some l => { s with pilot := { s.pilot with pendingSubs := s.pilot.pendingSubs ++ [(b, l, select)] } })
    (fun s => match subsFor b count s with
      | none => []
      | some l => (l.drop 1).flatMap fun q => le 2 q) [ctx, cls, pool, count, select] s

/-- Sub-queue changes of the last tide take effect at the boundary; queues left out are released (R314). -/
def queuesApply (s : State) : State :=
  let s := s.pilot.pendingSubs.foldl (fun s p =>
    let old := match tget s.pilot.subs p.1 with | some x => x.1.drop 1 | none => []
    let gone := old.filter fun q => !p.2.1.contains q
    { s with pilot := { s.pilot with subs := tput s.pilot.subs p.1 p.2,
                                     eras := tput s.pilot.eras p.1 (tgetD s.pilot.eras p.1 0 + 1),
                                     releasing := s.pilot.releasing ++ gone } }) s
  { s with pilot := { s.pilot with
      pendingSubs := [],
      releasing := s.pilot.releasing.filter fun q => s.sw.cells.any fun c => c.queue == q } }

/-- PILOT_QUEUES_APPLY (R314). -/
def execPilotQueuesApply (s : State) : Ans := onCore s queuesApply

/-- PILOT.CLASS: α, kind (1 DATA), delay target and sampling exponent of a class (R315, R324, R325). -/
def execPilotClass (h : CmdHdr) (cls alpha kind delayTarget k : Nat) (s : State) : Ans :=
  immediate h 0x0602
    (fun _ => if 15 < cls ∨ 7 < alpha ∨ 1 < kind ∨ 10 < k then 0x0401 else 0)
    (fun s => { s with pilot := { s.pilot with
      alpha := tput s.pilot.alpha cls alpha, kinds := tput s.pilot.kinds cls (decide (kind = 1)),
      targets := tput s.pilot.targets cls delayTarget, ks := tput s.pilot.ks cls k } })
    (fun _ => []) [cls, alpha, kind, delayTarget, k] s

/-- PILOT.PORT: the class weights and the overhead of a context (R317, R320). -/
def execPilotPort (h : CmdHdr) (ctx : Nat) (weights : List Nat) (overhead : Nat) (s : State) : Ans :=
  immediate h 0x0603
    (fun _ => if decide (256 < ctx ∨ 255 < overhead ∨ weights.length ≠ 16) ||
      (weights.any fun w => decide (w = 0 ∨ 1024 < w)) then 0x0401 else 0)
    (fun s => { s with pilot := { s.pilot with
      overheads := tput s.pilot.overheads ctx overhead,
      weights := (weights.zipIdx).foldl (fun t w => tput t (16 * ctx + w.2) w.1) s.pilot.weights } })
    (fun _ => []) (ctx :: overhead :: weights) s

/-! Pilot queues. -/

/-- A context's rate at its present width in MB/s (R322). -/
def ctxRate (n : Nat) (s : State) : Nat := match ctxAt n s with | some c => 50000 * c.lanes | none => 0

/-- The enabled pilot queues in grant order. -/
def livePilots (s : State) : List PilotQ := s.pilot.pilots.filter fun p => !p.ending

/-- A pilot queue's context. -/
def pilotCtx (q : Nat) (s : State) : Nat := match baseOf q s with | some b => queueCtx b | none => 257

/-- A pilot queue's block with firmware's choices filled in (R413). -/
def pilotqFill (h : CmdHdr) (b : PilotqBlock) (s : State) : PilotqBlock :=
  if h.expert then b else { b with burst := max 1024 (b.rate * tau s / 1000), latencyTarget := 10000 }

/-- The reserve of a pilot queue still holds cells (R316, R322). -/
def pilotHolds (p : PilotQ) (s : State) : Bool := s.sw.cells.any fun c => c.place == 2 && c.queue == p.queue

/-- The check of PILOT.PILOTQ on setting enable (R316, R322). -/
def pilotqCode (b : PilotqBlock) (s : State) : Nat :=
  let others := (livePilots s).filter fun p => p.queue != b.queue
  let here := others.filter fun p => pilotCtx p.queue s == pilotCtx b.queue s
  let range := decide (16383 < b.queue) || (baseOf b.queue s).isNone
  if range then 0x0401
  else if b.flags = 0 then 0
  else firstCode [
    (decide (b.rate = 0 ∨ 400000 < b.rate ∨ b.burst < 1024 ∨ 4194304 < b.burst ∨ b.latencyTarget < 100 ∨
      1000000 < b.latencyTarget), 0x0401),
    (decide (64 ≤ others.length), 0x0403),
    (decide (ctxRate (pilotCtx b.queue s) s < (here.map fun p => p.rate).sum + b.rate), 0x0404),
    (decide (16384 < ((s.pilot.pilots.filter fun p => p.queue != b.queue && (!p.ending || pilotHolds p s)).map pilotReserve).sum +
      min 256 (cdiv b.burst 512)), 0x0405)]

/-- PILOT.PILOTQ: a floor granted, or ended at once (R316, R319, R321, R322). -/
def execPilotPilotq (h : CmdHdr) (b : PilotqBlock) (s : State) : Ans :=
  onFw s fun s =>
    if 2 ≤ b.flags ∨ b.reserved ≠ 0 then result h 0x0604 0x0003 [] s
    else if !h.expert && decide (b.burst ≠ 0 ∨ b.latencyTarget ≠ 0) then result h 0x0604 0x0004 [] s
    else
      let b := pilotqFill h b s
      let code := pilotqCode b s
      if code ≠ 0 then result h 0x0604 code [] s
      else
        let lead : Bytes := if h.expert then [] else
          packBytes [(2, b.queue), (1, b.flags), (1, 0), (4, b.rate), (4, b.burst), (4, b.latencyTarget)]
        let rest := s.pilot.pilots.filterMap fun p =>
          if p.queue != b.queue then (if !p.ending || pilotHolds p s then some p else none)
          else if b.flags = 1 then none else if pilotHolds p s then some { p with ending := true } else none
        let p : PilotQ := { queue := b.queue, rate := b.rate, burst := b.burst, latencyTarget := b.latencyTarget,
                            grantTide := s.tide.count, credit := 0, since := s.refCycles, owed := b.rate,
                            ending := false }
        result h 0x0604 0 lead { s with pilot := { s.pilot with pilots := if b.flags = 1 then rest ++ [p] else rest } }

/-- A pilot queue's credit now, in thousandths of a byte (R319). -/
def creditNow (p : PilotQ) (s : State) : Int :=
  min (1000 * p.burst : Int) (p.credit + (p.owed * 64 * (s.refCycles - p.since) / 10 : Nat))

/-- A pilot queue counted up to now. -/
def settlePilot (p : PilotQ) (s : State) : PilotQ := { p with credit := creditNow p s, since := s.refCycles }

/-- Rate times the tide length, capped at the burst: the floor band in thousandths of a byte (R319). -/
def floorBand (p : PilotQ) (s : State) : Int := min (1000 * p.burst : Int) ((p.owed * tau s : Nat) : Int)

/-- A floor's break or restoration raised (R327, R328): the broken queue and the party it yielded to, each with its rank;
the context itself is 65,535. -/
def yieldEvent (ctx q other : Nat) (s : State) : State :=
  raise 0x0406 [(evContext, ctx), (evDetail, q + 4 * 2 ^ 16 + other * 2 ^ 32 + 4 * 2 ^ 48)] s

/-- The floors of one context compared with its rate, in grant order (R328): each floor with its new rate and the floor it
yields to. -/
def floorShares (rate : Nat) (l : List PilotQ) : List (PilotQ × Nat × Nat) :=
  (l.foldl (fun (acc : List (PilotQ × Nat × Nat) × Nat × Bool × Nat) p =>
    let used := acc.2.1
    let over_ := acc.2.2.1
    let last := acc.2.2.2
    if over_ then (acc.1 ++ [(p, 0, last)], used, true, last)
    else if used + p.rate ≤ rate then (acc.1 ++ [(p, p.rate, last)], used + p.rate, false, p.queue)
    else
      let given := rate - used
      (acc.1 ++ [(p, given, last)], rate, true, if 0 < given then p.queue else last)) ([], 0, false, 65535)).1

/-- FLOOR_CHECK at a boundary (R328). -/
def floorTide (s : State) : State :=
  let ctxs := sorted ((livePilots s).map fun p => pilotCtx p.queue s)
  ctxs.foldl (fun s n =>
    let mine := (livePilots s).filter fun p => pilotCtx p.queue s == n
    (floorShares (ctxRate n s) mine).foldl (fun s x =>
      let p := x.1
      let q := { settlePilot p s with owed := x.2.1 }
      let s := { s with pilot := { s.pilot with pilots := s.pilot.pilots.map fun y =>
        if y.queue == p.queue && !y.ending then q else y } }
      if x.2.1 < p.rate ∧ p.owed = p.rate then yieldEvent n p.queue x.2.2 s
      else if x.2.1 = p.rate ∧ p.owed < p.rate then raise 0x0407 [(evContext, n), (evDetail, p.queue + 4 * 2 ^ 16)] s
      else s) s) s

/-! Per-host policing. -/

/-- The scale of R323 in eighths. -/
def llScale (ll : Nat) : Nat := if ll ≤ 3 then 8 else if ll = 4 then 6 else if ll = 5 then 4 else if ll = 6 then 2 else 1

/-- REQ credits owed to contexts whose hosts have no request held any more (R288, R323). -/
def payOwed (s : State) : State :=
  s.ports.ctxs.foldl (fun s p =>
    let host := if p.1 = 256 then 0xFC0 + self s else p.2.host
    if p.2.owed = 0 ∨ (s.ing.policed.any fun q => q.host == host) = true then s
    else
      match ctxAt p.1 s with
      | none => s
      | some c => returnCredit p.1 1 c.owed (setCtx p.1 { c with owed := 0 } s)) s

/-- POLICING_REFILL at a boundary: limits and balances fixed from the load level, held requests admitted as they allow, and
those still held counted (R323, R326). -/
def policeTide (s : State) : State :=
  let s := s.ing.hosts.foldl (fun s x =>
    let h := x.2
    let k := llScale h.llMax
    let gain : Int := ((h.rate * tau s * k / 8000 : Nat) : Int)
    setHost x.1 { h with limit := cdiv (h.maxOutstanding * k) 8, balance := min (h.burst : Int) (h.balance + gain),
                         llMax := 0, heldThisTide := [] } s) s
  let s := payOwed (wakePoliced s)
  let hosts := sorted (s.ing.policed.map fun p => p.host)
  hosts.foldl (fun s host =>
    let mine := s.ing.policed.filter fun p => p.host == host
    let h := hostOf host s
    let classes := sorted (mine.map fun p => p.req.tclass)
    let s := setHost host { h with heldThisTide := classes } s
    let s := classes.foldl (fun s cls => hostRecord host cls (fun x => (x.1, x.2.1, x.2.2.1, min 0x7FFFFFF (x.2.2.2 + 1))) s) s
    raiseLimited 0x0408 host 0 [(evHost, host)] mine.length s) s

/-- PILOT.HOST (R323); the basic form takes the reset values. -/
def execPilotHost (h : CmdHdr) (host maxOutstanding rate burst : Nat) (s : State) : Ans :=
  onFw s fun s =>
    let wide := ((ctxsOf host s).map fun p => p.2.lanes).foldl max 0
    let v : Nat × Nat × Nat := if h.expert then (maxOutstanding, rate, burst) else (1024, 50000 * wide, 1048576)
    if !h.expert && decide (maxOutstanding ≠ 0 ∨ rate ≠ 0 ∨ burst ≠ 0) then result h 0x0605 0x0004 [] s
    else if !ownHost host s || decide (v.1 = 0 ∨ 4096 < v.1 ∨ v.2.1 = 0 ∨ 400000 < v.2.1 ∨ v.2.2 < 4096 ∨
        4194304 < v.2.2) then result h 0x0605 0x0401 [] s
    else
      let lead : Bytes := if h.expert then [] else Config.blockImage 0x0605 [host, v.1, v.2.1, v.2.2]
      let x := hostOf host s
      result h 0x0605 0 lead (setHost host { x with maxOutstanding := v.1, rate := v.2.1, burst := v.2.2 } s)

/-! Latency. -/

/-- A queue record never written. -/
def rec0 : QueueRec := { lastDepth := 0, maxDepth := 0, lastDelay := 0, maxDelay := 0, overTarget := 0, streak := 0 }

/-- Does a queue belong to a confidential charter: one selected BY_CHARTER to which such a charter's requests go (R326, R400)? -/
def queueConfidential (q : Nat) (s : State) : Bool :=
  s.sec.confidential && (match (baseOf q s).bind fun b => tget s.pilot.subs b with
    | none => false
    | some (l, sel) => sel == 1 && s.man.charters.any fun c =>
        c.2.confidential && c.2.state == 1 && l[c.1 % max 1 l.length]? == some q)

/-- One queue sampled: its depth and the delay of its head cell (R325). -/
def sampleQueue (q cls : Nat) (s : State) : State :=
  let l := s.sw.cells.filter fun c => c.queue == q && c.eligible
  let depth := (s.sw.cells.filter fun c => c.queue == q).length
  let delay := match l with | c :: _ => min 0xFFFFFF ((s.refCycles - c.since) * 64 / 10) | [] => 0
  let r := tgetD s.pilot.recs q rec0
  let target := tgetD s.pilot.targets cls 0
  let miss := decide (0 < target ∧ target < delay)
  let streak := if miss then r.streak + 1 else 0
  let r' : QueueRec := { lastDepth := depth, maxDepth := max r.maxDepth depth, lastDelay := delay,
                         maxDelay := max r.maxDelay delay,
                         overTarget := if miss then min 0xFFFFFF (r.overTarget + 1) else r.overTarget,
                         streak := if streak = 4 then 0 else streak }
  let s := { s with pilot := { s.pilot with recs := tput s.pilot.recs q r' } }
  if streak = 4 then raiseLimited 0x0409 q 1 [(evDetail, q)] 1 s else s

/-- LATENCY_SAMPLE: every queue of the DATA classes whose exponent divides the tide count, those of confidential charters at
least 64 tides apart (R325, R400). A queue that never held a cell keeps its zero record. -/
def execLatencySample (s : State) : Ans :=
  onCore s fun s =>
    let qs := sorted ((s.sw.cells.map fun c => c.queue) ++ s.pilot.recs.map fun p => p.1)
    qs.foldl (fun s q =>
      match baseOf q s with
      | none => s
      | some b =>
        let cls := queueClass b
        let k := tgetD s.pilot.ks cls 4
        let k := if queueConfidential q s then max k 6 else k
        if isData cls s && decide (s.tide.count % 2 ^ k = 0) then sampleQueue q cls s else s) s

/-- A queue's record as PILOT.STATS gives it (R325, R400). -/
def queueStats (q : Nat) (s : State) : Bytes :=
  let r := tgetD s.pilot.recs q rec0
  let c := queueConfidential q s
  let d (n : Nat) : Nat := if c then n / 8 * 8 else n
  let t (n : Nat) : Nat := if c then roundUp n 4096 else n
  le 16 (packBits [(20, d r.lastDepth), (20, d r.maxDepth), (24, t r.lastDelay), (24, t r.maxDelay), (24, r.overTarget),
    (16, 0)])

/-- Is a host a member of a confidential charter (R326, R400)? -/
def hostConfidential (host : Nat) (s : State) : Bool :=
  s.sec.confidential && s.man.charters.any fun c => c.2.confidential && c.2.state == 1 && isMember c.1 host s

/-- A host's USER record of a class: high-water outstanding and latency, held tides. -/
def userRecord (host cls : Nat) (s : State) : Nat × Nat × Nat :=
  match (hostOf host s).records.find? fun r => r.1 == cls with
  | some r => r.2
  | none => (0, 0, 0)

/-- A USER record as PILOT.STATS gives it (R326, R400). -/
def userStats (k : Nat) (s : State) : Bytes :=
  let host := k / 16
  let c := hostConfidential host s
  let r := if c then tgetD s.ing.shown k (0, 0, 0) else userRecord host (k % 16) s
  let o := if c then r.1 / 64 * 64 else r.1
  let l := if c then roundUp r.2.1 4096 else r.2.1
  le 16 (packBits [(13, o), (24, l), (27, r.2.2), (64, 0)])

/-- Every 64 tides the USER records of confidential charters' hosts are shown as they then are (R400). -/
def showRecords (s : State) : State :=
  if s.tide.count % 64 ≠ 0 then s
  else
    let t := s.ing.hosts.foldl (fun t x =>
      if hostConfidential x.1 s then x.2.records.foldl (fun t r => tput t (16 * x.1 + r.1) r.2) t else t) s.ing.shown
    { s with ing := { s.ing with shown := t } }

/-- PILOT.STATS: `count` records from `first`, of queues, or of 16 x host + class; `clear` zeroes the maxima and counts read
(R325, R326). -/
def execPilotStats (h : CmdHdr) (user : Bool) (first count : Nat) (clear : Bool) (s : State) : Ans :=
  let keys := upto first count
  immediate h 0x0606
    (fun _ => if count = 0 ∨ 262 < count ∨ (if user then 65536 else 16384) < first + count then 0x0401 else 0)
    (fun s =>
      if !clear then s
      else if user then
        keys.foldl (fun s k =>
          match tget s.ing.hosts (k / 16) with
          | none => s
          | some x =>
            let l := x.records.map fun r => if r.1 = k % 16 then (r.1, 0, 0, 0) else r
            setHost (k / 16) { x with records := l } s) s
      else
        let wipe (p : Nat × QueueRec) : Nat × QueueRec :=
          if keys.contains p.1 then (p.1, { p.2 with maxDepth := 0, maxDelay := 0, overTarget := 0 }) else p
        { s with pilot := { s.pilot with recs := s.pilot.recs.map wipe } })
    (fun s => keys.flatMap fun k => if user then userStats k s else queueStats k s) [b2n user, first, count, b2n clear] s

/-! Choosing the next cell. -/

/-- The length of a cell (R317). -/
def cellLength (c : Cell) (s : State) : Nat :=
  (if c.pool = 3 then (c.items.map fun i => i.bytes.length).sum else (c.items.map fun i => roundUp i.bytes.length 16).sum) +
  tgetD s.pilot.overheads c.ctx 16

/-- The cells a context may send now, in order of arrival (R300, R314, R318). -/
def sendable (n : Nat) (s : State) : List Cell :=
  s.sw.cells.filter fun c => c.ctx == n && cellReady c s && slotFree n c.pool s

/-- A fair queuing node never used. -/
def node0 : FairNode := { v := 0, ptr := 0, children := [] }

/-- A node's children that are backlogged, with the length of their head cells and their weights, made to wake or to go idle
(R320). -/
def refreshNode (now : List (Nat × Nat × Nat)) (x : FairNode) : FairNode :=
  let woken (c : Nat × Nat × Nat) : FairChild :=
    { start := x.v, finish := x.v + cdiv (1024 * c.2.1) c.2.2, active := true, weight := c.2.2 }
  let asleep := x.children.map fun y => (y.1, { y.2 with active := false })
  let next := now.foldl (fun t c =>
    match tget x.children c.1 with
    | some y => tput t c.1 (if y.active then y else woken c)
    | none => tput t c.1 (woken c)) asleep
  { x with children := next }

/-- The child a node serves: the smallest finish among those with start at most V, the first at or after the pointer when
several share it (R320). -/
def nodePick (x : FairNode) : Option Nat :=
  let l := x.children.filter fun y => y.2.active && decide (y.2.start ≤ x.v)
  match l with
  | [] => none
  | y :: r =>
    let f := r.foldl (fun m z => min m z.2.finish) y.2.finish
    rotating x.ptr ((l.filter fun z => z.2.finish == f).map fun z => z.1)

/-- A node after a send of a length by a child whose next head cell has a length, none when it is idle (R320). -/
def nodeSent (k len : Nat) (next : Option Nat) (x : FairNode) : FairNode :=
  match tget x.children k with
  | none => x
  | some c =>
    let total := ((x.children.filter fun y => y.2.active).map fun y => y.2.weight).sum
    let c' : FairChild := match next with
      | some l => { c with start := c.finish, finish := c.finish + cdiv (1024 * l) c.weight }
      | none => { c with active := false }
    let ch := tput x.children k c'
    let starts := (ch.filter fun y => y.2.active).map fun y => y.2.start
    let v := x.v + cdiv (1024 * len) (max 1 total)
    let v := match starts with | [] => v | a :: r => max v (r.foldl min a)
    { v := v, ptr := k + 1, children := ch }

/-- A context's nodes brought up to date with its backlog (R320). -/
def refreshFair (n : Nat) (s : State) : State :=
  let l := sendable n s
  let classes := sorted (l.map fun c => c.tclass)
  let s := (List.range 16).foldl (fun s k =>
    let mine := l.filter fun c => c.tclass == k
    let qs := sorted (mine.map fun c => c.queue)
    let now := qs.filterMap fun q => (mine.find? fun c => c.queue == q).map fun c => (q, cellLength c s, 64)
    let key := 17 * n + 1 + k
    match tget s.pilot.nodes key, now with
    | none, [] => s
    | x, _ => { s with pilot := { s.pilot with nodes := tput s.pilot.nodes key (refreshNode now (x.getD node0)) } }) s
  let now := classes.filterMap fun k =>
    let q := (tget s.pilot.nodes (17 * n + 1 + k)).bind nodePick
    (l.find? fun c => c.tclass == k && (match q with | some q => c.queue == q | none => true)).map
      fun c => (k, cellLength c s, tgetD s.pilot.weights (16 * n + k) 64)
  { s with pilot := { s.pilot with nodes := tput s.pilot.nodes (17 * n) (refreshNode now (tgetD s.pilot.nodes (17 * n) node0)) } }

/-- The backlogged pilot queues of a context whose credit passes a test, in ascending latency target, the first of equals by
the rotating pointer (R318). -/
def pilotPick (n : Nat) (test : PilotQ → Bool) (s : State) : Option Nat :=
  let l := sendable n s
  let ps := (livePilots s).filter fun p => test p && l.any fun c => c.queue == p.queue
  match ps with
  | [] => none
  | p :: r =>
    let t := r.foldl (fun m x => min m x.latencyTarget) p.latencyTarget
    rotating (tgetD s.pilot.pilotPtr n 0) ((ps.filter fun x => x.latencyTarget == t).map fun x => x.queue)

/-- The queue Pilot names for a context's next transmit slot (R318). -/
def nameQueue (n : Nat) (s : State) : Option Nat :=
  let pos (p : PilotQ) : Bool := decide (0 < creditNow p s)
  let low (p : PilotQ) : Bool := decide (creditNow p s ≤ floorBand p s)
  match pilotPick n (fun p => pos p && low p) s with
  | some q => some q
  | none =>
    match pilotPick n pos s with
    | some q => some q
    | none =>
      match nodePick (tgetD s.pilot.nodes (17 * n) node0) with
      | none => none
      | some k => nodePick (tgetD s.pilot.nodes (17 * n + 1 + k) node0)

/-- What a send of a cell costs its queue: pilot credit, or its share of the fair nodes, in which a queue that has just sent on its pilot credit
takes no part (R319, R320). -/
def chargeSend (c : Cell) (s : State) : State :=
  let len := cellLength c s
  match (livePilots s).find? fun p => p.queue == c.queue && decide (0 < creditNow p s) with
  | some p =>
    let q := settlePilot p s
    let q := { q with credit := q.credit - 1000 * len }
    let key := 17 * c.ctx + 1 + c.tclass
    let idle (x : FairNode) : FairNode :=
      { x with children := x.children.map fun y => if y.1 = c.queue then (y.1, { y.2 with active := false }) else y }
    { s with pilot := { s.pilot with
        pilots := s.pilot.pilots.map fun y => if y.queue == p.queue && !y.ending then q else y,
        nodes := match tget s.pilot.nodes key with | some x => tput s.pilot.nodes key (idle x) | none => s.pilot.nodes,
        pilotPtr := tput s.pilot.pilotPtr c.ctx (c.queue + 1) } }
  | none =>
    let l := (sendable c.ctx s).filter fun x => !(x.id == c.id)
    let head (p : Cell → Bool) : Option Nat := (l.find? p).map fun x => cellLength x s
    let kq := 17 * c.ctx + 1 + c.tclass
    let kc := 17 * c.ctx
    let nq := nodeSent c.queue len (head fun x => x.queue == c.queue) (tgetD s.pilot.nodes kq node0)
    let s := { s with pilot := { s.pilot with nodes := tput s.pilot.nodes kq nq } }
    let next := match nodePick nq with
      | some q => head fun x => x.queue == q
      | none => head fun x => x.tclass == c.tclass
    let nc := nodeSent c.tclass len next (tgetD s.pilot.nodes kc node0)
    { s with pilot := { s.pilot with nodes := tput s.pilot.nodes kc nc } }

end Sys2Proof.Machine
end

