-- ==== Sys2Proof/Machine/Spdm.lean ====
section
/-! DEFINITION. The SPDM 1.2 responder (R394, R428, R440). Response codes are those of SPDM 1.2 (PRESUMED, log 5). -/

namespace Sys2Proof.Machine
open Sys2Proof

/-- An SPDM response sent. -/
def spdmAnswer (code : Nat) (body : Bytes) (s : State) : State := emit (.spdm code body) s

/-- ERROR with a code: 1 InvalidRequest, 6 DecryptError, 7 UnsupportedRequest. -/
def spdmError (code : Nat) (s : State) : State := spdmAnswer 0x7F (le 1 code) s

/-- A signature by the alias key, which CDI_2 determines (R427, R428). -/
def aliasSignature (msg : Bytes) (s : State) : Bytes := Config.aliasSign (s.sec.cdi2 ++ msg)

/-- The security state's 16-byte raw value: fuse floor, svn, lockout latch, confidential mode, 4 bytes each (R440). -/
def securityValue (s : State) : Bytes :=
  packBytes [(4, s.hm.floor), (4, imageSvn (runImage s)), (4, b2n s.sec.latch), (4, b2n s.sec.confidential)]

/-- Measurement block i, 1 to 6 (R440). -/
def measBlock (i : Nat) (s : State) : Bytes :=
  let b := runImage s
  if i = 1 then compDigest b 0
  else if i = 2 then compDigest b 1
  else if i = 3 then compDigest b 2
  else if i = 4 then Config.sha384 (settingsBytes s)
  else if i = 5 then securityValue s
  else match s.hm.meas.getLast? with | some m => m.chain | none => zeros 48

/-- All measurement blocks. -/
def measAll (s : State) : Bytes := (upto 1 6).flatMap fun i => measBlock i s

/-- The certificate chain of slot 0; the alias certificate carries release, svn and the chain value at its issue (R428, R440). -/
def chainBytes (s : State) : Bytes :=
  let b := runImage s
  Config.certChain ++ Config.spdmBody 0x02 (s.sec.cdi2 ++ le 4 (imageRelease b) ++ le 1 (imageSvn b) ++ s.sec.aliasChain)

/-- GET_VERSION: version 1.2 (R440). -/
def execGetVersion (body : Bytes) (s : State) : Ans := onHm s (spdmAnswer 0x04 (Config.spdmBody 0x04 body))

/-- GET_CAPABILITIES (R440). -/
def execGetCapabilities (body : Bytes) (s : State) : Ans := onHm s (spdmAnswer 0x61 (Config.spdmBody 0x61 body))

/-- NEGOTIATE_ALGORITHMS (R440). -/
def execNegotiateAlgorithms (body : Bytes) (s : State) : Ans := onHm s (spdmAnswer 0x63 (Config.spdmBody 0x63 body))

/-- GET_DIGESTS: of slot 0's chain (R440). -/
def execGetDigests (_body : Bytes) (s : State) : Ans :=
  onHm s fun s => spdmAnswer 0x01 (Config.sha384 (chainBytes s)) s

/-- GET_CERTIFICATE: a part of slot 0's chain, and the bytes that remain (R440). -/
def execGetCertificate (slot offset length : Nat) (s : State) : Ans :=
  onHm s fun s =>
    let c := chainBytes s
    if slot ≠ 0 ∨ c.length ≤ offset then spdmError 1 s
    else
      let part := (c.drop offset).take length
      spdmAnswer 0x02 (packBytes [(2, part.length), (2, c.length - offset - part.length)] ++ part) s

/-- CHALLENGE: chain hash and measurement summary, signed by the alias key (R440). -/
def execChallenge (slot : Nat) (nonce : Bytes) (s : State) : Ans :=
  onHm s fun s =>
    if slot ≠ 0 then spdmError 1 s
    else
      let body := Config.sha384 (chainBytes s) ++ nonce ++ Config.sha384 (measAll s)
      spdmAnswer 0x03 (body ++ aliasSignature body s) s

/-- GET_MEASUREMENTS: the number of blocks for index 0, every block for 0xFF, else the one named; signed (R440). -/
def execGetMeasurements (index : Nat) (nonce : Bytes) (s : State) : Ans :=
  onHm s fun s =>
    if 6 < index ∧ index ≠ 0xFF then spdmError 1 s
    else
      let blocks := if index = 0 then [] else if index = 0xFF then upto 1 6 else [index]
      let body := le 1 (if index = 0 then 6 else blocks.length) ++
        (blocks.flatMap fun i => Config.spdmBody 0x60 (le 1 i ++ measBlock i s)) ++ nonce
      spdmAnswer 0x60 (body ++ aliasSignature body s) s

/-- A session ends: its lighters unbound, the records in them discarded (R394). -/
def endSession (id : Nat) (s : State) : State :=
  let l := s.sec.lighters.map fun p => if p.2.bound && p.2.session == id then (p.1, unbind p.2) else p
  { s with sec := { s.sec with sessions := s.sec.sessions.filter fun x => x.id != id, lighters := l } }

/-- KEY_EXCHANGE: a session begins its handshake; a fifth ends the oldest (R394, R440). -/
def execKeyExchange (reqSession : Nat) (exchange : Bytes) (s : State) : Ans :=
  onHm s fun s =>
    let s := if s.sec.sessions.length < 4 then s
      else match s.sec.sessions with
        | x :: _ => endSession x.id s
        | [] => s
    let id := s.sec.nextSession * 65536 + reqSession % 65536
    let body := packBytes [(2, s.sec.nextSession % 65536), (2, 0)] ++ Config.ecdhe s.sec.cdi2 ++
      Config.sha384 (measAll s)
    let x : Session := { id := id % 2 ^ 32, open_ := false, secret := Config.ecdhe (s.sec.cdi2 ++ exchange) }
    let s := { s with sec := { s.sec with sessions := s.sec.sessions ++ [x], nextSession := (s.sec.nextSession + 1) % 65536 } }
    spdmAnswer 0x64 (body ++ aliasSignature (body ++ exchange) s) s

/-- FINISH: the handshake ends when the requester's verify data fits the session's secret; else the session is over (R394,
R440). -/
def execFinish (sessionId : Nat) (verify : Bytes) (s : State) : Ans :=
  onHm s fun s =>
    match s.sec.sessions.find? fun x => x.id == sessionId && !x.open_ with
    | none => spdmError 1 s
    | some x =>
      if verify = Config.hmac384 x.secret (le 4 sessionId) then
        let f (y : Session) : Session := if y.id == sessionId then { y with open_ := true } else y
        spdmAnswer 0x65 [] { s with sec := { s.sec with sessions := s.sec.sessions.map f } }
      else spdmError 6 (endSession sessionId s)

/-- SPDM_UNSUPPORTED: ERROR UnsupportedRequest (R440). -/
def execSpdmUnsupported (code : Nat) (s : State) : Ans :=
  onHm s fun s => spdmAnswer 0x7F (le 1 7 ++ le 1 code) s

end Sys2Proof.Machine
end

