-- ==== Sys2Proof/Machine/Tide.lean ====
section
/-! DEFINITION. A tide boundary: the device's counter, the scheduled changes in their order, what else is due, and the budgets of
the tide that begins (R13, R16, R24, R25, R32 to R36, R56, R153, R314, R323, R328, R342, R380, R400, R484). -/

namespace Sys2Proof.Machine
open Sys2Proof

/-- A splice granted for a boundary that has come (R30). -/
def spliceDue (s : State) : State :=
  match s.isl.granted with
  | some b => if b ≤ s.tide.count then splice s else s
  | none => s

/-- The scheduled changes of a device in lock, in R32's order: epochs, then keys, then firmware; then the budgets (R13, R32). -/
def boundaryActions (s : State) : State :=
  let s := applyDue (fun r => decide (r < 5)) (syncDue s)
  let s := applyDue (fun r => decide (r = 5)) s
  let s := applyDue (fun r => decide (r = 6)) s
  { s with hm := { s.hm with capped := s.hm.capNext.getD s.hm.capped, capNext := none } }

/-- A job's boundary: members of devices declared dead and exclusions taken up, bags checked, fences retried, the tide's reads planned, and
what was finished sealed (R34, R85, R153, R171, R260). -/
def jobTide (key : Nat) (s : State) : State :=
  let s := retryFences key (checkBags key (applyExclusions key (dropDeadDevices key s)))
  let s := match jobOf key s with
    | none => s
    | some j => if j.phase = .running then jobPlan key (streamTide key s) else s
  trySeals key s

/-- Summaries of the periods that end at this boundary (R484). -/
def endPeriods (s : State) : State :=
  let s := flushSummaries 0 s
  if s.tide.count % 64 = 0 then flushSummaries 1 s else s

/-- The engine budgets of the tide that begins are fixed, under what is in force now (R13, R32, R35, R36, R419, R449). -/
def fixBudgets (s : State) : State :=
  { s with
    tide := { s.tide with budgetCode := s.tide.lengthCode, budgetHalved := s.hm.halved, budgetLow := s.hm.capped || s.hm.hot },
    engines := s.engines.map fun (p : Nat × EngineSt) => (p.1, { p.2 with low := p.2.lowered }) }

/-- The plans of the tide that begins (R34, R151, R241, R310): spill traffic and samples counted afresh, each job's boundary, the codec engines
bound, every engine's slice. -/
def openTide (s : State) : State :=
  let s := freshBooks { s with spillUsed := 0, sw := { s.sw with samplesThisTide := 0 } }
  planTide (bindCodecs (streamCredits ((s.acc.jobs.map keyOf).foldl (fun s k => jobTide k s) s)))

/-- What else is due at a boundary, in lock or not (R26, R30, R56, R336, R340, R342, R380, R395 to R398). -/
def boundaryDue (s : State) : State :=
  let s := lossesDue (degradeGroups s)
  let s := endGrace (rebuildTide (keyTide (enterConfidential s)))
  grantSplice (spliceDue (sendMarker (trainRestored s)))

/-- TIDE_BOUNDARY: the count rises by one; a device in lock takes the boundary actions, the admission and engine budgets of the
new tide among them; one that is not keeps its budgets (R16, R25, R32). -/
def execTideBoundary (s : State) : Ans :=
  onCore s fun s =>
    let s := takeOver s
    let n := s.tide.count + 1
    let s := westDue { s with tide := { s.tide with count := n, markerSeen := s.tide.lastMarker == n } }
    let s := if s.tide.locked then fixBudgets (policeTide (floorTide (queuesApply (boundaryActions s)))) else s
    openTide (endPeriods (showRecords (boundaryDue s)))

end Sys2Proof.Machine
end

