-- ==== Sys2Proof/Machine/Transmit.lean ====
section
/-! DEFINITION. An egress context's transmit slot: the cell that leaves, buffer errors on it, its block, and the queue named next
(R283, R285, R287, R296, R297, R304, R306, R308, R318 to R320, R397, R453). -/

namespace Sys2Proof.Machine
open Sys2Proof

/-! Buffer errors. -/

/-- An engine-stream item's header with its poison bit set and its CRC renewed (R141, R264, R296). -/
def markHeader (k : Nat) (b : Bytes) : Bytes :=
  let w := fld b 0 32
  let h := le 32 (if bit w k then w else w + 2 ^ k)
  le 4 (crc32c (slice h 4 28)) ++ h.drop 4 ++ b.drop 32

/-- A write that poisons every granule it covers (R296, R486). -/
def poisonWrite (r : FabReq) : FabReq :=
  let lo := r.address / 64 * 64
  let n := roundUp (r.address + r.length) 64 - lo
  { r with opcode := if r.opcode = opWritePartial then opWrite else r.opcode, address := lo, length := n,
           payload := (List.range (n / 64)).flatMap fun _ => stamp }

/-- Data that an uncorrectable error leaves without a value the manual gives. -/
def spoilt (lead : Nat) (i : Item) (s : State) : Bool × Item × State :=
  let d := draw s
  (true, { i with bytes := i.bytes.take lead ++ le (i.bytes.length - lead) d.1 }, d.2)

/-- An item of a cell whose data met an uncorrectable error, as it leaves (R296): did it hold data, the item, and the state. What
becomes of data other than a DATA response's, a write's and an engine-stream item's is a free value (log 1). -/
def spoilItem (c : Cell) (i : Item) (s : State) : Bool × Item × State :=
  if c.pool = 2 then
    if i.opcode = opData then
      let r := respOf i.bytes []
      (true, { i with opcode := opPoison,
                      bytes := respHeader { r with opcode := opPoison, reason := 0x0607, data := [] } }, s)
    else if i.bytes.length ≤ 16 then (false, i, s)
    else spoilt 16 i s
  else if c.pool = 1 then
    let r := reqOf i.bytes []
    if i.bytes.length ≤ 32 then (false, i, s)
    else if i.opcode = opWrite ∨ i.opcode = opWritePartial ∨ i.opcode = opStow then
      let w := poisonWrite r
      (true, { i with opcode := w.opcode, bytes := reqHeader w ++ w.payload }, s)
    else if i.opcode = opCWriteback ∨ i.opcode = opCFill ∨ i.opcode = opCDone then
      (true, { i with bytes := i.bytes.take 32 ++ stamp }, s)
    else spoilt 32 i s
  else if c.first = true ∧ c.itemKind = 1 then (true, { i with bytes := markHeader 117 i.bytes }, s)
  else if c.first = true ∧ c.itemKind = 2 then (true, { i with bytes := markHeader 179 i.bytes }, s)
  else spoilt 0 i s

/-- A cell's items after a buffer error, 0x0309 raised for each that held data (R296). -/
def spoilCell (n : Nat) (c : Cell) (s : State) : Cell × State :=
  let r := c.items.foldl (fun (acc : List Item × State) i =>
    let x := spoilItem c i acc.2
    (acc.1 ++ [x.2.1], if x.1 then raise 0x0309 [(evContext, n)] x.2.2 else x.2.2)) ([], s)
  ({ c with items := r.1 }, r.2)

/-! The cell that leaves. -/

/-- The channel on which an engine-stream cell leaves: its item's open one, or the first free one for a new item (R283). -/
def outChannel (p : PortCtx) (c : Cell) : Option Nat :=
  let key := 256 * c.ingress + c.channel
  match p.txOpen.find? fun x => x.2 == key with
  | some x => some x.1
  | none => (List.range 256).find? fun k => (tget p.txOpen k).isNone

/-- Open channels after a cell has left on one (R283). -/
def nextOpen (p : PortCtx) (c : Cell) (k : Nat) : Tbl Nat :=
  if c.last then tdel p.txOpen k else tput p.txOpen k (256 * c.ingress + c.channel)

/-- An engine-stream item put together from its first cell and those behind it in the queue (R295). -/
def wholeItem (c : Cell) (s : State) : Option Item :=
  match c.items with
  | [] => none
  | i :: _ =>
    let l := s.sw.cells.filter fun x => x.ctx == c.ctx && x.queue == c.queue && x.ingress == c.ingress &&
      x.channel == c.channel && decide (c.id < x.id)
    let upTo := (l.take ((l.findIdx fun x => x.last) + 1))
    let rest := if c.last then [] else upTo.flatMap fun x => x.items.flatMap fun y => y.bytes
    some { i with bytes := i.bytes ++ rest }

/-- Mirror and sample copies of what a cell carries, as it leaves; copies themselves are not copied again (R305, R306, R308). -/
def observeCell (n role : Nat) (c : Cell) (s : State) : State :=
  if role = 4 then s
  else if c.pool = 3 then
    if c.first then
      match wholeItem c s with
      | some i => observe n true 3 c.tclass c.itemKind i s
      | none => s
    else s
  else c.items.foldl (fun s i => observe n true c.pool c.tclass 0 i s) s

/-- A cell becomes the payload of a sequenced block: a credit taken, the block kept and sent (R285, R287, R295). -/
def sendBlock (n k : Nat) (c : Cell) (s : State) : State :=
  match ctxAt n s with
  | none => s
  | some p =>
    let pay := p.txCredit.zipIdx.map fun x => if x.2 + 1 = c.pool then x.1 - 1 else x.1
    let c := { c with ctx := n }
    let p' := { p with nextTx := (p.nextTx + 1) % 4096, txCredit := pay, kept := p.kept ++ [(p.nextTx, c)],
                       txOpen := if c.pool = 3 then nextOpen p c k else p.txOpen }
    emit (.block n p.nextTx false (c.items.flatMap fun i => padTo 16 i.bytes)) (setCtx n p' s)

/-- A cell leaves: errors and R397's conversion applied to it, its copies made, its block sent. -/
def transmit (n k : Nat) (ecc : Bool) (c : Cell) (s : State) : State :=
  let x := if ecc then spoilCell n c s else (c, s)
  let s := x.2
  match ctxAt n s with
  | none => s
  | some p =>
    let items := x.1.items
    let clean := if p.role = 1 then { x.1 with items := items.map fun i => scrubItem i s } else x.1
    let s := if p.role = 1 then countScrubs items s else s
    sendBlock n k clean (observeCell n p.role clean s)

/-- The queue of a context's next transmit slot named (R318). -/
def nameNext (n : Nat) (s : State) : State :=
  let s := refreshFair n s
  { s with pilot := { s.pilot with named := match nameQueue n s with
    | some q => tput s.pilot.named n q
    | none => tdel s.pilot.named n } }

/-- The cell of the named queue that a plane's match carries: the first in order, with its plane (R297). -/
def matchedCell (n : Nat) (s : State) : Option (Nat × Cell) :=
  match tget s.pilot.named n with
  | none => none
  | some q =>
    let l := s.sw.cells.filter fun c => c.ctx == n && c.queue == q && cellReady c s && slotFree n c.pool s
    let plane (c : Cell) : Option Nat :=
      (s.sw.matched.find? fun m => m.2.contains (c.ingress, portOf n c.pool s)).map fun m => m.1
    (l.findSome? fun c => (plane c).map fun k => (k, c))

/-- The match that carried a cell is used up. -/
def useMatch (plane : Nat) (c : Cell) (s : State) : State :=
  let l := (tgetD s.sw.matched plane []).erase (c.ingress, portOf c.ctx c.pool s)
  { s with sw := { s.sw with matched := tput s.sw.matched plane l } }

/-- The channel a cell may leave on: any for REQ and RSP (R283). -/
def channelFor (n : Nat) (c : Cell) (s : State) : Option Nat :=
  if c.pool ≠ 3 then some 0
  else match ctxAt n s with
    | some p => outChannel p c
    | none => none

/-- TRANSMIT_SLOT: span resends first, then the named queue's cell that a match carries; the next queue is then named.
`eccError` 1 is an uncorrectable error in the data of the cell that leaves, 2 one in both copies of an item's header, which the
device takes as loss of itself (R296, R297, R318, R453). -/
def execTransmitSlot (ctx eccError : Nat) (s : State) : Ans :=
  onCore s fun s =>
    if !ctxUp ctx s then s
    else
      match tgetD s.pilot.resends ctx [] with
      | c :: r =>
        (match channelFor ctx c s with
        | none => s
        | some k =>
          if !slotFree ctx c.pool s then s
          else if eccError = 2 then selfReset s
          else
            let t := if r = [] then tdel s.pilot.resends ctx else tput s.pilot.resends ctx r
            transmit ctx k (decide (eccError = 1)) c { s with pilot := { s.pilot with resends := t } })
      | [] =>
        let s := refreshFair ctx s
        match matchedCell ctx s with
        | none => nameNext ctx s
        | some (plane, c) =>
          match channelFor ctx c s with
          | none => s
          | some k =>
            if eccError = 2 then selfReset s
            else
              let s := useMatch plane c (chargeSend c s)
              let s := transmit ctx k (decide (eccError = 1)) c s
              nameNext ctx (dropCells (fun x => x.id == c.id && x.ctx == ctx) s)

end Sys2Proof.Machine
end

