-- ==== Sys2Proof/Machine/Dispatch.lean ====
section
/-! DEFINITION. One arm per command: its meaning. -/

namespace Sys2Proof.Machine
open Sys2Proof

/-- What a command does to everything but the queue. -/
def exec (i : Instr) (s : State) : Host.Outcome State Fault Refusal :=
  match i with
  | .mboxPad mailbox => Sys2Proof.Machine.execMboxPad mailbox s
  | .mboxNop h => Sys2Proof.Machine.execMboxNop h s
  | .commandTake mailbox => Sys2Proof.Machine.execCommandTake mailbox s
  | .berthConfigure h berth split ctxs => Sys2Proof.Machine.execBerthConfigure h berth split ctxs s
  | .linkCodec h ctx classMask elemWidth maxWait => Sys2Proof.Machine.execLinkCodec h ctx classMask elemWidth maxWait s
  | .switchForwarding h ctx modes => Sys2Proof.Machine.execSwitchForwarding h ctx modes s
  | .mirrorSession h session target src => Sys2Proof.Machine.execMirrorSession h session target src s
  | .sampleConfigure h ctx egress n => Sys2Proof.Machine.execSampleConfigure h ctx egress n s
  | .pilotQueues h ctx cls pool count select => Sys2Proof.Machine.execPilotQueues h ctx cls pool count select s
  | .pilotClass h cls alpha kind delayTarget k => Sys2Proof.Machine.execPilotClass h cls alpha kind delayTarget k s
  | .pilotPort h ctx weights overhead => Sys2Proof.Machine.execPilotPort h ctx weights overhead s
  | .pilotPilotq h b => Sys2Proof.Machine.execPilotPilotq h b s
  | .pilotHost h host maxOutstanding rate burst => Sys2Proof.Machine.execPilotHost h host maxOutstanding rate burst s
  | .pilotStats h user first count clear => Sys2Proof.Machine.execPilotStats h user first count clear s
  | .manifestMap h index e atTide => Sys2Proof.Machine.execManifestMap h index e atTide s
  | .manifestRevoke h index atTide => Sys2Proof.Machine.execManifestRevoke h index atTide s
  | .manifestWindow h charter win w atTide => Sys2Proof.Machine.execManifestWindow h charter win w atTide s
  | .manifestSync h source boundary entries windows route routeEpoch => Sys2Proof.Machine.execManifestSync h source boundary entries windows route routeEpoch s
  | .routeCommit h m atTide => Sys2Proof.Machine.execRouteCommit h m atTide s
  | .compositionSet h c m atTide => Sys2Proof.Machine.execCompositionSet h c m atTide s
  | .roleShift h host group join leave atTide => Sys2Proof.Machine.execRoleShift h host group join leave atTide s
  | .tideSetLength h code atTide => Sys2Proof.Machine.execTideSetLength h code atTide s
  | .redundancyGroup h delete g atTide => Sys2Proof.Machine.execRedundancyGroup h delete g atTide s
  | .redundancyFormat h groupId limit atTide => Sys2Proof.Machine.execRedundancyFormat h groupId limit atTide s
  | .redundancyReplace h groupId member device tray module rate atTide => Sys2Proof.Machine.execRedundancyReplace h groupId member device tray module rate atTide s
  | .charterCreate h charter confidential keySource key atTide => Sys2Proof.Machine.execCharterCreate h charter confidential keySource key atTide s
  | .charterMembers h charter add remove atTide => Sys2Proof.Machine.execCharterMembers h charter add remove atTide s
  | .charterRotate h charter keySource rate key atTide => Sys2Proof.Machine.execCharterRotate h charter keySource rate key atTide s
  | .charterRevoke h charter atTide => Sys2Proof.Machine.execCharterRevoke h charter atTide s
  | .confidentialEnter h => Sys2Proof.Machine.execConfidentialEnter h s
  | .jobqOpen h queue mailbox => Sys2Proof.Machine.execJobqOpen h queue mailbox s
  | .jobqClose h queue owner => Sys2Proof.Machine.execJobqClose h queue owner s
  | .craneCollective h d => Sys2Proof.Machine.execCraneCollective h d s
  | .stevedoreMove h d => Sys2Proof.Machine.execStevedoreMove h d s
  | .customsScan h d => Sys2Proof.Machine.execCustomsScan h d s
  | .customsScore h d => Sys2Proof.Machine.execCustomsScore h d s
  | .customsMerge h d => Sys2Proof.Machine.execCustomsMerge h d s
  | .codecEncode h d => Sys2Proof.Machine.execCodecEncode h d s
  | .codecDecode h d => Sys2Proof.Machine.execCodecDecode h d s
  | .streamSchedule h d => Sys2Proof.Machine.execStreamSchedule h d s
  | .streamStop h slot => Sys2Proof.Machine.execStreamStop h slot s
  | .tierPlace h d => Sys2Proof.Machine.execTierPlace h d s
  | .tierDrop h objectId stageAddr => Sys2Proof.Machine.execTierDrop h objectId stageAddr s
  | .tierMigrate h tier charter objectId srcVa bytes dst atTide => Sys2Proof.Machine.execTierMigrate h tier charter objectId srcVa bytes dst atTide s
  | .tierQuery h objectId => Sys2Proof.Machine.execTierQuery h objectId s
  | .copyRun h d => Sys2Proof.Machine.execCopyRun h d s
  | .programKeyEnroll h slot key => Sys2Proof.Machine.execProgramKeyEnroll h slot key s
  | .programKeyClear h slot => Sys2Proof.Machine.execProgramKeyClear h slot s
  | .programLoadBlock h programId offset data => Sys2Proof.Machine.execProgramLoadBlock h programId offset data s
  | .programCommit h programId totalLength deviceMask => Sys2Proof.Machine.execProgramCommit h programId totalLength deviceMask s
  | .programUnload h programId deviceMask => Sys2Proof.Machine.execProgramUnload h programId deviceMask s
  | .programQuery h programId => Sys2Proof.Machine.execProgramQuery h programId s
  | .fwLoadBlock h offset data => Sys2Proof.Machine.execFwLoadBlock h offset data s
  | .fwCommit h totalLength deviceMask holdupMv writeOk => Sys2Proof.Machine.execFwCommit h totalLength deviceMask holdupMv writeOk s
  | .fwActivateAt h deviceMask release atTide => Sys2Proof.Machine.execFwActivateAt h deviceMask release atTide s
  | .fwMeasurements h start => Sys2Proof.Machine.execFwMeasurements h start s
  | .fwStatus h => Sys2Proof.Machine.execFwStatus h s
  | .logbookFlush h holdupMv => Sys2Proof.Machine.execLogbookFlush h holdupMv s
  | .telemetrySamples h => Sys2Proof.Machine.execTelemetrySamples h s
  | .telemetryCounters h group start => Sys2Proof.Machine.execTelemetryCounters h group start s
  | .domainChangeNotice id c atTide => Sys2Proof.Machine.execDomainChangeNotice id c atTide s
  | .domainChangeReady number member ok code => Sys2Proof.Machine.execDomainChangeReady number member ok code s
  | .domainChangeCommit id => Sys2Proof.Machine.execDomainChangeCommit id s
  | .domainChangeCancel id => Sys2Proof.Machine.execDomainChangeCancel id s
  | .changeReadyDeadline number => Sys2Proof.Machine.execChangeReadyDeadline number s
  | .domainChangeApply => Sys2Proof.Machine.execDomainChangeApply s
  | .routeGraceEnd => Sys2Proof.Machine.execRouteGraceEnd s
  | .tideBoundary => Sys2Proof.Machine.execTideBoundary s
  | .tideMarkerReceive east hops count offset => Sys2Proof.Machine.execTideMarkerReceive east hops count offset s
  | .markerMissed => Sys2Proof.Machine.execMarkerMissed s
  | .masterTakeover => Sys2Proof.Machine.execMasterTakeover s
  | .ringSlotArrive slot position => Sys2Proof.Machine.execRingSlotArrive slot position s
  | .snoopAnswer slot => Sys2Proof.Machine.execSnoopAnswer slot s
  | .slotReturn slot => Sys2Proof.Machine.execSlotReturn slot s
  | .dataSlotReceive slot => Sys2Proof.Machine.execDataSlotReceive slot s
  | .ringMeasure east spanTenthsNs hops ident => Sys2Proof.Machine.execRingMeasure east spanTenthsNs hops ident s
  | .ringLinkFail link => Sys2Proof.Machine.execRingLinkFail link s
  | .ringLinkRestore link => Sys2Proof.Machine.execRingLinkRestore link s
  | .trainRestore => Sys2Proof.Machine.execTrainRestore s
  | .bypassReleaseRequest => Sys2Proof.Machine.execBypassReleaseRequest s
  | .bypassReleaseTimeout => Sys2Proof.Machine.execBypassReleaseTimeout s
  | .bypassLeaveRequest => Sys2Proof.Machine.execBypassLeaveRequest s
  | .spliceRequest site leave => Sys2Proof.Machine.execSpliceRequest site leave s
  | .spliceGrant => Sys2Proof.Machine.execSpliceGrant s
  | .splice => Sys2Proof.Machine.execSplice s
  | .bypassClose => Sys2Proof.Machine.execBypassClose s
  | .coreHeartbeatTimeout => Sys2Proof.Machine.execCoreHeartbeatTimeout s
  | .sliceRetire kind engine slot w bad corrected => Sys2Proof.Machine.execSliceRetire kind engine slot w bad corrected s
  | .tideOverrun kind engine => Sys2Proof.Machine.execTideOverrun kind engine s
  | .budgetRestore kind engine => Sys2Proof.Machine.execBudgetRestore kind engine s
  | .powerSample milliwatts => Sys2Proof.Machine.execPowerSample milliwatts s
  | .read r => Sys2Proof.Machine.execRead r s
  | .readAcq r => Sys2Proof.Machine.execReadAcq r s
  | .acquire r => Sys2Proof.Machine.execAcquire r s
  | .write r => Sys2Proof.Machine.execWrite r s
  | .writePartial r => Sys2Proof.Machine.execWritePartial r s
  | .writeSeal r => Sys2Proof.Machine.execWriteSeal r s
  | .stow r => Sys2Proof.Machine.execStow r s
  | .atomic r => Sys2Proof.Machine.execAtomic r s
  | .regionPublish r => Sys2Proof.Machine.execRegionPublish r s
  | .cReadShared r => Sys2Proof.Machine.execCReadShared r s
  | .cReadOwn r => Sys2Proof.Machine.execCReadOwn r s
  | .cUpgrade r => Sys2Proof.Machine.execCUpgrade r s
  | .cWriteback r => Sys2Proof.Machine.execCWriteback r s
  | .cEvictClean r => Sys2Proof.Machine.execCEvictClean r s
  | .cRecallAnswer host line data => Sys2Proof.Machine.execCRecallAnswer host line data s
  | .hostRecallTimeout host line => Sys2Proof.Machine.execHostRecallTimeout host line s
  | .cStowFill r => Sys2Proof.Machine.execCStowFill r s
  | .cStowFillAnswer device line taken => Sys2Proof.Machine.execCStowFillAnswer device line taken s
  | .cSnoopDone r => Sys2Proof.Machine.execCSnoopDone r s
  | .snoopRoundReturn snoopId answers => Sys2Proof.Machine.execSnoopRoundReturn snoopId answers s
  | .deadAgentNotice device => Sys2Proof.Machine.execDeadAgentNotice device s
  | .directoryScanDone device => Sys2Proof.Machine.execDirectoryScanDone device s
  | .homeAdmit r => Sys2Proof.Machine.execHomeAdmit r s
  | .attemptFence r => Sys2Proof.Machine.execAttemptFence r s
  | .granuleBatchStart entry offset => Sys2Proof.Machine.execGranuleBatchStart entry offset s
  | .trayResponse request kind data => Sys2Proof.Machine.execTrayResponse request kind data s
  | .granuleBatchDone entry offset => Sys2Proof.Machine.execGranuleBatchDone entry offset s
  | .sealTimeout source window => Sys2Proof.Machine.execSealTimeout source window s
  | .windowForget source => Sys2Proof.Machine.execWindowForget source s
  | .responseReceive r => Sys2Proof.Machine.execResponseReceive r s
  | .loadLevelUpdate => Sys2Proof.Machine.execLoadLevelUpdate s
  | .blockReceive ctx block marked stamp => Sys2Proof.Machine.execBlockReceive ctx block marked stamp s
  | .cutItemArrive ctx seq unit pool item => Sys2Proof.Machine.execCutItemArrive ctx seq unit pool item s
  | .idle ctx ack => Sys2Proof.Machine.execIdle ctx ack s
  | .nak ctx seq => Sys2Proof.Machine.execNak ctx seq s
  | .credit ctx req rsp strm => Sys2Proof.Machine.execCredit ctx req rsp strm s
  | .nakHoldoffExpire ctx => Sys2Proof.Machine.execNakHoldoffExpire ctx s
  | .resendTimeout ctx => Sys2Proof.Machine.execResendTimeout ctx s
  | .signalDetect ctx => Sys2Proof.Machine.execSignalDetect ctx s
  | .equalizeLock ctx => Sys2Proof.Machine.execEqualizeLock ctx s
  | .blockLock ctx => Sys2Proof.Machine.execBlockLock ctx s
  | .identify ctx ident => Sys2Proof.Machine.execIdentify ctx ident s
  | .ping ctx => Sys2Proof.Machine.execPing ctx s
  | .pong ctx rttTenthsNs => Sys2Proof.Machine.execPong ctx rttTenthsNs s
  | .initialCredit ctx req rsp strm => Sys2Proof.Machine.execInitialCredit ctx req rsp strm s
  | .trainingTimeout ctx => Sys2Proof.Machine.execTrainingTimeout ctx s
  | .laneFail ctx lane => Sys2Proof.Machine.execLaneFail ctx lane s
  | .spanSeqQuery device ctx => Sys2Proof.Machine.execSpanSeqQuery device ctx s
  | .spanSeqAnswer ctx seq => Sys2Proof.Machine.execSpanSeqAnswer ctx seq s
  | .spanAnswerTimeout ctx => Sys2Proof.Machine.execSpanAnswerTimeout ctx s
  | .planeMatch plane => Sys2Proof.Machine.execPlaneMatch plane s
  | .transmitSlot ctx eccError => Sys2Proof.Machine.execTransmitSlot ctx eccError s
  | .pilotQueuesApply => Sys2Proof.Machine.execPilotQueuesApply s
  | .latencySample => Sys2Proof.Machine.execLatencySample s
  | .contribReceive g => Sys2Proof.Machine.execContribReceive g s
  | .partialReceive g => Sys2Proof.Machine.execPartialReceive g s
  | .resultReceive g => Sys2Proof.Machine.execResultReceive g s
  | .tileOpen slot tile => Sys2Proof.Machine.execTileOpen slot tile s
  | .memberTimeout slot host => Sys2Proof.Machine.execMemberTimeout slot host s
  | .exclusionNotice slot host => Sys2Proof.Machine.execExclusionNotice slot host s
  | .exclusionApply slot host => Sys2Proof.Machine.execExclusionApply slot host s
  | .engineReadResponse slot address poison data bad corrected => Sys2Proof.Machine.execEngineReadResponse slot address poison data bad corrected s
  | .engineJobStop slot => Sys2Proof.Machine.execEngineJobStop slot s
  | .attemptStart slot join => Sys2Proof.Machine.execAttemptStart slot join s
  | .linkFrameTimeout ctx => Sys2Proof.Machine.execLinkFrameTimeout ctx s
  | .linkFrameReceive ctx header payload => Sys2Proof.Machine.execLinkFrameReceive ctx header payload s
  | .linkFrameAck ctx seq => Sys2Proof.Machine.execLinkFrameAck ctx seq s
  | .linkFrameNack ctx seq => Sys2Proof.Machine.execLinkFrameNack ctx seq s
  | .prefetchBlockLand slot layer shadow block generation poison header data => Sys2Proof.Machine.execPrefetchBlockLand slot layer shadow block generation poison header data s
  | .formRetranslate slot layer shadow => Sys2Proof.Machine.execFormRetranslate slot layer shadow s
  | .layerChoice slot => Sys2Proof.Machine.execLayerChoice slot s
  | .deliveryClose slot => Sys2Proof.Machine.execDeliveryClose slot s
  | .streamAbandoned slot => Sys2Proof.Machine.execStreamAbandoned slot s
  | .trayRequestTimeout request => Sys2Proof.Machine.execTrayRequestTimeout request s
  | .moduleFailedNotice device tray module count => Sys2Proof.Machine.execModuleFailedNotice device tray module count s
  | .formatStep groupId rows => Sys2Proof.Machine.execFormatStep groupId rows s
  | .formatDone groupId => Sys2Proof.Machine.execFormatDone groupId s
  | .rebuildStep groupId => Sys2Proof.Machine.execRebuildStep groupId s
  | .rebuildDoneReport groupId device => Sys2Proof.Machine.execRebuildDoneReport groupId device s
  | .rebuildDone groupId => Sys2Proof.Machine.execRebuildDone groupId s
  | .resyncStep entry => Sys2Proof.Machine.execResyncStep entry s
  | .heartbeatReceive device => Sys2Proof.Machine.execHeartbeatReceive device s
  | .heartbeatTimeout device => Sys2Proof.Machine.execHeartbeatTimeout device s
  | .hostDeath host => Sys2Proof.Machine.execHostDeath host s
  | .resetRequest device epoch => Sys2Proof.Machine.execResetRequest device epoch s
  | .replica fromDev msgId fragOffset last r => Sys2Proof.Machine.execReplica fromDev msgId fragOffset last r s
  | .replicaAck fromDev logSeq full => Sys2Proof.Machine.execReplicaAck fromDev logSeq full s
  | .receiptClear fromDev msgId jobDevice jobSlot => Sys2Proof.Machine.execReceiptClear fromDev msgId jobDevice jobSlot s
  | .clearAck home jobDevice jobSlot => Sys2Proof.Machine.execClearAck home jobDevice jobSlot s
  | .replicaResendTimeout logSeq => Sys2Proof.Machine.execReplicaResendTimeout logSeq s
  | .jobComplete slot => Sys2Proof.Machine.execJobComplete slot s
  | .flushComplete ok => Sys2Proof.Machine.execFlushComplete ok s
  | .sweepPageStep charter entry page => Sys2Proof.Machine.execSweepPageStep charter entry page s
  | .rotationDoneReport charter device => Sys2Proof.Machine.execRotationDoneReport charter device s
  | .rotationComplete charter => Sys2Proof.Machine.execRotationComplete charter s
  | .removalDoneReport charter device poisoned refused stopped => Sys2Proof.Machine.execRemovalDoneReport charter device poisoned refused stopped s
  | .removalComplete charter => Sys2Proof.Machine.execRemovalComplete charter s
  | .harbourKeyAgreement ok key => Sys2Proof.Machine.execHarbourKeyAgreement ok key s
  | .pageMapTransfer entry pages => Sys2Proof.Machine.execPageMapTransfer entry pages s
  | .lighterRecord lighter content sessionId counter authentic plaintext => Sys2Proof.Machine.execLighterRecord lighter content sessionId counter authentic plaintext s
  | .lighterReadRetry lighter => Sys2Proof.Machine.execLighterReadRetry lighter s
  | .mboxRead tag offset length => Sys2Proof.Machine.execMboxRead tag offset length s
  | .mboxWrite tag offset data => Sys2Proof.Machine.execMboxWrite tag offset data s
  | .getVersion body => Sys2Proof.Machine.execGetVersion body s
  | .getCapabilities body => Sys2Proof.Machine.execGetCapabilities body s
  | .negotiateAlgorithms body => Sys2Proof.Machine.execNegotiateAlgorithms body s
  | .getDigests body => Sys2Proof.Machine.execGetDigests body s
  | .getCertificate slot offset length => Sys2Proof.Machine.execGetCertificate slot offset length s
  | .challenge slot nonce => Sys2Proof.Machine.execChallenge slot nonce s
  | .getMeasurements index nonce => Sys2Proof.Machine.execGetMeasurements index nonce s
  | .keyExchange reqSession exchange => Sys2Proof.Machine.execKeyExchange reqSession exchange s
  | .finish sessionId verify => Sys2Proof.Machine.execFinish sessionId verify s
  | .spdmUnsupported code => Sys2Proof.Machine.execSpdmUnsupported code s
  | .programImageReceive issuer image => Sys2Proof.Machine.execProgramImageReceive issuer image s
  | .programCommitAnswer device code => Sys2Proof.Machine.execProgramCommitAnswer device code s
  | .programStageExpire programId => Sys2Proof.Machine.execProgramStageExpire programId s
  | .fwImageReceive issuer image holdupMv writeOk => Sys2Proof.Machine.execFwImageReceive issuer image holdupMv writeOk s
  | .fwCommitAnswer device code => Sys2Proof.Machine.execFwCommitAnswer device code s
  | .fwPostReadyWrites holdupMv => Sys2Proof.Machine.execFwPostReadyWrites holdupMv s
  | .fwSelectPending holdupMv => Sys2Proof.Machine.execFwSelectPending holdupMv s
  | .fwDoneReport device => Sys2Proof.Machine.execFwDoneReport device s
  | .cmdTailWrite mailbox value => Sys2Proof.Machine.execCmdTailWrite mailbox value s
  | .cplHeadWrite mailbox value => Sys2Proof.Machine.execCplHeadWrite mailbox value s
  | .evHeadWrite value => Sys2Proof.Machine.execEvHeadWrite value s
  | .reasonClear value => Sys2Proof.Machine.execReasonClear value s
  | .lighterEnable lighter value => Sys2Proof.Machine.execLighterEnable lighter value s
  | .inTailWrite lighter value => Sys2Proof.Machine.execInTailWrite lighter value s
  | .outHeadWrite lighter value => Sys2Proof.Machine.execOutHeadWrite lighter value s
  | .tideCountLowRead tag => Sys2Proof.Machine.execTideCountLowRead tag s
  | .registerWrite offset width value => Sys2Proof.Machine.execRegisterWrite offset width value s
  | .lifeboatStatus path issueId param => Sys2Proof.Machine.execLifeboatStatus path issueId param s
  | .freeze path issueId param => Sys2Proof.Machine.execFreeze path issueId param s
  | .dumpSnapshot path issueId param => Sys2Proof.Machine.execDumpSnapshot path issueId param s
  | .zeroizeCharter path issueId param => Sys2Proof.Machine.execZeroizeCharter path issueId param s
  | .zeroizeAll path issueId param => Sys2Proof.Machine.execZeroizeAll path issueId param s
  | .ringBypassClose path issueId param => Sys2Proof.Machine.execRingBypassClose path issueId param s
  | .lifeboatLogbookFlush path issueId param holdupMv => Sys2Proof.Machine.execLifeboatLogbookFlush path issueId param holdupMv s
  | .subsystemReset path issueId param => Sys2Proof.Machine.execSubsystemReset path issueId param s
  | .readMeasurements path issueId param => Sys2Proof.Machine.execReadMeasurements path issueId param s
  | .coldReset vstby => Sys2Proof.Machine.execColdReset vstby s
  | .warmReset ring => Sys2Proof.Machine.execWarmReset ring s
  | .resetRelease bank0Ok bank1Ok ssdOk stageOk bad corrected => Sys2Proof.Machine.execResetRelease bank0Ok bank1Ok ssdOk stageOk bad corrected s
  | .railFault rail => Sys2Proof.Machine.execRailFault rail s
  | .thermalLimit high => Sys2Proof.Machine.execThermalLimit high s
  | .holdupFail holdupMv => Sys2Proof.Machine.execHoldupFail holdupMv s
  | .boardDeclWrite decl => Sys2Proof.Machine.execBoardDeclWrite decl s
  | .pmbusOther command => Sys2Proof.Machine.execPmbusOther command s
  | .tapInstruction code => Sys2Proof.Machine.execTapInstruction code s
  | .groupDegraded => Sys2Proof.Machine.execGroupDegraded s
  | .heartbeatSend => Sys2Proof.Machine.execHeartbeatSend s
  | .lossBoundary => Sys2Proof.Machine.execLossBoundary s
  | .asyncResend => Sys2Proof.Machine.execAsyncResend s
  | .logbookReplay => Sys2Proof.Machine.execLogbookReplay s
  | .keyEpochTurn => Sys2Proof.Machine.execKeyEpochTurn s
  | .confidentialEntry => Sys2Proof.Machine.execConfidentialEntry s
  | .fwStageExpire => Sys2Proof.Machine.execFwStageExpire s
  | .fwActivation => Sys2Proof.Machine.execFwActivation s
  | .hmWatchdog => Sys2Proof.Machine.execHmWatchdog s
  | .hmHeartbeat => Sys2Proof.Machine.execHmHeartbeat s
  | .firmwareReady => Sys2Proof.Machine.execFirmwareReady s
  | .thermtrip => Sys2Proof.Machine.execThermtrip s
  | .inputPowerReturn => Sys2Proof.Machine.execInputPowerReturn s
  | .oneSecondPeriodEnd => Sys2Proof.Machine.execOneSecondPeriodEnd s
  | .lbStatusRead => Sys2Proof.Machine.execLbStatusRead s
  | .statusWord => Sys2Proof.Machine.execStatusWord s
  | .readTemperature1 => Sys2Proof.Machine.execReadTemperature1 s
  | .readPout => Sys2Proof.Machine.execReadPout s

end Sys2Proof.Machine
end

