-- ==== Sys2Proof/Safety.lean ====
section
/-! DEFINITION. What a good state of the device is, and what a step may change, in the terms the statements use. -/

namespace Sys2Proof.Machine
open Sys2Proof

/-- Both byte memories are in their canonical form. -/
abbrev memoriesWf (s : State) : Prop := Memory.wf s.stage ∧ Memory.wf s.mbox

/-- What posting an answer, recording a reason code or raising an event may change (R404, R411, R417, R469, R482 to R484): the
telemetry, the mailbox memory and pointers, the commands in progress, the lighters, ALERT_N, and what is transmitted. All else
stays. -/
def answerFrame (s t : State) : Prop :=
  t = { s with tel := t.tel, mbox := t.mbox, out := t.out,
               hm := { s.hm with boxes := t.hm.boxes, taken := t.hm.taken },
               sec := { s.sec with lighters := t.sec.lighters },
               isl := { s.isl with alert := t.isl.alert } }

/-- A message to every member can leave this device: the ring is whole, or one of its directions still reaches another site
(R26). -/
abbrev reachesRing (s : State) : Prop :=
  s.ring.broken = none ∨ removesSlots true s = false ∨ removesSlots false s = false

/-- Nothing but the tide's own count, budgets and plans is due at a boundary (R32): no change, Manifest to put in force, loss, failed
module, entry into confidential mode, sweep, rebuild, formatting, restore, splice, waiting marker or period's summary, no host
policed, no credit owed, no link frame to code and no job. -/
abbrev nothingDue (s : State) : Prop :=
  s.tide.takeover = none ∧ s.tide.wests = [] ∧ s.man.notices = [] ∧ s.man.sync = none ∧ s.ring.losses = [] ∧
  s.home.failNotices = [] ∧ s.sec.enterAt = none ∧ s.sec.sweeps = [] ∧ s.home.rebuilds = [] ∧ s.home.formats = [] ∧
  s.ring.restoreAt = none ∧ s.isl.granted = none ∧ s.tide.hasMaster = false ∧ s.tel.summaries = [] ∧ s.ing.hosts = [] ∧
  s.ing.policed = [] ∧ (∀ p ∈ s.ports.ctxs, p.2.owed = 0 ∧ p.2.owedStream = 0) ∧
  (∀ p ∈ s.ports.codecs, p.2.closed = [] ∧ p.2.rx = []) ∧ s.pilot.pendingSubs = [] ∧ s.pilot.pilots = [] ∧ s.acc.jobs = []

end Sys2Proof.Machine
end

