-- ==== Sys2Proof/Certificates/Slice0/Obligations.lean ====
section
/-! DEFINITION. What is claimed of the model: one statement per kind of command, each for every state and operand that meets its
premises. Statements that rest on a choice of the model name the log entry in their docstring. -/

open Sys2Proof Sys2Proof.Machine

/-! The machine. -/

/-- A step runs the command at the front of the queue, with the queue's rest (R403 to R406 give the commands; the queue is the
model's, log 8). -/
def Obligations.StepRunsFrontCommand : Prop :=
  ∀ (c : Instr) (r : List Instr) (s : State), s.pending = c :: r → step s = exec c { s with pending := r }

/-- With no command waiting one reference cycle passes and no lifeboat operation stays under way (the model's choice, log 8
and log 20). -/
def Obligations.EmptyQueueIdles : Prop :=
  ∀ s : State, s.pending = [] →
    ∃ t, step s = .next t ∧ t.refCycles = s.refCycles + 1 ∧ t.isl.lbRuns = [] ∧ t.pending = [] ∧
      t.tide = s.tide ∧ t.man = s.man ∧ t.acc = s.acc ∧ t.stage = s.stage

/-- What the register tables give at reset: pointers, reasons and signal enables zero, no lighter bound or enabled, the
latch clear, the bypass closed, tide length code 1, no context up (R33, R466, R469 to R478); both memories list nothing. -/
def Obligations.ResetState : Prop :=
  memoriesWf State.reset ∧ State.reset.pending = [] ∧
  (∀ m, boxOf m State.reset = mailbox0) ∧ (∀ l, lighterOf l State.reset = lighter0) ∧
  (∀ n, reasonReg n State.reset = 0) ∧
  State.reset.tel.evTail = 0 ∧ State.reset.tel.evHead = 0 ∧ State.reset.tel.evLost = 0 ∧ State.reset.tel.evSignal = false ∧
  State.reset.sec.latch = false ∧ State.reset.sec.confidential = false ∧ State.reset.isl.bypass = .closed ∧
  State.reset.tide.lengthCode = 1 ∧ State.reset.tide.count = 0 ∧ State.reset.man.compEpoch = 0 ∧
  State.reset.man.routeEpoch = 0 ∧ (∀ n, ctxUp n State.reset = false)

/-- Every command, and the idle cycle, keeps the mailbox memory and Stage memory in their canonical form, from every state. -/
def Obligations.StepKeepsMemories : Prop :=
  ∀ s t : State, memoriesWf s → step s = .next t → memoriesWf t

/-- R380: only a cold reset clears the lockout latch. A step from a state with the latch set leaves it set, unless it leaves the
core held in a cold reset. -/
def Obligations.OnlyColdResetClearsLatch : Prop :=
  ∀ s t : State, s.sec.latch = true → step s = .next t → t.sec.latch = true ∨ t.isl.resetState = .cold

/-- The straps and the fused serial number are the same after every step (R462, R467), and the fuse floor never falls (R437). -/
def Obligations.StrapsKeptAndFloorNeverFalls : Prop :=
  ∀ s t : State, step s = .next t →
    t.isl.devid = s.isl.devid ∧ t.isl.addr = s.isl.addr ∧ t.isl.serial = s.isl.serial ∧ s.hm.floor ≤ t.hm.floor

/-- No command touches the commands that wait behind it, and every command answers. -/
def Obligations.CommandsLeaveQueue : Prop :=
  ∀ (c : Instr) (s : State), ∃ t, exec c s = .next t ∧ t.pending = s.pending

/-! Mailboxes and the register window. -/

/-- MBOX.NOP on a mailbox with room is answered by one RESULT of one unit in R410's layout, with reason 0x0000, at the
completion tail; the tail moves on by one unit, the vector is signalled where it is enabled, at most once a microsecond (the rest
waits, R446), every other byte of the mailbox
memory and everything an answer does not concern stays (R404, R410, R411, R413). -/
def Obligations.NopIsAnswered : Prop :=
  ∀ (h : CmdHdr) (s : State),
    let b := boxOf h.mailbox s
    let a := 0x20000 * h.mailbox + 0x10000 + 64 * (b.cplTail % 2 ^ 32 % 1024)
    fwRuns s = true → locked s = false → h.viaLighter = false → Memory.wf s.mbox → cplUsed b + 1 ≤ 1024 →
    ∃ t, exec (.mboxNop h) s = .next t ∧ answerFrame s t ∧
      mread t.mbox a 64 = le 2 0x0001 ++ le 2 0x0000 ++ le 4 h.tag ++ zeros 7 ++ [1#8, 1#8] ++ zeros 11 ++
        le 4 (s.tide.count % 2 ^ 32) ++ zeros 32 ∧
      (∀ x, x < a ∨ a + 64 ≤ x → mread1 t.mbox x = mread1 s.mbox x) ∧
      (boxOf h.mailbox t).cplTail = (b.cplTail % 2 ^ 32 + 1) % 2 ^ 32 ∧
      t.out = s.out ++ (if b.signal && !signalledLately h.mailbox s then [Out.signal h.mailbox] else []) ∧
      t.tel.reasons = s.tel.reasons ∧ t.tel.evTail = s.tel.evTail ∧ (b.signal = false → t.tel = s.tel) ∧
      (b.signal = true → signalledLately h.mailbox s = true → h.mailbox ∈ t.tel.owed) ∧
      (b.signal = true → signalledLately h.mailbox t = true)

/-- A pad at a mailbox's command head is skipped without an answer, and a command there that passes R408's checks is taken: the
head moves past its units, the units of its answers are reserved and it is in progress (R404, R405, R408). -/
def Obligations.CommandsAreTaken : Prop :=
  ∀ (m : Nat) (s : State),
    let b := boxOf m s
    let r := headHdr m s
    fwRuns s = true →
    (m < 16 ∧ locked s = false ∧ r.command = 0 ∧ 0 < dist32 b.cmdTail b.cmdHead ∧
        headUnits m s ≤ dist32 b.cmdTail b.cmdHead →
      ∃ t, exec (.mboxPad m) s = .next t ∧ (boxOf m t).cmdHead = (b.cmdHead + headUnits m s) % 2 ^ 32 ∧
        t = { s with hm := { s.hm with boxes := t.hm.boxes } } ∧ ∀ k, k ≠ m → boxOf k t = boxOf k s) ∧
    (rotating s.hm.boxPtr ((List.range 16).filter fun k => canTake k s) = some m ∧ r.command ≠ 0 ∧
        headerCode r (headBody m s) b.cmdHead = 0 →
      ∃ t, exec (.commandTake m) s = .next t ∧ (boxOf m t).cmdHead = (b.cmdHead + headUnits m s) % 2 ^ 32 ∧
        (boxOf m t).reserved = b.reserved + reserveUnits r ∧ t.hm.boxPtr = (m + 1) % 16 ∧
        t.hm.taken = s.hm.taken ++ [{ mailbox := m, tag := r.tag, command := r.command, units := reserveUnits r,
                                      job := isJobCode r.command, change := none }] ∧
        t = { s with hm := { s.hm with boxes := t.hm.boxes, boxPtr := t.hm.boxPtr, taken := t.hm.taken } } ∧
        ∀ k, k ≠ m → boxOf k t = boxOf k s)

/-- R474: a doorbell within R404's bounds is stored, the Harbourmaster halted or frozen or not, and the command at the head is taken
only while it runs; one outside them is ignored and raises RING_POINTER; in confidential mode the block ignores writes and reads
zero. A head that frees completions of jobs retires them, which other statements cover; here no posted completion is consumed
and none waits. -/
def Obligations.MailboxDoorbells : Prop :=
  ∀ (m v : Nat) (s : State),
    let b := boxOf m s
    coreRuns s = true → m < 16 →
    (locked s = false → dist32 v b.cmdHead ≤ 1024 → dist32 b.cmdTail b.cmdHead ≤ dist32 v b.cmdHead →
      ∃ t, exec (.cmdTailWrite m v) s = .next t ∧ boxOf m t = { b with cmdTail := v % 2 ^ 32 } ∧
        t = { s with hm := { s.hm with boxes := t.hm.boxes } } ∧ ∀ k, k ≠ m → boxOf k t = boxOf k s) ∧
    (locked s = false → 1024 < dist32 v b.cmdHead ∨ dist32 v b.cmdHead < dist32 b.cmdTail b.cmdHead →
      ∃ t, exec (.cmdTailWrite m v) s = .next t ∧ answerFrame s t ∧ t.hm.boxes = s.hm.boxes ∧
        (tgetD t.tel.reasons 0 (0, 0, 0)).2.2 = 0x0006) ∧
    (locked s = false → b.posted = [] → b.waiting = [] → dist32 v b.cplHead ≤ dist32 b.cplTail b.cplHead →
      ∃ t, exec (.cplHeadWrite m v) s = .next t ∧ boxOf m t = { b with cplHead := v % 2 ^ 32 } ∧
        t = { s with hm := { s.hm with boxes := t.hm.boxes } } ∧ ∀ k, k ≠ m → boxOf k t = boxOf k s) ∧
    (locked s = false → dist32 b.cplTail b.cplHead < dist32 v b.cplHead →
      ∃ t, exec (.cplHeadWrite m v) s = .next t ∧ answerFrame s t ∧ t.hm.boxes = s.hm.boxes ∧
        (tgetD t.tel.reasons 0 (0, 0, 0)).2.2 = 0x0006) ∧
    (locked s = true →
      exec (.cmdTailWrite m v) s = .next s ∧ exec (.cplHeadWrite m v) s = .next s ∧
      ∀ o, o < 32 → regRead4 (0x1000 + 32 * m + o) s = 0) ∧
    (fwRuns s = false → inRecovery s = false → exec (.commandTake m) s = .next s) ∧
    (fwRuns s = true → rotating s.hm.boxPtr ((List.range 16).filter fun k => canTake k s) = some m →
      (headHdr m s).command ≠ 0 → headerCode (headHdr m s) (headBody m s) b.cmdHead = 0 →
      ∃ t x, exec (.commandTake m) s = .next t ∧ (boxOf m t).cmdHead = (b.cmdHead + headUnits m s) % 2 ^ 32 ∧
        t.hm.taken = s.hm.taken ++ [x] ∧ x.tag = (headHdr m s).tag)

/-- The event head is stored within R471's bounds; REASON_CLEAR zeroes the named SUBSYS_REASON registers and no other (R469);
the low half of the tide count is answered and the high half latched (R465); reading LB_STATUS releases ALERT_N (R483). -/
def Obligations.EventAndReasonRegisters : Prop :=
  ∀ s : State, coreRuns s = true →
    (∀ v, locked s = false → dist32 v s.tel.evHead ≤ dist32 s.tel.evTail s.tel.evHead → s.tel.evGap = 0 →
      exec (.evHeadWrite v) s = .next { s with tel := { s.tel with evHead := v % 2 ^ 32 } }) ∧
    (∀ v, locked s = false → dist32 s.tel.evTail s.tel.evHead < dist32 v s.tel.evHead →
      ∃ t, exec (.evHeadWrite v) s = .next t ∧ answerFrame s t ∧ t.tel.evHead = s.tel.evHead ∧
        (tgetD t.tel.reasons 0 (0, 0, 0)).2.2 = 0x0006) ∧
    (∀ v, locked s = true → exec (.evHeadWrite v) s = .next s) ∧
    (∀ (v : W32) (n : Nat), n ≤ 20 → ∃ t, exec (.reasonClear v) s = .next t ∧
      t = { s with tel := { s.tel with reasons := t.tel.reasons } } ∧
      (bit v.toNat n = true → ∀ p ∈ t.tel.reasons, p.1 ≠ n) ∧
      (bit v.toNat n = false → (t.tel.reasons.filter fun p => p.1 == n) = s.tel.reasons.filter fun p => p.1 == n)) ∧
    (∀ tag, ∃ r : Resp, exec (.tideCountLowRead tag) s =
        .next { s with tide := { s.tide with latch := some (s.tide.count / 2 ^ 32 % 2 ^ 32) }, out := s.out ++ [.khl tag r] } ∧
      r.opcode = 0x81 ∧ r.reason = 0 ∧ r.data = le 4 (s.tide.count % 2 ^ 32)) ∧
    exec .lbStatusRead s = .next { s with isl := { s.isl with alert := false } }

/-- A lighter whose size, place and range pass R477's check is enabled with zero pointers and no binding, a disabled one is
unbound; a tail or head within R476's bounds is stored, and the enabled lighter's tail has its records read; outside
them, LIGHTER_POINTER (R475 to R477). -/
def Obligations.LighterRegisters : Prop :=
  ∀ (l v : Nat) (w : W32) (s : State),
    let x := lighterOf l s
    let size := w.toNat % 16
    coreRuns s = true → l < 16 →
    (x.enable = false → bit w.toNat 4 = true → size ≤ 8 → x.base + 2 * (16384 * 2 ^ size) ≤ 2 ^ 64 →
      lighterOverlap l { x with ltSignal := bit w.toNat 5, sizeCode := size } s = false →
      ∃ t, exec (.lighterEnable l w) s = .next t ∧ t = { s with sec := { s.sec with lighters := t.sec.lighters } } ∧
        (lighterOf l t).enable = true ∧ (lighterOf l t).bound = false ∧ (lighterOf l t).sizeCode = size ∧
        (lighterOf l t).ltSignal = bit w.toNat 5 ∧ (lighterOf l t).inTail = 0 ∧ (lighterOf l t).inHead = 0 ∧
        (lighterOf l t).outTail = 0 ∧ (lighterOf l t).outHead = 0 ∧ ∀ k, k ≠ l → lighterOf k t = lighterOf k s) ∧
    (x.enable = true → bit w.toNat 4 = false →
      ∃ t, exec (.lighterEnable l w) s = .next t ∧ t = { s with sec := { s.sec with lighters := t.sec.lighters } } ∧
        (lighterOf l t).enable = false ∧ (lighterOf l t).bound = false ∧ ∀ k, k ≠ l → lighterOf k t = lighterOf k s) ∧
    (dist32 v x.inHead ≤ ringBytes x / 64 → dist32 x.inTail x.inHead ≤ dist32 v x.inHead →
      ∃ t, exec (.inTailWrite l v) s = .next t ∧ lighterOf l t = { x with inTail := v % 2 ^ 32 } ∧
        t = { s with sec := { s.sec with lighters := t.sec.lighters }, out := t.out } ∧
        (x.enable = true → x.inHead ≠ v % 2 ^ 32 → ∃ o, t.out = s.out ++ [.lighterRead l o]) ∧
        ∀ k, k ≠ l → lighterOf k t = lighterOf k s) ∧
    (dist32 v x.outHead ≤ dist32 x.outTail x.outHead →
      ∃ t, exec (.outHeadWrite l v) s = .next t ∧ lighterOf l t = { x with outHead := v % 2 ^ 32 } ∧
        t = { s with sec := { s.sec with lighters := t.sec.lighters } } ∧ ∀ k, k ≠ l → lighterOf k t = lighterOf k s)

/-- A register write of 4 bytes reaches the register at its offset, one of 8 aligned bytes two of them, the lower first: the
doorbells, signal enables and lighter registers are written as by their own commands, a half that only reads (a mailbox's
command head, the event tail) takes nothing, and the build registers, a command head, the event tail and a lighter's heads of the
device's own keep what they hold. A misaligned write, one of another width and one past the window is refused with 0x1202 and
writes nothing (R464, R465, R469, R471, R473 to R476). -/
def Obligations.RegisterWrites : Prop :=
  ∀ (v : W64) (s : State), coreRuns s = true →
    let lo := v.toNat % 2 ^ 32
    (∀ m, m < 16 → locked s = false →
      let b := boxOf m s
      (dist32 lo b.cmdHead ≤ 1024 → dist32 b.cmdTail b.cmdHead ≤ dist32 lo b.cmdHead → ∀ w, w = 4 ∨ w = 8 →
        ∃ t, exec (.registerWrite (0x1000 + 32 * m) w v) s = .next t ∧ boxOf m t = { b with cmdTail := lo } ∧
          t = { s with hm := { s.hm with boxes := t.hm.boxes } } ∧ ∀ k, k ≠ m → boxOf k t = boxOf k s) ∧
      (∀ w, w = 4 ∨ w = 8 → ∃ t, exec (.registerWrite (0x1010 + 32 * m) w v) s = .next t ∧
        boxOf m t = { b with signal := bit lo 0 } ∧ t = { s with hm := { s.hm with boxes := t.hm.boxes } } ∧
        ∀ k, k ≠ m → boxOf k t = boxOf k s)) ∧
    (locked s = false → exec (.registerWrite 0x30C 4 v) s = .next { s with tel := { s.tel with evSignal := bit lo 0 } }) ∧
    (locked s = false → s.tel.evGap = 0 → dist32 lo s.tel.evHead ≤ dist32 s.tel.evTail s.tel.evHead →
      exec (.registerWrite 0x304 4 v) s = .next { s with tel := { s.tel with evHead := lo } }) ∧
    (∀ m, m < 16 → exec (.registerWrite (0x1000 + 32 * m) 4 v) s = exec (.cmdTailWrite m lo) s ∧
      exec (.registerWrite (0x100C + 32 * m) 4 v) s = exec (.cplHeadWrite m lo) s ∧
      exec (.registerWrite (0x1004 + 32 * m) 4 v) s = .next s ∧ exec (.registerWrite (0x1008 + 32 * m) 4 v) s = .next s ∧
      exec (.registerWrite (0x1008 + 32 * m) 8 v) s = exec (.cplHeadWrite m (v.toNat / 2 ^ 32)) s) ∧
    (∀ l, l < 16 → exec (.registerWrite (0x1808 + 64 * l) 4 v) s = exec (.lighterEnable l (BitVec.ofNat 32 lo)) s ∧
      exec (.registerWrite (0x180C + 64 * l) 4 v) s = exec (.inTailWrite l lo) s ∧
      exec (.registerWrite (0x1818 + 64 * l) 4 v) s = exec (.outHeadWrite l lo) s ∧
      exec (.registerWrite (0x1810 + 64 * l) 8 v) s = .next s) ∧
    (∀ off, off % 4 = 0 → off < 0x108 → exec (.registerWrite off 4 v) s = .next s) ∧
    (∀ off w, w ≠ 4 ∧ w ≠ 8 ∨ off % w ≠ 0 ∨ 0x10000 < off + w →
      exec (.registerWrite off w v) s = .next (recordReason 0x1202 s))

/-- The mailbox space is written and read over KHL as bytes: a write within R445's bounds stores exactly its bytes and is
acknowledged, a read answers the bytes there and changes nothing; in confidential mode the write has no effect and the
read answers zeros; an access out of bounds is refused with 0x1202 (R404, R417, R445). -/
def Obligations.MailboxSpaceAccess : Prop :=
  ∀ (tag off n : Nat) (d : Bytes) (s : State), coreRuns s = true → Memory.wf s.mbox →
    (mboxFits off d.length = true → locked s = false →
      ∃ t r, exec (.mboxWrite tag off d) s = .next t ∧ t = { s with mbox := t.mbox, out := s.out ++ [.khl tag r] } ∧
        r.opcode = 0x80 ∧ mread t.mbox off d.length = d ∧
        ∀ x, x < off ∨ off + d.length ≤ x → mread1 t.mbox x = mread1 s.mbox x) ∧
    (mboxFits off n = true →
      ∃ r : Resp, exec (.mboxRead tag off n) s = .next { s with out := s.out ++ [.khl tag r] } ∧ r.opcode = 0x81 ∧
        r.data = if locked s then zeros n else mread s.mbox off n) ∧
    (mboxFits off d.length = true → locked s = true →
      ∃ r : Resp, exec (.mboxWrite tag off d) s = .next { s with out := s.out ++ [.khl tag r] }) ∧
    (mboxFits off n = false →
      ∃ t r, exec (.mboxRead tag off n) s = .next t ∧ answerFrame s t ∧ t.out = s.out ++ [.khl tag r] ∧
        r.opcode = 0x82 ∧ r.reason = 0x1202)

/-! Port, switch and Pilot configuration. -/

/-- BERTH.CONFIGURE enables a context that passes R274's check on a free part: it trains from DETECT with the role, host and
lanes given, the berth has the split, no other context changes; a context that fails the check stays as it was (R272 to
R274). -/
def Obligations.BerthIsConfigured : Prop :=
  ∀ (h : CmdHdr) (berth split : Nat) (x : CtxCfg) (s : State), fwRuns s = true →
    berth < 128 → split ≤ 2 → x.contextId < 256 → x.hostId < 4096 → (enabledCtxs s).any (fun p => p.2.berth == berth) = false →
    x.enable = true →
    (enableCode split x s = 0 → ∃ t c, exec (.berthConfigure h berth split [x]) s = .next t ∧
      answerFrame { s with ports := t.ports } t ∧ tgetD t.ports.splits berth 0 = split ∧ ctxAt x.contextId t = some c ∧
      c.enable = true ∧ c.train = .detect ∧ c.berth = berth ∧ c.part = 0 ∧ c.role = x.role ∧ c.host = x.hostId ∧
      c.coherent = x.coherent ∧ c.lanes = lanesOf split ∧ ∀ k, k ≠ x.contextId → ctxAt k t = ctxAt k s) ∧
    (enableCode split x s ≠ 0 → ∃ t, exec (.berthConfigure h berth split [x]) s = .next t ∧
      answerFrame { s with ports := t.ports } t ∧ t.ports.ctxs = s.ports.ctxs)

/-- LINK.CODEC, SWITCH.FORWARDING, MIRROR.SESSION and SAMPLE.CONFIGURE set what they name and nothing else; classes that
SWITCH.FORWARDING does not name keep their mode, and a reserved mode or a missing context refuses it (R246, R300, R302, R305,
R308). -/
def Obligations.SwitchIsConfigured : Prop :=
  ∀ (h : CmdHdr) (s : State), fwRuns s = true →
    (∀ ctx classMask elemWidth maxWait c,
      let w := if h.expert then elemWidth else 2
      let m := if h.expert then maxWait else 1024
      ctxAt ctx s = some c → c.enable = true → c.role = 3 → classMask < 65536 → 256 ≤ m → m ≤ 8192 → w ∈ [1, 2, 4] →
      (h.expert = false → elemWidth = 0 ∧ maxWait = 0) →
      ∃ t k, exec (.linkCodec h ctx classMask elemWidth maxWait) s = .next t ∧ answerFrame (setCodec ctx k s) t ∧
        tget t.ports.codecs ctx = some k ∧ k.classMask = classMask ∧ k.elemWidth = w ∧ k.maxWait = m) ∧
    (∀ ctx pre cls mode post,
      (∀ m ∈ pre ++ (cls, mode) :: post, m.2 ≤ 1 ∧ m.1 ≤ 15) → (∀ m ∈ post, m.1 ≠ cls) → ctxExists ctx s = true →
      ∃ t, exec (.switchForwarding h ctx (pre ++ (cls, mode) :: post)) s = .next t ∧
        answerFrame { s with sw := { s.sw with cut := t.sw.cut } } t ∧
        (16 * ctx + cls ∈ t.sw.cut ↔ mode = 1) ∧
        ∀ k, (∀ m ∈ pre ++ (cls, mode) :: post, k ≠ 16 * ctx + m.1) → (k ∈ t.sw.cut ↔ k ∈ s.sw.cut)) ∧
    (∀ ctx modes, modes.any (fun m => decide (1 < m.2 ∨ 15 < m.1)) = true ∨ ctxExists ctx s = false →
      exec (.switchForwarding h ctx modes) s = .next (result h 0x0301 0x0301 [] s)) ∧
    (∀ session target src c, ctxAt target s = some c → c.enable = true → c.role = 4 → session ≤ 7 →
      mirrorSourceOk src = true → s.man.comp.members.length ≤ 8 →
      ∃ t, exec (.mirrorSession h session target src) s = .next t ∧
        answerFrame { s with sw := { s.sw with mirrors := tput s.sw.mirrors session (target, src) } } t) ∧
    (∀ ctx egress n, 6 ≤ n → n ≤ 20 → ctxExists ctx s = true → s.sw.samplers.length < 512 →
      ∃ t x, exec (.sampleConfigure h ctx egress n) s = .next t ∧
        answerFrame { s with freeCount := t.freeCount, sw := { s.sw with samplers := t.sw.samplers } } t ∧
        x ∈ t.sw.samplers ∧ x.ctx = ctx ∧ x.egress = egress ∧ x.n = n ∧ x.skip < 2 * 2 ^ n ∧ x.taken = 0 ∧ x.dropped = 0 ∧
        (t.sw.samplers.filter fun y => !(y.ctx == ctx && y.egress == egress)) =
          s.sw.samplers.filter fun y => !(y.ctx == ctx && y.egress == egress))

/-- R324: PILOT.CLASS sets a class's kind and delay target; classes 0 to 7 reset to USER, 8 to 15 to DATA, with delay target 0.
No other class changes. -/
def Obligations.PilotClassKinds : Prop :=
  (∀ (h : CmdHdr) (cls alpha kind target k : Nat) (s : State), fwRuns s = true → cls ≤ 15 → alpha ≤ 7 → kind ≤ 1 → k ≤ 10 →
    ∃ t, exec (.pilotClass h cls alpha kind target k) s = .next t ∧ answerFrame { s with pilot := t.pilot } t ∧
      isData cls t = decide (kind = 1) ∧ tgetD t.pilot.targets cls 0 = target ∧
      ∀ c, c ≠ cls → isData c t = isData c s ∧ tgetD t.pilot.targets c 0 = tgetD s.pilot.targets c 0) ∧
  (∀ c, c ≤ 7 → isData c State.reset = false) ∧ (∀ c, 8 ≤ c → c ≤ 15 → isData c State.reset = true) ∧
  ∀ c, tgetD State.reset.pilot.targets c 0 = 0

/-- PILOT.PORT sets the weights and the overhead of one context, PILOT.HOST a host's limit, rate and burst (the basic form the
reset values of R323), PILOT.QUEUES makes its sub-queues wait for the boundary, and PILOT_QUEUES_APPLY puts the last ones
waiting for each base queue in force (R313, R314, R317, R320, R323). -/
def Obligations.PilotIsConfigured : Prop :=
  ∀ (h : CmdHdr) (s : State), fwRuns s = true →
    (∀ ctx weights overhead, ctx ≤ 256 → overhead ≤ 255 → weights.length = 16 → (∀ w ∈ weights, 1 ≤ w ∧ w ≤ 1024) →
      ∃ t, exec (.pilotPort h ctx weights overhead) s = .next t ∧ answerFrame { s with pilot := t.pilot } t ∧
        tgetD t.pilot.overheads ctx 16 = overhead ∧ ∀ i, i < 16 → tget t.pilot.weights (16 * ctx + i) = weights[i]?) ∧
    (∀ host m rate burst, h.expert = true → ownHost host s = true → 1 ≤ m → m ≤ 4096 → 1 ≤ rate → rate ≤ 400000 →
      4096 ≤ burst → burst ≤ 4194304 →
      ∃ t, exec (.pilotHost h host m rate burst) s = .next t ∧
        answerFrame (setHost host { hostOf host s with maxOutstanding := m, rate := rate, burst := burst } s) t) ∧
    (∀ ctx cls pool count select l, ctx ≤ 256 → cls ≤ 15 → 1 ≤ pool → pool ≤ 3 → 1 ≤ count → count ≤ 64 → select ≤ 2 →
      (select = 1 → pool = 1) → subsFor (baseQueue ctx cls pool) count s = some l →
      ∃ t, exec (.pilotQueues h ctx cls pool count select) s = .next t ∧
        answerFrame { s with pilot := { s.pilot with
          pendingSubs := s.pilot.pendingSubs ++ [(baseQueue ctx cls pool, l, select)] } } t) ∧
    (∀ b l select pre post, s.pilot.pendingSubs = pre ++ (b, l, select) :: post → (∀ p ∈ post, p.1 ≠ b) →
      ∃ t, exec .pilotQueuesApply s = .next t ∧ t = { s with pilot := t.pilot } ∧ tget t.pilot.subs b = some (l, select) ∧
        t.pilot.pendingSubs = [])

/-- PILOT.PILOTQ grants a floor from the present tide with no credit, or ends one; a reserved bit of its block refuses it with 0x0003 (R5, R321); PILOT.STATS returns records
and, when asked, zeroes the maxima and the count of those it reads and leaves the last sample (R316, R319, R325). -/
def Obligations.PilotFloorsAndRecords : Prop :=
  ∀ (h : CmdHdr) (s : State), fwRuns s = true →
    (∀ b : PilotqBlock, 2 ≤ b.flags ∨ b.reserved ≠ 0 → exec (.pilotPilotq h b) s = .next (result h 0x0604 0x0003 [] s)) ∧
    (∀ b : PilotqBlock, h.expert = true → b.flags = 1 → b.reserved = 0 → pilotqCode b s = 0 →
      ∃ t p, exec (.pilotPilotq h b) s = .next t ∧ answerFrame { s with pilot := { s.pilot with pilots := t.pilot.pilots } } t ∧
        p ∈ t.pilot.pilots ∧ p.queue = b.queue ∧ p.rate = b.rate ∧ p.burst = b.burst ∧
        p.latencyTarget = b.latencyTarget ∧ p.credit = 0 ∧ p.grantTide = s.tide.count ∧ p.ending = false) ∧
    (∀ b : PilotqBlock, h.expert = true → b.flags = 0 → b.reserved = 0 → pilotqCode b s = 0 →
      ∃ t, exec (.pilotPilotq h b) s = .next t ∧ answerFrame { s with pilot := { s.pilot with pilots := t.pilot.pilots } } t ∧
        ∀ p ∈ t.pilot.pilots, p.queue = b.queue → p.ending = true) ∧
    (∀ user first count, 1 ≤ count → count ≤ 262 → first + count ≤ (if user then 65536 else 16384) →
      ∃ t, exec (.pilotStats h user first count false) s = .next t ∧ answerFrame s t) ∧
    (∀ first count, 1 ≤ count → count ≤ 262 → first + count ≤ 16384 →
      ∃ t, exec (.pilotStats h false first count true) s = .next t ∧
        answerFrame { s with pilot := { s.pilot with recs := t.pilot.recs } } t ∧
        t.pilot.recs.map (fun p => (p.1, p.2.lastDepth, p.2.lastDelay)) =
          s.pilot.recs.map (fun p => (p.1, p.2.lastDepth, p.2.lastDelay)) ∧
        ∀ p ∈ t.pilot.recs, first ≤ p.1 → p.1 < first + count →
          p.2.maxDepth = 0 ∧ p.2.maxDelay = 0 ∧ p.2.overTarget = 0)

/-! Job queues and domain changes. -/

/-- JOBQ.OPEN opens a free queue with next sequence 1, bound to the mailbox named; JOBQ.CLOSE of a queue that holds no job
removes it, and of one that holds a job is refused with 0x1310 (R349, R373, R412). -/
def Obligations.JobQueuesOpenAndClose : Prop :=
  ∀ (h : CmdHdr) (queue : Nat) (s : State), fwRuns s = true → queue < 256 →
    (∀ mailbox, mailbox < 16 → queueAt queue (self s) s = none →
      ∃ t, exec (.jobqOpen h queue mailbox) s = .next t ∧
        answerFrame { s with ring := t.ring, acc := { s.acc with queues := s.acc.queues ++
          [{ queue := queue, owner := self s, next := 1, mailbox := mailbox, viaLighter := h.viaLighter }] } } t) ∧
    ((queueAt queue (self s) s).isSome = true →
      (∀ j ∈ s.acc.jobs, j.guest = none → j.hdr.queue = queue → queueOwner j.hdr j.device ≠ self s) →
      ∃ t, exec (.jobqClose h queue 0) s = .next t ∧ queueAt queue (self s) t = none ∧
        let l := s.acc.queues.filter fun q => !(q.queue == queue && q.owner == self s)
        answerFrame { s with ring := t.ring, acc := { s.acc with queues := l } } t) ∧
    (∀ j ∈ s.acc.jobs, (queueAt queue (self s) s).isSome = true → j.guest = none → j.hdr.queue = queue →
      queueOwner j.hdr j.device = self s →
      exec (.jobqClose h queue 0) s = .next (result h 0x0F02 0x1310 [] s))

/-- A change command that is not held and passes its checks, with a boundary at least 16 tides ahead, puts nothing in force: it
takes the next number and sends the notice of its change and boundary into the ring; a device that a pending composition change
removes writes its lines back at once (R127), others leave their ingress state as it is (R49, R50, R52, R59, R332, R334, R339,
R377, R378, R434). -/
def Obligations.ChangesAreIssued : Prop :=
  ∀ (h : CmdHdr) (atTide : Nat) (s : State),
    let at_ := if h.expert then atTide else s.tide.count + 32
    let ready := fun c : Change => changeHeld h c s = false ∧ checkChange c at_ none s = 0 ∧ changeBusy c at_ none s = false
    let sent := fun (i : Instr) (c : Change) => ∃ t k x, exec i s = .next t ∧
      t.man = { s.man with notices := t.man.notices, issued := t.man.issued, nextChange := s.man.nextChange + 1 } ∧
      t.man.notices.length = s.man.notices.length + 1 ∧ t.man.issued.length = s.man.issued.length + 1 ∧
      x ∈ t.ring.tx ∧ x.msg = .control (self s) s.ring.nextMsg ctlNotice ([self s, s.man.nextChange, at_] ++ changeFields c k) ∧
      t.tide = s.tide ∧ t.acc = s.acc ∧ (leaving t = false → t.ing = s.ing)
    fwRuns s = true → reachesRing s → s.tide.count + 16 ≤ at_ → (h.expert = false → atTide = 0) →
    (∀ i e, e.reserved = 0 → ready (.map i e) → sent (.manifestMap h i e atTide) (.map i e)) ∧
    (∀ i, ready (.revoke i) → sent (.manifestRevoke h i atTide) (.revoke i)) ∧
    (∀ ch w d, fits [(ch, 12), (w, 3), (d.sizeCode, 4), (d.firstEntry, 19), (d.entryCount, 20)] = true →
      ready (.window ch w d) → sent (.manifestWindow h ch w d atTide) (.window ch w d)) ∧
    (∀ m, ready (.route m) → sent (.routeCommit h m atTide) (.route m)) ∧
    (∀ c m, ready (.composition c m) → sent (.compositionSet h c m atTide) (.composition c m)) ∧
    (∀ host g j l, host < 4096 → ready (.role host g j l) → sent (.roleShift h host g j l atTide) (.role host g j l)) ∧
    (∀ k, ready (.tideLength k) → sent (.tideSetLength h k atTide) (.tideLength k)) ∧
    (∀ g, ready (.groupDefine g) → sent (.redundancyGroup h false g atTide) (.groupDefine g)) ∧
    (∀ g, ready (.groupDelete g.groupId) → sent (.redundancyGroup h true g atTide) (.groupDelete g.groupId)) ∧
    (∀ g l, ready (.formatStart g l) → sent (.redundancyFormat h g l atTide) (.formatStart g l)) ∧
    (∀ g m d t mo rate, (h.expert = false → rate = 0) →
      ready (.replace g m d t mo (if h.expert then rate else 20)) →
      sent (.redundancyReplace h g m d t mo rate atTide) (.replace g m d t mo (if h.expert then rate else 20))) ∧
    (∀ ch, ready (.charterCreate ch false []) → sent (.charterCreate h ch false 0 [] atTide) (.charterCreate ch false [])) ∧
    (∀ ch a r, ready (.charterMembers ch a r) → sent (.charterMembers h ch a r atTide) (.charterMembers ch a r)) ∧
    (∀ ch rate key, h.expert = true → h.viaLighter = true → ready (.charterRotate ch rate (fit 64 key)) →
      sent (.charterRotate h ch 2 rate key atTide) (.charterRotate ch rate (fit 64 key))) ∧
    (∀ ch, ready (.charterRevoke ch) → sent (.charterRevoke h ch atTide) (.charterRevoke ch)) ∧
    (∀ mask r, ready (.fwActivate mask r) → sent (.fwActivateAt h mask r atTide) (.fwActivate mask r)) ∧
    (∀ tier ch o va n dst l, tier = 2 ∨ tier = 3 → objectEntries ch o va n s = some l → l.length = dst.length →
      let c := Change.migrate ((l.zip dst).map fun p =>
        (p.1, { entryOf p.1 s with baseFpa := p.2, tier := tier, generation := 0, state := 0 }))
      movesHere c s = false → ready c → sent (.tierMigrate h tier ch o va n dst atTide) c)

/-- A change command whose boundary is fewer than 16 tides ahead is refused and puts nothing in force (R33, R50). -/
def Obligations.LateChangesAreRefused : Prop :=
  ∀ (h : CmdHdr) (atTide : Nat) (s : State), fwRuns s = true → h.expert = true → atTide < s.tide.count + 16 →
    (∀ m, changeHeld h (.route m) s = false → exec (.routeCommit h m atTide) s = .next (result h 0x0801 0x0508 [] s)) ∧
    (∀ k, k < 5 → changeHeld h (.tideLength k) s = false →
      exec (.tideSetLength h k atTide) s = .next (result h 0x0B01 0x0906 [] s)) ∧
    (∀ k, 5 ≤ k →
      exec (.tideSetLength h k atTide) s = .next (result h 0x0B01 0x0909 [] s))

/-- A member checks and stores a notice and answers ready, or answers not ready with the code; the last ready answer has the
issuer commit, an answer not ready or the deadline at boundary at_tide - 4 has it cancel; commit and cancel reach the stored
notice (R50, R416). The issuer's messages leave it wherever the ring still reaches another site. -/
def Obligations.ChangeMessages : Prop :=
  ∀ s : State, coreRuns s = true → reachesRing s →
    (∀ (id : ChangeId) (c : Change) (at_ : Nat), noticeOf id s = none → id.issuer ≠ self s → movesHere c s = false →
      needsHarbour c s = false →
      let k := if checkChange c at_ (some id) s ≠ 0 then checkChange c at_ (some id) s
        else if changeBusy c at_ (some id) s then 0x0510 else 0
      ∃ t n x, exec (.domainChangeNotice id c at_) s = .next t ∧ noticeOf id t = some n ∧ n.change = c ∧ n.atTide = at_ ∧
        n.committed = false ∧ t.man = { s.man with notices := s.man.notices ++ [n] } ∧ x ∈ t.ring.tx ∧
        ∃ num, x.msg = if k = 0 then SlotMsg.control (self s) num ctlReady [id.issuer, id.number]
          else SlotMsg.control (self s) num ctlNotReady [id.issuer, id.number, k]) ∧
    (∀ number member i n, issuedOf number s = some i → i.committed = false → (∀ m ∈ i.awaiting, m = member) →
      noticeOf ⟨self s, number⟩ s = some n → n.ready = true → s.tide.count + 4 ≤ i.atTide →
      ∃ t x m num, exec (.domainChangeReady number member true 0) s = .next t ∧ x ∈ t.ring.tx ∧
        x.msg = .control (self s) num ctlCommit [self s, number] ∧ noticeOf ⟨self s, number⟩ t = some m ∧
        m = { n with committed := true }) ∧
    (∀ number member code i, issuedOf number s = some i → i.committed = false →
      ∃ t x num, exec (.domainChangeReady number member false code) s = .next t ∧ x ∈ t.ring.tx ∧
        x.msg = .control (self s) num ctlCancel [self s, number] ∧ noticeOf ⟨self s, number⟩ t = none) ∧
    (∀ number i, issuedOf number s = some i → i.committed = false → i.atTide ≤ s.tide.count + 4 →
      ∃ t x num, exec (.changeReadyDeadline number) s = .next t ∧ x ∈ t.ring.tx ∧
        x.msg = .control (self s) num ctlCancel [self s, number] ∧ noticeOf ⟨self s, number⟩ t = none) ∧
    (∀ id n, noticeOf id s = some n →
      ∃ t, exec (.domainChangeCommit id) s = .next t ∧ noticeOf id t = some { n with committed := true } ∧
        t = { s with man := { s.man with notices := t.man.notices }, hm := { s.hm with activateAt := t.hm.activateAt } }) ∧
    (∀ id n, noticeOf id s = some n → n.committed = false →
      ∃ t, exec (.domainChangeCancel id) s = .next t ∧ noticeOf id t = none ∧
        t.man = { s.man with notices := s.man.notices.filter fun n => n.id != id })

/-- At its boundary a committed change is in force at a member: the window, the tide length, the route map under the next epoch
with the old one kept for its grace, a new charter, a rotated key epoch, a mapped entry at the next generation, the other bank's
firmware. A notice that is not committed puts nothing in force and leaves its charters and routes unserved (R32, R43, R50, R51,
R53, R56, R378, R395, R435). Four tides after a route map the old one is no longer kept (R56). A device out of lock puts nothing in
force (R25). -/
def Obligations.ChangesTakeEffect : Prop :=
  ∀ (s : State) (n : Notice), coreRuns s = true → s.tide.locked = true → s.man.notices = [n] → n.id.issuer ≠ self s →
    n.atTide ≤ s.tide.count →
    (n.committed = true →
      (∀ ch w d, n.change = .window ch w d → ∃ t, exec .domainChangeApply s = .next t ∧ windowOf ch w t = d ∧
        t.man.notices = [] ∧ t.man.entries = s.man.entries ∧ t.tide = s.tide) ∧
      (∀ k, n.change = .tideLength k → ∃ t, exec .domainChangeApply s = .next t ∧ t.tide = { s.tide with lengthCode := k } ∧
        t.man = { s.man with notices := [], issued := t.man.issued }) ∧
      (∀ m, n.change = .route m → ∃ t, exec .domainChangeApply s = .next t ∧ t.man.route = m ∧
        t.man.routeEpoch = (s.man.routeEpoch + 1) % 65536 ∧ t.man.prevRoute = some s.man.route ∧ t.man.routeSince = n.atTide ∧
        t.man.entries = s.man.entries) ∧
      (∀ ch conf key, n.change = .charterCreate ch conf key → ∃ t x, exec .domainChangeApply s = .next t ∧
        tget t.man.charters ch = some x ∧ x.state = 1 ∧ x.confidential = conf ∧ x.epoch = 0) ∧
      (∀ i e, n.change = .map i e → (entryOf i s).state = 0 → isConfidential e.charter s = false →
        ∃ t, exec .domainChangeApply s = .next t ∧
          entryOf i t = { e with generation := nextGen (entryOf i s).generation, state := 1 } ∧ t.man.notices = [] ∧
          t.tide = s.tide ∧ t.stage = s.stage) ∧
      (∀ ch rate key c, n.change = .charterRotate ch rate key → tget s.man.charters ch = some c →
        ∃ t x y, exec .keyEpochTurn s = .next t ∧ tget t.man.charters ch = some x ∧ x.epoch = (c.epoch + 1) % 4 ∧
          x.rotating = true ∧ y ∈ t.sec.sweeps ∧ y.charter = ch ∧ y.rate = rate ∧ y.removal = false) ∧
      (∀ mask r, n.change = .fwActivate mask r → named mask s = true → ∃ t, exec .fwActivation s = .next t ∧
        t.hm.active = 1 - s.hm.active ∧ t.hm.fwReady = false ∧ t.hm.halved = true ∧ t.hm.activateAt = none ∧
        t.hm.fwIssuer = some n.id.issuer ∧ t.hm.fwSteps ≠ [])) ∧
    (n.committed = false → rank n.change < 5 → ∃ t, exec .domainChangeApply s = .next t ∧
      t.man = { s.man with notices := [], desyncCharters := t.man.desyncCharters, desyncRoutes := t.man.desyncRoutes } ∧
      (∀ c ∈ chartersNamed n.change s, c ∈ t.man.desyncCharters) ∧ (isRoute n.change = true → t.man.desyncRoutes = true) ∧
      t.tide = s.tide) ∧
    (s.man.routeSince + 4 ≤ s.tide.count →
      exec .routeGraceEnd s = .next { s with man := { s.man with prevRoute := none } }) ∧
    (s.tide.count < s.man.routeSince + 4 → exec .routeGraceEnd s = .next s) ∧
    (let u := { s with tide := { s.tide with locked := false } };
      exec .domainChangeApply u = .next u ∧ exec .keyEpochTurn u = .next u ∧ exec .fwActivation u = .next u)

/-- MANIFEST.SYNC puts the tables that another member holds in force at the boundary named: at once where it has come, with the
route epoch, and the state in which R51 left the member ends; before that boundary the tables wait and nothing else changes, and
at it TIDE_BOUNDARY's shared operation puts them in force. The model's choices (log 21): a source that is not another member is
refused with 0x0003, a second command while one waits with 0x0510. Here no VALID entry changes (R51). -/
def Obligations.ManifestIsSynchronised : Prop :=
  ∀ (h : CmdHdr) (source boundary : Nat) (entries : Tbl Entry) (windows : Tbl Window) (route : RouteMap) (epoch : Nat)
    (s : State), fwRuns s = true →
    let member := source ≠ self s ∧ deviceMember source s = true
    let inForce := fun s : State => { s with man := { s.man with
      sync := none, entries := entries, windows := windows, prevRoute := none, route := route, routeEpoch := epoch,
      routeSince := boundary, desyncCharters := [], desyncRoutes := false } }
    let waits := some { hdr := h, boundary := boundary, entries := entries, windows := windows, route := route,
                        routeEpoch := epoch }
    (member → s.man.sync = none → boundary ≤ s.tide.count →
      (∀ p ∈ s.man.entries, p.2.state = 1 → tget entries p.1 = some p.2) →
      ∃ t, exec (.manifestSync h source boundary entries windows route epoch) s = .next t ∧
        answerFrame { inForce s with copies := t.copies } t) ∧
    (member → s.man.sync = none → s.tide.count < boundary →
      exec (.manifestSync h source boundary entries windows route epoch) s =
        .next { s with man := { s.man with sync := waits } }) ∧
    (s.man.sync = waits → boundary ≤ s.tide.count → (∀ p ∈ s.man.entries, p.2.state = 1 → tget entries p.1 = some p.2) →
      answerFrame { inForce s with copies := (syncDue s).copies } (syncDue s)) ∧
    (¬ member → exec (.manifestSync h source boundary entries windows route epoch) s = .next (result h 0x0704 0x0003 [] s)) ∧
    (member → s.man.sync.isSome = true →
      exec (.manifestSync h source boundary entries windows route epoch) s = .next (result h 0x0704 0x0510 [] s))

/-! Jobs, schedules and copies. -/

/-- A job command of either form that passes its checks, is next in its queue and finds a slot and room in the logbook becomes a
job of this device with its descriptor as applied and the Stage tables it names: ACCEPTED at once, its queue's sequence moved on,
where the domain has no buddy; else OFFERED, its record on its way to the buddy (R349 to R351, R358, R408, R409). -/
def Obligations.JobSubmissions : Prop :=
  ∀ (h : JobHdr) (slot : Nat) (q : JobQueue) (s : State),
    let taken := fun (i : Instr) (command : Nat) (d : JobDesc) (p : JobDesc × State) (code : Nat) =>
      descReserved d = false → (h.hdr.expert = false → basicSet d = false) → code = 0 → allocSlot p.2 = some slot →
      liveBytes p.2 + 64 + roundUp (descBytes p.1 ++ attachments p.1 p.2).length 64 ≤ logRoom →
      ∃ t j, exec i s = .next t ∧ j ∈ t.acc.jobs ∧ j.desc = p.1 ∧ j.command = command ∧ j.hdr = h ∧ j.device = self s ∧
        j.slot = slot ∧ j.attach = attachments p.1 p.2 ∧ t.acc.waiting = [] ∧ t.man = s.man ∧ t.tide = s.tide ∧
        t.stage = s.stage ∧
        (s.acc.buddy = none → j.phase = .accepted ∧ queueAt h.queue (self s) t = some { q with next := h.seq + 1 }) ∧
        (∀ b, s.acc.buddy = some b → j.phase = .offered ∧ queueAt h.queue (self s) t = some q ∧
          ∃ x ∈ t.acc.tx, x.dest = b ∧ x.sync = true ∧ ∃ r, x.record = some r ∧ r.kind = 1 ∧ r.jobSlot = slot)
    fwRuns s = true → offersOpen s = true → offerBusy h s = false → h.owner = 0 → h.seq ≠ 0 →
    queueAt h.queue (self s) s = some q → q.next = h.seq → s.acc.waiting = [] →
    (∀ x ∈ s.acc.jobs, x.slot < 4096) → (∀ x ∈ s.acc.slots, x.1 < 4096) →
    (∀ d : CraneDesc, let p := if h.hdr.expert then (.crane d, s) else craneFill d s
      ∀ e, p.1 = .crane e → taken (.craneCollective h d) cmdCrane (.crane d) p (craneCheck h.hdr.expert e p.2)) ∧
    (∀ d : StevDesc, let p := if h.hdr.expert then (.stev d, s) else stevFill d s
      ∀ e, p.1 = .stev e → taken (.stevedoreMove h d) cmdStev (.stev d) p (stevCheck h.hdr.expert e p.2)) ∧
    (∀ d : CustDesc, let p := if h.hdr.expert then (.cust d, s) else custFill d s
      ∀ e, p.1 = .cust e →
        taken (.customsScan h d) cmdScan (.cust d) p (custCheck h.hdr.expert 1 e p.2) ∧
        taken (.customsScore h d) cmdScore (.cust d) p (custCheck h.hdr.expert 2 e p.2) ∧
        taken (.customsMerge h d) cmdMerge (.cust d) p (custCheck h.hdr.expert 3 e p.2)) ∧
    (∀ d : CodecDesc, let p := if h.hdr.expert then (.codec d, s) else codecFill d s
      ∀ e, p.1 = .codec e →
        taken (.codecEncode h d) cmdEncode (.codec d) p (codecCheck true e p.2) ∧
        taken (.codecDecode h d) cmdDecode (.codec d) p (codecCheck false e p.2)) ∧
    (∀ d : StreamDesc, let p := if h.hdr.expert then (.stream d, s) else streamFill d s
      ∀ e, p.1 = .stream e → taken (.streamSchedule h d) cmdStream (.stream d) p (streamCheck h.hdr.expert e p.2)) ∧
    (∀ d : PlaceDesc,
      let a := firmwareArea d.bytes s
      let p := if h.hdr.expert then (d, s) else ({ d with stageAddr := a.1 }, a.2)
      taken (.tierPlace h d) cmdPlace (.place d) (.place p.1, p.2) (placeCheck h.hdr.expert p.1 p.2)) ∧
    (∀ d : CopyDesc, taken (.copyRun h d) cmdCopy (.copy d) (.copy d, s) (copyCheck d s))

/-- STREAM.STOP has a schedule stop at the next boundary with 0x0E0B and refuses a slot without one; TIER.DROP removes a copy that
no schedule uses, and refuses one in use with 0x0E13; TIER.QUERY changes nothing but its answer (R249, R254, R269). The codes
for an absent schedule or copy are the model's choice (log 14). -/
def Obligations.SchedulesAndCopies : Prop :=
  ∀ (h : CmdHdr) (s : State), fwRuns s = true →
    (∀ slot j, jobOf (jobNo slot s) s = some j → jobLive j = true → j.phase ≠ .offered → (streamOf? j).isSome = true →
      (∀ c, j.phase ≠ .stopping c) →
      ∃ t, exec (.streamStop h slot) s = .next t ∧ answerFrame (setJob { j with phase := .stopping 0x0E0B } s) t) ∧
    (∀ slot, jobOf (jobNo slot s) s = none → exec (.streamStop h slot) s = .next (result h 0x1402 0x0E01 [] s)) ∧
    (∀ objectId stageAddr c, c ∈ s.copies → c.objectId = objectId → c.stageAddr = stageAddr → c.usable = true →
      (∀ x ∈ s.copies, x.objectId = objectId → x.stageAddr = stageAddr → copyInUse x s = false) →
      ∃ t, exec (.tierDrop h objectId stageAddr) s = .next t ∧ answerFrame { s with copies := t.copies } t ∧
        t.copies = s.copies.filter fun x => !(x.objectId == objectId && x.stageAddr == stageAddr && x.usable)) ∧
    (∀ objectId stageAddr c, c ∈ s.copies → c.objectId = objectId → c.stageAddr = stageAddr → c.usable = true →
      copyInUse c s = true → exec (.tierDrop h objectId stageAddr) s = .next (result h 0x1502 0x0E13 [] s)) ∧
    (∀ objectId, ∃ t, exec (.tierQuery h objectId) s = .next t ∧ answerFrame s t)

/-! Operator programs and firmware. -/

/-- PROGRAM.KEY_ENROLL fills an empty slot and measures the key's digest, KEY_CLEAR empties one that no loaded program names,
LOAD_BLOCK stages a block within the image's bound that overlaps none before it, an unload of a program that no job of a named
device runs asks the others named and then removes it, PROGRAM.QUERY only answers, and a staged image of 65,536 tides is discarded (R222, R225). -/
def Obligations.ProgramKeysAndBlocks : Prop :=
  ∀ (h : CmdHdr) (s : State), fwRuns s = true →
    (∀ slot key, slot ≤ 7 → tget s.hm.keys slot = none → key.length = 97 → s.hm.meas.length < 8192 →
      ∃ t, exec (.programKeyEnroll h slot key) s = .next t ∧
        (Config.onCurve key = true → ∃ m, answerFrame { s with hm := { s.hm with
            keys := tput s.hm.keys slot key, meas := s.hm.meas ++ [m] } } t ∧
          m.kind = 6 ∧ m.id = slot ∧ m.digest = Config.sha384 key) ∧
        (Config.onCurve key = false → t = result h 0x1701 0x1149 [] s)) ∧
    (∀ slot key k, tget s.hm.keys slot = some k →
      exec (.programKeyEnroll h slot key) s = .next (result h 0x1701 0x1149 [] s)) ∧
    (∀ slot, slot ≤ 7 → (∀ p ∈ s.hm.programs, imgKey p.2.image ≠ slot) →
      ∃ t, exec (.programKeyClear h slot) s = .next t ∧
        answerFrame { s with hm := { s.hm with keys := tdel s.hm.keys slot } } t) ∧
    (∀ id offset data,
      let before := (tgetD s.hm.staged id ([], 0)).1
      data ≠ [] → data.length ≤ 4096 → offset + data.length ≤ imageMax →
      (∀ p ∈ before, overlap p.1 p.2.length offset data.length = false) →
      (tget s.hm.staged id).isSome = true ∨ s.hm.staged.length < 4 →
      ∃ t, exec (.programLoadBlock h id offset data) s = .next t ∧ answerFrame { s with hm := { s.hm with
        staged := tput s.hm.staged id (before ++ [(offset, data)], s.tide.count) } } t) ∧
    (∀ id mask, programBusy id s = true → self s ∈ maskDevices mask →
      exec (.programUnload h id mask) s = .next (result h 0x1705 0x1147 [] s)) ∧
    (∀ id mask, programBusy id s = false → maskDevices mask = [self s] →
      ∃ t, exec (.programUnload h id mask) s = .next t ∧
        answerFrame { s with hm := { s.hm with programs := tdel s.hm.programs id, commits := t.hm.commits } } t ∧
        ∀ d ∈ holdersOf id s, d ≠ self s → Out.image d 11 (le 4 id ++ le 8 (deviceMaskOf [self s])) ∈ t.out) ∧
    (∀ id mask d, programBusy id s = false → maskDevices mask = [self s, d] ∨ maskDevices mask = [d, self s] → d ≠ self s →
      ∃ t c, exec (.programUnload h id mask) s = .next t ∧ t.out = s.out ++ [.image d 9 (le 4 id)] ∧
        c ∈ t.hm.commits ∧ c.hdr = h ∧ c.id = id ∧ c.stage = 2 ∧ c.awaiting = [d] ∧ c.holders = holdersOf id s ∧
        holdersOf id t = [] ∧ t = { s with out := t.out, hm := { s.hm with programs := t.hm.programs, commits := t.hm.commits } }) ∧
    (∀ id, ∃ t, exec (.programQuery h id) s = .next t ∧ answerFrame s t) ∧
    (∀ id x, tget s.hm.staged id = some x → x.2 + 65536 ≤ s.tide.count →
      exec (.programStageExpire id) s = .next { s with hm := { s.hm with staged := tdel s.hm.staged id } }) ∧
    (∀ id x, tget s.hm.staged id = some x → s.tide.count < x.2 + 65536 → exec (.programStageExpire id) s = .next s)

/-- PROGRAM.COMMIT refuses an image that fails this device's checks and discards it; one that passes is installed at once where
only this device is named, and else the others named are asked whether their ID is free. Their last answer has every named device
install it, the last answer to that makes it usable, or after a failure removes it again; the last answer to an unload removes the
program (R222 to R225). What other devices say is answered, installed, removed or noted by PROGRAM_IMAGE_RECEIVE. The kinds of these
messages are the model's (log 17). -/
def Obligations.ProgramCommits : Prop :=
  ∀ (h : CmdHdr) (id : Nat) (b : Bytes) (s : State), fwRuns s = true →
    let quiet := fun t : State => t.man = s.man ∧ t.acc = s.acc ∧ t.stage = s.stage ∧ t.tide = s.tide ∧ t.hm.keys = s.hm.keys
    let staged := stagedImage (tgetD s.hm.staged id ([], 0)).1 b.length = some b
    (∀ mask, h.expert = true → staged → imgCheck id b s ≠ 0 →
      exec (.programCommit h id b.length mask) s =
        .next (result h 0x1704 (imgCheck id b s) [] { s with hm := { s.hm with staged := tdel s.hm.staged id } })) ∧
    (∀ mask, h.expert = true → staged → imgCheck id b s = 0 → maskDevices mask = [self s] → deviceMember (self s) s = true →
      tget s.hm.programs id = none → installCode id b s = 0 →
      ∃ t p, exec (.programCommit h id b.length mask) s = .next t ∧ quiet t ∧ t.hm.staged = tdel s.hm.staged id ∧
        tget t.hm.programs id = some p ∧ p.image = b ∧ p.measurement = imgMeasurement b ∧ p.devices = [self s] ∧
        t.hm.meas.length = s.hm.meas.length + 1) ∧
    (∀ mask d, h.expert = true → staged → imgCheck id b s = 0 → maskDevices mask = [d] → d ≠ self s → deviceMember d s = true →
      ∃ t c, exec (.programCommit h id b.length mask) s = .next t ∧
        t = { s with out := s.out ++ [.image d 13 (le 4 id ++ imgMeasurement b)], hm := { s.hm with commits := t.hm.commits } } ∧
        c ∈ t.hm.commits ∧ c.hdr = h ∧ c.id = id ∧ c.stage = 0 ∧ c.awaiting = [d] ∧ c.named = [d] ∧ c.image = b) ∧
    (∀ issuer,
      let code := if imgCheck (imgId b) b s ≠ 0 then imgCheck (imgId b) b s else installCode (imgId b) b s
      ∃ t, exec (.programImageReceive issuer ⟨1, b⟩) s = .next t ∧ quiet t ∧ t.hm.staged = s.hm.staged ∧
        t.out = s.out ++ [.image issuer 3 (le 2 code)] ∧
        (code = 0 → tget s.hm.programs (imgId b) = none → ∃ p, tget t.hm.programs (imgId b) = some p ∧ p.image = b ∧
          p.measurement = imgMeasurement b ∧ p.devices = [] ∧ t.hm.meas.length = s.hm.meas.length + 1) ∧
        (code ≠ 0 → t.hm.programs = s.hm.programs ∧ t.hm.meas = s.hm.meas)) ∧
    (∀ issuer data p, fld data 0 4 = id → tget s.hm.programs id = some p →
      let devs := maskDevices (fld data 4 8)
      (∃ t, exec (.programImageReceive issuer ⟨13, data⟩) s = .next t ∧ t.hm = s.hm ∧ quiet t ∧
        t.out = s.out ++ [.image issuer 3 (le 2 (if p.measurement = data.drop 4 then 0 else 0x1145))]) ∧
      (p.devices = [] → exec (.programImageReceive issuer ⟨5, data⟩) s =
        .next { s with hm := { s.hm with programs := tdel s.hm.programs id } }) ∧
      (p.devices ≠ [] → exec (.programImageReceive issuer ⟨5, data⟩) s = .next s) ∧
      exec (.programImageReceive issuer ⟨7, data⟩) s = .next { s with hm := { s.hm with
        programs := tput s.hm.programs id { p with devices := sorted (p.devices ++ devs) } } } ∧
      (programBusy id s = true → ∃ t, exec (.programImageReceive issuer ⟨9, data⟩) s = .next t ∧ t.hm = s.hm ∧
        t.out = s.out ++ [.image issuer 3 (le 2 0x1147)]) ∧
      (programBusy id s = false → ∃ t, exec (.programImageReceive issuer ⟨9, data⟩) s = .next t ∧
        t = { s with hm := { s.hm with programs := tput s.hm.programs id { p with devices := [] } }, out := t.out } ∧
        t.out = s.out ++ [.image issuer 3 (le 2 0)]) ∧
      (self s ∈ devs → exec (.programImageReceive issuer ⟨11, data⟩) s =
        .next { s with hm := { s.hm with programs := tdel s.hm.programs id } })) ∧
    (∀ c d, s.hm.commits = [c] → c.awaiting = [d] → c.first = none →
      (c.stage = 0 → (c.named.filter fun e => e != self s) ≠ [] → (self s ∈ c.named → installCode c.id c.image s = 0) →
        ∃ t k, exec (.programCommitAnswer d 0) s = .next t ∧ quiet t ∧ t.hm.staged = s.hm.staged ∧ t.hm.commits = [k] ∧
          k = { c with stage := 1, awaiting := c.named.filter fun e => e != self s, first := none, done := k.done } ∧
          (self s ∈ c.named → k.done = [self s] ∧ (tget t.hm.programs c.id).isSome = true) ∧
          (self s ∉ c.named → k.done = [] ∧ t.hm.programs = s.hm.programs) ∧
          ∀ e ∈ c.named, e ≠ self s → Out.image e 1 c.image ∈ t.out) ∧
      (c.stage = 1 → ∃ t, exec (.programCommitAnswer d 0) s = .next t ∧ quiet t ∧ t.hm.commits = [] ∧
        t.hm.staged = tdel s.hm.staged c.id ∧
        (∀ p, tget s.hm.programs c.id = some p →
          tget t.hm.programs c.id = some { p with devices := sorted (c.named ++ c.holders) }) ∧
        ∀ e ∈ c.named, e ≠ self s →
          Out.image e 7 (le 4 c.id ++ le 8 (deviceMaskOf (sorted (c.named ++ c.holders)))) ∈ t.out) ∧
      (∀ code, c.stage = 1 → code ≠ 0 → ∃ t, exec (.programCommitAnswer d code) s = .next t ∧ quiet t ∧ t.hm.commits = [] ∧
        t.hm.staged = tdel s.hm.staged c.id ∧
        (self s ∈ c.done → holdersOf c.id s = [] → tget t.hm.programs c.id = none) ∧
        (self s ∉ c.done → t.hm.programs = s.hm.programs) ∧
        ∀ e ∈ c.done, e ≠ self s → Out.image e 5 (le 4 c.id) ∈ t.out) ∧
      (c.stage = 2 → self s ∈ c.named → ∃ t, exec (.programCommitAnswer d 0) s = .next t ∧ quiet t ∧ t.hm.commits = [] ∧
        t.hm.programs = tdel s.hm.programs c.id)) ∧
    (∀ c d e code, s.hm.commits = [c] → c.awaiting = [d, e] → d ≠ e →
      ∃ t k, exec (.programCommitAnswer d code) s = .next t ∧
        t = { s with hm := { s.hm with commits := [k] } } ∧ k.awaiting = [e] ∧ k.id = c.id ∧ k.stage = c.stage)

/-- FW.LOAD_BLOCK stages a block of the image, a bad range is refused with 0x1120, staged blocks of 65,536 tides are discarded;
FW.MEASUREMENTS and FW.STATUS answer only, the former with the number of entries, the first index and up to 32 entries
(R430, R432, R439). -/
def Obligations.FirmwareBlocks : Prop :=
  ∀ (h : CmdHdr) (s : State),
    (∀ offset data, (fwRuns s || inRecovery s) = true → fwBusy s = false → data ≠ [] → data.length ≤ 4096 →
      offset + data.length ≤ 33554432 → (∀ p ∈ fwBlocks s, overlap p.1 p.2.length offset data.length = false) →
      ∃ t, exec (.fwLoadBlock h offset data) s = .next t ∧ answerFrame { s with hm := { s.hm with
        fwStage := some (fwBlocks s ++ [(offset, data)], s.tide.count) } } t) ∧
    (∀ offset data, (fwRuns s || inRecovery s) = true → fwBusy s = false →
      data = [] ∨ 4096 < data.length ∨ 33554432 < offset + data.length →
      exec (.fwLoadBlock h offset data) s = .next (result h 0x1801 0x1120 [] s)) ∧
    (∀ x, coreRuns s = true → s.hm.fwStage = some x → x.2 + 65536 ≤ s.tide.count →
      exec .fwStageExpire s = .next { s with hm := { s.hm with fwStage := none } }) ∧
    (∀ x, s.hm.fwStage = some x → s.tide.count < x.2 + 65536 → exec .fwStageExpire s = .next s) ∧
    (∀ start, fwRuns s = true →
      exec (.fwMeasurements h start) s =
        .next (result h 0x1804 0 (le 8 s.hm.meas.length ++ le 8 start ++ measSlice start 32 s) s)) ∧
    ((fwRuns s || inRecovery s) = true → ∃ t, exec (.fwStatus h) s = .next t ∧ answerFrame s t)

/-- An image that passes the checks of R433 is written to the inactive bank under the next commit count, by FW.COMMIT where this
device is named and for another issuer, which is answered; one that fails a check writes no bank; FW.COMMIT waits for the other
devices named, and a first failing answer is kept (R433). -/
def Obligations.FirmwareCommits : Prop :=
  ∀ (h : CmdHdr) (b : Bytes) (mv : Option Nat) (s : State), fwRuns s = true →
    let n := 1 - s.hm.active
    let count := match tget s.hm.banks n with | some k => k.commitCount + 1 | none => 1
    (∀ mask, fwBusy s = false → stagedImage (fwBlocks s) b.length = some b → bit mask (self s) = true → self s < 64 →
      ∃ t, exec (.fwCommit h b.length mask mv true) s = .next t ∧ t.hm.active = s.hm.active ∧ t.man = s.man ∧ t.acc = s.acc ∧
        (∀ d ∈ maskDevices mask, d ≠ self s → Out.image d 2 b ∈ t.out ∧ ∃ c, t.hm.fwCommit = some c ∧ d ∈ c.awaiting) ∧
        (commitCode b mv (noteHoldup mv s) = 0 → t.hm.fwStage = none ∧
          tget t.hm.banks n = some { commitCount := count, image := b, valid := true }) ∧
        (commitCode b mv (noteHoldup mv s) ≠ 0 → t.hm.banks = s.hm.banks)) ∧
    (∀ issuer, ∃ t, exec (.fwImageReceive issuer b mv true) s = .next t ∧ t.man = s.man ∧ t.acc = s.acc ∧
        (∃ l, t.out = l ++ [.image issuer 4 (le 2 (commitCode b mv (noteHoldup mv s)))]) ∧
        (commitCode b mv (noteHoldup mv s) = 0 →
          tget t.hm.banks n = some { commitCount := count, image := b, valid := true }) ∧
        (commitCode b mv (noteHoldup mv s) ≠ 0 → t.hm.banks = s.hm.banks)) ∧
    (∀ c d code, s.hm.fwCommit = some c → c.awaiting = [d] → c.first = none →
      ∃ t, exec (.fwCommitAnswer d code) s = .next t ∧
        answerFrame { s with hm := { s.hm with fwCommit := none } } t) ∧
    (∀ c d e code, s.hm.fwCommit = some c → c.awaiting = [d, e] → d ≠ e → c.first = none → code ≠ 0 →
      ∃ t k, exec (.fwCommitAnswer d code) s = .next t ∧ t = { s with hm := { s.hm with fwCommit := some k } } ∧
        k.awaiting = [e] ∧ k.first = some (d, code))

/-- The Harbourmaster's heartbeat and watchdog: 1 ms without one halves the budgets, drives ALERT_N and raises an event, the next
heartbeat of ready firmware restores them; firmware that becomes ready with nothing cut off takes commands again, and answers a
command taken before; after an activation the fuse floor rises with the running image, and a step that fails its hold-up check
waits and is tried again (R419, R420, R435, R437). -/
def Obligations.FirmwareRunsAgain : Prop :=
  ∀ s : State,
    (coreRuns s = true → s.hm.frozen = false → s.hm.fwReady = true →
      exec .hmHeartbeat s = .next { s with hm := { s.hm with alive := true, halved := false } }) ∧
    (s.hm.alive = true → ∃ t, exec .hmWatchdog s = .next t ∧
      answerFrame { s with hm := { s.hm with alive := false, halved := true } } t ∧ t.isl.alert = true ∧
      (tgetD t.tel.reasons 0x11 (0, 0, 0)).2.2 = 0x1104) ∧
    (coreRuns s = true → s.hm.fwReady = false → s.hm.frozen = false → s.acc.jobs = [] → s.acc.waiting = [] →
      s.acc.flushFor = [] → s.man.issued = [] → s.hm.commits = [] → s.hm.fwCommit = none → s.sec.enterAt = none →
      ∃ t, exec .firmwareReady s = .next t ∧
        answerFrame { s with hm := { s.hm with fwReady := true, alive := true, halved := false } } t ∧
        ∀ x, s.hm.taken = [x] → t.hm.taken = []) ∧
    (∀ mv, fwRuns s = true → s.hm.fwSteps = [3] →
      ∃ t, exec (.fwPostReadyWrites mv) s = .next t ∧ t.hm.floor = max s.hm.floor (imageSvn (runImage s)) ∧
        t.hm.fwSteps = [] ∧ t.hm.banks = s.hm.banks ∧ t.man = s.man ∧ t.acc = s.acc) ∧
    (∀ mv r, fwRuns s = true → s.hm.fwSteps = 2 :: r → holdupOk mv 4096 (noteHoldup mv s) = false →
      ∃ t, exec (.fwPostReadyWrites mv) s = .next t ∧ t.hm.fwSteps = 2 :: r ∧ t.hm.fwPendingRaised = true ∧
        t.hm.selects = s.hm.selects) ∧
    (∀ mv, fwRuns s = true → s.hm.fwSteps = [2] → s.hm.fwPendingRaised = true → holdupOk mv 4096 (noteHoldup mv s) = true →
      ∃ t, exec (.fwSelectPending mv) s = .next t ∧ t.hm.fwSteps = [] ∧
        ((s.hm.selects.map fun x => x.1).foldl max 0 + 1, s.hm.active) ∈ t.hm.selects) ∧
    (∀ d i, coreRuns s = true → s.man.issued = [i] → i.applied = true → d ∈ i.awaiting → (∃ m r, i.change = .fwActivate m r) →
      i.awaiting.erase d ≠ [] →
      ∃ t, exec (.fwDoneReport d) s = .next t ∧ t = { s with man := { s.man with issued := t.man.issued } } ∧
        t.man.issued = [{ i with awaiting := i.awaiting.erase d }])

/-! Flushes, the lifeboat, resets, the board's pins and telemetry. -/

/-- A flush under R370's hold-up check begins with the logbook's records to the older image area, for LOGBOOK.FLUSH, for the
lifeboat's operation, which freezes the engines first, and at a hold-up fail, which freezes them too; its end writes the
image, or counts 0x130C, and answers those who started it; with too low a voltage for even the headers nothing is written
(R370, R371, R422, R459). -/
def Obligations.FlushesBeginAndEnd : Prop :=
  ∀ (h : CmdHdr) (mv : Option Nat) (path : LbPath) (id : Nat) (s : State), s.acc.flush = none →
    let begun := fun (o : FlushOwner) (t : State) => t.acc = { s.acc with
      flush := some (true, s.acc.log), flushMode := true, flushFor := s.acc.flushFor ++ [o] }
    let enough := holdupOk mv (recordsSize s.acc.log) (noteHoldup mv s) = true
    (fwRuns s = true → enough → ∃ t, exec (.logbookFlush h mv) s = .next t ∧ begun (.command h) t ∧
      t = { noteHoldup mv s with acc := t.acc, out := t.out }) ∧
    (fwRuns s = true → holdupOk mv (recordsSize s.acc.log) (noteHoldup mv s) = false →
      holdupOk mv (4096 + 64 * (liveRecords s).length) (noteHoldup mv s) = false →
      ∃ t, exec (.logbookFlush h mv) s = .next t ∧ answerFrame (noteHoldup mv s) t) ∧
    (coreRuns s = true → lbBusy s = false → enough → ∃ t, exec (.lifeboatLogbookFlush path id 0 mv) s = .next t ∧
      begun (.lifeboat (decide (path = .window))) t ∧ t.hm.frozen = true ∧ t.isl.exclusive = some 7 ∧
      (path = .window → t.isl.window = ⟨7, id, 0, 1⟩) ∧ (path = .sideband → t.isl.sideband = ⟨7, id, 0, 1⟩)) ∧
    (coreRuns s = true → enough → ∃ t, exec (.holdupFail mv) s = .next t ∧ begun .powerFail t ∧ t.hm.frozen = true ∧
      t.isl.holdupFail = true ∧ t.isl.pwrSafe = s.isl.pwrSafe) ∧
    (coreRuns s = false → ∃ t, exec (.holdupFail mv) s = .next t ∧
      t = { s with isl := { s.isl with holdupFail := true, pwrSafe := true } }) ∧
    exec .inputPowerReturn s = .next { s with isl := { s.isl with holdupFail := false } } ∧
    (∀ u full recs, u.acc.flush = some (full, recs) → u.acc.flushFor = [.powerFail] → u.acc.waiting = [] →
      (∃ t, exec (.flushComplete true) u = .next t ∧ t.acc.flush = none ∧ t.acc.flushMode = false ∧ t.isl.pwrSafe = true ∧
        (lastFlush u + 1, full, recs) ∈ t.acc.images ∧ t.acc.log = u.acc.log ∧ t.man = u.man) ∧
      ∃ t, exec (.flushComplete false) u = .next t ∧ t.acc.flush = none ∧ t.isl.pwrSafe = true ∧
        t.acc.images = u.acc.images ∧ (tgetD t.tel.reasons 0x13 (0, 0, 0)).2.2 = 0x130C)

/-- The lifeboat's operations have their effect and show RUNNING in their path's LB_RESULT with the operation and the issue's
number, STATUS shows DONE; one with a bad parameter is refused with 0x1102 and one while an exclusive operation runs with
0x1101, without effect (R31, R399, R422, R423, R425, R479). -/
def Obligations.LifeboatOperations : Prop :=
  ∀ (path : LbPath) (id : Nat) (s : State), coreRuns s = true →
    let shown := fun (t : State) => match path with | .window => t.isl.window | .sideband => t.isl.sideband
    (∃ t, exec (.lifeboatStatus path id 0) s = .next t ∧ shown t = ⟨1, id, 0, 2⟩ ∧
      t = { s with isl := t.isl, out := t.out, tel := t.tel } ∧ t.tel.reasons = s.tel.reasons) ∧
    ((∀ r ∈ s.isl.lbRuns, r.op ≠ 2) → ∃ t, exec (.freeze path id 0) s = .next t ∧ shown t = ⟨2, id, 0, 1⟩ ∧
      t = { s with hm := { s.hm with frozen := true }, isl := t.isl }) ∧
    ((∀ r ∈ s.isl.lbRuns, r.op ≠ 6) → ∃ t, exec (.ringBypassClose path id 0) s = .next t ∧ shown t = ⟨6, id, 0, 1⟩ ∧
      t.isl.bypass = .closed ∧ t.isl.granted = none ∧ t = { s with isl := t.isl }) ∧
    (lbBusy s = false → ∃ t, exec (.dumpSnapshot path id 0) s = .next t ∧ shown t = ⟨3, id, 0, 1⟩ ∧
      t.isl.buffer.length = 4096 ∧ t = { s with isl := t.isl }) ∧
    (∀ page, page < 16 → lbBusy s = false → ∃ t, exec (.readMeasurements path id page) s = .next t ∧
      shown t = ⟨9, id, 0, 1⟩ ∧ t = { s with isl := t.isl } ∧ t.isl.buffer =
        fit 4096 (slice ((s.hm.bootCache.zipIdx).flatMap fun p => measBytes p.2 p.1) (4096 * page) 4096)) ∧
    (lbBusy s = false → ∃ t, exec (.subsystemReset path id 0x11) s = .next t ∧ shown t = ⟨8, id, 0, 1⟩ ∧
      t = { s with hm := { s.hm with fwReady := false, alive := false, frozen := false, boxPtr := 0 }, isl := t.isl }) ∧
    (lbBusy s = false → s.acc.jobs = [] → ∃ t, exec (.subsystemReset path id 0x0C) s = .next t ∧ shown t = ⟨8, id, 0, 1⟩ ∧
      t = { s with engines := t.engines, isl := t.isl } ∧ (∀ p ∈ t.engines, p.1 < 128 ∨ 192 ≤ p.1) ∧
      ∀ p ∈ s.engines, p.1 < 128 ∨ 192 ≤ p.1 → p ∈ t.engines) ∧
    (∀ c x, c < 4096 → (∀ r ∈ s.isl.lbRuns, r.op ≠ 4) → tget s.man.charters c = some x → s.acc.jobs = [] → s.sw.cells = [] →
      s.ing.cache = [] → s.ing.policed = [] → s.ing.held = [] → s.ing.waiting = [] →
      ∃ t, exec (.zeroizeCharter path id c) s = .next t ∧ shown t = ⟨4, id, 0, 1⟩ ∧ t.stage = (lockStage c s).stage ∧
        ((∀ p ∈ s.sec.stagePages, p.2.1 ≠ c) → t.stage = s.stage) ∧
        tget t.man.charters c = some { x with slot0 := 3, slot1 := 3 } ∧
        tget t.sec.keys (2 * c) = none ∧ tget t.sec.keys (2 * c + 1) = none ∧ c ∈ t.sec.zeroized) ∧
    ((∀ r ∈ s.isl.lbRuns, r.op ≠ 5) → s.man.charters = [] → ∃ t, exec (.zeroizeAll path id 0) s = .next t ∧
      shown t = ⟨5, id, 0, 1⟩ ∧ t.sec.harbourKey = none ∧ t.sec.sessions = [] ∧ (∀ p ∈ t.sec.lighters, p.2.bound = false) ∧
      t = { s with sec := t.sec, isl := t.isl }) ∧
    (∀ param, param ≠ 0 → ∃ t, exec (.freeze path id param) s = .next t ∧ shown t = ⟨2, id, 0x1102, 3⟩ ∧
      t.hm = s.hm ∧ t.isl.lbRuns = s.isl.lbRuns) ∧
    (lbBusy s = true → ∃ t, exec (.dumpSnapshot path id 0) s = .next t ∧ shown t = ⟨3, id, 0x1101, 3⟩ ∧
      t.isl.buffer = s.isl.buffer)

/-- A cold reset leaves the core in reset with every register at its reset value but fuses, SSD contents and what the island
keeps; a warm one keeps Stage, the latch, the key slots and the logbook; a fault of a rail and a thermal trip hold the core in
reset until a cold reset, with their cause; a released core runs from Stage's slot after a warm reset, and not at all after a cold
one where Stage cannot be trained (R448 to R451, R478, R487). -/
def Obligations.Resets : Prop :=
  ∀ s : State,
    (∀ v, ∃ t, exec (.coldReset v) s = .next t ∧ t.isl.resetState = .cold ∧ t.isl.bypass = .closed ∧ t.isl.held = false ∧
      t.sec.latch = false ∧ t.sec.confidential = false ∧ t.stage = [] ∧ t.mbox = [] ∧ t.man = State.reset.man ∧
      t.tel = State.reset.tel ∧ t.hm.banks = s.hm.banks ∧ t.hm.floor = s.hm.floor ∧ t.acc.images = s.acc.images ∧
      t.acc.jobs = [] ∧ t.isl.devid = s.isl.devid ∧ (v = false → t.isl.buffer = s.isl.buffer) ∧
      (v = true → t.isl.buffer = [] ∧ t.isl.cause = 0)) ∧
    (∀ ring, s.isl.held = false → s.isl.resetState ≠ .cold →
      ∃ t, exec (.warmReset ring) s = .next t ∧ t.isl.resetState = .warm ∧ t.isl.bypass = .closed ∧ t.stage = s.stage ∧
        t.sec.latch = s.sec.latch ∧ t.sec.keys = s.sec.keys ∧ t.acc.log = s.acc.log ∧ t.home.receipts = s.home.receipts ∧
        t.sec.confidential = false ∧ t.mbox = [] ∧ t.acc.jobs = [] ∧ t.tel = State.reset.tel ∧
        t.isl.cause = if ring then 0x0908 else 0) ∧
    (∀ rail, 1 ≤ rail → rail ≤ 7 → s.isl.resetState ≠ .cold →
      ∃ t, exec (.railFault rail) s = .next t ∧ t.isl.resetState = .cold ∧ t.isl.held = true ∧ t.isl.alert = true ∧
        t.isl.cause = 0x1113 ∧ t.isl.rail = rail ∧ t.isl.corePower = (s.isl.corePower && decide (rail ≠ 2))) ∧
    (∃ t, exec .thermtrip s = .next t ∧ t.isl.resetState = .cold ∧ t.isl.held = true ∧ t.isl.thermtrip = true ∧
      t.isl.cause = 0x1112) ∧
    (∀ a b c d bad corrected, s.isl.held = true → exec (.resetRelease a b c d bad corrected) s = .next s) ∧
    (∀ a b c, s.isl.held = false → s.isl.resetState = .warm →
      ∃ t, exec (.resetRelease a b c .kept [] []) s = .next t ∧ coreRuns t = true ∧ t.hm.active = s.hm.active % 2 ∧
        t.stage = s.stage ∧ t.isl.udsLocked = true ∧ t.hm.meas ≠ [] ∧ t.acc = s.acc) ∧
    (∀ a b c, s.isl.held = false → s.isl.resetState = .cold →
      ∃ t, exec (.resetRelease a b c .untrained [] []) s = .next t ∧ coreRuns t = false ∧ t.hm.floor = s.hm.floor)

/-- Power, temperature and the board: a 1 ms average above 2,000 W caps the budgets from the next boundary and one below 1,900 W
ends that; 105 C lowers them; the second's average becomes the figure shown; READ_POUT answers the average, coarse in
confidential mode, other readings a value of their own or NACK; the boundary-scan port selects one of its four instructions,
and only IDCODE and BYPASS with the latch set; a board declaration in range is in effect, another refused (R13, R381, R401,
R449, R457, R460, R461). The readings without a stated value are free (log 1), the port's codes the model's (log 4). -/
def Obligations.PowerAndBoard : Prop :=
  ∀ s : State,
    (∀ mw, hmRuns s = true → s.hm.capNext.getD s.hm.capped = false → 2000000 < mw → ∃ t, exec (.powerSample mw) s = .next t ∧
      answerFrame { s with hm := { s.hm with
        power := mw, powerSum := (s.hm.powerSum.1 + mw, s.hm.powerSum.2 + 1), capNext := some true } } t) ∧
    (∀ mw, hmRuns s = true → s.hm.capNext.getD s.hm.capped = true → mw < 1900000 →
      exec (.powerSample mw) s = .next { s with hm := { s.hm with
        power := mw, powerSum := (s.hm.powerSum.1 + mw, s.hm.powerSum.2 + 1), capNext := some false } }) ∧
    (hmRuns s = true → s.hm.hot = false → ∃ t, exec (.thermalLimit true) s = .next t ∧
      answerFrame { s with hm := { s.hm with hot := true } } t ∧ (tgetD t.tel.reasons 0x11 (0, 0, 0)).2.2 = 0x1111) ∧
    (hmRuns s = true → s.hm.hot = true →
      exec (.thermalLimit false) s = .next { s with hm := { s.hm with hot := false } }) ∧
    (coreRuns s = true → 0 < s.hm.powerSum.2 → ∃ t, exec .oneSecondPeriodEnd s = .next t ∧ answerFrame { s with
        hm := { s.hm with powerShown := nearest10W (s.hm.powerSum.1 / s.hm.powerSum.2), powerSum := (0, 0) } } t ∧
      ∀ x ∈ t.tel.summaries, x.period ≠ 2) ∧
    exec .readPout s =
      .next (emit (.pmbus (some (linear11 (if locked s then s.hm.powerShown else s.hm.power)))) s) ∧
    (∃ v, exec .readTemperature1 s = .next { s with freeCount := s.freeCount + 1, out := s.out ++ [.pmbus (some v)] } ∧
      v < 65536) ∧
    (∃ v, exec .statusWord s = .next { s with freeCount := s.freeCount + 1, out := s.out ++ [.pmbus (some v)] } ∧
      v < 65536) ∧
    (∀ c, exec (.pmbusOther c) s = .next { s with out := s.out ++ [.pmbus none] }) ∧
    (∀ code, s.isl.resetState = .running →
      let c := if 3 < code ∨ (s.sec.latch = true ∧ 1 < code) then 1 else code
      exec (.tapInstruction code) s = .next { s with isl := { s.isl with tap := c }, out := s.out ++ [.tap c] }) ∧
    (∀ decl : Bytes, s.acc.flushMode = false → decl.length = 64 → 1000 ≤ fld decl 0 4 → fld decl 0 4 ≤ 10000000 →
      1000 ≤ fld decl 4 2 → fld decl 4 2 ≤ 60000 → fld decl 6 1 < 128 → slice decl 12 48 = zeros 48 →
      fld decl 60 4 = crc32c (decl.take 60) → ∃ d, exec (.boardDeclWrite decl) s =
        .next { s with isl := { s.isl with decl := some d } } ∧ d.1 = fld decl 0 4 ∧ d.2.1 = fld decl 4 2) ∧
    (∀ decl : Bytes, decl.length ≠ 64 ∨ fld decl 0 4 < 1000 ∨ 10000000 < fld decl 0 4 ∨ s.acc.flushMode = true →
      exec (.boardDeclWrite decl) s = .next (recordReason 0x1116 s))

/-- TELEMETRY.SAMPLES answers up to 29 records, oldest first, and takes them out of the ring; TELEMETRY.COUNTERS answers up to 524
counters of a group, from the first asked for, and refuses a reserved group or a start past its end with 0x1401 (R413). The
counters' values and the groups' sizes are free (log 16). -/
def Obligations.TelemetryIsRead : Prop :=
  ∀ (h : CmdHdr) (s : State), fwRuns s = true →
    (∃ t, exec (.telemetrySamples h) s = .next t ∧
      answerFrame { s with sw := { s.sw with samples := s.sw.samples.drop 29 } } t) ∧
    ∀ group start, ∃ t, exec (.telemetryCounters h group start) s = .next t ∧
      (∀ n, Config.counterGroup group = some n → start < n →
        answerFrame { s with freeCount := s.freeCount + min 524 (n - start) } t) ∧
      (∀ n, Config.counterGroup group = some n → n ≤ start → t = result h 0x1A02 0x1401 [] s) ∧
      (Config.counterGroup group = none → t = result h 0x1A02 0x1401 [] s)

/-! The tide, the ring and its bypass. -/

/-- At a boundary at which nothing else is due the count rises by one; in lock a pending power cap takes effect and the tide's
engine budgets are fixed; every engine counts afresh and plans nothing, and what its slices left behind is no late work any more;
the route map before the last one ends after four tides. An overrun of a slice that was late raises 0x0904, four within 16 tides
lower the engine's budget from the next boundary on, which 64 tides without one restore (R13, R16, R32, R34, R36, R56). -/
def Obligations.TideBoundaryOpensTide : Prop :=
  ∀ s : State, coreRuns s = true →
    (nothingDue s → ∃ t, exec .tideBoundary s = .next t ∧
      let cap := s.hm.capNext.getD s.hm.capped
      t.tide = { s.tide with
        count := s.tide.count + 1, markerSeen := s.tide.lastMarker == s.tide.count + 1,
        budgetCode := if s.tide.locked then s.tide.lengthCode else s.tide.budgetCode,
        budgetHalved := if s.tide.locked then s.hm.halved else s.tide.budgetHalved,
        budgetLow := if s.tide.locked then cap || s.hm.hot else s.tide.budgetLow } ∧
      (∀ kind engine, kind ≠ .stream → engine < kindEngines kind →
        let b := bookOf kind engine s
        bookOf kind engine t = { b with
          used := 0, served := none, skipped := false, ready := [], plan := [], long := none,
          bound := if kind = .codec then none else b.bound, low := if s.tide.locked then b.lowered else b.low }) ∧
      t.hm.capped = (if s.tide.locked then cap else s.hm.capped) ∧
      t.man = { s.man with prevRoute := t.man.prevRoute } ∧
      (s.man.routeSince + 4 ≤ s.tide.count + 1 → t.man.prevRoute = none) ∧
      (s.tide.count + 1 < s.man.routeSince + 4 → t.man.prevRoute = s.man.prevRoute) ∧
      t.acc = s.acc ∧ t.stage = s.stage ∧ t.mbox = s.mbox ∧ t.ring = s.ring ∧ t.home = s.home ∧ t.out = s.out) ∧
    (∀ kind engine, s.hm.frozen = false → (bookOf kind engine s).late = true →
      let b := bookOf kind engine s
      let l := s.tide.count :: b.overruns.filter fun x => decide (s.tide.count < x + 16)
      let b' := { b with late := false, overruns := l, lowered := b.lowered || decide (4 ≤ l.length) }
      ∃ t, exec (.tideOverrun kind engine) s = .next t ∧
        answerFrame { s with engines := tput s.engines (bookNo kind engine) b' } t ∧
        (tgetD t.tel.reasons 9 (0, 0, 0)).2.2 = 0x0904) ∧
    (∀ kind engine, s.hm.frozen = true ∨ (bookOf kind engine s).late = false →
      exec (.tideOverrun kind engine) s = .next s) ∧
    (∀ kind engine, (bookOf kind engine s).lowered = true →
      (∀ x ∈ (bookOf kind engine s).overruns, x + 64 ≤ s.tide.count) →
      let b := { bookOf kind engine s with lowered := false, overruns := [] }
      exec (.budgetRestore kind engine) s = .next { s with engines := tput s.engines (bookNo kind engine) b })

/-- A follower in lock takes the eastbound marker of a boundary, once: its phase moves by at most 0.4 ns; a westbound one before it
waits, one after it is not used. A marker more than 16 ns off loses the lock with 0x0902; a device without lock takes a marker's
count, and its master with it (relocking on a marker within 16 ns is the model's choice, log 18). Two missed markers have the next
lowest ID take over at b+3, three without a takeover of its own lose the lock; at b+3 the device is master (R15 to R17, R24, R25). -/
def Obligations.TideMarkers : Prop :=
  ∀ s : State, coreRuns s = true → s.isl.bypass = .open →
    let heard := fun (east : Bool) (hops count : Nat) => { s.tide with
      lastMarker := count, markerSeen := true, missed := 0, takeover := none, hasMaster := true, master := masterOf east hops s }
    (∀ hops count offset, isMaster s = false → s.tide.followed = true → s.tide.locked = true → s.tide.eastMark ≠ some count →
      -160 ≤ offset → offset ≤ 160 →
      exec (.tideMarkerReceive true hops count offset) s = .next { s with tide := { heard true hops count with
        eastMark := some count, wests := s.tide.wests.filter fun w => decide (count < w.1),
        hops := hops, offset := offset, phase := s.tide.phase + max (-4) (min 4 offset) } }) ∧
    (∀ east hops count offset, isMaster s = false → s.tide.followed = true → s.tide.locked = true → s.tide.eastMark = some count →
      exec (.tideMarkerReceive east hops count offset) s = .next { s with tide := heard east hops count }) ∧
    (∀ hops count offset, isMaster s = false → s.tide.followed = true → s.tide.locked = true → s.tide.eastMark ≠ some count →
      exec (.tideMarkerReceive false hops count offset) s = .next { s with tide := { heard false hops count with
        wests := s.tide.wests ++ [(count, hops, offset)] } }) ∧
    (∀ hops count offset, isMaster s = false → s.tide.followed = true → s.tide.locked = true → s.tide.eastMark ≠ some count →
      160 < offset →
      ∃ t, exec (.tideMarkerReceive true hops count offset) s = .next t ∧ answerFrame { s with tide := t.tide } t ∧
        t.tide.locked = false ∧ t.tide.phase = s.tide.phase ∧ t.tide.count = s.tide.count ∧
        (tgetD t.tel.reasons 9 (0, 0, 0)).2.2 = 0x0902) ∧
    (∀ east hops count offset, isMaster s = false →
      s.tide.followed = false ∨ (s.tide.locked = false ∧ -160 ≤ offset ∧ offset ≤ 160) →
      ∃ t, exec (.tideMarkerReceive east hops count offset) s = .next t ∧ t = { s with tide := t.tide } ∧
        t.tide.count = count ∧ t.tide.locked = true ∧ t.tide.followed = true ∧ t.tide.hops = hops ∧ t.tide.hasMaster = true ∧
        t.tide.master = masterOf east hops s) ∧
    (isMaster s = true → ∀ east hops count offset, exec (.tideMarkerReceive east hops count offset) s = .next s) ∧
    (isMaster s = false → s.tide.missed = 1 → s.tide.hasMaster = true →
      exec .markerMissed s = .next { s with tide := { s.tide with
        missed := 2, takeover := if nextMaster s = some (self s) then some (s.tide.lastMarker + 3) else none } }) ∧
    (isMaster s = false → s.tide.missed = 2 → s.tide.takeover = none → s.tide.locked = true →
      ∃ t, exec .markerMissed s = .next t ∧
        answerFrame { s with tide := { s.tide with missed := 3, locked := false } } t) ∧
    (∀ b, s.tide.takeover = some b → b ≤ s.tide.count + 1 →
      ∃ t, exec .masterTakeover s = .next t ∧ isMaster t = true ∧ t.tide.takeover = none ∧ t.tide.lastMarker = b - 1 ∧
        t.tide.count = s.tide.count ∧ t.tide.locked = true ∧
        t = { s with tide := t.tide, ring := { s.ring with heartbeats := t.ring.heartbeats } }) ∧
    (∀ b, s.tide.takeover = some b → s.tide.count + 1 < b → exec .masterTakeover s = .next s)

/-- Off the ring a slot only passes on; a core in RELEASING hears its splice granted. On it a slot with a bad header leaves EMPTY and
is counted, one of a reserved type passes and is counted, a CONTROL message of the composition in force is handled once, one of a
stale composition is discarded and counted; a site that a snoop does not ask answers a miss. An owned slot back from its lap, or
not back, takes the waiting message or leaves EMPTY, a message whose slot came back EMPTY is issued again, and a slot of another
owner goes on; the master's first slot after a boundary carries the tide mark. A request item in a DATA slot for another home goes
on in the switch core (R17 to R19, R21 to R23, R27 to R29, R58). -/
def Obligations.RingSlots : Prop :=
  ∀ (x : RingSlot) (s : State),
    let sends := fun (y : RingSlot) (t : State) => { t with out := t.out ++ [Out.slot y] }
    (onRing s = false → s.isl.bypass ≠ .releasing →
      (∀ n, exec (.ringSlotArrive x n) s = .next (sends x s)) ∧ exec (.snoopAnswer x) s = .next (sends x s) ∧
      (∀ e n, exec (.slotReturn ⟨e, n, some x⟩) s = .next (sends x s) ∧ exec (.slotReturn ⟨e, n, none⟩) s = .next s)) ∧
    (∀ n d id leave b, coreRuns s = true → s.isl.bypass = .releasing → headerOk x = true → slotKind x = 3 →
      slotMsg x = .control d id ctlSpliceGrant [s.tide.site, leave, b] → payloadOk x = true → d ≠ self s →
      compCurrent (slotComp x) s = true → (d, id) ∉ s.ring.handled →
      exec (.ringSlotArrive x n) s = .next (sends x { s with
        ring := { s.ring with handled := ((d, id) :: s.ring.handled).take 1024 }, isl := { s.isl with granted := some b } })) ∧
    (onRing s = true → s.ring.broken = none → isMaster s = false →
      (∀ n, headerOk x = false → exec (.ringSlotArrive x n) s = .next (sends (emptySlot x.east n s)
        { s with ring := { s.ring with headerErrors := s.ring.headerErrors + 1 } })) ∧
      (∀ n, headerOk x = true → 6 ≤ slotKind x → exec (.ringSlotArrive x n) s = .next (sends x
        { s with ring := { s.ring with reservedSeen := s.ring.reservedSeen + 1 } })) ∧
      (∀ n d id b, headerOk x = true → slotKind x = 3 → slotMsg x = .control d id ctlRestore [b] → payloadOk x = true →
        d ≠ self s → compCurrent (slotComp x) s = true → (d, id) ∉ s.ring.handled →
        exec (.ringSlotArrive x n) s = .next (sends x { s with
          ring := { s.ring with handled := ((d, id) :: s.ring.handled).take 1024, restoreAt := some b } })) ∧
      (∀ n d id c args, headerOk x = true → slotKind x = 3 → slotMsg x = .control d id c args → (d, id) ∈ s.ring.handled →
        compCurrent (slotComp x) s = true → exec (.ringSlotArrive x n) s = .next (sends x s)) ∧
      (∀ n d id c args, headerOk x = true → slotKind x = 3 → slotMsg x = .control d id c args → payloadOk x = true →
        d ≠ self s → compCurrent (slotComp x) s = false → exec (.ringSlotArrive x n) s = .next (sends x
          { s with ring := { s.ring with staleDiscards := s.ring.staleDiscards + 1 } })) ∧
      (∀ q, slotOwner x ≠ s.tide.site → slotKind x = 1 → snoopsOf (slice x.block 12 496) = [q] → payloadOk x = true →
        answersOk x = true → compCurrent (slotComp x) s = true → self s ∉ q.targets →
        exec (.snoopAnswer x) s =
          .next (sends (withAnswers (setNibble (fit 256 x.answers) 0 s.tide.site ansMiss) x) s)) ∧
      (slotOwner x ≠ s.tide.site → slotKind x = 1 → answersOk x = true → compCurrent (slotComp x) s = false →
        exec (.snoopAnswer x) s = .next (sends x
          { s with ring := { s.ring with staleDiscards := s.ring.staleDiscards + 1 } })) ∧
      (∀ e n, headerOk x = true → ownNumber (slotNumber x) s = false →
        exec (.slotReturn ⟨e, n, some x⟩) s = .next (sends x s)) ∧
      (∀ e n, s.ring.tx = [] → headerOk x = true → ownNumber (slotNumber x) s = true →
        exec (.slotReturn ⟨e, n, some x⟩) s = .next (sends (emptySlot e (slotNumber x) s) s)) ∧
      (∀ n m d id c args, s.ring.tx = [m] → m.slot = none → m.msg = .control d id c args → moreControl m.msg m.at_ = false →
        ownNumber n s = true →
        exec (.slotReturn ⟨m.east, n, none⟩) s = .next (sends
          (makeSlot m.east n m.msg m.at_ s.man.routeEpoch s.man.compEpoch s) { s with ring := { s.ring with
            tx := [{ m with slot := some n, routeEpoch := s.man.routeEpoch, compEpoch := s.man.compEpoch }] } })) ∧
      (∀ n m d id c args, s.ring.tx = [m] → m.slot = some n → m.msg = .control d id c args →
        moreControl m.msg m.at_ = false → m.reissues < 3 → ownNumber n s = true →
        exec (.slotReturn ⟨m.east, n, none⟩) s = .next (sends
          (makeSlot m.east n m.msg m.at_ s.man.routeEpoch s.man.compEpoch s) { s with ring := { s.ring with
            tx := [{ m with slot := some n, reissues := m.reissues + 1,
                            routeEpoch := s.man.routeEpoch, compEpoch := s.man.compEpoch }] } })) ∧
      (∀ b m k, slotKind x = 5 → payloadOk x = true → compCurrent (slotComp x) s = true →
        (linkHdr x.block).kind = 1 → blockItems 1 (linkHdr x.block).unitMap (slice x.block 12 496) = some [(0, b)] →
        (reqOf b []).home ≠ self s → mapOf (reqOf b []).routeEpoch s = some m → deviceCtx (reqOf b []).home m s = some k →
        tget s.ports.codecs k = none →
        ∃ t c i, exec (.dataSlotReceive x) s = .next t ∧ t = { s with sw := t.sw } ∧ t.sw.cells = s.sw.cells ++ [c] ∧
          c.ctx = k ∧ c.pool = 1 ∧ c.ingress = 130 ∧ c.items = [i] ∧ i.bytes = b)) ∧
    (onRing s = true → s.ring.broken = none → isMaster s = true → s.ring.tx = [] → s.ring.markEast = true →
      ∀ n, ownNumber n s = true → exec (.slotReturn ⟨true, n, none⟩) s =
        .next (sends (markSlot true s (emptySlot true n s)) { s with ring := { s.ring with markEast := false } }))

/-- Ring training keeps what it finds of the sites, leaves a port with a span over 24 ns a hop disabled with 0x0901 and one towards
an LZ4 device with 0x0203, and answers a good span with this site's IDENTIFY; a failed ring link is known to the device with 0x0903,
its snoops waiting are dropped and its other messages turn to the direction that reaches their receivers; the master announces a
restore 4 tides ahead (which boundary is the model's choice, log 18), and at that boundary the train is whole again (R12, R18, R22,
R26). -/
def Obligations.RingLinks : Prop :=
  ∀ s : State, coreRuns s = true →
    (∀ east span hops, 240 * hops < span → exec (.ringMeasure east span hops none) s =
      .next (recordReason 0x0901 { s with ring := { s.ring with disabled := some 0x0901 } })) ∧
    (∀ east span hops (m : RingMap), span ≤ 240 * hops → ∃ t, exec (.ringMeasure east span hops (some (.ring m))) s = .next t ∧
      t = { s with tide := { s.tide with sites := m.sites, site := m.site }, ring := { s.ring with map := m.devices },
                   out := s.out ++ [.ring east (.measure 0 (some (ownIdent 3 false s)))] }) ∧
    (∀ east span hops i, i.partClass = 2 → exec (.ringMeasure east span hops (some (.partner i))) s =
      .next (recordReason 0x0203 { s with ring := { s.ring with disabled := some 0x0203 } })) ∧
    (∀ east span hops i, i.partClass ≠ 2 → exec (.ringMeasure east span hops (some (.partner i))) s =
      .next { s with ring := { s.ring with partners := tput s.ring.partners (b2n east) i } }) ∧
    (∀ link, s.ring.broken = none → ∃ t, exec (.ringLinkFail link) s = .next t ∧ t.ring.broken = some link ∧
      (∀ m ∈ t.ring.tx, ∀ qs, m.msg ≠ .snoop qs) ∧
      (∀ m ∈ s.ring.tx, (∀ qs, m.msg ≠ .snoop qs) →
        (m.slot.isSome = true → m ∈ t.ring.tx) ∧
        (m.slot = none → ∀ d, m.dest = some d → { m with east := eastTo d t } ∈ t.ring.tx) ∧
        (m.slot = none → m.dest = none → ∀ e, removesSlots e t = false → { m with east := e } ∈ t.ring.tx)) ∧
      (tgetD t.tel.reasons 9 (0, 0, 0)).2.2 = 0x0903 ∧ answerFrame { s with ring := t.ring } t) ∧
    (∀ link, s.ring.broken = some link → isMaster s = true → reachesRing s →
      ∃ t x num, exec (.ringLinkRestore link) s = .next t ∧ t.ring.restoreAt = some (s.tide.count + 4) ∧
        x ∈ t.ring.tx ∧ x.msg = .control (self s) num ctlRestore [s.tide.count + 4] ∧ t = { s with ring := t.ring }) ∧
    (∀ b, s.ring.restoreAt = some b → b ≤ s.tide.count → s.home.rounds = [] →
      exec .trainRestore s = .next { s with ring := { s.ring with broken := none, restoreAt := none } }) ∧
    (∀ b, s.ring.restoreAt = some b → s.tide.count < b → exec .trainRestore s = .next s)

/-- The bypass: after ring training a request brings RELEASING or CLOSING and asks the master for a splice, the master grants one a
tide for the boundary 4 tides ahead (the model's choice, log 18), the path switches at its boundary, a release not granted in time
and a lost heartbeat close it. On a ring without a master the lowest device becomes the master in tide 0 and forms both trains of
6 slots a site (R15, R16, R18, R29 to R31). -/
def Obligations.RingBypass : Prop :=
  ∀ s : State, coreRuns s = true →
    (s.isl.bypass = .closed → s.ring.disabled = none → 0 < s.tide.sites →
      exec .bypassReleaseRequest s = .next { s with
        isl := { s.isl with bypass := .releasing }, ring := { s.ring with nextMsg := (s.ring.nextMsg + 1) % 65536 },
        out := s.out ++ [.ring (eastTo s.tide.master s)
          (.control (self s) s.ring.nextMsg ctlSpliceAsk [s.tide.site, 0])] }) ∧
    (s.isl.bypass = .closed → s.ring.disabled.isSome = true ∨ s.tide.sites = 0 → exec .bypassReleaseRequest s = .next s) ∧
    (s.isl.bypass = .releasing →
      exec .bypassReleaseTimeout s = .next { s with isl := { s.isl with bypass := .closed, granted := none } }) ∧
    (s.isl.bypass = .open → isMaster s = false →
      ∃ t x num, exec .bypassLeaveRequest s = .next t ∧ t.isl = { s.isl with bypass := .closing } ∧ x ∈ t.ring.tx ∧
        x.msg = .control (self s) num ctlSpliceAsk [s.tide.site, 1] ∧ t = { s with isl := t.isl, ring := t.ring }) ∧
    (∀ site leave, isMaster s = true → (∀ x ∈ s.ring.splices, x.site ≠ site) →
      (∀ x ∈ s.ring.grants, x.site = site → x.tide ≤ s.tide.count) →
      exec (.spliceRequest site leave) s = .next { s with ring := { s.ring with
        splices := s.ring.splices ++ [{ site := site, leave := leave, tide := s.tide.count }] } }) ∧
    (∀ r, isMaster s = true → s.ring.splices = [r] → r.site < s.tide.sites → r.site ≠ s.tide.site → s.man.notices = [] →
      (∀ g ∈ s.ring.grants, g.tide ≠ s.tide.count + 4) → reachesRing s →
      ∃ t x num, exec .spliceGrant s = .next t ∧ x ∈ t.ring.tx ∧
        x.msg = .control (self s) num ctlSpliceGrant [r.site, b2n r.leave, s.tide.count + 4] ∧ t.ring.splices = [] ∧
        { r with tide := s.tide.count + 4 } ∈ t.ring.grants ∧ t = { s with ring := t.ring }) ∧
    (∀ b, s.isl.bypass = .releasing → s.isl.granted = some b → b ≤ s.tide.count → s.tide.hasMaster = true →
      exec .splice s = .next { s with isl := { s.isl with bypass := .open, granted := none } }) ∧
    (∀ b, s.isl.bypass = .closing → s.isl.granted = some b → b ≤ s.tide.count →
      exec .splice s = .next { s with isl := { s.isl with bypass := .closed, granted := none } }) ∧
    (∀ b, s.isl.bypass = .releasing → s.isl.granted = some b → s.tide.count < b → s.tide.hasMaster = true →
      exec .splice s = .next s) ∧
    (s.isl.bypass = .releasing → s.tide.hasMaster = false → s.tide.followed = false → lowestOnRing s = true →
      ∃ t l, exec .splice s = .next t ∧ isMaster t = true ∧ t.isl.bypass = .open ∧ t.tide.count = 0 ∧ t.tide.locked = true ∧
        t.out = s.out ++ l ∧ l.length = 12 * s.tide.sites ∧ (∀ o ∈ l, ∃ y, o = .slot y) ∧
        t = { s with isl := t.isl, tide := t.tide, ring := t.ring, out := t.out }) ∧
    exec .bypassClose s = .next { s with isl := { s.isl with bypass := .closed, granted := none } } ∧
    exec .coreHeartbeatTimeout s = .next { s with isl := { s.isl with bypass := .closed, granted := none } }

/-! Hosts' requests, the coherent class and the home. -/

/-- A request of a host within its limits that passes the ingress checks, with nothing of its host's before it, goes on: an ordered
read, the writes, the seal, STOW and REGION_PUBLISH leave as one packet to the entry's home; a READ is served by a valid line
or joins a window whose READ of the granule leaves under the device's own tag, an ATOMIC likewise; ACQUIRE is acknowledged here;
a coherent request of a line not held asks the home for it, and a release of the line a host owns leaves as the device's (R46,
R78, R90, R102 to R104, R116, R117). -/
def Obligations.HostRequests : Prop :=
  ∀ (r : HostReq) (c : PortCtx) (e off : Nat) (s : State),
    let k := fun op => packetOf op c.host r e off s
    let part := fun op => ({ host := c.host, opcode := op, req := r } : Part)
    let passes := fun op => requestCode op c.host r s = (0, some e, off)
    let alone := fun (i : Instr) (op : Nat) => passes op → s.ing.filter = [] →
      ∃ t o, exec i s = .next t ∧ Out.request (k op) ∈ t.out ∧ t.ing.outst = [o] ∧ o.host = c.host ∧ o.tag = r.tag ∧
        o.req = k op ∧ o.sent = true ∧ t.man = s.man ∧ t.home = s.home
    let asks := fun (i : Instr) (op : Nat) => passes op → s.ing.filter = [] →
      ∃ t f q, exec i s = .next t ∧ t.ing.filter = [f] ∧ f.line = (entryOf e s).baseFpa + off / 64 * 64 ∧
        f.asking = some (op, some (part op)) ∧ Out.request q ∈ t.out ∧ q.opcode = op ∧ q.address = f.line ∧
        q.home = (entryOf e s).homeDevice ∧ t.man = s.man ∧ t.home = s.home
    let gives := fun (i : Instr) (op : Nat) (data : Bytes) => passes op → ∀ f, s.ing.filter = [f] →
      f.line = (entryOf e s).baseFpa + off / 64 * 64 → f.state = 2 → f.dirty = none → f.owed = none → f.recalls = [] →
      f.releasing = none →
      f.holders = [c.host] → ∃ t q, exec i s = .next t ∧ Out.request q ∈ t.out ∧ q.opcode = op ∧ q.address = f.line ∧
        q.payload = data ∧ q.home = f.home ∧ t.man = s.man ∧ t.home = s.home ∧ t.ing.filter = [{ f with
          state := 0, holders := [], vector := 0, cached := false, dirty := none, owed := none, releasing := some (op, some (part op)) }]
    coreRuns s = true → hostAt r.ctx s = some c → 0 < (hostOf c.host s).limit → 0 < (hostOf c.host s).balance →
    s.ing.outst = [] → s.ing.held = [] → s.ing.waiting = [] → s.ing.policed = [] → s.ing.reads = [] → s.ing.atoms = [] →
    alone (.readAcq r) opReadAcq ∧ alone (.write r) opWrite ∧ alone (.writePartial r) opWritePartial ∧
    (sealSpoiled c.host (entryOf e s).homeDevice r.sealWindow s = false → alone (.writeSeal r) opWriteSeal) ∧
    alone (.stow r) opStow ∧ alone (.regionPublish r) opPublish ∧
    (∀ l g, passes opRead → granulesOf (k opRead) = [g] → cacheLine e ((k opRead).address / 64 * 64) s = some l →
      hostAlive c.host s = true → charterState r.charter s ≠ 2 →
      ∃ t a, exec (.read r) s = .next t ∧ Out.response c.host a ∈ t.out ∧ a.opcode = 0x81 ∧ a.tag = r.tag ∧
        a.data = slice l.data ((k opRead).address % 64) r.length ∧ t.ing.outst = [] ∧ t.man = s.man ∧ t.home = s.home) ∧
    (∀ g, passes opRead → granulesOf (k opRead) = [g] → cacheLine e ((k opRead).address / 64 * 64) s = none →
      (entryOf e s).cls ≠ 1 → (entryOf e s).baseFpa % 64 = 0 →
      ∃ t w q, exec (.read r) s = .next t ∧ t.ing.reads = [w] ∧ w.parts = [part opRead] ∧ Out.request q ∈ t.out ∧
        q.opcode = opRead ∧ q.length = 64 ∧ q.address = (k opRead).address / 64 * 64 ∧ q.srcEngine = true ∧ q.tag = w.tag ∧
        t.man = s.man ∧ t.home = s.home) ∧
    (passes opAtomic → s.ing.filter = [] →
      ∃ t w q, exec (.atomic r) s = .next t ∧ t.ing.atoms = [w] ∧ w.sent = [part opAtomic] ∧ w.collecting = [] ∧
        Out.request q ∈ t.out ∧ q.opcode = opAtomic ∧ q.address = (k opAtomic).address ∧ q.tag = w.tag ∧ q.parts = 1 ∧
        t.man = s.man ∧ t.home = s.home) ∧
    (passes opAcquire → s.ing.filter = [] → hostAlive c.host s = true →
      ∃ t a, exec (.acquire r) s = .next t ∧ Out.response c.host a ∈ t.out ∧ a.opcode = 0x80 ∧ a.tag = r.tag ∧
        t.ing.outst = [] ∧ t.man = s.man ∧ t.home = s.home) ∧
    asks (.cReadShared r) opCShared ∧ asks (.cReadOwn r) opCOwn ∧ asks (.cUpgrade r) opCUpgrade ∧
    gives (.cWriteback r) opCWriteback (fit 64 r.payload) ∧ gives (.cEvictClean r) opCEvict []

/-- The device as coherent agent and home of coherent lines: a recalled host's dirty data is kept in the filter, a host that does
not answer in time is dead, a STOW fill installs the line in S or is declined, its declined answer leaves the line UNCACHED; a
device's C_SNOOP_DONE is acknowledged and ends its part in the round; a round asks again those that asked for a retry; a dead
device is known, and its scan removes it from the lines it shared (R112, R113, R114, R116, R121, R124 to R127). -/
def Obligations.CoherentAgents : Prop :=
  ∀ s : State, coreRuns s = true →
    (∀ host line f d, s.ing.filter = [f] → f.line = line → f.recalls = [(host, true, 0)] → f.lost = false → s.ing.waiting = [] →
      s.ing.held = [] → leaving s = false → exec (.cRecallAnswer host line (some d)) s = .next { s with ing := { s.ing with
        filter := [{ f with recalls := [], dirty := some (fit 64 d), owed := if f.state = 2 ∧ f.dirty = none ∧ host ∈ f.holders then none else f.owed }] } }) ∧
    (∀ host line f, s.ing.filter = [f] → f.line = line → f.recalls = [(host, true, 0)] → f.state = 1 → f.dirty = none →
      f.lost = false → s.ing.waiting = [] → s.ing.held = [] → leaving s = false → host ∉ s.ing.deadHosts → ∃ t, exec (.hostRecallTimeout host line) s = .next t ∧
        host ∈ t.ing.deadHosts ∧ (∀ g ∈ t.ing.filter, g.recalls = []) ∧ (tgetD t.tel.reasons 8 (0, 0, 0)).2.1 ≠ 0 ∧
        t.man = s.man ∧ t.home = s.home) ∧
    (∀ r : FabReq, let e := entryOf r.entry s
      r.opcode < opMark → s.ing.filter.length < filterLimit → s.ing.cache.length < cacheLimit → filterOf r.address s = none → e.state = 1 →
      e.generation = r.generation →
      ∃ t l f a, exec (.cStowFill r) s = .next t ∧ tget t.ing.cache r.address = some l ∧ l.data = fit 64 r.payload ∧
        l.charter = e.charter ∧ l.generation = r.generation ∧ t.ing.filter = s.ing.filter ++ [f] ∧ f.line = r.address ∧
        f.state = 1 ∧ f.cached = true ∧ Out.answer a ∈ t.out ∧ a.opcode = 0x80 ∧ a.tag = r.tag ∧ t.man = s.man ∧
        t.home = s.home) ∧
    (∀ r : FabReq, r.opcode < opMark → (filterOf r.address s).isSome = true →
      ∃ t a, exec (.cStowFill r) s = .next t ∧ t.ing = s.ing ∧ Out.answer a ∈ t.out ∧ a.opcode = 0x82 ∧
        a.reason = 0x0801) ∧
    (∀ device line d, dirOf line s = some d → d.busy = true → roundOf line s = none → d.presence = [device] →
      ∃ t, exec (.cStowFillAnswer device line false) s = .next t ∧ dirOf line t = none ∧
        t = { s with home := { s.home with dir := s.home.dir.filter fun x => x.line != line } }) ∧
    (∀ device line d, s.home.dir = [d] → d.line = line → d.busy = true → roundOf line s = none → d.presence = [device] →
      (entryOf d.entry s).generation = d.generation → exec (.cStowFillAnswer device line true) s =
        .next { s with home := { s.home with dir := [{ d with busy := false }] } }) ∧
    (∀ (r : FabReq) x e, let d := srcDevice r
      r.opcode < opMark → d ∉ s.home.dead → s.home.rounds = [x] → x.line = r.address → s.home.dir = [] → x.kind = 1 →
      x.ask = [d, e] → d ∉ x.early → r.aux = 0 → r.payload ≠ [] →
      ∃ t a y, exec (.cSnoopDone r) s = .next t ∧ Out.answer a ∈ t.out ∧ a.opcode = 0x80 ∧ t.home.rounds = [y] ∧
        d ∈ y.early ∧ y.data = some (fit 64 r.payload) ∧ y.ask = x.ask ∧ t.man = s.man) ∧
    (∀ r : FabReq, r.opcode < opMark → srcDevice r ∈ s.home.dead →
      ∃ t a, exec (.cSnoopDone r) s = .next t ∧ t.home = s.home ∧ Out.answer a ∈ t.out ∧ a.opcode = 0x82 ∧
        a.reason = 0x0806) ∧
    (∀ id d e x, s.home.rounds = [x] → x.snoopId = id → x.ask = [d, e] → d ≠ e → d ≠ self s → e ≠ self s → s.home.dir = [] →
      reachesRing s → x.retries < 15 → ∃ t m q, exec (.snoopRoundReturn id [(d, ansMiss), (e, ansRetry)]) s = .next t ∧
        t.home.rounds = [{ x with ask := [e], retries := x.retries + 1, snoopId := s.home.nextSnoop }] ∧ m ∈ t.ring.tx ∧
        m.msg = .snoop [q] ∧ q.line = x.line ∧ q.targets = [e] ∧ q.snoopId = s.home.nextSnoop) ∧
    (∀ d, s.home.rounds = [] → d ∉ s.home.dead → exec (.deadAgentNotice d) s =
      .next { s with home := { s.home with dead := insertSorted d s.home.dead } }) ∧
    (∀ d e x, d ∈ s.home.dead → s.home.rounds = [] → s.home.dir = [x] → x.state = 1 → x.presence = [d, e] → d ≠ e →
      tgetD s.home.linesPoisoned d 0 = 0 → ∃ t, exec (.directoryScanDone d) s = .next t ∧
        t.home.dir = [{ x with presence := [e] }] ∧ t.out = s.out ∧ t.tel = s.tel ∧
        t = { s with home := { s.home with dir := t.home.dir, linesPoisoned := t.home.linesPoisoned } })

/-- The home: a READ admitted under the entry in force queues on its granule, a fence holds its attempt and one of a lower attempt
is refused with 0x0616, a batch takes the accesses at a granule's head, a tray's data is kept for it, and its end answers
each access and frees the granule (R48, R62, R63, R85, R109). -/
def Obligations.HomeRequests : Prop :=
  ∀ s : State, coreRuns s = true →
    (∀ (r : FabReq) g lo n skip, let e := entryOf r.entry s
      let key := granKey r.entry g
      r.opcode = opRead → r.jobValid = false → serves e.charter s = true → entryCurrent r s = true →
      queueFull r s = false → s.home.waiting = [] → stepsOf (offsetIn r e) (touched r) = [(g, lo, n, skip)] →
      ∃ t h a, exec (.homeAdmit r) s = .next t ∧ t = { s with home := t.home } ∧ t.home.reqs = s.home.reqs ++ [h] ∧
        h.req = r ∧ (queueOf key t).queue = (queueOf key s).queue ++ [a] ∧ a.id = h.id ∧ a.req = r ∧ a.lo = lo ∧ a.len = n ∧
        (queueOf key t).batch = (queueOf key s).batch ∧ ∀ m, m ≠ key → queueOf m t = queueOf m s) ∧
    (∀ r : FabReq, let key := jobKey r.jobDevice r.jobSlot
      r.opcode < opMark → serves r.charter s = true → jobSealed r s = false → staleAttempt r s = false → s.home.fences.length < 4096 →
      ∃ t a, exec (.attemptFence r) s = .next t ∧ t.home = { s.home with fences := tput s.home.fences key r.attempt } ∧
        Out.answer a ∈ t.out ∧ a.opcode = 0x80 ∧ a.tag = r.tag ∧ t.man = s.man ∧ t.ing = s.ing) ∧
    (∀ r : FabReq, r.opcode < opMark → serves r.charter s = true → jobSealed r s = false → staleAttempt r s = true →
      ∃ t a, exec (.attemptFence r) s = .next t ∧ t.home = s.home ∧ Out.answer a ∈ t.out ∧ a.opcode = 0x82 ∧
        a.reason = 0x0616) ∧
    (∀ entry off a l r, let key := granKey entry (off / 64)
      (queueOf key s).batch = none → (queueOf key s).queue = a :: r → batchPrefix (a :: r) = a :: l → a.ent.cls ≠ 1 →
      entry ∉ s.home.pageWait → stepFree key (newStep 0 (entry, off / 64) (a :: l)) s = true →
      dirOf (a.ent.baseFpa + off / 64 * 64) s = none →
      ∃ t b, exec (.granuleBatchStart entry off) s = .next t ∧ (queueOf key t).batch = some b ∧ b.accesses = a :: l ∧
        (queueOf key t).queue = r.drop l.length ∧ t.man = s.man ∧ t.ing = s.ing) ∧
    (∀ r q b data, s.home.trays = [r, q] → r.id ≠ q.id → q.key = r.key → r.write = false →
      (queueOf r.key s).batch = some b → b.kind = 0 →
      ∃ t k, exec (.trayResponse r.id opData data) s = .next t ∧ t = { s with home := t.home } ∧ t.home.trays = [q] ∧
        (queueOf r.key t).batch = some k ∧ tget k.got r.cell = some (some (fit 64 data)) ∧ k.accesses = b.accesses) ∧
    (∀ entry off b a h d, let key := granKey entry (off / 64)
      (queueOf key s).batch = some b → b.kind = 0 → b.stage = 2 → awaited key s = [] → b.accesses = [a] →
      b.outcomes = [(a.id, 0, 0, d)] → a.ent.cls ≠ 1 → a.drain = false → a.req = h.req → h.req.opcode = opRead →
      s.home.reqs = [h] → h.id = a.id → h.left = 1 → h.worst = 0 → h.data = [] → s.home.waiting = [] →
      charterState h.req.charter s ≠ 2 →
      ∃ t x, exec (.granuleBatchDone entry off) s = .next t ∧ (queueOf key t).batch = none ∧
        (queueOf key t).queue = (queueOf key s).queue ∧ t.home.reqs = [] ∧ Out.answer x ∈ t.out ∧ x.opcode = 0x81 ∧
        x.tag = h.req.tag ∧ x.destination = h.req.source ∧ x.data = d ∧ t.man = s.man ∧ t.ing = s.ing)

/-- A seal held for 2,048 tides is refused with 0x0614 and its window closes; a source without an open window, and none opened for
2,048 tides, is forgotten; the load level is at most 7 and covers the switch core's shared cells and the deepest granule queue; a
response to nothing outstanding is discarded and counted, and one to a host's own request reaches the host (R74, R76, R95, R96,
R98). The admission queues' part of the load level is free (log 1). -/
def Obligations.HomeTimersAndResponses : Prop :=
  ∀ s : State, coreRuns s = true →
    (∀ source window v r t0, winOf source window s = some v → v.window = window → v.held = some (r, t0) →
      r.opcode < opMark → t0 + 2048 ≤ s.tide.count →
      ∃ t a, exec (.sealTimeout source window) s = .next t ∧ winOf source window t = none ∧ Out.answer a ∈ t.out ∧
        a.opcode = 0x82 ∧ a.reason = 0x0614 ∧ a.tag = r.tag ∧ t.man = s.man ∧ t.ing = s.ing) ∧
    (∀ source window v r t0, winOf source window s = some v → v.held = some (r, t0) → s.tide.count < t0 + 2048 →
      exec (.sealTimeout source window) s = .next s) ∧
    (∀ source x, sealSrc source s = some x → x.wins = [] → x.lastOpened + 2048 ≤ s.tide.count →
      exec (.windowForget source) s = .next { s with home := { s.home with seals := tdel s.home.seals source } }) ∧
    (∀ source x, sealSrc source s = some x → x.wins ≠ [] ∨ s.tide.count < x.lastOpened + 2048 →
      exec (.windowForget source) s = .next s) ∧
    (∃ l, exec .loadLevelUpdate s = .next { s with freeCount := s.freeCount + 1, home := { s.home with ll := l } } ∧ l ≤ 7 ∧
      min 7 (8 * (s.sw.cells.filter fun c => c.place != 3).length / 393216) ≤ l ∧
      ∀ p ∈ s.home.queues, min 7 (8 * queueDepth p.2 / 1024) ≤ l) ∧
    (∀ r : Resp, r.opcode ∉ [opAck, opData, opRefuse, opPoison, opConflict] → exec (.responseReceive r) s =
      .next { s with ing := { s.ing with badResponses := s.ing.badResponses + 1 } }) ∧
    (∀ r : Resp, r.dstEngine = false → outstOf r.destination r.tag s = none → exec (.responseReceive r) s =
      .next { s with ing := { s.ing with badResponses := s.ing.badResponses + 1 } }) ∧
    (∀ (r : Resp) o, r.dstEngine = false → s.ing.outst = [o] → o.host = r.destination → o.tag = r.tag → o.sent = true →
      o.opcode = opRead → r.opcode = opData → s.ing.held = [] → s.ing.reads = [] → s.ing.atoms = [] →
      hostAlive r.destination s = true → charterState o.req.charter s ≠ 2 →
      ∃ t a, exec (.responseReceive r) s = .next t ∧ t.ing.outst = [] ∧ Out.response r.destination a ∈ t.out ∧
        a.opcode = opData ∧ a.data = r.data ∧ a.tag = r.tag ∧ r.ll ≤ a.ll ∧ t.man = s.man ∧ t.home = s.home)

/-! Links, spans and the switch core. -/

/-- A context trains in R279's order: signal, equalizer lock, block lock with an IDENTIFY, an accepted IDENTIFY with the first PING,
16 PONGs whose mean is at most 600 ns with the initial CREDIT, and the partner's CREDIT brings it UP with sequence number 0
and both sides' credits; a mean above that, or a state past its limit, takes it down with its code; a failed lane of a wide
context has it retrain on the half that works, one not yet UP from DETECT (log 20) (R278 to R280, R287, R289, R290). -/
def Obligations.LinkTraining : Prop :=
  ∀ (ctx : Nat) (c : PortCtx) (s : State), coreRuns s = true → ctxAt ctx s = some c →
    (c.train = .detect → exec (.signalDetect ctx) s = .next (setCtx ctx { c with train := .equalize } s)) ∧
    (c.train = .equalize → exec (.equalizeLock ctx) s = .next (setCtx ctx { c with train := .align } s)) ∧
    (c.train = .retrain → exec (.equalizeLock ctx) s = .next (setCtx ctx { c with locked := true } s)) ∧
    (c.train = .align → ∃ l, exec (.blockLock ctx) s =
      .next (emit (.link ctx 1 l) (setCtx ctx { c with train := .identify } s))) ∧
    (∀ i, c.train = .identify → identCode ctx c i = 0 → i.refuse = false → exec (.identify ctx i) s =
      .next (emit (.link ctx 4 []) (setCtx ctx { c with partner := some i, train := .measure, pings := [] } s))) ∧
    (c.train = .measure → exec (.ping ctx) s = .next (emit (.link ctx 5 []) s)) ∧
    (∀ rtt, c.train = .measure → c.pings.length < 15 →
      exec (.pong ctx rtt) s = .next (emit (.link ctx 4 []) (setCtx ctx { c with pings := c.pings ++ [rtt] } s))) ∧
    (∀ rtt, c.train = .measure → c.pings.length = 15 → (c.pings ++ [rtt]).sum ≤ 16 * 6000 →
      let g := grantOf ctx c
      ∃ t, exec (.pong ctx rtt) s = .next t ∧ t.out = s.out ++ [.link ctx 7 [g, g, g]] ∧
        ctxAt ctx t = some { c with pings := c.pings ++ [rtt], train := .credit } ∧ t = { s with ports := t.ports, out := t.out }) ∧
    (∀ rtt, c.train = .measure → c.role = 4 → s.sw.cells = [] → c.pings.length = 15 → 16 * 6000 < (c.pings ++ [rtt]).sum →
      ∃ t k, exec (.pong ctx rtt) s = .next t ∧ ctxAt ctx t = some k ∧ k.train = .down ∧ k.cause = 0x0204) ∧
    (∀ a b d, c.train = .credit → ∃ k, exec (.initialCredit ctx a b d) s = .next (setCtx ctx k s) ∧ k.train = .up ∧
      k.nextTx = 0 ∧ k.nextRx = 0 ∧ k.lastAck = 4095 ∧ k.kept = [] ∧ k.txCredit = [a, b, d] ∧ k.txTotal = [0, 0, 0] ∧
      k.rxCredit = [grantOf ctx c, grantOf ctx c, grantOf ctx c] ∧ k.role = c.role ∧ k.host = c.host) ∧
    (∀ code, timeoutCode c = some code → c.role = 4 → s.sw.cells = [] → ∃ t k, exec (.trainingTimeout ctx) s = .next t ∧
      ctxAt ctx t = some k ∧ k.train = .down ∧ k.cause = code ∧ answerFrame { s with ports := t.ports, sw := t.sw } t) ∧
    (timeoutCode c = none → exec (.trainingTimeout ctx) s = .next s) ∧
    (ctx ≠ 256 → c.lanes = 4 → c.bad = [] → c.train ≠ .down → c.train ≠ .up → c.train ≠ .retrain →
      ∃ t k, exec (.laneFail ctx (4 * c.berth)) s = .next t ∧ ctxAt ctx t = some k ∧ k.train = .detect ∧ k.lanes = 2 ∧
        k.bad = [4 * c.berth]) ∧
    (ctx ≠ 256 → c.lanes = 4 → c.bad = [] → c.train = .up → ∃ t k, exec (.laneFail ctx (4 * c.berth)) s = .next t ∧
      ctxAt ctx t = some k ∧ k.train = .retrain ∧ k.locked = false ∧ k.lanes = 2 ∧ k.bad = [4 * c.berth] ∧
      (tgetD t.tel.reasons 1 (0, 0, 0)).2.2 = 0x0105 ∧ answerFrame { s with ports := t.ports } t)

/-- On a context that is up an acknowledgement frees the blocks it covers, a NAK has the kept blocks from its number sent again, a
timeout has them all sent again and after 8 in a row retrains, a CREDIT block's larger totals count, a block out of sequence or
with a bad CRC is discarded with one NAK for the number expected, and a good one in sequence moves the number on and is
acknowledged (R281, R283 to R288). -/
def Obligations.LinkBlocks : Prop :=
  ∀ (ctx : Nat) (c : PortCtx) (s : State), coreRuns s = true → ctxAt ctx s = some c → c.train = .up →
    let ahead := fun (x : Nat) => (x + 4096 - c.lastAck % 4096) % 4096
    let again := fun (k : Nat × Cell) => Out.block ctx k.1 true (k.2.items.flatMap fun i => padTo 16 i.bytes)
    (∀ ack, ahead ack ≤ ahead ((c.nextTx + 4095) % 4096) → ahead ack ≠ 0 → exec (.idle ctx ack) s = .next (setCtx ctx { c with
      kept := c.kept.filter fun k => decide (ahead ack < ahead k.1), lastAck := ack, resends := 0 } s)) ∧
    (ahead c.lastAck = 0 → exec (.idle ctx c.lastAck) s = .next s) ∧
    (∀ q k r, c.role ≠ 1 → c.kept = (q, k) :: r → q = (c.lastAck + 1) % 4096 → q < 4096 →
      exec (.nak ctx q) s = .next { s with out := s.out ++ c.kept.map again }) ∧
    (∀ a b d x y z n, c.txTotal = [a, b, d] → c.txCredit = [x, y, z] → a < 65536 → b < 65536 → d < 65536 → n < 32768 →
      exec (.credit ctx ((a + n) % 65536) b d) s =
        .next (setCtx ctx { c with txTotal := [(a + n) % 65536, b, d], txCredit := [x + n, y, z] } s)) ∧
    exec (.nakHoldoffExpire ctx) s = .next (setCtx ctx { c with nakFor := none } s) ∧
    (c.role ≠ 1 → c.kept ≠ [] → c.resends < 8 → ∃ t, exec (.resendTimeout ctx) s = .next t ∧
      ctxAt ctx t = some { c with resends := c.resends + 1 } ∧ t.out = s.out ++ c.kept.map again ∧
      t = { s with ports := t.ports, out := t.out }) ∧
    (c.kept ≠ [] → 8 ≤ c.resends → exec (.resendTimeout ctx) s =
      .next (setCtx ctx { c with train := .retrain, replay := true, locked := false } s)) ∧
    (∀ block stamp, 1 ≤ (linkHdr block).kind → (linkHdr block).kind ≤ 3 → linkCrcOk block = false →
      c.nakFor ≠ some c.nextRx → (∀ x ∈ s.sw.cells, x.cutThrough = false) →
      (∀ p ∈ s.ports.ctxs, ∀ k ∈ p.2.kept, k.2.cutThrough = false) →
      ∃ t k, exec (.blockReceive ctx block false stamp) s = .next t ∧ t.out = s.out ++ [.link ctx 2 [c.nextRx]] ∧
        ctxAt ctx t = some k ∧ k.nakFor = some c.nextRx ∧ k.nextRx = c.nextRx ∧ t = { s with ports := t.ports, out := t.out }) ∧
    (∀ block stamp b, (linkHdr block).kind = 1 → linkCrcOk block = true → (linkHdr block).ack = c.lastAck →
      c.lastAck < 4096 → (linkHdr block).seq = c.nextRx → (linkHdr block).pool = 0 → c.role = 3 → c.cut = [] →
      0 < c.rxCredit.getD 0 0 → blockItems 1 (linkHdr block).unitMap (slice block 12 496) = some [(0, b)] →
      (reqOf b []).home = self s → s.sw.mirrors = [] → s.sw.samplers = [] → s.sw.cells = [] →
      ∃ t k, exec (.blockReceive ctx block false stamp) s = .next t ∧ ctxAt ctx t = some k ∧
        k.nextRx = (c.nextRx + 1) % 4096 ∧ k.nakFor = none ∧ k.train = .up ∧ Out.link ctx 6 [c.nextRx] ∈ t.out ∧
        t.sw.cells = [] ∧ t = { s with ports := t.ports, sw := t.sw, out := t.out })

/-- A span context that went down: the partner answers with the last number it accepted and takes its own end down, the kept blocks
after that number go out again by another span, and a partner that does not answer for 16 tides is reported to the master
(R291, R342). -/
def Obligations.SpanLoss : Prop :=
  ∀ (ctx : Nat) (c : PortCtx) (s : State), coreRuns s = true → ctxAt ctx s = some c →
    (∀ device, c.role = 3 → ∃ t x k num, exec (.spanSeqQuery device ctx) s = .next t ∧ x ∈ t.ring.tx ∧
      x.msg = .control (self s) num ctlSeqAnswer [device, ctx, (c.nextRx + 4095) % 4096] ∧ ctxAt ctx t = some k ∧
      k.train = .down ∧ k.kept = c.kept) ∧
    (∀ seq t0 m q k, let ahead := fun (x : Nat) => (x + 4096 - c.lastAck % 4096) % 4096
      c.spanWait = some t0 → c.train = .down → otherSpan ctx c s = some m → c.kept = [(q, k)] → ahead seq < ahead q →
      ∃ t, exec (.spanSeqAnswer ctx seq) s = .next t ∧ ctxAt ctx t = some { c with kept := [], spanWait := none } ∧
        tget t.pilot.resends m = some (tgetD s.pilot.resends m [] ++ [{ k with ctx := m }]) ∧
        (tgetD t.tel.reasons 2 (0, 0, 0)).2.2 = 0x020A ∧ answerFrame { s with ports := t.ports, pilot := t.pilot } t) ∧
    (∀ t0 i, c.spanWait = some t0 → c.partner = some i → t0 + 16 ≤ s.tide.count → isMaster s = true →
      ∃ t, exec (.spanAnswerTimeout ctx) s = .next t ∧ ctxAt ctx t = some { c with spanWait := none } ∧
        t.ring = { s.ring with spanReports := tput s.ring.spanReports (i.deviceId % 64) s.tide.count } ∧
        t = { s with ports := t.ports, ring := t.ring }) ∧
    (∀ t0 i, c.spanWait = some t0 → c.partner = some i → t0 + 16 ≤ s.tide.count → isMaster s = false →
      ∃ t x num, exec (.spanAnswerTimeout ctx) s = .next t ∧ ctxAt ctx t = some { c with spanWait := none } ∧
        x ∈ t.ring.tx ∧ x.msg = .control (self s) num ctlSpanReport [i.deviceId % 64])

/-- Link frames: items gathered for max_wait are closed into a frame; a frame that decodes releases its items in order and is
acknowledged, one that does not is answered by a NACK, its cycles counted on the codec engine that serves the context; a frame that
no engine is free for waits for its slice; an acknowledged frame is held no longer, one refused has its items
sent again uncompressed with 0x0D0A (R238, R240, R241, R246). -/
def Obligations.LinkFrames : Prop :=
  ∀ (ctx : Nat) (k : LinkCodec) (s : State), coreRuns s = true → tget s.ports.codecs ctx = some k →
    (k.gather ≠ [] → k.closed = [] → waited k.since k.maxWait s = true →
      ∃ t n f, exec (.linkFrameTimeout ctx) s = .next t ∧ t = setCodec ctx n s ∧ n.gather = [] ∧ n.closed = [f] ∧
        f.items = k.gather ∧ n.sent = k.sent) ∧
    (k.gather ≠ [] → k.closed = [] → waited k.since k.maxWait s = false →
      exec (.linkFrameTimeout ctx) s = .next (setCodec ctx k s)) ∧
    (∀ c header payload, ctxAt ctx s = some c → c.role = 3 → ktcHeaderOk header = false →
      (decodeBlock header payload 0 k.rxSeq (headerOf header).raw).1 ≠ 0 →
      ∀ e, k.rx = [] → mayServe ctx (frameCost header) s = some e → ∃ t, exec (.linkFrameReceive ctx header payload) s = .next t ∧
        t.out = s.out ++ [.link ctx 10 [k.rxSeq]] ∧ bookOf .codec e t =
          { bookOf .codec e s with used := (bookOf .codec e s).used + frameCost header, served := some ctx } ∧
        tget t.ports.codecs ctx = some { k with rxSeq := (k.rxSeq + 1) % 2 ^ 32, rxBase := k.rxBase + 1 } ∧
        t.sw = s.sw ∧ t.man = s.man ∧ t.acc.jobs = s.acc.jobs) ∧
    (∀ c header payload, ctxAt ctx s = some c → c.role = 3 → k.rx ≠ [] ∨ mayServe ctx (frameCost header) s = none →
      exec (.linkFrameReceive ctx header payload) s = .next (setCodec ctx { k with rx := k.rx ++ [(header, payload)] } s)) ∧
    (∀ c header payload raw cls b m e g, ctxAt ctx s = some c → c.role = 3 → k.rx = [] →
      mayServe ctx (frameCost header) s = some g → (headerOf header).index = k.rxSeq →
      k.rxSeq < 2 ^ 32 → decodeBlock header payload 0 k.rxSeq (headerOf header).raw = (0, raw) →
      frameItems (raw.length + 1) raw = [(1, cls, b)] → (reqOf b []).home ≠ self s →
      mapOf (reqOf b []).routeEpoch s = some m → deviceCtx (reqOf b []).home m s = some e → e ≠ ctx →
      tget s.ports.codecs e = none → s.sw.mirrors = [] → s.sw.samplers = [] →
      ∃ t x i, exec (.linkFrameReceive ctx header payload) s = .next t ∧ t.out = s.out ++ [.link ctx 8 [k.rxSeq]] ∧
        tget t.ports.codecs ctx = some { k with rxSeq := (k.rxSeq + 1) % 2 ^ 32, rxBase := k.rxBase + 1 } ∧ t.sw.cells = s.sw.cells ++ [x] ∧
        x.ctx = e ∧ x.items = [i] ∧ i.bytes = b) ∧
    (∀ seq, exec (.linkFrameAck ctx seq) s = .next (setCodec ctx { k with sent := k.sent.filter fun f => f.seq != seq } s)) ∧
    (∀ seq f cls i, k.sent = [f] → f.seq = seq → f.items = [(1, cls, i)] →
      ∃ t x, exec (.linkFrameNack ctx seq) s = .next t ∧ tget t.ports.codecs ctx = some { k with sent := [] } ∧
        t.sw.cells = s.sw.cells ++ [x] ∧ x.ctx = ctx ∧ x.items = [i] ∧ (tgetD t.tel.reasons 0x0D (0, 0, 0)).2.2 = 0x0D0A ∧
        answerFrame { s with ports := t.ports, sw := t.sw } t)

/-- The switch core: a plane matches the one pair that asks, a span's resent cell leaves first as the next block with a credit
taken, an item under CUT enters its queue before its block is judged, and each queue of a DATA class is sampled at its
class's tides (R287, R291, R297, R298, R300, R325). -/
def Obligations.SwitchMoves : Prop :=
  ∀ s : State, coreRuns s = true →
    (∀ plane i o, (requestsNow s).dedup = [(i, o)] → ∃ t, exec (.planeMatch plane) s = .next t ∧ t = { s with sw := t.sw } ∧
      t.sw.matched = tput s.sw.matched plane [(i, o)] ∧ t.sw.cells = s.sw.cells) ∧
    (∀ ctx c p, ctxUp ctx s = true → tgetD s.pilot.resends ctx [] = [c] → c.pool = 2 → slotFree ctx 2 s = true →
      ctxAt ctx s = some p → p.role = 3 → s.sw.mirrors = [] → s.sw.samplers = [] →
      ∃ t q, exec (.transmitSlot ctx 0) s = .next t ∧ t = { s with ports := t.ports, pilot := t.pilot, out := t.out } ∧
        t.out = s.out ++ [.block ctx p.nextTx false (c.items.flatMap fun i => padTo 16 i.bytes)] ∧
        tget t.pilot.resends ctx = none ∧ ctxAt ctx t = some q ∧ q.nextTx = (p.nextTx + 1) % 4096 ∧
        q.kept = p.kept ++ [(p.nextTx, { c with ctx := ctx })] ∧
        q.txCredit.getD 1 0 = p.txCredit.getD 1 0 - 1 ∧ q.txCredit.getD 0 0 = p.txCredit.getD 0 0) ∧
    (∀ ctx unit item c m k x, let r := reqOf item []
      ctxAt ctx s = some c → c.train = .up → c.role = 3 → ctx ≠ 256 → r.home ≠ self s → mapOf r.routeEpoch s = some m →
      deviceCtx r.home m s = some k → ctxAt k s = some x → c.lanes ≤ x.lanes → (16 * ctx + r.tclass) ∈ s.sw.cut →
      (c.nextRx, unit) ∉ c.cut → tget s.ports.codecs k = none → s.sw.mirrors = [] → s.sw.samplers = [] →
      ∃ t y n i, exec (.cutItemArrive ctx c.nextRx unit 1 item) s = .next t ∧ t.sw.cells = s.sw.cells ++ [y] ∧ y.ctx = k ∧
        y.cutThrough = true ∧ y.origin = some (ctx, c.nextRx) ∧ y.items = [i] ∧ i.bytes = item ∧ ctxAt ctx t = some n ∧
        n.cut = c.cut ++ [(c.nextRx, unit)] ∧ t = { s with sw := t.sw, ports := t.ports }) ∧
    (∀ c, s.sw.cells = [c] → s.pilot.recs = [] → c.queue < 12336 → isData (queueClass c.queue) s = true →
      tgetD s.pilot.ks (queueClass c.queue) 4 = 0 → queueConfidential c.queue s = false →
      tgetD s.pilot.targets (queueClass c.queue) 0 = 0 →
      ∃ t r, exec .latencySample s = .next t ∧ t = { s with pilot := t.pilot } ∧ t.pilot.recs = [(c.queue, r)] ∧
        r.lastDepth = 1 ∧ r.maxDepth = 1 ∧ r.overTarget = 0)

/-! Running jobs. -/

/-- What reaches a running Crane job, here the only job: a segment of a live member, or of a partner device, is stored in its open
tile; one of another attempt is discarded and counted; a tile that waited opens; a member silent for its time, or noticed by
another device, is excluded from the next boundary on, when the member is taken out and the job stops under ABORT; a DONE with a
code stops the job at its holder and ends a guest's part (R142, R143, R151, R153 to R155, R158). -/
def Obligations.CraneMessages : Prop :=
  ∀ (j : Job) (d : CraneDesc) (p : CraneSt) (s : State), coreRuns s = true → s.acc.jobs = [j] → j.desc = .crane d →
    j.st = .crane p → j.phase = .running →
    let with_ := fun (q : CraneSt) => ({ j with st := .crane q } : Job)
    let ofJob := fun (g : Segment) => g.jobDevice = j.device ∧ g.jobSlot = j.slot ∧ g.seqLo = j.hdr.seq % 65536
    (∀ g, ofJob g → g.attempt = j.attempt → g.sender ∈ liveAt d p (self s) s → g.tile < tileCount d → g.format = d.inFormat →
      g.aux + g.data.length ≤ inputBytes d false g.tile → (tileOf p g.tile).opened = true → (tileOf p g.tile).sealed = false →
      (tileOf p g.tile).passed = false → contribOf (tileOf p g.tile) false g.sender = none →
      mayRetain d p g.tile (inputBytes d false g.tile) s = true → (∀ x ∈ p.waiting, x.tile ≠ g.tile) →
      ∃ t q c, exec (.contribReceive g) s = .next t ∧ t = { s with acc := { s.acc with jobs := [with_ q] } } ∧
        contribOf (tileOf q g.tile) false g.sender = some c ∧ c.pieces = [(g.aux, g.data)] ∧ c.members = 1 ∧
        c.poison = g.poison ∧ tget q.heard g.sender = some s.tide.count) ∧
    (∀ g, ofJob g → g.attempt = j.attempt → g.sender / 64 ∈ partDevices p → g.tile < tileCount d →
      g.format = partialFormat d → g.aux + g.data.length ≤ inputBytes d true g.tile → (tileOf p g.tile).opened = true →
      (tileOf p g.tile).sealed = false → (tileOf p g.tile).passed = false →
      contribOf (tileOf p g.tile) true (g.sender / 64) = none → mayRetain d p g.tile (inputBytes d true g.tile) s = true →
      (∀ x ∈ p.waiting, x.tile ≠ g.tile) →
      ∃ t q c, exec (.partialReceive g) s = .next t ∧ t = { s with acc := { s.acc with jobs := [with_ q] } } ∧
        contribOf (tileOf q g.tile) true (g.sender / 64) = some c ∧ c.pieces = [(g.aux, g.data)] ∧ c.members = g.members ∧
        q.heard = p.heard) ∧
    (∀ g, ofJob g → g.attempt = j.attempt → g.sender ∈ liveAt d p (self s) s → g.tile < tileCount d → g.format = d.inFormat →
      g.aux + g.data.length ≤ inputBytes d false g.tile → (tileOf p g.tile).opened = false → tileRoom d p g.tile s = false →
      (tileOf p g.tile).sealed = false → contribOf (tileOf p g.tile) false g.sender = none → exec (.contribReceive g) s =
        .next { s with acc := { s.acc with jobs := [with_ { p with heard := tput p.heard g.sender s.tide.count, waiting :=
          p.waiting ++ [{ g with kind := 2, srcDevice := false }] }] } }) ∧
    (∀ g, ofJob g → g.attempt ≠ j.attempt → ∃ t, exec (.contribReceive g) s = .next t ∧
      t = { s with acc := { s.acc with jobs := [with_ { p with discarded := p.discarded + 1 }] }, tel := t.tel } ∧
      (tgetD t.tel.reasons 0x0A (0, 0, 0)).2.2 = 0x0A07) ∧
    (∀ slot tile g, jobNo slot s = keyOf j → p.waiting = [g] → g.tile = tile → tileRoom d p tile s = true →
      mayRetain d p tile (inputBytes d g.srcDevice tile) s = true →
      ∃ t q, exec (.tileOpen slot tile) s = .next t ∧ t.acc.jobs = [with_ q] ∧ q.waiting = [] ∧
        (tileOf q tile).opened = true ∧ t.man = s.man ∧ t.stage = s.stage) ∧
    (∀ slot tile, jobNo slot s = keyOf j → tileRoom d p tile s = false → exec (.tileOpen slot tile) s = .next s) ∧
    (∀ slot host, jobNo slot s = keyOf j → reachesRing s → host ∈ liveAt d p (self s) s → host ∉ p.excluded → owesTile d p host = true →
      tgetD p.heard host j.startTide + memberTides d ≤ s.tide.count →
      ∃ t x num, exec (.memberTimeout slot host) s = .next t ∧
        t.acc.jobs = [with_ { p with excluded := insertSorted host p.excluded, firstDead := some (p.firstDead.getD host) }] ∧
        x ∈ t.ring.tx ∧
        x.msg = .control (self s) num ctlExclusion [j.device, j.slot, host] ∧
        (tgetD t.tel.reasons 0x0A (0, 0, 0)).2.2 = 0x0A06) ∧
    (∀ slot host, jobNo slot s = keyOf j → host ∈ p.live → exec (.exclusionNotice slot host) s =
      .next { s with acc := { s.acc with jobs :=
        [with_ { p with excluded := insertSorted host p.excluded, firstDead := some (p.firstDead.getD host) }] } }) ∧
    (∀ slot host, jobNo slot s = keyOf j → host ∈ p.excluded → host ∈ p.live → isBroadcast d = false → d.policy = 0 →
      ∃ t q, exec (.exclusionApply slot host) s = .next t ∧
        t = { s with acc := { s.acc with jobs := [{ with_ q with phase := .stopping 0x0A05 }] } } ∧
        q.live = p.live.erase host) ∧
    (∀ slot host, jobNo slot s = keyOf j → host ∈ p.excluded → host ∈ p.live → isBroadcast d = false → d.policy ≠ 0 →
      p.tiles = [] → ∃ t q, exec (.exclusionApply slot host) s = .next t ∧
        t = { s with acc := { s.acc with jobs := [with_ q] } } ∧ q.live = p.live.erase host ∧ q.tiles = []) ∧
    (∀ g, ofJob g → g.attempt = j.attempt → g.kind = 6 → j.guest = none → g.aux ≠ 0 → exec (.resultReceive g) s =
      .next { recordReason g.aux s with acc := { s.acc with jobs := [{ j with phase := .stopping g.aux }] } }) ∧
    (∀ g v, ofJob g → g.attempt = j.attempt → g.kind = 6 → j.guest = some v →
      ∃ t, exec (.resultReceive g) s = .next t ∧ t.acc.jobs = [] ∧ t.man = s.man ∧ t.stage = s.stage)

/-- An accepted job whose turn has come takes the next attempt number with its ATTEMPT record on its way to the buddy; a read lands
with its data or as poison; a piece of a copy from Stage to Stage that retires stands at its destination; a job that is complete,
or stopped with nothing outstanding, has COMPLETE logged with its code, on its way to the buddy (R361, R362, R365, R415). The job
is the device's only one. -/
def Obligations.JobAttempts : Prop :=
  ∀ (slot : Nat) (j : Job) (b : Nat) (s : State), coreRuns s = true → s.acc.jobs = [j] → jobNo slot s = keyOf j →
    s.acc.buddy = some b →
    let logged := fun (kind : Nat) (t : State) => ∃ x ∈ t.acc.tx, x.dest = b ∧ ∃ r, x.record = some r ∧ r.kind = kind ∧
      r.jobSlot = j.slot
    (j.phase = .accepted → charterState (charterOf j) s ≠ 2 → acceptSent j s = false → j.attempts < 127 →
      ∃ t, exec (.attemptStart slot none) s = .next t ∧
        t.acc.jobs = [{ j with phase := .starting, attempt := nextAttempt j.attempt, attempts := j.attempts + 1 }] ∧
        logged 2 t ∧ t.man = s.man ∧ t.stage = s.stage) ∧
    (∀ d p, j.desc = .copy d → j.st = .copy p → j.guest = none → (∃ c, j.phase = .stopping c) → writesOut j s = [] →
      ∃ t r c, exec (.engineJobStop slot) s = .next t ∧ j.phase = .stopping c ∧
        t.acc.jobs = [{ j with phase := .completing, reason := c, result := r }] ∧ logged 4 t ∧ t.stage = s.stage) ∧
    (∀ d p, j.desc = .copy d → j.st = .copy p → jobDone j s = true →
      ∃ t r, exec (.jobComplete slot) s = .next t ∧
        t.acc.jobs = [{ j with phase := .completing, reason := 0, result := r }] ∧ logged 4 t ∧ t.stage = s.stage) ∧
    (∀ d p o data, j.desc = .copy d → j.st = .copy p → j.phase = .running → p.copied < d.bytes → s.ing.outst = [o] →
      o.host = jobHost (keyOf j) → o.opcode = opRead → o.sent = true → o.req.length = 64 → data.length = 64 →
      isPoison data = false →
      (∃ t k, exec (.engineReadResponse slot o.req.address true data [] []) s = .next t ∧ k ∈ t.acc.jobs ∧
        { engine := o.engine, address := o.req.address, poison := true, data := [] } ∈ k.landing ∧ t.stage = s.stage ∧ t.man = s.man) ∧
      ∃ t k, exec (.engineReadResponse slot o.req.address false data [] []) s = .next t ∧ k ∈ t.acc.jobs ∧
        { engine := o.engine, address := o.req.address, poison := false, data := data } ∈ k.landing ∧ t.stage = s.stage ∧ t.man = s.man) ∧
    (∀ (d : CopyDesc) p src dst, j.desc = .copy { d with spaces := 0, bytes := 64, srcAddr := 64 * src, dstAddr := 64 * dst } →
      j.st = .copy p → j.phase = .running → p.copied = 0 → j.awaitFence ≠ [] → Memory.wf s.stage →
      s.sec.stagePages = [] → isConfidential d.charter s = false → isPoison (mread s.stage (64 * src) 64) = false →
      mayUse .stream (keyOf j) 64 s = true →
      ∃ t, exec (.sliceRetire .stream 0 slot (.piece 0 64) [] []) s = .next t ∧
        t.acc.jobs = [{ j with st := .copy { p with copied := 64 } }] ∧
        mread t.stage (64 * dst) 64 = mread s.stage (64 * src) 64 ∧
        (∀ a, a < 64 * dst ∨ 64 * dst + 64 ≤ a → mread1 t.stage a = mread1 s.stage a) ∧ t.man = s.man ∧ t.ing = s.ing)

/-- A stream schedule, the device's only job: a block of an uncompressed form lands in its slot, a form that is no longer
addressed is unavailable, a clean full form is delivered when its deadline can be met, a delivery whose bytes have gone closes
and the turn passes to the next layer or pass, and a full delivery with a poisoned block gives way to a clean shadow in time
(R259 to R263, R265, R267). -/
def Obligations.StreamDeliveries : Prop :=
  ∀ (slot : Nat) (j : Job) (d : StreamDesc) (p : StreamSt) (s : State), coreRuns s = true → s.acc.jobs = [j] →
    jobNo slot s = keyOf j → j.desc = .stream d → j.st = .stream p → j.phase = .running → j.guest = none →
    let dl := deadlineOf j d p
    let now := s.tide.count
    let progress := fun (t : State) (q : StreamSt) => ∃ k ∈ t.acc.jobs, k.st = .stream q ∧ k.desc = .stream d
    (∀ g i e data f, fetching j d p = some (g, false, i) → formAt j d g false = f → f.2.2.2 = false → s.copies = [] →
      entryHolding d.charter (f.1 + 65536 * i) s = some e →
      slotHead f + 65536 * i + blockRaw f.2.2.1 i ≤ slotSize d false →
      ∃ t q b, exec (.prefetchBlockLand slot (g % d.layerCount) false i (entryOf e s).generation false [] data) s = .next t ∧
        progress t q ∧ b ∈ (formSt q g false).blocks ∧ b.index = i ∧ b.bad = false ∧ b.stored = blockRaw f.2.2.1 i ∧
        t.man = s.man) ∧
    (∀ g shadow, (g, shadow) ∈ fetchOrder j d p → p.delivery = none →
      formRangeOk d.charter (formAt j d g shadow) s = false →
      ∃ t q, exec (.formRetranslate slot (g % d.layerCount) shadow) s = .next t ∧ progress t q ∧
        (formSt q g shadow).available = false ∧ t.man = s.man ∧ t.stage = s.stage) ∧
    (p.delivery = none → passesDone d p = false → dl ≤ now + d.leadTides → p.earliest ≤ now →
      formClean j d p (formNo d p) false s = true →
      now + deliveryTime d (layerEnt j.attach p.layer).fullRaw s ≤ dl →
      ∃ t q x r, exec (.layerChoice slot) s = .next t ∧ progress t q ∧ q.delivery = some x ∧ x.shadow = false ∧
        x.opened = now ∧ x.deadline = dl ∧ x.bytes = [] ∧ Out.stream r ∈ t.out ∧ r.kind = 1 ∧ r.layer = p.layer ∧
        r.shadow = false ∧ t.man = s.man ∧ t.stage = s.stage) ∧
    (p.delivery = none → now < p.earliest → exec (.layerChoice slot) s = .next s) ∧
    (∀ x, p.delivery = some x → x.bytes.length = (formAt j d (formNo d p) x.shadow).2.2.1 → now ≤ x.deadline →
      s.acc.buddy = none → ∃ t q r, exec (.deliveryClose slot) s = .next t ∧ progress t q ∧ q.delivery = none ∧
        (q.pass, q.layer) = (if p.layer + 1 = d.layerCount then (p.pass + 1, 0) else (p.pass, p.layer + 1)) ∧
        q.earliest = now + 1 ∧ q.full = p.full + b2n !x.shadow ∧ q.late = p.late ∧ Out.stream r ∈ t.out ∧ r.kind = 3 ∧
        r.aux = crc32c x.bytes ∧ t.man = s.man ∧ t.stage = s.stage) ∧
    (∀ x, p.delivery = some x → x.shadow = false → x.poisonAt.map (fun t => t + 1) ≠ some now →
      exec (.streamAbandoned slot) s = .next s) ∧
    (∀ x t0, p.delivery = some x → x.shadow = false → x.poisonAt = some t0 → now = t0 + 1 → formClean j d p (formNo d p) true s = true →
      now + deliveryTime d (layerEnt j.attach p.layer).shadowRaw s ≤ x.deadline →
      ∃ t q y r, exec (.streamAbandoned slot) s = .next t ∧ progress t q ∧ q.delivery = some y ∧ y.shadow = true ∧
        y.deadline = x.deadline ∧ q.abandoned = p.abandoned + 1 ∧ Out.stream r ∈ t.out ∧ r.kind = 4 ∧ t.man = s.man ∧
        t.stage = s.stage)

/-! Redundancy, losses, the logbook's messages, keys, lighters and SPDM. -/

/-- The third request to a module unanswered for 20 µs within 1 ms fails the module, with a notice on the ring; a notice waits for
the next boundary, where the members it names are FAILED in their group; under M2 a formatting writes the next row's zeros to both
members and ends with the keeper's own change, a rebuild reads the next row within its rate and ends when every device has
reported, and a resync reads the next row and ends behind the last (R334, R336, R340, R344). -/
def Obligations.ModulesAndRows : Prop :=
  ∀ s : State, coreRuns s = true →
    let reads := fun (t : State) (m : GroupMember) (kind place row : Nat) => ∃ q, t.home.trays = [q] ∧ q.device = m.device ∧
      q.tray = m.tray ∧ q.module = m.module ∧ q.offset = 64 * row ∧ q.write = false ∧ q.key = rowKey kind place row
    (∀ (r : TrayReq) u v, s.home.trays = [r] → r.late = false → reachesRing s → r.device = self s → u ≤ s.refCycles → v ≤ s.refCycles →
      s.refCycles < u + msCycles → s.refCycles < v + msCycles →
      s.home.timeouts = [(modNum (self s) r.tray r.module, u), (modNum (self s) r.tray r.module, v)] →
      moduleFailed (self s) r.tray r.module s = false →
      ∃ t x num, exec (.trayRequestTimeout r.id) s = .next t ∧ moduleFailed (self s) r.tray r.module t = true ∧
        t.home.failNotices = s.home.failNotices ++ [(self s, r.tray, r.module, 1)] ∧ x ∈ t.ring.tx ∧
        x.msg = .control (self s) num ctlModuleFailed [self s, r.tray, r.module, 1]) ∧
    (∀ r : TrayReq, s.home.trays = [r] → r.device = self s → s.home.timeouts = [] →
      (r.late = false → exec (.trayRequestTimeout r.id) s = .next { s with home := { s.home with
        timeouts := [(modNum (self s) r.tray r.module, s.refCycles)], trays := [{ r with late := true }] } }) ∧
      (r.late = true → exec (.trayRequestTimeout r.id) s = .next s)) ∧
    (∀ d t m n, exec (.moduleFailedNotice d t m n) s =
      .next { s with home := { s.home with failNotices := s.home.failNotices ++ [(d, t, m, n)] } }) ∧
    (∀ (g : Group) d t m, s.man.groups = [(g.groupId, g)] → s.home.trays = [] → s.home.failNotices = [(d, t, m, 1)] →
      tget s.home.formats g.groupId = none →
      ∃ u k, exec .groupDegraded s = .next u ∧ tget u.man.groups g.groupId = some k ∧ k.anchor = g.anchor ∧
        k.members = (g.members.map fun x => if noticeNames (d, t, m, 1) x then { x with state := 1 } else x) ∧
        u.home.failNotices = [] ∧ moduleFailed d t m u = true ∧ u.man.entries = s.man.entries) ∧
    (∀ (g : Group) a b limit f, s.home.queues = [] → s.home.trays = [] → tget s.home.formats g.groupId = some f →
      tget s.man.groups g.groupId = some g → g.formatting = some limit → g.mode = 1 → g.members = [a, b] →
      (f.next < rowsBelow g limit → 20 * tau s < f.spent + 64 → exec (.formatStep g.groupId 1) s = .next s) ∧
      (f.next < rowsBelow g limit → f.spent + 64 ≤ 20 * tau s → ∃ t, exec (.formatStep g.groupId 1) s = .next t ∧
        tget t.home.formats g.groupId = some { next := f.next + 1, spent := f.spent + 64 } ∧ t.man = s.man ∧
        (t.home.trays.map fun q => (q.device, q.tray, q.module, q.offset, q.write)) =
          [(a.device, a.tray, a.module, 64 * f.next, true), (b.device, b.tray, b.module, 64 * f.next, true)]) ∧
      (rowsBelow g limit ≤ f.next → s.man.issued = [] → ∃ t, exec (.formatDone g.groupId) s = .next t ∧
        tget t.home.formats g.groupId = none ∧ ∃ i ∈ t.man.issued, i.hdr = none ∧ i.number = s.man.nextChange ∧
        i.change = .formatEnd g.groupId limit true ∧ i.atTide = s.tide.count + 16)) ∧
    (∀ (g : Group) (r : Rebuild) a b lo hi c, s.home.queues = [] → s.home.trays = [] → s.home.rebuilds = [r] →
      r.groupId = g.groupId → r.ranges = [(lo, hi, c)] → c < hi → tget s.man.groups g.groupId = some g → g.mode = 1 → g.members = [a, b] →
      a.state = 0 → b.state = 2 → moduleFailed a.device a.tray a.module s = false →
      (r.spent + 64 ≤ r.rate * tau s → ∃ t, exec (.rebuildStep g.groupId) s = .next t ∧ reads t a 2 g.groupId c ∧
        t.home.rebuilds = s.home.rebuilds ∧ t.man = s.man) ∧
      (r.rate * tau s < r.spent + 64 → exec (.rebuildStep g.groupId) s = .next s)) ∧
    (∀ g r d, s.home.rebuilds = [r] → r.groupId = g → exec (.rebuildDoneReport g d) s =
      .next { s with home := { s.home with rebuilds := [{ r with reported := insertSorted d r.reported }] } }) ∧
    (∀ (g : Group) (r : Rebuild), rebuildOf g.groupId s = some r → tget s.man.groups g.groupId = some g →
      (∀ d ∈ rebuilders g s, d ∈ r.reported) →
      ∃ t k, exec (.rebuildDone g.groupId) s = .next t ∧ rebuildOf g.groupId t = none ∧
        tget t.man.groups g.groupId = some k ∧ (∀ m, k.members[m]? = (g.members[m]?).map fun x =>
          if m = r.member then { x with state := 0 } else x) ∧ t.man.entries = s.man.entries ∧
        t.home.trays = s.home.trays) ∧
    (∀ (g : Group) r d, rebuildOf g.groupId s = some r → tget s.man.groups g.groupId = some g → d ∈ rebuilders g s →
      d ∉ r.reported → exec (.rebuildDone g.groupId) s = .next s) ∧
    (∀ (g : Group) a b entry c, let e := entryOf entry s
      let last := rowOf (layOf e s) (extentBytes e.sizeCode - 64)
      s.home.queues = [] → s.home.trays = [] → tget s.home.resyncs entry = some (c, []) → e.homeDevice = self s →
      e.redundancy ≠ 0 → groupAt (modAddr e.baseFpa) s = some g → g.mode = 1 → g.members = [a, b] → a.state = 0 →
      moduleFailed a.device a.tray a.module s = false →
      (c ≤ last → ∃ t, exec (.resyncStep entry) s = .next t ∧ reads t a 3 entry c ∧ t.man = s.man) ∧
      (last < c → exec (.resyncStep entry) s =
        .next { s with home := { s.home with resyncs := tdel s.home.resyncs entry } }))

/-- A member writes a heartbeat in every 16th tide, and one received is noted with its tide; the master declares a device not heard
for 32 tides lost, names the boundary 4 tides on and raises DEVICE_LOST; there a read outstanding to it is refused with HOME_LOST
and the device is a dead agent; a dead host's windows close; a stale reset request is dropped, one for a device not lost counted,
and one for a lost device resets the core (R58, R125, R342, R343, R345, R452). -/
def Obligations.Losses : Prop :=
  ∀ s : State,
    let known := tget s.ring.losses (self s)
    (onRing s = true → deviceMember (self s) s = true → s.tide.count % 16 = 0 → (isMaster s = true → reachesRing s) →
      ∃ t x, exec .heartbeatSend s = .next t ∧ t = { s with ring := t.ring } ∧ x ∈ t.ring.tx ∧
        x.msg = .control (self s) s.ring.nextMsg ctlHeartbeat [self s] ∧
        tget t.ring.heartbeats (self s) = some s.tide.count ∧ t.ring.losses = s.ring.losses) ∧
    (s.tide.count % 16 ≠ 0 → exec .heartbeatSend s = .next s) ∧
    (∀ d, coreRuns s = true → deviceMember d s = true →
      ∃ t, exec (.heartbeatReceive d) s = .next t ∧ t = { s with ring := { s.ring with
        heartbeats := t.ring.heartbeats, spanReports := tdel s.ring.spanReports d } } ∧
        tget t.ring.heartbeats d = some s.tide.count) ∧
    (∀ d, deviceMember d s = false → exec (.heartbeatReceive d) s = .next s) ∧
    (∀ d h, coreRuns s = true → isMaster s = true → deviceMember d s = true → d ≠ self s → tget s.ring.losses d = none →
      tget s.ring.heartbeats d = some h →
      (h + 32 ≤ s.tide.count → reachesRing s → ∃ t x num, exec (.heartbeatTimeout d) s = .next t ∧
        tget t.ring.losses d = some (s.tide.count + 4) ∧ x ∈ t.ring.tx ∧
        x.msg = .control (self s) num ctlLoss [d, s.tide.count + 4] ∧
        (tgetD t.tel.reasons 9 (0, 0, 0)).2.2 = 0x0908 ∧ t.man = s.man ∧ t.home = s.home ∧ t.ing = s.ing ∧ t.acc = s.acc) ∧
      (s.tide.count < h + 32 → tget s.ring.spanReports d = none → exec (.heartbeatTimeout d) s = .next s)) ∧
    (∀ d b o, coreRuns s = true → s.ring.losses = [(d, b)] → d ∉ s.ing.lostHomes → d ≠ self s →
      (s.tide.count < b → exec .lossBoundary s = .next s) ∧
      (b ≤ s.tide.count → s.man.groups = [] → s.man.issued = [] → s.home.trays = [] → s.home.rounds = [] →
        s.home.rebuilds = [] → s.home.seals = [] → s.acc.jobs = [] → s.acc.waiting = [] → s.acc.buddy ≠ some d →
        buddyOf d s.ing.lostHomes s.man.comp ≠ some (self s) → (∀ p ∈ s.ports.ctxs, p.2.role ≠ 3) → s.ing.outst = [o] →
        o.sent = true → o.req.home = d → o.opcode = opRead → o.host < 4096 → s.ing.held = [] → s.ing.waiting = [] →
        s.ing.reads = [] → s.ing.atoms = [] → hostAlive o.host s = true → charterState o.req.charter s ≠ 2 →
        ∃ t a, exec .lossBoundary s = .next t ∧ d ∈ t.ing.lostHomes ∧ d ∈ t.home.dead ∧ t.ing.outst = [] ∧
          Out.response o.host a ∈ t.out ∧ a.opcode = opRefuse ∧ a.reason = 0x0625 ∧ a.tag = o.tag ∧
          t.ing.uncertain = s.ing.uncertain ∧ t.man = s.man ∧ t.stage = s.stage)) ∧
    (∀ host, coreRuns s = true → ownHost host s = true → hostAlive host s = true →
      exec (.hostDeath host) s = .next s) ∧
    (∀ host v r t0 x, coreRuns s = true → ownHost host s = false → sealSrc host s = some x → x.wins = [v] →
      v.held = some (r, t0) → r.opcode < opMark →
      ∃ t a, exec (.hostDeath host) s = .next t ∧ winOf host v.window t = none ∧ Out.answer a ∈ t.out ∧
        a.opcode = opRefuse ∧ a.reason = 0x0610 ∧ a.tag = r.tag ∧ t.man = s.man ∧ t.ing = s.ing) ∧
    (∀ host, coreRuns s = true → ownHost host s = true → hostAlive host s = false → s.ing.filter = [] → s.acc.jobs = [] →
      ∃ t, exec (.hostDeath host) s = .next t ∧ host ∈ t.ing.deadHosts ∧ t.man = s.man ∧ t.ing.outst = s.ing.outst) ∧
    (∀ e, compCurrent e s = false → exec (.resetRequest (self s) e) s = .next s) ∧
    (∀ d e, d ≠ self s → exec (.resetRequest d e) s = .next s) ∧
    (∀ e, compCurrent e s = true → known = none → exec (.resetRequest (self s) e) s =
      .next { s with ring := { s.ring with resetDiscards := s.ring.resetDiscards + 1 } }) ∧
    (∀ e, compCurrent e s = true → known ≠ none → s.isl.held = false → s.isl.resetState ≠ .cold →
      ∃ t, exec (.resetRequest (self s) e) s = .next t ∧ t.isl.resetState = .warm ∧ t.isl.bypass = .closed ∧
        t.isl.cause = 0x0908 ∧ t.stage = s.stage ∧ t.sec.latch = s.sec.latch ∧ t.acc.log = s.acc.log)

/-- A record that arrives whole stands in the buddy's logbook and is acknowledged, again for a repeat; an acknowledged record is
no longer awaited, and the offer of one that finds no room fails with 0x1304; RECEIPT_CLEAR empties the job's receipt and frees
its fence entry and is answered; the last CLEAR_ACK frees the job's slot; an unanswered message goes out again, after three
resends once in 64 tides; the replay of the logbook takes an accepted job up again, and that of a device declared lost discards
its own records (R85, R351 to R355, R366 to R368, R374). -/
def Obligations.LogbookMessages : Prop :=
  ∀ s : State, coreRuns s = true → s.acc.waiting = [] →
    let answers := fun (t : State) (dev kind q : Nat) (full : Bool) (body : Bytes) => ∃ x ∈ t.ring.tx,
      x.msg = .accept kind (self s) dev s.ring.nextMsg q 0 full body
    (∀ dev msg (r : LogRec), s.acc.log = [] → s.acc.frags = [] → (dev, msg) ∉ s.ring.handled → fragments r = 1 →
      r.kind ≠ 6 → r.kind ≠ 7 → r.kind ≠ 15 → s.acc.logTail + recordSize r ≤ 2 ^ 26 →
      ∃ t, exec (.replica dev msg 0 true r) s = .next t ∧ t.acc.log = [{ r with replica := true }] ∧
        t.acc.logTail = (s.acc.logTail + recordSize r) % 2 ^ 26 ∧ t.acc.frags = [] ∧ (dev, msg) ∈ t.ring.handled ∧
        answers t dev 2 (r.logSeq % 2 ^ 32) false [] ∧ t.acc.jobs = s.acc.jobs ∧ t.man = s.man ∧ t.home = s.home) ∧
    (∀ dev msg (r : LogRec), s.acc.frags = [] → (dev, msg) ∈ s.ring.handled → fragments r = 1 → r.kind ≠ 1 →
      ∃ t, exec (.replica dev msg 0 true r) s = .next t ∧ t = { s with ring := t.ring } ∧
        answers t dev 2 (r.logSeq % 2 ^ 32) false []) ∧
    (∀ x r, s.acc.tx = [x] → x.record = some r → s.acc.jobs = [] →
      exec (.replicaAck x.dest (r.logSeq % 2 ^ 32) false) s = .next { s with acc := { s.acc with
        tx := [], rebuddy := s.acc.rebuddy.filter fun q => q != r.logSeq } }) ∧
    (∀ x r j, s.acc.tx = [x] → x.record = some r → r.kind = 1 → s.acc.jobs = [j] → ofJob r j = true → j.phase = .offered →
      ∃ t, exec (.replicaAck x.dest (r.logSeq % 2 ^ 32) true) s = .next t ∧ t.acc.jobs = [] ∧
        (tgetD t.tel.reasons 0x13 (0, 0, 0)).2.2 = 0x1304 ∧ t.acc.queues = s.acc.queues ∧ t.man = s.man ∧
        t.home = s.home) ∧
    (∀ dev msg jd js,
      ∃ t, exec (.receiptClear dev msg jd js) s = .next t ∧ t = { s with ring := t.ring, home := t.home } ∧
        answers t dev 4 0 false (clearBody jd js) ∧
        ((dev, msg) ∈ s.ring.handled → t.home = s.home) ∧
        ((dev, msg) ∉ s.ring.handled → (dev, msg) ∈ t.ring.handled ∧ t.home = { s.home with
          receipts := tdel s.home.receipts (jobKey jd js), fences := tdel s.home.fences (jobKey jd js) })) ∧
    (∀ home j, s.acc.jobs = [j] → s.acc.tx = [] → j.phase = .retiring →
      (j.clears = [home] → j.device = self s → exec (.clearAck home j.device j.slot) s = .next { s with acc := { s.acc with
        jobs := [], slots := tput s.acc.slots j.slot (s.tide.count, j.attempt) } }) ∧
      (∀ other, j.clears = [home, other] → other ≠ home → exec (.clearAck home j.device j.slot) s =
        .next { s with acc := { s.acc with jobs := [{ j with clears := [other] }] } })) ∧
    (∀ x c, s.acc.tx = [x] → x.record = none → x.clear = some c →
      (x.resends < 3 → ∃ t y, exec (.replicaResendTimeout 0) s = .next t ∧ y ∈ t.ring.tx ∧
        t = { s with ring := t.ring, acc := { s.acc with
          tx := [{ x with resends := x.resends + 1, sentTide := s.tide.count }] } } ∧
        y.msg = .accept 3 (self s) x.dest x.msgId 0 0 false (clearBody c.1 c.2)) ∧
      (3 ≤ x.resends → exec (.replicaResendTimeout 0) s = .next s) ∧
      (3 ≤ x.resends → x.sentTide + 64 ≤ s.tide.count → ∃ t y, exec .asyncResend s = .next t ∧ y ∈ t.ring.tx ∧
        t = { s with ring := t.ring, acc := { s.acc with tx := [{ x with sentTide := s.tide.count }] } } ∧
        y.msg = .accept 3 (self s) x.dest x.msgId 0 0 false (clearBody c.1 c.2)) ∧
      (s.tide.count < x.sentTide + 64 → exec .asyncResend s = .next s)) ∧
    (∀ r : LogRec, s.isl.bypass = .open → wasLost s = false → s.acc.jobs = [] → s.acc.log = [r] → r.replica = false →
      r.owner = self s → r.kind = 1 → r.crcOk = true →
      ∃ t j, exec .logbookReplay s = .next t ∧ t.acc.jobs = [j] ∧ j.slot = r.jobSlot ∧ j.device = self s ∧
        j.phase = .accepted ∧ j.attempts = 0 ∧ j.command = r.command ∧ t.acc.log = [r] ∧
        t.acc.buddy = buddyOf (self s) s.ing.lostHomes s.man.comp ∧ t.man = s.man ∧ t.stage = s.stage) ∧
    (s.isl.bypass = .open → wasLost s = true → exec .logbookReplay s = .next { s with acc := { s.acc with
      buddy := buddyOf (self s) s.ing.lostHomes s.man.comp, log := s.acc.log.filter fun r => r.replica, queues := [],
      jobs := [], waiting := [] } }) ∧
    (s.isl.bypass ≠ .open → exec .logbookReplay s = .next s)

/-- Keys: a rotation's sweep takes the charter's next page in step of its credit, in pool by reading the page, in Stage by marking
it with the current epoch; the last done report has the issuer announce the boundary 4 tides on, where the old slot's key is
zeroized and a removed charter leaves nothing behind, its Stage pages the ciphertext that they were; a fresh harbour key answers the waiting notice ready and a failed agreement
not ready; a page map from a former home replaces the entry's pages (R384, R390, R395, R396, R398). -/
def Obligations.KeysAndPages : Prop :=
  ∀ (c : Nat) (s : State), coreRuns s = true →
    let told := fun (t : State) (code : Nat) (args : List Nat) => ∃ x ∈ t.ring.tx, ∃ n, x.msg = .control (self s) n code args
    let b := s.tide.count + 4
    (∀ x entry page, sweepOf c false s = some x → 4096 ≤ x.credit → entry < 2 ^ 19 → nextPage c s = some (entry, page) →
      s.home.queues = [] → s.home.trays = [] → s.home.pageWait = [] → tget s.home.resyncs entry = none →
      (entryOf entry s).redundancy = 0 → pageEpoch entry page s ≠ none →
      (let m := modParts (modAddr (entryOf entry s).baseFpa)
       moduleFailed m.1 m.2.1 m.2.2 s = false) →
      ∃ t q, exec (.sweepPageStep c entry page) s = .next t ∧ sweepOf c false t = some { x with credit := x.credit - 4096 } ∧
        q ∈ t.home.trays ∧ q.write = false ∧ q.key = 2 ^ 60 + 2 ^ 56 + entry * 2 ^ 36 + page ∧ t.man = s.man) ∧
    (∀ x entry page l, s.sec.sweeps = [x] → x.charter = c → x.removal = false → x.reported = true → 4096 ≤ x.credit →
      2 ^ 19 ≤ entry → oldStagePages c s = page :: l → exec (.sweepPageStep c entry page) s = .next { s with sec := { s.sec with
        stagePages := tput s.sec.stagePages page (c, epochOf c s), sweeps := [{ x with credit := x.credit - 4096 }] } }) ∧
    (∀ x entry page, sweepOf c false s = some x → x.credit < 4096 → exec (.sweepPageStep c entry page) s = .next s) ∧
    (∀ i rate key d, s.man.issued = [i] → i.change = .charterRotate c rate key → i.applied = true → i.endAt = none →
      d ∉ i.reports →
      (∀ e, e ∈ i.awaiting → e ≠ d → e ∉ i.reports → e ∉ s.ing.lostHomes → exec (.rotationDoneReport c d) s =
        .next { s with man := { s.man with issued := [{ i with reports := insertSorted d i.reports }] } }) ∧
      (i.awaiting = [d] → reachesRing s → ∃ t, exec (.rotationDoneReport c d) s = .next t ∧ t.man.issued =
          [{ i with reports := insertSorted d i.reports, endAt := some b }] ∧ told t ctlKeyBoundary [c, b, 0] ∧
        (∀ y ∈ t.sec.sweeps, y.charter = c → y.removal = false → y.endAt = some b) ∧ t.sec.keys = s.sec.keys)) ∧
    (∀ x ch at_, sweepOf c false s = some x → tget s.man.charters c = some ch → x.endAt = some at_ → s.man.issued = [] →
      (s.tide.count < at_ → exec (.rotationComplete c) s = .next s) ∧
      (at_ ≤ s.tide.count → ∃ t k, exec (.rotationComplete c) s = .next t ∧ tget t.man.charters c = some k ∧
        k.rotating = false ∧ k.epoch = ch.epoch ∧ k.state = ch.state ∧
        (ch.epoch % 2 = 1 → k.slot0 = 0 ∧ k.slot1 = ch.slot1 ∧ t.sec.keys = tdel s.sec.keys (2 * c)) ∧
        (ch.epoch % 2 = 0 → k.slot1 = 0 ∧ k.slot0 = ch.slot0 ∧ t.sec.keys = tdel s.sec.keys (2 * c + 1)) ∧
        sweepOf c false t = none ∧ t.stage = s.stage ∧ t.home = s.home)) ∧
    (∀ i d p q r p' q' r', s.man.issued = [i] → i.change = .charterRevoke c → i.applied = true → i.endAt = none →
      d ∉ i.reports → i.tally = [p, q, r] → i.awaiting = [d] → reachesRing s → ∃ t, exec (.removalDoneReport c d p' q' r') s = .next t ∧
        t.man.issued = [{ i with reports := insertSorted d i.reports, endAt := some b, tally := [p + p', q + q', r + r'] }] ∧
        told t ctlKeyBoundary [c, b, 1] ∧ t.man.charters = s.man.charters ∧ t.sec.keys = s.sec.keys) ∧
    (∀ x at_, sweepOf c true s = some x → x.endAt = some at_ →
      (s.tide.count < at_ → exec (.removalComplete c) s = .next s) ∧
      (at_ ≤ s.tide.count → s.man.issued = [] → ∃ t, exec (.removalComplete c) s = .next t ∧
        tget t.man.charters c = none ∧ tget t.man.members c = none ∧ tget t.sec.keys (2 * c) = none ∧
        tget t.sec.keys (2 * c + 1) = none ∧ (∀ y ∈ t.sec.stagePages, y.2.1 ≠ c) ∧ (∀ y ∈ t.sec.sweeps, y.charter ≠ c) ∧
        t.stage = (lockStage c s).stage ∧ t.man.entries = s.man.entries ∧ t.acc = s.acc ∧ t.ing = s.ing)) ∧
    (∀ key, s.man.notices = [] → exec (.harbourKeyAgreement true key) s =
      .next { s with sec := { s.sec with harbourKey := some (fit 32 key) } }) ∧
    (∀ n key, s.man.notices = [n] → n.committed = false → n.ready = false → needsHarbour n.change s = true →
      n.id.issuer ≠ self s →
      (∃ t, exec (.harbourKeyAgreement true key) s = .next t ∧ t.sec = { s.sec with harbourKey := some (fit 32 key) } ∧
        t.man.notices = [{ n with ready := true }] ∧ told t ctlReady [n.id.issuer, n.id.number]) ∧
      (∃ t, exec (.harbourKeyAgreement false key) s = .next t ∧ t = { s with ring := t.ring } ∧
        told t ctlNotReady [n.id.issuer, n.id.number, 0x100E])) ∧
    (∀ entry p v, entry ∈ s.home.pageWait →
      ∃ t, exec (.pageMapTransfer entry [(p, v)]) s = .next t ∧ t = { s with home := { s.home with
          pages := t.home.pages, pageWait := s.home.pageWait.filter fun x => x != entry } } ∧
        tget t.home.pages (2 ^ 18 * entry + p % 2 ^ 18) = some (v % 16) ∧
        (∀ y ∈ s.home.pages, y.1 / 2 ^ 18 ≠ entry → y ∈ t.home.pages) ∧
        ∀ y ∈ t.home.pages, y.1 / 2 ^ 18 = entry → y = (2 ^ 18 * entry + p % 2 ^ 18, v % 16)) ∧
    (∀ entry l, entry ∉ s.home.pageWait → exec (.pageMapTransfer entry l) s = .next s)

/-- CONFIDENTIAL.ENTER is refused with 0x000A unless it came through a lighter, else entry is due at the next boundary, where the
latch and the mode are set and measured; a record with an unexpected counter is discarded and counted, the first one binds its session, an
authentic one advances the counter, and a command in it is taken; a failed read is tried again, and the eighth failure in a row
disables the lighter with 0x1203 (R380, R393, R417, R446). Content types 2, 3 and reserved are taken without effect (log 14). -/
def Obligations.ConfidentialModeAndLighters : Prop :=
  ∀ s : State, coreRuns s = true →
    (∀ h : CmdHdr, fwRuns s = true →
      (h.viaLighter = true → exec (.confidentialEnter h) s =
        .next { s with sec := { s.sec with enterAt := some (s.tide.count + 1, h) } }) ∧
      (h.viaLighter = false → exec (.confidentialEnter h) s = .next (result h 0x0E01 0x000A [] s))) ∧
    (∀ at_ h, s.sec.enterAt = some (at_, h) →
      (s.tide.count < at_ → exec .confidentialEntry s = .next s) ∧
      (at_ ≤ s.tide.count → s.hm.boxes = [] → ∃ t, exec .confidentialEntry s = .next t ∧
        answerFrame (measureSecurity { s with sec := { s.sec with enterAt := none, latch := true, confidential := true } }) t)) ∧
    (∀ l content id ctr auth (d : Bytes),
      let x := lighterOf l s
      let units := cdiv (48 + roundUp d.length 16) 64
      let head := (x.inHead + units) % 2 ^ 32
      let known := s.sec.sessions.any fun y => y.id == id && y.open_
      l < 16 → x.enable = true → x.inHead ≠ x.inTail → x.inCounter < 2 ^ 32 → known = true →
      x.inHead % (ringBytes x / 64) + units ≤ ringBytes x / 64 →
      (x.bound = true → x.session = id → ctr ≠ x.inCounter →
        ∃ t, exec (.lighterRecord l content id ctr auth d) s = .next t ∧
          (lighterOf l t) = { x with inHead := head, failures := 0 } ∧
          tgetD t.sec.discards l 0 = tgetD s.sec.discards l 0 + 1 ∧
          (tgetD t.tel.reasons 0x10 (0, 0, 0)).2.2 = 0x100A ∧ t.hm = s.hm ∧ t.man = s.man) ∧
      (x.bound = true → x.session = id → ctr = x.inCounter → auth = false →
        ∃ t, exec (.lighterRecord l content id ctr auth d) s = .next t ∧
          (lighterOf l t) = { x with inHead := head, failures := 0 } ∧
          (tgetD t.tel.reasons 0x10 (0, 0, 0)).2.2 = 0x1009 ∧ t.hm = s.hm ∧ t.man = s.man) ∧
      (x.bound = false → ctr = 0 → auth = true → content ≠ 1 → content ≠ 4 →
        ∃ t, exec (.lighterRecord l content id ctr auth d) s = .next t ∧
          (lighterOf l t) = { x with bound := true, session := id, inCounter := 1, outCounter := 0, inHead := head,
                                     failures := 0 } ∧
          t = { s with sec := { s.sec with lighters := t.sec.lighters }, out := t.out }) ∧
      (x.bound = true → x.session = id → ctr = x.inCounter → auth = true → content = 1 → takesMore l s = true →
        (rawHdr d).command ≠ 0 → headerCode (rawHdr d) ((d.drop 32).take (rawHdr d).bodyBytes) 0 = 0 →
        (∀ j, descOf (rawHdr d).command ((d.drop 32).take (rawHdr d).bodyBytes) = some j →
          charterState (descCharter j) s ≠ 2) →
        ∃ t y, exec (.lighterRecord l content id ctr auth d) s = .next t ∧ t.hm = { s.hm with taken := s.hm.taken ++ [y] } ∧
          y.mailbox = l ∧ y.tag = (rawHdr d).tag ∧ y.command = (rawHdr d).command ∧
          (lighterOf l t) = { x with inCounter := x.inCounter + 1, inHead := head, failures := 0 } ∧ t.man = s.man)) ∧
    (∀ l, let x := lighterOf l s
      l < 16 → x.enable = true → x.inHead ≠ x.inTail →
      (x.failures < 7 → ∃ t o, exec (.lighterReadRetry l) s = .next t ∧ lighterOf l t = { x with failures := x.failures + 1 } ∧
        t = { s with sec := { s.sec with lighters := t.sec.lighters }, out := s.out ++ [.lighterRead l o] }) ∧
      (7 ≤ x.failures → ∃ t, exec (.lighterReadRetry l) s = .next t ∧ (lighterOf l t).enable = false ∧
        (lighterOf l t).bound = false ∧ (lighterOf l t).fault = true ∧ (lighterOf l t).reason = 0x1203 ∧
        (tgetD t.tel.reasons 0x12 (0, 0, 0)).2.2 = 0x1203 ∧ t.man = s.man ∧ t.hm.taken = s.hm.taken))

/-- The SPDM responder answers each request once: the digest of its certificate chain, a part of the chain with the bytes that remain
or an error, measurements of a block that exists; KEY_EXCHANGE opens a handshake, and never more than four sessions stand;
FINISH with the right verify data opens the session, and one with wrong data ends it; any other request is unsupported (R394,
R440). The response codes are those of SPDM 1.2 and the bodies' cryptography is opaque (log 5). -/
def Obligations.SpdmResponder : Prop :=
  ∀ s : State, hmRuns s = true →
    let replies := fun (i : Instr) (code : Nat) (b : Bytes) => exec i s = .next { s with out := s.out ++ [.spdm code b] }
    (∀ b, ∃ d, replies (.getVersion b) 0x04 d) ∧ (∀ b, ∃ d, replies (.getCapabilities b) 0x61 d) ∧
    (∀ b, ∃ d, replies (.negotiateAlgorithms b) 0x63 d) ∧
    (∀ b, replies (.getDigests b) 0x01 (Config.sha384 (chainBytes s))) ∧
    (∀ slot off n, if slot = 0 ∧ off < (chainBytes s).length then
        ∃ p q, replies (.getCertificate slot off n) 0x02 (packBytes [(2, p.length), (2, q)] ++ p) ∧
          p = ((chainBytes s).drop off).take n ∧ off + p.length + q = (chainBytes s).length
      else replies (.getCertificate slot off n) 0x7F (le 1 1)) ∧
    (∀ nonce, ∃ d, replies (.challenge 0 nonce) 0x03 d ∧ Config.sha384 (chainBytes s) ++ nonce <+: d) ∧
    (∀ slot nonce, slot ≠ 0 → replies (.challenge slot nonce) 0x7F (le 1 1)) ∧
    (∀ n nonce, n ≤ 6 ∨ n = 0xFF → ∃ d, replies (.getMeasurements n nonce) 0x60 d ∧
      d.take 1 = le 1 (if n = 0 ∨ n = 0xFF then 6 else 1)) ∧
    (∀ n nonce, 6 < n → n ≠ 0xFF → replies (.getMeasurements n nonce) 0x7F (le 1 1)) ∧
    (∀ req ex, s.sec.sessions.length ≤ 4 → ∃ t x b, exec (.keyExchange req ex) s = .next t ∧ x ∈ t.sec.sessions ∧
      x.open_ = false ∧ x.id = (s.sec.nextSession * 65536 + req % 65536) % 2 ^ 32 ∧ t.sec.sessions.length ≤ 4 ∧
      t.sec.nextSession = (s.sec.nextSession + 1) % 65536 ∧ t.out = s.out ++ [.spdm 0x64 b] ∧
      (s.sec.sessions.length < 4 → t.sec.sessions = s.sec.sessions ++ [x] ∧ t.sec.lighters = s.sec.lighters) ∧
      t.man = s.man ∧ t.hm = s.hm) ∧
    (∀ x verify, s.sec.sessions = [x] → x.open_ = false →
      (verify = Config.hmac384 x.secret (le 4 x.id) → exec (.finish x.id verify) s = .next { s with
        sec := { s.sec with sessions := [{ x with open_ := true }] }, out := s.out ++ [.spdm 0x65 []] }) ∧
      (verify ≠ Config.hmac384 x.secret (le 4 x.id) → ∃ t, exec (.finish x.id verify) s = .next t ∧
        t.sec.sessions = [] ∧ t.out = s.out ++ [.spdm 0x7F (le 1 6)] ∧ t.man = s.man ∧
        ∀ p ∈ t.sec.lighters, p.2.bound = true → p.2.session ≠ x.id)) ∧
    (∀ id verify, s.sec.sessions = [] → replies (.finish id verify) 0x7F (le 1 1)) ∧
    (∀ code, replies (.spdmUnsupported code) 0x7F (le 1 7 ++ le 1 code))
end

