-- ==== Sys2Proof/Laws/Answers.lean ====
section
/-! SUPPORT. What recording a code, raising an event and posting an answer change: `answerFrame`, for each of the operations
that say something. -/

namespace Sys2Proof.Machine
open Sys2Proof

theorem answerFrame.refl (s : State) : answerFrame s s := rfl

theorem answerFrame.trans {s t u : State} (h : answerFrame s t) (k : answerFrame t u) : answerFrame s u := by
  unfold answerFrame at *
  refine k.trans ?_
  rw [h]

theorem answerFrame.alert {s t : State} (h : answerFrame s t) (c : Prop) [Decidable c] :
    answerFrame s (if c then { t with isl := { t.isl with alert := true } } else t) := by
  split
  · exact h.trans rfl
  · exact h

theorem recordReason_frame (code : Nat) (s : State) : answerFrame s (recordReason code s) := by
  unfold recordReason
  split <;> rfl

theorem emit_frame (o : Out) (s : State) : answerFrame s (emit o s) := rfl

theorem signal_frame (v : Nat) (s : State) : answerFrame s (signal v s) := by
  unfold signal
  split <;> rfl

theorem setLighter_frame (l : Nat) (x : Lighter) (s : State) : answerFrame s (setLighter l x s) := rfl

theorem setBox_frame (m : Nat) (b : Mailbox) (s : State) : answerFrame s (setBox m b s) := rfl

theorem lighterSend_frame (l content : Nat) (plain : Bytes) (s : State) : answerFrame s (lighterSend l content plain s) := by
  unfold lighterSend
  dsimp only
  split
  · rfl
  · split
    · rfl
    · split
      · exact ((setLighter_frame _ _ _).trans (emit_frame _ _)).trans (signal_frame _ _)
      · exact (setLighter_frame _ _ _).trans (emit_frame _ _)

theorem eventWrite_frame (b : Bytes) (s : State) : answerFrame s (eventWrite b s) := by
  unfold eventWrite
  split
  · exact lighterSend_frame _ _ _ _
  · dsimp only
    split
    · exact answerFrame.trans (t := { s with
          mbox := mwrite s.mbox (0x200000 + 64 * (s.tel.evTail % 4096)) b,
          tel := { s.tel with evTail := (s.tel.evTail + 1) % 2 ^ 32 } }) rfl (signal_frame _ _)
    · rfl

theorem countLost_frame (s : State) : answerFrame s (countLost s) := rfl

theorem eventPut_frame (code : Nat) (summary : Bool) (fields : List (Nat × Nat)) (s : State) :
    answerFrame s (eventPut code summary fields s) := by
  unfold eventPut
  extract_lets n r x s1 s2
  have h1 : answerFrame s s1 := rfl
  have h2 : answerFrame s s2 := by
    unfold s2
    split
    · exact h1.trans (countLost_frame _)
    · exact h1.trans (eventWrite_frame _ _)
  exact h2.alert (severity code = 3)

theorem raise_frame (code : Nat) (fields : List (Nat × Nat)) (s : State) : answerFrame s (raise code fields s) :=
  (recordReason_frame code s).trans (eventPut_frame code false fields _)

theorem ringPost_frame (m : Nat) (b : Bytes) (j : Option (Nat × Nat)) (s : State) : answerFrame s (ringPost m b j s) := by
  unfold ringPost
  extract_lets x n p base padRec mem t mem' t' b' s1
  have h1 : answerFrame s s1 := rfl
  clear_value s1
  split
  · exact h1.trans (signal_frame _ _)
  · exact h1

theorem post_frame (m : Nat) (a : Answer) (j : Option (Nat × Nat)) (s : State) : answerFrame s (post m a j s) := by
  unfold post
  extract_lets b x n k
  split
  · exact setBox_frame _ _ _
  · exact ringPost_frame _ _ _ _

theorem send_frame (m : Nat) (v : Bool) (a : Answer) (j : Option (Nat × Nat)) (s : State) : answerFrame s (send m v a j s) := by
  unfold send
  split
  · exact lighterSend_frame _ _ _ _
  · exact post_frame _ _ _ _

theorem untake_frame (m tag : Nat) (s : State) : answerFrame s (untake m tag s) := by
  unfold untake
  split <;> rfl

/-- A RESULT changes no more than an answer may. -/
theorem resultWith_frame (h : CmdHdr) (code reason : Nat) (d : Option (Nat × Nat)) (body : Bytes) (s : State) :
    answerFrame s (resultWith h code reason d body s) :=
  ((recordReason_frame _ _).trans (untake_frame _ _ _)).trans (send_frame _ _ _ _ _)

theorem result_frame (h : CmdHdr) (code reason : Nat) (body : Bytes) (s : State) :
    answerFrame s (result h code reason body s) := resultWith_frame _ _ _ _ _ _

theorem khlAnswer_frame (tag opcode reason : Nat) (data : Bytes) (s : State) :
    answerFrame s (khlAnswer tag opcode reason data s) := (recordReason_frame _ _).trans (emit_frame _ _)

theorem drainWaiting_frame (fuel m : Nat) (s : State) : answerFrame s (drainWaiting fuel m s) := by
  induction fuel generalizing s with
  | zero => rfl
  | succ k ih =>
    unfold drainWaiting
    extract_lets b
    split
    · rfl
    · extract_lets n
      split
      · rfl
      · exact ((setBox_frame _ _ _).trans (ringPost_frame _ _ _ _)).trans (ih _)

end Sys2Proof.Machine
end

