-- ==== Sys2Proof/Laws/Exec.lean ====
section
/-! SUPPORT. One lemma per command: exec calls its meaning. -/

namespace Sys2Proof.Machine
open Sys2Proof

theorem exec_mboxPad (mailbox s) : exec (.mboxPad mailbox) s = execMboxPad mailbox s := rfl
theorem exec_mboxNop (h s) : exec (.mboxNop h) s = execMboxNop h s := rfl
theorem exec_commandTake (mailbox s) : exec (.commandTake mailbox) s = execCommandTake mailbox s := rfl
theorem exec_berthConfigure (h berth split ctxs s) : exec (.berthConfigure h berth split ctxs) s = execBerthConfigure h berth split ctxs s := rfl
theorem exec_linkCodec (h ctx classMask elemWidth maxWait s) : exec (.linkCodec h ctx classMask elemWidth maxWait) s = execLinkCodec h ctx classMask elemWidth maxWait s := rfl
theorem exec_switchForwarding (h ctx modes s) : exec (.switchForwarding h ctx modes) s = execSwitchForwarding h ctx modes s := rfl
theorem exec_mirrorSession (h session target src s) : exec (.mirrorSession h session target src) s = execMirrorSession h session target src s := rfl
theorem exec_sampleConfigure (h ctx egress n s) : exec (.sampleConfigure h ctx egress n) s = execSampleConfigure h ctx egress n s := rfl
theorem exec_pilotQueues (h ctx cls pool count select s) : exec (.pilotQueues h ctx cls pool count select) s = execPilotQueues h ctx cls pool count select s := rfl
theorem exec_pilotClass (h cls alpha kind delayTarget k s) : exec (.pilotClass h cls alpha kind delayTarget k) s = execPilotClass h cls alpha kind delayTarget k s := rfl
theorem exec_pilotPort (h ctx weights overhead s) : exec (.pilotPort h ctx weights overhead) s = execPilotPort h ctx weights overhead s := rfl
theorem exec_pilotPilotq (h b s) : exec (.pilotPilotq h b) s = execPilotPilotq h b s := rfl
theorem exec_pilotHost (h host maxOutstanding rate burst s) : exec (.pilotHost h host maxOutstanding rate burst) s = execPilotHost h host maxOutstanding rate burst s := rfl
theorem exec_pilotStats (h user first count clear s) : exec (.pilotStats h user first count clear) s = execPilotStats h user first count clear s := rfl
theorem exec_manifestMap (h index e atTide s) : exec (.manifestMap h index e atTide) s = execManifestMap h index e atTide s := rfl
theorem exec_manifestRevoke (h index atTide s) : exec (.manifestRevoke h index atTide) s = execManifestRevoke h index atTide s := rfl
theorem exec_manifestWindow (h charter win w atTide s) : exec (.manifestWindow h charter win w atTide) s = execManifestWindow h charter win w atTide s := rfl
theorem exec_manifestSync (h source boundary entries windows route routeEpoch s) : exec (.manifestSync h source boundary entries windows route routeEpoch) s = execManifestSync h source boundary entries windows route routeEpoch s := rfl
theorem exec_routeCommit (h m atTide s) : exec (.routeCommit h m atTide) s = execRouteCommit h m atTide s := rfl
theorem exec_compositionSet (h c m atTide s) : exec (.compositionSet h c m atTide) s = execCompositionSet h c m atTide s := rfl
theorem exec_roleShift (h host group join leave atTide s) : exec (.roleShift h host group join leave atTide) s = execRoleShift h host group join leave atTide s := rfl
theorem exec_tideSetLength (h code atTide s) : exec (.tideSetLength h code atTide) s = execTideSetLength h code atTide s := rfl
theorem exec_redundancyGroup (h delete g atTide s) : exec (.redundancyGroup h delete g atTide) s = execRedundancyGroup h delete g atTide s := rfl
theorem exec_redundancyFormat (h groupId limit atTide s) : exec (.redundancyFormat h groupId limit atTide) s = execRedundancyFormat h groupId limit atTide s := rfl
theorem exec_redundancyReplace (h groupId member device tray module rate atTide s) : exec (.redundancyReplace h groupId member device tray module rate atTide) s = execRedundancyReplace h groupId member device tray module rate atTide s := rfl
theorem exec_charterCreate (h charter confidential keySource key atTide s) : exec (.charterCreate h charter confidential keySource key atTide) s = execCharterCreate h charter confidential keySource key atTide s := rfl
theorem exec_charterMembers (h charter add remove atTide s) : exec (.charterMembers h charter add remove atTide) s = execCharterMembers h charter add remove atTide s := rfl
theorem exec_charterRotate (h charter keySource rate key atTide s) : exec (.charterRotate h charter keySource rate key atTide) s = execCharterRotate h charter keySource rate key atTide s := rfl
theorem exec_charterRevoke (h charter atTide s) : exec (.charterRevoke h charter atTide) s = execCharterRevoke h charter atTide s := rfl
theorem exec_confidentialEnter (h s) : exec (.confidentialEnter h) s = execConfidentialEnter h s := rfl
theorem exec_jobqOpen (h queue mailbox s) : exec (.jobqOpen h queue mailbox) s = execJobqOpen h queue mailbox s := rfl
theorem exec_jobqClose (h queue owner s) : exec (.jobqClose h queue owner) s = execJobqClose h queue owner s := rfl
theorem exec_craneCollective (h d s) : exec (.craneCollective h d) s = execCraneCollective h d s := rfl
theorem exec_stevedoreMove (h d s) : exec (.stevedoreMove h d) s = execStevedoreMove h d s := rfl
theorem exec_customsScan (h d s) : exec (.customsScan h d) s = execCustomsScan h d s := rfl
theorem exec_customsScore (h d s) : exec (.customsScore h d) s = execCustomsScore h d s := rfl
theorem exec_customsMerge (h d s) : exec (.customsMerge h d) s = execCustomsMerge h d s := rfl
theorem exec_codecEncode (h d s) : exec (.codecEncode h d) s = execCodecEncode h d s := rfl
theorem exec_codecDecode (h d s) : exec (.codecDecode h d) s = execCodecDecode h d s := rfl
theorem exec_streamSchedule (h d s) : exec (.streamSchedule h d) s = execStreamSchedule h d s := rfl
theorem exec_streamStop (h slot s) : exec (.streamStop h slot) s = execStreamStop h slot s := rfl
theorem exec_tierPlace (h d s) : exec (.tierPlace h d) s = execTierPlace h d s := rfl
theorem exec_tierDrop (h objectId stageAddr s) : exec (.tierDrop h objectId stageAddr) s = execTierDrop h objectId stageAddr s := rfl
theorem exec_tierMigrate (h tier charter objectId srcVa bytes dst atTide s) : exec (.tierMigrate h tier charter objectId srcVa bytes dst atTide) s = execTierMigrate h tier charter objectId srcVa bytes dst atTide s := rfl
theorem exec_tierQuery (h objectId s) : exec (.tierQuery h objectId) s = execTierQuery h objectId s := rfl
theorem exec_copyRun (h d s) : exec (.copyRun h d) s = execCopyRun h d s := rfl
theorem exec_programKeyEnroll (h slot key s) : exec (.programKeyEnroll h slot key) s = execProgramKeyEnroll h slot key s := rfl
theorem exec_programKeyClear (h slot s) : exec (.programKeyClear h slot) s = execProgramKeyClear h slot s := rfl
theorem exec_programLoadBlock (h programId offset data s) : exec (.programLoadBlock h programId offset data) s = execProgramLoadBlock h programId offset data s := rfl
theorem exec_programCommit (h programId totalLength deviceMask s) : exec (.programCommit h programId totalLength deviceMask) s = execProgramCommit h programId totalLength deviceMask s := rfl
theorem exec_programUnload (h programId deviceMask s) : exec (.programUnload h programId deviceMask) s = execProgramUnload h programId deviceMask s := rfl
theorem exec_programQuery (h programId s) : exec (.programQuery h programId) s = execProgramQuery h programId s := rfl
theorem exec_fwLoadBlock (h offset data s) : exec (.fwLoadBlock h offset data) s = execFwLoadBlock h offset data s := rfl
theorem exec_fwCommit (h totalLength deviceMask holdupMv writeOk s) : exec (.fwCommit h totalLength deviceMask holdupMv writeOk) s = execFwCommit h totalLength deviceMask holdupMv writeOk s := rfl
theorem exec_fwActivateAt (h deviceMask release atTide s) : exec (.fwActivateAt h deviceMask release atTide) s = execFwActivateAt h deviceMask release atTide s := rfl
theorem exec_fwMeasurements (h start s) : exec (.fwMeasurements h start) s = execFwMeasurements h start s := rfl
theorem exec_fwStatus (h s) : exec (.fwStatus h) s = execFwStatus h s := rfl
theorem exec_logbookFlush (h holdupMv s) : exec (.logbookFlush h holdupMv) s = execLogbookFlush h holdupMv s := rfl
theorem exec_telemetrySamples (h s) : exec (.telemetrySamples h) s = execTelemetrySamples h s := rfl
theorem exec_telemetryCounters (h group start s) : exec (.telemetryCounters h group start) s = execTelemetryCounters h group start s := rfl
theorem exec_domainChangeNotice (id c atTide s) : exec (.domainChangeNotice id c atTide) s = execDomainChangeNotice id c atTide s := rfl
theorem exec_domainChangeReady (number member ok code s) : exec (.domainChangeReady number member ok code) s = execDomainChangeReady number member ok code s := rfl
theorem exec_domainChangeCommit (id s) : exec (.domainChangeCommit id) s = execDomainChangeCommit id s := rfl
theorem exec_domainChangeCancel (id s) : exec (.domainChangeCancel id) s = execDomainChangeCancel id s := rfl
theorem exec_changeReadyDeadline (number s) : exec (.changeReadyDeadline number) s = execChangeReadyDeadline number s := rfl
theorem exec_domainChangeApply (s) : exec (.domainChangeApply) s = execDomainChangeApply s := rfl
theorem exec_routeGraceEnd (s) : exec (.routeGraceEnd) s = execRouteGraceEnd s := rfl
theorem exec_tideBoundary (s) : exec (.tideBoundary) s = execTideBoundary s := rfl
theorem exec_tideMarkerReceive (east hops count offset s) : exec (.tideMarkerReceive east hops count offset) s = execTideMarkerReceive east hops count offset s := rfl
theorem exec_markerMissed (s) : exec (.markerMissed) s = execMarkerMissed s := rfl
theorem exec_masterTakeover (s) : exec (.masterTakeover) s = execMasterTakeover s := rfl
theorem exec_ringSlotArrive (slot position s) : exec (.ringSlotArrive slot position) s = execRingSlotArrive slot position s := rfl
theorem exec_snoopAnswer (slot s) : exec (.snoopAnswer slot) s = execSnoopAnswer slot s := rfl
theorem exec_slotReturn (slot s) : exec (.slotReturn slot) s = execSlotReturn slot s := rfl
theorem exec_dataSlotReceive (slot s) : exec (.dataSlotReceive slot) s = execDataSlotReceive slot s := rfl
theorem exec_ringMeasure (east spanTenthsNs hops ident s) : exec (.ringMeasure east spanTenthsNs hops ident) s = execRingMeasure east spanTenthsNs hops ident s := rfl
theorem exec_ringLinkFail (link s) : exec (.ringLinkFail link) s = execRingLinkFail link s := rfl
theorem exec_ringLinkRestore (link s) : exec (.ringLinkRestore link) s = execRingLinkRestore link s := rfl
theorem exec_trainRestore (s) : exec (.trainRestore) s = execTrainRestore s := rfl
theorem exec_bypassReleaseRequest (s) : exec (.bypassReleaseRequest) s = execBypassReleaseRequest s := rfl
theorem exec_bypassReleaseTimeout (s) : exec (.bypassReleaseTimeout) s = execBypassReleaseTimeout s := rfl
theorem exec_bypassLeaveRequest (s) : exec (.bypassLeaveRequest) s = execBypassLeaveRequest s := rfl
theorem exec_spliceRequest (site leave s) : exec (.spliceRequest site leave) s = execSpliceRequest site leave s := rfl
theorem exec_spliceGrant (s) : exec (.spliceGrant) s = execSpliceGrant s := rfl
theorem exec_splice (s) : exec (.splice) s = execSplice s := rfl
theorem exec_bypassClose (s) : exec (.bypassClose) s = execBypassClose s := rfl
theorem exec_coreHeartbeatTimeout (s) : exec (.coreHeartbeatTimeout) s = execCoreHeartbeatTimeout s := rfl
theorem exec_sliceRetire (kind engine slot w bad corrected s) : exec (.sliceRetire kind engine slot w bad corrected) s = execSliceRetire kind engine slot w bad corrected s := rfl
theorem exec_tideOverrun (kind engine s) : exec (.tideOverrun kind engine) s = execTideOverrun kind engine s := rfl
theorem exec_budgetRestore (kind engine s) : exec (.budgetRestore kind engine) s = execBudgetRestore kind engine s := rfl
theorem exec_powerSample (milliwatts s) : exec (.powerSample milliwatts) s = execPowerSample milliwatts s := rfl
theorem exec_read (r s) : exec (.read r) s = execRead r s := rfl
theorem exec_readAcq (r s) : exec (.readAcq r) s = execReadAcq r s := rfl
theorem exec_acquire (r s) : exec (.acquire r) s = execAcquire r s := rfl
theorem exec_write (r s) : exec (.write r) s = execWrite r s := rfl
theorem exec_writePartial (r s) : exec (.writePartial r) s = execWritePartial r s := rfl
theorem exec_writeSeal (r s) : exec (.writeSeal r) s = execWriteSeal r s := rfl
theorem exec_stow (r s) : exec (.stow r) s = execStow r s := rfl
theorem exec_atomic (r s) : exec (.atomic r) s = execAtomic r s := rfl
theorem exec_regionPublish (r s) : exec (.regionPublish r) s = execRegionPublish r s := rfl
theorem exec_cReadShared (r s) : exec (.cReadShared r) s = execCReadShared r s := rfl
theorem exec_cReadOwn (r s) : exec (.cReadOwn r) s = execCReadOwn r s := rfl
theorem exec_cUpgrade (r s) : exec (.cUpgrade r) s = execCUpgrade r s := rfl
theorem exec_cWriteback (r s) : exec (.cWriteback r) s = execCWriteback r s := rfl
theorem exec_cEvictClean (r s) : exec (.cEvictClean r) s = execCEvictClean r s := rfl
theorem exec_cRecallAnswer (host line data s) : exec (.cRecallAnswer host line data) s = execCRecallAnswer host line data s := rfl
theorem exec_hostRecallTimeout (host line s) : exec (.hostRecallTimeout host line) s = execHostRecallTimeout host line s := rfl
theorem exec_cStowFill (r s) : exec (.cStowFill r) s = execCStowFill r s := rfl
theorem exec_cStowFillAnswer (device line taken s) : exec (.cStowFillAnswer device line taken) s = execCStowFillAnswer device line taken s := rfl
theorem exec_cSnoopDone (r s) : exec (.cSnoopDone r) s = execCSnoopDone r s := rfl
theorem exec_snoopRoundReturn (snoopId answers s) : exec (.snoopRoundReturn snoopId answers) s = execSnoopRoundReturn snoopId answers s := rfl
theorem exec_deadAgentNotice (device s) : exec (.deadAgentNotice device) s = execDeadAgentNotice device s := rfl
theorem exec_directoryScanDone (device s) : exec (.directoryScanDone device) s = execDirectoryScanDone device s := rfl
theorem exec_homeAdmit (r s) : exec (.homeAdmit r) s = execHomeAdmit r s := rfl
theorem exec_attemptFence (r s) : exec (.attemptFence r) s = execAttemptFence r s := rfl
theorem exec_granuleBatchStart (entry offset s) : exec (.granuleBatchStart entry offset) s = execGranuleBatchStart entry offset s := rfl
theorem exec_trayResponse (request kind data s) : exec (.trayResponse request kind data) s = execTrayResponse request kind data s := rfl
theorem exec_granuleBatchDone (entry offset s) : exec (.granuleBatchDone entry offset) s = execGranuleBatchDone entry offset s := rfl
theorem exec_sealTimeout (source window s) : exec (.sealTimeout source window) s = execSealTimeout source window s := rfl
theorem exec_windowForget (source s) : exec (.windowForget source) s = execWindowForget source s := rfl
theorem exec_responseReceive (r s) : exec (.responseReceive r) s = execResponseReceive r s := rfl
theorem exec_loadLevelUpdate (s) : exec (.loadLevelUpdate) s = execLoadLevelUpdate s := rfl
theorem exec_blockReceive (ctx block marked stamp s) : exec (.blockReceive ctx block marked stamp) s = execBlockReceive ctx block marked stamp s := rfl
theorem exec_cutItemArrive (ctx seq unit pool item s) : exec (.cutItemArrive ctx seq unit pool item) s = execCutItemArrive ctx seq unit pool item s := rfl
theorem exec_idle (ctx ack s) : exec (.idle ctx ack) s = execIdle ctx ack s := rfl
theorem exec_nak (ctx seq s) : exec (.nak ctx seq) s = execNak ctx seq s := rfl
theorem exec_credit (ctx req rsp strm s) : exec (.credit ctx req rsp strm) s = execCredit ctx req rsp strm s := rfl
theorem exec_nakHoldoffExpire (ctx s) : exec (.nakHoldoffExpire ctx) s = execNakHoldoffExpire ctx s := rfl
theorem exec_resendTimeout (ctx s) : exec (.resendTimeout ctx) s = execResendTimeout ctx s := rfl
theorem exec_signalDetect (ctx s) : exec (.signalDetect ctx) s = execSignalDetect ctx s := rfl
theorem exec_equalizeLock (ctx s) : exec (.equalizeLock ctx) s = execEqualizeLock ctx s := rfl
theorem exec_blockLock (ctx s) : exec (.blockLock ctx) s = execBlockLock ctx s := rfl
theorem exec_identify (ctx ident s) : exec (.identify ctx ident) s = execIdentify ctx ident s := rfl
theorem exec_ping (ctx s) : exec (.ping ctx) s = execPing ctx s := rfl
theorem exec_pong (ctx rttTenthsNs s) : exec (.pong ctx rttTenthsNs) s = execPong ctx rttTenthsNs s := rfl
theorem exec_initialCredit (ctx req rsp strm s) : exec (.initialCredit ctx req rsp strm) s = execInitialCredit ctx req rsp strm s := rfl
theorem exec_trainingTimeout (ctx s) : exec (.trainingTimeout ctx) s = execTrainingTimeout ctx s := rfl
theorem exec_laneFail (ctx lane s) : exec (.laneFail ctx lane) s = execLaneFail ctx lane s := rfl
theorem exec_spanSeqQuery (device ctx s) : exec (.spanSeqQuery device ctx) s = execSpanSeqQuery device ctx s := rfl
theorem exec_spanSeqAnswer (ctx seq s) : exec (.spanSeqAnswer ctx seq) s = execSpanSeqAnswer ctx seq s := rfl
theorem exec_spanAnswerTimeout (ctx s) : exec (.spanAnswerTimeout ctx) s = execSpanAnswerTimeout ctx s := rfl
theorem exec_planeMatch (plane s) : exec (.planeMatch plane) s = execPlaneMatch plane s := rfl
theorem exec_transmitSlot (ctx eccError s) : exec (.transmitSlot ctx eccError) s = execTransmitSlot ctx eccError s := rfl
theorem exec_pilotQueuesApply (s) : exec (.pilotQueuesApply) s = execPilotQueuesApply s := rfl
theorem exec_latencySample (s) : exec (.latencySample) s = execLatencySample s := rfl
theorem exec_contribReceive (g s) : exec (.contribReceive g) s = execContribReceive g s := rfl
theorem exec_partialReceive (g s) : exec (.partialReceive g) s = execPartialReceive g s := rfl
theorem exec_resultReceive (g s) : exec (.resultReceive g) s = execResultReceive g s := rfl
theorem exec_tileOpen (slot tile s) : exec (.tileOpen slot tile) s = execTileOpen slot tile s := rfl
theorem exec_memberTimeout (slot host s) : exec (.memberTimeout slot host) s = execMemberTimeout slot host s := rfl
theorem exec_exclusionNotice (slot host s) : exec (.exclusionNotice slot host) s = execExclusionNotice slot host s := rfl
theorem exec_exclusionApply (slot host s) : exec (.exclusionApply slot host) s = execExclusionApply slot host s := rfl
theorem exec_engineReadResponse (slot address poison data bad corrected s) : exec (.engineReadResponse slot address poison data bad corrected) s = execEngineReadResponse slot address poison data bad corrected s := rfl
theorem exec_engineJobStop (slot s) : exec (.engineJobStop slot) s = execEngineJobStop slot s := rfl
theorem exec_attemptStart (slot join s) : exec (.attemptStart slot join) s = execAttemptStart slot join s := rfl
theorem exec_linkFrameTimeout (ctx s) : exec (.linkFrameTimeout ctx) s = execLinkFrameTimeout ctx s := rfl
theorem exec_linkFrameReceive (ctx header payload s) : exec (.linkFrameReceive ctx header payload) s = execLinkFrameReceive ctx header payload s := rfl
theorem exec_linkFrameAck (ctx seq s) : exec (.linkFrameAck ctx seq) s = execLinkFrameAck ctx seq s := rfl
theorem exec_linkFrameNack (ctx seq s) : exec (.linkFrameNack ctx seq) s = execLinkFrameNack ctx seq s := rfl
theorem exec_prefetchBlockLand (slot layer shadow block generation poison header data s) : exec (.prefetchBlockLand slot layer shadow block generation poison header data) s = execPrefetchBlockLand slot layer shadow block generation poison header data s := rfl
theorem exec_formRetranslate (slot layer shadow s) : exec (.formRetranslate slot layer shadow) s = execFormRetranslate slot layer shadow s := rfl
theorem exec_layerChoice (slot s) : exec (.layerChoice slot) s = execLayerChoice slot s := rfl
theorem exec_deliveryClose (slot s) : exec (.deliveryClose slot) s = execDeliveryClose slot s := rfl
theorem exec_streamAbandoned (slot s) : exec (.streamAbandoned slot) s = execStreamAbandoned slot s := rfl
theorem exec_trayRequestTimeout (request s) : exec (.trayRequestTimeout request) s = execTrayRequestTimeout request s := rfl
theorem exec_moduleFailedNotice (device tray module count s) : exec (.moduleFailedNotice device tray module count) s = execModuleFailedNotice device tray module count s := rfl
theorem exec_formatStep (groupId rows s) : exec (.formatStep groupId rows) s = execFormatStep groupId rows s := rfl
theorem exec_formatDone (groupId s) : exec (.formatDone groupId) s = execFormatDone groupId s := rfl
theorem exec_rebuildStep (groupId s) : exec (.rebuildStep groupId) s = execRebuildStep groupId s := rfl
theorem exec_rebuildDoneReport (groupId device s) : exec (.rebuildDoneReport groupId device) s = execRebuildDoneReport groupId device s := rfl
theorem exec_rebuildDone (groupId s) : exec (.rebuildDone groupId) s = execRebuildDone groupId s := rfl
theorem exec_resyncStep (entry s) : exec (.resyncStep entry) s = execResyncStep entry s := rfl
theorem exec_heartbeatReceive (device s) : exec (.heartbeatReceive device) s = execHeartbeatReceive device s := rfl
theorem exec_heartbeatTimeout (device s) : exec (.heartbeatTimeout device) s = execHeartbeatTimeout device s := rfl
theorem exec_hostDeath (host s) : exec (.hostDeath host) s = execHostDeath host s := rfl
theorem exec_resetRequest (device epoch s) : exec (.resetRequest device epoch) s = execResetRequest device epoch s := rfl
theorem exec_replica (fromDev msgId fragOffset last r s) : exec (.replica fromDev msgId fragOffset last r) s = execReplica fromDev msgId fragOffset last r s := rfl
theorem exec_replicaAck (fromDev logSeq full s) : exec (.replicaAck fromDev logSeq full) s = execReplicaAck fromDev logSeq full s := rfl
theorem exec_receiptClear (fromDev msgId jobDevice jobSlot s) : exec (.receiptClear fromDev msgId jobDevice jobSlot) s = execReceiptClear fromDev msgId jobDevice jobSlot s := rfl
theorem exec_clearAck (home jobDevice jobSlot s) : exec (.clearAck home jobDevice jobSlot) s = execClearAck home jobDevice jobSlot s := rfl
theorem exec_replicaResendTimeout (logSeq s) : exec (.replicaResendTimeout logSeq) s = execReplicaResendTimeout logSeq s := rfl
theorem exec_jobComplete (slot s) : exec (.jobComplete slot) s = execJobComplete slot s := rfl
theorem exec_flushComplete (ok s) : exec (.flushComplete ok) s = execFlushComplete ok s := rfl
theorem exec_sweepPageStep (charter entry page s) : exec (.sweepPageStep charter entry page) s = execSweepPageStep charter entry page s := rfl
theorem exec_rotationDoneReport (charter device s) : exec (.rotationDoneReport charter device) s = execRotationDoneReport charter device s := rfl
theorem exec_rotationComplete (charter s) : exec (.rotationComplete charter) s = execRotationComplete charter s := rfl
theorem exec_removalDoneReport (charter device poisoned refused stopped s) : exec (.removalDoneReport charter device poisoned refused stopped) s = execRemovalDoneReport charter device poisoned refused stopped s := rfl
theorem exec_removalComplete (charter s) : exec (.removalComplete charter) s = execRemovalComplete charter s := rfl
theorem exec_harbourKeyAgreement (ok key s) : exec (.harbourKeyAgreement ok key) s = execHarbourKeyAgreement ok key s := rfl
theorem exec_pageMapTransfer (entry pages s) : exec (.pageMapTransfer entry pages) s = execPageMapTransfer entry pages s := rfl
theorem exec_lighterRecord (lighter content sessionId counter authentic plaintext s) : exec (.lighterRecord lighter content sessionId counter authentic plaintext) s = execLighterRecord lighter content sessionId counter authentic plaintext s := rfl
theorem exec_lighterReadRetry (lighter s) : exec (.lighterReadRetry lighter) s = execLighterReadRetry lighter s := rfl
theorem exec_mboxRead (tag offset length s) : exec (.mboxRead tag offset length) s = execMboxRead tag offset length s := rfl
theorem exec_mboxWrite (tag offset data s) : exec (.mboxWrite tag offset data) s = execMboxWrite tag offset data s := rfl
theorem exec_getVersion (body s) : exec (.getVersion body) s = execGetVersion body s := rfl
theorem exec_getCapabilities (body s) : exec (.getCapabilities body) s = execGetCapabilities body s := rfl
theorem exec_negotiateAlgorithms (body s) : exec (.negotiateAlgorithms body) s = execNegotiateAlgorithms body s := rfl
theorem exec_getDigests (body s) : exec (.getDigests body) s = execGetDigests body s := rfl
theorem exec_getCertificate (slot offset length s) : exec (.getCertificate slot offset length) s = execGetCertificate slot offset length s := rfl
theorem exec_challenge (slot nonce s) : exec (.challenge slot nonce) s = execChallenge slot nonce s := rfl
theorem exec_getMeasurements (index nonce s) : exec (.getMeasurements index nonce) s = execGetMeasurements index nonce s := rfl
theorem exec_keyExchange (reqSession exchange s) : exec (.keyExchange reqSession exchange) s = execKeyExchange reqSession exchange s := rfl
theorem exec_finish (sessionId verify s) : exec (.finish sessionId verify) s = execFinish sessionId verify s := rfl
theorem exec_spdmUnsupported (code s) : exec (.spdmUnsupported code) s = execSpdmUnsupported code s := rfl
theorem exec_programImageReceive (issuer image s) : exec (.programImageReceive issuer image) s = execProgramImageReceive issuer image s := rfl
theorem exec_programCommitAnswer (device code s) : exec (.programCommitAnswer device code) s = execProgramCommitAnswer device code s := rfl
theorem exec_programStageExpire (programId s) : exec (.programStageExpire programId) s = execProgramStageExpire programId s := rfl
theorem exec_fwImageReceive (issuer image holdupMv writeOk s) : exec (.fwImageReceive issuer image holdupMv writeOk) s = execFwImageReceive issuer image holdupMv writeOk s := rfl
theorem exec_fwCommitAnswer (device code s) : exec (.fwCommitAnswer device code) s = execFwCommitAnswer device code s := rfl
theorem exec_fwPostReadyWrites (holdupMv s) : exec (.fwPostReadyWrites holdupMv) s = execFwPostReadyWrites holdupMv s := rfl
theorem exec_fwSelectPending (holdupMv s) : exec (.fwSelectPending holdupMv) s = execFwSelectPending holdupMv s := rfl
theorem exec_fwDoneReport (device s) : exec (.fwDoneReport device) s = execFwDoneReport device s := rfl
theorem exec_cmdTailWrite (mailbox value s) : exec (.cmdTailWrite mailbox value) s = execCmdTailWrite mailbox value s := rfl
theorem exec_cplHeadWrite (mailbox value s) : exec (.cplHeadWrite mailbox value) s = execCplHeadWrite mailbox value s := rfl
theorem exec_evHeadWrite (value s) : exec (.evHeadWrite value) s = execEvHeadWrite value s := rfl
theorem exec_reasonClear (value s) : exec (.reasonClear value) s = execReasonClear value s := rfl
theorem exec_lighterEnable (lighter value s) : exec (.lighterEnable lighter value) s = execLighterEnable lighter value s := rfl
theorem exec_inTailWrite (lighter value s) : exec (.inTailWrite lighter value) s = execInTailWrite lighter value s := rfl
theorem exec_outHeadWrite (lighter value s) : exec (.outHeadWrite lighter value) s = execOutHeadWrite lighter value s := rfl
theorem exec_tideCountLowRead (tag s) : exec (.tideCountLowRead tag) s = execTideCountLowRead tag s := rfl
theorem exec_registerWrite (offset width value s) : exec (.registerWrite offset width value) s = execRegisterWrite offset width value s := rfl
theorem exec_lifeboatStatus (path issueId param s) : exec (.lifeboatStatus path issueId param) s = execLifeboatStatus path issueId param s := rfl
theorem exec_freeze (path issueId param s) : exec (.freeze path issueId param) s = execFreeze path issueId param s := rfl
theorem exec_dumpSnapshot (path issueId param s) : exec (.dumpSnapshot path issueId param) s = execDumpSnapshot path issueId param s := rfl
theorem exec_zeroizeCharter (path issueId param s) : exec (.zeroizeCharter path issueId param) s = execZeroizeCharter path issueId param s := rfl
theorem exec_zeroizeAll (path issueId param s) : exec (.zeroizeAll path issueId param) s = execZeroizeAll path issueId param s := rfl
theorem exec_ringBypassClose (path issueId param s) : exec (.ringBypassClose path issueId param) s = execRingBypassClose path issueId param s := rfl
theorem exec_lifeboatLogbookFlush (path issueId param holdupMv s) : exec (.lifeboatLogbookFlush path issueId param holdupMv) s = execLifeboatLogbookFlush path issueId param holdupMv s := rfl
theorem exec_subsystemReset (path issueId param s) : exec (.subsystemReset path issueId param) s = execSubsystemReset path issueId param s := rfl
theorem exec_readMeasurements (path issueId param s) : exec (.readMeasurements path issueId param) s = execReadMeasurements path issueId param s := rfl
theorem exec_coldReset (vstby s) : exec (.coldReset vstby) s = execColdReset vstby s := rfl
theorem exec_warmReset (ring s) : exec (.warmReset ring) s = execWarmReset ring s := rfl
theorem exec_resetRelease (bank0Ok bank1Ok ssdOk stageOk bad corrected s) : exec (.resetRelease bank0Ok bank1Ok ssdOk stageOk bad corrected) s = execResetRelease bank0Ok bank1Ok ssdOk stageOk bad corrected s := rfl
theorem exec_railFault (rail s) : exec (.railFault rail) s = execRailFault rail s := rfl
theorem exec_thermalLimit (high s) : exec (.thermalLimit high) s = execThermalLimit high s := rfl
theorem exec_holdupFail (holdupMv s) : exec (.holdupFail holdupMv) s = execHoldupFail holdupMv s := rfl
theorem exec_boardDeclWrite (decl s) : exec (.boardDeclWrite decl) s = execBoardDeclWrite decl s := rfl
theorem exec_pmbusOther (command s) : exec (.pmbusOther command) s = execPmbusOther command s := rfl
theorem exec_tapInstruction (code s) : exec (.tapInstruction code) s = execTapInstruction code s := rfl
theorem exec_groupDegraded (s) : exec (.groupDegraded) s = execGroupDegraded s := rfl
theorem exec_heartbeatSend (s) : exec (.heartbeatSend) s = execHeartbeatSend s := rfl
theorem exec_lossBoundary (s) : exec (.lossBoundary) s = execLossBoundary s := rfl
theorem exec_asyncResend (s) : exec (.asyncResend) s = execAsyncResend s := rfl
theorem exec_logbookReplay (s) : exec (.logbookReplay) s = execLogbookReplay s := rfl
theorem exec_keyEpochTurn (s) : exec (.keyEpochTurn) s = execKeyEpochTurn s := rfl
theorem exec_confidentialEntry (s) : exec (.confidentialEntry) s = execConfidentialEntry s := rfl
theorem exec_fwStageExpire (s) : exec (.fwStageExpire) s = execFwStageExpire s := rfl
theorem exec_fwActivation (s) : exec (.fwActivation) s = execFwActivation s := rfl
theorem exec_hmWatchdog (s) : exec (.hmWatchdog) s = execHmWatchdog s := rfl
theorem exec_hmHeartbeat (s) : exec (.hmHeartbeat) s = execHmHeartbeat s := rfl
theorem exec_firmwareReady (s) : exec (.firmwareReady) s = execFirmwareReady s := rfl
theorem exec_thermtrip (s) : exec (.thermtrip) s = execThermtrip s := rfl
theorem exec_inputPowerReturn (s) : exec (.inputPowerReturn) s = execInputPowerReturn s := rfl
theorem exec_oneSecondPeriodEnd (s) : exec (.oneSecondPeriodEnd) s = execOneSecondPeriodEnd s := rfl
theorem exec_lbStatusRead (s) : exec (.lbStatusRead) s = execLbStatusRead s := rfl
theorem exec_statusWord (s) : exec (.statusWord) s = execStatusWord s := rfl
theorem exec_readTemperature1 (s) : exec (.readTemperature1) s = execReadTemperature1 s := rfl
theorem exec_readPout (s) : exec (.readPout) s = execReadPout s := rfl

end Sys2Proof.Machine
end

