-- ==== Sys2Proof/Laws/Memory.lean ====
section
/-! SUPPORT. The byte memories: a write keeps the canonical form, a read after a write, and every other byte as it was; the
tables. -/

namespace Sys2Proof.Machine
open Sys2Proof

theorem cellsOf_bounds (d : Bytes) : ∀ a, ∀ p ∈ cellsOf a d, a ≤ p.1 ∧ p.1 < a + d.length := by
  induction d with
  | nil => intro a p h; simp [cellsOf] at h
  | cons x r ih =>
    intro a p h
    simp only [cellsOf] at h
    split at h
    · have := ih (a + 1) p h
      simp only [List.length_cons]; omega
    · rcases List.mem_cons.mp h with rfl | h
      · simp
      · have := ih (a + 1) p h
        simp only [List.length_cons]; omega

theorem cellsOf_wf (d : Bytes) : ∀ a, Memory.wf (cellsOf a d) := by
  induction d with
  | nil => intro a; exact ⟨List.Pairwise.nil, by simp [cellsOf]⟩
  | cons x r ih =>
    intro a
    simp only [cellsOf]
    split
    · exact ih (a + 1)
    · rename_i hx
      refine ⟨List.pairwise_cons.mpr ⟨fun p hp => ?_, (ih (a + 1)).1⟩, fun p hp => ?_⟩
      · have := cellsOf_bounds r (a + 1) p hp
        show a < p.1; omega
      · rcases List.mem_cons.mp hp with rfl | h
        · exact hx
        · exact (ih (a + 1)).2 p h

theorem dropWhile_ge (m : List Host.Cell) (n : Nat) (h : m.Pairwise (fun p q => p.1 < q.1)) :
    ∀ p ∈ m.dropWhile (fun p => decide (p.1 < n)), n ≤ p.1 := by
  induction m with
  | nil => simp
  | cons x r ih =>
    intro p hp
    simp only [List.dropWhile_cons] at hp
    split at hp
    · exact ih (List.pairwise_cons.mp h).2 p hp
    · rename_i hx
      simp only [decide_eq_true_eq, not_lt] at hx
      rcases List.mem_cons.mp hp with rfl | hq
      · exact hx
      · exact le_trans hx (le_of_lt ((List.pairwise_cons.mp h).1 p hq))

theorem takeWhile_lt (m : List Host.Cell) (n : Nat) : ∀ p ∈ m.takeWhile (fun p => decide (p.1 < n)), p.1 < n := by
  intro p hp
  simpa using List.mem_takeWhile_imp hp

/-- A write keeps a memory in its canonical form. -/
theorem mwrite_wf (m : List Host.Cell) (a : Nat) (d : Bytes) (h : Memory.wf m) : Memory.wf (mwrite m a d) := by
  have hd := dropWhile_ge m (a + d.length) h.1
  have ht := takeWhile_lt m a
  have hc := cellsOf_bounds d a
  have hw := cellsOf_wf d a
  refine ⟨?_, ?_⟩
  · unfold mwrite
    rw [List.pairwise_append, List.pairwise_append]
    refine ⟨⟨h.1.sublist (List.takeWhile_sublist _), hw.1, ?_⟩, h.1.sublist (List.dropWhile_sublist _), ?_⟩
    · intro p hp q hq
      have := ht p hp; have := hc q hq; omega
    · intro p hp q hq
      have h2 := hd q hq
      rcases List.mem_append.mp hp with h1 | h1
      · have := ht p h1; omega
      · have := hc p h1; omega
  · intro p hp
    unfold mwrite at hp
    rcases List.mem_append.mp hp with h1 | h1
    · rcases List.mem_append.mp h1 with h2 | h2
      · exact h.2 p (List.takeWhile_subset _ h2)
      · exact hw.2 p h2
    · exact h.2 p ((List.dropWhile_sublist _).subset h1)

/-- A fold of writes keeps a memory in its canonical form. -/
theorem foldl_mwrite_wf {α : Type} (l : List α) (f : List Host.Cell → α → List Host.Cell)
    (hf : ∀ m x, Memory.wf m → Memory.wf (f m x)) : ∀ m, Memory.wf m → Memory.wf (l.foldl f m) := by
  induction l with
  | nil => intro m h; exact h
  | cons x r ih => intro m h; exact ih _ (hf m x h)

/-! Tables. -/

@[simp] theorem tget_tput_self {α : Type} (t : Tbl α) (k : Nat) (v : α) : tget (tput t k v) k = some v := by
  induction t with
  | nil => simp [tput, tget]
  | cons p r ih =>
    obtain ⟨a, w⟩ := p
    unfold tput
    split
    · simp [tget]
    · split
      · simp [tget]
      · rename_i h1 h2
        simp [tget, h1, h2, ih]

theorem tget_tput_ne {α : Type} (t : Tbl α) {k j : Nat} (v : α) (h : k ≠ j) : tget (tput t k v) j = tget t j := by
  induction t with
  | nil =>
    simp only [tput, tget, h, if_false]
    split <;> rfl
  | cons p r ih =>
    obtain ⟨a, w⟩ := p
    unfold tput
    split
    · rename_i h1
      subst h1
      simp [tget, h]
    · split
      · rename_i h1 h2
        show (if k = j then some v else if j < k then none else tget ((a, w) :: r) j) = _
        rw [if_neg h]
        split
        · rename_i h3
          have h4 : a ≠ j := by omega
          have h5 : j < a := by omega
          simp [tget, h4, h5]
        · rfl
      · simp only [tget, ih]

@[simp] theorem tgetD_tput_self {α : Type} (t : Tbl α) (k : Nat) (v d : α) : tgetD (tput t k v) k d = v := by
  simp [tgetD]

theorem tgetD_tput_ne {α : Type} (t : Tbl α) {k j : Nat} (v d : α) (h : k ≠ j) : tgetD (tput t k v) j d = tgetD t j d := by
  simp [tgetD, tget_tput_ne t v h]

/-! Reads. -/

theorem tget_find {m : List Host.Cell} (h : m.Pairwise (fun p q => p.1 < q.1)) (x : Nat) :
    tget m x = (m.find? fun p => decide (p.1 = x)).map (·.2) := by
  induction m with
  | nil => rfl
  | cons p r ih =>
    obtain ⟨a, v⟩ := p
    have hr := List.pairwise_cons.mp h
    simp only [tget, List.find?_cons]
    split
    · rename_i h1
      simp [h1]
    · rename_i h1
      simp only [h1, decide_false]
      split
      · rename_i h2
        have : r.find? (fun p => decide (p.1 = x)) = none := by
          rw [List.find?_eq_none]
          intro q hq
          have := hr.1 q hq
          simp only [decide_eq_true_eq]
          omega
        simp [this]
      · exact ih hr.2

theorem find_none_of {m : List Host.Cell} {x : Nat} (h : ∀ p ∈ m, p.1 ≠ x) : m.find? (fun p => decide (p.1 = x)) = none := by
  rw [List.find?_eq_none]
  intro p hp
  simpa using h p hp

theorem find_take_drop (m : List Host.Cell) (a x : Nat) (h : m.Pairwise (fun p q => p.1 < q.1)) :
    (x < a → (m.takeWhile fun p => decide (p.1 < a)).find? (fun p => decide (p.1 = x)) = m.find? fun p => decide (p.1 = x)) ∧
    (a ≤ x → (m.dropWhile fun p => decide (p.1 < a)).find? (fun p => decide (p.1 = x)) = m.find? fun p => decide (p.1 = x)) := by
  have e := List.takeWhile_append_dropWhile (p := fun p : Host.Cell => decide (p.1 < a)) (l := m)
  refine ⟨fun hx => ?_, fun hx => ?_⟩
  · conv_rhs => rw [← e]
    rw [List.find?_append, find_none_of (m := m.dropWhile _) fun p hp => ?_, Option.or_none]
    have := dropWhile_ge m a h p hp
    omega
  · conv_rhs => rw [← e]
    rw [List.find?_append, find_none_of (m := m.takeWhile _) fun p hp => ?_, Option.none_or]
    have := takeWhile_lt m a p hp
    omega

theorem cellsOf_read (d : Bytes) : ∀ a i, i < d.length → (tget (cellsOf a d) (a + i)).getD 0#8 = d.getD i 0#8 := by
  induction d with
  | nil => intro a i h; simp at h
  | cons x r ih =>
    intro a i h
    simp only [cellsOf]
    cases i with
    | zero =>
      split
      · rename_i hx
        rw [tget_find (cellsOf_wf r (a + 1)).1, find_none_of fun p hp => ?_]
        · simp [hx]
        · have := cellsOf_bounds r (a + 1) p hp
          omega
      · simp [tget]
    | succ k =>
      have hk : k < r.length := by simpa using h
      have e : a + (k + 1) = a + 1 + k := by omega
      split
      · rw [e, ih (a + 1) k hk]; simp
      · have h1 : ¬ a = a + (k + 1) := by omega
        have h2 : ¬ a + (k + 1) < a := by omega
        simp only [tget, h1, h2, if_false]
        rw [e, ih (a + 1) k hk]; simp

/-- A byte read after a write: the byte written within it, the byte as it was outside. -/
theorem mread1_mwrite {m : List Host.Cell} (a : Nat) (d : Bytes) (x : Nat) (h : Memory.wf m) :
    mread1 (mwrite m a d) x = if a ≤ x ∧ x < a + d.length then d.getD (x - a) 0#8 else mread1 m x := by
  have hw := mwrite_wf m a d h
  have ft := find_take_drop m a x h.1
  have fd := find_take_drop m (a + d.length) x h.1
  unfold mread1 tgetD
  split
  · rename_i hx
    obtain ⟨i, rfl⟩ : ∃ i, x = a + i := ⟨x - a, by omega⟩
    have hi : i < d.length := by omega
    rw [tget_find hw.1]
    unfold mwrite
    rw [List.find?_append, List.find?_append, find_none_of fun p hp => ?_, Option.none_or]
    · rw [find_none_of (m := m.dropWhile _) fun p hp => ?_, Option.or_none, ← tget_find (cellsOf_wf d a).1,
        cellsOf_read d a i hi, Nat.add_sub_cancel_left]
      have := dropWhile_ge m (a + d.length) h.1 p hp
      omega
    · have := takeWhile_lt m a p hp
      omega
  · rename_i hx
    rw [tget_find hw.1, tget_find h.1]
    unfold mwrite
    rw [List.find?_append, List.find?_append]
    have hc : (cellsOf a d).find? (fun p => decide (p.1 = x)) = none := find_none_of fun p hp => by
      have := cellsOf_bounds d a p hp
      omega
    rw [hc, Option.or_none]
    by_cases hlt : x < a
    · rw [ft.1 hlt, find_none_of (m := m.dropWhile _) fun p hp => ?_, Option.or_none]
      have := dropWhile_ge m (a + d.length) h.1 p hp
      omega
    · rw [find_none_of (m := m.takeWhile _) fun p hp => ?_, Option.none_or, fd.2 (by omega)]
      have := takeWhile_lt m a p hp
      omega

theorem mread1_drop {m : List Host.Cell} (h : m.Pairwise (fun p q => p.1 < q.1)) {a x : Nat} (hx : a ≤ x) :
    mread1 (m.dropWhile fun p => decide (p.1 < a)) x = mread1 m x := by
  unfold mread1 tgetD
  rw [tget_find (h.sublist (List.dropWhile_sublist _)), tget_find h, (find_take_drop m a x h).2 hx]

theorem mwalk_eq (n : Nat) : ∀ (m : List Host.Cell) (a : Nat), m.Pairwise (fun p q => p.1 < q.1) → (∀ p ∈ m, a ≤ p.1) →
    mwalk m a n = (List.range n).map fun i => mread1 m (a + i) := by
  induction n with
  | zero => intro m a _ _; cases m <;> rfl
  | succ k ih =>
    intro m a h hm
    rw [List.range_succ_eq_map, List.map_cons, List.map_map]
    cases m with
    | nil =>
      simp only [mwalk]
      rw [ih [] (a + 1) List.Pairwise.nil (by simp)]
      congr 1
    | cons p r =>
      obtain ⟨b, v⟩ := p
      have hr := List.pairwise_cons.mp h
      have hb : a ≤ b := hm (b, v) (by simp)
      simp only [mwalk]
      split
      · rename_i e
        subst e
        rw [ih r (b + 1) hr.2 fun p hp => hr.1 p hp]
        congr 1
        · simp [mread1, tgetD, tget]
        · apply List.map_congr_left
          intro i hi
          have e1 : ¬ b = b + (i + 1) := by omega
          have e2 : ¬ b + (i + 1) < b := by omega
          show mread1 r (b + 1 + i) = mread1 ((b, v) :: r) (b + (i + 1))
          simp only [mread1, tgetD, tget, e1, e2, if_false]
          congr 2
          omega
      · rename_i e
        rw [ih ((b, v) :: r) (a + 1) h fun p hp => ?_]
        · congr 1
          · have h1 : a < b := by omega
            simp [mread1, tgetD, tget, e, h1]
          · apply List.map_congr_left
            intro i hi
            show mread1 _ (a + 1 + i) = mread1 _ (a + (i + 1))
            congr 1
            omega
        · rcases List.mem_cons.mp hp with rfl | hq
          · show a + 1 ≤ b; omega
          · have := hr.1 p hq
            show a + 1 ≤ p.1; omega

/-- A read is the bytes at its addresses. -/
theorem mread_eq {m : List Host.Cell} (h : Memory.wf m) (a n : Nat) :
    mread m a n = (List.range n).map fun i => mread1 m (a + i) := by
  unfold mread
  rw [mwalk_eq n _ a (h.1.sublist (List.dropWhile_sublist _)) fun p hp => dropWhile_ge m a h.1 p hp]
  apply List.map_congr_left
  intro i hi
  exact mread1_drop h.1 (by omega)

/-- What was written is read. -/
theorem mread_mwrite {m : List Host.Cell} (h : Memory.wf m) (a : Nat) (d : Bytes) : mread (mwrite m a d) a d.length = d := by
  rw [mread_eq (mwrite_wf m a d h)]
  apply List.ext_getElem
  · simp
  · intro i h1 h2
    have hi : i < d.length := h2
    simp only [List.getElem_map, List.getElem_range]
    rw [mread1_mwrite a d (a + i) h, if_pos (by omega), Nat.add_sub_cancel_left]
    simp [List.getD_eq_getElem?_getD, hi]

/-- Outside a write everything reads as before. -/
theorem mread_mwrite_out {m : List Host.Cell} (h : Memory.wf m) (a b n : Nat) (d : Bytes)
    (ho : b + n ≤ a ∨ a + d.length ≤ b) : mread (mwrite m a d) b n = mread m b n := by
  rw [mread_eq (mwrite_wf m a d h), mread_eq h]
  apply List.map_congr_left
  intro i hi
  have := List.mem_range.mp hi
  rw [mread1_mwrite a d (b + i) h, if_neg (by omega)]

end Sys2Proof.Machine
end

