-- ==== Sys2Proof/Laws/Kept.lean ====
section
/-! SUPPORT. What every operation of the device keeps, as one relation between the state before and the state after: the
queue, the canonical form of both memories, the straps and fuses, the lockout latch once set, and the fuse floor. -/

namespace Sys2Proof.Machine
open Sys2Proof

/-- What every operation but a cold reset keeps. -/
structure Kept (s t : State) : Prop where
  queue : t.pending = s.pending
  stage : Memory.wf s.stage → Memory.wf t.stage
  mbox : Memory.wf s.mbox → Memory.wf t.mbox
  devid : t.isl.devid = s.isl.devid
  addr : t.isl.addr = s.isl.addr
  serial : t.isl.serial = s.isl.serial
  floor : s.hm.floor ≤ t.hm.floor
  latch : s.sec.latch = true → t.sec.latch = true

theorem Kept.refl (s : State) : Kept s s := ⟨rfl, id, id, rfl, rfl, rfl, le_refl _, id⟩

theorem Kept.trans {s t u : State} (h : Kept s t) (k : Kept t u) : Kept s u :=
  ⟨k.queue.trans h.queue, k.stage ∘ h.stage, k.mbox ∘ h.mbox, k.devid.trans h.devid, k.addr.trans h.addr,
   k.serial.trans h.serial, le_trans h.floor k.floor, k.latch ∘ h.latch⟩

/-- What every operation keeps, a cold reset among them: the latch stays set unless the core is held in a cold reset. -/
structure KeptC (s t : State) : Prop where
  queue : t.pending = s.pending
  stage : Memory.wf s.stage → Memory.wf t.stage
  mbox : Memory.wf s.mbox → Memory.wf t.mbox
  devid : t.isl.devid = s.isl.devid
  addr : t.isl.addr = s.isl.addr
  serial : t.isl.serial = s.isl.serial
  floor : s.hm.floor ≤ t.hm.floor
  latch : s.sec.latch = true → t.sec.latch = true ∨ t.isl.resetState = .cold

theorem Kept.toC {s t : State} (h : Kept s t) : KeptC s t :=
  ⟨h.queue, h.stage, h.mbox, h.devid, h.addr, h.serial, h.floor, fun x => Or.inl (h.latch x)⟩

theorem Kept.thenC {s t u : State} (h : Kept s t) (k : KeptC t u) : KeptC s u :=
  ⟨k.queue.trans h.queue, k.stage ∘ h.stage, k.mbox ∘ h.mbox, k.devid.trans h.devid, k.addr.trans h.addr,
   k.serial.trans h.serial, le_trans h.floor k.floor, k.latch ∘ h.latch⟩

/-- A record update that leaves the fields of the relation alone. -/
theorem Kept.of {s X t : State} (h : Kept s X) (q : t.pending = X.pending) (a : t.stage = X.stage) (b : t.mbox = X.mbox)
    (c : t.isl.devid = X.isl.devid) (d : t.isl.addr = X.isl.addr) (e : t.isl.serial = X.isl.serial)
    (f : t.hm.floor = X.hm.floor) (g : t.sec.latch = X.sec.latch) : Kept s t :=
  h.trans ⟨q, fun x => a ▸ x, fun x => b ▸ x, c, d, e, le_of_eq f.symm, fun x => g ▸ x⟩

/-! A change of one part of the state that the relation does not look into. -/

theorem Kept.setRefCycles {s X : State} (h : Kept s X) (v : Nat) : Kept s { X with refCycles := v } :=
  ⟨h.queue, h.stage, h.mbox, h.devid, h.addr, h.serial, h.floor, h.latch⟩

theorem Kept.setTide {s X : State} (h : Kept s X) (v : TideUnit) : Kept s { X with tide := v } :=
  ⟨h.queue, h.stage, h.mbox, h.devid, h.addr, h.serial, h.floor, h.latch⟩

theorem Kept.setRing {s X : State} (h : Kept s X) (v : RingUnit) : Kept s { X with ring := v } :=
  ⟨h.queue, h.stage, h.mbox, h.devid, h.addr, h.serial, h.floor, h.latch⟩

theorem Kept.setEngines {s X : State} (h : Kept s X) (v : Tbl EngineSt) : Kept s { X with engines := v } :=
  ⟨h.queue, h.stage, h.mbox, h.devid, h.addr, h.serial, h.floor, h.latch⟩

theorem Kept.setSpillUsed {s X : State} (h : Kept s X) (v : Nat) : Kept s { X with spillUsed := v } :=
  ⟨h.queue, h.stage, h.mbox, h.devid, h.addr, h.serial, h.floor, h.latch⟩

theorem Kept.setStraySegments {s X : State} (h : Kept s X) (v : Nat) : Kept s { X with straySegments := v } :=
  ⟨h.queue, h.stage, h.mbox, h.devid, h.addr, h.serial, h.floor, h.latch⟩

theorem Kept.setMan {s X : State} (h : Kept s X) (v : Manifest) : Kept s { X with man := v } :=
  ⟨h.queue, h.stage, h.mbox, h.devid, h.addr, h.serial, h.floor, h.latch⟩

theorem Kept.setIng {s X : State} (h : Kept s X) (v : Ingress) : Kept s { X with ing := v } :=
  ⟨h.queue, h.stage, h.mbox, h.devid, h.addr, h.serial, h.floor, h.latch⟩

theorem Kept.setHome {s X : State} (h : Kept s X) (v : Home) : Kept s { X with home := v } :=
  ⟨h.queue, h.stage, h.mbox, h.devid, h.addr, h.serial, h.floor, h.latch⟩

theorem Kept.setPorts {s X : State} (h : Kept s X) (v : Ports) : Kept s { X with ports := v } :=
  ⟨h.queue, h.stage, h.mbox, h.devid, h.addr, h.serial, h.floor, h.latch⟩

theorem Kept.setSw {s X : State} (h : Kept s X) (v : Switch) : Kept s { X with sw := v } :=
  ⟨h.queue, h.stage, h.mbox, h.devid, h.addr, h.serial, h.floor, h.latch⟩

theorem Kept.setPilot {s X : State} (h : Kept s X) (v : Pilot) : Kept s { X with pilot := v } :=
  ⟨h.queue, h.stage, h.mbox, h.devid, h.addr, h.serial, h.floor, h.latch⟩

theorem Kept.setAcc {s X : State} (h : Kept s X) (v : Accept) : Kept s { X with acc := v } :=
  ⟨h.queue, h.stage, h.mbox, h.devid, h.addr, h.serial, h.floor, h.latch⟩

theorem Kept.setTel {s X : State} (h : Kept s X) (v : Telemetry) : Kept s { X with tel := v } :=
  ⟨h.queue, h.stage, h.mbox, h.devid, h.addr, h.serial, h.floor, h.latch⟩

theorem Kept.setCopies {s X : State} (h : Kept s X) (v : List TierCopy) : Kept s { X with copies := v } :=
  ⟨h.queue, h.stage, h.mbox, h.devid, h.addr, h.serial, h.floor, h.latch⟩

theorem Kept.setOut {s X : State} (h : Kept s X) (v : List Out) : Kept s { X with out := v } :=
  ⟨h.queue, h.stage, h.mbox, h.devid, h.addr, h.serial, h.floor, h.latch⟩

theorem Kept.setFreeCount {s X : State} (h : Kept s X) (v : Nat) : Kept s { X with freeCount := v } :=
  ⟨h.queue, h.stage, h.mbox, h.devid, h.addr, h.serial, h.floor, h.latch⟩

theorem Kept.mapHm {s X : State} (f : Harbour → Harbour) (hf : ∀ x, (f x).floor = x.floor) (h : Kept s X) :
    Kept s { X with hm := f X.hm } :=
  ⟨h.queue, h.stage, h.mbox, h.devid, h.addr, h.serial, (hf X.hm).symm ▸ h.floor, h.latch⟩

theorem Kept.mapIsl {s X : State} (f : Island → Island) (ha : ∀ x, (f x).devid = x.devid) (hb : ∀ x, (f x).addr = x.addr)
    (hc : ∀ x, (f x).serial = x.serial) (h : Kept s X) : Kept s { X with isl := f X.isl } :=
  ⟨h.queue, h.stage, h.mbox, (ha X.isl).trans h.devid, (hb X.isl).trans h.addr, (hc X.isl).trans h.serial, h.floor, h.latch⟩

/-- A record update that changes a memory by a write, raises the floor or sets the latch. -/
theorem Kept.by {s X t : State} (h : Kept s X) (q : t.pending = X.pending) (a : Memory.wf X.stage → Memory.wf t.stage)
    (b : Memory.wf X.mbox → Memory.wf t.mbox) (c : t.isl.devid = X.isl.devid) (d : t.isl.addr = X.isl.addr)
    (e : t.isl.serial = X.isl.serial) (f : X.hm.floor ≤ t.hm.floor) (g : X.sec.latch = true → t.sec.latch = true) : Kept s t :=
  h.trans ⟨q, a, b, c, d, e, f, g⟩

theorem Kept.alert {s t : State} (h : Kept s t) (c : Prop) [Decidable c] :
    Kept s (if c then { t with isl := { t.isl with alert := true } } else t) := by
  split
  · exact Kept.of h rfl rfl rfl rfl rfl rfl rfl rfl
  · exact h

theorem Kept.foldl {α : Type} {f : State → α → State} {l : List α} {s X : State} (hf : ∀ y x, Kept y (f y x))
    (h : Kept s X) : Kept s (l.foldl f X) := by
  induction l generalizing X with
  | nil => exact h
  | cons x r ih => exact ih (h.trans (hf X x))

/-- A fold whose accumulator holds the state as one of its parts. -/
theorem Kept.foldlP {α σ : Type} (π : σ → State) {f : σ → α → σ} {l : List α} {s : State} {X : σ}
    (hf : ∀ y x, Kept (π y) (π (f y x))) (h : Kept s (π X)) : Kept s (π (l.foldl f X)) := by
  induction l generalizing X with
  | nil => exact h
  | cons x r ih => exact ih (h.trans (hf X x))

end Sys2Proof.Machine
end

