-- ==== Sys2Proof/Laws/KeptOps.lean ====
section
/-! SUPPORT. One lemma per operation of the shared operations, acceptance and the logbook: what it keeps. -/

namespace Sys2Proof.Machine
open Sys2Proof

/-! Ops -/

theorem emit_kept : ∀ o s, Kept s (emit o s) := by
  intro o s
  unfold emit
  refine Kept.setOut (X := s) ?_ _
  exact Kept.refl _

theorem draw_kept : ∀ s, Kept s (draw s).2 := by
  intro s
  unfold draw
  dsimp only
  refine Kept.setFreeCount (X := s) ?_ _
  exact Kept.refl _

theorem signal_kept : ∀ v s, Kept s (signal v s) := by
  intro v s
  unfold signal
  split
  · refine Kept.setTel (X := s) ?_ _
    exact Kept.refl _
  · refine Kept.trans ?_ (emit_kept _ _)
    refine Kept.setTel (X := s) ?_ _
    exact Kept.refl _

theorem sendOwed_kept : ∀ s, Kept s (sendOwed s) := by
  intro s
  unfold sendOwed
  refine Kept.foldl (fun y x => ?_) ?_
  · refine Kept.trans ?_ (signal_kept _ _)
    exact Kept.refl _
  · refine Kept.setTel (X := s) ?_ _
    exact Kept.refl _

theorem ringPush_kept : ∀ east dest m s, Kept s (ringPush east dest m s) := by
  intro east dest m s
  unfold ringPush
  refine Kept.setRing (X := s) ?_ _
  exact Kept.refl _

theorem ringSend_kept : ∀ dest m s, Kept s (ringSend dest m s) := by
  intro dest m s
  unfold ringSend
  split
  · refine Kept.trans ?_ (ringPush_kept _ _ _ _)
    exact Kept.refl _
  · split
    · refine Kept.trans ?_ (ringPush_kept _ _ _ _)
      exact Kept.refl _
    · refine Kept.foldl (fun y x => ?_) ?_
      · refine Kept.trans ?_ (ringPush_kept _ _ _ _)
        exact Kept.refl _
      · exact Kept.refl _

theorem control_kept : ∀ dest code args s, Kept s (control dest code args s) := by
  intro dest code args s
  unfold control
  extract_lets +onlyGivenNames v0
  clear_value v0
  refine Kept.trans ?_ (ringSend_kept _ _ _)
  refine Kept.setRing (X := s) ?_ _
  exact Kept.refl _

theorem broadcast_kept : ∀ code args s, Kept s (broadcast code args s) := by
  intro code args s
  unfold broadcast
  refine Kept.trans ?_ (control_kept _ _ _ _)
  exact Kept.refl _

theorem recordReason_kept : ∀ code s, Kept s (recordReason code s) := by
  intro code s
  unfold recordReason
  split
  · exact Kept.refl _
  · extract_lets +onlyGivenNames v0
    clear_value v0
    extract_lets +onlyGivenNames v1
    clear_value v1
    extract_lets +onlyGivenNames v2
    clear_value v2
    refine Kept.setTel (X := s) ?_ _
    exact Kept.refl _

theorem setLighter_kept : ∀ l x s, Kept s (setLighter l x s) := by
  intro l x s
  unfold setLighter
  refine Kept.of (X := s) ?_ rfl rfl rfl rfl rfl rfl rfl rfl
  exact Kept.refl _

theorem lighterSend_kept : ∀ l content plain s, Kept s (lighterSend l content plain s) := by
  intro l content plain s
  unfold lighterSend
  extract_lets +onlyGivenNames v0
  clear_value v0
  split
  · exact Kept.refl _
  · split
    · exact Kept.refl _
    · extract_lets +onlyGivenNames v1
      clear_value v1
      extract_lets +onlyGivenNames v2
      clear_value v2
      extract_lets +onlyGivenNames v3
      clear_value v3
      extract_lets +onlyGivenNames v4
      clear_value v4
      extract_lets +onlyGivenNames v5
      clear_value v5
      extract_lets +onlyGivenNames v6
      have h7 : Kept s v6 := by
        unfold v6
        refine Kept.trans ?_ (setLighter_kept _ _ _)
        exact Kept.refl _
      clear_value v6
      extract_lets +onlyGivenNames v8
      have h9 : Kept s v8 := by
        unfold v8
        refine Kept.trans ?_ (emit_kept _ _)
        assumption
      clear_value v8
      split
      · refine Kept.trans ?_ (signal_kept _ _)
        assumption
      · assumption

theorem eventWrite_kept : ∀ rec s, Kept s (eventWrite rec s) := by
  intro rec s
  unfold eventWrite
  split
  · refine Kept.trans ?_ (lighterSend_kept _ _ _ _)
    exact Kept.refl _
  · extract_lets +onlyGivenNames v0
    clear_value v0
    extract_lets +onlyGivenNames v1
    clear_value v1
    extract_lets +onlyGivenNames v2
    have h3 : Kept s v2 := by
      unfold v2
      refine Kept.by (X := s) ?_ rfl id (mwrite_wf _ _ _) rfl rfl rfl le_rfl id
      exact Kept.refl _
    clear_value v2
    split
    · refine Kept.trans ?_ (signal_kept _ _)
      assumption
    · assumption

theorem countLost_kept : ∀ s, Kept s (countLost s) := by
  intro s
  unfold countLost
  refine Kept.setTel (X := s) ?_ _
  exact Kept.refl _

theorem eventPut_kept : ∀ code summary fields s, Kept s (eventPut code summary fields s) := by
  intro code summary fields s
  unfold eventPut
  extract_lets n r x s1 s2
  have h1 : Kept s s1 := Kept.of (X := s) (Kept.refl s) rfl rfl rfl rfl rfl rfl rfl rfl
  have h2 : Kept s s2 := by
    unfold s2
    split
    · exact h1.trans (countLost_kept _)
    · exact h1.trans (eventWrite_kept _ _)
  exact h2.alert (severity code = 3)

theorem raise_kept : ∀ code fields s, Kept s (raise code fields s) := by
  intro code fields s
  unfold raise
  refine Kept.trans ?_ (eventPut_kept _ _ _ _)
  refine Kept.trans ?_ (recordReason_kept _ _)
  exact Kept.refl _

theorem raiseLimited_kept : ∀ code key period fields n s, Kept s (raiseLimited code key period fields n s) := by
  intro code key period fields n s
  unfold raiseLimited
  extract_lets +onlyGivenNames v0
  have h1 : Kept s v0 := by
    unfold v0
    refine Kept.trans ?_ (recordReason_kept _ _)
    exact Kept.refl _
  clear_value v0
  extract_lets +onlyGivenNames v2
  clear_value v2
  extract_lets +onlyGivenNames v3
  clear_value v3
  extract_lets +onlyGivenNames v4
  clear_value v4
  refine Kept.setTel (X := v0) ?_ _
  assumption

theorem flushSummaries_kept : ∀ period s, Kept s (flushSummaries period s) := by
  intro period s
  unfold flushSummaries
  extract_lets +onlyGivenNames v0
  clear_value v0
  extract_lets +onlyGivenNames v1
  clear_value v1
  extract_lets +onlyGivenNames v2
  have h3 : Kept s v2 := by
    unfold v2
    refine Kept.setTel (X := s) ?_ _
    exact Kept.refl _
  clear_value v2
  refine Kept.foldl (fun y x => ?_) ?_
  · refine Kept.trans ?_ (eventPut_kept _ _ _ _)
    exact Kept.refl _
  · assumption

theorem setBox_kept : ∀ m b s, Kept s (setBox m b s) := by
  intro m b s
  unfold setBox
  refine Kept.of (X := s) ?_ rfl rfl rfl rfl rfl rfl rfl rfl
  exact Kept.refl _

theorem ringPost_kept : ∀ m bytes job s, Kept s (ringPost m bytes job s) := by
  intro m bytes job s
  unfold ringPost
  extract_lets b n p base padRec mem t mem' t' b' s1
  have hm : Memory.wf s.mbox → Memory.wf mem := by
    intro h
    unfold mem
    split
    · exact h
    · exact mwrite_wf _ _ _ h
  have h1 : Kept s s1 :=
    Kept.trans (t := { s with mbox := mem' })
      (Kept.by (X := s) (Kept.refl s) rfl id (fun h => mwrite_wf mem _ _ (hm h)) rfl rfl rfl le_rfl id) (setBox_kept _ _ _)
  clear_value s1
  split
  · exact h1.trans (signal_kept _ _)
  · exact h1

theorem post_kept : ∀ m a job s, Kept s (post m a job s) := by
  intro m a job s
  unfold post
  extract_lets +onlyGivenNames v0
  clear_value v0
  extract_lets +onlyGivenNames v1
  clear_value v1
  extract_lets +onlyGivenNames v2
  clear_value v2
  extract_lets +onlyGivenNames v3
  clear_value v3
  split
  · refine Kept.trans ?_ (setBox_kept _ _ _)
    exact Kept.refl _
  · refine Kept.trans ?_ (ringPost_kept _ _ _ _)
    exact Kept.refl _

theorem send_kept : ∀ m viaLighter a job s, Kept s (send m viaLighter a job s) := by
  intro m viaLighter a job s
  unfold send
  split
  · refine Kept.trans ?_ (lighterSend_kept _ _ _ _)
    exact Kept.refl _
  · refine Kept.trans ?_ (post_kept _ _ _ _)
    exact Kept.refl _

theorem untake_kept : ∀ m tag s, Kept s (untake m tag s) := by
  intro m tag s
  unfold untake
  split
  · exact Kept.refl _
  · extract_lets +onlyGivenNames v0
    clear_value v0
    extract_lets +onlyGivenNames v1
    extract_lets +onlyGivenNames v2
    have h3 : Kept s v2 := by
      unfold v2
      refine Kept.of (X := s) ?_ rfl rfl rfl rfl rfl rfl rfl rfl
      exact Kept.refl _
    clear_value v2
    refine Kept.trans ?_ (setBox_kept _ _ _)
    assumption

theorem resultWith_kept : ∀ h code reason detail body s, Kept s (resultWith h code reason detail body s) := by
  intro h code reason detail body s
  unfold resultWith
  extract_lets +onlyGivenNames v0
  clear_value v0
  refine Kept.trans ?_ (send_kept _ _ _ _ _)
  refine Kept.trans ?_ (untake_kept _ _ _)
  refine Kept.trans ?_ (recordReason_kept _ _)
  exact Kept.refl _

theorem result_kept : ∀ h code reason body s, Kept s (result h code reason body s) := by
  intro h code reason body s
  unfold result
  refine Kept.trans ?_ (resultWith_kept _ _ _ _ _ _)
  exact Kept.refl _

theorem countRemoval_kept : ∀ c poisoned refused stopped s, Kept s (countRemoval c poisoned refused stopped s) := by
  intro c poisoned refused stopped s
  unfold countRemoval
  refine Kept.of (X := s) ?_ rfl rfl rfl rfl rfl rfl rfl rfl
  exact Kept.refl _

/-! Measure -/

theorem measure_kept : ∀ kind measurer id aux digest s, Kept s (measure kind measurer id aux digest s) := by
  intro kind measurer id aux digest s
  unfold measure
  split
  · exact Kept.refl _
  · extract_lets +onlyGivenNames v0
    clear_value v0
    extract_lets +onlyGivenNames v1
    clear_value v1
    extract_lets +onlyGivenNames v2
    clear_value v2
    extract_lets +onlyGivenNames v3
    clear_value v3
    refine Kept.of (X := s) ?_ rfl rfl rfl rfl rfl rfl rfl rfl
    exact Kept.refl _

theorem measureSecurity_kept : ∀ s, Kept s (measureSecurity s) := by
  intro s
  unfold measureSecurity
  refine Kept.trans ?_ (measure_kept _ _ _ _ _ _)
  exact Kept.refl _

/-! Accept -/

theorem setJob_kept : ∀ j s, Kept s (setJob j s) := by
  intro j s
  unfold setJob
  refine Kept.setAcc (X := s) ?_ _
  exact Kept.refl _

theorem addJob_kept : ∀ j s, Kept s (addJob j s) := by
  intro j s
  unfold addJob
  refine Kept.setAcc (X := s) ?_ _
  exact Kept.refl _

theorem dropJob_kept : ∀ key s, Kept s (dropJob key s) := by
  intro key s
  unfold dropJob
  refine Kept.setAcc (X := s) ?_ _
  exact Kept.refl _

theorem setNext_kept : ∀ q owner n s, Kept s (setNext q owner n s) := by
  intro q owner n s
  unfold setNext
  refine Kept.setAcc (X := s) ?_ _
  exact Kept.refl _

theorem logPut_kept : ∀ r s, Kept s (logPut r s) := by
  intro r s
  unfold logPut
  extract_lets +onlyGivenNames v0
  clear_value v0
  extract_lets +onlyGivenNames v1
  clear_value v1
  extract_lets +onlyGivenNames v2
  clear_value v2
  extract_lets +onlyGivenNames v3
  clear_value v3
  refine Kept.setAcc (X := s) ?_ _
  exact Kept.refl _

theorem logTrim_kept : ∀ fuel s, Kept s (logTrim fuel s) := by
  intro fuel s
  induction fuel generalizing s with
  | zero => exact Kept.refl s
  | succ k ih =>
    unfold logTrim
    split
    · exact Kept.refl _
    · extract_lets +onlyGivenNames v0
      clear_value v0
      extract_lets +onlyGivenNames v1
      have h2 : Kept s v1 := by
        unfold v1
        refine Kept.setAcc (X := s) ?_ _
        exact Kept.refl _
      clear_value v1
      split
      · refine Kept.trans ?_ (ih _)
        assumption
      · split
        · exact Kept.refl _
        · extract_lets +onlyGivenNames v3
          clear_value v3
          refine Kept.trans ?_ (ih _)
          extract_lets +onlyGivenNames v4
          have h5 : Kept s v4 := by
            unfold v4
            refine Kept.trans ?_ (logPut_kept _ _)
            assumption
          clear_value v4
          refine Kept.setAcc (X := v4) ?_ _
          assumption

theorem logAppend_kept : ∀ r s, Kept s (logAppend r s) := by
  intro r s
  unfold logAppend
  extract_lets +onlyGivenNames v0
  have h1 : Kept s v0 := by
    unfold v0
    refine Kept.trans ?_ (logPut_kept _ _)
    exact Kept.refl _
  clear_value v0
  refine Kept.trans ?_ (logTrim_kept _ _)
  refine Kept.setAcc (X := v0) ?_ _
  assumption

theorem sendFragments_kept : ∀ dest r msg0 s, Kept s (sendFragments dest r msg0 s) := by
  intro dest r msg0 s
  unfold sendFragments
  extract_lets +onlyGivenNames v0
  clear_value v0
  extract_lets +onlyGivenNames v1
  clear_value v1
  refine Kept.foldl (fun y x => ?_) ?_
  · refine Kept.trans ?_ (ringSend_kept _ _ _)
    exact Kept.refl _
  · exact Kept.refl _

theorem sendRecord_kept : ∀ dest sync r s, Kept s (sendRecord dest sync r s) := by
  intro dest sync r s
  unfold sendRecord
  extract_lets +onlyGivenNames v0
  clear_value v0
  extract_lets +onlyGivenNames v1
  have h2 : Kept s v1 := by
    unfold v1
    refine Kept.trans ?_ (sendFragments_kept _ _ _ _)
    exact Kept.refl _
  clear_value v1
  extract_lets +onlyGivenNames v3
  clear_value v3
  extract_lets +onlyGivenNames v4
  have h5 : Kept s v4 := by
    unfold v4
    refine Kept.setRing (X := v1) ?_ _
    assumption
  clear_value v4
  refine Kept.setAcc (X := v4) ?_ _
  assumption

theorem logJob_kept : ∀ kind body sync j s, Kept s (logJob kind body sync j s) := by
  intro kind body sync j s
  unfold logJob
  extract_lets +onlyGivenNames v0
  clear_value v0
  extract_lets +onlyGivenNames v1
  have h2 : Kept s v1 := by
    unfold v1
    refine Kept.trans ?_ (logAppend_kept _ _)
    exact Kept.refl _
  clear_value v1
  split
  · assumption
  · refine Kept.trans ?_ (sendRecord_kept _ _ _ _)
    assumption

theorem logProgress_kept : ∀ code value j s, Kept s (logProgress code value j s) := by
  intro code value j s
  unfold logProgress
  split
  · refine Kept.trans ?_ (setJob_kept _ _)
    exact Kept.refl _
  · extract_lets +onlyGivenNames v0
    clear_value v0
    refine Kept.trans ?_ (logJob_kept _ _ _ _ _)
    refine Kept.trans ?_ (setJob_kept _ _)
    exact Kept.refl _

theorem clearHere_kept : ∀ key s, Kept s (clearHere key s) := by
  intro key s
  unfold clearHere
  refine Kept.setHome (X := s) ?_ _
  exact Kept.refl _

theorem sendClear_kept : ∀ homeDev dev slot s, Kept s (sendClear homeDev dev slot s) := by
  intro homeDev dev slot s
  unfold sendClear
  extract_lets +onlyGivenNames v0
  clear_value v0
  extract_lets +onlyGivenNames v1
  clear_value v1
  extract_lets +onlyGivenNames v2
  have h3 : Kept s v2 := by
    unfold v2
    refine Kept.setRing (X := s) ?_ _
    exact Kept.refl _
  clear_value v2
  extract_lets +onlyGivenNames v4
  have h5 : Kept s v4 := by
    unfold v4
    refine Kept.trans ?_ (ringSend_kept _ _ _)
    assumption
  clear_value v4
  refine Kept.setAcc (X := v4) ?_ _
  assumption

theorem freeSlot_kept : ∀ j s, Kept s (freeSlot j s) := by
  intro j s
  unfold freeSlot
  extract_lets +onlyGivenNames v0
  have h1 : Kept s v0 := by
    unfold v0
    refine Kept.trans ?_ (dropJob_kept _ _)
    exact Kept.refl _
  clear_value v0
  split
  · refine Kept.setAcc (X := v0) ?_ _
    assumption
  · assumption

theorem retireJob_kept : ∀ key s, Kept s (retireJob key s) := by
  intro key s
  unfold retireJob
  split
  · exact Kept.refl _
  · extract_lets +onlyGivenNames v0
    clear_value v0
    extract_lets +onlyGivenNames v1
    clear_value v1
    extract_lets +onlyGivenNames v2
    clear_value v2
    extract_lets +onlyGivenNames v3
    have h4 : Kept s v3 := by
      unfold v3
      refine Kept.trans ?_ (logJob_kept _ _ _ _ _)
      exact Kept.refl _
    clear_value v3
    extract_lets +onlyGivenNames v5
    clear_value v5
    extract_lets +onlyGivenNames v6
    have h7 : Kept s v6 := by
      unfold v6
      refine Kept.trans ?_ (setJob_kept _ _)
      assumption
    clear_value v6
    extract_lets +onlyGivenNames v8
    have h9 : Kept s v8 := by
      unfold v8
      refine Kept.trans ?_ (logJob_kept _ _ _ _ _)
      assumption
    clear_value v8
    extract_lets +onlyGivenNames v10
    have h11 : Kept s v10 := by
      unfold v10
      split
      · refine Kept.trans ?_ (clearHere_kept _ _)
        assumption
      · assumption
    clear_value v10
    extract_lets +onlyGivenNames v12
    have h13 : Kept s v12 := by
      unfold v12
      refine Kept.foldl (fun y x => ?_) ?_
      · refine Kept.trans ?_ (sendClear_kept _ _ _ _)
        exact Kept.refl _
      · assumption
    clear_value v12
    split
    · refine Kept.trans ?_ (freeSlot_kept _ _)
      assumption
    · assumption

theorem refuseJob_kept : ∀ h command reason st s, Kept s (refuseJob h command reason st s) := by
  intro h command reason st s
  unfold refuseJob
  refine Kept.trans ?_ (send_kept _ _ _ _ _)
  refine Kept.trans ?_ (untake_kept _ _ _)
  refine Kept.trans ?_ (recordReason_kept _ _)
  exact Kept.refl _

theorem postAccepted_kept : ∀ j s, Kept s (postAccepted j s) := by
  intro j s
  unfold postAccepted
  extract_lets +onlyGivenNames v0
  clear_value v0
  refine Kept.trans ?_ (send_kept _ _ _ _ _)
  refine Kept.trans ?_ (untake_kept _ _ _)
  exact Kept.refl _

theorem postComplete_kept : ∀ redelivered j s, Kept s (postComplete redelivered j s) := by
  intro redelivered j s
  unfold postComplete
  extract_lets +onlyGivenNames v0
  have h1 : Kept s v0 := by
    unfold v0
    refine Kept.trans ?_ (setJob_kept _ _)
    exact Kept.refl _
  clear_value v0
  split
  · assumption
  · extract_lets +onlyGivenNames v2
    clear_value v2
    extract_lets +onlyGivenNames v3
    clear_value v3
    extract_lets +onlyGivenNames v4
    clear_value v4
    extract_lets +onlyGivenNames v5
    have h6 : Kept s v5 := by
      unfold v5
      refine Kept.trans ?_ (send_kept _ _ _ _ _)
      refine Kept.trans ?_ (recordReason_kept _ _)
      assumption
    clear_value v5
    split
    · refine Kept.trans ?_ (retireJob_kept _ _)
      assumption
    · assumption

theorem completeJob_kept : ∀ key reason result s, Kept s (completeJob key reason result s) := by
  intro key reason result s
  unfold completeJob
  split
  · exact Kept.refl _
  · extract_lets +onlyGivenNames v0
    clear_value v0
    extract_lets +onlyGivenNames v1
    have h2 : Kept s v1 := by
      unfold v1
      refine Kept.trans ?_ (logJob_kept _ _ _ _ _)
      refine Kept.trans ?_ (setJob_kept _ _)
      exact Kept.refl _
    clear_value v1
    split
    · refine Kept.trans ?_ (postComplete_kept _ _ _)
      assumption
    · assumption

theorem acceptJob_kept : ∀ key s, Kept s (acceptJob key s) := by
  intro key s
  unfold acceptJob
  split
  · exact Kept.refl _
  · extract_lets +onlyGivenNames v0
    clear_value v0
    extract_lets +onlyGivenNames v1
    have h2 : Kept s v1 := by
      unfold v1
      refine Kept.trans ?_ (setNext_kept _ _ _ _)
      refine Kept.trans ?_ (setJob_kept _ _)
      exact Kept.refl _
    clear_value v1
    split
    · refine Kept.trans ?_ (postAccepted_kept _ _)
      assumption
    · assumption

theorem voidJob_kept : ∀ key reason s, Kept s (voidJob key reason s) := by
  intro key reason s
  unfold voidJob
  split
  · exact Kept.refl _
  · extract_lets +onlyGivenNames v0
    have h1 : Kept s v0 := by
      unfold v0
      refine Kept.trans ?_ (logJob_kept _ _ _ _ _)
      exact Kept.refl _
    clear_value v0
    refine Kept.trans ?_ (refuseJob_kept _ _ _ _ _)
    refine Kept.trans ?_ (dropJob_kept _ _)
    assumption

theorem judge_kept : ∀ h command d s, Kept s (judge h command d s) := by
  intro h command d s
  unfold judge
  split
  · refine Kept.trans ?_ (refuseJob_kept _ _ _ _ _)
    exact Kept.refl _
  · split
    · refine Kept.trans ?_ (refuseJob_kept _ _ _ _ _)
      exact Kept.refl _
    · split
      · refine Kept.trans ?_ (refuseJob_kept _ _ _ _ _)
        exact Kept.refl _
      · split
        · refine Kept.trans ?_ (refuseJob_kept _ _ _ _ _)
          exact Kept.refl _
        · extract_lets +onlyGivenNames v0
          clear_value v0
          extract_lets +onlyGivenNames v1
          clear_value v1
          extract_lets +onlyGivenNames v2
          clear_value v2
          split
          · refine Kept.trans ?_ (refuseJob_kept _ _ _ _ _)
            exact Kept.refl _
          · extract_lets +onlyGivenNames v3
            have h4 : Kept s v3 := by
              unfold v3
              refine Kept.trans ?_ (logJob_kept _ _ _ _ _)
              refine Kept.trans ?_ (addJob_kept _ _)
              exact Kept.refl _
            clear_value v3
            split
            · refine Kept.trans ?_ (acceptJob_kept _ _)
              assumption
            · assumption

theorem judgeWaiting_kept : ∀ fuel s, Kept s (judgeWaiting fuel s) := by
  intro fuel s
  induction fuel generalizing s with
  | zero => exact Kept.refl s
  | succ k ih =>
    unfold judgeWaiting
    split
    · exact Kept.refl _
    · refine Kept.trans ?_ (ih _)
      refine Kept.trans ?_ (judge_kept _ _ _ _)
      refine Kept.setAcc (X := s) ?_ _
      exact Kept.refl _

theorem wakeOffers_kept : ∀ s, Kept s (wakeOffers s) := by
  intro s
  unfold wakeOffers
  refine Kept.trans ?_ (judgeWaiting_kept _ _)
  exact Kept.refl _

theorem submitChecked_kept : ∀ h command d s, Kept s (submitChecked h command d s) := by
  intro h command d s
  unfold submitChecked
  refine Kept.trans ?_ (wakeOffers_kept _)
  refine Kept.setAcc (X := s) ?_ _
  exact Kept.refl _

theorem drainWaiting_kept : ∀ fuel m s, Kept s (drainWaiting fuel m s) := by
  intro fuel m s
  induction fuel generalizing s with
  | zero => exact Kept.refl s
  | succ k ih =>
    unfold drainWaiting
    extract_lets +onlyGivenNames v0
    clear_value v0
    split
    · exact Kept.refl _
    · extract_lets +onlyGivenNames v1
      clear_value v1
      split
      · exact Kept.refl _
      · refine Kept.trans ?_ (ih _)
        refine Kept.trans ?_ (ringPost_kept _ _ _ _)
        refine Kept.trans ?_ (setBox_kept _ _ _)
        exact Kept.refl _

theorem consumePosted_kept : ∀ m old new s, Kept s (consumePosted m old new s) := by
  intro m old new s
  unfold consumePosted
  extract_lets +onlyGivenNames v0
  clear_value v0
  extract_lets +onlyGivenNames v1
  clear_value v1
  extract_lets +onlyGivenNames v2
  clear_value v2
  extract_lets +onlyGivenNames v3
  have h4 : Kept s v3 := by
    unfold v3
    refine Kept.trans ?_ (setBox_kept _ _ _)
    exact Kept.refl _
  clear_value v3
  refine Kept.foldl (fun y x => ?_) ?_
  · refine Kept.trans ?_ (retireJob_kept _ _)
    exact Kept.refl _
  · assumption

theorem settleAlone_kept : ∀ s, Kept s (settleAlone s) := by
  intro s
  unfold settleAlone
  extract_lets +onlyGivenNames v0
  have h1 : Kept s v0 := by
    unfold v0
    refine Kept.foldl (fun y x => ?_) ?_
    · refine Kept.trans ?_ (acceptJob_kept _ _)
      exact Kept.refl _
    · exact Kept.refl _
  clear_value v0
  refine Kept.foldl (fun y x => ?_) ?_
  · refine Kept.trans ?_ (postComplete_kept _ _ _)
    exact Kept.refl _
  · assumption

theorem announceQueue_kept : ∀ queue owner opened s, Kept s (announceQueue queue owner opened s) := by
  intro queue owner opened s
  unfold announceQueue
  split
  · exact Kept.refl _
  · refine Kept.trans ?_ (broadcast_kept _ _ _)
    exact Kept.refl _

theorem peerQueue_kept : ∀ holder queue owner opened s, Kept s (peerQueue holder queue owner opened s) := by
  intro holder queue owner opened s
  unfold peerQueue
  extract_lets +onlyGivenNames v0
  clear_value v0
  refine Kept.setAcc (X := s) ?_ _
  exact Kept.refl _

theorem passQueues_kept : ∀ d heir s, Kept s (passQueues d heir s) := by
  intro d heir s
  unfold passQueues
  extract_lets +onlyGivenNames v0
  clear_value v0
  extract_lets +onlyGivenNames v1
  clear_value v1
  refine Kept.setAcc (X := s) ?_ _
  exact Kept.refl _

theorem rebuddyTo_kept : ∀ b s, Kept s (rebuddyTo b s) := by
  intro b s
  unfold rebuddyTo
  split
  · exact Kept.refl _
  · extract_lets +onlyGivenNames v0
    clear_value v0
    extract_lets +onlyGivenNames v1
    clear_value v1
    extract_lets +onlyGivenNames v2
    have h3 : Kept s v2 := by
      unfold v2
      refine Kept.setAcc (X := s) ?_ _
      exact Kept.refl _
    clear_value v2
    split
    · refine Kept.trans ?_ (settleAlone_kept _)
      assumption
    · extract_lets +onlyGivenNames v4
      clear_value v4
      extract_lets +onlyGivenNames v5
      clear_value v5
      extract_lets +onlyGivenNames v6
      clear_value v6
      extract_lets +onlyGivenNames v7
      have h8 : Kept s v7 := by
        unfold v7
        refine Kept.foldl (fun y x => ?_) ?_
        · refine Kept.trans ?_ (sendRecord_kept _ _ _ _)
          exact Kept.refl _
        · assumption
      clear_value v7
      extract_lets +onlyGivenNames v9
      clear_value v9
      extract_lets +onlyGivenNames v10
      have h11 : Kept s v10 := by
        unfold v10
        refine Kept.foldl (fun y x => ?_) ?_
        · refine Kept.trans ?_ (sendRecord_kept _ _ _ _)
          exact Kept.refl _
        · assumption
      clear_value v10
      extract_lets +onlyGivenNames v12
      have h13 : Kept s v12 := by
        unfold v12
        refine Kept.foldl (fun y x => ?_) ?_
        · refine Kept.trans ?_ (announceQueue_kept _ _ _ _)
          exact Kept.refl _
        · assumption
      clear_value v12
      refine Kept.setAcc (X := v12) ?_ _
      assumption

/-! Store -/

theorem noteHoldup_kept : ∀ mv s, Kept s (noteHoldup mv s) := by
  intro mv s
  unfold noteHoldup
  split
  · refine Kept.of (X := s) ?_ rfl rfl rfl rfl rfl rfl rfl rfl
    exact Kept.refl _
  · exact Kept.refl _

theorem startFlush_kept : ∀ mv owner s, Kept s (startFlush mv owner s).2 := by
  intro mv owner s
  unfold startFlush
  extract_lets +onlyGivenNames v0
  have h1 : Kept s v0 := by
    unfold v0
    refine Kept.trans ?_ (noteHoldup_kept _ _)
    exact Kept.refl _
  clear_value v0
  extract_lets +onlyGivenNames v2
  have h4 : ∀ z3, Kept z3 (v2 z3) := by
    intro y5
    unfold v2
    refine Kept.setAcc (X := y5) ?_ _
    exact Kept.refl _
  clear_value v2
  split
  · dsimp only
    refine Kept.trans ?_ (h4 _)
    assumption
  · extract_lets +onlyGivenNames v6
    clear_value v6
    extract_lets +onlyGivenNames v7
    clear_value v7
    extract_lets +onlyGivenNames v8
    clear_value v8
    extract_lets +onlyGivenNames v9
    have h14 : ∀ z10 z11 z12 z13, Kept z13 (v9 z10 z11 z12 z13) := by
      intro y15 y16 y17 y18
      unfold v9
      refine Kept.trans ?_ (emit_kept _ _)
      refine Kept.trans ?_ (h4 _)
      refine Kept.setAcc (X := y18) ?_ _
      exact Kept.refl _
    clear_value v9
    split
    · dsimp only
      refine Kept.trans ?_ (h14 _ _ _ _)
      assumption
    · extract_lets +onlyGivenNames v19
      have h20 : Kept s v19 := by
        unfold v19
        refine Kept.trans ?_ (raise_kept _ _ _)
        assumption
      clear_value v19
      split
      · dsimp only
        refine Kept.trans ?_ (h14 _ _ _ _)
        assumption
      · dsimp only
        assumption

theorem endFlush_kept : ∀ ok s, Kept s (endFlush ok s).2.2 := by
  intro ok s
  unfold endFlush
  split
  · dsimp only
    exact Kept.refl _
  · extract_lets +onlyGivenNames v0
    clear_value v0
    extract_lets +onlyGivenNames v1
    clear_value v1
    extract_lets +onlyGivenNames v2
    clear_value v2
    extract_lets +onlyGivenNames v3
    have h4 : Kept s v3 := by
      unfold v3
      refine Kept.setAcc (X := s) ?_ _
      exact Kept.refl _
    clear_value v3
    extract_lets +onlyGivenNames v5
    have h6 : Kept s v5 := by
      unfold v5
      refine Kept.trans ?_ (emit_kept _ _)
      assumption
    clear_value v5
    extract_lets +onlyGivenNames v7
    clear_value v7
    extract_lets +onlyGivenNames v8
    clear_value v8
    extract_lets +onlyGivenNames v9
    have h10 : Kept s v9 := by
      unfold v9
      split
      · refine Kept.setAcc (X := v5) ?_ _
        assumption
      · refine Kept.trans ?_ (raise_kept _ _ _)
        assumption
    clear_value v9
    dsimp only
    assumption

/-! Layout -/

theorem setPage_kept : ∀ entry page epoch s, Kept s (setPage entry page epoch s) := by
  intro entry page epoch s
  unfold setPage
  refine Kept.setHome (X := s) ?_ _
  exact Kept.refl _

end Sys2Proof.Machine
end

