-- ==== Sys2Proof/Laws/KeptHome.lean ====
section
/-! SUPPORT. One lemma per operation of the switch core and the home: what it keeps. -/

namespace Sys2Proof.Machine
open Sys2Proof

/-! Switch -/

theorem setCtx_kept : ∀ n c s, Kept s (setCtx n c s) := by
  intro n c s
  unfold setCtx
  refine Kept.setPorts (X := s) ?_ _
  exact Kept.refl _

theorem returnCredit_kept : ∀ n pool k s, Kept s (returnCredit n pool k s) := by
  intro n pool k s
  unfold returnCredit
  split
  · exact Kept.refl _
  · extract_lets +onlyGivenNames v0
    clear_value v0
    extract_lets +onlyGivenNames v1
    clear_value v1
    refine Kept.trans ?_ (emit_kept _ _)
    refine Kept.trans ?_ (setCtx_kept _ _ _)
    exact Kept.refl _

theorem streamCredits_kept : ∀ s, Kept s (streamCredits s) := by
  intro s
  unfold streamCredits
  refine Kept.foldl (fun y x => ?_) ?_
  · split
    · exact Kept.refl _
    · split
      · exact Kept.refl _
      · refine Kept.trans ?_ (returnCredit_kept _ _ _ _)
        refine Kept.trans ?_ (setCtx_kept _ _ _)
        exact Kept.refl _
  · exact Kept.refl _

theorem admitWaiting_kept : ∀ s, Kept s (admitWaiting s) := by
  intro s
  unfold admitWaiting
  refine Kept.foldl (fun y x => ?_) ?_
  · extract_lets +onlyGivenNames v0
    clear_value v0
    split
    · exact Kept.refl _
    · extract_lets +onlyGivenNames v1
      clear_value v1
      extract_lets +onlyGivenNames v2
      have h3 : Kept y v2 := by
        unfold v2
        refine Kept.setSw (X := y) ?_ _
        exact Kept.refl _
      clear_value v2
      extract_lets +onlyGivenNames v4
      clear_value v4
      split
      · exact Kept.refl _
      · extract_lets +onlyGivenNames v5
        have h6 : Kept y v5 := by
          unfold v5
          refine Kept.setSw (X := y) ?_ _
          exact Kept.refl _
        clear_value v5
        split
        · assumption
        · split
          · assumption
          · refine Kept.trans ?_ (returnCredit_kept _ _ _ _)
            assumption
  · exact Kept.refl _

theorem enterCell_kept : ∀ c s, Kept s (enterCell c s) := by
  intro c s
  unfold enterCell
  extract_lets +onlyGivenNames v0
  clear_value v0
  extract_lets +onlyGivenNames v1
  clear_value v1
  extract_lets +onlyGivenNames v2
  clear_value v2
  extract_lets +onlyGivenNames v3
  clear_value v3
  refine Kept.setSw (X := s) ?_ _
  exact Kept.refl _

theorem nameCell_kept : ∀ s, Kept s (nameCell s) := by
  intro s
  unfold nameCell
  refine Kept.setSw (X := s) ?_ _
  exact Kept.refl _

theorem mirrorCopy_kept : ∀ session target pool cls itemKind i s, Kept s (mirrorCopy session target pool cls itemKind i s) := by
  intro session target pool cls itemKind i s
  unfold mirrorCopy
  extract_lets +onlyGivenNames v0
  extract_lets +onlyGivenNames v1
  split
  · refine Kept.trans ?_ (raiseLimited_kept _ _ _ _ _ _)
    refine Kept.setSw (X := s) ?_ _
    exact Kept.refl _
  · extract_lets +onlyGivenNames v2
    clear_value v2
    refine Kept.foldl (fun y x => ?_) ?_
    · extract_lets +onlyGivenNames v3
      clear_value v3
      extract_lets +onlyGivenNames v4
      clear_value v4
      refine Kept.trans ?_ (nameCell_kept _)
      refine Kept.trans ?_ (enterCell_kept _ _)
      exact Kept.refl _
    · exact Kept.refl _

theorem sampleItem_kept : ∀ k x pool i s, Kept s (sampleItem k x pool i s) := by
  intro k x pool i s
  unfold sampleItem
  extract_lets +onlyGivenNames v0
  have h3 : ∀ z1 z2, Kept z2 (v0 z1 z2) := by
    intro y4 y5
    unfold v0
    refine Kept.setSw (X := y5) ?_ _
    exact Kept.refl _
  clear_value v0
  split
  · refine Kept.trans ?_ (h3 _ _)
    exact Kept.refl _
  · extract_lets +onlyGivenNames v6
    have h7 : Kept s v6.2 := by
      unfold v6
      refine Kept.trans ?_ (draw_kept _)
      exact Kept.refl _
    clear_value v6
    extract_lets +onlyGivenNames v8
    have h9 : Kept s v8 := by
      unfold v8
      assumption
    clear_value v8
    extract_lets +onlyGivenNames v10
    clear_value v10
    split
    · refine Kept.trans ?_ (raiseLimited_kept _ _ _ _ _ _)
      refine Kept.trans ?_ (h3 _ _)
      assumption
    · extract_lets +onlyGivenNames v11
      have h12 : Kept s v11 := by
        unfold v11
        refine Kept.trans ?_ (h3 _ _)
        assumption
      clear_value v11
      refine Kept.setSw (X := v11) ?_ _
      assumption

theorem observe_kept : ∀ ctx egress pool cls itemKind i s, Kept s (observe ctx egress pool cls itemKind i s) := by
  intro ctx egress pool cls itemKind i s
  unfold observe
  split
  · exact Kept.refl _
  · split
    · exact Kept.refl _
    · extract_lets +onlyGivenNames v0
      have h1 : Kept s v0 := by
        unfold v0
        refine Kept.foldl (fun y x => ?_) ?_
        · split
          · refine Kept.trans ?_ (mirrorCopy_kept _ _ _ _ _ _ _)
            exact Kept.refl _
          · exact Kept.refl _
        · exact Kept.refl _
      clear_value v0
      refine Kept.foldl (fun y x => ?_) ?_
      · split
        · refine Kept.trans ?_ (sampleItem_kept _ _ _ _ _)
          exact Kept.refl _
        · exact Kept.refl _
      · assumption

theorem setCodec_kept : ∀ ctx k s, Kept s (setCodec ctx k s) := by
  intro ctx k s
  unfold setCodec
  refine Kept.setPorts (X := s) ?_ _
  exact Kept.refl _

theorem enterPlain_kept : ∀ ingress ctx pool cls itemKind channel i s, Kept s (enterPlain ingress ctx pool cls itemKind channel i s) := by
  intro ingress ctx pool cls itemKind channel i s
  unfold enterPlain
  split
  · extract_lets +onlyGivenNames v0
    clear_value v0
    refine Kept.foldl (fun y x => ?_) ?_
    · extract_lets +onlyGivenNames v1
      clear_value v1
      extract_lets +onlyGivenNames v2
      clear_value v2
      refine Kept.trans ?_ (nameCell_kept _)
      refine Kept.trans ?_ (enterCell_kept _ _)
      exact Kept.refl _
    · exact Kept.refl _
  · refine Kept.trans ?_ (nameCell_kept _)
    refine Kept.trans ?_ (enterCell_kept _ _)
    exact Kept.refl _

theorem enterItem_kept : ∀ ingress ctx pool cls itemKind channel i s, Kept s (enterItem ingress ctx pool cls itemKind channel i s) := by
  intro ingress ctx pool cls itemKind channel i s
  unfold enterItem
  split
  · refine Kept.trans ?_ (enterPlain_kept _ _ _ _ _ _ _ _)
    exact Kept.refl _
  · extract_lets +onlyGivenNames v0
    clear_value v0
    extract_lets +onlyGivenNames v1
    clear_value v1
    refine Kept.trans ?_ (setCodec_kept _ _ _)
    exact Kept.refl _

theorem sendFrom_kept : ∀ port r s, Kept s (sendFrom port r s) := by
  intro port r s
  unfold sendFrom
  extract_lets +onlyGivenNames v0
  have h1 : Kept s v0 := by
    unfold v0
    refine Kept.trans ?_ (emit_kept _ _)
    exact Kept.refl _
  clear_value v0
  split
  · assumption
  · split
    · assumption
    · refine Kept.trans ?_ (enterItem_kept _ _ _ _ _ _ _ _)
      assumption

theorem sendFabric_kept : ∀ r s, Kept s (sendFabric r s) := by
  intro r s
  unfold sendFabric
  refine Kept.trans ?_ (sendFrom_kept _ _ _)
  exact Kept.refl _

theorem sendAnswer_kept : ∀ r charter s, Kept s (sendAnswer r charter s) := by
  intro r charter s
  unfold sendAnswer
  extract_lets +onlyGivenNames v0
  have h1 : Kept s v0 := by
    unfold v0
    refine Kept.trans ?_ (emit_kept _ _)
    exact Kept.refl _
  clear_value v0
  extract_lets +onlyGivenNames v2
  clear_value v2
  extract_lets +onlyGivenNames v3
  clear_value v3
  split
  · assumption
  · refine Kept.trans ?_ (enterItem_kept _ _ _ _ _ _ _ _)
    assumption

theorem sendHost_kept : ∀ host r charter s, Kept s (sendHost host r charter s) := by
  intro host r charter s
  unfold sendHost
  extract_lets +onlyGivenNames v0
  have h1 : Kept s v0 := by
    unfold v0
    refine Kept.trans ?_ (emit_kept _ _)
    exact Kept.refl _
  clear_value v0
  split
  · assumption
  · refine Kept.trans ?_ (enterItem_kept _ _ _ _ _ _ _ _)
    assumption

theorem sendRecall_kept : ∀ host charter va line downgrade s, Kept s (sendRecall host charter va line downgrade s) := by
  intro host charter va line downgrade s
  unfold sendRecall
  extract_lets +onlyGivenNames v0
  have h1 : Kept s v0 := by
    unfold v0
    refine Kept.trans ?_ (emit_kept _ _)
    exact Kept.refl _
  clear_value v0
  split
  · assumption
  · extract_lets +onlyGivenNames v2
    clear_value v2
    refine Kept.trans ?_ (enterItem_kept _ _ _ _ _ _ _ _)
    assumption

theorem sendTray_kept : ∀ id device tray module offset cls write data s, Kept s (sendTray id device tray module offset cls write data s) := by
  intro id device tray module offset cls write data s
  unfold sendTray
  extract_lets +onlyGivenNames v0
  have h1 : Kept s v0 := by
    unfold v0
    refine Kept.trans ?_ (emit_kept _ _)
    exact Kept.refl _
  clear_value v0
  extract_lets +onlyGivenNames v2
  clear_value v2
  extract_lets +onlyGivenNames v3
  clear_value v3
  split
  · assumption
  · refine Kept.trans ?_ (enterItem_kept _ _ _ _ _ _ _ _)
    assumption

theorem enterGroup_kept : ∀ ingress g epoch cls itemKind channel i s, Kept s (enterGroup ingress g epoch cls itemKind channel i s) := by
  intro ingress g epoch cls itemKind channel i s
  unfold enterGroup
  split
  · refine Kept.trans ?_ (raiseLimited_kept _ _ _ _ _ _)
    refine Kept.setSw (X := s) ?_ _
    exact Kept.refl _
  · extract_lets +onlyGivenNames v0
    clear_value v0
    refine Kept.foldl (fun y x => ?_) ?_
    · extract_lets +onlyGivenNames v1
      clear_value v1
      extract_lets +onlyGivenNames v2
      clear_value v2
      refine Kept.trans ?_ (nameCell_kept _)
      refine Kept.foldl (fun y x => ?_) ?_
      · refine Kept.trans ?_ (enterCell_kept _ _)
        exact Kept.refl _
      · exact Kept.refl _
    · exact Kept.refl _

/-! Home -/

theorem answerTo_kept : ∀ r opcode reason aux data s, Kept s (answerTo r opcode reason aux data s) := by
  intro r opcode reason aux data s
  unfold answerTo
  split
  · exact Kept.refl _
  · refine Kept.trans ?_ (sendAnswer_kept _ _ _)
    refine Kept.trans ?_ (recordReason_kept _ _)
    exact Kept.refl _

theorem setSrc_kept : ∀ q x s, Kept s (setSrc q x s) := by
  intro q x s
  unfold setSrc
  refine Kept.setHome (X := s) ?_ _
  exact Kept.refl _

theorem setWin_kept : ∀ q v s, Kept s (setWin q v s) := by
  intro q v s
  unfold setWin
  split
  · exact Kept.refl _
  · refine Kept.trans ?_ (setSrc_kept _ _ _)
    exact Kept.refl _

theorem dropWin_kept : ∀ q w s, Kept s (dropWin q w s) := by
  intro q w s
  unfold dropWin
  split
  · exact Kept.refl _
  · extract_lets +onlyGivenNames v0
    clear_value v0
    refine Kept.trans ?_ (setSrc_kept _ _ _)
    exact Kept.refl _

theorem refuseHeld_kept : ∀ q code v s, Kept s (refuseHeld q code v s) := by
  intro q code v s
  unfold refuseHeld
  extract_lets +onlyGivenNames v0
  have h1 : Kept s v0 := by
    unfold v0
    refine Kept.trans ?_ (dropWin_kept _ _ _)
    exact Kept.refl _
  clear_value v0
  split
  · assumption
  · refine Kept.trans ?_ (answerTo_kept _ _ _ _ _ _)
    assumption

theorem admitWindow_kept : ∀ q w charter s, Kept s (admitWindow q w charter s).2 := by
  intro q w charter s
  unfold admitWindow
  extract_lets +onlyGivenNames v0
  clear_value v0
  split
  · dsimp only
    refine Kept.trans ?_ (setSrc_kept _ _ _)
    exact Kept.refl _
  · extract_lets +onlyGivenNames v1
    clear_value v1
    split
    · split
      · dsimp only
        exact Kept.refl _
      · extract_lets +onlyGivenNames v2
        clear_value v2
        extract_lets +onlyGivenNames v3
        clear_value v3
        extract_lets +onlyGivenNames v4
        have h5 : Kept s v4 := by
          unfold v4
          refine Kept.trans ?_ (setSrc_kept _ _ _)
          exact Kept.refl _
        clear_value v4
        dsimp only
        refine Kept.foldl (fun y x => ?_) ?_
        · refine Kept.trans ?_ (refuseHeld_kept _ _ _ _)
          exact Kept.refl _
        · assumption
    · split
      · dsimp only
        exact Kept.refl _
      · dsimp only
        refine Kept.trans ?_ (setWin_kept _ _ _)
        exact Kept.refl _

theorem shutWindow_kept : ∀ q w s, Kept s (shutWindow q w s) := by
  intro q w s
  unfold shutWindow
  split
  · refine Kept.trans ?_ (setSrc_kept _ _ _)
    exact Kept.refl _
  · extract_lets +onlyGivenNames v0
    clear_value v0
    split
    · extract_lets +onlyGivenNames v1
      clear_value v1
      refine Kept.foldl (fun y x => ?_) ?_
      · refine Kept.trans ?_ (refuseHeld_kept _ _ _ _)
        exact Kept.refl _
      · refine Kept.trans ?_ (setSrc_kept _ _ _)
        exact Kept.refl _
    · split
      · split
        · refine Kept.trans ?_ (dropWin_kept _ _ _)
          exact Kept.refl _
        · exact Kept.refl _
      · exact Kept.refl _

theorem setQueue_kept : ∀ key q s, Kept s (setQueue key q s) := by
  intro key q s
  unfold setQueue
  extract_lets +onlyGivenNames v0
  clear_value v0
  refine Kept.setHome (X := s) ?_ _
  exact Kept.refl _

theorem pushRequest_kept : ∀ front r e s, Kept s (pushRequest front r e s) := by
  intro front r e s
  unfold pushRequest
  extract_lets +onlyGivenNames v0
  clear_value v0
  extract_lets +onlyGivenNames v1
  clear_value v1
  extract_lets +onlyGivenNames v2
  clear_value v2
  extract_lets +onlyGivenNames v3
  clear_value v3
  extract_lets +onlyGivenNames v4
  have h5 : Kept s v4 := by
    unfold v4
    refine Kept.setHome (X := s) ?_ _
    exact Kept.refl _
  clear_value v4
  refine Kept.foldl (fun y x => ?_) ?_
  · extract_lets +onlyGivenNames v6
    clear_value v6
    extract_lets +onlyGivenNames v7
    clear_value v7
    extract_lets +onlyGivenNames v8
    clear_value v8
    refine Kept.trans ?_ (setQueue_kept _ _ _)
    exact Kept.refl _
  · assumption

theorem markPoison_kept : ∀ entry off s, Kept s (markPoison entry off s) := by
  intro entry off s
  unfold markPoison
  extract_lets +onlyGivenNames v0
  clear_value v0
  refine Kept.trans ?_ (pushRequest_kept _ _ _ _)
  exact Kept.refl _

theorem judgeSeal_kept : ∀ q w s, Kept s (judgeSeal q w s) := by
  intro q w s
  unfold judgeSeal
  split
  · exact Kept.refl _
  · split
    · exact Kept.refl _
    · split
      · refine Kept.trans ?_ (refuseHeld_kept _ _ _ _)
        exact Kept.refl _
      · split
        · refine Kept.trans ?_ (refuseHeld_kept _ _ _ _)
          exact Kept.refl _
        · split
          · refine Kept.trans ?_ (pushRequest_kept _ _ _ _)
            refine Kept.trans ?_ (dropWin_kept _ _ _)
            exact Kept.refl _
          · exact Kept.refl _

theorem noteWrite_kept : ∀ r refused s, Kept s (noteWrite r refused s) := by
  intro r refused s
  unfold noteWrite
  split
  · exact Kept.refl _
  · split
    · exact Kept.refl _
    · split
      · exact Kept.refl _
      · extract_lets +onlyGivenNames v0
        clear_value v0
        refine Kept.trans ?_ (judgeSeal_kept _ _ _)
        refine Kept.trans ?_ (setWin_kept _ _ _)
        exact Kept.refl _

theorem refuseArrival_kept : ∀ r code s, Kept s (refuseArrival r code s) := by
  intro r code s
  unfold refuseArrival
  extract_lets +onlyGivenNames v0
  have h1 : Kept s v0 := by
    unfold v0
    refine Kept.trans ?_ (answerTo_kept _ _ _ _ _ _)
    exact Kept.refl _
  clear_value v0
  split
  · assumption
  · split
    · extract_lets +onlyGivenNames v2
      have h3 : Kept s v2.2 := by
        unfold v2
        refine Kept.trans ?_ (admitWindow_kept _ _ _ _)
        assumption
      clear_value v2
      split
      · refine Kept.trans ?_ (noteWrite_kept _ _ _)
        assumption
      · assumption
    · split
      · refine Kept.trans ?_ (shutWindow_kept _ _ _)
        assumption
      · assumption

theorem fence_kept : ∀ r s, Kept s (fence r s) := by
  intro r s
  unfold fence
  extract_lets +onlyGivenNames v0
  clear_value v0
  split
  · refine Kept.trans ?_ (answerTo_kept _ _ _ _ _ _)
    exact Kept.refl _
  · split
    · refine Kept.trans ?_ (answerTo_kept _ _ _ _ _ _)
      exact Kept.refl _
    · split
      · refine Kept.trans ?_ (answerTo_kept _ _ _ _ _ _)
        exact Kept.refl _
      · split
        · refine Kept.trans ?_ (answerTo_kept _ _ _ _ _ _)
          exact Kept.refl _
        · refine Kept.trans ?_ (answerTo_kept _ _ _ _ _ _)
          refine Kept.setHome (X := s) ?_ _
          exact Kept.refl _

theorem setDir_kept : ∀ d s, Kept s (setDir d s) := by
  intro d s
  unfold setDir
  extract_lets +onlyGivenNames v0
  clear_value v0
  refine Kept.setHome (X := s) ?_ _
  exact Kept.refl _

theorem dropDir_kept : ∀ line s, Kept s (dropDir line s) := by
  intro line s
  unfold dropDir
  refine Kept.setHome (X := s) ?_ _
  exact Kept.refl _

theorem setRound_kept : ∀ r s, Kept s (setRound r s) := by
  intro r s
  unfold setRound
  refine Kept.setHome (X := s) ?_ _
  exact Kept.refl _

theorem startRound_kept : ∀ line kind requester entry targets granule drain s, Kept s (startRound line kind requester entry targets granule drain s) := by
  intro line kind requester entry targets granule drain s
  unfold startRound
  extract_lets +onlyGivenNames v0
  clear_value v0
  extract_lets +onlyGivenNames v1
  clear_value v1
  extract_lets +onlyGivenNames v2
  clear_value v2
  extract_lets +onlyGivenNames v3
  clear_value v3
  extract_lets +onlyGivenNames v4
  have h5 : Kept s v4 := by
    unfold v4
    refine Kept.setHome (X := s) ?_ _
    exact Kept.refl _
  clear_value v4
  extract_lets +onlyGivenNames v6
  have h7 : Kept s v6 := by
    unfold v6
    split
    · refine Kept.trans ?_ (setDir_kept _ _)
      assumption
    · assumption
  clear_value v6
  refine Kept.trans ?_ (ringSend_kept _ _ _)
  assumption

theorem dirRoom_kept : ∀ line s, Kept s (dirRoom line s).2 := by
  intro line s
  unfold dirRoom
  split
  · dsimp only
    exact Kept.refl _
  · split
    · dsimp only
      exact Kept.refl _
    · split
      · dsimp only
        exact Kept.refl _
      · split
        · dsimp only
          exact Kept.refl _
        · dsimp only
          refine Kept.trans ?_ (startRound_kept _ _ _ _ _ _ _ _)
          refine Kept.trans ?_ (raise_kept _ _ _)
          exact Kept.refl _

theorem admitNow_kept : ∀ r s, Kept s (admitNow r s) := by
  intro r s
  unfold admitNow
  extract_lets +onlyGivenNames v0
  clear_value v0
  split
  · refine Kept.trans ?_ (refuseArrival_kept _ _ _)
    exact Kept.refl _
  · split
    · refine Kept.trans ?_ (refuseArrival_kept _ _ _)
      exact Kept.refl _
    · split
      · refine Kept.trans ?_ (refuseArrival_kept _ _ _)
        exact Kept.refl _
      · split
        · refine Kept.trans ?_ (refuseArrival_kept _ _ _)
          exact Kept.refl _
        · split
          · extract_lets +onlyGivenNames v1
            have h2 : Kept s v1 := by
              unfold v1
              split
              · refine Kept.trans ?_ (dirRoom_kept _ _)
                exact Kept.refl _
              · exact Kept.refl _
            clear_value v1
            refine Kept.trans ?_ (pushRequest_kept _ _ _ _)
            assumption
          · extract_lets +onlyGivenNames v3
            have h4 : Kept s v3.2 := by
              unfold v3
              refine Kept.trans ?_ (admitWindow_kept _ _ _ _)
              exact Kept.refl _
            clear_value v3
            split
            · refine Kept.trans ?_ (answerTo_kept _ _ _ _ _ _)
              exact Kept.refl _
            · split
              · refine Kept.trans ?_ (pushRequest_kept _ _ _ _)
                assumption
              · split
                · assumption
                · split
                  · refine Kept.trans ?_ (answerTo_kept _ _ _ _ _ _)
                    assumption
                  · refine Kept.trans ?_ (judgeSeal_kept _ _ _)
                    refine Kept.trans ?_ (setWin_kept _ _ _)
                    assumption

theorem arriveHome_kept : ∀ r s, Kept s (arriveHome r s) := by
  intro r s
  unfold arriveHome
  extract_lets +onlyGivenNames v0
  clear_value v0
  split
  · refine Kept.setHome (X := s) ?_ _
    exact Kept.refl _
  · refine Kept.trans ?_ (admitNow_kept _ _)
    exact Kept.refl _

theorem wakeHome_kept : ∀ s, Kept s (wakeHome s) := by
  intro s
  unfold wakeHome
  extract_lets +onlyGivenNames v0
  clear_value v0
  refine Kept.foldl (fun y x => ?_) ?_
  · refine Kept.trans ?_ (arriveHome_kept _ _)
    exact Kept.refl _
  · refine Kept.setHome (X := s) ?_ _
    exact Kept.refl _

/-! Issue -/

theorem setIssued_kept : ∀ i s, Kept s (setIssued i s) := by
  intro i s
  unfold setIssued
  refine Kept.setMan (X := s) ?_ _
  exact Kept.refl _

theorem dropIssued_kept : ∀ n s, Kept s (dropIssued n s) := by
  intro n s
  unfold dropIssued
  refine Kept.setMan (X := s) ?_ _
  exact Kept.refl _

theorem completeIssued_kept : ∀ n reason detail boundary extra s, Kept s (completeIssued n reason detail boundary extra s) := by
  intro n reason detail boundary extra s
  unfold completeIssued
  split
  · exact Kept.refl _
  · split
    · refine Kept.trans ?_ (dropIssued_kept _ _)
      exact Kept.refl _
    · extract_lets +onlyGivenNames v0
      clear_value v0
      split
      · refine Kept.trans ?_ (resultWith_kept _ _ _ _ _ _)
        refine Kept.trans ?_ (dropIssued_kept _ _)
        exact Kept.refl _
      · refine Kept.trans ?_ (setIssued_kept _ _)
        exact Kept.refl _

theorem postOutcomes_kept : ∀ s, Kept s (postOutcomes s) := by
  intro s
  unfold postOutcomes
  refine Kept.foldl (fun y x => ?_) ?_
  · split
    · refine Kept.trans ?_ (resultWith_kept _ _ _ _ _ _)
      refine Kept.trans ?_ (dropIssued_kept _ _)
      exact Kept.refl _
    · exact Kept.refl _
  · exact Kept.refl _

theorem setNotice_kept : ∀ n s, Kept s (setNotice n s) := by
  intro n s
  unfold setNotice
  refine Kept.setMan (X := s) ?_ _
  exact Kept.refl _

theorem commitNotice_kept : ∀ id s, Kept s (commitNotice id s) := by
  intro id s
  unfold commitNotice
  split
  · exact Kept.refl _
  · extract_lets +onlyGivenNames v0
    have h1 : Kept s v0 := by
      unfold v0
      refine Kept.trans ?_ (setNotice_kept _ _)
      exact Kept.refl _
    clear_value v0
    split
    · split
      · refine Kept.of (X := v0) ?_ rfl rfl rfl rfl rfl rfl rfl rfl
        assumption
      · assumption
    · assumption

theorem commitReady_kept : ∀ n s, Kept s (commitReady n s) := by
  intro n s
  unfold commitReady
  split
  · exact Kept.refl _
  · extract_lets +onlyGivenNames v0
    clear_value v0
    extract_lets +onlyGivenNames v1
    clear_value v1
    split
    · exact Kept.refl _
    · refine Kept.trans ?_ (broadcast_kept _ _ _)
      refine Kept.trans ?_ (commitNotice_kept _ _)
      refine Kept.trans ?_ (setIssued_kept _ _)
      exact Kept.refl _

theorem dropNotice_kept : ∀ id s, Kept s (dropNotice id s) := by
  intro id s
  unfold dropNotice
  extract_lets +onlyGivenNames v0
  clear_value v0
  extract_lets +onlyGivenNames v1
  clear_value v1
  refine Kept.of (X := s) ?_ rfl rfl rfl rfl rfl rfl rfl rfl
  exact Kept.refl _

theorem cancelIssued_kept : ∀ n reason detail s, Kept s (cancelIssued n reason detail s) := by
  intro n reason detail s
  unfold cancelIssued
  split
  · exact Kept.refl _
  · split
    · exact Kept.refl _
    · refine Kept.trans ?_ (completeIssued_kept _ _ _ _ _ _)
      refine Kept.trans ?_ (dropNotice_kept _ _)
      refine Kept.trans ?_ (broadcast_kept _ _ _)
      exact Kept.refl _

theorem drained_kept : ∀ n entry s, Kept s (drained n entry s) := by
  intro n entry s
  unfold drained
  split
  · exact Kept.refl _
  · extract_lets +onlyGivenNames v0
    clear_value v0
    extract_lets +onlyGivenNames v1
    have h2 : Kept s v1 := by
      unfold v1
      refine Kept.trans ?_ (setIssued_kept _ _)
      exact Kept.refl _
    clear_value v1
    split
    · refine Kept.trans ?_ (completeIssued_kept _ _ _ _ _ _)
      assumption
    · assumption

/-! Batch -/

theorem trayIssue_kept : ∀ l key row m write data s, Kept s (trayIssue l key row m write data s) := by
  intro l key row m write data s
  unfold trayIssue
  split
  · exact Kept.refl _
  · extract_lets +onlyGivenNames v0
    clear_value v0
    extract_lets +onlyGivenNames v1
    clear_value v1
    refine Kept.trans ?_ (sendTray_kept _ _ _ _ _ _ _ _ _)
    refine Kept.setHome (X := s) ?_ _
    exact Kept.refl _

theorem setBatch_kept : ∀ key b s, Kept s (setBatch key b s) := by
  intro key b s
  unfold setBatch
  refine Kept.trans ?_ (setQueue_kept _ _ _)
  exact Kept.refl _

theorem issueFor_kept : ∀ key l write cells s, Kept s (issueFor key l write cells s) := by
  intro key l write cells s
  unfold issueFor
  refine Kept.foldl (fun y x => ?_) ?_
  · refine Kept.trans ?_ (trayIssue_kept _ _ _ _ _ _ _)
    exact Kept.refl _
  · exact Kept.refl _

theorem poisonEvent_kept : ∀ entry n e s, Kept s (poisonEvent entry n e s) := by
  intro entry n e s
  unfold poisonEvent
  split
  · exact Kept.refl _
  · refine Kept.trans ?_ (raiseLimited_kept _ _ _ _ _ _)
    exact Kept.refl _

theorem applyGranule_kept : ∀ key b s, Kept s (applyGranule key b s) := by
  intro key b s
  unfold applyGranule
  extract_lets +onlyGivenNames v0
  clear_value v0
  extract_lets +onlyGivenNames v1
  clear_value v1
  extract_lets +onlyGivenNames v2
  clear_value v2
  extract_lets +onlyGivenNames v3
  clear_value v3
  extract_lets +onlyGivenNames v4
  clear_value v4
  extract_lets +onlyGivenNames v5
  clear_value v5
  extract_lets +onlyGivenNames v6
  clear_value v6
  extract_lets +onlyGivenNames v7
  clear_value v7
  extract_lets +onlyGivenNames v8
  clear_value v8
  extract_lets +onlyGivenNames v9
  clear_value v9
  extract_lets +onlyGivenNames v10
  have h11 : Kept s v10 := by
    unfold v10
    split
    · refine Kept.trans ?_ (raise_kept _ _ _)
      exact Kept.refl _
    · exact Kept.refl _
  clear_value v10
  extract_lets +onlyGivenNames v12
  clear_value v12
  extract_lets +onlyGivenNames v13
  clear_value v13
  extract_lets +onlyGivenNames v14
  clear_value v14
  extract_lets +onlyGivenNames v15
  clear_value v15
  split
  · extract_lets +onlyGivenNames v16
    clear_value v16
    refine Kept.trans ?_ (setBatch_kept _ _ _)
    assumption
  · extract_lets +onlyGivenNames v17
    clear_value v17
    extract_lets +onlyGivenNames v18
    clear_value v18
    extract_lets +onlyGivenNames v19
    have h20 : Kept s v19 := by
      unfold v19
      refine Kept.trans ?_ (poisonEvent_kept _ _ _ _)
      assumption
    clear_value v19
    extract_lets +onlyGivenNames v21
    have h22 : Kept s v21 := by
      unfold v21
      split
      · refine Kept.trans ?_ (raise_kept _ _ _)
        assumption
      · assumption
    clear_value v21
    extract_lets +onlyGivenNames v23
    clear_value v23
    extract_lets +onlyGivenNames v24
    clear_value v24
    extract_lets +onlyGivenNames v25
    clear_value v25
    extract_lets +onlyGivenNames v26
    clear_value v26
    extract_lets +onlyGivenNames v27
    clear_value v27
    extract_lets +onlyGivenNames v28
    have h29 : Kept s v28 := by
      unfold v28
      refine Kept.foldl (fun y x => ?_) ?_
      · refine Kept.trans ?_ (raise_kept _ _ _)
        exact Kept.refl _
      · assumption
    clear_value v28
    extract_lets +onlyGivenNames v30
    have h31 : Kept s v30 := by
      unfold v30
      split
      · refine Kept.trans ?_ (setPage_kept _ _ _ _)
        assumption
      · assumption
    clear_value v30
    extract_lets +onlyGivenNames v32
    clear_value v32
    extract_lets +onlyGivenNames v33
    have h34 : Kept s v33 := by
      unfold v33
      split
      · assumption
      · refine Kept.setHome (X := v30) ?_ _
        assumption
    clear_value v33
    extract_lets +onlyGivenNames v35
    have h36 : Kept s v35 := by
      unfold v35
      refine Kept.trans ?_ (issueFor_kept _ _ _ _ _)
      assumption
    clear_value v35
    refine Kept.trans ?_ (setBatch_kept _ _ _)
    assumption

theorem rowPoison_kept : ∀ g anchor row n l s, Kept s (rowPoison g anchor row n l s) := by
  intro g anchor row n l s
  unfold rowPoison
  split
  · exact Kept.refl _
  · split
    · refine Kept.trans ?_ (poisonEvent_kept _ _ _ _)
      exact Kept.refl _
    · refine Kept.trans ?_ (raiseLimited_kept _ _ _ _ _ _)
      exact Kept.refl _

theorem applyRow_kept : ∀ key b s, Kept s (applyRow key b s) := by
  intro key b s
  unfold applyRow
  split
  · refine Kept.trans ?_ (setBatch_kept _ _ _)
    exact Kept.refl _
  · extract_lets +onlyGivenNames v0
    clear_value v0
    extract_lets +onlyGivenNames v1
    clear_value v1
    extract_lets +onlyGivenNames v2
    clear_value v2
    extract_lets +onlyGivenNames v3
    clear_value v3
    extract_lets +onlyGivenNames v4
    clear_value v4
    extract_lets +onlyGivenNames v5
    clear_value v5
    extract_lets +onlyGivenNames v6
    clear_value v6
    extract_lets +onlyGivenNames v7
    clear_value v7
    extract_lets +onlyGivenNames v8
    clear_value v8
    extract_lets +onlyGivenNames v9
    clear_value v9
    extract_lets +onlyGivenNames v10
    clear_value v10
    extract_lets +onlyGivenNames v11
    clear_value v11
    extract_lets +onlyGivenNames v12
    clear_value v12
    extract_lets +onlyGivenNames v13
    have h14 : Kept s v13 := by
      unfold v13
      refine Kept.foldl (fun y x => ?_) ?_
      · refine Kept.trans ?_ (raise_kept _ _ _)
        exact Kept.refl _
      · exact Kept.refl _
    clear_value v13
    extract_lets +onlyGivenNames v15
    have h16 : Kept s v15 := by
      unfold v15
      split
      · assumption
      · refine Kept.trans ?_ (rowPoison_kept _ _ _ _ _ _)
        assumption
    clear_value v15
    extract_lets +onlyGivenNames v17
    have h18 : Kept s v17 := by
      unfold v17
      refine Kept.trans ?_ (setBatch_kept _ _ _)
      assumption
    clear_value v17
    extract_lets +onlyGivenNames v19
    have h20 : Kept s v19 := by
      unfold v19
      refine Kept.trans ?_ (issueFor_kept _ _ _ _ _)
      assumption
    clear_value v19
    refine Kept.trans ?_ (setBatch_kept _ _ _)
    assumption

theorem pumpReads_kept : ∀ key s, Kept s (pumpReads key s) := by
  intro key s
  unfold pumpReads
  split
  · exact Kept.refl _
  · split
    · exact Kept.refl _
    · extract_lets +onlyGivenNames v0
      clear_value v0
      split
      · split
        · refine Kept.trans ?_ (applyGranule_kept _ _ _)
          exact Kept.refl _
        · refine Kept.trans ?_ (applyRow_kept _ _ _)
          exact Kept.refl _
      · refine Kept.trans ?_ (applyRow_kept _ _ _)
        exact Kept.refl _
      · extract_lets +onlyGivenNames v1
        have h2 : Kept s v1 := by
          unfold v1
          refine Kept.trans ?_ (issueFor_kept _ _ _ _ _)
          exact Kept.refl _
        clear_value v1
        refine Kept.trans ?_ (setBatch_kept _ _ _)
        assumption

theorem sendPages_kept : ∀ entry s, Kept s (sendPages entry s) := by
  intro entry s
  unfold sendPages
  extract_lets +onlyGivenNames v0
  clear_value v0
  extract_lets +onlyGivenNames v1
  clear_value v1
  split
  · extract_lets +onlyGivenNames v2
    have h3 : Kept s v2 := by
      unfold v2
      refine Kept.trans ?_ (control_kept _ _ _ _)
      exact Kept.refl _
    clear_value v2
    refine Kept.setHome (X := v2) ?_ _
    assumption
  · exact Kept.refl _

theorem drainOne_kept : ∀ entry s, Kept s (drainOne entry s) := by
  intro entry s
  unfold drainOne
  split
  · exact Kept.refl _
  · split
    · refine Kept.setHome (X := s) ?_ _
      exact Kept.refl _
    · extract_lets +onlyGivenNames v0
      clear_value v0
      extract_lets +onlyGivenNames v1
      have h2 : Kept s v1 := by
        unfold v1
        refine Kept.setHome (X := s) ?_ _
        exact Kept.refl _
      clear_value v1
      extract_lets +onlyGivenNames v3
      have h4 : Kept s v3 := by
        unfold v3
        refine Kept.trans ?_ (sendPages_kept _ _)
        assumption
      clear_value v3
      split
      · split
        · refine Kept.trans ?_ (drained_kept _ _ _)
          assumption
        · refine Kept.trans ?_ (broadcast_kept _ _ _)
          assumption
      · assumption

theorem moveNext_kept : ∀ fuel entry s, Kept s (moveNext fuel entry s) := by
  intro fuel entry s
  induction fuel generalizing s with
  | zero => unfold moveNext; exact Kept.refl s
  | succ k ih =>
    unfold moveNext
    split
    · rename_i fk kk m h1 h2
      obtain rfl := Nat.succ.inj h1
      extract_lets e size put rest mx s1 rx
      have h3 : Kept s s1 := Kept.of (X := s) (Kept.refl s) rfl rfl rfl rfl rfl rfl rfl rfl
      have hp : ∀ n y, Kept y (put n y) := fun n y => Kept.of (X := y) (Kept.refl y) rfl rfl rfl rfl rfl rfl rfl rfl
      clear_value put
      split
      · split
        · exact Kept.refl s
        · split
          · exact h3.trans (commitReady_kept _ _)
          · exact h3.trans (control_kept _ _ _ _)
      · split
        · exact (hp _ _).trans (ih _)
        · exact (hp _ _).trans (pushRequest_kept _ _ _ _)
    · exact Kept.refl s

theorem moveGranule_kept : ∀ h s, Kept s (moveGranule h s) := by
  intro h s
  unfold moveGranule
  split
  · exact Kept.refl _
  · extract_lets +onlyGivenNames v0
    clear_value v0
    extract_lets +onlyGivenNames v1
    clear_value v1
    refine Kept.trans ?_ (pushRequest_kept _ _ _ _)
    exact Kept.refl _

theorem answerDone_kept : ∀ h listed s, Kept s (answerDone h listed s) := by
  intro h listed s
  unfold answerDone
  extract_lets +onlyGivenNames v0
  clear_value v0
  split
  · refine Kept.trans ?_ (moveGranule_kept _ _)
    exact Kept.refl _
  · split
    · refine Kept.trans ?_ (moveNext_kept _ _ _)
      exact Kept.refl _
    · split
      · refine Kept.trans ?_ (answerTo_kept _ _ _ _ _ _)
        exact Kept.refl _
      · split
        · refine Kept.trans ?_ (answerTo_kept _ _ _ _ _ _)
          exact Kept.refl _
        · extract_lets +onlyGivenNames v1
          clear_value v1
          split
          · refine Kept.trans ?_ (answerTo_kept _ _ _ _ _ _)
            exact Kept.refl _
          · split
            · refine Kept.trans ?_ (answerTo_kept _ _ _ _ _ _)
              exact Kept.refl _
            · split
              · refine Kept.trans ?_ (answerTo_kept _ _ _ _ _ _)
                exact Kept.refl _
              · split
                · refine Kept.trans ?_ (answerTo_kept _ _ _ _ _ _)
                  exact Kept.refl _
                · split
                  · refine Kept.trans ?_ (answerTo_kept _ _ _ _ _ _)
                    exact Kept.refl _
                  · refine Kept.trans ?_ (answerTo_kept _ _ _ _ _ _)
                    exact Kept.refl _

theorem endStep_kept : ∀ a kind code data listed s, Kept s (endStep a kind code data listed s) := by
  intro a kind code data listed s
  unfold endStep
  extract_lets +onlyGivenNames v0
  have h1 : Kept s v0 := by
    unfold v0
    split
    · refine Kept.trans ?_ (drainOne_kept _ _)
      exact Kept.refl _
    · exact Kept.refl _
  clear_value v0
  split
  · assumption
  · extract_lets +onlyGivenNames v2
    clear_value v2
    extract_lets +onlyGivenNames v3
    clear_value v3
    extract_lets +onlyGivenNames v4
    clear_value v4
    extract_lets +onlyGivenNames v5
    clear_value v5
    split
    · refine Kept.setHome (X := v0) ?_ _
      assumption
    · extract_lets +onlyGivenNames v6
      clear_value v6
      extract_lets +onlyGivenNames v7
      have h8 : Kept s v7 := by
        unfold v7
        refine Kept.setHome (X := v0) ?_ _
        assumption
      clear_value v7
      extract_lets +onlyGivenNames v9
      clear_value v9
      extract_lets +onlyGivenNames v10
      clear_value v10
      extract_lets +onlyGivenNames v11
      clear_value v11
      extract_lets +onlyGivenNames v12
      have h13 : Kept s v12 := by
        unfold v12
        split
        · refine Kept.setHome (X := v7) ?_ _
          assumption
        · assumption
      clear_value v12
      extract_lets +onlyGivenNames v14
      clear_value v14
      extract_lets +onlyGivenNames v15
      have h16 : Kept s v15 := by
        unfold v15
        split
        · refine Kept.trans ?_ (countRemoval_kept _ _ _ _ _)
          assumption
        · assumption
      clear_value v15
      refine Kept.trans ?_ (noteWrite_kept _ _ _)
      refine Kept.trans ?_ (answerDone_kept _ _ _)
      assumption

theorem lookLine_kept : ∀ line s, Kept s (lookLine line s) := by
  intro line s
  unfold lookLine
  split
  · exact Kept.refl _
  · extract_lets +onlyGivenNames v0
    clear_value v0
    split
    · exact Kept.refl _
    · split
      · extract_lets +onlyGivenNames v1
        have h2 : Kept s v1 := by
          unfold v1
          refine Kept.trans ?_ (dropDir_kept _ _)
          exact Kept.refl _
        clear_value v1
        extract_lets +onlyGivenNames v3
        clear_value v3
        extract_lets +onlyGivenNames v4
        clear_value v4
        extract_lets +onlyGivenNames v5
        have h6 : Kept s v5 := by
          unfold v5
          refine Kept.setHome (X := v1) ?_ _
          assumption
        clear_value v5
        refine Kept.trans ?_ (pushRequest_kept _ _ _ _)
        assumption
      · split
        · refine Kept.trans ?_ (dropDir_kept _ _)
          exact Kept.refl _
        · refine Kept.trans ?_ (setDir_kept _ _)
          exact Kept.refl _

theorem nextRecall_kept : ∀ s, Kept s (nextRecall s) := by
  intro s
  unfold nextRecall
  split
  · exact Kept.refl _
  · split
    · exact Kept.refl _
    · split
      · refine Kept.trans ?_ (dropDir_kept _ _)
        exact Kept.refl _
      · refine Kept.trans ?_ (startRound_kept _ _ _ _ _ _ _ _)
        exact Kept.refl _

theorem recallStale_kept : ∀ line s, Kept s (recallStale line s) := by
  intro line s
  unfold recallStale
  split
  · exact Kept.refl _
  · split
    · exact Kept.refl _
    · split
      · refine Kept.trans ?_ (dropDir_kept _ _)
        exact Kept.refl _
      · split
        · refine Kept.trans ?_ (nextRecall_kept _)
          refine Kept.setHome (X := s) ?_ _
          exact Kept.refl _
        · refine Kept.trans ?_ (nextRecall_kept _)
          exact Kept.refl _

theorem settleLine_kept : ∀ line entry b final s, Kept s (settleLine line entry b final s) := by
  intro line entry b final s
  unfold settleLine
  split
  · exact Kept.refl _
  · extract_lets +onlyGivenNames v0
    clear_value v0
    extract_lets +onlyGivenNames v1
    clear_value v1
    extract_lets +onlyGivenNames v2
    clear_value v2
    split
    · split
      · refine Kept.trans ?_ (dropDir_kept _ _)
        exact Kept.refl _
      · refine Kept.trans ?_ (setDir_kept _ _)
        exact Kept.refl _
    · split
      · refine Kept.trans ?_ (setDir_kept _ _)
        exact Kept.refl _
      · extract_lets +onlyGivenNames v3
        clear_value v3
        extract_lets +onlyGivenNames v4
        clear_value v4
        extract_lets +onlyGivenNames v5
        clear_value v5
        refine Kept.trans ?_ (sendFabric_kept _ _)
        refine Kept.trans ?_ (setDir_kept _ _)
        exact Kept.refl _

theorem startBatch_kept : ∀ entry off s, Kept s (startBatch entry off s) := by
  intro entry off s
  unfold startBatch
  extract_lets +onlyGivenNames v0
  clear_value v0
  extract_lets +onlyGivenNames v1
  clear_value v1
  split
  · extract_lets +onlyGivenNames v2
    clear_value v2
    extract_lets +onlyGivenNames v3
    have h4 : Kept s v3 := by
      unfold v3
      split
      · refine Kept.trans ?_ (lookLine_kept _ _)
        exact Kept.refl _
      · exact Kept.refl _
    clear_value v3
    extract_lets +onlyGivenNames v5
    clear_value v5
    split
    · assumption
    · extract_lets +onlyGivenNames v6
      clear_value v6
      extract_lets +onlyGivenNames v7
      clear_value v7
      extract_lets +onlyGivenNames v8
      clear_value v8
      extract_lets +onlyGivenNames v9
      clear_value v9
      extract_lets +onlyGivenNames v10
      clear_value v10
      split
      · assumption
      · extract_lets +onlyGivenNames v11
        have h14 : ∀ z12 z13, Kept z13 (v11 z12 z13) := by
          intro y15 y16
          unfold v11
          refine Kept.trans ?_ (setQueue_kept _ _ _)
          exact Kept.refl _
        clear_value v11
        split
        · split
          · assumption
          · refine Kept.trans ?_ (pumpReads_kept _ _)
            refine Kept.trans ?_ (h14 _ _)
            assumption
        · split
          · split
            · assumption
            · split
              · refine Kept.trans ?_ (h14 _ _)
                assumption
              · extract_lets +onlyGivenNames v17
                have h18 : Kept s v17.2 := by
                  unfold v17
                  split
                  · refine Kept.trans ?_ (dirRoom_kept _ _)
                    assumption
                  · dsimp only
                    assumption
                clear_value v17
                extract_lets +onlyGivenNames v19
                have h20 : Kept s v19 := by
                  unfold v19
                  assumption
                clear_value v19
                split
                · assumption
                · split
                  · split
                    · assumption
                    · refine Kept.trans ?_ (startRound_kept _ _ _ _ _ _ _ _)
                      refine Kept.trans ?_ (h14 _ _)
                      assumption
                  · extract_lets +onlyGivenNames v21
                    have h22 : Kept s v21 := by
                      unfold v21
                      refine Kept.trans ?_ (setDir_kept _ _)
                      assumption
                    clear_value v21
                    refine Kept.trans ?_ (pumpReads_kept _ _)
                    refine Kept.trans ?_ (h14 _ _)
                    assumption
          · split
            · assumption
            · split
              · refine Kept.trans ?_ (h14 _ _)
                assumption
              · extract_lets +onlyGivenNames v23
                have h24 : Kept s v23.2 := by
                  unfold v23
                  split
                  · refine Kept.trans ?_ (dirRoom_kept _ _)
                    assumption
                  · dsimp only
                    assumption
                clear_value v23
                extract_lets +onlyGivenNames v25
                have h26 : Kept s v25 := by
                  unfold v25
                  assumption
                clear_value v25
                split
                · assumption
                · split
                  · split
                    · assumption
                    · refine Kept.trans ?_ (startRound_kept _ _ _ _ _ _ _ _)
                      refine Kept.trans ?_ (h14 _ _)
                      assumption
                  · extract_lets +onlyGivenNames v27
                    have h28 : Kept s v27 := by
                      unfold v27
                      split
                      · refine Kept.trans ?_ (setDir_kept _ _)
                        assumption
                      · assumption
                    clear_value v27
                    refine Kept.trans ?_ (pumpReads_kept _ _)
                    refine Kept.trans ?_ (h14 _ _)
                    assumption
  · exact Kept.refl _

theorem endRow_kept : ∀ b s, Kept s (endRow b s) := by
  intro b s
  unfold endRow
  split
  · refine Kept.setHome (X := s) ?_ _
    exact Kept.refl _
  · split
    · split
      · exact Kept.refl _
      · refine Kept.setHome (X := s) ?_ _
        exact Kept.refl _
    · exact Kept.refl _

theorem endOwnStep_kept : ∀ key s, Kept s (endOwnStep key s) := by
  intro key s
  unfold endOwnStep
  split
  · exact Kept.refl _
  · split
    · exact Kept.refl _
    · refine Kept.trans ?_ (endRow_kept _ _)
      refine Kept.trans ?_ (setQueue_kept _ _ _)
      exact Kept.refl _

theorem endBatch_kept : ∀ entry off s, Kept s (endBatch entry off s) := by
  intro entry off s
  unfold endBatch
  extract_lets +onlyGivenNames v0
  clear_value v0
  split
  · exact Kept.refl _
  · split
    · exact Kept.refl _
    · extract_lets +onlyGivenNames v1
      clear_value v1
      extract_lets +onlyGivenNames v2
      clear_value v2
      extract_lets +onlyGivenNames v3
      clear_value v3
      extract_lets +onlyGivenNames v4
      clear_value v4
      extract_lets +onlyGivenNames v5
      clear_value v5
      extract_lets +onlyGivenNames v6
      clear_value v6
      extract_lets +onlyGivenNames v7
      clear_value v7
      extract_lets +onlyGivenNames v8
      clear_value v8
      extract_lets +onlyGivenNames v9
      clear_value v9
      extract_lets +onlyGivenNames v10
      have h11 : Kept s v10 := by
        unfold v10
        refine Kept.trans ?_ (setQueue_kept _ _ _)
        exact Kept.refl _
      clear_value v10
      extract_lets +onlyGivenNames v12
      have h13 : Kept s v12 := by
        unfold v12
        split
        · refine Kept.trans ?_ (recallStale_kept _ _)
          refine Kept.trans ?_ (settleLine_kept _ _ _ _ _)
          assumption
        · assumption
      clear_value v12
      extract_lets +onlyGivenNames v14
      have h15 : Kept s v14 := by
        unfold v14
        refine Kept.foldl (fun y x => ?_) ?_
        · split
          · refine Kept.trans ?_ (endStep_kept _ _ _ _ _ _)
            exact Kept.refl _
          · extract_lets +onlyGivenNames v16
            clear_value v16
            refine Kept.trans ?_ (endStep_kept _ _ _ _ _ _)
            exact Kept.refl _
        · assumption
      clear_value v14
      refine Kept.trans ?_ (wakeHome_kept _)
      assumption

theorem failRequests_kept : ∀ d t m s, Kept s (failRequests d t m s) := by
  intro d t m s
  unfold failRequests
  extract_lets +onlyGivenNames v0
  clear_value v0
  extract_lets +onlyGivenNames v1
  clear_value v1
  extract_lets +onlyGivenNames v2
  have h3 : Kept s v2 := by
    unfold v2
    refine Kept.setHome (X := s) ?_ _
    exact Kept.refl _
  clear_value v2
  refine Kept.foldl (fun y x => ?_) ?_
  · refine Kept.trans ?_ (endOwnStep_kept _ _)
    refine Kept.trans ?_ (pumpReads_kept _ _)
    exact Kept.refl _
  · assumption

theorem treatFailed_kept : ∀ d t m s, Kept s (treatFailed d t m s) := by
  intro d t m s
  unfold treatFailed
  split
  · exact Kept.refl _
  · refine Kept.trans ?_ (failRequests_kept _ _ _ _)
    refine Kept.setHome (X := s) ?_ _
    exact Kept.refl _

theorem judgeGroups_kept : ∀ s, Kept s (judgeGroups s) := by
  intro s
  unfold judgeGroups
  refine Kept.foldl (fun y x => ?_) ?_
  · extract_lets +onlyGivenNames v0
    clear_value v0
    extract_lets +onlyGivenNames v1
    clear_value v1
    extract_lets +onlyGivenNames v2
    clear_value v2
    extract_lets +onlyGivenNames v3
    clear_value v3
    extract_lets +onlyGivenNames v4
    clear_value v4
    split
    · refine Kept.trans ?_ (raise_kept _ _ _)
      refine Kept.setHome (X := y) ?_ _
      exact Kept.refl _
    · split
      · refine Kept.setHome (X := y) ?_ _
        exact Kept.refl _
      · exact Kept.refl _
  · exact Kept.refl _

theorem declareModule_kept : ∀ t m all s, Kept s (declareModule t m all s) := by
  intro t m all s
  unfold declareModule
  extract_lets +onlyGivenNames v0
  clear_value v0
  extract_lets +onlyGivenNames v1
  clear_value v1
  extract_lets +onlyGivenNames v2
  have h3 : Kept s v2 := by
    unfold v2
    refine Kept.foldl (fun y x => ?_) ?_
    · refine Kept.trans ?_ (treatFailed_kept _ _ _ _)
      exact Kept.refl _
    · exact Kept.refl _
  clear_value v2
  extract_lets +onlyGivenNames v4
  clear_value v4
  extract_lets +onlyGivenNames v5
  clear_value v5
  extract_lets +onlyGivenNames v6
  have h7 : Kept s v6 := by
    unfold v6
    refine Kept.trans ?_ (raise_kept _ _ _)
    assumption
  clear_value v6
  extract_lets +onlyGivenNames v8
  clear_value v8
  extract_lets +onlyGivenNames v9
  have h10 : Kept s v9 := by
    unfold v9
    refine Kept.setHome (X := v6) ?_ _
    assumption
  clear_value v9
  refine Kept.trans ?_ (judgeGroups_kept _)
  refine Kept.trans ?_ (broadcast_kept _ _ _)
  assumption

theorem notePoison_kept : ∀ r s, Kept s (notePoison r s) := by
  intro r s
  unfold notePoison
  split
  · exact Kept.refl _
  · extract_lets +onlyGivenNames v0
    clear_value v0
    extract_lets +onlyGivenNames v1
    clear_value v1
    extract_lets +onlyGivenNames v2
    clear_value v2
    extract_lets +onlyGivenNames v3
    have h4 : Kept s v3 := by
      unfold v3
      refine Kept.setHome (X := s) ?_ _
      exact Kept.refl _
    clear_value v3
    split
    · refine Kept.trans ?_ (declareModule_kept _ _ _ _)
      assumption
    · assumption

theorem trayAnswer_kept : ∀ id kind data s, Kept s (trayAnswer id kind data s) := by
  intro id kind data s
  unfold trayAnswer
  split
  · exact Kept.refl _
  · extract_lets +onlyGivenNames v0
    clear_value v0
    extract_lets +onlyGivenNames v1
    have h2 : Kept s v1 := by
      unfold v1
      refine Kept.setHome (X := s) ?_ _
      exact Kept.refl _
    clear_value v1
    extract_lets +onlyGivenNames v3
    have h6 : ∀ z4 z5, Kept z5 (v3 z4 z5) := by
      intro y7 y8
      unfold v3
      split
      · exact Kept.refl _
      · refine Kept.trans ?_ (setBatch_kept _ _ _)
        exact Kept.refl _
    clear_value v3
    extract_lets +onlyGivenNames v9
    have h10 : Kept s v9 := by
      unfold v9
      split
      · refine Kept.trans ?_ (h6 _ _)
        assumption
      · split
        · refine Kept.trans ?_ (notePoison_kept _ _)
          refine Kept.trans ?_ (h6 _ _)
          assumption
        · refine Kept.trans ?_ (judgeGroups_kept _)
          refine Kept.trans ?_ (treatFailed_kept _ _ _ _)
          split
          · assumption
          · refine Kept.trans ?_ (setBatch_kept _ _ _)
            assumption
    clear_value v9
    refine Kept.trans ?_ (endOwnStep_kept _ _)
    refine Kept.trans ?_ (pumpReads_kept _ _)
    assumption

/-! Translate -/

theorem setHost_kept : ∀ host h s, Kept s (setHost host h s) := by
  intro host h s
  unfold setHost
  refine Kept.setIng (X := s) ?_ _
  exact Kept.refl _

theorem hostRecord_kept : ∀ host cls f s, Kept s (hostRecord host cls f s) := by
  intro host cls f s
  unfold hostRecord
  split
  · exact Kept.refl _
  · extract_lets +onlyGivenNames v0
    clear_value v0
    extract_lets +onlyGivenNames v1
    clear_value v1
    extract_lets +onlyGivenNames v2
    clear_value v2
    refine Kept.trans ?_ (setHost_kept _ _ _)
    exact Kept.refl _

theorem toHost_kept : ∀ host charter r s, Kept s (toHost host charter r s) := by
  intro host charter r s
  unfold toHost
  extract_lets +onlyGivenNames v0
  clear_value v0
  extract_lets +onlyGivenNames v1
  have h2 : Kept s v1 := by
    unfold v1
    refine Kept.trans ?_ (setHost_kept _ _ _)
    exact Kept.refl _
  clear_value v1
  split
  · refine Kept.trans ?_ (sendHost_kept _ _ _ _)
    assumption
  · assumption

theorem refuseHost_kept : ∀ host tag code s, Kept s (refuseHost host tag code s) := by
  intro host tag code s
  unfold refuseHost
  extract_lets +onlyGivenNames v0
  clear_value v0
  refine Kept.trans ?_ (toHost_kept _ _ _ _)
  refine Kept.trans ?_ (recordReason_kept _ _)
  exact Kept.refl _

theorem answerHost_kept : ∀ host tag r s, Kept s (answerHost host tag r s) := by
  intro host tag r s
  unfold answerHost
  split
  · exact Kept.refl _
  · extract_lets +onlyGivenNames v0
    clear_value v0
    extract_lets +onlyGivenNames v1
    have h2 : Kept s v1 := by
      unfold v1
      refine Kept.setIng (X := s) ?_ _
      exact Kept.refl _
    clear_value v1
    extract_lets +onlyGivenNames v3
    clear_value v3
    extract_lets +onlyGivenNames v4
    have h5 : Kept s v4 := by
      unfold v4
      refine Kept.trans ?_ (hostRecord_kept _ _ _ _)
      assumption
    clear_value v4
    extract_lets +onlyGivenNames v6
    clear_value v6
    extract_lets +onlyGivenNames v7
    clear_value v7
    extract_lets +onlyGivenNames v8
    have h9 : Kept s v8 := by
      unfold v8
      split
      · refine Kept.trans ?_ (countRemoval_kept _ _ _ _ _)
        assumption
      · assumption
    clear_value v8
    refine Kept.trans ?_ (toHost_kept _ _ _ _)
    assumption

theorem askUnder_kept : ∀ opcode length entry e off aux parts tclass payload s, Kept s (askUnder opcode length entry e off aux parts tclass payload s).2 := by
  intro opcode length entry e off aux parts tclass payload s
  unfold askUnder
  extract_lets +onlyGivenNames v0
  clear_value v0
  extract_lets +onlyGivenNames v1
  clear_value v1
  extract_lets +onlyGivenNames v2
  clear_value v2
  dsimp only
  refine Kept.trans ?_ (sendFabric_kept _ _)
  refine Kept.setIng (X := s) ?_ _
  exact Kept.refl _

theorem askHome_kept : ∀ opcode length entry off aux parts tclass payload s, Kept s (askHome opcode length entry off aux parts tclass payload s).2 := by
  intro opcode length entry off aux parts tclass payload s
  unfold askHome
  refine Kept.trans ?_ (askUnder_kept _ _ _ _ _ _ _ _ _ _)
  exact Kept.refl _

end Sys2Proof.Machine
end

