-- ==== Sys2Proof/Laws/KeptAgent.lean ====
section
/-! SUPPORT. One lemma per operation of the snoop filter and the hosts' requests: what it keeps. -/

namespace Sys2Proof.Machine
open Sys2Proof

/-! Agent -/

theorem setFilter_kept : ∀ f s, Kept s (setFilter f s) := by
  intro f s
  unfold setFilter
  extract_lets +onlyGivenNames v0
  clear_value v0
  refine Kept.setIng (X := s) ?_ _
  exact Kept.refl _

theorem dropFilter_kept : ∀ line s, Kept s (dropFilter line s) := by
  intro line s
  unfold dropFilter
  refine Kept.setIng (X := s) ?_ _
  exact Kept.refl _

theorem dropCache_kept : ∀ line s, Kept s (dropCache line s) := by
  intro line s
  unfold dropCache
  refine Kept.setIng (X := s) ?_ _
  exact Kept.refl _

theorem hostReply_kept : ∀ p opcode reason data s, Kept s (hostReply p opcode reason data s) := by
  intro p opcode reason data s
  unfold hostReply
  refine Kept.trans ?_ (answerHost_kept _ _ _ _)
  exact Kept.refl _

theorem sendRecalls_kept : ∀ hosts downgrade why f s, Kept s (sendRecalls hosts downgrade why f s) := by
  intro hosts downgrade why f s
  unfold sendRecalls
  extract_lets +onlyGivenNames v0
  have h1 : Kept s v0 := by
    unfold v0
    refine Kept.trans ?_ (setFilter_kept _ _)
    exact Kept.refl _
  clear_value v0
  refine Kept.foldl (fun y x => ?_) ?_
  · refine Kept.trans ?_ (sendRecall_kept _ _ _ _ _ _)
    exact Kept.refl _
  · assumption

theorem askFor_kept : ∀ op aux tclass data f s, Kept s (askFor op aux tclass data f s) := by
  intro op aux tclass data f s
  unfold askFor
  extract_lets +onlyGivenNames v0
  clear_value v0
  extract_lets +onlyGivenNames v1
  clear_value v1
  refine Kept.trans ?_ (askUnder_kept _ _ _ _ _ _ _ _ _ _)
  exact Kept.refl _

theorem sendLost_kept : ∀ f s, Kept s (sendLost f s) := by
  intro f s
  unfold sendLost
  refine Kept.trans ?_ (askFor_kept _ _ _ _ _ _)
  refine Kept.trans ?_ (setFilter_kept _ _)
  exact Kept.refl _

theorem sendDone_kept : ∀ f data lost s, Kept s (sendDone f data lost s) := by
  intro f data lost s
  unfold sendDone
  refine Kept.trans ?_ (askFor_kept _ _ _ _ _ _)
  exact Kept.refl _

theorem sendRelease_kept : ∀ op data part f s, Kept s (sendRelease op data part f s) := by
  intro op data part f s
  unfold sendRelease
  extract_lets +onlyGivenNames v0
  have h1 : Kept s v0 := by
    unfold v0
    refine Kept.trans ?_ (dropCache_kept _ _)
    exact Kept.refl _
  clear_value v0
  extract_lets +onlyGivenNames v2
  have h3 : Kept s v2 := by
    unfold v2
    refine Kept.trans ?_ (setFilter_kept _ _)
    assumption
  clear_value v2
  refine Kept.trans ?_ (askFor_kept _ _ _ _ _ _)
  assumption

theorem evictLine_kept : ∀ f s, Kept s (evictLine f s) := by
  intro f s
  unfold evictLine
  split
  · split
    · refine Kept.trans ?_ (sendRelease_kept _ _ _ _ _)
      exact Kept.refl _
    · refine Kept.trans ?_ (sendRelease_kept _ _ _ _ _)
      exact Kept.refl _
  · refine Kept.trans ?_ (sendRecalls_kept _ _ _ _ _)
    exact Kept.refl _

theorem makeRoom_kept : ∀ s, Kept s (makeRoom s) := by
  intro s
  unfold makeRoom
  split
  · exact Kept.refl _
  · split
    · refine Kept.trans ?_ (evictLine_kept _ _)
      exact Kept.refl _
    · exact Kept.refl _

theorem waitLine_kept : ∀ p s, Kept s (waitLine p s) := by
  intro p s
  unfold waitLine
  refine Kept.setIng (X := s) ?_ _
  exact Kept.refl _

theorem askLine_kept : ∀ op part f s, Kept s (askLine op part f s) := by
  intro op part f s
  unfold askLine
  extract_lets +onlyGivenNames v0
  clear_value v0
  refine Kept.trans ?_ (askFor_kept _ _ _ _ _ _)
  refine Kept.trans ?_ (setFilter_kept _ _)
  exact Kept.refl _

theorem dropSharedLine_kept : ∀ line s, Kept s (dropSharedLine line s) := by
  intro line s
  unfold dropSharedLine
  extract_lets +onlyGivenNames v0
  have h1 : Kept s v0 := by
    unfold v0
    refine Kept.trans ?_ (dropCache_kept _ _)
    exact Kept.refl _
  clear_value v0
  split
  · assumption
  · split
    · assumption
    · split
      · refine Kept.trans ?_ (setFilter_kept _ _)
        assumption
      · extract_lets +onlyGivenNames v2
        split
        · refine Kept.trans ?_ (sendRelease_kept _ _ _ _ _)
          assumption
        · refine Kept.trans ?_ (setFilter_kept _ _)
          assumption

theorem cacheRoom_kept : ∀ s, Kept s (cacheRoom s) := by
  intro s
  unfold cacheRoom
  split
  · exact Kept.refl _
  · extract_lets +onlyGivenNames v0
    clear_value v0
    split
    · refine Kept.trans ?_ (dropSharedLine_kept _ _)
      exact Kept.refl _
    · exact Kept.refl _

theorem fillLine_kept : ∀ entry granule data s, Kept s (fillLine entry granule data s) := by
  intro entry granule data s
  unfold fillLine
  extract_lets +onlyGivenNames v0
  have h1 : Kept s v0 := by
    unfold v0
    split
    · refine Kept.trans ?_ (cacheRoom_kept _)
      exact Kept.refl _
    · exact Kept.refl _
  clear_value v0
  extract_lets +onlyGivenNames v2
  clear_value v2
  extract_lets +onlyGivenNames v3
  clear_value v3
  refine Kept.setIng (X := v0) ?_ _
  assumption

theorem dropGranule_kept : ∀ granule s, Kept s (dropGranule granule s) := by
  intro granule s
  unfold dropGranule
  extract_lets +onlyGivenNames v0
  have h1 : Kept s v0 := by
    unfold v0
    split
    · refine Kept.trans ?_ (dropSharedLine_kept _ _)
      exact Kept.refl _
    · exact Kept.refl _
  clear_value v0
  refine Kept.setIng (X := v0) ?_ _
  assumption

theorem barWindow_kept : ∀ host granule s, Kept s (barWindow host granule s) := by
  intro host granule s
  unfold barWindow
  refine Kept.setIng (X := s) ?_ _
  exact Kept.refl _

theorem markSent_kept : ∀ host tag s, Kept s (markSent host tag s) := by
  intro host tag s
  unfold markSent
  refine Kept.setIng (X := s) ?_ _
  exact Kept.refl _

theorem sendAlone_kept : ∀ host tag s, Kept s (sendAlone host tag s) := by
  intro host tag s
  unfold sendAlone
  extract_lets +onlyGivenNames v0
  have h1 : Kept s v0 := by
    unfold v0
    refine Kept.trans ?_ (markSent_kept _ _ _)
    exact Kept.refl _
  clear_value v0
  split
  · refine Kept.trans ?_ (sendFabric_kept _ _)
    assumption
  · assumption

theorem countUncombined_kept : ∀ s, Kept s (countUncombined s) := by
  intro s
  unfold countUncombined
  refine Kept.setIng (X := s) ?_ _
  exact Kept.refl _

theorem openRead_kept : ∀ p k f s, Kept s (openRead p k f s) := by
  intro p k f s
  unfold openRead
  extract_lets +onlyGivenNames v0
  clear_value v0
  extract_lets +onlyGivenNames v1
  clear_value v1
  split
  · refine Kept.trans ?_ (countUncombined_kept _)
    refine Kept.trans ?_ (sendAlone_kept _ _ _)
    exact Kept.refl _
  · extract_lets +onlyGivenNames v2
    have h3 : Kept s v2.2 := by
      unfold v2
      split
      · refine Kept.trans ?_ (askHome_kept _ _ _ _ _ _ _ _ _)
        refine Kept.trans ?_ (setFilter_kept _ _)
        exact Kept.refl _
      · refine Kept.trans ?_ (askHome_kept _ _ _ _ _ _ _ _ _)
        exact Kept.refl _
    clear_value v2
    extract_lets +onlyGivenNames v4
    clear_value v4
    refine Kept.trans ?_ (markSent_kept _ _ _)
    extract_lets +onlyGivenNames v5
    have h6 : Kept s v5 := by
      unfold v5
      assumption
    clear_value v5
    refine Kept.setIng (X := v5) ?_ _
    assumption

theorem readGranule_kept : ∀ p k s, Kept s (readGranule p k s) := by
  intro p k s
  unfold readGranule
  extract_lets +onlyGivenNames v0
  clear_value v0
  extract_lets +onlyGivenNames v1
  clear_value v1
  extract_lets +onlyGivenNames v2
  have h5 : ∀ z3 z4, Kept z4 (v2 z3 z4) := by
    intro y6 y7
    unfold v2
    refine Kept.trans ?_ (hostReply_kept _ _ _ _ _)
    exact Kept.refl _
  clear_value v2
  split
  · refine Kept.trans ?_ (h5 _ _)
    exact Kept.refl _
  · split
    · split
      · split
        · refine Kept.trans ?_ (markSent_kept _ _ _)
          refine Kept.setIng (X := s) ?_ _
          exact Kept.refl _
        · refine Kept.trans ?_ (countUncombined_kept _)
          refine Kept.trans ?_ (sendAlone_kept _ _ _)
          exact Kept.refl _
      · refine Kept.trans ?_ (sendAlone_kept _ _ _)
        exact Kept.refl _
    · split
      · refine Kept.trans ?_ (openRead_kept _ _ _ _)
        exact Kept.refl _
      · split
        · split
          · refine Kept.trans ?_ (sendAlone_kept _ _ _)
            exact Kept.refl _
          · refine Kept.trans ?_ (openRead_kept _ _ _ _)
            exact Kept.refl _
        · split
          · refine Kept.trans ?_ (waitLine_kept _ _)
            exact Kept.refl _
          · split
            · split
              · refine Kept.trans ?_ (h5 _ _)
                exact Kept.refl _
              · refine Kept.trans ?_ (sendRecalls_kept _ _ _ _ _)
                refine Kept.trans ?_ (waitLine_kept _ _)
                exact Kept.refl _
            · refine Kept.trans ?_ (openRead_kept _ _ _ _)
              exact Kept.refl _

theorem askCoherent_kept : ∀ p entry off s, Kept s (askCoherent p entry off s) := by
  intro p entry off s
  unfold askCoherent
  extract_lets +onlyGivenNames v0
  clear_value v0
  extract_lets +onlyGivenNames v1
  clear_value v1
  split
  · split
    · refine Kept.trans ?_ (makeRoom_kept _)
      refine Kept.trans ?_ (waitLine_kept _ _)
      exact Kept.refl _
    · refine Kept.trans ?_ (askLine_kept _ _ _ _)
      exact Kept.refl _
  · split
    · refine Kept.trans ?_ (waitLine_kept _ _)
      exact Kept.refl _
    · extract_lets +onlyGivenNames v2
      clear_value v2
      split
      · split
        · split
          · refine Kept.trans ?_ (hostReply_kept _ _ _ _ _)
            refine Kept.trans ?_ (setFilter_kept _ _)
            exact Kept.refl _
          · refine Kept.trans ?_ (sendRecalls_kept _ _ _ _ _)
            refine Kept.trans ?_ (waitLine_kept _ _)
            exact Kept.refl _
        · split
          · split
            · refine Kept.trans ?_ (hostReply_kept _ _ _ _ _)
              refine Kept.trans ?_ (setFilter_kept _ _)
              exact Kept.refl _
            · refine Kept.trans ?_ (askLine_kept _ _ _ _)
              exact Kept.refl _
          · refine Kept.trans ?_ (askLine_kept _ _ _ _)
            exact Kept.refl _
      · split
        · refine Kept.trans ?_ (sendRecalls_kept _ _ _ _ _)
          refine Kept.trans ?_ (waitLine_kept _ _)
          exact Kept.refl _
        · split
          · extract_lets +onlyGivenNames v3
            clear_value v3
            refine Kept.trans ?_ (hostReply_kept _ _ _ _ _)
            refine Kept.trans ?_ (setFilter_kept _ _)
            refine Kept.trans ?_ (dropCache_kept _ _)
            exact Kept.refl _
          · split
            · refine Kept.trans ?_ (hostReply_kept _ _ _ _ _)
              exact Kept.refl _
            · refine Kept.trans ?_ (askLine_kept _ _ _ _)
              exact Kept.refl _

theorem leaveLines_kept : ∀ s, Kept s (leaveLines s) := by
  intro s
  unfold leaveLines
  split
  · refine Kept.foldl (fun y x => ?_) ?_
    · split
      · split
        · exact Kept.refl _
        · refine Kept.trans ?_ (evictLine_kept _ _)
          exact Kept.refl _
      · exact Kept.refl _
    · exact Kept.refl _
  · exact Kept.refl _

theorem wakeLines_kept : ∀ s, Kept s (wakeLines s) := by
  intro s
  unfold wakeLines
  extract_lets +onlyGivenNames v0
  clear_value v0
  refine Kept.trans ?_ (leaveLines_kept _)
  refine Kept.foldl (fun y x => ?_) ?_
  · split
    · exact Kept.refl _
    · split
      · refine Kept.trans ?_ (readGranule_kept _ _ _)
        exact Kept.refl _
      · extract_lets +onlyGivenNames v1
        clear_value v1
        refine Kept.trans ?_ (askCoherent_kept _ _ _ _)
        exact Kept.refl _
  · refine Kept.setIng (X := s) ?_ _
    exact Kept.refl _

theorem recallsDone_kept : ∀ why inv data lost f s, Kept s (recallsDone why inv data lost f s) := by
  intro why inv data lost f s
  unfold recallsDone
  split
  · split
    · refine Kept.trans ?_ (wakeLines_kept _)
      refine Kept.trans ?_ (dropFilter_kept _ _)
      refine Kept.trans ?_ (dropCache_kept _ _)
      refine Kept.trans ?_ (sendDone_kept _ _ _ _)
      exact Kept.refl _
    · extract_lets +onlyGivenNames v0
      have h1 : Kept s v0 := by
        unfold v0
        refine Kept.trans ?_ (sendDone_kept _ _ _ _)
        exact Kept.refl _
      clear_value v0
      extract_lets +onlyGivenNames v2
      refine Kept.trans ?_ (wakeLines_kept _)
      split
      · refine Kept.trans ?_ (sendRelease_kept _ _ _ _ _)
        assumption
      · refine Kept.trans ?_ (setFilter_kept _ _)
        assumption
  · split
    · split
      · refine Kept.trans ?_ (sendRelease_kept _ _ _ _ _)
        exact Kept.refl _
      · split
        · refine Kept.trans ?_ (sendLost_kept _ _)
          exact Kept.refl _
        · refine Kept.trans ?_ (sendRelease_kept _ _ _ _ _)
          exact Kept.refl _
    · split
      · refine Kept.trans ?_ (sendLost_kept _ _)
        exact Kept.refl _
      · split
        · refine Kept.trans ?_ (wakeLines_kept _)
          refine Kept.trans ?_ (setFilter_kept _ _)
          exact Kept.refl _
        · refine Kept.trans ?_ (wakeLines_kept _)
          refine Kept.trans ?_ (setFilter_kept _ _)
          exact Kept.refl _

theorem recallAnswer_kept : ∀ gone host line data lost s, Kept s (recallAnswer gone host line data lost s) := by
  intro gone host line data lost s
  unfold recallAnswer
  split
  · exact Kept.refl _
  · split
    · exact Kept.refl _
    · extract_lets +onlyGivenNames v0
      clear_value v0
      extract_lets +onlyGivenNames v1
      extract_lets +onlyGivenNames v2
      clear_value v2
      extract_lets +onlyGivenNames v3
      clear_value v3
      extract_lets +onlyGivenNames v4
      split
      · refine Kept.trans ?_ (setFilter_kept _ _)
        exact Kept.refl _
      · extract_lets +onlyGivenNames v5
        clear_value v5
        extract_lets +onlyGivenNames v6
        clear_value v6
        refine Kept.trans ?_ (recallsDone_kept _ _ _ _ _ _)
        refine Kept.trans ?_ (setFilter_kept _ _)
        exact Kept.refl _

theorem releaseLine_kept : ∀ p entry off s, Kept s (releaseLine p entry off s) := by
  intro p entry off s
  unfold releaseLine
  extract_lets +onlyGivenNames v0
  clear_value v0
  extract_lets +onlyGivenNames v1
  clear_value v1
  extract_lets +onlyGivenNames v2
  clear_value v2
  split
  · refine Kept.trans ?_ (hostReply_kept _ _ _ _ _)
    exact Kept.refl _
  · split
    · refine Kept.trans ?_ (hostReply_kept _ _ _ _ _)
      refine Kept.trans ?_ (recallAnswer_kept _ _ _ _ _ _)
      exact Kept.refl _
    · split
      · refine Kept.trans ?_ (hostReply_kept _ _ _ _ _)
        exact Kept.refl _
      · split
        · split
          · refine Kept.trans ?_ (sendRelease_kept _ _ _ _ _)
            exact Kept.refl _
          · refine Kept.trans ?_ (sendRelease_kept _ _ _ _ _)
            exact Kept.refl _
          · refine Kept.trans ?_ (sendRelease_kept _ _ _ _ _)
            exact Kept.refl _
        · extract_lets +onlyGivenNames v3
          clear_value v3
          extract_lets +onlyGivenNames v4
          have h5 : Kept s v4 := by
            unfold v4
            refine Kept.trans ?_ (setFilter_kept _ _)
            exact Kept.refl _
          clear_value v4
          extract_lets +onlyGivenNames v6
          have h7 : Kept s v6 := by
            unfold v6
            refine Kept.trans ?_ (hostReply_kept _ _ _ _ _)
            assumption
          clear_value v6
          split
          · refine Kept.trans ?_ (sendRelease_kept _ _ _ _ _)
            assumption
          · assumption

theorem agentAnswer_kept : ∀ o r s, Kept s (agentAnswer o r s) := by
  intro o r s
  unfold agentAnswer
  extract_lets +onlyGivenNames v0
  clear_value v0
  split
  · exact Kept.refl _
  · split
    · split
      · exact Kept.refl _
      · extract_lets +onlyGivenNames v1
        have h2 : Kept s v1 := by
          unfold v1
          refine Kept.trans ?_ (dropFilter_kept _ _)
          exact Kept.refl _
        clear_value v1
        extract_lets +onlyGivenNames v3
        have h4 : Kept s v3 := by
          unfold v3
          split
          · refine Kept.trans ?_ (answerHost_kept _ _ _ _)
            assumption
          · assumption
        clear_value v3
        refine Kept.trans ?_ (wakeLines_kept _)
        assumption
    · split
      · exact Kept.refl _
      · extract_lets +onlyGivenNames v5
        extract_lets +onlyGivenNames v6
        extract_lets +onlyGivenNames v7
        extract_lets +onlyGivenNames v8
        have h9 : Kept s v8 := by
          unfold v8
          split
          · refine Kept.trans ?_ (dropCache_kept _ _)
            exact Kept.refl _
          · exact Kept.refl _
        clear_value v8
        extract_lets +onlyGivenNames v10
        have h11 : Kept s v10 := by
          unfold v10
          split
          · refine Kept.trans ?_ (setFilter_kept _ _)
            assumption
          · split
            · refine Kept.trans ?_ (dropFilter_kept _ _)
              assumption
            · refine Kept.trans ?_ (sendRelease_kept _ _ _ _ _)
              assumption
        clear_value v10
        extract_lets +onlyGivenNames v12
        have h13 : Kept s v12 := by
          unfold v12
          split
          · refine Kept.trans ?_ (answerHost_kept _ _ _ _)
            assumption
          · assumption
        clear_value v12
        refine Kept.trans ?_ (wakeLines_kept _)
        assumption

theorem snoopFilter_kept : ∀ q s, Kept s (snoopFilter q s).2 := by
  intro q s
  unfold snoopFilter
  split
  · dsimp only
    exact Kept.refl _
  · split
    · dsimp only
      exact Kept.refl _
    · split
      · dsimp only
        exact Kept.refl _
      · split
        · dsimp only
          exact Kept.refl _
        · split
          · split
            · dsimp only
              exact Kept.refl _
            · extract_lets +onlyGivenNames v0
              have h1 : Kept s v0 := by
                unfold v0
                refine Kept.trans ?_ (dropCache_kept _ _)
                exact Kept.refl _
              clear_value v0
              extract_lets +onlyGivenNames v2
              clear_value v2
              split
              · dsimp only
                refine Kept.trans ?_ (dropFilter_kept _ _)
                refine Kept.trans ?_ (sendDone_kept _ _ _ _)
                assumption
              · dsimp only
                refine Kept.trans ?_ (sendRecalls_kept _ _ _ _ _)
                assumption
          · split
            · split
              · dsimp only
                refine Kept.trans ?_ (setFilter_kept _ _)
                refine Kept.trans ?_ (sendDone_kept _ _ _ _)
                exact Kept.refl _
              · split
                · dsimp only
                  refine Kept.trans ?_ (dropFilter_kept _ _)
                  refine Kept.trans ?_ (dropCache_kept _ _)
                  refine Kept.trans ?_ (sendDone_kept _ _ _ _)
                  exact Kept.refl _
                · dsimp only
                  refine Kept.trans ?_ (sendRecalls_kept _ _ _ _ _)
                  refine Kept.trans ?_ (dropCache_kept _ _)
                  exact Kept.refl _
            · dsimp only
              refine Kept.trans ?_ (sendRecalls_kept _ _ _ _ _)
              exact Kept.refl _

theorem answerSnoop_kept : ∀ ownerSite q s, Kept s (answerSnoop ownerSite q s).2 := by
  intro ownerSite q s
  unfold answerSnoop
  split
  · dsimp only
    exact Kept.refl _
  · extract_lets +onlyGivenNames v0
    clear_value v0
    split
    · dsimp only
      exact Kept.refl _
    · extract_lets +onlyGivenNames v1
      have h2 : Kept s v1.2 := by
        unfold v1
        refine Kept.trans ?_ (snoopFilter_kept _ _)
        exact Kept.refl _
      clear_value v1
      dsimp only
      refine Kept.setIng (X := v1.2) ?_ _
      assumption

theorem buryHost_kept : ∀ host s, Kept s (buryHost host s) := by
  intro host s
  unfold buryHost
  refine Kept.foldl (fun y x => ?_) ?_
  · split
    · exact Kept.refl _
    · split
      · refine Kept.trans ?_ (recallAnswer_kept _ _ _ _ _ _)
        exact Kept.refl _
      · split
        · exact Kept.refl _
        · split
          · refine Kept.trans ?_ (sendLost_kept _ _)
            refine Kept.trans ?_ (dropCache_kept _ _)
            exact Kept.refl _
          · extract_lets +onlyGivenNames v0
            clear_value v0
            split
            · refine Kept.trans ?_ (sendRelease_kept _ _ _ _ _)
              exact Kept.refl _
            · refine Kept.trans ?_ (setFilter_kept _ _)
              exact Kept.refl _
  · exact Kept.refl _

theorem hostDies_kept : ∀ host s, Kept s (hostDies host s) := by
  intro host s
  unfold hostDies
  split
  · exact Kept.refl _
  · extract_lets +onlyGivenNames v0
    have h1 : Kept s v0 := by
      unfold v0
      split
      · refine Kept.trans ?_ (raise_kept _ _ _)
        exact Kept.refl _
      · exact Kept.refl _
    clear_value v0
    refine Kept.trans ?_ (buryHost_kept _ _)
    refine Kept.setIng (X := v0) ?_ _
    assumption

/-! Requests -/

theorem noteRefused_kept : ∀ host window home s, Kept s (noteRefused host window home s) := by
  intro host window home s
  unfold noteRefused
  extract_lets +onlyGivenNames v0
  clear_value v0
  extract_lets +onlyGivenNames v1
  clear_value v1
  refine Kept.setIng (X := s) ?_ _
  exact Kept.refl _

theorem sealUsed_kept : ∀ host home window s, Kept s (sealUsed host home window s) := by
  intro host home window s
  unfold sealUsed
  extract_lets +onlyGivenNames v0
  clear_value v0
  extract_lets +onlyGivenNames v1
  clear_value v1
  refine Kept.setIng (X := s) ?_ _
  exact Kept.refl _

theorem refuseSeal_kept : ∀ host home r s, Kept s (refuseSeal host home r s) := by
  intro host home r s
  unfold refuseSeal
  extract_lets +onlyGivenNames v0
  have h1 : Kept s v0.2 := by
    unfold v0
    refine Kept.trans ?_ (draw_kept _)
    exact Kept.refl _
  clear_value v0
  extract_lets +onlyGivenNames v2
  clear_value v2
  extract_lets +onlyGivenNames v3
  have h4 : Kept s v3 := by
    unfold v3
    split
    · exact Kept.refl _
    · assumption
  clear_value v3
  refine Kept.trans ?_ (toHost_kept _ _ _ _)
  refine Kept.trans ?_ (recordReason_kept _ _)
  assumption

theorem acquireRange_kept : ∀ host charter start granules s, Kept s (acquireRange host charter start granules s) := by
  intro host charter start granules s
  unfold acquireRange
  extract_lets +onlyGivenNames v0
  clear_value v0
  extract_lets +onlyGivenNames v1
  clear_value v1
  extract_lets +onlyGivenNames v2
  have h3 : Kept s v2 := by
    unfold v2
    refine Kept.foldl (fun y x => ?_) ?_
    · refine Kept.trans ?_ (dropGranule_kept _ _)
      exact Kept.refl _
    · exact Kept.refl _
  clear_value v2
  refine Kept.setIng (X := v2) ?_ _
  assumption

theorem noteAcquire_kept : ∀ host charter start granules s, Kept s (noteAcquire host charter start granules s) := by
  intro host charter start granules s
  unfold noteAcquire
  extract_lets +onlyGivenNames v0
  clear_value v0
  split
  · exact Kept.refl _
  · refine Kept.setIng (X := s) ?_ _
    exact Kept.refl _

theorem acquireAgain_kept : ∀ host charter start granules s, Kept s (acquireAgain host charter start granules s) := by
  intro host charter start granules s
  unfold acquireAgain
  extract_lets +onlyGivenNames v0
  have h1 : Kept s v0 := by
    unfold v0
    refine Kept.trans ?_ (noteAcquire_kept _ _ _ _ _)
    exact Kept.refl _
  clear_value v0
  refine Kept.foldl (fun y x => ?_) ?_
  · refine Kept.trans ?_ (acquireRange_kept _ _ _ _ _)
    exact Kept.refl _
  · assumption

theorem freshen_kept : ∀ host entry gs s, Kept s (freshen host entry gs s) := by
  intro host entry gs s
  unfold freshen
  split
  · exact Kept.refl _
  · refine Kept.foldl (fun y x => ?_) ?_
    · refine Kept.trans ?_ (barWindow_kept _ _ _)
      refine Kept.trans ?_ (dropGranule_kept _ _)
      exact Kept.refl _
    · exact Kept.refl _

theorem sendAtoms_kept : ∀ l s, Kept s (sendAtoms l s).2 := by
  intro l s
  unfold sendAtoms
  extract_lets +onlyGivenNames v0
  clear_value v0
  split
  · dsimp only
    exact Kept.refl _
  · extract_lets +onlyGivenNames v1
    clear_value v1
    extract_lets +onlyGivenNames v2
    clear_value v2
    extract_lets +onlyGivenNames v3
    clear_value v3
    refine Kept.trans ?_ (askHome_kept _ _ _ _ _ _ _ _ _)
    exact Kept.refl _

theorem atomicGranule_kept : ∀ p k s, Kept s (atomicGranule p k s) := by
  intro p k s
  unfold atomicGranule
  extract_lets +onlyGivenNames v0
  clear_value v0
  extract_lets +onlyGivenNames v1
  have h2 : Kept s v1 := by
    unfold v1
    refine Kept.trans ?_ (barWindow_kept _ _ _)
    refine Kept.trans ?_ (dropGranule_kept _ _)
    exact Kept.refl _
  clear_value v1
  split
  · split
    · refine Kept.trans ?_ (countUncombined_kept _)
      refine Kept.trans ?_ (sendAlone_kept _ _ _)
      assumption
    · extract_lets +onlyGivenNames v3
      have h4 : Kept s v3 := by
        unfold v3
        refine Kept.trans ?_ (markSent_kept _ _ _)
        assumption
      clear_value v3
      extract_lets +onlyGivenNames v5
      have h6 : Kept s v5.2 := by
        unfold v5
        refine Kept.trans ?_ (sendAtoms_kept _ _)
        assumption
      clear_value v5
      extract_lets +onlyGivenNames v7
      have h8 : Kept s v7 := by
        unfold v7
        assumption
      clear_value v7
      refine Kept.setIng (X := v7) ?_ _
      assumption
  · split
    · refine Kept.trans ?_ (countUncombined_kept _)
      refine Kept.trans ?_ (sendAlone_kept _ _ _)
      assumption
    · extract_lets +onlyGivenNames v9
      clear_value v9
      refine Kept.trans ?_ (markSent_kept _ _ _)
      refine Kept.setIng (X := v1) ?_ _
      assumption

theorem dispatchHost_kept : ∀ p s, Kept s (dispatchHost p s) := by
  intro p s
  unfold dispatchHost
  split
  · exact Kept.refl _
  · extract_lets +onlyGivenNames v0
    clear_value v0
    extract_lets +onlyGivenNames v1
    clear_value v1
    split
    · refine Kept.setIng (X := s) ?_ _
      exact Kept.refl _
    · split
      · refine Kept.trans ?_ (releaseLine_kept _ _ _ _)
        refine Kept.trans ?_ (markSent_kept _ _ _)
        exact Kept.refl _
      · split
        · refine Kept.trans ?_ (askCoherent_kept _ _ _ _)
          refine Kept.trans ?_ (markSent_kept _ _ _)
          exact Kept.refl _
        · split
          · split
            · refine Kept.trans ?_ (readGranule_kept _ _ _)
              exact Kept.refl _
            · extract_lets +onlyGivenNames v2
              clear_value v2
              split
              · extract_lets +onlyGivenNames v3
                clear_value v3
                refine Kept.trans ?_ (hostReply_kept _ _ _ _ _)
                exact Kept.refl _
              · refine Kept.trans ?_ (sendAlone_kept _ _ _)
                exact Kept.refl _
          · split
            · refine Kept.trans ?_ (atomicGranule_kept _ _ _)
              exact Kept.refl _
            · split
              · refine Kept.trans ?_ (sendAlone_kept _ _ _)
                exact Kept.refl _
              · extract_lets +onlyGivenNames v4
                have h5 : Kept s v4 := by
                  unfold v4
                  refine Kept.foldl (fun y x => ?_) ?_
                  · refine Kept.trans ?_ (barWindow_kept _ _ _)
                    refine Kept.trans ?_ (dropGranule_kept _ _)
                    exact Kept.refl _
                  · exact Kept.refl _
                clear_value v4
                refine Kept.trans ?_ (sendAlone_kept _ _ _)
                assumption

theorem wakeHeld_kept : ∀ s, Kept s (wakeHeld s) := by
  intro s
  unfold wakeHeld
  extract_lets +onlyGivenNames v0
  clear_value v0
  refine Kept.foldl (fun y x => ?_) ?_
  · refine Kept.trans ?_ (dispatchHost_kept _ _)
    exact Kept.refl _
  · refine Kept.setIng (X := s) ?_ _
    exact Kept.refl _

theorem admitHost_kept : ∀ p s, Kept s (admitHost p s) := by
  intro p s
  unfold admitHost
  extract_lets +onlyGivenNames v0
  clear_value v0
  extract_lets +onlyGivenNames v1
  clear_value v1
  split
  · refine Kept.trans ?_ (refuseHost_kept _ _ _ _)
    exact Kept.refl _
  · extract_lets +onlyGivenNames v2
    clear_value v2
    split
    · extract_lets +onlyGivenNames v3
      clear_value v3
      extract_lets +onlyGivenNames v4
      clear_value v4
      extract_lets +onlyGivenNames v5
      have h6 : Kept s v5 := by
        unfold v5
        split
        · refine Kept.trans ?_ (noteRefused_kept _ _ _ _)
          exact Kept.refl _
        · exact Kept.refl _
      clear_value v5
      refine Kept.trans ?_ (refuseHost_kept _ _ _ _)
      assumption
    · extract_lets +onlyGivenNames v7
      clear_value v7
      extract_lets +onlyGivenNames v8
      clear_value v8
      split
      · extract_lets +onlyGivenNames v9
        clear_value v9
        extract_lets +onlyGivenNames v10
        have h11 : Kept s v10 := by
          unfold v10
          refine Kept.trans ?_ (noteAcquire_kept _ _ _ _ _)
          refine Kept.trans ?_ (acquireRange_kept _ _ _ _ _)
          exact Kept.refl _
        clear_value v10
        extract_lets +onlyGivenNames v12
        clear_value v12
        refine Kept.trans ?_ (toHost_kept _ _ _ _)
        assumption
      · split
        · refine Kept.trans ?_ (refuseSeal_kept _ _ _ _)
          refine Kept.trans ?_ (sealUsed_kept _ _ _ _)
          exact Kept.refl _
        · extract_lets +onlyGivenNames v13
          clear_value v13
          extract_lets +onlyGivenNames v14
          clear_value v14
          extract_lets +onlyGivenNames v15
          have h16 : Kept s v15 := by
            unfold v15
            refine Kept.setIng (X := s) ?_ _
            exact Kept.refl _
          clear_value v15
          extract_lets +onlyGivenNames v17
          clear_value v17
          extract_lets +onlyGivenNames v18
          have h19 : Kept s v18 := by
            unfold v18
            refine Kept.trans ?_ (hostRecord_kept _ _ _ _)
            assumption
          clear_value v18
          refine Kept.trans ?_ (dispatchHost_kept _ _)
          assumption

theorem passPolice_kept : ∀ p s, Kept s (passPolice p s) := by
  intro p s
  unfold passPolice
  extract_lets +onlyGivenNames v0
  clear_value v0
  refine Kept.trans ?_ (admitHost_kept _ _)
  refine Kept.trans ?_ (setHost_kept _ _ _)
  exact Kept.refl _

theorem wakePoliced_kept : ∀ s, Kept s (wakePoliced s) := by
  intro s
  unfold wakePoliced
  extract_lets +onlyGivenNames v0
  clear_value v0
  refine Kept.foldl (fun y x => ?_) ?_
  · split
    · refine Kept.setIng (X := y) ?_ _
      exact Kept.refl _
    · refine Kept.trans ?_ (passPolice_kept _ _)
      exact Kept.refl _
  · refine Kept.setIng (X := s) ?_ _
    exact Kept.refl _

theorem hostArrive_kept : ∀ op r s, Kept s (hostArrive op r s) := by
  intro op r s
  unfold hostArrive
  split
  · exact Kept.refl _
  · extract_lets +onlyGivenNames v0
    clear_value v0
    split
    · extract_lets +onlyGivenNames v1
      clear_value v1
      extract_lets +onlyGivenNames v2
      clear_value v2
      extract_lets +onlyGivenNames v3
      have h4 : Kept s v3 := by
        unfold v3
        refine Kept.trans ?_ (setHost_kept _ _ _)
        exact Kept.refl _
      clear_value v3
      extract_lets +onlyGivenNames v5
      have h6 : Kept s v5 := by
        unfold v5
        split
        · refine Kept.trans ?_ (hostRecord_kept _ _ _ _)
          assumption
        · assumption
      clear_value v5
      refine Kept.trans ?_ (raiseLimited_kept _ _ _ _ _ _)
      refine Kept.setIng (X := v5) ?_ _
      assumption
    · refine Kept.trans ?_ (passPolice_kept _ _)
      exact Kept.refl _

theorem replayParts_kept : ∀ l granule s, Kept s (replayParts l granule s) := by
  intro l granule s
  unfold replayParts
  extract_lets +onlyGivenNames v0
  have h1 : Kept s v0 := by
    unfold v0
    refine Kept.foldl (fun y x => ?_) ?_
    · refine Kept.trans ?_ (sendAlone_kept _ _ _)
      exact Kept.refl _
    · exact Kept.refl _
  clear_value v0
  refine Kept.trans ?_ (raise_kept _ _ _)
  assumption

theorem nextAtoms_kept : ∀ granule s, Kept s (nextAtoms granule s) := by
  intro granule s
  unfold nextAtoms
  split
  · exact Kept.refl _
  · split
    · refine Kept.setIng (X := s) ?_ _
      exact Kept.refl _
    · extract_lets +onlyGivenNames v0
      have h1 : Kept s v0.2 := by
        unfold v0
        refine Kept.trans ?_ (sendAtoms_kept _ _)
        exact Kept.refl _
      clear_value v0
      extract_lets +onlyGivenNames v2
      have h3 : Kept s v2 := by
        unfold v2
        assumption
      clear_value v2
      refine Kept.setIng (X := v2) ?_ _
      assumption

theorem resendOwn_kept : ∀ o s, Kept s (resendOwn o s).2 := by
  intro o s
  unfold resendOwn
  extract_lets +onlyGivenNames v0
  clear_value v0
  extract_lets +onlyGivenNames v1
  clear_value v1
  extract_lets +onlyGivenNames v2
  clear_value v2
  extract_lets +onlyGivenNames v3
  clear_value v3
  extract_lets +onlyGivenNames v4
  clear_value v4
  extract_lets +onlyGivenNames v5
  clear_value v5
  dsimp only
  refine Kept.trans ?_ (sendFrom_kept _ _ _)
  refine Kept.setIng (X := s) ?_ _
  exact Kept.refl _

theorem readWindowAnswer_kept : ∀ w o r s, Kept s (readWindowAnswer w o r s) := by
  intro w o r s
  unfold readWindowAnswer
  extract_lets +onlyGivenNames v0
  clear_value v0
  extract_lets +onlyGivenNames v1
  clear_value v1
  extract_lets +onlyGivenNames v2
  clear_value v2
  extract_lets +onlyGivenNames v3
  have h4 : Kept s v3 := by
    unfold v3
    refine Kept.setIng (X := s) ?_ _
    exact Kept.refl _
  clear_value v3
  extract_lets +onlyGivenNames v5
  have h7 : ∀ z6, Kept z6 (v5 z6) := by
    intro y8
    unfold v5
    refine Kept.foldl (fun y x => ?_) ?_
    · split
      · exact Kept.refl _
      · extract_lets +onlyGivenNames v9
        clear_value v9
        refine Kept.trans ?_ (answerHost_kept _ _ _ _)
        exact Kept.refl _
    · exact Kept.refl _
  clear_value v5
  extract_lets +onlyGivenNames v10
  have h11 : Kept s v10 := by
    unfold v10
    split
    · assumption
    · split
      · assumption
      · split
        · refine Kept.trans ?_ (setFilter_kept _ _)
          assumption
        · split
          · refine Kept.trans ?_ (sendRelease_kept _ _ _ _ _)
            assumption
          · split
            · refine Kept.trans ?_ (setFilter_kept _ _)
              assumption
            · split
              · refine Kept.trans ?_ (dropFilter_kept _ _)
                assumption
              · refine Kept.trans ?_ (setFilter_kept _ _)
                assumption
  clear_value v10
  extract_lets +onlyGivenNames v12
  have h13 : Kept s v12 := by
    unfold v12
    split
    · refine Kept.trans ?_ (fillLine_kept _ _ _ _)
      assumption
    · assumption
  clear_value v12
  extract_lets +onlyGivenNames v14
  have h15 : Kept s v14 := by
    unfold v14
    split
    · refine Kept.trans ?_ (countRemoval_kept _ _ _ _ _)
      assumption
    · assumption
  clear_value v14
  extract_lets +onlyGivenNames v16
  have h17 : Kept s v16 := by
    unfold v16
    split
    · refine Kept.trans ?_ (replayParts_kept _ _ _)
      assumption
    · refine Kept.trans ?_ (h7 _)
      assumption
  clear_value v16
  refine Kept.trans ?_ (wakeHeld_kept _)
  refine Kept.trans ?_ (wakeLines_kept _)
  assumption

theorem atomWindowAnswer_kept : ∀ w r s, Kept s (atomWindowAnswer w r s) := by
  intro w r s
  unfold atomWindowAnswer
  extract_lets +onlyGivenNames v0
  clear_value v0
  extract_lets +onlyGivenNames v1
  clear_value v1
  extract_lets +onlyGivenNames v2
  clear_value v2
  extract_lets +onlyGivenNames v3
  clear_value v3
  extract_lets +onlyGivenNames v4
  clear_value v4
  extract_lets +onlyGivenNames v5
  have h6 : Kept s v5 := by
    unfold v5
    split
    · refine Kept.trans ?_ (replayParts_kept _ _ _)
      exact Kept.refl _
    · refine Kept.foldl (fun y x => ?_) ?_
      · split
        · exact Kept.refl _
        · extract_lets +onlyGivenNames v7
          clear_value v7
          extract_lets +onlyGivenNames v8
          clear_value v8
          refine Kept.trans ?_ (answerHost_kept _ _ _ _)
          exact Kept.refl _
      · exact Kept.refl _
  clear_value v5
  extract_lets +onlyGivenNames v9
  clear_value v9
  extract_lets +onlyGivenNames v10
  have h11 : Kept s v10 := by
    unfold v10
    refine Kept.foldl (fun y x => ?_) ?_
    · refine Kept.trans ?_ (freshen_kept _ _ _ _)
      exact Kept.refl _
    · assumption
  clear_value v10
  refine Kept.trans ?_ (wakeHeld_kept _)
  refine Kept.trans ?_ (nextAtoms_kept _ _)
  assumption

theorem aloneAnswer_kept : ∀ o r s, Kept s (aloneAnswer o r s) := by
  intro o r s
  unfold aloneAnswer
  split
  · extract_lets +onlyGivenNames v0
    clear_value v0
    extract_lets +onlyGivenNames v1
    clear_value v1
    extract_lets +onlyGivenNames v2
    clear_value v2
    extract_lets +onlyGivenNames v3
    clear_value v3
    extract_lets +onlyGivenNames v4
    have h5 : Kept s v4 := by
      unfold v4
      refine Kept.setIng (X := s) ?_ _
      exact Kept.refl _
    clear_value v4
    extract_lets +onlyGivenNames v6
    have h7 : Kept s v6 := by
      unfold v6
      refine Kept.trans ?_ (answerHost_kept _ _ _ _)
      assumption
    clear_value v6
    extract_lets +onlyGivenNames v8
    have h9 : Kept s v8 := by
      unfold v8
      refine Kept.foldl (fun y x => ?_) ?_
      · refine Kept.trans ?_ (hostReply_kept _ _ _ _ _)
        exact Kept.refl _
      · assumption
    clear_value v8
    refine Kept.trans ?_ (wakeHeld_kept _)
    assumption
  · extract_lets +onlyGivenNames v10
    have h11 : Kept s v10 := by
      unfold v10
      split
      · refine Kept.trans ?_ (acquireAgain_kept _ _ _ _ _)
        exact Kept.refl _
      · exact Kept.refl _
    clear_value v10
    extract_lets +onlyGivenNames v12
    have h13 : Kept s v12 := by
      unfold v12
      refine Kept.trans ?_ (freshen_kept _ _ _ _)
      assumption
    clear_value v12
    refine Kept.trans ?_ (wakeHeld_kept _)
    refine Kept.trans ?_ (answerHost_kept _ _ _ _)
    assumption

end Sys2Proof.Machine
end

