-- ==== Sys2Proof/Laws/KeptJobs.lean ====
section
/-! SUPPORT. One lemma per operation of jobs, registers, links, the codec and the programs: what it keeps. -/

namespace Sys2Proof.Machine
open Sys2Proof

/-! Jobs -/

theorem stampArea_wf (a n : Nat) (m : List Host.Cell) (h : Memory.wf m) : Memory.wf (stampArea a n m) :=
  foldl_mwrite_wf _ _ (fun m g hm => mwrite_wf m g stamp hm) m h

theorem cipherPage_wf (key : Bytes) (page : Nat) (m : List Host.Cell) (h : Memory.wf m) : Memory.wf (cipherPage key page m) :=
  foldl_mwrite_wf _ _ (fun m i hm => mwrite_wf m _ _ hm) m h

theorem lockStage_kept : ∀ c s, Kept s (lockStage c s) := by
  intro c s
  unfold lockStage
  refine Kept.foldl (fun y x => ?_) ?_
  · split
    · exact Kept.refl _
    · refine Kept.by (X := y) ?_ rfl (cipherPage_wf _ _ _) id rfl rfl rfl le_rfl id
      exact Kept.refl _
  · exact Kept.refl _

theorem takePages_kept : ∀ charter a n s, Kept s (takePages charter a n s) := by
  intro charter a n s
  unfold takePages
  split
  · refine Kept.of (X := s) ?_ rfl rfl rfl rfl rfl rfl rfl rfl
    exact Kept.refl _
  · exact Kept.refl _

theorem stageWrite_kept : ∀ charter a n d s, Kept s (stageWrite charter a n d s).2 := by
  intro charter a n d s
  unfold stageWrite
  split
  · exact Kept.refl s
  · split
    · exact Kept.refl s
    · extract_lets s1
      have h1 : Kept s s1 := takePages_kept _ _ _ _
      clear_value s1
      split
      · exact Kept.by (X := s1) h1 rfl
          (fun h => foldl_mwrite_wf _ _ (fun m g hm => mwrite_wf m g stamp hm) _ (mwrite_wf _ _ _ h)) id rfl rfl rfl le_rfl id
      · exact Kept.by (X := s1) h1 rfl (stampArea_wf _ _ _) id rfl rfl rfl le_rfl id

theorem stageErrors_kept : ∀ bad corrected s, Kept s (stageErrors bad corrected s) := by
  intro bad corrected s
  unfold stageErrors
  extract_lets +onlyGivenNames v0
  have h1 : Kept s v0 := by
    unfold v0
    refine Kept.foldl (fun y x => ?_) ?_
    · refine Kept.trans ?_ (raise_kept _ _ _)
      refine Kept.by (X := y) ?_ rfl (stampArea_wf _ _ _) id rfl rfl rfl le_rfl id
      exact Kept.refl _
    · exact Kept.refl _
  clear_value v0
  refine Kept.foldl (fun y x => ?_) ?_
  · extract_lets +onlyGivenNames v2
    clear_value v2
    extract_lets +onlyGivenNames v3
    clear_value v3
    extract_lets +onlyGivenNames v4
    have h5 : Kept y v4 := by
      unfold v4
      refine Kept.setTel (X := y) ?_ _
      exact Kept.refl _
    clear_value v4
    split
    · refine Kept.trans ?_ (raise_kept _ _ _)
      refine Kept.setTel (X := v4) ?_ _
      assumption
    · assumption
  · assumption

theorem supersede_kept : ∀ key s, Kept s (supersede key s) := by
  intro key s
  unfold supersede
  extract_lets +onlyGivenNames v0
  clear_value v0
  refine Kept.setIng (X := s) ?_ _
  exact Kept.refl _

theorem stopJob_kept : ∀ key code s, Kept s (stopJob key code s) := by
  intro key code s
  unfold stopJob
  split
  · exact Kept.refl _
  · split
    · refine Kept.trans ?_ (setJob_kept _ _)
      exact Kept.refl _
    · exact Kept.refl _

theorem jobAsk_kept : ∀ key engine op len va aux payload s, Kept s (jobAsk key engine op len va aux payload s) := by
  intro key engine op len va aux payload s
  unfold jobAsk
  split
  · exact Kept.refl _
  · extract_lets +onlyGivenNames v0
    clear_value v0
    extract_lets +onlyGivenNames v1
    clear_value v1
    extract_lets +onlyGivenNames v2
    clear_value v2
    split
    · refine Kept.trans ?_ (stopJob_kept _ _ _)
      refine Kept.trans ?_ (recordReason_kept _ _)
      exact Kept.refl _
    · split
      · exact Kept.refl _
      · extract_lets +onlyGivenNames v3
        clear_value v3
        extract_lets +onlyGivenNames v4
        clear_value v4
        extract_lets +onlyGivenNames v5
        clear_value v5
        extract_lets +onlyGivenNames v6
        clear_value v6
        extract_lets +onlyGivenNames v7
        clear_value v7
        extract_lets +onlyGivenNames v8
        clear_value v8
        extract_lets +onlyGivenNames v9
        clear_value v9
        extract_lets +onlyGivenNames v10
        have h11 : Kept s v10 := by
          unfold v10
          refine Kept.trans ?_ (setJob_kept _ _)
          refine Kept.setIng (X := s) ?_ _
          exact Kept.refl _
        clear_value v10
        split
        · assumption
        · refine Kept.trans ?_ (sendFrom_kept _ _ _)
          assumption

theorem freeOne_kept : ∀ j o s, Kept s (freeOne j o s) := by
  intro j o s
  unfold freeOne
  extract_lets +onlyGivenNames v0
  clear_value v0
  extract_lets +onlyGivenNames v1
  clear_value v1
  extract_lets +onlyGivenNames v2
  clear_value v2
  split
  · refine Kept.setIng (X := s) ?_ _
    exact Kept.refl _
  · split
    · exact Kept.refl _
    · extract_lets +onlyGivenNames v3
      clear_value v3
      extract_lets +onlyGivenNames v4
      clear_value v4
      refine Kept.trans ?_ (sendFrom_kept _ _ _)
      refine Kept.setIng (X := s) ?_ _
      exact Kept.refl _

theorem freeJob_kept : ∀ key s, Kept s (freeJob key s) := by
  intro key s
  unfold freeJob
  split
  · refine Kept.setIng (X := s) ?_ _
    exact Kept.refl _
  · refine Kept.foldl (fun y x => ?_) ?_
    · refine Kept.trans ?_ (freeOne_kept _ _ _)
      exact Kept.refl _
    · exact Kept.refl _

theorem jobFence_kept : ∀ key homeDev s, Kept s (jobFence key homeDev s) := by
  intro key homeDev s
  unfold jobFence
  split
  · exact Kept.refl _
  · extract_lets +onlyGivenNames v0
    clear_value v0
    extract_lets +onlyGivenNames v1
    clear_value v1
    extract_lets +onlyGivenNames v2
    clear_value v2
    refine Kept.trans ?_ (sendFabric_kept _ _)
    refine Kept.setIng (X := s) ?_ _
    exact Kept.refl _

theorem poolWrite_kept : ∀ key engine a n d s, Kept s (poolWrite key engine a n d s) := by
  intro key engine a n d s
  unfold poolWrite
  split
  · refine Kept.foldl (fun y x => ?_) ?_
    · refine Kept.trans ?_ (jobAsk_kept _ _ _ _ _ _ _ _)
      exact Kept.refl _
    · exact Kept.refl _
  · refine Kept.foldl (fun y x => ?_) ?_
    · refine Kept.trans ?_ (jobAsk_kept _ _ _ _ _ _ _ _)
      exact Kept.refl _
    · exact Kept.refl _

theorem outWrite_kept : ∀ key engine pool a n d s, Kept s (outWrite key engine pool a n d s) := by
  intro key engine pool a n d s
  unfold outWrite
  split
  · exact Kept.refl _
  · split
    · refine Kept.trans ?_ (poolWrite_kept _ _ _ _ _ _)
      exact Kept.refl _
    · split
      · exact Kept.refl _
      · extract_lets +onlyGivenNames v0
        have h1 : Kept s v0.2 := by
          unfold v0
          refine Kept.trans ?_ (stageWrite_kept _ _ _ _ _)
          exact Kept.refl _
        clear_value v0
        split
        · assumption
        · refine Kept.trans ?_ (stopJob_kept _ _ _)
          refine Kept.trans ?_ (recordReason_kept _ _)
          assumption

theorem askPiece_kept : ∀ key book limit room p s, Kept s (askPiece key book limit room p s) := by
  intro key book limit room p s
  unfold askPiece
  split
  · exact Kept.refl _
  · split
    · exact Kept.refl _
    · split
      · exact Kept.refl _
      · split
        · exact Kept.refl _
        · refine Kept.trans ?_ (jobAsk_kept _ _ _ _ _ _ _ _)
          exact Kept.refl _

theorem askPieces_kept : ∀ key book limit room ps s, Kept s (askPieces key book limit room ps s) := by
  intro key book limit room ps s
  unfold askPieces
  refine Kept.foldl (fun y x => ?_) ?_
  · refine Kept.trans ?_ (askPiece_kept _ _ _ _ _ _)
    exact Kept.refl _
  · exact Kept.refl _

theorem acquireArea_kept : ∀ charter va n s, Kept s (acquireArea charter va n s) := by
  intro charter va n s
  unfold acquireArea
  extract_lets +onlyGivenNames v0
  clear_value v0
  extract_lets +onlyGivenNames v1
  clear_value v1
  refine Kept.foldl (fun y x => ?_) ?_
  · refine Kept.trans ?_ (acquireRange_kept _ _ _ _ _)
    exact Kept.refl _
  · exact Kept.refl _

theorem firmwareArea_kept : ∀ n s, Kept s (firmwareArea n s).2 := by
  intro n s
  unfold firmwareArea
  extract_lets +onlyGivenNames v0
  have h1 : Kept s v0.2 := by
    unfold v0
    refine Kept.trans ?_ (draw_kept _)
    exact Kept.refl _
  clear_value v0
  extract_lets +onlyGivenNames v2
  clear_value v2
  extract_lets +onlyGivenNames v3
  clear_value v3
  extract_lets +onlyGivenNames v4
  clear_value v4
  dsimp only
  assumption

theorem sendSeals_kept : ∀ key value seals s, Kept s (sendSeals key value seals s) := by
  intro key value seals s
  unfold sendSeals
  split
  · exact Kept.refl _
  · split
    · exact Kept.refl _
    · extract_lets +onlyGivenNames v0
      have h1 : Kept s v0 := by
        unfold v0
        refine Kept.trans ?_ (setJob_kept _ _)
        exact Kept.refl _
      clear_value v0
      refine Kept.foldl (fun y x => ?_) ?_
      · refine Kept.trans ?_ (jobAsk_kept _ _ _ _ _ _ _ _)
        exact Kept.refl _
      · assumption

theorem sealAnswered_kept : ∀ key homeDev s, Kept s (sealAnswered key homeDev s) := by
  intro key homeDev s
  unfold sealAnswered
  split
  · exact Kept.refl _
  · split
    · exact Kept.refl _
    · refine Kept.trans ?_ (logProgress_kept _ _ _ _)
      exact Kept.refl _

theorem landRead_kept : ∀ key engine fpa poison d s, Kept s (landRead key engine fpa poison d s) := by
  intro key engine fpa poison d s
  unfold landRead
  split
  · exact Kept.refl _
  · split
    · refine Kept.trans ?_ (setJob_kept _ _)
      exact Kept.refl _
    · exact Kept.refl _

theorem fenceAnswered_kept : ∀ key homeDev s, Kept s (fenceAnswered key homeDev s) := by
  intro key homeDev s
  unfold fenceAnswered
  split
  · exact Kept.refl _
  · refine Kept.trans ?_ (logProgress_kept _ _ _ _)
    exact Kept.refl _

theorem jobAnswered_kept : ∀ key o r s, Kept s (jobAnswered key o r s) := by
  intro key o r s
  unfold jobAnswered
  extract_lets +onlyGivenNames v0
  clear_value v0
  extract_lets +onlyGivenNames v1
  have h2 : Kept s v1 := by
    unfold v1
    refine Kept.setIng (X := s) ?_ _
    exact Kept.refl _
  clear_value v1
  split
  · assumption
  · extract_lets +onlyGivenNames v3
    clear_value v3
    extract_lets +onlyGivenNames v4
    clear_value v4
    extract_lets +onlyGivenNames v5
    clear_value v5
    split
    · refine Kept.trans ?_ (sealAnswered_kept _ _ _)
      assumption
    · split
      · split
        · refine Kept.trans ?_ (resendOwn_kept _ _)
          assumption
        · assumption
      · split
        · assumption
        · split
          · split
            · refine Kept.trans ?_ (landRead_kept _ _ _ _ _ _)
              assumption
            · split
              · refine Kept.trans ?_ (landRead_kept _ _ _ _ _ _)
                assumption
              · refine Kept.trans ?_ (stopJob_kept _ _ _)
                assumption
          · split
            · split
              · refine Kept.trans ?_ (fenceAnswered_kept _ _ _)
                assumption
              · split
                · refine Kept.trans ?_ (sealAnswered_kept _ _ _)
                  assumption
                · split
                  · assumption
                  · refine Kept.trans ?_ (stopJob_kept _ _ _)
                    assumption
            · split
              · assumption
              · split
                · refine Kept.trans ?_ (sealAnswered_kept _ _ _)
                  assumption
                · split
                  · refine Kept.trans ?_ (setJob_kept _ _)
                    assumption
                  · refine Kept.trans ?_ (stopJob_kept _ _ _)
                    assumption

theorem retryFences_kept : ∀ key s, Kept s (retryFences key s) := by
  intro key s
  unfold retryFences
  split
  · exact Kept.refl _
  · split
    · exact Kept.refl _
    · extract_lets +onlyGivenNames v0
      clear_value v0
      refine Kept.foldl (fun y x => ?_) ?_
      · refine Kept.trans ?_ (jobFence_kept _ _ _)
        exact Kept.refl _
      · exact Kept.refl _

theorem setBook_kept : ∀ k e b s, Kept s (setBook k e b s) := by
  intro k e b s
  unfold setBook
  refine Kept.setEngines (X := s) ?_ _
  exact Kept.refl _

theorem useCycles_kept : ∀ k e n s, Kept s (useCycles k e n s) := by
  intro k e n s
  unfold useCycles
  extract_lets +onlyGivenNames v0
  clear_value v0
  refine Kept.trans ?_ (setBook_kept _ _ _ _)
  exact Kept.refl _

theorem retireTask_kept : ∀ k e t program s, Kept s (retireTask k e t program s) := by
  intro k e t program s
  unfold retireTask
  extract_lets +onlyGivenNames v0
  clear_value v0
  extract_lets +onlyGivenNames v1
  clear_value v1
  refine Kept.trans ?_ (setBook_kept _ _ _ _)
  exact Kept.refl _

/-! Registers -/

theorem writeCmdTail_kept : ∀ m v s, Kept s (writeCmdTail m v s) := by
  intro m v s
  unfold writeCmdTail
  extract_lets +onlyGivenNames v0
  clear_value v0
  split
  · exact Kept.refl _
  · split
    · refine Kept.trans ?_ (raise_kept _ _ _)
      exact Kept.refl _
    · refine Kept.trans ?_ (setBox_kept _ _ _)
      exact Kept.refl _

theorem writeCplHead_kept : ∀ m v s, Kept s (writeCplHead m v s) := by
  intro m v s
  unfold writeCplHead
  extract_lets +onlyGivenNames v0
  clear_value v0
  split
  · exact Kept.refl _
  · split
    · refine Kept.trans ?_ (raise_kept _ _ _)
      exact Kept.refl _
    · extract_lets +onlyGivenNames v1
      have h2 : Kept s v1 := by
        unfold v1
        refine Kept.trans ?_ (consumePosted_kept _ _ _ _)
        refine Kept.trans ?_ (setBox_kept _ _ _)
        exact Kept.refl _
      clear_value v1
      refine Kept.trans ?_ (drainWaiting_kept _ _ _)
      assumption

theorem writeMbSignal_kept : ∀ m v s, Kept s (writeMbSignal m v s) := by
  intro m v s
  unfold writeMbSignal
  split
  · exact Kept.refl _
  · refine Kept.trans ?_ (setBox_kept _ _ _)
    exact Kept.refl _

theorem writeEvHead_kept : ∀ v s, Kept s (writeEvHead v s) := by
  intro v s
  unfold writeEvHead
  split
  · exact Kept.refl _
  · split
    · refine Kept.trans ?_ (raise_kept _ _ _)
      exact Kept.refl _
    · extract_lets +onlyGivenNames v0
      extract_lets +onlyGivenNames v1
      have h2 : Kept s v1 := by
        unfold v1
        refine Kept.setTel (X := s) ?_ _
        exact Kept.refl _
      split
      · assumption
      · extract_lets +onlyGivenNames v3
        clear_value v3
        refine Kept.trans ?_ (raise_kept _ _ _)
        refine Kept.setTel (X := v1) ?_ _
        assumption

theorem writeEvSignal_kept : ∀ v s, Kept s (writeEvSignal v s) := by
  intro v s
  unfold writeEvSignal
  split
  · exact Kept.refl _
  · refine Kept.setTel (X := s) ?_ _
    exact Kept.refl _

theorem writeReasonClear_kept : ∀ v s, Kept s (writeReasonClear v s) := by
  intro v s
  unfold writeReasonClear
  refine Kept.setTel (X := s) ?_ _
  exact Kept.refl _

theorem lighterCode_kept : ∀ l code x s, Kept s (lighterCode l code x s) := by
  intro l code x s
  unfold lighterCode
  refine Kept.trans ?_ (raise_kept _ _ _)
  refine Kept.trans ?_ (setLighter_kept _ _ _)
  exact Kept.refl _

theorem writeLighterCtl_kept : ∀ l v s, Kept s (writeLighterCtl l v s) := by
  intro l v s
  unfold writeLighterCtl
  split
  · exact Kept.refl _
  · extract_lets +onlyGivenNames v0
    clear_value v0
    extract_lets +onlyGivenNames v1
    clear_value v1
    extract_lets +onlyGivenNames v2
    clear_value v2
    split
    · refine Kept.trans ?_ (setLighter_kept _ _ _)
      exact Kept.refl _
    · split
      · refine Kept.trans ?_ (setLighter_kept _ _ _)
        exact Kept.refl _
      · extract_lets +onlyGivenNames v3
        clear_value v3
        split
        · refine Kept.trans ?_ (setLighter_kept _ _ _)
          exact Kept.refl _
        · split
          · refine Kept.trans ?_ (lighterCode_kept _ _ _ _)
            exact Kept.refl _
          · refine Kept.trans ?_ (setLighter_kept _ _ _)
            exact Kept.refl _

theorem writeLighterBase_kept : ∀ l high v s, Kept s (writeLighterBase l high v s) := by
  intro l high v s
  unfold writeLighterBase
  split
  · exact Kept.refl _
  · extract_lets +onlyGivenNames v0
    clear_value v0
    extract_lets +onlyGivenNames v1
    clear_value v1
    extract_lets +onlyGivenNames v2
    clear_value v2
    extract_lets +onlyGivenNames v3
    clear_value v3
    extract_lets +onlyGivenNames v4
    clear_value v4
    split
    · exact Kept.refl _
    · refine Kept.trans ?_ (setLighter_kept _ _ _)
      exact Kept.refl _

theorem writeInTail_kept : ∀ l v s, Kept s (writeInTail l v s) := by
  intro l v s
  unfold writeInTail
  split
  · exact Kept.refl _
  · extract_lets +onlyGivenNames v0
    clear_value v0
    split
    · refine Kept.trans ?_ (lighterCode_kept _ _ _ _)
      exact Kept.refl _
    · extract_lets +onlyGivenNames v1
      clear_value v1
      extract_lets +onlyGivenNames v2
      have h3 : Kept s v2 := by
        unfold v2
        refine Kept.trans ?_ (setLighter_kept _ _ _)
        exact Kept.refl _
      clear_value v2
      split
      · refine Kept.trans ?_ (emit_kept _ _)
        assumption
      · assumption

theorem writeOutHead_kept : ∀ l v s, Kept s (writeOutHead l v s) := by
  intro l v s
  unfold writeOutHead
  split
  · exact Kept.refl _
  · extract_lets +onlyGivenNames v0
    clear_value v0
    split
    · refine Kept.trans ?_ (lighterCode_kept _ _ _ _)
      exact Kept.refl _
    · refine Kept.trans ?_ (setLighter_kept _ _ _)
      exact Kept.refl _

theorem khlAnswer_kept : ∀ tag opcode reason data s, Kept s (khlAnswer tag opcode reason data s) := by
  intro tag opcode reason data s
  unfold khlAnswer
  refine Kept.trans ?_ (emit_kept _ _)
  refine Kept.trans ?_ (recordReason_kept _ _)
  exact Kept.refl _

/-! Link -/

theorem dropCells_kept : ∀ p s, Kept s (dropCells p s) := by
  intro p s
  unfold dropCells
  refine Kept.trans ?_ (admitWaiting_kept _)
  refine Kept.setSw (X := s) ?_ _
  exact Kept.refl _

theorem moveCells_kept : ∀ n m s, Kept s (moveCells n m s) := by
  intro n m s
  unfold moveCells
  extract_lets +onlyGivenNames v0
  clear_value v0
  extract_lets +onlyGivenNames v1
  have h2 : Kept s v1 := by
    unfold v1
    refine Kept.trans ?_ (dropCells_kept _ _)
    exact Kept.refl _
  clear_value v1
  refine Kept.foldl (fun y x => ?_) ?_
  · refine Kept.trans ?_ (enterCell_kept _ _)
    exact Kept.refl _
  · assumption

theorem contextDown_kept : ∀ n cause s, Kept s (contextDown n cause s) := by
  intro n cause s
  unfold contextDown
  split
  · exact Kept.refl _
  · split
    · exact Kept.refl _
    · extract_lets +onlyGivenNames v0
      clear_value v0
      extract_lets +onlyGivenNames v1
      clear_value v1
      extract_lets +onlyGivenNames v2
      have h3 : Kept s v2 := by
        unfold v2
        refine Kept.trans ?_ (setCtx_kept _ _ _)
        exact Kept.refl _
      clear_value v2
      extract_lets +onlyGivenNames v4
      have h5 : Kept s v4 := by
        unfold v4
        refine Kept.trans ?_ (raise_kept _ _ _)
        refine Kept.trans ?_ (recordReason_kept _ _)
        assumption
      clear_value v4
      split
      · extract_lets +onlyGivenNames v6
        clear_value v6
        split
        · refine Kept.trans ?_ (hostDies_kept _ _)
          refine Kept.trans ?_ (dropCells_kept _ _)
          assumption
        · extract_lets +onlyGivenNames v7
          clear_value v7
          extract_lets +onlyGivenNames v8
          clear_value v8
          refine Kept.foldl (fun y x => ?_) ?_
          · refine Kept.trans ?_ (enterCell_kept _ _)
            refine Kept.trans ?_ (nameCell_kept _)
            exact Kept.refl _
          · refine Kept.trans ?_ (moveCells_kept _ _ _)
            assumption
      · split
        · refine Kept.trans ?_ (declareModule_kept _ _ _ _)
          refine Kept.trans ?_ (dropCells_kept _ _)
          assumption
        · split
          · extract_lets +onlyGivenNames v9
            clear_value v9
            split
            · assumption
            · refine Kept.trans ?_ (control_kept _ _ _ _)
              refine Kept.trans ?_ (setCtx_kept _ _ _)
              assumption
          · refine Kept.trans ?_ (dropCells_kept _ _)
            assumption

theorem startCtx_kept : ∀ berth part split x s, Kept s (startCtx berth part split x s) := by
  intro berth part split x s
  unfold startCtx
  refine Kept.trans ?_ (setCtx_kept _ _ _)
  exact Kept.refl _

theorem stopCtx_kept : ∀ n s, Kept s (stopCtx n s) := by
  intro n s
  unfold stopCtx
  extract_lets +onlyGivenNames v0
  have h1 : Kept s v0 := by
    unfold v0
    refine Kept.trans ?_ (contextDown_kept _ _ _)
    exact Kept.refl _
  clear_value v0
  split
  · assumption
  · refine Kept.trans ?_ (setCtx_kept _ _ _)
    assumption

theorem configCtx_kept : ∀ berth split part x s, Kept s (configCtx berth split part x s).2 := by
  intro berth split part x s
  unfold configCtx
  extract_lets +onlyGivenNames v0
  clear_value v0
  extract_lets +onlyGivenNames v1
  clear_value v1
  extract_lets +onlyGivenNames v2
  clear_value v2
  extract_lets +onlyGivenNames v3
  have h4 : Kept s v3 := by
    unfold v3
    split
    · refine Kept.setPorts (X := s) ?_ _
      exact Kept.refl _
    · exact Kept.refl _
  clear_value v3
  extract_lets +onlyGivenNames v5
  have h7 : ∀ z6, Kept z6 (v5 z6) := by
    intro y8
    unfold v5
    split
    · refine Kept.trans ?_ (stopCtx_kept _ _)
      exact Kept.refl _
    · exact Kept.refl _
  clear_value v5
  split
  · dsimp only
    refine Kept.trans ?_ (h7 _)
    exact Kept.refl _
  · extract_lets +onlyGivenNames v9
    clear_value v9
    split
    · dsimp only
      exact Kept.refl _
    · split
      · dsimp only
        exact Kept.refl _
      · dsimp only
        refine Kept.trans ?_ (startCtx_kept _ _ _ _ _)
        refine Kept.trans ?_ (h7 _)
        exact Kept.refl _

theorem whenTrain_kept : ∀ n t f s, (∀ a0 a1, Kept a1 (f a0 a1)) → Kept s (whenTrain n t f s) := by
  intro n t f s hf0
  unfold whenTrain
  split
  · split
    · refine Kept.trans ?_ (hf0 _ _)
      exact Kept.refl _
    · exact Kept.refl _
  · exact Kept.refl _

theorem sendIdent_kept : ∀ n c refuse s, Kept s (sendIdent n c refuse s) := by
  intro n c refuse s
  unfold sendIdent
  refine Kept.trans ?_ (emit_kept _ _)
  exact Kept.refl _

theorem resendFrom_kept : ∀ n seq s, Kept s (resendFrom n seq s) := by
  intro n seq s
  unfold resendFrom
  split
  · exact Kept.refl _
  · extract_lets +onlyGivenNames v0
    clear_value v0
    refine Kept.foldl (fun y x => ?_) ?_
    · refine Kept.trans ?_ (emit_kept _ _)
      exact Kept.refl _
    · exact Kept.refl _

theorem countScrubs_kept : ∀ l s, Kept s (countScrubs l s) := by
  intro l s
  unfold countScrubs
  refine Kept.foldl (fun y x => ?_) ?_
  · split
    · split
      · exact Kept.refl _
      · refine Kept.trans ?_ (countRemoval_kept _ _ _ _ _)
        exact Kept.refl _
    · exact Kept.refl _
  · exact Kept.refl _

theorem scrubKept_kept : ∀ n s, Kept s (scrubKept n s) := by
  intro n s
  unfold scrubKept
  split
  · exact Kept.refl _
  · split
    · exact Kept.refl _
    · extract_lets +onlyGivenNames v0
      have h1 : Kept s v0 := by
        unfold v0
        refine Kept.trans ?_ (countScrubs_kept _ _)
        exact Kept.refl _
      clear_value v0
      extract_lets +onlyGivenNames v2
      clear_value v2
      refine Kept.trans ?_ (setCtx_kept _ _ _)
      assumption

theorem takeAck_kept : ∀ n ack s, Kept s (takeAck n ack s) := by
  intro n ack s
  unfold takeAck
  split
  · exact Kept.refl _
  · split
    · exact Kept.refl _
    · extract_lets +onlyGivenNames v0
      clear_value v0
      split
      · refine Kept.trans ?_ (contextDown_kept _ _ _)
        exact Kept.refl _
      · split
        · exact Kept.refl _
        · refine Kept.trans ?_ (setCtx_kept _ _ _)
          exact Kept.refl _

theorem takeCredits_kept : ∀ n pool k s, Kept s (takeCredits n pool k s) := by
  intro n pool k s
  unfold takeCredits
  split
  · exact Kept.refl _
  · extract_lets +onlyGivenNames v0
    clear_value v0
    refine Kept.trans ?_ (setCtx_kept _ _ _)
    exact Kept.refl _

theorem returnRequest_kept : ∀ b s, Kept s (returnRequest b s) := by
  intro b s
  unfold returnRequest
  extract_lets +onlyGivenNames v0
  clear_value v0
  refine Kept.trans ?_ (answerTo_kept _ _ _ _ _ _)
  exact Kept.refl _

theorem takeForeign_kept : ∀ n items s, Kept s (takeForeign n items s) := by
  intro n items s
  unfold takeForeign
  refine Kept.foldl (fun y x => ?_) ?_
  · extract_lets +onlyGivenNames v0
    clear_value v0
    split
    · exact Kept.refl _
    · refine Kept.trans ?_ (hostArrive_kept _ _ _)
      exact Kept.refl _
  · exact Kept.refl _

theorem forwardItems_kept : ∀ n kind seq items skip s, Kept s (forwardItems n kind seq items skip s) := by
  intro n kind seq items skip s
  unfold forwardItems
  extract_lets +onlyGivenNames v0
  clear_value v0
  extract_lets +onlyGivenNames v1
  clear_value v1
  extract_lets +onlyGivenNames v2
  have h3 : Kept s v2 := by
    unfold v2
    refine Kept.foldl (fun y x => ?_) ?_
    · extract_lets +onlyGivenNames v4
      clear_value v4
      refine Kept.trans ?_ (observe_kept _ _ _ _ _ _ _)
      exact Kept.refl _
    · exact Kept.refl _
  clear_value v2
  extract_lets +onlyGivenNames v5
  have h6 : Kept s v5 := by
    unfold v5
    refine Kept.foldl (fun y x => ?_) ?_
    · split
      · refine Kept.trans ?_ (returnRequest_kept _ _)
        exact Kept.refl _
      · exact Kept.refl _
    · assumption
  clear_value v5
  extract_lets +onlyGivenNames v7
  clear_value v7
  extract_lets +onlyGivenNames v8
  clear_value v8
  refine Kept.foldl (fun y x => ?_) ?_
  · extract_lets +onlyGivenNames v9
    clear_value v9
    split
    · exact Kept.refl _
    · split
      · refine Kept.foldl (fun y x => ?_) ?_
        · refine Kept.trans ?_ (enterItem_kept _ _ _ _ _ _ _ _)
          exact Kept.refl _
        · exact Kept.refl _
      · refine Kept.trans ?_ (nameCell_kept _)
        refine Kept.trans ?_ (enterCell_kept _ _)
        exact Kept.refl _
  · assumption

theorem withdraw_kept : ∀ n seq s, Kept s (withdraw n seq s) := by
  intro n seq s
  unfold withdraw
  extract_lets +onlyGivenNames v0
  clear_value v0
  extract_lets +onlyGivenNames v1
  clear_value v1
  extract_lets +onlyGivenNames v2
  clear_value v2
  extract_lets +onlyGivenNames v3
  clear_value v3
  extract_lets +onlyGivenNames v4
  have h5 : Kept s v4 := by
    unfold v4
    split
    · refine Kept.trans ?_ (setCtx_kept _ _ _)
      exact Kept.refl _
    · exact Kept.refl _
  clear_value v4
  split
  · assumption
  · extract_lets +onlyGivenNames v6
    have h7 : Kept s v6 := by
      unfold v6
      refine Kept.trans ?_ (dropCells_kept _ _)
      assumption
    clear_value v6
    extract_lets +onlyGivenNames v8
    have h9 : Kept s v8 := by
      unfold v8
      refine Kept.foldl (fun y x => ?_) ?_
      · refine Kept.trans ?_ (emit_kept _ _)
        exact Kept.refl _
      · assumption
    clear_value v8
    extract_lets +onlyGivenNames v10
    clear_value v10
    extract_lets +onlyGivenNames v11
    clear_value v11
    extract_lets +onlyGivenNames v12
    clear_value v12
    extract_lets +onlyGivenNames v13
    have h14 : Kept s v13 := by
      unfold v13
      refine Kept.setPorts (X := v8) ?_ _
      assumption
    clear_value v13
    refine Kept.trans ?_ (raiseLimited_kept _ _ _ _ _ _)
    refine Kept.setSw (X := v13) ?_ _
    assumption

theorem confirmCut_kept : ∀ n seq s, Kept s (confirmCut n seq s) := by
  intro n seq s
  unfold confirmCut
  extract_lets +onlyGivenNames v0
  clear_value v0
  refine Kept.of (X := s) ?_ rfl rfl rfl rfl rfl rfl rfl rfl
  exact Kept.refl _

theorem settleCredit_kept : ∀ n pool seq s, Kept s (settleCredit n pool seq s) := by
  intro n pool seq s
  unfold settleCredit
  split
  · exact Kept.refl _
  · extract_lets +onlyGivenNames v0
    clear_value v0
    split
    · refine Kept.trans ?_ (setCtx_kept _ _ _)
      exact Kept.refl _
    · split
      · refine Kept.trans ?_ (setCtx_kept _ _ _)
        exact Kept.refl _
      · split
        · exact Kept.refl _
        · refine Kept.trans ?_ (returnCredit_kept _ _ _ _)
          exact Kept.refl _

theorem noteMark_kept : ∀ n s, Kept s (noteMark n s) := by
  intro n s
  unfold noteMark
  split
  · exact Kept.refl _
  · extract_lets +onlyGivenNames v0
    clear_value v0
    split
    · refine Kept.trans ?_ (raise_kept _ _ _)
      refine Kept.trans ?_ (setCtx_kept _ _ _)
      exact Kept.refl _
    · refine Kept.trans ?_ (setCtx_kept _ _ _)
      exact Kept.refl _

theorem discardBlock_kept : ∀ n seq repeated s, Kept s (discardBlock n seq repeated s) := by
  intro n seq repeated s
  unfold discardBlock
  extract_lets +onlyGivenNames v0
  have h1 : Kept s v0 := by
    unfold v0
    refine Kept.trans ?_ (withdraw_kept _ _ _)
    exact Kept.refl _
  clear_value v0
  split
  · assumption
  · split
    · assumption
    · refine Kept.trans ?_ (emit_kept _ _)
      refine Kept.trans ?_ (setCtx_kept _ _ _)
      assumption

theorem sendStream_kept : ∀ ingress t cls kind channel i s, Kept s (sendStream ingress t cls kind channel i s) := by
  intro ingress t cls kind channel i s
  unfold sendStream
  split
  · refine Kept.trans ?_ (enterGroup_kept _ _ _ _ _ _ _ _)
    exact Kept.refl _
  · split
    · exact Kept.refl _
    · refine Kept.trans ?_ (enterItem_kept _ _ _ _ _ _ _ _)
      exact Kept.refl _

theorem passStream_kept : ∀ n t cls kind channel i s, Kept s (passStream n t cls kind channel i s) := by
  intro n t cls kind channel i s
  unfold passStream
  extract_lets +onlyGivenNames v0
  clear_value v0
  extract_lets +onlyGivenNames v1
  have h3 : ∀ z2, Kept z2 (v1 z2) := by
    intro y4
    unfold v1
    split
    · exact Kept.refl _
    · refine Kept.trans ?_ (enterItem_kept _ _ _ _ _ _ _ _)
      exact Kept.refl _
  clear_value v1
  split
  · split
    · refine Kept.trans ?_ (sendStream_kept _ _ _ _ _ _ _)
      exact Kept.refl _
    · refine Kept.trans ?_ (h3 _)
      exact Kept.refl _
  · split
    · exact Kept.refl _
    · split
      · refine Kept.trans ?_ (h3 _)
        refine Kept.trans ?_ (emit_kept _ _)
        exact Kept.refl _
      · split
        · refine Kept.trans ?_ (enterGroup_kept _ _ _ _ _ _ _ _)
          exact Kept.refl _
        · split
          · exact Kept.refl _
          · refine Kept.trans ?_ (enterItem_kept _ _ _ _ _ _ _ _)
            exact Kept.refl _

theorem acceptBlock_kept : ∀ n h p stamp c s, Kept s (acceptBlock n h p stamp c s) := by
  intro n h p stamp c s
  unfold acceptBlock
  extract_lets +onlyGivenNames v0
  clear_value v0
  extract_lets +onlyGivenNames v1
  clear_value v1
  extract_lets +onlyGivenNames v2
  clear_value v2
  extract_lets +onlyGivenNames v3
  clear_value v3
  split
  · refine Kept.trans ?_ (contextDown_kept _ _ _)
    exact Kept.refl _
  · split
    · refine Kept.trans ?_ (contextDown_kept _ _ _)
      exact Kept.refl _
    · split
      · split
        · refine Kept.trans ?_ (contextDown_kept _ _ _)
          exact Kept.refl _
        · extract_lets +onlyGivenNames v4
          clear_value v4
          split
          · refine Kept.trans ?_ (contextDown_kept _ _ _)
            exact Kept.refl _
          · extract_lets +onlyGivenNames v5
            have h6 : Kept s v5 := by
              unfold v5
              refine Kept.trans ?_ (setCtx_kept _ _ _)
              exact Kept.refl _
            clear_value v5
            extract_lets +onlyGivenNames v7
            have h8 : Kept s v7 := by
              unfold v7
              split
              · assumption
              · extract_lets +onlyGivenNames v9
                clear_value v9
                extract_lets +onlyGivenNames v10
                clear_value v10
                extract_lets +onlyGivenNames v11
                clear_value v11
                extract_lets +onlyGivenNames v12
                have h13 : Kept s v12 := by
                  unfold v12
                  refine Kept.trans ?_ (observe_kept _ _ _ _ _ _ _)
                  assumption
                clear_value v12
                split
                · assumption
                · refine Kept.trans ?_ (passStream_kept _ _ _ _ _ _ _)
                  assumption
            clear_value v7
            refine Kept.trans ?_ (settleCredit_kept _ _ _ _)
            refine Kept.trans ?_ (emit_kept _ _)
            assumption
      · split
        · refine Kept.trans ?_ (contextDown_kept _ _ _)
          exact Kept.refl _
        · extract_lets +onlyGivenNames v14
          have h15 : Kept s v14 := by
            unfold v14
            refine Kept.trans ?_ (confirmCut_kept _ _ _)
            refine Kept.trans ?_ (setCtx_kept _ _ _)
            exact Kept.refl _
          clear_value v14
          extract_lets +onlyGivenNames v16
          have h17 : Kept s v16 := by
            unfold v16
            refine Kept.trans ?_ (forwardItems_kept _ _ _ _ _ _)
            assumption
          clear_value v16
          extract_lets +onlyGivenNames v18
          have h19 : Kept s v18 := by
            unfold v18
            split
            · refine Kept.trans ?_ (takeForeign_kept _ _ _)
              assumption
            · assumption
          clear_value v18
          refine Kept.trans ?_ (settleCredit_kept _ _ _ _)
          refine Kept.trans ?_ (emit_kept _ _)
          assumption

/-! Codec -/

theorem setCodecSt_kept : ∀ key p s, Kept s (setCodecSt key p s) := by
  intro key p s
  unfold setCodecSt
  split
  · exact Kept.refl _
  · refine Kept.trans ?_ (setJob_kept _ _)
    exact Kept.refl _

theorem codecFill_kept : ∀ d s, Kept s (codecFill d s).2 := by
  intro d s
  unfold codecFill
  dsimp only
  exact Kept.refl _

theorem askBlock_kept : ∀ key e i s, Kept s (askBlock key e i s) := by
  intro key e i s
  unfold askBlock
  split
  · exact Kept.refl _
  · split
    · exact Kept.refl _
    · extract_lets +onlyGivenNames v0
      clear_value v0
      extract_lets +onlyGivenNames v1
      clear_value v1
      extract_lets +onlyGivenNames v2
      have h3 : Kept s v2 := by
        unfold v2
        split
        · split
          · refine Kept.trans ?_ (acquireArea_kept _ _ _ _)
            exact Kept.refl _
          · exact Kept.refl _
        · exact Kept.refl _
      clear_value v2
      refine Kept.trans ?_ (askPieces_kept _ _ _ _ _ _)
      assumption

theorem codecPlan_kept : ∀ key s, Kept s (codecPlan key s) := by
  intro key s
  unfold codecPlan
  split
  · exact Kept.refl _
  · split
    · exact Kept.refl _
    · extract_lets +onlyGivenNames v0
      clear_value v0
      extract_lets +onlyGivenNames v1
      clear_value v1
      refine Kept.foldl (fun y x => ?_) ?_
      · refine Kept.trans ?_ (askBlock_kept _ _ _ _)
        exact Kept.refl _
      · exact Kept.refl _

theorem codecLand_kept : ∀ key s, Kept s (codecLand key s) := by
  intro key s
  unfold codecLand
  refine Kept.trans ?_ (codecPlan_kept _ _)
  exact Kept.refl _

theorem codecBlock_kept : ∀ engine key i s, Kept s (codecBlock engine key i s) := by
  intro engine key i s
  unfold codecBlock
  split
  · exact Kept.refl _
  · split
    · exact Kept.refl _
    · extract_lets +onlyGivenNames v0
      clear_value v0
      extract_lets +onlyGivenNames v1
      clear_value v1
      extract_lets +onlyGivenNames v2
      extract_lets +onlyGivenNames v3
      clear_value v3
      extract_lets +onlyGivenNames v4
      clear_value v4
      extract_lets +onlyGivenNames v5
      have h8 : ∀ z6 z7, Kept z7 (v5 z6 z7) := by
        intro y9 y10
        unfold v5
        refine Kept.trans ?_ (setJob_kept _ _)
        exact Kept.refl _
      clear_value v5
      split
      · split
        · exact Kept.refl _
        · extract_lets +onlyGivenNames v11
          clear_value v11
          extract_lets +onlyGivenNames v12
          have h13 : Kept s v12 := by
            unfold v12
            refine Kept.trans ?_ (h8 _ _)
            exact Kept.refl _
          clear_value v12
          extract_lets +onlyGivenNames v14
          have h15 : Kept s v14 := by
            unfold v14
            refine Kept.trans ?_ (outWrite_kept _ _ _ _ _ _ _)
            assumption
          clear_value v14
          refine Kept.trans ?_ (outWrite_kept _ _ _ _ _ _ _)
          assumption
      · split
        · exact Kept.refl _
        · refine Kept.trans ?_ (outWrite_kept _ _ _ _ _ _ _)
          refine Kept.trans ?_ (h8 _ _)
          exact Kept.refl _
        · split
          · refine Kept.trans ?_ (stopJob_kept _ _ _)
            refine Kept.trans ?_ (recordReason_kept _ _)
            exact Kept.refl _
          · split
            · exact Kept.refl _
            · extract_lets +onlyGivenNames v16
              extract_lets +onlyGivenNames v17
              have h18 : Kept s v17 := by
                unfold v17
                refine Kept.trans ?_ (h8 _ _)
                exact Kept.refl _
              clear_value v17
              extract_lets +onlyGivenNames v19
              have h20 : Kept s v19 := by
                unfold v19
                split
                · assumption
                · refine Kept.trans ?_ (raiseLimited_kept _ _ _ _ _ _)
                  assumption
              clear_value v19
              refine Kept.trans ?_ (outWrite_kept _ _ _ _ _ _ _)
              assumption

theorem sendPlain_kept : ∀ ctx items s, Kept s (sendPlain ctx items s) := by
  intro ctx items s
  unfold sendPlain
  refine Kept.foldl (fun y x => ?_) ?_
  · refine Kept.trans ?_ (enterPlain_kept _ _ _ _ _ _ _ _)
    exact Kept.refl _
  · exact Kept.refl _

theorem encodeFrame_kept : ∀ ctx s, Kept s (encodeFrame ctx s) := by
  intro ctx s
  unfold encodeFrame
  split
  · exact Kept.refl _
  · split
    · exact Kept.refl _
    · extract_lets +onlyGivenNames v0
      clear_value v0
      extract_lets +onlyGivenNames v1
      clear_value v1
      split
      · refine Kept.trans ?_ (sendPlain_kept _ _ _)
        refine Kept.trans ?_ (setCodec_kept _ _ _)
        exact Kept.refl _
      · extract_lets +onlyGivenNames v2
        have h3 : Kept s v2 := by
          unfold v2
          refine Kept.trans ?_ (setCodec_kept _ _ _)
          exact Kept.refl _
        clear_value v2
        extract_lets +onlyGivenNames v4
        clear_value v4
        extract_lets +onlyGivenNames v5
        clear_value v5
        refine Kept.trans ?_ (enterPlain_kept _ _ _ _ _ _ _ _)
        refine Kept.trans ?_ (emit_kept _ _)
        assumption

theorem releaseItem_kept : ∀ ctx x s, Kept s (releaseItem ctx x s) := by
  intro ctx x s
  unfold releaseItem
  extract_lets +onlyGivenNames v0
  clear_value v0
  split
  · extract_lets +onlyGivenNames v1
    clear_value v1
    extract_lets +onlyGivenNames v2
    clear_value v2
    refine Kept.trans ?_ (observe_kept _ _ _ _ _ _ _)
    exact Kept.refl _
  · extract_lets +onlyGivenNames v3
    clear_value v3
    extract_lets +onlyGivenNames v4
    have h5 : Kept s v4 := by
      unfold v4
      refine Kept.trans ?_ (observe_kept _ _ _ _ _ _ _)
      exact Kept.refl _
    clear_value v4
    split
    · refine Kept.trans ?_ (enterItem_kept _ _ _ _ _ _ _ _)
      assumption
    · refine Kept.trans ?_ (returnRequest_kept _ _)
      assumption
    · assumption

theorem decodeFrame_kept : ∀ ctx s, Kept s (decodeFrame ctx s) := by
  intro ctx s
  unfold decodeFrame
  split
  · exact Kept.refl _
  · split
    · exact Kept.refl _
    · extract_lets +onlyGivenNames v0
      extract_lets +onlyGivenNames v1
      extract_lets +onlyGivenNames v2
      clear_value v2
      split
      · refine Kept.trans ?_ (emit_kept _ _)
        refine Kept.trans ?_ (setCodec_kept _ _ _)
        exact Kept.refl _
      · extract_lets +onlyGivenNames v3
        clear_value v3
        extract_lets +onlyGivenNames v4
        have h5 : Kept s v4 := by
          unfold v4
          refine Kept.trans ?_ (setCodec_kept _ _ _)
          exact Kept.refl _
        clear_value v4
        split
        · refine Kept.trans ?_ (emit_kept _ _)
          assumption
        · refine Kept.foldl (fun y x => ?_) ?_
          · refine Kept.trans ?_ (releaseItem_kept _ _ _)
            exact Kept.refl _
          · refine Kept.trans ?_ (emit_kept _ _)
            assumption

theorem codecUnit_kept : ∀ engine key w s, Kept s (codecUnit engine key w s) := by
  intro engine key w s
  unfold codecUnit
  split
  · refine Kept.foldl (fun y x => ?_) ?_
    · refine Kept.trans ?_ (encodeFrame_kept _ _)
      exact Kept.refl _
    · exact Kept.refl _
  · refine Kept.foldl (fun y x => ?_) ?_
    · refine Kept.trans ?_ (decodeFrame_kept _ _)
      exact Kept.refl _
    · exact Kept.refl _
  · refine Kept.trans ?_ (codecBlock_kept _ _ _ _)
    exact Kept.refl _
  · exact Kept.refl _

/-! Programs -/

theorem measureProgram_kept : ∀ b s, Kept s (measureProgram b s) := by
  intro b s
  unfold measureProgram
  refine Kept.trans ?_ (measure_kept _ _ _ _ _ _)
  exact Kept.refl _

theorem install_kept : ∀ id b s, Kept s (install id b s) := by
  intro id b s
  unfold install
  split
  · exact Kept.refl _
  · extract_lets +onlyGivenNames v0
    have h1 : Kept s v0 := by
      unfold v0
      refine Kept.trans ?_ (measureProgram_kept _ _)
      exact Kept.refl _
    clear_value v0
    refine Kept.of (X := v0) ?_ rfl rfl rfl rfl rfl rfl rfl rfl
    assumption

theorem setHolders_kept : ∀ id l s, Kept s (setHolders id l s) := by
  intro id l s
  unfold setHolders
  split
  · exact Kept.refl _
  · refine Kept.of (X := s) ?_ rfl rfl rfl rfl rfl rfl rfl rfl
    exact Kept.refl _

theorem dropProgram_kept : ∀ id s, Kept s (dropProgram id s) := by
  intro id s
  unfold dropProgram
  refine Kept.of (X := s) ?_ rfl rfl rfl rfl rfl rfl rfl rfl
  exact Kept.refl _

theorem dropPending_kept : ∀ id s, Kept s (dropPending id s) := by
  intro id s
  unfold dropPending
  split
  · refine Kept.trans ?_ (dropProgram_kept _ _)
    exact Kept.refl _
  · exact Kept.refl _

theorem tellAbout_kept : ∀ kind devs data s, Kept s (tellAbout kind devs data s) := by
  intro kind devs data s
  unfold tellAbout
  refine Kept.foldl (fun y x => ?_) ?_
  · refine Kept.trans ?_ (emit_kept _ _)
    exact Kept.refl _
  · exact Kept.refl _

theorem unstage_kept : ∀ id s, Kept s (unstage id s) := by
  intro id s
  unfold unstage
  refine Kept.of (X := s) ?_ rfl rfl rfl rfl rfl rfl rfl rfl
  exact Kept.refl _

theorem dropCommit_kept : ∀ c s, Kept s (dropCommit c s) := by
  intro c s
  unfold dropCommit
  refine Kept.of (X := s) ?_ rfl rfl rfl rfl rfl rfl rfl rfl
  exact Kept.refl _

theorem keepCommit_kept : ∀ c s, Kept s (keepCommit c s) := by
  intro c s
  unfold keepCommit
  extract_lets +onlyGivenNames v0
  clear_value v0
  extract_lets +onlyGivenNames v1
  clear_value v1
  refine Kept.of (X := s) ?_ rfl rfl rfl rfl rfl rfl rfl rfl
  exact Kept.refl _

theorem undoCommit_kept : ∀ c s, Kept s (undoCommit c s) := by
  intro c s
  unfold undoCommit
  split
  · extract_lets +onlyGivenNames v0
    have h1 : Kept s v0 := by
      unfold v0
      split
      · refine Kept.trans ?_ (dropPending_kept _ _)
        exact Kept.refl _
      · exact Kept.refl _
    clear_value v0
    refine Kept.trans ?_ (tellAbout_kept _ _ _ _)
    assumption
  · split
    · extract_lets +onlyGivenNames v2
      have h3 : Kept s v2 := by
        unfold v2
        split
        · refine Kept.trans ?_ (setHolders_kept _ _ _)
          exact Kept.refl _
        · exact Kept.refl _
      clear_value v2
      refine Kept.trans ?_ (tellAbout_kept _ _ _ _)
      assumption
    · exact Kept.refl _

theorem endCommit_kept : ∀ c s, Kept s (endCommit c s) := by
  intro c s
  unfold endCommit
  extract_lets +onlyGivenNames v0
  have h1 : Kept s v0 := by
    unfold v0
    refine Kept.trans ?_ (unstage_kept _ _)
    refine Kept.trans ?_ (dropCommit_kept _ _)
    exact Kept.refl _
  clear_value v0
  split
  · extract_lets +onlyGivenNames v2
    clear_value v2
    extract_lets +onlyGivenNames v3
    have h4 : Kept s v3 := by
      unfold v3
      refine Kept.trans ?_ (setHolders_kept _ _ _)
      assumption
    clear_value v3
    extract_lets +onlyGivenNames v5
    have h6 : Kept s v5 := by
      unfold v5
      refine Kept.trans ?_ (tellAbout_kept _ _ _ _)
      assumption
    clear_value v5
    refine Kept.trans ?_ (result_kept _ _ _ _ _)
    assumption
  · refine Kept.trans ?_ (resultWith_kept _ _ _ _ _ _)
    refine Kept.trans ?_ (undoCommit_kept _ _)
    assumption

theorem startInstall_kept : ∀ c s, Kept s (startInstall c s) := by
  intro c s
  unfold startInstall
  extract_lets +onlyGivenNames v0
  clear_value v0
  extract_lets +onlyGivenNames v1
  clear_value v1
  split
  · refine Kept.trans ?_ (result_kept _ _ _ _ _)
    refine Kept.trans ?_ (unstage_kept _ _)
    refine Kept.trans ?_ (dropCommit_kept _ _)
    exact Kept.refl _
  · split
    · refine Kept.trans ?_ (resultWith_kept _ _ _ _ _ _)
      refine Kept.trans ?_ (unstage_kept _ _)
      refine Kept.trans ?_ (dropCommit_kept _ _)
      exact Kept.refl _
    · extract_lets +onlyGivenNames v2
      clear_value v2
      extract_lets +onlyGivenNames v3
      have h4 : Kept s v3 := by
        unfold v3
        refine Kept.trans ?_ (tellAbout_kept _ _ _ _)
        split
        · refine Kept.trans ?_ (install_kept _ _ _)
          exact Kept.refl _
        · exact Kept.refl _
      clear_value v3
      extract_lets +onlyGivenNames v5
      clear_value v5
      split
      · refine Kept.trans ?_ (endCommit_kept _ _)
        assumption
      · refine Kept.trans ?_ (keepCommit_kept _ _)
        assumption

theorem endUnload_kept : ∀ c s, Kept s (endUnload c s) := by
  intro c s
  unfold endUnload
  extract_lets +onlyGivenNames v0
  have h1 : Kept s v0 := by
    unfold v0
    refine Kept.trans ?_ (dropCommit_kept _ _)
    exact Kept.refl _
  clear_value v0
  split
  · refine Kept.trans ?_ (result_kept _ _ _ _ _)
    refine Kept.trans ?_ (undoCommit_kept _ _)
    assumption
  · extract_lets +onlyGivenNames v2
    have h3 : Kept s v2 := by
      unfold v2
      refine Kept.trans ?_ (tellAbout_kept _ _ _ _)
      assumption
    clear_value v2
    extract_lets +onlyGivenNames v4
    have h5 : Kept s v4 := by
      unfold v4
      split
      · refine Kept.trans ?_ (dropProgram_kept _ _)
        assumption
      · refine Kept.trans ?_ (setHolders_kept _ _ _)
        assumption
    clear_value v4
    refine Kept.trans ?_ (result_kept _ _ _ _ _)
    assumption

theorem settleCommit_kept : ∀ c s, Kept s (settleCommit c s) := by
  intro c s
  unfold settleCommit
  split
  · refine Kept.trans ?_ (keepCommit_kept _ _)
    exact Kept.refl _
  · split
    · refine Kept.trans ?_ (endUnload_kept _ _)
      exact Kept.refl _
    · split
      · refine Kept.trans ?_ (endCommit_kept _ _)
        exact Kept.refl _
      · split
        · refine Kept.trans ?_ (result_kept _ _ _ _ _)
          refine Kept.trans ?_ (unstage_kept _ _)
          refine Kept.trans ?_ (dropCommit_kept _ _)
          exact Kept.refl _
        · refine Kept.trans ?_ (startInstall_kept _ _)
          exact Kept.refl _

end Sys2Proof.Machine
end

