-- ==== Sys2Proof/Laws/KeptEngines.lean ====
section
/-! SUPPORT. One lemma per operation of the engines, their plans, the domain changes and the streams: what it keeps. -/

namespace Sys2Proof.Machine
open Sys2Proof

/-! Crane -/

theorem setCrane_kept : ∀ key p s, Kept s (setCrane key p s) := by
  intro key p s
  unfold setCrane
  split
  · exact Kept.refl _
  · refine Kept.trans ?_ (setJob_kept _ _)
    exact Kept.refl _

theorem craneFill_kept : ∀ d s, Kept s (craneFill d s).2 := by
  intro d s
  unfold craneFill
  extract_lets +onlyGivenNames v0
  clear_value v0
  extract_lets +onlyGivenNames v1
  clear_value v1
  extract_lets +onlyGivenNames v2
  clear_value v2
  extract_lets +onlyGivenNames v3
  clear_value v3
  extract_lets +onlyGivenNames v4
  have h5 : Kept s v4.2 := by
    unfold v4
    refine Kept.trans ?_ (firmwareArea_kept _ _)
    exact Kept.refl _
  clear_value v4
  dsimp only
  assumption

theorem segToHost_kept : ∀ host charter g s, Kept s (segToHost host charter g s) := by
  intro host charter g s
  unfold segToHost
  extract_lets +onlyGivenNames v0
  have h1 : Kept s v0 := by
    unfold v0
    refine Kept.trans ?_ (emit_kept _ _)
    exact Kept.refl _
  clear_value v0
  split
  · assumption
  · refine Kept.trans ?_ (enterItem_kept _ _ _ _ _ _ _ _)
    assumption

theorem segToDevice_kept : ∀ dev charter g s, Kept s (segToDevice dev charter g s) := by
  intro dev charter g s
  unfold segToDevice
  extract_lets +onlyGivenNames v0
  have h1 : Kept s v0 := by
    unfold v0
    refine Kept.trans ?_ (emit_kept _ _)
    exact Kept.refl _
  clear_value v0
  split
  · assumption
  · refine Kept.trans ?_ (enterItem_kept _ _ _ _ _ _ _ _)
    assumption

theorem sendDones_kept : ∀ j reason s, Kept s (sendDones j reason s) := by
  intro j reason s
  unfold sendDones
  split
  · exact Kept.refl _
  · extract_lets +onlyGivenNames v0
    clear_value v0
    extract_lets +onlyGivenNames v1
    clear_value v1
    extract_lets +onlyGivenNames v2
    have h3 : Kept s v2 := by
      unfold v2
      refine Kept.foldl (fun y x => ?_) ?_
      · refine Kept.trans ?_ (segToHost_kept _ _ _ _)
        exact Kept.refl _
      · exact Kept.refl _
    clear_value v2
    split
    · assumption
    · refine Kept.foldl (fun y x => ?_) ?_
      · refine Kept.trans ?_ (segToDevice_kept _ _ _ _)
        exact Kept.refl _
      · assumption

theorem reportGuest_kept : ∀ j tile members poison counts s, Kept s (reportGuest j tile members poison counts s) := by
  intro j tile members poison counts s
  unfold reportGuest
  split
  · exact Kept.refl _
  · refine Kept.trans ?_ (segToDevice_kept _ _ _ _)
    exact Kept.refl _

theorem spillContrib_kept : ∀ key i fromDevice src s, Kept s (spillContrib key i fromDevice src s) := by
  intro key i fromDevice src s
  unfold spillContrib
  split
  · exact Kept.refl _
  · split
    · exact Kept.refl _
    · split
      · exact Kept.refl _
      · extract_lets +onlyGivenNames v0
        clear_value v0
        split
        · exact Kept.refl _
        · split
          · exact Kept.refl _
          · split
            · exact Kept.refl _
            · extract_lets +onlyGivenNames v1
              have h2 : Kept s v1.2 := by
                unfold v1
                refine Kept.trans ?_ (stageWrite_kept _ _ _ _ _)
                exact Kept.refl _
              clear_value v1
              split
              · refine Kept.trans ?_ (stopJob_kept _ _ _)
                refine Kept.trans ?_ (recordReason_kept _ _)
                assumption
              · refine Kept.trans ?_ (setCrane_kept _ _ _)
                extract_lets +onlyGivenNames v3
                have h4 : Kept s v3 := by
                  unfold v3
                  assumption
                clear_value v3
                refine Kept.of (X := v3) ?_ rfl rfl rfl rfl rfl rfl rfl rfl
                assumption

theorem discardSegment_kept : ∀ g s, Kept s (discardSegment g s) := by
  intro g s
  unfold discardSegment
  extract_lets +onlyGivenNames v0
  clear_value v0
  extract_lets +onlyGivenNames v1
  have h2 : Kept s v1 := by
    unfold v1
    split
    · refine Kept.of (X := s) ?_ rfl rfl rfl rfl rfl rfl rfl rfl
      exact Kept.refl _
    · refine Kept.trans ?_ (setCrane_kept _ _ _)
      exact Kept.refl _
  clear_value v1
  refine Kept.trans ?_ (raiseLimited_kept _ _ _ _ _ _)
  assumption

theorem takeSegment_kept : ∀ g s, Kept s (takeSegment g s) := by
  intro g s
  unfold takeSegment
  extract_lets +onlyGivenNames v0
  clear_value v0
  split
  · refine Kept.trans ?_ (discardSegment_kept _ _)
    exact Kept.refl _
  · split
    · refine Kept.trans ?_ (discardSegment_kept _ _)
      exact Kept.refl _
    · extract_lets +onlyGivenNames v1
      clear_value v1
      extract_lets +onlyGivenNames v2
      clear_value v2
      extract_lets +onlyGivenNames v3
      clear_value v3
      split
      · split
        · refine Kept.trans ?_ (discardSegment_kept _ _)
          exact Kept.refl _
        · extract_lets +onlyGivenNames v4
          clear_value v4
          extract_lets +onlyGivenNames v5
          clear_value v5
          split
          · refine Kept.trans ?_ (setCrane_kept _ _ _)
            exact Kept.refl _
          · refine Kept.trans ?_ (setCrane_kept _ _ _)
            exact Kept.refl _
      · split
        · refine Kept.trans ?_ (discardSegment_kept _ _)
          exact Kept.refl _
        · extract_lets +onlyGivenNames v6
          clear_value v6
          extract_lets +onlyGivenNames v7
          clear_value v7
          split
          · refine Kept.trans ?_ (setCrane_kept _ _ _)
            exact Kept.refl _
          · refine Kept.trans ?_ (setCrane_kept _ _ _)
            exact Kept.refl _

theorem noteExclusion_kept : ∀ key host s, Kept s (noteExclusion key host s) := by
  intro key host s
  unfold noteExclusion
  split
  · exact Kept.refl _
  · split
    · exact Kept.refl _
    · split
      · refine Kept.trans ?_ (setCrane_kept _ _ _)
        exact Kept.refl _
      · exact Kept.refl _

theorem sendPartial_kept : ∀ key i s, Kept s (sendPartial key i s) := by
  intro key i s
  unfold sendPartial
  split
  · exact Kept.refl _
  · split
    · exact Kept.refl _
    · extract_lets +onlyGivenNames v0
      clear_value v0
      extract_lets +onlyGivenNames v1
      clear_value v1
      extract_lets +onlyGivenNames v2
      clear_value v2
      split
      · exact Kept.refl _
      · extract_lets +onlyGivenNames v3
        clear_value v3
        extract_lets +onlyGivenNames v4
        clear_value v4
        extract_lets +onlyGivenNames v5
        have h6 : Kept s v5 := by
          unfold v5
          refine Kept.trans ?_ (setCrane_kept _ _ _)
          exact Kept.refl _
        clear_value v5
        refine Kept.foldl (fun y x => ?_) ?_
        · refine Kept.trans ?_ (segToDevice_kept _ _ _ _)
          exact Kept.refl _
        · assumption

theorem addContrib_kept : ∀ key i fromDevice src s, Kept s (addContrib key i fromDevice src s) := by
  intro key i fromDevice src s
  unfold addContrib
  split
  · exact Kept.refl _
  · split
    · exact Kept.refl _
    · extract_lets +onlyGivenNames v0
      clear_value v0
      split
      · exact Kept.refl _
      · extract_lets +onlyGivenNames v1
        clear_value v1
        extract_lets +onlyGivenNames v2
        clear_value v2
        extract_lets +onlyGivenNames v3
        clear_value v3
        extract_lets +onlyGivenNames v4
        clear_value v4
        extract_lets +onlyGivenNames v5
        clear_value v5
        extract_lets +onlyGivenNames v6
        have h7 : Kept s v6 := by
          unfold v6
          split
          · refine Kept.of (X := s) ?_ rfl rfl rfl rfl rfl rfl rfl rfl
            exact Kept.refl _
          · exact Kept.refl _
        clear_value v6
        extract_lets +onlyGivenNames v8
        clear_value v8
        extract_lets +onlyGivenNames v9
        clear_value v9
        extract_lets +onlyGivenNames v10
        clear_value v10
        extract_lets +onlyGivenNames v11
        clear_value v11
        extract_lets +onlyGivenNames v12
        clear_value v12
        extract_lets +onlyGivenNames v13
        clear_value v13
        extract_lets +onlyGivenNames v14
        have h15 : Kept s v14 := by
          unfold v14
          split
          · assumption
          · refine Kept.trans ?_ (reportGuest_kept _ _ _ _ _ _)
            assumption
        clear_value v14
        refine Kept.trans ?_ (sendPartial_kept _ _ _)
        refine Kept.trans ?_ (spillContrib_kept _ _ _ _ _)
        refine Kept.trans ?_ (setCrane_kept _ _ _)
        assumption

theorem recordTile_kept : ∀ key i s, Kept s (recordTile key i s) := by
  intro key i s
  unfold recordTile
  split
  · exact Kept.refl _
  · split
    · exact Kept.refl _
    · extract_lets +onlyGivenNames v0
      clear_value v0
      split
      · exact Kept.refl _
      · extract_lets +onlyGivenNames v1
        clear_value v1
        extract_lets +onlyGivenNames v2
        clear_value v2
        extract_lets +onlyGivenNames v3
        clear_value v3
        refine Kept.trans ?_ (logProgress_kept _ _ _ _)
        exact Kept.refl _

theorem sealTile_kept : ∀ key i told s, Kept s (sealTile key i told s) := by
  intro key i told s
  unfold sealTile
  split
  · exact Kept.refl _
  · split
    · exact Kept.refl _
    · extract_lets +onlyGivenNames v0
      clear_value v0
      extract_lets +onlyGivenNames v1
      have h2 : Kept s v1 := by
        unfold v1
        refine Kept.trans ?_ (recordTile_kept _ _ _)
        exact Kept.refl _
      clear_value v1
      extract_lets +onlyGivenNames v3
      clear_value v3
      extract_lets +onlyGivenNames v4
      clear_value v4
      extract_lets +onlyGivenNames v5
      have h6 : Kept s v5 := by
        unfold v5
        refine Kept.foldl (fun y x => ?_) ?_
        · refine Kept.trans ?_ (segToDevice_kept _ _ _ _)
          exact Kept.refl _
        · assumption
      clear_value v5
      refine Kept.trans ?_ (reportGuest_kept _ _ _ _ _ _)
      assumption

theorem recordWritten_kept : ∀ key s, Kept s (recordWritten key s) := by
  intro key s
  unfold recordWritten
  split
  · exact Kept.refl _
  · split
    · exact Kept.refl _
    · split
      · exact Kept.refl _
      · extract_lets +onlyGivenNames v0
        clear_value v0
        extract_lets +onlyGivenNames v1
        clear_value v1
        refine Kept.foldl (fun y x => ?_) ?_
        · refine Kept.trans ?_ (sealTile_kept _ _ _ _)
          exact Kept.refl _
        · refine Kept.trans ?_ (setCrane_kept _ _ _)
          exact Kept.refl _

theorem sendResult_kept : ∀ j d p i count poison b s, Kept s (sendResult j d p i count poison b s) := by
  intro j d p i count poison b s
  unfold sendResult
  extract_lets +onlyGivenNames v0
  clear_value v0
  extract_lets +onlyGivenNames v1
  clear_value v1
  extract_lets +onlyGivenNames v2
  clear_value v2
  extract_lets +onlyGivenNames v3
  clear_value v3
  extract_lets +onlyGivenNames v4
  have h5 : Kept s v4 := by
    unfold v4
    refine Kept.foldl (fun y x => ?_) ?_
    · refine Kept.foldl (fun y x => ?_) ?_
      · refine Kept.trans ?_ (segToHost_kept _ _ _ _)
        exact Kept.refl _
      · exact Kept.refl _
    · exact Kept.refl _
  clear_value v4
  refine Kept.foldl (fun y x => ?_) ?_
  · refine Kept.foldl (fun y x => ?_) ?_
    · refine Kept.trans ?_ (segToDevice_kept _ _ _ _)
      exact Kept.refl _
    · exact Kept.refl _
  · assumption

theorem passOver_kept : ∀ key i s, Kept s (passOver key i s) := by
  intro key i s
  unfold passOver
  split
  · exact Kept.refl _
  · split
    · exact Kept.refl _
    · extract_lets +onlyGivenNames v0
      clear_value v0
      extract_lets +onlyGivenNames v1
      clear_value v1
      extract_lets +onlyGivenNames v2
      clear_value v2
      extract_lets +onlyGivenNames v3
      clear_value v3
      extract_lets +onlyGivenNames v4
      have h5 : Kept s v4 := by
        unfold v4
        refine Kept.trans ?_ (setCrane_kept _ _ _)
        exact Kept.refl _
      clear_value v4
      split
      · extract_lets +onlyGivenNames v6
        clear_value v6
        refine Kept.trans ?_ (recordWritten_kept _ _)
        refine Kept.trans ?_ (poolWrite_kept _ _ _ _ _ _)
        assumption
      · refine Kept.trans ?_ (sealTile_kept _ _ _ _)
        refine Kept.trans ?_ (sendResult_kept _ _ _ _ _ _ _ _)
        assumption

theorem craneUnit_kept : ∀ key w s, Kept s (craneUnit key w s) := by
  intro key w s
  unfold craneUnit
  split
  · refine Kept.trans ?_ (addContrib_kept _ _ _ _ _)
    exact Kept.refl _
  · refine Kept.trans ?_ (passOver_kept _ _ _)
    exact Kept.refl _
  · exact Kept.refl _

theorem takeResult_kept : ∀ key j d p g s, Kept s (takeResult key j d p g s) := by
  intro key j d p g s
  unfold takeResult
  split
  · exact Kept.refl _
  · extract_lets +onlyGivenNames v0
    clear_value v0
    extract_lets +onlyGivenNames v1
    have h2 : Kept s v1 := by
      unfold v1
      refine Kept.foldl (fun y x => ?_) ?_
      · refine Kept.trans ?_ (segToHost_kept _ _ _ _)
        exact Kept.refl _
      · exact Kept.refl _
    clear_value v1
    split
    · assumption
    · refine Kept.trans ?_ (recordTile_kept _ _ _)
      refine Kept.trans ?_ (setCrane_kept _ _ _)
      assumption

theorem takeCounts_kept : ∀ key j d p g s, Kept s (takeCounts key j d p g s) := by
  intro key j d p g s
  unfold takeCounts
  extract_lets +onlyGivenNames v0
  clear_value v0
  extract_lets +onlyGivenNames v1
  clear_value v1
  extract_lets +onlyGivenNames v2
  clear_value v2
  extract_lets +onlyGivenNames v3
  clear_value v3
  extract_lets +onlyGivenNames v4
  clear_value v4
  extract_lets +onlyGivenNames v5
  clear_value v5
  extract_lets +onlyGivenNames v6
  have h7 : Kept s v6 := by
    unfold v6
    refine Kept.trans ?_ (setJob_kept _ _)
    exact Kept.refl _
  clear_value v6
  split
  · assumption
  · refine Kept.trans ?_ (recordTile_kept _ _ _)
    assumption

theorem takeFromDevice_kept : ∀ g s, Kept s (takeFromDevice g s) := by
  intro g s
  unfold takeFromDevice
  extract_lets +onlyGivenNames v0
  clear_value v0
  split
  · exact Kept.refl _
  · split
    · exact Kept.refl _
    · split
      · exact Kept.refl _
      · split
        · refine Kept.trans ?_ (dropJob_kept _ _)
          refine Kept.trans ?_ (supersede_kept _ _)
          refine Kept.trans ?_ (sendDones_kept _ _ _)
          exact Kept.refl _
        · split
          · exact Kept.refl _
          · split
            · split
              · refine Kept.trans ?_ (supersede_kept _ _)
                refine Kept.trans ?_ (setJob_kept _ _)
                exact Kept.refl _
              · refine Kept.trans ?_ (stopJob_kept _ _ _)
                refine Kept.trans ?_ (recordReason_kept _ _)
                exact Kept.refl _
            · split
              · split
                · refine Kept.trans ?_ (recordTile_kept _ _ _)
                  exact Kept.refl _
                · refine Kept.trans ?_ (takeCounts_kept _ _ _ _ _ _)
                  exact Kept.refl _
              · refine Kept.trans ?_ (takeResult_kept _ _ _ _ _ _)
                exact Kept.refl _

theorem stopCrane_kept : ∀ key code s, Kept s (stopCrane key code s) := by
  intro key code s
  unfold stopCrane
  split
  · exact Kept.refl _
  · split
    · refine Kept.trans ?_ (setJob_kept _ _)
      exact Kept.refl _
    · refine Kept.trans ?_ (setJob_kept _ _)
      exact Kept.refl _
    · refine Kept.trans ?_ (stopJob_kept _ _ _)
      exact Kept.refl _

theorem applyExclusion_kept : ∀ key host s, Kept s (applyExclusion key host s) := by
  intro key host s
  unfold applyExclusion
  split
  · exact Kept.refl _
  · split
    · exact Kept.refl _
    · split
      · exact Kept.refl _
      · extract_lets +onlyGivenNames v0
        clear_value v0
        extract_lets +onlyGivenNames v1
        clear_value v1
        extract_lets +onlyGivenNames v2
        have h3 : Kept s v2 := by
          unfold v2
          refine Kept.trans ?_ (setCrane_kept _ _ _)
          exact Kept.refl _
        clear_value v2
        split
        · refine Kept.trans ?_ (stopCrane_kept _ _ _)
          assumption
        · split
          · assumption
          · split
            · refine Kept.trans ?_ (stopCrane_kept _ _ _)
              refine Kept.trans ?_ (setCrane_kept _ _ _)
              assumption
            · refine Kept.foldl (fun y x => ?_) ?_
              · refine Kept.trans ?_ (sendPartial_kept _ _ _)
                exact Kept.refl _
              · assumption

theorem declareMember_kept : ∀ key host s, Kept s (declareMember key host s) := by
  intro key host s
  unfold declareMember
  split
  · exact Kept.refl _
  · split
    · exact Kept.refl _
    · split
      · exact Kept.refl _
      · extract_lets +onlyGivenNames v0
        have h1 : Kept s v0 := by
          unfold v0
          refine Kept.trans ?_ (raise_kept _ _ _)
          exact Kept.refl _
        clear_value v0
        extract_lets +onlyGivenNames v2
        have h3 : Kept s v2 := by
          unfold v2
          refine Kept.trans ?_ (broadcast_kept _ _ _)
          assumption
        clear_value v2
        refine Kept.trans ?_ (noteExclusion_kept _ _ _)
        assumption

theorem craneHostDead_kept : ∀ host s, Kept s (craneHostDead host s) := by
  intro host s
  unfold craneHostDead
  refine Kept.foldl (fun y x => ?_) ?_
  · refine Kept.trans ?_ (declareMember_kept _ _ _)
    exact Kept.refl _
  · exact Kept.refl _

theorem craneDeviceLost_kept : ∀ dev s, Kept s (craneDeviceLost dev s) := by
  intro dev s
  unfold craneDeviceLost
  refine Kept.foldl (fun y x => ?_) ?_
  · split
    · exact Kept.refl _
    · split
      · exact Kept.refl _
      · refine Kept.foldl (fun y x => ?_) ?_
        · refine Kept.trans ?_ (applyExclusion_kept _ _ _)
          refine Kept.trans ?_ (raise_kept _ _ _)
          exact Kept.refl _
        · exact Kept.refl _
  · exact Kept.refl _

theorem dropDeadDevices_kept : ∀ key s, Kept s (dropDeadDevices key s) := by
  intro key s
  unfold dropDeadDevices
  split
  · exact Kept.refl _
  · split
    · exact Kept.refl _
    · split
      · exact Kept.refl _
      · refine Kept.foldl (fun y x => ?_) ?_
        · refine Kept.trans ?_ (applyExclusion_kept _ _ _)
          refine Kept.trans ?_ (raise_kept _ _ _)
          exact Kept.refl _
        · exact Kept.refl _

theorem callMembers_kept : ∀ key s, Kept s (callMembers key s) := by
  intro key s
  unfold callMembers
  split
  · exact Kept.refl _
  · split
    · exact Kept.refl _
    · split
      · exact Kept.refl _
      · extract_lets +onlyGivenNames v0
        clear_value v0
        extract_lets +onlyGivenNames v1
        clear_value v1
        extract_lets +onlyGivenNames v2
        have h3 : Kept s v2 := by
          unfold v2
          refine Kept.trans ?_ (setCrane_kept _ _ _)
          exact Kept.refl _
        clear_value v2
        refine Kept.foldl (fun y x => ?_) ?_
        · refine Kept.foldl (fun y x => ?_) ?_
          · refine Kept.trans ?_ (segToHost_kept _ _ _ _)
            exact Kept.refl _
          · exact Kept.refl _
        · assumption

theorem tellDevices_kept : ∀ key s, Kept s (tellDevices key s) := by
  intro key s
  unfold tellDevices
  split
  · exact Kept.refl _
  · split
    · exact Kept.refl _
    · extract_lets +onlyGivenNames v0
      clear_value v0
      refine Kept.foldl (fun y x => ?_) ?_
      · refine Kept.trans ?_ (emit_kept _ _)
        exact Kept.refl _
      · exact Kept.refl _

theorem craneBegin_kept : ∀ key s, Kept s (craneBegin key s) := by
  intro key s
  unfold craneBegin
  split
  · exact Kept.refl _
  · split
    · exact Kept.refl _
    · extract_lets +onlyGivenNames v0
      clear_value v0
      extract_lets +onlyGivenNames v1
      have h2 : Kept s v1 := by
        unfold v1
        refine Kept.foldl (fun y x => ?_) ?_
        · refine Kept.trans ?_ (applyExclusion_kept _ _ _)
          refine Kept.trans ?_ (raise_kept _ _ _)
          exact Kept.refl _
        · exact Kept.refl _
      clear_value v1
      split
      · assumption
      · split
        · assumption
        · refine Kept.trans ?_ (callMembers_kept _ _)
          refine Kept.trans ?_ (tellDevices_kept _ _)
          refine Kept.trans ?_ (setCrane_kept _ _ _)
          assumption

theorem joinJob_kept : ∀ x s, Kept s (joinJob x s) := by
  intro x s
  unfold joinJob
  extract_lets +onlyGivenNames v0
  clear_value v0
  extract_lets +onlyGivenNames v1
  clear_value v1
  extract_lets +onlyGivenNames v2
  clear_value v2
  extract_lets +onlyGivenNames v3
  clear_value v3
  split
  · exact Kept.refl _
  · extract_lets +onlyGivenNames v4
    have h5 : Kept s v4 := by
      unfold v4
      refine Kept.trans ?_ (dropJob_kept _ _)
      refine Kept.trans ?_ (supersede_kept _ _)
      exact Kept.refl _
    clear_value v4
    extract_lets +onlyGivenNames v6
    clear_value v6
    extract_lets +onlyGivenNames v7
    clear_value v7
    extract_lets +onlyGivenNames v8
    clear_value v8
    extract_lets +onlyGivenNames v9
    clear_value v9
    extract_lets +onlyGivenNames v10
    clear_value v10
    extract_lets +onlyGivenNames v11
    have h12 : Kept s v11 := by
      unfold v11
      refine Kept.foldl (fun y x => ?_) ?_
      · refine Kept.trans ?_ (jobFence_kept _ _ _)
        exact Kept.refl _
      · refine Kept.trans ?_ (addJob_kept _ _)
        assumption
    clear_value v11
    extract_lets +onlyGivenNames v13
    have h14 : Kept s v13 := by
      unfold v13
      refine Kept.foldl (fun y x => ?_) ?_
      · refine Kept.trans ?_ (declareMember_kept _ _ _)
        exact Kept.refl _
      · assumption
    clear_value v13
    refine Kept.trans ?_ (callMembers_kept _ _)
    assumption

/-! Stevedore -/

theorem setStev_kept : ∀ key p s, Kept s (setStev key p s) := by
  intro key p s
  unfold setStev
  split
  · exact Kept.refl _
  · refine Kept.trans ?_ (setJob_kept _ _)
    exact Kept.refl _

theorem stevFill_kept : ∀ d s, Kept s (stevFill d s).2 := by
  intro d s
  unfold stevFill
  extract_lets +onlyGivenNames v0
  clear_value v0
  split
  · extract_lets +onlyGivenNames v1
    have h2 : Kept s v1.2 := by
      unfold v1
      refine Kept.trans ?_ (firmwareArea_kept _ _)
      exact Kept.refl _
    clear_value v1
    dsimp only
    assumption
  · dsimp only
    exact Kept.refl _

theorem writeRow_kept : ∀ key engine row a n v s, Kept s (writeRow key engine row a n v s) := by
  intro key engine row a n v s
  unfold writeRow
  split
  · exact Kept.refl _
  · split
    · exact Kept.refl _
    · split
      · refine Kept.trans ?_ (stopJob_kept _ _ _)
        refine Kept.trans ?_ (recordReason_kept _ _)
        exact Kept.refl _
      · extract_lets +onlyGivenNames v0
        clear_value v0
        refine Kept.trans ?_ (outWrite_kept _ _ _ _ _ _ _)
        refine Kept.trans ?_ (setStev_kept _ _ _)
        exact Kept.refl _

theorem noteBadWrites_kept : ∀ key s, Kept s (noteBadWrites key s) := by
  intro key s
  unfold noteBadWrites
  split
  · exact Kept.refl _
  · split
    · exact Kept.refl _
    · extract_lets +onlyGivenNames v0
      clear_value v0
      refine Kept.trans ?_ (setJob_kept _ _)
      exact Kept.refl _

theorem accumulate_kept : ∀ key engine row v s, Kept s (accumulate key engine row v s) := by
  intro key engine row v s
  unfold accumulate
  split
  · exact Kept.refl _
  · split
    · exact Kept.refl _
    · extract_lets +onlyGivenNames v0
      clear_value v0
      extract_lets +onlyGivenNames v1
      clear_value v1
      extract_lets +onlyGivenNames v2
      clear_value v2
      refine Kept.trans ?_ (outWrite_kept _ _ _ _ _ _ _)
      refine Kept.trans ?_ (setStev_kept _ _ _)
      exact Kept.refl _

theorem moveRow_kept : ∀ key e i row v s, Kept s (moveRow key e i row v s) := by
  intro key e i row v s
  unfold moveRow
  split
  · exact Kept.refl _
  · split
    · exact Kept.refl _
    · extract_lets +onlyGivenNames v0
      clear_value v0
      split
      · refine Kept.trans ?_ (writeRow_kept _ _ _ _ _ _ _)
        exact Kept.refl _
      · split
        · refine Kept.trans ?_ (writeRow_kept _ _ _ _ _ _ _)
          exact Kept.refl _
        · split
          · refine Kept.trans ?_ (accumulate_kept _ _ _ _ _)
            exact Kept.refl _
          · refine Kept.trans ?_ (setStev_kept _ _ _)
            exact Kept.refl _

theorem drainRows_kept : ∀ fuel key s, Kept s (drainRows fuel key s) := by
  intro fuel key s
  induction fuel generalizing s with
  | zero => exact Kept.refl s
  | succ k ih =>
    unfold drainRows
    split
    · exact Kept.refl _
    · split
      · exact Kept.refl _
      · split
        · exact Kept.refl _
        · split
          · exact Kept.refl _
          · extract_lets +onlyGivenNames v0
            clear_value v0
            extract_lets +onlyGivenNames v1
            have h2 : Kept s v1 := by
              unfold v1
              refine Kept.trans ?_ (setJob_kept _ _)
              exact Kept.refl _
            clear_value v1
            refine Kept.trans ?_ (ih _)
            refine Kept.trans ?_ (moveRow_kept _ _ _ _ _ _)
            assumption

theorem oddIndex_kept : ∀ key e i poison s, Kept s (oddIndex key e i poison s) := by
  intro key e i poison s
  unfold oddIndex
  split
  · exact Kept.refl _
  · split
    · exact Kept.refl _
    · extract_lets +onlyGivenNames v0
      clear_value v0
      split
      · extract_lets +onlyGivenNames v1
        have h2 : Kept s v1 := by
          unfold v1
          refine Kept.trans ?_ (setStev_kept _ _ _)
          exact Kept.refl _
        clear_value v1
        split
        · refine Kept.trans ?_ (writeRow_kept _ _ _ _ _ _ _)
          assumption
        · split
          · refine Kept.trans ?_ (setStev_kept _ _ _)
            assumption
          · assumption
      · split
        · refine Kept.trans ?_ (stopJob_kept _ _ _)
          refine Kept.trans ?_ (recordReason_kept _ _)
          exact Kept.refl _
        · extract_lets +onlyGivenNames v3
          clear_value v3
          split
          · refine Kept.trans ?_ (writeRow_kept _ _ _ _ _ _ _)
            refine Kept.trans ?_ (setStev_kept _ _ _)
            exact Kept.refl _
          · split
            · refine Kept.trans ?_ (setStev_kept _ _ _)
              exact Kept.refl _
            · refine Kept.trans ?_ (setStev_kept _ _ _)
              exact Kept.refl _

theorem issueIndex_kept : ∀ key e i s, Kept s (issueIndex key e i s) := by
  intro key e i s
  unfold issueIndex
  split
  · exact Kept.refl _
  · split
    · exact Kept.refl _
    · split
      · exact Kept.refl _
      · extract_lets +onlyGivenNames v0
        clear_value v0
        extract_lets +onlyGivenNames v1
        have h2 : Kept s v1 := by
          unfold v1
          refine Kept.trans ?_ (setStev_kept _ _ _)
          exact Kept.refl _
        clear_value v1
        split
        · refine Kept.trans ?_ (oddIndex_kept _ _ _ _ _)
          assumption
        · refine Kept.trans ?_ (oddIndex_kept _ _ _ _ _)
          assumption
        · extract_lets +onlyGivenNames v3
          have h4 : Kept s v3 := by
            unfold v3
            refine Kept.trans ?_ (setStev_kept _ _ _)
            assumption
          clear_value v3
          extract_lets +onlyGivenNames v5
          have h6 : Kept s v5 := by
            unfold v5
            split
            · refine Kept.foldl (fun y x => ?_) ?_
              · refine Kept.trans ?_ (jobAsk_kept _ _ _ _ _ _ _ _)
                exact Kept.refl _
              · assumption
            · assumption
          clear_value v5
          refine Kept.trans ?_ (drainRows_kept _ _ _)
          assumption
        · assumption

theorem fillRow_kept : ∀ key r v s, Kept s (fillRow key r v s) := by
  intro key r v s
  unfold fillRow
  split
  · exact Kept.refl _
  · split
    · exact Kept.refl _
    · refine Kept.trans ?_ (outWrite_kept _ _ _ _ _ _ _)
      refine Kept.trans ?_ (setStev_kept _ _ _)
      exact Kept.refl _

theorem drainFills_kept : ∀ fuel key s, Kept s (drainFills fuel key s) := by
  intro fuel key s
  induction fuel generalizing s with
  | zero => exact Kept.refl s
  | succ k ih =>
    unfold drainFills
    split
    · exact Kept.refl _
    · split
      · exact Kept.refl _
      · split
        · exact Kept.refl _
        · extract_lets +onlyGivenNames v0
          clear_value v0
          split
          · exact Kept.refl _
          · extract_lets +onlyGivenNames v1
            clear_value v1
            extract_lets +onlyGivenNames v2
            have h3 : Kept s v2 := by
              unfold v2
              refine Kept.trans ?_ (setJob_kept _ _)
              exact Kept.refl _
            clear_value v2
            refine Kept.trans ?_ (ih _)
            refine Kept.trans ?_ (fillRow_kept _ _ _ _)
            assumption

theorem issueFill_kept : ∀ key first count s, Kept s (issueFill key first count s) := by
  intro key first count s
  unfold issueFill
  split
  · exact Kept.refl _
  · split
    · exact Kept.refl _
    · extract_lets +onlyGivenNames v0
      clear_value v0
      split
      · extract_lets +onlyGivenNames v1
        have h2 : Kept s v1 := by
          unfold v1
          refine Kept.trans ?_ (setStev_kept _ _ _)
          exact Kept.refl _
        clear_value v1
        extract_lets +onlyGivenNames v3
        have h6 : ∀ z4 z5, Kept z4 (v3 z4 z5) := by
          intro y7 y8
          unfold v3
          refine Kept.trans ?_ (jobAsk_kept _ _ _ _ _ _ _ _)
          exact Kept.refl _
        clear_value v3
        extract_lets +onlyGivenNames v9
        have h10 : Kept s v9 := by
          unfold v9
          split
          · refine Kept.foldl (fun y x => ?_) ?_
            · refine Kept.foldl (fun y x => ?_) ?_
              · refine Kept.trans ?_ (h6 _ _)
                exact Kept.refl _
              · exact Kept.refl _
            · assumption
          · assumption
        clear_value v9
        refine Kept.trans ?_ (drainFills_kept _ _ _)
        assumption
      · refine Kept.foldl (fun y x => ?_) ?_
        · refine Kept.trans ?_ (fillRow_kept _ _ _ _)
          exact Kept.refl _
        · refine Kept.trans ?_ (setStev_kept _ _ _)
          exact Kept.refl _

theorem writeOutRows_kept : ∀ key first count s, Kept s (writeOutRows key first count s) := by
  intro key first count s
  unfold writeOutRows
  split
  · exact Kept.refl _
  · split
    · exact Kept.refl _
    · refine Kept.foldl (fun y x => ?_) ?_
      · refine Kept.trans ?_ (writeRow_kept _ _ _ _ _ _ _)
        exact Kept.refl _
      · refine Kept.trans ?_ (setStev_kept _ _ _)
        exact Kept.refl _

theorem stevUnit_kept : ∀ e key w s, Kept s (stevUnit e key w s) := by
  intro e key w s
  unfold stevUnit
  split
  · exact Kept.refl _
  · split
    · exact Kept.refl _
    · split
      · exact Kept.refl _
      · split
        · refine Kept.foldl (fun y x => ?_) ?_
          · refine Kept.trans ?_ (issueIndex_kept _ _ _ _)
            exact Kept.refl _
          · exact Kept.refl _
        · refine Kept.trans ?_ (issueFill_kept _ _ _ _)
          exact Kept.refl _
        · refine Kept.trans ?_ (writeOutRows_kept _ _ _ _)
          exact Kept.refl _
        · exact Kept.refl _

theorem sumBag_kept : ∀ key b s, Kept s (sumBag key b s) := by
  intro key b s
  unfold sumBag
  split
  · exact Kept.refl _
  · split
    · exact Kept.refl _
    · extract_lets +onlyGivenNames v0
      clear_value v0
      extract_lets +onlyGivenNames v1
      clear_value v1
      extract_lets +onlyGivenNames v2
      clear_value v2
      extract_lets +onlyGivenNames v3
      clear_value v3
      extract_lets +onlyGivenNames v4
      clear_value v4
      extract_lets +onlyGivenNames v5
      clear_value v5
      extract_lets +onlyGivenNames v6
      clear_value v6
      refine Kept.trans ?_ (writeRow_kept _ _ _ _ _ _ _)
      refine Kept.trans ?_ (setStev_kept _ _ _)
      exact Kept.refl _

theorem sizeUp_kept : ∀ key s, Kept s (sizeUp key s) := by
  intro key s
  unfold sizeUp
  split
  · exact Kept.refl _
  · split
    · exact Kept.refl _
    · split
      · exact Kept.refl _
      · split
        · exact Kept.refl _
        · extract_lets +onlyGivenNames v0
          clear_value v0
          extract_lets +onlyGivenNames v1
          clear_value v1
          extract_lets +onlyGivenNames v2
          clear_value v2
          extract_lets +onlyGivenNames v3
          have h4 : Kept s v3 := by
            unfold v3
            refine Kept.trans ?_ (setJob_kept _ _)
            exact Kept.refl _
          clear_value v3
          split
          · refine Kept.trans ?_ (stopJob_kept _ _ _)
            refine Kept.trans ?_ (recordReason_kept _ _)
            assumption
          · extract_lets +onlyGivenNames v5
            have h6 : Kept s v5 := by
              unfold v5
              split
              · refine Kept.trans ?_ (acquireArea_kept _ _ _ _)
                assumption
              · assumption
            clear_value v5
            refine Kept.foldl (fun y x => ?_) ?_
            · refine Kept.trans ?_ (jobFence_kept _ _ _)
              exact Kept.refl _
            · assumption

theorem checkBags_kept : ∀ key s, Kept s (checkBags key s) := by
  intro key s
  unfold checkBags
  split
  · exact Kept.refl _
  · split
    · exact Kept.refl _
    · split
      · exact Kept.refl _
      · split
        · refine Kept.trans ?_ (stopJob_kept _ _ _)
          refine Kept.trans ?_ (recordReason_kept _ _)
          exact Kept.refl _
        · exact Kept.refl _

theorem stevPlan_kept : ∀ key s, Kept s (stevPlan key s) := by
  intro key s
  unfold stevPlan
  split
  · exact Kept.refl _
  · split
    · refine Kept.foldl (fun y x => ?_) ?_
      · refine Kept.trans ?_ (askPiece_kept _ _ _ _ _ _)
        exact Kept.refl _
      · exact Kept.refl _
    · exact Kept.refl _

theorem stevLand_kept : ∀ key s, Kept s (stevLand key s) := by
  intro key s
  unfold stevLand
  extract_lets +onlyGivenNames v0
  have h1 : Kept s v0 := by
    unfold v0
    refine Kept.trans ?_ (sizeUp_kept _ _)
    refine Kept.trans ?_ (noteBadWrites_kept _ _)
    exact Kept.refl _
  clear_value v0
  split
  · assumption
  · refine Kept.trans ?_ (drainRows_kept _ _ _)
    refine Kept.trans ?_ (drainFills_kept _ _ _)
    assumption

/-! Customs -/

theorem setCust_kept : ∀ key p s, Kept s (setCust key p s) := by
  intro key p s
  unfold setCust
  split
  · exact Kept.refl _
  · refine Kept.trans ?_ (setJob_kept _ _)
    exact Kept.refl _

theorem custFill_kept : ∀ d s, Kept s (custFill d s).2 := by
  intro d s
  unfold custFill
  extract_lets +onlyGivenNames v0
  clear_value v0
  split
  · extract_lets +onlyGivenNames v1
    have h2 : Kept s v1.2 := by
      unfold v1
      refine Kept.trans ?_ (firmwareArea_kept _ _)
      exact Kept.refl _
    clear_value v1
    dsimp only
    assumption
  · dsimp only
    exact Kept.refl _

theorem scanRows_kept : ∀ key e first count s, Kept s (scanRows key e first count s) := by
  intro key e first count s
  unfold scanRows
  split
  · exact Kept.refl _
  · split
    · exact Kept.refl _
    · extract_lets +onlyGivenNames v0
      clear_value v0
      extract_lets +onlyGivenNames v1
      clear_value v1
      extract_lets +onlyGivenNames v2
      clear_value v2
      extract_lets +onlyGivenNames v3
      clear_value v3
      extract_lets +onlyGivenNames v4
      clear_value v4
      extract_lets +onlyGivenNames v5
      clear_value v5
      extract_lets +onlyGivenNames v6
      clear_value v6
      extract_lets +onlyGivenNames v7
      clear_value v7
      extract_lets +onlyGivenNames v8
      clear_value v8
      extract_lets +onlyGivenNames v9
      have h10 : Kept s v9 := by
        unfold v9
        refine Kept.trans ?_ (setJob_kept _ _)
        exact Kept.refl _
      clear_value v9
      split
      · assumption
      · refine Kept.trans ?_ (outWrite_kept _ _ _ _ _ _ _)
        assumption

theorem mergeScores_kept : ∀ key s, Kept s (mergeScores key s) := by
  intro key s
  unfold mergeScores
  split
  · exact Kept.refl _
  · split
    · exact Kept.refl _
    · extract_lets +onlyGivenNames v0
      clear_value v0
      extract_lets +onlyGivenNames v1
      clear_value v1
      extract_lets +onlyGivenNames v2
      clear_value v2
      refine Kept.trans ?_ (outWrite_kept _ _ _ _ _ _ _)
      refine Kept.trans ?_ (setCust_kept _ _ _)
      exact Kept.refl _

theorem compact_kept : ∀ key s, Kept s (compact key s) := by
  intro key s
  unfold compact
  split
  · exact Kept.refl _
  · split
    · exact Kept.refl _
    · extract_lets +onlyGivenNames v0
      clear_value v0
      extract_lets +onlyGivenNames v1
      clear_value v1
      refine Kept.trans ?_ (outWrite_kept _ _ _ _ _ _ _)
      refine Kept.trans ?_ (setCust_kept _ _ _)
      exact Kept.refl _

theorem mergeAreas_kept : ∀ key s, Kept s (mergeAreas key s) := by
  intro key s
  unfold mergeAreas
  split
  · exact Kept.refl _
  · split
    · exact Kept.refl _
    · extract_lets +onlyGivenNames v0
      clear_value v0
      extract_lets +onlyGivenNames v1
      clear_value v1
      extract_lets +onlyGivenNames v2
      clear_value v2
      extract_lets +onlyGivenNames v3
      clear_value v3
      split
      · refine Kept.trans ?_ (stopJob_kept _ _ _)
        refine Kept.trans ?_ (recordReason_kept _ _)
        exact Kept.refl _
      · extract_lets +onlyGivenNames v4
        clear_value v4
        extract_lets +onlyGivenNames v5
        clear_value v5
        extract_lets +onlyGivenNames v6
        clear_value v6
        extract_lets +onlyGivenNames v7
        clear_value v7
        refine Kept.trans ?_ (outWrite_kept _ _ _ _ _ _ _)
        refine Kept.trans ?_ (setCust_kept _ _ _)
        exact Kept.refl _

theorem custUnit_kept : ∀ engine key w s, Kept s (custUnit engine key w s) := by
  intro engine key w s
  unfold custUnit
  split
  · exact Kept.refl _
  · split
    · exact Kept.refl _
    · split
      · exact Kept.refl _
      · split
        · refine Kept.trans ?_ (scanRows_kept _ _ _ _ _)
          exact Kept.refl _
        · extract_lets +onlyGivenNames v0
          have h1 : Kept s v0 := by
            unfold v0
            refine Kept.trans ?_ (setCust_kept _ _ _)
            exact Kept.refl _
          clear_value v0
          split
          · assumption
          · refine Kept.trans ?_ (compact_kept _ _)
            assumption
        · extract_lets +onlyGivenNames v2
          have h3 : Kept s v2 := by
            unfold v2
            refine Kept.trans ?_ (setCust_kept _ _ _)
            exact Kept.refl _
          clear_value v2
          split
          · assumption
          · split
            · refine Kept.trans ?_ (mergeScores_kept _ _)
              assumption
            · refine Kept.trans ?_ (mergeAreas_kept _ _)
              assumption
        · exact Kept.refl _

theorem loadQueries_kept : ∀ key s, Kept s (loadQueries key s) := by
  intro key s
  unfold loadQueries
  split
  · exact Kept.refl _
  · split
    · exact Kept.refl _
    · split
      · exact Kept.refl _
      · refine Kept.foldl (fun y x => ?_) ?_
        · split
          · exact Kept.refl _
          · split
            · exact Kept.refl _
            · extract_lets +onlyGivenNames v0
              clear_value v0
              split
              · exact Kept.refl _
              · split
                · exact Kept.refl _
                · extract_lets +onlyGivenNames v1
                  clear_value v1
                  refine Kept.trans ?_ (setJob_kept _ _)
                  exact Kept.refl _
        · exact Kept.refl _

theorem decodeFor_kept : ∀ key e codec which b s, Kept s (decodeFor key e codec which b s) := by
  intro key e codec which b s
  unfold decodeFor
  split
  · exact Kept.refl _
  · split
    · exact Kept.refl _
    · extract_lets +onlyGivenNames v0
      clear_value v0
      extract_lets +onlyGivenNames v1
      clear_value v1
      extract_lets +onlyGivenNames v2
      clear_value v2
      extract_lets +onlyGivenNames v3
      clear_value v3
      split
      · exact Kept.refl _
      · extract_lets +onlyGivenNames v4
        clear_value v4
        split
        · exact Kept.refl _
        · extract_lets +onlyGivenNames v5
          clear_value v5
          extract_lets +onlyGivenNames v6
          clear_value v6
          extract_lets +onlyGivenNames v7
          have h8 : Kept s v7 := by
            unfold v7
            refine Kept.trans ?_ (setJob_kept _ _)
            exact Kept.refl _
          clear_value v7
          extract_lets +onlyGivenNames v9
          have h10 : Kept s v9 := by
            unfold v9
            refine Kept.trans ?_ (useCycles_kept _ _ _ _)
            assumption
          clear_value v9
          split
          · assumption
          · refine Kept.trans ?_ (raiseLimited_kept _ _ _ _ _ _)
            assumption

theorem decodeStores_kept : ∀ key s, Kept s (decodeStores key s) := by
  intro key s
  unfold decodeStores
  refine Kept.foldl (fun y x => ?_) ?_
  · split
    · exact Kept.refl _
    · split
      · exact Kept.refl _
      · split
        · exact Kept.refl _
        · refine Kept.foldl (fun y x => ?_) ?_
          · refine Kept.trans ?_ (decodeFor_kept _ _ _ _ _ _)
            exact Kept.refl _
          · exact Kept.refl _
  · exact Kept.refl _

theorem custPlan_kept : ∀ key s, Kept s (custPlan key s) := by
  intro key s
  unfold custPlan
  extract_lets +onlyGivenNames v0
  have h1 : Kept s v0 := by
    unfold v0
    refine Kept.trans ?_ (decodeStores_kept _ _)
    refine Kept.trans ?_ (loadQueries_kept _ _)
    exact Kept.refl _
  clear_value v0
  split
  · assumption
  · split
    · assumption
    · extract_lets +onlyGivenNames v2
      clear_value v2
      extract_lets +onlyGivenNames v3
      clear_value v3
      extract_lets +onlyGivenNames v4
      have h5 : Kept s v4 := by
        unfold v4
        refine Kept.trans ?_ (askPieces_kept _ _ _ _ _ _)
        assumption
      clear_value v4
      split
      · assumption
      · refine Kept.foldl (fun y x => ?_) ?_
        · extract_lets +onlyGivenNames v6
          clear_value v6
          refine Kept.trans ?_ (askPieces_kept _ _ _ _ _ _)
          exact Kept.refl _
        · assumption

/-! Change -/

theorem putEntry_kept : ∀ i e s, Kept s (putEntry i e s) := by
  intro i e s
  unfold putEntry
  refine Kept.setMan (X := s) ?_ _
  exact Kept.refl _

theorem mapEntry_kept : ∀ i e s, Kept s (mapEntry i e s) := by
  intro i e s
  unfold mapEntry
  refine Kept.trans ?_ (putEntry_kept _ _ _)
  exact Kept.refl _

theorem revokeEntry_kept : ∀ i s, Kept s (revokeEntry i s) := by
  intro i s
  unfold revokeEntry
  extract_lets +onlyGivenNames v0
  clear_value v0
  refine Kept.trans ?_ (putEntry_kept _ _ _)
  exact Kept.refl _

theorem setRoute_kept : ∀ m at_ s, Kept s (setRoute m at_ s) := by
  intro m at_ s
  unfold setRoute
  refine Kept.setMan (X := s) ?_ _
  exact Kept.refl _

theorem onGroup_kept : ∀ g f s, Kept s (onGroup g f s) := by
  intro g f s
  unfold onGroup
  split
  · exact Kept.refl _
  · refine Kept.setMan (X := s) ?_ _
    exact Kept.refl _

theorem putCharter_kept : ∀ c x s, Kept s (putCharter c x s) := by
  intro c x s
  unfold putCharter
  refine Kept.setMan (X := s) ?_ _
  exact Kept.refl _

theorem turnEpoch_kept : ∀ c s, Kept s (turnEpoch c s) := by
  intro c s
  unfold turnEpoch
  split
  · exact Kept.refl _
  · extract_lets +onlyGivenNames v0
    clear_value v0
    extract_lets +onlyGivenNames v1
    clear_value v1
    extract_lets +onlyGivenNames v2
    have h3 : Kept s v2 := by
      unfold v2
      refine Kept.trans ?_ (putCharter_kept _ _ _)
      exact Kept.refl _
    clear_value v2
    refine Kept.setMan (X := v2) ?_ _
    assumption

theorem configure_kept : ∀ c at_ s, Kept s (configure c at_ s) := by
  intro c at_ s
  unfold configure
  split
  · refine Kept.trans ?_ (mapEntry_kept _ _ _)
    exact Kept.refl _
  · refine Kept.trans ?_ (revokeEntry_kept _ _)
    exact Kept.refl _
  · refine Kept.setMan (X := s) ?_ _
    exact Kept.refl _
  · refine Kept.trans ?_ (setRoute_kept _ _ _)
    exact Kept.refl _
  · extract_lets +onlyGivenNames v0
    have h1 : Kept s v0 := by
      unfold v0
      refine Kept.trans ?_ (setRoute_kept _ _ _)
      exact Kept.refl _
    clear_value v0
    refine Kept.setMan (X := v0) ?_ _
    assumption
  · extract_lets +onlyGivenNames v2
    have h3 : Kept s v2 := by
      unfold v2
      refine Kept.trans ?_ (setRoute_kept _ _ _)
      exact Kept.refl _
    clear_value v2
    refine Kept.setMan (X := v2) ?_ _
    assumption
  · refine Kept.setTide (X := s) ?_ _
    exact Kept.refl _
  · extract_lets +onlyGivenNames v4
    clear_value v4
    refine Kept.setMan (X := s) ?_ _
    exact Kept.refl _
  · refine Kept.setMan (X := s) ?_ _
    exact Kept.refl _
  · refine Kept.trans ?_ (onGroup_kept _ _ _)
    exact Kept.refl _
  · refine Kept.trans ?_ (onGroup_kept _ _ _)
    exact Kept.refl _
  · refine Kept.trans ?_ (onGroup_kept _ _ _)
    exact Kept.refl _
  · refine Kept.trans ?_ (putCharter_kept _ _ _)
    exact Kept.refl _
  · extract_lets +onlyGivenNames v5
    clear_value v5
    refine Kept.setMan (X := s) ?_ _
    exact Kept.refl _
  · refine Kept.trans ?_ (turnEpoch_kept _ _)
    exact Kept.refl _
  · split
    · exact Kept.refl _
    · extract_lets +onlyGivenNames v6
      have h7 : Kept s v6 := by
        unfold v6
        refine Kept.trans ?_ (putCharter_kept _ _ _)
        exact Kept.refl _
      clear_value v6
      extract_lets +onlyGivenNames v8
      clear_value v8
      extract_lets +onlyGivenNames v9
      have h10 : Kept s v9 := by
        unfold v9
        refine Kept.setMan (X := v6) ?_ _
        assumption
      clear_value v9
      refine Kept.foldl (fun y x => ?_) ?_
      · refine Kept.trans ?_ (revokeEntry_kept _ _)
        exact Kept.refl _
      · assumption
  · refine Kept.foldl (fun y x => ?_) ?_
    · refine Kept.trans ?_ (mapEntry_kept _ _ _)
      exact Kept.refl _
    · exact Kept.refl _
  · exact Kept.refl _

theorem projected_kept : ∀ at_ self_ s, Kept s (projected at_ self_ s) := by
  intro at_ self_ s
  unfold projected
  refine Kept.foldl (fun y x => ?_) ?_
  · refine Kept.trans ?_ (configure_kept _ _ _)
    exact Kept.refl _
  · exact Kept.refl _

theorem loadKey_kept : ∀ id c s, Kept s (loadKey id c s) := by
  intro id c s
  unfold loadKey
  split
  · exact Kept.refl _
  · refine Kept.of (X := s) ?_ rfl rfl rfl rfl rfl rfl rfl rfl
    exact Kept.refl _

theorem sendUncertain_kept : ∀ c s, Kept s (sendUncertain c s) := by
  intro c s
  unfold sendUncertain
  split
  · extract_lets +onlyGivenNames v0
    clear_value v0
    split
    · refine Kept.foldl (fun y x => ?_) ?_
      · refine Kept.trans ?_ (control_kept _ _ _ _)
        exact Kept.refl _
      · exact Kept.refl _
    · exact Kept.refl _
  · exact Kept.refl _

theorem startMoves_kept : ∀ id c s, Kept s (startMoves id c s) := by
  intro id c s
  unfold startMoves
  split
  · extract_lets +onlyGivenNames v0
    clear_value v0
    refine Kept.foldl (fun y x => ?_) ?_
    · refine Kept.trans ?_ (moveNext_kept _ _ _)
      refine Kept.setHome (X := y) ?_ _
      exact Kept.refl _
    · exact Kept.refl _
  · exact Kept.refl _

theorem storeNotice_kept : ∀ id c at_ ok s, Kept s (storeNotice id c at_ ok s) := by
  intro id c at_ ok s
  unfold storeNotice
  extract_lets +onlyGivenNames v0
  clear_value v0
  extract_lets +onlyGivenNames v1
  clear_value v1
  extract_lets +onlyGivenNames v2
  have h3 : Kept s v2 := by
    unfold v2
    refine Kept.setMan (X := s) ?_ _
    exact Kept.refl _
  clear_value v2
  split
  · refine Kept.trans ?_ (leaveLines_kept _)
    refine Kept.trans ?_ (startMoves_kept _ _ _)
    refine Kept.trans ?_ (sendUncertain_kept _ _)
    refine Kept.trans ?_ (loadKey_kept _ _ _)
    assumption
  · assumption

theorem issue_kept : ∀ h command c at_ s, Kept s (issue h command c at_ s) := by
  intro h command c at_ s
  unfold issue
  extract_lets +onlyGivenNames v0
  clear_value v0
  extract_lets +onlyGivenNames v1
  clear_value v1
  extract_lets +onlyGivenNames v2
  clear_value v2
  extract_lets +onlyGivenNames v3
  clear_value v3
  extract_lets +onlyGivenNames v4
  clear_value v4
  extract_lets +onlyGivenNames v5
  have h6 : Kept s v5 := by
    unfold v5
    refine Kept.setMan (X := s) ?_ _
    exact Kept.refl _
  clear_value v5
  extract_lets +onlyGivenNames v7
  have h8 : Kept s v7 := by
    unfold v7
    refine Kept.trans ?_ (broadcast_kept _ _ _)
    assumption
  clear_value v7
  extract_lets +onlyGivenNames v9
  have h10 : Kept s v9 := by
    unfold v9
    refine Kept.trans ?_ (storeNotice_kept _ _ _ _ _)
    assumption
  clear_value v9
  refine Kept.trans ?_ (commitReady_kept _ _)
  assumption

theorem just_kept : ∀ c s, Kept s (just c s).2 := by
  intro c s
  unfold just
  dsimp only
  exact Kept.refl _

theorem drawKey_kept : ∀ s, Kept s (drawKey s).2 := by
  intro s
  unfold drawKey
  dsimp only
  refine Kept.setFreeCount (X := s) ?_ _
  exact Kept.refl _

theorem keyFor_kept : ∀ source key s, Kept s (keyFor source key s).2 := by
  intro source key s
  unfold keyFor
  split
  · refine Kept.trans ?_ (drawKey_kept _)
    exact Kept.refl _
  · split
    · dsimp only
      exact Kept.refl _
    · dsimp only
      exact Kept.refl _

theorem endGrace_kept : ∀ s, Kept s (endGrace s) := by
  intro s
  unfold endGrace
  split
  · refine Kept.setMan (X := s) ?_ _
    exact Kept.refl _
  · exact Kept.refl _

/-! Tiers -/

theorem dropCopies_kept : ∀ s, Kept s (dropCopies s) := by
  intro s
  unfold dropCopies
  extract_lets +onlyGivenNames v0
  clear_value v0
  refine Kept.foldl (fun y x => ?_) ?_
  · refine Kept.trans ?_ (raise_kept _ _ _)
    exact Kept.refl _
  · refine Kept.setCopies (X := s) ?_ _
    exact Kept.refl _

theorem placeBegin_kept : ∀ key d s, Kept s (placeBegin key d s) := by
  intro key d s
  unfold placeBegin
  split
  · refine Kept.trans ?_ (stopJob_kept _ _ _)
    refine Kept.trans ?_ (recordReason_kept _ _)
    exact Kept.refl _
  · extract_lets +onlyGivenNames v0
    clear_value v0
    refine Kept.setCopies (X := s) ?_ _
    exact Kept.refl _

theorem placeEnd_kept : ∀ key reason s, Kept s (placeEnd key reason s) := by
  intro key reason s
  unfold placeEnd
  split
  · refine Kept.setCopies (X := s) ?_ _
    exact Kept.refl _
  · refine Kept.setCopies (X := s) ?_ _
    exact Kept.refl _

theorem copyPlan_kept : ∀ key s, Kept s (copyPlan key s) := by
  intro key s
  unfold copyPlan
  split
  · exact Kept.refl _
  · split
    · exact Kept.refl _
    · split
      · refine Kept.trans ?_ (askPieces_kept _ _ _ _ _ _)
        exact Kept.refl _
      · exact Kept.refl _

theorem copyGranule_kept : ∀ key src dp dst x s, Kept s (copyGranule key src dp dst x s) := by
  intro key src dp dst x s
  unfold copyGranule
  split
  · exact Kept.refl _
  · split
    · exact Kept.refl _
    · extract_lets +onlyGivenNames v0
      clear_value v0
      extract_lets +onlyGivenNames v1
      clear_value v1
      extract_lets +onlyGivenNames v2
      clear_value v2
      refine Kept.trans ?_ (outWrite_kept _ _ _ _ _ _ _)
      refine Kept.trans ?_ (setJob_kept _ _)
      exact Kept.refl _

theorem copySlice_kept : ∀ key w s, Kept s (copySlice key w s) := by
  intro key w s
  unfold copySlice
  split
  · exact Kept.refl _
  · split
    · exact Kept.refl _
    · split
      · extract_lets +onlyGivenNames v0
        clear_value v0
        split
        · exact Kept.refl _
        · extract_lets +onlyGivenNames v1
          have h2 : Kept s v1 := by
            unfold v1
            refine Kept.foldl (fun y x => ?_) ?_
            · refine Kept.trans ?_ (copyGranule_kept _ _ _ _ _ _)
              exact Kept.refl _
            · refine Kept.trans ?_ (useCycles_kept _ _ _ _)
              exact Kept.refl _
          clear_value v1
          refine Kept.trans ?_ (copyPlan_kept _ _)
          assumption
      · exact Kept.refl _

/-! Stream -/

theorem setStream_kept : ∀ key p s, Kept s (setStream key p s) := by
  intro key p s
  unfold setStream
  split
  · exact Kept.refl _
  · refine Kept.trans ?_ (setJob_kept _ _)
    exact Kept.refl _

theorem streamFill_kept : ∀ d s, Kept s (streamFill d s).2 := by
  intro d s
  unfold streamFill
  extract_lets +onlyGivenNames v0
  clear_value v0
  extract_lets +onlyGivenNames v1
  clear_value v1
  extract_lets +onlyGivenNames v2
  clear_value v2
  extract_lets +onlyGivenNames v3
  have h4 : Kept s v3.2 := by
    unfold v3
    refine Kept.trans ?_ (firmwareArea_kept _ _)
    exact Kept.refl _
  clear_value v3
  dsimp only
  assumption

theorem streamPlan_kept : ∀ key s, Kept s (streamPlan key s) := by
  intro key s
  unfold streamPlan
  split
  · exact Kept.refl _
  · split
    · exact Kept.refl _
    · split
      · exact Kept.refl _
      · split
        · exact Kept.refl _
        · split
          · exact Kept.refl _
          · extract_lets +onlyGivenNames v0
            clear_value v0
            split
            · exact Kept.refl _
            · refine Kept.trans ?_ (askPieces_kept _ _ _ _ _ _)
              refine Kept.trans ?_ (setStream_kept _ _ _)
              exact Kept.refl _

theorem landBlock_kept : ∀ key g shadow i poison header data gens s, Kept s (landBlock key g shadow i poison header data gens s) := by
  intro key g shadow i poison header data gens s
  unfold landBlock
  split
  · exact Kept.refl _
  · split
    · exact Kept.refl _
    · extract_lets +onlyGivenNames v0
      clear_value v0
      extract_lets +onlyGivenNames v1
      clear_value v1
      extract_lets +onlyGivenNames v2
      clear_value v2
      extract_lets +onlyGivenNames v3
      clear_value v3
      extract_lets +onlyGivenNames v4
      clear_value v4
      extract_lets +onlyGivenNames v5
      clear_value v5
      extract_lets +onlyGivenNames v6
      clear_value v6
      extract_lets +onlyGivenNames v7
      clear_value v7
      split
      · split
        · refine Kept.trans ?_ (stopJob_kept _ _ _)
          refine Kept.trans ?_ (recordReason_kept _ _)
          exact Kept.refl _
        · extract_lets +onlyGivenNames v8
          clear_value v8
          extract_lets +onlyGivenNames v9
          have h10 : Kept s v9 := by
            unfold v9
            refine Kept.trans ?_ (setStream_kept _ _ _)
            exact Kept.refl _
          clear_value v9
          extract_lets +onlyGivenNames v11
          have h12 : Kept s v11 := by
            unfold v11
            refine Kept.trans ?_ (stageWrite_kept _ _ _ _ _)
            assumption
          clear_value v11
          split
          · assumption
          · refine Kept.trans ?_ (stageWrite_kept _ _ _ _ _)
            assumption
      · split
        · refine Kept.trans ?_ (stopJob_kept _ _ _)
          refine Kept.trans ?_ (recordReason_kept _ _)
          exact Kept.refl _
        · extract_lets +onlyGivenNames v13
          clear_value v13
          extract_lets +onlyGivenNames v14
          have h15 : Kept s v14 := by
            unfold v14
            refine Kept.trans ?_ (setStream_kept _ _ _)
            exact Kept.refl _
          clear_value v14
          extract_lets +onlyGivenNames v16
          have h17 : Kept s v16 := by
            unfold v16
            assumption
          clear_value v16
          split
          · assumption
          · refine Kept.trans ?_ (stageWrite_kept _ _ _ _ _)
            assumption

theorem sendRecord'_kept : ∀ j d g s, Kept s (sendRecord' j d g s) := by
  intro j d g s
  unfold sendRecord'
  extract_lets +onlyGivenNames v0
  clear_value v0
  refine Kept.trans ?_ (enterGroup_kept _ _ _ _ _ _ _ _)
  refine Kept.trans ?_ (emit_kept _ _)
  exact Kept.refl _

theorem openDelivery_kept : ∀ key shadow deadline s, Kept s (openDelivery key shadow deadline s) := by
  intro key shadow deadline s
  unfold openDelivery
  split
  · exact Kept.refl _
  · split
    · exact Kept.refl _
    · extract_lets +onlyGivenNames v0
      clear_value v0
      extract_lets +onlyGivenNames v1
      have h2 : Kept s v1 := by
        unfold v1
        refine Kept.trans ?_ (setStream_kept _ _ _)
        exact Kept.refl _
      clear_value v1
      extract_lets +onlyGivenNames v3
      have h4 : Kept s v3 := by
        unfold v3
        refine Kept.trans ?_ (sendRecord'_kept _ _ _ _)
        assumption
      clear_value v3
      split
      · refine Kept.trans ?_ (raise_kept _ _ _)
        assumption
      · assumption

theorem abandonDelivery_kept : ∀ key code s, Kept s (abandonDelivery key code s) := by
  intro key code s
  unfold abandonDelivery
  split
  · exact Kept.refl _
  · split
    · exact Kept.refl _
    · split
      · exact Kept.refl _
      · refine Kept.trans ?_ (sendRecord'_kept _ _ _ _)
        refine Kept.trans ?_ (setStream_kept _ _ _)
        exact Kept.refl _

theorem streamSlice_kept : ∀ key w s, Kept s (streamSlice key w s) := by
  intro key w s
  unfold streamSlice
  split
  · exact Kept.refl _
  · split
    · exact Kept.refl _
    · split
      · extract_lets +onlyGivenNames v0
        clear_value v0
        extract_lets +onlyGivenNames v1
        clear_value v1
        extract_lets +onlyGivenNames v2
        clear_value v2
        extract_lets +onlyGivenNames v3
        clear_value v3
        extract_lets +onlyGivenNames v4
        clear_value v4
        extract_lets +onlyGivenNames v5
        clear_value v5
        split
        · exact Kept.refl _
        · extract_lets +onlyGivenNames v6
          have h7 : Kept s v6 := by
            unfold v6
            refine Kept.trans ?_ (useCycles_kept _ _ _ _)
            exact Kept.refl _
          clear_value v6
          extract_lets +onlyGivenNames v8
          have h9 : Kept s v8 := by
            unfold v8
            split
            · refine Kept.trans ?_ (useCycles_kept _ _ _ _)
              assumption
            · assumption
          clear_value v8
          extract_lets +onlyGivenNames v10
          clear_value v10
          extract_lets +onlyGivenNames v11
          clear_value v11
          extract_lets +onlyGivenNames v12
          clear_value v12
          extract_lets +onlyGivenNames v13
          have h14 : Kept s v13 := by
            unfold v13
            refine Kept.foldl (fun y x => ?_) ?_
            · refine Kept.trans ?_ (sendRecord'_kept _ _ _ _)
              exact Kept.refl _
            · assumption
          clear_value v13
          refine Kept.trans ?_ (setStream_kept _ _ _)
          assumption
      · exact Kept.refl _

theorem streamTide_kept : ∀ key s, Kept s (streamTide key s) := by
  intro key s
  unfold streamTide
  split
  · exact Kept.refl _
  · split
    · exact Kept.refl _
    · refine Kept.trans ?_ (streamPlan_kept _ _)
      refine Kept.trans ?_ (setStream_kept _ _ _)
      exact Kept.refl _

/-! Plan -/

theorem planEngine_kept : ∀ k e now others s, Kept s (planEngine k e now others s) := by
  intro k e now others s
  unfold planEngine
  extract_lets +onlyGivenNames v0
  clear_value v0
  extract_lets +onlyGivenNames v1
  clear_value v1
  extract_lets +onlyGivenNames v2
  clear_value v2
  extract_lets +onlyGivenNames v3
  clear_value v3
  split
  · exact Kept.refl _
  · refine Kept.trans ?_ (setBook_kept _ _ _ _)
    exact Kept.refl _

theorem planKind_kept : ∀ k s, Kept s (planKind k s) := by
  intro k s
  unfold planKind
  extract_lets +onlyGivenNames v0
  clear_value v0
  refine Kept.foldl (fun y x => ?_) ?_
  · extract_lets +onlyGivenNames v1
    clear_value v1
    extract_lets +onlyGivenNames v2
    clear_value v2
    extract_lets +onlyGivenNames v3
    clear_value v3
    refine Kept.trans ?_ (planEngine_kept _ _ _ _ _)
    exact Kept.refl _
  · exact Kept.refl _

theorem bindCodecs_kept : ∀ s, Kept s (bindCodecs s) := by
  intro s
  unfold bindCodecs
  extract_lets +onlyGivenNames v0
  clear_value v0
  extract_lets +onlyGivenNames v1
  have h2 : Kept s v1 := by
    unfold v1
    refine Kept.foldl (fun y x => ?_) ?_
    · split
      · split
        · refine Kept.trans ?_ (setBook_kept _ _ _ _)
          exact Kept.refl _
        · exact Kept.refl _
      · exact Kept.refl _
    · exact Kept.refl _
  clear_value v1
  refine Kept.foldl (fun y x => ?_) ?_
  · extract_lets +onlyGivenNames v3
    clear_value v3
    refine Kept.foldl (fun y x => ?_) ?_
    · refine Kept.trans ?_ (setBook_kept _ _ _ _)
      exact Kept.refl _
    · exact Kept.refl _
  · assumption

theorem freshBooks_kept : ∀ s, Kept s (freshBooks s) := by
  intro s
  unfold freshBooks
  refine Kept.setEngines (X := s) ?_ _
  exact Kept.refl _

theorem planTide_kept : ∀ s, Kept s (planTide s) := by
  intro s
  unfold planTide
  refine Kept.trans ?_ (planKind_kept _ _)
  refine Kept.trans ?_ (planKind_kept _ _)
  refine Kept.trans ?_ (planKind_kept _ _)
  refine Kept.trans ?_ (planKind_kept _ _)
  exact Kept.refl _

theorem unitDone_kept : ∀ k e key w s, Kept s (unitDone k e key w s) := by
  intro k e key w s
  unfold unitDone
  split
  · refine Kept.trans ?_ (sumBag_kept _ _ _)
    exact Kept.refl _
  · refine Kept.trans ?_ (craneUnit_kept _ _ _)
    exact Kept.refl _
  · refine Kept.trans ?_ (stevUnit_kept _ _ _ _)
    exact Kept.refl _
  · refine Kept.trans ?_ (custUnit_kept _ _ _ _)
    exact Kept.refl _
  · refine Kept.trans ?_ (codecUnit_kept _ _ _ _)
    exact Kept.refl _
  · exact Kept.refl _

/-! Slice -/

theorem jobPlan_kept : ∀ key s, Kept s (jobPlan key s) := by
  intro key s
  unfold jobPlan
  split
  · exact Kept.refl _
  · split
    · exact Kept.refl _
    · refine Kept.trans ?_ (stevPlan_kept _ _)
      exact Kept.refl _
    · refine Kept.trans ?_ (custPlan_kept _ _)
      exact Kept.refl _
    · refine Kept.trans ?_ (codecPlan_kept _ _)
      exact Kept.refl _
    · refine Kept.trans ?_ (streamPlan_kept _ _)
      exact Kept.refl _
    · refine Kept.trans ?_ (copyPlan_kept _ _)
      exact Kept.refl _
    · refine Kept.trans ?_ (copyPlan_kept _ _)
      exact Kept.refl _

theorem jobLand_kept : ∀ key s, Kept s (jobLand key s) := by
  intro key s
  unfold jobLand
  split
  · exact Kept.refl _
  · split
    · refine Kept.trans ?_ (recordWritten_kept _ _)
      exact Kept.refl _
    · refine Kept.trans ?_ (stevPlan_kept _ _)
      refine Kept.trans ?_ (stevLand_kept _ _)
      exact Kept.refl _
    · refine Kept.trans ?_ (codecLand_kept _ _)
      exact Kept.refl _
    · refine Kept.trans ?_ (jobPlan_kept _ _)
      exact Kept.refl _

theorem trySeals_kept : ∀ key s, Kept s (trySeals key s) := by
  intro key s
  unfold trySeals
  split
  · exact Kept.refl _
  · split
    · extract_lets +onlyGivenNames v0
      clear_value v0
      refine Kept.trans ?_ (sendSeals_kept _ _ _ _)
      exact Kept.refl _
    · exact Kept.refl _

theorem attemptSeed_kept : ∀ d s, Kept s (attemptSeed d s).2 := by
  intro d s
  unfold attemptSeed
  extract_lets +onlyGivenNames v0
  clear_value v0
  split
  · refine Kept.trans ?_ (draw_kept _)
    exact Kept.refl _
  · dsimp only
    exact Kept.refl _

theorem beginAttempt_kept : ∀ key s, Kept s (beginAttempt key s) := by
  intro key s
  unfold beginAttempt
  split
  · exact Kept.refl _
  · extract_lets +onlyGivenNames v0
    have h1 : Kept s v0.2 := by
      unfold v0
      refine Kept.trans ?_ (attemptSeed_kept _ _)
      exact Kept.refl _
    clear_value v0
    extract_lets +onlyGivenNames v2
    have h3 : Kept s v2 := by
      unfold v2
      assumption
    clear_value v2
    extract_lets +onlyGivenNames v4
    clear_value v4
    extract_lets +onlyGivenNames v5
    clear_value v5
    extract_lets +onlyGivenNames v6
    have h7 : Kept s v6 := by
      unfold v6
      refine Kept.trans ?_ (setJob_kept _ _)
      assumption
    clear_value v6
    extract_lets +onlyGivenNames v8
    have h9 : Kept s v8 := by
      unfold v8
      refine Kept.foldl (fun y x => ?_) ?_
      · refine Kept.trans ?_ (acquireArea_kept _ _ _ _)
        exact Kept.refl _
      · assumption
    clear_value v8
    extract_lets +onlyGivenNames v10
    have h11 : Kept s v10 := by
      unfold v10
      refine Kept.foldl (fun y x => ?_) ?_
      · refine Kept.trans ?_ (jobFence_kept _ _ _)
        exact Kept.refl _
      · assumption
    clear_value v10
    extract_lets +onlyGivenNames v12
    have h13 : Kept s v12 := by
      unfold v12
      split
      · refine Kept.trans ?_ (craneBegin_kept _ _)
        assumption
      · refine Kept.trans ?_ (placeBegin_kept _ _ _)
        assumption
      · assumption
    clear_value v12
    refine Kept.trans ?_ (jobPlan_kept _ _)
    assumption

theorem leaveJob_kept : ∀ key reason s, Kept s (leaveJob key reason s) := by
  intro key reason s
  unfold leaveJob
  split
  · exact Kept.refl _
  · split
    · exact Kept.refl _
    · extract_lets +onlyGivenNames v0
      have h1 : Kept s v0 := by
        unfold v0
        refine Kept.trans ?_ (supersede_kept _ _)
        refine Kept.trans ?_ (segToDevice_kept _ _ _ _)
        exact Kept.refl _
      clear_value v0
      split
      · refine Kept.trans ?_ (dropJob_kept _ _)
        assumption
      · split
        · assumption
        · refine Kept.trans ?_ (setJob_kept _ _)
          assumption

theorem endJob_kept : ∀ key reason s, Kept s (endJob key reason s) := by
  intro key reason s
  unfold endJob
  split
  · exact Kept.refl _
  · split
    · refine Kept.trans ?_ (leaveJob_kept _ _ _)
      exact Kept.refl _
    · extract_lets +onlyGivenNames v0
      have h1 : Kept s v0 := by
        unfold v0
        refine Kept.trans ?_ (supersede_kept _ _)
        refine Kept.trans ?_ (sendDones_kept _ _ _)
        exact Kept.refl _
      clear_value v0
      extract_lets +onlyGivenNames v2
      have h3 : Kept s v2 := by
        unfold v2
        refine Kept.trans ?_ (abandonDelivery_kept _ _ _)
        assumption
      clear_value v2
      extract_lets +onlyGivenNames v4
      have h5 : Kept s v4 := by
        unfold v4
        split
        · refine Kept.trans ?_ (placeEnd_kept _ _ _)
          assumption
        · assumption
      clear_value v4
      split
      · assumption
      · refine Kept.trans ?_ (completeJob_kept _ _ _ _)
        assumption

theorem startAttempt_kept : ∀ key s, Kept s (startAttempt key s) := by
  intro key s
  unfold startAttempt
  split
  · exact Kept.refl _
  · split
    · exact Kept.refl _
    · split
      · refine Kept.trans ?_ (endJob_kept _ _ _)
        refine Kept.trans ?_ (countRemoval_kept _ _ _ _ _)
        exact Kept.refl _
      · split
        · exact Kept.refl _
        · split
          · refine Kept.trans ?_ (endJob_kept _ _ _)
            exact Kept.refl _
          · extract_lets +onlyGivenNames v0
            clear_value v0
            extract_lets +onlyGivenNames v1
            have h2 : Kept s v1 := by
              unfold v1
              refine Kept.trans ?_ (logJob_kept _ _ _ _ _)
              refine Kept.trans ?_ (setJob_kept _ _)
              exact Kept.refl _
            clear_value v1
            split
            · refine Kept.trans ?_ (beginAttempt_kept _ _)
              assumption
            · assumption

theorem reissueJob_kept : ∀ key s, Kept s (reissueJob key s) := by
  intro key s
  unfold reissueJob
  split
  · exact Kept.refl _
  · split
    · split
      · exact Kept.refl _
      · refine Kept.trans ?_ (dropJob_kept _ _)
        refine Kept.trans ?_ (supersede_kept _ _)
        exact Kept.refl _
    · split
      · refine Kept.trans ?_ (setJob_kept _ _)
        exact Kept.refl _
      · refine Kept.trans ?_ (supersede_kept _ _)
        refine Kept.trans ?_ (setJob_kept _ _)
        exact Kept.refl _
      · exact Kept.refl _
      · exact Kept.refl _

theorem applyExclusions_kept : ∀ key s, Kept s (applyExclusions key s) := by
  intro key s
  unfold applyExclusions
  split
  · exact Kept.refl _
  · split
    · exact Kept.refl _
    · refine Kept.foldl (fun y x => ?_) ?_
      · refine Kept.trans ?_ (applyExclusion_kept _ _ _)
        exact Kept.refl _
      · refine Kept.trans ?_ (setCrane_kept _ _ _)
        exact Kept.refl _

end Sys2Proof.Machine
end

