-- ==== Sys2Proof/Laws/KeptRing.lean ====
section
/-! SUPPORT. One lemma per operation of the coherent class, the ring, redundancy, the firmware and the boundary changes: what it keeps. -/

namespace Sys2Proof.Machine
open Sys2Proof

/-! Coherent -/

theorem unlist_kept : ∀ line d s, Kept s (unlist line d s) := by
  intro line d s
  unfold unlist
  split
  · exact Kept.refl _
  · refine Kept.trans ?_ (setDir_kept _ _)
    exact Kept.refl _

theorem reAsk_kept : ∀ r s, Kept s (reAsk r s) := by
  intro r s
  unfold reAsk
  extract_lets +onlyGivenNames v0
  clear_value v0
  extract_lets +onlyGivenNames v1
  clear_value v1
  extract_lets +onlyGivenNames v2
  clear_value v2
  extract_lets +onlyGivenNames v3
  clear_value v3
  extract_lets +onlyGivenNames v4
  clear_value v4
  extract_lets +onlyGivenNames v5
  have h6 : Kept s v5 := by
    unfold v5
    refine Kept.setHome (X := s) ?_ _
    exact Kept.refl _
  clear_value v5
  refine Kept.trans ?_ (ringSend_kept _ _ _)
  assumption

theorem countHead_kept : ∀ key s, Kept s (countHead key s) := by
  intro key s
  unfold countHead
  extract_lets +onlyGivenNames v0
  clear_value v0
  split
  · exact Kept.refl _
  · refine Kept.trans ?_ (setQueue_kept _ _ _)
    exact Kept.refl _

theorem landLine_kept : ∀ line entry e data lost drain s, Kept s (landLine line entry e data lost drain s) := by
  intro line entry e data lost drain s
  unfold landLine
  extract_lets +onlyGivenNames v0
  clear_value v0
  extract_lets +onlyGivenNames v1
  clear_value v1
  split
  · extract_lets +onlyGivenNames v2
    have h3 : Kept s v2 := by
      unfold v2
      refine Kept.trans ?_ (raise_kept _ _ _)
      exact Kept.refl _
    clear_value v2
    extract_lets +onlyGivenNames v4
    clear_value v4
    extract_lets +onlyGivenNames v5
    have h6 : Kept s v5 := by
      unfold v5
      refine Kept.trans ?_ (pushRequest_kept _ _ _ _)
      assumption
    clear_value v5
    split
    · refine Kept.trans ?_ (countHead_kept _ _)
      assumption
    · assumption
  · split
    · split
      · refine Kept.trans ?_ (drainOne_kept _ _)
        exact Kept.refl _
      · exact Kept.refl _
    · extract_lets +onlyGivenNames v7
      have h8 : Kept s v7 := by
        unfold v7
        refine Kept.trans ?_ (pushRequest_kept _ _ _ _)
        exact Kept.refl _
      clear_value v7
      split
      · refine Kept.trans ?_ (countHead_kept _ _)
        assumption
      · assumption

theorem finishRound_kept : ∀ r s, Kept s (finishRound r s) := by
  intro r s
  unfold finishRound
  extract_lets +onlyGivenNames v0
  clear_value v0
  extract_lets +onlyGivenNames v1
  have h2 : Kept s v1 := by
    unfold v1
    split
    · refine Kept.trans ?_ (setDir_kept _ _)
      exact Kept.refl _
    · exact Kept.refl _
  clear_value v1
  split
  · refine Kept.trans ?_ (setRound_kept _ _)
    assumption
  · extract_lets +onlyGivenNames v3
    clear_value v3
    extract_lets +onlyGivenNames v4
    have h5 : Kept s v4 := by
      unfold v4
      refine Kept.setHome (X := v1) ?_ _
      assumption
    clear_value v4
    extract_lets +onlyGivenNames v6
    clear_value v6
    extract_lets +onlyGivenNames v7
    clear_value v7
    split
    · refine Kept.trans ?_ (nextRecall_kept _)
      refine Kept.trans ?_ (landLine_kept _ _ _ _ _ _ _)
      refine Kept.trans ?_ (dropDir_kept _ _)
      assumption
    · split
      · assumption
      · extract_lets +onlyGivenNames v8
        have h9 : Kept s v8 := by
          unfold v8
          split
          · split
            · refine Kept.trans ?_ (setDir_kept _ _)
              assumption
            · assumption
          · assumption
        clear_value v8
        split
        · extract_lets +onlyGivenNames v10
          clear_value v10
          refine Kept.trans ?_ (landLine_kept _ _ _ _ _ _ _)
          refine Kept.trans ?_ (setBatch_kept _ _ _)
          assumption
        · refine Kept.trans ?_ (pumpReads_kept _ _)
          refine Kept.trans ?_ (setBatch_kept _ _ _)
          assumption

theorem takeAnswer_kept : ∀ d nib r s, Kept s (takeAnswer d nib r s).2.1 := by
  intro d nib r s
  unfold takeAnswer
  extract_lets +onlyGivenNames v0
  clear_value v0
  split
  · dsimp only
    refine Kept.trans ?_ (unlist_kept _ _ _)
    exact Kept.refl _
  · split
    · extract_lets +onlyGivenNames v1
      clear_value v1
      dsimp only
      exact Kept.refl _
    · split
      · split
        · dsimp only
          exact Kept.refl _
        · dsimp only
          refine Kept.setHome (X := s) ?_ _
          exact Kept.refl _
      · dsimp only
        exact Kept.refl _

theorem roundLoses_kept : ∀ d r s, Kept s (roundLoses d r s) := by
  intro d r s
  unfold roundLoses
  split
  · exact Kept.refl _
  · extract_lets +onlyGivenNames v0
    refine Kept.trans ?_ (finishRound_kept _ _)
    refine Kept.trans ?_ (unlist_kept _ _ _)
    exact Kept.refl _

theorem buryDevice_kept : ∀ d s, Kept s (buryDevice d s) := by
  intro d s
  unfold buryDevice
  split
  · exact Kept.refl _
  · extract_lets +onlyGivenNames v0
    clear_value v0
    extract_lets +onlyGivenNames v1
    have h2 : Kept s v1 := by
      unfold v1
      refine Kept.setHome (X := s) ?_ _
      exact Kept.refl _
    clear_value v1
    refine Kept.foldl (fun y x => ?_) ?_
    · split
      · refine Kept.trans ?_ (roundLoses_kept _ _ _)
        exact Kept.refl _
      · exact Kept.refl _
    · assumption

theorem declareDead_kept : ∀ d s, Kept s (declareDead d s) := by
  intro d s
  unfold declareDead
  split
  · exact Kept.refl _
  · refine Kept.trans ?_ (buryDevice_kept _ _)
    refine Kept.trans ?_ (broadcast_kept _ _ _)
    refine Kept.trans ?_ (raise_kept _ _ _)
    exact Kept.refl _

theorem readmit_kept : ∀ d s, Kept s (readmit d s) := by
  intro d s
  unfold readmit
  refine Kept.setHome (X := s) ?_ _
  exact Kept.refl _

theorem roundReturns_kept : ∀ id answers s, Kept s (roundReturns id answers s) := by
  intro id answers s
  unfold roundReturns
  split
  · exact Kept.refl _
  · extract_lets +onlyGivenNames v0
    clear_value v0
    extract_lets +onlyGivenNames v1
    clear_value v1
    extract_lets +onlyGivenNames v2
    have h3 : Kept s v2.2 := by
      unfold v2
      refine Kept.trans ?_ (answerSnoop_kept _ _ _)
      exact Kept.refl _
    clear_value v2
    extract_lets +onlyGivenNames v4
    have h5 : Kept s v4.2 := by
      unfold v4
      split
      · dsimp only
        assumption
      · dsimp only
        exact Kept.refl _
    clear_value v4
    extract_lets +onlyGivenNames v6
    clear_value v6
    extract_lets +onlyGivenNames v7
    have h8 : Kept s v7.2.1 := by
      unfold v7
      refine Kept.foldlP (fun (p : Round × State × List ℕ) => p.2.1) (fun y x => ?_) ?_
      · extract_lets +onlyGivenNames v9
        have h10 : Kept y.2.1 v9.2.1 := by
          unfold v9
          refine Kept.trans ?_ (takeAnswer_kept _ _ _ _)
          exact Kept.refl _
        clear_value v9
        dsimp only
        assumption
      · dsimp only
        assumption
    clear_value v7
    extract_lets +onlyGivenNames v11
    clear_value v11
    extract_lets +onlyGivenNames v12
    clear_value v12
    extract_lets +onlyGivenNames v13
    clear_value v13
    extract_lets +onlyGivenNames v14
    have h15 : Kept s v14 := by
      unfold v14
      refine Kept.trans ?_ (setRound_kept _ _)
      assumption
    clear_value v14
    extract_lets +onlyGivenNames v16
    have h17 : Kept s v16 := by
      unfold v16
      refine Kept.foldl (fun y x => ?_) ?_
      · refine Kept.trans ?_ (declareDead_kept _ _)
        exact Kept.refl _
      · assumption
    clear_value v16
    split
    · assumption
    · split
      · refine Kept.trans ?_ (finishRound_kept _ _)
        assumption
      · split
        · refine Kept.trans ?_ (finishRound_kept _ _)
          assumption
        · refine Kept.trans ?_ (reAsk_kept _ _)
          assumption

theorem releaseAtHome_kept : ∀ r s, Kept s (releaseAtHome r s) := by
  intro r s
  unfold releaseAtHome
  extract_lets +onlyGivenNames v0
  clear_value v0
  extract_lets +onlyGivenNames v1
  clear_value v1
  extract_lets +onlyGivenNames v2
  clear_value v2
  extract_lets +onlyGivenNames v3
  clear_value v3
  extract_lets +onlyGivenNames v4
  clear_value v4
  split
  · refine Kept.trans ?_ (answerTo_kept _ _ _ _ _ _)
    exact Kept.refl _
  · split
    · refine Kept.trans ?_ (answerTo_kept _ _ _ _ _ _)
      exact Kept.refl _
    · extract_lets +onlyGivenNames v5
      have h6 : Kept s v5 := by
        unfold v5
        refine Kept.trans ?_ (answerTo_kept _ _ _ _ _ _)
        exact Kept.refl _
      clear_value v5
      split
      · split
        · refine Kept.trans ?_ (finishRound_kept _ _)
          refine Kept.trans ?_ (unlist_kept _ _ _)
          assumption
        · assumption
      · split
        · assumption
        · split
          · assumption
          · split
            · split
              · refine Kept.trans ?_ (landLine_kept _ _ _ _ _ _ _)
                refine Kept.trans ?_ (dropDir_kept _ _)
                assumption
              · refine Kept.trans ?_ (dropDir_kept _ _)
                assumption
            · extract_lets +onlyGivenNames v7
              clear_value v7
              split
              · refine Kept.trans ?_ (dropDir_kept _ _)
                assumption
              · refine Kept.trans ?_ (setDir_kept _ _)
                assumption

theorem snoopDone_kept : ∀ r s, Kept s (snoopDone r s) := by
  intro r s
  unfold snoopDone
  extract_lets +onlyGivenNames v0
  clear_value v0
  extract_lets +onlyGivenNames v1
  clear_value v1
  split
  · refine Kept.trans ?_ (answerTo_kept _ _ _ _ _ _)
    exact Kept.refl _
  · extract_lets +onlyGivenNames v2
    have h3 : Kept s v2 := by
      unfold v2
      refine Kept.trans ?_ (answerTo_kept _ _ _ _ _ _)
      exact Kept.refl _
    clear_value v2
    split
    · assumption
    · split
      · assumption
      · extract_lets +onlyGivenNames v4
        clear_value v4
        extract_lets +onlyGivenNames v5
        have h6 : Kept s v5 := by
          unfold v5
          split
          · assumption
          · refine Kept.trans ?_ (unlist_kept _ _ _)
            assumption
        clear_value v5
        refine Kept.trans ?_ (finishRound_kept _ _)
        assumption

theorem fillAnswered_kept : ∀ device line taken s, Kept s (fillAnswered device line taken s) := by
  intro device line taken s
  unfold fillAnswered
  split
  · exact Kept.refl _
  · split
    · exact Kept.refl _
    · split
      · refine Kept.trans ?_ (recallStale_kept _ _)
        refine Kept.trans ?_ (setDir_kept _ _)
        exact Kept.refl _
      · refine Kept.trans ?_ (dropDir_kept _ _)
        exact Kept.refl _

theorem scanDirectory_kept : ∀ d s, Kept s (scanDirectory d s) := by
  intro d s
  unfold scanDirectory
  extract_lets +onlyGivenNames v0
  clear_value v0
  extract_lets +onlyGivenNames v1
  have h2 : Kept s v1.2 := by
    unfold v1
    refine Kept.foldlP (fun (p : ℕ × State) => p.2) (fun y x => ?_) ?_
    · split
      · extract_lets +onlyGivenNames v3
        clear_value v3
        dsimp only
        refine Kept.trans ?_ (pushRequest_kept _ _ _ _)
        refine Kept.trans ?_ (dropDir_kept _ _)
        exact Kept.refl _
      · extract_lets +onlyGivenNames v4
        dsimp only
        split
        · refine Kept.trans ?_ (dropDir_kept _ _)
          exact Kept.refl _
        · refine Kept.trans ?_ (setDir_kept _ _)
          exact Kept.refl _
    · dsimp only
      exact Kept.refl _
  clear_value v1
  extract_lets +onlyGivenNames v5
  clear_value v5
  extract_lets +onlyGivenNames v6
  have h7 : Kept s v6 := by
    unfold v6
    assumption
  clear_value v6
  extract_lets +onlyGivenNames v8
  clear_value v8
  extract_lets +onlyGivenNames v9
  have h10 : Kept s v9 := by
    unfold v9
    refine Kept.setHome (X := v6) ?_ _
    assumption
  clear_value v9
  split
  · assumption
  · refine Kept.trans ?_ (raise_kept _ _ _)
    assumption

/-! Ring -/

theorem sendSlot_kept : ∀ x s, Kept s (sendSlot x s) := by
  intro x s
  unfold sendSlot
  split
  · refine Kept.trans ?_ (emit_kept _ _)
    exact Kept.refl _
  · extract_lets +onlyGivenNames v0
    clear_value v0
    refine Kept.trans ?_ (emit_kept _ _)
    refine Kept.setRing (X := s) ?_ _
    exact Kept.refl _

theorem forwardSlot_kept : ∀ x s, Kept s (forwardSlot x s) := by
  intro x s
  unfold forwardSlot
  split
  · exact Kept.refl _
  · refine Kept.trans ?_ (sendSlot_kept _ _)
    exact Kept.refl _

theorem keyBoundary_kept : ∀ charter at_ removal s, Kept s (keyBoundary charter at_ removal s) := by
  intro charter at_ removal s
  unfold keyBoundary
  refine Kept.of (X := s) ?_ rfl rfl rfl rfl rfl rfl rfl rfl
  exact Kept.refl _

theorem takeControl_kept : ∀ code args s, Kept s (takeControl code args s) := by
  intro code args s
  unfold takeControl
  split
  · exact Kept.refl _
  · split
    · split
      · refine Kept.trans ?_ (drained_kept _ _ _)
        exact Kept.refl _
      · exact Kept.refl _
    · split
      · split
        · extract_lets +onlyGivenNames v0
          clear_value v0
          refine Kept.setIng (X := s) ?_ _
          exact Kept.refl _
        · exact Kept.refl _
      · split
        · split
          · refine Kept.setRing (X := s) ?_ _
            exact Kept.refl _
          · exact Kept.refl _
        · split
          · refine Kept.setRing (X := s) ?_ _
            exact Kept.refl _
          · split
            · split
              · refine Kept.of (X := s) ?_ rfl rfl rfl rfl rfl rfl rfl rfl
                exact Kept.refl _
              · exact Kept.refl _
            · split
              · split
                · refine Kept.setRing (X := s) ?_ _
                  exact Kept.refl _
                · exact Kept.refl _
              · split
                · split
                  · refine Kept.trans ?_ (peerQueue_kept _ _ _ _ _)
                    exact Kept.refl _
                  · exact Kept.refl _
                · split
                  · split
                    · refine Kept.trans ?_ (keyBoundary_kept _ _ _ _)
                      exact Kept.refl _
                    · exact Kept.refl _
                  · exact Kept.refl _

theorem countStale_kept : ∀ s, Kept s (countStale s) := by
  intro s
  unfold countStale
  refine Kept.setRing (X := s) ?_ _
  exact Kept.refl _

theorem takeMessage_kept : ∀ x s, Kept s (takeMessage x s) := by
  intro x s
  unfold takeMessage
  split
  · split
    · exact Kept.refl _
    · split
      · refine Kept.trans ?_ (countStale_kept _)
        exact Kept.refl _
      · split
        · exact Kept.refl _
        · refine Kept.trans ?_ (takeControl_kept _ _ _)
          refine Kept.setRing (X := s) ?_ _
          exact Kept.refl _
  · split
    · refine Kept.trans ?_ (countStale_kept _)
      exact Kept.refl _
    · exact Kept.refl _
  · exact Kept.refl _

theorem fillSlot_kept : ∀ east n s, Kept s (fillSlot east n s) := by
  intro east n s
  unfold fillSlot
  split
  · exact Kept.refl _
  · split
    · refine Kept.trans ?_ (sendSlot_kept _ _)
      exact Kept.refl _
    · extract_lets +onlyGivenNames v0
      clear_value v0
      extract_lets +onlyGivenNames v1
      clear_value v1
      refine Kept.trans ?_ (sendSlot_kept _ _)
      refine Kept.setRing (X := s) ?_ _
      exact Kept.refl _

theorem originate_kept : ∀ east position s, Kept s (originate east position s) := by
  intro east position s
  unfold originate
  split
  · refine Kept.trans ?_ (fillSlot_kept _ _ _)
    exact Kept.refl _
  · refine Kept.trans ?_ (sendSlot_kept _ _)
    exact Kept.refl _

theorem reissue_kept : ∀ t s, Kept s (reissue t s) := by
  intro t s
  unfold reissue
  extract_lets +onlyGivenNames v0
  clear_value v0
  extract_lets +onlyGivenNames v1
  have h2 : Kept s v1 := by
    unfold v1
    refine Kept.setRing (X := s) ?_ _
    exact Kept.refl _
  clear_value v1
  split
  · refine Kept.setRing (X := v1) ?_ _
    assumption
  · extract_lets +onlyGivenNames v3
    have h4 : Kept s v3 := by
      unfold v3
      refine Kept.trans ?_ (raise_kept _ _ _)
      assumption
    clear_value v3
    split
    · refine Kept.foldl (fun y x => ?_) ?_
      · refine Kept.trans ?_ (roundReturns_kept _ _ _)
        exact Kept.refl _
      · assumption
    · assumption

theorem ringItem_kept : ∀ kind b s, Kept s (ringItem kind b s) := by
  intro kind b s
  unfold ringItem
  extract_lets +onlyGivenNames v0
  clear_value v0
  extract_lets +onlyGivenNames v1
  clear_value v1
  split
  · split
    · refine Kept.trans ?_ (returnRequest_kept _ _)
      exact Kept.refl _
    · split
      · refine Kept.trans ?_ (enterItem_kept _ _ _ _ _ _ _ _)
        exact Kept.refl _
      · exact Kept.refl _
  · split
    · refine Kept.trans ?_ (enterItem_kept _ _ _ _ _ _ _ _)
      exact Kept.refl _
    · exact Kept.refl _

theorem redirect_kept : ∀ s, Kept s (redirect s) := by
  intro s
  unfold redirect
  extract_lets +onlyGivenNames v0
  clear_value v0
  refine Kept.setRing (X := s) ?_ _
  exact Kept.refl _

theorem trainRestored_kept : ∀ s, Kept s (trainRestored s) := by
  intro s
  unfold trainRestored
  split
  · exact Kept.refl _
  · split
    · exact Kept.refl _
    · extract_lets +onlyGivenNames v0
      clear_value v0
      extract_lets +onlyGivenNames v1
      have h2 : Kept s v1 := by
        unfold v1
        refine Kept.setRing (X := s) ?_ _
        exact Kept.refl _
      clear_value v1
      refine Kept.foldl (fun y x => ?_) ?_
      · split
        · split
          · exact Kept.refl _
          · refine Kept.trans ?_ (reAsk_kept _ _)
            exact Kept.refl _
        · exact Kept.refl _
      · assumption

theorem loseLock_kept : ∀ s, Kept s (loseLock s) := by
  intro s
  unfold loseLock
  split
  · refine Kept.trans ?_ (raise_kept _ _ _)
    refine Kept.setTide (X := s) ?_ _
    exact Kept.refl _
  · exact Kept.refl _

theorem useMarker_kept : ∀ hops offset s, Kept s (useMarker hops offset s) := by
  intro hops offset s
  unfold useMarker
  split
  · refine Kept.trans ?_ (loseLock_kept _)
    exact Kept.refl _
  · refine Kept.setTide (X := s) ?_ _
    exact Kept.refl _

theorem askSplice_kept : ∀ leave s, Kept s (askSplice leave s) := by
  intro leave s
  unfold askSplice
  extract_lets +onlyGivenNames v0
  clear_value v0
  split
  · refine Kept.setRing (X := s) ?_ _
    exact Kept.refl _
  · split
    · refine Kept.trans ?_ (control_kept _ _ _ _)
      exact Kept.refl _
    · refine Kept.trans ?_ (emit_kept _ _)
      refine Kept.setRing (X := s) ?_ _
      exact Kept.refl _

theorem westDue_kept : ∀ s, Kept s (westDue s) := by
  intro s
  unfold westDue
  extract_lets +onlyGivenNames v0
  clear_value v0
  refine Kept.foldl (fun y x => ?_) ?_
  · refine Kept.trans ?_ (useMarker_kept _ _ _)
    exact Kept.refl _
  · refine Kept.setTide (X := s) ?_ _
    exact Kept.refl _

theorem takeOver_kept : ∀ s, Kept s (takeOver s) := by
  intro s
  unfold takeOver
  split
  · exact Kept.refl _
  · split
    · exact Kept.refl _
    · refine Kept.of (X := s) ?_ rfl rfl rfl rfl rfl rfl rfl rfl
      exact Kept.refl _

theorem sendMarker_kept : ∀ s, Kept s (sendMarker s) := by
  intro s
  unfold sendMarker
  split
  · refine Kept.of (X := s) ?_ rfl rfl rfl rfl rfl rfl rfl rfl
    exact Kept.refl _
  · exact Kept.refl _

theorem grantSplice_kept : ∀ s, Kept s (grantSplice s) := by
  intro s
  unfold grantSplice
  extract_lets +onlyGivenNames v0
  clear_value v0
  split
  · exact Kept.refl _
  · split
    · exact Kept.refl _
    · split
      · exact Kept.refl _
      · extract_lets +onlyGivenNames v1
        clear_value v1
        extract_lets +onlyGivenNames v2
        have h3 : Kept s v2 := by
          unfold v2
          refine Kept.setRing (X := s) ?_ _
          exact Kept.refl _
        clear_value v2
        extract_lets +onlyGivenNames v4
        clear_value v4
        split
        · refine Kept.trans ?_ (broadcast_kept _ _ _)
          refine Kept.trans ?_ (recordReason_kept _ _)
          assumption
        · extract_lets +onlyGivenNames v5
          clear_value v5
          extract_lets +onlyGivenNames v6
          have h7 : Kept s v6 := by
            unfold v6
            refine Kept.setRing (X := v2) ?_ _
            assumption
          clear_value v6
          split
          · refine Kept.of (X := v6) ?_ rfl rfl rfl rfl rfl rfl rfl rfl
            assumption
          · refine Kept.trans ?_ (broadcast_kept _ _ _)
            assumption

theorem formTrain_kept : ∀ s, Kept s (formTrain s) := by
  intro s
  unfold formTrain
  extract_lets +onlyGivenNames v0
  clear_value v0
  refine Kept.foldl (fun y x => ?_) ?_
  · refine Kept.trans ?_ (sendSlot_kept _ _)
    exact Kept.refl _
  · exact Kept.refl _

theorem splice_kept : ∀ s, Kept s (splice s) := by
  intro s
  unfold splice
  extract_lets +onlyGivenNames v0
  extract_lets +onlyGivenNames v1
  split
  · extract_lets +onlyGivenNames v2
    extract_lets +onlyGivenNames v3
    have h4 : Kept s v3 := by
      unfold v3
      refine Kept.of (X := s) ?_ rfl rfl rfl rfl rfl rfl rfl rfl
      exact Kept.refl _
    clear_value v3
    split
    · assumption
    · refine Kept.trans ?_ (formTrain_kept _)
      refine Kept.of (X := v3) ?_ rfl rfl rfl rfl rfl rfl rfl rfl
      assumption
  · split
    · refine Kept.of (X := s) ?_ rfl rfl rfl rfl rfl rfl rfl rfl
      exact Kept.refl _
    · exact Kept.refl _

theorem closeBypass_kept : ∀ s, Kept s (closeBypass s) := by
  intro s
  unfold closeBypass
  refine Kept.of (X := s) ?_ rfl rfl rfl rfl rfl rfl rfl rfl
  exact Kept.refl _

/-! Redundancy -/

theorem startRow_kept : ∀ kind place row s, Kept s (startRow kind place row s) := by
  intro kind place row s
  unfold startRow
  extract_lets +onlyGivenNames v0
  clear_value v0
  split
  · refine Kept.trans ?_ (endOwnStep_kept _ _)
    refine Kept.trans ?_ (pumpReads_kept _ _)
    refine Kept.trans ?_ (setQueue_kept _ _ _)
    exact Kept.refl _
  · exact Kept.refl _

theorem startFormat_kept : ∀ groupId s, Kept s (startFormat groupId s) := by
  intro groupId s
  unfold startFormat
  split
  · exact Kept.refl _
  · split
    · refine Kept.setHome (X := s) ?_ _
      exact Kept.refl _
    · exact Kept.refl _

theorem formatRows_kept : ∀ fuel groupId last s, Kept s (formatRows fuel groupId last s) := by
  intro fuel groupId last s
  induction fuel generalizing s with
  | zero => unfold formatRows; exact Kept.refl s
  | succ k ih =>
    unfold formatRows
    split
    · rename_i h1 h2
      obtain rfl := Nat.succ.inj h1
      split
      · exact Kept.refl s
      · extract_lets x1 s1
        have h3 : Kept s s1 := Kept.of (X := s) (Kept.refl s) rfl rfl rfl rfl rfl rfl rfl rfl
        exact h3.trans ((startRow_kept _ _ _ _).trans (ih _))
    · exact Kept.refl s

theorem endFormat_kept : ∀ groupId ok s, Kept s (endFormat groupId ok s) := by
  intro groupId ok s
  unfold endFormat
  split
  · split
    · exact Kept.refl _
    · refine Kept.trans ?_ (issue_kept _ _ _ _ _)
      refine Kept.setHome (X := s) ?_ _
      exact Kept.refl _
  · exact Kept.refl _

theorem endLostFormats_kept : ∀ d s, Kept s (endLostFormats d s) := by
  intro d s
  unfold endLostFormats
  refine Kept.foldl (fun y x => ?_) ?_
  · extract_lets +onlyGivenNames v0
    clear_value v0
    extract_lets +onlyGivenNames v1
    clear_value v1
    extract_lets +onlyGivenNames v2
    clear_value v2
    split
    · split
      · refine Kept.trans ?_ (issue_kept _ _ _ _ _)
        exact Kept.refl _
      · exact Kept.refl _
    · exact Kept.refl _
  · exact Kept.refl _

theorem failMembers_kept : ∀ p s, Kept s (failMembers p s) := by
  intro p s
  unfold failMembers
  extract_lets +onlyGivenNames v0
  have h1 : Kept s v0 := by
    unfold v0
    refine Kept.foldl (fun y x => ?_) ?_
    · extract_lets +onlyGivenNames v2
      extract_lets +onlyGivenNames v3
      split
      · exact Kept.refl _
      · extract_lets +onlyGivenNames v4
        clear_value v4
        extract_lets +onlyGivenNames v5
        clear_value v5
        extract_lets +onlyGivenNames v6
        have h7 : Kept y v6 := by
          unfold v6
          refine Kept.setMan (X := y) ?_ _
          exact Kept.refl _
        clear_value v6
        extract_lets +onlyGivenNames v8
        have h9 : Kept y v8 := by
          unfold v8
          refine Kept.foldl (fun y x => ?_) ?_
          · refine Kept.trans ?_ (raise_kept _ _ _)
            exact Kept.refl _
          · assumption
        clear_value v8
        extract_lets +onlyGivenNames v10
        clear_value v10
        extract_lets +onlyGivenNames v11
        have h12 : Kept y v11 := by
          unfold v11
          refine Kept.setHome (X := v8) ?_ _
          assumption
        clear_value v11
        refine Kept.trans ?_ (endFormat_kept _ _ _)
        assumption
    · exact Kept.refl _
  clear_value v0
  refine Kept.trans ?_ (judgeGroups_kept _)
  assumption

theorem degradeGroups_kept : ∀ s, Kept s (degradeGroups s) := by
  intro s
  unfold degradeGroups
  extract_lets +onlyGivenNames v0
  clear_value v0
  split
  · exact Kept.refl _
  · extract_lets +onlyGivenNames v1
    clear_value v1
    extract_lets +onlyGivenNames v2
    have h3 : Kept s v2 := by
      unfold v2
      refine Kept.setHome (X := s) ?_ _
      exact Kept.refl _
    clear_value v2
    extract_lets +onlyGivenNames v4
    have h7 : ∀ z5 z6, Kept z6 (v4 z5 z6) := by
      intro y8 y9
      unfold v4
      refine Kept.foldl (fun y x => ?_) ?_
      · refine Kept.trans ?_ (treatFailed_kept _ _ _ _)
        exact Kept.refl _
      · exact Kept.refl _
    clear_value v4
    refine Kept.trans ?_ (failMembers_kept _ _)
    refine Kept.foldl (fun y x => ?_) ?_
    · refine Kept.trans ?_ (h7 _ _)
      exact Kept.refl _
    · assumption

theorem setRebuild_kept : ∀ r s, Kept s (setRebuild r s) := by
  intro r s
  unfold setRebuild
  refine Kept.setHome (X := s) ?_ _
  exact Kept.refl _

theorem startRebuild_kept : ∀ groupId member rate s, Kept s (startRebuild groupId member rate s) := by
  intro groupId member rate s
  unfold startRebuild
  split
  · exact Kept.refl _
  · refine Kept.trans ?_ (setRebuild_kept _ _)
    exact Kept.refl _

theorem reportRebuild_kept : ∀ groupId s, Kept s (reportRebuild groupId s) := by
  intro groupId s
  unfold reportRebuild
  split
  · split
    · refine Kept.trans ?_ (broadcast_kept _ _ _)
      refine Kept.trans ?_ (setRebuild_kept _ _)
      exact Kept.refl _
    · exact Kept.refl _
  · exact Kept.refl _

theorem finishRebuild_kept : ∀ groupId s, Kept s (finishRebuild groupId s) := by
  intro groupId s
  unfold finishRebuild
  split
  · split
    · extract_lets +onlyGivenNames v0
      clear_value v0
      extract_lets +onlyGivenNames v1
      clear_value v1
      extract_lets +onlyGivenNames v2
      clear_value v2
      extract_lets +onlyGivenNames v3
      have h4 : Kept s v3 := by
        unfold v3
        refine Kept.of (X := s) ?_ rfl rfl rfl rfl rfl rfl rfl rfl
        exact Kept.refl _
      clear_value v3
      extract_lets +onlyGivenNames v5
      have h6 : Kept s v5 := by
        unfold v5
        split
        · refine Kept.trans ?_ (raise_kept _ _ _)
          assumption
        · assumption
      clear_value v5
      refine Kept.trans ?_ (judgeGroups_kept _)
      assumption
    · exact Kept.refl _
  · exact Kept.refl _

theorem rebuildTide_kept : ∀ s, Kept s (rebuildTide s) := by
  intro s
  unfold rebuildTide
  extract_lets +onlyGivenNames v0
  clear_value v0
  extract_lets +onlyGivenNames v1
  have h2 : Kept s v1 := by
    unfold v1
    refine Kept.setHome (X := s) ?_ _
    exact Kept.refl _
  clear_value v1
  refine Kept.foldl (fun y x => ?_) ?_
  · refine Kept.trans ?_ (finishRebuild_kept _ _)
    exact Kept.refl _
  · assumption

theorem startResync_kept : ∀ entry s, Kept s (startResync entry s) := by
  intro entry s
  unfold startResync
  extract_lets +onlyGivenNames v0
  clear_value v0
  split
  · exact Kept.refl _
  · refine Kept.setHome (X := s) ?_ _
    exact Kept.refl _

/-! Firmware -/

theorem commitImage_kept : ∀ b mv writeOk s, Kept s (commitImage b mv writeOk s).2 := by
  intro b mv writeOk s
  unfold commitImage
  extract_lets +onlyGivenNames v0
  have h1 : Kept s v0 := by
    unfold v0
    refine Kept.trans ?_ (noteHoldup_kept _ _)
    exact Kept.refl _
  clear_value v0
  extract_lets +onlyGivenNames v2
  clear_value v2
  split
  · dsimp only
    refine Kept.trans ?_ (raise_kept _ _ _)
    assumption
  · split
    · dsimp only
      refine Kept.trans ?_ (recordReason_kept _ _)
      assumption
    · extract_lets +onlyGivenNames v3
      clear_value v3
      extract_lets +onlyGivenNames v4
      clear_value v4
      extract_lets +onlyGivenNames v5
      have h6 : Kept s v5 := by
        unfold v5
        refine Kept.trans ?_ (emit_kept _ _)
        refine Kept.trans ?_ (emit_kept _ _)
        assumption
      clear_value v5
      extract_lets +onlyGivenNames v7
      have h10 : ∀ z8 z9, Kept z9 (v7 z8 z9) := by
        intro y11 y12
        unfold v7
        refine Kept.of (X := y12) ?_ rfl rfl rfl rfl rfl rfl rfl rfl
        exact Kept.refl _
      clear_value v7
      split
      · dsimp only
        refine Kept.trans ?_ (emit_kept _ _)
        refine Kept.trans ?_ (h10 _ _)
        refine Kept.of (X := v5) ?_ rfl rfl rfl rfl rfl rfl rfl rfl
        assumption
      · dsimp only
        refine Kept.trans ?_ (raise_kept _ _ _)
        refine Kept.trans ?_ (h10 _ _)
        assumption

theorem settleFw_kept : ∀ c s, Kept s (settleFw c s) := by
  intro c s
  unfold settleFw
  split
  · refine Kept.of (X := s) ?_ rfl rfl rfl rfl rfl rfl rfl rfl
    exact Kept.refl _
  · extract_lets +onlyGivenNames v0
    extract_lets +onlyGivenNames v1
    have h2 : Kept s v1 := by
      unfold v1
      refine Kept.of (X := s) ?_ rfl rfl rfl rfl rfl rfl rfl rfl
      exact Kept.refl _
    clear_value v1
    split
    · refine Kept.trans ?_ (result_kept _ _ _ _ _)
      assumption
    · refine Kept.trans ?_ (resultWith_kept _ _ _ _ _ _)
      assumption

theorem deriveKeys_kept : ∀ s, Kept s (deriveKeys s) := by
  intro s
  unfold deriveKeys
  extract_lets +onlyGivenNames v0
  clear_value v0
  extract_lets +onlyGivenNames v1
  clear_value v1
  extract_lets +onlyGivenNames v2
  clear_value v2
  extract_lets +onlyGivenNames v3
  clear_value v3
  refine Kept.of (X := s) ?_ rfl rfl rfl rfl rfl rfl rfl rfl
  exact Kept.refl _

theorem measureLayers_kept : ∀ s, Kept s (measureLayers s) := by
  intro s
  unfold measureLayers
  extract_lets +onlyGivenNames v0
  clear_value v0
  extract_lets +onlyGivenNames v1
  have h2 : Kept s v1 := by
    unfold v1
    refine Kept.trans ?_ (measure_kept _ _ _ _ _ _)
    exact Kept.refl _
  clear_value v1
  extract_lets +onlyGivenNames v3
  have h4 : Kept s v3 := by
    unfold v3
    refine Kept.trans ?_ (measure_kept _ _ _ _ _ _)
    assumption
  clear_value v3
  refine Kept.trans ?_ (measure_kept _ _ _ _ _ _)
  assumption

theorem writeSettings_kept : ∀ s, Kept s (writeSettings s) := by
  intro s
  unfold writeSettings
  extract_lets +onlyGivenNames v0
  clear_value v0
  extract_lets +onlyGivenNames v1
  clear_value v1
  extract_lets +onlyGivenNames v2
  clear_value v2
  extract_lets +onlyGivenNames v3
  clear_value v3
  refine Kept.trans ?_ (emit_kept _ _)
  refine Kept.of (X := s) ?_ rfl rfl rfl rfl rfl rfl rfl rfl
  exact Kept.refl _

theorem writeSelect_kept : ∀ s, Kept s (writeSelect s) := by
  intro s
  unfold writeSelect
  extract_lets +onlyGivenNames v0
  clear_value v0
  refine Kept.trans ?_ (emit_kept _ _)
  refine Kept.of (X := s) ?_ rfl rfl rfl rfl rfl rfl rfl rfl
  exact Kept.refl _

theorem activate_kept : ∀ issuer release s, Kept s (activate issuer release s) := by
  intro issuer release s
  unfold activate
  extract_lets +onlyGivenNames v0
  extract_lets +onlyGivenNames v1
  have h2 : Kept s v1 := by
    unfold v1
    refine Kept.of (X := s) ?_ rfl rfl rfl rfl rfl rfl rfl rfl
    exact Kept.refl _
  clear_value v1
  extract_lets +onlyGivenNames v3
  clear_value v3
  extract_lets +onlyGivenNames v4
  extract_lets +onlyGivenNames v5
  have h6 : Kept s v5 := by
    unfold v5
    refine Kept.of (X := v1) ?_ rfl rfl rfl rfl rfl rfl rfl rfl
    assumption
  clear_value v5
  extract_lets +onlyGivenNames v7
  have h8 : Kept s v7 := by
    unfold v7
    refine Kept.trans ?_ (measureLayers_kept _)
    refine Kept.trans ?_ (measure_kept _ _ _ _ _ _)
    assumption
  clear_value v7
  refine Kept.trans ?_ (deriveKeys_kept _)
  assumption

theorem fwDone_kept : ∀ device s, Kept s (fwDone device s) := by
  intro device s
  unfold fwDone
  split
  · exact Kept.refl _
  · extract_lets +onlyGivenNames v0
    clear_value v0
    extract_lets +onlyGivenNames v1
    have h2 : Kept s v1 := by
      unfold v1
      refine Kept.trans ?_ (setIssued_kept _ _)
      exact Kept.refl _
    clear_value v1
    split
    · refine Kept.trans ?_ (completeIssued_kept _ _ _ _ _ _)
      assumption
    · assumption

theorem selectPending_kept : ∀ s, Kept s (selectPending s) := by
  intro s
  unfold selectPending
  extract_lets s1 x
  have h1 : Kept s s1 := raise_kept _ _ _
  clear_value s1
  split
  · exact h1
  · exact (Kept.mapHm (fun x => { x with fwPendingRaised := true }) (fun _ => rfl) h1).trans (raise_kept _ _ _)

theorem postReady_kept : ∀ fuel mv s, Kept s (postReady fuel mv s) := by
  intro fuel mv s
  induction fuel generalizing s with
  | zero => exact Kept.refl s
  | succ k ih =>
    unfold postReady
    split
    · exact Kept.refl _
    · split
      · refine Kept.trans ?_ (ih _)
        refine Kept.trans ?_ (writeSettings_kept _)
        refine Kept.of (X := s) ?_ rfl rfl rfl rfl rfl rfl rfl rfl
        exact Kept.refl _
      · refine Kept.trans ?_ (selectPending_kept _)
        exact Kept.refl _
    · split
      · refine Kept.trans ?_ (ih _)
        refine Kept.trans ?_ (writeSelect_kept _)
        refine Kept.of (X := s) ?_ rfl rfl rfl rfl rfl rfl rfl rfl
        exact Kept.refl _
      · refine Kept.trans ?_ (selectPending_kept _)
        exact Kept.refl _
    · extract_lets +onlyGivenNames v0
      extract_lets +onlyGivenNames v1
      have h2 : Kept s v1 := by
        unfold v1
        refine Kept.by (X := s) ?_ rfl id id rfl rfl rfl (le_max_left _ _) id
        exact Kept.refl _
      clear_value v1
      refine Kept.trans ?_ (ih _)
      refine Kept.trans ?_ (measureSecurity_kept _)
      assumption
    · extract_lets +onlyGivenNames v3
      clear_value v3
      extract_lets +onlyGivenNames v4
      extract_lets +onlyGivenNames v5
      have h6 : Kept s v5 := by
        unfold v5
        refine Kept.of (X := s) ?_ rfl rfl rfl rfl rfl rfl rfl rfl
        exact Kept.refl _
      clear_value v5
      split
      · refine Kept.trans ?_ (fwDone_kept _ _)
        assumption
      · refine Kept.trans ?_ (control_kept _ _ _ _)
        assumption

theorem answerTaken_kept : ∀ t s, Kept s (answerTaken t s) := by
  intro t s
  unfold answerTaken
  extract_lets +onlyGivenNames v0
  clear_value v0
  extract_lets +onlyGivenNames v1
  clear_value v1
  split
  · exact Kept.refl _
  · split
    · split
      · refine Kept.trans ?_ (voidJob_kept _ _ _)
        exact Kept.refl _
      · refine Kept.trans ?_ (postAccepted_kept _ _)
        exact Kept.refl _
    · refine Kept.trans ?_ (result_kept _ _ _ _ _)
      exact Kept.refl _

theorem dropCut_kept : ∀ s, Kept s (dropCut s) := by
  intro s
  unfold dropCut
  extract_lets +onlyGivenNames v0
  clear_value v0
  extract_lets +onlyGivenNames v1
  clear_value v1
  extract_lets +onlyGivenNames v2
  clear_value v2
  extract_lets +onlyGivenNames v3
  clear_value v3
  extract_lets +onlyGivenNames v4
  clear_value v4
  extract_lets +onlyGivenNames v5
  clear_value v5
  extract_lets +onlyGivenNames v6
  clear_value v6
  extract_lets +onlyGivenNames v7
  extract_lets +onlyGivenNames v8
  extract_lets +onlyGivenNames v9
  have h10 : Kept s v9 := by
    unfold v9
    refine Kept.of (X := s) ?_ rfl rfl rfl rfl rfl rfl rfl rfl
    exact Kept.refl _
  clear_value v9
  extract_lets +onlyGivenNames v11
  have h12 : Kept s v11 := by
    unfold v11
    refine Kept.foldl (fun y x => ?_) ?_
    · refine Kept.trans ?_ (result_kept _ _ _ _ _)
      refine Kept.trans ?_ (undoCommit_kept _ _)
      exact Kept.refl _
    · assumption
  clear_value v11
  extract_lets +onlyGivenNames v13
  have h14 : Kept s v13 := by
    unfold v13
    split
    · refine Kept.trans ?_ (result_kept _ _ _ _ _)
      assumption
    · assumption
  clear_value v13
  extract_lets +onlyGivenNames v15
  have h16 : Kept s v15 := by
    unfold v15
    split
    · refine Kept.trans ?_ (result_kept _ _ _ _ _)
      assumption
    · assumption
  clear_value v15
  extract_lets +onlyGivenNames v17
  have h18 : Kept s v17 := by
    unfold v17
    refine Kept.foldl (fun y x => ?_) ?_
    · refine Kept.trans ?_ (result_kept _ _ _ _ _)
      exact Kept.refl _
    · assumption
  clear_value v17
  refine Kept.foldl (fun y x => ?_) ?_
  · refine Kept.trans ?_ (refuseJob_kept _ _ _ _ _)
    exact Kept.refl _
  · assumption

theorem becomeReady_kept : ∀ s, Kept s (becomeReady s) := by
  intro s
  unfold becomeReady
  extract_lets +onlyGivenNames v0
  extract_lets +onlyGivenNames v1
  have h2 : Kept s v1 := by
    unfold v1
    refine Kept.of (X := s) ?_ rfl rfl rfl rfl rfl rfl rfl rfl
    exact Kept.refl _
  clear_value v1
  extract_lets +onlyGivenNames v3
  have h4 : Kept s v3 := by
    unfold v3
    refine Kept.foldl (fun y x => ?_) ?_
    · refine Kept.trans ?_ (answerTaken_kept _ _)
      exact Kept.refl _
    · refine Kept.trans ?_ (dropCut_kept _)
      assumption
  clear_value v3
  extract_lets +onlyGivenNames v5
  have h6 : Kept s v5 := by
    unfold v5
    refine Kept.trans ?_ (postOutcomes_kept _)
    assumption
  clear_value v5
  extract_lets +onlyGivenNames v7
  have h8 : Kept s v7 := by
    unfold v7
    refine Kept.foldl (fun y x => ?_) ?_
    · refine Kept.trans ?_ (postComplete_kept _ _ _)
      exact Kept.refl _
    · assumption
  clear_value v7
  refine Kept.trans ?_ (wakeOffers_kept _)
  assumption

/-! Apply -/

theorem markDrain_kept : ∀ entry s, Kept s (markDrain entry s).2 := by
  intro entry s
  unfold markDrain
  extract_lets +onlyGivenNames v0
  clear_value v0
  extract_lets +onlyGivenNames v1
  clear_value v1
  extract_lets +onlyGivenNames v2
  clear_value v2
  dsimp only
  refine Kept.setHome (X := s) ?_ _
  exact Kept.refl _

theorem markRecalls_kept : ∀ entry s, Kept s (markRecalls entry s).2 := by
  intro entry s
  unfold markRecalls
  extract_lets +onlyGivenNames v0
  clear_value v0
  extract_lets +onlyGivenNames v1
  clear_value v1
  dsimp only
  refine Kept.setHome (X := s) ?_ _
  exact Kept.refl _

theorem openDrain_kept : ∀ entry id s, Kept s (openDrain entry id s) := by
  intro entry id s
  unfold openDrain
  extract_lets +onlyGivenNames v0
  have h1 : Kept s v0.2 := by
    unfold v0
    refine Kept.trans ?_ (markDrain_kept _ _)
    exact Kept.refl _
  clear_value v0
  extract_lets +onlyGivenNames v2
  have h3 : Kept s v2.2 := by
    unfold v2
    refine Kept.trans ?_ (markRecalls_kept _ _)
    assumption
  clear_value v2
  extract_lets +onlyGivenNames v4
  have h5 : Kept s v4 := by
    unfold v4
    assumption
  clear_value v4
  extract_lets +onlyGivenNames v6
  clear_value v6
  extract_lets +onlyGivenNames v7
  clear_value v7
  extract_lets +onlyGivenNames v8
  clear_value v8
  extract_lets +onlyGivenNames v9
  clear_value v9
  extract_lets +onlyGivenNames v10
  clear_value v10
  extract_lets +onlyGivenNames v11
  have h12 : Kept s v11 := by
    unfold v11
    refine Kept.setHome (X := v4) ?_ _
    assumption
  clear_value v11
  refine Kept.trans ?_ (drainOne_kept _ _)
  refine Kept.foldl (fun y x => ?_) ?_
  · refine Kept.trans ?_ (nextRecall_kept _)
    exact Kept.refl _
  · assumption

theorem refuseEntrySeals_kept : ∀ entry s, Kept s (refuseEntrySeals entry s) := by
  intro entry s
  unfold refuseEntrySeals
  refine Kept.foldl (fun y x => ?_) ?_
  · refine Kept.foldl (fun y x => ?_) ?_
    · refine Kept.trans ?_ (refuseHeld_kept _ _ _ _)
      exact Kept.refl _
    · exact Kept.refl _
  · exact Kept.refl _

theorem dropEntryLines_kept : ∀ entry s, Kept s (dropEntryLines entry s) := by
  intro entry s
  unfold dropEntryLines
  extract_lets +onlyGivenNames v0
  have h1 : Kept s v0 := by
    unfold v0
    refine Kept.foldl (fun y x => ?_) ?_
    · refine Kept.trans ?_ (dropGranule_kept _ _)
      exact Kept.refl _
    · exact Kept.refl _
  clear_value v0
  extract_lets +onlyGivenNames v2
  clear_value v2
  refine Kept.setIng (X := v0) ?_ _
  assumption

theorem presumePages_kept : ∀ entry s, Kept s (presumePages entry s) := by
  intro entry s
  unfold presumePages
  extract_lets +onlyGivenNames v0
  clear_value v0
  extract_lets +onlyGivenNames v1
  clear_value v1
  extract_lets +onlyGivenNames v2
  clear_value v2
  extract_lets +onlyGivenNames v3
  have h4 : Kept s v3 := by
    unfold v3
    refine Kept.foldl (fun y x => ?_) ?_
    · refine Kept.trans ?_ (setPage_kept _ _ _ _)
      exact Kept.refl _
    · exact Kept.refl _
  clear_value v3
  extract_lets +onlyGivenNames v5
  clear_value v5
  split
  · refine Kept.foldl (fun y x => ?_) ?_
    · refine Kept.trans ?_ (markPoison_kept _ _ _)
      exact Kept.refl _
    · assumption
  · assumption

theorem clearPages_kept : ∀ entry s, Kept s (clearPages entry s) := by
  intro entry s
  unfold clearPages
  refine Kept.setHome (X := s) ?_ _
  exact Kept.refl _

theorem migratedPages_kept : ∀ entry old s, Kept s (migratedPages entry old s) := by
  intro entry old s
  unfold migratedPages
  extract_lets +onlyGivenNames v0
  clear_value v0
  extract_lets +onlyGivenNames v1
  clear_value v1
  extract_lets +onlyGivenNames v2
  have h3 : Kept s v2 := by
    unfold v2
    refine Kept.trans ?_ (clearPages_kept _ _)
    refine Kept.trans ?_ (clearPages_kept _ _)
    exact Kept.refl _
  clear_value v2
  split
  · extract_lets +onlyGivenNames v4
    clear_value v4
    extract_lets +onlyGivenNames v5
    have h6 : Kept s v5 := by
      unfold v5
      refine Kept.setHome (X := v2) ?_ _
      assumption
    clear_value v5
    split
    · assumption
    · refine Kept.trans ?_ (sendPages_kept _ _)
      refine Kept.setHome (X := v5) ?_ _
      assumption
  · split
    · refine Kept.setHome (X := v2) ?_ _
      assumption
    · assumption

theorem mapPages_kept : ∀ entry old moved s, Kept s (mapPages entry old moved s) := by
  intro entry old moved s
  unfold mapPages
  extract_lets +onlyGivenNames v0
  clear_value v0
  extract_lets +onlyGivenNames v1
  clear_value v1
  extract_lets +onlyGivenNames v2
  clear_value v2
  split
  · refine Kept.trans ?_ (clearPages_kept _ _)
    exact Kept.refl _
  · split
    · refine Kept.trans ?_ (migratedPages_kept _ _ _)
      exact Kept.refl _
    · split
      · split
        · refine Kept.trans ?_ (presumePages_kept _ _)
          exact Kept.refl _
        · split
          · exact Kept.refl _
          · split
            · extract_lets +onlyGivenNames v3
              have h4 : Kept s v3 := by
                unfold v3
                refine Kept.trans ?_ (clearPages_kept _ _)
                exact Kept.refl _
              clear_value v3
              refine Kept.setHome (X := v3) ?_ _
              assumption
            · refine Kept.trans ?_ (clearPages_kept _ _)
              exact Kept.refl _
      · split
        · split
          · refine Kept.setHome (X := s) ?_ _
            exact Kept.refl _
          · refine Kept.trans ?_ (clearPages_kept _ _)
            exact Kept.refl _
        · exact Kept.refl _

theorem dropLostLines_kept : ∀ entry s, Kept s (dropLostLines entry s) := by
  intro entry s
  unfold dropLostLines
  extract_lets +onlyGivenNames v0
  clear_value v0
  refine Kept.foldl (fun y x => ?_) ?_
  · extract_lets +onlyGivenNames v1
    clear_value v1
    refine Kept.trans ?_ (dropFilter_kept _ _)
    refine Kept.trans ?_ (dropCache_kept _ _)
    refine Kept.foldl (fun y x => ?_) ?_
    · refine Kept.trans ?_ (sendRecall_kept _ _ _ _ _ _)
      exact Kept.refl _
    · exact Kept.refl _
  · exact Kept.refl _

theorem rehome_kept : ∀ entry old offs s, Kept s (rehome entry old offs s) := by
  intro entry old offs s
  unfold rehome
  split
  · exact Kept.refl _
  · extract_lets +onlyGivenNames v0
    have h1 : Kept s v0 := by
      unfold v0
      split
      · refine Kept.trans ?_ (startResync_kept _ _)
        refine Kept.foldl (fun y x => ?_) ?_
        · refine Kept.trans ?_ (markPoison_kept _ _ _)
          exact Kept.refl _
        · exact Kept.refl _
      · exact Kept.refl _
    clear_value v0
    refine Kept.trans ?_ (dropLostLines_kept _ _)
    refine Kept.setIng (X := v0) ?_ _
    assumption

theorem entryTurned_kept : ∀ entry old id s, Kept s (entryTurned entry old id s) := by
  intro entry old id s
  unfold entryTurned
  extract_lets +onlyGivenNames v0
  have h1 : Kept s v0 := by
    unfold v0
    refine Kept.trans ?_ (dropEntryLines_kept _ _)
    exact Kept.refl _
  clear_value v0
  split
  · refine Kept.trans ?_ (openDrain_kept _ _ _)
    refine Kept.trans ?_ (refuseEntrySeals_kept _ _)
    assumption
  · assumption

theorem turnMap_kept : ∀ entry old moved id offs s, Kept s (turnMap entry old moved id offs s) := by
  intro entry old moved id offs s
  unfold turnMap
  refine Kept.trans ?_ (entryTurned_kept _ _ _ _)
  refine Kept.trans ?_ (mapPages_kept _ _ _ _)
  refine Kept.trans ?_ (rehome_kept _ _ _ _)
  exact Kept.refl _

theorem reissueAffected_kept : ∀ old s, Kept s (reissueAffected old s) := by
  intro old s
  unfold reissueAffected
  refine Kept.foldl (fun y x => ?_) ?_
  · refine Kept.trans ?_ (reissueJob_kept _ _)
    refine Kept.trans ?_ (abandonDelivery_kept _ _ _)
    exact Kept.refl _
  · exact Kept.refl _

theorem stopMirrors_kept : ∀ s, Kept s (stopMirrors s) := by
  intro s
  unfold stopMirrors
  extract_lets +onlyGivenNames v0
  clear_value v0
  extract_lets +onlyGivenNames v1
  have h2 : Kept s v1 := by
    unfold v1
    refine Kept.setSw (X := s) ?_ _
    exact Kept.refl _
  clear_value v1
  refine Kept.trans ?_ (raise_kept _ _ _)
  refine Kept.foldl (fun y x => ?_) ?_
  · refine Kept.trans ?_ (stopCtx_kept _ _)
    exact Kept.refl _
  · assumption

theorem admitDevice_kept : ∀ d s, Kept s (admitDevice d s) := by
  intro d s
  unfold admitDevice
  extract_lets +onlyGivenNames v0
  have h1 : Kept s v0 := by
    unfold v0
    refine Kept.trans ?_ (readmit_kept _ _)
    exact Kept.refl _
  clear_value v0
  refine Kept.of (X := v0) ?_ rfl rfl rfl rfl rfl rfl rfl rfl
  assumption

theorem turnComposition_kept : ∀ old oldMap s, Kept s (turnComposition old oldMap s) := by
  intro old oldMap s
  unfold turnComposition
  extract_lets +onlyGivenNames v0
  clear_value v0
  extract_lets +onlyGivenNames v1
  clear_value v1
  extract_lets +onlyGivenNames v2
  have h3 : Kept s v2 := by
    unfold v2
    refine Kept.foldl (fun y x => ?_) ?_
    · refine Kept.trans ?_ (craneDeviceLost_kept _ _)
      refine Kept.trans ?_ (declareDead_kept _ _)
      exact Kept.refl _
    · exact Kept.refl _
  clear_value v2
  extract_lets +onlyGivenNames v4
  have h5 : Kept s v4 := by
    unfold v4
    refine Kept.foldl (fun y x => ?_) ?_
    · refine Kept.trans ?_ (admitDevice_kept _ _)
      exact Kept.refl _
    · assumption
  clear_value v4
  extract_lets +onlyGivenNames v6
  have h7 : Kept s v6 := by
    unfold v6
    split
    · refine Kept.trans ?_ (stopMirrors_kept _)
      assumption
    · assumption
  clear_value v6
  extract_lets +onlyGivenNames v8
  have h9 : Kept s v8 := by
    unfold v8
    refine Kept.trans ?_ (reissueAffected_kept _ _)
    assumption
  clear_value v8
  refine Kept.trans ?_ (wakeOffers_kept _)
  refine Kept.trans ?_ (rebuddyTo_kept _ _)
  assumption

theorem closeWindows_kept : ∀ source p s, Kept s (closeWindows source p s) := by
  intro source p s
  unfold closeWindows
  split
  · exact Kept.refl _
  · refine Kept.foldl (fun y x => ?_) ?_
    · refine Kept.trans ?_ (refuseHeld_kept _ _ _ _)
      exact Kept.refl _
    · exact Kept.refl _

theorem leaveCharter_kept : ∀ c host s, Kept s (leaveCharter c host s) := by
  intro c host s
  unfold leaveCharter
  extract_lets +onlyGivenNames v0
  clear_value v0
  extract_lets +onlyGivenNames v1
  have h2 : Kept s v1 := by
    unfold v1
    split
    · refine Kept.foldl (fun y x => ?_) ?_
      · refine Kept.trans ?_ (declareMember_kept _ _ _)
        exact Kept.refl _
      · exact Kept.refl _
    · exact Kept.refl _
  clear_value v1
  refine Kept.trans ?_ (closeWindows_kept _ _ _)
  assumption

theorem refuseCharterHeld_kept : ∀ c s, Kept s (refuseCharterHeld c s) := by
  intro c s
  unfold refuseCharterHeld
  extract_lets +onlyGivenNames v0
  clear_value v0
  extract_lets +onlyGivenNames v1
  clear_value v1
  extract_lets +onlyGivenNames v2
  clear_value v2
  extract_lets +onlyGivenNames v3
  clear_value v3
  extract_lets +onlyGivenNames v4
  have h5 : Kept s v4 := by
    unfold v4
    refine Kept.setIng (X := s) ?_ _
    exact Kept.refl _
  clear_value v4
  extract_lets +onlyGivenNames v6
  have h7 : Kept s v6 := by
    unfold v6
    refine Kept.foldl (fun y x => ?_) ?_
    · refine Kept.trans ?_ (refuseHost_kept _ _ _ _)
      exact Kept.refl _
    · assumption
  clear_value v6
  extract_lets +onlyGivenNames v8
  have h9 : Kept s v8 := by
    unfold v8
    refine Kept.foldl (fun y x => ?_) ?_
    · refine Kept.trans ?_ (hostReply_kept _ _ _ _ _)
      exact Kept.refl _
    · assumption
  clear_value v8
  refine Kept.trans ?_ (wakeHeld_kept _)
  refine Kept.trans ?_ (countRemoval_kept _ _ _ _ _)
  assumption

theorem scrubCells_kept : ∀ s, Kept s (scrubCells s) := by
  intro s
  unfold scrubCells
  extract_lets +onlyGivenNames v0
  clear_value v0
  extract_lets +onlyGivenNames v1
  have h2 : Kept s v1 := by
    unfold v1
    refine Kept.trans ?_ (countScrubs_kept _ _)
    exact Kept.refl _
  clear_value v1
  extract_lets +onlyGivenNames v3
  clear_value v3
  refine Kept.setSw (X := v1) ?_ _
  assumption

theorem stopCharterJobs_kept : ∀ c s, Kept s (stopCharterJobs c s) := by
  intro c s
  unfold stopCharterJobs
  refine Kept.foldl (fun y x => ?_) ?_
  · split
    · refine Kept.trans ?_ (countRemoval_kept _ _ _ _ _)
      refine Kept.trans ?_ (stopJob_kept _ _ _)
      refine Kept.trans ?_ (recordReason_kept _ _)
      exact Kept.refl _
    · refine Kept.trans ?_ (endJob_kept _ _ _)
      refine Kept.trans ?_ (countRemoval_kept _ _ _ _ _)
      exact Kept.refl _
    · refine Kept.trans ?_ (endJob_kept _ _ _)
      refine Kept.trans ?_ (countRemoval_kept _ _ _ _ _)
      exact Kept.refl _
    · exact Kept.refl _
  · exact Kept.refl _

theorem endRotation_kept : ∀ c s, Kept s (endRotation c s) := by
  intro c s
  unfold endRotation
  extract_lets +onlyGivenNames v0
  extract_lets +onlyGivenNames v1
  have h2 : Kept s v1 := by
    unfold v1
    refine Kept.of (X := s) ?_ rfl rfl rfl rfl rfl rfl rfl rfl
    exact Kept.refl _
  clear_value v1
  split
  · refine Kept.trans ?_ (completeIssued_kept _ _ _ _ _ _)
    assumption
  · assumption

theorem itemsOfCharter_kept : ∀ c s, Kept s (itemsOfCharter c s) := by
  intro c s
  unfold itemsOfCharter
  extract_lets +onlyGivenNames v0
  have h1 : Kept s v0 := by
    unfold v0
    refine Kept.foldl (fun y x => ?_) ?_
    · refine Kept.trans ?_ (dropGranule_kept _ _)
      exact Kept.refl _
    · exact Kept.refl _
  clear_value v0
  refine Kept.trans ?_ (stopCharterJobs_kept _ _)
  refine Kept.trans ?_ (scrubCells_kept _)
  refine Kept.trans ?_ (refuseCharterHeld_kept _ _)
  assumption

theorem beginRemoval_kept : ∀ c s, Kept s (beginRemoval c s) := by
  intro c s
  unfold beginRemoval
  extract_lets +onlyGivenNames v0
  have h1 : Kept s v0 := by
    unfold v0
    refine Kept.trans ?_ (endRotation_kept _ _)
    exact Kept.refl _
  clear_value v0
  extract_lets +onlyGivenNames v2
  clear_value v2
  refine Kept.trans ?_ (itemsOfCharter_kept _ _)
  refine Kept.of (X := v0) ?_ rfl rfl rfl rfl rfl rfl rfl rfl
  assumption

theorem takeEffect_kept : ∀ id c at_ s, Kept s (takeEffect id c at_ s) := by
  intro id c at_ s
  unfold takeEffect
  split
  · extract_lets +onlyGivenNames v0
    clear_value v0
    extract_lets +onlyGivenNames v1
    clear_value v1
    refine Kept.trans ?_ (turnMap_kept _ _ _ _ _ _)
    refine Kept.trans ?_ (configure_kept _ _ _)
    exact Kept.refl _
  · extract_lets +onlyGivenNames v2
    clear_value v2
    refine Kept.trans ?_ (entryTurned_kept _ _ _ _)
    refine Kept.trans ?_ (configure_kept _ _ _)
    exact Kept.refl _
  · extract_lets +onlyGivenNames v3
    clear_value v3
    refine Kept.foldl (fun y x => ?_) ?_
    · refine Kept.trans ?_ (turnMap_kept _ _ _ _ _ _)
      exact Kept.refl _
    · refine Kept.trans ?_ (configure_kept _ _ _)
      exact Kept.refl _
  · extract_lets +onlyGivenNames v4
    clear_value v4
    extract_lets +onlyGivenNames v5
    clear_value v5
    refine Kept.trans ?_ (turnComposition_kept _ _ _)
    refine Kept.trans ?_ (configure_kept _ _ _)
    exact Kept.refl _
  · refine Kept.foldl (fun y x => ?_) ?_
    · refine Kept.trans ?_ (leaveCharter_kept _ _ _)
      exact Kept.refl _
    · refine Kept.trans ?_ (configure_kept _ _ _)
      exact Kept.refl _
  · extract_lets +onlyGivenNames v6
    clear_value v6
    extract_lets +onlyGivenNames v7
    have h8 : Kept s v7 := by
      unfold v7
      refine Kept.trans ?_ (configure_kept _ _ _)
      exact Kept.refl _
    clear_value v7
    refine Kept.of (X := v7) ?_ rfl rfl rfl rfl rfl rfl rfl rfl
    assumption
  · extract_lets +onlyGivenNames v9
    clear_value v9
    extract_lets +onlyGivenNames v10
    have h11 : Kept s v10 := by
      unfold v10
      refine Kept.trans ?_ (configure_kept _ _ _)
      exact Kept.refl _
    clear_value v10
    refine Kept.trans ?_ (beginRemoval_kept _ _)
    refine Kept.foldl (fun y x => ?_) ?_
    · refine Kept.trans ?_ (entryTurned_kept _ _ _ _)
      exact Kept.refl _
    · assumption
  · refine Kept.trans ?_ (startFormat_kept _ _)
    refine Kept.trans ?_ (configure_kept _ _ _)
    exact Kept.refl _
  · split
    · refine Kept.trans ?_ (activate_kept _ _ _)
      exact Kept.refl _
    · exact Kept.refl _
  · refine Kept.trans ?_ (judgeGroups_kept _)
    refine Kept.trans ?_ (reportRebuild_kept _ _)
    refine Kept.trans ?_ (startRebuild_kept _ _ _ _)
    refine Kept.trans ?_ (configure_kept _ _ _)
    exact Kept.refl _
  · refine Kept.trans ?_ (configure_kept _ _ _)
    exact Kept.refl _

theorem completeFormat_kept : ∀ g ok at_ s, Kept s (completeFormat g ok at_ s) := by
  intro g ok at_ s
  unfold completeFormat
  split
  · refine Kept.trans ?_ (completeIssued_kept _ _ _ _ _ _)
    exact Kept.refl _
  · exact Kept.refl _

theorem settleIssued_kept : ∀ n olds s, Kept s (settleIssued n olds s) := by
  intro n olds s
  unfold settleIssued
  split
  · exact Kept.refl _
  · extract_lets +onlyGivenNames v0
    clear_value v0
    split
    · refine Kept.foldl (fun y x => ?_) ?_
      · refine Kept.trans ?_ (drained_kept _ _ _)
        exact Kept.refl _
      · exact Kept.refl _
    · refine Kept.foldl (fun y x => ?_) ?_
      · refine Kept.trans ?_ (drained_kept _ _ _)
        exact Kept.refl _
      · exact Kept.refl _
    · refine Kept.trans ?_ (setIssued_kept _ _)
      exact Kept.refl _
    · refine Kept.trans ?_ (setIssued_kept _ _)
      exact Kept.refl _
    · exact Kept.refl _
    · extract_lets +onlyGivenNames v1
      clear_value v1
      split
      · refine Kept.trans ?_ (completeIssued_kept _ _ _ _ _ _)
        exact Kept.refl _
      · refine Kept.trans ?_ (setIssued_kept _ _)
        exact Kept.refl _
    · refine Kept.trans ?_ (completeIssued_kept _ _ _ _ _ _)
      exact Kept.refl _

theorem applyNotice_kept : ∀ n s, Kept s (applyNotice n s) := by
  intro n s
  unfold applyNotice
  extract_lets +onlyGivenNames v0
  clear_value v0
  extract_lets +onlyGivenNames v1
  clear_value v1
  extract_lets +onlyGivenNames v2
  clear_value v2
  extract_lets +onlyGivenNames v3
  clear_value v3
  extract_lets +onlyGivenNames v4
  extract_lets +onlyGivenNames v5
  have h6 : Kept s v5 := by
    unfold v5
    refine Kept.of (X := s) ?_ rfl rfl rfl rfl rfl rfl rfl rfl
    exact Kept.refl _
  clear_value v5
  extract_lets +onlyGivenNames v7
  have h8 : Kept s v7 := by
    unfold v7
    refine Kept.trans ?_ (takeEffect_kept _ _ _ _)
    assumption
  clear_value v7
  extract_lets +onlyGivenNames v9
  have h10 : Kept s v9 := by
    unfold v9
    split
    · refine Kept.trans ?_ (completeFormat_kept _ _ _ _)
      assumption
    · assumption
  clear_value v9
  split
  · refine Kept.trans ?_ (settleIssued_kept _ _ _)
    assumption
  · assumption

theorem missNotice_kept : ∀ n s, Kept s (missNotice n s) := by
  intro n s
  unfold missNotice
  split
  · refine Kept.trans ?_ (cancelIssued_kept _ _ _ _)
    exact Kept.refl _
  · extract_lets +onlyGivenNames v0
    clear_value v0
    extract_lets +onlyGivenNames v1
    have h2 : Kept s v1 := by
      unfold v1
      refine Kept.trans ?_ (raise_kept _ _ _)
      refine Kept.trans ?_ (dropNotice_kept _ _)
      exact Kept.refl _
    clear_value v1
    refine Kept.setMan (X := v1) ?_ _
    assumption

theorem applyDue_kept : ∀ p s, Kept s (applyDue p s) := by
  intro p s
  unfold applyDue
  extract_lets +onlyGivenNames v0
  clear_value v0
  extract_lets +onlyGivenNames v1
  have h2 : Kept s v1 := by
    unfold v1
    refine Kept.foldl (fun y x => ?_) ?_
    · split
      · refine Kept.trans ?_ (applyNotice_kept _ _)
        exact Kept.refl _
      · refine Kept.trans ?_ (missNotice_kept _ _)
        exact Kept.refl _
    · exact Kept.refl _
  clear_value v1
  split
  · assumption
  · refine Kept.trans ?_ (dropCopies_kept _)
    assumption

theorem syncDue_kept : ∀ s, Kept s (syncDue s) := by
  intro s
  unfold syncDue
  split
  · exact Kept.refl _
  · split
    · exact Kept.refl _
    · extract_lets +onlyGivenNames v0
      clear_value v0
      extract_lets +onlyGivenNames v1
      clear_value v1
      extract_lets +onlyGivenNames v2
      have h3 : Kept s v2 := by
        unfold v2
        refine Kept.setMan (X := s) ?_ _
        exact Kept.refl _
      clear_value v2
      extract_lets +onlyGivenNames v4
      have h5 : Kept s v4 := by
        unfold v4
        refine Kept.foldl (fun y x => ?_) ?_
        · refine Kept.trans ?_ (entryTurned_kept _ _ _ _)
          exact Kept.refl _
        · assumption
      clear_value v4
      refine Kept.trans ?_ (result_kept _ _ _ _ _)
      refine Kept.trans ?_ (dropCopies_kept _)
      assumption

end Sys2Proof.Machine
end

