-- ==== Sys2Proof/Laws/KeptReset.lean ====
section
/-! SUPPORT. One lemma per operation of resets, the lifeboat, the mailboxes and the keys: what it keeps. -/

namespace Sys2Proof.Machine
open Sys2Proof

/-! Reset -/

theorem warmReset_kept : ∀ cause s, Kept s (warmReset cause s) := by
  intro cause s
  exact ⟨rfl, id, fun _ => ⟨List.Pairwise.nil, fun _ h => nomatch h⟩, rfl, rfl, rfl, le_rfl, id⟩

/-- What a cold reset keeps: everything of the relation but the latch. -/
theorem coldReset_keptC : ∀ vstby cause s, KeptC s (coldReset vstby cause s) := by
  intro vstby cause s
  unfold coldReset
  cases vstby <;>
    exact ⟨rfl, fun _ => ⟨List.Pairwise.nil, fun _ h => nomatch h⟩, fun _ => ⟨List.Pairwise.nil, fun _ h => nomatch h⟩,
      rfl, rfl, rfl, le_rfl, fun _ => Or.inr rfl⟩

theorem selfReset_keptC : ∀ s, KeptC s (selfReset s) := by
  intro s
  unfold selfReset
  extract_lets s1 d x1 x2 p
  have h1 : Kept s s1 := (raise_kept 0x1114 [] s).trans (closeBypass_kept _)
  have h2 : Kept s1 d.2 := draw_kept s1
  clear_value s1
  have h3 : Kept s p.2 :=
    (Kept.mapIsl (fun x => { x with cause := 0x1114 }) (fun _ => rfl) (fun _ => rfl) (fun _ => rfl) (h1.trans h2)).trans
      (startFlush_kept _ _ _)
  clear_value p
  split
  · exact h3.toC
  · exact h3.thenC (coldReset_keptC _ _ _)

theorem endLbFlush_kept : ∀ window code s, Kept s (endLbFlush window code s) := by
  intro window code s
  unfold endLbFlush
  extract_lets +onlyGivenNames v0
  extract_lets +onlyGivenNames v1
  extract_lets +onlyGivenNames v2
  clear_value v2
  extract_lets +onlyGivenNames v3
  have h4 : Kept s v3 := by
    unfold v3
    refine Kept.of (X := s) ?_ rfl ?_ ?_ ?_ ?_ ?_ ?_ ?_
    · exact Kept.refl _
    · rfl
    · rfl
    · split <;> rfl
    · split <;> rfl
    · split <;> rfl
    · rfl
    · rfl
  clear_value v3
  split
  · refine Kept.trans ?_ (signal_kept _ _)
    assumption
  · assumption

theorem markBanks_kept : ∀ s, Kept s (markBanks s) := by
  intro s
  unfold markBanks
  refine Kept.of (X := s) ?_ rfl rfl rfl rfl rfl rfl rfl rfl
  exact Kept.refl _

theorem bootFrom_kept : ∀ n s, Kept s (bootFrom n s) := by
  intro n s
  unfold bootFrom
  extract_lets +onlyGivenNames v0
  extract_lets +onlyGivenNames v1
  extract_lets +onlyGivenNames v2
  have h3 : Kept s v2 := by
    unfold v2
    refine Kept.of (X := s) ?_ rfl rfl rfl rfl rfl rfl rfl rfl
    exact Kept.refl _
  clear_value v2
  extract_lets +onlyGivenNames v4
  clear_value v4
  extract_lets +onlyGivenNames v5
  have h6 : Kept s v5 := by
    unfold v5
    refine Kept.trans ?_ (measureSecurity_kept _)
    refine Kept.trans ?_ (measureLayers_kept _)
    refine Kept.trans ?_ (measure_kept _ _ _ _ _ _)
    assumption
  clear_value v5
  extract_lets +onlyGivenNames v7
  have h8 : Kept s v7 := by
    unfold v7
    refine Kept.foldl (fun y x => ?_) ?_
    · refine Kept.trans ?_ (measure_kept _ _ _ _ _ _)
      exact Kept.refl _
    · assumption
  clear_value v7
  extract_lets +onlyGivenNames v9
  have h10 : Kept s v9 := by
    unfold v9
    refine Kept.foldl (fun y x => ?_) ?_
    · refine Kept.trans ?_ (measureProgram_kept _ _)
      exact Kept.refl _
    · assumption
  clear_value v9
  refine Kept.trans ?_ (deriveKeys_kept _)
  refine Kept.of (X := v9) ?_ rfl rfl rfl rfl rfl rfl rfl rfl
  assumption

theorem recover_kept : ∀ s, Kept s (recover s) := by
  intro s
  unfold recover
  refine Kept.of (X := s) ?_ rfl rfl rfl rfl rfl rfl rfl rfl
  exact Kept.refl _

theorem bootSsd_kept : ∀ ok0 ok1 ssdOk s, Kept s (bootSsd ok0 ok1 ssdOk s) := by
  intro ok0 ok1 ssdOk s
  unfold bootSsd
  split
  · refine Kept.trans ?_ (raise_kept _ _ _)
    refine Kept.trans ?_ (recover_kept _)
    refine Kept.of (X := s) ?_ rfl rfl rfl rfl rfl rfl rfl rfl
    exact Kept.refl _
  · extract_lets +onlyGivenNames v0
    clear_value v0
    extract_lets +onlyGivenNames v1
    clear_value v1
    extract_lets +onlyGivenNames v2
    have h3 : Kept s v2 := by
      unfold v2
      refine Kept.trans ?_ (markBanks_kept _)
      exact Kept.refl _
    clear_value v2
    split
    · refine Kept.trans ?_ (bootFrom_kept _ _)
      assumption
    · split
      · refine Kept.trans ?_ (raise_kept _ _ _)
        refine Kept.trans ?_ (bootFrom_kept _ _)
        assumption
      · refine Kept.trans ?_ (recover_kept _)
        assumption

theorem untrained_kept : ∀ s, Kept s (untrained s) := by
  intro s
  unfold untrained
  refine Kept.trans ?_ (raise_kept _ _ _)
  refine Kept.trans ?_ (recover_kept _)
  refine Kept.of (X := s) ?_ rfl rfl rfl rfl rfl rfl rfl rfl
  exact Kept.refl _

/-! Lifeboat -/

theorem lbReport_kept : ∀ path op id code state s, Kept s (lbReport path op id code state s) := by
  intro path op id code state s
  unfold lbReport
  extract_lets +onlyGivenNames v0
  clear_value v0
  extract_lets +onlyGivenNames v1
  have h2 : Kept s v1 := by
    unfold v1
    refine Kept.trans ?_ (recordReason_kept _ _)
    exact Kept.refl _
  clear_value v1
  split
  · extract_lets +onlyGivenNames v3
    extract_lets +onlyGivenNames v4
    have h5 : Kept s v4 := by
      unfold v4
      refine Kept.of (X := v1) ?_ rfl rfl rfl rfl rfl rfl rfl rfl
      assumption
    clear_value v4
    split
    · refine Kept.trans ?_ (signal_kept _ _)
      assumption
    · assumption
  · refine Kept.of (X := v1) ?_ rfl rfl rfl rfl rfl rfl rfl rfl
    assumption

theorem lbBegin_kept : ∀ path op id code effect s, (∀ a0, Kept a0 (effect a0)) → Kept s (lbBegin path op id code effect s) := by
  intro path op id code effect s hf0
  unfold lbBegin
  extract_lets +onlyGivenNames v0
  have h1 : Kept s v0 := by
    unfold v0
    refine Kept.trans ?_ (lbReport_kept _ _ _ _ _ _)
    refine Kept.trans ?_ (hf0 _)
    exact Kept.refl _
  clear_value v0
  refine Kept.of (X := v0) ?_ rfl rfl rfl rfl rfl rfl rfl rfl
  assumption

theorem lbEnd_kept : ∀ r s, Kept s (lbEnd r s) := by
  intro r s
  unfold lbEnd
  extract_lets +onlyGivenNames v0
  clear_value v0
  split
  · refine Kept.trans ?_ (lbReport_kept _ _ _ _ _ _)
    exact Kept.refl _
  · refine Kept.trans ?_ (recordReason_kept _ _)
    exact Kept.refl _

theorem lbTick_kept : ∀ s, Kept s (lbTick s) := by
  intro s
  unfold lbTick
  refine Kept.foldl (fun y x => ?_) ?_
  · refine Kept.trans ?_ (lbEnd_kept _ _)
    exact Kept.refl _
  · refine Kept.of (X := s) ?_ rfl rfl rfl rfl rfl rfl rfl rfl
    exact Kept.refl _

theorem idle_kept : ∀ s, Kept s (idle s) := by
  intro s
  unfold idle
  refine Kept.trans ?_ (sendOwed_kept _)
  refine Kept.trans ?_ (lbTick_kept _)
  refine Kept.setRefCycles (X := s) ?_ _
  exact Kept.refl _

theorem freezeDevice_kept : ∀ s, Kept s (freezeDevice s) := by
  intro s
  unfold freezeDevice
  split
  · refine Kept.of (X := s) ?_ rfl rfl rfl rfl rfl rfl rfl rfl
    exact Kept.refl _
  · exact Kept.refl _

theorem zeroize_kept : ∀ c s, Kept s (zeroize c s) := by
  intro c s
  unfold zeroize
  split
  · exact Kept.refl _
  · extract_lets +onlyGivenNames v0
    have h1 : Kept s v0 := by
      unfold v0
      refine Kept.trans ?_ (lockStage_kept _ _)
      exact Kept.refl _
    clear_value v0
    extract_lets +onlyGivenNames v2
    clear_value v2
    extract_lets +onlyGivenNames v3
    extract_lets +onlyGivenNames v4
    have h5 : Kept s v4 := by
      unfold v4
      refine Kept.of (X := v0) ?_ rfl rfl rfl rfl rfl rfl rfl rfl
      assumption
    clear_value v4
    refine Kept.trans ?_ (itemsOfCharter_kept _ _)
    assumption

theorem dropFrames_kept : ∀ s, Kept s (dropFrames s) := by
  intro s
  unfold dropFrames
  refine Kept.foldl (fun y x => ?_) ?_
  · split
    · exact Kept.refl _
    · extract_lets +onlyGivenNames v0
      clear_value v0
      split
      · exact Kept.refl _
      · refine Kept.trans ?_ (raise_kept _ _ _)
        refine Kept.trans ?_ (sendPlain_kept _ _ _)
        refine Kept.trans ?_ (setCodec_kept _ _ _)
        exact Kept.refl _
  · exact Kept.refl _

theorem resetEngines_kept : ∀ k s, Kept s (resetEngines k s) := by
  intro k s
  unfold resetEngines
  extract_lets +onlyGivenNames v0
  clear_value v0
  extract_lets +onlyGivenNames v1
  clear_value v1
  extract_lets +onlyGivenNames v2
  have h3 : Kept s v2 := by
    unfold v2
    refine Kept.setEngines (X := s) ?_ _
    exact Kept.refl _
  clear_value v2
  extract_lets +onlyGivenNames v4
  clear_value v4
  extract_lets +onlyGivenNames v5
  have h6 : Kept s v5 := by
    unfold v5
    refine Kept.foldl (fun y x => ?_) ?_
    · split
      · refine Kept.trans ?_ (leaveJob_kept _ _ _)
        exact Kept.refl _
      · refine Kept.trans ?_ (reissueJob_kept _ _)
        refine Kept.trans ?_ (abandonDelivery_kept _ _ _)
        exact Kept.refl _
    · assumption
  clear_value v5
  split
  · refine Kept.trans ?_ (dropFrames_kept _)
    assumption
  · assumption

theorem resetHarbour_kept : ∀ s, Kept s (resetHarbour s) := by
  intro s
  unfold resetHarbour
  refine Kept.of (X := s) ?_ rfl rfl rfl rfl rfl rfl rfl rfl
  exact Kept.refl _

theorem resetTelemetry_kept : ∀ s, Kept s (resetTelemetry s) := by
  intro s
  unfold resetTelemetry
  refine Kept.of (X := s) ?_ rfl rfl rfl rfl rfl rfl rfl rfl
  exact Kept.refl _

theorem lbDone_kept {path : LbPath} {op id : Nat} {ok : Bool} {effect : State → State} {s t : State}
    (he : ∀ y, Kept y (effect y)) (h : lbDone path op id ok effect s = .next t) : Kept s t := by
  unfold lbDone at h
  injection h with h
  subst h
  split
  · exact lbReport_kept _ _ _ _ _ _
  · split
    · exact lbReport_kept _ _ _ _ _ _
    · exact lbBegin_kept _ _ _ _ _ _ he

theorem lbExclusive_kept {path : LbPath} {op id : Nat} {ok needs : Bool} {run : State → State} {s t : State}
    (he : ∀ y, Kept y (run y)) (h : lbExclusive path op id ok needs run s = .next t) : Kept s t := by
  unfold lbExclusive at h
  injection h with h
  subst h
  split
  · exact lbReport_kept _ _ _ _ _ _
  · split
    · exact lbReport_kept _ _ _ _ _ _
    · split
      · exact lbBegin_kept _ _ _ _ _ _ fun y => Kept.refl y
      · exact he s

theorem writeLbCmd_kept : ∀ v s, Kept s (writeLbCmd v s) := by
  intro v s
  unfold writeLbCmd
  extract_lets op p id run d
  have K : ∀ (a : Ans) (y : State), Kept s y → (∀ t, a = .next t → Kept y t) → Kept s (run a) := by
    intro a y hy h
    cases a with
    | next t => exact hy.trans (h t rfl)
    | fault r => exact Kept.refl s
    | refused r => exact Kept.refl s
  clear_value run
  split
  · refine K _ s (Kept.refl s) fun t h => ?_
    unfold execLifeboatStatus at h
    injection h with h
    subst h
    exact lbReport_kept _ _ _ _ _ _
  split
  · exact K _ s (Kept.refl s) fun t h => lbDone_kept freezeDevice_kept h
  split
  · refine K _ s (Kept.refl s) fun t h => ?_
    unfold execDumpSnapshot at h
    refine lbExclusive_kept ?_ h
    exact fun y => lbBegin_kept _ _ _ _ _ _ fun z =>
      Kept.of (X := z) (Kept.refl z) rfl rfl rfl rfl rfl rfl rfl rfl
  split
  · refine K _ s (Kept.refl s) fun t h => lbDone_kept (fun y => ?_) h
    split
    · exact zeroize_kept _ _
    · exact Kept.refl y
  split
  · refine K _ s (Kept.refl s) fun t h => lbDone_kept (fun y => ?_) h
    split
    · exact Kept.refl y
    · exact Kept.of (X := y.man.charters.foldl (fun s p => zeroize p.1 s) y)
        (Kept.foldl (fun _ _ => zeroize_kept _ _) (Kept.refl y)) rfl rfl rfl rfl rfl rfl rfl rfl
  split
  · exact K _ s (Kept.refl s) fun t h => lbDone_kept closeBypass_kept h
  split
  · refine K _ d.2 (draw_kept s) fun t h => lbExclusive_kept (fun y => ?_) h
    have hq := (freezeDevice_kept y).trans (startFlush_kept (some (d.1 % 65536)) (.lifeboat (decide (LbPath.window = .window)))
      (freezeDevice y))
    dsimp only
    split
    · exact (Kept.mapIsl (fun x => { x with exclusive := some 7 }) (fun _ => rfl) (fun _ => rfl) (fun _ => rfl) hq).trans
        (lbReport_kept _ _ _ _ _ _)
    · exact hq.trans (lbBegin_kept _ _ _ _ _ _ fun z => Kept.refl z)
  split
  · refine K _ s (Kept.refl s) fun t h => lbExclusive_kept (fun y => ?_) h
    extract_lets y1
    have hy : Kept y y1 := by
      unfold y1
      split
      · exact Kept.refl y
      · split
        · exact resetEngines_kept _ _
        · split
          · exact resetHarbour_kept _
          · exact resetTelemetry_kept _
    clear_value y1
    exact hy.trans (lbBegin_kept _ _ _ _ _ _ fun z => Kept.of (X := z) (Kept.refl z) rfl rfl rfl rfl rfl rfl rfl rfl)
  split
  · refine K _ s (Kept.refl s) fun t h => ?_
    unfold execReadMeasurements at h
    refine lbExclusive_kept ?_ h
    exact fun y => lbBegin_kept _ _ _ _ _ _ fun z =>
      Kept.of (X := z) (Kept.refl z) rfl rfl rfl rfl rfl rfl rfl rfl
  · exact lbReport_kept _ _ _ _ _ _

theorem regWrite4_kept : ∀ off v s, Kept s (regWrite4 off v s) := by
  intro off v s
  unfold regWrite4
  split
  · refine Kept.trans ?_ (writeReasonClear_kept _ _)
    exact Kept.refl _
  · split
    · refine Kept.trans ?_ (writeEvHead_kept _ _)
      exact Kept.refl _
    · split
      · refine Kept.trans ?_ (writeEvSignal_kept _ _)
        exact Kept.refl _
      · split
        · extract_lets +onlyGivenNames v0
          clear_value v0
          extract_lets +onlyGivenNames v1
          clear_value v1
          split
          · refine Kept.trans ?_ (writeCmdTail_kept _ _ _)
            exact Kept.refl _
          · split
            · refine Kept.trans ?_ (writeCplHead_kept _ _ _)
              exact Kept.refl _
            · split
              · refine Kept.trans ?_ (writeMbSignal_kept _ _ _)
                exact Kept.refl _
              · exact Kept.refl _
        · split
          · extract_lets +onlyGivenNames v2
            clear_value v2
            extract_lets +onlyGivenNames v3
            clear_value v3
            split
            · refine Kept.trans ?_ (writeLighterBase_kept _ _ _ _)
              exact Kept.refl _
            · split
              · refine Kept.trans ?_ (writeLighterBase_kept _ _ _ _)
                exact Kept.refl _
              · split
                · refine Kept.trans ?_ (writeLighterCtl_kept _ _ _)
                  exact Kept.refl _
                · split
                  · refine Kept.trans ?_ (writeInTail_kept _ _ _)
                    exact Kept.refl _
                  · split
                    · refine Kept.trans ?_ (writeOutHead_kept _ _ _)
                      exact Kept.refl _
                    · exact Kept.refl _
          · split
            · refine Kept.trans ?_ (writeLbCmd_kept _ _)
              exact Kept.refl _
            · exact Kept.refl _

/-! Mailbox -/

theorem advanceHead_kept : ∀ m n s, Kept s (advanceHead m n s) := by
  intro m n s
  unfold advanceHead
  extract_lets +onlyGivenNames v0
  clear_value v0
  refine Kept.trans ?_ (setBox_kept _ _ _)
  exact Kept.refl _

theorem takeCommand_kept : ∀ m s, Kept s (takeCommand m s) := by
  intro m s
  unfold takeCommand
  extract_lets +onlyGivenNames v0
  clear_value v0
  split
  · exact Kept.refl _
  · extract_lets +onlyGivenNames v1
    clear_value v1
    extract_lets +onlyGivenNames v2
    clear_value v2
    extract_lets +onlyGivenNames v3
    clear_value v3
    extract_lets +onlyGivenNames v4
    extract_lets +onlyGivenNames v5
    have h6 : Kept s v5 := by
      unfold v5
      refine Kept.trans ?_ (advanceHead_kept _ _ _)
      refine Kept.of (X := s) ?_ rfl rfl rfl rfl rfl rfl rfl rfl
      exact Kept.refl _
    clear_value v5
    split
    · assumption
    · extract_lets +onlyGivenNames v7
      clear_value v7
      extract_lets +onlyGivenNames v8
      clear_value v8
      split
      · refine Kept.trans ?_ (result_kept _ _ _ _ _)
        assumption
      · extract_lets +onlyGivenNames v9
        clear_value v9
        extract_lets +onlyGivenNames v10
        clear_value v10
        extract_lets +onlyGivenNames v11
        clear_value v11
        refine Kept.trans ?_ (setBox_kept _ _ _)
        refine Kept.of (X := v5) ?_ rfl rfl rfl rfl rfl rfl rfl rfl
        assumption

/-! Keys -/

theorem setSweep_kept : ∀ x s, Kept s (setSweep x s) := by
  intro x s
  unfold setSweep
  refine Kept.of (X := s) ?_ rfl rfl rfl rfl rfl rfl rfl rfl
  exact Kept.refl _

theorem announceEnd_kept : ∀ c removal s, Kept s (announceEnd c removal s) := by
  intro c removal s
  unfold announceEnd
  split
  · exact Kept.refl _
  · split
    · exact Kept.refl _
    · extract_lets +onlyGivenNames v0
      clear_value v0
      refine Kept.trans ?_ (keyBoundary_kept _ _ _ _)
      refine Kept.trans ?_ (broadcast_kept _ _ _)
      refine Kept.trans ?_ (setIssued_kept _ _)
      exact Kept.refl _

theorem takeReport_kept : ∀ c device removal counts s, Kept s (takeReport c device removal counts s) := by
  intro c device removal counts s
  unfold takeReport
  split
  · exact Kept.refl _
  · split
    · exact Kept.refl _
    · extract_lets +onlyGivenNames v0
      clear_value v0
      refine Kept.trans ?_ (announceEnd_kept _ _ _)
      refine Kept.trans ?_ (setIssued_kept _ _)
      exact Kept.refl _

theorem reportRotation_kept : ∀ c s, Kept s (reportRotation c s) := by
  intro c s
  unfold reportRotation
  split
  · exact Kept.refl _
  · split
    · exact Kept.refl _
    · refine Kept.trans ?_ (takeReport_kept _ _ _ _ _)
      refine Kept.trans ?_ (broadcast_kept _ _ _)
      refine Kept.trans ?_ (setSweep_kept _ _)
      exact Kept.refl _

theorem sweepPage_kept : ∀ entry page s, Kept s (sweepPage entry page s) := by
  intro entry page s
  unfold sweepPage
  extract_lets +onlyGivenNames v0
  clear_value v0
  extract_lets +onlyGivenNames v1
  clear_value v1
  split
  · exact Kept.refl _
  · refine Kept.trans ?_ (endOwnStep_kept _ _)
    refine Kept.trans ?_ (pumpReads_kept _ _)
    refine Kept.trans ?_ (setQueue_kept _ _ _)
    exact Kept.refl _

theorem finishRotation_kept : ∀ c s, Kept s (finishRotation c s) := by
  intro c s
  unfold finishRotation
  split
  · split
    · exact Kept.refl _
    · split
      · exact Kept.refl _
      · extract_lets +onlyGivenNames v0
        clear_value v0
        extract_lets +onlyGivenNames v1
        clear_value v1
        extract_lets +onlyGivenNames v2
        clear_value v2
        extract_lets +onlyGivenNames v3
        extract_lets +onlyGivenNames v4
        have h5 : Kept s v4 := by
          unfold v4
          refine Kept.of (X := s) ?_ rfl rfl rfl rfl rfl rfl rfl rfl
          exact Kept.refl _
        clear_value v4
        split
        · refine Kept.trans ?_ (completeIssued_kept _ _ _ _ _ _)
          assumption
        · assumption
  · exact Kept.refl _

theorem reportRemoval_kept : ∀ c s, Kept s (reportRemoval c s) := by
  intro c s
  unfold reportRemoval
  split
  · exact Kept.refl _
  · split
    · exact Kept.refl _
    · extract_lets +onlyGivenNames v0
      clear_value v0
      refine Kept.trans ?_ (takeReport_kept _ _ _ _ _)
      refine Kept.trans ?_ (broadcast_kept _ _ _)
      refine Kept.trans ?_ (setSweep_kept _ _)
      exact Kept.refl _

theorem clearCharter_kept : ∀ c s, Kept s (clearCharter c s) := by
  intro c s
  unfold clearCharter
  extract_lets +onlyGivenNames v0
  have h1 : Kept s v0 := by
    unfold v0
    refine Kept.trans ?_ (lockStage_kept _ _)
    exact Kept.refl _
  clear_value v0
  refine Kept.of (X := v0) ?_ rfl rfl rfl rfl rfl rfl rfl rfl
  assumption

theorem finishRemoval_kept : ∀ c s, Kept s (finishRemoval c s) := by
  intro c s
  unfold finishRemoval
  split
  · exact Kept.refl _
  · split
    · exact Kept.refl _
    · split
      · exact Kept.refl _
      · extract_lets +onlyGivenNames v0
        have h1 : Kept s v0 := by
          unfold v0
          refine Kept.trans ?_ (clearCharter_kept _ _)
          exact Kept.refl _
        clear_value v0
        split
        · refine Kept.trans ?_ (completeIssued_kept _ _ _ _ _ _)
          assumption
        · assumption

theorem keyTide_kept : ∀ s, Kept s (keyTide s) := by
  intro s
  unfold keyTide
  extract_lets +onlyGivenNames v0
  extract_lets +onlyGivenNames v1
  have h2 : Kept s v1 := by
    unfold v1
    refine Kept.of (X := s) ?_ rfl rfl rfl rfl rfl rfl rfl rfl
    exact Kept.refl _
  clear_value v1
  refine Kept.foldl (fun y x => ?_) ?_
  · split
    · refine Kept.trans ?_ (finishRemoval_kept _ _)
      refine Kept.trans ?_ (reportRemoval_kept _ _)
      exact Kept.refl _
    · refine Kept.trans ?_ (finishRotation_kept _ _)
      refine Kept.trans ?_ (reportRotation_kept _ _)
      exact Kept.refl _
  · assumption

theorem moveAnswers_kept : ∀ s, Kept s (moveAnswers s) := by
  intro s
  unfold moveAnswers
  refine Kept.foldl (fun y x => ?_) ?_
  · extract_lets +onlyGivenNames v0
    clear_value v0
    extract_lets +onlyGivenNames v1
    have h2 : Kept y v1 := by
      unfold v1
      refine Kept.trans ?_ (setBox_kept _ _ _)
      exact Kept.refl _
    clear_value v1
    refine Kept.foldl (fun y x => ?_) ?_
    · extract_lets +onlyGivenNames v3
      have h4 : Kept y v3 := by
        unfold v3
        refine Kept.trans ?_ (lighterSend_kept _ _ _ _)
        exact Kept.refl _
      clear_value v3
      split
      · refine Kept.trans ?_ (retireJob_kept _ _)
        assumption
      · assumption
    · assumption
  · exact Kept.refl _

theorem enterConfidential_kept : ∀ s, Kept s (enterConfidential s) := by
  intro s
  unfold enterConfidential
  split
  · exact Kept.refl _
  · split
    · exact Kept.refl _
    · refine Kept.trans ?_ (moveAnswers_kept _)
      refine Kept.trans ?_ (result_kept _ _ _ _ _)
      refine Kept.trans ?_ (measureSecurity_kept _)
      refine Kept.by (X := s) ?_ rfl id id rfl rfl rfl le_rfl (fun _ => rfl)
      exact Kept.refl _

theorem passRecord_kept : ∀ l len s, Kept s (passRecord l len s) := by
  intro l len s
  unfold passRecord
  extract_lets +onlyGivenNames v0
  clear_value v0
  extract_lets +onlyGivenNames v1
  clear_value v1
  extract_lets +onlyGivenNames v2
  clear_value v2
  extract_lets +onlyGivenNames v3
  clear_value v3
  extract_lets +onlyGivenNames v4
  clear_value v4
  extract_lets +onlyGivenNames v5
  clear_value v5
  extract_lets +onlyGivenNames v6
  have h7 : Kept s v6 := by
    unfold v6
    refine Kept.trans ?_ (setLighter_kept _ _ _)
    exact Kept.refl _
  clear_value v6
  split
  · refine Kept.trans ?_ (emit_kept _ _)
    assumption
  · assumption

theorem discardRecord_kept : ∀ l code s, Kept s (discardRecord l code s) := by
  intro l code s
  unfold discardRecord
  refine Kept.trans ?_ (raiseLimited_kept _ _ _ _ _ _)
  refine Kept.of (X := s) ?_ rfl rfl rfl rfl rfl rfl rfl rfl
  exact Kept.refl _

theorem lighterCommand_kept : ∀ l b s, Kept s (lighterCommand l b s) := by
  intro l b s
  unfold lighterCommand
  extract_lets +onlyGivenNames v0
  clear_value v0
  extract_lets +onlyGivenNames v1
  clear_value v1
  split
  · exact Kept.refl _
  · extract_lets +onlyGivenNames v2
    clear_value v2
    extract_lets +onlyGivenNames v3
    clear_value v3
    extract_lets +onlyGivenNames v4
    clear_value v4
    split
    · refine Kept.trans ?_ (result_kept _ _ _ _ _)
      exact Kept.refl _
    · extract_lets +onlyGivenNames v5
      clear_value v5
      refine Kept.of (X := s) ?_ rfl rfl rfl rfl rfl rfl rfl rfl
      exact Kept.refl _

theorem lighterTransaction_kept : ∀ b s, Kept s (lighterTransaction b s) := by
  intro b s
  unfold lighterTransaction
  extract_lets +onlyGivenNames v0
  clear_value v0
  split
  · refine Kept.trans ?_ (refuseHost_kept _ _ _ _)
    refine Kept.trans ?_ (countRemoval_kept _ _ _ _ _)
    exact Kept.refl _
  · refine Kept.trans ?_ (hostArrive_kept _ _ _)
    exact Kept.refl _

end Sys2Proof.Machine
end

