-- ==== Sys2Proof/Laws/KeptTide.lean ====
section
/-! SUPPORT. One lemma per operation of answers, replay, losses, the Pilot, SPDM, the tide and the transmit slots: what it keeps. -/

namespace Sys2Proof.Machine
open Sys2Proof

/-! Respond -/

theorem discardResponse_kept : ∀ s, Kept s (discardResponse s) := by
  intro s
  unfold discardResponse
  refine Kept.setIng (X := s) ?_ _
  exact Kept.refl _

theorem resendWindow_kept : ∀ o s, Kept s (resendWindow o s) := by
  intro o s
  unfold resendWindow
  extract_lets +onlyGivenNames v0
  clear_value v0
  extract_lets +onlyGivenNames v1
  have h2 : Kept s v1.2 := by
    unfold v1
    refine Kept.trans ?_ (resendOwn_kept _ _)
    refine Kept.setIng (X := s) ?_ _
    exact Kept.refl _
  clear_value v1
  extract_lets +onlyGivenNames v3
  have h4 : Kept s v3 := by
    unfold v3
    assumption
  clear_value v3
  refine Kept.setIng (X := v3) ?_ _
  assumption

theorem jobNext_kept : ∀ key s, Kept s (jobNext key s) := by
  intro key s
  unfold jobNext
  refine Kept.trans ?_ (trySeals_kept _ _)
  refine Kept.trans ?_ (jobLand_kept _ _)
  refine Kept.trans ?_ (freeJob_kept _ _)
  exact Kept.refl _

theorem ownAnswered_kept : ∀ o r s, Kept s (ownAnswered o r s) := by
  intro o r s
  unfold ownAnswered
  split
  · refine Kept.trans ?_ (jobNext_kept _ _)
    refine Kept.trans ?_ (jobAnswered_kept _ _ _ _)
    exact Kept.refl _
  · split
    · refine Kept.trans ?_ (resendWindow_kept _ _)
      exact Kept.refl _
    · extract_lets +onlyGivenNames v0
      clear_value v0
      extract_lets +onlyGivenNames v1
      have h2 : Kept s v1 := by
        unfold v1
        refine Kept.setIng (X := s) ?_ _
        exact Kept.refl _
      clear_value v1
      split
      · refine Kept.trans ?_ (readWindowAnswer_kept _ _ _ _)
        assumption
      · split
        · refine Kept.trans ?_ (atomWindowAnswer_kept _ _ _)
          assumption
        · refine Kept.trans ?_ (wakeHeld_kept _)
          refine Kept.trans ?_ (agentAnswer_kept _ _ _)
          assumption

/-! Replay -/

theorem answerAccept_kept : ∀ kind dest logSeq full body s, Kept s (answerAccept kind dest logSeq full body s) := by
  intro kind dest logSeq full body s
  unfold answerAccept
  extract_lets +onlyGivenNames v0
  clear_value v0
  refine Kept.trans ?_ (ringSend_kept _ _ _)
  refine Kept.setRing (X := s) ?_ _
  exact Kept.refl _

theorem markHandled_kept : ∀ fromDev msgId s, Kept s (markHandled fromDev msgId s) := by
  intro fromDev msgId s
  unfold markHandled
  refine Kept.setRing (X := s) ?_ _
  exact Kept.refl _

theorem writeReplica_kept : ∀ fromDev r s, Kept s (writeReplica fromDev r s) := by
  intro fromDev r s
  unfold writeReplica
  extract_lets +onlyGivenNames v0
  clear_value v0
  split
  · refine Kept.trans ?_ (answerAccept_kept _ _ _ _ _ _)
    exact Kept.refl _
  · extract_lets +onlyGivenNames v1
    have h2 : Kept s v1 := by
      unfold v1
      refine Kept.trans ?_ (logPut_kept _ _)
      exact Kept.refl _
    clear_value v1
    refine Kept.trans ?_ (answerAccept_kept _ _ _ _ _ _)
    refine Kept.trans ?_ (logTrim_kept _ _)
    assumption

theorem recordSafe_kept : ∀ r s, Kept s (recordSafe r s) := by
  intro r s
  unfold recordSafe
  extract_lets +onlyGivenNames v0
  clear_value v0
  split
  · exact Kept.refl _
  · split
    · exact Kept.refl _
    · split
      · refine Kept.trans ?_ (acceptJob_kept _ _)
        exact Kept.refl _
      · split
        · refine Kept.trans ?_ (beginAttempt_kept _ _)
          exact Kept.refl _
        · split
          · refine Kept.trans ?_ (postComplete_kept _ _ _)
            exact Kept.refl _
          · exact Kept.refl _

theorem sendAgain_kept : ∀ t s, Kept s (sendAgain t s) := by
  intro t s
  unfold sendAgain
  split
  · refine Kept.trans ?_ (sendFragments_kept _ _ _ _)
    exact Kept.refl _
  · refine Kept.trans ?_ (ringSend_kept _ _ _)
    exact Kept.refl _
  · exact Kept.refl _

theorem resendOne_kept : ∀ t s, Kept s (resendOne t s) := by
  intro t s
  unfold resendOne
  split
  · extract_lets +onlyGivenNames v0
    clear_value v0
    extract_lets +onlyGivenNames v1
    have h2 : Kept s v1 := by
      unfold v1
      refine Kept.setAcc (X := s) ?_ _
      exact Kept.refl _
    clear_value v1
    refine Kept.trans ?_ (sendAgain_kept _ _)
    assumption
  · split
    · exact Kept.refl _
    · extract_lets +onlyGivenNames v3
      extract_lets +onlyGivenNames v4
      split
      · refine Kept.trans ?_ (wakeOffers_kept _)
        refine Kept.trans ?_ (voidJob_kept _ _ _)
        refine Kept.setAcc (X := s) ?_ _
        exact Kept.refl _
      · exact Kept.refl _

theorem replayJob_kept : ∀ t s, Kept s (replayJob t s) := by
  intro t s
  unfold replayJob
  extract_lets +onlyGivenNames v0
  have h1 : Kept s v0.2 := by
    unfold v0
    refine Kept.trans ?_ (draw_kept _)
    exact Kept.refl _
  clear_value v0
  extract_lets +onlyGivenNames v2
  clear_value v2
  extract_lets +onlyGivenNames v3
  have h4 : Kept s v3 := by
    unfold v3
    assumption
  clear_value v3
  split
  · split
    · assumption
    · extract_lets +onlyGivenNames v5
      clear_value v5
      extract_lets +onlyGivenNames v6
      have h7 : Kept s v6 := by
        unfold v6
        refine Kept.trans ?_ (addJob_kept _ _)
        assumption
      clear_value v6
      extract_lets +onlyGivenNames v8
      have h9 : Kept s v8 := by
        unfold v8
        split
        · refine Kept.trans ?_ (clearHere_kept _ _)
          assumption
        · assumption
      clear_value v8
      extract_lets +onlyGivenNames v10
      have h11 : Kept s v10 := by
        unfold v10
        refine Kept.foldl (fun y x => ?_) ?_
        · refine Kept.trans ?_ (sendClear_kept _ _ _ _)
          exact Kept.refl _
        · assumption
      clear_value v10
      split
      · refine Kept.trans ?_ (freeSlot_kept _ _)
        assumption
      · assumption
  · extract_lets +onlyGivenNames v12
    have h13 : Kept s v12 := by
      unfold v12
      refine Kept.trans ?_ (addJob_kept _ _)
      assumption
    clear_value v12
    split
    · split
      · refine Kept.trans ?_ (retireJob_kept _ _)
        refine Kept.trans ?_ (setJob_kept _ _)
        assumption
      · refine Kept.trans ?_ (postComplete_kept _ _ _)
        assumption
    · split
      · refine Kept.trans ?_ (endJob_kept _ _ _)
        assumption
      · assumption

theorem openQueues_kept : ∀ m s, Kept s (openQueues m s) := by
  intro m s
  unfold openQueues
  refine Kept.foldl (fun y x => ?_) ?_
  · extract_lets +onlyGivenNames v0
    clear_value v0
    extract_lets +onlyGivenNames v1
    clear_value v1
    split
    · refine Kept.trans ?_ (setNext_kept _ _ _ _)
      exact Kept.refl _
    · refine Kept.setAcc (X := y) ?_ _
      exact Kept.refl _
  · exact Kept.refl _

theorem slotAttempts_kept : ∀ ts s, Kept s (slotAttempts ts s) := by
  intro ts s
  unfold slotAttempts
  refine Kept.foldl (fun y x => ?_) ?_
  · split
    · exact Kept.refl _
    · refine Kept.setAcc (X := y) ?_ _
      exact Kept.refl _
  · exact Kept.refl _

theorem replay_kept : ∀ s, Kept s (replay s) := by
  intro s
  unfold replay
  extract_lets +onlyGivenNames v0
  clear_value v0
  extract_lets +onlyGivenNames v1
  clear_value v1
  extract_lets +onlyGivenNames v2
  clear_value v2
  extract_lets +onlyGivenNames v3
  have h4 : Kept s v3 := by
    unfold v3
    refine Kept.setAcc (X := s) ?_ _
    exact Kept.refl _
  clear_value v3
  split
  · refine Kept.setAcc (X := v3) ?_ _
    assumption
  · split
    · assumption
    · extract_lets +onlyGivenNames v5
      clear_value v5
      extract_lets +onlyGivenNames v6
      have h7 : Kept s v6 := by
        unfold v6
        refine Kept.trans ?_ (slotAttempts_kept _ _)
        refine Kept.trans ?_ (openQueues_kept _ _)
        assumption
      clear_value v6
      refine Kept.trans ?_ (wakeOffers_kept _)
      refine Kept.foldl (fun y x => ?_) ?_
      · refine Kept.trans ?_ (replayJob_kept _ _)
        exact Kept.refl _
      · assumption

theorem adoptJob_kept : ∀ t s, Kept s (adoptJob t s) := by
  intro t s
  unfold adoptJob
  extract_lets +onlyGivenNames v0
  have h1 : Kept s v0.2 := by
    unfold v0
    refine Kept.trans ?_ (draw_kept _)
    exact Kept.refl _
  clear_value v0
  extract_lets +onlyGivenNames v2
  clear_value v2
  extract_lets +onlyGivenNames v3
  have h4 : Kept s v3 := by
    unfold v3
    refine Kept.trans ?_ (addJob_kept _ _)
    assumption
  clear_value v3
  extract_lets +onlyGivenNames v5
  clear_value v5
  extract_lets +onlyGivenNames v6
  have h10 : ∀ z7 z8 z9, Kept z9 (v6 z7 z8 z9) := by
    intro y11 y12 y13
    unfold v6
    extract_lets +onlyGivenNames v14
    clear_value v14
    extract_lets +onlyGivenNames v15
    have h16 : Kept y13 v15 := by
      unfold v15
      refine Kept.trans ?_ (logAppend_kept _ _)
      exact Kept.refl _
    clear_value v15
    split
    · assumption
    · refine Kept.trans ?_ (sendRecord_kept _ _ _ _)
      assumption
  clear_value v6
  extract_lets +onlyGivenNames v17
  have h18 : Kept s v17 := by
    unfold v17
    split
    · refine Kept.trans ?_ (h10 _ _ _)
      assumption
    · assumption
  clear_value v17
  extract_lets +onlyGivenNames v19
  have h20 : Kept s v19 := by
    unfold v19
    split
    · assumption
    · refine Kept.trans ?_ (h10 _ _ _)
      assumption
  clear_value v19
  extract_lets +onlyGivenNames v21
  have h22 : Kept s v21 := by
    unfold v21
    split
    · assumption
    · refine Kept.trans ?_ (h10 _ _ _)
      assumption
  clear_value v21
  split
  · split
    · refine Kept.trans ?_ (retireJob_kept _ _)
      refine Kept.trans ?_ (setJob_kept _ _)
      assumption
    · extract_lets +onlyGivenNames v23
      clear_value v23
      extract_lets +onlyGivenNames v24
      have h25 : Kept s v24 := by
        unfold v24
        refine Kept.trans ?_ (h10 _ _ _)
        refine Kept.trans ?_ (setJob_kept _ _)
        assumption
      clear_value v24
      split
      · refine Kept.trans ?_ (postComplete_kept _ _ _)
        assumption
      · assumption
  · split
    · refine Kept.trans ?_ (endJob_kept _ _ _)
      assumption
    · split
      · refine Kept.trans ?_ (endJob_kept _ _ _)
        assumption
      · assumption

theorem adopt_kept : ∀ d s, Kept s (adopt d s) := by
  intro d s
  unfold adopt
  extract_lets +onlyGivenNames v0
  clear_value v0
  extract_lets +onlyGivenNames v1
  clear_value v1
  extract_lets +onlyGivenNames v2
  clear_value v2
  extract_lets +onlyGivenNames v3
  clear_value v3
  extract_lets +onlyGivenNames v4
  clear_value v4
  extract_lets +onlyGivenNames v5
  clear_value v5
  extract_lets +onlyGivenNames v6
  clear_value v6
  extract_lets +onlyGivenNames v7
  clear_value v7
  extract_lets +onlyGivenNames v8
  have h9 : Kept s v8 := by
    unfold v8
    refine Kept.trans ?_ (openQueues_kept _ _)
    refine Kept.setAcc (X := s) ?_ _
    exact Kept.refl _
  clear_value v8
  extract_lets +onlyGivenNames v10
  have h11 : Kept s v10 := by
    unfold v10
    refine Kept.foldl (fun y x => ?_) ?_
    · refine Kept.trans ?_ (adoptJob_kept _ _)
      exact Kept.refl _
    · assumption
  clear_value v10
  refine Kept.trans ?_ (wakeOffers_kept _)
  split
  · assumption
  · refine Kept.trans ?_ (raise_kept _ _ _)
    assumption

/-! Loss -/

theorem takeHeartbeat_kept : ∀ d s, Kept s (takeHeartbeat d s) := by
  intro d s
  unfold takeHeartbeat
  refine Kept.setRing (X := s) ?_ _
  exact Kept.refl _

theorem declareLost_kept : ∀ d s, Kept s (declareLost d s) := by
  intro d s
  unfold declareLost
  extract_lets +onlyGivenNames v0
  clear_value v0
  extract_lets +onlyGivenNames v1
  clear_value v1
  extract_lets +onlyGivenNames v2
  have h3 : Kept s v2 := by
    unfold v2
    refine Kept.setRing (X := s) ?_ _
    exact Kept.refl _
  clear_value v2
  extract_lets +onlyGivenNames v4
  have h5 : Kept s v4 := by
    unfold v4
    refine Kept.trans ?_ (raise_kept _ _ _)
    refine Kept.trans ?_ (broadcast_kept _ _ _)
    assumption
  clear_value v4
  split
  · assumption
  · refine Kept.foldl (fun y x => ?_) ?_
    · refine Kept.trans ?_ (broadcast_kept _ _ _)
      exact Kept.refl _
    · assumption

theorem answerLost_kept : ∀ d o s, Kept s (answerLost d o s) := by
  intro d o s
  unfold answerLost
  extract_lets +onlyGivenNames v0
  clear_value v0
  extract_lets +onlyGivenNames v1
  clear_value v1
  extract_lets +onlyGivenNames v2
  have h3 : Kept s v2 := by
    unfold v2
    split
    · exact Kept.refl _
    · refine Kept.setIng (X := s) ?_ _
      exact Kept.refl _
  clear_value v2
  extract_lets +onlyGivenNames v4
  clear_value v4
  split
  · refine Kept.trans ?_ (ownAnswered_kept _ _ _)
    assumption
  · refine Kept.trans ?_ (aloneAnswer_kept _ _ _)
    assumption

theorem answerAllLost_kept : ∀ fuel d s, Kept s (answerAllLost fuel d s) := by
  intro fuel d s
  induction fuel generalizing s with
  | zero => exact Kept.refl s
  | succ k ih =>
    unfold answerAllLost
    split
    · exact Kept.refl _
    · refine Kept.trans ?_ (ih _)
      refine Kept.trans ?_ (answerLost_kept _ _ _)
      exact Kept.refl _

theorem refuseHeldLost_kept : ∀ d s, Kept s (refuseHeldLost d s) := by
  intro d s
  unfold refuseHeldLost
  extract_lets +onlyGivenNames v0
  clear_value v0
  extract_lets +onlyGivenNames v1
  clear_value v1
  extract_lets +onlyGivenNames v2
  clear_value v2
  extract_lets +onlyGivenNames v3
  have h4 : Kept s v3 := by
    unfold v3
    refine Kept.setIng (X := s) ?_ _
    exact Kept.refl _
  clear_value v3
  refine Kept.foldl (fun y x => ?_) ?_
  · refine Kept.trans ?_ (answerHost_kept _ _ _ _)
    exact Kept.refl _
  · assumption

theorem lossSpans_kept : ∀ d s, Kept s (lossSpans d s) := by
  intro d s
  unfold lossSpans
  refine Kept.foldl (fun y x => ?_) ?_
  · extract_lets +onlyGivenNames v0
    extract_lets +onlyGivenNames v1
    clear_value v1
    extract_lets +onlyGivenNames v2
    have h3 : Kept y v2 := by
      unfold v2
      refine Kept.trans ?_ (setCtx_kept _ _ _)
      exact Kept.refl _
    clear_value v2
    split
    · assumption
    · extract_lets +onlyGivenNames v4
      have h5 : Kept y v4 := by
        unfold v4
        refine Kept.trans ?_ (raise_kept _ _ _)
        assumption
      clear_value v4
      split
      · refine Kept.setPilot (X := v4) ?_ _
        assumption
      · refine Kept.foldl (fun y x => ?_) ?_
        · refine Kept.foldl (fun y x => ?_) ?_
          · refine Kept.trans ?_ (ringItem_kept _ _ _)
            exact Kept.refl _
          · exact Kept.refl _
        · assumption
  · exact Kept.refl _

theorem issuedWithout_kept : ∀ d s, Kept s (issuedWithout d s) := by
  intro d s
  unfold issuedWithout
  refine Kept.foldl (fun y x => ?_) ?_
  · split
    · exact Kept.refl _
    · extract_lets +onlyGivenNames v0
      clear_value v0
      extract_lets +onlyGivenNames v1
      have h2 : Kept y v1 := by
        unfold v1
        refine Kept.trans ?_ (setIssued_kept _ _)
        exact Kept.refl _
      clear_value v1
      split
      · refine Kept.trans ?_ (commitReady_kept _ _)
        assumption
      · extract_lets +onlyGivenNames v3
        have h4 : Kept y v3 := by
          unfold v3
          refine Kept.foldl (fun y x => ?_) ?_
          · refine Kept.trans ?_ (drained_kept _ _ _)
            exact Kept.refl _
          · assumption
        clear_value v3
        split
        · refine Kept.trans ?_ (announceEnd_kept _ _ _)
          assumption
        · refine Kept.trans ?_ (announceEnd_kept _ _ _)
          assumption
        · split
          · refine Kept.trans ?_ (completeIssued_kept _ _ _ _ _ _)
            assumption
          · assumption
        · assumption
  · exact Kept.refl _

theorem rebuildsWithout_kept : ∀ d s, Kept s (rebuildsWithout d s) := by
  intro d s
  unfold rebuildsWithout
  refine Kept.foldl (fun y x => ?_) ?_
  · split
    · exact Kept.refl _
    · extract_lets +onlyGivenNames v0
      clear_value v0
      extract_lets +onlyGivenNames v1
      clear_value v1
      extract_lets +onlyGivenNames v2
      clear_value v2
      refine Kept.trans ?_ (setRebuild_kept _ _)
      exact Kept.refl _
  · exact Kept.refl _

theorem clearsWithout_kept : ∀ d s, Kept s (clearsWithout d s) := by
  intro d s
  unfold clearsWithout
  extract_lets +onlyGivenNames v0
  clear_value v0
  extract_lets +onlyGivenNames v1
  have h2 : Kept s v1 := by
    unfold v1
    refine Kept.setAcc (X := s) ?_ _
    exact Kept.refl _
  clear_value v1
  refine Kept.foldl (fun y x => ?_) ?_
  · extract_lets +onlyGivenNames v3
    split
    · refine Kept.trans ?_ (freeSlot_kept _ _)
      exact Kept.refl _
    · refine Kept.trans ?_ (setJob_kept _ _)
      exact Kept.refl _
  · assumption

theorem loseDevice_kept : ∀ d before s, Kept s (loseDevice d before s) := by
  intro d before s
  unfold loseDevice
  extract_lets +onlyGivenNames v0
  have h1 : Kept s v0 := by
    unfold v0
    refine Kept.trans ?_ (endLostFormats_kept _ _)
    refine Kept.trans ?_ (failMembers_kept _ _)
    exact Kept.refl _
  clear_value v0
  extract_lets +onlyGivenNames v2
  clear_value v2
  extract_lets +onlyGivenNames v3
  have h4 : Kept s v3 := by
    unfold v3
    refine Kept.foldl (fun y x => ?_) ?_
    · refine Kept.trans ?_ (failRequests_kept _ _ _ _)
      exact Kept.refl _
    · assumption
  clear_value v3
  extract_lets +onlyGivenNames v5
  have h6 : Kept s v5 := by
    unfold v5
    split
    · assumption
    · refine Kept.trans ?_ (buryDevice_kept _ _)
      refine Kept.trans ?_ (raise_kept _ _ _)
      assumption
  clear_value v5
  extract_lets +onlyGivenNames v7
  have h8 : Kept s v7 := by
    unfold v7
    refine Kept.foldl (fun y x => ?_) ?_
    · refine Kept.trans ?_ (dropJob_kept _ _)
      refine Kept.trans ?_ (supersede_kept _ _)
      exact Kept.refl _
    · assumption
  clear_value v7
  extract_lets +onlyGivenNames v9
  clear_value v9
  extract_lets +onlyGivenNames v10
  have h11 : Kept s v10 := by
    unfold v10
    refine Kept.trans ?_ (craneDeviceLost_kept _ _)
    assumption
  clear_value v10
  extract_lets +onlyGivenNames v12
  have h13 : Kept s v12 := by
    unfold v12
    refine Kept.foldl (fun y x => ?_) ?_
    · refine Kept.trans ?_ (reissueJob_kept _ _)
      exact Kept.refl _
    · assumption
  clear_value v12
  extract_lets +onlyGivenNames v14
  clear_value v14
  extract_lets +onlyGivenNames v15
  have h16 : Kept s v15 := by
    unfold v15
    refine Kept.foldl (fun y x => ?_) ?_
    · refine Kept.trans ?_ (closeWindows_kept _ _ _)
      exact Kept.refl _
    · assumption
  clear_value v15
  extract_lets +onlyGivenNames v17
  have h18 : Kept s v17 := by
    unfold v17
    refine Kept.trans ?_ (refuseHeldLost_kept _ _)
    assumption
  clear_value v17
  extract_lets +onlyGivenNames v19
  have h20 : Kept s v19 := by
    unfold v19
    refine Kept.trans ?_ (answerAllLost_kept _ _ _)
    assumption
  clear_value v19
  extract_lets +onlyGivenNames v21
  have h22 : Kept s v21 := by
    unfold v21
    refine Kept.trans ?_ (rebuildsWithout_kept _ _)
    refine Kept.trans ?_ (issuedWithout_kept _ _)
    refine Kept.trans ?_ (lossSpans_kept _ _)
    assumption
  clear_value v21
  extract_lets +onlyGivenNames v23
  have h24 : Kept s v23 := by
    unfold v23
    refine Kept.trans ?_ (clearsWithout_kept _ _)
    assumption
  clear_value v23
  extract_lets +onlyGivenNames v25
  have h26 : Kept s v25 := by
    unfold v25
    split
    · refine Kept.trans ?_ (wakeOffers_kept _)
      refine Kept.trans ?_ (rebuddyTo_kept _ _)
      assumption
    · assumption
  clear_value v25
  extract_lets +onlyGivenNames v27
  have h28 : Kept s v27 := by
    unfold v27
    split
    · refine Kept.trans ?_ (adopt_kept _ _)
      assumption
    · assumption
  clear_value v27
  refine Kept.trans ?_ (passQueues_kept _ _ _)
  assumption

theorem lossesDue_kept : ∀ s, Kept s (lossesDue s) := by
  intro s
  unfold lossesDue
  extract_lets +onlyGivenNames v0
  clear_value v0
  extract_lets +onlyGivenNames v1
  clear_value v1
  extract_lets +onlyGivenNames v2
  clear_value v2
  extract_lets +onlyGivenNames v3
  have h4 : Kept s v3 := by
    unfold v3
    refine Kept.setIng (X := s) ?_ _
    exact Kept.refl _
  clear_value v3
  extract_lets +onlyGivenNames v5
  have h6 : Kept s v5 := by
    unfold v5
    refine Kept.foldl (fun y x => ?_) ?_
    · refine Kept.trans ?_ (loseDevice_kept _ _ _)
      exact Kept.refl _
    · assumption
  clear_value v5
  split
  · refine Kept.foldl (fun y x => ?_) ?_
    · refine Kept.trans ?_ (raise_kept _ _ _)
      exact Kept.refl _
    · assumption
  · assumption

/-! Pilot -/

theorem queuesApply_kept : ∀ s, Kept s (queuesApply s) := by
  intro s
  unfold queuesApply
  extract_lets +onlyGivenNames v0
  have h1 : Kept s v0 := by
    unfold v0
    refine Kept.foldl (fun y x => ?_) ?_
    · extract_lets +onlyGivenNames v2
      clear_value v2
      extract_lets +onlyGivenNames v3
      clear_value v3
      refine Kept.setPilot (X := y) ?_ _
      exact Kept.refl _
    · exact Kept.refl _
  clear_value v0
  refine Kept.setPilot (X := v0) ?_ _
  assumption

theorem yieldEvent_kept : ∀ ctx q other s, Kept s (yieldEvent ctx q other s) := by
  intro ctx q other s
  unfold yieldEvent
  refine Kept.trans ?_ (raise_kept _ _ _)
  exact Kept.refl _

theorem floorTide_kept : ∀ s, Kept s (floorTide s) := by
  intro s
  unfold floorTide
  extract_lets +onlyGivenNames v0
  clear_value v0
  refine Kept.foldl (fun y x => ?_) ?_
  · extract_lets +onlyGivenNames v1
    clear_value v1
    refine Kept.foldl (fun y x => ?_) ?_
    · extract_lets +onlyGivenNames v2
      clear_value v2
      extract_lets +onlyGivenNames v3
      clear_value v3
      extract_lets +onlyGivenNames v4
      clear_value v4
      extract_lets +onlyGivenNames v5
      clear_value v5
      extract_lets +onlyGivenNames v6
      have h7 : Kept y v6 := by
        unfold v6
        refine Kept.setPilot (X := y) ?_ _
        exact Kept.refl _
      clear_value v6
      split
      · refine Kept.trans ?_ (yieldEvent_kept _ _ _ _)
        assumption
      · split
        · refine Kept.trans ?_ (raise_kept _ _ _)
          assumption
        · assumption
    · exact Kept.refl _
  · exact Kept.refl _

theorem payOwed_kept : ∀ s, Kept s (payOwed s) := by
  intro s
  unfold payOwed
  refine Kept.foldl (fun y x => ?_) ?_
  · extract_lets +onlyGivenNames v0
    clear_value v0
    split
    · exact Kept.refl _
    · split
      · exact Kept.refl _
      · refine Kept.trans ?_ (returnCredit_kept _ _ _ _)
        refine Kept.trans ?_ (setCtx_kept _ _ _)
        exact Kept.refl _
  · exact Kept.refl _

theorem policeTide_kept : ∀ s, Kept s (policeTide s) := by
  intro s
  unfold policeTide
  extract_lets +onlyGivenNames v0
  have h1 : Kept s v0 := by
    unfold v0
    refine Kept.foldl (fun y x => ?_) ?_
    · extract_lets +onlyGivenNames v2
      clear_value v2
      extract_lets +onlyGivenNames v3
      clear_value v3
      extract_lets +onlyGivenNames v4
      clear_value v4
      refine Kept.trans ?_ (setHost_kept _ _ _)
      exact Kept.refl _
    · exact Kept.refl _
  clear_value v0
  extract_lets +onlyGivenNames v5
  have h6 : Kept s v5 := by
    unfold v5
    refine Kept.trans ?_ (payOwed_kept _)
    refine Kept.trans ?_ (wakePoliced_kept _)
    assumption
  clear_value v5
  extract_lets +onlyGivenNames v7
  clear_value v7
  refine Kept.foldl (fun y x => ?_) ?_
  · extract_lets +onlyGivenNames v8
    clear_value v8
    extract_lets +onlyGivenNames v9
    clear_value v9
    extract_lets +onlyGivenNames v10
    clear_value v10
    extract_lets +onlyGivenNames v11
    have h12 : Kept y v11 := by
      unfold v11
      refine Kept.trans ?_ (setHost_kept _ _ _)
      exact Kept.refl _
    clear_value v11
    extract_lets +onlyGivenNames v13
    have h14 : Kept y v13 := by
      unfold v13
      refine Kept.foldl (fun y x => ?_) ?_
      · refine Kept.trans ?_ (hostRecord_kept _ _ _ _)
        exact Kept.refl _
      · assumption
    clear_value v13
    refine Kept.trans ?_ (raiseLimited_kept _ _ _ _ _ _)
    assumption
  · assumption

theorem sampleQueue_kept : ∀ q cls s, Kept s (sampleQueue q cls s) := by
  intro q cls s
  unfold sampleQueue
  extract_lets +onlyGivenNames v0
  clear_value v0
  extract_lets +onlyGivenNames v1
  clear_value v1
  extract_lets +onlyGivenNames v2
  clear_value v2
  extract_lets +onlyGivenNames v3
  clear_value v3
  extract_lets +onlyGivenNames v4
  clear_value v4
  extract_lets +onlyGivenNames v5
  clear_value v5
  extract_lets +onlyGivenNames v6
  clear_value v6
  extract_lets +onlyGivenNames v7
  clear_value v7
  extract_lets +onlyGivenNames v8
  clear_value v8
  extract_lets +onlyGivenNames v9
  have h10 : Kept s v9 := by
    unfold v9
    refine Kept.setPilot (X := s) ?_ _
    exact Kept.refl _
  clear_value v9
  split
  · refine Kept.trans ?_ (raiseLimited_kept _ _ _ _ _ _)
    assumption
  · assumption

theorem showRecords_kept : ∀ s, Kept s (showRecords s) := by
  intro s
  unfold showRecords
  split
  · exact Kept.refl _
  · extract_lets +onlyGivenNames v0
    clear_value v0
    refine Kept.setIng (X := s) ?_ _
    exact Kept.refl _

theorem refreshFair_kept : ∀ n s, Kept s (refreshFair n s) := by
  intro n s
  unfold refreshFair
  extract_lets +onlyGivenNames v0
  clear_value v0
  extract_lets +onlyGivenNames v1
  clear_value v1
  extract_lets +onlyGivenNames v2
  have h3 : Kept s v2 := by
    unfold v2
    refine Kept.foldl (fun y x => ?_) ?_
    · extract_lets +onlyGivenNames v4
      clear_value v4
      extract_lets +onlyGivenNames v5
      clear_value v5
      extract_lets +onlyGivenNames v6
      clear_value v6
      extract_lets +onlyGivenNames v7
      clear_value v7
      split
      · exact Kept.refl _
      · refine Kept.setPilot (X := y) ?_ _
        exact Kept.refl _
    · exact Kept.refl _
  clear_value v2
  extract_lets +onlyGivenNames v8
  clear_value v8
  refine Kept.setPilot (X := v2) ?_ _
  assumption

theorem chargeSend_kept : ∀ c s, Kept s (chargeSend c s) := by
  intro c s
  unfold chargeSend
  extract_lets +onlyGivenNames v0
  clear_value v0
  split
  · extract_lets +onlyGivenNames v1
    clear_value v1
    extract_lets +onlyGivenNames v2
    clear_value v2
    extract_lets +onlyGivenNames v3
    clear_value v3
    extract_lets +onlyGivenNames v4
    clear_value v4
    refine Kept.setPilot (X := s) ?_ _
    exact Kept.refl _
  · extract_lets +onlyGivenNames v5
    clear_value v5
    extract_lets +onlyGivenNames v6
    clear_value v6
    extract_lets +onlyGivenNames v7
    clear_value v7
    extract_lets +onlyGivenNames v8
    clear_value v8
    extract_lets +onlyGivenNames v9
    clear_value v9
    extract_lets +onlyGivenNames v10
    clear_value v10
    extract_lets +onlyGivenNames v11
    have h12 : Kept s v11 := by
      unfold v11
      refine Kept.setPilot (X := s) ?_ _
      exact Kept.refl _
    clear_value v11
    extract_lets +onlyGivenNames v13
    clear_value v13
    extract_lets +onlyGivenNames v14
    clear_value v14
    refine Kept.setPilot (X := v11) ?_ _
    assumption

/-! Spdm -/

theorem spdmAnswer_kept : ∀ code body s, Kept s (spdmAnswer code body s) := by
  intro code body s
  unfold spdmAnswer
  refine Kept.trans ?_ (emit_kept _ _)
  exact Kept.refl _

theorem spdmError_kept : ∀ code s, Kept s (spdmError code s) := by
  intro code s
  unfold spdmError
  refine Kept.trans ?_ (spdmAnswer_kept _ _ _)
  exact Kept.refl _

theorem endSession_kept : ∀ id s, Kept s (endSession id s) := by
  intro id s
  unfold endSession
  extract_lets +onlyGivenNames v0
  clear_value v0
  refine Kept.of (X := s) ?_ rfl rfl rfl rfl rfl rfl rfl rfl
  exact Kept.refl _

/-! Tide -/

theorem spliceDue_kept : ∀ s, Kept s (spliceDue s) := by
  intro s
  unfold spliceDue
  split
  · split
    · refine Kept.trans ?_ (splice_kept _)
      exact Kept.refl _
    · exact Kept.refl _
  · exact Kept.refl _

theorem boundaryActions_kept : ∀ s, Kept s (boundaryActions s) := by
  intro s
  unfold boundaryActions
  extract_lets +onlyGivenNames v0
  have h1 : Kept s v0 := by
    unfold v0
    refine Kept.trans ?_ (applyDue_kept _ _)
    refine Kept.trans ?_ (syncDue_kept _)
    exact Kept.refl _
  clear_value v0
  extract_lets +onlyGivenNames v2
  have h3 : Kept s v2 := by
    unfold v2
    refine Kept.trans ?_ (applyDue_kept _ _)
    assumption
  clear_value v2
  extract_lets +onlyGivenNames v4
  have h5 : Kept s v4 := by
    unfold v4
    refine Kept.trans ?_ (applyDue_kept _ _)
    assumption
  clear_value v4
  refine Kept.of (X := v4) ?_ rfl rfl rfl rfl rfl rfl rfl rfl
  assumption

theorem jobTide_kept : ∀ key s, Kept s (jobTide key s) := by
  intro key s
  unfold jobTide
  extract_lets +onlyGivenNames v0
  have h1 : Kept s v0 := by
    unfold v0
    refine Kept.trans ?_ (retryFences_kept _ _)
    refine Kept.trans ?_ (checkBags_kept _ _)
    refine Kept.trans ?_ (applyExclusions_kept _ _)
    refine Kept.trans ?_ (dropDeadDevices_kept _ _)
    exact Kept.refl _
  clear_value v0
  extract_lets +onlyGivenNames v2
  have h3 : Kept s v2 := by
    unfold v2
    split
    · assumption
    · split
      · refine Kept.trans ?_ (jobPlan_kept _ _)
        refine Kept.trans ?_ (streamTide_kept _ _)
        assumption
      · assumption
  clear_value v2
  refine Kept.trans ?_ (trySeals_kept _ _)
  assumption

theorem endPeriods_kept : ∀ s, Kept s (endPeriods s) := by
  intro s
  unfold endPeriods
  extract_lets +onlyGivenNames v0
  have h1 : Kept s v0 := by
    unfold v0
    refine Kept.trans ?_ (flushSummaries_kept _ _)
    exact Kept.refl _
  clear_value v0
  split
  · refine Kept.trans ?_ (flushSummaries_kept _ _)
    assumption
  · assumption

theorem fixBudgets_kept : ∀ s, Kept s (fixBudgets s) := by
  intro s
  unfold fixBudgets
  refine Kept.of (X := s) ?_ rfl rfl rfl rfl rfl rfl rfl rfl
  exact Kept.refl _

theorem openTide_kept : ∀ s, Kept s (openTide s) := by
  intro s
  unfold openTide
  extract_lets +onlyGivenNames v0
  clear_value v0
  extract_lets +onlyGivenNames v1
  have h2 : Kept s v1 := by
    unfold v1
    refine Kept.trans ?_ (freshBooks_kept _)
    refine Kept.of (X := s) ?_ rfl rfl rfl rfl rfl rfl rfl rfl
    exact Kept.refl _
  clear_value v1
  refine Kept.trans ?_ (planTide_kept _)
  refine Kept.trans ?_ (bindCodecs_kept _)
  refine Kept.trans ?_ (streamCredits_kept _)
  refine Kept.foldl (fun y x => ?_) ?_
  · refine Kept.trans ?_ (jobTide_kept _ _)
    exact Kept.refl _
  · assumption

theorem boundaryDue_kept : ∀ s, Kept s (boundaryDue s) := by
  intro s
  unfold boundaryDue
  extract_lets +onlyGivenNames v0
  have h1 : Kept s v0 := by
    unfold v0
    refine Kept.trans ?_ (lossesDue_kept _)
    refine Kept.trans ?_ (degradeGroups_kept _)
    exact Kept.refl _
  clear_value v0
  extract_lets +onlyGivenNames v2
  have h3 : Kept s v2 := by
    unfold v2
    refine Kept.trans ?_ (endGrace_kept _)
    refine Kept.trans ?_ (rebuildTide_kept _)
    refine Kept.trans ?_ (keyTide_kept _)
    refine Kept.trans ?_ (enterConfidential_kept _)
    assumption
  clear_value v2
  refine Kept.trans ?_ (grantSplice_kept _)
  refine Kept.trans ?_ (spliceDue_kept _)
  refine Kept.trans ?_ (sendMarker_kept _)
  refine Kept.trans ?_ (trainRestored_kept _)
  assumption

/-! Transmit -/

theorem spoilt_kept : ∀ lead i s, Kept s (spoilt lead i s).2.2 := by
  intro lead i s
  unfold spoilt
  extract_lets +onlyGivenNames v0
  have h1 : Kept s v0.2 := by
    unfold v0
    refine Kept.trans ?_ (draw_kept _)
    exact Kept.refl _
  clear_value v0
  dsimp only
  assumption

theorem spoilItem_kept : ∀ c i s, Kept s (spoilItem c i s).2.2 := by
  intro c i s
  unfold spoilItem
  split
  · split
    · extract_lets +onlyGivenNames v0
      clear_value v0
      dsimp only
      exact Kept.refl _
    · split
      · dsimp only
        exact Kept.refl _
      · refine Kept.trans ?_ (spoilt_kept _ _ _)
        exact Kept.refl _
  · split
    · extract_lets +onlyGivenNames v1
      clear_value v1
      split
      · dsimp only
        exact Kept.refl _
      · split
        · extract_lets +onlyGivenNames v2
          clear_value v2
          dsimp only
          exact Kept.refl _
        · split
          · dsimp only
            exact Kept.refl _
          · refine Kept.trans ?_ (spoilt_kept _ _ _)
            exact Kept.refl _
    · split
      · dsimp only
        exact Kept.refl _
      · split
        · dsimp only
          exact Kept.refl _
        · refine Kept.trans ?_ (spoilt_kept _ _ _)
          exact Kept.refl _

theorem spoilCell_kept : ∀ n c s, Kept s (spoilCell n c s).2 := by
  intro n c s
  unfold spoilCell
  extract_lets +onlyGivenNames v0
  have h1 : Kept s v0.2 := by
    unfold v0
    refine Kept.foldlP (fun (p : List Item × State) => p.2) (fun y x => ?_) ?_
    · extract_lets +onlyGivenNames v2
      have h3 : Kept y.2 v2.2.2 := by
        unfold v2
        refine Kept.trans ?_ (spoilItem_kept _ _ _)
        exact Kept.refl _
      clear_value v2
      dsimp only
      split
      · refine Kept.trans ?_ (raise_kept _ _ _)
        assumption
      · assumption
    · dsimp only
      exact Kept.refl _
  clear_value v0
  dsimp only
  assumption

theorem observeCell_kept : ∀ n role c s, Kept s (observeCell n role c s) := by
  intro n role c s
  unfold observeCell
  split
  · exact Kept.refl _
  · split
    · split
      · split
        · refine Kept.trans ?_ (observe_kept _ _ _ _ _ _ _)
          exact Kept.refl _
        · exact Kept.refl _
      · exact Kept.refl _
    · refine Kept.foldl (fun y x => ?_) ?_
      · refine Kept.trans ?_ (observe_kept _ _ _ _ _ _ _)
        exact Kept.refl _
      · exact Kept.refl _

theorem sendBlock_kept : ∀ n k c s, Kept s (sendBlock n k c s) := by
  intro n k c s
  unfold sendBlock
  split
  · exact Kept.refl _
  · extract_lets +onlyGivenNames v0
    clear_value v0
    extract_lets +onlyGivenNames v1
    clear_value v1
    extract_lets +onlyGivenNames v2
    clear_value v2
    refine Kept.trans ?_ (emit_kept _ _)
    refine Kept.trans ?_ (setCtx_kept _ _ _)
    exact Kept.refl _

theorem transmit_kept : ∀ n k ecc c s, Kept s (transmit n k ecc c s) := by
  intro n k ecc c s
  unfold transmit
  extract_lets +onlyGivenNames v0
  have h1 : Kept s v0.2 := by
    unfold v0
    split
    · refine Kept.trans ?_ (spoilCell_kept _ _ _)
      exact Kept.refl _
    · dsimp only
      exact Kept.refl _
  clear_value v0
  extract_lets +onlyGivenNames v2
  have h3 : Kept s v2 := by
    unfold v2
    assumption
  clear_value v2
  split
  · assumption
  · extract_lets +onlyGivenNames v4
    clear_value v4
    extract_lets +onlyGivenNames v5
    clear_value v5
    extract_lets +onlyGivenNames v6
    clear_value v6
    extract_lets +onlyGivenNames v7
    have h8 : Kept s v7 := by
      unfold v7
      split
      · refine Kept.trans ?_ (countScrubs_kept _ _)
        assumption
      · assumption
    clear_value v7
    refine Kept.trans ?_ (sendBlock_kept _ _ _ _)
    refine Kept.trans ?_ (observeCell_kept _ _ _ _)
    assumption

theorem nameNext_kept : ∀ n s, Kept s (nameNext n s) := by
  intro n s
  unfold nameNext
  extract_lets +onlyGivenNames v0
  have h1 : Kept s v0 := by
    unfold v0
    refine Kept.trans ?_ (refreshFair_kept _ _)
    exact Kept.refl _
  clear_value v0
  refine Kept.setPilot (X := v0) ?_ _
  assumption

theorem useMatch_kept : ∀ plane c s, Kept s (useMatch plane c s) := by
  intro plane c s
  unfold useMatch
  extract_lets +onlyGivenNames v0
  clear_value v0
  refine Kept.setSw (X := s) ?_ _
  exact Kept.refl _

end Sys2Proof.Machine
end

