-- ==== Sys2Proof/Laws/State.lean ====
section
/-! SUPPORT. One lemma per field per update, so that no proof unfolds a record update. -/

namespace Sys2Proof.Machine
open Sys2Proof

@[simp] theorem emit_pending {o} {s : State} : (emit o s).pending = s.pending := rfl
@[simp] theorem emit_refCycles {o} {s : State} : (emit o s).refCycles = s.refCycles := rfl
@[simp] theorem emit_tide {o} {s : State} : (emit o s).tide = s.tide := rfl
@[simp] theorem emit_ring {o} {s : State} : (emit o s).ring = s.ring := rfl
@[simp] theorem emit_engines {o} {s : State} : (emit o s).engines = s.engines := rfl
@[simp] theorem emit_spillUsed {o} {s : State} : (emit o s).spillUsed = s.spillUsed := rfl
@[simp] theorem emit_straySegments {o} {s : State} : (emit o s).straySegments = s.straySegments := rfl
@[simp] theorem emit_man {o} {s : State} : (emit o s).man = s.man := rfl
@[simp] theorem emit_ing {o} {s : State} : (emit o s).ing = s.ing := rfl
@[simp] theorem emit_home {o} {s : State} : (emit o s).home = s.home := rfl
@[simp] theorem emit_ports {o} {s : State} : (emit o s).ports = s.ports := rfl
@[simp] theorem emit_sw {o} {s : State} : (emit o s).sw = s.sw := rfl
@[simp] theorem emit_pilot {o} {s : State} : (emit o s).pilot = s.pilot := rfl
@[simp] theorem emit_acc {o} {s : State} : (emit o s).acc = s.acc := rfl
@[simp] theorem emit_sec {o} {s : State} : (emit o s).sec = s.sec := rfl
@[simp] theorem emit_hm {o} {s : State} : (emit o s).hm = s.hm := rfl
@[simp] theorem emit_tel {o} {s : State} : (emit o s).tel = s.tel := rfl
@[simp] theorem emit_isl {o} {s : State} : (emit o s).isl = s.isl := rfl
@[simp] theorem emit_copies {o} {s : State} : (emit o s).copies = s.copies := rfl
@[simp] theorem emit_stage {o} {s : State} : (emit o s).stage = s.stage := rfl
@[simp] theorem emit_mbox {o} {s : State} : (emit o s).mbox = s.mbox := rfl
@[simp] theorem emit_freeCount {o} {s : State} : (emit o s).freeCount = s.freeCount := rfl

@[simp] theorem ringPush_pending {e d m} {s : State} : (ringPush e d m s).pending = s.pending := rfl
@[simp] theorem ringPush_refCycles {e d m} {s : State} : (ringPush e d m s).refCycles = s.refCycles := rfl
@[simp] theorem ringPush_tide {e d m} {s : State} : (ringPush e d m s).tide = s.tide := rfl
@[simp] theorem ringPush_engines {e d m} {s : State} : (ringPush e d m s).engines = s.engines := rfl
@[simp] theorem ringPush_spillUsed {e d m} {s : State} : (ringPush e d m s).spillUsed = s.spillUsed := rfl
@[simp] theorem ringPush_straySegments {e d m} {s : State} : (ringPush e d m s).straySegments = s.straySegments := rfl
@[simp] theorem ringPush_man {e d m} {s : State} : (ringPush e d m s).man = s.man := rfl
@[simp] theorem ringPush_ing {e d m} {s : State} : (ringPush e d m s).ing = s.ing := rfl
@[simp] theorem ringPush_home {e d m} {s : State} : (ringPush e d m s).home = s.home := rfl
@[simp] theorem ringPush_ports {e d m} {s : State} : (ringPush e d m s).ports = s.ports := rfl
@[simp] theorem ringPush_sw {e d m} {s : State} : (ringPush e d m s).sw = s.sw := rfl
@[simp] theorem ringPush_pilot {e d m} {s : State} : (ringPush e d m s).pilot = s.pilot := rfl
@[simp] theorem ringPush_acc {e d m} {s : State} : (ringPush e d m s).acc = s.acc := rfl
@[simp] theorem ringPush_sec {e d m} {s : State} : (ringPush e d m s).sec = s.sec := rfl
@[simp] theorem ringPush_hm {e d m} {s : State} : (ringPush e d m s).hm = s.hm := rfl
@[simp] theorem ringPush_tel {e d m} {s : State} : (ringPush e d m s).tel = s.tel := rfl
@[simp] theorem ringPush_isl {e d m} {s : State} : (ringPush e d m s).isl = s.isl := rfl
@[simp] theorem ringPush_copies {e d m} {s : State} : (ringPush e d m s).copies = s.copies := rfl
@[simp] theorem ringPush_stage {e d m} {s : State} : (ringPush e d m s).stage = s.stage := rfl
@[simp] theorem ringPush_mbox {e d m} {s : State} : (ringPush e d m s).mbox = s.mbox := rfl
@[simp] theorem ringPush_out {e d m} {s : State} : (ringPush e d m s).out = s.out := rfl
@[simp] theorem ringPush_freeCount {e d m} {s : State} : (ringPush e d m s).freeCount = s.freeCount := rfl

@[simp] theorem setBox_pending {m b} {s : State} : (setBox m b s).pending = s.pending := rfl
@[simp] theorem setBox_refCycles {m b} {s : State} : (setBox m b s).refCycles = s.refCycles := rfl
@[simp] theorem setBox_tide {m b} {s : State} : (setBox m b s).tide = s.tide := rfl
@[simp] theorem setBox_ring {m b} {s : State} : (setBox m b s).ring = s.ring := rfl
@[simp] theorem setBox_engines {m b} {s : State} : (setBox m b s).engines = s.engines := rfl
@[simp] theorem setBox_spillUsed {m b} {s : State} : (setBox m b s).spillUsed = s.spillUsed := rfl
@[simp] theorem setBox_straySegments {m b} {s : State} : (setBox m b s).straySegments = s.straySegments := rfl
@[simp] theorem setBox_man {m b} {s : State} : (setBox m b s).man = s.man := rfl
@[simp] theorem setBox_ing {m b} {s : State} : (setBox m b s).ing = s.ing := rfl
@[simp] theorem setBox_home {m b} {s : State} : (setBox m b s).home = s.home := rfl
@[simp] theorem setBox_ports {m b} {s : State} : (setBox m b s).ports = s.ports := rfl
@[simp] theorem setBox_sw {m b} {s : State} : (setBox m b s).sw = s.sw := rfl
@[simp] theorem setBox_pilot {m b} {s : State} : (setBox m b s).pilot = s.pilot := rfl
@[simp] theorem setBox_acc {m b} {s : State} : (setBox m b s).acc = s.acc := rfl
@[simp] theorem setBox_sec {m b} {s : State} : (setBox m b s).sec = s.sec := rfl
@[simp] theorem setBox_tel {m b} {s : State} : (setBox m b s).tel = s.tel := rfl
@[simp] theorem setBox_isl {m b} {s : State} : (setBox m b s).isl = s.isl := rfl
@[simp] theorem setBox_copies {m b} {s : State} : (setBox m b s).copies = s.copies := rfl
@[simp] theorem setBox_stage {m b} {s : State} : (setBox m b s).stage = s.stage := rfl
@[simp] theorem setBox_mbox {m b} {s : State} : (setBox m b s).mbox = s.mbox := rfl
@[simp] theorem setBox_out {m b} {s : State} : (setBox m b s).out = s.out := rfl
@[simp] theorem setBox_freeCount {m b} {s : State} : (setBox m b s).freeCount = s.freeCount := rfl

@[simp] theorem setLighter_pending {l x} {s : State} : (setLighter l x s).pending = s.pending := rfl
@[simp] theorem setLighter_refCycles {l x} {s : State} : (setLighter l x s).refCycles = s.refCycles := rfl
@[simp] theorem setLighter_tide {l x} {s : State} : (setLighter l x s).tide = s.tide := rfl
@[simp] theorem setLighter_ring {l x} {s : State} : (setLighter l x s).ring = s.ring := rfl
@[simp] theorem setLighter_engines {l x} {s : State} : (setLighter l x s).engines = s.engines := rfl
@[simp] theorem setLighter_spillUsed {l x} {s : State} : (setLighter l x s).spillUsed = s.spillUsed := rfl
@[simp] theorem setLighter_straySegments {l x} {s : State} : (setLighter l x s).straySegments = s.straySegments := rfl
@[simp] theorem setLighter_man {l x} {s : State} : (setLighter l x s).man = s.man := rfl
@[simp] theorem setLighter_ing {l x} {s : State} : (setLighter l x s).ing = s.ing := rfl
@[simp] theorem setLighter_home {l x} {s : State} : (setLighter l x s).home = s.home := rfl
@[simp] theorem setLighter_ports {l x} {s : State} : (setLighter l x s).ports = s.ports := rfl
@[simp] theorem setLighter_sw {l x} {s : State} : (setLighter l x s).sw = s.sw := rfl
@[simp] theorem setLighter_pilot {l x} {s : State} : (setLighter l x s).pilot = s.pilot := rfl
@[simp] theorem setLighter_acc {l x} {s : State} : (setLighter l x s).acc = s.acc := rfl
@[simp] theorem setLighter_hm {l x} {s : State} : (setLighter l x s).hm = s.hm := rfl
@[simp] theorem setLighter_tel {l x} {s : State} : (setLighter l x s).tel = s.tel := rfl
@[simp] theorem setLighter_isl {l x} {s : State} : (setLighter l x s).isl = s.isl := rfl
@[simp] theorem setLighter_copies {l x} {s : State} : (setLighter l x s).copies = s.copies := rfl
@[simp] theorem setLighter_stage {l x} {s : State} : (setLighter l x s).stage = s.stage := rfl
@[simp] theorem setLighter_mbox {l x} {s : State} : (setLighter l x s).mbox = s.mbox := rfl
@[simp] theorem setLighter_out {l x} {s : State} : (setLighter l x s).out = s.out := rfl
@[simp] theorem setLighter_freeCount {l x} {s : State} : (setLighter l x s).freeCount = s.freeCount := rfl

@[simp] theorem countRemoval_pending {c p r k} {s : State} : (countRemoval c p r k s).pending = s.pending := rfl
@[simp] theorem countRemoval_refCycles {c p r k} {s : State} : (countRemoval c p r k s).refCycles = s.refCycles := rfl
@[simp] theorem countRemoval_tide {c p r k} {s : State} : (countRemoval c p r k s).tide = s.tide := rfl
@[simp] theorem countRemoval_ring {c p r k} {s : State} : (countRemoval c p r k s).ring = s.ring := rfl
@[simp] theorem countRemoval_engines {c p r k} {s : State} : (countRemoval c p r k s).engines = s.engines := rfl
@[simp] theorem countRemoval_spillUsed {c p r k} {s : State} : (countRemoval c p r k s).spillUsed = s.spillUsed := rfl
@[simp] theorem countRemoval_straySegments {c p r k} {s : State} : (countRemoval c p r k s).straySegments = s.straySegments := rfl
@[simp] theorem countRemoval_man {c p r k} {s : State} : (countRemoval c p r k s).man = s.man := rfl
@[simp] theorem countRemoval_ing {c p r k} {s : State} : (countRemoval c p r k s).ing = s.ing := rfl
@[simp] theorem countRemoval_home {c p r k} {s : State} : (countRemoval c p r k s).home = s.home := rfl
@[simp] theorem countRemoval_ports {c p r k} {s : State} : (countRemoval c p r k s).ports = s.ports := rfl
@[simp] theorem countRemoval_sw {c p r k} {s : State} : (countRemoval c p r k s).sw = s.sw := rfl
@[simp] theorem countRemoval_pilot {c p r k} {s : State} : (countRemoval c p r k s).pilot = s.pilot := rfl
@[simp] theorem countRemoval_acc {c p r k} {s : State} : (countRemoval c p r k s).acc = s.acc := rfl
@[simp] theorem countRemoval_hm {c p r k} {s : State} : (countRemoval c p r k s).hm = s.hm := rfl
@[simp] theorem countRemoval_tel {c p r k} {s : State} : (countRemoval c p r k s).tel = s.tel := rfl
@[simp] theorem countRemoval_isl {c p r k} {s : State} : (countRemoval c p r k s).isl = s.isl := rfl
@[simp] theorem countRemoval_copies {c p r k} {s : State} : (countRemoval c p r k s).copies = s.copies := rfl
@[simp] theorem countRemoval_stage {c p r k} {s : State} : (countRemoval c p r k s).stage = s.stage := rfl
@[simp] theorem countRemoval_mbox {c p r k} {s : State} : (countRemoval c p r k s).mbox = s.mbox := rfl
@[simp] theorem countRemoval_out {c p r k} {s : State} : (countRemoval c p r k s).out = s.out := rfl
@[simp] theorem countRemoval_freeCount {c p r k} {s : State} : (countRemoval c p r k s).freeCount = s.freeCount := rfl

@[simp] theorem countLost_pending {s : State} : (countLost s).pending = s.pending := rfl
@[simp] theorem countLost_refCycles {s : State} : (countLost s).refCycles = s.refCycles := rfl
@[simp] theorem countLost_tide {s : State} : (countLost s).tide = s.tide := rfl
@[simp] theorem countLost_ring {s : State} : (countLost s).ring = s.ring := rfl
@[simp] theorem countLost_engines {s : State} : (countLost s).engines = s.engines := rfl
@[simp] theorem countLost_spillUsed {s : State} : (countLost s).spillUsed = s.spillUsed := rfl
@[simp] theorem countLost_straySegments {s : State} : (countLost s).straySegments = s.straySegments := rfl
@[simp] theorem countLost_man {s : State} : (countLost s).man = s.man := rfl
@[simp] theorem countLost_ing {s : State} : (countLost s).ing = s.ing := rfl
@[simp] theorem countLost_home {s : State} : (countLost s).home = s.home := rfl
@[simp] theorem countLost_ports {s : State} : (countLost s).ports = s.ports := rfl
@[simp] theorem countLost_sw {s : State} : (countLost s).sw = s.sw := rfl
@[simp] theorem countLost_pilot {s : State} : (countLost s).pilot = s.pilot := rfl
@[simp] theorem countLost_acc {s : State} : (countLost s).acc = s.acc := rfl
@[simp] theorem countLost_sec {s : State} : (countLost s).sec = s.sec := rfl
@[simp] theorem countLost_hm {s : State} : (countLost s).hm = s.hm := rfl
@[simp] theorem countLost_isl {s : State} : (countLost s).isl = s.isl := rfl
@[simp] theorem countLost_copies {s : State} : (countLost s).copies = s.copies := rfl
@[simp] theorem countLost_stage {s : State} : (countLost s).stage = s.stage := rfl
@[simp] theorem countLost_mbox {s : State} : (countLost s).mbox = s.mbox := rfl
@[simp] theorem countLost_out {s : State} : (countLost s).out = s.out := rfl
@[simp] theorem countLost_freeCount {s : State} : (countLost s).freeCount = s.freeCount := rfl

@[simp] theorem setJob_pending {j} {s : State} : (setJob j s).pending = s.pending := rfl
@[simp] theorem setJob_refCycles {j} {s : State} : (setJob j s).refCycles = s.refCycles := rfl
@[simp] theorem setJob_tide {j} {s : State} : (setJob j s).tide = s.tide := rfl
@[simp] theorem setJob_ring {j} {s : State} : (setJob j s).ring = s.ring := rfl
@[simp] theorem setJob_engines {j} {s : State} : (setJob j s).engines = s.engines := rfl
@[simp] theorem setJob_spillUsed {j} {s : State} : (setJob j s).spillUsed = s.spillUsed := rfl
@[simp] theorem setJob_straySegments {j} {s : State} : (setJob j s).straySegments = s.straySegments := rfl
@[simp] theorem setJob_man {j} {s : State} : (setJob j s).man = s.man := rfl
@[simp] theorem setJob_ing {j} {s : State} : (setJob j s).ing = s.ing := rfl
@[simp] theorem setJob_home {j} {s : State} : (setJob j s).home = s.home := rfl
@[simp] theorem setJob_ports {j} {s : State} : (setJob j s).ports = s.ports := rfl
@[simp] theorem setJob_sw {j} {s : State} : (setJob j s).sw = s.sw := rfl
@[simp] theorem setJob_pilot {j} {s : State} : (setJob j s).pilot = s.pilot := rfl
@[simp] theorem setJob_sec {j} {s : State} : (setJob j s).sec = s.sec := rfl
@[simp] theorem setJob_hm {j} {s : State} : (setJob j s).hm = s.hm := rfl
@[simp] theorem setJob_tel {j} {s : State} : (setJob j s).tel = s.tel := rfl
@[simp] theorem setJob_isl {j} {s : State} : (setJob j s).isl = s.isl := rfl
@[simp] theorem setJob_copies {j} {s : State} : (setJob j s).copies = s.copies := rfl
@[simp] theorem setJob_stage {j} {s : State} : (setJob j s).stage = s.stage := rfl
@[simp] theorem setJob_mbox {j} {s : State} : (setJob j s).mbox = s.mbox := rfl
@[simp] theorem setJob_out {j} {s : State} : (setJob j s).out = s.out := rfl
@[simp] theorem setJob_freeCount {j} {s : State} : (setJob j s).freeCount = s.freeCount := rfl

@[simp] theorem addJob_pending {j} {s : State} : (addJob j s).pending = s.pending := rfl
@[simp] theorem addJob_refCycles {j} {s : State} : (addJob j s).refCycles = s.refCycles := rfl
@[simp] theorem addJob_tide {j} {s : State} : (addJob j s).tide = s.tide := rfl
@[simp] theorem addJob_ring {j} {s : State} : (addJob j s).ring = s.ring := rfl
@[simp] theorem addJob_engines {j} {s : State} : (addJob j s).engines = s.engines := rfl
@[simp] theorem addJob_spillUsed {j} {s : State} : (addJob j s).spillUsed = s.spillUsed := rfl
@[simp] theorem addJob_straySegments {j} {s : State} : (addJob j s).straySegments = s.straySegments := rfl
@[simp] theorem addJob_man {j} {s : State} : (addJob j s).man = s.man := rfl
@[simp] theorem addJob_ing {j} {s : State} : (addJob j s).ing = s.ing := rfl
@[simp] theorem addJob_home {j} {s : State} : (addJob j s).home = s.home := rfl
@[simp] theorem addJob_ports {j} {s : State} : (addJob j s).ports = s.ports := rfl
@[simp] theorem addJob_sw {j} {s : State} : (addJob j s).sw = s.sw := rfl
@[simp] theorem addJob_pilot {j} {s : State} : (addJob j s).pilot = s.pilot := rfl
@[simp] theorem addJob_sec {j} {s : State} : (addJob j s).sec = s.sec := rfl
@[simp] theorem addJob_hm {j} {s : State} : (addJob j s).hm = s.hm := rfl
@[simp] theorem addJob_tel {j} {s : State} : (addJob j s).tel = s.tel := rfl
@[simp] theorem addJob_isl {j} {s : State} : (addJob j s).isl = s.isl := rfl
@[simp] theorem addJob_copies {j} {s : State} : (addJob j s).copies = s.copies := rfl
@[simp] theorem addJob_stage {j} {s : State} : (addJob j s).stage = s.stage := rfl
@[simp] theorem addJob_mbox {j} {s : State} : (addJob j s).mbox = s.mbox := rfl
@[simp] theorem addJob_out {j} {s : State} : (addJob j s).out = s.out := rfl
@[simp] theorem addJob_freeCount {j} {s : State} : (addJob j s).freeCount = s.freeCount := rfl

@[simp] theorem dropJob_pending {k} {s : State} : (dropJob k s).pending = s.pending := rfl
@[simp] theorem dropJob_refCycles {k} {s : State} : (dropJob k s).refCycles = s.refCycles := rfl
@[simp] theorem dropJob_tide {k} {s : State} : (dropJob k s).tide = s.tide := rfl
@[simp] theorem dropJob_ring {k} {s : State} : (dropJob k s).ring = s.ring := rfl
@[simp] theorem dropJob_engines {k} {s : State} : (dropJob k s).engines = s.engines := rfl
@[simp] theorem dropJob_spillUsed {k} {s : State} : (dropJob k s).spillUsed = s.spillUsed := rfl
@[simp] theorem dropJob_straySegments {k} {s : State} : (dropJob k s).straySegments = s.straySegments := rfl
@[simp] theorem dropJob_man {k} {s : State} : (dropJob k s).man = s.man := rfl
@[simp] theorem dropJob_ing {k} {s : State} : (dropJob k s).ing = s.ing := rfl
@[simp] theorem dropJob_home {k} {s : State} : (dropJob k s).home = s.home := rfl
@[simp] theorem dropJob_ports {k} {s : State} : (dropJob k s).ports = s.ports := rfl
@[simp] theorem dropJob_sw {k} {s : State} : (dropJob k s).sw = s.sw := rfl
@[simp] theorem dropJob_pilot {k} {s : State} : (dropJob k s).pilot = s.pilot := rfl
@[simp] theorem dropJob_sec {k} {s : State} : (dropJob k s).sec = s.sec := rfl
@[simp] theorem dropJob_hm {k} {s : State} : (dropJob k s).hm = s.hm := rfl
@[simp] theorem dropJob_tel {k} {s : State} : (dropJob k s).tel = s.tel := rfl
@[simp] theorem dropJob_isl {k} {s : State} : (dropJob k s).isl = s.isl := rfl
@[simp] theorem dropJob_copies {k} {s : State} : (dropJob k s).copies = s.copies := rfl
@[simp] theorem dropJob_stage {k} {s : State} : (dropJob k s).stage = s.stage := rfl
@[simp] theorem dropJob_mbox {k} {s : State} : (dropJob k s).mbox = s.mbox := rfl
@[simp] theorem dropJob_out {k} {s : State} : (dropJob k s).out = s.out := rfl
@[simp] theorem dropJob_freeCount {k} {s : State} : (dropJob k s).freeCount = s.freeCount := rfl

@[simp] theorem logPut_pending {r} {s : State} : (logPut r s).pending = s.pending := rfl
@[simp] theorem logPut_refCycles {r} {s : State} : (logPut r s).refCycles = s.refCycles := rfl
@[simp] theorem logPut_tide {r} {s : State} : (logPut r s).tide = s.tide := rfl
@[simp] theorem logPut_ring {r} {s : State} : (logPut r s).ring = s.ring := rfl
@[simp] theorem logPut_engines {r} {s : State} : (logPut r s).engines = s.engines := rfl
@[simp] theorem logPut_spillUsed {r} {s : State} : (logPut r s).spillUsed = s.spillUsed := rfl
@[simp] theorem logPut_straySegments {r} {s : State} : (logPut r s).straySegments = s.straySegments := rfl
@[simp] theorem logPut_man {r} {s : State} : (logPut r s).man = s.man := rfl
@[simp] theorem logPut_ing {r} {s : State} : (logPut r s).ing = s.ing := rfl
@[simp] theorem logPut_home {r} {s : State} : (logPut r s).home = s.home := rfl
@[simp] theorem logPut_ports {r} {s : State} : (logPut r s).ports = s.ports := rfl
@[simp] theorem logPut_sw {r} {s : State} : (logPut r s).sw = s.sw := rfl
@[simp] theorem logPut_pilot {r} {s : State} : (logPut r s).pilot = s.pilot := rfl
@[simp] theorem logPut_sec {r} {s : State} : (logPut r s).sec = s.sec := rfl
@[simp] theorem logPut_hm {r} {s : State} : (logPut r s).hm = s.hm := rfl
@[simp] theorem logPut_tel {r} {s : State} : (logPut r s).tel = s.tel := rfl
@[simp] theorem logPut_isl {r} {s : State} : (logPut r s).isl = s.isl := rfl
@[simp] theorem logPut_copies {r} {s : State} : (logPut r s).copies = s.copies := rfl
@[simp] theorem logPut_stage {r} {s : State} : (logPut r s).stage = s.stage := rfl
@[simp] theorem logPut_mbox {r} {s : State} : (logPut r s).mbox = s.mbox := rfl
@[simp] theorem logPut_out {r} {s : State} : (logPut r s).out = s.out := rfl
@[simp] theorem logPut_freeCount {r} {s : State} : (logPut r s).freeCount = s.freeCount := rfl

@[simp] theorem setNext_pending {q o n} {s : State} : (setNext q o n s).pending = s.pending := rfl
@[simp] theorem setNext_refCycles {q o n} {s : State} : (setNext q o n s).refCycles = s.refCycles := rfl
@[simp] theorem setNext_tide {q o n} {s : State} : (setNext q o n s).tide = s.tide := rfl
@[simp] theorem setNext_ring {q o n} {s : State} : (setNext q o n s).ring = s.ring := rfl
@[simp] theorem setNext_engines {q o n} {s : State} : (setNext q o n s).engines = s.engines := rfl
@[simp] theorem setNext_spillUsed {q o n} {s : State} : (setNext q o n s).spillUsed = s.spillUsed := rfl
@[simp] theorem setNext_straySegments {q o n} {s : State} : (setNext q o n s).straySegments = s.straySegments := rfl
@[simp] theorem setNext_man {q o n} {s : State} : (setNext q o n s).man = s.man := rfl
@[simp] theorem setNext_ing {q o n} {s : State} : (setNext q o n s).ing = s.ing := rfl
@[simp] theorem setNext_home {q o n} {s : State} : (setNext q o n s).home = s.home := rfl
@[simp] theorem setNext_ports {q o n} {s : State} : (setNext q o n s).ports = s.ports := rfl
@[simp] theorem setNext_sw {q o n} {s : State} : (setNext q o n s).sw = s.sw := rfl
@[simp] theorem setNext_pilot {q o n} {s : State} : (setNext q o n s).pilot = s.pilot := rfl
@[simp] theorem setNext_sec {q o n} {s : State} : (setNext q o n s).sec = s.sec := rfl
@[simp] theorem setNext_hm {q o n} {s : State} : (setNext q o n s).hm = s.hm := rfl
@[simp] theorem setNext_tel {q o n} {s : State} : (setNext q o n s).tel = s.tel := rfl
@[simp] theorem setNext_isl {q o n} {s : State} : (setNext q o n s).isl = s.isl := rfl
@[simp] theorem setNext_copies {q o n} {s : State} : (setNext q o n s).copies = s.copies := rfl
@[simp] theorem setNext_stage {q o n} {s : State} : (setNext q o n s).stage = s.stage := rfl
@[simp] theorem setNext_mbox {q o n} {s : State} : (setNext q o n s).mbox = s.mbox := rfl
@[simp] theorem setNext_out {q o n} {s : State} : (setNext q o n s).out = s.out := rfl
@[simp] theorem setNext_freeCount {q o n} {s : State} : (setNext q o n s).freeCount = s.freeCount := rfl

@[simp] theorem clearHere_pending {k} {s : State} : (clearHere k s).pending = s.pending := rfl
@[simp] theorem clearHere_refCycles {k} {s : State} : (clearHere k s).refCycles = s.refCycles := rfl
@[simp] theorem clearHere_tide {k} {s : State} : (clearHere k s).tide = s.tide := rfl
@[simp] theorem clearHere_ring {k} {s : State} : (clearHere k s).ring = s.ring := rfl
@[simp] theorem clearHere_engines {k} {s : State} : (clearHere k s).engines = s.engines := rfl
@[simp] theorem clearHere_spillUsed {k} {s : State} : (clearHere k s).spillUsed = s.spillUsed := rfl
@[simp] theorem clearHere_straySegments {k} {s : State} : (clearHere k s).straySegments = s.straySegments := rfl
@[simp] theorem clearHere_man {k} {s : State} : (clearHere k s).man = s.man := rfl
@[simp] theorem clearHere_ing {k} {s : State} : (clearHere k s).ing = s.ing := rfl
@[simp] theorem clearHere_ports {k} {s : State} : (clearHere k s).ports = s.ports := rfl
@[simp] theorem clearHere_sw {k} {s : State} : (clearHere k s).sw = s.sw := rfl
@[simp] theorem clearHere_pilot {k} {s : State} : (clearHere k s).pilot = s.pilot := rfl
@[simp] theorem clearHere_acc {k} {s : State} : (clearHere k s).acc = s.acc := rfl
@[simp] theorem clearHere_sec {k} {s : State} : (clearHere k s).sec = s.sec := rfl
@[simp] theorem clearHere_hm {k} {s : State} : (clearHere k s).hm = s.hm := rfl
@[simp] theorem clearHere_tel {k} {s : State} : (clearHere k s).tel = s.tel := rfl
@[simp] theorem clearHere_isl {k} {s : State} : (clearHere k s).isl = s.isl := rfl
@[simp] theorem clearHere_copies {k} {s : State} : (clearHere k s).copies = s.copies := rfl
@[simp] theorem clearHere_stage {k} {s : State} : (clearHere k s).stage = s.stage := rfl
@[simp] theorem clearHere_mbox {k} {s : State} : (clearHere k s).mbox = s.mbox := rfl
@[simp] theorem clearHere_out {k} {s : State} : (clearHere k s).out = s.out := rfl
@[simp] theorem clearHere_freeCount {k} {s : State} : (clearHere k s).freeCount = s.freeCount := rfl

@[simp] theorem setQueue_pending {k q} {s : State} : (setQueue k q s).pending = s.pending := rfl
@[simp] theorem setQueue_refCycles {k q} {s : State} : (setQueue k q s).refCycles = s.refCycles := rfl
@[simp] theorem setQueue_tide {k q} {s : State} : (setQueue k q s).tide = s.tide := rfl
@[simp] theorem setQueue_ring {k q} {s : State} : (setQueue k q s).ring = s.ring := rfl
@[simp] theorem setQueue_engines {k q} {s : State} : (setQueue k q s).engines = s.engines := rfl
@[simp] theorem setQueue_spillUsed {k q} {s : State} : (setQueue k q s).spillUsed = s.spillUsed := rfl
@[simp] theorem setQueue_straySegments {k q} {s : State} : (setQueue k q s).straySegments = s.straySegments := rfl
@[simp] theorem setQueue_man {k q} {s : State} : (setQueue k q s).man = s.man := rfl
@[simp] theorem setQueue_ing {k q} {s : State} : (setQueue k q s).ing = s.ing := rfl
@[simp] theorem setQueue_ports {k q} {s : State} : (setQueue k q s).ports = s.ports := rfl
@[simp] theorem setQueue_sw {k q} {s : State} : (setQueue k q s).sw = s.sw := rfl
@[simp] theorem setQueue_pilot {k q} {s : State} : (setQueue k q s).pilot = s.pilot := rfl
@[simp] theorem setQueue_acc {k q} {s : State} : (setQueue k q s).acc = s.acc := rfl
@[simp] theorem setQueue_sec {k q} {s : State} : (setQueue k q s).sec = s.sec := rfl
@[simp] theorem setQueue_hm {k q} {s : State} : (setQueue k q s).hm = s.hm := rfl
@[simp] theorem setQueue_tel {k q} {s : State} : (setQueue k q s).tel = s.tel := rfl
@[simp] theorem setQueue_isl {k q} {s : State} : (setQueue k q s).isl = s.isl := rfl
@[simp] theorem setQueue_copies {k q} {s : State} : (setQueue k q s).copies = s.copies := rfl
@[simp] theorem setQueue_stage {k q} {s : State} : (setQueue k q s).stage = s.stage := rfl
@[simp] theorem setQueue_mbox {k q} {s : State} : (setQueue k q s).mbox = s.mbox := rfl
@[simp] theorem setQueue_out {k q} {s : State} : (setQueue k q s).out = s.out := rfl
@[simp] theorem setQueue_freeCount {k q} {s : State} : (setQueue k q s).freeCount = s.freeCount := rfl

@[simp] theorem setDir_pending {d} {s : State} : (setDir d s).pending = s.pending := rfl
@[simp] theorem setDir_refCycles {d} {s : State} : (setDir d s).refCycles = s.refCycles := rfl
@[simp] theorem setDir_tide {d} {s : State} : (setDir d s).tide = s.tide := rfl
@[simp] theorem setDir_ring {d} {s : State} : (setDir d s).ring = s.ring := rfl
@[simp] theorem setDir_engines {d} {s : State} : (setDir d s).engines = s.engines := rfl
@[simp] theorem setDir_spillUsed {d} {s : State} : (setDir d s).spillUsed = s.spillUsed := rfl
@[simp] theorem setDir_straySegments {d} {s : State} : (setDir d s).straySegments = s.straySegments := rfl
@[simp] theorem setDir_man {d} {s : State} : (setDir d s).man = s.man := rfl
@[simp] theorem setDir_ing {d} {s : State} : (setDir d s).ing = s.ing := rfl
@[simp] theorem setDir_ports {d} {s : State} : (setDir d s).ports = s.ports := rfl
@[simp] theorem setDir_sw {d} {s : State} : (setDir d s).sw = s.sw := rfl
@[simp] theorem setDir_pilot {d} {s : State} : (setDir d s).pilot = s.pilot := rfl
@[simp] theorem setDir_acc {d} {s : State} : (setDir d s).acc = s.acc := rfl
@[simp] theorem setDir_sec {d} {s : State} : (setDir d s).sec = s.sec := rfl
@[simp] theorem setDir_hm {d} {s : State} : (setDir d s).hm = s.hm := rfl
@[simp] theorem setDir_tel {d} {s : State} : (setDir d s).tel = s.tel := rfl
@[simp] theorem setDir_isl {d} {s : State} : (setDir d s).isl = s.isl := rfl
@[simp] theorem setDir_copies {d} {s : State} : (setDir d s).copies = s.copies := rfl
@[simp] theorem setDir_stage {d} {s : State} : (setDir d s).stage = s.stage := rfl
@[simp] theorem setDir_mbox {d} {s : State} : (setDir d s).mbox = s.mbox := rfl
@[simp] theorem setDir_out {d} {s : State} : (setDir d s).out = s.out := rfl
@[simp] theorem setDir_freeCount {d} {s : State} : (setDir d s).freeCount = s.freeCount := rfl

@[simp] theorem dropDir_pending {l} {s : State} : (dropDir l s).pending = s.pending := rfl
@[simp] theorem dropDir_refCycles {l} {s : State} : (dropDir l s).refCycles = s.refCycles := rfl
@[simp] theorem dropDir_tide {l} {s : State} : (dropDir l s).tide = s.tide := rfl
@[simp] theorem dropDir_ring {l} {s : State} : (dropDir l s).ring = s.ring := rfl
@[simp] theorem dropDir_engines {l} {s : State} : (dropDir l s).engines = s.engines := rfl
@[simp] theorem dropDir_spillUsed {l} {s : State} : (dropDir l s).spillUsed = s.spillUsed := rfl
@[simp] theorem dropDir_straySegments {l} {s : State} : (dropDir l s).straySegments = s.straySegments := rfl
@[simp] theorem dropDir_man {l} {s : State} : (dropDir l s).man = s.man := rfl
@[simp] theorem dropDir_ing {l} {s : State} : (dropDir l s).ing = s.ing := rfl
@[simp] theorem dropDir_ports {l} {s : State} : (dropDir l s).ports = s.ports := rfl
@[simp] theorem dropDir_sw {l} {s : State} : (dropDir l s).sw = s.sw := rfl
@[simp] theorem dropDir_pilot {l} {s : State} : (dropDir l s).pilot = s.pilot := rfl
@[simp] theorem dropDir_acc {l} {s : State} : (dropDir l s).acc = s.acc := rfl
@[simp] theorem dropDir_sec {l} {s : State} : (dropDir l s).sec = s.sec := rfl
@[simp] theorem dropDir_hm {l} {s : State} : (dropDir l s).hm = s.hm := rfl
@[simp] theorem dropDir_tel {l} {s : State} : (dropDir l s).tel = s.tel := rfl
@[simp] theorem dropDir_isl {l} {s : State} : (dropDir l s).isl = s.isl := rfl
@[simp] theorem dropDir_copies {l} {s : State} : (dropDir l s).copies = s.copies := rfl
@[simp] theorem dropDir_stage {l} {s : State} : (dropDir l s).stage = s.stage := rfl
@[simp] theorem dropDir_mbox {l} {s : State} : (dropDir l s).mbox = s.mbox := rfl
@[simp] theorem dropDir_out {l} {s : State} : (dropDir l s).out = s.out := rfl
@[simp] theorem dropDir_freeCount {l} {s : State} : (dropDir l s).freeCount = s.freeCount := rfl

@[simp] theorem setRound_pending {r} {s : State} : (setRound r s).pending = s.pending := rfl
@[simp] theorem setRound_refCycles {r} {s : State} : (setRound r s).refCycles = s.refCycles := rfl
@[simp] theorem setRound_tide {r} {s : State} : (setRound r s).tide = s.tide := rfl
@[simp] theorem setRound_ring {r} {s : State} : (setRound r s).ring = s.ring := rfl
@[simp] theorem setRound_engines {r} {s : State} : (setRound r s).engines = s.engines := rfl
@[simp] theorem setRound_spillUsed {r} {s : State} : (setRound r s).spillUsed = s.spillUsed := rfl
@[simp] theorem setRound_straySegments {r} {s : State} : (setRound r s).straySegments = s.straySegments := rfl
@[simp] theorem setRound_man {r} {s : State} : (setRound r s).man = s.man := rfl
@[simp] theorem setRound_ing {r} {s : State} : (setRound r s).ing = s.ing := rfl
@[simp] theorem setRound_ports {r} {s : State} : (setRound r s).ports = s.ports := rfl
@[simp] theorem setRound_sw {r} {s : State} : (setRound r s).sw = s.sw := rfl
@[simp] theorem setRound_pilot {r} {s : State} : (setRound r s).pilot = s.pilot := rfl
@[simp] theorem setRound_acc {r} {s : State} : (setRound r s).acc = s.acc := rfl
@[simp] theorem setRound_sec {r} {s : State} : (setRound r s).sec = s.sec := rfl
@[simp] theorem setRound_hm {r} {s : State} : (setRound r s).hm = s.hm := rfl
@[simp] theorem setRound_tel {r} {s : State} : (setRound r s).tel = s.tel := rfl
@[simp] theorem setRound_isl {r} {s : State} : (setRound r s).isl = s.isl := rfl
@[simp] theorem setRound_copies {r} {s : State} : (setRound r s).copies = s.copies := rfl
@[simp] theorem setRound_stage {r} {s : State} : (setRound r s).stage = s.stage := rfl
@[simp] theorem setRound_mbox {r} {s : State} : (setRound r s).mbox = s.mbox := rfl
@[simp] theorem setRound_out {r} {s : State} : (setRound r s).out = s.out := rfl
@[simp] theorem setRound_freeCount {r} {s : State} : (setRound r s).freeCount = s.freeCount := rfl

@[simp] theorem setSrc_pending {q x} {s : State} : (setSrc q x s).pending = s.pending := rfl
@[simp] theorem setSrc_refCycles {q x} {s : State} : (setSrc q x s).refCycles = s.refCycles := rfl
@[simp] theorem setSrc_tide {q x} {s : State} : (setSrc q x s).tide = s.tide := rfl
@[simp] theorem setSrc_ring {q x} {s : State} : (setSrc q x s).ring = s.ring := rfl
@[simp] theorem setSrc_engines {q x} {s : State} : (setSrc q x s).engines = s.engines := rfl
@[simp] theorem setSrc_spillUsed {q x} {s : State} : (setSrc q x s).spillUsed = s.spillUsed := rfl
@[simp] theorem setSrc_straySegments {q x} {s : State} : (setSrc q x s).straySegments = s.straySegments := rfl
@[simp] theorem setSrc_man {q x} {s : State} : (setSrc q x s).man = s.man := rfl
@[simp] theorem setSrc_ing {q x} {s : State} : (setSrc q x s).ing = s.ing := rfl
@[simp] theorem setSrc_ports {q x} {s : State} : (setSrc q x s).ports = s.ports := rfl
@[simp] theorem setSrc_sw {q x} {s : State} : (setSrc q x s).sw = s.sw := rfl
@[simp] theorem setSrc_pilot {q x} {s : State} : (setSrc q x s).pilot = s.pilot := rfl
@[simp] theorem setSrc_acc {q x} {s : State} : (setSrc q x s).acc = s.acc := rfl
@[simp] theorem setSrc_sec {q x} {s : State} : (setSrc q x s).sec = s.sec := rfl
@[simp] theorem setSrc_hm {q x} {s : State} : (setSrc q x s).hm = s.hm := rfl
@[simp] theorem setSrc_tel {q x} {s : State} : (setSrc q x s).tel = s.tel := rfl
@[simp] theorem setSrc_isl {q x} {s : State} : (setSrc q x s).isl = s.isl := rfl
@[simp] theorem setSrc_copies {q x} {s : State} : (setSrc q x s).copies = s.copies := rfl
@[simp] theorem setSrc_stage {q x} {s : State} : (setSrc q x s).stage = s.stage := rfl
@[simp] theorem setSrc_mbox {q x} {s : State} : (setSrc q x s).mbox = s.mbox := rfl
@[simp] theorem setSrc_out {q x} {s : State} : (setSrc q x s).out = s.out := rfl
@[simp] theorem setSrc_freeCount {q x} {s : State} : (setSrc q x s).freeCount = s.freeCount := rfl

@[simp] theorem setIssued_pending {i} {s : State} : (setIssued i s).pending = s.pending := rfl
@[simp] theorem setIssued_refCycles {i} {s : State} : (setIssued i s).refCycles = s.refCycles := rfl
@[simp] theorem setIssued_tide {i} {s : State} : (setIssued i s).tide = s.tide := rfl
@[simp] theorem setIssued_ring {i} {s : State} : (setIssued i s).ring = s.ring := rfl
@[simp] theorem setIssued_engines {i} {s : State} : (setIssued i s).engines = s.engines := rfl
@[simp] theorem setIssued_spillUsed {i} {s : State} : (setIssued i s).spillUsed = s.spillUsed := rfl
@[simp] theorem setIssued_straySegments {i} {s : State} : (setIssued i s).straySegments = s.straySegments := rfl
@[simp] theorem setIssued_ing {i} {s : State} : (setIssued i s).ing = s.ing := rfl
@[simp] theorem setIssued_home {i} {s : State} : (setIssued i s).home = s.home := rfl
@[simp] theorem setIssued_ports {i} {s : State} : (setIssued i s).ports = s.ports := rfl
@[simp] theorem setIssued_sw {i} {s : State} : (setIssued i s).sw = s.sw := rfl
@[simp] theorem setIssued_pilot {i} {s : State} : (setIssued i s).pilot = s.pilot := rfl
@[simp] theorem setIssued_acc {i} {s : State} : (setIssued i s).acc = s.acc := rfl
@[simp] theorem setIssued_sec {i} {s : State} : (setIssued i s).sec = s.sec := rfl
@[simp] theorem setIssued_hm {i} {s : State} : (setIssued i s).hm = s.hm := rfl
@[simp] theorem setIssued_tel {i} {s : State} : (setIssued i s).tel = s.tel := rfl
@[simp] theorem setIssued_isl {i} {s : State} : (setIssued i s).isl = s.isl := rfl
@[simp] theorem setIssued_copies {i} {s : State} : (setIssued i s).copies = s.copies := rfl
@[simp] theorem setIssued_stage {i} {s : State} : (setIssued i s).stage = s.stage := rfl
@[simp] theorem setIssued_mbox {i} {s : State} : (setIssued i s).mbox = s.mbox := rfl
@[simp] theorem setIssued_out {i} {s : State} : (setIssued i s).out = s.out := rfl
@[simp] theorem setIssued_freeCount {i} {s : State} : (setIssued i s).freeCount = s.freeCount := rfl

@[simp] theorem dropIssued_pending {n} {s : State} : (dropIssued n s).pending = s.pending := rfl
@[simp] theorem dropIssued_refCycles {n} {s : State} : (dropIssued n s).refCycles = s.refCycles := rfl
@[simp] theorem dropIssued_tide {n} {s : State} : (dropIssued n s).tide = s.tide := rfl
@[simp] theorem dropIssued_ring {n} {s : State} : (dropIssued n s).ring = s.ring := rfl
@[simp] theorem dropIssued_engines {n} {s : State} : (dropIssued n s).engines = s.engines := rfl
@[simp] theorem dropIssued_spillUsed {n} {s : State} : (dropIssued n s).spillUsed = s.spillUsed := rfl
@[simp] theorem dropIssued_straySegments {n} {s : State} : (dropIssued n s).straySegments = s.straySegments := rfl
@[simp] theorem dropIssued_ing {n} {s : State} : (dropIssued n s).ing = s.ing := rfl
@[simp] theorem dropIssued_home {n} {s : State} : (dropIssued n s).home = s.home := rfl
@[simp] theorem dropIssued_ports {n} {s : State} : (dropIssued n s).ports = s.ports := rfl
@[simp] theorem dropIssued_sw {n} {s : State} : (dropIssued n s).sw = s.sw := rfl
@[simp] theorem dropIssued_pilot {n} {s : State} : (dropIssued n s).pilot = s.pilot := rfl
@[simp] theorem dropIssued_acc {n} {s : State} : (dropIssued n s).acc = s.acc := rfl
@[simp] theorem dropIssued_sec {n} {s : State} : (dropIssued n s).sec = s.sec := rfl
@[simp] theorem dropIssued_hm {n} {s : State} : (dropIssued n s).hm = s.hm := rfl
@[simp] theorem dropIssued_tel {n} {s : State} : (dropIssued n s).tel = s.tel := rfl
@[simp] theorem dropIssued_isl {n} {s : State} : (dropIssued n s).isl = s.isl := rfl
@[simp] theorem dropIssued_copies {n} {s : State} : (dropIssued n s).copies = s.copies := rfl
@[simp] theorem dropIssued_stage {n} {s : State} : (dropIssued n s).stage = s.stage := rfl
@[simp] theorem dropIssued_mbox {n} {s : State} : (dropIssued n s).mbox = s.mbox := rfl
@[simp] theorem dropIssued_out {n} {s : State} : (dropIssued n s).out = s.out := rfl
@[simp] theorem dropIssued_freeCount {n} {s : State} : (dropIssued n s).freeCount = s.freeCount := rfl

@[simp] theorem setNotice_pending {n} {s : State} : (setNotice n s).pending = s.pending := rfl
@[simp] theorem setNotice_refCycles {n} {s : State} : (setNotice n s).refCycles = s.refCycles := rfl
@[simp] theorem setNotice_tide {n} {s : State} : (setNotice n s).tide = s.tide := rfl
@[simp] theorem setNotice_ring {n} {s : State} : (setNotice n s).ring = s.ring := rfl
@[simp] theorem setNotice_engines {n} {s : State} : (setNotice n s).engines = s.engines := rfl
@[simp] theorem setNotice_spillUsed {n} {s : State} : (setNotice n s).spillUsed = s.spillUsed := rfl
@[simp] theorem setNotice_straySegments {n} {s : State} : (setNotice n s).straySegments = s.straySegments := rfl
@[simp] theorem setNotice_ing {n} {s : State} : (setNotice n s).ing = s.ing := rfl
@[simp] theorem setNotice_home {n} {s : State} : (setNotice n s).home = s.home := rfl
@[simp] theorem setNotice_ports {n} {s : State} : (setNotice n s).ports = s.ports := rfl
@[simp] theorem setNotice_sw {n} {s : State} : (setNotice n s).sw = s.sw := rfl
@[simp] theorem setNotice_pilot {n} {s : State} : (setNotice n s).pilot = s.pilot := rfl
@[simp] theorem setNotice_acc {n} {s : State} : (setNotice n s).acc = s.acc := rfl
@[simp] theorem setNotice_sec {n} {s : State} : (setNotice n s).sec = s.sec := rfl
@[simp] theorem setNotice_hm {n} {s : State} : (setNotice n s).hm = s.hm := rfl
@[simp] theorem setNotice_tel {n} {s : State} : (setNotice n s).tel = s.tel := rfl
@[simp] theorem setNotice_isl {n} {s : State} : (setNotice n s).isl = s.isl := rfl
@[simp] theorem setNotice_copies {n} {s : State} : (setNotice n s).copies = s.copies := rfl
@[simp] theorem setNotice_stage {n} {s : State} : (setNotice n s).stage = s.stage := rfl
@[simp] theorem setNotice_mbox {n} {s : State} : (setNotice n s).mbox = s.mbox := rfl
@[simp] theorem setNotice_out {n} {s : State} : (setNotice n s).out = s.out := rfl
@[simp] theorem setNotice_freeCount {n} {s : State} : (setNotice n s).freeCount = s.freeCount := rfl

@[simp] theorem putCharter_pending {c x} {s : State} : (putCharter c x s).pending = s.pending := rfl
@[simp] theorem putCharter_refCycles {c x} {s : State} : (putCharter c x s).refCycles = s.refCycles := rfl
@[simp] theorem putCharter_tide {c x} {s : State} : (putCharter c x s).tide = s.tide := rfl
@[simp] theorem putCharter_ring {c x} {s : State} : (putCharter c x s).ring = s.ring := rfl
@[simp] theorem putCharter_engines {c x} {s : State} : (putCharter c x s).engines = s.engines := rfl
@[simp] theorem putCharter_spillUsed {c x} {s : State} : (putCharter c x s).spillUsed = s.spillUsed := rfl
@[simp] theorem putCharter_straySegments {c x} {s : State} : (putCharter c x s).straySegments = s.straySegments := rfl
@[simp] theorem putCharter_ing {c x} {s : State} : (putCharter c x s).ing = s.ing := rfl
@[simp] theorem putCharter_home {c x} {s : State} : (putCharter c x s).home = s.home := rfl
@[simp] theorem putCharter_ports {c x} {s : State} : (putCharter c x s).ports = s.ports := rfl
@[simp] theorem putCharter_sw {c x} {s : State} : (putCharter c x s).sw = s.sw := rfl
@[simp] theorem putCharter_pilot {c x} {s : State} : (putCharter c x s).pilot = s.pilot := rfl
@[simp] theorem putCharter_acc {c x} {s : State} : (putCharter c x s).acc = s.acc := rfl
@[simp] theorem putCharter_sec {c x} {s : State} : (putCharter c x s).sec = s.sec := rfl
@[simp] theorem putCharter_hm {c x} {s : State} : (putCharter c x s).hm = s.hm := rfl
@[simp] theorem putCharter_tel {c x} {s : State} : (putCharter c x s).tel = s.tel := rfl
@[simp] theorem putCharter_isl {c x} {s : State} : (putCharter c x s).isl = s.isl := rfl
@[simp] theorem putCharter_copies {c x} {s : State} : (putCharter c x s).copies = s.copies := rfl
@[simp] theorem putCharter_stage {c x} {s : State} : (putCharter c x s).stage = s.stage := rfl
@[simp] theorem putCharter_mbox {c x} {s : State} : (putCharter c x s).mbox = s.mbox := rfl
@[simp] theorem putCharter_out {c x} {s : State} : (putCharter c x s).out = s.out := rfl
@[simp] theorem putCharter_freeCount {c x} {s : State} : (putCharter c x s).freeCount = s.freeCount := rfl

@[simp] theorem putEntry_pending {i e} {s : State} : (putEntry i e s).pending = s.pending := rfl
@[simp] theorem putEntry_refCycles {i e} {s : State} : (putEntry i e s).refCycles = s.refCycles := rfl
@[simp] theorem putEntry_tide {i e} {s : State} : (putEntry i e s).tide = s.tide := rfl
@[simp] theorem putEntry_ring {i e} {s : State} : (putEntry i e s).ring = s.ring := rfl
@[simp] theorem putEntry_engines {i e} {s : State} : (putEntry i e s).engines = s.engines := rfl
@[simp] theorem putEntry_spillUsed {i e} {s : State} : (putEntry i e s).spillUsed = s.spillUsed := rfl
@[simp] theorem putEntry_straySegments {i e} {s : State} : (putEntry i e s).straySegments = s.straySegments := rfl
@[simp] theorem putEntry_ing {i e} {s : State} : (putEntry i e s).ing = s.ing := rfl
@[simp] theorem putEntry_home {i e} {s : State} : (putEntry i e s).home = s.home := rfl
@[simp] theorem putEntry_ports {i e} {s : State} : (putEntry i e s).ports = s.ports := rfl
@[simp] theorem putEntry_sw {i e} {s : State} : (putEntry i e s).sw = s.sw := rfl
@[simp] theorem putEntry_pilot {i e} {s : State} : (putEntry i e s).pilot = s.pilot := rfl
@[simp] theorem putEntry_acc {i e} {s : State} : (putEntry i e s).acc = s.acc := rfl
@[simp] theorem putEntry_sec {i e} {s : State} : (putEntry i e s).sec = s.sec := rfl
@[simp] theorem putEntry_hm {i e} {s : State} : (putEntry i e s).hm = s.hm := rfl
@[simp] theorem putEntry_tel {i e} {s : State} : (putEntry i e s).tel = s.tel := rfl
@[simp] theorem putEntry_isl {i e} {s : State} : (putEntry i e s).isl = s.isl := rfl
@[simp] theorem putEntry_copies {i e} {s : State} : (putEntry i e s).copies = s.copies := rfl
@[simp] theorem putEntry_stage {i e} {s : State} : (putEntry i e s).stage = s.stage := rfl
@[simp] theorem putEntry_mbox {i e} {s : State} : (putEntry i e s).mbox = s.mbox := rfl
@[simp] theorem putEntry_out {i e} {s : State} : (putEntry i e s).out = s.out := rfl
@[simp] theorem putEntry_freeCount {i e} {s : State} : (putEntry i e s).freeCount = s.freeCount := rfl

@[simp] theorem setRoute_pending {m a} {s : State} : (setRoute m a s).pending = s.pending := rfl
@[simp] theorem setRoute_refCycles {m a} {s : State} : (setRoute m a s).refCycles = s.refCycles := rfl
@[simp] theorem setRoute_tide {m a} {s : State} : (setRoute m a s).tide = s.tide := rfl
@[simp] theorem setRoute_ring {m a} {s : State} : (setRoute m a s).ring = s.ring := rfl
@[simp] theorem setRoute_engines {m a} {s : State} : (setRoute m a s).engines = s.engines := rfl
@[simp] theorem setRoute_spillUsed {m a} {s : State} : (setRoute m a s).spillUsed = s.spillUsed := rfl
@[simp] theorem setRoute_straySegments {m a} {s : State} : (setRoute m a s).straySegments = s.straySegments := rfl
@[simp] theorem setRoute_ing {m a} {s : State} : (setRoute m a s).ing = s.ing := rfl
@[simp] theorem setRoute_home {m a} {s : State} : (setRoute m a s).home = s.home := rfl
@[simp] theorem setRoute_ports {m a} {s : State} : (setRoute m a s).ports = s.ports := rfl
@[simp] theorem setRoute_sw {m a} {s : State} : (setRoute m a s).sw = s.sw := rfl
@[simp] theorem setRoute_pilot {m a} {s : State} : (setRoute m a s).pilot = s.pilot := rfl
@[simp] theorem setRoute_acc {m a} {s : State} : (setRoute m a s).acc = s.acc := rfl
@[simp] theorem setRoute_sec {m a} {s : State} : (setRoute m a s).sec = s.sec := rfl
@[simp] theorem setRoute_hm {m a} {s : State} : (setRoute m a s).hm = s.hm := rfl
@[simp] theorem setRoute_tel {m a} {s : State} : (setRoute m a s).tel = s.tel := rfl
@[simp] theorem setRoute_isl {m a} {s : State} : (setRoute m a s).isl = s.isl := rfl
@[simp] theorem setRoute_copies {m a} {s : State} : (setRoute m a s).copies = s.copies := rfl
@[simp] theorem setRoute_stage {m a} {s : State} : (setRoute m a s).stage = s.stage := rfl
@[simp] theorem setRoute_mbox {m a} {s : State} : (setRoute m a s).mbox = s.mbox := rfl
@[simp] theorem setRoute_out {m a} {s : State} : (setRoute m a s).out = s.out := rfl
@[simp] theorem setRoute_freeCount {m a} {s : State} : (setRoute m a s).freeCount = s.freeCount := rfl

@[simp] theorem setFilter_pending {f} {s : State} : (setFilter f s).pending = s.pending := rfl
@[simp] theorem setFilter_refCycles {f} {s : State} : (setFilter f s).refCycles = s.refCycles := rfl
@[simp] theorem setFilter_tide {f} {s : State} : (setFilter f s).tide = s.tide := rfl
@[simp] theorem setFilter_ring {f} {s : State} : (setFilter f s).ring = s.ring := rfl
@[simp] theorem setFilter_engines {f} {s : State} : (setFilter f s).engines = s.engines := rfl
@[simp] theorem setFilter_spillUsed {f} {s : State} : (setFilter f s).spillUsed = s.spillUsed := rfl
@[simp] theorem setFilter_straySegments {f} {s : State} : (setFilter f s).straySegments = s.straySegments := rfl
@[simp] theorem setFilter_man {f} {s : State} : (setFilter f s).man = s.man := rfl
@[simp] theorem setFilter_home {f} {s : State} : (setFilter f s).home = s.home := rfl
@[simp] theorem setFilter_ports {f} {s : State} : (setFilter f s).ports = s.ports := rfl
@[simp] theorem setFilter_sw {f} {s : State} : (setFilter f s).sw = s.sw := rfl
@[simp] theorem setFilter_pilot {f} {s : State} : (setFilter f s).pilot = s.pilot := rfl
@[simp] theorem setFilter_acc {f} {s : State} : (setFilter f s).acc = s.acc := rfl
@[simp] theorem setFilter_sec {f} {s : State} : (setFilter f s).sec = s.sec := rfl
@[simp] theorem setFilter_hm {f} {s : State} : (setFilter f s).hm = s.hm := rfl
@[simp] theorem setFilter_tel {f} {s : State} : (setFilter f s).tel = s.tel := rfl
@[simp] theorem setFilter_isl {f} {s : State} : (setFilter f s).isl = s.isl := rfl
@[simp] theorem setFilter_copies {f} {s : State} : (setFilter f s).copies = s.copies := rfl
@[simp] theorem setFilter_stage {f} {s : State} : (setFilter f s).stage = s.stage := rfl
@[simp] theorem setFilter_mbox {f} {s : State} : (setFilter f s).mbox = s.mbox := rfl
@[simp] theorem setFilter_out {f} {s : State} : (setFilter f s).out = s.out := rfl
@[simp] theorem setFilter_freeCount {f} {s : State} : (setFilter f s).freeCount = s.freeCount := rfl

@[simp] theorem dropFilter_pending {l} {s : State} : (dropFilter l s).pending = s.pending := rfl
@[simp] theorem dropFilter_refCycles {l} {s : State} : (dropFilter l s).refCycles = s.refCycles := rfl
@[simp] theorem dropFilter_tide {l} {s : State} : (dropFilter l s).tide = s.tide := rfl
@[simp] theorem dropFilter_ring {l} {s : State} : (dropFilter l s).ring = s.ring := rfl
@[simp] theorem dropFilter_engines {l} {s : State} : (dropFilter l s).engines = s.engines := rfl
@[simp] theorem dropFilter_spillUsed {l} {s : State} : (dropFilter l s).spillUsed = s.spillUsed := rfl
@[simp] theorem dropFilter_straySegments {l} {s : State} : (dropFilter l s).straySegments = s.straySegments := rfl
@[simp] theorem dropFilter_man {l} {s : State} : (dropFilter l s).man = s.man := rfl
@[simp] theorem dropFilter_home {l} {s : State} : (dropFilter l s).home = s.home := rfl
@[simp] theorem dropFilter_ports {l} {s : State} : (dropFilter l s).ports = s.ports := rfl
@[simp] theorem dropFilter_sw {l} {s : State} : (dropFilter l s).sw = s.sw := rfl
@[simp] theorem dropFilter_pilot {l} {s : State} : (dropFilter l s).pilot = s.pilot := rfl
@[simp] theorem dropFilter_acc {l} {s : State} : (dropFilter l s).acc = s.acc := rfl
@[simp] theorem dropFilter_sec {l} {s : State} : (dropFilter l s).sec = s.sec := rfl
@[simp] theorem dropFilter_hm {l} {s : State} : (dropFilter l s).hm = s.hm := rfl
@[simp] theorem dropFilter_tel {l} {s : State} : (dropFilter l s).tel = s.tel := rfl
@[simp] theorem dropFilter_isl {l} {s : State} : (dropFilter l s).isl = s.isl := rfl
@[simp] theorem dropFilter_copies {l} {s : State} : (dropFilter l s).copies = s.copies := rfl
@[simp] theorem dropFilter_stage {l} {s : State} : (dropFilter l s).stage = s.stage := rfl
@[simp] theorem dropFilter_mbox {l} {s : State} : (dropFilter l s).mbox = s.mbox := rfl
@[simp] theorem dropFilter_out {l} {s : State} : (dropFilter l s).out = s.out := rfl
@[simp] theorem dropFilter_freeCount {l} {s : State} : (dropFilter l s).freeCount = s.freeCount := rfl

@[simp] theorem dropCache_pending {l} {s : State} : (dropCache l s).pending = s.pending := rfl
@[simp] theorem dropCache_refCycles {l} {s : State} : (dropCache l s).refCycles = s.refCycles := rfl
@[simp] theorem dropCache_tide {l} {s : State} : (dropCache l s).tide = s.tide := rfl
@[simp] theorem dropCache_ring {l} {s : State} : (dropCache l s).ring = s.ring := rfl
@[simp] theorem dropCache_engines {l} {s : State} : (dropCache l s).engines = s.engines := rfl
@[simp] theorem dropCache_spillUsed {l} {s : State} : (dropCache l s).spillUsed = s.spillUsed := rfl
@[simp] theorem dropCache_straySegments {l} {s : State} : (dropCache l s).straySegments = s.straySegments := rfl
@[simp] theorem dropCache_man {l} {s : State} : (dropCache l s).man = s.man := rfl
@[simp] theorem dropCache_home {l} {s : State} : (dropCache l s).home = s.home := rfl
@[simp] theorem dropCache_ports {l} {s : State} : (dropCache l s).ports = s.ports := rfl
@[simp] theorem dropCache_sw {l} {s : State} : (dropCache l s).sw = s.sw := rfl
@[simp] theorem dropCache_pilot {l} {s : State} : (dropCache l s).pilot = s.pilot := rfl
@[simp] theorem dropCache_acc {l} {s : State} : (dropCache l s).acc = s.acc := rfl
@[simp] theorem dropCache_sec {l} {s : State} : (dropCache l s).sec = s.sec := rfl
@[simp] theorem dropCache_hm {l} {s : State} : (dropCache l s).hm = s.hm := rfl
@[simp] theorem dropCache_tel {l} {s : State} : (dropCache l s).tel = s.tel := rfl
@[simp] theorem dropCache_isl {l} {s : State} : (dropCache l s).isl = s.isl := rfl
@[simp] theorem dropCache_copies {l} {s : State} : (dropCache l s).copies = s.copies := rfl
@[simp] theorem dropCache_stage {l} {s : State} : (dropCache l s).stage = s.stage := rfl
@[simp] theorem dropCache_mbox {l} {s : State} : (dropCache l s).mbox = s.mbox := rfl
@[simp] theorem dropCache_out {l} {s : State} : (dropCache l s).out = s.out := rfl
@[simp] theorem dropCache_freeCount {l} {s : State} : (dropCache l s).freeCount = s.freeCount := rfl

@[simp] theorem waitLine_pending {p} {s : State} : (waitLine p s).pending = s.pending := rfl
@[simp] theorem waitLine_refCycles {p} {s : State} : (waitLine p s).refCycles = s.refCycles := rfl
@[simp] theorem waitLine_tide {p} {s : State} : (waitLine p s).tide = s.tide := rfl
@[simp] theorem waitLine_ring {p} {s : State} : (waitLine p s).ring = s.ring := rfl
@[simp] theorem waitLine_engines {p} {s : State} : (waitLine p s).engines = s.engines := rfl
@[simp] theorem waitLine_spillUsed {p} {s : State} : (waitLine p s).spillUsed = s.spillUsed := rfl
@[simp] theorem waitLine_straySegments {p} {s : State} : (waitLine p s).straySegments = s.straySegments := rfl
@[simp] theorem waitLine_man {p} {s : State} : (waitLine p s).man = s.man := rfl
@[simp] theorem waitLine_home {p} {s : State} : (waitLine p s).home = s.home := rfl
@[simp] theorem waitLine_ports {p} {s : State} : (waitLine p s).ports = s.ports := rfl
@[simp] theorem waitLine_sw {p} {s : State} : (waitLine p s).sw = s.sw := rfl
@[simp] theorem waitLine_pilot {p} {s : State} : (waitLine p s).pilot = s.pilot := rfl
@[simp] theorem waitLine_acc {p} {s : State} : (waitLine p s).acc = s.acc := rfl
@[simp] theorem waitLine_sec {p} {s : State} : (waitLine p s).sec = s.sec := rfl
@[simp] theorem waitLine_hm {p} {s : State} : (waitLine p s).hm = s.hm := rfl
@[simp] theorem waitLine_tel {p} {s : State} : (waitLine p s).tel = s.tel := rfl
@[simp] theorem waitLine_isl {p} {s : State} : (waitLine p s).isl = s.isl := rfl
@[simp] theorem waitLine_copies {p} {s : State} : (waitLine p s).copies = s.copies := rfl
@[simp] theorem waitLine_stage {p} {s : State} : (waitLine p s).stage = s.stage := rfl
@[simp] theorem waitLine_mbox {p} {s : State} : (waitLine p s).mbox = s.mbox := rfl
@[simp] theorem waitLine_out {p} {s : State} : (waitLine p s).out = s.out := rfl
@[simp] theorem waitLine_freeCount {p} {s : State} : (waitLine p s).freeCount = s.freeCount := rfl

@[simp] theorem setHost_pending {h x} {s : State} : (setHost h x s).pending = s.pending := rfl
@[simp] theorem setHost_refCycles {h x} {s : State} : (setHost h x s).refCycles = s.refCycles := rfl
@[simp] theorem setHost_tide {h x} {s : State} : (setHost h x s).tide = s.tide := rfl
@[simp] theorem setHost_ring {h x} {s : State} : (setHost h x s).ring = s.ring := rfl
@[simp] theorem setHost_engines {h x} {s : State} : (setHost h x s).engines = s.engines := rfl
@[simp] theorem setHost_spillUsed {h x} {s : State} : (setHost h x s).spillUsed = s.spillUsed := rfl
@[simp] theorem setHost_straySegments {h x} {s : State} : (setHost h x s).straySegments = s.straySegments := rfl
@[simp] theorem setHost_man {h x} {s : State} : (setHost h x s).man = s.man := rfl
@[simp] theorem setHost_home {h x} {s : State} : (setHost h x s).home = s.home := rfl
@[simp] theorem setHost_ports {h x} {s : State} : (setHost h x s).ports = s.ports := rfl
@[simp] theorem setHost_sw {h x} {s : State} : (setHost h x s).sw = s.sw := rfl
@[simp] theorem setHost_pilot {h x} {s : State} : (setHost h x s).pilot = s.pilot := rfl
@[simp] theorem setHost_acc {h x} {s : State} : (setHost h x s).acc = s.acc := rfl
@[simp] theorem setHost_sec {h x} {s : State} : (setHost h x s).sec = s.sec := rfl
@[simp] theorem setHost_hm {h x} {s : State} : (setHost h x s).hm = s.hm := rfl
@[simp] theorem setHost_tel {h x} {s : State} : (setHost h x s).tel = s.tel := rfl
@[simp] theorem setHost_isl {h x} {s : State} : (setHost h x s).isl = s.isl := rfl
@[simp] theorem setHost_copies {h x} {s : State} : (setHost h x s).copies = s.copies := rfl
@[simp] theorem setHost_stage {h x} {s : State} : (setHost h x s).stage = s.stage := rfl
@[simp] theorem setHost_mbox {h x} {s : State} : (setHost h x s).mbox = s.mbox := rfl
@[simp] theorem setHost_out {h x} {s : State} : (setHost h x s).out = s.out := rfl
@[simp] theorem setHost_freeCount {h x} {s : State} : (setHost h x s).freeCount = s.freeCount := rfl

@[simp] theorem setBook_pending {k e b} {s : State} : (setBook k e b s).pending = s.pending := rfl
@[simp] theorem setBook_refCycles {k e b} {s : State} : (setBook k e b s).refCycles = s.refCycles := rfl
@[simp] theorem setBook_tide {k e b} {s : State} : (setBook k e b s).tide = s.tide := rfl
@[simp] theorem setBook_ring {k e b} {s : State} : (setBook k e b s).ring = s.ring := rfl
@[simp] theorem setBook_spillUsed {k e b} {s : State} : (setBook k e b s).spillUsed = s.spillUsed := rfl
@[simp] theorem setBook_straySegments {k e b} {s : State} : (setBook k e b s).straySegments = s.straySegments := rfl
@[simp] theorem setBook_man {k e b} {s : State} : (setBook k e b s).man = s.man := rfl
@[simp] theorem setBook_ing {k e b} {s : State} : (setBook k e b s).ing = s.ing := rfl
@[simp] theorem setBook_home {k e b} {s : State} : (setBook k e b s).home = s.home := rfl
@[simp] theorem setBook_ports {k e b} {s : State} : (setBook k e b s).ports = s.ports := rfl
@[simp] theorem setBook_sw {k e b} {s : State} : (setBook k e b s).sw = s.sw := rfl
@[simp] theorem setBook_pilot {k e b} {s : State} : (setBook k e b s).pilot = s.pilot := rfl
@[simp] theorem setBook_acc {k e b} {s : State} : (setBook k e b s).acc = s.acc := rfl
@[simp] theorem setBook_sec {k e b} {s : State} : (setBook k e b s).sec = s.sec := rfl
@[simp] theorem setBook_hm {k e b} {s : State} : (setBook k e b s).hm = s.hm := rfl
@[simp] theorem setBook_tel {k e b} {s : State} : (setBook k e b s).tel = s.tel := rfl
@[simp] theorem setBook_isl {k e b} {s : State} : (setBook k e b s).isl = s.isl := rfl
@[simp] theorem setBook_copies {k e b} {s : State} : (setBook k e b s).copies = s.copies := rfl
@[simp] theorem setBook_stage {k e b} {s : State} : (setBook k e b s).stage = s.stage := rfl
@[simp] theorem setBook_mbox {k e b} {s : State} : (setBook k e b s).mbox = s.mbox := rfl
@[simp] theorem setBook_out {k e b} {s : State} : (setBook k e b s).out = s.out := rfl
@[simp] theorem setBook_freeCount {k e b} {s : State} : (setBook k e b s).freeCount = s.freeCount := rfl

@[simp] theorem setPage_pending {e p x} {s : State} : (setPage e p x s).pending = s.pending := rfl
@[simp] theorem setPage_refCycles {e p x} {s : State} : (setPage e p x s).refCycles = s.refCycles := rfl
@[simp] theorem setPage_tide {e p x} {s : State} : (setPage e p x s).tide = s.tide := rfl
@[simp] theorem setPage_ring {e p x} {s : State} : (setPage e p x s).ring = s.ring := rfl
@[simp] theorem setPage_engines {e p x} {s : State} : (setPage e p x s).engines = s.engines := rfl
@[simp] theorem setPage_spillUsed {e p x} {s : State} : (setPage e p x s).spillUsed = s.spillUsed := rfl
@[simp] theorem setPage_straySegments {e p x} {s : State} : (setPage e p x s).straySegments = s.straySegments := rfl
@[simp] theorem setPage_man {e p x} {s : State} : (setPage e p x s).man = s.man := rfl
@[simp] theorem setPage_ing {e p x} {s : State} : (setPage e p x s).ing = s.ing := rfl
@[simp] theorem setPage_ports {e p x} {s : State} : (setPage e p x s).ports = s.ports := rfl
@[simp] theorem setPage_sw {e p x} {s : State} : (setPage e p x s).sw = s.sw := rfl
@[simp] theorem setPage_pilot {e p x} {s : State} : (setPage e p x s).pilot = s.pilot := rfl
@[simp] theorem setPage_acc {e p x} {s : State} : (setPage e p x s).acc = s.acc := rfl
@[simp] theorem setPage_sec {e p x} {s : State} : (setPage e p x s).sec = s.sec := rfl
@[simp] theorem setPage_hm {e p x} {s : State} : (setPage e p x s).hm = s.hm := rfl
@[simp] theorem setPage_tel {e p x} {s : State} : (setPage e p x s).tel = s.tel := rfl
@[simp] theorem setPage_isl {e p x} {s : State} : (setPage e p x s).isl = s.isl := rfl
@[simp] theorem setPage_copies {e p x} {s : State} : (setPage e p x s).copies = s.copies := rfl
@[simp] theorem setPage_stage {e p x} {s : State} : (setPage e p x s).stage = s.stage := rfl
@[simp] theorem setPage_mbox {e p x} {s : State} : (setPage e p x s).mbox = s.mbox := rfl
@[simp] theorem setPage_out {e p x} {s : State} : (setPage e p x s).out = s.out := rfl
@[simp] theorem setPage_freeCount {e p x} {s : State} : (setPage e p x s).freeCount = s.freeCount := rfl

@[simp] theorem setRebuild_pending {r} {s : State} : (setRebuild r s).pending = s.pending := rfl
@[simp] theorem setRebuild_refCycles {r} {s : State} : (setRebuild r s).refCycles = s.refCycles := rfl
@[simp] theorem setRebuild_tide {r} {s : State} : (setRebuild r s).tide = s.tide := rfl
@[simp] theorem setRebuild_ring {r} {s : State} : (setRebuild r s).ring = s.ring := rfl
@[simp] theorem setRebuild_engines {r} {s : State} : (setRebuild r s).engines = s.engines := rfl
@[simp] theorem setRebuild_spillUsed {r} {s : State} : (setRebuild r s).spillUsed = s.spillUsed := rfl
@[simp] theorem setRebuild_straySegments {r} {s : State} : (setRebuild r s).straySegments = s.straySegments := rfl
@[simp] theorem setRebuild_man {r} {s : State} : (setRebuild r s).man = s.man := rfl
@[simp] theorem setRebuild_ing {r} {s : State} : (setRebuild r s).ing = s.ing := rfl
@[simp] theorem setRebuild_ports {r} {s : State} : (setRebuild r s).ports = s.ports := rfl
@[simp] theorem setRebuild_sw {r} {s : State} : (setRebuild r s).sw = s.sw := rfl
@[simp] theorem setRebuild_pilot {r} {s : State} : (setRebuild r s).pilot = s.pilot := rfl
@[simp] theorem setRebuild_acc {r} {s : State} : (setRebuild r s).acc = s.acc := rfl
@[simp] theorem setRebuild_sec {r} {s : State} : (setRebuild r s).sec = s.sec := rfl
@[simp] theorem setRebuild_hm {r} {s : State} : (setRebuild r s).hm = s.hm := rfl
@[simp] theorem setRebuild_tel {r} {s : State} : (setRebuild r s).tel = s.tel := rfl
@[simp] theorem setRebuild_isl {r} {s : State} : (setRebuild r s).isl = s.isl := rfl
@[simp] theorem setRebuild_copies {r} {s : State} : (setRebuild r s).copies = s.copies := rfl
@[simp] theorem setRebuild_stage {r} {s : State} : (setRebuild r s).stage = s.stage := rfl
@[simp] theorem setRebuild_mbox {r} {s : State} : (setRebuild r s).mbox = s.mbox := rfl
@[simp] theorem setRebuild_out {r} {s : State} : (setRebuild r s).out = s.out := rfl
@[simp] theorem setRebuild_freeCount {r} {s : State} : (setRebuild r s).freeCount = s.freeCount := rfl

@[simp] theorem setSweep_pending {x} {s : State} : (setSweep x s).pending = s.pending := rfl
@[simp] theorem setSweep_refCycles {x} {s : State} : (setSweep x s).refCycles = s.refCycles := rfl
@[simp] theorem setSweep_tide {x} {s : State} : (setSweep x s).tide = s.tide := rfl
@[simp] theorem setSweep_ring {x} {s : State} : (setSweep x s).ring = s.ring := rfl
@[simp] theorem setSweep_engines {x} {s : State} : (setSweep x s).engines = s.engines := rfl
@[simp] theorem setSweep_spillUsed {x} {s : State} : (setSweep x s).spillUsed = s.spillUsed := rfl
@[simp] theorem setSweep_straySegments {x} {s : State} : (setSweep x s).straySegments = s.straySegments := rfl
@[simp] theorem setSweep_man {x} {s : State} : (setSweep x s).man = s.man := rfl
@[simp] theorem setSweep_ing {x} {s : State} : (setSweep x s).ing = s.ing := rfl
@[simp] theorem setSweep_home {x} {s : State} : (setSweep x s).home = s.home := rfl
@[simp] theorem setSweep_ports {x} {s : State} : (setSweep x s).ports = s.ports := rfl
@[simp] theorem setSweep_sw {x} {s : State} : (setSweep x s).sw = s.sw := rfl
@[simp] theorem setSweep_pilot {x} {s : State} : (setSweep x s).pilot = s.pilot := rfl
@[simp] theorem setSweep_acc {x} {s : State} : (setSweep x s).acc = s.acc := rfl
@[simp] theorem setSweep_hm {x} {s : State} : (setSweep x s).hm = s.hm := rfl
@[simp] theorem setSweep_tel {x} {s : State} : (setSweep x s).tel = s.tel := rfl
@[simp] theorem setSweep_isl {x} {s : State} : (setSweep x s).isl = s.isl := rfl
@[simp] theorem setSweep_copies {x} {s : State} : (setSweep x s).copies = s.copies := rfl
@[simp] theorem setSweep_stage {x} {s : State} : (setSweep x s).stage = s.stage := rfl
@[simp] theorem setSweep_mbox {x} {s : State} : (setSweep x s).mbox = s.mbox := rfl
@[simp] theorem setSweep_out {x} {s : State} : (setSweep x s).out = s.out := rfl
@[simp] theorem setSweep_freeCount {x} {s : State} : (setSweep x s).freeCount = s.freeCount := rfl

@[simp] theorem setCtx_pending {n c} {s : State} : (setCtx n c s).pending = s.pending := rfl
@[simp] theorem setCtx_refCycles {n c} {s : State} : (setCtx n c s).refCycles = s.refCycles := rfl
@[simp] theorem setCtx_tide {n c} {s : State} : (setCtx n c s).tide = s.tide := rfl
@[simp] theorem setCtx_ring {n c} {s : State} : (setCtx n c s).ring = s.ring := rfl
@[simp] theorem setCtx_engines {n c} {s : State} : (setCtx n c s).engines = s.engines := rfl
@[simp] theorem setCtx_spillUsed {n c} {s : State} : (setCtx n c s).spillUsed = s.spillUsed := rfl
@[simp] theorem setCtx_straySegments {n c} {s : State} : (setCtx n c s).straySegments = s.straySegments := rfl
@[simp] theorem setCtx_man {n c} {s : State} : (setCtx n c s).man = s.man := rfl
@[simp] theorem setCtx_ing {n c} {s : State} : (setCtx n c s).ing = s.ing := rfl
@[simp] theorem setCtx_home {n c} {s : State} : (setCtx n c s).home = s.home := rfl
@[simp] theorem setCtx_sw {n c} {s : State} : (setCtx n c s).sw = s.sw := rfl
@[simp] theorem setCtx_pilot {n c} {s : State} : (setCtx n c s).pilot = s.pilot := rfl
@[simp] theorem setCtx_acc {n c} {s : State} : (setCtx n c s).acc = s.acc := rfl
@[simp] theorem setCtx_sec {n c} {s : State} : (setCtx n c s).sec = s.sec := rfl
@[simp] theorem setCtx_hm {n c} {s : State} : (setCtx n c s).hm = s.hm := rfl
@[simp] theorem setCtx_tel {n c} {s : State} : (setCtx n c s).tel = s.tel := rfl
@[simp] theorem setCtx_isl {n c} {s : State} : (setCtx n c s).isl = s.isl := rfl
@[simp] theorem setCtx_copies {n c} {s : State} : (setCtx n c s).copies = s.copies := rfl
@[simp] theorem setCtx_stage {n c} {s : State} : (setCtx n c s).stage = s.stage := rfl
@[simp] theorem setCtx_mbox {n c} {s : State} : (setCtx n c s).mbox = s.mbox := rfl
@[simp] theorem setCtx_out {n c} {s : State} : (setCtx n c s).out = s.out := rfl
@[simp] theorem setCtx_freeCount {n c} {s : State} : (setCtx n c s).freeCount = s.freeCount := rfl

@[simp] theorem setCodec_pending {n k} {s : State} : (setCodec n k s).pending = s.pending := rfl
@[simp] theorem setCodec_refCycles {n k} {s : State} : (setCodec n k s).refCycles = s.refCycles := rfl
@[simp] theorem setCodec_tide {n k} {s : State} : (setCodec n k s).tide = s.tide := rfl
@[simp] theorem setCodec_ring {n k} {s : State} : (setCodec n k s).ring = s.ring := rfl
@[simp] theorem setCodec_engines {n k} {s : State} : (setCodec n k s).engines = s.engines := rfl
@[simp] theorem setCodec_spillUsed {n k} {s : State} : (setCodec n k s).spillUsed = s.spillUsed := rfl
@[simp] theorem setCodec_straySegments {n k} {s : State} : (setCodec n k s).straySegments = s.straySegments := rfl
@[simp] theorem setCodec_man {n k} {s : State} : (setCodec n k s).man = s.man := rfl
@[simp] theorem setCodec_ing {n k} {s : State} : (setCodec n k s).ing = s.ing := rfl
@[simp] theorem setCodec_home {n k} {s : State} : (setCodec n k s).home = s.home := rfl
@[simp] theorem setCodec_sw {n k} {s : State} : (setCodec n k s).sw = s.sw := rfl
@[simp] theorem setCodec_pilot {n k} {s : State} : (setCodec n k s).pilot = s.pilot := rfl
@[simp] theorem setCodec_acc {n k} {s : State} : (setCodec n k s).acc = s.acc := rfl
@[simp] theorem setCodec_sec {n k} {s : State} : (setCodec n k s).sec = s.sec := rfl
@[simp] theorem setCodec_hm {n k} {s : State} : (setCodec n k s).hm = s.hm := rfl
@[simp] theorem setCodec_tel {n k} {s : State} : (setCodec n k s).tel = s.tel := rfl
@[simp] theorem setCodec_isl {n k} {s : State} : (setCodec n k s).isl = s.isl := rfl
@[simp] theorem setCodec_copies {n k} {s : State} : (setCodec n k s).copies = s.copies := rfl
@[simp] theorem setCodec_stage {n k} {s : State} : (setCodec n k s).stage = s.stage := rfl
@[simp] theorem setCodec_mbox {n k} {s : State} : (setCodec n k s).mbox = s.mbox := rfl
@[simp] theorem setCodec_out {n k} {s : State} : (setCodec n k s).out = s.out := rfl
@[simp] theorem setCodec_freeCount {n k} {s : State} : (setCodec n k s).freeCount = s.freeCount := rfl

@[simp] theorem enterCell_pending {c} {s : State} : (enterCell c s).pending = s.pending := rfl
@[simp] theorem enterCell_refCycles {c} {s : State} : (enterCell c s).refCycles = s.refCycles := rfl
@[simp] theorem enterCell_tide {c} {s : State} : (enterCell c s).tide = s.tide := rfl
@[simp] theorem enterCell_ring {c} {s : State} : (enterCell c s).ring = s.ring := rfl
@[simp] theorem enterCell_engines {c} {s : State} : (enterCell c s).engines = s.engines := rfl
@[simp] theorem enterCell_spillUsed {c} {s : State} : (enterCell c s).spillUsed = s.spillUsed := rfl
@[simp] theorem enterCell_straySegments {c} {s : State} : (enterCell c s).straySegments = s.straySegments := rfl
@[simp] theorem enterCell_man {c} {s : State} : (enterCell c s).man = s.man := rfl
@[simp] theorem enterCell_ing {c} {s : State} : (enterCell c s).ing = s.ing := rfl
@[simp] theorem enterCell_home {c} {s : State} : (enterCell c s).home = s.home := rfl
@[simp] theorem enterCell_ports {c} {s : State} : (enterCell c s).ports = s.ports := rfl
@[simp] theorem enterCell_pilot {c} {s : State} : (enterCell c s).pilot = s.pilot := rfl
@[simp] theorem enterCell_acc {c} {s : State} : (enterCell c s).acc = s.acc := rfl
@[simp] theorem enterCell_sec {c} {s : State} : (enterCell c s).sec = s.sec := rfl
@[simp] theorem enterCell_hm {c} {s : State} : (enterCell c s).hm = s.hm := rfl
@[simp] theorem enterCell_tel {c} {s : State} : (enterCell c s).tel = s.tel := rfl
@[simp] theorem enterCell_isl {c} {s : State} : (enterCell c s).isl = s.isl := rfl
@[simp] theorem enterCell_copies {c} {s : State} : (enterCell c s).copies = s.copies := rfl
@[simp] theorem enterCell_stage {c} {s : State} : (enterCell c s).stage = s.stage := rfl
@[simp] theorem enterCell_mbox {c} {s : State} : (enterCell c s).mbox = s.mbox := rfl
@[simp] theorem enterCell_out {c} {s : State} : (enterCell c s).out = s.out := rfl
@[simp] theorem enterCell_freeCount {c} {s : State} : (enterCell c s).freeCount = s.freeCount := rfl

@[simp] theorem markHandled_pending {d m} {s : State} : (markHandled d m s).pending = s.pending := rfl
@[simp] theorem markHandled_refCycles {d m} {s : State} : (markHandled d m s).refCycles = s.refCycles := rfl
@[simp] theorem markHandled_tide {d m} {s : State} : (markHandled d m s).tide = s.tide := rfl
@[simp] theorem markHandled_engines {d m} {s : State} : (markHandled d m s).engines = s.engines := rfl
@[simp] theorem markHandled_spillUsed {d m} {s : State} : (markHandled d m s).spillUsed = s.spillUsed := rfl
@[simp] theorem markHandled_straySegments {d m} {s : State} : (markHandled d m s).straySegments = s.straySegments := rfl
@[simp] theorem markHandled_man {d m} {s : State} : (markHandled d m s).man = s.man := rfl
@[simp] theorem markHandled_ing {d m} {s : State} : (markHandled d m s).ing = s.ing := rfl
@[simp] theorem markHandled_home {d m} {s : State} : (markHandled d m s).home = s.home := rfl
@[simp] theorem markHandled_ports {d m} {s : State} : (markHandled d m s).ports = s.ports := rfl
@[simp] theorem markHandled_sw {d m} {s : State} : (markHandled d m s).sw = s.sw := rfl
@[simp] theorem markHandled_pilot {d m} {s : State} : (markHandled d m s).pilot = s.pilot := rfl
@[simp] theorem markHandled_acc {d m} {s : State} : (markHandled d m s).acc = s.acc := rfl
@[simp] theorem markHandled_sec {d m} {s : State} : (markHandled d m s).sec = s.sec := rfl
@[simp] theorem markHandled_hm {d m} {s : State} : (markHandled d m s).hm = s.hm := rfl
@[simp] theorem markHandled_tel {d m} {s : State} : (markHandled d m s).tel = s.tel := rfl
@[simp] theorem markHandled_isl {d m} {s : State} : (markHandled d m s).isl = s.isl := rfl
@[simp] theorem markHandled_copies {d m} {s : State} : (markHandled d m s).copies = s.copies := rfl
@[simp] theorem markHandled_stage {d m} {s : State} : (markHandled d m s).stage = s.stage := rfl
@[simp] theorem markHandled_mbox {d m} {s : State} : (markHandled d m s).mbox = s.mbox := rfl
@[simp] theorem markHandled_out {d m} {s : State} : (markHandled d m s).out = s.out := rfl
@[simp] theorem markHandled_freeCount {d m} {s : State} : (markHandled d m s).freeCount = s.freeCount := rfl

@[simp] theorem closeBypass_pending {s : State} : (closeBypass s).pending = s.pending := rfl
@[simp] theorem closeBypass_refCycles {s : State} : (closeBypass s).refCycles = s.refCycles := rfl
@[simp] theorem closeBypass_tide {s : State} : (closeBypass s).tide = s.tide := rfl
@[simp] theorem closeBypass_ring {s : State} : (closeBypass s).ring = s.ring := rfl
@[simp] theorem closeBypass_engines {s : State} : (closeBypass s).engines = s.engines := rfl
@[simp] theorem closeBypass_spillUsed {s : State} : (closeBypass s).spillUsed = s.spillUsed := rfl
@[simp] theorem closeBypass_straySegments {s : State} : (closeBypass s).straySegments = s.straySegments := rfl
@[simp] theorem closeBypass_man {s : State} : (closeBypass s).man = s.man := rfl
@[simp] theorem closeBypass_ing {s : State} : (closeBypass s).ing = s.ing := rfl
@[simp] theorem closeBypass_home {s : State} : (closeBypass s).home = s.home := rfl
@[simp] theorem closeBypass_ports {s : State} : (closeBypass s).ports = s.ports := rfl
@[simp] theorem closeBypass_sw {s : State} : (closeBypass s).sw = s.sw := rfl
@[simp] theorem closeBypass_pilot {s : State} : (closeBypass s).pilot = s.pilot := rfl
@[simp] theorem closeBypass_acc {s : State} : (closeBypass s).acc = s.acc := rfl
@[simp] theorem closeBypass_sec {s : State} : (closeBypass s).sec = s.sec := rfl
@[simp] theorem closeBypass_hm {s : State} : (closeBypass s).hm = s.hm := rfl
@[simp] theorem closeBypass_tel {s : State} : (closeBypass s).tel = s.tel := rfl
@[simp] theorem closeBypass_copies {s : State} : (closeBypass s).copies = s.copies := rfl
@[simp] theorem closeBypass_stage {s : State} : (closeBypass s).stage = s.stage := rfl
@[simp] theorem closeBypass_mbox {s : State} : (closeBypass s).mbox = s.mbox := rfl
@[simp] theorem closeBypass_out {s : State} : (closeBypass s).out = s.out := rfl
@[simp] theorem closeBypass_freeCount {s : State} : (closeBypass s).freeCount = s.freeCount := rfl

@[simp] theorem unstage_pending {i} {s : State} : (unstage i s).pending = s.pending := rfl
@[simp] theorem unstage_refCycles {i} {s : State} : (unstage i s).refCycles = s.refCycles := rfl
@[simp] theorem unstage_tide {i} {s : State} : (unstage i s).tide = s.tide := rfl
@[simp] theorem unstage_ring {i} {s : State} : (unstage i s).ring = s.ring := rfl
@[simp] theorem unstage_engines {i} {s : State} : (unstage i s).engines = s.engines := rfl
@[simp] theorem unstage_spillUsed {i} {s : State} : (unstage i s).spillUsed = s.spillUsed := rfl
@[simp] theorem unstage_straySegments {i} {s : State} : (unstage i s).straySegments = s.straySegments := rfl
@[simp] theorem unstage_man {i} {s : State} : (unstage i s).man = s.man := rfl
@[simp] theorem unstage_ing {i} {s : State} : (unstage i s).ing = s.ing := rfl
@[simp] theorem unstage_home {i} {s : State} : (unstage i s).home = s.home := rfl
@[simp] theorem unstage_ports {i} {s : State} : (unstage i s).ports = s.ports := rfl
@[simp] theorem unstage_sw {i} {s : State} : (unstage i s).sw = s.sw := rfl
@[simp] theorem unstage_pilot {i} {s : State} : (unstage i s).pilot = s.pilot := rfl
@[simp] theorem unstage_acc {i} {s : State} : (unstage i s).acc = s.acc := rfl
@[simp] theorem unstage_sec {i} {s : State} : (unstage i s).sec = s.sec := rfl
@[simp] theorem unstage_tel {i} {s : State} : (unstage i s).tel = s.tel := rfl
@[simp] theorem unstage_isl {i} {s : State} : (unstage i s).isl = s.isl := rfl
@[simp] theorem unstage_copies {i} {s : State} : (unstage i s).copies = s.copies := rfl
@[simp] theorem unstage_stage {i} {s : State} : (unstage i s).stage = s.stage := rfl
@[simp] theorem unstage_mbox {i} {s : State} : (unstage i s).mbox = s.mbox := rfl
@[simp] theorem unstage_out {i} {s : State} : (unstage i s).out = s.out := rfl
@[simp] theorem unstage_freeCount {i} {s : State} : (unstage i s).freeCount = s.freeCount := rfl

@[simp] theorem endSession_pending {i} {s : State} : (endSession i s).pending = s.pending := rfl
@[simp] theorem endSession_refCycles {i} {s : State} : (endSession i s).refCycles = s.refCycles := rfl
@[simp] theorem endSession_tide {i} {s : State} : (endSession i s).tide = s.tide := rfl
@[simp] theorem endSession_ring {i} {s : State} : (endSession i s).ring = s.ring := rfl
@[simp] theorem endSession_engines {i} {s : State} : (endSession i s).engines = s.engines := rfl
@[simp] theorem endSession_spillUsed {i} {s : State} : (endSession i s).spillUsed = s.spillUsed := rfl
@[simp] theorem endSession_straySegments {i} {s : State} : (endSession i s).straySegments = s.straySegments := rfl
@[simp] theorem endSession_man {i} {s : State} : (endSession i s).man = s.man := rfl
@[simp] theorem endSession_ing {i} {s : State} : (endSession i s).ing = s.ing := rfl
@[simp] theorem endSession_home {i} {s : State} : (endSession i s).home = s.home := rfl
@[simp] theorem endSession_ports {i} {s : State} : (endSession i s).ports = s.ports := rfl
@[simp] theorem endSession_sw {i} {s : State} : (endSession i s).sw = s.sw := rfl
@[simp] theorem endSession_pilot {i} {s : State} : (endSession i s).pilot = s.pilot := rfl
@[simp] theorem endSession_acc {i} {s : State} : (endSession i s).acc = s.acc := rfl
@[simp] theorem endSession_hm {i} {s : State} : (endSession i s).hm = s.hm := rfl
@[simp] theorem endSession_tel {i} {s : State} : (endSession i s).tel = s.tel := rfl
@[simp] theorem endSession_isl {i} {s : State} : (endSession i s).isl = s.isl := rfl
@[simp] theorem endSession_copies {i} {s : State} : (endSession i s).copies = s.copies := rfl
@[simp] theorem endSession_stage {i} {s : State} : (endSession i s).stage = s.stage := rfl
@[simp] theorem endSession_mbox {i} {s : State} : (endSession i s).mbox = s.mbox := rfl
@[simp] theorem endSession_out {i} {s : State} : (endSession i s).out = s.out := rfl
@[simp] theorem endSession_freeCount {i} {s : State} : (endSession i s).freeCount = s.freeCount := rfl

@[simp] theorem discardResponse_pending {s : State} : (discardResponse s).pending = s.pending := rfl
@[simp] theorem discardResponse_refCycles {s : State} : (discardResponse s).refCycles = s.refCycles := rfl
@[simp] theorem discardResponse_tide {s : State} : (discardResponse s).tide = s.tide := rfl
@[simp] theorem discardResponse_ring {s : State} : (discardResponse s).ring = s.ring := rfl
@[simp] theorem discardResponse_engines {s : State} : (discardResponse s).engines = s.engines := rfl
@[simp] theorem discardResponse_spillUsed {s : State} : (discardResponse s).spillUsed = s.spillUsed := rfl
@[simp] theorem discardResponse_straySegments {s : State} : (discardResponse s).straySegments = s.straySegments := rfl
@[simp] theorem discardResponse_man {s : State} : (discardResponse s).man = s.man := rfl
@[simp] theorem discardResponse_home {s : State} : (discardResponse s).home = s.home := rfl
@[simp] theorem discardResponse_ports {s : State} : (discardResponse s).ports = s.ports := rfl
@[simp] theorem discardResponse_sw {s : State} : (discardResponse s).sw = s.sw := rfl
@[simp] theorem discardResponse_pilot {s : State} : (discardResponse s).pilot = s.pilot := rfl
@[simp] theorem discardResponse_acc {s : State} : (discardResponse s).acc = s.acc := rfl
@[simp] theorem discardResponse_sec {s : State} : (discardResponse s).sec = s.sec := rfl
@[simp] theorem discardResponse_hm {s : State} : (discardResponse s).hm = s.hm := rfl
@[simp] theorem discardResponse_tel {s : State} : (discardResponse s).tel = s.tel := rfl
@[simp] theorem discardResponse_isl {s : State} : (discardResponse s).isl = s.isl := rfl
@[simp] theorem discardResponse_copies {s : State} : (discardResponse s).copies = s.copies := rfl
@[simp] theorem discardResponse_stage {s : State} : (discardResponse s).stage = s.stage := rfl
@[simp] theorem discardResponse_mbox {s : State} : (discardResponse s).mbox = s.mbox := rfl
@[simp] theorem discardResponse_out {s : State} : (discardResponse s).out = s.out := rfl
@[simp] theorem discardResponse_freeCount {s : State} : (discardResponse s).freeCount = s.freeCount := rfl

@[simp] theorem markSent_pending {h t} {s : State} : (markSent h t s).pending = s.pending := rfl
@[simp] theorem markSent_refCycles {h t} {s : State} : (markSent h t s).refCycles = s.refCycles := rfl
@[simp] theorem markSent_tide {h t} {s : State} : (markSent h t s).tide = s.tide := rfl
@[simp] theorem markSent_ring {h t} {s : State} : (markSent h t s).ring = s.ring := rfl
@[simp] theorem markSent_engines {h t} {s : State} : (markSent h t s).engines = s.engines := rfl
@[simp] theorem markSent_spillUsed {h t} {s : State} : (markSent h t s).spillUsed = s.spillUsed := rfl
@[simp] theorem markSent_straySegments {h t} {s : State} : (markSent h t s).straySegments = s.straySegments := rfl
@[simp] theorem markSent_man {h t} {s : State} : (markSent h t s).man = s.man := rfl
@[simp] theorem markSent_home {h t} {s : State} : (markSent h t s).home = s.home := rfl
@[simp] theorem markSent_ports {h t} {s : State} : (markSent h t s).ports = s.ports := rfl
@[simp] theorem markSent_sw {h t} {s : State} : (markSent h t s).sw = s.sw := rfl
@[simp] theorem markSent_pilot {h t} {s : State} : (markSent h t s).pilot = s.pilot := rfl
@[simp] theorem markSent_acc {h t} {s : State} : (markSent h t s).acc = s.acc := rfl
@[simp] theorem markSent_sec {h t} {s : State} : (markSent h t s).sec = s.sec := rfl
@[simp] theorem markSent_hm {h t} {s : State} : (markSent h t s).hm = s.hm := rfl
@[simp] theorem markSent_tel {h t} {s : State} : (markSent h t s).tel = s.tel := rfl
@[simp] theorem markSent_isl {h t} {s : State} : (markSent h t s).isl = s.isl := rfl
@[simp] theorem markSent_copies {h t} {s : State} : (markSent h t s).copies = s.copies := rfl
@[simp] theorem markSent_stage {h t} {s : State} : (markSent h t s).stage = s.stage := rfl
@[simp] theorem markSent_mbox {h t} {s : State} : (markSent h t s).mbox = s.mbox := rfl
@[simp] theorem markSent_out {h t} {s : State} : (markSent h t s).out = s.out := rfl
@[simp] theorem markSent_freeCount {h t} {s : State} : (markSent h t s).freeCount = s.freeCount := rfl

@[simp] theorem noteRefused_pending {h w d} {s : State} : (noteRefused h w d s).pending = s.pending := rfl
@[simp] theorem noteRefused_refCycles {h w d} {s : State} : (noteRefused h w d s).refCycles = s.refCycles := rfl
@[simp] theorem noteRefused_tide {h w d} {s : State} : (noteRefused h w d s).tide = s.tide := rfl
@[simp] theorem noteRefused_ring {h w d} {s : State} : (noteRefused h w d s).ring = s.ring := rfl
@[simp] theorem noteRefused_engines {h w d} {s : State} : (noteRefused h w d s).engines = s.engines := rfl
@[simp] theorem noteRefused_spillUsed {h w d} {s : State} : (noteRefused h w d s).spillUsed = s.spillUsed := rfl
@[simp] theorem noteRefused_straySegments {h w d} {s : State} : (noteRefused h w d s).straySegments = s.straySegments := rfl
@[simp] theorem noteRefused_man {h w d} {s : State} : (noteRefused h w d s).man = s.man := rfl
@[simp] theorem noteRefused_home {h w d} {s : State} : (noteRefused h w d s).home = s.home := rfl
@[simp] theorem noteRefused_ports {h w d} {s : State} : (noteRefused h w d s).ports = s.ports := rfl
@[simp] theorem noteRefused_sw {h w d} {s : State} : (noteRefused h w d s).sw = s.sw := rfl
@[simp] theorem noteRefused_pilot {h w d} {s : State} : (noteRefused h w d s).pilot = s.pilot := rfl
@[simp] theorem noteRefused_acc {h w d} {s : State} : (noteRefused h w d s).acc = s.acc := rfl
@[simp] theorem noteRefused_sec {h w d} {s : State} : (noteRefused h w d s).sec = s.sec := rfl
@[simp] theorem noteRefused_hm {h w d} {s : State} : (noteRefused h w d s).hm = s.hm := rfl
@[simp] theorem noteRefused_tel {h w d} {s : State} : (noteRefused h w d s).tel = s.tel := rfl
@[simp] theorem noteRefused_isl {h w d} {s : State} : (noteRefused h w d s).isl = s.isl := rfl
@[simp] theorem noteRefused_copies {h w d} {s : State} : (noteRefused h w d s).copies = s.copies := rfl
@[simp] theorem noteRefused_stage {h w d} {s : State} : (noteRefused h w d s).stage = s.stage := rfl
@[simp] theorem noteRefused_mbox {h w d} {s : State} : (noteRefused h w d s).mbox = s.mbox := rfl
@[simp] theorem noteRefused_out {h w d} {s : State} : (noteRefused h w d s).out = s.out := rfl
@[simp] theorem noteRefused_freeCount {h w d} {s : State} : (noteRefused h w d s).freeCount = s.freeCount := rfl

@[simp] theorem barWindow_pending {h g} {s : State} : (barWindow h g s).pending = s.pending := rfl
@[simp] theorem barWindow_refCycles {h g} {s : State} : (barWindow h g s).refCycles = s.refCycles := rfl
@[simp] theorem barWindow_tide {h g} {s : State} : (barWindow h g s).tide = s.tide := rfl
@[simp] theorem barWindow_ring {h g} {s : State} : (barWindow h g s).ring = s.ring := rfl
@[simp] theorem barWindow_engines {h g} {s : State} : (barWindow h g s).engines = s.engines := rfl
@[simp] theorem barWindow_spillUsed {h g} {s : State} : (barWindow h g s).spillUsed = s.spillUsed := rfl
@[simp] theorem barWindow_straySegments {h g} {s : State} : (barWindow h g s).straySegments = s.straySegments := rfl
@[simp] theorem barWindow_man {h g} {s : State} : (barWindow h g s).man = s.man := rfl
@[simp] theorem barWindow_home {h g} {s : State} : (barWindow h g s).home = s.home := rfl
@[simp] theorem barWindow_ports {h g} {s : State} : (barWindow h g s).ports = s.ports := rfl
@[simp] theorem barWindow_sw {h g} {s : State} : (barWindow h g s).sw = s.sw := rfl
@[simp] theorem barWindow_pilot {h g} {s : State} : (barWindow h g s).pilot = s.pilot := rfl
@[simp] theorem barWindow_acc {h g} {s : State} : (barWindow h g s).acc = s.acc := rfl
@[simp] theorem barWindow_sec {h g} {s : State} : (barWindow h g s).sec = s.sec := rfl
@[simp] theorem barWindow_hm {h g} {s : State} : (barWindow h g s).hm = s.hm := rfl
@[simp] theorem barWindow_tel {h g} {s : State} : (barWindow h g s).tel = s.tel := rfl
@[simp] theorem barWindow_isl {h g} {s : State} : (barWindow h g s).isl = s.isl := rfl
@[simp] theorem barWindow_copies {h g} {s : State} : (barWindow h g s).copies = s.copies := rfl
@[simp] theorem barWindow_stage {h g} {s : State} : (barWindow h g s).stage = s.stage := rfl
@[simp] theorem barWindow_mbox {h g} {s : State} : (barWindow h g s).mbox = s.mbox := rfl
@[simp] theorem barWindow_out {h g} {s : State} : (barWindow h g s).out = s.out := rfl
@[simp] theorem barWindow_freeCount {h g} {s : State} : (barWindow h g s).freeCount = s.freeCount := rfl

@[simp] theorem takeHeartbeat_pending {d} {s : State} : (takeHeartbeat d s).pending = s.pending := rfl
@[simp] theorem takeHeartbeat_refCycles {d} {s : State} : (takeHeartbeat d s).refCycles = s.refCycles := rfl
@[simp] theorem takeHeartbeat_tide {d} {s : State} : (takeHeartbeat d s).tide = s.tide := rfl
@[simp] theorem takeHeartbeat_engines {d} {s : State} : (takeHeartbeat d s).engines = s.engines := rfl
@[simp] theorem takeHeartbeat_spillUsed {d} {s : State} : (takeHeartbeat d s).spillUsed = s.spillUsed := rfl
@[simp] theorem takeHeartbeat_straySegments {d} {s : State} : (takeHeartbeat d s).straySegments = s.straySegments := rfl
@[simp] theorem takeHeartbeat_man {d} {s : State} : (takeHeartbeat d s).man = s.man := rfl
@[simp] theorem takeHeartbeat_ing {d} {s : State} : (takeHeartbeat d s).ing = s.ing := rfl
@[simp] theorem takeHeartbeat_home {d} {s : State} : (takeHeartbeat d s).home = s.home := rfl
@[simp] theorem takeHeartbeat_ports {d} {s : State} : (takeHeartbeat d s).ports = s.ports := rfl
@[simp] theorem takeHeartbeat_sw {d} {s : State} : (takeHeartbeat d s).sw = s.sw := rfl
@[simp] theorem takeHeartbeat_pilot {d} {s : State} : (takeHeartbeat d s).pilot = s.pilot := rfl
@[simp] theorem takeHeartbeat_acc {d} {s : State} : (takeHeartbeat d s).acc = s.acc := rfl
@[simp] theorem takeHeartbeat_sec {d} {s : State} : (takeHeartbeat d s).sec = s.sec := rfl
@[simp] theorem takeHeartbeat_hm {d} {s : State} : (takeHeartbeat d s).hm = s.hm := rfl
@[simp] theorem takeHeartbeat_tel {d} {s : State} : (takeHeartbeat d s).tel = s.tel := rfl
@[simp] theorem takeHeartbeat_isl {d} {s : State} : (takeHeartbeat d s).isl = s.isl := rfl
@[simp] theorem takeHeartbeat_copies {d} {s : State} : (takeHeartbeat d s).copies = s.copies := rfl
@[simp] theorem takeHeartbeat_stage {d} {s : State} : (takeHeartbeat d s).stage = s.stage := rfl
@[simp] theorem takeHeartbeat_mbox {d} {s : State} : (takeHeartbeat d s).mbox = s.mbox := rfl
@[simp] theorem takeHeartbeat_out {d} {s : State} : (takeHeartbeat d s).out = s.out := rfl
@[simp] theorem takeHeartbeat_freeCount {d} {s : State} : (takeHeartbeat d s).freeCount = s.freeCount := rfl

@[simp] theorem keyBoundary_pending {c a r} {s : State} : (keyBoundary c a r s).pending = s.pending := rfl
@[simp] theorem keyBoundary_refCycles {c a r} {s : State} : (keyBoundary c a r s).refCycles = s.refCycles := rfl
@[simp] theorem keyBoundary_tide {c a r} {s : State} : (keyBoundary c a r s).tide = s.tide := rfl
@[simp] theorem keyBoundary_ring {c a r} {s : State} : (keyBoundary c a r s).ring = s.ring := rfl
@[simp] theorem keyBoundary_engines {c a r} {s : State} : (keyBoundary c a r s).engines = s.engines := rfl
@[simp] theorem keyBoundary_spillUsed {c a r} {s : State} : (keyBoundary c a r s).spillUsed = s.spillUsed := rfl
@[simp] theorem keyBoundary_straySegments {c a r} {s : State} : (keyBoundary c a r s).straySegments = s.straySegments := rfl
@[simp] theorem keyBoundary_man {c a r} {s : State} : (keyBoundary c a r s).man = s.man := rfl
@[simp] theorem keyBoundary_ing {c a r} {s : State} : (keyBoundary c a r s).ing = s.ing := rfl
@[simp] theorem keyBoundary_home {c a r} {s : State} : (keyBoundary c a r s).home = s.home := rfl
@[simp] theorem keyBoundary_ports {c a r} {s : State} : (keyBoundary c a r s).ports = s.ports := rfl
@[simp] theorem keyBoundary_sw {c a r} {s : State} : (keyBoundary c a r s).sw = s.sw := rfl
@[simp] theorem keyBoundary_pilot {c a r} {s : State} : (keyBoundary c a r s).pilot = s.pilot := rfl
@[simp] theorem keyBoundary_acc {c a r} {s : State} : (keyBoundary c a r s).acc = s.acc := rfl
@[simp] theorem keyBoundary_hm {c a r} {s : State} : (keyBoundary c a r s).hm = s.hm := rfl
@[simp] theorem keyBoundary_tel {c a r} {s : State} : (keyBoundary c a r s).tel = s.tel := rfl
@[simp] theorem keyBoundary_isl {c a r} {s : State} : (keyBoundary c a r s).isl = s.isl := rfl
@[simp] theorem keyBoundary_copies {c a r} {s : State} : (keyBoundary c a r s).copies = s.copies := rfl
@[simp] theorem keyBoundary_stage {c a r} {s : State} : (keyBoundary c a r s).stage = s.stage := rfl
@[simp] theorem keyBoundary_mbox {c a r} {s : State} : (keyBoundary c a r s).mbox = s.mbox := rfl
@[simp] theorem keyBoundary_out {c a r} {s : State} : (keyBoundary c a r s).out = s.out := rfl
@[simp] theorem keyBoundary_freeCount {c a r} {s : State} : (keyBoundary c a r s).freeCount = s.freeCount := rfl

/-- What every step of a fold leaves alone, the fold leaves alone. -/
theorem foldl_keeps {α β : Type} (f : State → β) (g : State → α → State) (h : ∀ s a, f (g s a) = f s) (l : List α) (s : State) :
    f (l.foldl g s) = f s := by
  induction l generalizing s with
  | nil => rfl
  | cons a l ih => rw [List.foldl_cons, ih, h]

/-- A message to the ring changes only the ring. -/
theorem ringSend_keeps {β : Type} (f : State → β) (h : ∀ e d m s, f (ringPush e d m s) = f s) (d m s) :
    f (ringSend d m s) = f s := by
  unfold ringSend
  split
  · exact h _ _ _ _
  · split
    · exact h _ _ _ _
    · exact foldl_keeps f _ (fun _ _ => h _ _ _ _) _ _

@[simp] theorem ringSend_pending {d m} {s : State} : (ringSend d m s).pending = s.pending := ringSend_keeps (·.pending) (fun _ _ _ _ => rfl) _ _ _
@[simp] theorem ringSend_refCycles {d m} {s : State} : (ringSend d m s).refCycles = s.refCycles := ringSend_keeps (·.refCycles) (fun _ _ _ _ => rfl) _ _ _
@[simp] theorem ringSend_tide {d m} {s : State} : (ringSend d m s).tide = s.tide := ringSend_keeps (·.tide) (fun _ _ _ _ => rfl) _ _ _
@[simp] theorem ringSend_engines {d m} {s : State} : (ringSend d m s).engines = s.engines := ringSend_keeps (·.engines) (fun _ _ _ _ => rfl) _ _ _
@[simp] theorem ringSend_spillUsed {d m} {s : State} : (ringSend d m s).spillUsed = s.spillUsed := ringSend_keeps (·.spillUsed) (fun _ _ _ _ => rfl) _ _ _
@[simp] theorem ringSend_straySegments {d m} {s : State} : (ringSend d m s).straySegments = s.straySegments := ringSend_keeps (·.straySegments) (fun _ _ _ _ => rfl) _ _ _
@[simp] theorem ringSend_man {d m} {s : State} : (ringSend d m s).man = s.man := ringSend_keeps (·.man) (fun _ _ _ _ => rfl) _ _ _
@[simp] theorem ringSend_ing {d m} {s : State} : (ringSend d m s).ing = s.ing := ringSend_keeps (·.ing) (fun _ _ _ _ => rfl) _ _ _
@[simp] theorem ringSend_home {d m} {s : State} : (ringSend d m s).home = s.home := ringSend_keeps (·.home) (fun _ _ _ _ => rfl) _ _ _
@[simp] theorem ringSend_ports {d m} {s : State} : (ringSend d m s).ports = s.ports := ringSend_keeps (·.ports) (fun _ _ _ _ => rfl) _ _ _
@[simp] theorem ringSend_sw {d m} {s : State} : (ringSend d m s).sw = s.sw := ringSend_keeps (·.sw) (fun _ _ _ _ => rfl) _ _ _
@[simp] theorem ringSend_pilot {d m} {s : State} : (ringSend d m s).pilot = s.pilot := ringSend_keeps (·.pilot) (fun _ _ _ _ => rfl) _ _ _
@[simp] theorem ringSend_acc {d m} {s : State} : (ringSend d m s).acc = s.acc := ringSend_keeps (·.acc) (fun _ _ _ _ => rfl) _ _ _
@[simp] theorem ringSend_sec {d m} {s : State} : (ringSend d m s).sec = s.sec := ringSend_keeps (·.sec) (fun _ _ _ _ => rfl) _ _ _
@[simp] theorem ringSend_hm {d m} {s : State} : (ringSend d m s).hm = s.hm := ringSend_keeps (·.hm) (fun _ _ _ _ => rfl) _ _ _
@[simp] theorem ringSend_tel {d m} {s : State} : (ringSend d m s).tel = s.tel := ringSend_keeps (·.tel) (fun _ _ _ _ => rfl) _ _ _
@[simp] theorem ringSend_isl {d m} {s : State} : (ringSend d m s).isl = s.isl := ringSend_keeps (·.isl) (fun _ _ _ _ => rfl) _ _ _
@[simp] theorem ringSend_copies {d m} {s : State} : (ringSend d m s).copies = s.copies := ringSend_keeps (·.copies) (fun _ _ _ _ => rfl) _ _ _
@[simp] theorem ringSend_stage {d m} {s : State} : (ringSend d m s).stage = s.stage := ringSend_keeps (·.stage) (fun _ _ _ _ => rfl) _ _ _
@[simp] theorem ringSend_mbox {d m} {s : State} : (ringSend d m s).mbox = s.mbox := ringSend_keeps (·.mbox) (fun _ _ _ _ => rfl) _ _ _
@[simp] theorem ringSend_out {d m} {s : State} : (ringSend d m s).out = s.out := ringSend_keeps (·.out) (fun _ _ _ _ => rfl) _ _ _
@[simp] theorem ringSend_freeCount {d m} {s : State} : (ringSend d m s).freeCount = s.freeCount := ringSend_keeps (·.freeCount) (fun _ _ _ _ => rfl) _ _ _

end Sys2Proof.Machine
end

