-- ==== Sys2Proof/WellFormed.lean ====
section
/-! DEFINITION. Well-formed commands: every operand within the field its rule gives it. A field that a command's own check judges
is bounded by its width alone, so that the values the command refuses are well formed. -/

namespace Sys2Proof

/-- A hold-up voltage read over PMBus is a 16-bit word, or the read failed (R371). -/
def optWord (x : Option Nat) : Bool := match x with | some v => decide (v < 2 ^ 16) | none => true

/-- A command header (R407): one of the 16 mailboxes. -/
def CmdHdr.wf (x : CmdHdr) : Bool :=
  decide (x.mailbox < 16 ∧ x.tag < 2 ^ 32)

/-- A job command's header (R407). -/
def JobHdr.wf (x : JobHdr) : Bool :=
  decide (x.seq < 2 ^ 48 ∧ x.queue < 2 ^ 8 ∧ x.owner < 2 ^ 8) &&
  x.hdr.wf

/-- A Manifest entry: every field within its bits, the base aligned to 64 KiB (R44). -/
def Entry.wf (x : Entry) : Bool :=
  decide (x.baseFpa < 2 ^ 56 ∧ x.sizeCode < 2 ^ 4 ∧ x.tier < 2 ^ 2 ∧ x.cls < 2 ^ 2 ∧ x.redundancy < 2 ^ 3 ∧
    x.charter < 2 ^ 12 ∧ x.ownerHost < 2 ^ 12 ∧ x.generation < 2 ^ 16 ∧ x.keyEpoch < 2 ^ 2 ∧
    x.state < 2 ^ 2 ∧ x.memberPerm < 2 ^ 3 ∧ x.homeDevice < 2 ^ 6 ∧ x.shadowEntry < 2 ^ 19 ∧
    x.objectId < 2 ^ 32 ∧ x.reserved < 2 ^ 98) &&
  decide (x.baseFpa % 65536 = 0)

/-- A window descriptor (R41). -/
def Window.wf (x : Window) : Bool :=
  decide (x.sizeCode < 2 ^ 4 ∧ x.firstEntry < 2 ^ 19 ∧ x.entryCount < 2 ^ 20)

/-- A member of a stripe group (R330). -/
def GroupMember.wf (x : GroupMember) : Bool :=
  decide (x.device < 2 ^ 6 ∧ x.tray < 2 ^ 8 ∧ x.module < 2 ^ 4 ∧ x.state < 2 ^ 2)

/-- A stripe group's entry (R330). -/
def Group.wf (x : Group) : Bool :=
  decide (x.groupId < 2 ^ 16 ∧ x.mode < 2 ^ 8 ∧ x.memberBytes < 2 ^ 64 ∧ x.formatLimit < 2 ^ 64 ∧ x.anchor < 2 ^ 64) &&
  decide (x.members.length ≤ 18) && x.members.all fun m => m.wf

/-- A route map: contexts, devices, hosts and groups in range (R56, R303). -/
def RouteMap.wf (x : RouteMap) : Bool :=
  (x.toDevice.all fun p => decide (p.1 < 64) && p.2.all fun c => decide (c < 256)) &&
  (x.toHost.all fun p => decide (p.1 < 4096) && p.2.all fun c => decide (c < 256)) &&
  x.groups.all fun p => decide (p.1 < 4096)

/-- A composition names devices 0 to 63 (R57). -/
def Composition.wf (x : Composition) : Bool := x.members.all fun d => decide (d < 64)

/-- A change of the domain: its entries and maps well formed (R49). -/
def Change.wf (x : Change) : Bool :=
  match x with
  | .map i e => decide (i < 2 ^ 19) && e.wf
  | .revoke i => decide (i < 2 ^ 19)
  | .window c n w => decide (c < 4096 ∧ n < 8) && w.wf
  | .route m => m.wf
  | .composition c m => c.wf && m.wf
  | .role h g _ _ => decide (h < 4096 ∧ g < 4096)
  | .tideLength c => decide (c < 8)
  | .groupDefine g => g.wf
  | .groupDelete g => decide (g < 4096)
  | .formatStart g l => decide (g < 4096 ∧ l < 2 ^ 64)
  | .formatEnd g l _ => decide (g < 4096 ∧ l < 2 ^ 64)
  | .replace g m d t k _ => decide (g < 4096 ∧ m < 18 ∧ d < 64 ∧ t < 256 ∧ k < 16)
  | .charterCreate c _ _ => decide (c < 4096)
  | .charterMembers c a r => decide (c < 4096) && (a ++ r).all fun h => decide (h < 4096)
  | .charterRotate c _ _ => decide (c < 4096)
  | .charterRevoke c => decide (c < 4096)
  | .migrate l => l.all fun p => decide (p.1 < 2 ^ 19) && p.2.wf
  | .fwActivate m _ => decide (m < 2 ^ 64)

/-- A change's name: its issuer is a device. -/
def ChangeId.wf (x : ChangeId) : Bool := decide (x.issuer < 64)

/-- A host's request (R90) with the payload bytes of its kind (R91, R94, R116). -/
def HostReq.wf (x : HostReq) (n : Nat) : Bool :=
  decide (x.ctx < 257 ∧ x.tag < 2 ^ 16 ∧ x.charter < 4096 ∧ x.address < 2 ^ 56 ∧ 1 ≤ x.length ∧ x.length ≤ 256 ∧
    x.tclass < 16 ∧ x.sealWindow < 256 ∧ x.aux < 2 ^ 32 ∧ x.payload.length = n)

/-- A request inside the fabric (R89). -/
def FabReq.wf (x : FabReq) : Bool :=
  decide (x.opcode < 2 ^ 8 ∧ x.charter < 2 ^ 12 ∧ x.source < 2 ^ 12 ∧ x.tag < 2 ^ 16 ∧ x.address < 2 ^ 56 ∧
    x.entry < 2 ^ 19 ∧ x.generation < 2 ^ 16 ∧ x.routeEpoch < 2 ^ 16 ∧ x.home < 2 ^ 6 ∧ x.tclass < 2 ^ 4 ∧
    x.sealWindow < 2 ^ 8 ∧ x.jobDevice < 2 ^ 6 ∧ x.jobSlot < 2 ^ 12 ∧ x.attempt < 2 ^ 8 ∧ x.parts < 2 ^ 13 ∧
    x.aux < 2 ^ 32) &&
  decide (1 ≤ x.length ∧ x.length ≤ 256 ∧ x.payload.length ≤ 256)

/-- A response (R95). -/
def Resp.wf (x : Resp) : Bool :=
  decide (x.opcode < 2 ^ 8 ∧ x.destination < 2 ^ 12 ∧ x.tag < 2 ^ 16 ∧ x.reason < 2 ^ 16 ∧ x.ll < 2 ^ 3 ∧
    x.responder < 2 ^ 6 ∧ x.parts < 2 ^ 13 ∧ x.aux < 2 ^ 32) &&
  decide (x.data.length ≤ 256)

/-- A Crane segment (R141). -/
def Segment.wf (x : Segment) : Bool :=
  decide (x.kind < 2 ^ 4 ∧ x.jobDevice < 2 ^ 6 ∧ x.jobSlot < 2 ^ 12 ∧ x.attempt < 2 ^ 8 ∧ x.sender < 2 ^ 12 ∧
    x.tile < 2 ^ 32 ∧ x.aux < 2 ^ 32 ∧ x.members < 2 ^ 13 ∧ x.format < 2 ^ 5 ∧ x.seqLo < 2 ^ 16) &&
  decide (x.data.length ≤ 4096)

/-- A logbook record (R356). -/
def LogRec.wf (x : LogRec) : Bool :=
  decide (x.kind < 2 ^ 8 ∧ x.owner < 2 ^ 6 ∧ x.queue < 2 ^ 8 ∧ x.attempt < 2 ^ 8 ∧ x.seq < 2 ^ 48 ∧
    x.jobSlot < 2 ^ 12 ∧ x.command < 2 ^ 16 ∧ x.tide < 2 ^ 64 ∧ x.logSeq < 2 ^ 64 ∧ x.queueOwner < 2 ^ 8)

/-- An IDENTIFY control block (R280). -/
def Ident.wf (x : Ident) : Bool :=
  decide (x.partClass < 2 ^ 8 ∧ x.partCode < 2 ^ 32 ∧ x.role < 2 ^ 8 ∧ x.widths < 2 ^ 8 ∧ x.deviceId < 2 ^ 8)

/-- A ring slot: a 512-byte block and a 256-byte answer field (R20). -/
def RingSlot.wf (x : RingSlot) : Bool := decide (x.block.length = 512 ∧ x.answers.length = 256)

/-- A ring of at most 64 sites, this device's and every other within it (R18). -/
def RingMap.wf (x : RingMap) : Bool :=
  decide (1 ≤ x.sites ∧ x.sites ≤ 64 ∧ x.site < x.sites) && x.devices.all fun p => decide (p.1 < 64 ∧ p.2 < x.sites)

/-- What a ring measurement finds is well formed. -/
def RingFound.wf (x : RingFound) : Bool :=
  match x with
  | .partner i => i.wf
  | .ring m => m.wf

/-- A slot's place lies in the longest train, and a slot that came back is well formed. -/
def SlotBack.wf (x : SlotBack) : Bool :=
  decide (x.position < 384) && (match x.slot with | some y => y.wf | none => true)

/-- A message's kind is among the sixteen its model has room for. -/
def ProgramMsg.wf (x : ProgramMsg) : Bool := decide (x.kind < 16)

/-- A mirror source: the filter covers five fields (R305). -/
def MirrorSource.wf (x : MirrorSource) : Bool :=
  match x with
  | .port c d => decide (c < 65536 ∧ d < 4)
  | .flow v m => decide (v.length = 5 ∧ m.length = 5)

/-- A natural unit of work (R34). -/
def Work.wf (x : Work) : Bool :=
  match x with
  | .craneAdd t _ k => decide (t < 2 ^ 32 ∧ k < 4096)
  | .cranePass t => decide (t < 2 ^ 32)
  | .linkFrame c _ n => decide (c < 257 ∧ 0 < n)
  | .frameDecode c _ n => decide (c < 257 ∧ 0 < n)
  | .rows _ n => decide (0 < n)
  | .fill _ n => decide (0 < n)
  | .writeOut _ n => decide (0 < n)
  | .bag _ => true
  | .compaction _ _ => true
  | .merge _ n => decide (0 < n)
  | .block i => decide (i < 2 ^ 32)
  | .piece _ n => decide (0 < n)

/-- The descriptor of CRANE.COLLECTIVE within its 128 bytes (R159). -/
def CraneDesc.wf (x : CraneDesc) : Bool :=
  decide (x.collective < 2 ^ 8 ∧ x.op < 2 ^ 8 ∧ x.inFormat < 2 ^ 8 ∧ x.outFormat < 2 ^ 8 ∧ x.rounding < 2 ^ 8 ∧
    x.policy < 2 ^ 8 ∧ x.tileCode < 2 ^ 8 ∧ x.flags < 2 ^ 8 ∧ x.charter < 2 ^ 16 ∧ x.memberCount < 2 ^ 16 ∧
    x.sourceIndex < 2 ^ 16 ∧ x.memberTimeout < 2 ^ 16 ∧ x.elementCount < 2 ^ 64 ∧ x.memberList < 2 ^ 64 ∧
    x.shardTiles < 2 ^ 32 ∧ x.programId < 2 ^ 32 ∧ x.seed < 2 ^ 32 ∧ x.outVa < 2 ^ 64 ∧ x.sealVa < 2 ^ 64 ∧
    x.sealValue < 2 ^ 64 ∧ x.spillBase < 2 ^ 64 ∧ x.spillBytes < 2 ^ 64)

/-- What a participating device is told of a Crane job: its names are devices and slots, its members hosts (R130, R158). -/
def CraneJoin.wf (x : CraneJoin) : Bool :=
  decide (x.holder < 64 ∧ x.device < 64 ∧ x.slot < 4096 ∧ x.attempt < 256 ∧ x.seed < 2 ^ 64) && x.hdr.wf && x.desc.wf &&
  (x.members.all fun h => decide (h < 4096)) && (x.live.all fun h => decide (h < 4096)) &&
  (x.parts.all fun d => decide (d < 64)) && x.done.all fun d => decide (d < 64)

/-- The descriptor of STEVEDORE.MOVE within its 128 bytes (R178). -/
def StevDesc.wf (x : StevDesc) : Bool :=
  decide (x.op < 2 ^ 8 ∧ x.idxFormat < 2 ^ 8 ∧ x.spaces < 2 ^ 8 ∧ x.flags < 2 ^ 8 ∧ x.elemFormat < 2 ^ 8 ∧
    x.outFormat < 2 ^ 8 ∧ x.rounding < 2 ^ 8 ∧ x.engines < 2 ^ 8 ∧ x.charter < 2 ^ 16 ∧
    x.recordBytes < 2 ^ 8 ∧ x.indexOffset < 2 ^ 8 ∧ x.rowSize < 2 ^ 32 ∧ x.indexCount < 2 ^ 64 ∧
    x.idxAddr < 2 ^ 64 ∧ x.srcAddr < 2 ^ 64 ∧ x.dstAddr < 2 ^ 64 ∧ x.rowCount < 2 ^ 64 ∧
    x.baseAddr < 2 ^ 64 ∧ x.accBase < 2 ^ 64 ∧ x.bagAddr < 2 ^ 64 ∧ x.bagCount < 2 ^ 32 ∧ x.seed < 2 ^ 32 ∧
    x.sealTable < 2 ^ 64 ∧ x.sealValue < 2 ^ 64)

/-- The descriptor of a CUSTOMS command within its 128 bytes (R201). -/
def CustDesc.wf (x : CustDesc) : Bool :=
  decide (x.op < 2 ^ 8 ∧ x.metric < 2 ^ 8 ∧ x.vecFormat < 2 ^ 8 ∧ x.spaces < 2 ^ 8 ∧ x.flags < 2 ^ 8 ∧
    x.engines < 2 ^ 8 ∧ x.batch < 2 ^ 8 ∧ x.termCount < 2 ^ 8 ∧ x.charter < 2 ^ 16 ∧ x.dim < 2 ^ 16 ∧
    x.k < 2 ^ 16 ∧ x.listCount < 2 ^ 8 ∧ x.rowCount < 2 ^ 64 ∧ x.storeAddr < 2 ^ 64 ∧ x.stride < 2 ^ 32 ∧
    x.indexBase < 2 ^ 32 ∧ x.attrAddr < 2 ^ 64 ∧ x.schemaAddr < 2 ^ 64 ∧ x.queryAddr < 2 ^ 64 ∧
    x.outAddr < 2 ^ 64 ∧ x.outCapacity < 2 ^ 64 ∧ x.programId < 2 ^ 32 ∧ x.workBase < 2 ^ 64 ∧
    x.sealVa < 2 ^ 64 ∧ x.sealValue < 2 ^ 64 ∧ x.listAddr < 2 ^ 64)

/-- The descriptor of a codec command within its 64 bytes (R242). -/
def CodecDesc.wf (x : CodecDesc) : Bool :=
  decide (x.op < 2 ^ 8 ∧ x.elemWidth < 2 ^ 8 ∧ x.spaces < 2 ^ 8 ∧ x.modeMask < 2 ^ 8 ∧ x.engines < 2 ^ 8 ∧
    x.charter < 2 ^ 16 ∧ x.objectId < 2 ^ 32 ∧ x.rawBytes < 2 ^ 64 ∧ x.rawAddr < 2 ^ 64 ∧
    x.indexAddr < 2 ^ 64 ∧ x.payloadBase < 2 ^ 64 ∧ x.sealVa < 2 ^ 64 ∧ x.sealValue < 2 ^ 64)

/-- The descriptor of STREAM.SCHEDULE within its 64 bytes (R255). -/
def StreamDesc.wf (x : StreamDesc) : Bool :=
  decide (x.windowLayers < 2 ^ 8 ∧ x.tclass < 2 ^ 8 ∧ x.charter < 2 ^ 16 ∧ x.layerCount < 2 ^ 16 ∧ x.group < 2 ^ 16 ∧
    x.prefetchCap < 2 ^ 16 ∧ x.leadTides < 2 ^ 32 ∧ x.startTide < 2 ^ 64 ∧ x.passTides < 2 ^ 32 ∧
    x.passCount < 2 ^ 32 ∧ x.layerTable < 2 ^ 64 ∧ x.windowBase < 2 ^ 64 ∧ x.slotBytes < 2 ^ 32 ∧
    x.shadowSlotBytes < 2 ^ 32 ∧ x.shadowBase < 2 ^ 64)

/-- The block of COPY.RUN (R414). -/
def CopyDesc.wf (x : CopyDesc) : Bool :=
  decide (x.spaces < 2 ^ 8 ∧ x.charter < 2 ^ 16 ∧ x.bytes < 2 ^ 64 ∧ x.srcAddr < 2 ^ 64 ∧ x.dstAddr < 2 ^ 64 ∧
    x.sealVa < 2 ^ 64 ∧ x.sealValue < 2 ^ 64)

/-- The block of TIER.PLACE (R252). -/
def PlaceDesc.wf (x : PlaceDesc) : Bool :=
  decide (x.tier < 2 ^ 8 ∧ x.charter < 2 ^ 16 ∧ x.objectId < 2 ^ 32 ∧ x.srcVa < 2 ^ 64 ∧ x.bytes < 2 ^ 64 ∧
    x.stageAddr < 2 ^ 64)

/-- The block of PILOT.PILOTQ within its 16 bytes (R321). -/
def PilotqBlock.wf (x : PilotqBlock) : Bool :=
  decide (x.queue < 2 ^ 16 ∧ x.flags < 2 ^ 8 ∧ x.reserved < 2 ^ 8 ∧ x.rate < 2 ^ 32 ∧ x.burst < 2 ^ 32 ∧
    x.latencyTarget < 2 ^ 32)

/-- Every operand fits its field. -/
def Instr.wf (i : Instr) : Bool :=
  match i with
  | .mboxPad mailbox => decide (mailbox < 16)
  | .mboxNop h => h.wf
  | .commandTake mailbox => decide (mailbox < 16)
  | .berthConfigure h berth split ctxs => h.wf && decide (berth < 65536) && decide (split < 65536) && decide (ctxs.length ≤ 4)
  | .linkCodec h ctx classMask elemWidth maxWait =>
    h.wf && decide (ctx < 65536) && decide (classMask < 65536) && decide (elemWidth < 65536) && decide (maxWait < 65536)
  | .switchForwarding h ctx _ => h.wf && decide (ctx < 65536)
  | .mirrorSession h session target src => h.wf && decide (session < 65536) && decide (target < 65536) && src.wf
  | .sampleConfigure h ctx _ n => h.wf && decide (ctx < 65536) && decide (n < 256)
  | .pilotQueues h ctx cls pool count select =>
    h.wf && decide (ctx < 65536) && decide (cls < 65536) && decide (pool < 65536) && decide (count < 2 ^ 64) &&
    decide (select < 65536)
  | .pilotClass h cls alpha kind delayTarget k =>
    h.wf && decide (cls < 65536) && decide (alpha < 65536) && decide (kind < 65536) && decide (delayTarget < 2 ^ 64) &&
    decide (k < 65536)
  | .pilotPort h ctx weights overhead =>
    h.wf && decide (ctx < 65536) && decide (weights.length = 16) && decide (overhead < 65536)
  | .pilotPilotq h b => h.wf && b.wf
  | .pilotHost h host maxOutstanding rate burst =>
    h.wf && decide (host < 65536) && decide (maxOutstanding < 2 ^ 64) && decide (rate < 2 ^ 64) && decide (burst < 2 ^ 64)
  | .pilotStats h _ first count _ => h.wf && decide (first < 2 ^ 64) && decide (count < 2 ^ 64)
  | .manifestMap h index e atTide => h.wf && decide (index < 2 ^ 32) && e.wf && decide (atTide < 2 ^ 64)
  | .manifestRevoke h index atTide => h.wf && decide (index < 2 ^ 32) && decide (atTide < 2 ^ 64)
  | .manifestWindow h charter win w atTide =>
    h.wf && decide (charter < 65536) && decide (win < 65536) && w.wf && decide (atTide < 2 ^ 64)
  | .manifestSync h source boundary entries _ route routeEpoch =>
    h.wf && decide (source < 65536) && decide (boundary < 2 ^ 64) && (entries.all fun p => decide (p.1 < 2 ^ 19) &&
    p.2.wf) && route.wf && decide (routeEpoch < 65536)
  | .routeCommit h m atTide => h.wf && m.wf && decide (atTide < 2 ^ 64)
  | .compositionSet h c m atTide => h.wf && c.wf && m.wf && decide (atTide < 2 ^ 64)
  | .roleShift h host group _ _ atTide => h.wf && decide (host < 65536) && decide (group < 65536) && decide (atTide < 2 ^ 64)
  | .tideSetLength h code atTide => h.wf && decide (code < 256) && decide (atTide < 2 ^ 64)
  | .redundancyGroup h _ g atTide => h.wf && g.wf && decide (atTide < 2 ^ 64)
  | .redundancyFormat h groupId limit atTide =>
    h.wf && decide (groupId < 65536) && decide (limit < 2 ^ 64) && decide (atTide < 2 ^ 64)
  | .redundancyReplace h groupId member device tray module rate atTide =>
    h.wf && decide (groupId < 65536) && decide (member < 65536) && decide (device < 65536) && decide (tray < 65536) &&
    decide (module < 65536) && decide (rate < 2 ^ 64) && decide (atTide < 2 ^ 64)
  | .charterCreate h charter _ keySource _ atTide =>
    h.wf && decide (charter < 65536) && decide (keySource < 65536) && decide (atTide < 2 ^ 64)
  | .charterMembers h charter _ _ atTide => h.wf && decide (charter < 65536) && decide (atTide < 2 ^ 64)
  | .charterRotate h charter keySource rate _ atTide =>
    h.wf && decide (charter < 65536) && decide (keySource < 65536) && decide (rate < 2 ^ 64) && decide (atTide < 2 ^ 64)
  | .charterRevoke h charter atTide => h.wf && decide (charter < 65536) && decide (atTide < 2 ^ 64)
  | .confidentialEnter h => h.wf
  | .jobqOpen h queue mailbox => h.wf && decide (queue < 65536) && decide (mailbox < 65536)
  | .jobqClose h queue owner => h.wf && decide (queue < 65536) && decide (owner < 65536)
  | .craneCollective h d => h.wf && d.wf
  | .stevedoreMove h d => h.wf && d.wf
  | .customsScan h d => h.wf && d.wf
  | .customsScore h d => h.wf && d.wf
  | .customsMerge h d => h.wf && d.wf
  | .codecEncode h d => h.wf && d.wf
  | .codecDecode h d => h.wf && d.wf
  | .streamSchedule h d => h.wf && d.wf
  | .streamStop h slot => h.wf && decide (slot < 65536)
  | .tierPlace h d => h.wf && d.wf
  | .tierDrop h objectId stageAddr => h.wf && decide (objectId < 2 ^ 64) && decide (stageAddr < 2 ^ 64)
  | .tierMigrate h tier charter objectId srcVa bytes _ atTide =>
    h.wf && decide (tier < 65536) && decide (charter < 65536) && decide (objectId < 2 ^ 64) && decide (srcVa < 2 ^ 64) &&
    decide (bytes < 2 ^ 64) && decide (atTide < 2 ^ 64)
  | .tierQuery h objectId => h.wf && decide (objectId < 2 ^ 64)
  | .copyRun h d => h.wf && d.wf
  | .programKeyEnroll h slot key => h.wf && decide (slot < 65536) && decide (key.length = 97)
  | .programKeyClear h slot => h.wf && decide (slot < 65536)
  | .programLoadBlock h programId offset data =>
    h.wf && decide (programId < 2 ^ 64) && decide (offset < 2 ^ 64) && decide (data.length ≤ 4096)
  | .programCommit h programId totalLength deviceMask =>
    h.wf && decide (programId < 2 ^ 64) && decide (totalLength < 2 ^ 64) && decide (deviceMask < 2 ^ 64)
  | .programUnload h programId deviceMask => h.wf && decide (programId < 2 ^ 64) && decide (deviceMask < 2 ^ 64)
  | .programQuery h programId => h.wf && decide (programId < 2 ^ 64)
  | .fwLoadBlock h offset data => h.wf && decide (offset < 2 ^ 64) && decide (data.length ≤ 4096)
  | .fwCommit h totalLength deviceMask holdupMv _ =>
    h.wf && decide (totalLength < 2 ^ 64) && decide (deviceMask < 2 ^ 64) && optWord holdupMv
  | .fwActivateAt h deviceMask release atTide =>
    h.wf && decide (deviceMask < 2 ^ 64) && decide (release < 2 ^ 64) && decide (atTide < 2 ^ 64)
  | .fwMeasurements h start => h.wf && decide (start < 2 ^ 64)
  | .fwStatus h => h.wf
  | .logbookFlush h holdupMv => h.wf && optWord holdupMv
  | .telemetrySamples h => h.wf
  | .telemetryCounters h group start => h.wf && decide (group < 65536) && decide (start < 2 ^ 64)
  | .domainChangeNotice id c atTide => id.wf && c.wf && decide (atTide < 2 ^ 64)
  | .domainChangeReady _ member _ code => decide (member < 64) && decide (code < 65536)
  | .domainChangeCommit id => id.wf
  | .domainChangeCancel id => id.wf
  | .changeReadyDeadline _ => true
  | .domainChangeApply => true
  | .routeGraceEnd => true
  | .tideBoundary => true
  | .tideMarkerReceive _ hops count _ => decide (hops < 65) && decide (count < 2 ^ 64)
  | .markerMissed => true
  | .masterTakeover => true
  | .ringSlotArrive slot position => slot.wf && decide (position < 384)
  | .snoopAnswer slot => slot.wf
  | .slotReturn slot => slot.wf
  | .dataSlotReceive slot => slot.wf
  | .ringMeasure _ spanTenthsNs hops ident =>
    decide (spanTenthsNs < 2 ^ 32) && decide (hops < 64) &&
    (match ident with | some i => i.wf | none => true)
  | .ringLinkFail link => decide (link < 64)
  | .ringLinkRestore link => decide (link < 64)
  | .trainRestore => true
  | .bypassReleaseRequest => true
  | .bypassReleaseTimeout => true
  | .bypassLeaveRequest => true
  | .spliceRequest site _ => decide (site < 64)
  | .spliceGrant => true
  | .splice => true
  | .bypassClose => true
  | .coreHeartbeatTimeout => true
  | .sliceRetire _ engine slot w bad _ =>
    decide (engine < 2 ^ 18) && decide (slot < 4096 * 65) && w.wf && (bad.all fun a => decide (a < 2 ^ 40))
  | .tideOverrun _ engine => decide (engine < 2 ^ 18)
  | .budgetRestore _ engine => decide (engine < 2 ^ 18)
  | .powerSample milliwatts => decide (milliwatts < 2 ^ 32)
  | .read r => r.wf 0
  | .readAcq r => r.wf 8
  | .acquire r => r.wf 0
  | .write r => r.wf r.length
  | .writePartial r => r.wf 72
  | .writeSeal r => r.wf 8
  | .stow r => r.wf r.length
  | .atomic r => r.wf r.length
  | .regionPublish r => r.wf 24
  | .cReadShared r => r.wf 0
  | .cReadOwn r => r.wf 0
  | .cUpgrade r => r.wf 0
  | .cWriteback r => r.wf 64
  | .cEvictClean r => r.wf 0
  | .cRecallAnswer host line data =>
    decide (host < 4096) && decide (line < 2 ^ 56) && (match data with | some d => decide (d.length = 64) | none => true)
  | .hostRecallTimeout host line => decide (host < 4096) && decide (line < 2 ^ 56)
  | .cStowFill r => r.wf
  | .cStowFillAnswer device line _ => decide (device < 64) && decide (line < 2 ^ 56)
  | .cSnoopDone r => r.wf
  | .snoopRoundReturn snoopId _ => decide (snoopId < 65536)
  | .deadAgentNotice device => decide (device < 64)
  | .directoryScanDone device => decide (device < 64)
  | .homeAdmit r => r.wf
  | .attemptFence r => r.wf
  | .granuleBatchStart entry offset => decide (entry < 2 ^ 19) && decide (offset < 2 ^ 38)
  | .trayResponse _ kind data => decide (kind < 4) && decide (data.length ≤ 64)
  | .granuleBatchDone entry offset => decide (entry < 2 ^ 19) && decide (offset < 2 ^ 38)
  | .sealTimeout source window => decide (source < 8192) && decide (window < 256)
  | .windowForget source => decide (source < 8192)
  | .responseReceive r => r.wf
  | .loadLevelUpdate => true
  | .blockReceive ctx block _ _ => decide (ctx < 257) && decide (block.length = 512)
  | .cutItemArrive ctx seq unit pool _ => decide (ctx < 257) && decide (seq < 4096) && decide (unit < 31) && decide (pool < 3)
  | .idle ctx ack => decide (ctx < 257) && decide (ack < 4096)
  | .nak ctx seq => decide (ctx < 257) && decide (seq < 65536)
  | .credit ctx req rsp strm => decide (ctx < 257) && decide (req < 65536) && decide (rsp < 65536) && decide (strm < 65536)
  | .nakHoldoffExpire ctx => decide (ctx < 257)
  | .resendTimeout ctx => decide (ctx < 257)
  | .signalDetect ctx => decide (ctx < 257)
  | .equalizeLock ctx => decide (ctx < 257)
  | .blockLock ctx => decide (ctx < 257)
  | .identify ctx i => decide (ctx < 257) && i.wf
  | .ping ctx => decide (ctx < 257)
  | .pong ctx rttTenthsNs => decide (ctx < 257) && decide (rttTenthsNs < 2 ^ 32)
  | .initialCredit ctx req rsp strm =>
    decide (ctx < 257) && decide (req < 65536) && decide (rsp < 65536) && decide (strm < 65536)
  | .trainingTimeout ctx => decide (ctx < 257)
  | .laneFail ctx lane => decide (ctx < 257) && decide (lane < 520)
  | .spanSeqQuery device ctx => decide (device < 64) && decide (ctx < 257)
  | .spanSeqAnswer ctx seq => decide (ctx < 257) && decide (seq < 4096)
  | .spanAnswerTimeout ctx => decide (ctx < 257)
  | .planeMatch plane => decide (plane < 4)
  | .transmitSlot ctx eccError => decide (ctx < 257) && decide (eccError < 3)
  | .pilotQueuesApply => true
  | .latencySample => true
  | .contribReceive g => g.wf
  | .partialReceive g => g.wf
  | .resultReceive g => g.wf
  | .tileOpen slot tile => decide (slot < 4096 * 65) && decide (tile < 2 ^ 32)
  | .memberTimeout slot host => decide (slot < 4096 * 65) && decide (host < 4096)
  | .exclusionNotice slot host => decide (slot < 4096 * 65) && decide (host < 4096)
  | .exclusionApply slot host => decide (slot < 4096 * 65) && decide (host < 4096)
  | .engineReadResponse slot address _ data bad _ =>
    decide (slot < 4096 * 65) && decide (address < 2 ^ 56) && decide (data.length ≤ 256) &&
    (bad.all fun a => decide (a < 2 ^ 40))
  | .engineJobStop slot => decide (slot < 4096 * 65)
  | .attemptStart slot join => decide (slot < 4096 * 65) && (match join with | some j => j.wf | none => true)
  | .linkFrameTimeout ctx => decide (ctx < 257)
  | .linkFrameReceive ctx _ _ => decide (ctx < 257)
  | .linkFrameAck ctx seq => decide (ctx < 257) && decide (seq < 2 ^ 32)
  | .linkFrameNack ctx seq => decide (ctx < 257) && decide (seq < 2 ^ 32)
  | .prefetchBlockLand slot layer _ block generation _ _ _ =>
    decide (slot < 4096 * 65) && decide (layer < 4096) && decide (block < 2 ^ 32) && decide (generation < 65536)
  | .formRetranslate slot layer _ => decide (slot < 4096 * 65) && decide (layer < 4096)
  | .layerChoice slot => decide (slot < 4096 * 65)
  | .deliveryClose slot => decide (slot < 4096 * 65)
  | .streamAbandoned slot => decide (slot < 4096 * 65)
  | .trayRequestTimeout _ => true
  | .moduleFailedNotice device tray module count =>
    decide (device < 64) && decide (tray < 256) && decide (module < 16) && decide (count < 2 ^ 32)
  | .formatStep groupId rows => decide (groupId < 2 ^ 32) && decide (rows < 2 ^ 32)
  | .formatDone groupId => decide (groupId < 2 ^ 32)
  | .rebuildStep groupId => decide (groupId < 2 ^ 32)
  | .rebuildDoneReport groupId device => decide (groupId < 2 ^ 32) && decide (device < 64)
  | .rebuildDone groupId => decide (groupId < 2 ^ 32)
  | .resyncStep entry => decide (entry < 2 ^ 19)
  | .heartbeatReceive device => decide (device < 64)
  | .heartbeatTimeout device => decide (device < 64)
  | .hostDeath host => decide (host < 4096)
  | .resetRequest device epoch => decide (device < 64) && decide (epoch < 65536)
  | .replica fromDev msgId fragOffset _ r =>
    decide (fromDev < 64) && decide (msgId < 65536) && decide (fragOffset < 2 ^ 19) && r.wf
  | .replicaAck fromDev logSeq _ => decide (fromDev < 64) && decide (logSeq < 2 ^ 32)
  | .receiptClear fromDev msgId jobDevice jobSlot =>
    decide (fromDev < 64) && decide (msgId < 65536) && decide (jobDevice < 64) && decide (jobSlot < 4096)
  | .clearAck home jobDevice jobSlot => decide (home < 64) && decide (jobDevice < 64) && decide (jobSlot < 4096)
  | .replicaResendTimeout logSeq => decide (logSeq < 2 ^ 64)
  | .jobComplete slot => decide (slot < 4096 * 65)
  | .flushComplete _ => true
  | .sweepPageStep charter entry page => decide (charter < 4096) && decide (entry < 2 ^ 19) && decide (page < 2 ^ 18)
  | .rotationDoneReport charter device => decide (charter < 4096) && decide (device < 64)
  | .rotationComplete charter => decide (charter < 4096)
  | .removalDoneReport charter device poisoned refused stopped =>
    decide (charter < 4096) && decide (device < 64) && decide (poisoned < 2 ^ 64) && decide (refused < 2 ^ 64) &&
    decide (stopped < 2 ^ 64)
  | .removalComplete charter => decide (charter < 4096)
  | .harbourKeyAgreement _ _ => true
  | .pageMapTransfer entry _ => decide (entry < 2 ^ 19)
  | .lighterRecord lighter content sessionId counter _ _ =>
    decide (lighter < 16) && decide (content < 256) && decide (sessionId < 2 ^ 32) && decide (counter < 2 ^ 64)
  | .lighterReadRetry lighter => decide (lighter < 16)
  | .mboxRead tag offset length => decide (tag < 65536) && decide (offset < 2 ^ 32) && decide (length < 257)
  | .mboxWrite tag offset data => decide (tag < 65536) && decide (offset < 2 ^ 32) && decide (data.length ≤ 256)
  | .getVersion _ => true
  | .getCapabilities _ => true
  | .negotiateAlgorithms _ => true
  | .getDigests _ => true
  | .getCertificate slot offset length => decide (slot < 256) && decide (offset < 65536) && decide (length < 65536)
  | .challenge slot nonce => decide (slot < 256) && decide (nonce.length = 32)
  | .getMeasurements index nonce => decide (index < 256) && decide (nonce.length = 32)
  | .keyExchange reqSession _ => decide (reqSession < 65536)
  | .finish sessionId _ => decide (sessionId < 2 ^ 32)
  | .spdmUnsupported code => decide (code < 256)
  | .programImageReceive issuer image => decide (issuer < 64) && image.wf
  | .programCommitAnswer device code => decide (device < 64) && decide (code < 65536)
  | .programStageExpire programId => decide (programId < 2 ^ 32)
  | .fwImageReceive issuer _ holdupMv _ => decide (issuer < 64) && optWord holdupMv
  | .fwCommitAnswer device code => decide (device < 64) && decide (code < 65536)
  | .fwPostReadyWrites holdupMv => optWord holdupMv
  | .fwSelectPending holdupMv => optWord holdupMv
  | .fwDoneReport device => decide (device < 64)
  | .cmdTailWrite mailbox value => decide (mailbox < 16) && decide (value < 2 ^ 32)
  | .cplHeadWrite mailbox value => decide (mailbox < 16) && decide (value < 2 ^ 32)
  | .evHeadWrite value => decide (value < 2 ^ 32)
  | .reasonClear _ => true
  | .lighterEnable lighter _ => decide (lighter < 16)
  | .inTailWrite lighter value => decide (lighter < 16) && decide (value < 2 ^ 32)
  | .outHeadWrite lighter value => decide (lighter < 16) && decide (value < 2 ^ 32)
  | .tideCountLowRead tag => decide (tag < 65536)
  | .registerWrite offset width _ => decide (offset < 2 ^ 32) && decide (width < 9)
  | .lifeboatStatus _ issueId param => decide (issueId < 65536) && decide (param < 65536)
  | .freeze _ issueId param => decide (issueId < 65536) && decide (param < 65536)
  | .dumpSnapshot _ issueId param => decide (issueId < 65536) && decide (param < 65536)
  | .zeroizeCharter _ issueId param => decide (issueId < 65536) && decide (param < 65536)
  | .zeroizeAll _ issueId param => decide (issueId < 65536) && decide (param < 65536)
  | .ringBypassClose _ issueId param => decide (issueId < 65536) && decide (param < 65536)
  | .lifeboatLogbookFlush _ issueId param holdupMv => decide (issueId < 65536) && decide (param < 65536) && optWord holdupMv
  | .subsystemReset _ issueId param => decide (issueId < 65536) && decide (param < 65536)
  | .readMeasurements _ issueId param => decide (issueId < 65536) && decide (param < 65536)
  | .coldReset _ => true
  | .warmReset _ => true
  | .resetRelease _ _ _ _ bad _ => (bad.all fun a => decide (a < 2 ^ 40))
  | .railFault rail => decide (rail < 256)
  | .thermalLimit _ => true
  | .holdupFail holdupMv => optWord holdupMv
  | .boardDeclWrite decl => decide (decl.length = 64)
  | .pmbusOther command => decide (command < 256)
  | .tapInstruction code => decide (code < 65536)
  | .groupDegraded => true
  | .heartbeatSend => true
  | .lossBoundary => true
  | .asyncResend => true
  | .logbookReplay => true
  | .keyEpochTurn => true
  | .confidentialEntry => true
  | .fwStageExpire => true
  | .fwActivation => true
  | .hmWatchdog => true
  | .hmHeartbeat => true
  | .firmwareReady => true
  | .thermtrip => true
  | .inputPowerReturn => true
  | .oneSecondPeriodEnd => true
  | .lbStatusRead => true
  | .statusWord => true
  | .readTemperature1 => true
  | .readPout => true

end Sys2Proof
end

