-- ==== Sys2Proof/Tests/Slice0.lean ====
section
/-! SUPPORT. The tests: states and operands that meet the hypotheses of every statement, clause by clause; an ill-formed term for
each check of WellFormed.lean; the model against the worked examples of the spec; a few single steps. Each expected result is from
the spec. -/

namespace Sys2Proof.Tests

open Sys2Proof.Machine

set_option Elab.async false

/-- A core that runs, with firmware that takes commands. -/
def up : State := { State.reset with hm := { State.reset.hm with fwReady := true } }
/-- The same with the lockout latch set. -/
def upLatched : State := { up with sec := { up.sec with latch := true } }
/-- A core held in reset. -/
def down : State := { up with isl := { up.isl with resetState := .cold } }
/-- A header of expert form, one of basic form, and one that came through a lighter. -/
def hx : CmdHdr := { mailbox := 0, tag := 7, expert := true, viaLighter := false }
def hb : CmdHdr := { hx with expert := false }
def hl : CmdHdr := { hx with viaLighter := true }
/-- Mailbox 0 with one unit between its head and tail, whose header is a command of these bytes. -/
def boxed (b : Bytes) : State :=
  { up with mbox := mwrite up.mbox 0 b, hm := { up.hm with boxes := [(0, { mailbox0 with cmdTail := 1 })] } }
/-- A pad, and an MBOX.NOP with tag 7, of one unit. -/
def padBox : State := boxed (le 4 0x01000000)
def nopBox : State := boxed (le 4 0x01000001 ++ le 4 7)
/-- Mailbox 0 whose completion pointers differ by one unit. -/
def postedBox : State := { up with hm := { up.hm with boxes := [(0, { mailbox0 with cplTail := 1 })] } }
/-- Lighter 0 with given fields. -/
def lit (x : Lighter) : State := { up with sec := { up.sec with lighters := [(0, x)] } }
def lightOn : State := lit { lighter0 with enable := true }
/-- Context 0 enabled and UP in a role, beside the host link. -/
def ctx0 (role host : Nat) : PortCtx :=
  { khlReset with berth := 0, role := role, host := host, coherent := false, train := .up, lanes := 4,
                  txCredit := [8, 8, 8], txTotal := [8, 8, 8] }
def withCtx (c : PortCtx) : State := { up with ports := { up.ports with ctxs := [(0, c), (256, khlReset)] } }
def shore : State := withCtx (ctx0 1 5)
def seaward : State := withCtx (ctx0 2 0)
def span : State := withCtx (ctx0 3 0)
def mirrorPort : State := withCtx (ctx0 4 0)
def cfg (id role host : Nat) : CtxCfg := { contextId := id, role := role, hostId := host, coherent := false, enable := true }
def floorOf (f : Nat) : PilotqBlock := { queue := 0, flags := f, reserved := 0, rate := 1000, burst := 1024, latencyTarget := 100 }
/-- Queue 12,336 as the one sub-queue of base queue 0, in force and waiting. -/
def subState : State :=
  { shore with pilot := { shore.pilot with subs := [(0, [12336], 0)], pendingSubs := [(0, [12336], 0)] } }
/-- Job queue 255 open, and empty. -/
def queued : State :=
  { up with acc := { up.acc with queues := [{ queue := 255, owner := 0, next := 1, mailbox := 0, viaLighter := false }] } }
/-- An ACTIVE charter; an extent of charter 1 on a module of device 0; a domain of devices 0 and 1. -/
def charter1 : Charter :=
  { state := 1, confidential := false, epoch := 0, rotating := false, slot0 := 0, slot1 := 0, createdTide := 0 }
def charter2 : Charter := { charter1 with confidential := true, slot0 := 1 }
def ent (home : Nat) : Entry :=
  { baseFpa := 0, sizeCode := 0, tier := 2, cls := 2, redundancy := 0, charter := 1, ownerHost := 0, generation := 0,
    keyEpoch := 0, state := 0, compressed := false, readOnly := false, shadowLink := false, memberPerm := 7,
    homeDevice := home, shadowEntry := 0, objectId := 0, reserved := 0 }
def mapped (home : Nat) : Entry := { ent home with generation := 1, state := 1 }
def win0 : Window := { enable := true, sizeCode := 0, firstEntry := 0, entryCount := 1 }
def domain : State :=
  { up with man := { up.man with
      comp := { members := [0, 1], sites := [(0, 0), (1, 1)], buddies := [], releases := [], confidential := [] },
      charters := [(1, charter1), (2, charter2)] } }
/-- The same with entry 0 mapped at a home and window 0 of charter 1 over it. -/
def extent (e : Entry) : State := { domain with man := { domain.man with entries := [(0, e)], windows := [(8, win0)] } }
def member (t st : Nat) : GroupMember := { device := 0, tray := t, module := 0, state := st }
/-- A group in mode M2 whose second member has a state, unformatted. -/
def mirror (st : Nat) : Group :=
  { groupId := 4095, mode := 1, memberBytes := 65536, formatLimit := 0, anchor := 0, members := [member 0 0, member 1 st],
    formatting := none, rebuildRate := 0, reserved := 0 }
def grouped (g : Group) : State := { domain with man := { domain.man with groups := [(g.groupId, g)] } }
/-- The other bank holds an image of release 0. -/
def banked : State :=
  { domain with hm := { domain.hm with banks := [(1, { commitCount := 1, image := zeros 64, valid := true })] } }
/-- An extent of a read-only object at device 1. -/
def objectAt1 : State := extent { mapped 1 with cls := 3, readOnly := true, memberPerm := 1, objectId := 9 }
/-- A notice of device 1 for boundary 16, and the device at that boundary. -/
def noticed (c : Change) (ok : Bool) (s : State) : State :=
  { s with man := { s.man with notices := [{ id := ⟨1, 0⟩, change := c, atTide := 16, committed := ok, ready := true }] },
           tide := { s.tide with count := 16, locked := true } }
/-- The same with a route map of two tides' age, and a Manifest fetched for boundary 4 that waits. -/
def youngRoute : State :=
  let s := noticed (.tideLength 4) false domain
  { s with man := { s.man with routeSince := 14 } }
def fetched (n : Nat) : State :=
  let s := extent (mapped 1)
  { s with tide := { s.tide with count := n }, man := { s.man with sync := some {
      hdr := hx, boundary := 4, entries := [(0, mapped 1)], windows := [(8, win0)], route := ⟨[], [], []⟩, routeEpoch := 1 } } }
def theNotice (c : Change) (ok : Bool) : Notice := { id := ⟨1, 0⟩, change := c, atTide := 16, committed := ok, ready := true }
/-- A change of the tide length that this device issues, stored and waiting for device 1. -/
def issuing : Issued :=
  { number := 0, hdr := some hx, command := 0x0B01, change := .tideLength 2, atTide := 16, awaiting := [1], committed := false,
    applied := false, reports := [], endAt := none, tally := [], outcome := none }
def ownNotice : Notice := { id := ⟨0, 0⟩, change := .tideLength 2, atTide := 16, committed := false, ready := true }
def issuer (n : Nat) : State :=
  { domain with man := { domain.man with issued := [issuing], notices := [ownNotice] },
                tide := { domain.tide with count := n } }
/-- A copy job of this device in job queue 255, accepted. -/
def jhdr : JobHdr := { hdr := hx, seq := 1, queue := 255, owner := 0 }
def copyDesc : CopyDesc := copyOf []
def job (d : JobDesc) (p : JobSt) (f : JobPhase) : Job :=
  { newJob 0 0 cmdCopy 0 jhdr d [] with phase := f, st := p }
def copyJob (f : JobPhase) : Job := job (.copy copyDesc) (.copy ⟨0, 0⟩) f
def withJob (j : Job) (s : State) : State := { s with acc := { s.acc with jobs := [j] } }
/-- Stage with a member list, a schema of one field, a layer table of one layer and a list of one result, beside a read-only
object of charter 1 in pool, job queue 255 and a multicast group. -/
def jobsUp : State :=
  { objectAt1 with
      man := { objectAt1.man with members := [(1, [5])], route := ⟨[], [], [(0, ⟨[0], []⟩)]⟩ },
      acc := { objectAt1.acc with queues := queued.acc.queues },
      stage := mwrite (mwrite (mwrite (mwrite [] 0 (le 2 5)) 0x1000 (le 3 0x010004 ++ zeros 15 ++ [1#8]))
        0x2000 (zeros 32 ++ le 4 64)) 0x3000 (le 8 0x4000) }
def queue255 : JobQueue := { queue := 255, owner := 0, next := 1, mailbox := 0, viaLighter := false }
def craneDesc : CraneDesc :=
  { craneOf [] with collective := 1, op := 1, charter := 1, memberCount := 1, elementCount := 1024 }
def stevDesc : StevDesc :=
  { stevOf [] with op := 1, idxFormat := 1, engines := 1, charter := 1, rowSize := 4, indexCount := 1, rowCount := 1,
                   srcAddr := 0x100, dstAddr := 0x200 }
def scanDesc : CustDesc :=
  { custOf [] with op := 1, engines := 1, charter := 1, rowCount := 1, schemaAddr := 0x1000, storeAddr := 0x5000,
                   outAddr := 0x6000, outCapacity := 1, workBase := 0x7000 }
def scoreDesc : CustDesc :=
  { custOf [] with op := 2, engines := 1, charter := 1, rowCount := 1, metric := 1, batch := 1, k := 1, vecFormat := 1,
                   dim := 32, stride := 16384, storeAddr := 0x8000, queryAddr := 0x10000, outAddr := 0x20000 }
def mergeDesc : CustDesc :=
  { custOf [] with op := 3, engines := 1, charter := 1, metric := 1, batch := 1, k := 1, listCount := 1, listAddr := 0x3000,
                   outAddr := 0x20000 }
def encodeDesc : CodecDesc :=
  { codecOf [] with op := 1, elemWidth := 1, modeMask := 7, engines := 1, charter := 1, rawBytes := 64, rawAddr := 0x10000,
                    indexAddr := 0x20000, payloadBase := 0x30000 }
def decodeDesc : CodecDesc := { encodeDesc with op := 2, elemWidth := 0 }
def streamDesc : StreamDesc :=
  { streamOf [] with windowLayers := 2, charter := 1, layerCount := 1, leadTides := 1, passTides := 1, passCount := 1,
                     layerTable := 0x2000, windowBase := 0x10000, slotBytes := 64 }
def placeDesc : PlaceDesc :=
  { tier := 1, charter := 1, objectId := 9, srcVa := 0, bytes := 65536, stageAddr := 0x10000 }
def copyStage : CopyDesc := { copyOf [] with charter := 1, bytes := 64, dstAddr := 64 }
/-- A schedule that runs, its layer table in hand. -/
def streamSt : StreamSt :=
  { pass := 0, layer := 0, forms := [], delivery := none, earliest := 0, asked := 0, full := 0, shadows := 0, late := 0,
    poisoned := 0, abandoned := 0 }
def schedule (p : StreamSt) : Job :=
  { job (.stream streamDesc) (.stream p) .running with attach := mread jobsUp.stage 0x2000 64 }
def copyT1 : TierCopy :=
  { objectId := 9, charter := 1, srcVa := 0, stageAddr := 0x10000, bytes := 65536, sources := [(0, 1)], job := 0,
    usable := true }
def copied : State := { up with copies := [copyT1] }
def copyUsed : State := { withJob (schedule streamSt) jobsUp with copies := [copyT1] }
/-- An image of program 1 of 64 bytes, staged as one block, by devices 0 and 1. -/
def image1 : Bytes := zeros 8 ++ le 4 1 ++ zeros 52
def stagedAt (n : Nat) : State :=
  { domain with tide := { domain.tide with count := n }, hm := { domain.hm with staged := [(1, [(0, image1)], 0)] } }
def enrolled : State := { up with hm := { up.hm with keys := [(7, zeros 97)] } }
def fwStaged (n : Nat) : State :=
  { up with tide := { up.tide with count := n }, hm := { up.hm with fwStage := some ([(0, image1)], 0) } }
/-- A Crane program of one END for format 0, enrolled in key slot 0, as signed by its last 96 bytes; held, and asked for by a job. -/
def prog1 : Bytes :=
  le 4 0x4C5A4F50 ++ le 2 1 ++ le 2 0x0101 ++ le 4 1 ++ le 2 1 ++ zeros 6 ++ le 4 424 ++ zeros 40 ++
    (le 4 1 ++ le 2 0 ++ le 2 0xFFFF ++ zeros 24) ++ zeros 224 ++ le 8 (0x62 <<< 56 + 7 <<< 53) ++ zeros 96
def signedAt : State :=
  { domain with hm := { domain.hm with staged := [(1, [(0, prog1)], 0)], keys := [(0, zeros 97)] } }
def holding (l : List Nat) : State :=
  { up with hm := { up.hm with programs := [(1, { image := image1, measurement := zeros 48, devices := l })] } }
def holdingBusy : State := withJob (job (.crane { craneDesc with flags := 1, programId := 1 }) (.copy ⟨0, 0⟩) .running) (holding [0])
def waitsFor (l : List Nat) : Commit :=
  { hdr := hx, id := 1, awaiting := l, first := none, done := [], stage := 1, named := [], holders := [], image := [] }
def atStage (n : Nat) (l named : List Nat) : Commit := { waitsFor l with stage := n, named := named, image := image1 }
def committing (n : Nat) (l named : List Nat) : State := { up with hm := { up.hm with commits := [atStage n l named] } }
def fwCommitting (l : List Nat) : State := { up with hm := { up.hm with fwCommit := some (waitsFor l) } }
/-- Firmware that is alive, that is down, and that has a step of its first start left. -/
def aliveFw : State := { up with hm := { up.hm with alive := true } }
def fwDown : State := { up with hm := { up.hm with fwReady := false } }
def stepsLeft (l : List Nat) : State := { up with hm := { up.hm with fwSteps := l, fwPendingRaised := true } }
/-- The largest declaration of R460, under which 60 V permit a write. -/
def declared (s : State) : State := { s with isl := { s.isl with decl := some (10000000, 1000, 0, 0, 0) } }
def activating : Issued := { issuing with change := .fwActivate 3 0, applied := true, awaiting := [0, 1] }
def activated : State := { up with man := { up.man with issued := [activating] } }
/-- A flush for a hold-up fail under way, and a core held in reset by a warm reset, and by a fault. -/
def flushing : State := { up with acc := { up.acc with flush := some (true, []), flushMode := true, flushFor := [.powerFail] } }
def warm : State := { up with isl := { up.isl with resetState := .warm } }
def held : State := { down with isl := { down.isl with held := true } }
/-- A buffer operation runs in the lifeboat, a charter stands, and no charter does. -/
def lbRuns3 : State := { up with isl := { up.isl with lbRuns := [⟨3, .window, 1, 0⟩] } }
def capped : State := { up with hm := { up.hm with capped := true } }
def hotFw : State := { up with hm := { up.hm with hot := true } }
def sampled : State := { up with hm := { up.hm with powerSum := (1, 1) } }
/-- A declaration of R460 at the least values, with its CRC. -/
def declBytes : Bytes := le 4 1000 ++ le 2 1000 ++ zeros 54 ++ le 4 (crc32c (le 4 1000 ++ le 2 1000 ++ zeros 54))
/-- A device on the ring, device 0 its own master or device 1 the master, in and out of lock. -/
def ringed (m : Nat) : State :=
  { domain with isl := { domain.isl with bypass := .open },
                tide := { domain.tide with master := m, hasMaster := true, sites := 2, followed := true, locked := true } }
def marked : State := { ringed 1 with tide := { (ringed 1).tide with eastMark := some 1 } }
def lateBook : State := { up with engines := [(0, { engine0 with late := true })] }
def unlockedRing : State := { ringed 1 with tide := { (ringed 1).tide with followed := false, locked := false } }
def missed (n : Nat) : State := { ringed 1 with tide := { (ringed 1).tide with missed := n } }
def takingOver (b : Nat) : State := { ringed 0 with tide := { (ringed 0).tide with takeover := some b } }
def bypassed (b : Bypass) (g : Option Nat) : State :=
  { ringed 1 with isl := { (ringed 1).isl with bypass := b, granted := g } }
def broken : State := { ringed 0 with ring := { up.ring with broken := some 1 } }
def restoring (b : Nat) : State := { broken with ring := { broken.ring with restoreAt := some b } }
def splice1 : SpliceReq := { site := 1, leave := true, tide := 0 }
def splicing : State := { ringed 0 with ring := { up.ring with splices := [splice1] } }
/-- Book 0 lowered, its overruns 64 tides back. -/
def lowered : State :=
  { up with tide := { up.tide with count := 64 }, engines := [(0, { engine0 with overruns := [0], lowered := true })] }
/-- A slot of a number, a kind and an owner with a message, its CRCs right, and one with a bad header. -/
def slotAt (n kind owner : Nat) (p : SlotMsg) : RingSlot :=
  let w := n <<< 112 + kind <<< 108 + owner <<< 102
  let t := answerCrc (zeros 256) 0
  { east := true, header := BitVec.ofNat 128 (w + headerCrc w), trailer := BitVec.ofNat 128 t, answers := zeros 256,
    block := ringBlock p 0 }
def slotWith (kind owner : Nat) (p : SlotMsg) : RingSlot := slotAt 0 kind owner p
def badSlot : RingSlot := { slotWith 0 0 .empty with header := 1 }
def restoreMsg : SlotMsg := .control 1 9 ctlRestore [4]
def handledRing : State := { ringed 1 with ring := { up.ring with handled := [(1, 9)] } }
def grantMsg : SlotMsg := .control 1 9 ctlSpliceGrant [0, 0, 5]
def laterRing : State := { ringed 1 with man := { (ringed 1).man with compEpoch := 5 } }
def snoop1 : SnoopReq := { line := 0, kind := 1, requester := 1, snoopId := 1, generation := 0, entry := 0, targets := [1] }
def waitingTx : RingTx := { east := true, dest := none, at_ := 0, msg := .control 0 1 ctlRestore [4], slot := none, reissues := 0, routeEpoch := 0, compEpoch := 0 }
def sendingRing : State := { ringed 1 with ring := { up.ring with tx := [waitingTx] } }
/-- A read of device 1's memory in a link block, that came over the ring to a device with a route to it. -/
def reqBytes : Bytes := le 32 (1 <<< 86) ++ zeros 464
def reqHead : Bytes := le 12 (1 <<< 92 + 1 <<< 26) ++ reqBytes
def reqBlock : Bytes := reqHead ++ le 4 (crc32c reqHead)
def sentTx : RingTx := { waitingTx with slot := some 0 }
def sentRing : State := { ringed 1 with ring := { up.ring with tx := [sentTx] } }
def markingRing : State := { ringed 0 with ring := { up.ring with markEast := true } }
def dataSlot : RingSlot := { slotWith 5 1 .empty with block := reqBlock }
def loneCore : State :=
  { bypassed .releasing none with tide := { (bypassed .releasing none).tide with hasMaster := false, followed := false } }
/-- A device with a route to device 1. -/
def routed : State :=
  { ringed 1 with man := { (ringed 1).man with route := ⟨[(1, [0])], [], []⟩ }, ports := { up.ports with ctxs := [(0, ctx0 3 0), (256, khlReset)] } }
def ident2 : Ident := { partClass := 2, partCode := 0, role := 0, widths := 0, deviceId := 1, coherent := false, refuse := false }
/-- Host 5, a member of charter 1 and coherent, beside an extent at this home or another. -/
def hosted (e : Entry) (coherent : Bool) : State :=
  { extent e with man := { (extent e).man with members := [(1, [5])] },
                  ports := { up.ports with ctxs := [(0, { ctx0 1 5 with coherent := coherent }), (256, khlReset)] } }
def wideOpen (e : Entry) : Entry := { e with memberPerm := 7 }
def hostRead : HostReq :=
  { ctx := 0, tag := 3, charter := 1, address := 0, length := 64, tclass := 0, sealWindow := 0, aux := 0, payload := [] }
def hostAcq : HostReq := { hostRead with aux := 1, payload := zeros 8 }
def hostSeal : HostReq := { hostRead with length := 16, payload := zeros 16 }
def hostAtomic : HostReq := { hostRead with length := 4, aux := 0, payload := zeros 4 }
def hostRange : HostReq := { hostRead with length := 1, aux := 1 }
def cline : CacheLine := { entry := 0, charter := 1, generation := 1, filled := 0, cls := 2, data := zeros 64 }
def cachedHost : State := { hosted (mapped 1) false with ing := { up.ing with cache := [(0, cline)] } }
def coherentEntry : Entry := { mapped 1 with cls := 1 }
def filtered (st : Nat) (holders : List Nat) (recalls : List (Nat × Bool × Nat)) : FilterEnt :=
  { line := 0, entry := 0, generation := 1, charter := 1, home := 1, vas := [], state := st, holders := holders, vector := 0,
    cached := false, owed := none, lost := false,
    asking := none, releasing := none, recalls := recalls, dirty := none }
def filterHost (f : FilterEnt) : State :=
  { hosted coherentEntry true with ing := { up.ing with filter := [f] } }
/-- A fabric request of device 1's host 64 for the granule at address 0 of entry 0, and its job's key. -/
def fab (op : Nat) : FabReq :=
  { opcode := op, length := 64, charter := 1, srcEngine := false, source := 64, tag := 3, address := 0, entry := 0,
    generation := 1, routeEpoch := 0, home := 0, tclass := 0, sealWindow := 0, jobValid := false, jobDevice := 0, jobSlot := 0,
    attempt := 0, parts := 1, aux := 0, payload := zeros 64 }
def dirEnt (st : Nat) (l : List Nat) (busy : Bool) : DirEnt :=
  { line := 0, entry := 0, generation := 1, ent := { coherentEntry with homeDevice := 0 }, state := st, presence := l, busy := busy, donePending := 0 }
def homeC : State := extent { coherentEntry with homeDevice := 0 }
def dirAt (d : DirEnt) (dead : List Nat) : State := { homeC with home := { up.home with dir := [d], dead := dead } }
def round1 (l : List Nat) : Round :=
  { snoopId := 7, line := 0, kind := 1, requester := 3, ask := l, awaiting := [], retries := 14, early := [], data := none,
    lost := false, granule := none, drain := none }
def rounding (l : List Nat) (dead : List Nat) : State := { homeC with home := { up.home with rounds := [round1 l], dead := dead } }
def homeAt : State := extent (mapped 0)
def fenced (a : Nat) : State := { homeAt with home := { up.home with fences := [(0, a)] } }
def access1 : Access := { id := 1, req := fab 1, lo := 0, len := 64, skip := 0, drain := false, ent := mapped 0 }
def queueing : State := { homeAt with home := { up.home with queues := [(0, { queue := [access1], batch := none })] } }
def batch1 : Batch := { newStep 0 (0, 0) [access1] with stage := 2 }
def tray (id : Nat) : TrayReq :=
  { id := id, device := 0, tray := 0, module := 0, offset := 0, write := false, key := 0, cell := id, since := 0, late := false }
def batching (l : List TrayReq) : State :=
  { homeAt with home := { up.home with queues := [(0, { queue := [], batch := some batch1 })], trays := l } }
/-- A span to device 1 in a state of its training, and one that is up with a cell kept. -/
def trained (t : Train) : PortCtx := { ctx0 3 0 with train := t }
def measured (n : Nat) : PortCtx := { trained .measure with pings := List.replicate n 6000 }
def mirrorMeasured : PortCtx := { ctx0 4 0 with train := .measure, pings := List.replicate 15 6001 }
def span1 : Ident := { partClass := 1, partCode := 0, role := 3, widths := 4, deviceId := 1, coherent := false, refuse := false }
def cell1 : Cell :=
  { id := 0, ingress := 130, ctx := 0, queue := 24, voqSeq := 0, pool := 2, tclass := 0,
    items := [{ bytes := zeros 32, opcode := 0, charter := none, source := 0, home := 1 }], channel := 0, first := true, last := true,
    itemKind := 1, place := 0, eligible := true, since := 0, era := 0, group := none, origin := none, cutThrough := false }
def keeping : PortCtx := { ctx0 3 0 with nextTx := 1, kept := [(0, cell1)], rxCredit := [64, 64, 64] }
def tired : PortCtx := { keeping with resends := 8 }
/-- A request of this device's own memory in the next block of context 0, and the same with a bad CRC. -/
def ownHead : Bytes := le 12 (1 <<< 92 + 4095 <<< 68 + 1 <<< 26) ++ zeros 496
def ownBlock : Bytes := ownHead ++ le 4 (crc32c ownHead)
def badBlock : Bytes := ownHead ++ le 4 ((crc32c ownHead + 1) % 2 ^ 32)
/-- A span that is down since tide 0, with another span to the same device. -/
def lostSpan : PortCtx := { keeping with train := .down, spanWait := some 0, partner := some span1 }
def spans (c : PortCtx) (m n : Nat) : State :=
  { ringed m with tide := { (ringed m).tide with count := n },
                  man := { (ringed m).man with route := ⟨[(1, [0, 1])], [], []⟩ },
                  ports := { up.ports with ctxs := [(0, c), (1, { ctx0 3 0 with berth := 1 }), (256, khlReset)] } }
/-- A codec on context 0 with an item gathered, and a frame of one item sent. -/
def gathered (wait : Nat) : LinkCodec :=
  { classMask := 1, elemWidth := 1, maxWait := wait, gather := [(1, 0, { bytes := zeros 32, opcode := 0, charter := none, source := 0, home := 1 })],
    since := 0, nextSeq := 0, closed := [], sent := [], rxSeq := 0, rx := [], closedBase := 0, rxBase := 0 }
def frame1 : Frame := { seq := 4, since := 0, items := [(1, 0, { bytes := zeros 32, opcode := 0, charter := none, source := 0, home := 1 })] }
def waitingFrame : LinkCodec := { gathered 0 with rx := [(zeros 64, [])] }
def sentFrame : LinkCodec := { gathered 0 with gather := [], sent := [frame1] }
def coded (k : LinkCodec) : State :=
  let s := spans (ctx0 3 0) 1 0
  { s with man := { s.man with route := ⟨[(1, [1])], [], []⟩ }, ports := { s.ports with codecs := [(0, k)] } }
/-- A RAW frame of one read of device 1's memory. -/
def framePayload : Bytes := le 8 (1 + 32 <<< 32) ++ le 32 (1 <<< 86)
def frameHdr : Bytes :=
  let b := le 2 0x544B ++ le 3 0x010001 ++ zeros 3 ++ le 4 40 ++ le 4 40 ++ zeros 44
  b ++ le 4 (crc32c b)
/-- A cell that waits in the queue named for its context, a resent cell before it, and a class cut through. -/
def asking : State := { spans (ctx0 3 0) 1 0 with sw := { up.sw with cells := [cell1] }, pilot := { up.pilot with named := [(0, 24)], ks := [(8, 0)] } }
def resending : State := { spans (ctx0 3 0) 1 0 with pilot := { up.pilot with resends := [(0, [cell1])] } }
def cutting : State := { coded (gathered 0) with ports := { (spans (ctx0 3 0) 1 0).ports with codecs := [] }, sw := { up.sw with cut := [0] } }
/-- A Crane job of member 5, attached here, its tile open or not. -/
def tileOpen : Tile := { tile0 with opened := true }
def craneSt (p : Nat) (l : List Nat) : CraneSt :=
  { members := [5], live := [5], parts := [0, p], heard := [], counts := [], excluded := l, firstDead := none, tiles := [(0, tileOpen)], waiting := [], sealedTiles := 0,
    shortTiles := 0, lastUsed := 0, saturated := 0, inOverflow := 0, poisonedTiles := 0, nanOut := 0, discarded := 0 }
def seg (kind sender aux : Nat) : Segment :=
  { kind := kind, jobDevice := 0, jobSlot := 0, attempt := 0, srcDevice := false, sender := sender, tile := 0, aux := aux, members := 1, format := 0,
    poison := false, seqLo := 1, data := zeros 256 }
def shutTile : CraneSt := { craneSt 1 [] with tiles := [], waiting := [seg 0 5 0] }
def noTiles : CraneSt := { craneSt 1 [5] with tiles := [] }
def craneJob (d : CraneDesc) (p : CraneSt) : Job := job (.crane d) (.crane p) .running
def craned (d : CraneDesc) (p : CraneSt) (n : Nat) : State :=
  withJob (craneJob d p) { shore with tide := { shore.tide with count := n } }
def guestJob : Job := { craneJob craneDesc (craneSt 1 []) with guest := some 0 }
def skipping : CraneDesc := { craneDesc with policy := 1 }
def wide : CraneDesc := { craneDesc with tileCode := 10, elementCount := 34603008 }
/-- A device with device 1 for its buddy. -/
def buddied (j : Job) : State := { withJob j domain with acc := { (withJob j domain).acc with buddy := some 1 } }
def copy64 : CopyDesc := { copyOf [] with spaces := 0, bytes := 64, srcAddr := 64 * 0, dstAddr := 64 * 1, charter := 1 }
def copyAt (d : CopyDesc) (n : Nat) : Job := { job (.copy d) (.copy ⟨n, 0⟩) .running with awaitFence := [0] }
def copyRead : Outst :=
  { host := 8192, ctx := 0, tag := 1, tclass := 0, opcode := 1, req := fab 1, sent := true, waits := false, engine := none, since := 0 }
def reading : State := { buddied (copyAt copy64 0) with ing := { up.ing with outst := [copyRead] } }
/-- A schedule whose layer is resident, one that delivers it, and one whose delivery holds poison beside a clean shadow. -/
def sdesc : StreamDesc := { streamDesc with startTide := 2, leadTides := 2, shadowSlotBytes := 64 }
def formThere (shadow : Bool) : FormSt :=
  { g := 0, shadow := shadow, blocks := [{ index := 0, gens := [], bad := false, stored := 64, offset := 0 }], available := true }
def delivering (poison : Bool) : Delivery := { shadow := false, opened := 0, deadline := 3, poison := poison, bytes := zeros 64, poisonAt := if poison then some 0 else none }
def streamOn (p : StreamSt) : Job :=
  { job (.stream sdesc) (.stream p) .running with attach := zeros 32 ++ le 4 64 ++ le 4 64 ++ zeros 24 }
def resident : StreamSt := { streamSt with forms := [formThere false, formThere true] }
def waitingLayer : StreamSt := { streamSt with earliest := 1 }
def sending : StreamSt := { resident with delivery := some (delivering false) }
def spoiled : StreamSt := { resident with delivery := some (delivering true) }
def streaming (p : StreamSt) : State := withJob (streamOn p) jobsUp
def stranded (p : StreamSt) : State := withJob (streamOn p) up
def shadowThere : StreamSt := { streamSt with forms := [formThere true] }
/-- A tray request to this device's module 0 and its timeouts; a group of two members at work. -/
def timedOut (l : List (Nat × Nat)) : State := { up with home := { up.home with trays := [tray 1], timeouts := l } }
def lateTray : TrayReq := { tray 1 with late := true }
def timedOutTwice : State := { up with home := { up.home with trays := [lateTray] } }
def grp (limit : Option Nat) (st : Nat) : Group :=
  { groupId := 4095, mode := 1, memberBytes := 65536, formatLimit := 0, anchor := 0, members := [member 0 0, member 1 st],
    formatting := limit, rebuildRate := 0, reserved := 0 }
def groupHome (g : Group) (h : Home) : State := { grouped g with home := h }
def noticedFail : State := groupHome (mirror 0) { up.home with failNotices := [(0, 0, 0, 1)] }
def formatting (next spent : Nat) : State := groupHome (grp (some 128) 0) { up.home with formats := [(4095, { next := next, spent := spent })] }
def rebuild1 (spent : Nat) (l : List Nat) : Rebuild :=
  { groupId := 4095, member := 1, rate := 1, ranges := [(0, 2, 1)], spent := spent, reported := l, atTide := 0 }
def rebuilding (spent : Nat) (l : List Nat) : State := groupHome (mirror 2) { up.home with rebuilds := [rebuild1 spent l] }
def redundant : Entry := { mapped 0 with redundancy := 1 }
def resyncing (c : Nat) : State :=
  { extent redundant with man := { (extent redundant).man with groups := [(4095, mirror 0)] },
                          home := { up.home with resyncs := [(0, (c, []))] } }
/-- A device at a tide, and the master with device 1 heard of at tide 0. -/
def atTide (n : Nat) (s : State) : State := { s with tide := { s.tide with count := n } }
def hearing (n : Nat) : State := atTide n { ringed 0 with ring := { up.ring with heartbeats := [(1, 0)] } }
/-- Device 1 is lost at boundary 4 with a read of host 5 outstanding to it. -/
def hostOut : Outst := { host := 5, ctx := 0, tag := 1, tclass := 0, opcode := 1, req := { fab 1 with home := 1 }, sent := true, waits := false,
                         engine := none, since := 0 }
def losing (n : Nat) : State :=
  atTide n { domain with ring := { up.ring with losses := [(1, 4)] }, ing := { up.ing with outst := [hostOut] },
                         ports := { up.ports with ctxs := [(0, ctx0 1 5), (256, khlReset)] },
                         man := { domain.man with comp := { domain.man.comp with members := [0, 1, 2] } } }
def deadHost : State := withCtx { ctx0 1 5 with train := .down }
def sealed (n : Nat) : SealWin := { window := 3, landed := 0, refused := 0, held := some (fab 0x12, n), charters := [] }
def sealSrc1 (l : List SealWin) : SealSrc := { newest := 3, wins := l, lastOpened := 0, closed := [] }
def sealing (n : Nat) : State := atTide n { homeAt with home := { up.home with seals := [(64, sealSrc1 [sealed 0])] } }
def forgetting (n : Nat) : State := atTide n { homeAt with home := { up.home with seals := [(64, sealSrc1 [])] } }
def lostOpen : State := { domain with ring := { up.ring with losses := [(0, 4)] }, isl := { up.isl with bypass := .open } }
def lostSelf : State := { domain with ring := { up.ring with losses := [(0, 4)] } }
/-- A record of an offered job, and its message to the buddy; a clear's message. -/
def rec1 (kind : Nat) (replica : Bool) : LogRec :=
  { kind := kind, owner := 0, replica := replica, queue := 255, attempt := 0, seq := 1, jobSlot := 0, command := cmdCopy, tide := 0, logSeq := 5,
    stageBound := false, redelivered := false, queueOwner := 0, body := zeros 64, crcOk := true }
def sends (r : LogRec) : AcceptTx := { msgId := 3, dest := 1, clear := none, record := some r, sync := true, resends := 0, sentTide := 0 }
def clears (n : Nat) : AcceptTx := { msgId := 3, dest := 1, clear := some (0, 0), record := none, sync := false, resends := n, sentTide := 0 }
def awaiting (x : AcceptTx) (n : Nat) : State := atTide n { domain with acc := { up.acc with tx := [x] } }
def offered : Job := copyJob .offered
def retiring (l : List Nat) : Job := { copyJob .retiring with clears := l }
def logged (l : List LogRec) : State := { ringed 1 with acc := { up.acc with log := l } }
/-- A sweep of charter 2's pages, or of its removal, on a device that holds an old page of it. -/
def sweep2 (credit : Nat) (removal : Bool) (e : Option Nat) : Sweep :=
  { charter := 2, rate := 0, credit := credit, poisoned := 0, refused := 0, stopped := 0, reported := true, removal := removal, endAt := e }
def entry2 : Entry := { mapped 0 with charter := 2 }
def sweeping (x : Sweep) (n : Nat) : State :=
  let s := extent entry2
  atTide n { s with man := { s.man with charters := [(1, charter1), (2, { charter2 with epoch := 1, rotating := true })] },
                    home := { up.home with pages := [(0, 8)] }, sec := { up.sec with sweeps := [x], stagePages := [(7, (2, 0))] } }
def rotating2 (l : List Nat) : Issued :=
  { issuing with change := .charterRotate 2 0 [], applied := true, awaiting := l, tally := [1, 2, 3] }
def revoking : Issued := { rotating2 [1] with change := .charterRevoke 2 }
def issued1 (i : Issued) : State := { domain with man := { domain.man with issued := [i] } }
def comp012 : Composition :=
  { members := [0, 1, 2], sites := [(0, 0), (1, 1), (2, 2)], buddies := [], releases := [], confidential := [] }
def admitting : Notice := { theNotice (.composition comp012 ⟨[], [], []⟩) false with ready := false }
def agreeing : State := { domain with man := { domain.man with notices := [admitting] } }
def pageWaiting : State := { homeAt with home := { up.home with pageWait := [0] } }
/-- A device due to enter the confidential mode, a bound lighter with a session open, and a handshake. -/
def entering (n : Nat) : State := atTide n { up with sec := { up.sec with enterAt := some (1, hl) } }
def session1 (o : Bool) : Session := { id := 9, open_ := o, secret := zeros 48 }
def lighter1 (b : Bool) : Lighter := { lighter0 with enable := true, inTail := 2, session := 9, bound := b }
def lit1 (x : Lighter) : State := { up with sec := { up.sec with lighters := [(15, x)], sessions := [session1 true] } }
/-- A record that holds MBOX.NOP. -/
def nopRecord : Bytes := le 4 0x01000001 ++ le 4 7 ++ zeros 24
def shaking : State := { up with sec := { up.sec with sessions := [session1 false] } }
def homeReq1 : HomeReq := { id := 1, req := fab 1, left := 1, worst := 0, code := 0, codeAt := 0, data := [] }
def doneBatch : Batch := { batch1 with outcomes := [(1, 0, 0, zeros 64)] }
def doneHome : State :=
  { homeAt with home := { up.home with queues := [(0, { queue := [], batch := some doneBatch })], reqs := [homeReq1] } }
/-- A response to host 5's request with tag 1, and that request outstanding. -/
def respOf (op : Nat) (engine : Bool) (dest : Nat) : Resp :=
  { opcode := op, dstEngine := engine, destination := dest, tag := 1, reason := 0, ll := 0, responder := 1, parts := 1, aux := 0, data := zeros 64 }
def outShore : State := { shore with ing := { up.ing with outst := [hostOut] } }
/-- Empty operands. -/
def noModes : List (Nat × Nat) := []
def noBytes : Bytes := []
def noSubs : List (Nat × List Nat × Nat) := []

/-! ### CRCs of whole blocks, by their definition rather than by evaluation. -/

theorem crcBit_lt (c : Nat) (h : c < 2 ^ 32) : crcBit c < 2 ^ 32 := by
  unfold crcBit
  split
  · exact Nat.xor_lt_two_pow (by omega) (by decide)
  · omega

theorem crc32c_lt (b : Bytes) : crc32c b < 2 ^ 32 := by
  have h : ∀ (l : Bytes) (c : Nat), c < 2 ^ 32 → l.foldl (fun c x =>
      crcBit (crcBit (crcBit (crcBit (crcBit (crcBit (crcBit (crcBit (Nat.xor c x.toNat))))))))) c < 2 ^ 32 := by
    intro l
    induction l with
    | nil => exact fun c h => h
    | cons x l ih =>
      intro c hc
      refine ih _ ?_
      iterate 8 apply crcBit_lt
      exact Nat.xor_lt_two_pow hc (by omega)
  exact Nat.xor_lt_two_pow (by decide) (h b _ (by decide))

theorem unle_le4 (c : Nat) (h : c < 2 ^ 32) : unle (le 4 c) = c := by
  simp only [le, unle, BitVec.toNat_ofNat]
  omega

/-- The last four bytes of a block of 512. -/
theorem fld_tail (x : Bytes) (c : Nat) (hx : x.length = 508) (h : c < 2 ^ 32) : fld (x ++ le 4 c) 508 4 = c := by
  have : slice (x ++ le 4 c) 508 4 = le 4 c := by
    simp [slice, hx, le, zeros]
  rw [fld, this, unle_le4 c h]

theorem linkCrcOk_tail (x : Bytes) (hx : x.length = 508) : linkCrcOk (x ++ le 4 (crc32c x)) = true := by
  have h4 : (le 4 (crc32c x)).length = 4 := rfl
  simp [linkCrcOk, hx, h4, fld_tail x _ hx (crc32c_lt x)]

theorem linkCrcOk_wrong (x : Bytes) (hx : x.length = 508) : linkCrcOk (x ++ le 4 ((crc32c x + 1) % 2 ^ 32)) = false := by
  have h := crc32c_lt x
  have e : List.take 508 x = x := by rw [← hx]; exact List.take_length
  have h4 : (le 4 ((crc32c x + 1) % 2 ^ 32)).length = 4 := rfl
  simp only [linkCrcOk, fld_tail x _ hx (Nat.mod_lt _ (by decide)), decide_eq_false_iff_not, List.take_append, e, hx]
  simp
  omega

theorem answersOk_trailer (x : RingSlot) (c : Nat) (hc : c = crc32c (fit 256 x.answers ++ le 12 0))
    (ht : x.trailer = BitVec.ofNat 128 c) : answersOk x = true := by
  have h : c < 2 ^ 32 := hc ▸ crc32c_lt _
  have d : c / 2 ^ 32 = 0 := Nat.div_eq_of_lt h
  have t : x.trailer.toNat = c := by rw [ht, BitVec.toNat_ofNat]; omega
  rw [answersOk, t, decide_eq_true_iff, answerCrc, d, ← hc, bits]
  simp only [Nat.pow_zero, Nat.div_one]
  exact Nat.mod_eq_of_lt h

theorem answersOk_slotAt (n kind owner : Nat) (p : SlotMsg) : answersOk (slotAt n kind owner p) = true :=
  answersOk_trailer _ (answerCrc (zeros 256) 0) (by rw [answerCrc, Nat.zero_div]; rfl) rfl

theorem fit_length (n : Nat) (b : Bytes) : (fit n b).length = n := by
  simp only [fit, slice, zeros, List.length_append, List.length_replicate, List.length_take, List.length_drop]
  omega

theorem linkCrcOk_linkBlock (k q a u : Nat) (r : Bool) (p : Bytes) : linkCrcOk (linkBlock k q a u r p) = true :=
  linkCrcOk_tail _ (by rw [List.length_append, fit_length]; rfl)

theorem payloadOk_slotWith : payloadOk (slotWith 3 1 grantMsg) = true ∧ payloadOk (slotWith 3 1 restoreMsg) = true ∧
    payloadOk (slotWith 1 1 (.snoop [snoop1])) = true :=
  ⟨linkCrcOk_linkBlock .., linkCrcOk_linkBlock .., linkCrcOk_linkBlock ..⟩

theorem answersOk_slotWith : answersOk (slotWith 1 1 (.snoop [snoop1])) = true := answersOk_slotAt ..

theorem linkCrcOk_blocks : linkCrcOk reqBlock = true ∧ linkCrcOk ownBlock = true ∧ linkCrcOk badBlock = false :=
  ⟨linkCrcOk_tail reqHead (by decide +kernel), linkCrcOk_tail ownHead (by decide +kernel), linkCrcOk_wrong ownHead (by decide +kernel)⟩

theorem payloadOk_dataSlot : payloadOk dataSlot = true := linkCrcOk_blocks.1

/-- States and operands that meet the hypotheses of EmptyQueueIdles, clause by clause. -/
theorem test_met_EmptyQueueIdles :
    up.pending = [] := by
  decide +kernel

/-- States and operands that meet the hypotheses of StepKeepsMemories, clause by clause. -/
theorem test_met_StepKeepsMemories :
    memoriesWf up := by
  decide +kernel

/-- States and operands that meet the hypotheses of OnlyColdResetClearsLatch, clause by clause. -/
theorem test_met_OnlyColdResetClearsLatch :
    upLatched.sec.latch = true := by
  decide +kernel

/-- States and operands that meet the hypotheses of NopIsAnswered, clause by clause. -/
theorem test_met_NopIsAnswered :
    (fwRuns up = true ∧ locked up = false ∧ hx.viaLighter = false ∧ Memory.wf up.mbox ∧ cplUsed (boxOf hx.mailbox up) + 1 ≤
      1024) := by
  (repeat' apply And.intro) <;> decide +kernel

/-- States and operands that meet the hypotheses of CommandsAreTaken, clause by clause. -/
theorem test_met_CommandsAreTaken :
    (fwRuns padBox = true ∧ (0 < 16 ∧ locked padBox = false ∧ (headHdr 0 padBox).command = 0 ∧ 0 < dist32 (boxOf 0
      padBox).cmdTail (boxOf 0 padBox).cmdHead ∧ headUnits 0 padBox ≤ dist32 (boxOf 0 padBox).cmdTail (boxOf 0
      padBox).cmdHead)) ∧
    (fwRuns nopBox = true ∧ (rotating nopBox.hm.boxPtr (List.filter (fun k => canTake k nopBox) (List.range 16)) = some 0 ∧
      (headHdr 0 nopBox).command ≠ 0 ∧ headerCode (headHdr 0 nopBox) (headBody 0 nopBox) (boxOf 0 nopBox).cmdHead = 0)) := by
  (repeat' apply And.intro) <;> decide +kernel

/-- States and operands that meet the hypotheses of MailboxDoorbells, clause by clause. -/
theorem test_met_MailboxDoorbells :
    (coreRuns up = true ∧ 15 < 16 ∧ locked up = false ∧ dist32 1024 (boxOf 15 up).cmdHead ≤ 1024 ∧ dist32 (boxOf 15
      up).cmdTail (boxOf 15 up).cmdHead ≤ dist32 1024 (boxOf 15 up).cmdHead) ∧
    (1024 < dist32 1025 (boxOf 15 up).cmdHead ∨ dist32 1025 (boxOf 15 up).cmdHead < dist32 (boxOf 15 up).cmdTail (boxOf 15
      up).cmdHead) ∧
    (coreRuns postedBox = true ∧ 0 < 16 ∧ locked postedBox = false ∧ (boxOf 0 postedBox).posted = [] ∧ (boxOf 0
      postedBox).waiting = [] ∧ dist32 1 (boxOf 0 postedBox).cplHead ≤ dist32 (boxOf 0 postedBox).cplTail (boxOf 0
      postedBox).cplHead) ∧
    dist32 (boxOf 0 postedBox).cplTail (boxOf 0 postedBox).cplHead < dist32 2 (boxOf 0 postedBox).cplHead ∧
    (coreRuns upLatched = true ∧ locked upLatched = true) ∧
    (coreRuns State.reset = true ∧ fwRuns State.reset = false ∧ inRecovery State.reset = false) ∧
    (coreRuns nopBox = true ∧ fwRuns nopBox = true ∧ rotating nopBox.hm.boxPtr (List.filter (fun k => canTake k nopBox)
      (List.range 16)) = some 0 ∧ (headHdr 0 nopBox).command ≠ 0 ∧ headerCode (headHdr 0 nopBox) (headBody 0 nopBox) (boxOf 0
      nopBox).cmdHead = 0) := by
  (repeat' apply And.intro) <;> decide +kernel

/-- States and operands that meet the hypotheses of EventAndReasonRegisters, clause by clause. -/
theorem test_met_EventAndReasonRegisters :
    (coreRuns up = true ∧ locked up = false ∧ dist32 0 up.tel.evHead ≤ dist32 up.tel.evTail up.tel.evHead ∧ up.tel.evGap =
      0) ∧
    dist32 up.tel.evTail up.tel.evHead < dist32 1 up.tel.evHead ∧
    (coreRuns upLatched = true ∧ locked upLatched = true) ∧
    20 ≤ 20 := by
  (repeat' apply And.intro) <;> decide +kernel

/-- States and operands that meet the hypotheses of LighterRegisters, clause by clause. -/
theorem test_met_LighterRegisters :
    (coreRuns up = true ∧ 15 < 16 ∧ (lighterOf 15 up).enable = false ∧ bit (16#32).toNat 4 = true ∧ (16#32).toNat % 16 ≤ 8 ∧
      (lighterOf 15 up).base + 2 * (16384 * 2 ^ ((16#32).toNat % 16)) ≤ 2 ^ 64 ∧ lighterOverlap 15
      { base := (lighterOf 15 up).base, ltSignal := bit (16#32).toNat 5, enable := (lighterOf 15 up).enable, sizeCode := (16#32).toNat % 16, inTail := (lighterOf 15 up).inTail, inHead := (lighterOf 15 up).inHead, outTail := (lighterOf 15 up).outTail, outHead := (lighterOf 15 up).outHead, session := (lighterOf 15 up).session, reason := (lighterOf 15 up).reason, fault := (lighterOf 15 up).fault, bound := (lighterOf 15 up).bound, inCounter := (lighterOf 15 up).inCounter, outCounter := (lighterOf 15 up).outCounter, failures := (lighterOf 15 up).failures : Lighter }
      up = false) ∧
    (coreRuns lightOn = true ∧ 0 < 16 ∧ (lighterOf 0 lightOn).enable = true ∧ bit (0#32).toNat 4 = false) ∧
    (dist32 256 (lighterOf 0 lightOn).inHead ≤ ringBytes (lighterOf 0 lightOn) / 64 ∧ dist32 (lighterOf 0 lightOn).inTail
      (lighterOf 0 lightOn).inHead ≤ dist32 256 (lighterOf 0 lightOn).inHead) ∧
    dist32 0 (lighterOf 0 lightOn).outHead ≤ dist32 (lighterOf 0 lightOn).outTail (lighterOf 0 lightOn).outHead := by
  (repeat' apply And.intro) <;> decide +kernel

/-- States and operands that meet the hypotheses of RegisterWrites, clause by clause. -/
theorem test_met_RegisterWrites :
    (coreRuns up = true ∧ 0 < 16 ∧ locked up = false ∧ dist32 ((0#64).toNat % 2 ^ 32) (boxOf 0 up).cmdHead ≤ 1024 ∧ dist32
      (boxOf 0 up).cmdTail (boxOf 0 up).cmdHead ≤ dist32 ((0#64).toNat % 2 ^ 32) (boxOf 0 up).cmdHead ∧ (4 = 4 ∨ 4 = 8)) ∧
    (15 < 16 ∧ (8 = 4 ∨ 8 = 8)) ∧
    (up.tel.evGap = 0 ∧ dist32 ((0#64).toNat % 2 ^ 32) up.tel.evHead ≤ dist32 up.tel.evTail up.tel.evHead) ∧
    (0 % 4 = 0 ∧ 0 < 264) ∧
    (2 ≠ 4 ∧ 2 ≠ 8 ∨ 0 % 2 ≠ 0 ∨ 65536 < 0 + 2) := by
  (repeat' apply And.intro) <;> decide +kernel

/-- States and operands that meet the hypotheses of MailboxSpaceAccess, clause by clause. -/
theorem test_met_MailboxSpaceAccess :
    (coreRuns up = true ∧ Memory.wf up.mbox ∧ mboxFits 0 [1#8].length = true ∧ locked up = false) ∧
    mboxFits 2359040 256 = true ∧
    (coreRuns upLatched = true ∧ Memory.wf upLatched.mbox ∧ locked upLatched = true) ∧
    mboxFits 2359295 2 = false := by
  (repeat' apply And.intro) <;> decide +kernel

/-- States and operands that meet the hypotheses of BerthIsConfigured, clause by clause. -/
theorem test_met_BerthIsConfigured :
    (fwRuns up = true ∧ 127 < 128 ∧ 2 ≤ 2 ∧ (cfg 255 1 4095).contextId < 256 ∧ (cfg 255 1 4095).hostId < 4096 ∧
      ((enabledCtxs up).any fun p => p.2.berth == 127) = false ∧ (cfg 255 1 4095).enable = true ∧ enableCode 2 (cfg 255 1
      4095) up = 0) ∧
    (0 < 128 ∧ 0 ≤ 2 ∧ (cfg 0 0 0).contextId < 256 ∧ (cfg 0 0 0).hostId < 4096 ∧ ((enabledCtxs up).any fun p => p.2.berth ==
      0) = false ∧ (cfg 0 0 0).enable = true ∧ enableCode 0 (cfg 0 0 0) up ≠ 0) := by
  (repeat' apply And.intro) <;> decide +kernel

/-- States and operands that meet the hypotheses of SwitchIsConfigured, clause by clause. -/
theorem test_met_SwitchIsConfigured :
    (fwRuns span = true ∧ ctxAt 0 span = some (ctx0 3 0) ∧ (ctx0 3 0).enable = true ∧ (ctx0 3 0).role = 3 ∧ 65535 < 65536 ∧
      (256 ≤ if hx.expert = true then 256 else 1024) ∧ ((if hx.expert = true then 256 else 1024) ≤ 8192) ∧ ((if hx.expert =
      true then 4 else 2) ∈ [1, 2, 4]) ∧ (hx.expert = false → 4 = 0 ∧ 256 = 0)) ∧
    ((256 ≤ if hb.expert = true then 0 else 1024) ∧ ((if hb.expert = true then 0 else 1024) ≤ 8192) ∧ ((if hb.expert = true
      then 0 else 2) ∈ [1, 2, 4]) ∧ (hb.expert = false → 0 = 0 ∧ 0 = 0)) ∧
    ((∀ m ∈ noModes ++ (15, 1) :: noModes, m.2 ≤ 1 ∧ m.1 ≤ 15) ∧ (∀ m ∈ noModes, m.1 ≠ 15) ∧ ctxExists 256 span = true) ∧
    (([(0, 2)].any fun m => decide (1 < m.2 ∨ 15 < m.1)) = true ∨ ctxExists 0 span = false) ∧
    ((noModes.any fun m => decide (1 < m.2 ∨ 15 < m.1)) = true ∨ ctxExists 1 span = false) ∧
    (fwRuns mirrorPort = true ∧ ctxAt 0 mirrorPort = some (ctx0 4 0) ∧ (ctx0 4 0).enable = true ∧ (ctx0 4 0).role = 4 ∧ 7 ≤
      7 ∧ mirrorSourceOk (MirrorSource.port 256 2) = true ∧ mirrorPort.man.comp.members.length ≤ 8) ∧
    (6 ≤ 20 ∧ 20 ≤ 20 ∧ ctxExists 0 span = true ∧ span.sw.samplers.length < 512) ∧
    6 ≤ 6 := by
  (repeat' apply And.intro) <;> decide +kernel

/-- States and operands that meet the hypotheses of PilotClassKinds, clause by clause. -/
theorem test_met_PilotClassKinds :
    (fwRuns up = true ∧ 15 ≤ 15 ∧ 7 ≤ 7 ∧ 1 ≤ 1 ∧ 10 ≤ 10) ∧
    (8 ≤ 8 ∧ 8 ≤ 15) := by
  (repeat' apply And.intro) <;> decide +kernel

/-- States and operands that meet the hypotheses of PilotIsConfigured, clause by clause. -/
theorem test_met_PilotIsConfigured :
    (fwRuns up = true ∧ 256 ≤ 256 ∧ 255 ≤ 255 ∧ (List.replicate 16 1024).length = 16 ∧ (∀ w ∈ List.replicate 16 1024, 1 ≤ w
      ∧ w ≤ 1024)) ∧
    (fwRuns shore = true ∧ hx.expert = true ∧ ownHost 5 shore = true ∧ 1 ≤ 4096 ∧ 4096 ≤ 4096 ∧ 1 ≤ 400000 ∧ 400000 ≤ 400000
      ∧ 4096 ≤ 4194304 ∧ 4194304 ≤ 4194304) ∧
    (fwRuns subState = true ∧ 0 ≤ 256 ∧ 0 ≤ 15 ∧ 1 ≤ 1 ∧ 1 ≤ 3 ∧ 1 ≤ 64 ∧ 1 ≤ 2 ∧ (1 = 1 → 1 = 1) ∧ subsFor (baseQueue 0 0
      1) 1 subState = some [12336]) ∧
    (subState.pilot.pendingSubs = noSubs ++ (0, [12336], 0) :: noSubs ∧ (∀ p ∈ noSubs, p.1 ≠ 0)) := by
  (repeat' apply And.intro) <;> decide +kernel

/-- States and operands that meet the hypotheses of PilotFloorsAndRecords, clause by clause. -/
theorem test_met_PilotFloorsAndRecords :
    (fwRuns shore = true ∧ (2 ≤ (floorOf 2).flags ∨ (floorOf 2).reserved ≠ 0)) ∧
    (hx.expert = true ∧ (floorOf 1).flags = 1 ∧ (floorOf 1).reserved = 0 ∧ pilotqCode (floorOf 1) shore = 0) ∧
    ((floorOf 0).flags = 0 ∧ (floorOf 0).reserved = 0 ∧ pilotqCode (floorOf 0) shore = 0) ∧
    (1 ≤ 262 ∧ 262 ≤ 262 ∧ (65274 + 262 ≤ if true = true then 65536 else 16384)) ∧
    16122 + 262 ≤ 16384 := by
  (repeat' apply And.intro) <;> decide +kernel

/-- States and operands that meet the hypotheses of JobQueuesOpenAndClose, clause by clause. -/
theorem test_met_JobQueuesOpenAndClose :
    (fwRuns up = true ∧ 255 < 256 ∧ 15 < 16 ∧ queueAt 255 (self up) up = none) ∧
    (fwRuns queued = true ∧ (queueAt 255 (self queued) queued).isSome = true ∧ (∀ j ∈ queued.acc.jobs, j.guest = none →
      j.hdr.queue = 255 → queueOwner j.hdr j.device ≠ self queued)) ∧
    (fwRuns (withJob (copyJob JobPhase.accepted) queued) = true ∧ copyJob JobPhase.accepted ∈ (withJob (copyJob
      JobPhase.accepted) queued).acc.jobs ∧ (queueAt 255 (self (withJob (copyJob JobPhase.accepted) queued)) (withJob (copyJob
      JobPhase.accepted) queued)).isSome = true ∧ (copyJob JobPhase.accepted).guest = none ∧ (copyJob
      JobPhase.accepted).hdr.queue = 255 ∧ queueOwner (copyJob JobPhase.accepted).hdr (copyJob JobPhase.accepted).device =
      self (withJob (copyJob JobPhase.accepted) queued)) := by
  (repeat' apply And.intro) <;> decide +kernel

/-- States and operands that meet the hypotheses of ChangesAreIssued, clause by clause. -/
theorem test_met_ChangesAreIssued :
    (fwRuns domain = true ∧ reachesRing domain ∧ (domain.tide.count + 16 ≤ if hx.expert = true then 16 else
      domain.tide.count + 32) ∧ (hx.expert = false → 16 = 0) ∧ (ent 1).reserved = 0 ∧ (changeHeld hx (Change.map 524287 (ent
      1)) domain = false ∧ checkChange (Change.map 524287 (ent 1)) (if hx.expert = true then 16 else domain.tide.count + 32)
      none domain = 0 ∧ changeBusy (Change.map 524287 (ent 1)) (if hx.expert = true then 16 else domain.tide.count + 32) none
      domain = false)) ∧
    ((domain.tide.count + 16 ≤ if hb.expert = true then 0 else domain.tide.count + 32) ∧ (hb.expert = false → 0 = 0) ∧
      (changeHeld hb (Change.map 524287 (ent 1)) domain = false ∧ checkChange (Change.map 524287 (ent 1)) (if hb.expert = true
      then 0 else domain.tide.count + 32) none domain = 0 ∧ changeBusy (Change.map 524287 (ent 1)) (if hb.expert = true then 0
      else domain.tide.count + 32) none domain = false)) ∧
    (fwRuns (extent (mapped 1)) = true ∧ reachesRing (extent (mapped 1)) ∧ ((extent (mapped 1)).tide.count + 16 ≤ if
      hx.expert = true then 16 else (extent (mapped 1)).tide.count + 32) ∧ (changeHeld hx (Change.revoke 0) (extent (mapped
      1)) = false ∧ checkChange (Change.revoke 0) (if hx.expert = true then 16 else (extent (mapped 1)).tide.count + 32) none
      (extent (mapped 1)) = 0 ∧ changeBusy (Change.revoke 0) (if hx.expert = true then 16 else (extent (mapped 1)).tide.count
      + 32) none (extent (mapped 1)) = false)) ∧
    (fits [(1, 12), (7, 3), (win0.sizeCode, 4), (win0.firstEntry, 19), (win0.entryCount, 20)] = true ∧ (changeHeld hx
      (Change.window 1 7 win0) domain = false ∧ checkChange (Change.window 1 7 win0) (if hx.expert = true then 16 else
      domain.tide.count + 32) none domain = 0 ∧ changeBusy (Change.window 1 7 win0) (if hx.expert = true then 16 else
      domain.tide.count + 32) none domain = false)) ∧
    (changeHeld hx (Change.route { toDevice := [], toHost := [], groups := [] : RouteMap }) domain = false ∧ checkChange
      (Change.route { toDevice := [], toHost := [], groups := [] : RouteMap }) (if hx.expert = true then 16 else
      domain.tide.count + 32) none domain = 0 ∧ changeBusy (Change.route
      { toDevice := [], toHost := [], groups := [] : RouteMap }) (if hx.expert = true then 16 else domain.tide.count + 32)
      none domain = false) ∧
    (changeHeld hx (Change.composition domain.man.comp { toDevice := [], toHost := [], groups := [] : RouteMap }) domain =
      false ∧ checkChange (Change.composition domain.man.comp { toDevice := [], toHost := [], groups := [] : RouteMap }) (if
      hx.expert = true then 16 else domain.tide.count + 32) none domain = 0 ∧ changeBusy (Change.composition domain.man.comp
      { toDevice := [], toHost := [], groups := [] : RouteMap }) (if hx.expert = true then 16 else domain.tide.count + 32)
      none domain = false) ∧
    (4095 < 4096 ∧ (changeHeld hx (Change.role 4095 0 [] []) domain = false ∧ checkChange (Change.role 4095 0 [] []) (if
      hx.expert = true then 16 else domain.tide.count + 32) none domain = 0 ∧ changeBusy (Change.role 4095 0 [] []) (if
      hx.expert = true then 16 else domain.tide.count + 32) none domain = false)) ∧
    (changeHeld hx (Change.tideLength 4) domain = false ∧ checkChange (Change.tideLength 4) (if hx.expert = true then 16
      else domain.tide.count + 32) none domain = 0 ∧ changeBusy (Change.tideLength 4) (if hx.expert = true then 16 else
      domain.tide.count + 32) none domain = false) ∧
    (changeHeld hx (Change.groupDefine (mirror 0)) domain = false ∧ checkChange (Change.groupDefine (mirror 0)) (if
      hx.expert = true then 16 else domain.tide.count + 32) none domain = 0 ∧ changeBusy (Change.groupDefine (mirror 0)) (if
      hx.expert = true then 16 else domain.tide.count + 32) none domain = false) ∧
    (fwRuns (grouped (mirror 0)) = true ∧ reachesRing (grouped (mirror 0)) ∧ ((grouped (mirror 0)).tide.count + 16 ≤ if
      hx.expert = true then 16 else (grouped (mirror 0)).tide.count + 32) ∧ (changeHeld hx (Change.groupDelete (mirror
      0).groupId) (grouped (mirror 0)) = false ∧ checkChange (Change.groupDelete (mirror 0).groupId) (if hx.expert = true then
      16 else (grouped (mirror 0)).tide.count + 32) none (grouped (mirror 0)) = 0 ∧ changeBusy (Change.groupDelete (mirror
      0).groupId) (if hx.expert = true then 16 else (grouped (mirror 0)).tide.count + 32) none (grouped (mirror 0)) = false)) ∧
    (changeHeld hx (Change.formatStart 4095 65536) (grouped (mirror 0)) = false ∧ checkChange (Change.formatStart 4095
      65536) (if hx.expert = true then 16 else (grouped (mirror 0)).tide.count + 32) none (grouped (mirror 0)) = 0 ∧
      changeBusy (Change.formatStart 4095 65536) (if hx.expert = true then 16 else (grouped (mirror 0)).tide.count + 32) none
      (grouped (mirror 0)) = false) ∧
    (fwRuns (grouped (mirror 1)) = true ∧ reachesRing (grouped (mirror 1)) ∧ ((grouped (mirror 1)).tide.count + 16 ≤ if
      hx.expert = true then 16 else (grouped (mirror 1)).tide.count + 32) ∧ (hx.expert = false → 200 = 0) ∧ (changeHeld hx
      (Change.replace 4095 1 0 2 0 (if hx.expert = true then 200 else 20)) (grouped (mirror 1)) = false ∧ checkChange
      (Change.replace 4095 1 0 2 0 (if hx.expert = true then 200 else 20)) (if hx.expert = true then 16 else (grouped (mirror
      1)).tide.count + 32) none (grouped (mirror 1)) = 0 ∧ changeBusy (Change.replace 4095 1 0 2 0 (if hx.expert = true then
      200 else 20)) (if hx.expert = true then 16 else (grouped (mirror 1)).tide.count + 32) none (grouped (mirror 1)) =
      false)) ∧
    (((grouped (mirror 1)).tide.count + 16 ≤ if hb.expert = true then 0 else (grouped (mirror 1)).tide.count + 32) ∧
      (changeHeld hb (Change.replace 4095 1 0 2 0 (if hb.expert = true then 0 else 20)) (grouped (mirror 1)) = false ∧
      checkChange (Change.replace 4095 1 0 2 0 (if hb.expert = true then 0 else 20)) (if hb.expert = true then 0 else (grouped
      (mirror 1)).tide.count + 32) none (grouped (mirror 1)) = 0 ∧ changeBusy (Change.replace 4095 1 0 2 0 (if hb.expert =
      true then 0 else 20)) (if hb.expert = true then 0 else (grouped (mirror 1)).tide.count + 32) none (grouped (mirror 1)) =
      false)) ∧
    (changeHeld hx (Change.charterCreate 4095 false []) domain = false ∧ checkChange (Change.charterCreate 4095 false [])
      (if hx.expert = true then 16 else domain.tide.count + 32) none domain = 0 ∧ changeBusy (Change.charterCreate 4095 false
      []) (if hx.expert = true then 16 else domain.tide.count + 32) none domain = false) ∧
    (changeHeld hx (Change.charterMembers 1 [4095] []) domain = false ∧ checkChange (Change.charterMembers 1 [4095] []) (if
      hx.expert = true then 16 else domain.tide.count + 32) none domain = 0 ∧ changeBusy (Change.charterMembers 1 [4095] [])
      (if hx.expert = true then 16 else domain.tide.count + 32) none domain = false) ∧
    ((domain.tide.count + 16 ≤ if hl.expert = true then 16 else domain.tide.count + 32) ∧ (hl.expert = false → 16 = 0) ∧
      hl.expert = true ∧ hl.viaLighter = true ∧ (changeHeld hl (Change.charterRotate 2 100 (fit 64 (zeros 64))) domain = false
      ∧ checkChange (Change.charterRotate 2 100 (fit 64 (zeros 64))) (if hl.expert = true then 16 else domain.tide.count + 32)
      none domain = 0 ∧ changeBusy (Change.charterRotate 2 100 (fit 64 (zeros 64))) (if hl.expert = true then 16 else
      domain.tide.count + 32) none domain = false)) ∧
    (changeHeld hx (Change.charterRevoke 1) domain = false ∧ checkChange (Change.charterRevoke 1) (if hx.expert = true then
      16 else domain.tide.count + 32) none domain = 0 ∧ changeBusy (Change.charterRevoke 1) (if hx.expert = true then 16 else
      domain.tide.count + 32) none domain = false) ∧
    (fwRuns banked = true ∧ reachesRing banked ∧ (banked.tide.count + 16 ≤ if hx.expert = true then 16 else
      banked.tide.count + 32) ∧ (changeHeld hx (Change.fwActivate 1 0) banked = false ∧ checkChange (Change.fwActivate 1 0)
      (if hx.expert = true then 16 else banked.tide.count + 32) none banked = 0 ∧ changeBusy (Change.fwActivate 1 0) (if
      hx.expert = true then 16 else banked.tide.count + 32) none banked = false)) ∧
    (fwRuns objectAt1 = true ∧ reachesRing objectAt1 ∧ (objectAt1.tide.count + 16 ≤ if hx.expert = true then 16 else
      objectAt1.tide.count + 32) ∧ (3 = 2 ∨ 3 = 3) ∧ objectEntries 1 9 0 65536 objectAt1 = some [0] ∧ [0].length =
      [65536].length ∧ movesHere (Change.migrate (List.map (fun p => (p.1,
      { baseFpa := p.2, sizeCode := (entryOf p.1 objectAt1).sizeCode, tier := 3, cls := (entryOf p.1 objectAt1).cls, redundancy := (entryOf p.1 objectAt1).redundancy, charter := (entryOf p.1 objectAt1).charter, ownerHost := (entryOf p.1 objectAt1).ownerHost, generation := 0, keyEpoch := (entryOf p.1 objectAt1).keyEpoch, state := 0, compressed := (entryOf p.1 objectAt1).compressed, readOnly := (entryOf p.1 objectAt1).readOnly, shadowLink := (entryOf p.1 objectAt1).shadowLink, memberPerm := (entryOf p.1 objectAt1).memberPerm, homeDevice := (entryOf p.1 objectAt1).homeDevice, shadowEntry := (entryOf p.1 objectAt1).shadowEntry, objectId := (entryOf p.1 objectAt1).objectId, reserved := (entryOf p.1 objectAt1).reserved : Entry }))
      ([0].zip [65536]))) objectAt1 = false ∧ (changeHeld hx (Change.migrate (List.map (fun p => (p.1,
      { baseFpa := p.2, sizeCode := (entryOf p.1 objectAt1).sizeCode, tier := 3, cls := (entryOf p.1 objectAt1).cls, redundancy := (entryOf p.1 objectAt1).redundancy, charter := (entryOf p.1 objectAt1).charter, ownerHost := (entryOf p.1 objectAt1).ownerHost, generation := 0, keyEpoch := (entryOf p.1 objectAt1).keyEpoch, state := 0, compressed := (entryOf p.1 objectAt1).compressed, readOnly := (entryOf p.1 objectAt1).readOnly, shadowLink := (entryOf p.1 objectAt1).shadowLink, memberPerm := (entryOf p.1 objectAt1).memberPerm, homeDevice := (entryOf p.1 objectAt1).homeDevice, shadowEntry := (entryOf p.1 objectAt1).shadowEntry, objectId := (entryOf p.1 objectAt1).objectId, reserved := (entryOf p.1 objectAt1).reserved : Entry }))
      ([0].zip [65536]))) objectAt1 = false ∧ checkChange (Change.migrate (List.map (fun p => (p.1,
      { baseFpa := p.2, sizeCode := (entryOf p.1 objectAt1).sizeCode, tier := 3, cls := (entryOf p.1 objectAt1).cls, redundancy := (entryOf p.1 objectAt1).redundancy, charter := (entryOf p.1 objectAt1).charter, ownerHost := (entryOf p.1 objectAt1).ownerHost, generation := 0, keyEpoch := (entryOf p.1 objectAt1).keyEpoch, state := 0, compressed := (entryOf p.1 objectAt1).compressed, readOnly := (entryOf p.1 objectAt1).readOnly, shadowLink := (entryOf p.1 objectAt1).shadowLink, memberPerm := (entryOf p.1 objectAt1).memberPerm, homeDevice := (entryOf p.1 objectAt1).homeDevice, shadowEntry := (entryOf p.1 objectAt1).shadowEntry, objectId := (entryOf p.1 objectAt1).objectId, reserved := (entryOf p.1 objectAt1).reserved : Entry }))
      ([0].zip [65536]))) (if hx.expert = true then 16 else objectAt1.tide.count + 32) none objectAt1 = 0 ∧ changeBusy
      (Change.migrate (List.map (fun p => (p.1,
      { baseFpa := p.2, sizeCode := (entryOf p.1 objectAt1).sizeCode, tier := 3, cls := (entryOf p.1 objectAt1).cls, redundancy := (entryOf p.1 objectAt1).redundancy, charter := (entryOf p.1 objectAt1).charter, ownerHost := (entryOf p.1 objectAt1).ownerHost, generation := 0, keyEpoch := (entryOf p.1 objectAt1).keyEpoch, state := 0, compressed := (entryOf p.1 objectAt1).compressed, readOnly := (entryOf p.1 objectAt1).readOnly, shadowLink := (entryOf p.1 objectAt1).shadowLink, memberPerm := (entryOf p.1 objectAt1).memberPerm, homeDevice := (entryOf p.1 objectAt1).homeDevice, shadowEntry := (entryOf p.1 objectAt1).shadowEntry, objectId := (entryOf p.1 objectAt1).objectId, reserved := (entryOf p.1 objectAt1).reserved : Entry }))
      ([0].zip [65536]))) (if hx.expert = true then 16 else objectAt1.tide.count + 32) none objectAt1 = false)) := by
  (repeat' apply And.intro) <;> decide +kernel

/-- States and operands that meet the hypotheses of LateChangesAreRefused, clause by clause. -/
theorem test_met_LateChangesAreRefused :
    (fwRuns up = true ∧ hx.expert = true ∧ 15 < up.tide.count + 16 ∧ changeHeld hx (Change.route
      { toDevice := [], toHost := [], groups := [] : RouteMap }) up = false) ∧
    (4 < 5 ∧ changeHeld hx (Change.tideLength 4) up = false) ∧
    5 ≤ 5 := by
  (repeat' apply And.intro) <;> decide +kernel

/-- States and operands that meet the hypotheses of ChangeMessages, clause by clause. -/
theorem test_met_ChangeMessages :
    (coreRuns domain = true ∧ reachesRing domain ∧ noticeOf { issuer := 1, number := 0 : ChangeId } domain = none ∧
      { issuer := 1, number := 0 : ChangeId }.issuer ≠ self domain ∧ movesHere (Change.tideLength 2) domain = false ∧
      needsHarbour (Change.tideLength 2) domain = false) ∧
    (coreRuns (issuer 12) = true ∧ reachesRing (issuer 12) ∧ issuedOf 0 (issuer 12) = some issuing ∧ issuing.committed =
      false ∧ (∀ m ∈ issuing.awaiting, m = 1) ∧ noticeOf { issuer := self (issuer 12), number := 0 : ChangeId } (issuer 12) =
      some ownNotice ∧ ownNotice.ready = true ∧ (issuer 12).tide.count + 4 ≤ issuing.atTide) ∧
    (coreRuns (issuer 0) = true ∧ reachesRing (issuer 0) ∧ issuedOf 0 (issuer 0) = some issuing) ∧
    issuing.atTide ≤ (issuer 12).tide.count + 4 ∧
    noticeOf { issuer := 0, number := 0 : ChangeId } (issuer 0) = some ownNotice ∧
    ownNotice.committed = false := by
  (repeat' apply And.intro) <;> decide +kernel

/-- States and operands that meet the hypotheses of ChangesTakeEffect, clause by clause. -/
theorem test_met_ChangesTakeEffect :
    (coreRuns (noticed (Change.window 1 7 win0) true domain) = true ∧ (noticed (Change.window 1 7 win0) true
      domain).tide.locked = true ∧ (noticed (Change.window 1 7 win0) true domain).man.notices = [theNotice (Change.window 1 7
      win0) true] ∧ (theNotice (Change.window 1 7 win0) true).id.issuer ≠ self (noticed (Change.window 1 7 win0) true domain)
      ∧ (theNotice (Change.window 1 7 win0) true).atTide ≤ (noticed (Change.window 1 7 win0) true domain).tide.count ∧
      (theNotice (Change.window 1 7 win0) true).committed = true ∧ (theNotice (Change.window 1 7 win0) true).change =
      Change.window 1 7 win0) ∧
    (coreRuns (noticed (Change.tideLength 4) true domain) = true ∧ (noticed (Change.tideLength 4) true domain).tide.locked =
      true ∧ (noticed (Change.tideLength 4) true domain).man.notices = [theNotice (Change.tideLength 4) true] ∧ (theNotice
      (Change.tideLength 4) true).id.issuer ≠ self (noticed (Change.tideLength 4) true domain) ∧ (theNotice (Change.tideLength
      4) true).atTide ≤ (noticed (Change.tideLength 4) true domain).tide.count ∧ (theNotice (Change.tideLength 4)
      true).committed = true ∧ (theNotice (Change.tideLength 4) true).change = Change.tideLength 4) ∧
    (coreRuns (noticed (Change.route { toDevice := [], toHost := [], groups := [] : RouteMap }) true domain) = true ∧
      (noticed (Change.route { toDevice := [], toHost := [], groups := [] : RouteMap }) true domain).tide.locked = true ∧
      (noticed (Change.route { toDevice := [], toHost := [], groups := [] : RouteMap }) true domain).man.notices = [theNotice
      (Change.route { toDevice := [], toHost := [], groups := [] : RouteMap }) true] ∧ (theNotice (Change.route
      { toDevice := [], toHost := [], groups := [] : RouteMap }) true).id.issuer ≠ self (noticed (Change.route
      { toDevice := [], toHost := [], groups := [] : RouteMap }) true domain) ∧ (theNotice (Change.route
      { toDevice := [], toHost := [], groups := [] : RouteMap }) true).atTide ≤ (noticed (Change.route
      { toDevice := [], toHost := [], groups := [] : RouteMap }) true domain).tide.count ∧ (theNotice (Change.route
      { toDevice := [], toHost := [], groups := [] : RouteMap }) true).committed = true ∧ (theNotice (Change.route
      { toDevice := [], toHost := [], groups := [] : RouteMap }) true).change = Change.route
      { toDevice := [], toHost := [], groups := [] : RouteMap }) ∧
    (coreRuns (noticed (Change.charterCreate 3 false []) true domain) = true ∧ (noticed (Change.charterCreate 3 false [])
      true domain).tide.locked = true ∧ (noticed (Change.charterCreate 3 false []) true domain).man.notices = [theNotice
      (Change.charterCreate 3 false []) true] ∧ (theNotice (Change.charterCreate 3 false []) true).id.issuer ≠ self (noticed
      (Change.charterCreate 3 false []) true domain) ∧ (theNotice (Change.charterCreate 3 false []) true).atTide ≤ (noticed
      (Change.charterCreate 3 false []) true domain).tide.count ∧ (theNotice (Change.charterCreate 3 false []) true).committed
      = true ∧ (theNotice (Change.charterCreate 3 false []) true).change = Change.charterCreate 3 false []) ∧
    (coreRuns (noticed (Change.map 0 (ent 1)) true domain) = true ∧ (noticed (Change.map 0 (ent 1)) true domain).tide.locked
      = true ∧ (noticed (Change.map 0 (ent 1)) true domain).man.notices = [theNotice (Change.map 0 (ent 1)) true] ∧ (theNotice
      (Change.map 0 (ent 1)) true).id.issuer ≠ self (noticed (Change.map 0 (ent 1)) true domain) ∧ (theNotice (Change.map 0
      (ent 1)) true).atTide ≤ (noticed (Change.map 0 (ent 1)) true domain).tide.count ∧ (theNotice (Change.map 0 (ent 1))
      true).committed = true ∧ (theNotice (Change.map 0 (ent 1)) true).change = Change.map 0 (ent 1) ∧ (entryOf 0 (noticed
      (Change.map 0 (ent 1)) true domain)).state = 0 ∧ isConfidential (ent 1).charter (noticed (Change.map 0 (ent 1)) true
      domain) = false) ∧
    (coreRuns (noticed (Change.charterRotate 2 1 []) true domain) = true ∧ (noticed (Change.charterRotate 2 1 []) true
      domain).tide.locked = true ∧ (noticed (Change.charterRotate 2 1 []) true domain).man.notices = [theNotice
      (Change.charterRotate 2 1 []) true] ∧ (theNotice (Change.charterRotate 2 1 []) true).id.issuer ≠ self (noticed
      (Change.charterRotate 2 1 []) true domain) ∧ (theNotice (Change.charterRotate 2 1 []) true).atTide ≤ (noticed
      (Change.charterRotate 2 1 []) true domain).tide.count ∧ (theNotice (Change.charterRotate 2 1 []) true).committed = true
      ∧ (theNotice (Change.charterRotate 2 1 []) true).change = Change.charterRotate 2 1 [] ∧ tget (noticed
      (Change.charterRotate 2 1 []) true domain).man.charters 2 = some charter2) ∧
    (coreRuns (noticed (Change.fwActivate 1 0) true banked) = true ∧ (noticed (Change.fwActivate 1 0) true
      banked).tide.locked = true ∧ (noticed (Change.fwActivate 1 0) true banked).man.notices = [theNotice (Change.fwActivate 1
      0) true] ∧ (theNotice (Change.fwActivate 1 0) true).id.issuer ≠ self (noticed (Change.fwActivate 1 0) true banked) ∧
      (theNotice (Change.fwActivate 1 0) true).atTide ≤ (noticed (Change.fwActivate 1 0) true banked).tide.count ∧ (theNotice
      (Change.fwActivate 1 0) true).committed = true ∧ (theNotice (Change.fwActivate 1 0) true).change = Change.fwActivate 1 0
      ∧ named 1 (noticed (Change.fwActivate 1 0) true banked) = true) ∧
    (coreRuns (noticed (Change.tideLength 4) false domain) = true ∧ (noticed (Change.tideLength 4) false domain).tide.locked
      = true ∧ (noticed (Change.tideLength 4) false domain).man.notices = [theNotice (Change.tideLength 4) false] ∧ (theNotice
      (Change.tideLength 4) false).id.issuer ≠ self (noticed (Change.tideLength 4) false domain) ∧ (theNotice
      (Change.tideLength 4) false).atTide ≤ (noticed (Change.tideLength 4) false domain).tide.count ∧ (theNotice
      (Change.tideLength 4) false).committed = false ∧ rank (theNotice (Change.tideLength 4) false).change < 5) ∧
    (coreRuns (noticed (Change.route { toDevice := [], toHost := [], groups := [] : RouteMap }) false domain) = true ∧
      (noticed (Change.route { toDevice := [], toHost := [], groups := [] : RouteMap }) false domain).tide.locked = true ∧
      (noticed (Change.route { toDevice := [], toHost := [], groups := [] : RouteMap }) false domain).man.notices = [theNotice
      (Change.route { toDevice := [], toHost := [], groups := [] : RouteMap }) false] ∧ (theNotice (Change.route
      { toDevice := [], toHost := [], groups := [] : RouteMap }) false).id.issuer ≠ self (noticed (Change.route
      { toDevice := [], toHost := [], groups := [] : RouteMap }) false domain) ∧ (theNotice (Change.route
      { toDevice := [], toHost := [], groups := [] : RouteMap }) false).atTide ≤ (noticed (Change.route
      { toDevice := [], toHost := [], groups := [] : RouteMap }) false domain).tide.count ∧ (noticed (Change.route
      { toDevice := [], toHost := [], groups := [] : RouteMap }) false domain).man.routeSince + 4 ≤ (noticed (Change.route
      { toDevice := [], toHost := [], groups := [] : RouteMap }) false domain).tide.count) ∧
    (coreRuns youngRoute = true ∧ youngRoute.tide.locked = true ∧ youngRoute.man.notices = [theNotice (Change.tideLength 4)
      false] ∧ (theNotice (Change.tideLength 4) false).id.issuer ≠ self youngRoute ∧ (theNotice (Change.tideLength 4)
      false).atTide ≤ youngRoute.tide.count ∧ youngRoute.tide.count < youngRoute.man.routeSince + 4) := by
  (repeat' apply And.intro) <;> decide +kernel

/-- States and operands that meet the hypotheses of ManifestIsSynchronised, clause by clause. -/
theorem test_met_ManifestIsSynchronised :
    (fwRuns (extent (mapped 1)) = true ∧ (1 ≠ self (extent (mapped 1)) ∧ deviceMember 1 (extent (mapped 1)) = true) ∧
      (extent (mapped 1)).man.sync = none ∧ 0 ≤ (extent (mapped 1)).tide.count ∧ (∀ p ∈ (extent (mapped 1)).man.entries,
      p.2.state = 1 → tget [(0, mapped 1)] p.1 = some p.2)) ∧
    (extent (mapped 1)).tide.count < 4 ∧
    (fwRuns (fetched 4) = true ∧ (fetched 4).man.sync = some
      { hdr := hx, boundary := 4, entries := [(0, mapped 1)], windows := [(8, win0)], route := { toDevice := [], toHost := [], groups := [] : RouteMap }, routeEpoch := 1 : ManSync }
      ∧ 4 ≤ (fetched 4).tide.count ∧ (∀ p ∈ (fetched 4).man.entries, p.2.state = 1 → tget [(0, mapped 1)] p.1 = some p.2)) ∧
    (¬(0 ≠ self (extent (mapped 1)) ∧ deviceMember 0 (extent (mapped 1)) = true)) ∧
    (fwRuns (fetched 0) = true ∧ (1 ≠ self (fetched 0) ∧ deviceMember 1 (fetched 0) = true) ∧ (fetched 0).man.sync.isSome =
      true) := by
  (repeat' apply And.intro) <;> decide +kernel

/-- States and operands that meet the hypotheses of JobSubmissions, clause by clause. -/
theorem test_met_JobSubmissions :
    (fwRuns jobsUp = true ∧ offersOpen jobsUp = true ∧ offerBusy jhdr jobsUp = false ∧ jhdr.owner = 0 ∧ jhdr.seq ≠ 0 ∧
      queueAt jhdr.queue (self jobsUp) jobsUp = some queue255 ∧ queue255.next = jhdr.seq ∧ jobsUp.acc.waiting = [] ∧ (∀ x ∈
      jobsUp.acc.jobs, x.slot < 4096) ∧ (∀ x ∈ jobsUp.acc.slots, x.1 < 4096) ∧ ((if jhdr.hdr.expert = true then (JobDesc.crane
      craneDesc, jobsUp) else craneFill craneDesc jobsUp).1 = JobDesc.crane craneDesc) ∧ descReserved (JobDesc.crane
      craneDesc) = false ∧ (jhdr.hdr.expert = false → basicSet (JobDesc.crane craneDesc) = false) ∧ (craneCheck
      jhdr.hdr.expert craneDesc (if jhdr.hdr.expert = true then (JobDesc.crane craneDesc, jobsUp) else craneFill craneDesc
      jobsUp).2 = 0) ∧ (allocSlot (if jhdr.hdr.expert = true then (JobDesc.crane craneDesc, jobsUp) else craneFill craneDesc
      jobsUp).2 = some 0) ∧ (liveBytes (if jhdr.hdr.expert = true then (JobDesc.crane craneDesc, jobsUp) else craneFill
      craneDesc jobsUp).2 + 64 + roundUp (List.length (descBytes (if jhdr.hdr.expert = true then (JobDesc.crane craneDesc,
      jobsUp) else craneFill craneDesc jobsUp).1 ++ attachments (if jhdr.hdr.expert = true then (JobDesc.crane craneDesc,
      jobsUp) else craneFill craneDesc jobsUp).1 (if jhdr.hdr.expert = true then (JobDesc.crane craneDesc, jobsUp) else
      craneFill craneDesc jobsUp).2)) 64 ≤ logRoom)) ∧
    (((if jhdr.hdr.expert = true then (JobDesc.stev stevDesc, jobsUp) else stevFill stevDesc jobsUp).1 = JobDesc.stev
      stevDesc) ∧ descReserved (JobDesc.stev stevDesc) = false ∧ (jhdr.hdr.expert = false → basicSet (JobDesc.stev stevDesc) =
      false) ∧ (stevCheck jhdr.hdr.expert stevDesc (if jhdr.hdr.expert = true then (JobDesc.stev stevDesc, jobsUp) else
      stevFill stevDesc jobsUp).2 = 0) ∧ (allocSlot (if jhdr.hdr.expert = true then (JobDesc.stev stevDesc, jobsUp) else
      stevFill stevDesc jobsUp).2 = some 0) ∧ (liveBytes (if jhdr.hdr.expert = true then (JobDesc.stev stevDesc, jobsUp) else
      stevFill stevDesc jobsUp).2 + 64 + roundUp (List.length (descBytes (if jhdr.hdr.expert = true then (JobDesc.stev
      stevDesc, jobsUp) else stevFill stevDesc jobsUp).1 ++ attachments (if jhdr.hdr.expert = true then (JobDesc.stev
      stevDesc, jobsUp) else stevFill stevDesc jobsUp).1 (if jhdr.hdr.expert = true then (JobDesc.stev stevDesc, jobsUp) else
      stevFill stevDesc jobsUp).2)) 64 ≤ logRoom)) ∧
    (((if jhdr.hdr.expert = true then (JobDesc.cust scanDesc, jobsUp) else custFill scanDesc jobsUp).1 = JobDesc.cust
      scanDesc) ∧ descReserved (JobDesc.cust scanDesc) = false ∧ (jhdr.hdr.expert = false → basicSet (JobDesc.cust scanDesc) =
      false) ∧ (custCheck jhdr.hdr.expert 1 scanDesc (if jhdr.hdr.expert = true then (JobDesc.cust scanDesc, jobsUp) else
      custFill scanDesc jobsUp).2 = 0) ∧ (allocSlot (if jhdr.hdr.expert = true then (JobDesc.cust scanDesc, jobsUp) else
      custFill scanDesc jobsUp).2 = some 0) ∧ (liveBytes (if jhdr.hdr.expert = true then (JobDesc.cust scanDesc, jobsUp) else
      custFill scanDesc jobsUp).2 + 64 + roundUp (List.length (descBytes (if jhdr.hdr.expert = true then (JobDesc.cust
      scanDesc, jobsUp) else custFill scanDesc jobsUp).1 ++ attachments (if jhdr.hdr.expert = true then (JobDesc.cust
      scanDesc, jobsUp) else custFill scanDesc jobsUp).1 (if jhdr.hdr.expert = true then (JobDesc.cust scanDesc, jobsUp) else
      custFill scanDesc jobsUp).2)) 64 ≤ logRoom)) ∧
    (((if jhdr.hdr.expert = true then (JobDesc.cust scoreDesc, jobsUp) else custFill scoreDesc jobsUp).1 = JobDesc.cust
      scoreDesc) ∧ descReserved (JobDesc.cust scoreDesc) = false ∧ (jhdr.hdr.expert = false → basicSet (JobDesc.cust
      scoreDesc) = false) ∧ (custCheck jhdr.hdr.expert 2 scoreDesc (if jhdr.hdr.expert = true then (JobDesc.cust scoreDesc,
      jobsUp) else custFill scoreDesc jobsUp).2 = 0) ∧ (allocSlot (if jhdr.hdr.expert = true then (JobDesc.cust scoreDesc,
      jobsUp) else custFill scoreDesc jobsUp).2 = some 0) ∧ (liveBytes (if jhdr.hdr.expert = true then (JobDesc.cust
      scoreDesc, jobsUp) else custFill scoreDesc jobsUp).2 + 64 + roundUp (List.length (descBytes (if jhdr.hdr.expert = true
      then (JobDesc.cust scoreDesc, jobsUp) else custFill scoreDesc jobsUp).1 ++ attachments (if jhdr.hdr.expert = true then
      (JobDesc.cust scoreDesc, jobsUp) else custFill scoreDesc jobsUp).1 (if jhdr.hdr.expert = true then (JobDesc.cust
      scoreDesc, jobsUp) else custFill scoreDesc jobsUp).2)) 64 ≤ logRoom)) ∧
    (((if jhdr.hdr.expert = true then (JobDesc.cust mergeDesc, jobsUp) else custFill mergeDesc jobsUp).1 = JobDesc.cust
      mergeDesc) ∧ descReserved (JobDesc.cust mergeDesc) = false ∧ (jhdr.hdr.expert = false → basicSet (JobDesc.cust
      mergeDesc) = false) ∧ (custCheck jhdr.hdr.expert 3 mergeDesc (if jhdr.hdr.expert = true then (JobDesc.cust mergeDesc,
      jobsUp) else custFill mergeDesc jobsUp).2 = 0) ∧ (allocSlot (if jhdr.hdr.expert = true then (JobDesc.cust mergeDesc,
      jobsUp) else custFill mergeDesc jobsUp).2 = some 0) ∧ (liveBytes (if jhdr.hdr.expert = true then (JobDesc.cust
      mergeDesc, jobsUp) else custFill mergeDesc jobsUp).2 + 64 + roundUp (List.length (descBytes (if jhdr.hdr.expert = true
      then (JobDesc.cust mergeDesc, jobsUp) else custFill mergeDesc jobsUp).1 ++ attachments (if jhdr.hdr.expert = true then
      (JobDesc.cust mergeDesc, jobsUp) else custFill mergeDesc jobsUp).1 (if jhdr.hdr.expert = true then (JobDesc.cust
      mergeDesc, jobsUp) else custFill mergeDesc jobsUp).2)) 64 ≤ logRoom)) ∧
    (((if jhdr.hdr.expert = true then (JobDesc.codec encodeDesc, jobsUp) else codecFill encodeDesc jobsUp).1 = JobDesc.codec
      encodeDesc) ∧ descReserved (JobDesc.codec encodeDesc) = false ∧ (jhdr.hdr.expert = false → basicSet (JobDesc.codec
      encodeDesc) = false) ∧ (codecCheck true encodeDesc (if jhdr.hdr.expert = true then (JobDesc.codec encodeDesc, jobsUp)
      else codecFill encodeDesc jobsUp).2 = 0) ∧ (allocSlot (if jhdr.hdr.expert = true then (JobDesc.codec encodeDesc, jobsUp)
      else codecFill encodeDesc jobsUp).2 = some 0) ∧ (liveBytes (if jhdr.hdr.expert = true then (JobDesc.codec encodeDesc,
      jobsUp) else codecFill encodeDesc jobsUp).2 + 64 + roundUp (List.length (descBytes (if jhdr.hdr.expert = true then
      (JobDesc.codec encodeDesc, jobsUp) else codecFill encodeDesc jobsUp).1 ++ attachments (if jhdr.hdr.expert = true then
      (JobDesc.codec encodeDesc, jobsUp) else codecFill encodeDesc jobsUp).1 (if jhdr.hdr.expert = true then (JobDesc.codec
      encodeDesc, jobsUp) else codecFill encodeDesc jobsUp).2)) 64 ≤ logRoom)) ∧
    (((if jhdr.hdr.expert = true then (JobDesc.codec decodeDesc, jobsUp) else codecFill decodeDesc jobsUp).1 = JobDesc.codec
      decodeDesc) ∧ descReserved (JobDesc.codec decodeDesc) = false ∧ (jhdr.hdr.expert = false → basicSet (JobDesc.codec
      decodeDesc) = false) ∧ (codecCheck false decodeDesc (if jhdr.hdr.expert = true then (JobDesc.codec decodeDesc, jobsUp)
      else codecFill decodeDesc jobsUp).2 = 0) ∧ (allocSlot (if jhdr.hdr.expert = true then (JobDesc.codec decodeDesc, jobsUp)
      else codecFill decodeDesc jobsUp).2 = some 0) ∧ (liveBytes (if jhdr.hdr.expert = true then (JobDesc.codec decodeDesc,
      jobsUp) else codecFill decodeDesc jobsUp).2 + 64 + roundUp (List.length (descBytes (if jhdr.hdr.expert = true then
      (JobDesc.codec decodeDesc, jobsUp) else codecFill decodeDesc jobsUp).1 ++ attachments (if jhdr.hdr.expert = true then
      (JobDesc.codec decodeDesc, jobsUp) else codecFill decodeDesc jobsUp).1 (if jhdr.hdr.expert = true then (JobDesc.codec
      decodeDesc, jobsUp) else codecFill decodeDesc jobsUp).2)) 64 ≤ logRoom)) ∧
    (((if jhdr.hdr.expert = true then (JobDesc.stream streamDesc, jobsUp) else streamFill streamDesc jobsUp).1 =
      JobDesc.stream streamDesc) ∧ descReserved (JobDesc.stream streamDesc) = false ∧ (jhdr.hdr.expert = false → basicSet
      (JobDesc.stream streamDesc) = false) ∧ (streamCheck jhdr.hdr.expert streamDesc (if jhdr.hdr.expert = true then
      (JobDesc.stream streamDesc, jobsUp) else streamFill streamDesc jobsUp).2 = 0) ∧ (allocSlot (if jhdr.hdr.expert = true
      then (JobDesc.stream streamDesc, jobsUp) else streamFill streamDesc jobsUp).2 = some 0) ∧ (liveBytes (if jhdr.hdr.expert
      = true then (JobDesc.stream streamDesc, jobsUp) else streamFill streamDesc jobsUp).2 + 64 + roundUp (List.length
      (descBytes (if jhdr.hdr.expert = true then (JobDesc.stream streamDesc, jobsUp) else streamFill streamDesc jobsUp).1 ++
      attachments (if jhdr.hdr.expert = true then (JobDesc.stream streamDesc, jobsUp) else streamFill streamDesc jobsUp).1 (if
      jhdr.hdr.expert = true then (JobDesc.stream streamDesc, jobsUp) else streamFill streamDesc jobsUp).2)) 64 ≤ logRoom)) ∧
    (descReserved (JobDesc.place placeDesc) = false ∧ (jhdr.hdr.expert = false → basicSet (JobDesc.place placeDesc) = false)
      ∧ (placeCheck jhdr.hdr.expert (if jhdr.hdr.expert = true then (placeDesc, jobsUp) else
      ({ tier := placeDesc.tier, charter := placeDesc.charter, objectId := placeDesc.objectId, srcVa := placeDesc.srcVa, bytes := placeDesc.bytes, stageAddr := (firmwareArea placeDesc.bytes jobsUp).1 : PlaceDesc },
      (firmwareArea placeDesc.bytes jobsUp).2)).1 (if jhdr.hdr.expert = true then (placeDesc, jobsUp) else
      ({ tier := placeDesc.tier, charter := placeDesc.charter, objectId := placeDesc.objectId, srcVa := placeDesc.srcVa, bytes := placeDesc.bytes, stageAddr := (firmwareArea placeDesc.bytes jobsUp).1 : PlaceDesc },
      (firmwareArea placeDesc.bytes jobsUp).2)).2 = 0) ∧ (allocSlot (JobDesc.place (if jhdr.hdr.expert = true then (placeDesc,
      jobsUp) else
      ({ tier := placeDesc.tier, charter := placeDesc.charter, objectId := placeDesc.objectId, srcVa := placeDesc.srcVa, bytes := placeDesc.bytes, stageAddr := (firmwareArea placeDesc.bytes jobsUp).1 : PlaceDesc },
      (firmwareArea placeDesc.bytes jobsUp).2)).1, (if jhdr.hdr.expert = true then (placeDesc, jobsUp) else
      ({ tier := placeDesc.tier, charter := placeDesc.charter, objectId := placeDesc.objectId, srcVa := placeDesc.srcVa, bytes := placeDesc.bytes, stageAddr := (firmwareArea placeDesc.bytes jobsUp).1 : PlaceDesc },
      (firmwareArea placeDesc.bytes jobsUp).2)).2).2 = some 0) ∧ (liveBytes (JobDesc.place (if jhdr.hdr.expert = true then
      (placeDesc, jobsUp) else
      ({ tier := placeDesc.tier, charter := placeDesc.charter, objectId := placeDesc.objectId, srcVa := placeDesc.srcVa, bytes := placeDesc.bytes, stageAddr := (firmwareArea placeDesc.bytes jobsUp).1 : PlaceDesc },
      (firmwareArea placeDesc.bytes jobsUp).2)).1, (if jhdr.hdr.expert = true then (placeDesc, jobsUp) else
      ({ tier := placeDesc.tier, charter := placeDesc.charter, objectId := placeDesc.objectId, srcVa := placeDesc.srcVa, bytes := placeDesc.bytes, stageAddr := (firmwareArea placeDesc.bytes jobsUp).1 : PlaceDesc },
      (firmwareArea placeDesc.bytes jobsUp).2)).2).2 + 64 + roundUp (List.length (descBytes (JobDesc.place (if jhdr.hdr.expert
      = true then (placeDesc, jobsUp) else
      ({ tier := placeDesc.tier, charter := placeDesc.charter, objectId := placeDesc.objectId, srcVa := placeDesc.srcVa, bytes := placeDesc.bytes, stageAddr := (firmwareArea placeDesc.bytes jobsUp).1 : PlaceDesc },
      (firmwareArea placeDesc.bytes jobsUp).2)).1, (if jhdr.hdr.expert = true then (placeDesc, jobsUp) else
      ({ tier := placeDesc.tier, charter := placeDesc.charter, objectId := placeDesc.objectId, srcVa := placeDesc.srcVa, bytes := placeDesc.bytes, stageAddr := (firmwareArea placeDesc.bytes jobsUp).1 : PlaceDesc },
      (firmwareArea placeDesc.bytes jobsUp).2)).2).1 ++ attachments (JobDesc.place (if jhdr.hdr.expert = true then (placeDesc,
      jobsUp) else
      ({ tier := placeDesc.tier, charter := placeDesc.charter, objectId := placeDesc.objectId, srcVa := placeDesc.srcVa, bytes := placeDesc.bytes, stageAddr := (firmwareArea placeDesc.bytes jobsUp).1 : PlaceDesc },
      (firmwareArea placeDesc.bytes jobsUp).2)).1, (if jhdr.hdr.expert = true then (placeDesc, jobsUp) else
      ({ tier := placeDesc.tier, charter := placeDesc.charter, objectId := placeDesc.objectId, srcVa := placeDesc.srcVa, bytes := placeDesc.bytes, stageAddr := (firmwareArea placeDesc.bytes jobsUp).1 : PlaceDesc },
      (firmwareArea placeDesc.bytes jobsUp).2)).2).1 (JobDesc.place (if jhdr.hdr.expert = true then (placeDesc, jobsUp) else
      ({ tier := placeDesc.tier, charter := placeDesc.charter, objectId := placeDesc.objectId, srcVa := placeDesc.srcVa, bytes := placeDesc.bytes, stageAddr := (firmwareArea placeDesc.bytes jobsUp).1 : PlaceDesc },
      (firmwareArea placeDesc.bytes jobsUp).2)).1, (if jhdr.hdr.expert = true then (placeDesc, jobsUp) else
      ({ tier := placeDesc.tier, charter := placeDesc.charter, objectId := placeDesc.objectId, srcVa := placeDesc.srcVa, bytes := placeDesc.bytes, stageAddr := (firmwareArea placeDesc.bytes jobsUp).1 : PlaceDesc },
      (firmwareArea placeDesc.bytes jobsUp).2)).2).2)) 64 ≤ logRoom)) ∧
    (descReserved (JobDesc.copy copyStage) = false ∧ (jhdr.hdr.expert = false → basicSet (JobDesc.copy copyStage) = false) ∧
      copyCheck copyStage jobsUp = 0 ∧ allocSlot (JobDesc.copy copyStage, jobsUp).2 = some 0 ∧ liveBytes (JobDesc.copy
      copyStage, jobsUp).2 + 64 + roundUp (List.length (descBytes (JobDesc.copy copyStage, jobsUp).1 ++ attachments
      (JobDesc.copy copyStage, jobsUp).1 (JobDesc.copy copyStage, jobsUp).2)) 64 ≤ logRoom) := by
  (repeat' apply And.intro) <;> decide +kernel

/-- States and operands that meet the hypotheses of SchedulesAndCopies, clause by clause. -/
theorem test_met_SchedulesAndCopies :
    (fwRuns (withJob (schedule streamSt) up) = true ∧ jobOf (jobNo 0 (withJob (schedule streamSt) up)) (withJob (schedule
      streamSt) up) = some (schedule streamSt) ∧ jobLive (schedule streamSt) = true ∧ (schedule streamSt).phase ≠
      JobPhase.offered ∧ (streamOf? (schedule streamSt)).isSome = true) ∧
    (fwRuns up = true ∧ jobOf (jobNo 4095 up) up = none) ∧
    (fwRuns copied = true ∧ copyT1 ∈ copied.copies ∧ copyT1.objectId = 9 ∧ copyT1.stageAddr = 65536 ∧ copyT1.usable = true ∧
      (∀ x ∈ copied.copies, x.objectId = 9 → x.stageAddr = 65536 → copyInUse x copied = false)) ∧
    (fwRuns copyUsed = true ∧ copyT1 ∈ copyUsed.copies ∧ copyInUse copyT1 copyUsed = true) := by
  (repeat' apply And.intro) <;> decide +kernel

/-- States and operands that meet the hypotheses of ProgramKeysAndBlocks, clause by clause. -/
theorem test_met_ProgramKeysAndBlocks :
    (fwRuns up = true ∧ 7 ≤ 7 ∧ tget up.hm.keys 7 = none ∧ List.length (zeros 97) = 97 ∧ up.hm.meas.length < 8192) ∧
    (fwRuns enrolled = true ∧ tget enrolled.hm.keys 7 = some (zeros 97)) ∧
    (∀ p ∈ enrolled.hm.programs, imgKey p.2.image ≠ 7) ∧
    (fwRuns (stagedAt 0) = true ∧ [1#8] ≠ [] ∧ [1#8].length ≤ 4096 ∧ 64 + [1#8].length ≤ imageMax ∧ (∀ p ∈ (tgetD (stagedAt
      0).hm.staged 1 ([], 0)).1, overlap p.1 (List.length p.2) 64 [1#8].length = false) ∧ ((tget (stagedAt 0).hm.staged
      1).isSome = true ∨ List.length (stagedAt 0).hm.staged < 4)) ∧
    (fwRuns holdingBusy = true ∧ programBusy 1 holdingBusy = true ∧ self holdingBusy ∈ maskDevices 1) ∧
    (fwRuns (holding [0, 1]) = true ∧ programBusy 1 (holding [0, 1]) = false ∧ maskDevices 1 = [self (holding [0, 1])]) ∧
    ((maskDevices 3 = [self (holding [0, 1]), 1] ∨ maskDevices 3 = [1, self (holding [0, 1])]) ∧ 1 ≠ self (holding [0, 1])) ∧
    (fwRuns (stagedAt 65536) = true ∧ tget (stagedAt 65536).hm.staged 1 = some ([(0, image1)], 0) ∧ ([(0, image1)], 0).2 +
      65536 ≤ (stagedAt 65536).tide.count) ∧
    (fwRuns (stagedAt 65535) = true ∧ tget (stagedAt 65535).hm.staged 1 = some ([(0, image1)], 0) ∧ (stagedAt
      65535).tide.count < ([(0, image1)], 0).2 + 65536) := by
  (repeat' apply And.intro) <;> decide +kernel

/-- States and operands that meet the hypotheses of ProgramCommits, clause by clause. -/
theorem test_met_ProgramCommits :
    (fwRuns (stagedAt 0) = true ∧ hx.expert = true ∧ stagedImage (tgetD (stagedAt 0).hm.staged 1 ([], 0)).1 (List.length
      image1) = some image1 ∧ imgCheck 1 image1 (stagedAt 0) ≠ 0) ∧
    fwRuns up = true ∧
    (fwRuns (holding []) = true ∧ fld (le 4 1) 0 4 = 1 ∧ tget (holding []).hm.programs 1 = some
      { image := image1, measurement := zeros 48, devices := [] : Program } ∧
      { image := image1, measurement := zeros 48, devices := [] : Program }.devices = []) ∧
    (fwRuns (holding [0, 1]) = true ∧ tget (holding [0, 1]).hm.programs 1 = some
      { image := image1, measurement := zeros 48, devices := [0, 1] : Program } ∧
      { image := image1, measurement := zeros 48, devices := [0, 1] : Program }.devices ≠ []) ∧
    (fwRuns holdingBusy = true ∧ tget holdingBusy.hm.programs 1 = some
      { image := image1, measurement := zeros 48, devices := [0] : Program } ∧ programBusy 1 holdingBusy = true) ∧
    programBusy 1 (holding [0, 1]) = false ∧
    (fld (le 4 1 ++ le 8 1) 0 4 = 1 ∧ self (holding [0, 1]) ∈ maskDevices (fld (le 4 1 ++ le 8 1) 4 8)) ∧
    (fwRuns (committing 0 [1] [1]) = true ∧ (committing 0 [1] [1]).hm.commits = [atStage 0 [1] [1]] ∧ (atStage 0 [1]
      [1]).awaiting = [1] ∧ (atStage 0 [1] [1]).first = none ∧ (atStage 0 [1] [1]).stage = 0 ∧ List.filter (fun e => e != self
      (committing 0 [1] [1])) (atStage 0 [1] [1]).named ≠ [] ∧ (self (committing 0 [1] [1]) ∈ (atStage 0 [1] [1]).named →
      installCode (atStage 0 [1] [1]).id (atStage 0 [1] [1]).image (committing 0 [1] [1]) = 0)) ∧
    (fwRuns (committing 0 [1] [0, 1]) = true ∧ (committing 0 [1] [0, 1]).hm.commits = [atStage 0 [1] [0, 1]] ∧ (atStage 0
      [1] [0, 1]).awaiting = [1] ∧ (atStage 0 [1] [0, 1]).first = none ∧ (atStage 0 [1] [0, 1]).stage = 0 ∧ List.filter (fun e
      => e != self (committing 0 [1] [0, 1])) (atStage 0 [1] [0, 1]).named ≠ [] ∧ (self (committing 0 [1] [0, 1]) ∈ (atStage 0
      [1] [0, 1]).named → installCode (atStage 0 [1] [0, 1]).id (atStage 0 [1] [0, 1]).image (committing 0 [1] [0, 1]) = 0)) ∧
    (fwRuns (committing 1 [1] [0, 1]) = true ∧ (committing 1 [1] [0, 1]).hm.commits = [atStage 1 [1] [0, 1]] ∧ (atStage 1
      [1] [0, 1]).awaiting = [1] ∧ (atStage 1 [1] [0, 1]).first = none ∧ (atStage 1 [1] [0, 1]).stage = 1) ∧
    4422 ≠ 0 ∧
    (fwRuns (committing 2 [1] [0, 1]) = true ∧ (committing 2 [1] [0, 1]).hm.commits = [atStage 2 [1] [0, 1]] ∧ (atStage 2
      [1] [0, 1]).awaiting = [1] ∧ (atStage 2 [1] [0, 1]).first = none ∧ (atStage 2 [1] [0, 1]).stage = 2 ∧ self (committing 2
      [1] [0, 1]) ∈ (atStage 2 [1] [0, 1]).named) ∧
    (fwRuns (committing 1 [1, 2] [1, 2]) = true ∧ (committing 1 [1, 2] [1, 2]).hm.commits = [atStage 1 [1, 2] [1, 2]] ∧
      (atStage 1 [1, 2] [1, 2]).awaiting = [1, 2] ∧ 1 ≠ 2) := by
  (repeat' apply And.intro) <;> decide +kernel

/-- States and operands that meet the hypotheses of FirmwareBlocks, clause by clause. -/
theorem test_met_FirmwareBlocks :
    ((fwRuns (fwStaged 0) || inRecovery (fwStaged 0)) = true ∧ fwBusy (fwStaged 0) = false ∧ zeros 4 ≠ [] ∧ List.length
      (zeros 4) ≤ 4096 ∧ 33554428 + List.length (zeros 4) ≤ 33554432 ∧ (∀ p ∈ fwBlocks (fwStaged 0), overlap p.1 (List.length
      p.2) 33554428 (List.length (zeros 4)) = false)) ∧
    (zeros 4 = [] ∨ 4096 < List.length (zeros 4) ∨ 33554432 < 33554429 + List.length (zeros 4)) ∧
    (coreRuns (fwStaged 65536) = true ∧ (fwStaged 65536).hm.fwStage = some ([(0, image1)], 0) ∧ ([(0, image1)], 0).2 + 65536
      ≤ (fwStaged 65536).tide.count) ∧
    ((fwStaged 65535).hm.fwStage = some ([(0, image1)], 0) ∧ (fwStaged 65535).tide.count < ([(0, image1)], 0).2 + 65536) ∧
    fwRuns up = true ∧
    (fwRuns up || inRecovery up) = true := by
  (repeat' apply And.intro) <;> decide +kernel

/-- States and operands that meet the hypotheses of FirmwareCommits, clause by clause. -/
theorem test_met_FirmwareCommits :
    (fwRuns (fwStaged 0) = true ∧ fwBusy (fwStaged 0) = false ∧ stagedImage (fwBlocks (fwStaged 0)) (List.length image1) =
      some image1 ∧ bit 3 (self (fwStaged 0)) = true ∧ self (fwStaged 0) < 64) ∧
    fwRuns up = true ∧
    (fwRuns (fwCommitting [1]) = true ∧ (fwCommitting [1]).hm.fwCommit = some (waitsFor [1]) ∧ (waitsFor [1]).awaiting = [1]
      ∧ (waitsFor [1]).first = none) ∧
    (fwRuns (fwCommitting [1, 2]) = true ∧ (fwCommitting [1, 2]).hm.fwCommit = some (waitsFor [1, 2]) ∧ (waitsFor [1,
      2]).awaiting = [1, 2] ∧ 1 ≠ 2 ∧ (waitsFor [1, 2]).first = none ∧ 1 ≠ 0) := by
  (repeat' apply And.intro) <;> decide +kernel

/-- States and operands that meet the hypotheses of FirmwareRunsAgain, clause by clause. -/
theorem test_met_FirmwareRunsAgain :
    (coreRuns up = true ∧ up.hm.frozen = false ∧ up.hm.fwReady = true) ∧
    aliveFw.hm.alive = true ∧
    (coreRuns fwDown = true ∧ fwDown.hm.fwReady = false ∧ fwDown.hm.frozen = false ∧ fwDown.acc.jobs = [] ∧
      fwDown.acc.waiting = [] ∧ fwDown.acc.flushFor = [] ∧ fwDown.man.issued = [] ∧ fwDown.hm.commits = [] ∧
      fwDown.hm.fwCommit = none ∧ fwDown.sec.enterAt = none) ∧
    (fwRuns (stepsLeft [3]) = true ∧ (stepsLeft [3]).hm.fwSteps = [3]) ∧
    (fwRuns (stepsLeft [2]) = true ∧ (stepsLeft [2]).hm.fwSteps = [2] ∧ holdupOk none 4096 (noteHoldup none (stepsLeft [2]))
      = false) ∧
    (fwRuns (declared (stepsLeft [2])) = true ∧ (declared (stepsLeft [2])).hm.fwSteps = [2] ∧ (declared (stepsLeft
      [2])).hm.fwPendingRaised = true ∧ holdupOk (some 60000) 4096 (noteHoldup (some 60000) (declared (stepsLeft [2]))) =
      true) ∧
    (coreRuns activated = true ∧ activated.man.issued = [activating] ∧ activating.applied = true ∧ 1 ∈ activating.awaiting ∧
      activating.awaiting.erase 1 ≠ []) := by
  (repeat' apply And.intro) <;> decide +kernel

/-- States and operands that meet the hypotheses of FlushesBeginAndEnd, clause by clause. -/
theorem test_met_FlushesBeginAndEnd :
    ((declared up).acc.flush = none ∧ fwRuns (declared up) = true ∧ holdupOk (some 60000) (recordsSize (declared
      up).acc.log) (noteHoldup (some 60000) (declared up)) = true) ∧
    (up.acc.flush = none ∧ fwRuns up = true ∧ holdupOk none (recordsSize up.acc.log) (noteHoldup none up) = false ∧ holdupOk
      none (4096 + 64 * (liveRecords up).length) (noteHoldup none up) = false) ∧
    (coreRuns (declared up) = true ∧ lbBusy (declared up) = false) ∧
    (down.acc.flush = none ∧ coreRuns down = false) ∧
    (flushing.acc.flush = some (true, []) ∧ flushing.acc.flushFor = [FlushOwner.powerFail] ∧ flushing.acc.waiting = []) := by
  (repeat' apply And.intro) <;> decide +kernel

/-- States and operands that meet the hypotheses of LifeboatOperations, clause by clause. -/
theorem test_met_LifeboatOperations :
    (coreRuns up = true ∧ (∀ r ∈ up.isl.lbRuns, r.op ≠ 2)) ∧
    (∀ r ∈ up.isl.lbRuns, r.op ≠ 6) ∧
    lbBusy up = false ∧
    15 < 16 ∧
    up.acc.jobs = [] ∧
    (coreRuns domain = true ∧ 2 < 4096 ∧ (∀ r ∈ domain.isl.lbRuns, r.op ≠ 4) ∧ tget domain.man.charters 2 = some charter2 ∧
      domain.acc.jobs = [] ∧ domain.sw.cells = [] ∧ domain.ing.cache = [] ∧ domain.ing.policed = [] ∧ domain.ing.held = [] ∧
      domain.ing.waiting = []) ∧
    ((∀ r ∈ up.isl.lbRuns, r.op ≠ 5) ∧ up.man.charters = []) ∧
    1 ≠ 0 ∧
    (coreRuns lbRuns3 = true ∧ lbBusy lbRuns3 = true) := by
  (repeat' apply And.intro) <;> decide +kernel

/-- States and operands that meet the hypotheses of Resets, clause by clause. -/
theorem test_met_Resets :
    (up.isl.held = false ∧ up.isl.resetState ≠ ResetState.cold) ∧
    (1 ≤ 7 ∧ 7 ≤ 7) ∧
    held.isl.held = true ∧
    (warm.isl.held = false ∧ warm.isl.resetState = ResetState.warm) ∧
    (down.isl.held = false ∧ down.isl.resetState = ResetState.cold) := by
  (repeat' apply And.intro) <;> decide +kernel

/-- States and operands that meet the hypotheses of PowerAndBoard, clause by clause. -/
theorem test_met_PowerAndBoard :
    (hmRuns up = true ∧ up.hm.capNext.getD up.hm.capped = false ∧ 2000000 < 2000001) ∧
    (hmRuns capped = true ∧ capped.hm.capNext.getD capped.hm.capped = true ∧ 1899999 < 1900000) ∧
    up.hm.hot = false ∧
    (hmRuns hotFw = true ∧ hotFw.hm.hot = true) ∧
    (coreRuns sampled = true ∧ 0 < sampled.hm.powerSum.2) ∧
    upLatched.isl.resetState = ResetState.running ∧
    (up.acc.flushMode = false ∧ List.length declBytes = 64 ∧ 1000 ≤ fld declBytes 0 4 ∧ fld declBytes 0 4 ≤ 10000000 ∧ 1000
      ≤ fld declBytes 4 2 ∧ fld declBytes 4 2 ≤ 60000 ∧ fld declBytes 6 1 < 128 ∧ slice declBytes 12 48 = zeros 48 ∧ fld
      declBytes 60 4 = crc32c (List.take 60 declBytes)) ∧
    (List.length noBytes ≠ 64 ∨ fld noBytes 0 4 < 1000 ∨ 10000000 < fld noBytes 0 4 ∨ up.acc.flushMode = true) := by
  (repeat' apply And.intro) <;> decide +kernel

/-- States and operands that meet the hypotheses of TelemetryIsRead, clause by clause. -/
theorem test_met_TelemetryIsRead :
    fwRuns up = true := by
  decide +kernel

/-- States and operands that meet the hypotheses of TideBoundaryOpensTide, clause by clause. -/
theorem test_met_TideBoundaryOpensTide :
    (coreRuns up = true ∧ nothingDue up) ∧
    (coreRuns lateBook = true ∧ lateBook.hm.frozen = false ∧ (bookOf EngineKind.crane 0 lateBook).late = true) ∧
    (up.hm.frozen = true ∨ (bookOf EngineKind.stream 0 up).late = false) ∧
    (coreRuns lowered = true ∧ (bookOf EngineKind.crane 0 lowered).lowered = true ∧ (∀ x ∈ (bookOf EngineKind.crane 0
      lowered).overruns, x + 64 ≤ lowered.tide.count)) := by
  (repeat' apply And.intro) <;> decide +kernel

/-- States and operands that meet the hypotheses of TideMarkers, clause by clause. -/
theorem test_met_TideMarkers :
    (coreRuns (ringed 1) = true ∧ (ringed 1).isl.bypass = Bypass.open ∧ isMaster (ringed 1) = false ∧ (ringed
      1).tide.followed = true ∧ (ringed 1).tide.locked = true ∧ (ringed 1).tide.eastMark ≠ some 1 ∧ -160 ≤ 160 ∧ 160 ≤ 160) ∧
    (coreRuns marked = true ∧ marked.isl.bypass = Bypass.open ∧ isMaster marked = false ∧ marked.tide.followed = true ∧
      marked.tide.locked = true ∧ marked.tide.eastMark = some 1) ∧
    160 < 161 ∧
    (coreRuns unlockedRing = true ∧ unlockedRing.isl.bypass = Bypass.open ∧ isMaster unlockedRing = false ∧
      (unlockedRing.tide.followed = false ∨ unlockedRing.tide.locked = false ∧ -160 ≤ 0 ∧ 0 ≤ 160)) ∧
    (coreRuns (ringed 0) = true ∧ (ringed 0).isl.bypass = Bypass.open ∧ isMaster (ringed 0) = true) ∧
    (coreRuns (missed 1) = true ∧ (missed 1).isl.bypass = Bypass.open ∧ isMaster (missed 1) = false ∧ (missed 1).tide.missed
      = 1 ∧ (missed 1).tide.hasMaster = true) ∧
    (coreRuns (missed 2) = true ∧ (missed 2).isl.bypass = Bypass.open ∧ isMaster (missed 2) = false ∧ (missed 2).tide.missed
      = 2 ∧ (missed 2).tide.takeover = none ∧ (missed 2).tide.locked = true) ∧
    (coreRuns (takingOver 1) = true ∧ (takingOver 1).isl.bypass = Bypass.open ∧ (takingOver 1).tide.takeover = some 1 ∧ 1 ≤
      (takingOver 1).tide.count + 1) ∧
    (coreRuns (takingOver 2) = true ∧ (takingOver 2).isl.bypass = Bypass.open ∧ (takingOver 2).tide.takeover = some 2 ∧
      (takingOver 2).tide.count + 1 < 2) := by
  (repeat' apply And.intro) <;> decide +kernel

/-- States and operands that meet the hypotheses of RingSlots, clause by clause. -/
theorem test_met_RingSlots :
    (onRing up = false ∧ up.isl.bypass ≠ Bypass.releasing) ∧
    (coreRuns (bypassed Bypass.releasing none) = true ∧ (bypassed Bypass.releasing none).isl.bypass = Bypass.releasing ∧
      headerOk (slotWith 3 1 grantMsg) = true ∧ slotKind (slotWith 3 1 grantMsg) = 3 ∧ slotMsg (slotWith 3 1 grantMsg) =
      SlotMsg.control 1 9 ctlSpliceGrant [(bypassed Bypass.releasing none).tide.site, 0, 5] ∧ payloadOk (slotWith 3 1
      grantMsg) = true ∧ 1 ≠ self (bypassed Bypass.releasing none) ∧ compCurrent (slotComp (slotWith 3 1 grantMsg)) (bypassed
      Bypass.releasing none) = true ∧ (1, 9) ∉ (bypassed Bypass.releasing none).ring.handled) ∧
    (onRing (ringed 1) = true ∧ (ringed 1).ring.broken = none ∧ isMaster (ringed 1) = false ∧ headerOk badSlot = false) ∧
    (headerOk (slotWith 6 1 SlotMsg.empty) = true ∧ 6 ≤ slotKind (slotWith 6 1 SlotMsg.empty)) ∧
    (headerOk (slotWith 3 1 restoreMsg) = true ∧ slotKind (slotWith 3 1 restoreMsg) = 3 ∧ slotMsg (slotWith 3 1 restoreMsg)
      = SlotMsg.control 1 9 ctlRestore [4] ∧ payloadOk (slotWith 3 1 restoreMsg) = true ∧ 1 ≠ self (ringed 1) ∧ compCurrent
      (slotComp (slotWith 3 1 restoreMsg)) (ringed 1) = true ∧ (1, 9) ∉ (ringed 1).ring.handled) ∧
    (onRing handledRing = true ∧ handledRing.ring.broken = none ∧ isMaster handledRing = false ∧ (1, 9) ∈
      handledRing.ring.handled ∧ compCurrent (slotComp (slotWith 3 1 restoreMsg)) handledRing = true) ∧
    (onRing laterRing = true ∧ laterRing.ring.broken = none ∧ isMaster laterRing = false ∧ 1 ≠ self laterRing ∧ compCurrent
      (slotComp (slotWith 3 1 restoreMsg)) laterRing = false) ∧
    (slotOwner (slotWith 1 1 (SlotMsg.snoop [snoop1])) ≠ (ringed 1).tide.site ∧ slotKind (slotWith 1 1 (SlotMsg.snoop
      [snoop1])) = 1 ∧ snoopsOf (slice (slotWith 1 1 (SlotMsg.snoop [snoop1])).block 12 496) = [snoop1] ∧ payloadOk (slotWith
      1 1 (SlotMsg.snoop [snoop1])) = true ∧ answersOk (slotWith 1 1 (SlotMsg.snoop [snoop1])) = true ∧ compCurrent (slotComp
      (slotWith 1 1 (SlotMsg.snoop [snoop1]))) (ringed 1) = true ∧ self (ringed 1) ∉ snoop1.targets) ∧
    (slotOwner (slotWith 1 1 (SlotMsg.snoop [snoop1])) ≠ laterRing.tide.site ∧ compCurrent (slotComp (slotWith 1 1
      (SlotMsg.snoop [snoop1]))) laterRing = false) ∧
    (headerOk (slotAt 1 1 1 SlotMsg.empty) = true ∧ ownNumber (slotNumber (slotAt 1 1 1 SlotMsg.empty)) (ringed 1) = false) ∧
    ((ringed 1).ring.tx = [] ∧ headerOk (slotWith 1 0 SlotMsg.empty) = true ∧ ownNumber (slotNumber (slotWith 1 0
      SlotMsg.empty)) (ringed 1) = true) ∧
    (onRing sendingRing = true ∧ sendingRing.ring.broken = none ∧ isMaster sendingRing = false ∧ sendingRing.ring.tx =
      [waitingTx] ∧ waitingTx.slot = none ∧ waitingTx.msg = SlotMsg.control 0 1 ctlRestore [4] ∧ moreControl waitingTx.msg
      waitingTx.at_ = false ∧ ownNumber 0 sendingRing = true) ∧
    (onRing sentRing = true ∧ sentRing.ring.broken = none ∧ isMaster sentRing = false ∧ sentRing.ring.tx = [sentTx] ∧
      sentTx.slot = some 0 ∧ sentTx.msg = SlotMsg.control 0 1 ctlRestore [4] ∧ moreControl sentTx.msg sentTx.at_ = false ∧
      sentTx.reissues < 3 ∧ ownNumber 0 sentRing = true) ∧
    (onRing routed = true ∧ routed.ring.broken = none ∧ isMaster routed = false ∧ slotKind dataSlot = 5 ∧ payloadOk dataSlot
      = true ∧ compCurrent (slotComp dataSlot) routed = true ∧ (linkHdr dataSlot.block).kind = 1 ∧ blockItems 1 (linkHdr
      dataSlot.block).unitMap (slice dataSlot.block 12 496) = some [(0, reqBytes)] ∧ (reqOf reqBytes []).home ≠ self routed ∧
      mapOf (reqOf reqBytes []).routeEpoch routed = some { toDevice := [(1, [0])], toHost := [], groups := [] : RouteMap } ∧
      deviceCtx (reqOf reqBytes []).home { toDevice := [(1, [0])], toHost := [], groups := [] : RouteMap } routed = some 0 ∧
      tget routed.ports.codecs 0 = none) ∧
    (onRing markingRing = true ∧ markingRing.ring.broken = none ∧ isMaster markingRing = true ∧ markingRing.ring.tx = [] ∧
      markingRing.ring.markEast = true ∧ ownNumber 0 markingRing = true) := by
  repeat' apply And.intro
  all_goals first
    | with_reducible exact linkCrcOk_blocks.1
    | with_reducible exact linkCrcOk_blocks.2.1
    | with_reducible exact linkCrcOk_blocks.2.2
    | with_reducible exact payloadOk_slotWith.1
    | with_reducible exact payloadOk_slotWith.2.1
    | with_reducible exact payloadOk_slotWith.2.2
    | with_reducible exact payloadOk_dataSlot
    | with_reducible exact answersOk_slotWith
    | decide +kernel

/-- States and operands that meet the hypotheses of RingLinks, clause by clause. -/
theorem test_met_RingLinks :
    (coreRuns up = true ∧ 240 * 1 < 241) ∧
    240 ≤ 240 * 1 ∧
    ident2.partClass = 2 ∧
    { partClass := 1, partCode := ident2.partCode, role := ident2.role, widths := ident2.widths, deviceId := ident2.deviceId, coherent := ident2.coherent, refuse := ident2.refuse : Ident }.partClass
      ≠ 2 ∧
    (coreRuns (ringed 0) = true ∧ (ringed 0).ring.broken = none) ∧
    (coreRuns broken = true ∧ broken.ring.broken = some 1 ∧ isMaster broken = true ∧ reachesRing broken) ∧
    (coreRuns (restoring 0) = true ∧ (restoring 0).ring.restoreAt = some 0 ∧ 0 ≤ (restoring 0).tide.count ∧ (restoring
      0).home.rounds = []) ∧
    (coreRuns (restoring 1) = true ∧ (restoring 1).ring.restoreAt = some 1 ∧ (restoring 1).tide.count < 1) := by
  (repeat' apply And.intro) <;> decide +kernel

/-- States and operands that meet the hypotheses of RingBypass, clause by clause. -/
theorem test_met_RingBypass :
    (coreRuns (bypassed Bypass.closed none) = true ∧ (bypassed Bypass.closed none).isl.bypass = Bypass.closed ∧ (bypassed
      Bypass.closed none).ring.disabled = none ∧ 0 < (bypassed Bypass.closed none).tide.sites) ∧
    (coreRuns up = true ∧ up.isl.bypass = Bypass.closed ∧ (up.ring.disabled.isSome = true ∨ up.tide.sites = 0)) ∧
    (coreRuns (bypassed Bypass.releasing none) = true ∧ (bypassed Bypass.releasing none).isl.bypass = Bypass.releasing) ∧
    (coreRuns (ringed 1) = true ∧ (ringed 1).isl.bypass = Bypass.open ∧ isMaster (ringed 1) = false) ∧
    (coreRuns (ringed 0) = true ∧ isMaster (ringed 0) = true ∧ (∀ x ∈ (ringed 0).ring.splices, x.site ≠ 1) ∧ (∀ x ∈ (ringed
      0).ring.grants, x.site = 1 → x.tide ≤ (ringed 0).tide.count)) ∧
    (coreRuns splicing = true ∧ isMaster splicing = true ∧ splicing.ring.splices = [splice1] ∧ splice1.site <
      splicing.tide.sites ∧ splice1.site ≠ splicing.tide.site ∧ splicing.man.notices = [] ∧ (∀ g ∈ splicing.ring.grants,
      g.tide ≠ splicing.tide.count + 4) ∧ reachesRing splicing) ∧
    (coreRuns (bypassed Bypass.releasing (some 0)) = true ∧ (bypassed Bypass.releasing (some 0)).isl.bypass =
      Bypass.releasing ∧ (bypassed Bypass.releasing (some 0)).isl.granted = some 0 ∧ 0 ≤ (bypassed Bypass.releasing (some
      0)).tide.count ∧ (bypassed Bypass.releasing (some 0)).tide.hasMaster = true) ∧
    (coreRuns (bypassed Bypass.closing (some 0)) = true ∧ (bypassed Bypass.closing (some 0)).isl.bypass = Bypass.closing ∧
      (bypassed Bypass.closing (some 0)).isl.granted = some 0 ∧ 0 ≤ (bypassed Bypass.closing (some 0)).tide.count) ∧
    (coreRuns (bypassed Bypass.releasing (some 1)) = true ∧ (bypassed Bypass.releasing (some 1)).isl.bypass =
      Bypass.releasing ∧ (bypassed Bypass.releasing (some 1)).isl.granted = some 1 ∧ (bypassed Bypass.releasing (some
      1)).tide.count < 1 ∧ (bypassed Bypass.releasing (some 1)).tide.hasMaster = true) ∧
    (coreRuns loneCore = true ∧ loneCore.isl.bypass = Bypass.releasing ∧ loneCore.tide.hasMaster = false ∧
      loneCore.tide.followed = false ∧ lowestOnRing loneCore = true) := by
  (repeat' apply And.intro) <;> decide +kernel

/-- States and operands that meet the hypotheses of HostRequests, clause by clause. -/
theorem test_met_HostRequests :
    (coreRuns (hosted (mapped 1) false) = true ∧ hostAt hostAcq.ctx (hosted (mapped 1) false) = some (ctx0 1 5) ∧ 0 <
      (hostOf (ctx0 1 5).host (hosted (mapped 1) false)).limit ∧ 0 < (hostOf (ctx0 1 5).host (hosted (mapped 1)
      false)).balance ∧ (hosted (mapped 1) false).ing.outst = [] ∧ (hosted (mapped 1) false).ing.held = [] ∧ (hosted (mapped
      1) false).ing.waiting = [] ∧ (hosted (mapped 1) false).ing.policed = [] ∧ (hosted (mapped 1) false).ing.reads = [] ∧
      (hosted (mapped 1) false).ing.atoms = [] ∧ requestCode opReadAcq (ctx0 1 5).host hostAcq (hosted (mapped 1) false) = (0,
      some 0, 0) ∧ (hosted (mapped 1) false).ing.filter = []) ∧
    (hostAt hostRead.ctx (hosted (mapped 1) false) = some (ctx0 1 5) ∧ requestCode opWrite (ctx0 1 5).host hostRead (hosted
      (mapped 1) false) = (0, some 0, 0)) ∧
    requestCode opWritePartial (ctx0 1 5).host hostRead (hosted (mapped 1) false) = (0, some 0, 0) ∧
    (hostAt hostSeal.ctx (hosted (mapped 1) false) = some (ctx0 1 5) ∧ sealSpoiled (ctx0 1 5).host (entryOf 0 (hosted
      (mapped 1) false)).homeDevice hostSeal.sealWindow (hosted (mapped 1) false) = false ∧ requestCode opWriteSeal (ctx0 1
      5).host hostSeal (hosted (mapped 1) false) = (0, some 0, 0)) ∧
    requestCode opStow (ctx0 1 5).host hostRead (hosted (mapped 1) false) = (0, some 0, 0) ∧
    requestCode opPublish (ctx0 1 5).host hostSeal (hosted (mapped 1) false) = (0, some 0, 0) ∧
    (coreRuns cachedHost = true ∧ hostAt hostRead.ctx cachedHost = some (ctx0 1 5) ∧ 0 < (hostOf (ctx0 1 5).host
      cachedHost).limit ∧ 0 < (hostOf (ctx0 1 5).host cachedHost).balance ∧ cachedHost.ing.outst = [] ∧ cachedHost.ing.held =
      [] ∧ cachedHost.ing.waiting = [] ∧ cachedHost.ing.policed = [] ∧ cachedHost.ing.reads = [] ∧ cachedHost.ing.atoms = [] ∧
      requestCode opRead (ctx0 1 5).host hostRead cachedHost = (0, some 0, 0) ∧ granulesOf (packetOf opRead (ctx0 1 5).host
      hostRead 0 0 cachedHost) = [0] ∧ cacheLine 0 ((packetOf opRead (ctx0 1 5).host hostRead 0 0 cachedHost).address / 64 *
      64) cachedHost = some cline ∧ hostAlive (ctx0 1 5).host cachedHost = true ∧ charterState hostRead.charter cachedHost ≠
      2) ∧
    (requestCode opRead (ctx0 1 5).host hostRead (hosted (mapped 1) false) = (0, some 0, 0) ∧ granulesOf (packetOf opRead
      (ctx0 1 5).host hostRead 0 0 (hosted (mapped 1) false)) = [0] ∧ cacheLine 0 ((packetOf opRead (ctx0 1 5).host hostRead 0
      0 (hosted (mapped 1) false)).address / 64 * 64) (hosted (mapped 1) false) = none ∧ (entryOf 0 (hosted (mapped 1)
      false)).cls ≠ 1 ∧ (entryOf 0 (hosted (mapped 1) false)).baseFpa % 64 = 0) ∧
    (hostAt hostAtomic.ctx (hosted (mapped 1) false) = some (ctx0 1 5) ∧ requestCode opAtomic (ctx0 1 5).host hostAtomic
      (hosted (mapped 1) false) = (0, some 0, 0)) ∧
    (hostAt hostRange.ctx (hosted (mapped 1) false) = some (ctx0 1 5) ∧ requestCode opAcquire (ctx0 1 5).host hostRange
      (hosted (mapped 1) false) = (0, some 0, 0) ∧ hostAlive (ctx0 1 5).host (hosted (mapped 1) false) = true) ∧
    (coreRuns (hosted coherentEntry true) = true ∧ hostAt hostRead.ctx (hosted coherentEntry true) = some
      { berth := (ctx0 1 5).berth, part := (ctx0 1 5).part, role := (ctx0 1 5).role, host := (ctx0 1 5).host, coherent := true, enable := (ctx0 1 5).enable, train := (ctx0 1 5).train, cause := (ctx0 1 5).cause, lanes := (ctx0 1 5).lanes, partner := (ctx0 1 5).partner, nextTx := (ctx0 1 5).nextTx, nextRx := (ctx0 1 5).nextRx, lastAck := (ctx0 1 5).lastAck, kept := (ctx0 1 5).kept, nakFor := (ctx0 1 5).nakFor, resends := (ctx0 1 5).resends, replay := (ctx0 1 5).replay, txCredit := (ctx0 1 5).txCredit, txTotal := (ctx0 1 5).txTotal, rxCredit := (ctx0 1 5).rxCredit, rxTotal := (ctx0 1 5).rxTotal, pings := (ctx0 1 5).pings, fecMarks := (ctx0 1 5).fecMarks, channels := (ctx0 1 5).channels, spanWait := (ctx0 1 5).spanWait, cut := (ctx0 1 5).cut, locked := (ctx0 1 5).locked, owed := (ctx0 1 5).owed, owedStream := (ctx0 1 5).owedStream, txOpen := (ctx0 1 5).txOpen, bad := (ctx0 1 5).bad : PortCtx }
      ∧ 0 < (hostOf
      { berth := (ctx0 1 5).berth, part := (ctx0 1 5).part, role := (ctx0 1 5).role, host := (ctx0 1 5).host, coherent := true, enable := (ctx0 1 5).enable, train := (ctx0 1 5).train, cause := (ctx0 1 5).cause, lanes := (ctx0 1 5).lanes, partner := (ctx0 1 5).partner, nextTx := (ctx0 1 5).nextTx, nextRx := (ctx0 1 5).nextRx, lastAck := (ctx0 1 5).lastAck, kept := (ctx0 1 5).kept, nakFor := (ctx0 1 5).nakFor, resends := (ctx0 1 5).resends, replay := (ctx0 1 5).replay, txCredit := (ctx0 1 5).txCredit, txTotal := (ctx0 1 5).txTotal, rxCredit := (ctx0 1 5).rxCredit, rxTotal := (ctx0 1 5).rxTotal, pings := (ctx0 1 5).pings, fecMarks := (ctx0 1 5).fecMarks, channels := (ctx0 1 5).channels, spanWait := (ctx0 1 5).spanWait, cut := (ctx0 1 5).cut, locked := (ctx0 1 5).locked, owed := (ctx0 1 5).owed, owedStream := (ctx0 1 5).owedStream, txOpen := (ctx0 1 5).txOpen, bad := (ctx0 1 5).bad : PortCtx }.host
      (hosted coherentEntry true)).limit ∧ 0 < (hostOf
      { berth := (ctx0 1 5).berth, part := (ctx0 1 5).part, role := (ctx0 1 5).role, host := (ctx0 1 5).host, coherent := true, enable := (ctx0 1 5).enable, train := (ctx0 1 5).train, cause := (ctx0 1 5).cause, lanes := (ctx0 1 5).lanes, partner := (ctx0 1 5).partner, nextTx := (ctx0 1 5).nextTx, nextRx := (ctx0 1 5).nextRx, lastAck := (ctx0 1 5).lastAck, kept := (ctx0 1 5).kept, nakFor := (ctx0 1 5).nakFor, resends := (ctx0 1 5).resends, replay := (ctx0 1 5).replay, txCredit := (ctx0 1 5).txCredit, txTotal := (ctx0 1 5).txTotal, rxCredit := (ctx0 1 5).rxCredit, rxTotal := (ctx0 1 5).rxTotal, pings := (ctx0 1 5).pings, fecMarks := (ctx0 1 5).fecMarks, channels := (ctx0 1 5).channels, spanWait := (ctx0 1 5).spanWait, cut := (ctx0 1 5).cut, locked := (ctx0 1 5).locked, owed := (ctx0 1 5).owed, owedStream := (ctx0 1 5).owedStream, txOpen := (ctx0 1 5).txOpen, bad := (ctx0 1 5).bad : PortCtx }.host
      (hosted coherentEntry true)).balance ∧ (hosted coherentEntry true).ing.outst = [] ∧ (hosted coherentEntry true).ing.held
      = [] ∧ (hosted coherentEntry true).ing.waiting = [] ∧ (hosted coherentEntry true).ing.policed = [] ∧ (hosted
      coherentEntry true).ing.reads = [] ∧ (hosted coherentEntry true).ing.atoms = [] ∧ requestCode opCShared
      { berth := (ctx0 1 5).berth, part := (ctx0 1 5).part, role := (ctx0 1 5).role, host := (ctx0 1 5).host, coherent := true, enable := (ctx0 1 5).enable, train := (ctx0 1 5).train, cause := (ctx0 1 5).cause, lanes := (ctx0 1 5).lanes, partner := (ctx0 1 5).partner, nextTx := (ctx0 1 5).nextTx, nextRx := (ctx0 1 5).nextRx, lastAck := (ctx0 1 5).lastAck, kept := (ctx0 1 5).kept, nakFor := (ctx0 1 5).nakFor, resends := (ctx0 1 5).resends, replay := (ctx0 1 5).replay, txCredit := (ctx0 1 5).txCredit, txTotal := (ctx0 1 5).txTotal, rxCredit := (ctx0 1 5).rxCredit, rxTotal := (ctx0 1 5).rxTotal, pings := (ctx0 1 5).pings, fecMarks := (ctx0 1 5).fecMarks, channels := (ctx0 1 5).channels, spanWait := (ctx0 1 5).spanWait, cut := (ctx0 1 5).cut, locked := (ctx0 1 5).locked, owed := (ctx0 1 5).owed, owedStream := (ctx0 1 5).owedStream, txOpen := (ctx0 1 5).txOpen, bad := (ctx0 1 5).bad : PortCtx }.host
      hostRead (hosted coherentEntry true) = (0, some 0, 0) ∧ (hosted coherentEntry true).ing.filter = []) ∧
    requestCode opCOwn
      { berth := (ctx0 1 5).berth, part := (ctx0 1 5).part, role := (ctx0 1 5).role, host := (ctx0 1 5).host, coherent := true, enable := (ctx0 1 5).enable, train := (ctx0 1 5).train, cause := (ctx0 1 5).cause, lanes := (ctx0 1 5).lanes, partner := (ctx0 1 5).partner, nextTx := (ctx0 1 5).nextTx, nextRx := (ctx0 1 5).nextRx, lastAck := (ctx0 1 5).lastAck, kept := (ctx0 1 5).kept, nakFor := (ctx0 1 5).nakFor, resends := (ctx0 1 5).resends, replay := (ctx0 1 5).replay, txCredit := (ctx0 1 5).txCredit, txTotal := (ctx0 1 5).txTotal, rxCredit := (ctx0 1 5).rxCredit, rxTotal := (ctx0 1 5).rxTotal, pings := (ctx0 1 5).pings, fecMarks := (ctx0 1 5).fecMarks, channels := (ctx0 1 5).channels, spanWait := (ctx0 1 5).spanWait, cut := (ctx0 1 5).cut, locked := (ctx0 1 5).locked, owed := (ctx0 1 5).owed, owedStream := (ctx0 1 5).owedStream, txOpen := (ctx0 1 5).txOpen, bad := (ctx0 1 5).bad : PortCtx }.host
      hostRead (hosted coherentEntry true) = (0, some 0, 0) ∧
    requestCode opCUpgrade
      { berth := (ctx0 1 5).berth, part := (ctx0 1 5).part, role := (ctx0 1 5).role, host := (ctx0 1 5).host, coherent := true, enable := (ctx0 1 5).enable, train := (ctx0 1 5).train, cause := (ctx0 1 5).cause, lanes := (ctx0 1 5).lanes, partner := (ctx0 1 5).partner, nextTx := (ctx0 1 5).nextTx, nextRx := (ctx0 1 5).nextRx, lastAck := (ctx0 1 5).lastAck, kept := (ctx0 1 5).kept, nakFor := (ctx0 1 5).nakFor, resends := (ctx0 1 5).resends, replay := (ctx0 1 5).replay, txCredit := (ctx0 1 5).txCredit, txTotal := (ctx0 1 5).txTotal, rxCredit := (ctx0 1 5).rxCredit, rxTotal := (ctx0 1 5).rxTotal, pings := (ctx0 1 5).pings, fecMarks := (ctx0 1 5).fecMarks, channels := (ctx0 1 5).channels, spanWait := (ctx0 1 5).spanWait, cut := (ctx0 1 5).cut, locked := (ctx0 1 5).locked, owed := (ctx0 1 5).owed, owedStream := (ctx0 1 5).owedStream, txOpen := (ctx0 1 5).txOpen, bad := (ctx0 1 5).bad : PortCtx }.host
      hostRead (hosted coherentEntry true) = (0, some 0, 0) ∧
    (coreRuns (filterHost (filtered 2 [5] [])) = true ∧ hostAt hostRead.ctx (filterHost (filtered 2 [5] [])) = some
      { berth := (ctx0 1 5).berth, part := (ctx0 1 5).part, role := (ctx0 1 5).role, host := (ctx0 1 5).host, coherent := true, enable := (ctx0 1 5).enable, train := (ctx0 1 5).train, cause := (ctx0 1 5).cause, lanes := (ctx0 1 5).lanes, partner := (ctx0 1 5).partner, nextTx := (ctx0 1 5).nextTx, nextRx := (ctx0 1 5).nextRx, lastAck := (ctx0 1 5).lastAck, kept := (ctx0 1 5).kept, nakFor := (ctx0 1 5).nakFor, resends := (ctx0 1 5).resends, replay := (ctx0 1 5).replay, txCredit := (ctx0 1 5).txCredit, txTotal := (ctx0 1 5).txTotal, rxCredit := (ctx0 1 5).rxCredit, rxTotal := (ctx0 1 5).rxTotal, pings := (ctx0 1 5).pings, fecMarks := (ctx0 1 5).fecMarks, channels := (ctx0 1 5).channels, spanWait := (ctx0 1 5).spanWait, cut := (ctx0 1 5).cut, locked := (ctx0 1 5).locked, owed := (ctx0 1 5).owed, owedStream := (ctx0 1 5).owedStream, txOpen := (ctx0 1 5).txOpen, bad := (ctx0 1 5).bad : PortCtx }
      ∧ 0 < (hostOf
      { berth := (ctx0 1 5).berth, part := (ctx0 1 5).part, role := (ctx0 1 5).role, host := (ctx0 1 5).host, coherent := true, enable := (ctx0 1 5).enable, train := (ctx0 1 5).train, cause := (ctx0 1 5).cause, lanes := (ctx0 1 5).lanes, partner := (ctx0 1 5).partner, nextTx := (ctx0 1 5).nextTx, nextRx := (ctx0 1 5).nextRx, lastAck := (ctx0 1 5).lastAck, kept := (ctx0 1 5).kept, nakFor := (ctx0 1 5).nakFor, resends := (ctx0 1 5).resends, replay := (ctx0 1 5).replay, txCredit := (ctx0 1 5).txCredit, txTotal := (ctx0 1 5).txTotal, rxCredit := (ctx0 1 5).rxCredit, rxTotal := (ctx0 1 5).rxTotal, pings := (ctx0 1 5).pings, fecMarks := (ctx0 1 5).fecMarks, channels := (ctx0 1 5).channels, spanWait := (ctx0 1 5).spanWait, cut := (ctx0 1 5).cut, locked := (ctx0 1 5).locked, owed := (ctx0 1 5).owed, owedStream := (ctx0 1 5).owedStream, txOpen := (ctx0 1 5).txOpen, bad := (ctx0 1 5).bad : PortCtx }.host
      (filterHost (filtered 2 [5] []))).limit ∧ 0 < (hostOf
      { berth := (ctx0 1 5).berth, part := (ctx0 1 5).part, role := (ctx0 1 5).role, host := (ctx0 1 5).host, coherent := true, enable := (ctx0 1 5).enable, train := (ctx0 1 5).train, cause := (ctx0 1 5).cause, lanes := (ctx0 1 5).lanes, partner := (ctx0 1 5).partner, nextTx := (ctx0 1 5).nextTx, nextRx := (ctx0 1 5).nextRx, lastAck := (ctx0 1 5).lastAck, kept := (ctx0 1 5).kept, nakFor := (ctx0 1 5).nakFor, resends := (ctx0 1 5).resends, replay := (ctx0 1 5).replay, txCredit := (ctx0 1 5).txCredit, txTotal := (ctx0 1 5).txTotal, rxCredit := (ctx0 1 5).rxCredit, rxTotal := (ctx0 1 5).rxTotal, pings := (ctx0 1 5).pings, fecMarks := (ctx0 1 5).fecMarks, channels := (ctx0 1 5).channels, spanWait := (ctx0 1 5).spanWait, cut := (ctx0 1 5).cut, locked := (ctx0 1 5).locked, owed := (ctx0 1 5).owed, owedStream := (ctx0 1 5).owedStream, txOpen := (ctx0 1 5).txOpen, bad := (ctx0 1 5).bad : PortCtx }.host
      (filterHost (filtered 2 [5] []))).balance ∧ (filterHost (filtered 2 [5] [])).ing.outst = [] ∧ (filterHost (filtered 2
      [5] [])).ing.held = [] ∧ (filterHost (filtered 2 [5] [])).ing.waiting = [] ∧ (filterHost (filtered 2 [5]
      [])).ing.policed = [] ∧ (filterHost (filtered 2 [5] [])).ing.reads = [] ∧ (filterHost (filtered 2 [5] [])).ing.atoms =
      [] ∧ requestCode opCWriteback
      { berth := (ctx0 1 5).berth, part := (ctx0 1 5).part, role := (ctx0 1 5).role, host := (ctx0 1 5).host, coherent := true, enable := (ctx0 1 5).enable, train := (ctx0 1 5).train, cause := (ctx0 1 5).cause, lanes := (ctx0 1 5).lanes, partner := (ctx0 1 5).partner, nextTx := (ctx0 1 5).nextTx, nextRx := (ctx0 1 5).nextRx, lastAck := (ctx0 1 5).lastAck, kept := (ctx0 1 5).kept, nakFor := (ctx0 1 5).nakFor, resends := (ctx0 1 5).resends, replay := (ctx0 1 5).replay, txCredit := (ctx0 1 5).txCredit, txTotal := (ctx0 1 5).txTotal, rxCredit := (ctx0 1 5).rxCredit, rxTotal := (ctx0 1 5).rxTotal, pings := (ctx0 1 5).pings, fecMarks := (ctx0 1 5).fecMarks, channels := (ctx0 1 5).channels, spanWait := (ctx0 1 5).spanWait, cut := (ctx0 1 5).cut, locked := (ctx0 1 5).locked, owed := (ctx0 1 5).owed, owedStream := (ctx0 1 5).owedStream, txOpen := (ctx0 1 5).txOpen, bad := (ctx0 1 5).bad : PortCtx }.host
      hostRead (filterHost (filtered 2 [5] [])) = (0, some 0, 0) ∧ (filterHost (filtered 2 [5] [])).ing.filter = [filtered 2
      [5] []] ∧ (filtered 2 [5] []).line = (entryOf 0 (filterHost (filtered 2 [5] []))).baseFpa + 0 / 64 * 64 ∧ (filtered 2
      [5] []).state = 2 ∧ (filtered 2 [5] []).dirty = none ∧ (filtered 2 [5] []).owed = none ∧ (filtered 2 [5] []).recalls =
      [] ∧ (filtered 2 [5] []).releasing = none ∧ (filtered 2 [5] []).holders =
      [{ berth := (ctx0 1 5).berth, part := (ctx0 1 5).part, role := (ctx0 1 5).role, host := (ctx0 1 5).host, coherent := true, enable := (ctx0 1 5).enable, train := (ctx0 1 5).train, cause := (ctx0 1 5).cause, lanes := (ctx0 1 5).lanes, partner := (ctx0 1 5).partner, nextTx := (ctx0 1 5).nextTx, nextRx := (ctx0 1 5).nextRx, lastAck := (ctx0 1 5).lastAck, kept := (ctx0 1 5).kept, nakFor := (ctx0 1 5).nakFor, resends := (ctx0 1 5).resends, replay := (ctx0 1 5).replay, txCredit := (ctx0 1 5).txCredit, txTotal := (ctx0 1 5).txTotal, rxCredit := (ctx0 1 5).rxCredit, rxTotal := (ctx0 1 5).rxTotal, pings := (ctx0 1 5).pings, fecMarks := (ctx0 1 5).fecMarks, channels := (ctx0 1 5).channels, spanWait := (ctx0 1 5).spanWait, cut := (ctx0 1 5).cut, locked := (ctx0 1 5).locked, owed := (ctx0 1 5).owed, owedStream := (ctx0 1 5).owedStream, txOpen := (ctx0 1 5).txOpen, bad := (ctx0 1 5).bad : PortCtx }.host]) ∧
    requestCode opCEvict
      { berth := (ctx0 1 5).berth, part := (ctx0 1 5).part, role := (ctx0 1 5).role, host := (ctx0 1 5).host, coherent := true, enable := (ctx0 1 5).enable, train := (ctx0 1 5).train, cause := (ctx0 1 5).cause, lanes := (ctx0 1 5).lanes, partner := (ctx0 1 5).partner, nextTx := (ctx0 1 5).nextTx, nextRx := (ctx0 1 5).nextRx, lastAck := (ctx0 1 5).lastAck, kept := (ctx0 1 5).kept, nakFor := (ctx0 1 5).nakFor, resends := (ctx0 1 5).resends, replay := (ctx0 1 5).replay, txCredit := (ctx0 1 5).txCredit, txTotal := (ctx0 1 5).txTotal, rxCredit := (ctx0 1 5).rxCredit, rxTotal := (ctx0 1 5).rxTotal, pings := (ctx0 1 5).pings, fecMarks := (ctx0 1 5).fecMarks, channels := (ctx0 1 5).channels, spanWait := (ctx0 1 5).spanWait, cut := (ctx0 1 5).cut, locked := (ctx0 1 5).locked, owed := (ctx0 1 5).owed, owedStream := (ctx0 1 5).owedStream, txOpen := (ctx0 1 5).txOpen, bad := (ctx0 1 5).bad : PortCtx }.host
      hostRead (filterHost (filtered 2 [5] [])) = (0, some 0, 0) := by
  (repeat' apply And.intro) <;> decide +kernel

/-- States and operands that meet the hypotheses of CoherentAgents, clause by clause. -/
theorem test_met_CoherentAgents :
    (coreRuns (filterHost (filtered 2 [5] [(5, true, 0)])) = true ∧ (filterHost (filtered 2 [5] [(5, true, 0)])).ing.filter
      = [filtered 2 [5] [(5, true, 0)]] ∧ (filtered 2 [5] [(5, true, 0)]).line = 0 ∧ (filtered 2 [5] [(5, true, 0)]).recalls =
      [(5, true, 0)] ∧ (filtered 2 [5] [(5, true, 0)]).lost = false ∧ (filterHost (filtered 2 [5] [(5, true, 0)])).ing.waiting
      = [] ∧ (filterHost (filtered 2 [5] [(5, true, 0)])).ing.held = [] ∧ leaving (filterHost (filtered 2 [5] [(5, true, 0)]))
      = false) ∧
    (coreRuns (filterHost (filtered 1 [5] [(5, true, 0)])) = true ∧ (filterHost (filtered 1 [5] [(5, true, 0)])).ing.filter
      = [filtered 1 [5] [(5, true, 0)]] ∧ (filtered 1 [5] [(5, true, 0)]).line = 0 ∧ (filtered 1 [5] [(5, true, 0)]).recalls =
      [(5, true, 0)] ∧ (filtered 1 [5] [(5, true, 0)]).state = 1 ∧ (filtered 1 [5] [(5, true, 0)]).dirty = none ∧ (filtered 1
      [5] [(5, true, 0)]).lost = false ∧ (filterHost (filtered 1 [5] [(5, true, 0)])).ing.waiting = [] ∧ (filterHost (filtered
      1 [5] [(5, true, 0)])).ing.held = [] ∧ leaving (filterHost (filtered 1 [5] [(5, true, 0)])) = false ∧ 5 ∉ (filterHost
      (filtered 1 [5] [(5, true, 0)])).ing.deadHosts) ∧
    (coreRuns (hosted coherentEntry true) = true ∧ (fab 9).opcode < opMark ∧ (hosted coherentEntry true).ing.filter.length <
      filterLimit ∧ List.length (hosted coherentEntry true).ing.cache < cacheLimit ∧ filterOf (fab 9).address (hosted
      coherentEntry true) = none ∧ (entryOf (fab 9).entry (hosted coherentEntry true)).state = 1 ∧ (entryOf (fab 9).entry
      (hosted coherentEntry true)).generation = (fab 9).generation) ∧
    (coreRuns (filterHost (filtered 2 [5] [])) = true ∧ (filterOf (fab 9).address (filterHost (filtered 2 [5] []))).isSome =
      true) ∧
    (coreRuns (dirAt (dirEnt 1 [1] true) []) = true ∧ dirOf 0 (dirAt (dirEnt 1 [1] true) []) = some (dirEnt 1 [1] true) ∧
      (dirEnt 1 [1] true).busy = true ∧ roundOf 0 (dirAt (dirEnt 1 [1] true) []) = none ∧ (dirEnt 1 [1] true).presence = [1]) ∧
    ((dirAt (dirEnt 1 [1] true) []).home.dir = [dirEnt 1 [1] true] ∧ (dirEnt 1 [1] true).line = 0 ∧ (entryOf (dirEnt 1 [1]
      true).entry (dirAt (dirEnt 1 [1] true) [])).generation = (dirEnt 1 [1] true).generation) ∧
    (coreRuns (rounding [1, 2] []) = true ∧ srcDevice (fab 9) ∉ (rounding [1, 2] []).home.dead ∧ (rounding [1, 2]
      []).home.rounds = [round1 [1, 2]] ∧ (round1 [1, 2]).line = (fab 9).address ∧ (rounding [1, 2] []).home.dir = [] ∧
      (round1 [1, 2]).kind = 1 ∧ (round1 [1, 2]).ask = [srcDevice (fab 9), 2] ∧ srcDevice (fab 9) ∉ (round1 [1, 2]).early ∧
      (fab 9).aux = 0 ∧ (fab 9).payload ≠ []) ∧
    (coreRuns (rounding [1, 2] [1]) = true ∧ srcDevice (fab 9) ∈ (rounding [1, 2] [1]).home.dead) ∧
    ((round1 [1, 2]).snoopId = 7 ∧ (round1 [1, 2]).ask = [1, 2] ∧ 1 ≠ 2 ∧ 1 ≠ self (rounding [1, 2] []) ∧ 2 ≠ self (rounding
      [1, 2] []) ∧ reachesRing (rounding [1, 2] []) ∧ (round1 [1, 2]).retries < 15) ∧
    (coreRuns homeC = true ∧ homeC.home.rounds = [] ∧ 1 ∉ homeC.home.dead) ∧
    (coreRuns (dirAt (dirEnt 1 [1, 2] false) [1]) = true ∧ 1 ∈ (dirAt (dirEnt 1 [1, 2] false) [1]).home.dead ∧ (dirAt
      (dirEnt 1 [1, 2] false) [1]).home.rounds = [] ∧ (dirAt (dirEnt 1 [1, 2] false) [1]).home.dir = [dirEnt 1 [1, 2] false] ∧
      (dirEnt 1 [1, 2] false).state = 1 ∧ (dirEnt 1 [1, 2] false).presence = [1, 2] ∧ tgetD (dirAt (dirEnt 1 [1, 2] false)
      [1]).home.linesPoisoned 1 0 = 0) := by
  (repeat' apply And.intro) <;> decide +kernel

/-- States and operands that meet the hypotheses of HomeRequests, clause by clause. -/
theorem test_met_HomeRequests :
    (coreRuns homeAt = true ∧ (fab 1).opcode = opRead ∧ (fab 1).jobValid = false ∧ serves (entryOf (fab 1).entry
      homeAt).charter homeAt = true ∧ entryCurrent (fab 1) homeAt = true ∧ queueFull (fab 1) homeAt = false ∧
      homeAt.home.waiting = [] ∧ stepsOf (offsetIn (fab 1) (entryOf (fab 1).entry homeAt)) (touched (fab 1)) = [(0, 0, 64,
      0)]) ∧
    ((fab 9).opcode < opMark ∧ serves (fab 9).charter homeAt = true ∧ jobSealed (fab 9) homeAt = false ∧ staleAttempt (fab
      9) homeAt = false ∧ List.length homeAt.home.fences < 4096) ∧
    (coreRuns (fenced 1) = true ∧ serves (fab 9).charter (fenced 1) = true ∧ jobSealed (fab 9) (fenced 1) = false ∧
      staleAttempt (fab 9) (fenced 1) = true) ∧
    (coreRuns queueing = true ∧ (queueOf (granKey 0 (0 / 64)) queueing).batch = none ∧ (queueOf (granKey 0 (0 / 64))
      queueing).queue = [access1] ∧ batchPrefix [access1] = [access1] ∧ access1.ent.cls ≠ 1 ∧ 0 ∉ queueing.home.pageWait ∧
      stepFree (granKey 0 (0 / 64)) (newStep 0 (0, 0 / 64) [access1]) queueing = true ∧ dirOf (access1.ent.baseFpa + 0 / 64 *
      64) queueing = none) ∧
    (coreRuns (batching [tray 1, tray 2]) = true ∧ (batching [tray 1, tray 2]).home.trays = [tray 1, tray 2] ∧ (tray 1).id ≠
      (tray 2).id ∧ (tray 2).key = (tray 1).key ∧ (tray 1).write = false ∧ (queueOf (tray 1).key (batching [tray 1, tray
      2])).batch = some batch1 ∧ batch1.kind = 0) ∧
    (coreRuns doneHome = true ∧ (queueOf (granKey 0 (0 / 64)) doneHome).batch = some doneBatch ∧ doneBatch.kind = 0 ∧
      doneBatch.stage = 2 ∧ awaited (granKey 0 (0 / 64)) doneHome = [] ∧ doneBatch.accesses = [access1] ∧ doneBatch.outcomes =
      [(access1.id, 0, 0, zeros 64)] ∧ access1.drain = false ∧ access1.req = homeReq1.req ∧ homeReq1.req.opcode = opRead ∧
      doneHome.home.reqs = [homeReq1] ∧ homeReq1.id = access1.id ∧ homeReq1.left = 1 ∧ homeReq1.worst = 0 ∧ homeReq1.data = []
      ∧ doneHome.home.waiting = [] ∧ charterState homeReq1.req.charter doneHome ≠ 2) := by
  (repeat' apply And.intro) <;> decide +kernel

/-- States and operands that meet the hypotheses of HomeTimersAndResponses, clause by clause. -/
theorem test_met_HomeTimersAndResponses :
    (coreRuns (sealing 2048) = true ∧ winOf 64 3 (sealing 2048) = some (sealed 0) ∧ (sealed 0).window = 3 ∧ (sealed 0).held
      = some (fab 18, 0) ∧ (fab 18).opcode < opMark ∧ 0 + 2048 ≤ (sealing 2048).tide.count) ∧
    (coreRuns (sealing 2047) = true ∧ winOf 64 3 (sealing 2047) = some (sealed 0) ∧ (sealing 2047).tide.count < 0 + 2048) ∧
    (coreRuns (forgetting 2048) = true ∧ sealSrc 64 (forgetting 2048) = some (sealSrc1 []) ∧ (sealSrc1 []).wins = [] ∧
      (sealSrc1 []).lastOpened + 2048 ≤ (forgetting 2048).tide.count) ∧
    (coreRuns (forgetting 2047) = true ∧ sealSrc 64 (forgetting 2047) = some (sealSrc1 []) ∧ ((sealSrc1 []).wins ≠ [] ∨
      (forgetting 2047).tide.count < (sealSrc1 []).lastOpened + 2048)) ∧
    (coreRuns homeAt = true ∧ (respOf 0 false 0).opcode ∉ [opAck, opData, opRefuse, opPoison, opConflict]) ∧
    ((respOf opData false 5).dstEngine = false ∧ outstOf (respOf opData false 5).destination (respOf opData false 5).tag
      homeAt = none) ∧
    (coreRuns outShore = true ∧ outShore.ing.outst = [hostOut] ∧ hostOut.host = (respOf opData false 5).destination ∧
      hostOut.tag = (respOf opData false 5).tag ∧ hostOut.sent = true ∧ hostOut.opcode = opRead ∧ (respOf opData false
      5).opcode = opData ∧ outShore.ing.held = [] ∧ outShore.ing.reads = [] ∧ outShore.ing.atoms = [] ∧ hostAlive (respOf
      opData false 5).destination outShore = true ∧ charterState hostOut.req.charter outShore ≠ 2) := by
  (repeat' apply And.intro) <;> decide +kernel

/-- States and operands that meet the hypotheses of LinkTraining, clause by clause. -/
theorem test_met_LinkTraining :
    (coreRuns (withCtx (trained Train.detect)) = true ∧ ctxAt 0 (withCtx (trained Train.detect)) = some (trained
      Train.detect) ∧ (trained Train.detect).train = Train.detect) ∧
    (coreRuns (withCtx (trained Train.equalize)) = true ∧ ctxAt 0 (withCtx (trained Train.equalize)) = some (trained
      Train.equalize) ∧ (trained Train.equalize).train = Train.equalize) ∧
    (coreRuns (withCtx (trained Train.retrain)) = true ∧ ctxAt 0 (withCtx (trained Train.retrain)) = some (trained
      Train.retrain) ∧ (trained Train.retrain).train = Train.retrain) ∧
    (coreRuns (withCtx (trained Train.align)) = true ∧ ctxAt 0 (withCtx (trained Train.align)) = some (trained Train.align)
      ∧ (trained Train.align).train = Train.align) ∧
    (coreRuns (withCtx (trained Train.identify)) = true ∧ ctxAt 0 (withCtx (trained Train.identify)) = some (trained
      Train.identify) ∧ (trained Train.identify).train = Train.identify ∧ identCode 0 (trained Train.identify) span1 = 0 ∧
      span1.refuse = false) ∧
    (coreRuns (withCtx (trained Train.measure)) = true ∧ ctxAt 0 (withCtx (trained Train.measure)) = some (trained
      Train.measure) ∧ (trained Train.measure).train = Train.measure) ∧
    (coreRuns (withCtx (measured 14)) = true ∧ ctxAt 0 (withCtx (measured 14)) = some (measured 14) ∧ (measured 14).train =
      Train.measure ∧ (measured 14).pings.length < 15) ∧
    (coreRuns (withCtx (measured 15)) = true ∧ ctxAt 0 (withCtx (measured 15)) = some (measured 15) ∧ (measured 15).train =
      Train.measure ∧ (measured 15).pings.length = 15 ∧ ((measured 15).pings ++ [6000]).sum ≤ 16 * 6000) ∧
    (coreRuns (withCtx mirrorMeasured) = true ∧ ctxAt 0 (withCtx mirrorMeasured) = some mirrorMeasured ∧
      mirrorMeasured.train = Train.measure ∧ mirrorMeasured.role = 4 ∧ (withCtx mirrorMeasured).sw.cells = [] ∧
      mirrorMeasured.pings.length = 15 ∧ 16 * 6000 < (mirrorMeasured.pings ++ [6000]).sum) ∧
    (coreRuns (withCtx (trained Train.credit)) = true ∧ ctxAt 0 (withCtx (trained Train.credit)) = some (trained
      Train.credit) ∧ (trained Train.credit).train = Train.credit) ∧
    timeoutCode mirrorMeasured = some 516 ∧
    (coreRuns (withCtx (ctx0 3 0)) = true ∧ ctxAt 0 (withCtx (ctx0 3 0)) = some (ctx0 3 0) ∧ timeoutCode (ctx0 3 0) = none) ∧
    (0 ≠ 256 ∧ (trained Train.equalize).lanes = 4 ∧ (trained Train.equalize).bad = [] ∧ (trained Train.equalize).train ≠
      Train.down ∧ (trained Train.equalize).train ≠ Train.up ∧ (trained Train.equalize).train ≠ Train.retrain) ∧
    ((ctx0 3 0).lanes = 4 ∧ (ctx0 3 0).bad = [] ∧ (ctx0 3 0).train = Train.up) := by
  (repeat' apply And.intro) <;> decide +kernel

/-- States and operands that meet the hypotheses of LinkBlocks, clause by clause. -/
theorem test_met_LinkBlocks :
    (coreRuns (withCtx keeping) = true ∧ ctxAt 0 (withCtx keeping) = some keeping ∧ keeping.train = Train.up ∧ (0 + 4096 -
      keeping.lastAck % 4096) % 4096 ≤ ((keeping.nextTx + 4095) % 4096 + 4096 - keeping.lastAck % 4096) % 4096 ∧ (0 + 4096 -
      keeping.lastAck % 4096) % 4096 ≠ 0) ∧
    (keeping.lastAck + 4096 - keeping.lastAck % 4096) % 4096 = 0 ∧
    (keeping.role ≠ 1 ∧ keeping.kept = [(0, cell1)] ∧ 0 = (keeping.lastAck + 1) % 4096 ∧ 0 < 4096) ∧
    (keeping.txTotal = [8, 8, 8] ∧ keeping.txCredit = [8, 8, 8] ∧ 8 < 65536 ∧ 32767 < 32768) ∧
    (keeping.kept ≠ [] ∧ keeping.resends < 8) ∧
    (coreRuns (withCtx tired) = true ∧ ctxAt 0 (withCtx tired) = some tired ∧ tired.train = Train.up ∧ tired.kept ≠ [] ∧ 8 ≤
      tired.resends) ∧
    (1 ≤ (linkHdr badBlock).kind ∧ (linkHdr badBlock).kind ≤ 3 ∧ linkCrcOk badBlock = false ∧ keeping.nakFor ≠ some
      keeping.nextRx ∧ (∀ x ∈ (withCtx keeping).sw.cells, x.cutThrough = false) ∧ (∀ p ∈ (withCtx keeping).ports.ctxs, ∀ k ∈
      p.2.kept, k.2.cutThrough = false)) ∧
    ((linkHdr ownBlock).kind = 1 ∧ linkCrcOk ownBlock = true ∧ (linkHdr ownBlock).ack = keeping.lastAck ∧ keeping.lastAck <
      4096 ∧ (linkHdr ownBlock).seq = keeping.nextRx ∧ (linkHdr ownBlock).pool = 0 ∧ keeping.role = 3 ∧ keeping.cut = [] ∧ 0 <
      keeping.rxCredit.getD 0 0 ∧ blockItems 1 (linkHdr ownBlock).unitMap (slice ownBlock 12 496) = some [(0, zeros 496)] ∧
      (reqOf (zeros 496) []).home = self (withCtx keeping) ∧ (withCtx keeping).sw.mirrors = [] ∧ (withCtx keeping).sw.samplers
      = [] ∧ (withCtx keeping).sw.cells = []) := by
  repeat' apply And.intro
  all_goals first
    | with_reducible exact linkCrcOk_blocks.1
    | with_reducible exact linkCrcOk_blocks.2.1
    | with_reducible exact linkCrcOk_blocks.2.2
    | with_reducible exact payloadOk_slotWith.1
    | with_reducible exact payloadOk_slotWith.2.1
    | with_reducible exact payloadOk_slotWith.2.2
    | with_reducible exact payloadOk_dataSlot
    | with_reducible exact answersOk_slotWith
    | decide +kernel

/-- States and operands that meet the hypotheses of SpanLoss, clause by clause. -/
theorem test_met_SpanLoss :
    (coreRuns (spans lostSpan 0 16) = true ∧ ctxAt 0 (spans lostSpan 0 16) = some lostSpan ∧ lostSpan.role = 3) ∧
    (lostSpan.spanWait = some 0 ∧ lostSpan.train = Train.down ∧ otherSpan 0 lostSpan (spans lostSpan 0 16) = some 1 ∧
      lostSpan.kept = [(0, cell1)] ∧ (4095 + 4096 - lostSpan.lastAck % 4096) % 4096 < (0 + 4096 - lostSpan.lastAck % 4096) %
      4096) ∧
    (lostSpan.partner = some span1 ∧ 0 + 16 ≤ (spans lostSpan 0 16).tide.count ∧ isMaster (spans lostSpan 0 16) = true) ∧
    (coreRuns (spans lostSpan 1 16) = true ∧ ctxAt 0 (spans lostSpan 1 16) = some lostSpan ∧ 0 + 16 ≤ (spans lostSpan 1
      16).tide.count ∧ isMaster (spans lostSpan 1 16) = false) := by
  (repeat' apply And.intro) <;> decide +kernel

/-- States and operands that meet the hypotheses of LinkFrames, clause by clause. -/
theorem test_met_LinkFrames :
    (coreRuns (coded (gathered 0)) = true ∧ tget (coded (gathered 0)).ports.codecs 0 = some (gathered 0) ∧ (gathered
      0).gather ≠ [] ∧ (gathered 0).closed = [] ∧ waited (gathered 0).since (gathered 0).maxWait (coded (gathered 0)) = true) ∧
    (coreRuns (coded (gathered 1)) = true ∧ tget (coded (gathered 1)).ports.codecs 0 = some (gathered 1) ∧ (gathered
      1).gather ≠ [] ∧ (gathered 1).closed = [] ∧ waited (gathered 1).since (gathered 1).maxWait (coded (gathered 1)) = false) ∧
    (ctxAt 0 (coded (gathered 0)) = some (ctx0 3 0) ∧ (ctx0 3 0).role = 3 ∧ ktcHeaderOk (zeros 64) = false ∧ (decodeBlock
      (zeros 64) [] 0 (gathered 0).rxSeq (headerOf (zeros 64)).raw).1 ≠ 0 ∧ (gathered 0).rx = [] ∧ mayServe 0 (frameCost
      (zeros 64)) (coded (gathered 0)) = some 0) ∧
    (coreRuns (coded waitingFrame) = true ∧ tget (coded waitingFrame).ports.codecs 0 = some waitingFrame ∧ ctxAt 0 (coded
      waitingFrame) = some (ctx0 3 0) ∧ (waitingFrame.rx ≠ [] ∨ mayServe 0 (frameCost (zeros 64)) (coded waitingFrame) =
      none)) ∧
    (mayServe 0 (frameCost frameHdr) (coded (gathered 0)) = some 0 ∧ (headerOf frameHdr).index = (gathered 0).rxSeq ∧
      (gathered 0).rxSeq < 2 ^ 32 ∧ decodeBlock frameHdr framePayload 0 (gathered 0).rxSeq (headerOf frameHdr).raw = (0,
      framePayload) ∧ frameItems (List.length framePayload + 1) framePayload = [(1, 0, le 32 (1 <<< 86))] ∧ (reqOf (le 32 (1
      <<< 86)) []).home ≠ self (coded (gathered 0)) ∧ mapOf (reqOf (le 32 (1 <<< 86)) []).routeEpoch (coded (gathered 0)) =
      some { toDevice := [(1, [1])], toHost := [], groups := [] : RouteMap } ∧ deviceCtx (reqOf (le 32 (1 <<< 86)) []).home
      { toDevice := [(1, [1])], toHost := [], groups := [] : RouteMap } (coded (gathered 0)) = some 1 ∧ 1 ≠ 0 ∧ tget (coded
      (gathered 0)).ports.codecs 1 = none ∧ (coded (gathered 0)).sw.mirrors = [] ∧ (coded (gathered 0)).sw.samplers = []) ∧
    (coreRuns (coded sentFrame) = true ∧ tget (coded sentFrame).ports.codecs 0 = some sentFrame ∧ sentFrame.sent = [frame1]
      ∧ frame1.seq = 4 ∧ frame1.items = [(1, 0,
      { bytes := zeros 32, opcode := 0, charter := none, source := 0, home := 1 : Item })]) := by
  (repeat' apply And.intro) <;> decide +kernel

/-- States and operands that meet the hypotheses of SwitchMoves, clause by clause. -/
theorem test_met_SwitchMoves :
    (coreRuns asking = true ∧ (requestsNow asking).dedup = [(130, portOf 0 2 asking)]) ∧
    (coreRuns resending = true ∧ ctxUp 0 resending = true ∧ tgetD resending.pilot.resends 0 [] = [cell1] ∧ cell1.pool = 2 ∧
      slotFree 0 2 resending = true ∧ ctxAt 0 resending = some (ctx0 3 0) ∧ (ctx0 3 0).role = 3 ∧ resending.sw.mirrors = [] ∧
      resending.sw.samplers = []) ∧
    (coreRuns cutting = true ∧ ctxAt 0 cutting = some (ctx0 3 0) ∧ (ctx0 3 0).train = Train.up ∧ 0 ≠ 256 ∧ (reqOf (le 32 (1
      <<< 86)) []).home ≠ self cutting ∧ mapOf (reqOf (le 32 (1 <<< 86)) []).routeEpoch cutting = some
      { toDevice := [(1, [1])], toHost := [], groups := [] : RouteMap } ∧ deviceCtx (reqOf (le 32 (1 <<< 86)) []).home
      { toDevice := [(1, [1])], toHost := [], groups := [] : RouteMap } cutting = some 1 ∧ ctxAt 1 cutting = some
      { berth := 1, part := (ctx0 3 0).part, role := (ctx0 3 0).role, host := (ctx0 3 0).host, coherent := (ctx0 3 0).coherent, enable := (ctx0 3 0).enable, train := (ctx0 3 0).train, cause := (ctx0 3 0).cause, lanes := (ctx0 3 0).lanes, partner := (ctx0 3 0).partner, nextTx := (ctx0 3 0).nextTx, nextRx := (ctx0 3 0).nextRx, lastAck := (ctx0 3 0).lastAck, kept := (ctx0 3 0).kept, nakFor := (ctx0 3 0).nakFor, resends := (ctx0 3 0).resends, replay := (ctx0 3 0).replay, txCredit := (ctx0 3 0).txCredit, txTotal := (ctx0 3 0).txTotal, rxCredit := (ctx0 3 0).rxCredit, rxTotal := (ctx0 3 0).rxTotal, pings := (ctx0 3 0).pings, fecMarks := (ctx0 3 0).fecMarks, channels := (ctx0 3 0).channels, spanWait := (ctx0 3 0).spanWait, cut := (ctx0 3 0).cut, locked := (ctx0 3 0).locked, owed := (ctx0 3 0).owed, owedStream := (ctx0 3 0).owedStream, txOpen := (ctx0 3 0).txOpen, bad := (ctx0 3 0).bad : PortCtx }
      ∧ (ctx0 3 0).lanes ≤
      { berth := 1, part := (ctx0 3 0).part, role := (ctx0 3 0).role, host := (ctx0 3 0).host, coherent := (ctx0 3 0).coherent, enable := (ctx0 3 0).enable, train := (ctx0 3 0).train, cause := (ctx0 3 0).cause, lanes := (ctx0 3 0).lanes, partner := (ctx0 3 0).partner, nextTx := (ctx0 3 0).nextTx, nextRx := (ctx0 3 0).nextRx, lastAck := (ctx0 3 0).lastAck, kept := (ctx0 3 0).kept, nakFor := (ctx0 3 0).nakFor, resends := (ctx0 3 0).resends, replay := (ctx0 3 0).replay, txCredit := (ctx0 3 0).txCredit, txTotal := (ctx0 3 0).txTotal, rxCredit := (ctx0 3 0).rxCredit, rxTotal := (ctx0 3 0).rxTotal, pings := (ctx0 3 0).pings, fecMarks := (ctx0 3 0).fecMarks, channels := (ctx0 3 0).channels, spanWait := (ctx0 3 0).spanWait, cut := (ctx0 3 0).cut, locked := (ctx0 3 0).locked, owed := (ctx0 3 0).owed, owedStream := (ctx0 3 0).owedStream, txOpen := (ctx0 3 0).txOpen, bad := (ctx0 3 0).bad : PortCtx }.lanes
      ∧ 16 * 0 + (reqOf (le 32 (1 <<< 86)) []).tclass ∈ cutting.sw.cut ∧ ((ctx0 3 0).nextRx, 0) ∉ (ctx0 3 0).cut ∧ tget
      cutting.ports.codecs 1 = none ∧ cutting.sw.mirrors = [] ∧ cutting.sw.samplers = []) ∧
    (asking.sw.cells = [cell1] ∧ asking.pilot.recs = [] ∧ cell1.queue < 12336 ∧ isData (queueClass cell1.queue) asking =
      true ∧ tgetD asking.pilot.ks (queueClass cell1.queue) 4 = 0 ∧ queueConfidential cell1.queue asking = false ∧ tgetD
      asking.pilot.targets (queueClass cell1.queue) 0 = 0) := by
  (repeat' apply And.intro) <;> decide +kernel

/-- States and operands that meet the hypotheses of CraneMessages, clause by clause. -/
theorem test_met_CraneMessages :
    (coreRuns (craned craneDesc (craneSt 1 []) 0) = true ∧ (craned craneDesc (craneSt 1 []) 0).acc.jobs = [craneJob
      craneDesc (craneSt 1 [])] ∧ (craneJob craneDesc (craneSt 1 [])).desc = JobDesc.crane craneDesc ∧ (craneJob craneDesc
      (craneSt 1 [])).st = JobSt.crane (craneSt 1 []) ∧ (craneJob craneDesc (craneSt 1 [])).phase = JobPhase.running ∧ ((seg 0
      5 0).jobDevice = (craneJob craneDesc (craneSt 1 [])).device ∧ (seg 0 5 0).jobSlot = (craneJob craneDesc (craneSt 1
      [])).slot ∧ (seg 0 5 0).seqLo = (craneJob craneDesc (craneSt 1 [])).hdr.seq % 65536) ∧ (seg 0 5 0).attempt = (craneJob
      craneDesc (craneSt 1 [])).attempt ∧ (seg 0 5 0).sender ∈ liveAt craneDesc (craneSt 1 []) (self (craned craneDesc
      (craneSt 1 []) 0)) (craned craneDesc (craneSt 1 []) 0) ∧ (seg 0 5 0).tile < tileCount craneDesc ∧ (seg 0 5 0).format =
      craneDesc.inFormat ∧ (seg 0 5 0).aux + List.length (seg 0 5 0).data ≤ inputBytes craneDesc false (seg 0 5 0).tile ∧
      (tileOf (craneSt 1 []) (seg 0 5 0).tile).opened = true ∧ (tileOf (craneSt 1 []) (seg 0 5 0).tile).sealed = false ∧
      (tileOf (craneSt 1 []) (seg 0 5 0).tile).passed = false ∧ contribOf (tileOf (craneSt 1 []) (seg 0 5 0).tile) false (seg
      0 5 0).sender = none ∧ mayRetain craneDesc (craneSt 1 []) (seg 0 5 0).tile (inputBytes craneDesc false (seg 0 5 0).tile)
      (craned craneDesc (craneSt 1 []) 0) = true ∧ (∀ x ∈ (craneSt 1 []).waiting, x.tile ≠ (seg 0 5 0).tile)) ∧
    (((seg 0 64 0).jobDevice = (craneJob craneDesc (craneSt 1 [])).device ∧ (seg 0 64 0).jobSlot = (craneJob craneDesc
      (craneSt 1 [])).slot ∧ (seg 0 64 0).seqLo = (craneJob craneDesc (craneSt 1 [])).hdr.seq % 65536) ∧ (seg 0 64 0).attempt
      = (craneJob craneDesc (craneSt 1 [])).attempt ∧ (seg 0 64 0).sender / 64 ∈ partDevices (craneSt 1 []) ∧ (seg 0 64
      0).tile < tileCount craneDesc ∧ (seg 0 64 0).format = partialFormat craneDesc ∧ (seg 0 64 0).aux + List.length (seg 0 64
      0).data ≤ inputBytes craneDesc true (seg 0 64 0).tile ∧ (tileOf (craneSt 1 []) (seg 0 64 0).tile).opened = true ∧
      (tileOf (craneSt 1 []) (seg 0 64 0).tile).sealed = false ∧ (tileOf (craneSt 1 []) (seg 0 64 0).tile).passed = false ∧
      contribOf (tileOf (craneSt 1 []) (seg 0 64 0).tile) true ((seg 0 64 0).sender / 64) = none ∧ mayRetain craneDesc
      (craneSt 1 []) (seg 0 64 0).tile (inputBytes craneDesc true (seg 0 64 0).tile) (craned craneDesc (craneSt 1 []) 0) =
      true ∧ (∀ x ∈ (craneSt 1 []).waiting, x.tile ≠ (seg 0 64 0).tile)) ∧
    (coreRuns (craned wide (craneSt 1 []) 0) = true ∧ (craned wide (craneSt 1 []) 0).acc.jobs = [craneJob wide (craneSt 1
      [])] ∧ (craneJob wide (craneSt 1 [])).desc = JobDesc.crane wide ∧ (craneJob wide (craneSt 1 [])).st = JobSt.crane
      (craneSt 1 []) ∧ (craneJob wide (craneSt 1 [])).phase = JobPhase.running ∧
      ({ kind := (seg 0 5 0).kind, jobDevice := (seg 0 5 0).jobDevice, jobSlot := (seg 0 5 0).jobSlot, attempt := (seg 0 5 0).attempt, srcDevice := (seg 0 5 0).srcDevice, sender := (seg 0 5 0).sender, tile := 32, aux := (seg 0 5 0).aux, members := (seg 0 5 0).members, format := (seg 0 5 0).format, poison := (seg 0 5 0).poison, seqLo := (seg 0 5 0).seqLo, data := (seg 0 5 0).data : Segment }.jobDevice
      = (craneJob wide (craneSt 1 [])).device ∧
      { kind := (seg 0 5 0).kind, jobDevice := (seg 0 5 0).jobDevice, jobSlot := (seg 0 5 0).jobSlot, attempt := (seg 0 5 0).attempt, srcDevice := (seg 0 5 0).srcDevice, sender := (seg 0 5 0).sender, tile := 32, aux := (seg 0 5 0).aux, members := (seg 0 5 0).members, format := (seg 0 5 0).format, poison := (seg 0 5 0).poison, seqLo := (seg 0 5 0).seqLo, data := (seg 0 5 0).data : Segment }.jobSlot
      = (craneJob wide (craneSt 1 [])).slot ∧
      { kind := (seg 0 5 0).kind, jobDevice := (seg 0 5 0).jobDevice, jobSlot := (seg 0 5 0).jobSlot, attempt := (seg 0 5 0).attempt, srcDevice := (seg 0 5 0).srcDevice, sender := (seg 0 5 0).sender, tile := 32, aux := (seg 0 5 0).aux, members := (seg 0 5 0).members, format := (seg 0 5 0).format, poison := (seg 0 5 0).poison, seqLo := (seg 0 5 0).seqLo, data := (seg 0 5 0).data : Segment }.seqLo
      = (craneJob wide (craneSt 1 [])).hdr.seq % 65536) ∧
      { kind := (seg 0 5 0).kind, jobDevice := (seg 0 5 0).jobDevice, jobSlot := (seg 0 5 0).jobSlot, attempt := (seg 0 5 0).attempt, srcDevice := (seg 0 5 0).srcDevice, sender := (seg 0 5 0).sender, tile := 32, aux := (seg 0 5 0).aux, members := (seg 0 5 0).members, format := (seg 0 5 0).format, poison := (seg 0 5 0).poison, seqLo := (seg 0 5 0).seqLo, data := (seg 0 5 0).data : Segment }.attempt
      = (craneJob wide (craneSt 1 [])).attempt ∧
      { kind := (seg 0 5 0).kind, jobDevice := (seg 0 5 0).jobDevice, jobSlot := (seg 0 5 0).jobSlot, attempt := (seg 0 5 0).attempt, srcDevice := (seg 0 5 0).srcDevice, sender := (seg 0 5 0).sender, tile := 32, aux := (seg 0 5 0).aux, members := (seg 0 5 0).members, format := (seg 0 5 0).format, poison := (seg 0 5 0).poison, seqLo := (seg 0 5 0).seqLo, data := (seg 0 5 0).data : Segment }.sender
      ∈ liveAt wide (craneSt 1 []) (self (craned wide (craneSt 1 []) 0)) (craned wide (craneSt 1 []) 0) ∧
      { kind := (seg 0 5 0).kind, jobDevice := (seg 0 5 0).jobDevice, jobSlot := (seg 0 5 0).jobSlot, attempt := (seg 0 5 0).attempt, srcDevice := (seg 0 5 0).srcDevice, sender := (seg 0 5 0).sender, tile := 32, aux := (seg 0 5 0).aux, members := (seg 0 5 0).members, format := (seg 0 5 0).format, poison := (seg 0 5 0).poison, seqLo := (seg 0 5 0).seqLo, data := (seg 0 5 0).data : Segment }.tile
      < tileCount wide ∧
      { kind := (seg 0 5 0).kind, jobDevice := (seg 0 5 0).jobDevice, jobSlot := (seg 0 5 0).jobSlot, attempt := (seg 0 5 0).attempt, srcDevice := (seg 0 5 0).srcDevice, sender := (seg 0 5 0).sender, tile := 32, aux := (seg 0 5 0).aux, members := (seg 0 5 0).members, format := (seg 0 5 0).format, poison := (seg 0 5 0).poison, seqLo := (seg 0 5 0).seqLo, data := (seg 0 5 0).data : Segment }.format
      = wide.inFormat ∧
      { kind := (seg 0 5 0).kind, jobDevice := (seg 0 5 0).jobDevice, jobSlot := (seg 0 5 0).jobSlot, attempt := (seg 0 5 0).attempt, srcDevice := (seg 0 5 0).srcDevice, sender := (seg 0 5 0).sender, tile := 32, aux := (seg 0 5 0).aux, members := (seg 0 5 0).members, format := (seg 0 5 0).format, poison := (seg 0 5 0).poison, seqLo := (seg 0 5 0).seqLo, data := (seg 0 5 0).data : Segment }.aux
      + List.length
      { kind := (seg 0 5 0).kind, jobDevice := (seg 0 5 0).jobDevice, jobSlot := (seg 0 5 0).jobSlot, attempt := (seg 0 5 0).attempt, srcDevice := (seg 0 5 0).srcDevice, sender := (seg 0 5 0).sender, tile := 32, aux := (seg 0 5 0).aux, members := (seg 0 5 0).members, format := (seg 0 5 0).format, poison := (seg 0 5 0).poison, seqLo := (seg 0 5 0).seqLo, data := (seg 0 5 0).data : Segment }.data
      ≤ inputBytes wide false
      { kind := (seg 0 5 0).kind, jobDevice := (seg 0 5 0).jobDevice, jobSlot := (seg 0 5 0).jobSlot, attempt := (seg 0 5 0).attempt, srcDevice := (seg 0 5 0).srcDevice, sender := (seg 0 5 0).sender, tile := 32, aux := (seg 0 5 0).aux, members := (seg 0 5 0).members, format := (seg 0 5 0).format, poison := (seg 0 5 0).poison, seqLo := (seg 0 5 0).seqLo, data := (seg 0 5 0).data : Segment }.tile
      ∧ (tileOf (craneSt 1 [])
      { kind := (seg 0 5 0).kind, jobDevice := (seg 0 5 0).jobDevice, jobSlot := (seg 0 5 0).jobSlot, attempt := (seg 0 5 0).attempt, srcDevice := (seg 0 5 0).srcDevice, sender := (seg 0 5 0).sender, tile := 32, aux := (seg 0 5 0).aux, members := (seg 0 5 0).members, format := (seg 0 5 0).format, poison := (seg 0 5 0).poison, seqLo := (seg 0 5 0).seqLo, data := (seg 0 5 0).data : Segment }.tile).opened
      = false ∧ tileRoom wide (craneSt 1 [])
      { kind := (seg 0 5 0).kind, jobDevice := (seg 0 5 0).jobDevice, jobSlot := (seg 0 5 0).jobSlot, attempt := (seg 0 5 0).attempt, srcDevice := (seg 0 5 0).srcDevice, sender := (seg 0 5 0).sender, tile := 32, aux := (seg 0 5 0).aux, members := (seg 0 5 0).members, format := (seg 0 5 0).format, poison := (seg 0 5 0).poison, seqLo := (seg 0 5 0).seqLo, data := (seg 0 5 0).data : Segment }.tile
      (craned wide (craneSt 1 []) 0) = false ∧ (tileOf (craneSt 1 [])
      { kind := (seg 0 5 0).kind, jobDevice := (seg 0 5 0).jobDevice, jobSlot := (seg 0 5 0).jobSlot, attempt := (seg 0 5 0).attempt, srcDevice := (seg 0 5 0).srcDevice, sender := (seg 0 5 0).sender, tile := 32, aux := (seg 0 5 0).aux, members := (seg 0 5 0).members, format := (seg 0 5 0).format, poison := (seg 0 5 0).poison, seqLo := (seg 0 5 0).seqLo, data := (seg 0 5 0).data : Segment }.tile).sealed
      = false ∧ contribOf (tileOf (craneSt 1 [])
      { kind := (seg 0 5 0).kind, jobDevice := (seg 0 5 0).jobDevice, jobSlot := (seg 0 5 0).jobSlot, attempt := (seg 0 5 0).attempt, srcDevice := (seg 0 5 0).srcDevice, sender := (seg 0 5 0).sender, tile := 32, aux := (seg 0 5 0).aux, members := (seg 0 5 0).members, format := (seg 0 5 0).format, poison := (seg 0 5 0).poison, seqLo := (seg 0 5 0).seqLo, data := (seg 0 5 0).data : Segment }.tile)
      false
      { kind := (seg 0 5 0).kind, jobDevice := (seg 0 5 0).jobDevice, jobSlot := (seg 0 5 0).jobSlot, attempt := (seg 0 5 0).attempt, srcDevice := (seg 0 5 0).srcDevice, sender := (seg 0 5 0).sender, tile := 32, aux := (seg 0 5 0).aux, members := (seg 0 5 0).members, format := (seg 0 5 0).format, poison := (seg 0 5 0).poison, seqLo := (seg 0 5 0).seqLo, data := (seg 0 5 0).data : Segment }.sender
      = none) ∧
    (({ kind := (seg 0 5 0).kind, jobDevice := (seg 0 5 0).jobDevice, jobSlot := (seg 0 5 0).jobSlot, attempt := 1, srcDevice := (seg 0 5 0).srcDevice, sender := (seg 0 5 0).sender, tile := (seg 0 5 0).tile, aux := (seg 0 5 0).aux, members := (seg 0 5 0).members, format := (seg 0 5 0).format, poison := (seg 0 5 0).poison, seqLo := (seg 0 5 0).seqLo, data := (seg 0 5 0).data : Segment }.jobDevice
      = (craneJob craneDesc (craneSt 1 [])).device ∧
      { kind := (seg 0 5 0).kind, jobDevice := (seg 0 5 0).jobDevice, jobSlot := (seg 0 5 0).jobSlot, attempt := 1, srcDevice := (seg 0 5 0).srcDevice, sender := (seg 0 5 0).sender, tile := (seg 0 5 0).tile, aux := (seg 0 5 0).aux, members := (seg 0 5 0).members, format := (seg 0 5 0).format, poison := (seg 0 5 0).poison, seqLo := (seg 0 5 0).seqLo, data := (seg 0 5 0).data : Segment }.jobSlot
      = (craneJob craneDesc (craneSt 1 [])).slot ∧
      { kind := (seg 0 5 0).kind, jobDevice := (seg 0 5 0).jobDevice, jobSlot := (seg 0 5 0).jobSlot, attempt := 1, srcDevice := (seg 0 5 0).srcDevice, sender := (seg 0 5 0).sender, tile := (seg 0 5 0).tile, aux := (seg 0 5 0).aux, members := (seg 0 5 0).members, format := (seg 0 5 0).format, poison := (seg 0 5 0).poison, seqLo := (seg 0 5 0).seqLo, data := (seg 0 5 0).data : Segment }.seqLo
      = (craneJob craneDesc (craneSt 1 [])).hdr.seq % 65536) ∧
      { kind := (seg 0 5 0).kind, jobDevice := (seg 0 5 0).jobDevice, jobSlot := (seg 0 5 0).jobSlot, attempt := 1, srcDevice := (seg 0 5 0).srcDevice, sender := (seg 0 5 0).sender, tile := (seg 0 5 0).tile, aux := (seg 0 5 0).aux, members := (seg 0 5 0).members, format := (seg 0 5 0).format, poison := (seg 0 5 0).poison, seqLo := (seg 0 5 0).seqLo, data := (seg 0 5 0).data : Segment }.attempt
      ≠ (craneJob craneDesc (craneSt 1 [])).attempt) ∧
    (coreRuns (craned craneDesc shutTile 0) = true ∧ (craned craneDesc shutTile 0).acc.jobs = [craneJob craneDesc shutTile]
      ∧ (craneJob craneDesc shutTile).desc = JobDesc.crane craneDesc ∧ (craneJob craneDesc shutTile).st = JobSt.crane shutTile
      ∧ (craneJob craneDesc shutTile).phase = JobPhase.running ∧ jobNo 0 (craned craneDesc shutTile 0) = keyOf (craneJob
      craneDesc shutTile) ∧ shutTile.waiting = [seg 0 5 0] ∧ (seg 0 5 0).tile = 0 ∧ tileRoom craneDesc shutTile 0 (craned
      craneDesc shutTile 0) = true ∧ mayRetain craneDesc shutTile 0 (inputBytes craneDesc (seg 0 5 0).srcDevice 0) (craned
      craneDesc shutTile 0) = true) ∧
    (jobNo 0 (craned wide (craneSt 1 []) 0) = keyOf (craneJob wide (craneSt 1 [])) ∧ tileRoom wide (craneSt 1 []) 32 (craned
      wide (craneSt 1 []) 0) = false) ∧
    (coreRuns (craned craneDesc (craneSt 1 []) 16384) = true ∧ (craned craneDesc (craneSt 1 []) 16384).acc.jobs = [craneJob
      craneDesc (craneSt 1 [])] ∧ jobNo 0 (craned craneDesc (craneSt 1 []) 16384) = keyOf (craneJob craneDesc (craneSt 1 []))
      ∧ reachesRing (craned craneDesc (craneSt 1 []) 16384) ∧ 5 ∈ liveAt craneDesc (craneSt 1 []) (self (craned craneDesc
      (craneSt 1 []) 16384)) (craned craneDesc (craneSt 1 []) 16384) ∧ 5 ∉ (craneSt 1 []).excluded ∧ owesTile craneDesc
      (craneSt 1 []) 5 = true ∧ tgetD (craneSt 1 []).heard 5 (craneJob craneDesc (craneSt 1 [])).startTide + memberTides
      craneDesc ≤ (craned craneDesc (craneSt 1 []) 16384).tide.count) ∧
    (jobNo 0 (craned craneDesc (craneSt 1 []) 0) = keyOf (craneJob craneDesc (craneSt 1 [])) ∧ 5 ∈ (craneSt 1 []).live) ∧
    (coreRuns (craned craneDesc noTiles 0) = true ∧ (craned craneDesc noTiles 0).acc.jobs = [craneJob craneDesc noTiles] ∧
      (craneJob craneDesc noTiles).desc = JobDesc.crane craneDesc ∧ (craneJob craneDesc noTiles).st = JobSt.crane noTiles ∧
      (craneJob craneDesc noTiles).phase = JobPhase.running ∧ jobNo 0 (craned craneDesc noTiles 0) = keyOf (craneJob craneDesc
      noTiles) ∧ 5 ∈ noTiles.excluded ∧ 5 ∈ noTiles.live ∧ isBroadcast craneDesc = false ∧ craneDesc.policy = 0) ∧
    (coreRuns (craned skipping noTiles 0) = true ∧ (craned skipping noTiles 0).acc.jobs = [craneJob skipping noTiles] ∧
      (craneJob skipping noTiles).desc = JobDesc.crane skipping ∧ (craneJob skipping noTiles).st = JobSt.crane noTiles ∧
      (craneJob skipping noTiles).phase = JobPhase.running ∧ jobNo 0 (craned skipping noTiles 0) = keyOf (craneJob skipping
      noTiles) ∧ isBroadcast skipping = false ∧ skipping.policy ≠ 0 ∧ noTiles.tiles = []) ∧
    (((seg 6 1 2565).jobDevice = (craneJob craneDesc (craneSt 1 [])).device ∧ (seg 6 1 2565).jobSlot = (craneJob craneDesc
      (craneSt 1 [])).slot ∧ (seg 6 1 2565).seqLo = (craneJob craneDesc (craneSt 1 [])).hdr.seq % 65536) ∧ (seg 6 1
      2565).attempt = (craneJob craneDesc (craneSt 1 [])).attempt ∧ (seg 6 1 2565).kind = 6 ∧ (craneJob craneDesc (craneSt 1
      [])).guest = none ∧ (seg 6 1 2565).aux ≠ 0) ∧
    (coreRuns (withJob guestJob shore) = true ∧ (withJob guestJob shore).acc.jobs = [guestJob] ∧ guestJob.desc =
      JobDesc.crane craneDesc ∧ guestJob.st = JobSt.crane (craneSt 1 []) ∧ guestJob.phase = JobPhase.running ∧ ((seg 6 1
      0).jobDevice = guestJob.device ∧ (seg 6 1 0).jobSlot = guestJob.slot ∧ (seg 6 1 0).seqLo = guestJob.hdr.seq % 65536) ∧
      (seg 6 1 0).attempt = guestJob.attempt ∧ (seg 6 1 0).kind = 6 ∧ guestJob.guest = some 0) := by
  (repeat' apply And.intro) <;> decide +kernel

/-- States and operands that meet the hypotheses of JobAttempts, clause by clause. -/
theorem test_met_JobAttempts :
    (coreRuns (buddied (copyJob JobPhase.accepted)) = true ∧ (buddied (copyJob JobPhase.accepted)).acc.jobs = [copyJob
      JobPhase.accepted] ∧ jobNo 0 (buddied (copyJob JobPhase.accepted)) = keyOf (copyJob JobPhase.accepted) ∧ (buddied
      (copyJob JobPhase.accepted)).acc.buddy = some 1 ∧ (copyJob JobPhase.accepted).phase = JobPhase.accepted ∧ charterState
      (charterOf (copyJob JobPhase.accepted)) (buddied (copyJob JobPhase.accepted)) ≠ 2 ∧ acceptSent (copyJob
      JobPhase.accepted) (buddied (copyJob JobPhase.accepted)) = false ∧ (copyJob JobPhase.accepted).attempts < 127) ∧
    (coreRuns (buddied (copyJob (JobPhase.stopping 3))) = true ∧ (buddied (copyJob (JobPhase.stopping 3))).acc.jobs =
      [copyJob (JobPhase.stopping 3)] ∧ jobNo 0 (buddied (copyJob (JobPhase.stopping 3))) = keyOf (copyJob (JobPhase.stopping
      3)) ∧ (buddied (copyJob (JobPhase.stopping 3))).acc.buddy = some 1 ∧ (copyJob (JobPhase.stopping 3)).desc = JobDesc.copy
      copyDesc ∧ (copyJob (JobPhase.stopping 3)).st = JobSt.copy { copied := 0, granulesPoisoned := 0 : CopySt } ∧ (copyJob
      (JobPhase.stopping 3)).guest = none ∧ writesOut (copyJob (JobPhase.stopping 3)) (buddied (copyJob (JobPhase.stopping
      3))) = []) ∧
    (coreRuns (buddied (copyJob JobPhase.running)) = true ∧ (buddied (copyJob JobPhase.running)).acc.jobs = [copyJob
      JobPhase.running] ∧ jobNo 0 (buddied (copyJob JobPhase.running)) = keyOf (copyJob JobPhase.running) ∧ (buddied (copyJob
      JobPhase.running)).acc.buddy = some 1 ∧ (copyJob JobPhase.running).desc = JobDesc.copy copyDesc ∧ (copyJob
      JobPhase.running).st = JobSt.copy { copied := 0, granulesPoisoned := 0 : CopySt } ∧ jobDone (copyJob JobPhase.running)
      (buddied (copyJob JobPhase.running)) = true) ∧
    (coreRuns reading = true ∧ reading.acc.jobs = [copyAt copy64 0] ∧ jobNo 0 reading = keyOf (copyAt copy64 0) ∧
      reading.acc.buddy = some 1 ∧ (copyAt copy64 0).desc = JobDesc.copy copy64 ∧ (copyAt copy64 0).st = JobSt.copy
      { copied := 0, granulesPoisoned := 0 : CopySt } ∧ (copyAt copy64 0).phase = JobPhase.running ∧
      { copied := 0, granulesPoisoned := 0 : CopySt }.copied < copy64.bytes ∧ reading.ing.outst = [copyRead] ∧ copyRead.host =
      jobHost (keyOf (copyAt copy64 0)) ∧ copyRead.opcode = opRead ∧ copyRead.sent = true ∧ copyRead.req.length = 64 ∧
      List.length (zeros 64) = 64 ∧ isPoison (zeros 64) = false) ∧
    (coreRuns (buddied (copyAt copy64 0)) = true ∧ (buddied (copyAt copy64 0)).acc.jobs = [copyAt copy64 0] ∧ jobNo 0
      (buddied (copyAt copy64 0)) = keyOf (copyAt copy64 0) ∧ (buddied (copyAt copy64 0)).acc.buddy = some 1 ∧ (copyAt copy64
      0).desc = JobDesc.copy
      { spaces := 0, charter := copy64.charter, bytes := 64, srcAddr := 64 * 0, dstAddr := 64 * 1, sealVa := copy64.sealVa, sealValue := copy64.sealValue : CopyDesc }
      ∧ { copied := 0, granulesPoisoned := 0 : CopySt }.copied = 0 ∧ (copyAt copy64 0).awaitFence ≠ [] ∧ Memory.wf (buddied
      (copyAt copy64 0)).stage ∧ (buddied (copyAt copy64 0)).sec.stagePages = [] ∧ isConfidential copy64.charter (buddied
      (copyAt copy64 0)) = false ∧ isPoison (mread (buddied (copyAt copy64 0)).stage (64 * 0) 64) = false ∧ mayUse
      EngineKind.stream (keyOf (copyAt copy64 0)) 64 (buddied (copyAt copy64 0)) = true) := by
  (repeat' apply And.intro) <;> decide +kernel

/-- States and operands that meet the hypotheses of StreamDeliveries, clause by clause. -/
theorem test_met_StreamDeliveries :
    (coreRuns (streaming shadowThere) = true ∧ (streaming shadowThere).acc.jobs = [streamOn shadowThere] ∧ jobNo 0
      (streaming shadowThere) = keyOf (streamOn shadowThere) ∧ (streamOn shadowThere).desc = JobDesc.stream sdesc ∧ (streamOn
      shadowThere).st = JobSt.stream shadowThere ∧ (streamOn shadowThere).phase = JobPhase.running ∧ (streamOn
      shadowThere).guest = none ∧ fetching (streamOn shadowThere) sdesc shadowThere = some (0, false, 0) ∧ formAt (streamOn
      shadowThere) sdesc 0 false = (0, 0, 64, false) ∧ (0, 0, 64, false).2.2.2 = false ∧ (streaming shadowThere).copies = [] ∧
      entryHolding sdesc.charter ((0, 0, 64, false).1 + 65536 * 0) (streaming shadowThere) = some 0 ∧ slotHead (0, 0, 64,
      false) + 65536 * 0 + blockRaw (0, 0, 64, false).2.2.1 0 ≤ slotSize sdesc false) ∧
    (coreRuns (stranded streamSt) = true ∧ (stranded streamSt).acc.jobs = [streamOn streamSt] ∧ jobNo 0 (stranded streamSt)
      = keyOf (streamOn streamSt) ∧ (streamOn streamSt).desc = JobDesc.stream sdesc ∧ (streamOn streamSt).st = JobSt.stream
      streamSt ∧ (streamOn streamSt).phase = JobPhase.running ∧ (streamOn streamSt).guest = none ∧ (0, false) ∈ fetchOrder
      (streamOn streamSt) sdesc streamSt ∧ streamSt.delivery = none ∧ formRangeOk sdesc.charter (formAt (streamOn streamSt)
      sdesc 0 false) (stranded streamSt) = false) ∧
    (coreRuns (streaming resident) = true ∧ (streaming resident).acc.jobs = [streamOn resident] ∧ jobNo 0 (streaming
      resident) = keyOf (streamOn resident) ∧ (streamOn resident).desc = JobDesc.stream sdesc ∧ (streamOn resident).st =
      JobSt.stream resident ∧ (streamOn resident).phase = JobPhase.running ∧ (streamOn resident).guest = none ∧
      resident.delivery = none ∧ passesDone sdesc resident = false ∧ deadlineOf (streamOn resident) sdesc resident ≤
      (streaming resident).tide.count + sdesc.leadTides ∧ resident.earliest ≤ (streaming resident).tide.count ∧ formClean
      (streamOn resident) sdesc resident (formNo sdesc resident) false (streaming resident) = true ∧ (streaming
      resident).tide.count + deliveryTime sdesc (layerEnt (streamOn resident).attach resident.layer).fullRaw (streaming
      resident) ≤ deadlineOf (streamOn resident) sdesc resident) ∧
    (coreRuns (streaming waitingLayer) = true ∧ (streaming waitingLayer).acc.jobs = [streamOn waitingLayer] ∧ jobNo 0
      (streaming waitingLayer) = keyOf (streamOn waitingLayer) ∧ (streamOn waitingLayer).desc = JobDesc.stream sdesc ∧
      (streamOn waitingLayer).st = JobSt.stream waitingLayer ∧ (streamOn waitingLayer).phase = JobPhase.running ∧ (streamOn
      waitingLayer).guest = none ∧ waitingLayer.delivery = none ∧ (streaming waitingLayer).tide.count < waitingLayer.earliest) ∧
    (coreRuns (streaming sending) = true ∧ (streaming sending).acc.jobs = [streamOn sending] ∧ jobNo 0 (streaming sending) =
      keyOf (streamOn sending) ∧ (streamOn sending).desc = JobDesc.stream sdesc ∧ (streamOn sending).st = JobSt.stream sending
      ∧ (streamOn sending).phase = JobPhase.running ∧ (streamOn sending).guest = none ∧ sending.delivery = some (delivering
      false) ∧ List.length (delivering false).bytes = (formAt (streamOn sending) sdesc (formNo sdesc sending) (delivering
      false).shadow).2.2.1 ∧ (streaming sending).tide.count ≤ (delivering false).deadline ∧ (streaming sending).acc.buddy =
      none) ∧
    (coreRuns (streaming spoiled) = true ∧ (streaming spoiled).acc.jobs = [streamOn spoiled] ∧ jobNo 0 (streaming spoiled) =
      keyOf (streamOn spoiled) ∧ (streamOn spoiled).desc = JobDesc.stream sdesc ∧ (streamOn spoiled).st = JobSt.stream spoiled
      ∧ (streamOn spoiled).phase = JobPhase.running ∧ (streamOn spoiled).guest = none ∧ spoiled.delivery = some (delivering
      true) ∧ (delivering true).shadow = false ∧ Option.map (fun t => t + 1) (delivering true).poisonAt ≠ some (streaming
      spoiled).tide.count) ∧
    (coreRuns (atTide 1 (streaming spoiled)) = true ∧ (atTide 1 (streaming spoiled)).acc.jobs = [streamOn spoiled] ∧ jobNo 0
      (atTide 1 (streaming spoiled)) = keyOf (streamOn spoiled) ∧ (delivering true).poisonAt = some 0 ∧ (atTide 1 (streaming
      spoiled)).tide.count = 0 + 1 ∧ formClean (streamOn spoiled) sdesc spoiled (formNo sdesc spoiled) true (atTide 1
      (streaming spoiled)) = true ∧ (atTide 1 (streaming spoiled)).tide.count + deliveryTime sdesc (layerEnt (streamOn
      spoiled).attach spoiled.layer).shadowRaw (atTide 1 (streaming spoiled)) ≤ (delivering true).deadline) := by
  (repeat' apply And.intro) <;> decide +kernel

/-- States and operands that meet the hypotheses of ModulesAndRows, clause by clause. -/
theorem test_met_ModulesAndRows :
    (coreRuns (timedOut [(0, 0), (0, 0)]) = true ∧ (timedOut [(0, 0), (0, 0)]).home.trays = [tray 1] ∧ (tray 1).late = false
      ∧ reachesRing (timedOut [(0, 0), (0, 0)]) ∧ (tray 1).device = self (timedOut [(0, 0), (0, 0)]) ∧ 0 ≤ (timedOut [(0, 0),
      (0, 0)]).refCycles ∧ (timedOut [(0, 0), (0, 0)]).refCycles < 0 + msCycles ∧ (timedOut [(0, 0), (0, 0)]).home.timeouts =
      [(modNum (self (timedOut [(0, 0), (0, 0)])) (tray 1).tray (tray 1).module, 0), (modNum (self (timedOut [(0, 0), (0,
      0)])) (tray 1).tray (tray 1).module, 0)] ∧ moduleFailed (self (timedOut [(0, 0), (0, 0)])) (tray 1).tray (tray 1).module
      (timedOut [(0, 0), (0, 0)]) = false) ∧
    (coreRuns (timedOut []) = true ∧ (timedOut []).home.trays = [tray 1] ∧ (tray 1).device = self (timedOut []) ∧ (timedOut
      []).home.timeouts = []) ∧
    (coreRuns timedOutTwice = true ∧ timedOutTwice.home.trays = [lateTray] ∧ lateTray.device = self timedOutTwice ∧
      timedOutTwice.home.timeouts = [] ∧ lateTray.late = true) ∧
    (coreRuns noticedFail = true ∧ noticedFail.man.groups = [((mirror 0).groupId, mirror 0)] ∧ noticedFail.home.trays = [] ∧
      noticedFail.home.failNotices = [(0, 0, 0, 1)] ∧ tget noticedFail.home.formats (mirror 0).groupId = none) ∧
    (coreRuns (formatting 1 81920) = true ∧ (formatting 1 81920).home.queues = [] ∧ (formatting 1 81920).home.trays = [] ∧
      tget (formatting 1 81920).home.formats (grp (some 128) 0).groupId = some { next := 1, spent := 81920 : Formatting } ∧
      tget (formatting 1 81920).man.groups (grp (some 128) 0).groupId = some (grp (some 128) 0) ∧ (grp (some 128)
      0).formatting = some 128 ∧ (grp (some 128) 0).mode = 1 ∧ (grp (some 128) 0).members = [member 0 0, member 1 0] ∧
      { next := 1, spent := 81920 : Formatting }.next < rowsBelow (grp (some 128) 0) 128 ∧ 20 * tau (formatting 1 81920) <
      { next := 1, spent := 81920 : Formatting }.spent + 64) ∧
    (coreRuns (formatting 1 0) = true ∧ (formatting 1 0).home.queues = [] ∧ (formatting 1 0).home.trays = [] ∧ tget
      (formatting 1 0).home.formats (grp (some 128) 0).groupId = some { next := 1, spent := 0 : Formatting } ∧ tget
      (formatting 1 0).man.groups (grp (some 128) 0).groupId = some (grp (some 128) 0) ∧
      { next := 1, spent := 0 : Formatting }.next < rowsBelow (grp (some 128) 0) 128 ∧
      { next := 1, spent := 0 : Formatting }.spent + 64 ≤ 20 * tau (formatting 1 0)) ∧
    (coreRuns (formatting 2 0) = true ∧ (formatting 2 0).home.queues = [] ∧ (formatting 2 0).home.trays = [] ∧ tget
      (formatting 2 0).home.formats (grp (some 128) 0).groupId = some { next := 2, spent := 0 : Formatting } ∧ tget
      (formatting 2 0).man.groups (grp (some 128) 0).groupId = some (grp (some 128) 0) ∧ rowsBelow (grp (some 128) 0) 128 ≤
      { next := 2, spent := 0 : Formatting }.next ∧ (formatting 2 0).man.issued = []) ∧
    (coreRuns (rebuilding 0 []) = true ∧ (rebuilding 0 []).home.queues = [] ∧ (rebuilding 0 []).home.trays = [] ∧
      (rebuilding 0 []).home.rebuilds = [rebuild1 0 []] ∧ (rebuild1 0 []).groupId = (mirror 2).groupId ∧ (rebuild1 0
      []).ranges = [(0, 2, 1)] ∧ 1 < 2 ∧ tget (rebuilding 0 []).man.groups (mirror 2).groupId = some (mirror 2) ∧ (mirror
      2).mode = 1 ∧ (mirror 2).members = [member 0 0, member 1 2] ∧ (member 0 0).state = 0 ∧ (member 1 2).state = 2 ∧
      moduleFailed (member 0 0).device (member 0 0).tray (member 0 0).module (rebuilding 0 []) = false ∧ (rebuild1 0 []).spent
      + 64 ≤ (rebuild1 0 []).rate * tau (rebuilding 0 [])) ∧
    (coreRuns (rebuilding 1048576 []) = true ∧ (rebuilding 1048576 []).home.queues = [] ∧ (rebuilding 1048576 []).home.trays
      = [] ∧ (rebuilding 1048576 []).home.rebuilds = [rebuild1 1048576 []] ∧ (rebuild1 1048576 []).groupId = (mirror
      2).groupId ∧ (rebuild1 1048576 []).ranges = [(0, 2, 1)] ∧ tget (rebuilding 1048576 []).man.groups (mirror 2).groupId =
      some (mirror 2) ∧ moduleFailed (member 0 0).device (member 0 0).tray (member 0 0).module (rebuilding 1048576 []) = false
      ∧ (rebuild1 1048576 []).rate * tau (rebuilding 1048576 []) < (rebuild1 1048576 []).spent + 64) ∧
    (rebuild1 0 []).groupId = 4095 ∧
    (coreRuns (rebuilding 0 [0]) = true ∧ rebuildOf (mirror 2).groupId (rebuilding 0 [0]) = some (rebuild1 0 [0]) ∧ tget
      (rebuilding 0 [0]).man.groups (mirror 2).groupId = some (mirror 2) ∧ (∀ d ∈ rebuilders (mirror 2) (rebuilding 0 [0]), d
      ∈ (rebuild1 0 [0]).reported)) ∧
    (rebuildOf (mirror 2).groupId (rebuilding 0 []) = some (rebuild1 0 []) ∧ 0 ∈ rebuilders (mirror 2) (rebuilding 0 []) ∧ 0
      ∉ (rebuild1 0 []).reported) ∧
    (coreRuns (resyncing 1023) = true ∧ (resyncing 1023).home.queues = [] ∧ (resyncing 1023).home.trays = [] ∧ tget
      (resyncing 1023).home.resyncs 0 = some (1023, []) ∧ (entryOf 0 (resyncing 1023)).homeDevice = self (resyncing 1023) ∧
      (entryOf 0 (resyncing 1023)).redundancy ≠ 0 ∧ groupAt (modAddr (entryOf 0 (resyncing 1023)).baseFpa) (resyncing 1023) =
      some (mirror 0) ∧ (mirror 0).mode = 1 ∧ (mirror 0).members = [member 0 0, member 1 0] ∧ moduleFailed (member 0 0).device
      (member 0 0).tray (member 0 0).module (resyncing 1023) = false ∧ 1023 ≤ rowOf (layOf (entryOf 0 (resyncing 1023))
      (resyncing 1023)) (extentBytes (entryOf 0 (resyncing 1023)).sizeCode - 64)) ∧
    (coreRuns (resyncing 4194304) = true ∧ (resyncing 4194304).home.queues = [] ∧ (resyncing 4194304).home.trays = [] ∧ tget
      (resyncing 4194304).home.resyncs 0 = some (4194304, []) ∧ (entryOf 0 (resyncing 4194304)).homeDevice = self (resyncing
      4194304) ∧ (entryOf 0 (resyncing 4194304)).redundancy ≠ 0 ∧ groupAt (modAddr (entryOf 0 (resyncing 4194304)).baseFpa)
      (resyncing 4194304) = some (mirror 0) ∧ moduleFailed (member 0 0).device (member 0 0).tray (member 0 0).module
      (resyncing 4194304) = false ∧ rowOf (layOf (entryOf 0 (resyncing 4194304)) (resyncing 4194304)) (extentBytes (entryOf 0
      (resyncing 4194304)).sizeCode - 64) < 4194304) := by
  (repeat' apply And.intro) <;> decide +kernel

/-- States and operands that meet the hypotheses of Losses, clause by clause. -/
theorem test_met_Losses :
    (onRing (atTide 16 (ringed 1)) = true ∧ deviceMember (self (atTide 16 (ringed 1))) (atTide 16 (ringed 1)) = true ∧
      (atTide 16 (ringed 1)).tide.count % 16 = 0 ∧ (isMaster (atTide 16 (ringed 1)) = true → reachesRing (atTide 16 (ringed
      1)))) ∧
    (atTide 15 (ringed 1)).tide.count % 16 ≠ 0 ∧
    (coreRuns (ringed 1) = true ∧ deviceMember 1 (ringed 1) = true) ∧
    deviceMember 2 (ringed 1) = false ∧
    (coreRuns (hearing 32) = true ∧ isMaster (hearing 32) = true ∧ deviceMember 1 (hearing 32) = true ∧ 1 ≠ self (hearing
      32) ∧ tget (hearing 32).ring.losses 1 = none ∧ tget (hearing 32).ring.heartbeats 1 = some 0 ∧ 0 + 32 ≤ (hearing
      32).tide.count ∧ reachesRing (hearing 32)) ∧
    (coreRuns (hearing 31) = true ∧ isMaster (hearing 31) = true ∧ deviceMember 1 (hearing 31) = true ∧ 1 ≠ self (hearing
      31) ∧ tget (hearing 31).ring.losses 1 = none ∧ tget (hearing 31).ring.heartbeats 1 = some 0 ∧ (hearing 31).tide.count <
      0 + 32 ∧ tget (hearing 31).ring.spanReports 1 = none) ∧
    (coreRuns (losing 3) = true ∧ (losing 3).ring.losses = [(1, 4)] ∧ 1 ∉ (losing 3).ing.lostHomes ∧ 1 ≠ self (losing 3) ∧
      (losing 3).tide.count < 4) ∧
    (coreRuns (losing 4) = true ∧ (losing 4).ring.losses = [(1, 4)] ∧ 1 ∉ (losing 4).ing.lostHomes ∧ 1 ≠ self (losing 4) ∧ 4
      ≤ (losing 4).tide.count ∧ (losing 4).man.groups = [] ∧ (losing 4).man.issued = [] ∧ (losing 4).home.trays = [] ∧ (losing
      4).home.rounds = [] ∧ (losing 4).home.rebuilds = [] ∧ (losing 4).home.seals = [] ∧ (losing 4).acc.jobs = [] ∧ (losing
      4).acc.waiting = [] ∧ (losing 4).acc.buddy ≠ some 1 ∧ buddyOf 1 (losing 4).ing.lostHomes (losing 4).man.comp ≠ some
      (self (losing 4)) ∧ (∀ p ∈ (losing 4).ports.ctxs, p.2.role ≠ 3) ∧ (losing 4).ing.outst = [hostOut] ∧ hostOut.sent = true
      ∧ hostOut.req.home = 1 ∧ hostOut.opcode = opRead ∧ hostOut.host < 4096 ∧ (losing 4).ing.held = [] ∧ (losing
      4).ing.waiting = [] ∧ (losing 4).ing.reads = [] ∧ (losing 4).ing.atoms = [] ∧ hostAlive hostOut.host (losing 4) = true ∧
      charterState hostOut.req.charter (losing 4) ≠ 2) ∧
    (coreRuns shore = true ∧ ownHost 5 shore = true ∧ hostAlive 5 shore = true) ∧
    (coreRuns (sealing 0) = true ∧ ownHost 64 (sealing 0) = false ∧ sealSrc 64 (sealing 0) = some (sealSrc1 [sealed 0]) ∧
      (sealSrc1 [sealed 0]).wins = [sealed 0] ∧ (sealed 0).held = some (fab 18, 0) ∧ (fab 18).opcode < opMark) ∧
    (coreRuns deadHost = true ∧ ownHost 5 deadHost = true ∧ hostAlive 5 deadHost = false ∧ deadHost.ing.filter = [] ∧
      deadHost.acc.jobs = []) ∧
    compCurrent 1 up = false ∧
    1 ≠ self up ∧
    (compCurrent 0 up = true ∧ tget up.ring.losses (self up) = none) ∧
    (compCurrent 0 lostSelf = true ∧ tget lostSelf.ring.losses (self lostSelf) ≠ none ∧ lostSelf.isl.held = false ∧
      lostSelf.isl.resetState ≠ ResetState.cold) := by
  (repeat' apply And.intro) <;> decide +kernel

/-- States and operands that meet the hypotheses of LogbookMessages, clause by clause. -/
theorem test_met_LogbookMessages :
    (coreRuns domain = true ∧ domain.acc.waiting = [] ∧ domain.acc.log = [] ∧ domain.acc.frags = [] ∧ (1, 9) ∉
      domain.ring.handled ∧ fragments (rec1 2 false) = 1 ∧ (rec1 2 false).kind ≠ 6 ∧ (rec1 2 false).kind ≠ 7 ∧ (rec1 2
      false).kind ≠ 15 ∧ domain.acc.logTail + recordSize (rec1 2 false) ≤ 2 ^ 26) ∧
    (coreRuns handledRing = true ∧ handledRing.acc.waiting = [] ∧ handledRing.acc.frags = [] ∧ (1, 9) ∈
      handledRing.ring.handled ∧ (rec1 2 false).kind ≠ 1) ∧
    (coreRuns (awaiting (sends (rec1 2 false)) 0) = true ∧ (awaiting (sends (rec1 2 false)) 0).acc.waiting = [] ∧ (awaiting
      (sends (rec1 2 false)) 0).acc.tx = [sends (rec1 2 false)] ∧ (sends (rec1 2 false)).record = some (rec1 2 false) ∧
      (awaiting (sends (rec1 2 false)) 0).acc.jobs = []) ∧
    (coreRuns (withJob offered (awaiting (sends (rec1 1 false)) 0)) = true ∧ (withJob offered (awaiting (sends (rec1 1
      false)) 0)).acc.waiting = [] ∧ (withJob offered (awaiting (sends (rec1 1 false)) 0)).acc.tx = [sends (rec1 1 false)] ∧
      (sends (rec1 1 false)).record = some (rec1 1 false) ∧ (rec1 1 false).kind = 1 ∧ (withJob offered (awaiting (sends (rec1
      1 false)) 0)).acc.jobs = [offered] ∧ ofJob (rec1 1 false) offered = true ∧ offered.phase = JobPhase.offered) ∧
    (coreRuns (withJob (retiring [1]) up) = true ∧ (withJob (retiring [1]) up).acc.waiting = [] ∧ (withJob (retiring [1])
      up).acc.jobs = [retiring [1]] ∧ (withJob (retiring [1]) up).acc.tx = [] ∧ (retiring [1]).phase = JobPhase.retiring ∧
      (retiring [1]).clears = [1] ∧ (retiring [1]).device = self (withJob (retiring [1]) up)) ∧
    (coreRuns (withJob (retiring [1, 2]) up) = true ∧ (withJob (retiring [1, 2]) up).acc.waiting = [] ∧ (withJob (retiring
      [1, 2]) up).acc.jobs = [retiring [1, 2]] ∧ (withJob (retiring [1, 2]) up).acc.tx = [] ∧ (retiring [1, 2]).phase =
      JobPhase.retiring ∧ (retiring [1, 2]).clears = [1, 2] ∧ 2 ≠ 1) ∧
    (coreRuns (awaiting (clears 2) 64) = true ∧ (awaiting (clears 2) 64).acc.waiting = [] ∧ (awaiting (clears 2) 64).acc.tx
      = [clears 2] ∧ (clears 2).record = none ∧ (clears 2).clear = some (0, 0) ∧ (clears 2).resends < 3) ∧
    (coreRuns (awaiting (clears 3) 64) = true ∧ (awaiting (clears 3) 64).acc.waiting = [] ∧ (awaiting (clears 3) 64).acc.tx
      = [clears 3] ∧ (clears 3).record = none ∧ (clears 3).clear = some (0, 0) ∧ 3 ≤ (clears 3).resends) ∧
    (clears 3).sentTide + 64 ≤ (awaiting (clears 3) 64).tide.count ∧
    (coreRuns (awaiting (clears 3) 63) = true ∧ (awaiting (clears 3) 63).acc.waiting = [] ∧ (awaiting (clears 3) 63).acc.tx
      = [clears 3] ∧ (awaiting (clears 3) 63).tide.count < (clears 3).sentTide + 64) ∧
    (coreRuns (logged [rec1 1 false]) = true ∧ (logged [rec1 1 false]).acc.waiting = [] ∧ (logged [rec1 1 false]).isl.bypass
      = Bypass.open ∧ wasLost (logged [rec1 1 false]) = false ∧ (logged [rec1 1 false]).acc.jobs = [] ∧ (logged [rec1 1
      false]).acc.log = [rec1 1 false] ∧ (rec1 1 false).replica = false ∧ (rec1 1 false).owner = self (logged [rec1 1 false])
      ∧ (rec1 1 false).crcOk = true) ∧
    (coreRuns lostOpen = true ∧ lostOpen.acc.waiting = [] ∧ lostOpen.isl.bypass = Bypass.open ∧ wasLost lostOpen = true) ∧
    (coreRuns up = true ∧ up.acc.waiting = [] ∧ up.isl.bypass ≠ Bypass.open) := by
  (repeat' apply And.intro) <;> decide +kernel

/-- States and operands that meet the hypotheses of KeysAndPages, clause by clause. -/
theorem test_met_KeysAndPages :
    (coreRuns (sweeping (sweep2 4096 false none) 0) = true ∧ sweepOf 2 false (sweeping (sweep2 4096 false none) 0) = some
      (sweep2 4096 false none) ∧ 4096 ≤ (sweep2 4096 false none).credit ∧ 0 < 2 ^ 19 ∧ nextPage 2 (sweeping (sweep2 4096 false
      none) 0) = some (0, 0) ∧ (sweeping (sweep2 4096 false none) 0).home.queues = [] ∧ (sweeping (sweep2 4096 false none)
      0).home.trays = [] ∧ (sweeping (sweep2 4096 false none) 0).home.pageWait = [] ∧ tget (sweeping (sweep2 4096 false none)
      0).home.resyncs 0 = none ∧ (entryOf 0 (sweeping (sweep2 4096 false none) 0)).redundancy = 0 ∧ pageEpoch 0 0 (sweeping
      (sweep2 4096 false none) 0) ≠ none ∧ moduleFailed (modParts (modAddr (entryOf 0 (sweeping (sweep2 4096 false none)
      0)).baseFpa)).1 (modParts (modAddr (entryOf 0 (sweeping (sweep2 4096 false none) 0)).baseFpa)).2.1 (modParts (modAddr
      (entryOf 0 (sweeping (sweep2 4096 false none) 0)).baseFpa)).2.2 (sweeping (sweep2 4096 false none) 0) = false) ∧
    ((sweeping (sweep2 4096 false none) 0).sec.sweeps = [sweep2 4096 false none] ∧ (sweep2 4096 false none).charter = 2 ∧
      (sweep2 4096 false none).removal = false ∧ (sweep2 4096 false none).reported = true ∧ 2 ^ 19 ≤ 524288 ∧ oldStagePages 2
      (sweeping (sweep2 4096 false none) 0) = [7]) ∧
    (coreRuns (sweeping (sweep2 4095 false none) 0) = true ∧ sweepOf 2 false (sweeping (sweep2 4095 false none) 0) = some
      (sweep2 4095 false none) ∧ (sweep2 4095 false none).credit < 4096) ∧
    (coreRuns (issued1 (rotating2 [1, 2])) = true ∧ (issued1 (rotating2 [1, 2])).man.issued = [rotating2 [1, 2]] ∧
      (rotating2 [1, 2]).change = Change.charterRotate 2 0 [] ∧ (rotating2 [1, 2]).applied = true ∧ (rotating2 [1, 2]).endAt =
      none ∧ 1 ∉ (rotating2 [1, 2]).reports ∧ 2 ∈ (rotating2 [1, 2]).awaiting ∧ 2 ≠ 1 ∧ 2 ∉ (rotating2 [1, 2]).reports ∧ 2 ∉
      (issued1 (rotating2 [1, 2])).ing.lostHomes) ∧
    (coreRuns (issued1 (rotating2 [1])) = true ∧ (issued1 (rotating2 [1])).man.issued = [rotating2 [1]] ∧ (rotating2
      [1]).change = Change.charterRotate 2 0 [] ∧ (rotating2 [1]).applied = true ∧ (rotating2 [1]).endAt = none ∧ 1 ∉
      (rotating2 [1]).reports ∧ (rotating2 [1]).awaiting = [1] ∧ reachesRing (issued1 (rotating2 [1]))) ∧
    (coreRuns (sweeping (sweep2 0 false (some 4)) 3) = true ∧ sweepOf 2 false (sweeping (sweep2 0 false (some 4)) 3) = some
      (sweep2 0 false (some 4)) ∧ tget (sweeping (sweep2 0 false (some 4)) 3).man.charters 2 = some
      { state := charter2.state, confidential := charter2.confidential, epoch := 1, rotating := true, slot0 := charter2.slot0, slot1 := charter2.slot1, createdTide := charter2.createdTide : Charter }
      ∧ (sweep2 0 false (some 4)).endAt = some 4 ∧ (sweeping (sweep2 0 false (some 4)) 3).man.issued = [] ∧ (sweeping (sweep2
      0 false (some 4)) 3).tide.count < 4) ∧
    (coreRuns (sweeping (sweep2 0 false (some 4)) 4) = true ∧ sweepOf 2 false (sweeping (sweep2 0 false (some 4)) 4) = some
      (sweep2 0 false (some 4)) ∧ tget (sweeping (sweep2 0 false (some 4)) 4).man.charters 2 = some
      { state := charter2.state, confidential := charter2.confidential, epoch := 1, rotating := true, slot0 := charter2.slot0, slot1 := charter2.slot1, createdTide := charter2.createdTide : Charter }
      ∧ (sweeping (sweep2 0 false (some 4)) 4).man.issued = [] ∧ 4 ≤ (sweeping (sweep2 0 false (some 4)) 4).tide.count) ∧
    (coreRuns (issued1 revoking) = true ∧ (issued1 revoking).man.issued = [revoking] ∧ revoking.change =
      Change.charterRevoke 2 ∧ revoking.applied = true ∧ revoking.endAt = none ∧ 1 ∉ revoking.reports ∧ revoking.tally = [1,
      2, 3] ∧ revoking.awaiting = [1] ∧ reachesRing (issued1 revoking)) ∧
    (coreRuns (sweeping (sweep2 0 true (some 4)) 3) = true ∧ sweepOf 2 true (sweeping (sweep2 0 true (some 4)) 3) = some
      (sweep2 0 true (some 4)) ∧ (sweep2 0 true (some 4)).endAt = some 4 ∧ (sweeping (sweep2 0 true (some 4)) 3).tide.count <
      4) ∧
    (coreRuns (sweeping (sweep2 0 true (some 4)) 4) = true ∧ sweepOf 2 true (sweeping (sweep2 0 true (some 4)) 4) = some
      (sweep2 0 true (some 4)) ∧ 4 ≤ (sweeping (sweep2 0 true (some 4)) 4).tide.count ∧ (sweeping (sweep2 0 true (some 4))
      4).man.issued = []) ∧
    (coreRuns domain = true ∧ domain.man.notices = []) ∧
    (coreRuns agreeing = true ∧ agreeing.man.notices = [admitting] ∧ admitting.committed = false ∧ admitting.ready = false ∧
      needsHarbour admitting.change agreeing = true ∧ admitting.id.issuer ≠ self agreeing) ∧
    (coreRuns pageWaiting = true ∧ 0 ∈ pageWaiting.home.pageWait) ∧
    (coreRuns homeAt = true ∧ 0 ∉ homeAt.home.pageWait) := by
  (repeat' apply And.intro) <;> decide +kernel

/-- States and operands that meet the hypotheses of ConfidentialModeAndLighters, clause by clause. -/
theorem test_met_ConfidentialModeAndLighters :
    (coreRuns up = true ∧ fwRuns up = true ∧ hl.viaLighter = true) ∧
    hx.viaLighter = false ∧
    (coreRuns (entering 0) = true ∧ (entering 0).sec.enterAt = some (1, hl) ∧ (entering 0).tide.count < 1) ∧
    (coreRuns (entering 1) = true ∧ (entering 1).sec.enterAt = some (1, hl) ∧ 1 ≤ (entering 1).tide.count ∧ (entering
      1).hm.boxes = []) ∧
    (coreRuns (lit1 (lighter1 true)) = true ∧ 15 < 16 ∧ (lighterOf 15 (lit1 (lighter1 true))).enable = true ∧ (lighterOf 15
      (lit1 (lighter1 true))).inHead ≠ (lighterOf 15 (lit1 (lighter1 true))).inTail ∧ (lighterOf 15 (lit1 (lighter1
      true))).inCounter < 2 ^ 32 ∧ ((lit1 (lighter1 true)).sec.sessions.any fun y => y.id == 9 && y.open_) = true ∧ (lighterOf
      15 (lit1 (lighter1 true))).inHead % (ringBytes (lighterOf 15 (lit1 (lighter1 true))) / 64) + cdiv (48 + roundUp
      (List.length nopRecord) 16) 64 ≤ ringBytes (lighterOf 15 (lit1 (lighter1 true))) / 64 ∧ (lighterOf 15 (lit1 (lighter1
      true))).bound = true ∧ (lighterOf 15 (lit1 (lighter1 true))).session = 9 ∧ 1 ≠ (lighterOf 15 (lit1 (lighter1
      true))).inCounter) ∧
    (0 = (lighterOf 15 (lit1 (lighter1 true))).inCounter ∧ false = false) ∧
    (coreRuns (lit1 (lighter1 false)) = true ∧ (lighterOf 15 (lit1 (lighter1 false))).enable = true ∧ (lighterOf 15 (lit1
      (lighter1 false))).inHead ≠ (lighterOf 15 (lit1 (lighter1 false))).inTail ∧ (lighterOf 15 (lit1 (lighter1
      false))).inCounter < 2 ^ 32 ∧ ((lit1 (lighter1 false)).sec.sessions.any fun y => y.id == 9 && y.open_) = true ∧
      (lighterOf 15 (lit1 (lighter1 false))).inHead % (ringBytes (lighterOf 15 (lit1 (lighter1 false))) / 64) + cdiv (48 +
      roundUp (List.length nopRecord) 16) 64 ≤ ringBytes (lighterOf 15 (lit1 (lighter1 false))) / 64 ∧ (lighterOf 15 (lit1
      (lighter1 false))).bound = false ∧ 0 = 0 ∧ true = true ∧ 3 ≠ 1 ∧ 3 ≠ 4) ∧
    (1 = 1 ∧ takesMore 15 (lit1 (lighter1 true)) = true ∧ (rawHdr nopRecord).command ≠ 0 ∧ headerCode (rawHdr nopRecord)
      (List.take (rawHdr nopRecord).bodyBytes (List.drop 32 nopRecord)) 0 = 0 ∧ (∀ (j : JobDesc), descOf (rawHdr
      nopRecord).command (List.take (rawHdr nopRecord).bodyBytes (List.drop 32 nopRecord)) = some j → charterState
      (descCharter j) (lit1 (lighter1 true)) ≠ 2)) ∧
    (coreRuns (lit1
      { base := (lighter1 true).base, ltSignal := (lighter1 true).ltSignal, enable := (lighter1 true).enable, sizeCode := (lighter1 true).sizeCode, inTail := (lighter1 true).inTail, inHead := (lighter1 true).inHead, outTail := (lighter1 true).outTail, outHead := (lighter1 true).outHead, session := (lighter1 true).session, reason := (lighter1 true).reason, fault := (lighter1 true).fault, bound := (lighter1 true).bound, inCounter := (lighter1 true).inCounter, outCounter := (lighter1 true).outCounter, failures := 6 : Lighter })
      = true ∧ (lighterOf 15 (lit1
      { base := (lighter1 true).base, ltSignal := (lighter1 true).ltSignal, enable := (lighter1 true).enable, sizeCode := (lighter1 true).sizeCode, inTail := (lighter1 true).inTail, inHead := (lighter1 true).inHead, outTail := (lighter1 true).outTail, outHead := (lighter1 true).outHead, session := (lighter1 true).session, reason := (lighter1 true).reason, fault := (lighter1 true).fault, bound := (lighter1 true).bound, inCounter := (lighter1 true).inCounter, outCounter := (lighter1 true).outCounter, failures := 6 : Lighter })).enable
      = true ∧ (lighterOf 15 (lit1
      { base := (lighter1 true).base, ltSignal := (lighter1 true).ltSignal, enable := (lighter1 true).enable, sizeCode := (lighter1 true).sizeCode, inTail := (lighter1 true).inTail, inHead := (lighter1 true).inHead, outTail := (lighter1 true).outTail, outHead := (lighter1 true).outHead, session := (lighter1 true).session, reason := (lighter1 true).reason, fault := (lighter1 true).fault, bound := (lighter1 true).bound, inCounter := (lighter1 true).inCounter, outCounter := (lighter1 true).outCounter, failures := 6 : Lighter })).inHead
      ≠ (lighterOf 15 (lit1
      { base := (lighter1 true).base, ltSignal := (lighter1 true).ltSignal, enable := (lighter1 true).enable, sizeCode := (lighter1 true).sizeCode, inTail := (lighter1 true).inTail, inHead := (lighter1 true).inHead, outTail := (lighter1 true).outTail, outHead := (lighter1 true).outHead, session := (lighter1 true).session, reason := (lighter1 true).reason, fault := (lighter1 true).fault, bound := (lighter1 true).bound, inCounter := (lighter1 true).inCounter, outCounter := (lighter1 true).outCounter, failures := 6 : Lighter })).inTail
      ∧ (lighterOf 15 (lit1
      { base := (lighter1 true).base, ltSignal := (lighter1 true).ltSignal, enable := (lighter1 true).enable, sizeCode := (lighter1 true).sizeCode, inTail := (lighter1 true).inTail, inHead := (lighter1 true).inHead, outTail := (lighter1 true).outTail, outHead := (lighter1 true).outHead, session := (lighter1 true).session, reason := (lighter1 true).reason, fault := (lighter1 true).fault, bound := (lighter1 true).bound, inCounter := (lighter1 true).inCounter, outCounter := (lighter1 true).outCounter, failures := 6 : Lighter })).failures
      < 7) ∧
    (coreRuns (lit1
      { base := (lighter1 true).base, ltSignal := (lighter1 true).ltSignal, enable := (lighter1 true).enable, sizeCode := (lighter1 true).sizeCode, inTail := (lighter1 true).inTail, inHead := (lighter1 true).inHead, outTail := (lighter1 true).outTail, outHead := (lighter1 true).outHead, session := (lighter1 true).session, reason := (lighter1 true).reason, fault := (lighter1 true).fault, bound := (lighter1 true).bound, inCounter := (lighter1 true).inCounter, outCounter := (lighter1 true).outCounter, failures := 7 : Lighter })
      = true ∧ (lighterOf 15 (lit1
      { base := (lighter1 true).base, ltSignal := (lighter1 true).ltSignal, enable := (lighter1 true).enable, sizeCode := (lighter1 true).sizeCode, inTail := (lighter1 true).inTail, inHead := (lighter1 true).inHead, outTail := (lighter1 true).outTail, outHead := (lighter1 true).outHead, session := (lighter1 true).session, reason := (lighter1 true).reason, fault := (lighter1 true).fault, bound := (lighter1 true).bound, inCounter := (lighter1 true).inCounter, outCounter := (lighter1 true).outCounter, failures := 7 : Lighter })).enable
      = true ∧ (lighterOf 15 (lit1
      { base := (lighter1 true).base, ltSignal := (lighter1 true).ltSignal, enable := (lighter1 true).enable, sizeCode := (lighter1 true).sizeCode, inTail := (lighter1 true).inTail, inHead := (lighter1 true).inHead, outTail := (lighter1 true).outTail, outHead := (lighter1 true).outHead, session := (lighter1 true).session, reason := (lighter1 true).reason, fault := (lighter1 true).fault, bound := (lighter1 true).bound, inCounter := (lighter1 true).inCounter, outCounter := (lighter1 true).outCounter, failures := 7 : Lighter })).inHead
      ≠ (lighterOf 15 (lit1
      { base := (lighter1 true).base, ltSignal := (lighter1 true).ltSignal, enable := (lighter1 true).enable, sizeCode := (lighter1 true).sizeCode, inTail := (lighter1 true).inTail, inHead := (lighter1 true).inHead, outTail := (lighter1 true).outTail, outHead := (lighter1 true).outHead, session := (lighter1 true).session, reason := (lighter1 true).reason, fault := (lighter1 true).fault, bound := (lighter1 true).bound, inCounter := (lighter1 true).inCounter, outCounter := (lighter1 true).outCounter, failures := 7 : Lighter })).inTail
      ∧ 7 ≤ (lighterOf 15 (lit1
      { base := (lighter1 true).base, ltSignal := (lighter1 true).ltSignal, enable := (lighter1 true).enable, sizeCode := (lighter1 true).sizeCode, inTail := (lighter1 true).inTail, inHead := (lighter1 true).inHead, outTail := (lighter1 true).outTail, outHead := (lighter1 true).outHead, session := (lighter1 true).session, reason := (lighter1 true).reason, fault := (lighter1 true).fault, bound := (lighter1 true).bound, inCounter := (lighter1 true).inCounter, outCounter := (lighter1 true).outCounter, failures := 7 : Lighter })).failures) := by
  (repeat' apply And.intro) <;> decide +kernel

/-- States and operands that meet the hypotheses of SpdmResponder, clause by clause. -/
theorem test_met_SpdmResponder :
    (hmRuns up = true ∧ 1 ≠ 0) ∧
    (hmRuns shaking = true ∧ shaking.sec.sessions = [session1 false] ∧ (session1 false).open_ = false) ∧
    (255 ≤ 6 ∨ 255 = 255) ∧
    (6 < 7 ∧ 7 ≠ 255) ∧
    up.sec.sessions.length ≤ 4 := by
  (repeat' apply And.intro) <;> decide +kernel

/-! ### Witnesses written by hand: hypotheses about a whole step. -/

/-- A command waits at the front of the queue, and a step answers a next state from states that meet StepKeepsMemories,
OnlyColdResetClearsLatch and StrapsKeptAndFloorNeverFalls. -/
theorem test_met_StepRunsFrontCommand : { up with pending := [.readPout] }.pending = .readPout :: [] := rfl

theorem test_met_step_answers :
    (∃ t, step up = .next t) ∧ (∃ t, step upLatched = .next t) ∧ ∃ t, step { up with pending := [.readPout] } = .next t :=
  ⟨⟨_, rfl⟩, ⟨_, rfl⟩, ⟨_, rfl⟩⟩

/-- A schedule that runs is not stopping; a stopping job; an activation; a handshake's verify data. -/
theorem test_met_phases_and_forms :
    (∀ c, (schedule streamSt).phase ≠ .stopping c) ∧ (∃ c, (copyJob (.stopping 3)).phase = .stopping c) ∧
    (∃ m r, activating.change = .fwActivate m r) ∧
    ∃ v, v = Config.hmac384 (session1 false).secret (le 4 (session1 false).id) :=
  ⟨fun _ h => (by cases h), ⟨_, rfl⟩, ⟨_, _, rfl⟩, ⟨_, rfl⟩⟩

/-- A program of one END is well formed in all but what its signature's check says: with that, the hypotheses of ProgramCommits on an image
that is accepted are met, for this device alone and for another. -/
theorem test_met_ProgramCommits_accepted
    (sig : Config.ecdsaVerify (zeros 97) (imgSigned prog1) (prog1.drop (prog1.length - 96)) = true) :
    fwRuns signedAt = true ∧ hx.expert = true ∧
    stagedImage (tgetD signedAt.hm.staged 1 ([], 0)).1 prog1.length = some prog1 ∧ imgCheck 1 prog1 signedAt = 0 ∧
    maskDevices 1 = [self signedAt] ∧ deviceMember (self signedAt) signedAt = true ∧ tget signedAt.hm.programs 1 = none ∧
    installCode 1 prog1 signedAt = 0 ∧ maskDevices 2 = [1] ∧ 1 ≠ self signedAt ∧ deviceMember 1 signedAt = true := by
  have key : tget signedAt.hm.keys (imgKey prog1) = some (zeros 97) := by decide +kernel
  have form : imgFormatOk 1 prog1 = true := by decide +kernel
  have code : imgCodeOk prog1 = true := by decide +kernel
  have cost : imgBudgetOk prog1 = true := by decide +kernel
  refine ⟨rfl, rfl, by decide +kernel, ?_, by decide +kernel, by decide +kernel, rfl, by decide +kernel, by decide +kernel,
    by decide +kernel, by decide +kernel⟩
  simp [imgCheck, key, form, code, cost, sig, firstCode]


/-! ### Ill-formed terms, one for each check of WellFormed.lean. -/

def badHdr : CmdHdr := { hx with mailbox := 16 }
def badJobHdr : JobHdr := { jhdr with hdr := badHdr }
def badEntry : Entry := { ent 0 with baseFpa := 65535 }
def badWindow : Window := { win0 with entryCount := 2 ^ 20 }
def badMap : RouteMap := ⟨[(64, [])], [], []⟩
def badComp : Composition := { comp012 with members := [64] }
def badGroup : Group := { mirror 0 with members := [member 256 0] }
def badCrane : CraneDesc := { craneDesc with op := 256 }
def badStev : StevDesc := { stevDesc with op := 256 }
def badCust : CustDesc := { scanDesc with op := 256 }
def badCodec : CodecDesc := { encodeDesc with op := 256 }
def badStream : StreamDesc := { streamDesc with tclass := 256 }
def badPlace : PlaceDesc := { placeDesc with tier := 256 }
def badCopy : CopyDesc := { copyStage with spaces := 256 }
def badIdent : Ident := { span1 with role := 256 }
def shortSlot : RingSlot := { badSlot with answers := zeros 255 }
def ring2 : RingMap := ⟨2, 0, [(1, 1)]⟩
def badRing : RingMap := ⟨2, 2, []⟩
def badStamp : Stamp := ⟨false, 65536, 0, false⟩
def ident1 : ChangeId := ⟨1, 0⟩
def join1 : CraneJoin :=
  { holder := 0, device := 0, slot := 0, hdr := jhdr, attempt := 1, seed := 0, desc := craneDesc, members := [5], live := [5], parts := [0], done := [] }
def badJoin : CraneJoin := { join1 with done := [64] }

theorem test_illformed_shapes :
    (optWord (some 65535) && !optWord (some 65536)) = true ∧
    ([badEntry.wf, badGroup.wf, ({ mirror 0 with members := List.replicate 19 (member 0 0) } : Group).wf, badJobHdr.wf,
      badMap.wf, RouteMap.wf ⟨[(0, [256])], [], []⟩, RouteMap.wf ⟨[], [(4096, [])], []⟩, RouteMap.wf ⟨[], [(0, [256])], []⟩,
      RouteMap.wf ⟨[], [], [(4096, ⟨[], []⟩)]⟩, badComp.wf, shortSlot.wf, MirrorSource.wf (.port 65536 0), MirrorSource.wf (.port 0 4),
      MirrorSource.wf (.flow [] []), MirrorSource.wf (.flow [0, 0, 0, 0, 0] []), HostReq.wf { hostRead with length := 0 } 0,
      HostReq.wf hostRead 1, FabReq.wf { fab 1 with length := 0 }, FabReq.wf { fab 1 with payload := zeros 257 },
      Resp.wf { respOf 0 false 0 with data := zeros 257 }, Segment.wf { seg 1 5 0 with data := zeros 4097 }].all fun b => !b) = true := by
  decide +kernel

theorem test_illformed_joins_and_work :
    ([({ join1 with hdr := badJobHdr } : CraneJoin).wf, ({ join1 with desc := badCrane } : CraneJoin).wf, ({ join1 with members := [4096] } : CraneJoin).wf,
      ({ join1 with live := [4096] } : CraneJoin).wf, ({ join1 with parts := [64] } : CraneJoin).wf, badJoin.wf, Work.wf (.craneAdd (2 ^ 32) false 0),
      Work.wf (.craneAdd 0 false 4096), Work.wf (.cranePass (2 ^ 32)), Work.wf (.linkFrame 257 0 1), Work.wf (.linkFrame 0 0 0), Work.wf (.frameDecode 257 0 1), Work.wf (.merge 0 0),
      badRing.wf, RingFound.wf (.ring badRing), ({ badRing with sites := 65 } : RingMap).wf, ({ ring2 with devices := [(64, 0)] } : RingMap).wf, Work.wf (.rows 0 0), Work.wf (.fill 0 0),
      Work.wf (.writeOut 0 0), Work.wf (.block (2 ^ 32)), Work.wf (.piece 0 0)].all fun b => !b) = true ∧
    (join1.wf && Work.wf (.rows 0 1) && Work.wf (.merge 0 1) && ring2.wf) = true := by decide +kernel

theorem test_illformed_changes :
    ([Change.wf (.map (2 ^ 19) (ent 0)), Change.wf (.map 0 badEntry), Change.wf (.revoke (2 ^ 19)), Change.wf (.window 4096 0 win0),
      Change.wf (.window 0 8 win0), Change.wf (.window 0 0 badWindow), Change.wf (.route badMap), Change.wf (.composition badComp ⟨[], [], []⟩),
      Change.wf (.composition comp012 badMap), Change.wf (.role 4096 0 [] []), Change.wf (.role 0 4096 [] []), Change.wf (.tideLength 8),
      Change.wf (.groupDefine badGroup), Change.wf (.groupDelete 4096), Change.wf (.formatStart 4096 0), Change.wf (.formatStart 0 (2 ^ 64)),
      Change.wf (.formatEnd 4096 0 true), Change.wf (.formatEnd 0 (2 ^ 64) true), Change.wf (.replace 4096 0 0 0 0 0), Change.wf (.replace 0 18 0 0 0 0),
      Change.wf (.replace 0 0 64 0 0 0), Change.wf (.replace 0 0 0 256 0 0), Change.wf (.replace 0 0 0 0 16 0), Change.wf (.charterCreate 4096 false []),
      Change.wf (.charterMembers 4096 [] []), Change.wf (.charterMembers 0 [4096] []), Change.wf (.charterMembers 0 [] [4096]),
      Change.wf (.charterRotate 4096 0 []), Change.wf (.charterRevoke 4096), Change.wf (.migrate [(2 ^ 19, ent 0)]), Change.wf (.migrate [(0, badEntry)]),
      Change.wf (.fwActivate (2 ^ 64) 0)].all fun b => !b) = true := by decide +kernel

theorem test_illformed_fields_1 :
    (let x : CmdHdr := hx
     ([{ x with mailbox := 16 }, { x with tag := 2 ^ 32 }] : List CmdHdr).all (fun y => !y.wf)) = true ∧
    (let x : JobHdr := jhdr
     ([{ x with seq := 2 ^ 48 }, { x with queue := 2 ^ 8 }, { x with owner := 2 ^ 8 }] : List JobHdr).all (fun y =>
      !y.wf)) = true ∧
    (let x : Entry := ent 0
     ([{ x with baseFpa := 2 ^ 56 }, { x with sizeCode := 2 ^ 4 }, { x with tier := 2 ^ 2 }, { x with cls := 2 ^ 2 },
      { x with redundancy := 2 ^ 3 }, { x with charter := 2 ^ 12 }, { x with ownerHost := 2 ^ 12 },
      { x with generation := 2 ^ 16 }, { x with keyEpoch := 2 ^ 2 }, { x with state := 2 ^ 2 },
      { x with memberPerm := 2 ^ 3 }, { x with homeDevice := 2 ^ 6 }, { x with shadowEntry := 2 ^ 19 },
      { x with objectId := 2 ^ 32 }, { x with reserved := 2 ^ 98 }] : List Entry).all (fun y => !y.wf)) = true ∧
    (let x : Window := win0
     ([{ x with sizeCode := 2 ^ 4 }, { x with firstEntry := 2 ^ 19 }, { x with entryCount := 2 ^ 20 }] : List
      Window).all (fun y => !y.wf)) = true ∧
    (let x : GroupMember := member 0 0
     ([{ x with device := 2 ^ 6 }, { x with tray := 2 ^ 8 }, { x with module := 2 ^ 4 }, { x with state := 2 ^ 2 }] :
      List GroupMember).all (fun y => !y.wf)) = true ∧
    (let x : Group := mirror 0
     ([{ x with groupId := 2 ^ 16 }, { x with mode := 2 ^ 8 }, { x with memberBytes := 2 ^ 64 },
      { x with formatLimit := 2 ^ 64 }, { x with anchor := 2 ^ 64 }] : List Group).all (fun y => !y.wf)) = true ∧
    (let x : ChangeId := ident1
     ([{ x with issuer := 64 }] : List ChangeId).all (fun y => !y.wf)) = true ∧
    (let x : HostReq := hostRead
     ([{ x with ctx := 257 }, { x with tag := 2 ^ 16 }, { x with charter := 4096 }, { x with address := 2 ^ 56 },
      { x with tclass := 16 }, { x with sealWindow := 256 }, { x with aux := 2 ^ 32 }, { x with length := 256 + 1 }] : List
      HostReq).all (fun y => !y.wf 0)) = true := by
  (repeat' apply And.intro) <;> decide +kernel

theorem test_illformed_fields_2 :
    (let x : FabReq := fab 1
     ([{ x with opcode := 2 ^ 8 }, { x with charter := 2 ^ 12 }, { x with source := 2 ^ 12 },
      { x with tag := 2 ^ 16 }, { x with address := 2 ^ 56 }, { x with entry := 2 ^ 19 }, { x with generation := 2 ^ 16 },
      { x with routeEpoch := 2 ^ 16 }, { x with home := 2 ^ 6 }, { x with tclass := 2 ^ 4 }, { x with sealWindow := 2 ^ 8 },
      { x with jobDevice := 2 ^ 6 }, { x with jobSlot := 2 ^ 12 }, { x with attempt := 2 ^ 8 }, { x with parts := 2 ^ 13 },
      { x with aux := 2 ^ 32 }, { x with length := 256 + 1 }] : List FabReq).all (fun y => !y.wf)) = true ∧
    (let x : Resp := respOf 0 false 0
     ([{ x with opcode := 2 ^ 8 }, { x with destination := 2 ^ 12 }, { x with tag := 2 ^ 16 },
      { x with reason := 2 ^ 16 }, { x with ll := 2 ^ 3 }, { x with responder := 2 ^ 6 }, { x with parts := 2 ^ 13 },
      { x with aux := 2 ^ 32 }] : List Resp).all (fun y => !y.wf)) = true ∧
    (let x : Segment := seg 1 5 0
     ([{ x with kind := 2 ^ 4 }, { x with jobDevice := 2 ^ 6 }, { x with jobSlot := 2 ^ 12 },
      { x with attempt := 2 ^ 8 }, { x with sender := 2 ^ 12 }, { x with tile := 2 ^ 32 }, { x with aux := 2 ^ 32 },
      { x with members := 2 ^ 13 }, { x with format := 2 ^ 5 }, { x with seqLo := 2 ^ 16 }] : List Segment).all (fun y =>
      !y.wf)) = true ∧
    (let x : LogRec := rec1 1 false
     ([{ x with kind := 2 ^ 8 }, { x with owner := 2 ^ 6 }, { x with queue := 2 ^ 8 }, { x with attempt := 2 ^ 8 },
      { x with seq := 2 ^ 48 }, { x with jobSlot := 2 ^ 12 }, { x with command := 2 ^ 16 }, { x with tide := 2 ^ 64 },
      { x with logSeq := 2 ^ 64 }, { x with queueOwner := 2 ^ 8 }] : List LogRec).all (fun y => !y.wf)) = true ∧
    (let x : Ident := span1
     ([{ x with partClass := 2 ^ 8 }, { x with partCode := 2 ^ 32 }, { x with role := 2 ^ 8 },
      { x with widths := 2 ^ 8 }, { x with deviceId := 2 ^ 8 }] : List Ident).all (fun y => !y.wf)) = true ∧
    (let x : SlotBack := ⟨false, 0, none⟩
     ([{ x with position := 384 }] : List SlotBack).all (fun y => !y.wf)) = true ∧
    (let x : ProgramMsg := ⟨0, []⟩
     ([{ x with kind := 16 }] : List ProgramMsg).all (fun y => !y.wf)) = true ∧
    (let x : CraneDesc := craneDesc
     ([{ x with collective := 2 ^ 8 }, { x with op := 2 ^ 8 }, { x with inFormat := 2 ^ 8 },
      { x with outFormat := 2 ^ 8 }, { x with rounding := 2 ^ 8 }, { x with policy := 2 ^ 8 }, { x with tileCode := 2 ^ 8 },
      { x with flags := 2 ^ 8 }, { x with charter := 2 ^ 16 }, { x with memberCount := 2 ^ 16 },
      { x with sourceIndex := 2 ^ 16 }, { x with memberTimeout := 2 ^ 16 }, { x with elementCount := 2 ^ 64 },
      { x with memberList := 2 ^ 64 }, { x with shardTiles := 2 ^ 32 }, { x with programId := 2 ^ 32 },
      { x with seed := 2 ^ 32 }, { x with outVa := 2 ^ 64 }, { x with sealVa := 2 ^ 64 }, { x with sealValue := 2 ^ 64 },
      { x with spillBase := 2 ^ 64 }, { x with spillBytes := 2 ^ 64 }] : List CraneDesc).all (fun y => !y.wf)) = true := by
  (repeat' apply And.intro) <;> decide +kernel

theorem test_illformed_fields_3 :
    (let x : CraneJoin := join1
     ([{ x with holder := 64 }, { x with device := 64 }, { x with slot := 4096 }, { x with attempt := 256 },
      { x with seed := 2 ^ 64 }] : List CraneJoin).all (fun y => !y.wf)) = true ∧
    (let x : StevDesc := stevDesc
     ([{ x with op := 2 ^ 8 }, { x with idxFormat := 2 ^ 8 }, { x with spaces := 2 ^ 8 }, { x with flags := 2 ^ 8 },
      { x with elemFormat := 2 ^ 8 }, { x with outFormat := 2 ^ 8 }, { x with rounding := 2 ^ 8 },
      { x with engines := 2 ^ 8 }, { x with charter := 2 ^ 16 }, { x with recordBytes := 2 ^ 8 },
      { x with indexOffset := 2 ^ 8 }, { x with rowSize := 2 ^ 32 }, { x with indexCount := 2 ^ 64 },
      { x with idxAddr := 2 ^ 64 }, { x with srcAddr := 2 ^ 64 }, { x with dstAddr := 2 ^ 64 },
      { x with rowCount := 2 ^ 64 }, { x with baseAddr := 2 ^ 64 }, { x with accBase := 2 ^ 64 },
      { x with bagAddr := 2 ^ 64 }, { x with bagCount := 2 ^ 32 }, { x with seed := 2 ^ 32 },
      { x with sealTable := 2 ^ 64 }, { x with sealValue := 2 ^ 64 }] : List StevDesc).all (fun y => !y.wf)) = true ∧
    (let x : CustDesc := scanDesc
     ([{ x with op := 2 ^ 8 }, { x with metric := 2 ^ 8 }, { x with vecFormat := 2 ^ 8 }, { x with spaces := 2 ^ 8 },
      { x with flags := 2 ^ 8 }, { x with engines := 2 ^ 8 }, { x with batch := 2 ^ 8 }, { x with termCount := 2 ^ 8 },
      { x with charter := 2 ^ 16 }, { x with dim := 2 ^ 16 }, { x with k := 2 ^ 16 }, { x with listCount := 2 ^ 8 },
      { x with rowCount := 2 ^ 64 }, { x with storeAddr := 2 ^ 64 }, { x with stride := 2 ^ 32 },
      { x with indexBase := 2 ^ 32 }, { x with attrAddr := 2 ^ 64 }, { x with schemaAddr := 2 ^ 64 },
      { x with queryAddr := 2 ^ 64 }, { x with outAddr := 2 ^ 64 }, { x with outCapacity := 2 ^ 64 },
      { x with programId := 2 ^ 32 }, { x with workBase := 2 ^ 64 }, { x with sealVa := 2 ^ 64 },
      { x with sealValue := 2 ^ 64 }, { x with listAddr := 2 ^ 64 }] : List CustDesc).all (fun y => !y.wf)) = true ∧
    (let x : CodecDesc := encodeDesc
     ([{ x with op := 2 ^ 8 }, { x with elemWidth := 2 ^ 8 }, { x with spaces := 2 ^ 8 },
      { x with modeMask := 2 ^ 8 }, { x with engines := 2 ^ 8 }, { x with charter := 2 ^ 16 },
      { x with objectId := 2 ^ 32 }, { x with rawBytes := 2 ^ 64 }, { x with rawAddr := 2 ^ 64 },
      { x with indexAddr := 2 ^ 64 }, { x with payloadBase := 2 ^ 64 }, { x with sealVa := 2 ^ 64 },
      { x with sealValue := 2 ^ 64 }] : List CodecDesc).all (fun y => !y.wf)) = true ∧
    (let x : StreamDesc := streamDesc
     ([{ x with windowLayers := 2 ^ 8 }, { x with tclass := 2 ^ 8 }, { x with charter := 2 ^ 16 },
      { x with layerCount := 2 ^ 16 }, { x with group := 2 ^ 16 }, { x with prefetchCap := 2 ^ 16 },
      { x with leadTides := 2 ^ 32 }, { x with startTide := 2 ^ 64 }, { x with passTides := 2 ^ 32 },
      { x with passCount := 2 ^ 32 }, { x with layerTable := 2 ^ 64 }, { x with windowBase := 2 ^ 64 },
      { x with slotBytes := 2 ^ 32 }, { x with shadowSlotBytes := 2 ^ 32 }, { x with shadowBase := 2 ^ 64 }] : List
      StreamDesc).all (fun y => !y.wf)) = true ∧
    (let x : CopyDesc := copyStage
     ([{ x with spaces := 2 ^ 8 }, { x with charter := 2 ^ 16 }, { x with bytes := 2 ^ 64 },
      { x with srcAddr := 2 ^ 64 }, { x with dstAddr := 2 ^ 64 }, { x with sealVa := 2 ^ 64 },
      { x with sealValue := 2 ^ 64 }] : List CopyDesc).all (fun y => !y.wf)) = true ∧
    (let x : PlaceDesc := placeDesc
     ([{ x with tier := 2 ^ 8 }, { x with charter := 2 ^ 16 }, { x with objectId := 2 ^ 32 },
      { x with srcVa := 2 ^ 64 }, { x with bytes := 2 ^ 64 }, { x with stageAddr := 2 ^ 64 }] : List PlaceDesc).all (fun y
      => !y.wf)) = true ∧
    (let x : PilotqBlock := floorOf 0
     ([{ x with queue := 2 ^ 16 }, { x with flags := 2 ^ 8 }, { x with reserved := 2 ^ 8 }, { x with rate := 2 ^ 32 },
      { x with burst := 2 ^ 32 }, { x with latencyTarget := 2 ^ 32 }] : List PilotqBlock).all (fun y => !y.wf)) = true := by
  (repeat' apply And.intro) <;> decide +kernel

/-- Commands with operands in their fields, part 1. -/
def wellFormed_1 : List Instr :=
    [.mboxPad 0, .mboxNop hx, .commandTake 0, .berthConfigure hx 0 0 [], .linkCodec hx 0 0 0 0, .switchForwarding hx 0 [],
     .mirrorSession hx 0 0 (.port 0 0), .sampleConfigure hx 0 false 0, .pilotQueues hx 0 0 0 0 0, .pilotClass hx 0 0 0 0 0,
     .pilotPort hx 0 (List.replicate 16 0) 0, .pilotPilotq hx (floorOf 0), .pilotHost hx 0 0 0 0, .pilotStats hx false 0 0
     false, .manifestMap hx 0 (ent 0) 0, .manifestRevoke hx 0 0, .manifestWindow hx 0 0 win0 0, .manifestSync hx 0 0 [] []
     ⟨[], [], []⟩ 0, .routeCommit hx ⟨[], [], []⟩ 0, .compositionSet hx comp012 ⟨[], [], []⟩ 0, .roleShift hx 0 0 [] [] 0,
     .tideSetLength hx 0 0, .redundancyGroup hx false (mirror 0) 0, .redundancyFormat hx 0 0 0, .redundancyReplace hx 0 0 0
     0 0 0 0, .charterCreate hx 0 false 0 [] 0, .charterMembers hx 0 [] [] 0, .charterRotate hx 0 0 0 [] 0, .charterRevoke
     hx 0 0, .confidentialEnter hx]

/-- Commands with operands in their fields, part 2. -/
def wellFormed_2 : List Instr :=
    [.jobqOpen hx 0 0, .jobqClose hx 0 0, .craneCollective jhdr craneDesc, .stevedoreMove jhdr stevDesc, .customsScan jhdr
     scanDesc, .customsScore jhdr scanDesc, .customsMerge jhdr scanDesc, .codecEncode jhdr encodeDesc, .codecDecode jhdr
     encodeDesc, .streamSchedule jhdr streamDesc, .streamStop hx 0, .tierPlace jhdr placeDesc, .tierDrop hx 0 0,
     .tierMigrate hx 0 0 0 0 0 [] 0, .tierQuery hx 0, .copyRun jhdr copyStage, .programKeyEnroll hx 0 (zeros 97),
     .programKeyClear hx 0, .programLoadBlock hx 0 0 [], .programCommit hx 0 0 0, .programUnload hx 0 0, .programQuery hx
     0, .fwLoadBlock hx 0 [], .fwCommit hx 0 0 none false, .fwActivateAt hx 0 0 0, .fwMeasurements hx 0, .fwStatus hx,
     .logbookFlush hx none, .telemetrySamples hx, .telemetryCounters hx 0 0]

/-- Commands with operands in their fields, part 3. -/
def wellFormed_3 : List Instr :=
    [.domainChangeNotice ⟨1, 0⟩ (.tideLength 2) 0, .domainChangeReady 0 0 false 0, .domainChangeCommit ⟨1, 0⟩,
     .domainChangeCancel ⟨1, 0⟩, .changeReadyDeadline 0, .domainChangeApply, .routeGraceEnd, .tideBoundary,
     .tideMarkerReceive false 0 0 0, .markerMissed, .masterTakeover, .ringSlotArrive badSlot 0, .snoopAnswer badSlot,
     .slotReturn ⟨false, 0, none⟩, .dataSlotReceive badSlot, .ringMeasure false 0 0 none, .ringLinkFail 0, .ringLinkRestore
     0, .trainRestore, .bypassReleaseRequest, .bypassReleaseTimeout, .bypassLeaveRequest, .spliceRequest 0 false,
     .spliceGrant, .splice, .bypassClose, .coreHeartbeatTimeout, .sliceRetire .crane 0 0 (.merge 0 1) [] [], .tideOverrun
     .crane 0, .budgetRestore .crane 0]

/-- Commands with operands in their fields, part 4. -/
def wellFormed_4 : List Instr :=
    [.powerSample 0, .read hostRead, .readAcq { hostRead with payload := zeros 8 }, .acquire hostRead, .write
     { hostRead with payload := zeros 64 }, .writePartial { hostRead with payload := zeros 72 }, .writeSeal
     { hostRead with payload := zeros 8 }, .stow { hostRead with payload := zeros 64 }, .atomic
     { hostRead with payload := zeros 64 }, .regionPublish { hostRead with payload := zeros 24 }, .cReadShared hostRead,
     .cReadOwn hostRead, .cUpgrade hostRead, .cWriteback { hostRead with payload := zeros 64 }, .cEvictClean hostRead,
     .cRecallAnswer 0 0 none, .hostRecallTimeout 0 0, .cStowFill (fab 1), .cStowFillAnswer 0 0 false, .cSnoopDone (fab 1),
     .snoopRoundReturn 0 [], .deadAgentNotice 0, .directoryScanDone 0, .homeAdmit (fab 1), .attemptFence (fab 1),
     .granuleBatchStart 0 0, .trayResponse 0 0 [], .granuleBatchDone 0 0, .sealTimeout 0 0, .windowForget 0]

/-- Commands with operands in their fields, part 5. -/
def wellFormed_5 : List Instr :=
    [.responseReceive (respOf 0 false 0), .loadLevelUpdate, .blockReceive 0 (zeros 512) false none, .cutItemArrive 0 0 0 0
     [], .idle 0 0, .nak 0 0, .credit 0 0 0 0, .nakHoldoffExpire 0, .resendTimeout 0, .signalDetect 0, .equalizeLock 0,
     .blockLock 0, .identify 0 span1, .ping 0, .pong 0 0, .initialCredit 0 0 0 0, .trainingTimeout 0, .laneFail 0 0,
     .spanSeqQuery 0 0, .spanSeqAnswer 0 0, .spanAnswerTimeout 0, .planeMatch 0, .transmitSlot 0 0, .pilotQueuesApply,
     .latencySample, .contribReceive (seg 1 5 0), .partialReceive (seg 1 5 0), .resultReceive (seg 1 5 0), .tileOpen 0 0,
     .memberTimeout 0 0]

/-- Commands with operands in their fields, part 6. -/
def wellFormed_6 : List Instr :=
    [.exclusionNotice 0 0, .exclusionApply 0 0, .engineReadResponse 0 0 false [] [] [], .engineJobStop 0, .attemptStart 0
     none, .linkFrameTimeout 0, .linkFrameReceive 0 [] [], .linkFrameAck 0 0, .linkFrameNack 0 0, .prefetchBlockLand 0 0
     false 0 0 false [] [], .formRetranslate 0 0 false, .layerChoice 0, .deliveryClose 0, .streamAbandoned 0,
     .trayRequestTimeout 0, .moduleFailedNotice 0 0 0 0, .formatStep 0 0, .formatDone 0, .rebuildStep 0, .rebuildDoneReport
     0 0, .rebuildDone 0, .resyncStep 0, .heartbeatReceive 0, .heartbeatTimeout 0, .hostDeath 0, .resetRequest 0 0,
     .replica 0 0 0 false (rec1 1 false), .replicaAck 0 0 false, .receiptClear 0 0 0 0, .clearAck 0 0 0]

/-- Commands with operands in their fields, part 7. -/
def wellFormed_7 : List Instr :=
    [.replicaResendTimeout 0, .jobComplete 0, .flushComplete false, .sweepPageStep 0 0 0, .rotationDoneReport 0 0,
     .rotationComplete 0, .removalDoneReport 0 0 0 0 0, .removalComplete 0, .harbourKeyAgreement false [], .pageMapTransfer
     0 [], .lighterRecord 0 0 0 0 false [], .lighterReadRetry 0, .mboxRead 0 0 0, .mboxWrite 0 0 [], .getVersion [],
     .getCapabilities [], .negotiateAlgorithms [], .getDigests [], .getCertificate 0 0 0, .challenge 0 (zeros 32),
     .getMeasurements 0 (zeros 32), .keyExchange 0 [], .finish 0 [], .spdmUnsupported 0, .programImageReceive 0 ⟨0, []⟩,
     .programCommitAnswer 0 0, .programStageExpire 0, .fwImageReceive 0 [] none false, .fwCommitAnswer 0 0,
     .fwPostReadyWrites none]

/-- Commands with operands in their fields, part 8. -/
def wellFormed_8 : List Instr :=
    [.fwSelectPending none, .fwDoneReport 0, .cmdTailWrite 0 0, .cplHeadWrite 0 0, .evHeadWrite 0, .reasonClear 0,
     .lighterEnable 0 0, .inTailWrite 0 0, .outHeadWrite 0 0, .tideCountLowRead 0, .registerWrite 0 0 0, .lifeboatStatus
     .window 0 0, .freeze .window 0 0, .dumpSnapshot .window 0 0, .zeroizeCharter .window 0 0, .zeroizeAll .window 0 0,
     .ringBypassClose .window 0 0, .lifeboatLogbookFlush .window 0 0 none, .subsystemReset .window 0 0, .readMeasurements
     .window 0 0, .coldReset false, .warmReset false, .resetRelease false false false .empty [] [], .railFault 0,
     .thermalLimit false, .holdupFail none, .boardDeclWrite (zeros 64), .pmbusOther 0, .tapInstruction 0, .groupDegraded]

/-- Commands with operands in their fields, part 9. -/
def wellFormed_9 : List Instr :=
    [.heartbeatSend, .lossBoundary, .asyncResend, .logbookReplay, .keyEpochTurn, .confidentialEntry, .fwStageExpire,
     .fwActivation, .hmWatchdog, .hmHeartbeat, .firmwareReady, .thermtrip, .inputPowerReturn, .oneSecondPeriodEnd,
     .lbStatusRead, .statusWord, .readTemperature1, .readPout]

theorem test_wellFormed_1 : ((wellFormed_1 ++ wellFormed_2 ++ wellFormed_3 ++ wellFormed_4 ++ wellFormed_5).all fun i => i.wf) = true := by decide +kernel

theorem test_wellFormed_2 : ((wellFormed_6 ++ wellFormed_7 ++ wellFormed_8 ++ wellFormed_9).all fun i => i.wf) = true := by decide +kernel

/-- Commands, each with one operand past its field, part 1. -/
def illFormed_1 : List Instr :=
    [.mboxPad 16, .mboxNop badHdr, .commandTake 16, .berthConfigure badHdr 0 0 [], .berthConfigure hx 65536 0 [],
     .berthConfigure hx 0 65536 [], .berthConfigure hx 0 0 (List.replicate 5 (cfg 0 0 0)), .linkCodec badHdr 0 0 0 0,
     .linkCodec hx 65536 0 0 0, .linkCodec hx 0 65536 0 0, .linkCodec hx 0 0 65536 0, .linkCodec hx 0 0 0 65536,
     .switchForwarding badHdr 0 [], .switchForwarding hx 65536 [], .mirrorSession badHdr 0 0 (.port 0 0), .mirrorSession hx
     65536 0 (.port 0 0), .mirrorSession hx 0 65536 (.port 0 0), .mirrorSession hx 0 0 (.port 65536 0), .sampleConfigure
     badHdr 0 false 0, .sampleConfigure hx 65536 false 0, .sampleConfigure hx 0 false 256, .pilotQueues badHdr 0 0 0 0 0,
     .pilotQueues hx 65536 0 0 0 0, .pilotQueues hx 0 65536 0 0 0, .pilotQueues hx 0 0 65536 0 0, .pilotQueues hx 0 0 0 (2
     ^ 64) 0, .pilotQueues hx 0 0 0 0 65536, .pilotClass badHdr 0 0 0 0 0, .pilotClass hx 65536 0 0 0 0, .pilotClass hx 0
     65536 0 0 0]

/-- Commands, each with one operand past its field, part 2. -/
def illFormed_2 : List Instr :=
    [.pilotClass hx 0 0 65536 0 0, .pilotClass hx 0 0 0 (2 ^ 64) 0, .pilotClass hx 0 0 0 0 65536, .pilotPort badHdr 0
     (List.replicate 16 0) 0, .pilotPort hx 65536 (List.replicate 16 0) 0, .pilotPort hx 0 [] 0, .pilotPort hx 0
     (List.replicate 16 0) 65536, .pilotPilotq badHdr (floorOf 0), .pilotPilotq hx (floorOf 256), .pilotHost badHdr 0 0 0
     0, .pilotHost hx 65536 0 0 0, .pilotHost hx 0 (2 ^ 64) 0 0, .pilotHost hx 0 0 (2 ^ 64) 0, .pilotHost hx 0 0 0 (2 ^
     64), .pilotStats badHdr false 0 0 false, .pilotStats hx false (2 ^ 64) 0 false, .pilotStats hx false 0 (2 ^ 64) false,
     .manifestMap badHdr 0 (ent 0) 0, .manifestMap hx (2 ^ 32) (ent 0) 0, .manifestMap hx 0 badEntry 0, .manifestMap hx 0
     (ent 0) (2 ^ 64), .manifestRevoke badHdr 0 0, .manifestRevoke hx (2 ^ 32) 0, .manifestRevoke hx 0 (2 ^ 64),
     .manifestWindow badHdr 0 0 win0 0, .manifestWindow hx 65536 0 win0 0, .manifestWindow hx 0 65536 win0 0,
     .manifestWindow hx 0 0 badWindow 0, .manifestWindow hx 0 0 win0 (2 ^ 64), .manifestSync badHdr 0 0 [] [] ⟨[], [], []⟩
     0]

/-- Commands, each with one operand past its field, part 3. -/
def illFormed_3 : List Instr :=
    [.manifestSync hx 65536 0 [] [] ⟨[], [], []⟩ 0, .manifestSync hx 0 (2 ^ 64) [] [] ⟨[], [], []⟩ 0, .manifestSync hx 0 0
     [(2 ^ 19, ent 0)] [] ⟨[], [], []⟩ 0, .manifestSync hx 0 0 [(0, badEntry)] [] ⟨[], [], []⟩ 0, .manifestSync hx 0 0 []
     [] badMap 0, .manifestSync hx 0 0 [] [] ⟨[], [], []⟩ 65536, .routeCommit badHdr ⟨[], [], []⟩ 0, .routeCommit hx badMap
     0, .routeCommit hx ⟨[], [], []⟩ (2 ^ 64), .compositionSet badHdr comp012 ⟨[], [], []⟩ 0, .compositionSet hx badComp
     ⟨[], [], []⟩ 0, .compositionSet hx comp012 badMap 0, .compositionSet hx comp012 ⟨[], [], []⟩ (2 ^ 64), .roleShift
     badHdr 0 0 [] [] 0, .roleShift hx 65536 0 [] [] 0, .roleShift hx 0 65536 [] [] 0, .roleShift hx 0 0 [] [] (2 ^ 64),
     .tideSetLength badHdr 0 0, .tideSetLength hx 256 0, .tideSetLength hx 0 (2 ^ 64), .redundancyGroup badHdr false
     (mirror 0) 0, .redundancyGroup hx false badGroup 0, .redundancyGroup hx false (mirror 0) (2 ^ 64), .redundancyFormat
     badHdr 0 0 0, .redundancyFormat hx 65536 0 0, .redundancyFormat hx 0 (2 ^ 64) 0, .redundancyFormat hx 0 0 (2 ^ 64),
     .redundancyReplace badHdr 0 0 0 0 0 0 0, .redundancyReplace hx 65536 0 0 0 0 0 0, .redundancyReplace hx 0 65536 0 0 0
     0 0]

/-- Commands, each with one operand past its field, part 4. -/
def illFormed_4 : List Instr :=
    [.redundancyReplace hx 0 0 65536 0 0 0 0, .redundancyReplace hx 0 0 0 65536 0 0 0, .redundancyReplace hx 0 0 0 0 65536
     0 0, .redundancyReplace hx 0 0 0 0 0 (2 ^ 64) 0, .redundancyReplace hx 0 0 0 0 0 0 (2 ^ 64), .charterCreate badHdr 0
     false 0 [] 0, .charterCreate hx 65536 false 0 [] 0, .charterCreate hx 0 false 65536 [] 0, .charterCreate hx 0 false 0
     [] (2 ^ 64), .charterMembers badHdr 0 [] [] 0, .charterMembers hx 65536 [] [] 0, .charterMembers hx 0 [] [] (2 ^ 64),
     .charterRotate badHdr 0 0 0 [] 0, .charterRotate hx 65536 0 0 [] 0, .charterRotate hx 0 65536 0 [] 0, .charterRotate
     hx 0 0 (2 ^ 64) [] 0, .charterRotate hx 0 0 0 [] (2 ^ 64), .charterRevoke badHdr 0 0, .charterRevoke hx 65536 0,
     .charterRevoke hx 0 (2 ^ 64), .confidentialEnter badHdr, .jobqOpen badHdr 0 0, .jobqOpen hx 65536 0, .jobqOpen hx 0
     65536, .jobqClose badHdr 0 0, .jobqClose hx 65536 0, .jobqClose hx 0 65536, .craneCollective badJobHdr craneDesc,
     .craneCollective jhdr badCrane, .stevedoreMove badJobHdr stevDesc]

/-- Commands, each with one operand past its field, part 5. -/
def illFormed_5 : List Instr :=
    [.stevedoreMove jhdr badStev, .customsScan badJobHdr scanDesc, .customsScan jhdr badCust, .customsScore badJobHdr
     scanDesc, .customsScore jhdr badCust, .customsMerge badJobHdr scanDesc, .customsMerge jhdr badCust, .codecEncode
     badJobHdr encodeDesc, .codecEncode jhdr badCodec, .codecDecode badJobHdr encodeDesc, .codecDecode jhdr badCodec,
     .streamSchedule badJobHdr streamDesc, .streamSchedule jhdr badStream, .streamStop badHdr 0, .streamStop hx 65536,
     .tierPlace badJobHdr placeDesc, .tierPlace jhdr badPlace, .tierDrop badHdr 0 0, .tierDrop hx (2 ^ 64) 0, .tierDrop hx
     0 (2 ^ 64), .tierMigrate badHdr 0 0 0 0 0 [] 0, .tierMigrate hx 65536 0 0 0 0 [] 0, .tierMigrate hx 0 65536 0 0 0 []
     0, .tierMigrate hx 0 0 (2 ^ 64) 0 0 [] 0, .tierMigrate hx 0 0 0 (2 ^ 64) 0 [] 0, .tierMigrate hx 0 0 0 0 (2 ^ 64) []
     0, .tierMigrate hx 0 0 0 0 0 [] (2 ^ 64), .tierQuery badHdr 0, .tierQuery hx (2 ^ 64), .copyRun badJobHdr copyStage]

/-- Commands, each with one operand past its field, part 6. -/
def illFormed_6 : List Instr :=
    [.copyRun jhdr badCopy, .programKeyEnroll badHdr 0 (zeros 97), .programKeyEnroll hx 65536 (zeros 97), .programKeyEnroll
     hx 0 [], .programKeyClear badHdr 0, .programKeyClear hx 65536, .programLoadBlock badHdr 0 0 [], .programLoadBlock hx
     (2 ^ 64) 0 [], .programLoadBlock hx 0 (2 ^ 64) [], .programLoadBlock hx 0 0 (zeros 4097), .programCommit badHdr 0 0 0,
     .programCommit hx (2 ^ 64) 0 0, .programCommit hx 0 (2 ^ 64) 0, .programCommit hx 0 0 (2 ^ 64), .programUnload badHdr
     0 0, .programUnload hx (2 ^ 64) 0, .programUnload hx 0 (2 ^ 64), .programQuery badHdr 0, .programQuery hx (2 ^ 64),
     .fwLoadBlock badHdr 0 [], .fwLoadBlock hx (2 ^ 64) [], .fwLoadBlock hx 0 (zeros 4097), .fwCommit badHdr 0 0 none
     false, .fwCommit hx (2 ^ 64) 0 none false, .fwCommit hx 0 (2 ^ 64) none false, .fwCommit hx 0 0 (some 65536) false,
     .fwActivateAt badHdr 0 0 0, .fwActivateAt hx (2 ^ 64) 0 0, .fwActivateAt hx 0 (2 ^ 64) 0, .fwActivateAt hx 0 0 (2 ^
     64)]

/-- Commands, each with one operand past its field, part 7. -/
def illFormed_7 : List Instr :=
    [.fwMeasurements badHdr 0, .fwMeasurements hx (2 ^ 64), .fwStatus badHdr, .logbookFlush badHdr none, .logbookFlush hx
     (some 65536), .telemetrySamples badHdr, .telemetryCounters badHdr 0 0, .telemetryCounters hx 65536 0,
     .telemetryCounters hx 0 (2 ^ 64), .domainChangeNotice ⟨64, 0⟩ (.tideLength 2) 0, .domainChangeNotice ⟨1, 0⟩
     (.tideLength 8) 0, .domainChangeNotice ⟨1, 0⟩ (.tideLength 2) (2 ^ 64), .domainChangeReady 0 64 false 0,
     .domainChangeReady 0 0 false 65536, .domainChangeCommit ⟨64, 0⟩, .domainChangeCancel ⟨64, 0⟩, .tideMarkerReceive false
     65 0 0, .tideMarkerReceive false 0 (2 ^ 64) 0, .ringSlotArrive shortSlot 0, .ringSlotArrive badSlot 384, .snoopAnswer
     shortSlot, .slotReturn ⟨false, 0, some shortSlot⟩, .dataSlotReceive shortSlot, .ringMeasure false (2 ^ 32) 0 none,
     .ringMeasure false 0 64 none, .ringMeasure false 0 0 (some (.partner badIdent)), .ringLinkFail 64, .ringLinkRestore
     64, .spliceRequest 64 false, .sliceRetire .crane (2 ^ 18) 0 (.merge 0 1) [] []]

/-- Commands, each with one operand past its field, part 8. -/
def illFormed_8 : List Instr :=
    [.sliceRetire .crane 0 (4096 * 65) (.merge 0 1) [] [], .sliceRetire .crane 0 0 (.linkFrame 257 0 1) [] [], .sliceRetire
     .crane 0 0 (.merge 0 1) [2 ^ 40] [], .tideOverrun .crane (2 ^ 18), .budgetRestore .crane (2 ^ 18), .powerSample (2 ^
     32), .read { hostRead with ctx := 257, payload := [] }, .read { hostRead with payload := zeros 1 }, .readAcq
     { hostRead with ctx := 257, payload := zeros 8 }, .readAcq { hostRead with payload := zeros 9 }, .acquire
     { hostRead with ctx := 257, payload := [] }, .acquire { hostRead with payload := zeros 1 }, .write
     { hostRead with ctx := 257, payload := zeros 64 }, .write { hostRead with payload := zeros 65 }, .writePartial
     { hostRead with ctx := 257, payload := zeros 72 }, .writePartial { hostRead with payload := zeros 73 }, .writeSeal
     { hostRead with ctx := 257, payload := zeros 8 }, .writeSeal { hostRead with payload := zeros 9 }, .stow
     { hostRead with ctx := 257, payload := zeros 64 }, .stow { hostRead with payload := zeros 65 }, .atomic
     { hostRead with ctx := 257, payload := zeros 64 }, .atomic { hostRead with payload := zeros 65 }, .regionPublish
     { hostRead with ctx := 257, payload := zeros 24 }, .regionPublish { hostRead with payload := zeros 25 }, .cReadShared
     { hostRead with ctx := 257, payload := [] }, .cReadShared { hostRead with payload := zeros 1 }, .cReadOwn
     { hostRead with ctx := 257, payload := [] }, .cReadOwn { hostRead with payload := zeros 1 }, .cUpgrade
     { hostRead with ctx := 257, payload := [] }, .cUpgrade { hostRead with payload := zeros 1 }]

/-- Commands, each with one operand past its field, part 9. -/
def illFormed_9 : List Instr :=
    [.cWriteback { hostRead with ctx := 257, payload := zeros 64 }, .cWriteback { hostRead with payload := zeros 65 },
     .cEvictClean { hostRead with ctx := 257, payload := [] }, .cEvictClean { hostRead with payload := zeros 1 },
     .cRecallAnswer 4096 0 none, .cRecallAnswer 0 (2 ^ 56) none, .cRecallAnswer 0 0 (some []), .hostRecallTimeout 4096 0,
     .hostRecallTimeout 0 (2 ^ 56), .cStowFill (fab 256), .cStowFillAnswer 64 0 false, .cStowFillAnswer 0 (2 ^ 56) false,
     .cSnoopDone (fab 256), .snoopRoundReturn 65536 [], .deadAgentNotice 64, .directoryScanDone 64, .homeAdmit (fab 256),
     .attemptFence (fab 256), .granuleBatchStart (2 ^ 19) 0, .granuleBatchStart 0 (2 ^ 38), .trayResponse 0 4 [],
     .trayResponse 0 0 (zeros 65), .granuleBatchDone (2 ^ 19) 0, .granuleBatchDone 0 (2 ^ 38), .sealTimeout 8192 0,
     .sealTimeout 0 256, .windowForget 8192, .responseReceive (respOf 256 false 0), .blockReceive 257 (zeros 512) false
     none, .blockReceive 0 [] false none]

/-- Commands, each with one operand past its field, part 10. -/
def illFormed_10 : List Instr :=
    [.cutItemArrive 257 0 0 0 [], .cutItemArrive 0 4096 0 0 [], .cutItemArrive 0 0 31 0 [], .cutItemArrive 0 0 0 3 [],
     .idle 257 0, .idle 0 4096, .nak 257 0, .nak 0 65536, .credit 257 0 0 0, .credit 0 65536 0 0, .credit 0 0 65536 0,
     .credit 0 0 0 65536, .nakHoldoffExpire 257, .resendTimeout 257, .signalDetect 257, .equalizeLock 257, .blockLock 257,
     .identify 257 span1, .identify 0 badIdent, .ping 257, .pong 257 0, .pong 0 (2 ^ 32), .initialCredit 257 0 0 0,
     .initialCredit 0 65536 0 0, .initialCredit 0 0 65536 0, .initialCredit 0 0 0 65536, .trainingTimeout 257, .laneFail
     257 0, .laneFail 0 520, .spanSeqQuery 64 0]

/-- Commands, each with one operand past its field, part 11. -/
def illFormed_11 : List Instr :=
    [.spanSeqQuery 0 257, .spanSeqAnswer 257 0, .spanSeqAnswer 0 4096, .spanAnswerTimeout 257, .planeMatch 4, .transmitSlot
     257 0, .transmitSlot 0 3, .contribReceive (seg 16 5 0), .partialReceive (seg 16 5 0), .resultReceive (seg 16 5 0),
     .tileOpen (4096 * 65) 0, .tileOpen 0 (2 ^ 32), .memberTimeout (4096 * 65) 0, .memberTimeout 0 4096, .exclusionNotice
     (4096 * 65) 0, .exclusionNotice 0 4096, .exclusionApply (4096 * 65) 0, .exclusionApply 0 4096, .engineReadResponse
     (4096 * 65) 0 false [] [] [], .engineReadResponse 0 (2 ^ 56) false [] [] [], .engineReadResponse 0 0 false (zeros 257)
     [] [], .engineReadResponse 0 0 false [] [2 ^ 40] [], .engineJobStop (4096 * 65), .attemptStart (4096 * 65) none,
     .attemptStart 0 (some badJoin), .linkFrameTimeout 257, .linkFrameReceive 257 [] [], .linkFrameAck 257 0, .linkFrameAck
     0 (2 ^ 32), .linkFrameNack 257 0]

/-- Commands, each with one operand past its field, part 12. -/
def illFormed_12 : List Instr :=
    [.linkFrameNack 0 (2 ^ 32), .prefetchBlockLand (4096 * 65) 0 false 0 0 false [] [], .prefetchBlockLand 0 4096 false 0 0
     false [] [], .prefetchBlockLand 0 0 false (2 ^ 32) 0 false [] [], .prefetchBlockLand 0 0 false 0 65536 false [] [],
     .formRetranslate (4096 * 65) 0 false, .formRetranslate 0 4096 false, .layerChoice (4096 * 65), .deliveryClose (4096 *
     65), .streamAbandoned (4096 * 65), .moduleFailedNotice 64 0 0 0, .moduleFailedNotice 0 256 0 0, .moduleFailedNotice 0
     0 16 0, .moduleFailedNotice 0 0 0 (2 ^ 32), .formatStep (2 ^ 32) 0, .formatStep 0 (2 ^ 32), .formatDone (2 ^ 32),
     .rebuildStep (2 ^ 32), .rebuildDoneReport (2 ^ 32) 0, .rebuildDoneReport 0 64, .rebuildDone (2 ^ 32), .resyncStep (2 ^
     19), .heartbeatReceive 64, .heartbeatTimeout 64, .hostDeath 4096, .resetRequest 64 0, .resetRequest 0 65536, .replica
     64 0 0 false (rec1 1 false), .replica 0 65536 0 false (rec1 1 false), .replica 0 0 (2 ^ 19) false (rec1 1 false)]

/-- Commands, each with one operand past its field, part 13. -/
def illFormed_13 : List Instr :=
    [.replica 0 0 0 false (rec1 256 false), .replicaAck 64 0 false, .replicaAck 0 (2 ^ 32) false, .receiptClear 64 0 0 0,
     .receiptClear 0 65536 0 0, .receiptClear 0 0 64 0, .receiptClear 0 0 0 4096, .clearAck 64 0 0, .clearAck 0 64 0,
     .clearAck 0 0 4096, .replicaResendTimeout (2 ^ 64), .jobComplete (4096 * 65), .sweepPageStep 4096 0 0, .sweepPageStep
     0 (2 ^ 19) 0, .sweepPageStep 0 0 (2 ^ 18), .rotationDoneReport 4096 0, .rotationDoneReport 0 64, .rotationComplete
     4096, .removalDoneReport 4096 0 0 0 0, .removalDoneReport 0 64 0 0 0, .removalDoneReport 0 0 (2 ^ 64) 0 0,
     .removalDoneReport 0 0 0 (2 ^ 64) 0, .removalDoneReport 0 0 0 0 (2 ^ 64), .removalComplete 4096, .pageMapTransfer (2 ^
     19) [], .lighterRecord 16 0 0 0 false [], .lighterRecord 0 256 0 0 false [], .lighterRecord 0 0 (2 ^ 32) 0 false [],
     .lighterRecord 0 0 0 (2 ^ 64) false [], .lighterReadRetry 16]

/-- Commands, each with one operand past its field, part 14. -/
def illFormed_14 : List Instr :=
    [.mboxRead 65536 0 0, .mboxRead 0 (2 ^ 32) 0, .mboxRead 0 0 257, .mboxWrite 65536 0 [], .mboxWrite 0 (2 ^ 32) [],
     .mboxWrite 0 0 (zeros 257), .getCertificate 256 0 0, .getCertificate 0 65536 0, .getCertificate 0 0 65536, .challenge
     256 (zeros 32), .challenge 0 [], .getMeasurements 256 (zeros 32), .getMeasurements 0 [], .keyExchange 65536 [],
     .finish (2 ^ 32) [], .spdmUnsupported 256, .programImageReceive 64 ⟨0, []⟩, .programImageReceive 0 ⟨16, []⟩,
     .programCommitAnswer 64 0, .programCommitAnswer 0 65536, .programStageExpire (2 ^ 32), .fwImageReceive 64 [] none
     false, .fwImageReceive 0 [] (some 65536) false, .fwCommitAnswer 64 0, .fwCommitAnswer 0 65536, .fwPostReadyWrites
     (some 65536), .fwSelectPending (some 65536), .fwDoneReport 64, .cmdTailWrite 16 0, .cmdTailWrite 0 (2 ^ 32)]

/-- Commands, each with one operand past its field, part 15. -/
def illFormed_15 : List Instr :=
    [.cplHeadWrite 16 0, .cplHeadWrite 0 (2 ^ 32), .evHeadWrite (2 ^ 32), .lighterEnable 16 0, .inTailWrite 16 0,
     .inTailWrite 0 (2 ^ 32), .outHeadWrite 16 0, .outHeadWrite 0 (2 ^ 32), .tideCountLowRead 65536, .registerWrite (2 ^
     32) 0 0, .registerWrite 0 9 0, .lifeboatStatus .window 65536 0, .lifeboatStatus .window 0 65536, .freeze .window 65536
     0, .freeze .window 0 65536, .dumpSnapshot .window 65536 0, .dumpSnapshot .window 0 65536, .zeroizeCharter .window
     65536 0, .zeroizeCharter .window 0 65536, .zeroizeAll .window 65536 0, .zeroizeAll .window 0 65536, .ringBypassClose
     .window 65536 0, .ringBypassClose .window 0 65536, .lifeboatLogbookFlush .window 65536 0 none, .lifeboatLogbookFlush
     .window 0 65536 none, .lifeboatLogbookFlush .window 0 0 (some 65536), .subsystemReset .window 65536 0, .subsystemReset
     .window 0 65536, .readMeasurements .window 65536 0, .readMeasurements .window 0 65536]

/-- Commands, each with one operand past its field, part 16. -/
def illFormed_16 : List Instr :=
    [.resetRelease false false false .empty [2 ^ 40] [], .railFault 256, .holdupFail (some 65536), .boardDeclWrite [],
     .pmbusOther 256, .tapInstruction 65536]

theorem test_illFormed_1 : ((illFormed_1 ++ illFormed_2 ++ illFormed_3 ++ illFormed_4 ++ illFormed_5).all fun i => !i.wf) = true := by decide +kernel

theorem test_illFormed_2 : ((illFormed_6 ++ illFormed_7 ++ illFormed_8 ++ illFormed_9 ++ illFormed_10).all fun i => !i.wf) = true := by decide +kernel

theorem test_illFormed_3 : ((illFormed_11 ++ illFormed_12 ++ illFormed_13 ++ illFormed_14 ++ illFormed_15).all fun i => !i.wf) = true := by decide +kernel

theorem test_illFormed_4 : ((illFormed_16).all fun i => !i.wf) = true := by decide +kernel

/-! ### The model against the worked examples of the spec, and single steps. -/

/-- 21 R458's example: C = 0.10 F, Vmin = 9.0 V; 40 MiB and the whole ring at 12.0 V; 9.8 V holds for the headers only. -/
theorem test_holdup_example :
    energyOk 100000 9000 12000 (40 * 2 ^ 20) = true ∧ energyOk 100000 9000 12000 (2 ^ 26) = true ∧
    energyOk 100000 9000 9800 (40 * 2 ^ 20) = false ∧ energyOk 100000 9000 9800 (4096 + 5500 * 64) = true := by decide

/-- 07's example: a block with amax 13.7 has scale byte 0x7A, and 13.7 becomes 448 (0x7E) under round to nearest even. -/
theorem test_mxfp8_example :
    (mxBlock 8 (List.replicate 2 .even) [0x415B3333#32, 0#32]).1 = 0x7A ∧
    ((mxBlock 8 (List.replicate 2 .even) [0x415B3333#32, 0#32]).2.map fun x => x.w) = [0x7E, 0] := by decide +kernel

/-- 02's and 10's examples: a Crane's budget is 1,566 cycles at 512 ns and 3,256 at 1,024 ns. -/
theorem test_crane_budget_example :
    budgetOf .crane 9 { State.reset with tide := { State.reset.tide with lengthCode := 0, budgetCode := 0 } } = 1566 ∧
    budgetOf .crane 9 State.reset = 3256 := by decide +kernel

/-- 10's example program: 4 + 1 + 1 + 1 unit cycles, and each word is well formed for a Crane program. -/
theorem test_program_cost_example :
    let ws := [0x0AE0E64000000000, 0x03E0003800000000, 0x05E0000140C00000, 0x06E00001C0C00000, 0x62E0000000000000]
    unitCycles 0 1 [] ws = 7 ∧ ws.all (wordOk 1 0) = true := by decide +kernel

/-- 02's example of splices: at tide 7,000,021 sites 3, 9 and 12 ask, and site 9 wins; then 12, then 3. -/
theorem test_splice_example :
    tieWinner 7000021 (List.range 16) [3, 9, 12] = some 9 ∧ tieWinner 7000022 (List.range 16) [3, 12] = some 12 ∧
    tieWinner 7000023 (List.range 16) [3] = some 3 := by decide

/-- 14's example of two inputs and two outputs, the first cell time. -/
theorem test_matching_example :
    let m0 : Matching := { pairs := [], grant := [], accept := [(0, 25)] }
    let reqs := [(0, 20), (0, 40), (5, 20), (5, 40)]
    let m1 := iterate 0 true reqs m0
    let m2 := iterate 0 false reqs m1
    m1.pairs = [(0, 40)] ∧ tgetD m1.grant 40 0 = 1 ∧ tgetD m1.grant 20 0 = 0 ∧ tgetD m1.accept 0 0 = 41 ∧
    m2.pairs = [(0, 40), (5, 20)] := by decide

/-- 12's example: 268,435,456 bytes take 1,312 tides, a shadow of half that 657. -/
theorem test_delivery_time_example :
    deliveryTime streamDesc 268435456 State.reset = 1312 ∧ deliveryTime streamDesc 134217728 State.reset = 657 := by
  decide +kernel

/-- 19 R404, R410: NOP is answered, so one unit of its mailbox is posted. -/
theorem test_nop_step :
    ∃ t, step { up with pending := [.mboxNop hx] } = .next t ∧ (boxOf 0 t).cplTail = 1 ∧ t.pending = [] := ⟨_, rfl, by decide +kernel⟩

/-- 22 R479: STATUS through the window is done at once, with the issue's number. -/
theorem test_lifeboat_status_step :
    ∃ t, step { State.reset with pending := [.lifeboatStatus .window 5 0] } = .next t ∧ t.isl.window = ⟨1, 5, 0, 2⟩ :=
  ⟨_, rfl, by decide +kernel⟩

/-- 21 R448, R449: a thermal trip holds the core with cause 0x1112. -/
theorem test_thermtrip_step :
    ∃ t, step { up with pending := [.thermtrip] } = .next t ∧ t.isl.held = true ∧ t.isl.cause = 0x1112 := ⟨_, rfl, by decide +kernel⟩

/-- 13 R279: loss of a state's time takes a context that trains down with the state's code. -/
theorem test_training_timeout_step :
    ∃ t, exec (.trainingTimeout 0) (withCtx mirrorMeasured) = .next t ∧ (ctxAt 0 t).map (fun c => c.cause) = some 0x0204 :=
  ⟨_, rfl, by decide +kernel⟩

/-- 02 R32: a boundary raises the count. -/
theorem test_boundary_step : ∃ t, exec .tideBoundary up = .next t ∧ t.tide.count = 1 := ⟨_, rfl, by decide +kernel⟩

/-- 17 R361: the attempt after 255 is 1. -/
theorem test_attempt_wraps : nextAttempt 255 = 1 ∧ nextAttempt 0 = 1 ∧ attemptLower 1 2 = true ∧ attemptLower 2 1 = false := by
  decide

/-- The table gives no row bits, so no word spells a command. -/
theorem test_no_row_has_bits : decodeTableWord 64 0 = none ∧ State.withFetchWord up 64 0 = up := ⟨rfl, rfl⟩

end Sys2Proof.Tests
end

section
/-! PROOFS. PILOT.CLASS: an immediate command that passes its checks, what an answer leaves of the Pilot's registers, and R324. -/

namespace Sys2Proof.Machine
open Sys2Proof

/-- An answer changes none of the Pilot's registers. -/
theorem answerFrame.pilot_eq {s t : State} (h : answerFrame s t) : t.pilot = s.pilot := by
  rw [h]

/-- A class's kind rests on the Pilot's registers alone. -/
theorem isData_congr {s t : State} (h : t.pilot = s.pilot) (c : Nat) : isData c t = isData c s := by
  simp only [isData, h]

/-- An immediate command that passes its checks has its effect and posts one RESULT with code 0 (R408, R411); the block as
applied leads the body only where firmware chooses fields of a basic form (R409, R413). -/
theorem immediate_of_check_eq_zero {h : CmdHdr} {code : Nat} {check : State → Nat} {effect : State → State}
    {data : State → Bytes} {applied : List Nat} {s : State} (hfw : fwRuns s = true) (hcheck : check s = 0) :
    immediate h code check effect data applied s =
      .next (result h code 0
        ((if h.expert || !firmwareChooses code then [] else Config.blockImage code applied) ++ data s) (effect s)) := by
  simp [immediate, onFw, hfw, hcheck]

/-- The state with class `cls` given a code of its α, a kind, a delay target and a sampling exponent (R315, R324,
R325). -/
def setPilotClass (cls alpha kind target k : Nat) (s : State) : State :=
  { s with pilot := { s.pilot with
      alpha := tput s.pilot.alpha cls alpha, kinds := tput s.pilot.kinds cls (decide (kind = 1)),
      targets := tput s.pilot.targets cls target, ks := tput s.pilot.ks cls k } }

section
variable {cls alpha kind target k : Nat} {s : State}

theorem setPilotClass_eq_setPilot :
    setPilotClass cls alpha kind target k s = { s with pilot := (setPilotClass cls alpha kind target k s).pilot } := rfl

@[simp] theorem isData_setPilotClass_self : isData cls (setPilotClass cls alpha kind target k s) = decide (kind = 1) :=
  tgetD_tput_self _ _ _ _

theorem isData_setPilotClass_ne {c : Nat} (h : c ≠ cls) :
    isData c (setPilotClass cls alpha kind target k s) = isData c s :=
  tgetD_tput_ne _ _ _ h.symm

@[simp] theorem target_setPilotClass_self :
    tgetD (setPilotClass cls alpha kind target k s).pilot.targets cls 0 = target :=
  tgetD_tput_self _ _ _ _

theorem target_setPilotClass_ne {c : Nat} (h : c ≠ cls) :
    tgetD (setPilotClass cls alpha kind target k s).pilot.targets c 0 = tgetD s.pilot.targets c 0 :=
  tgetD_tput_ne _ _ _ h.symm

/-- PILOT.CLASS with operands in range sets its class and posts a RESULT without a body, in both forms (R324, R413). -/
theorem exec_pilotClass_of_legal (h : CmdHdr) (hfw : fwRuns s = true) (hcls : cls ≤ 15) (halpha : alpha ≤ 7)
    (hkind : kind ≤ 1) (hk : k ≤ 10) :
    exec (.pilotClass h cls alpha kind target k) s =
      .next (result h 0x0602 0 [] (setPilotClass cls alpha kind target k s)) := by
  have hlegal : ¬ (15 < cls ∨ 7 < alpha ∨ 1 < kind ∨ 10 < k) := by omega
  have hbody : firmwareChooses 0x0602 = false := rfl
  rw [exec_pilotClass, execPilotClass, immediate_of_check_eq_zero hfw (if_neg hlegal)]
  simp [hbody, setPilotClass]

end

/-- A class that no PILOT.CLASS has set is USER below 8 and DATA from 8 on (R324). -/
theorem isData_reset (c : Nat) : isData c State.reset = decide (8 ≤ c) := rfl

/-- Reset leaves every class without a delay target (R324). -/
theorem target_reset (c : Nat) : tgetD State.reset.pilot.targets c 0 = 0 := rfl

/-- PILOT.CLASS gives its class the kind and delay target of its block, and no other class and nothing outside the Pilot's
registers changes but what an answer may (R324). -/
theorem exec_pilotClass_sets_only_its_class (h : CmdHdr) {cls alpha kind target k : Nat} {s : State} (hfw : fwRuns s = true)
    (hcls : cls ≤ 15) (halpha : alpha ≤ 7) (hkind : kind ≤ 1) (hk : k ≤ 10) :
    ∃ t, exec (.pilotClass h cls alpha kind target k) s = .next t ∧ answerFrame { s with pilot := t.pilot } t ∧
      isData cls t = decide (kind = 1) ∧ tgetD t.pilot.targets cls 0 = target ∧
      ∀ c, c ≠ cls → isData c t = isData c s ∧ tgetD t.pilot.targets c 0 = tgetD s.pilot.targets c 0 := by
  have hframe := result_frame h 0x0602 0 [] (setPilotClass cls alpha kind target k s)
  have hpilot := hframe.pilot_eq
  refine ⟨_, exec_pilotClass_of_legal h hfw hcls halpha hkind hk, ?frame, ?kind, ?target, fun c hc => ⟨?kinds, ?targets⟩⟩
  case frame =>
    rw [hpilot, ← setPilotClass_eq_setPilot]
    exact hframe
  case kind => rw [isData_congr hpilot, isData_setPilotClass_self]
  case target => rw [hpilot, target_setPilotClass_self]
  case kinds => rw [isData_congr hpilot, isData_setPilotClass_ne hc]
  case targets => rw [hpilot, target_setPilotClass_ne hc]

/-- Settles O17: a PILOT.CLASS in range puts its four registers and posts a RESULT, which leaves them; the reset tables are
empty, so their defaults hold. -/
theorem pilotClassKinds : Obligations.PilotClassKinds := by
  unfold Obligations.PilotClassKinds
  refine ⟨fun h _ _ _ _ _ _ hfw hcls halpha hkind hk =>
    exec_pilotClass_sets_only_its_class h hfw hcls halpha hkind hk, fun c hc => ?_, fun c hc _ => ?_, target_reset⟩
  · rw [isData_reset, decide_eq_false (by omega)]
  · rw [isData_reset, decide_eq_true hc]

end Sys2Proof.Machine
end

section
/-! PROOFS. A mailbox's doorbells and its command head: what a stored pointer, a refused one, confidential mode and the
Harbourmaster's own fetch do (R404, R405, R417, R474). -/

namespace Sys2Proof.Machine
open Sys2Proof

/-! The parties that answer. -/

theorem onWindow_of_coreRuns {s : State} (h : coreRuns s = true) (f : State → State) : onWindow s f = .next (f s) := by
  simp [onWindow, h]

theorem onTaker_of_fwRuns {s : State} (h : fwRuns s = true) (f : State → State) : onTaker s f = .next (f s) := by
  simp [onTaker, h]

theorem onTaker_of_idle {s : State} (hfw : fwRuns s = false) (hrec : inRecovery s = false) (f : State → State) :
    onTaker s f = .next s := by
  simp [onTaker, hfw, hrec]

/-- Firmware that runs has a core out of reset, so the ROM is not in recovery (R430). -/
theorem inRecovery_of_fwRuns {s : State} (h : fwRuns s = true) : inRecovery s = false := by
  have hstate : s.isl.resetState = .running := by
    simp only [fwRuns, coreRuns, Bool.and_eq_true, decide_eq_true_eq] at h
    obtain ⟨⟨⟨⟨-, hrunning⟩, -⟩, -⟩, -⟩ := h
    exact hrunning
  simp [inRecovery, hstate]

/-! Mailboxes. -/

/-- The second of two values put at one number stays. -/
theorem tput_tput_self {α : Type} (t : Tbl α) (k : Nat) (v w : α) : tput (tput t k v) k w = tput t k w := by
  induction t with
  | nil => simp [tput]
  | cons p r ih =>
    obtain ⟨a, x⟩ := p
    rcases Nat.lt_trichotomy a k with hlt | rfl | hgt
    · have hne : a ≠ k := by omega
      have hnot : ¬ k < a := by omega
      simp [tput, hne, hnot, ih]
    · simp [tput]
    · have hne : a ≠ k := by omega
      simp [tput, hne, hgt]

section
variable {m : Nat} {b c : Mailbox} {s : State}

@[simp] theorem boxOf_setBox_self : boxOf m (setBox m b s) = b := tgetD_tput_self _ _ _ _

theorem boxOf_setBox_ne {k : Nat} (h : k ≠ m) : boxOf k (setBox m b s) = boxOf k s := tgetD_tput_ne _ _ _ h.symm

theorem setBox_setBox_self : setBox m c (setBox m b s) = setBox m c s := by
  simp [setBox, tput_tput_self]

/-- With no completion of a job posted, none is retired and the mailbox stays (R366). -/
theorem consumePosted_setBox_of_posted_nil (h : b.posted = []) (old new : Nat) :
    consumePosted m old new (setBox m b s) = setBox m b s := by
  have hbox : { b with posted := [] } = b := by rw [← h]
  simp only [consumePosted, boxOf_setBox_self, h, List.filter_nil, List.foldl_nil, hbox, setBox_setBox_self]

/-- With no answer waiting for room, none is posted (R405). -/
theorem drainWaiting_of_waiting_nil (h : (boxOf m s).waiting = []) (fuel : Nat) : drainWaiting fuel m s = s := by
  cases fuel with
  | zero => rfl
  | succ k => simp [drainWaiting, h]

end

/-! What an event leaves. -/

/-- The Harbourmaster's registers and the recorded codes stay. -/
structure CodesKept (s t : State) : Prop where
  hm_eq : t.hm = s.hm
  reasons_eq : t.tel.reasons = s.tel.reasons

theorem CodesKept.trans {s t u : State} (h : CodesKept s t) (k : CodesKept t u) : CodesKept s u :=
  ⟨k.hm_eq.trans h.hm_eq, k.reasons_eq.trans h.reasons_eq⟩

theorem CodesKept.alert {s t : State} (h : CodesKept s t) (c : Prop) [Decidable c] :
    CodesKept s (if c then { t with isl := { t.isl with alert := true } } else t) := by
  split
  · exact ⟨h.hm_eq, h.reasons_eq⟩
  · exact h

theorem signal_codesKept (v : Nat) (s : State) : CodesKept s (signal v s) := by
  unfold signal
  split <;> exact ⟨rfl, rfl⟩

theorem lighterSend_codesKept (l content : Nat) (plain : Bytes) (s : State) :
    CodesKept s (lighterSend l content plain s) := by
  unfold lighterSend
  extract_lets x units ring at_ wrap x' s1 s2
  have hsent : CodesKept s s2 := ⟨rfl, rfl⟩
  split
  · exact ⟨rfl, rfl⟩
  split
  · exact ⟨rfl, rfl⟩
  split
  · exact hsent.trans (signal_codesKept _ _)
  · exact hsent

theorem eventWrite_codesKept (rec : Bytes) (s : State) : CodesKept s (eventWrite rec s) := by
  unfold eventWrite
  extract_lets t src s1
  have hstored : CodesKept s s1 := ⟨rfl, rfl⟩
  split
  · exact lighterSend_codesKept _ _ _ _
  split
  · exact hstored.trans (signal_codesKept _ _)
  · exact hstored

theorem eventPut_codesKept (code : Nat) (summary : Bool) (fields : List (Nat × Nat)) (s : State) :
    CodesKept s (eventPut code summary fields s) := by
  unfold eventPut
  extract_lets n r src s1 s2
  have hnumbered : CodesKept s s1 := ⟨rfl, rfl⟩
  have hwritten : CodesKept s s2 := by
    unfold s2
    split
    · exact hnumbered.trans ⟨rfl, rfl⟩
    · exact hnumbered.trans (eventWrite_codesKept _ _)
  exact hwritten.alert (severity code = 3)

/-- The code recorded last in a subsystem's register is the one just recorded (R469). -/
theorem lastCode_recordReason {code : Nat} (h : code ≠ 0) (s : State) :
    (tgetD (recordReason code s).tel.reasons (code / 256) (0, 0, 0)).2.2 = code := by
  simp [recordReason, h]

theorem recordReason_hm (code : Nat) (s : State) : (recordReason code s).hm = s.hm := by
  unfold recordReason
  split <;> rfl

theorem raise_hm (code : Nat) (fields : List (Nat × Nat)) (s : State) : (raise code fields s).hm = s.hm :=
  (eventPut_codesKept _ _ _ _).hm_eq.trans (recordReason_hm _ _)

/-- An event leaves its own code in its subsystem's register (R469, R484). -/
theorem lastCode_raise {code : Nat} (h : code ≠ 0) (fields : List (Nat × Nat)) (s : State) :
    (tgetD (raise code fields s).tel.reasons (code / 256) (0, 0, 0)).2.2 = code := by
  rw [raise, (eventPut_codesKept _ _ _ _).reasons_eq]
  exact lastCode_recordReason h s

/-! The doorbells. -/

section
variable {m v : Nat} {s : State}

/-- The block of one of the 16 mailboxes takes writes outside confidential mode (R474). -/
theorem mailbox_open (hm : m < 16) (hopen : locked s = false) : ¬ (16 ≤ m ∨ locked s = true) := by
  simp [hopen, hm]

theorem writeCmdTail_of_inBounds (hm : m < 16) (hopen : locked s = false) (hroom : dist32 v (boxOf m s).cmdHead ≤ 1024)
    (hahead : dist32 (boxOf m s).cmdTail (boxOf m s).cmdHead ≤ dist32 v (boxOf m s).cmdHead) :
    writeCmdTail m v s = setBox m { boxOf m s with cmdTail := v % 2 ^ 32 } s := by
  rw [writeCmdTail, if_neg (mailbox_open hm hopen), if_neg (by omega)]

theorem writeCmdTail_of_outOfBounds (hm : m < 16) (hopen : locked s = false)
    (hout : 1024 < dist32 v (boxOf m s).cmdHead ∨
      dist32 v (boxOf m s).cmdHead < dist32 (boxOf m s).cmdTail (boxOf m s).cmdHead) :
    writeCmdTail m v s = raise 0x0006 [] s := by
  rw [writeCmdTail, if_neg (mailbox_open hm hopen), if_pos hout]

theorem writeCmdTail_of_locked (h : locked s = true) : writeCmdTail m v s = s := by
  rw [writeCmdTail, if_pos (Or.inr h)]

/-- A completion head in bounds is stored and does no more where no job's completion is posted and no answer waits. -/
theorem writeCplHead_of_inBounds (hm : m < 16) (hopen : locked s = false) (hposted : (boxOf m s).posted = [])
    (hwaiting : (boxOf m s).waiting = [])
    (hfree : dist32 v (boxOf m s).cplHead ≤ dist32 (boxOf m s).cplTail (boxOf m s).cplHead) :
    writeCplHead m v s = setBox m { boxOf m s with cplHead := v % 2 ^ 32 } s := by
  have hconsumed := consumePosted_setBox_of_posted_nil (m := m) (s := s)
    (b := { boxOf m s with cplHead := v % 2 ^ 32 }) hposted (boxOf m s).cplHead v
  rw [writeCplHead, if_neg (mailbox_open hm hopen), if_neg (by omega)]
  dsimp only
  rw [hconsumed, drainWaiting_of_waiting_nil (by simp [hwaiting])]

theorem writeCplHead_of_outOfBounds (hm : m < 16) (hopen : locked s = false)
    (hout : dist32 (boxOf m s).cplTail (boxOf m s).cplHead < dist32 v (boxOf m s).cplHead) :
    writeCplHead m v s = raise 0x0006 [] s := by
  rw [writeCplHead, if_neg (mailbox_open hm hopen), if_pos hout]

theorem writeCplHead_of_locked (h : locked s = true) : writeCplHead m v s = s := by
  rw [writeCplHead, if_pos (Or.inr h)]

/-- A mailbox's block lies at 0x1000 + 32 m and reads zero in confidential mode (R473, R474). -/
theorem regRead4_mailbox_of_locked {o : Nat} (hm : m < 16) (ho : o < 32) (h : locked s = true) :
    regRead4 (0x1000 + 32 * m + o) s = 0 := by
  have hzero : boxReg ((0x1000 + 32 * m + o - 0x1000) / 32) ((0x1000 + 32 * m + o) % 32) s = 0 := by
    simp [boxReg, h]
  have hblock : 0x1000 ≤ 0x1000 + 32 * m + o ∧ 0x1000 + 32 * m + o < 0x1200 := by omega
  generalize 0x1000 + 32 * m + o = off at hzero hblock ⊢
  simp (disch := omega) only [regRead4, if_neg, if_pos, hzero]

end

/-- A command that only sets mailbox m leaves the rest of the state and every other mailbox. -/
theorem next_setBox_changes_only_its_box {i : Instr} {m : Nat} {b : Mailbox} {s : State}
    (h : exec i s = .next (setBox m b s)) :
    ∃ t, exec i s = .next t ∧ boxOf m t = b ∧ t = { s with hm := { s.hm with boxes := t.hm.boxes } } ∧
      ∀ k, k ≠ m → boxOf k t = boxOf k s :=
  ⟨_, h, boxOf_setBox_self, rfl, fun _ hk => boxOf_setBox_ne hk⟩

/-- A command that only raises RING_POINTER changes no mailbox and records that code (R404, R469). -/
theorem next_ringPointer_keeps_boxes {i : Instr} {s : State} (h : exec i s = .next (raise 0x0006 [] s)) :
    ∃ t, exec i s = .next t ∧ answerFrame s t ∧ t.hm.boxes = s.hm.boxes ∧
      (tgetD t.tel.reasons 0 (0, 0, 0)).2.2 = 0x0006 :=
  ⟨_, h, raise_frame _ _ _, congrArg Harbour.boxes (raise_hm _ _ _), lastCode_raise (by decide) _ _⟩

/-! The command at the head. -/

/-- The command at mailbox m's head as one in progress (R405, R420). -/
def headTaken (m : Nat) (s : State) : Taken :=
  { mailbox := m, tag := (headHdr m s).tag, command := (headHdr m s).command, units := reserveUnits (headHdr m s),
    job := isJobCode (headHdr m s).command, change := none }

/-- The state with the command at mailbox m's head given up, and the turn passed on (R37, R405). -/
def pastHead (m : Nat) (s : State) : State :=
  advanceHead m (headUnits m s) { s with hm := { s.hm with boxPtr := (m + 1) % 16 } }

theorem boxOf_pastHead (m : Nat) (s : State) :
    boxOf m (pastHead m s) = { boxOf m s with cmdHead := ((boxOf m s).cmdHead + headUnits m s) % 2 ^ 32 } :=
  boxOf_setBox_self

theorem pastHead_taken (m : Nat) (s : State) : (pastHead m s).hm.taken = s.hm.taken := rfl

/-- The winning mailbox's command that passes R408's checks is in progress, the units of its answers reserved (R405). -/
theorem takeCommand_of_passing {m : Nat} {s : State} (hrec : inRecovery s = false)
    (hwins : rotating s.hm.boxPtr ((List.range 16).filter fun k => canTake k s) = some m)
    (hcmd : (headHdr m s).command ≠ 0)
    (hpass : headerCode (headHdr m s) (headBody m s) (boxOf m s).cmdHead = 0) :
    takeCommand m s =
      setBox m { boxOf m (pastHead m s) with
          reserved := (boxOf m (pastHead m s)).reserved + reserveUnits (headHdr m s) }
        { pastHead m s with hm := { (pastHead m s).hm with taken := (pastHead m s).hm.taken ++ [headTaken m s] } } := by
  unfold takeCommand
  extract_lets asking r body p src s1 h code n t
  have hasking : asking = (List.range 16).filter fun k => canTake k s := by simp [asking, hrec]
  have hturn : ¬ rotating s.hm.boxPtr asking ≠ some m := not_not_intro (by rw [hasking, hwins])
  have hcode : code = 0 := by
    have hrec' : inRecovery s1 = false := hrec
    simp only [code, hrec', Bool.false_and, Bool.false_eq_true, if_false]
    exact hpass
  rw [if_neg hturn, if_neg fun hpad => hcmd hpad.1, if_neg (not_not_intro hcode)]
  rfl

/-- Settles O10: a doorbell either sets its own mailbox alone or raises RING_POINTER, confidential mode closes both and the
reads, and COMMAND_TAKE asks for running firmware. -/
theorem mailboxDoorbells : Obligations.MailboxDoorbells := by
  unfold Obligations.MailboxDoorbells
  intro m v s b hcore hm
  have hcmd : exec (.cmdTailWrite m v) s = .next (writeCmdTail m v s) := onWindow_of_coreRuns hcore _
  have hcpl : exec (.cplHeadWrite m v) s = .next (writeCplHead m v s) := onWindow_of_coreRuns hcore _
  refine ⟨fun hopen hroom hahead => ?tailStored, fun hopen hout => ?tailIgnored,
    fun hopen hposted hwaiting hfree => ?headStored, fun hopen hout => ?headIgnored,
    fun hlocked => ⟨?tailClosed, ?headClosed, fun o ho => ?readsZero⟩, fun hfw hrec => ?notTaken, fun hfw hwins hne hpass => ?taken⟩
  case tailStored =>
    exact next_setBox_changes_only_its_box (hcmd.trans (by rw [writeCmdTail_of_inBounds hm hopen hroom hahead]))
  case tailIgnored => exact next_ringPointer_keeps_boxes (hcmd.trans (by rw [writeCmdTail_of_outOfBounds hm hopen hout]))
  case headStored =>
    exact next_setBox_changes_only_its_box
      (hcpl.trans (by rw [writeCplHead_of_inBounds hm hopen hposted hwaiting hfree]))
  case headIgnored => exact next_ringPointer_keeps_boxes (hcpl.trans (by rw [writeCplHead_of_outOfBounds hm hopen hout]))
  case tailClosed => rw [hcmd, writeCmdTail_of_locked hlocked]
  case headClosed => rw [hcpl, writeCplHead_of_locked hlocked]
  case readsZero => exact regRead4_mailbox_of_locked hm ho hlocked
  case notTaken => exact onTaker_of_idle hfw hrec _
  case taken =>
    refine ⟨_, headTaken m s, onTaker_of_fwRuns hfw _, ?_⟩
    rw [takeCommand_of_passing (inRecovery_of_fwRuns hfw) hwins hne hpass, boxOf_setBox_self, boxOf_pastHead,
      ← pastHead_taken m s]
    exact ⟨rfl, rfl, rfl⟩

end Sys2Proof.Machine
end

section
/-! PROOFS. What every command and the idle cycle keep: the queue behind it, the form of both memories, straps and serial number, the
fuse floor, and, but for a cold reset, the lockout latch. -/

namespace Sys2Proof.Machine
open Sys2Proof

/-- What a later operation keeps, after what the earlier ones kept. -/
theorem Kept.after {s t u : State} (k : Kept t u) (h : Kept s t) : Kept s u := h.trans k

/-- The command answers with a state, and what every operation keeps stands in it. -/
def Keeps (s : State) (a : Ans) : Prop := ∃ t, a = .next t ∧ KeptC s t

theorem Kept.keeps {s t : State} (h : Kept s t) : Keeps s (.next t) := ⟨t, rfl, h.toC⟩

/-- A party that acts only while it runs keeps what its operation keeps. -/
theorem keeps_gate {s : State} {f : State → State} (c : Bool) (hf : KeptC s (f s)) :
    Keeps s (.next (if c then f s else s)) := by
  cases c
  · exact (Kept.refl s).keeps
  · exact ⟨_, rfl, hf⟩

theorem onCore_keepsC {s : State} {f : State → State} (hf : KeptC s (f s)) : Keeps s (onCore s f) := keeps_gate _ hf

theorem onCore_keeps {s : State} {f : State → State} (hf : ∀ x, Kept x (f x)) : Keeps s (onCore s f) :=
  keeps_gate _ (hf s).toC

theorem onHm_keeps {s : State} {f : State → State} (hf : ∀ x, Kept x (f x)) : Keeps s (onHm s f) :=
  keeps_gate _ (hf s).toC

theorem onFw_keeps {s : State} {f : State → State} (hf : ∀ x, Kept x (f x)) : Keeps s (onFw s f) :=
  keeps_gate _ (hf s).toC

theorem onFwOrRom_keeps {s : State} {f : State → State} (hf : ∀ x, Kept x (f x)) : Keeps s (onFwOrRom s f) :=
  keeps_gate _ (hf s).toC

theorem onWindow_keeps {s : State} {f : State → State} (hf : ∀ x, Kept x (f x)) : Keeps s (onWindow s f) :=
  keeps_gate _ (hf s).toC

theorem onTaker_keeps {s : State} {f : State → State} (hf : ∀ x, Kept x (f x)) : Keeps s (onTaker s f) :=
  keeps_gate _ (hf s).toC

theorem immediate_keeps {h : CmdHdr} {code : Nat} {check : State → Nat} {effect : State → State} {data : State → Bytes}
    {applied : List Nat} {s : State} (hf : ∀ x, Kept x (effect x)) : Keeps s (immediate h code check effect data applied s) :=
  onFw_keeps fun x => by
    dsimp only
    split
    · exact result_kept _ _ _ _ _
    · exact (hf x).trans (result_kept _ _ _ _ _)

theorem changeCommand_keeps {h : CmdHdr} {command atTide late : Nat} {set : Bool} {code : State → Nat}
    {change : State → Change × State} {s : State} (hf : ∀ x, Kept x (change x).2) :
    Keeps s (changeCommand h command atTide late set code change s) :=
  onFw_keeps fun x => by
    extract_lets at_ p k k' ready k''
    split
    · exact result_kept _ _ _ _ _
    split
    · exact Kept.refl _
    split
    · exact result_kept _ _ _ _ _
    split
    · exact result_kept _ _ _ _ _
    split
    · exact resultWith_kept _ _ _ _ _ _
    · exact (hf x).trans (issue_kept _ _ _ _ _)

theorem submit_keeps {h : JobHdr} {command : Nat} {desc : JobDesc} {fill : State → JobDesc × State}
    {check : JobDesc → State → Nat} {s : State} (hf : ∀ x, Kept x (fill x).2) : Keeps s (submit h command desc fill check s) :=
  onFw_keeps fun x => by
    extract_lets p c
    have hp : Kept x p.2 := by
      unfold p
      split
      · exact Kept.refl _
      · exact hf x
    clear_value p
    split
    · exact refuseJob_kept _ _ _ _ _
    split
    · exact refuseJob_kept _ _ _ _ _
    split
    · exact refuseJob_kept _ _ _ _ _
    split
    · exact refuseJob_kept _ _ _ _ _
    · exact hp.trans (submitChecked_kept _ _ _ _)

theorem lbDone_keeps {path : LbPath} {op id : Nat} {ok : Bool} {effect : State → State} {s : State}
    (hf : ∀ x, Kept x (effect x)) : Keeps s (lbDone path op id ok effect s) := by
  refine Kept.keeps ?_
  split
  · exact lbReport_kept _ _ _ _ _ _
  split
  · exact lbReport_kept _ _ _ _ _ _
  · exact lbBegin_kept _ _ _ _ _ _ hf

theorem lbExclusive_keeps {path : LbPath} {op id : Nat} {ok core : Bool} {run : State → State} {s : State}
    (hf : ∀ x, Kept x (run x)) : Keeps s (lbExclusive path op id ok core run s) := by
  refine Kept.keeps ?_
  split
  · exact lbReport_kept _ _ _ _ _ _
  split
  · exact lbReport_kept _ _ _ _ _ _
  split
  · exact lbBegin_kept _ _ _ _ _ _ Kept.refl
  · exact hf s

theorem execMboxPad_keeps (mailbox s) : Keeps s (execMboxPad mailbox s) := by
  unfold execMboxPad
  refine onTaker_keeps fun x => ?_
  extract_lets +onlyGivenNames r1 b2
  split
  · exact advanceHead_kept _ _ _
  · exact Kept.refl _

theorem execMboxNop_keeps (h s) : Keeps s (execMboxNop h s) :=
  onFw_keeps fun x => result_kept _ _ _ _ _

theorem execCommandTake_keeps (mailbox s) : Keeps s (execCommandTake mailbox s) :=
  onTaker_keeps fun x => takeCommand_kept _ _

theorem execLinkCodec_keeps (h ctx classMask elemWidth maxWait s) :
    Keeps s (execLinkCodec h ctx classMask elemWidth maxWait s) := by
  unfold execLinkCodec
  dsimp only
  exact immediate_keeps fun x => setCodec_kept _ _ _

theorem execSwitchForwarding_keeps (h ctx modes s) : Keeps s (execSwitchForwarding h ctx modes s) := by
  unfold execSwitchForwarding
  exact immediate_keeps fun x => (Kept.refl x).setSw _

theorem execMirrorSession_keeps (h session target src s) : Keeps s (execMirrorSession h session target src s) := by
  unfold execMirrorSession
  dsimp only
  exact immediate_keeps fun x => (Kept.refl x).setSw _

theorem execSampleConfigure_keeps (h ctx egress n s) : Keeps s (execSampleConfigure h ctx egress n s) := by
  unfold execSampleConfigure
  dsimp only
  exact immediate_keeps fun x => (draw_kept _).setSw _

theorem execPilotQueues_keeps (h ctx cls pool count select s) : Keeps s (execPilotQueues h ctx cls pool count select s) := by
  unfold execPilotQueues
  dsimp only
  refine immediate_keeps fun x => ?_
  split
  · exact Kept.refl _
  · exact (Kept.refl x).setPilot _

theorem execPilotClass_keeps (h cls alpha kind delayTarget k s) :
    Keeps s (execPilotClass h cls alpha kind delayTarget k s) := by
  unfold execPilotClass
  exact immediate_keeps fun x => (Kept.refl x).setPilot _

theorem execPilotPort_keeps (h ctx weights overhead s) : Keeps s (execPilotPort h ctx weights overhead s) := by
  unfold execPilotPort
  exact immediate_keeps fun x => (Kept.refl x).setPilot _

theorem execPilotPilotq_keeps (h b s) : Keeps s (execPilotPilotq h b s) := by
  unfold execPilotPilotq
  refine onFw_keeps fun x => ?_
  split
  · exact result_kept _ _ _ _ _
  split
  · exact result_kept _ _ _ _ _
  extract_lets +onlyGivenNames b1 code2
  split
  · exact result_kept _ _ _ _ _
  extract_lets +onlyGivenNames lead3 rest4 p5
  exact (result_kept _ _ _ _ _).after ((Kept.refl x).setPilot _)

theorem execPilotHost_keeps (h host maxOutstanding rate burst s) :
    Keeps s (execPilotHost h host maxOutstanding rate burst s) := by
  unfold execPilotHost
  refine onFw_keeps fun x => ?_
  extract_lets +onlyGivenNames wide1 v2
  split
  · exact result_kept _ _ _ _ _
  split
  · exact result_kept _ _ _ _ _
  extract_lets +onlyGivenNames lead3 x4
  exact (result_kept _ _ _ _ _).after (setHost_kept _ _ _)

theorem execPilotStats_keeps (h user first count clear s) : Keeps s (execPilotStats h user first count clear s) := by
  unfold execPilotStats
  dsimp only
  refine immediate_keeps fun x => ?_
  split
  · exact Kept.refl _
  split
  · refine Kept.foldl (fun y z => ?_) ?_
    · split
      · exact Kept.refl _
      · exact setHost_kept _ _ _
    · exact Kept.refl _
  · exact (Kept.refl x).setPilot _

theorem execManifestMap_keeps (h index e atTide s) : Keeps s (execManifestMap h index e atTide s) := by
  unfold execManifestMap
  exact changeCommand_keeps fun x => just_kept _ _

theorem execManifestRevoke_keeps (h index atTide s) : Keeps s (execManifestRevoke h index atTide s) := by
  unfold execManifestRevoke
  exact changeCommand_keeps fun x => just_kept _ _

theorem execManifestWindow_keeps (h charter win w atTide s) : Keeps s (execManifestWindow h charter win w atTide s) := by
  unfold execManifestWindow
  exact changeCommand_keeps fun x => just_kept _ _

theorem execManifestSync_keeps (h source boundary entries windows route routeEpoch s) :
    Keeps s (execManifestSync h source boundary entries windows route routeEpoch s) := by
  unfold execManifestSync
  refine onFw_keeps fun x => ?_
  split
  · exact result_kept _ _ _ _ _
  split
  · exact result_kept _ _ _ _ _
  · exact (syncDue_kept _).after ((Kept.refl x).setMan _)

theorem execRouteCommit_keeps (h m atTide s) : Keeps s (execRouteCommit h m atTide s) := by
  unfold execRouteCommit
  exact changeCommand_keeps fun x => just_kept _ _

theorem execCompositionSet_keeps (h c m atTide s) : Keeps s (execCompositionSet h c m atTide s) := by
  unfold execCompositionSet
  exact changeCommand_keeps fun x => just_kept _ _

theorem execRoleShift_keeps (h host group join leave atTide s) : Keeps s (execRoleShift h host group join leave atTide s) := by
  unfold execRoleShift
  exact changeCommand_keeps fun x => just_kept _ _

theorem execRedundancyGroup_keeps (h delete g atTide s) : Keeps s (execRedundancyGroup h delete g atTide s) := by
  unfold execRedundancyGroup
  exact changeCommand_keeps fun x => just_kept _ _

theorem execRedundancyFormat_keeps (h groupId limit atTide s) : Keeps s (execRedundancyFormat h groupId limit atTide s) := by
  unfold execRedundancyFormat
  exact changeCommand_keeps fun x => just_kept _ _

theorem execRedundancyReplace_keeps (h groupId member device tray module rate atTide s) :
    Keeps s (execRedundancyReplace h groupId member device tray module rate atTide s) := by
  unfold execRedundancyReplace
  exact changeCommand_keeps fun x => just_kept _ _

theorem execCharterCreate_keeps (h charter confidential keySource key atTide s) :
    Keeps s (execCharterCreate h charter confidential keySource key atTide s) := by
  unfold execCharterCreate
  dsimp only
  exact changeCommand_keeps fun x => keyFor_kept _ _ _

theorem execCharterMembers_keeps (h charter add remove atTide s) :
    Keeps s (execCharterMembers h charter add remove atTide s) := by
  unfold execCharterMembers
  exact changeCommand_keeps fun x => just_kept _ _

theorem execCharterRotate_keeps (h charter keySource rate key atTide s) :
    Keeps s (execCharterRotate h charter keySource rate key atTide s) := by
  unfold execCharterRotate
  dsimp only
  exact changeCommand_keeps fun x => keyFor_kept _ _ _

theorem execCharterRevoke_keeps (h charter atTide s) : Keeps s (execCharterRevoke h charter atTide s) := by
  unfold execCharterRevoke
  exact changeCommand_keeps fun x => just_kept _ _

theorem execConfidentialEnter_keeps (h s) : Keeps s (execConfidentialEnter h s) := by
  unfold execConfidentialEnter
  refine onFw_keeps fun x => ?_
  split
  · exact result_kept _ _ _ _ _
  · exact Kept.of (Kept.refl x) rfl rfl rfl rfl rfl rfl rfl rfl

theorem execJobqOpen_keeps (h queue mailbox s) : Keeps s (execJobqOpen h queue mailbox s) := by
  unfold execJobqOpen
  exact immediate_keeps fun x => (announceQueue_kept _ _ _ _).after ((Kept.refl x).setAcc _)

theorem execJobqClose_keeps (h queue owner s) : Keeps s (execJobqClose h queue owner s) := by
  unfold execJobqClose
  dsimp only
  exact immediate_keeps fun x => (announceQueue_kept _ _ _ _).after ((Kept.refl x).setAcc _)

theorem execCraneCollective_keeps (h d s) : Keeps s (execCraneCollective h d s) := by
  unfold execCraneCollective
  exact submit_keeps fun x => craneFill_kept _ _

theorem execStevedoreMove_keeps (h d s) : Keeps s (execStevedoreMove h d s) := by
  unfold execStevedoreMove
  exact submit_keeps fun x => stevFill_kept _ _

theorem execCustomsScan_keeps (h d s) : Keeps s (execCustomsScan h d s) := by
  unfold execCustomsScan
  unfold custSubmit
  refine submit_keeps fun x => ?_
  exact custFill_kept _ _

theorem execCustomsScore_keeps (h d s) : Keeps s (execCustomsScore h d s) := by
  unfold execCustomsScore
  unfold custSubmit
  refine submit_keeps fun x => ?_
  exact custFill_kept _ _

theorem execCustomsMerge_keeps (h d s) : Keeps s (execCustomsMerge h d s) := by
  unfold execCustomsMerge
  unfold custSubmit
  refine submit_keeps fun x => ?_
  exact custFill_kept _ _

theorem execCodecEncode_keeps (h d s) : Keeps s (execCodecEncode h d s) := by
  unfold execCodecEncode
  exact submit_keeps fun x => codecFill_kept _ _

theorem execCodecDecode_keeps (h d s) : Keeps s (execCodecDecode h d s) := by
  unfold execCodecDecode
  exact submit_keeps fun x => codecFill_kept _ _

theorem execStreamSchedule_keeps (h d s) : Keeps s (execStreamSchedule h d s) := by
  unfold execStreamSchedule
  exact submit_keeps fun x => streamFill_kept _ _

theorem execStreamStop_keeps (h slot s) : Keeps s (execStreamStop h slot s) := by
  unfold execStreamStop
  dsimp only
  refine immediate_keeps fun x => ?_
  split
  · split
    · exact Kept.refl _
    · exact setJob_kept _ _
  · exact Kept.refl _

theorem execTierPlace_keeps (h d s) : Keeps s (execTierPlace h d s) := by
  unfold execTierPlace
  refine submit_keeps fun x => ?_
  extract_lets +onlyGivenNames a1
  have h1 : Kept x a1.2 := firmwareArea_kept _ _
  clear_value a1
  exact h1

theorem execTierDrop_keeps (h objectId stageAddr s) : Keeps s (execTierDrop h objectId stageAddr s) := by
  unfold execTierDrop
  dsimp only
  exact immediate_keeps fun x => (Kept.refl x).setCopies _

theorem execTierMigrate_keeps (h tier charter objectId srcVa bytes dst atTide s) :
    Keeps s (execTierMigrate h tier charter objectId srcVa bytes dst atTide s) := by
  unfold execTierMigrate
  refine changeCommand_keeps fun x => ?_
  extract_lets +onlyGivenNames l1
  exact Kept.refl _

theorem execTierQuery_keeps (h objectId s) : Keeps s (execTierQuery h objectId s) := by
  unfold execTierQuery
  exact immediate_keeps fun x => Kept.refl _

theorem execCopyRun_keeps (h d s) : Keeps s (execCopyRun h d s) := by
  unfold execCopyRun
  exact submit_keeps fun x => Kept.refl _

theorem execProgramKeyEnroll_keeps (h slot key s) : Keeps s (execProgramKeyEnroll h slot key s) := by
  unfold execProgramKeyEnroll
  exact immediate_keeps fun x => (measure_kept _ _ _ _ _ _).after (Kept.of (Kept.refl x) rfl rfl rfl rfl rfl rfl rfl rfl)

theorem execProgramKeyClear_keeps (h slot s) : Keeps s (execProgramKeyClear h slot s) := by
  unfold execProgramKeyClear
  exact immediate_keeps fun x => Kept.of (Kept.refl x) rfl rfl rfl rfl rfl rfl rfl rfl

theorem execProgramLoadBlock_keeps (h programId offset data s) : Keeps s (execProgramLoadBlock h programId offset data s) := by
  unfold execProgramLoadBlock
  dsimp only
  exact immediate_keeps fun x => Kept.of (Kept.refl x) rfl rfl rfl rfl rfl rfl rfl rfl

theorem execProgramUnload_keeps (h programId deviceMask s) : Keeps s (execProgramUnload h programId deviceMask s) := by
  unfold execProgramUnload
  refine onFw_keeps fun x => ?_
  extract_lets +onlyGivenNames devs1 mine2
  split
  · exact result_kept _ _ _ _ _
  extract_lets +onlyGivenNames c3
  refine Kept.trans ?_ (settleCommit_kept _ _)
  refine Kept.trans ?_ (tellAbout_kept _ _ _ _)
  split
  · exact setHolders_kept _ _ _
  · exact Kept.refl _

theorem execProgramQuery_keeps (h programId s) : Keeps s (execProgramQuery h programId s) := by
  unfold execProgramQuery
  exact immediate_keeps fun x => Kept.refl _

theorem execFwLoadBlock_keeps (h offset data s) : Keeps s (execFwLoadBlock h offset data s) := by
  unfold execFwLoadBlock
  refine onFwOrRom_keeps fun x => ?_
  extract_lets +onlyGivenNames l1 c2
  split
  · exact result_kept _ _ _ _ _
  · exact (result_kept _ _ _ _ _).after (Kept.of (Kept.refl x) rfl rfl rfl rfl rfl rfl rfl rfl)

theorem execFwCommit_keeps (h totalLength deviceMask holdupMv writeOk s) :
    Keeps s (execFwCommit h totalLength deviceMask holdupMv writeOk s) := by
  unfold execFwCommit
  refine onFwOrRom_keeps fun x => ?_
  split
  · exact result_kept _ _ _ _ _
  split
  · exact result_kept _ _ _ _ _
  extract_lets +onlyGivenNames devs1 away2 src3_0 s3
  have h3 : Kept x s3 := Kept.of (Kept.refl x) rfl rfl rfl rfl rfl rfl rfl rfl
  clear_value s3
  extract_lets +onlyGivenNames s4
  have h4 : Kept x s4 := by
    unfold s4
    refine Kept.foldl (fun y z => ?_) ?_
    · exact emit_kept _ _
    · exact h3
  clear_value s4
  extract_lets +onlyGivenNames p5
  have h5 : Kept x p5.2 := by
    unfold p5
    split
    · exact (commitImage_kept _ _ _ _).after h4
    · exact h4
  clear_value p5
  exact (settleFw_kept _ _).after h5

theorem execFwActivateAt_keeps (h deviceMask release atTide s) : Keeps s (execFwActivateAt h deviceMask release atTide s) := by
  unfold execFwActivateAt
  exact changeCommand_keeps fun x => just_kept _ _

theorem execFwMeasurements_keeps (h start s) : Keeps s (execFwMeasurements h start s) := by
  unfold execFwMeasurements
  exact onFw_keeps fun x => result_kept _ _ _ _ _

theorem execFwStatus_keeps (h s) : Keeps s (execFwStatus h s) := by
  unfold execFwStatus
  refine onFwOrRom_keeps fun x => ?_
  extract_lets +onlyGivenNames bank1
  exact result_kept _ _ _ _ _

theorem execLogbookFlush_keeps (h holdupMv s) : Keeps s (execLogbookFlush h holdupMv s) := by
  unfold execLogbookFlush
  refine onFw_keeps fun x => ?_
  extract_lets +onlyGivenNames p1
  have h1 : Kept x p1.2 := startFlush_kept _ _ _
  clear_value p1
  split
  · exact h1
  · exact (result_kept _ _ _ _ _).after h1

theorem execTelemetrySamples_keeps (h s) : Keeps s (execTelemetrySamples h s) := by
  unfold execTelemetrySamples
  refine onFw_keeps fun x => ?_
  extract_lets +onlyGivenNames data1
  exact (result_kept _ _ _ _ _).after ((Kept.refl x).setSw _)

theorem execTelemetryCounters_keeps (h group start s) : Keeps s (execTelemetryCounters h group start s) := by
  unfold execTelemetryCounters
  refine onFw_keeps fun x => ?_
  split
  · exact result_kept _ _ _ _ _
  split
  · exact result_kept _ _ _ _ _
  extract_lets +onlyGivenNames k1 data2
  exact (result_kept _ _ _ _ _).after ((Kept.refl x).setFreeCount _)

theorem execDomainChangeNotice_keeps (id c atTide s) : Keeps s (execDomainChangeNotice id c atTide s) := by
  unfold execDomainChangeNotice
  refine onCore_keeps fun x => ?_
  split
  · exact Kept.refl _
  extract_lets +onlyGivenNames k1 k2 s3
  have h3 : Kept x s3 := storeNotice_kept _ _ _ _ _
  clear_value s3
  split
  · exact (control_kept _ _ _ _).after h3
  split
  · split
    · exact (control_kept _ _ _ _).after h3
    · exact h3
  · exact h3

theorem execDomainChangeReady_keeps (number member ok code s) : Keeps s (execDomainChangeReady number member ok code s) := by
  unfold execDomainChangeReady
  refine onCore_keeps fun x => ?_
  split
  · exact Kept.refl _
  split
  · exact (commitReady_kept _ _).after (setIssued_kept _ _)
  · exact cancelIssued_kept _ _ _ _

theorem execDomainChangeCommit_keeps (id s) : Keeps s (execDomainChangeCommit id s) :=
  onCore_keeps fun x => commitNotice_kept _ _

theorem execDomainChangeCancel_keeps (id s) : Keeps s (execDomainChangeCancel id s) := by
  unfold execDomainChangeCancel
  refine onCore_keeps fun x => ?_
  split
  · split
    · exact Kept.refl _
    · exact dropNotice_kept _ _
  · exact Kept.refl _

theorem execChangeReadyDeadline_keeps (number s) : Keeps s (execChangeReadyDeadline number s) := by
  unfold execChangeReadyDeadline
  refine onCore_keeps fun x => ?_
  split
  · split
    · exact cancelIssued_kept _ _ _ _
    · exact Kept.refl _
  · exact Kept.refl _

theorem execDomainChangeApply_keeps (s) : Keeps s (execDomainChangeApply s) := by
  unfold execDomainChangeApply
  refine onCore_keeps fun x => ?_
  split
  · exact applyDue_kept _ _
  · exact Kept.refl _

theorem execRouteGraceEnd_keeps (s) : Keeps s (execRouteGraceEnd s) :=
  onCore_keeps fun x => endGrace_kept _

theorem execTideBoundary_keeps (s) : Keeps s (execTideBoundary s) := by
  unfold execTideBoundary
  refine onCore_keeps fun x => ?_
  extract_lets +onlyGivenNames s1
  have h1 : Kept x s1 := takeOver_kept _
  clear_value s1
  extract_lets +onlyGivenNames n2 src3_0 s3
  have h3 : Kept x s3 := (westDue_kept _).after (h1.setTide _)
  clear_value s3
  extract_lets +onlyGivenNames s4
  have h4 : Kept x s4 := by
    unfold s4
    split
    · exact (fixBudgets_kept _).after ((policeTide_kept _).after ((floorTide_kept _).after ((queuesApply_kept _).after ((boundaryActions_kept _).after h3))))
    · exact h3
  clear_value s4
  exact (openTide_kept _).after ((endPeriods_kept _).after ((showRecords_kept _).after ((boundaryDue_kept _).after h4)))

theorem execTideMarkerReceive_keeps (east hops count offset s) : Keeps s (execTideMarkerReceive east hops count offset s) := by
  unfold execTideMarkerReceive
  refine onCore_keeps fun x => ?_
  split
  · exact Kept.refl _
  extract_lets +onlyGivenNames src1_0 heard1
  have h1 : Kept x heard1 := (Kept.refl x).setTide _
  clear_value heard1
  split
  · split
    · exact Kept.refl _
    extract_lets +onlyGivenNames src2_0 s_2
    have h2 : Kept x s_2 := h1.setTide _
    clear_value s_2
    split
    · exact (askSplice_kept _ _).after h2
    · exact h2
  split
  · split
    · exact h1
    · exact (useMarker_kept _ _ _).after (h1.setTide _)
  split
  · exact h1
  · exact h1.setTide _

theorem execMasterTakeover_keeps (s) : Keeps s (execMasterTakeover s) :=
  onCore_keeps fun x => takeOver_kept _

theorem execRingSlotArrive_keeps (slot position s) : Keeps s (execRingSlotArrive slot position s) := by
  unfold execRingSlotArrive
  refine Kept.keeps ?_
  split
  · extract_lets +onlyGivenNames s1
    have h1 : Kept s s1 := emit_kept _ _
    clear_value s1
    split
    · exact (takeMessage_kept _ _).after h1
    · exact h1
  split
  · exact originate_kept _ _ _
  split
  · exact (forwardSlot_kept _ _).after ((Kept.refl s).setRing _)
  split
  · exact (forwardSlot_kept _ _).after ((Kept.refl s).setRing _)
  split
  · split
    · exact Kept.refl _
    · exact forwardSlot_kept _ _
  · exact (forwardSlot_kept _ _).after (takeMessage_kept _ _)

theorem execDataSlotReceive_keeps (slot s) : Keeps s (execDataSlotReceive slot s) := by
  unfold execDataSlotReceive
  refine Kept.keeps ?_
  split
  · exact Kept.refl _
  split
  · exact countStale_kept _
  extract_lets +onlyGivenNames h1
  split
  · exact Kept.refl _
  refine Kept.foldl (fun y z => ?_) ?_
  · exact ringItem_kept _ _ _
  · exact Kept.refl _

theorem execRingMeasure_keeps (east spanTenthsNs hops ident s) : Keeps s (execRingMeasure east spanTenthsNs hops ident s) := by
  unfold execRingMeasure
  refine onCore_keeps fun x => ?_
  extract_lets +onlyGivenNames src1_0 src1_1 s1
  have h1 : Kept x s1 := by
    unfold s1
    split
    · exact Kept.of (Kept.refl x) rfl rfl rfl rfl rfl rfl rfl rfl
    · exact Kept.refl _
  clear_value s1
  split
  · split
    · exact (recordReason_kept _ _).after (h1.setRing _)
    · exact h1.setRing _
  split
  · exact (recordReason_kept _ _).after (h1.setRing _)
  · exact (emit_kept _ _).after h1

theorem execRingLinkFail_keeps (link s) : Keeps s (execRingLinkFail link s) := by
  unfold execRingLinkFail
  refine onCore_keeps fun x => ?_
  split
  · exact Kept.refl _
  extract_lets +onlyGivenNames isSnoop1
  exact (redirect_kept _).after ((raise_kept _ _ _).after ((Kept.refl x).setRing _))

theorem execRingLinkRestore_keeps (link s) : Keeps s (execRingLinkRestore link s) := by
  unfold execRingLinkRestore
  refine onCore_keeps fun x => ?_
  split
  · extract_lets +onlyGivenNames b1
    exact (broadcast_kept _ _ _).after ((Kept.refl x).setRing _)
  · exact Kept.refl _

theorem execTrainRestore_keeps (s) : Keeps s (execTrainRestore s) :=
  onCore_keeps fun x => trainRestored_kept _

theorem execBypassReleaseRequest_keeps (s) : Keeps s (execBypassReleaseRequest s) := by
  unfold execBypassReleaseRequest
  refine onCore_keeps fun x => ?_
  split
  · exact (askSplice_kept _ _).after (Kept.of (Kept.refl x) rfl rfl rfl rfl rfl rfl rfl rfl)
  · exact Kept.refl _

theorem execBypassReleaseTimeout_keeps (s) : Keeps s (execBypassReleaseTimeout s) := by
  unfold execBypassReleaseTimeout
  refine Kept.keeps ?_
  split
  · exact Kept.of (Kept.refl s) rfl rfl rfl rfl rfl rfl rfl rfl
  · exact Kept.refl _

theorem execBypassLeaveRequest_keeps (s) : Keeps s (execBypassLeaveRequest s) := by
  unfold execBypassLeaveRequest
  refine onCore_keeps fun x => ?_
  split
  · exact (askSplice_kept _ _).after (Kept.of (Kept.refl x) rfl rfl rfl rfl rfl rfl rfl rfl)
  · exact Kept.refl _

theorem execSpliceRequest_keeps (site leave s) : Keeps s (execSpliceRequest site leave s) := by
  unfold execSpliceRequest
  refine onCore_keeps fun x => ?_
  split
  · exact Kept.refl _
  · exact (Kept.refl x).setRing _

theorem execSpliceGrant_keeps (s) : Keeps s (execSpliceGrant s) :=
  onCore_keeps fun x => grantSplice_kept _

theorem execSplice_keeps (s) : Keeps s (execSplice s) :=
  onCore_keeps fun x => splice_kept _

theorem execBypassClose_keeps (s) : Keeps s (execBypassClose s) :=
  (closeBypass_kept _).keeps

theorem execCoreHeartbeatTimeout_keeps (s) : Keeps s (execCoreHeartbeatTimeout s) :=
  (closeBypass_kept _).keeps

theorem execSliceRetire_keeps (kind engine slot w bad corrected s) :
    Keeps s (execSliceRetire kind engine slot w bad corrected s) := by
  unfold execSliceRetire
  refine onCore_keeps fun x => ?_
  extract_lets +onlyGivenNames s1
  have h1 : Kept x s1 := stageErrors_kept _ _ _
  clear_value s1
  split
  · extract_lets +onlyGivenNames key2
    refine Kept.trans ?_ (trySeals_kept _ _)
    split
    · split
      · exact (streamSlice_kept _ _ _).after h1
      · exact (copySlice_kept _ _ _).after h1
    · exact h1
  extract_lets +onlyGivenNames frame3 t4
  split
  · extract_lets +onlyGivenNames s5
    have h5 : Kept x s5 := (retireTask_kept _ _ _ _ _).after h1
    clear_value s5
    extract_lets +onlyGivenNames s6
    have h6 : Kept x s6 := (unitDone_kept _ _ _ _ _).after h5
    clear_value s6
    split
    · exact h6
    · exact (trySeals_kept _ _).after ((jobPlan_kept _ _).after h6)
  · exact h1

theorem execTideOverrun_keeps (kind engine s) : Keeps s (execTideOverrun kind engine s) := by
  unfold execTideOverrun
  refine onCore_keeps fun x => ?_
  extract_lets +onlyGivenNames b1
  split
  · exact Kept.refl _
  extract_lets +onlyGivenNames t2 recent3 b4
  exact (raise_kept _ _ _).after (setBook_kept _ _ _ _)

theorem execBudgetRestore_keeps (kind engine s) : Keeps s (execBudgetRestore kind engine s) := by
  unfold execBudgetRestore
  refine onCore_keeps fun x => ?_
  extract_lets +onlyGivenNames b1
  split
  · exact setBook_kept _ _ _ _
  · exact Kept.refl _

theorem execPowerSample_keeps (milliwatts s) : Keeps s (execPowerSample milliwatts s) := by
  unfold execPowerSample
  refine onCore_keeps fun x => ?_
  extract_lets +onlyGivenNames src1_0 s1
  have h1 : Kept x s1 := Kept.of (Kept.refl x) rfl rfl rfl rfl rfl rfl rfl rfl
  clear_value s1
  split
  · exact h1
  extract_lets +onlyGivenNames on2
  split
  · extract_lets +onlyGivenNames src3_0 s3
    have h3 : Kept x s3 := Kept.of h1 rfl rfl rfl rfl rfl rfl rfl rfl
    clear_value s3
    split
    · exact (raiseLimited_kept _ _ _ _ _ _).after h3
    · exact (raise_kept _ _ _).after h3
  split
  · exact Kept.of h1 rfl rfl rfl rfl rfl rfl rfl rfl
  · exact h1

theorem execRead_keeps (r s) : Keeps s (execRead r s) :=
  onCore_keeps fun x => hostArrive_kept _ _ _

theorem execReadAcq_keeps (r s) : Keeps s (execReadAcq r s) :=
  onCore_keeps fun x => hostArrive_kept _ _ _

theorem execAcquire_keeps (r s) : Keeps s (execAcquire r s) :=
  onCore_keeps fun x => hostArrive_kept _ _ _

theorem execWrite_keeps (r s) : Keeps s (execWrite r s) :=
  onCore_keeps fun x => hostArrive_kept _ _ _

theorem execWritePartial_keeps (r s) : Keeps s (execWritePartial r s) :=
  onCore_keeps fun x => hostArrive_kept _ _ _

theorem execWriteSeal_keeps (r s) : Keeps s (execWriteSeal r s) :=
  onCore_keeps fun x => hostArrive_kept _ _ _

theorem execStow_keeps (r s) : Keeps s (execStow r s) :=
  onCore_keeps fun x => hostArrive_kept _ _ _

theorem execAtomic_keeps (r s) : Keeps s (execAtomic r s) :=
  onCore_keeps fun x => hostArrive_kept _ _ _

theorem execRegionPublish_keeps (r s) : Keeps s (execRegionPublish r s) :=
  onCore_keeps fun x => hostArrive_kept _ _ _

theorem execCReadShared_keeps (r s) : Keeps s (execCReadShared r s) :=
  onCore_keeps fun x => hostArrive_kept _ _ _

theorem execCReadOwn_keeps (r s) : Keeps s (execCReadOwn r s) :=
  onCore_keeps fun x => hostArrive_kept _ _ _

theorem execCUpgrade_keeps (r s) : Keeps s (execCUpgrade r s) :=
  onCore_keeps fun x => hostArrive_kept _ _ _

theorem execCWriteback_keeps (r s) : Keeps s (execCWriteback r s) :=
  onCore_keeps fun x => hostArrive_kept _ _ _

theorem execCEvictClean_keeps (r s) : Keeps s (execCEvictClean r s) :=
  onCore_keeps fun x => hostArrive_kept _ _ _

theorem execCRecallAnswer_keeps (host line data s) : Keeps s (execCRecallAnswer host line data s) :=
  onCore_keeps fun x => (wakeHeld_kept _).after (recallAnswer_kept _ _ _ _ _ _)

theorem execHostRecallTimeout_keeps (host line s) : Keeps s (execHostRecallTimeout host line s) := by
  unfold execHostRecallTimeout
  refine onCore_keeps fun x => ?_
  split
  · exact Kept.refl _
  split
  · exact (wakeHeld_kept _).after ((hostDies_kept _ _).after (raise_kept _ _ _))
  · exact Kept.refl _

theorem execCStowFill_keeps (r s) : Keeps s (execCStowFill r s) := by
  unfold execCStowFill
  refine onCore_keeps fun x => ?_
  extract_lets +onlyGivenNames line1 e2 room3
  split
  · exact answerTo_kept _ _ _ _ _ _
  split
  · exact answerTo_kept _ _ _ _ _ _
  extract_lets +onlyGivenNames c4 s5
  have h5 : Kept x s5 := cacheRoom_kept _
  clear_value s5
  extract_lets +onlyGivenNames src6_0 s6
  have h6 : Kept x s6 := h5.setIng _
  clear_value s6
  exact (answerTo_kept _ _ _ _ _ _).after ((setFilter_kept _ _).after h6)

theorem execCStowFillAnswer_keeps (device line taken s) : Keeps s (execCStowFillAnswer device line taken s) :=
  onCore_keeps fun x => fillAnswered_kept _ _ _ _

theorem execCSnoopDone_keeps (r s) : Keeps s (execCSnoopDone r s) :=
  onCore_keeps fun x => snoopDone_kept _ _

theorem execSnoopRoundReturn_keeps (snoopId answers s) : Keeps s (execSnoopRoundReturn snoopId answers s) :=
  onCore_keeps fun x => roundReturns_kept _ _ _

theorem execDeadAgentNotice_keeps (device s) : Keeps s (execDeadAgentNotice device s) :=
  onCore_keeps fun x => buryDevice_kept _ _

theorem execDirectoryScanDone_keeps (device s) : Keeps s (execDirectoryScanDone device s) := by
  unfold execDirectoryScanDone
  refine onCore_keeps fun x => ?_
  split
  · exact scanDirectory_kept _ _
  · exact Kept.refl _

theorem execHomeAdmit_keeps (r s) : Keeps s (execHomeAdmit r s) := by
  unfold execHomeAdmit
  refine onCore_keeps fun x => ?_
  split
  · exact fence_kept _ _
  split
  · exact releaseAtHome_kept _ _
  split
  · exact snoopDone_kept _ _
  · exact arriveHome_kept _ _

theorem execAttemptFence_keeps (r s) : Keeps s (execAttemptFence r s) :=
  onCore_keeps fun x => fence_kept _ _

theorem execGranuleBatchStart_keeps (entry offset s) : Keeps s (execGranuleBatchStart entry offset s) :=
  onCore_keeps fun x => startBatch_kept _ _ _

theorem execTrayResponse_keeps (request kind data s) : Keeps s (execTrayResponse request kind data s) :=
  onCore_keeps fun x => trayAnswer_kept _ _ _ _

theorem execGranuleBatchDone_keeps (entry offset s) : Keeps s (execGranuleBatchDone entry offset s) :=
  onCore_keeps fun x => endBatch_kept _ _ _

theorem execSealTimeout_keeps (source window s) : Keeps s (execSealTimeout source window s) := by
  unfold execSealTimeout
  refine onCore_keeps fun x => ?_
  split
  · exact Kept.refl _
  split
  · exact Kept.refl _
  split
  · exact refuseHeld_kept _ _ _ _
  · exact Kept.refl _

theorem execWindowForget_keeps (source s) : Keeps s (execWindowForget source s) := by
  unfold execWindowForget
  refine onCore_keeps fun x => ?_
  split
  · exact Kept.refl _
  split
  · exact (Kept.refl x).setHome _
  · exact Kept.refl _

theorem execResponseReceive_keeps (r s) : Keeps s (execResponseReceive r s) := by
  unfold execResponseReceive
  refine onCore_keeps fun x => ?_
  split
  · exact discardResponse_kept _
  split
  · split
    · exact discardResponse_kept _
    split
    · exact discardResponse_kept _
    · exact ownAnswered_kept _ _ _
  split
  · exact discardResponse_kept _
  split
  · exact discardResponse_kept _
  · exact aloneAnswer_kept _ _ _

theorem execLoadLevelUpdate_keeps (s) : Keeps s (execLoadLevelUpdate s) := by
  unfold execLoadLevelUpdate
  refine onCore_keeps fun x => ?_
  extract_lets +onlyGivenNames d1
  have h1 : Kept x d1.2 := draw_kept _
  clear_value d1
  extract_lets +onlyGivenNames s2
  have h2 : Kept x s2 := h1
  clear_value s2
  extract_lets +onlyGivenNames cap3 shared4 deepest5
  exact h2.setHome _

theorem execBlockReceive_keeps (ctx block marked stamp s) : Keeps s (execBlockReceive ctx block marked stamp s) := by
  unfold execBlockReceive
  refine onCore_keeps fun x => ?_
  refine Kept.trans ?_ (whenTrain_kept _ _ _ _ ?_)
  · exact Kept.refl _
  · intro y0 y1
    extract_lets +onlyGivenNames h3 s4
    have h4 : Kept y1 s4 := by
      unfold s4
      split
      · exact noteMark_kept _ _
      · exact Kept.refl _
    clear_value s4
    split
    · exact h4
    split
    · exact (discardBlock_kept _ _ _ _).after h4
    extract_lets +onlyGivenNames s5
    have h5 : Kept y1 s5 := (takeAck_kept _ _ _).after h4
    clear_value s5
    split
    · exact h5
    split
    · exact h5
    split
    · exact (discardBlock_kept _ _ _ _).after h5
    extract_lets +onlyGivenNames s6
    have h6 : Kept y1 s6 := by
      unfold s6
      split
      · exact h5
      · exact (takeCredits_kept _ _ _ _).after h5
    clear_value s6
    split
    · exact h6
    · exact (acceptBlock_kept _ _ _ _ _ _).after h6

theorem execCutItemArrive_keeps (ctx seq unit pool item s) : Keeps s (execCutItemArrive ctx seq unit pool item s) := by
  unfold execCutItemArrive
  refine onCore_keeps fun x => ?_
  refine Kept.trans ?_ (whenTrain_kept _ _ _ _ ?_)
  · exact Kept.refl _
  · intro y0 y1
    extract_lets +onlyGivenNames kind3 a4
    split
    · extract_lets +onlyGivenNames slow5
      split
      · exact Kept.refl _
      extract_lets +onlyGivenNames s6
      have h6 : Kept y1 s6 := setCtx_kept _ _ _
      clear_value s6
      extract_lets +onlyGivenNames s7
      have h7 : Kept y1 s7 := (observe_kept _ _ _ _ _ _ _).after h6
      clear_value s7
      extract_lets +onlyGivenNames x8 x9
      exact (nameCell_kept _).after ((enterCell_kept _ _).after h7)
    · exact Kept.refl _

theorem execIdle_keeps (ctx ack s) : Keeps s (execIdle ctx ack s) :=
  onCore_keeps fun x => takeAck_kept _ _ _

theorem execNak_keeps (ctx seq s) : Keeps s (execNak ctx seq s) := by
  unfold execNak
  refine onCore_keeps fun x => ?_
  refine Kept.trans ?_ (whenTrain_kept _ _ _ _ ?_)
  · exact Kept.refl _
  · intro y0 y1
    extract_lets +onlyGivenNames first3 d4
    split
    · exact contextDown_kept _ _ _
    · exact (resendFrom_kept _ _ _).after (scrubKept_kept _ _)

theorem execCredit_keeps (ctx req rsp strm s) : Keeps s (execCredit ctx req rsp strm s) := by
  unfold execCredit
  refine onCore_keeps fun x => ?_
  refine Kept.trans ?_ (whenTrain_kept _ _ _ _ ?_)
  · exact Kept.refl _
  · intro y0 y1
    extract_lets +onlyGivenNames up3 l4
    exact setCtx_kept _ _ _

theorem execNakHoldoffExpire_keeps (ctx s) : Keeps s (execNakHoldoffExpire ctx s) := by
  unfold execNakHoldoffExpire
  refine onCore_keeps fun x => ?_
  refine Kept.trans ?_ (whenTrain_kept _ _ _ _ ?_)
  · exact Kept.refl _
  · intro y0 y1
    exact setCtx_kept _ _ _

theorem execResendTimeout_keeps (ctx s) : Keeps s (execResendTimeout ctx s) := by
  unfold execResendTimeout
  refine onCore_keeps fun x => ?_
  refine Kept.trans ?_ (whenTrain_kept _ _ _ _ ?_)
  · exact Kept.refl _
  · intro y0 y1
    split
    · exact Kept.refl _
    split
    · exact setCtx_kept _ _ _
    · exact (resendFrom_kept _ _ _).after ((scrubKept_kept _ _).after (setCtx_kept _ _ _))

theorem execSignalDetect_keeps (ctx s) : Keeps s (execSignalDetect ctx s) := by
  unfold execSignalDetect
  refine onCore_keeps fun x => ?_
  refine Kept.trans ?_ (whenTrain_kept _ _ _ _ ?_)
  · exact Kept.refl _
  · intro y0 y1
    exact setCtx_kept _ _ _

theorem execEqualizeLock_keeps (ctx s) : Keeps s (execEqualizeLock ctx s) := by
  unfold execEqualizeLock
  refine onCore_keeps fun x => ?_
  refine Kept.trans ?_ (whenTrain_kept _ _ _ _ ?_)
  · refine Kept.trans ?_ (whenTrain_kept _ _ _ _ ?_)
    · exact Kept.refl _
    · intro y0 y1
      exact setCtx_kept _ _ _
  · intro y2 y3
    exact setCtx_kept _ _ _

theorem execBlockLock_keeps (ctx s) : Keeps s (execBlockLock ctx s) := by
  unfold execBlockLock
  refine onCore_keeps fun x => ?_
  split
  · exact Kept.refl _
  split
  · exact (sendIdent_kept _ _ _ _).after (setCtx_kept _ _ _)
  split
  · exact (resendFrom_kept _ _ _).after ((scrubKept_kept _ _).after (setCtx_kept _ _ _))
  · exact Kept.refl _

theorem execIdentify_keeps (ctx ident s) : Keeps s (execIdentify ctx ident s) := by
  unfold execIdentify
  refine onCore_keeps fun x => ?_
  refine Kept.trans ?_ (whenTrain_kept _ _ _ _ ?_)
  · exact Kept.refl _
  · intro y0 y1
    extract_lets +onlyGivenNames code3
    split
    · exact (contextDown_kept _ _ _).after (sendIdent_kept _ _ _ _)
    split
    · exact setCtx_kept _ _ _
    · exact (emit_kept _ _).after (setCtx_kept _ _ _)

theorem execPing_keeps (ctx s) : Keeps s (execPing ctx s) := by
  unfold execPing
  refine onCore_keeps fun x => ?_
  refine Kept.trans ?_ (whenTrain_kept _ _ _ _ ?_)
  · exact Kept.refl _
  · intro y0 y1
    exact emit_kept _ _

theorem execPong_keeps (ctx rttTenthsNs s) : Keeps s (execPong ctx rttTenthsNs s) := by
  unfold execPong
  refine onCore_keeps fun x => ?_
  refine Kept.trans ?_ (whenTrain_kept _ _ _ _ ?_)
  · exact Kept.refl _
  · intro y0 y1
    extract_lets +onlyGivenNames l3 s4
    have h4 : Kept y1 s4 := setCtx_kept _ _ _
    clear_value s4
    split
    · exact (emit_kept _ _).after h4
    split
    · exact (contextDown_kept _ _ _).after h4
    extract_lets +onlyGivenNames g5
    exact (emit_kept _ _).after ((setCtx_kept _ _ _).after h4)

theorem execInitialCredit_keeps (ctx req rsp strm s) : Keeps s (execInitialCredit ctx req rsp strm s) := by
  unfold execInitialCredit
  refine onCore_keeps fun x => ?_
  refine Kept.trans ?_ (whenTrain_kept _ _ _ _ ?_)
  · exact Kept.refl _
  · intro y0 y1
    extract_lets +onlyGivenNames g3
    exact setCtx_kept _ _ _

theorem execTrainingTimeout_keeps (ctx s) : Keeps s (execTrainingTimeout ctx s) := by
  unfold execTrainingTimeout
  refine onCore_keeps fun x => ?_
  split
  · exact Kept.refl _
  split
  · exact Kept.refl _
  · exact contextDown_kept _ _ _

theorem execLaneFail_keeps (ctx lane s) : Keeps s (execLaneFail ctx lane s) := by
  unfold execLaneFail
  refine onCore_keeps fun x => ?_
  split
  · exact Kept.refl _
  split
  · exact Kept.refl _
  extract_lets +onlyGivenNames h1 bad2 ok3
  split
  · extract_lets +onlyGivenNames half4 first5 again6 s7
    have h7 : Kept x s7 := setCtx_kept _ _ _
    clear_value s7
    split
    · exact (raise_kept _ _ _).after h7
    · exact h7
  · exact (contextDown_kept _ _ _).after (setCtx_kept _ _ _)

theorem execSpanSeqQuery_keeps (device ctx s) : Keeps s (execSpanSeqQuery device ctx s) := by
  unfold execSpanSeqQuery
  refine onCore_keeps fun x => ?_
  split
  · exact Kept.refl _
  split
  · exact Kept.refl _
  extract_lets +onlyGivenNames last1 s2
  have h2 : Kept x s2 := contextDown_kept _ _ _
  clear_value s2
  exact (control_kept _ _ _ _).after h2

theorem execSpanSeqAnswer_keeps (ctx seq s) : Keeps s (execSpanSeqAnswer ctx seq s) := by
  unfold execSpanSeqAnswer
  refine onCore_keeps fun x => ?_
  split
  · exact Kept.refl _
  split
  · exact Kept.refl _
  extract_lets +onlyGivenNames ahead1 l2
  split
  · exact Kept.refl _
  extract_lets +onlyGivenNames s3
  have h3 : Kept x s3 := setCtx_kept _ _ _
  clear_value s3
  extract_lets +onlyGivenNames old4 t5 src6_0 s6
  have h6 : Kept x s6 := h3.setPilot _
  clear_value s6
  split
  · exact h6
  · exact (raise_kept _ _ _).after h6

theorem execSpanAnswerTimeout_keeps (ctx s) : Keeps s (execSpanAnswerTimeout ctx s) := by
  unfold execSpanAnswerTimeout
  refine onCore_keeps fun x => ?_
  split
  · exact Kept.refl _
  split
  · split
    · extract_lets +onlyGivenNames d1 s2
      have h2 : Kept x s2 := setCtx_kept _ _ _
      clear_value s2
      split
      · exact h2.setRing _
      · exact (control_kept _ _ _ _).after h2
    · exact Kept.refl _
  · exact Kept.refl _

theorem execPlaneMatch_keeps (plane s) : Keeps s (execPlaneMatch plane s) := by
  unfold execPlaneMatch
  refine onCore_keeps fun x => ?_
  extract_lets +onlyGivenNames reqs1 m02 m3
  exact (Kept.refl x).setSw _

theorem execPilotQueuesApply_keeps (s) : Keeps s (execPilotQueuesApply s) :=
  onCore_keeps fun x => queuesApply_kept _

theorem execLatencySample_keeps (s) : Keeps s (execLatencySample s) := by
  unfold execLatencySample
  refine onCore_keeps fun x => ?_
  extract_lets +onlyGivenNames qs1
  refine Kept.foldl (fun y z => ?_) ?_
  · split
    · exact Kept.refl _
    extract_lets +onlyGivenNames cls2 k3 k4
    split
    · exact sampleQueue_kept _ _ _
    · exact Kept.refl _
  · exact Kept.refl _

theorem execContribReceive_keeps (g s) : Keeps s (execContribReceive g s) :=
  onCore_keeps fun x => takeSegment_kept _ _

theorem execPartialReceive_keeps (g s) : Keeps s (execPartialReceive g s) :=
  onCore_keeps fun x => takeSegment_kept _ _

theorem execResultReceive_keeps (g s) : Keeps s (execResultReceive g s) :=
  onCore_keeps fun x => (trySeals_kept _ _).after (takeFromDevice_kept _ _)

theorem execTileOpen_keeps (slot tile s) : Keeps s (execTileOpen slot tile s) := by
  unfold execTileOpen
  refine onCore_keeps fun x => ?_
  extract_lets +onlyGivenNames key1
  split
  · exact Kept.refl _
  split
  · exact Kept.refl _
  extract_lets +onlyGivenNames mine2 most3
  split
  · exact Kept.refl _
  extract_lets +onlyGivenNames src4_0 s4
  have h4 : Kept x s4 := setCrane_kept _ _ _
  clear_value s4
  refine Kept.trans ?_ (streamCredits_kept _)
  refine Kept.foldl (fun y z => ?_) ?_
  · exact takeSegment_kept _ _
  · exact h4

theorem execMemberTimeout_keeps (slot host s) : Keeps s (execMemberTimeout slot host s) := by
  unfold execMemberTimeout
  refine onCore_keeps fun x => ?_
  extract_lets +onlyGivenNames key1
  split
  · exact Kept.refl _
  split
  · exact Kept.refl _
  split
  · exact declareMember_kept _ _ _
  · exact Kept.refl _

theorem execExclusionNotice_keeps (slot host s) : Keeps s (execExclusionNotice slot host s) :=
  onCore_keeps fun x => noteExclusion_kept _ _ _

theorem execExclusionApply_keeps (slot host s) : Keeps s (execExclusionApply slot host s) := by
  unfold execExclusionApply
  refine onCore_keeps fun x => ?_
  extract_lets +onlyGivenNames key1
  split
  · exact Kept.refl _
  split
  · exact Kept.refl _
  split
  · exact (applyExclusion_kept _ _ _).after (setCrane_kept _ _ _)
  · exact Kept.refl _

theorem execEngineReadResponse_keeps (slot address poison data bad corrected s) :
    Keeps s (execEngineReadResponse slot address poison data bad corrected s) := by
  unfold execEngineReadResponse
  refine onCore_keeps fun x => ?_
  extract_lets +onlyGivenNames s1
  have h1 : Kept x s1 := stageErrors_kept _ _ _
  clear_value s1
  extract_lets +onlyGivenNames key2
  split
  · exact h1
  extract_lets +onlyGivenNames src3_0 s3
  have h3 : Kept x s3 := h1.setIng _
  clear_value s3
  extract_lets +onlyGivenNames d4 stale5 poisoned6
  split
  · exact h3
  · exact (trySeals_kept _ _).after ((jobLand_kept _ _).after ((landRead_kept _ _ _ _ _ _).after h3))

theorem execEngineJobStop_keeps (slot s) : Keeps s (execEngineJobStop slot s) := by
  unfold execEngineJobStop
  refine onCore_keeps fun x => ?_
  extract_lets +onlyGivenNames key1
  split
  · exact Kept.refl _
  split
  · split
    · exact endJob_kept _ _ _
    · exact Kept.refl _
  · exact Kept.refl _

theorem execAttemptStart_keeps (slot join s) : Keeps s (execAttemptStart slot join s) := by
  unfold execAttemptStart
  refine onCore_keeps fun x => ?_
  split
  · exact startAttempt_kept _ _
  · exact joinJob_kept _ _

theorem execLinkFrameTimeout_keeps (ctx s) : Keeps s (execLinkFrameTimeout ctx s) := by
  unfold execLinkFrameTimeout
  refine onCore_keeps fun x => ?_
  split
  · exact Kept.refl _
  extract_lets +onlyGivenNames old1 k2 k3
  refine Kept.foldl (fun y z => ?_) ?_
  · exact sendPlain_kept _ _ _
  · exact setCodec_kept _ _ _

theorem execLinkFrameReceive_keeps (ctx header payload s) : Keeps s (execLinkFrameReceive ctx header payload s) := by
  unfold execLinkFrameReceive
  refine onCore_keeps fun x => ?_
  split
  · exact Kept.refl _
  split
  · exact Kept.refl _
  extract_lets +onlyGivenNames k1 s2
  have h2 : Kept x s2 := setCodec_kept _ _ _
  clear_value s2
  split
  · extract_lets +onlyGivenNames s3
    have h3 : Kept x s3 := (useCycles_kept _ _ _ _).after h2
    clear_value s3
    exact (decodeFrame_kept _ _).after ((setBook_kept _ _ _ _).after h3)
  · exact h2

theorem execLinkFrameAck_keeps (ctx seq s) : Keeps s (execLinkFrameAck ctx seq s) := by
  unfold execLinkFrameAck
  refine onCore_keeps fun x => ?_
  split
  · exact Kept.refl _
  · exact setCodec_kept _ _ _

theorem execLinkFrameNack_keeps (ctx seq s) : Keeps s (execLinkFrameNack ctx seq s) := by
  unfold execLinkFrameNack
  refine onCore_keeps fun x => ?_
  split
  · exact Kept.refl _
  split
  · exact Kept.refl _
  extract_lets +onlyGivenNames s1
  have h1 : Kept x s1 := setCodec_kept _ _ _
  clear_value s1
  exact (raise_kept _ _ _).after ((sendPlain_kept _ _ _).after h1)

theorem execPrefetchBlockLand_keeps (slot layer shadow block generation poison header data s) :
    Keeps s (execPrefetchBlockLand slot layer shadow block generation poison header data s) := by
  unfold execPrefetchBlockLand
  refine onCore_keeps fun x => ?_
  extract_lets +onlyGivenNames key1
  split
  · exact Kept.refl _
  split
  · exact Kept.refl _
  split
  · exact Kept.refl _
  extract_lets +onlyGivenNames f2 n3 hd4 src5 idx6 ents7 gens8 here9 stale10
  split
  · exact Kept.refl _
  extract_lets +onlyGivenNames src11_0 s11
  have h11 : Kept x s11 := (Kept.refl x).setIng _
  clear_value s11
  extract_lets +onlyGivenNames v12 s13
  have h13 : Kept x s13 := (landBlock_kept _ _ _ _ _ _ _ _ _).after h11
  clear_value s13
  split
  · exact h13
  extract_lets +onlyGivenNames used14
  exact (streamPlan_kept _ _).after ((setJob_kept _ _).after h13)

theorem execFormRetranslate_keeps (slot layer shadow s) : Keeps s (execFormRetranslate slot layer shadow s) := by
  unfold execFormRetranslate
  refine onCore_keeps fun x => ?_
  extract_lets +onlyGivenNames key1
  split
  · exact Kept.refl _
  split
  · exact Kept.refl _
  extract_lets +onlyGivenNames gs2 delivering3 p4
  exact (streamPlan_kept _ _).after (setStream_kept _ _ _)

theorem execLayerChoice_keeps (slot s) : Keeps s (execLayerChoice slot s) := by
  unfold execLayerChoice
  refine onCore_keeps fun x => ?_
  extract_lets +onlyGivenNames key1
  split
  · exact Kept.refl _
  split
  · exact Kept.refl _
  extract_lets +onlyGivenNames b2 dl3 g4 ent5 tf6 ts7 full8 fullClean9 shadow10 shadowClean11 reg12 lost13
  split
  · exact Kept.refl _
  split
  · exact (stopJob_kept _ _ _).after (recordReason_kept _ _)
  split
  · exact openDelivery_kept _ _ _ _
  split
  · exact Kept.refl _
  split
  · exact openDelivery_kept _ _ _ _
  split
  · exact Kept.refl _
  split
  · exact openDelivery_kept _ _ _ _
  split
  · exact openDelivery_kept _ _ _ _
  split
  · exact openDelivery_kept _ _ _ _
  split
  · exact openDelivery_kept _ _ _ _
  · exact Kept.refl _

theorem execDeliveryClose_keeps (slot s) : Keeps s (execDeliveryClose slot s) := by
  unfold execDeliveryClose
  refine onCore_keeps fun x => ?_
  extract_lets +onlyGivenNames key1
  split
  · exact Kept.refl _
  split
  · exact Kept.refl _
  split
  · exact Kept.refl _
  split
  · exact Kept.refl _
  extract_lets +onlyGivenNames late2 s3
  have h3 : Kept x s3 := sendRecord'_kept _ _ _ _
  clear_value s3
  extract_lets +onlyGivenNames s4
  have h4 : Kept x s4 := by
    unfold s4
    split
    · exact (raise_kept _ _ _).after h3
    · exact h3
  clear_value s4
  extract_lets +onlyGivenNames next5 p_6 p_7 s8
  have h8 : Kept x s8 := (logProgress_kept _ _ _ _).after h4
  clear_value s8
  exact (streamPlan_kept _ _).after h8

theorem execStreamAbandoned_keeps (slot s) : Keeps s (execStreamAbandoned slot s) := by
  unfold execStreamAbandoned
  refine onCore_keeps fun x => ?_
  extract_lets +onlyGivenNames key1
  split
  · exact Kept.refl _
  split
  · exact Kept.refl _
  split
  · exact Kept.refl _
  extract_lets +onlyGivenNames ent2
  split
  · exact Kept.refl _
  extract_lets +onlyGivenNames s3
  have h3 : Kept x s3 := (raise_kept _ _ _).after (abandonDelivery_kept _ _ _)
  clear_value s3
  exact (openDelivery_kept _ _ _ _).after h3

theorem execTrayRequestTimeout_keeps (request s) : Keeps s (execTrayRequestTimeout request s) := by
  unfold execTrayRequestTimeout
  refine onCore_keeps fun x => ?_
  split
  · exact Kept.refl _
  split
  · exact Kept.refl _
  extract_lets +onlyGivenNames k1 l2 late3 src4_0 s4
  have h4 : Kept x s4 := (Kept.refl x).setHome _
  clear_value s4
  split
  · exact (declareModule_kept _ _ _ _).after h4
  · exact h4

theorem execModuleFailedNotice_keeps (device tray module count s) :
    Keeps s (execModuleFailedNotice device tray module count s) :=
  onCore_keeps fun x => (Kept.refl x).setHome _

theorem execFormatStep_keeps (groupId rows s) : Keeps s (execFormatStep groupId rows s) := by
  unfold execFormatStep
  refine onCore_keeps fun x => ?_
  split
  · exact formatRows_kept _ _ _ _
  · exact Kept.refl _

theorem execFormatDone_keeps (groupId s) : Keeps s (execFormatDone groupId s) := by
  unfold execFormatDone
  refine onCore_keeps fun x => ?_
  split
  · split
    · exact Kept.refl _
    split
    · exact endFormat_kept _ _ _
    · exact Kept.refl _
  · exact Kept.refl _

theorem execRebuildStep_keeps (groupId s) : Keeps s (execRebuildStep groupId s) := by
  unfold execRebuildStep
  refine onCore_keeps fun x => ?_
  split
  · exact Kept.refl _
  split
  · exact reportRebuild_kept _ _
  split
  · exact Kept.refl _
  · exact startRow_kept _ _ _ _

theorem execRebuildDoneReport_keeps (groupId device s) : Keeps s (execRebuildDoneReport groupId device s) := by
  unfold execRebuildDoneReport
  refine onCore_keeps fun x => ?_
  split
  · exact Kept.refl _
  · exact setRebuild_kept _ _

theorem execRebuildDone_keeps (groupId s) : Keeps s (execRebuildDone groupId s) :=
  onCore_keeps fun x => finishRebuild_kept _ _

theorem execResyncStep_keeps (entry s) : Keeps s (execResyncStep entry s) := by
  unfold execResyncStep
  refine onCore_keeps fun x => ?_
  split
  · exact Kept.refl _
  extract_lets +onlyGivenNames e1 l2 last3 c4 done5
  split
  · exact (Kept.refl x).setHome _
  extract_lets +onlyGivenNames src6_0 s6
  have h6 : Kept x s6 := (Kept.refl x).setHome _
  clear_value s6
  split
  · exact h6
  · exact (startRow_kept _ _ _ _).after h6

theorem execHeartbeatReceive_keeps (device s) : Keeps s (execHeartbeatReceive device s) := by
  unfold execHeartbeatReceive
  refine onCore_keeps fun x => ?_
  split
  · exact takeHeartbeat_kept _ _
  · exact Kept.refl _

theorem execHeartbeatTimeout_keeps (device s) : Keeps s (execHeartbeatTimeout device s) := by
  unfold execHeartbeatTimeout
  refine onCore_keeps fun x => ?_
  split
  · exact declareLost_kept _ _
  · exact Kept.refl _

theorem execHostDeath_keeps (host s) : Keeps s (execHostDeath host s) := by
  unfold execHostDeath
  refine onCore_keeps fun x => ?_
  split
  · exact Kept.refl _
  extract_lets +onlyGivenNames s1
  have h1 : Kept x s1 := by
    unfold s1
    split
    · exact (craneHostDead_kept _ _).after (hostDies_kept _ _)
    · exact Kept.refl _
  clear_value s1
  exact (closeWindows_kept _ _ _).after h1

theorem execResetRequest_keeps (device epoch s) : Keeps s (execResetRequest device epoch s) := by
  unfold execResetRequest
  refine Kept.keeps ?_
  split
  · exact Kept.refl _
  split
  · exact Kept.refl _
  split
  · exact (Kept.refl s).setRing _
  split
  · exact Kept.refl _
  · exact warmReset_kept _ _

theorem execReplica_keeps (fromDev msgId fragOffset last r s) : Keeps s (execReplica fromDev msgId fragOffset last r s) := by
  unfold execReplica
  refine onCore_keeps fun x => ?_
  extract_lets +onlyGivenNames r1 n2 mine3
  split
  · exact Kept.refl _
  split
  · split
    · exact Kept.refl _
    · exact answerAccept_kept _ _ _ _ _ _
  extract_lets +onlyGivenNames l4 src5_0 s5
  have h5 : Kept x s5 := (markHandled_kept _ _ _).after ((Kept.refl x).setAcc _)
  clear_value s5
  split
  · extract_lets +onlyGivenNames src6_0 s6
    have h6 : Kept x s6 := h5.setAcc _
    clear_value s6
    split
    · exact (answerAccept_kept _ _ _ _ _ _).after h6
    · exact (writeReplica_kept _ _ _).after h6
  · exact h5

theorem execReplicaAck_keeps (fromDev logSeq full s) : Keeps s (execReplicaAck fromDev logSeq full s) := by
  unfold execReplicaAck
  refine onCore_keeps fun x => ?_
  extract_lets +onlyGivenNames is1
  split
  · exact Kept.refl _
  split
  · exact Kept.refl _
  extract_lets +onlyGivenNames src2_0 gone2
  have h2 : Kept x gone2 := (Kept.refl x).setAcc _
  clear_value gone2
  extract_lets +onlyGivenNames key3 offered4
  split
  · split
    · exact (wakeOffers_kept _).after ((voidJob_kept _ _ _).after h2)
    · exact Kept.refl _
  · exact (wakeOffers_kept _).after ((recordSafe_kept _ _).after (h2.setAcc _))

theorem execReceiptClear_keeps (fromDev msgId jobDevice jobSlot s) :
    Keeps s (execReceiptClear fromDev msgId jobDevice jobSlot s) := by
  unfold execReceiptClear
  refine onCore_keeps fun x => ?_
  extract_lets +onlyGivenNames s1
  have h1 : Kept x s1 := by
    unfold s1
    split
    · exact Kept.refl _
    · exact (markHandled_kept _ _ _).after (clearHere_kept _ _)
  clear_value s1
  exact (answerAccept_kept _ _ _ _ _ _).after h1

theorem execClearAck_keeps (home jobDevice jobSlot s) : Keeps s (execClearAck home jobDevice jobSlot s) := by
  unfold execClearAck
  refine onCore_keeps fun x => ?_
  extract_lets +onlyGivenNames key1 src2_0 s2
  have h2 : Kept x s2 := (Kept.refl x).setAcc _
  clear_value s2
  split
  · exact h2
  extract_lets +onlyGivenNames j3
  split
  · exact (wakeOffers_kept _).after ((freeSlot_kept _ _).after ((setJob_kept _ _).after h2))
  · exact (setJob_kept _ _).after h2

theorem execReplicaResendTimeout_keeps (logSeq s) : Keeps s (execReplicaResendTimeout logSeq s) := by
  unfold execReplicaResendTimeout
  refine onCore_keeps fun x => ?_
  refine Kept.foldl (fun y z => ?_) ?_
  · exact resendOne_kept _ _
  · exact Kept.refl _

theorem execJobComplete_keeps (slot s) : Keeps s (execJobComplete slot s) := by
  unfold execJobComplete
  refine onCore_keeps fun x => ?_
  extract_lets +onlyGivenNames key1
  split
  · exact Kept.refl _
  split
  · exact endJob_kept _ _ _
  · exact Kept.refl _

theorem execSweepPageStep_keeps (charter entry page s) : Keeps s (execSweepPageStep charter entry page s) := by
  unfold execSweepPageStep
  refine onCore_keeps fun x => ?_
  split
  · exact Kept.refl _
  split
  · exact Kept.refl _
  split
  · split
    · exact (reportRotation_kept _ _).after ((setSweep_kept _ _).after (Kept.of (Kept.refl x) rfl rfl rfl rfl rfl rfl rfl rfl))
    · exact reportRotation_kept _ _
  split
  · exact (sweepPage_kept _ _ _).after (setSweep_kept _ _)
  · exact reportRotation_kept _ _

theorem execRotationDoneReport_keeps (charter device s) : Keeps s (execRotationDoneReport charter device s) :=
  onCore_keeps fun x => takeReport_kept _ _ _ _ _

theorem execRotationComplete_keeps (charter s) : Keeps s (execRotationComplete charter s) :=
  onCore_keeps fun x => finishRotation_kept _ _

theorem execRemovalDoneReport_keeps (charter device poisoned refused stopped s) :
    Keeps s (execRemovalDoneReport charter device poisoned refused stopped s) :=
  onCore_keeps fun x => takeReport_kept _ _ _ _ _

theorem execRemovalComplete_keeps (charter s) : Keeps s (execRemovalComplete charter s) :=
  onCore_keeps fun x => finishRemoval_kept _ _

theorem execHarbourKeyAgreement_keeps (ok key s) : Keeps s (execHarbourKeyAgreement ok key s) := by
  unfold execHarbourKeyAgreement
  refine onCore_keeps fun x => ?_
  extract_lets +onlyGivenNames waits1
  split
  · extract_lets +onlyGivenNames src2_0 s2
    have h2 : Kept x s2 := Kept.of (Kept.refl x) rfl rfl rfl rfl rfl rfl rfl rfl
    clear_value s2
    refine Kept.foldl (fun y z => ?_) ?_
    · extract_lets +onlyGivenNames s3
      have h3 : Kept y s3 := setNotice_kept _ _
      clear_value s3
      split
      · exact (commitReady_kept _ _).after h3
      · exact (control_kept _ _ _ _).after h3
    · exact h2
  refine Kept.foldl (fun y z => ?_) ?_
  · split
    · exact cancelIssued_kept _ _ _ _
    · exact control_kept _ _ _ _
  · exact Kept.refl _

theorem execPageMapTransfer_keeps (entry pages s) : Keeps s (execPageMapTransfer entry pages s) := by
  unfold execPageMapTransfer
  refine onCore_keeps fun x => ?_
  split
  · exact Kept.refl _
  extract_lets +onlyGivenNames kept1
  exact (Kept.refl x).setHome _

theorem execLighterRecord_keeps (lighter content sessionId counter authentic plaintext s) :
    Keeps s (execLighterRecord lighter content sessionId counter authentic plaintext s) := by
  unfold execLighterRecord
  refine onCore_keeps fun x => ?_
  extract_lets +onlyGivenNames x1 live2 known3
  split
  · exact Kept.refl _
  split
  · exact (passRecord_kept _ _ _).after (discardRecord_kept _ _ _)
  split
  · split
    · exact (passRecord_kept _ _ _).after (discardRecord_kept _ _ _)
    split
    · exact (passRecord_kept _ _ _).after (discardRecord_kept _ _ _)
    split
    · exact Kept.refl _
    extract_lets +onlyGivenNames y4 s5
    have h5 : Kept x s5 := (passRecord_kept _ _ _).after (setLighter_kept _ _ _)
    clear_value s5
    split
    · exact (lighterCommand_kept _ _ _).after h5
    split
    · exact (lighterTransaction_kept _ _).after h5
    · exact h5
  split
  · exact (passRecord_kept _ _ _).after (discardRecord_kept _ _ _)
  split
  · exact (passRecord_kept _ _ _).after (discardRecord_kept _ _ _)
  split
  · exact Kept.refl _
  extract_lets +onlyGivenNames y6 s7
  have h7 : Kept x s7 := (passRecord_kept _ _ _).after (setLighter_kept _ _ _)
  clear_value s7
  split
  · exact (lighterCommand_kept _ _ _).after h7
  split
  · exact (lighterTransaction_kept _ _).after h7
  · exact h7

theorem execLighterReadRetry_keeps (lighter s) : Keeps s (execLighterReadRetry lighter s) := by
  unfold execLighterReadRetry
  refine onCore_keeps fun x => ?_
  extract_lets +onlyGivenNames x1
  split
  · exact Kept.refl _
  split
  · exact lighterCode_kept _ _ _ _
  · exact (emit_kept _ _).after (setLighter_kept _ _ _)

theorem execMboxRead_keeps (tag offset length s) : Keeps s (execMboxRead tag offset length s) := by
  unfold execMboxRead
  refine onWindow_keeps fun x => ?_
  split
  · exact khlAnswer_kept _ _ _ _ _
  split
  · exact khlAnswer_kept _ _ _ _ _
  · exact khlAnswer_kept _ _ _ _ _

theorem execGetVersion_keeps (body s) : Keeps s (execGetVersion body s) :=
  onHm_keeps fun x => spdmAnswer_kept _ _ _

theorem execGetCapabilities_keeps (body s) : Keeps s (execGetCapabilities body s) :=
  onHm_keeps fun x => spdmAnswer_kept _ _ _

theorem execNegotiateAlgorithms_keeps (body s) : Keeps s (execNegotiateAlgorithms body s) :=
  onHm_keeps fun x => spdmAnswer_kept _ _ _

theorem execGetDigests_keeps (body s) : Keeps s (execGetDigests body s) :=
  onHm_keeps fun x => spdmAnswer_kept _ _ _

theorem execGetCertificate_keeps (slot offset length s) : Keeps s (execGetCertificate slot offset length s) := by
  unfold execGetCertificate
  refine onHm_keeps fun x => ?_
  extract_lets +onlyGivenNames c1
  split
  · exact spdmError_kept _ _
  extract_lets +onlyGivenNames part2
  exact spdmAnswer_kept _ _ _

theorem execChallenge_keeps (slot nonce s) : Keeps s (execChallenge slot nonce s) := by
  unfold execChallenge
  refine onHm_keeps fun x => ?_
  split
  · exact spdmError_kept _ _
  extract_lets +onlyGivenNames body1
  exact spdmAnswer_kept _ _ _

theorem execGetMeasurements_keeps (index nonce s) : Keeps s (execGetMeasurements index nonce s) := by
  unfold execGetMeasurements
  refine onHm_keeps fun x => ?_
  split
  · exact spdmError_kept _ _
  extract_lets +onlyGivenNames blocks1 body2
  exact spdmAnswer_kept _ _ _

theorem execKeyExchange_keeps (reqSession exchange s) : Keeps s (execKeyExchange reqSession exchange s) := by
  unfold execKeyExchange
  refine onHm_keeps fun x => ?_
  extract_lets +onlyGivenNames s1
  have h1 : Kept x s1 := by
    unfold s1
    split
    · exact Kept.refl _
    split
    · exact endSession_kept _ _
    · exact Kept.refl _
  clear_value s1
  extract_lets +onlyGivenNames id2 body3 x4 src5_0 s5
  have h5 : Kept x s5 := Kept.of h1 rfl rfl rfl rfl rfl rfl rfl rfl
  clear_value s5
  exact (spdmAnswer_kept _ _ _).after h5

theorem execFinish_keeps (sessionId verify s) : Keeps s (execFinish sessionId verify s) := by
  unfold execFinish
  refine onHm_keeps fun x => ?_
  split
  · exact spdmError_kept _ _
  split
  · extract_lets +onlyGivenNames f1
    exact (spdmAnswer_kept _ _ _).after (Kept.of (Kept.refl x) rfl rfl rfl rfl rfl rfl rfl rfl)
  · exact (spdmError_kept _ _).after (endSession_kept _ _)

theorem execSpdmUnsupported_keeps (code s) : Keeps s (execSpdmUnsupported code s) :=
  onHm_keeps fun x => spdmAnswer_kept _ _ _

theorem execProgramCommitAnswer_keeps (device code s) : Keeps s (execProgramCommitAnswer device code s) := by
  unfold execProgramCommitAnswer
  refine onHm_keeps fun x => ?_
  split
  · exact Kept.refl _
  extract_lets +onlyGivenNames c1
  exact settleCommit_kept _ _

theorem execProgramStageExpire_keeps (programId s) : Keeps s (execProgramStageExpire programId s) := by
  unfold execProgramStageExpire
  refine onHm_keeps fun x => ?_
  split
  · exact Kept.refl _
  split
  · exact unstage_kept _ _
  · exact Kept.refl _

theorem execFwImageReceive_keeps (issuer image holdupMv writeOk s) :
    Keeps s (execFwImageReceive issuer image holdupMv writeOk s) := by
  unfold execFwImageReceive
  refine onHm_keeps fun x => ?_
  extract_lets +onlyGivenNames p1
  have h1 : Kept x p1.2 := commitImage_kept _ _ _ _
  clear_value p1
  exact (emit_kept _ _).after h1

theorem execFwCommitAnswer_keeps (device code s) : Keeps s (execFwCommitAnswer device code s) := by
  unfold execFwCommitAnswer
  refine onHm_keeps fun x => ?_
  split
  · exact Kept.refl _
  split
  · exact Kept.refl _
  · exact settleFw_kept _ _

theorem execFwPostReadyWrites_keeps (holdupMv s) : Keeps s (execFwPostReadyWrites holdupMv s) := by
  unfold execFwPostReadyWrites
  refine onHm_keeps fun x => ?_
  split
  · exact Kept.refl _
  · exact (postReady_kept _ _ _).after (noteHoldup_kept _ _)

theorem execFwSelectPending_keeps (holdupMv s) : Keeps s (execFwSelectPending holdupMv s) := by
  unfold execFwSelectPending
  refine onHm_keeps fun x => ?_
  split
  · exact (postReady_kept _ _ _).after (noteHoldup_kept _ _)
  · exact Kept.refl _

theorem execFwDoneReport_keeps (device s) : Keeps s (execFwDoneReport device s) :=
  onCore_keeps fun x => fwDone_kept _ _

theorem execCmdTailWrite_keeps (mailbox value s) : Keeps s (execCmdTailWrite mailbox value s) :=
  onWindow_keeps fun x => writeCmdTail_kept _ _ _

theorem execCplHeadWrite_keeps (mailbox value s) : Keeps s (execCplHeadWrite mailbox value s) :=
  onWindow_keeps fun x => writeCplHead_kept _ _ _

theorem execEvHeadWrite_keeps (value s) : Keeps s (execEvHeadWrite value s) :=
  onWindow_keeps fun x => writeEvHead_kept _ _

theorem execReasonClear_keeps (value s) : Keeps s (execReasonClear value s) :=
  onWindow_keeps fun x => writeReasonClear_kept _ _

theorem execLighterEnable_keeps (lighter value s) : Keeps s (execLighterEnable lighter value s) :=
  onWindow_keeps fun x => writeLighterCtl_kept _ _ _

theorem execInTailWrite_keeps (lighter value s) : Keeps s (execInTailWrite lighter value s) :=
  onWindow_keeps fun x => writeInTail_kept _ _ _

theorem execOutHeadWrite_keeps (lighter value s) : Keeps s (execOutHeadWrite lighter value s) :=
  onWindow_keeps fun x => writeOutHead_kept _ _ _

theorem execTideCountLowRead_keeps (tag s) : Keeps s (execTideCountLowRead tag s) := by
  unfold execTideCountLowRead
  refine onWindow_keeps fun x => ?_
  extract_lets +onlyGivenNames c1
  exact (khlAnswer_kept _ _ _ _ _).after ((Kept.refl x).setTide _)

theorem execRegisterWrite_keeps (offset width value s) : Keeps s (execRegisterWrite offset width value s) := by
  unfold execRegisterWrite
  refine onWindow_keeps fun x => ?_
  extract_lets +onlyGivenNames v1
  split
  · exact recordReason_kept _ _
  split
  · exact regWrite4_kept _ _ _
  · exact (regWrite4_kept _ _ _).after (regWrite4_kept _ _ _)

theorem execLifeboatStatus_keeps (path issueId param s) : Keeps s (execLifeboatStatus path issueId param s) :=
  (lbReport_kept _ _ _ _ _ _).keeps

theorem execFreeze_keeps (path issueId param s) : Keeps s (execFreeze path issueId param s) :=
  lbDone_keeps fun x => freezeDevice_kept _

theorem execDumpSnapshot_keeps (path issueId param s) : Keeps s (execDumpSnapshot path issueId param s) := by
  unfold execDumpSnapshot
  refine lbExclusive_keeps fun x => ?_
  refine Kept.trans ?_ (lbBegin_kept _ _ _ _ _ _ ?_)
  · exact Kept.refl _
  · intro y0
    exact Kept.of (Kept.refl y0) rfl rfl rfl rfl rfl rfl rfl rfl

theorem execZeroizeCharter_keeps (path issueId param s) : Keeps s (execZeroizeCharter path issueId param s) := by
  unfold execZeroizeCharter
  refine lbDone_keeps fun x => ?_
  split
  · exact zeroize_kept _ _
  · exact Kept.refl _

theorem execZeroizeAll_keeps (path issueId param s) : Keeps s (execZeroizeAll path issueId param s) := by
  unfold execZeroizeAll
  refine lbDone_keeps fun x => ?_
  split
  · exact Kept.refl _
  extract_lets +onlyGivenNames s1
  have h1 : Kept x s1 := by
    unfold s1
    refine Kept.foldl (fun y z => ?_) ?_
    · exact zeroize_kept _ _
    · exact Kept.refl _
  clear_value s1
  extract_lets +onlyGivenNames l2
  exact Kept.of h1 rfl rfl rfl rfl rfl rfl rfl rfl

theorem execRingBypassClose_keeps (path issueId param s) : Keeps s (execRingBypassClose path issueId param s) :=
  lbDone_keeps fun x => closeBypass_kept _

theorem execSubsystemReset_keeps (path issueId param s) : Keeps s (execSubsystemReset path issueId param s) := by
  unfold execSubsystemReset
  refine lbExclusive_keeps fun x => ?_
  extract_lets +onlyGivenNames s1
  have h1 : Kept x s1 := by
    unfold s1
    split
    · exact Kept.refl _
    split
    · exact resetEngines_kept _ _
    split
    · exact resetHarbour_kept _
    · exact resetTelemetry_kept _
  clear_value s1
  refine Kept.trans ?_ (lbBegin_kept _ _ _ _ _ _ ?_)
  · exact h1
  · intro y1
    exact Kept.of (Kept.refl y1) rfl rfl rfl rfl rfl rfl rfl rfl

theorem execReadMeasurements_keeps (path issueId param s) : Keeps s (execReadMeasurements path issueId param s) := by
  unfold execReadMeasurements
  refine lbExclusive_keeps fun x => ?_
  extract_lets +onlyGivenNames all1
  refine Kept.trans ?_ (lbBegin_kept _ _ _ _ _ _ ?_)
  · exact Kept.refl _
  · intro y1
    exact Kept.of (Kept.refl y1) rfl rfl rfl rfl rfl rfl rfl rfl

theorem execWarmReset_keeps (ring s) : Keeps s (execWarmReset ring s) := by
  unfold execWarmReset
  refine Kept.keeps ?_
  split
  · exact Kept.refl _
  · exact warmReset_kept _ _

theorem execResetRelease_keeps (bank0Ok bank1Ok ssdOk stageOk bad corrected s) :
    Keeps s (execResetRelease bank0Ok bank1Ok ssdOk stageOk bad corrected s) := by
  unfold execResetRelease
  refine Kept.keeps ?_
  split
  · exact Kept.refl _
  split
  · exact (stageErrors_kept _ _ _).after (bootFrom_kept _ _)
  extract_lets +onlyGivenNames src1_0 src1_1 src1_2 s1
  have h1 : Kept s s1 := by
    unfold s1
    split
    · exact Kept.of (Kept.refl s) rfl rfl rfl rfl rfl rfl rfl rfl
    · exact Kept.refl _
  clear_value s1
  extract_lets +onlyGivenNames s2
  have h2 : Kept s s2 := (bootSsd_kept _ _ _ _).after h1
  clear_value s2
  split
  · exact h2
  split
  · exact (untrained_kept _).after h2
  · exact (stageErrors_kept _ _ _).after h2

theorem execThermalLimit_keeps (high s) : Keeps s (execThermalLimit high s) := by
  unfold execThermalLimit
  refine onHm_keeps fun x => ?_
  split
  · exact Kept.refl _
  extract_lets +onlyGivenNames src1_0 s1
  have h1 : Kept x s1 := Kept.of (Kept.refl x) rfl rfl rfl rfl rfl rfl rfl rfl
  clear_value s1
  split
  · exact (raise_kept _ _ _).after h1
  · exact h1

theorem execBoardDeclWrite_keeps (decl s) : Keeps s (execBoardDeclWrite decl s) := by
  unfold execBoardDeclWrite
  refine Kept.keeps ?_
  extract_lets +onlyGivenNames cap1 vmin2 good3
  split
  · exact recordReason_kept _ _
  · exact Kept.of (Kept.refl s) rfl rfl rfl rfl rfl rfl rfl rfl

theorem execPmbusOther_keeps (command s) : Keeps s (execPmbusOther command s) :=
  (emit_kept _ _).keeps

theorem execTapInstruction_keeps (code s) : Keeps s (execTapInstruction code s) := by
  unfold execTapInstruction
  refine Kept.keeps ?_
  split
  · exact Kept.refl _
  extract_lets +onlyGivenNames c1
  exact (emit_kept _ _).after (Kept.of (Kept.refl s) rfl rfl rfl rfl rfl rfl rfl rfl)

theorem execGroupDegraded_keeps (s) : Keeps s (execGroupDegraded s) :=
  onCore_keeps fun x => degradeGroups_kept _

theorem execHeartbeatSend_keeps (s) : Keeps s (execHeartbeatSend s) := by
  unfold execHeartbeatSend
  refine onCore_keeps fun x => ?_
  split
  · exact Kept.refl _
  · exact (control_kept _ _ _ _).after (takeHeartbeat_kept _ _)

theorem execLossBoundary_keeps (s) : Keeps s (execLossBoundary s) :=
  onCore_keeps fun x => lossesDue_kept _

theorem execAsyncResend_keeps (s) : Keeps s (execAsyncResend s) := by
  unfold execAsyncResend
  refine onCore_keeps fun x => ?_
  refine Kept.foldl (fun y z => ?_) ?_
  · extract_lets +onlyGivenNames src1_0 s1
    have h1 : Kept y s1 := (Kept.refl y).setAcc _
    clear_value s1
    exact (sendAgain_kept _ _).after h1
  · exact Kept.refl _

theorem execLogbookReplay_keeps (s) : Keeps s (execLogbookReplay s) := by
  unfold execLogbookReplay
  refine onCore_keeps fun x => ?_
  split
  · exact replay_kept _
  · exact Kept.refl _

theorem execKeyEpochTurn_keeps (s) : Keeps s (execKeyEpochTurn s) := by
  unfold execKeyEpochTurn
  refine onCore_keeps fun x => ?_
  split
  · exact applyDue_kept _ _
  · exact Kept.refl _

theorem execConfidentialEntry_keeps (s) : Keeps s (execConfidentialEntry s) :=
  onCore_keeps fun x => enterConfidential_kept _

theorem execFwStageExpire_keeps (s) : Keeps s (execFwStageExpire s) := by
  unfold execFwStageExpire
  refine onCore_keeps fun x => ?_
  split
  · exact Kept.refl _
  split
  · exact Kept.of (Kept.refl x) rfl rfl rfl rfl rfl rfl rfl rfl
  · exact Kept.refl _

theorem execFwActivation_keeps (s) : Keeps s (execFwActivation s) := by
  unfold execFwActivation
  refine onCore_keeps fun x => ?_
  split
  · exact applyDue_kept _ _
  · exact Kept.refl _

theorem execHmWatchdog_keeps (s) : Keeps s (execHmWatchdog s) := by
  unfold execHmWatchdog
  refine Kept.keeps ?_
  split
  · exact (raise_kept _ _ _).after (Kept.of (Kept.refl s) rfl rfl rfl rfl rfl rfl rfl rfl)
  · exact Kept.refl _

theorem execHmHeartbeat_keeps (s) : Keeps s (execHmHeartbeat s) := by
  unfold execHmHeartbeat
  refine onCore_keeps fun x => ?_
  split
  · exact Kept.refl _
  · exact Kept.of (Kept.refl x) rfl rfl rfl rfl rfl rfl rfl rfl

theorem execFirmwareReady_keeps (s) : Keeps s (execFirmwareReady s) := by
  unfold execFirmwareReady
  refine onCore_keeps fun x => ?_
  split
  · exact Kept.refl _
  · exact becomeReady_kept _

theorem execInputPowerReturn_keeps (s) : Keeps s (execInputPowerReturn s) :=
  ⟨_, rfl, Kept.toC (Kept.of (Kept.refl s) rfl rfl rfl rfl rfl rfl rfl rfl)⟩

theorem execOneSecondPeriodEnd_keeps (s) : Keeps s (execOneSecondPeriodEnd s) := by
  unfold execOneSecondPeriodEnd
  refine onCore_keeps fun x => ?_
  extract_lets +onlyGivenNames p1 shown2
  exact (flushSummaries_kept _ _).after (Kept.of (Kept.refl x) rfl rfl rfl rfl rfl rfl rfl rfl)

theorem execLbStatusRead_keeps (s) : Keeps s (execLbStatusRead s) :=
  ⟨_, rfl, Kept.toC (Kept.of (Kept.refl s) rfl rfl rfl rfl rfl rfl rfl rfl)⟩

theorem execStatusWord_keeps (s) : Keeps s (execStatusWord s) :=
  ((emit_kept _ _).after (draw_kept _)).keeps

theorem execReadTemperature1_keeps (s) : Keeps s (execReadTemperature1 s) :=
  ((emit_kept _ _).after (draw_kept _)).keeps

theorem execReadPout_keeps (s) : Keeps s (execReadPout s) :=
  (emit_kept _ _).keeps

theorem execBerthConfigure_keeps (h berth n ctxs s) : Keeps s (execBerthConfigure h berth n ctxs s) := by
  unfold execBerthConfigure
  refine onFw_keeps fun x => ?_
  extract_lets +onlyGivenNames wide stays
  split
  · exact result_kept _ _ _ _ _
  split
  · exact result_kept _ _ _ _ _
  split
  · exact result_kept _ _ _ _ _
  extract_lets +onlyGivenNames src s1 r
  have h1 : Kept x s1 := (Kept.refl x).setPorts _
  have hr : Kept x r.2 := by
    refine Kept.foldlP (fun p : Nat × State => p.2) (fun y z => ?_) h1
    split
    · exact Kept.refl _
    · exact configCtx_kept _ _ _ _ _
  exact (result_kept _ _ _ _ _).after hr

theorem execTideSetLength_keeps (h code atTide s) : Keeps s (execTideSetLength h code atTide s) := by
  unfold execTideSetLength
  split
  · exact onFw_keeps fun x => result_kept _ _ _ _ _
  · exact changeCommand_keeps fun x => just_kept _ _

theorem execProgramCommit_keeps (h programId totalLength deviceMask s) :
    Keeps s (execProgramCommit h programId totalLength deviceMask s) := by
  unfold execProgramCommit
  refine onFw_keeps fun x => ?_
  extract_lets mask devs away fail
  have hfail : ∀ c y, Kept y (fail c y) := fun c y => (result_kept _ _ _ _ _).after (unstage_kept _ _)
  split
  · exact hfail _ _
  extract_lets c
  split
  · exact hfail _ _
  split
  · exact hfail _ _
  split
  · exact hfail _ _
  · exact (settleCommit_kept _ _).after (tellAbout_kept _ _ _ _)

theorem execMarkerMissed_keeps (s) : Keeps s (execMarkerMissed s) := by
  unfold execMarkerMissed
  refine onCore_keeps fun x => ?_
  split
  · exact Kept.refl _
  extract_lets +onlyGivenNames m src s1
  have h1 : Kept x s1 := (Kept.refl x).setTide _
  split
  · exact h1.setTide _
  split
  · exact (loseLock_kept _).after h1
  · exact h1

theorem execSnoopAnswer_keeps (slot s) : Keeps s (execSnoopAnswer slot s) := by
  unfold execSnoopAnswer
  refine Kept.keeps ?_
  split
  · exact emit_kept _ _
  split
  · exact Kept.refl _
  split
  · exact forwardSlot_kept _ _
  split
  · exact (forwardSlot_kept _ _).after (countStale_kept _)
  extract_lets +onlyGivenNames r
  have hr : Kept s r.2.1 := by
    unfold r
    split
    · exact Kept.foldlP (fun p : Bytes × State × Nat => p.2.1) (fun y z => answerSnoop_kept _ _ _) (Kept.refl s)
    · exact Kept.refl _
  exact (forwardSlot_kept _ _).after hr

theorem execSlotReturn_keeps (slot s) : Keeps s (execSlotReturn slot s) := by
  unfold execSlotReturn
  refine Kept.keeps ?_
  obtain ⟨east, position, slot⟩ := slot
  extract_lets +onlyGivenNames east' position' slot'
  split
  · cases slot
    · exact Kept.refl _
    · exact emit_kept _ _
  extract_lets +onlyGivenNames good kind n
  split
  · cases slot
    · exact Kept.refl _
    · exact forwardSlot_kept _ _
  extract_lets +onlyGivenNames src s1 src' s2
  have h1 : Kept s s1 := by
    unfold s1
    split
    · exact (Kept.refl s).setRing _
    · exact Kept.refl _
  have h2 : Kept s s2 := by
    unfold s2
    split
    · exact h1
    split
    · exact h1.setRing _
    · exact (reissue_kept _ _).after h1
  exact (fillSlot_kept _ _ _).after h2

theorem execMboxWrite_keeps (tag offset data s) : Keeps s (execMboxWrite tag offset data s) := by
  unfold execMboxWrite
  refine onWindow_keeps fun x => ?_
  split
  · exact khlAnswer_kept _ _ _ _ _
  split
  · exact khlAnswer_kept _ _ _ _ _
  · exact (khlAnswer_kept _ _ _ _ _).after ((Kept.refl x).by rfl id (mwrite_wf _ _ _) rfl rfl rfl le_rfl id)

theorem execProgramImageReceive_keeps (issuer image s) : Keeps s (execProgramImageReceive issuer image s) := by
  unfold execProgramImageReceive
  refine onCore_keeps fun x => ?_
  extract_lets +onlyGivenNames kind image answer id devs
  have hanswer : ∀ c y, Kept y (answer c y) := fun c y => (emit_kept _ _).after (recordReason_kept _ _)
  split
  · extract_lets +onlyGivenNames c c'
    split
    · exact hanswer _ _
    · exact (hanswer _ _).after (install_kept _ _ _)
  split
  · exact dropPending_kept _ _
  split
  · exact setHolders_kept _ _ _
  split
  · split
    · exact hanswer _ _
    · exact (hanswer _ _).after (setHolders_kept _ _ _)
  split
  · split
    · exact dropProgram_kept _ _
    · exact setHolders_kept _ _ _
  split
  · exact hanswer _ _
  · exact Kept.refl _

theorem execLifeboatLogbookFlush_keeps (path issueId param holdupMv s) :
    Keeps s (execLifeboatLogbookFlush path issueId param holdupMv s) := by
  unfold execLifeboatLogbookFlush
  refine lbExclusive_keeps fun x => ?_
  extract_lets +onlyGivenNames p
  have hp : Kept x p.2 := (startFlush_kept _ _ _).after (freezeDevice_kept _)
  clear_value p
  split
  · exact (lbReport_kept _ _ _ _ _ _).after
      (Kept.mapIsl (fun i => { i with exclusive := some 7 }) (fun _ => rfl) (fun _ => rfl) (fun _ => rfl) hp)
  · exact (lbBegin_kept _ _ _ _ _ _ Kept.refl).after hp

theorem execHoldupFail_keeps (holdupMv s) : Keeps s (execHoldupFail holdupMv s) := by
  unfold execHoldupFail
  refine Kept.keeps ?_
  extract_lets +onlyGivenNames src s1
  have h1 : Kept s s1 := Kept.of (Kept.refl s) rfl rfl rfl rfl rfl rfl rfl rfl
  clear_value s1
  split
  · exact Kept.mapIsl (fun i => { i with pwrSafe := true }) (fun _ => rfl) (fun _ => rfl) (fun _ => rfl) h1
  extract_lets +onlyGivenNames src' p
  have hp : Kept s p.2 :=
    (startFlush_kept _ _ _).after (Kept.mapHm (fun m => { m with frozen := true }) (fun _ => rfl) h1)
  clear_value p
  split
  · exact hp
  · exact Kept.mapIsl (fun i => { i with pwrSafe := true }) (fun _ => rfl) (fun _ => rfl) (fun _ => rfl) hp

theorem execRailFault_keeps (rail s) : Keeps s (execRailFault rail s) := by
  unfold execRailFault
  refine Kept.keeps ?_
  split
  · exact Kept.refl _
  exact Kept.mapIsl
    (fun i => { islandReset .cold i with held := true, alert := true, cause := 0x1113, rail := rail,
                                         corePower := i.corePower && decide (rail ≠ 2) })
    (fun _ => rfl) (fun _ => rfl) (fun _ => rfl) (raise_kept 0x1113 [(evDetail, rail)] s)

theorem execThermtrip_keeps (s) : Keeps s (execThermtrip s) := by
  unfold execThermtrip
  exact (Kept.mapIsl (fun i => { islandReset .cold i with held := true, thermtrip := true, cause := 0x1112 })
    (fun _ => rfl) (fun _ => rfl) (fun _ => rfl) (raise_kept 0x1112 [] s)).keeps

/-! The flush owners and the device's own reset. -/

/-- A latch that stands, the core not being held cold, was not cleared. -/
theorem KeptC.kept_of_not_cold {s t : State} (h : KeptC s t) (hc : t.isl.resetState ≠ .cold) : Kept s t :=
  ⟨h.queue, h.stage, h.mbox, h.devid, h.addr, h.serial, h.floor, fun x => (h.latch x).resolve_right hc⟩

/-- What is left in a cold reset is judged by its end alone. -/
theorem KeptC.trans_cold {s t u : State} (h : KeptC s t) (k : KeptC t u) (hc : u.isl.resetState = .cold) : KeptC s u :=
  ⟨k.queue.trans h.queue, k.stage ∘ h.stage, k.mbox ∘ h.mbox, k.devid.trans h.devid, k.addr.trans h.addr,
   k.serial.trans h.serial, le_trans h.floor k.floor, fun _ => Or.inr hc⟩

theorem settleOwner_kept {o : FlushOwner} (ho : o ≠ .selfReset) (code : Nat) (s : State) :
    Kept s (settleOwner code o s) := by
  cases o with
  | command h => exact result_kept _ _ _ _ _
  | lifeboat w => exact (endLbFlush_kept _ _ _).after (recordReason_kept _ _)
  | powerFail => exact Kept.of (Kept.refl s) rfl rfl rfl rfl rfl rfl rfl rfl
  | selfReset => exact absurd rfl ho

theorem coldReset_resetState (vstby : Bool) (cause : Nat) (s : State) :
    (coldReset vstby cause s).isl.resetState = .cold := by
  cases vstby <;> rfl

theorem foldl_settleOwner_kept {code : Nat} {l : List FlushOwner} (hl : ∀ o ∈ l, o ≠ .selfReset) (s : State) :
    Kept s (l.foldl (fun s o => settleOwner code o s) s) := by
  induction l generalizing s with
  | nil => exact Kept.refl _
  | cons o r ih =>
    exact (settleOwner_kept (hl o List.mem_cons_self) code s).trans (ih (fun p hp => hl p (List.mem_cons_of_mem _ hp)) _)

/-- The device's own resets, one after the other, leave the core held cold. -/
theorem foldl_selfReset_keptC {code : Nat} {l : List FlushOwner} (hl : ∀ o ∈ l, o = .selfReset) (s : State) :
    KeptC s (l.foldl (fun s o => settleOwner code o s) s) := by
  induction l using List.reverseRecOn with
  | nil => exact (Kept.refl s).toC
  | append_singleton r o ih =>
    have ho : o = .selfReset := hl o (by simp)
    rw [List.foldl_append, ho]
    exact (ih fun p hp => hl p (by simp [hp])).trans_cold (coldReset_keptC _ _ _) (coldReset_resetState _ _ _)

theorem settleFlush_keptC (code : Nat) (l : List FlushOwner) (s : State) : KeptC s (settleFlush code l s) := by
  unfold settleFlush
  extract_lets own
  have hown : ∀ o, own o = true ↔ o = .selfReset := by
    intro o
    cases o <;> simp [own]
  rw [List.foldl_append]
  refine (foldl_settleOwner_kept (fun o ho => ?_) s).thenC (foldl_selfReset_keptC (fun o ho => ?_) _)
  · intro h
    have := (List.mem_filter.mp ho).2
    simp [(hown o).mpr h] at this
  · exact (hown o).mp (List.mem_filter.mp ho).2

/-- A core that runs is in no reset. -/
theorem not_cold_of_coreRuns {s : State} (h : coreRuns s = true) : s.isl.resetState ≠ .cold := by
  simp only [coreRuns, Bool.and_eq_true, decide_eq_true_eq] at h
  simp [h.2]

theorem execFlushComplete_keeps (ok s) : Keeps s (execFlushComplete ok s) := by
  unfold execFlushComplete
  refine ⟨_, rfl, ?_⟩
  split
  · exact (Kept.refl _).toC
  extract_lets +onlyGivenNames p t
  have ht : KeptC s t := (endFlush_kept ok s).thenC (settleFlush_keptC _ _ _)
  clear_value p t
  split
  next hrun => exact ((wakeOffers_kept _).after (ht.kept_of_not_cold (not_cold_of_coreRuns hrun))).toC
  next => exact ht

theorem execColdReset_keeps (vstby s) : Keeps s (execColdReset vstby s) := ⟨_, rfl, coldReset_keptC _ _ _⟩

theorem execTransmitSlot_keeps (ctx eccError s) : Keeps s (execTransmitSlot ctx eccError s) := by
  unfold execTransmitSlot
  refine onCore_keepsC ?_
  split
  · exact (Kept.refl _).toC
  split
  · split
    · exact (Kept.refl _).toC
    split
    · exact (Kept.refl _).toC
    split
    · exact selfReset_keptC _
    extract_lets t
    exact ((transmit_kept _ _ _ _ _).after ((Kept.refl s).setPilot _)).toC
  extract_lets +onlyGivenNames s1
  have h1 : Kept s s1 := refreshFair_kept _ _
  clear_value s1
  split
  · exact ((nameNext_kept _ _).after h1).toC
  split
  · exact h1.toC
  split
  · exact h1.thenC (selfReset_keptC _)
  extract_lets +onlyGivenNames s2 s3
  have h2 : Kept s s2 := (useMatch_kept _ _ _).after ((chargeSend_kept _ _).after h1)
  have h3 : Kept s s3 := (transmit_kept _ _ _ _ _).after h2
  clear_value s2 s3
  exact ((nameNext_kept _ _).after ((dropCells_kept _ _).after h3)).toC

/-- Every command answers with a state, and keeps what every operation keeps. -/
theorem exec_keeps (s : State) : ∀ c : Instr, Keeps s (exec c s)
  | .mboxPad mailbox => execMboxPad_keeps mailbox s
  | .mboxNop h => execMboxNop_keeps h s
  | .commandTake mailbox => execCommandTake_keeps mailbox s
  | .berthConfigure h berth split ctxs => execBerthConfigure_keeps h berth split ctxs s
  | .linkCodec h ctx classMask elemWidth maxWait => execLinkCodec_keeps h ctx classMask elemWidth maxWait s
  | .switchForwarding h ctx modes => execSwitchForwarding_keeps h ctx modes s
  | .mirrorSession h session target src => execMirrorSession_keeps h session target src s
  | .sampleConfigure h ctx egress n => execSampleConfigure_keeps h ctx egress n s
  | .pilotQueues h ctx cls pool count select => execPilotQueues_keeps h ctx cls pool count select s
  | .pilotClass h cls alpha kind delayTarget k => execPilotClass_keeps h cls alpha kind delayTarget k s
  | .pilotPort h ctx weights overhead => execPilotPort_keeps h ctx weights overhead s
  | .pilotPilotq h b => execPilotPilotq_keeps h b s
  | .pilotHost h host maxOutstanding rate burst => execPilotHost_keeps h host maxOutstanding rate burst s
  | .pilotStats h user first count clear => execPilotStats_keeps h user first count clear s
  | .manifestMap h index e atTide => execManifestMap_keeps h index e atTide s
  | .manifestRevoke h index atTide => execManifestRevoke_keeps h index atTide s
  | .manifestWindow h charter win w atTide => execManifestWindow_keeps h charter win w atTide s
  | .manifestSync h source boundary entries windows route routeEpoch => execManifestSync_keeps h source boundary entries windows route routeEpoch s
  | .routeCommit h m atTide => execRouteCommit_keeps h m atTide s
  | .compositionSet h c m atTide => execCompositionSet_keeps h c m atTide s
  | .roleShift h host group join leave atTide => execRoleShift_keeps h host group join leave atTide s
  | .tideSetLength h code atTide => execTideSetLength_keeps h code atTide s
  | .redundancyGroup h delete g atTide => execRedundancyGroup_keeps h delete g atTide s
  | .redundancyFormat h groupId limit atTide => execRedundancyFormat_keeps h groupId limit atTide s
  | .redundancyReplace h groupId member device tray module rate atTide => execRedundancyReplace_keeps h groupId member device tray module rate atTide s
  | .charterCreate h charter confidential keySource key atTide => execCharterCreate_keeps h charter confidential keySource key atTide s
  | .charterMembers h charter add remove atTide => execCharterMembers_keeps h charter add remove atTide s
  | .charterRotate h charter keySource rate key atTide => execCharterRotate_keeps h charter keySource rate key atTide s
  | .charterRevoke h charter atTide => execCharterRevoke_keeps h charter atTide s
  | .confidentialEnter h => execConfidentialEnter_keeps h s
  | .jobqOpen h queue mailbox => execJobqOpen_keeps h queue mailbox s
  | .jobqClose h queue owner => execJobqClose_keeps h queue owner s
  | .craneCollective h d => execCraneCollective_keeps h d s
  | .stevedoreMove h d => execStevedoreMove_keeps h d s
  | .customsScan h d => execCustomsScan_keeps h d s
  | .customsScore h d => execCustomsScore_keeps h d s
  | .customsMerge h d => execCustomsMerge_keeps h d s
  | .codecEncode h d => execCodecEncode_keeps h d s
  | .codecDecode h d => execCodecDecode_keeps h d s
  | .streamSchedule h d => execStreamSchedule_keeps h d s
  | .streamStop h slot => execStreamStop_keeps h slot s
  | .tierPlace h d => execTierPlace_keeps h d s
  | .tierDrop h objectId stageAddr => execTierDrop_keeps h objectId stageAddr s
  | .tierMigrate h tier charter objectId srcVa bytes dst atTide => execTierMigrate_keeps h tier charter objectId srcVa bytes dst atTide s
  | .tierQuery h objectId => execTierQuery_keeps h objectId s
  | .copyRun h d => execCopyRun_keeps h d s
  | .programKeyEnroll h slot key => execProgramKeyEnroll_keeps h slot key s
  | .programKeyClear h slot => execProgramKeyClear_keeps h slot s
  | .programLoadBlock h programId offset data => execProgramLoadBlock_keeps h programId offset data s
  | .programCommit h programId totalLength deviceMask => execProgramCommit_keeps h programId totalLength deviceMask s
  | .programUnload h programId deviceMask => execProgramUnload_keeps h programId deviceMask s
  | .programQuery h programId => execProgramQuery_keeps h programId s
  | .fwLoadBlock h offset data => execFwLoadBlock_keeps h offset data s
  | .fwCommit h totalLength deviceMask holdupMv writeOk => execFwCommit_keeps h totalLength deviceMask holdupMv writeOk s
  | .fwActivateAt h deviceMask release atTide => execFwActivateAt_keeps h deviceMask release atTide s
  | .fwMeasurements h start => execFwMeasurements_keeps h start s
  | .fwStatus h => execFwStatus_keeps h s
  | .logbookFlush h holdupMv => execLogbookFlush_keeps h holdupMv s
  | .telemetrySamples h => execTelemetrySamples_keeps h s
  | .telemetryCounters h group start => execTelemetryCounters_keeps h group start s
  | .domainChangeNotice id c atTide => execDomainChangeNotice_keeps id c atTide s
  | .domainChangeReady number member ok code => execDomainChangeReady_keeps number member ok code s
  | .domainChangeCommit id => execDomainChangeCommit_keeps id s
  | .domainChangeCancel id => execDomainChangeCancel_keeps id s
  | .changeReadyDeadline number => execChangeReadyDeadline_keeps number s
  | .domainChangeApply => execDomainChangeApply_keeps s
  | .routeGraceEnd => execRouteGraceEnd_keeps s
  | .tideBoundary => execTideBoundary_keeps s
  | .tideMarkerReceive east hops count offset => execTideMarkerReceive_keeps east hops count offset s
  | .markerMissed => execMarkerMissed_keeps s
  | .masterTakeover => execMasterTakeover_keeps s
  | .ringSlotArrive slot position => execRingSlotArrive_keeps slot position s
  | .snoopAnswer slot => execSnoopAnswer_keeps slot s
  | .slotReturn slot => execSlotReturn_keeps slot s
  | .dataSlotReceive slot => execDataSlotReceive_keeps slot s
  | .ringMeasure east spanTenthsNs hops ident => execRingMeasure_keeps east spanTenthsNs hops ident s
  | .ringLinkFail link => execRingLinkFail_keeps link s
  | .ringLinkRestore link => execRingLinkRestore_keeps link s
  | .trainRestore => execTrainRestore_keeps s
  | .bypassReleaseRequest => execBypassReleaseRequest_keeps s
  | .bypassReleaseTimeout => execBypassReleaseTimeout_keeps s
  | .bypassLeaveRequest => execBypassLeaveRequest_keeps s
  | .spliceRequest site leave => execSpliceRequest_keeps site leave s
  | .spliceGrant => execSpliceGrant_keeps s
  | .splice => execSplice_keeps s
  | .bypassClose => execBypassClose_keeps s
  | .coreHeartbeatTimeout => execCoreHeartbeatTimeout_keeps s
  | .sliceRetire kind engine slot w bad corrected => execSliceRetire_keeps kind engine slot w bad corrected s
  | .tideOverrun kind engine => execTideOverrun_keeps kind engine s
  | .budgetRestore kind engine => execBudgetRestore_keeps kind engine s
  | .powerSample milliwatts => execPowerSample_keeps milliwatts s
  | .read r => execRead_keeps r s
  | .readAcq r => execReadAcq_keeps r s
  | .acquire r => execAcquire_keeps r s
  | .write r => execWrite_keeps r s
  | .writePartial r => execWritePartial_keeps r s
  | .writeSeal r => execWriteSeal_keeps r s
  | .stow r => execStow_keeps r s
  | .atomic r => execAtomic_keeps r s
  | .regionPublish r => execRegionPublish_keeps r s
  | .cReadShared r => execCReadShared_keeps r s
  | .cReadOwn r => execCReadOwn_keeps r s
  | .cUpgrade r => execCUpgrade_keeps r s
  | .cWriteback r => execCWriteback_keeps r s
  | .cEvictClean r => execCEvictClean_keeps r s
  | .cRecallAnswer host line data => execCRecallAnswer_keeps host line data s
  | .hostRecallTimeout host line => execHostRecallTimeout_keeps host line s
  | .cStowFill r => execCStowFill_keeps r s
  | .cStowFillAnswer device line taken => execCStowFillAnswer_keeps device line taken s
  | .cSnoopDone r => execCSnoopDone_keeps r s
  | .snoopRoundReturn snoopId answers => execSnoopRoundReturn_keeps snoopId answers s
  | .deadAgentNotice device => execDeadAgentNotice_keeps device s
  | .directoryScanDone device => execDirectoryScanDone_keeps device s
  | .homeAdmit r => execHomeAdmit_keeps r s
  | .attemptFence r => execAttemptFence_keeps r s
  | .granuleBatchStart entry offset => execGranuleBatchStart_keeps entry offset s
  | .trayResponse request kind data => execTrayResponse_keeps request kind data s
  | .granuleBatchDone entry offset => execGranuleBatchDone_keeps entry offset s
  | .sealTimeout source window => execSealTimeout_keeps source window s
  | .windowForget source => execWindowForget_keeps source s
  | .responseReceive r => execResponseReceive_keeps r s
  | .loadLevelUpdate => execLoadLevelUpdate_keeps s
  | .blockReceive ctx block marked stamp => execBlockReceive_keeps ctx block marked stamp s
  | .cutItemArrive ctx seq unit pool item => execCutItemArrive_keeps ctx seq unit pool item s
  | .idle ctx ack => execIdle_keeps ctx ack s
  | .nak ctx seq => execNak_keeps ctx seq s
  | .credit ctx req rsp strm => execCredit_keeps ctx req rsp strm s
  | .nakHoldoffExpire ctx => execNakHoldoffExpire_keeps ctx s
  | .resendTimeout ctx => execResendTimeout_keeps ctx s
  | .signalDetect ctx => execSignalDetect_keeps ctx s
  | .equalizeLock ctx => execEqualizeLock_keeps ctx s
  | .blockLock ctx => execBlockLock_keeps ctx s
  | .identify ctx ident => execIdentify_keeps ctx ident s
  | .ping ctx => execPing_keeps ctx s
  | .pong ctx rttTenthsNs => execPong_keeps ctx rttTenthsNs s
  | .initialCredit ctx req rsp strm => execInitialCredit_keeps ctx req rsp strm s
  | .trainingTimeout ctx => execTrainingTimeout_keeps ctx s
  | .laneFail ctx lane => execLaneFail_keeps ctx lane s
  | .spanSeqQuery device ctx => execSpanSeqQuery_keeps device ctx s
  | .spanSeqAnswer ctx seq => execSpanSeqAnswer_keeps ctx seq s
  | .spanAnswerTimeout ctx => execSpanAnswerTimeout_keeps ctx s
  | .planeMatch plane => execPlaneMatch_keeps plane s
  | .transmitSlot ctx eccError => execTransmitSlot_keeps ctx eccError s
  | .pilotQueuesApply => execPilotQueuesApply_keeps s
  | .latencySample => execLatencySample_keeps s
  | .contribReceive g => execContribReceive_keeps g s
  | .partialReceive g => execPartialReceive_keeps g s
  | .resultReceive g => execResultReceive_keeps g s
  | .tileOpen slot tile => execTileOpen_keeps slot tile s
  | .memberTimeout slot host => execMemberTimeout_keeps slot host s
  | .exclusionNotice slot host => execExclusionNotice_keeps slot host s
  | .exclusionApply slot host => execExclusionApply_keeps slot host s
  | .engineReadResponse slot address poison data bad corrected => execEngineReadResponse_keeps slot address poison data bad corrected s
  | .engineJobStop slot => execEngineJobStop_keeps slot s
  | .attemptStart slot join => execAttemptStart_keeps slot join s
  | .linkFrameTimeout ctx => execLinkFrameTimeout_keeps ctx s
  | .linkFrameReceive ctx header payload => execLinkFrameReceive_keeps ctx header payload s
  | .linkFrameAck ctx seq => execLinkFrameAck_keeps ctx seq s
  | .linkFrameNack ctx seq => execLinkFrameNack_keeps ctx seq s
  | .prefetchBlockLand slot layer shadow block generation poison header data => execPrefetchBlockLand_keeps slot layer shadow block generation poison header data s
  | .formRetranslate slot layer shadow => execFormRetranslate_keeps slot layer shadow s
  | .layerChoice slot => execLayerChoice_keeps slot s
  | .deliveryClose slot => execDeliveryClose_keeps slot s
  | .streamAbandoned slot => execStreamAbandoned_keeps slot s
  | .trayRequestTimeout request => execTrayRequestTimeout_keeps request s
  | .moduleFailedNotice device tray module count => execModuleFailedNotice_keeps device tray module count s
  | .formatStep groupId rows => execFormatStep_keeps groupId rows s
  | .formatDone groupId => execFormatDone_keeps groupId s
  | .rebuildStep groupId => execRebuildStep_keeps groupId s
  | .rebuildDoneReport groupId device => execRebuildDoneReport_keeps groupId device s
  | .rebuildDone groupId => execRebuildDone_keeps groupId s
  | .resyncStep entry => execResyncStep_keeps entry s
  | .heartbeatReceive device => execHeartbeatReceive_keeps device s
  | .heartbeatTimeout device => execHeartbeatTimeout_keeps device s
  | .hostDeath host => execHostDeath_keeps host s
  | .resetRequest device epoch => execResetRequest_keeps device epoch s
  | .replica fromDev msgId fragOffset last r => execReplica_keeps fromDev msgId fragOffset last r s
  | .replicaAck fromDev logSeq full => execReplicaAck_keeps fromDev logSeq full s
  | .receiptClear fromDev msgId jobDevice jobSlot => execReceiptClear_keeps fromDev msgId jobDevice jobSlot s
  | .clearAck home jobDevice jobSlot => execClearAck_keeps home jobDevice jobSlot s
  | .replicaResendTimeout logSeq => execReplicaResendTimeout_keeps logSeq s
  | .jobComplete slot => execJobComplete_keeps slot s
  | .flushComplete ok => execFlushComplete_keeps ok s
  | .sweepPageStep charter entry page => execSweepPageStep_keeps charter entry page s
  | .rotationDoneReport charter device => execRotationDoneReport_keeps charter device s
  | .rotationComplete charter => execRotationComplete_keeps charter s
  | .removalDoneReport charter device poisoned refused stopped => execRemovalDoneReport_keeps charter device poisoned refused stopped s
  | .removalComplete charter => execRemovalComplete_keeps charter s
  | .harbourKeyAgreement ok key => execHarbourKeyAgreement_keeps ok key s
  | .pageMapTransfer entry pages => execPageMapTransfer_keeps entry pages s
  | .lighterRecord lighter content sessionId counter authentic plaintext => execLighterRecord_keeps lighter content sessionId counter authentic plaintext s
  | .lighterReadRetry lighter => execLighterReadRetry_keeps lighter s
  | .mboxRead tag offset length => execMboxRead_keeps tag offset length s
  | .mboxWrite tag offset data => execMboxWrite_keeps tag offset data s
  | .getVersion body => execGetVersion_keeps body s
  | .getCapabilities body => execGetCapabilities_keeps body s
  | .negotiateAlgorithms body => execNegotiateAlgorithms_keeps body s
  | .getDigests body => execGetDigests_keeps body s
  | .getCertificate slot offset length => execGetCertificate_keeps slot offset length s
  | .challenge slot nonce => execChallenge_keeps slot nonce s
  | .getMeasurements index nonce => execGetMeasurements_keeps index nonce s
  | .keyExchange reqSession exchange => execKeyExchange_keeps reqSession exchange s
  | .finish sessionId verify => execFinish_keeps sessionId verify s
  | .spdmUnsupported code => execSpdmUnsupported_keeps code s
  | .programImageReceive issuer image => execProgramImageReceive_keeps issuer image s
  | .programCommitAnswer device code => execProgramCommitAnswer_keeps device code s
  | .programStageExpire programId => execProgramStageExpire_keeps programId s
  | .fwImageReceive issuer image holdupMv writeOk => execFwImageReceive_keeps issuer image holdupMv writeOk s
  | .fwCommitAnswer device code => execFwCommitAnswer_keeps device code s
  | .fwPostReadyWrites holdupMv => execFwPostReadyWrites_keeps holdupMv s
  | .fwSelectPending holdupMv => execFwSelectPending_keeps holdupMv s
  | .fwDoneReport device => execFwDoneReport_keeps device s
  | .cmdTailWrite mailbox value => execCmdTailWrite_keeps mailbox value s
  | .cplHeadWrite mailbox value => execCplHeadWrite_keeps mailbox value s
  | .evHeadWrite value => execEvHeadWrite_keeps value s
  | .reasonClear value => execReasonClear_keeps value s
  | .lighterEnable lighter value => execLighterEnable_keeps lighter value s
  | .inTailWrite lighter value => execInTailWrite_keeps lighter value s
  | .outHeadWrite lighter value => execOutHeadWrite_keeps lighter value s
  | .tideCountLowRead tag => execTideCountLowRead_keeps tag s
  | .registerWrite offset width value => execRegisterWrite_keeps offset width value s
  | .lifeboatStatus path issueId param => execLifeboatStatus_keeps path issueId param s
  | .freeze path issueId param => execFreeze_keeps path issueId param s
  | .dumpSnapshot path issueId param => execDumpSnapshot_keeps path issueId param s
  | .zeroizeCharter path issueId param => execZeroizeCharter_keeps path issueId param s
  | .zeroizeAll path issueId param => execZeroizeAll_keeps path issueId param s
  | .ringBypassClose path issueId param => execRingBypassClose_keeps path issueId param s
  | .lifeboatLogbookFlush path issueId param holdupMv => execLifeboatLogbookFlush_keeps path issueId param holdupMv s
  | .subsystemReset path issueId param => execSubsystemReset_keeps path issueId param s
  | .readMeasurements path issueId param => execReadMeasurements_keeps path issueId param s
  | .coldReset vstby => execColdReset_keeps vstby s
  | .warmReset ring => execWarmReset_keeps ring s
  | .resetRelease bank0Ok bank1Ok ssdOk stageOk bad corrected => execResetRelease_keeps bank0Ok bank1Ok ssdOk stageOk bad corrected s
  | .railFault rail => execRailFault_keeps rail s
  | .thermalLimit high => execThermalLimit_keeps high s
  | .holdupFail holdupMv => execHoldupFail_keeps holdupMv s
  | .boardDeclWrite decl => execBoardDeclWrite_keeps decl s
  | .pmbusOther command => execPmbusOther_keeps command s
  | .tapInstruction code => execTapInstruction_keeps code s
  | .groupDegraded => execGroupDegraded_keeps s
  | .heartbeatSend => execHeartbeatSend_keeps s
  | .lossBoundary => execLossBoundary_keeps s
  | .asyncResend => execAsyncResend_keeps s
  | .logbookReplay => execLogbookReplay_keeps s
  | .keyEpochTurn => execKeyEpochTurn_keeps s
  | .confidentialEntry => execConfidentialEntry_keeps s
  | .fwStageExpire => execFwStageExpire_keeps s
  | .fwActivation => execFwActivation_keeps s
  | .hmWatchdog => execHmWatchdog_keeps s
  | .hmHeartbeat => execHmHeartbeat_keeps s
  | .firmwareReady => execFirmwareReady_keeps s
  | .thermtrip => execThermtrip_keeps s
  | .inputPowerReturn => execInputPowerReturn_keeps s
  | .oneSecondPeriodEnd => execOneSecondPeriodEnd_keeps s
  | .lbStatusRead => execLbStatusRead_keeps s
  | .statusWord => execStatusWord_keeps s
  | .readTemperature1 => execReadTemperature1_keeps s
  | .readPout => execReadPout_keeps s

/-- A step keeps what every operation keeps, the queue apart. -/
theorem step_keepsC {s t : State} (h : step s = .next t) :
    KeptC { s with pending := t.pending } t := by
  unfold step at h
  split at h
  · cases h
    exact ⟨rfl, (idle_kept s).stage, (idle_kept s).mbox, (idle_kept s).devid, (idle_kept s).addr, (idle_kept s).serial,
      (idle_kept s).floor, fun hl => Or.inl ((idle_kept s).latch hl)⟩
  next c r _ =>
    obtain ⟨u, hu, hk⟩ := exec_keeps { s with pending := r } c
    cases hu.symm.trans h
    exact ⟨rfl, hk.stage, hk.mbox, hk.devid, hk.addr, hk.serial, hk.floor, hk.latch⟩

/-- Settles O4: every command keeps both memories' form (`exec_keeps`), and so does an idle cycle (`idle_kept`). -/
theorem stepKeepsMemories : Obligations.StepKeepsMemories := by
  intro s t ⟨hstage, hmbox⟩ h
  exact ⟨(step_keepsC h).stage hstage, (step_keepsC h).mbox hmbox⟩

/-- Settles O5: what every operation keeps of the latch, `coldReset` alone excepted. -/
theorem onlyColdResetClearsLatch : Obligations.OnlyColdResetClearsLatch :=
  fun _ _ hlatch h => (step_keepsC h).latch hlatch

/-- Settles O6: no operation writes straps or serial number, and every write of the floor is a maximum. -/
theorem strapsKeptAndFloorNeverFalls : Obligations.StrapsKeptAndFloorNeverFalls := by
  intro s t h
  obtain ⟨-, -, -, hdevid, haddr, hserial, hfloor, -⟩ := step_keepsC h
  exact ⟨hdevid, haddr, hserial, hfloor⟩

/-- Settles O7: `exec_keeps` for the queue. -/
theorem commandsLeaveQueue : Obligations.CommandsLeaveQueue := by
  intro c s
  obtain ⟨t, ht, hk⟩ := exec_keeps s c
  exact ⟨t, ht, hk.queue⟩

end Sys2Proof.Machine
end

section
/-! PROOFS. Steps, the idle cycle and reset; what an answer leaves, field by field. -/

namespace Sys2Proof.Machine
open Sys2Proof

/-! What an answer leaves, field by field. -/

section
variable {s t : State} (h : answerFrame s t)
include h

theorem answerFrame.pending_eq : t.pending = s.pending := by rw [h]
theorem answerFrame.refCycles_eq : t.refCycles = s.refCycles := by rw [h]
theorem answerFrame.tide_eq : t.tide = s.tide := by rw [h]
theorem answerFrame.ring_eq : t.ring = s.ring := by rw [h]
theorem answerFrame.engines_eq : t.engines = s.engines := by rw [h]
theorem answerFrame.man_eq : t.man = s.man := by rw [h]
theorem answerFrame.ing_eq : t.ing = s.ing := by rw [h]
theorem answerFrame.home_eq : t.home = s.home := by rw [h]
theorem answerFrame.ports_eq : t.ports = s.ports := by rw [h]
theorem answerFrame.sw_eq : t.sw = s.sw := by rw [h]
theorem answerFrame.acc_eq : t.acc = s.acc := by rw [h]
theorem answerFrame.copies_eq : t.copies = s.copies := by rw [h]
theorem answerFrame.stage_eq : t.stage = s.stage := by rw [h]
theorem answerFrame.freeCount_eq : t.freeCount = s.freeCount := by rw [h]

/-- Confidential mode and the latch stay (R417). -/
theorem answerFrame.locked_eq : locked t = locked s := by rw [h]; rfl

theorem answerFrame.devid_eq : t.isl.devid = s.isl.devid := by rw [h]

theorem answerFrame.lbRuns_eq : t.isl.lbRuns = s.isl.lbRuns := by rw [h]

end

theorem foldl_frame {α : Type} {f : State → α → State} (hf : ∀ s x, answerFrame s (f s x)) (l : List α) (s : State) :
    answerFrame s (l.foldl f s) := by
  induction l generalizing s with
  | nil => exact answerFrame.refl s
  | cons x r ih => exact (hf s x).trans (ih _)

/-! The idle cycle. -/

theorem sendOwed_frame (s : State) : answerFrame s (sendOwed s) := by
  refine answerFrame.trans (t := { s with tel := { s.tel with owed := [] } }) rfl ?_
  exact foldl_frame (fun t v => signal_frame v t) _ _

/-- What reporting a lifeboat operation may change: the two LB_RESULT registers and what an answer may (R479). -/
def lbFrame (s t : State) : Prop :=
  answerFrame { s with isl := { s.isl with window := t.isl.window, sideband := t.isl.sideband } } t

theorem lbFrame.trans {s t u : State} (h : lbFrame s t) (k : lbFrame t u) : lbFrame s u := by
  unfold lbFrame answerFrame at *
  refine k.trans ?_
  rw [h]

theorem answerFrame.lb {s t : State} (h : answerFrame s t) : lbFrame s t := by
  unfold lbFrame answerFrame at *
  rw [h]

theorem lbReport_frame (path : LbPath) (op id code state : Nat) (s : State) :
    lbFrame s (lbReport path op id code state s) := by
  unfold lbReport
  extract_lets r s1 src s2
  have hrecorded : lbFrame s s1 := (recordReason_frame _ _).lb
  have hshown : lbFrame s s2 := hrecorded.trans rfl
  cases path with
  | window =>
    dsimp only
    split
    · exact hshown.trans (signal_frame _ _).lb
    · exact hshown
  | sideband => exact hrecorded.trans rfl

theorem lbEnd_frame (r : LbRun) (s : State) : lbFrame s (lbEnd r s) := by
  unfold lbEnd
  extract_lets shown
  split
  · exact lbReport_frame _ _ _ _ _ _
  · exact (recordReason_frame _ _).lb

theorem foldl_lbEnd_frame (l : List LbRun) (s : State) : lbFrame s (l.foldl (fun s r => lbEnd r s) s) := by
  induction l generalizing s with
  | nil => exact (answerFrame.refl s).lb
  | cons r l ih => exact (lbEnd_frame r s).trans (ih _)

/-- The idle cycle counts itself, ends the lifeboat operations under way, and changes what their reports and the signals that
waited may (log 8, log 20). -/
theorem idle_frame (s : State) :
    lbFrame { s with refCycles := s.refCycles + 1, isl := { s.isl with lbRuns := [] } } (idle s) :=
  (foldl_lbEnd_frame s.isl.lbRuns _).trans (sendOwed_frame _).lb

/-- Settles O1: `step` by the queue's front. -/
theorem stepRunsFrontCommand : Obligations.StepRunsFrontCommand := by
  intro c r s h
  rw [step, h]

/-- Settles O2: an empty queue has `step` idle, and `idle_frame` says what that changes. -/
theorem emptyQueueIdles : Obligations.EmptyQueueIdles := by
  intro s h
  have hframe := idle_frame s
  unfold lbFrame at hframe
  refine ⟨idle s, by rw [step, h], hframe.refCycles_eq, hframe.lbRuns_eq, hframe.pending_eq.trans h, hframe.tide_eq,
    hframe.man_eq, hframe.acc_eq, hframe.stage_eq⟩

theorem reasonReg_reset (n : Nat) : reasonReg n State.reset = 0 := by
  simp [reasonReg, State.reset, tgetD, tget]

/-- Only the host link's context exists at reset, and it is down (R443). -/
theorem ctxUp_reset (n : Nat) : ctxUp n State.reset = false := by
  by_cases hn : n = 256
  · subst hn
    rfl
  · have hnone : ctxAt n State.reset = none := by simp [ctxAt, State.reset, tget, Ne.symm hn]
    simp [ctxUp, hnone]

/-- Settles O3: the reset state's tables and memories list nothing. -/
theorem resetState : Obligations.ResetState :=
  ⟨by decide, rfl, fun _ => rfl, fun _ => rfl, reasonReg_reset, rfl, rfl, rfl, rfl, rfl, rfl, rfl, rfl, rfl, rfl, rfl,
    ctxUp_reset⟩

end Sys2Proof.Machine
end

section
/-! PROOFS. MBOX.NOP: an answer of one unit on a mailbox with room (R404, R410, R446). -/

namespace Sys2Proof.Machine
open Sys2Proof

/-! Who acts. -/

theorem onFw_of_fwRuns {s : State} (h : fwRuns s = true) (f : State → State) : onFw s f = .next (f s) := by
  simp [onFw, h]

theorem onCore_of_coreRuns {s : State} (h : coreRuns s = true) (f : State → State) : onCore s f = .next (f s) := by
  simp [onCore, h]

/-! Signals (R446). -/

section
variable {v : Nat} {s : State}

theorem mem_insertSorted (x : Nat) (l : List Nat) : x ∈ insertSorted x l := by
  induction l with
  | nil => simp [insertSorted]
  | cons a r ih =>
    unfold insertSorted
    split
    · simp [*]
    split
    · simp
    · simp [ih]

@[simp] theorem signal_mbox : (signal v s).mbox = s.mbox := by
  unfold signal
  split <;> rfl

@[simp] theorem signal_hm : (signal v s).hm = s.hm := by
  unfold signal
  split <;> rfl

@[simp] theorem signal_reasons : (signal v s).tel.reasons = s.tel.reasons := by
  unfold signal
  split <;> rfl

@[simp] theorem signal_evTail : (signal v s).tel.evTail = s.tel.evTail := by
  unfold signal
  split <;> rfl

theorem signal_out : (signal v s).out = s.out ++ (if signalledLately v s then [] else [Out.signal v]) := by
  unfold signal
  split <;> simp [emit, *]

/-- A vector signalled too soon is owed. -/
theorem mem_owed_of_signalledLately (h : signalledLately v s = true) : v ∈ (signal v s).tel.owed := by
  simp [signal, h, mem_insertSorted]

theorem signalledLately_signal : signalledLately v (signal v s) = true := by
  unfold signal
  split
  next h => exact h
  next => simp [signalledLately, emit, usCycles]

end

/-! An answer of one unit. -/

section
variable {m tag : Nat} {s : State}

@[simp] theorem untake_mbox : (untake m tag s).mbox = s.mbox := by
  unfold untake
  split <;> rfl

@[simp] theorem untake_tel : (untake m tag s).tel = s.tel := by
  unfold untake
  split <;> rfl

@[simp] theorem untake_out : (untake m tag s).out = s.out := by
  unfold untake
  split <;> rfl

@[simp] theorem untake_tide : (untake m tag s).tide = s.tide := (untake_frame m tag s).tide_eq

@[simp] theorem untake_locked : locked (untake m tag s) = locked s := (untake_frame m tag s).locked_eq

@[simp] theorem untake_signalledLately {v : Nat} : signalledLately v (untake m tag s) = signalledLately v s := by
  simp [signalledLately, (untake_frame m tag s).refCycles_eq]

/-- A command no longer in progress frees reserved units and leaves its mailbox's pointers. -/
theorem boxOf_untake : ∃ n, boxOf m (untake m tag s) = { boxOf m s with reserved := n } := by
  unfold untake
  split
  · exact ⟨_, rfl⟩
  · exact ⟨_, boxOf_setBox_self⟩

/-- The state with a mailbox's bytes stored at its completion tail and the tail past them (R404). -/
def stored (m : Nat) (bytes : Bytes) (s : State) : State :=
  setBox m { boxOf m s with cplTail := ((boxOf m s).cplTail % 2 ^ 32 + bytes.length / 64) % 2 ^ 32 }
    { s with mbox := mwrite s.mbox (0x20000 * m + 0x10000 + 64 * ((boxOf m s).cplTail % 2 ^ 32 % 1024)) bytes }

/-- One unit never crosses the ring's end. -/
theorem padUnits_one (tail : Nat) : padUnits tail 1 = 0 :=
  if_pos (by omega)

/-- An answer of one unit needs no pad: it is stored, and signalled where the mailbox's signal is enabled (R404, R446). -/
theorem ringPost_of_unit {bytes : Bytes} (h : bytes.length = 64) :
    ringPost m bytes none s = if (boxOf m s).signal then signal m (stored m bytes s) else stored m bytes s := by
  have hpad : padUnits (boxOf m s).cplTail (bytes.length / 64) = 0 := by
    rw [h]
    exact padUnits_one _
  simp only [ringPost, hpad, if_true, Nat.add_zero, stored]

/-- An answer of one unit is posted where the completion ring has room for it (R405). -/
theorem post_of_unit {a : Answer} (h : (answerBytes a s).length = 64) (hroom : cplUsed (boxOf m s) + 1 ≤ 1024) :
    post m a none s = ringPost m (answerBytes a s) none s := by
  simp only [post, h, Option.isSome_none, Bool.false_eq_true, false_and, false_or, Nat.reduceDiv, padUnits_one, if_false]
  rw [if_neg (by omega)]

theorem le_length (n w : Nat) : (le n w).length = n := by
  induction n generalizing w with
  | zero => rfl
  | succ k ih => simp [le, ih]

/-- MBOX.NOP's RESULT (R410, R411). -/
def nopAnswer (tag : Nat) : Answer :=
  { command := 0x0001, reason := 0, tag := tag, seq := 0, queue := 0, kind := 1, flags := 0, jobDevice := 0, state := 0,
    jobSlot := 0, detailReason := 0, detailDevice := 0, body := [] }

theorem answerBytes_nopAnswer (tag : Nat) (s : State) :
    answerBytes (nopAnswer tag) s = le 2 0x0001 ++ le 2 0x0000 ++ le 4 tag ++ zeros 7 ++ [1#8, 1#8] ++ zeros 11 ++
      le 4 (s.tide.count % 2 ^ 32) ++ zeros 32 := by
  have hunits : answerUnits (nopAnswer tag) = 1 := by simp [answerUnits, nopAnswer, cdiv]
  simp only [answerBytes, hunits, padTo, List.length_append, le_length]
  simp [nopAnswer, le, zeros, roundUp, cdiv, List.replicate]

theorem answerBytes_nopAnswer_length (tag : Nat) (s : State) : (answerBytes (nopAnswer tag) s).length = 64 := by
  rw [answerBytes_nopAnswer]
  simp only [List.length_append, le_length, zeros, List.length_replicate, List.length_cons, List.length_nil]

end

/-- Reason 0x0000 is not recorded (R469). -/
theorem recordReason_zero (s : State) : recordReason 0 s = s := if_pos rfl

/-- MBOX.NOP's RESULT stands at the completion tail of its mailbox, and is signalled where the vector is enabled. -/
theorem exec_mboxNop_of_room {h : CmdHdr} {s : State} (hfw : fwRuns s = true) (hopen : locked s = false)
    (hring : h.viaLighter = false) (hroom : cplUsed (boxOf h.mailbox s) + 1 ≤ 1024) :
    exec (.mboxNop h) s = .next (ringPost h.mailbox (answerBytes (nopAnswer h.tag) s) none (untake h.mailbox h.tag s)) := by
  obtain ⟨n, hbox⟩ := boxOf_untake (m := h.mailbox) (tag := h.tag) (s := s)
  have hbytes : answerBytes (nopAnswer h.tag) (untake h.mailbox h.tag s) = answerBytes (nopAnswer h.tag) s := by
    simp only [answerBytes, untake_tide]
  have hsend : result h 0x0001 0 [] s = post h.mailbox (nopAnswer h.tag) none (untake h.mailbox h.tag s) := by
    simp only [result, resultWith, recordReason_zero, send, hring, untake_locked, hopen, nopAnswer, Bool.or_false,
      Bool.false_eq_true, if_false]
  rw [exec_mboxNop, execMboxNop, onFw_of_fwRuns hfw, hsend,
    post_of_unit (answerBytes_nopAnswer_length _ _) (by simpa only [hbox, cplUsed] using hroom), hbytes]

/-- Settles O8: the RESULT takes one unit, so it is stored at the tail without a pad and signalled. -/
theorem nopIsAnswered : Obligations.NopIsAnswered := by
  intro h s b a hfw hopen hring hwf hroom
  obtain ⟨n, hbox⟩ := boxOf_untake (m := h.mailbox) (tag := h.tag) (s := s)
  have hlen := answerBytes_nopAnswer_length h.tag s
  have hexec := exec_mboxNop_of_room hfw hopen hring hroom
  have hframe : answerFrame s (ringPost h.mailbox (answerBytes (nopAnswer h.tag) s) none (untake h.mailbox h.tag s)) :=
    (untake_frame _ _ _).trans (ringPost_frame _ _ _ _)
  have hsignal : (boxOf h.mailbox (untake h.mailbox h.tag s)).signal = b.signal := by rw [hbox]
  rw [ringPost_of_unit hlen, hsignal] at hexec hframe
  set bytes := answerBytes (nopAnswer h.tag) s with hbytes
  set u := stored h.mailbox bytes (untake h.mailbox h.tag s) with hu
  have hmem : u.mbox = mwrite s.mbox a bytes := by
    simp only [hu, stored, setBox_mbox, hbox, untake_mbox]
    rfl
  have htail : (boxOf h.mailbox u).cplTail = (b.cplTail % 2 ^ 32 + 1) % 2 ^ 32 := by
    rw [hu, stored, boxOf_setBox_self, hlen, hbox]
  have htel : u.tel = s.tel := untake_tel
  have hout : u.out = s.out := untake_out
  have hlate : signalledLately h.mailbox u = signalledLately h.mailbox s := untake_signalledLately
  have hread : mread (mwrite s.mbox a bytes) a 64 = bytes := by
    rw [← hlen]
    exact mread_mwrite hwf a bytes
  have hother : ∀ x, x < a ∨ a + 64 ≤ x → mread1 (mwrite s.mbox a bytes) x = mread1 s.mbox x := by
    intro x hx
    rw [mread1_mwrite _ _ _ hwf, hlen, if_neg (by omega)]
  rw [answerBytes_nopAnswer] at hbytes
  refine ⟨_, hexec, hframe, ?_⟩
  rw [← hbytes]
  clear hbytes
  clear_value bytes u
  cases hs : b.signal with
  | false => exact ⟨by simp [hmem, hread], by simpa [hmem] using hother, by simp [htail], by simp [hout], by simp [htel], by simp [htel],
      by simp [htel], by simp, by simp⟩
  | true =>
    have hbox' : boxOf h.mailbox (signal h.mailbox u) = boxOf h.mailbox u := by simp [boxOf]
    refine ⟨by simp [hmem, hread], by simpa [hmem] using hother, by simp [hbox', htail], ?_, by simp [htel],
      by simp [htel], by simp, fun _ hl => ?_, fun _ => ?_⟩
    · cases hl : signalledLately h.mailbox s <;> simp [signal_out, hout, hlate, hl]
    · simpa using mem_owed_of_signalledLately (hlate.trans hl)
    · simpa using signalledLately_signal

end Sys2Proof.Machine
end

section
/-! PROOFS. Pads and commands at a mailbox's head; the registers of events, reasons and lighters; register writes; the mailbox space
over KHL. -/

namespace Sys2Proof.Machine
open Sys2Proof

/-- A command in progress touches the boxes, the turn and the list of commands in progress of its own mailbox alone. -/
theorem boxOf_pastHead_ne {m k : Nat} (h : k ≠ m) (s : State) : boxOf k (pastHead m s) = boxOf k s := boxOf_setBox_ne h

/-- Settles O9: a pad's units are given up by `advanceHead`, a passing command's by `takeCommand_of_passing`. -/
theorem commandsAreTaken : Obligations.CommandsAreTaken := by
  intro m s b r hfw
  refine ⟨fun hpad => ?pad, fun ⟨hwins, hcmd, hpass⟩ => ?take⟩
  case pad =>
    have hskip : exec (.mboxPad m) s = .next (advanceHead m (headUnits m s) s) := by
      rw [exec_mboxPad, execMboxPad, onTaker_of_fwRuns hfw]
      exact congrArg _ (if_pos hpad)
    exact ⟨_, hskip, by rw [advanceHead, boxOf_setBox_self], rfl, fun k hk => boxOf_setBox_ne hk⟩
  case take =>
    have htake := takeCommand_of_passing (inRecovery_of_fwRuns hfw) hwins hcmd hpass
    refine ⟨_, (onTaker_of_fwRuns hfw _).trans (congrArg _ htake), ?_⟩
    refine ⟨by rw [boxOf_setBox_self, boxOf_pastHead], by rw [boxOf_setBox_self, boxOf_pastHead], rfl, rfl, rfl, fun k hk => ?_⟩
    exact (boxOf_setBox_ne hk).trans (boxOf_pastHead_ne hk s)

/-! What an event leaves, for any part of the state that its record does not touch. -/

/-- A part of the state that looks at nothing an event's record or a signal may change (R418, R446, R471, R482, R483). -/
structure EventBlind {β : Type} (f : State → β) : Prop where
  out : ∀ s x, f { s with out := x } = f s
  owed : ∀ s x, f { s with tel := { s.tel with owed := x } } = f s
  signalled : ∀ s x, f { s with tel := { s.tel with signalled := x } } = f s
  stored : ∀ s m x, f { s with mbox := m, tel := { s.tel with evTail := x } } = f s
  lost : ∀ s m n, f { s with tel := { s.tel with evLost := m, evGap := n } } = f s
  number : ∀ s x, f { s with tel := { s.tel with evNumber := x } } = f s
  lighters : ∀ s x, f { s with sec := { s.sec with lighters := x } } = f s
  alert : ∀ s x, f { s with isl := { s.isl with alert := x } } = f s

section
variable {β : Type} {f : State → β} (h : EventBlind f)
include h

theorem signal_keeps (v : Nat) (s : State) : f (signal v s) = f s := by
  unfold signal
  split
  · exact h.owed _ _
  · exact (h.out _ _).trans (h.signalled _ _)

theorem lighterSend_keeps (l content : Nat) (plain : Bytes) (s : State) : f (lighterSend l content plain s) = f s := by
  unfold lighterSend
  extract_lets x units ring at_ wrap x' s1 s2
  have hsent : f s2 = f s := (h.out _ _).trans (h.lighters _ _)
  split
  · rfl
  split
  · rfl
  split
  · exact (signal_keeps h _ _).trans hsent
  · exact hsent

theorem eventWrite_keeps (rec : Bytes) (s : State) : f (eventWrite rec s) = f s := by
  unfold eventWrite
  extract_lets t src s1
  have hstored : f s1 = f s := h.stored _ _ _
  split
  · exact lighterSend_keeps h _ _ _ _
  split
  · exact (signal_keeps h _ _).trans hstored
  · exact hstored

theorem countLost_keeps (s : State) : f (countLost s) = f s := h.lost s _ _

theorem alerted_keeps (c : Prop) [Decidable c] (s : State) :
    f (if c then { s with isl := { s.isl with alert := true } } else s) = f s := by
  split
  · exact h.alert _ _
  · rfl

theorem eventPut_keeps (code : Nat) (summary : Bool) (fields : List (Nat × Nat)) (s : State) :
    f (eventPut code summary fields s) = f s := by
  unfold eventPut
  extract_lets n r src s1 s2
  have hnumbered : f s1 = f s := h.number _ _
  have hwritten : f s2 = f s := by
    unfold s2
    split
    · exact (countLost_keeps h _).trans hnumbered
    · exact (eventWrite_keeps h _ _).trans hnumbered
  exact (alerted_keeps h _ _).trans hwritten

theorem raise_keeps (hreason : ∀ s x, f { s with tel := { s.tel with reasons := x } } = f s) (code : Nat)
    (fields : List (Nat × Nat)) (s : State) : f (raise code fields s) = f s := by
  refine (eventPut_keeps h _ _ _ _).trans ?_
  unfold recordReason
  split
  · rfl
  · exact hreason _ _

end

/-- The event ring's head is the host's (R471). -/
theorem evHead_eventBlind : EventBlind (·.tel.evHead) :=
  ⟨fun _ _ => rfl, fun _ _ => rfl, fun _ _ => rfl, fun _ _ _ => rfl, fun _ _ _ => rfl, fun _ _ => rfl, fun _ _ => rfl,
    fun _ _ => rfl⟩

theorem raise_evHead (code : Nat) (fields : List (Nat × Nat)) (s : State) :
    (raise code fields s).tel.evHead = s.tel.evHead :=
  raise_keeps evHead_eventBlind (fun _ _ => rfl) _ _ _

section
variable {v : Nat} {s : State}

theorem writeEvHead_of_inBounds (hopen : locked s = false)
    (hfree : dist32 v s.tel.evHead ≤ dist32 s.tel.evTail s.tel.evHead) (hgap : s.tel.evGap = 0) :
    writeEvHead v s = { s with tel := { s.tel with evHead := v % 2 ^ 32 } } := by
  rw [writeEvHead, hopen, if_neg Bool.false_ne_true, if_neg (by omega)]
  exact if_pos (Or.inl hgap)

theorem writeEvHead_of_outOfBounds (hopen : locked s = false)
    (hout : dist32 s.tel.evTail s.tel.evHead < dist32 v s.tel.evHead) : writeEvHead v s = raise 0x0006 [] s := by
  rw [writeEvHead, hopen, if_neg Bool.false_ne_true, if_pos hout]

theorem writeEvHead_of_locked (h : locked s = true) : writeEvHead v s = s := if_pos h

end

/-- REASON_CLEAR empties the registers its word names and keeps the others (R469). -/
theorem writeReasonClear_registers (v n : Nat) (s : State) (hn : n ≤ 20) :
    (bit v n = true → ∀ p ∈ (writeReasonClear v s).tel.reasons, p.1 ≠ n) ∧
    (bit v n = false → ((writeReasonClear v s).tel.reasons.filter fun p => p.1 == n) =
      s.tel.reasons.filter fun p => p.1 == n) := by
  refine ⟨fun hset p hp hpn => ?_, fun hclear => ?_⟩
  · have hkept := (List.mem_filter.mp hp).2
    rw [hpn] at hkept
    simp [hn, hset] at hkept
  · simp only [writeReasonClear, List.filter_filter]
    refine List.filter_congr fun p _ => ?_
    by_cases hpn : p.1 = n
    · simp [hpn, hclear]
    · simp [hpn]

/-- A response on the host link (R443). -/
def khlResp (tag opcode reason : Nat) (data : Bytes) (s : State) : Resp :=
  { opcode := opcode, dstEngine := false, destination := 0xFC0 + self s, tag := tag, reason := reason, ll := s.home.ll,
    responder := self s, parts := 1, aux := 0, data := data }

theorem khlAnswer_eq (tag opcode reason : Nat) (data : Bytes) (s : State) :
    khlAnswer tag opcode reason data s = emit (.khl tag (khlResp tag opcode reason data s)) (recordReason reason s) := rfl

/-- A response without a reason is only sent. -/
theorem khlAnswer_ok (tag opcode : Nat) (data : Bytes) (s : State) :
    khlAnswer tag opcode 0 data s = { s with out := s.out ++ [.khl tag (khlResp tag opcode 0 data s)] } := by
  rw [khlAnswer_eq, recordReason_zero, emit]

theorem tideCountLowRead_of_coreRuns (tag : Nat) {s : State} (h : coreRuns s = true) :
    exec (.tideCountLowRead tag) s =
      .next { s with tide := { s.tide with latch := some (s.tide.count / 2 ^ 32 % 2 ^ 32) },
                     out := s.out ++ [.khl tag (khlResp tag 0x81 0 (le 4 (s.tide.count % 2 ^ 32)) s)] } := by
  rw [exec_tideCountLowRead, execTideCountLowRead, onWindow_of_coreRuns h, khlAnswer_ok]
  rfl

/-- Settles O11: each register's write or read by its own function, all through the window of a running core. -/
theorem eventAndReasonRegisters : Obligations.EventAndReasonRegisters := by
  intro s hcore
  refine ⟨fun v hopen hfree hgap => ?stored, fun v hopen hout => ?ignored, fun v hlocked => ?closed, fun v n hn => ?clear,
    fun tag => ?count, rfl⟩
  case stored => exact (onWindow_of_coreRuns hcore _).trans (by rw [writeEvHead_of_inBounds hopen hfree hgap])
  case ignored =>
    refine ⟨raise 0x0006 [] s, ?_, raise_frame _ _ _, raise_evHead _ _ _, lastCode_raise (by decide) _ _⟩
    exact (onWindow_of_coreRuns hcore _).trans (by rw [writeEvHead_of_outOfBounds hopen hout])
  case closed => exact (onWindow_of_coreRuns hcore _).trans (by rw [writeEvHead_of_locked hlocked])
  case clear =>
    exact ⟨writeReasonClear v.toNat s, onWindow_of_coreRuns hcore _, rfl, writeReasonClear_registers _ _ _ hn⟩
  case count =>
    exact ⟨khlResp tag 0x81 0 (le 4 (s.tide.count % 2 ^ 32)) s,
      tideCountLowRead_of_coreRuns tag hcore, rfl, rfl, rfl⟩

/-! Lighters. -/

section
variable {l v : Nat} {x y : Lighter} {s : State}

@[simp] theorem lighterOf_setLighter_self : lighterOf l (setLighter l x s) = x := tgetD_tput_self _ _ _ _

theorem lighterOf_setLighter_ne {k : Nat} (h : k ≠ l) : lighterOf k (setLighter l x s) = lighterOf k s :=
  tgetD_tput_ne _ _ _ h.symm

theorem writeInTail_of_inBounds (hl : l < 16) (hroom : dist32 v (lighterOf l s).inHead ≤ ringBytes (lighterOf l s) / 64)
    (hahead : dist32 (lighterOf l s).inTail (lighterOf l s).inHead ≤ dist32 v (lighterOf l s).inHead) :
    writeInTail l v s =
      if (lighterOf l s).enable && decide ((lighterOf l s).inHead ≠ v % 2 ^ 32) then
        emit (.lighterRead l (64 * ((lighterOf l s).inHead % (ringBytes (lighterOf l s) / 64))))
          (setLighter l { lighterOf l s with inTail := v % 2 ^ 32 } s)
      else setLighter l { lighterOf l s with inTail := v % 2 ^ 32 } s := by
  rw [writeInTail, if_neg (by omega)]
  exact if_neg (by omega)

theorem writeOutHead_of_inBounds (hl : l < 16)
    (hfree : dist32 v (lighterOf l s).outHead ≤ dist32 (lighterOf l s).outTail (lighterOf l s).outHead) :
    writeOutHead l v s = setLighter l { lighterOf l s with outHead := v % 2 ^ 32 } s := by
  rw [writeOutHead, if_neg (by omega)]
  exact if_neg (by omega)

/-- A lighter whose control word passes R477's check, enabled anew. -/
def enabledAnew (x : Lighter) (v : Nat) : Lighter :=
  { x with ltSignal := bit v 5, sizeCode := v % 16, enable := true, fault := false, inTail := 0, inHead := 0, outTail := 0,
           outHead := 0, bound := false, session := 0, inCounter := 0, outCounter := 0, failures := 0 }

theorem writeLighterCtl_of_passing (hl : l < 16) (hoff : (lighterOf l s).enable = false) (hon : bit v 4 = true)
    (hsize : v % 16 ≤ 8) (hrange : (lighterOf l s).base + 2 * (16384 * 2 ^ (v % 16)) ≤ 2 ^ 64)
    (hfree : lighterOverlap l { lighterOf l s with ltSignal := bit v 5, sizeCode := v % 16 } s = false) :
    writeLighterCtl l v s = setLighter l (enabledAnew (lighterOf l s) v) s := by
  have hpass : ¬ (8 < v % 16 ∨ 2 ^ 64 < (lighterOf l s).base + 2 * (16384 * 2 ^ (v % 16)) ∨
      lighterOverlap l { lighterOf l s with ltSignal := bit v 5, sizeCode := v % 16 } s = true) := by
    rw [hfree]
    simp only [Bool.false_eq_true, or_false]
    omega
  rw [writeLighterCtl, if_neg (by omega)]
  extract_lets +onlyGivenNames x' x on x2 s1
  have hx : x.enable = false := hoff
  rw [if_neg (by simp [hx]), if_neg (by simp [hx]), if_neg (by simp [on, hon])]
  exact if_neg hpass

theorem writeLighterCtl_of_disable (hl : l < 16) (hon : (lighterOf l s).enable = true) (hoff : bit v 4 = false) :
    writeLighterCtl l v s = setLighter l { unbind { lighterOf l s with ltSignal := bit v 5 } with enable := false } s := by
  simp only [writeLighterCtl, if_neg (show ¬ 16 ≤ l by omega), hoff, hon, Bool.true_and,
    Bool.false_eq_true, if_false, if_true]

end

/-- Settles O12: each lighter register in bounds sets its own lighter alone. -/
theorem lighterRegisters : Obligations.LighterRegisters := by
  intro l v w s x size hcore hl
  refine ⟨fun hoff hon hsize hrange hfree => ?enable, fun hon hoff => ?disable, fun hroom hahead => ?inTail,
    fun hfree => ?outHead⟩
  case enable =>
    refine ⟨_, (onWindow_of_coreRuns hcore _).trans (congrArg _ (writeLighterCtl_of_passing hl hoff hon hsize hrange hfree)), rfl, ?_⟩
    rw [lighterOf_setLighter_self]
    exact ⟨rfl, rfl, rfl, rfl, rfl, rfl, rfl, rfl, fun k hk => lighterOf_setLighter_ne hk⟩
  case disable =>
    refine ⟨_, (onWindow_of_coreRuns hcore _).trans (congrArg _ (writeLighterCtl_of_disable hl hon hoff)), rfl, ?_⟩
    rw [lighterOf_setLighter_self]
    exact ⟨rfl, rfl, fun k hk => lighterOf_setLighter_ne hk⟩
  case inTail =>
    refine ⟨_, (onWindow_of_coreRuns hcore _).trans (congrArg _ (writeInTail_of_inBounds hl hroom hahead)), ?_⟩
    split
    next hread =>
      exact ⟨lighterOf_setLighter_self, rfl, fun _ _ => ⟨_, rfl⟩, fun k hk => lighterOf_setLighter_ne hk⟩
    next hquiet =>
      refine ⟨lighterOf_setLighter_self, rfl, fun hon hmore => absurd ?_ hquiet, fun k hk => lighterOf_setLighter_ne hk⟩
      rw [Bool.and_eq_true, decide_eq_true_eq]
      exact ⟨hon, hmore⟩
  case outHead =>
    exact ⟨_, (onWindow_of_coreRuns hcore _).trans (congrArg _ (writeOutHead_of_inBounds hl hfree)), lighterOf_setLighter_self,
      rfl, fun k hk => lighterOf_setLighter_ne hk⟩

/-! Register writes. -/

section
variable {m l o v : Nat} {s : State}

/-- A mailbox's block lies at 0x1000 + 32 m (R473). -/
theorem regWrite4_mailbox (hm : m < 16) (ho : o < 32) :
    regWrite4 (0x1000 + 32 * m + o) v s =
      if o = 0 then writeCmdTail m v s
      else if o = 12 then writeCplHead m v s
      else if o = 16 then writeMbSignal m v s
      else s := by
  have hbox : (0x1000 + 32 * m + o - 0x1000) / 32 = m := by omega
  have hoff : (0x1000 + 32 * m + o) % 32 = o := by omega
  rw [regWrite4, if_neg (by omega), if_neg (by omega), if_neg (by omega), if_pos (by omega)]
  simp only [hbox, hoff]

/-- A lighter's block lies at 0x1800 + 64 l (R475). -/
theorem regWrite4_lighter (hl : l < 16) (ho : o < 64) :
    regWrite4 (0x1800 + 64 * l + o) v s =
      if o = 0 then writeLighterBase l false v s
      else if o = 4 then writeLighterBase l true v s
      else if o = 8 then writeLighterCtl l v s
      else if o = 12 then writeInTail l v s
      else if o = 24 then writeOutHead l v s
      else s := by
  have hblock : (0x1800 + 64 * l + o - 0x1800) / 64 = l := by omega
  have hoff : (0x1800 + 64 * l + o) % 64 = o := by omega
  rw [regWrite4, if_neg (by omega), if_neg (by omega), if_neg (by omega), if_neg (by omega), if_pos (by omega)]
  simp only [hblock, hoff]

/-- Below 0x108 the window only reads (R466 to R469). -/
theorem regWrite4_build {off : Nat} (h : off < 0x108) : regWrite4 off v s = s := by
  rw [regWrite4, if_neg (by omega), if_neg (by omega), if_neg (by omega), if_neg (by omega), if_neg (by omega),
    if_neg (by omega)]

theorem writeMbSignal_of_open (hm : m < 16) (hopen : locked s = false) :
    writeMbSignal m v s = setBox m { boxOf m s with signal := bit v 0 } s :=
  if_neg (mailbox_open hm hopen)

end

section
variable {off : Nat} {v : W64} {s : State}

theorem registerWrite_of_refused {w : Nat} (hcore : coreRuns s = true)
    (h : w ≠ 4 ∧ w ≠ 8 ∨ off % w ≠ 0 ∨ 0x10000 < off + w) :
    exec (.registerWrite off w v) s = .next (recordReason 0x1202 s) := by
  rw [exec_registerWrite, execRegisterWrite, onWindow_of_coreRuns hcore]
  exact congrArg _ (if_pos h)

theorem registerWrite_word (hcore : coreRuns s = true) (halign : off % 4 = 0) (hin : off + 4 ≤ 0x10000) :
    exec (.registerWrite off 4 v) s = .next (regWrite4 off (v.toNat % 2 ^ 32) s) := by
  have hok : ¬ ((4 ≠ 4 ∧ 4 ≠ 8) ∨ off % 4 ≠ 0 ∨ 0x10000 < off + 4) := by omega
  rw [exec_registerWrite, execRegisterWrite, onWindow_of_coreRuns hcore]
  simp only [if_neg hok, if_true]

/-- The lower half is written first (R465). -/
theorem registerWrite_double (hcore : coreRuns s = true) (halign : off % 8 = 0) (hin : off + 8 ≤ 0x10000) :
    exec (.registerWrite off 8 v) s =
      .next (regWrite4 (off + 4) (v.toNat / 2 ^ 32) (regWrite4 off (v.toNat % 2 ^ 32) s)) := by
  have hok : ¬ ((8 ≠ 4 ∧ 8 ≠ 8) ∨ off % 8 ≠ 0 ∨ 0x10000 < off + 8) := by omega
  have hwide : ¬ (8 = 4) := by omega
  rw [exec_registerWrite, execRegisterWrite, onWindow_of_coreRuns hcore]
  simp only [if_neg hok, if_neg hwide]

theorem registerWrite_cmdTail {m : Nat} (hcore : coreRuns s = true) (hm : m < 16) :
    exec (.registerWrite (0x1000 + 32 * m) 4 v) s = exec (.cmdTailWrite m (v.toNat % 2 ^ 32)) s := by
  rw [registerWrite_word hcore (by omega) (by omega), ← Nat.add_zero (0x1000 + 32 * m), regWrite4_mailbox hm (by omega),
    if_pos rfl, exec_cmdTailWrite, execCmdTailWrite, onWindow_of_coreRuns hcore]

theorem registerWrite_cplHead {m : Nat} (hcore : coreRuns s = true) (hm : m < 16) :
    exec (.registerWrite (0x100C + 32 * m) 4 v) s = exec (.cplHeadWrite m (v.toNat % 2 ^ 32)) s := by
  have hoff : 0x100C + 32 * m = 0x1000 + 32 * m + 12 := by omega
  rw [hoff, registerWrite_word hcore (by omega) (by omega), regWrite4_mailbox hm (by omega), if_neg (by omega), if_pos rfl,
    exec_cplHeadWrite, execCplHeadWrite, onWindow_of_coreRuns hcore]

/-- The registers of a mailbox's block that only read (R473). -/
theorem registerWrite_mailbox_readOnly {m o : Nat} (hcore : coreRuns s = true) (hm : m < 16) (ho : o = 4 ∨ o = 8) :
    exec (.registerWrite (0x1000 + 32 * m + o) 4 v) s = .next s := by
  rw [registerWrite_word hcore (by omega) (by omega), regWrite4_mailbox hm (by omega), if_neg (by omega), if_neg (by omega),
    if_neg (by omega)]

/-- The command head's half takes nothing, the completion head's is the upper one (R465). -/
theorem registerWrite_heads {m : Nat} (hcore : coreRuns s = true) (hm : m < 16) :
    exec (.registerWrite (0x1008 + 32 * m) 8 v) s = exec (.cplHeadWrite m (v.toNat / 2 ^ 32)) s := by
  have hoff : 0x1008 + 32 * m = 0x1000 + 32 * m + 8 := by omega
  rw [hoff, registerWrite_double hcore (by omega) (by omega), regWrite4_mailbox hm (by omega), if_neg (by omega),
    if_neg (by omega), if_neg (by omega), Nat.add_assoc, regWrite4_mailbox hm (by omega), if_neg (by omega),
    if_pos (by omega), exec_cplHeadWrite, execCplHeadWrite, onWindow_of_coreRuns hcore]

theorem registerWrite_lighterCtl {l : Nat} (hcore : coreRuns s = true) (hl : l < 16) :
    exec (.registerWrite (0x1808 + 64 * l) 4 v) s = exec (.lighterEnable l (BitVec.ofNat 32 (v.toNat % 2 ^ 32))) s := by
  have hoff : 0x1808 + 64 * l = 0x1800 + 64 * l + 8 := by omega
  rw [hoff, registerWrite_word hcore (by omega) (by omega), regWrite4_lighter hl (by omega), if_neg (by omega),
    if_neg (by omega), if_pos rfl, exec_lighterEnable, execLighterEnable, onWindow_of_coreRuns hcore, BitVec.toNat_ofNat,
    Nat.mod_mod]

theorem registerWrite_inTail {l : Nat} (hcore : coreRuns s = true) (hl : l < 16) :
    exec (.registerWrite (0x180C + 64 * l) 4 v) s = exec (.inTailWrite l (v.toNat % 2 ^ 32)) s := by
  have hoff : 0x180C + 64 * l = 0x1800 + 64 * l + 12 := by omega
  rw [hoff, registerWrite_word hcore (by omega) (by omega), regWrite4_lighter hl (by omega), if_neg (by omega),
    if_neg (by omega), if_neg (by omega), if_pos rfl, exec_inTailWrite, execInTailWrite, onWindow_of_coreRuns hcore]

theorem registerWrite_outHead {l : Nat} (hcore : coreRuns s = true) (hl : l < 16) :
    exec (.registerWrite (0x1818 + 64 * l) 4 v) s = exec (.outHeadWrite l (v.toNat % 2 ^ 32)) s := by
  have hoff : 0x1818 + 64 * l = 0x1800 + 64 * l + 24 := by omega
  rw [hoff, registerWrite_word hcore (by omega) (by omega), regWrite4_lighter hl (by omega), if_neg (by omega),
    if_neg (by omega), if_neg (by omega), if_neg (by omega), if_pos rfl, exec_outHeadWrite, execOutHeadWrite,
    onWindow_of_coreRuns hcore]

/-- The heads of the device's own in a lighter's block only read (R475). -/
theorem registerWrite_lighter_readOnly {l : Nat} (hcore : coreRuns s = true) (hl : l < 16) :
    exec (.registerWrite (0x1810 + 64 * l) 8 v) s = .next s := by
  have hnone : ∀ o w, o = 16 ∨ o = 20 → regWrite4 (0x1800 + 64 * l + o) w s = s := by
    intro o w ho
    rw [regWrite4_lighter hl (by omega), if_neg (by omega), if_neg (by omega), if_neg (by omega), if_neg (by omega),
      if_neg (by omega)]
  have hoff : 0x1810 + 64 * l = 0x1800 + 64 * l + 16 := by omega
  rw [hoff, registerWrite_double hcore (by omega) (by omega), hnone 16 _ (by omega), Nat.add_assoc, hnone 20 _ (by omega)]

end

/-- Settles O13: the offset names its block and register, and the halves that only read write nothing. -/
theorem registerWrites : Obligations.RegisterWrites := by
  intro v s hcore lo
  have hlo : lo % 2 ^ 32 = lo := Nat.mod_mod _ _
  refine ⟨fun m hm hopen => ⟨fun hroom hahead w hw => ?tail, fun w hw => ?signal⟩, fun hopen => ?evSignal,
    fun hopen hgap hfree => ?evHead, fun m hm => ?mailbox, fun l hl => ?lighter, fun off halign hoff => ?build,
    fun off w h => registerWrite_of_refused hcore h⟩
  case tail =>
    have htail : regWrite4 (0x1000 + 32 * m) lo s = setBox m { boxOf m s with cmdTail := lo } s := by
      rw [← Nat.add_zero (0x1000 + 32 * m), regWrite4_mailbox hm (by omega), if_pos rfl,
        writeCmdTail_of_inBounds hm hopen hroom hahead, hlo]
    rcases hw with rfl | rfl
    · exact next_setBox_changes_only_its_box ((registerWrite_word hcore (by omega) (by omega)).trans (congrArg _ htail))
    · refine next_setBox_changes_only_its_box ((registerWrite_double hcore (by omega) (by omega)).trans (congrArg _ ?_))
      rw [regWrite4_mailbox hm (by omega), htail]
      rfl
  case signal =>
    have hsignal : regWrite4 (0x1000 + 32 * m + 16) lo s = setBox m { boxOf m s with signal := bit lo 0 } s := by
      rw [regWrite4_mailbox hm (by omega)]
      exact writeMbSignal_of_open hm hopen
    have hoff : 0x1010 + 32 * m = 0x1000 + 32 * m + 16 := by omega
    rw [hoff]
    rcases hw with rfl | rfl
    · exact next_setBox_changes_only_its_box ((registerWrite_word hcore (by omega) (by omega)).trans (congrArg _ hsignal))
    · refine next_setBox_changes_only_its_box ((registerWrite_double hcore (by omega) (by omega)).trans (congrArg _ ?_))
      rw [hsignal, Nat.add_assoc, regWrite4_mailbox hm (by omega)]
      rfl
  case evSignal =>
    refine (registerWrite_word hcore (by omega) (by omega)).trans (congrArg _ ?_)
    rw [regWrite4, if_neg (by omega), if_neg (by omega), if_pos rfl, writeEvSignal, hopen]
    rfl
  case evHead =>
    refine (registerWrite_word hcore (by omega) (by omega)).trans (congrArg _ ?_)
    rw [regWrite4, if_neg (by omega), if_pos rfl, writeEvHead_of_inBounds hopen hfree hgap, hlo]
  case mailbox =>
    have hoff : ∀ o, 0x1000 + o + 32 * m = 0x1000 + 32 * m + o := fun o => Nat.add_right_comm _ _ _
    refine ⟨registerWrite_cmdTail hcore hm, registerWrite_cplHead hcore hm, ?_, ?_, registerWrite_heads hcore hm⟩
    · exact (hoff 4).symm ▸ registerWrite_mailbox_readOnly hcore hm (Or.inl rfl)
    · exact (hoff 8).symm ▸ registerWrite_mailbox_readOnly hcore hm (Or.inr rfl)
  case lighter =>
    exact ⟨registerWrite_lighterCtl hcore hl, registerWrite_inTail hcore hl, registerWrite_outHead hcore hl,
      registerWrite_lighter_readOnly hcore hl⟩
  case build =>
    exact (registerWrite_word hcore halign (by omega)).trans (congrArg _ (regWrite4_build hoff))

/-! The mailbox space over KHL. -/

section
variable {tag off n : Nat} {d : Bytes} {s : State}

theorem mboxRead_of_fits (hcore : coreRuns s = true) (h : mboxFits off n = true) :
    exec (.mboxRead tag off n) s = .next { s with out := s.out ++
      [.khl tag (khlResp tag 0x81 0 (if locked s then zeros n else mread s.mbox off n) s)] } := by
  rw [exec_mboxRead, execMboxRead, onWindow_of_coreRuns hcore]
  cases hl : locked s <;> simp [h, khlAnswer_ok]

theorem mboxRead_of_not_fits (hcore : coreRuns s = true) (h : mboxFits off n = false) :
    exec (.mboxRead tag off n) s = .next (khlAnswer tag 0x82 0x1202 [] s) := by
  rw [exec_mboxRead, execMboxRead, onWindow_of_coreRuns hcore]
  simp [h]

theorem mboxWrite_of_open (hcore : coreRuns s = true) (h : mboxFits off d.length = true) (hopen : locked s = false) :
    exec (.mboxWrite tag off d) s = .next { s with mbox := mwrite s.mbox off d, out := s.out ++
      [.khl tag (khlResp tag 0x80 0 [] s)] } := by
  rw [exec_mboxWrite, execMboxWrite, onWindow_of_coreRuns hcore]
  simp only [h, hopen, khlAnswer_ok, Bool.not_true, Bool.false_eq_true, if_false]
  rfl

theorem mboxWrite_of_locked (hcore : coreRuns s = true) (h : mboxFits off d.length = true) (hlocked : locked s = true) :
    exec (.mboxWrite tag off d) s = .next { s with out := s.out ++ [.khl tag (khlResp tag 0x80 0 [] s)] } := by
  rw [exec_mboxWrite, execMboxWrite, onWindow_of_coreRuns hcore]
  simp [h, hlocked, khlAnswer_ok]

end

theorem recordReason_out (code : Nat) (s : State) : (recordReason code s).out = s.out := by
  unfold recordReason
  split <;> rfl

/-- Settles O14: an access within R445's bounds reads or writes its bytes and is answered, one outside them is refused. -/
theorem mailboxSpaceAccess : Obligations.MailboxSpaceAccess := by
  intro tag off n d s hcore hwf
  refine ⟨fun hfits hopen => ?write, fun hfits => ⟨_, mboxRead_of_fits hcore hfits, rfl, rfl⟩,
    fun hfits hlocked => ⟨_, mboxWrite_of_locked hcore hfits hlocked⟩, fun hout => ?refused⟩
  case write =>
    refine ⟨_, khlResp tag 0x80 0 [] s, mboxWrite_of_open hcore hfits hopen, rfl, rfl, mread_mwrite hwf off d, fun x hx => ?_⟩
    rw [mread1_mwrite _ _ _ hwf, if_neg (by omega)]
  case refused =>
    refine ⟨_, khlResp tag 0x82 0x1202 [] s, mboxRead_of_not_fits hcore hout, khlAnswer_frame _ _ _ _ _, ?_, rfl, rfl⟩
    rw [khlAnswer_eq, emit, recordReason_out]

end Sys2Proof.Machine
end

section
/-! PROOFS. Port, switch and Pilot configuration; job queues: immediate commands that pass their checks, and what they set (R272 to R274,
R300 to R325, R349, R373, R412). -/

namespace Sys2Proof.Machine
open Sys2Proof

/-! Immediate commands. -/

@[simp] theorem firstCode_nil : firstCode [] = 0 := rfl

theorem firstCode_cons (b : Bool) (n : Nat) (cs : List (Bool × Nat)) :
    firstCode ((b, n) :: cs) = if b then n else firstCode cs := by
  cases b <;> rfl

@[simp] theorem firstCode_cons_true (n : Nat) (cs : List (Bool × Nat)) : firstCode ((true, n) :: cs) = n := rfl

@[simp] theorem firstCode_cons_false (n : Nat) (cs : List (Bool × Nat)) : firstCode ((false, n) :: cs) = firstCode cs := rfl

/-- An immediate command that fails a check is refused with its code and has no effect (R408). -/
theorem immediate_of_check_ne_zero {h : CmdHdr} {code c : Nat} {check : State → Nat} {effect : State → State}
    {data : State → Bytes} {applied : List Nat} {s : State} (hfw : fwRuns s = true) (hcheck : check s = c) (hc : c ≠ 0) :
    immediate h code check effect data applied s = .next (result h code c [] s) := by
  simp [immediate, onFw, hfw, hcheck, hc]

/-- A command that ends by its RESULT changes what it has done and what an answer may. -/
theorem exists_answer {i : Instr} {h : CmdHdr} {code reason : Nat} {body : Bytes} {s u : State}
    (hx : exec i s = .next (result h code reason body u)) : ∃ t, exec i s = .next t ∧ answerFrame u t :=
  ⟨_, hx, result_frame _ _ _ _ _⟩

/-- An immediate command that passes its checks has its effect, and changes no more than an answer may beyond it. -/
theorem exists_answer_immediate {i : Instr} {h : CmdHdr} {code : Nat} {check : State → Nat} {effect : State → State}
    {data : State → Bytes} {applied : List Nat} {s : State} (hx : exec i s = immediate h code check effect data applied s)
    (hfw : fwRuns s = true) (hcheck : check s = 0) : ∃ t, exec i s = .next t ∧ answerFrame (effect s) t :=
  exists_answer (hx.trans (immediate_of_check_eq_zero hfw hcheck))

theorem coreRuns_of_fwRuns {s : State} (h : fwRuns s = true) : coreRuns s = true := by
  simp only [fwRuns, Bool.and_eq_true] at h
  exact h.1.1.1

/-! BERTH.CONFIGURE. -/

section
variable {berth split : Nat} {x : CtxCfg} {s : State}

@[simp] theorem ctxAt_setCtx_self {n : Nat} {c : PortCtx} : ctxAt n (setCtx n c s) = some c := tget_tput_self _ _ _

theorem ctxAt_congr {t : State} (h : t.ports = s.ports) (n : Nat) : ctxAt n t = ctxAt n s := by
  rw [ctxAt, ctxAt, h]

theorem ctxAt_setCtx_ne {n k : Nat} {c : PortCtx} (h : k ≠ n) : ctxAt k (setCtx n c s) = ctxAt k s :=
  tget_tput_ne _ _ h.symm

/-- The state with a berth's split set (R272). -/
def setSplit (berth split : Nat) (s : State) : State :=
  { s with ports := { s.ports with splits := tput s.ports.splits berth split } }

theorem enableCode_setSplit : enableCode split x (setSplit berth split s) = enableCode split x s := rfl

/-- The berth's part has no enabled context. -/
theorem no_ctx_here {part : Nat} (hfree : (enabledCtxs s).any (fun p => p.2.berth == berth) = false) :
    ((enabledCtxs s).find? fun p => p.2.berth == berth && p.2.part == part) = none := by
  rw [List.find?_eq_none]
  intro p hp
  have hne := List.any_eq_false.mp hfree p hp
  simp_all

theorem configCtx_of_passing {part : Nat} (hfree : (enabledCtxs s).any (fun p => p.2.berth == berth) = false)
    (hon : x.enable = true) (hpass : enableCode split x s = 0) :
    configCtx berth split part x s = (0, startCtx berth part split x s) := by
  simp [configCtx, no_ctx_here hfree, hon, hpass]

theorem configCtx_of_failing {part : Nat} (hfree : (enabledCtxs s).any (fun p => p.2.berth == berth) = false)
    (hon : x.enable = true) (hfail : enableCode split x s ≠ 0) :
    configCtx berth split part x s = (enableCode split x s, s) := by
  simp [configCtx, no_ctx_here hfree, hon, hfail]

/-- One context on a free berth is judged on its first part (R274). -/
theorem exec_berthConfigure_of_free {h : CmdHdr} (hfw : fwRuns s = true) (hberth : berth < 128) (hsplit : split ≤ 2)
    (hid : x.contextId < 256) (hhost : x.hostId < 4096)
    (hfree : (enabledCtxs s).any (fun p => p.2.berth == berth) = false) :
    exec (.berthConfigure h berth split [x]) s =
      .next (result h 0x0101 (configCtx berth split 0 x (setSplit berth split s)).1 []
        (configCtx berth split 0 x (setSplit berth split s)).2) := by
  have hsmall : ¬ (128 ≤ berth ∨ ([x].any fun x => decide (256 ≤ x.contextId ∨ 4096 ≤ x.hostId)) = true) := by
    simp [hid, hhost, hberth]
  have hparts : ¬ 2 ^ split ≤ 0 := by simp
  rw [exec_berthConfigure, execBerthConfigure, onFw_of_fwRuns hfw]
  simp only [if_neg hsmall, if_neg (show ¬ 2 < split by omega), hfree, Bool.false_and, Bool.false_eq_true, if_false,
    List.zipIdx_cons, List.zipIdx_nil, List.foldl_cons, List.foldl_nil, if_neg hparts, if_true]
  rfl

end

/-- Settles O15: with no context on the berth the command is `configCtx` on its first part. -/
theorem berthIsConfigured : Obligations.BerthIsConfigured := by
  intro h berth split x s hfw hberth hsplit hid hhost hfree hon
  have hexec := exec_berthConfigure_of_free (h := h) hfw hberth hsplit hid hhost hfree
  refine ⟨fun hpass => ?enabled, fun hfail => ?refused⟩
  case enabled =>
    rw [configCtx_of_passing (s := setSplit berth split s) hfree hon hpass] at hexec
    have hframe := result_frame h 0x0101 0 [] (startCtx berth 0 split x (setSplit berth split s))
    have hports := hframe.ports_eq
    refine ⟨_, _, hexec, ?_, ?_, (ctxAt_congr hports _).trans ctxAt_setCtx_self, rfl, rfl, rfl, rfl, rfl,
      rfl, rfl, rfl, fun k hk => (ctxAt_congr hports k).trans (ctxAt_setCtx_ne hk)⟩
    · rw [hports]
      exact hframe
    · rw [hports]
      exact tgetD_tput_self _ _ _ _
  case refused =>
    rw [configCtx_of_failing (s := setSplit berth split s) hfree hon hfail, enableCode_setSplit] at hexec
    have hframe := result_frame h 0x0101 (enableCode split x s) [] (setSplit berth split s)
    have hports := hframe.ports_eq
    refine ⟨_, hexec, ?_, ?_⟩
    · rw [hports]
      exact hframe
    · rw [hports]
      rfl

/-! The switch core's commands. -/

section
variable {s : State}

theorem mem_insertSorted_iff {x y : Nat} {l : List Nat} : x ∈ insertSorted y l ↔ x = y ∨ x ∈ l := by
  induction l with
  | nil => simp [insertSorted]
  | cons a r ih =>
    unfold insertSorted
    split
    · simp_all
    split
    · simp
    · simp [ih, or_left_comm]

/-- One class of a context put under CUT or taken from it (R300). -/
def cutStep (ctx : Nat) (l : List Nat) (m : Nat × Nat) : List Nat :=
  if m.2 = 1 then insertSorted (16 * ctx + m.1) l else l.filter fun x => x != 16 * ctx + m.1

theorem mem_cutStep_ne {ctx k : Nat} {l : List Nat} {m : Nat × Nat} (h : k ≠ 16 * ctx + m.1) :
    k ∈ cutStep ctx l m ↔ k ∈ l := by
  unfold cutStep
  split
  · simp [mem_insertSorted_iff, h]
  · simp [h]

theorem mem_cutStep_self {ctx : Nat} {l : List Nat} {m : Nat × Nat} :
    16 * ctx + m.1 ∈ cutStep ctx l m ↔ m.2 = 1 := by
  unfold cutStep
  split
  · simp [mem_insertSorted_iff, *]
  · simp [*]

/-- A class that no mode names keeps its own. -/
theorem mem_foldl_cutStep_ne {ctx k : Nat} {modes : List (Nat × Nat)} (h : ∀ m ∈ modes, k ≠ 16 * ctx + m.1) (l : List Nat) :
    k ∈ modes.foldl (cutStep ctx) l ↔ k ∈ l := by
  induction modes generalizing l with
  | nil => rfl
  | cons m r ih =>
    rw [List.foldl_cons, ih fun m hm => h m (List.mem_cons_of_mem _ hm)]
    exact mem_cutStep_ne (h m List.mem_cons_self)

/-- The last mode named for a class holds. -/
theorem mem_foldl_cutStep_last {ctx cls mode : Nat} {pre post : List (Nat × Nat)} (h : ∀ m ∈ post, m.1 ≠ cls) (l : List Nat) :
    16 * ctx + cls ∈ (pre ++ (cls, mode) :: post).foldl (cutStep ctx) l ↔ mode = 1 := by
  rw [List.foldl_append, List.foldl_cons, mem_foldl_cutStep_ne fun m hm => ?_]
  · exact mem_cutStep_self
  · have := h m hm
    omega

end

theorem linkCodec_sets {h : CmdHdr} {s : State} (hfw : fwRuns s = true) {ctx classMask elemWidth maxWait : Nat} {c : PortCtx}
    (hctx : ctxAt ctx s = some c) (hon : c.enable = true) (hrole : c.role = 3) (hmask : classMask < 65536)
    (hlow : 256 ≤ if h.expert then maxWait else 1024) (hhigh : (if h.expert then maxWait else 1024) ≤ 8192)
    (hwidth : (if h.expert then elemWidth else 2) ∈ [1, 2, 4]) (hbasic : h.expert = false → elemWidth = 0 ∧ maxWait = 0) :
    ∃ t k, exec (.linkCodec h ctx classMask elemWidth maxWait) s = .next t ∧ answerFrame (setCodec ctx k s) t ∧
      tget t.ports.codecs ctx = some k ∧ k.classMask = classMask ∧ k.elemWidth = (if h.expert then elemWidth else 2) ∧
      k.maxWait = if h.expert then maxWait else 1024 := by
  have hfields : (!h.expert && (elemWidth != 0 || maxWait != 0)) = false := by
    cases hx : h.expert with
    | true => rfl
    | false => simp [hbasic hx]
  obtain ⟨t, hexec, hframe⟩ := exists_answer_immediate (exec_linkCodec h ctx classMask elemWidth maxWait s) hfw (by
    generalize (if h.expert = true then elemWidth else 2) = w at hwidth
    have hcontains : [1, 2, 4].contains w = true := by simpa using hwidth
    have hrange : ¬ (65536 ≤ classMask ∨ (if h.expert then maxWait else 1024) < 256 ∨
        8192 < if h.expert then maxWait else 1024) := by omega
    rw [hcontains, hfields, decide_eq_false hrange]
    simp [hctx, hon, hrole])
  have hports := hframe.ports_eq
  refine ⟨t, _, hexec, hframe, by rw [hports]; exact tget_tput_self _ _ _, ?_⟩
  cases tget s.ports.codecs ctx <;> exact ⟨rfl, rfl, rfl⟩

theorem switchForwarding_sets {h : CmdHdr} {s : State} (hfw : fwRuns s = true) {ctx : Nat} {modes : List (Nat × Nat)}
    (hmodes : ∀ m ∈ modes, m.2 ≤ 1 ∧ m.1 ≤ 15) (hctx : ctxExists ctx s = true) :
    ∃ t, exec (.switchForwarding h ctx modes) s = .next t ∧
      answerFrame { s with sw := { s.sw with cut := modes.foldl (cutStep ctx) s.sw.cut } } t := by
  have hlegal : (modes.any fun m => decide (1 < m.2 ∨ 15 < m.1)) = false := by
    rw [List.any_eq_false]
    intro m hm
    have := hmodes m hm
    rw [decide_eq_true_eq]
    omega
  exact exists_answer_immediate (exec_switchForwarding h ctx modes s) hfw (by rw [hlegal, hctx]; rfl)

theorem switchForwarding_of_refused {h : CmdHdr} {s : State} (hfw : fwRuns s = true) {ctx : Nat} {modes : List (Nat × Nat)}
    (hbad : (modes.any fun m => decide (1 < m.2 ∨ 15 < m.1)) = true ∨ ctxExists ctx s = false) :
    exec (.switchForwarding h ctx modes) s = .next (result h 0x0301 0x0301 [] s) := by
  rw [exec_switchForwarding]
  refine immediate_of_check_ne_zero hfw (if_pos ?_) (by decide)
  rcases hbad with hmode | hctx
  · rw [hmode, Bool.true_or]
  · simp [hctx]

theorem mirrorSession_sets {h : CmdHdr} {s : State} (hfw : fwRuns s = true) {session target : Nat} {src : MirrorSource}
    {c : PortCtx} (hctx : ctxAt target s = some c) (hon : c.enable = true) (hrole : c.role = 4) (hsession : session ≤ 7)
    (hsrc : mirrorSourceOk src = true) (hmembers : s.man.comp.members.length ≤ 8) :
    ∃ t, exec (.mirrorSession h session target src) s = .next t ∧
      answerFrame { s with sw := { s.sw with mirrors := tput s.sw.mirrors session (target, src) } } t :=
  exists_answer_immediate (exec_mirrorSession h session target src s) hfw (by simp [hctx, hon, hrole, hsession, hsrc, hmembers])

/-- The samplers after a command for one of them: replaced where it stands, else added (R308). -/
def putSampler (x : Sampler) (l : List Sampler) : List Sampler :=
  if l.any fun y => y.ctx == x.ctx && y.egress == x.egress then
    l.map fun y => if y.ctx == x.ctx && y.egress == x.egress then x else y
  else l ++ [x]

theorem mem_putSampler (x : Sampler) (l : List Sampler) : x ∈ putSampler x l := by
  unfold putSampler
  split
  next hany =>
    obtain ⟨y, hy, hmine⟩ := List.any_eq_true.mp hany
    exact List.mem_map.mpr ⟨y, hy, if_pos hmine⟩
  next => simp

/-- The other samplers stay, in their order. -/
theorem putSampler_others (x : Sampler) (l : List Sampler) :
    ((putSampler x l).filter fun y => !(y.ctx == x.ctx && y.egress == x.egress)) =
      l.filter fun y => !(y.ctx == x.ctx && y.egress == x.egress) := by
  unfold putSampler
  split
  · clear * -
    induction l with
    | nil => rfl
    | cons y r ih =>
      rw [List.map_cons, List.filter_cons, List.filter_cons, ih]
      cases hmine : (y.ctx == x.ctx && y.egress == x.egress) <;> simp [hmine]
  · simp

/-- A sampler begins with a free skip below 2N (R308). -/
def freshSampler (ctx : Nat) (egress : Bool) (n : Nat) (s : State) : Sampler :=
  { ctx := ctx, egress := egress, n := n, skip := Config.free s.freeCount % (2 * 2 ^ n), taken := 0, dropped := 0 }

theorem freshSampler_skip_lt {ctx n : Nat} {egress : Bool} {s : State} : (freshSampler ctx egress n s).skip < 2 * 2 ^ n :=
  Nat.mod_lt _ (by positivity)

/-- The state with a sampler put in place, its free skip drawn. -/
def withSampler (x : Sampler) (s : State) : State :=
  { s with freeCount := s.freeCount + 1, sw := { s.sw with samplers := putSampler x s.sw.samplers } }

theorem sampleConfigure_sets {h : CmdHdr} {s : State} (hfw : fwRuns s = true) {ctx n : Nat} {egress : Bool} (hlow : 6 ≤ n)
    (hhigh : n ≤ 20) (hctx : ctxExists ctx s = true) (hroom : s.sw.samplers.length < 512) :
    ∃ t, exec (.sampleConfigure h ctx egress n) s = .next t ∧
      answerFrame (withSampler (freshSampler ctx egress n s) s) t := by
  have hrange : ¬ (n < 6 ∨ 20 < n) := by omega
  have hfull : ¬ 512 ≤ s.sw.samplers.length := by omega
  have hanswer := exists_answer_immediate (exec_sampleConfigure h ctx egress n s) hfw (by simp [hrange, hctx, hfull])
  exact hanswer

/-- Settles O16: each of the four commands by its own lemma; the last mode named for a class is the one in force. -/
theorem switchIsConfigured : Obligations.SwitchIsConfigured := by
  intro h s hfw
  refine ⟨fun ctx classMask elemWidth maxWait c hctx hon hrole hmask hlow hhigh hwidth hbasic =>
    linkCodec_sets hfw hctx hon hrole hmask hlow hhigh hwidth hbasic, fun ctx pre cls mode post hmodes hlast hctx => ?forwarding,
    fun ctx modes hbad => switchForwarding_of_refused hfw hbad,
    fun session target src c hctx hon hrole hsession hsrc hmembers =>
      mirrorSession_sets hfw hctx hon hrole hsession hsrc hmembers, fun ctx egress n hlow hhigh hctx hroom => ?sample⟩
  case forwarding =>
    obtain ⟨t, hexec, hframe⟩ := switchForwarding_sets (h := h) hfw hmodes hctx
    have hsw := hframe.sw_eq
    refine ⟨t, hexec, by rw [hsw]; exact hframe, ?_, fun k hk => ?_⟩
    · rw [hsw]
      exact mem_foldl_cutStep_last hlast _
    · rw [hsw]
      exact mem_foldl_cutStep_ne hk _
  case sample =>
    obtain ⟨t, hexec, hframe⟩ := sampleConfigure_sets (h := h) (egress := egress) hfw hlow hhigh hctx hroom
    have hsw := hframe.sw_eq
    have hfree := hframe.freeCount_eq
    refine ⟨t, _, hexec, by rw [hsw, hfree]; exact hframe, by rw [hsw]; exact mem_putSampler _ _, rfl, rfl, rfl,
      freshSampler_skip_lt, rfl, rfl, ?_⟩
    rw [hsw]
    exact putSampler_others (freshSampler ctx egress n s) _

/-! The Pilot's ports, hosts and queues. -/

/-- Numbers put from b + k on stand there, and only there. -/
theorem tget_foldl_tput {α : Type} (b : Nat) (l : List α) (k i : Nat) (t : Tbl α) :
    tget ((l.zipIdx k).foldl (fun t w => tput t (b + w.2) w.1) t) (b + i) =
      if k ≤ i ∧ i < k + l.length then l[i - k]? else tget t (b + i) := by
  induction l generalizing k t with
  | nil =>
    have hnone : ¬ (k ≤ i ∧ i < k + ([] : List α).length) := by simp
    rw [if_neg hnone]
    rfl
  | cons x r ih =>
    rw [List.zipIdx_cons, List.foldl_cons, ih]
    rcases Nat.lt_trichotomy i k with hlt | rfl | hgt
    · rw [if_neg (by omega), if_neg (by omega), tget_tput_ne _ _ (by omega)]
    · rw [if_neg (by omega), if_pos (by simp), tget_tput_self]
      simp
    · have hsub : i - k = (i - (k + 1)) + 1 := by omega
      by_cases hin : i < k + (r.length + 1)
      · rw [if_pos (by omega), if_pos (by simpa using ⟨hgt.le, hin⟩), hsub, List.getElem?_cons_succ]
      · rw [if_neg (by omega), if_neg (by simp; omega), tget_tput_ne _ _ (by omega)]

theorem pilotPort_sets {h : CmdHdr} {s : State} (hfw : fwRuns s = true) {ctx overhead : Nat} {weights : List Nat}
    (hctx : ctx ≤ 256) (hover : overhead ≤ 255) (hlen : weights.length = 16) (hweights : ∀ w ∈ weights, 1 ≤ w ∧ w ≤ 1024) :
    ∃ t, exec (.pilotPort h ctx weights overhead) s = .next t ∧
      answerFrame { s with pilot := { s.pilot with
        overheads := tput s.pilot.overheads ctx overhead,
        weights := (weights.zipIdx).foldl (fun t w => tput t (16 * ctx + w.2) w.1) s.pilot.weights } } t := by
  have hrange : ¬ (256 < ctx ∨ 255 < overhead ∨ weights.length ≠ 16) := by omega
  have hlegal : (weights.any fun w => decide (w = 0 ∨ 1024 < w)) = false := by
    rw [List.any_eq_false]
    intro w hw
    have := hweights w hw
    rw [decide_eq_true_eq]
    omega
  exact exists_answer_immediate (exec_pilotPort h ctx weights overhead s) hfw
    (by rw [hlegal, decide_eq_false hrange]; rfl)

theorem pilotHost_sets {h : CmdHdr} {s : State} (hfw : fwRuns s = true) {host m rate burst : Nat} (hx : h.expert = true)
    (hown : ownHost host s = true) (hm : 1 ≤ m ∧ m ≤ 4096) (hrate : 1 ≤ rate ∧ rate ≤ 400000)
    (hburst : 4096 ≤ burst ∧ burst ≤ 4194304) :
    ∃ t, exec (.pilotHost h host m rate burst) s = .next t ∧
      answerFrame (setHost host { hostOf host s with maxOutstanding := m, rate := rate, burst := burst } s) t := by
  have hrange : ¬ (m = 0 ∨ 4096 < m ∨ rate = 0 ∨ 400000 < rate ∨ burst < 4096 ∨ 4194304 < burst) := by omega
  refine exists_answer (h := h) (code := 0x0605) (reason := 0) (body := []) ?_
  rw [exec_pilotHost, execPilotHost, onFw_of_fwRuns hfw]
  simp only [hx, Bool.not_true, Bool.false_and, Bool.false_eq_true, if_false, if_true, hown, Bool.false_or,
    decide_eq_false hrange]

theorem pilotQueues_waits {h : CmdHdr} {s : State} (hfw : fwRuns s = true) {ctx cls pool count select : Nat} {l : List Nat}
    (hctx : ctx ≤ 256) (hcls : cls ≤ 15) (hpool : 1 ≤ pool ∧ pool ≤ 3) (hcount : 1 ≤ count ∧ count ≤ 64)
    (hselect : select ≤ 2) (hone : select = 1 → pool = 1) (hsubs : subsFor (baseQueue ctx cls pool) count s = some l) :
    ∃ t, exec (.pilotQueues h ctx cls pool count select) s = .next t ∧
      answerFrame { s with pilot := { s.pilot with
        pendingSubs := s.pilot.pendingSubs ++ [(baseQueue ctx cls pool, l, select)] } } t := by
  have hrange : ¬ (256 < ctx ∨ 15 < cls ∨ pool = 0 ∨ 3 < pool ∨ count = 0 ∨ 64 < count ∨ 2 < select ∨
      (select = 1 ∧ pool ≠ 1)) := by omega
  have h' := exists_answer_immediate (exec_pilotQueues h ctx cls pool count select s) hfw
    (by simp only [decide_eq_false hrange, hsubs]; rfl)
  simpa only [hsubs] using h'

/-- One base queue's sub-queues put in force, the old ones' cells released (R314). -/
def subsStep (s : State) (p : Nat × List Nat × Nat) : State :=
  let old := match tget s.pilot.subs p.1 with | some x => x.1.drop 1 | none => []
  let gone := old.filter fun q => !p.2.1.contains q
  { s with pilot := { s.pilot with subs := tput s.pilot.subs p.1 p.2,
                                   eras := tput s.pilot.eras p.1 (tgetD s.pilot.eras p.1 0 + 1),
                                   releasing := s.pilot.releasing ++ gone } }

theorem foldl_subsStep_eq (l : List (Nat × List Nat × Nat)) (s : State) :
    l.foldl subsStep s = { s with pilot := (l.foldl subsStep s).pilot } := by
  induction l generalizing s with
  | nil => rfl
  | cons p r ih =>
    rw [List.foldl_cons, ih]
    rfl

theorem foldl_subsStep_ne {b : Nat} {l : List (Nat × List Nat × Nat)} (h : ∀ p ∈ l, p.1 ≠ b) (s : State) :
    tget (l.foldl subsStep s).pilot.subs b = tget s.pilot.subs b := by
  induction l generalizing s with
  | nil => rfl
  | cons p r ih =>
    rw [List.foldl_cons, ih fun q hq => h q (List.mem_cons_of_mem _ hq)]
    exact tget_tput_ne _ _ (h p List.mem_cons_self)

/-- The queues are no longer waiting, and a released one without cells is free (R314). -/
def subsApplied (s : State) : State :=
  { s with pilot := { s.pilot with
      pendingSubs := [],
      releasing := s.pilot.releasing.filter fun q => s.sw.cells.any fun c => c.queue == q } }

theorem queuesApply_eq (s : State) : queuesApply s = subsApplied (s.pilot.pendingSubs.foldl subsStep s) := rfl

theorem queuesApply_changes_pilot (s : State) : queuesApply s = { s with pilot := (queuesApply s).pilot } := by
  have hfold := foldl_subsStep_eq s.pilot.pendingSubs s
  rw [queuesApply_eq]
  generalize s.pilot.pendingSubs.foldl subsStep s = u at hfold ⊢
  rw [hfold]
  rfl

/-- Settles O18: PILOT.PORT's weights are put one by one, and of the sub-queues waiting for a base queue the last are put last. -/
theorem pilotIsConfigured : Obligations.PilotIsConfigured := by
  intro h s hfw
  refine ⟨fun ctx weights overhead hctx hover hlen hweights => ?port,
    fun host m rate burst hx hown hm hm' hr hr' hb hb' => pilotHost_sets hfw hx hown ⟨hm, hm'⟩ ⟨hr, hr'⟩ ⟨hb, hb'⟩,
    fun ctx cls pool count select l hctx hcls hp hp' hc hc' hs hone hsubs =>
      pilotQueues_waits hfw hctx hcls ⟨hp, hp'⟩ ⟨hc, hc'⟩ hs hone hsubs, fun b l select pre post hsubs hlast => ?apply⟩
  case port =>
    obtain ⟨t, hexec, hframe⟩ := pilotPort_sets (h := h) hfw hctx hover hlen hweights
    have hpilot := hframe.pilot_eq
    refine ⟨t, hexec, by rw [hpilot]; exact hframe, by rw [hpilot]; exact tgetD_tput_self _ _ _ _, fun i hi => ?_⟩
    rw [hpilot]
    refine (tget_foldl_tput _ _ _ _ _).trans ?_
    rw [if_pos (by omega)]
    rfl
  case apply =>
    refine ⟨queuesApply s, onCore_of_coreRuns (coreRuns_of_fwRuns hfw) _, queuesApply_changes_pilot s, ?_, rfl⟩
    rw [queuesApply_eq, hsubs, List.foldl_append, List.foldl_cons]
    refine (foldl_subsStep_ne hlast _).trans ?_
    exact tget_tput_self _ _ _

/-! Floors and records of the Pilot. -/

/-- The floor PILOT.PILOTQ grants: from the present tide, with no credit (R319, R321). -/
def grantedFloor (b : PilotqBlock) (s : State) : PilotQ :=
  { queue := b.queue, rate := b.rate, burst := b.burst, latencyTarget := b.latencyTarget, grantTide := s.tide.count,
    credit := 0, since := s.refCycles, owed := b.rate, ending := false }

/-- The floors that stand beside the one a block names (R321). -/
def otherFloors (b : PilotqBlock) (s : State) : List PilotQ :=
  s.pilot.pilots.filterMap fun p =>
    if p.queue != b.queue then (if !p.ending || pilotHolds p s then some p else none)
    else if b.flags = 1 then none else if pilotHolds p s then some { p with ending := true } else none

section
variable {h : CmdHdr} {b : PilotqBlock} {s : State}

theorem pilotPilotq_of_reserved (hfw : fwRuns s = true) (hbad : 2 ≤ b.flags ∨ b.reserved ≠ 0) :
    exec (.pilotPilotq h b) s = .next (result h 0x0604 0x0003 [] s) := by
  rw [exec_pilotPilotq, execPilotPilotq, onFw_of_fwRuns hfw, if_pos hbad]

theorem pilotPilotq_of_passing (hfw : fwRuns s = true) (hx : h.expert = true) (hflags : b.flags ≤ 1) (hres : b.reserved = 0)
    (hpass : pilotqCode b s = 0) :
    ∃ t, exec (.pilotPilotq h b) s = .next t ∧
      answerFrame { s with pilot := { s.pilot with
        pilots := if b.flags = 1 then otherFloors b s ++ [grantedFloor b s] else otherFloors b s } } t := by
  have hok : ¬ (2 ≤ b.flags ∨ b.reserved ≠ 0) := by omega
  have hfill : pilotqFill h b s = b := if_pos hx
  have hzero : ¬ ((0 : Nat) ≠ 0) := fun h => h rfl
  refine exists_answer (h := h) (code := 0x0604) (reason := 0) (body := []) ?_
  rw [exec_pilotPilotq, execPilotPilotq, onFw_of_fwRuns hfw]
  simp only [if_neg hok, hx, Bool.not_true, Bool.false_and, Bool.false_eq_true, if_false, hfill, hpass, if_neg hzero, if_true]
  rfl

/-- Of the floor a block ends, what remains is ending (R321). -/
theorem ending_of_mem_otherFloors (hflags : b.flags = 0) {p : PilotQ} (hp : p ∈ otherFloors b s) (hq : p.queue = b.queue) :
    p.ending = true := by
  obtain ⟨q, -, hkept⟩ := List.mem_filterMap.mp hp
  split at hkept
  next hne =>
    split at hkept
    · cases hkept
      simp [hq] at hne
    · cases hkept
  next =>
    rw [if_neg (by omega)] at hkept
    split at hkept
    · cases hkept
      rfl
    · cases hkept

/-- A record of those read with its maxima and count zeroed, another as it was (R325). -/
def wipeRecord (keys : List Nat) (p : Nat × QueueRec) : Nat × QueueRec :=
  if keys.contains p.1 then (p.1, { p.2 with maxDepth := 0, maxDelay := 0, overTarget := 0 }) else p

theorem wipeRecord_keeps_sample (keys : List Nat) (p : Nat × QueueRec) :
    ((wipeRecord keys p).1, (wipeRecord keys p).2.lastDepth, (wipeRecord keys p).2.lastDelay) =
      (p.1, p.2.lastDepth, p.2.lastDelay) := by
  unfold wipeRecord
  split <;> rfl

theorem wipeRecord_maxima {keys : List Nat} {p : Nat × QueueRec} (hp : (wipeRecord keys p).1 ∈ keys) :
    (wipeRecord keys p).2.maxDepth = 0 ∧ (wipeRecord keys p).2.maxDelay = 0 ∧ (wipeRecord keys p).2.overTarget = 0 := by
  unfold wipeRecord at hp ⊢
  split at hp
  next hin => simp only [if_pos hin, and_self]
  next hout => exact absurd (List.contains_iff_mem.mpr hp) hout

theorem mem_upto {a n x : Nat} (hlow : a ≤ x) (hhigh : x < a + n) : x ∈ upto a n :=
  List.mem_map.mpr ⟨x - a, List.mem_range.mpr (by omega), by omega⟩

theorem pilotStats_of_range (hfw : fwRuns s = true) {user clear : Bool} {first count : Nat} (hlow : 1 ≤ count)
    (hhigh : count ≤ 262) (hend : first + count ≤ (if user then 65536 else 16384)) :
    (clear = false → ∃ t, exec (.pilotStats h user first count clear) s = .next t ∧ answerFrame s t) ∧
    (clear = true → user = false → ∃ t, exec (.pilotStats h user first count clear) s = .next t ∧
      answerFrame { s with pilot := { s.pilot with recs := s.pilot.recs.map (wipeRecord (upto first count)) } } t) := by
  have hcode : ¬ (count = 0 ∨ 262 < count ∨ (if user then 65536 else 16384) < first + count) := by omega
  have hanswer := exists_answer_immediate (exec_pilotStats h user first count clear s) hfw (if_neg hcode)
  refine ⟨fun hclear => ?_, fun hclear huser => ?_⟩
  · subst hclear
    exact hanswer
  · subst hclear huser
    exact hanswer

end

/-- Settles O19: the granted floor stands behind the others, an ended one is ending, and records are wiped one by one. -/
theorem pilotFloorsAndRecords : Obligations.PilotFloorsAndRecords := by
  intro h s hfw
  refine ⟨fun b hbad => pilotPilotq_of_reserved hfw hbad, fun b hx hflags hres hpass => ?grant,
    fun b hx hflags hres hpass => ?ends, fun user first count hlow hhigh hend => (pilotStats_of_range hfw hlow hhigh hend).1 rfl,
    fun first count hlow hhigh hend => ?clear⟩
  case grant =>
    obtain ⟨t, hexec, hframe⟩ := pilotPilotq_of_passing (h := h) hfw hx (by omega) hres hpass
    rw [if_pos hflags] at hframe
    have hpilot := hframe.pilot_eq
    refine ⟨t, grantedFloor b s, hexec, by rw [hpilot]; exact hframe, ?_, rfl, rfl, rfl, rfl, rfl, rfl, rfl⟩
    rw [hpilot]
    exact List.mem_append_right _ List.mem_cons_self
  case ends =>
    obtain ⟨t, hexec, hframe⟩ := pilotPilotq_of_passing (h := h) hfw hx (by omega) hres hpass
    rw [if_neg (by omega)] at hframe
    have hpilot := hframe.pilot_eq
    refine ⟨t, hexec, by rw [hpilot]; exact hframe, fun p hp hq => ?_⟩
    rw [hpilot] at hp
    exact ending_of_mem_otherFloors hflags hp hq
  case clear =>
    obtain ⟨t, hexec, hframe⟩ := (pilotStats_of_range (h := h) (user := false) hfw hlow hhigh hend).2 rfl rfl
    have hpilot := hframe.pilot_eq
    refine ⟨t, hexec, by rw [hpilot]; exact hframe, ?_, fun p hp hfirst hlast => ?_⟩
    · rw [hpilot]
      simp only [List.map_map]
      exact List.map_congr_left fun p _ => wipeRecord_keeps_sample _ p
    · rw [hpilot] at hp
      obtain ⟨q, -, rfl⟩ := List.mem_map.mp hp
      exact wipeRecord_maxima (mem_upto hfirst hlast)

/-! What a message to the ring leaves. -/

/-- A message to the ring changes only the ring. -/
theorem ringSend_eq (d : Option Nat) (m : SlotMsg) (s : State) :
    ringSend d m s = { s with ring := (ringSend d m s).ring } := by
  have h := ringSend_keeps (fun t : State => { t with ring := s.ring }) (fun _ _ _ _ => rfl) d m s
  calc ringSend d m s = { ({ ringSend d m s with ring := s.ring } : State) with ring := (ringSend d m s).ring } := rfl
    _ = _ := by rw [h]

theorem control_eq (d : Option Nat) (code : Nat) (args : List Nat) (s : State) :
    control d code args s = { s with ring := (control d code args s).ring } := by
  unfold control
  rw [ringSend_eq]

theorem announceQueue_eq (queue owner : Nat) (opened : Bool) (s : State) :
    announceQueue queue owner opened s = { s with ring := (announceQueue queue owner opened s).ring } := by
  unfold announceQueue
  split
  · rfl
  · exact control_eq _ _ _ _

/-! Job queues. -/

/-- Queue `queue` of this device as JOBQ.OPEN opens it (R349, R412). -/
def openedQueue (h : CmdHdr) (queue mailbox : Nat) (s : State) : JobQueue :=
  { queue := queue, owner := self s, next := 1, mailbox := mailbox, viaLighter := h.viaLighter }

/-- This device's queues with another list in their place. -/
def setQueues (l : List JobQueue) (s : State) : State := { s with acc := { s.acc with queues := l } }

section
variable {h : CmdHdr} {queue : Nat} {s : State}

theorem jobqOpen_of_free (hfw : fwRuns s = true) (hqueue : queue < 256) {mailbox : Nat} (hmailbox : mailbox < 16)
    (hfree : queueAt queue (self s) s = none) :
    ∃ t, exec (.jobqOpen h queue mailbox) s = .next t ∧
      answerFrame (announceQueue queue (self s) true (setQueues (s.acc.queues ++ [openedQueue h queue mailbox s]) s)) t := by
  have hrange : ¬ (16 ≤ mailbox ∨ 256 ≤ queue) := by omega
  exact exists_answer_immediate (exec_jobqOpen h queue mailbox s) hfw (by simp [hrange, hfree])

/-- Does a job of this device's stand in the queue (R373)? -/
def holdsJob (queue : Nat) (s : State) : Bool :=
  s.acc.jobs.any fun j => j.guest.isNone && j.hdr.queue == queue && queueOwner j.hdr j.device == self s

/-- JOBQ.CLOSE's checks for a queue that is open (R373, R412). -/
theorem jobqClose_code (hqueue : queue < 256) (hopen : (queueAt queue (self s) s).isSome = true) :
    firstCode [(decide (256 ≤ queue ∨ 64 ≤ 0 % 128 ∨ (0 < 128 ∧ 0 ≠ 0)), 0x0003),
      ((queueAt queue (self s) s).isNone, 0x1301), (holdsJob queue s, 0x1310)] = if holdsJob queue s then 0x1310 else 0 := by
  have hrange : ¬ (256 ≤ queue ∨ 64 ≤ 0 % 128 ∨ (0 < 128 ∧ 0 ≠ 0)) := by omega
  have hclosed : (queueAt queue (self s) s).isNone = false := by
    rw [← Option.not_isSome, hopen]
    rfl
  rw [decide_eq_false hrange, hclosed]
  cases holdsJob queue s <;> rfl

theorem jobqClose_of_empty (hfw : fwRuns s = true) (hqueue : queue < 256) (hopen : (queueAt queue (self s) s).isSome = true)
    (hempty : holdsJob queue s = false) :
    ∃ t, exec (.jobqClose h queue 0) s = .next t ∧
      answerFrame (announceQueue queue (self s) false
        (setQueues (s.acc.queues.filter fun q => !(q.queue == queue && q.owner == self s)) s)) t :=
  exists_answer_immediate (exec_jobqClose h queue 0 s) hfw ((jobqClose_code hqueue hopen).trans (by rw [hempty]; rfl))

theorem jobqClose_of_holding (hfw : fwRuns s = true) (hqueue : queue < 256)
    (hopen : (queueAt queue (self s) s).isSome = true) (hholds : holdsJob queue s = true) :
    exec (.jobqClose h queue 0) s = .next (result h 0x0F02 0x1310 [] s) := by
  rw [exec_jobqClose]
  exact immediate_of_check_ne_zero hfw ((jobqClose_code hqueue hopen).trans (by rw [hholds]; rfl)) (by decide)

theorem holdsJob_iff : holdsJob queue s = true ↔
    ∃ j ∈ s.acc.jobs, j.guest = none ∧ j.hdr.queue = queue ∧ queueOwner j.hdr j.device = self s := by
  simp [holdsJob, and_assoc]

/-- A queue filtered from the list is no longer found. -/
theorem queueAt_filtered (owner : Nat) :
    (s.acc.queues.filter fun q => !(q.queue == queue && q.owner == owner)).find?
      (fun x => x.queue == queue && x.owner == owner) = none := by
  rw [List.find?_eq_none]
  intro q hq
  rw [Bool.not_eq_true, ← Bool.not_eq_true']
  exact (List.mem_filter.mp hq).2

end

/-- Settles O20: opening adds the queue, closing filters it from the list where no job of the device stands in it. -/
theorem jobQueuesOpenAndClose : Obligations.JobQueuesOpenAndClose := by
  intro h queue s hfw hqueue
  refine ⟨fun mailbox hmailbox hfree => ?opens, fun hopen hempty => ?closes,
    fun j hj hopen hguest hq howner => jobqClose_of_holding hfw hqueue hopen (holdsJob_iff.mpr ⟨j, hj, hguest, hq, howner⟩)⟩
  case opens =>
    obtain ⟨t, hexec, hframe⟩ := jobqOpen_of_free (h := h) hfw hqueue hmailbox hfree
    refine ⟨t, hexec, ?_⟩
    rw [hframe.ring_eq]
    rw [announceQueue_eq] at hframe
    exact hframe
  case closes =>
    have hnone : holdsJob queue s = false := by
      rw [Bool.eq_false_iff]
      intro hholds
      obtain ⟨j, hj, hguest, hq, howner⟩ := holdsJob_iff.mp hholds
      exact hempty j hj hguest hq howner
    obtain ⟨t, hexec, hframe⟩ := jobqClose_of_empty (h := h) hfw hqueue hopen hnone
    refine ⟨t, hexec, ?_, ?_⟩
    · rw [announceQueue_eq] at hframe
      rw [queueAt, hframe.acc_eq]
      exact queueAt_filtered _
    · rw [hframe.ring_eq]
      rw [announceQueue_eq] at hframe
      exact hframe

end Sys2Proof.Machine
end

section
/-! PROOFS. Domain changes: late boundaries, and a rotation that its own check refuses (R33, R50, R395, R416). -/

namespace Sys2Proof.Machine
open Sys2Proof

/-! Change commands. -/

section
variable {h : CmdHdr} {command atTide late : Nat} {set : Bool} {code : State → Nat} {change : State → Change × State} {s : State}

/-- A change command whose own code is not zero is refused with it (R408). -/
theorem changeCommand_of_code (hfw : fwRuns s = true) (hx : h.expert = true) (hheld : changeHeld h (change s).1 s = false)
    (hcode : code s ≠ 0) :
    changeCommand h command atTide late set code change s = .next (result h command (code s) [] s) := by
  rw [changeCommand, onFw_of_fwRuns hfw]
  simp [hx, hheld, hcode]

/-- In expert form, a change that passes this device's check and whose boundary is fewer than 16 tides ahead is refused with its
late code, before CHANGE_BUSY (R33, R50; log 21). -/
theorem changeCommand_of_late (hfw : fwRuns s = true) (hx : h.expert = true) (hheld : changeHeld h (change s).1 s = false)
    (hcode : code s = 0) (hcheck : checkChange (change s).1 atTide none s = 0) (hlate : atTide < s.tide.count + 16)
    (hne : late ≠ 0) :
    changeCommand h command atTide late set code change s = .next (result h command late [] s) := by
  rw [changeCommand, onFw_of_fwRuns hfw]
  simp only [hx, hheld, hcode, hcheck, Bool.not_true, Bool.false_and, Bool.false_eq_true, if_false, if_true, ne_eq,
    not_true_eq_false, decide_eq_true hlate]
  split <;> simp [hne]

end

/-- Settles O22: a route map has no check of its own, a tide length code below 5 passes its, and one above is refused first. -/
theorem lateChangesAreRefused : Obligations.LateChangesAreRefused := by
  intro h atTide s hfw hx hlate
  refine ⟨fun m hheld => ?route, fun k hk hheld => ?length, fun k hk => ?code⟩
  case route =>
    rw [exec_routeCommit, execRouteCommit]
    exact changeCommand_of_late hfw hx hheld rfl rfl hlate (by decide)
  case length =>
    rw [exec_tideSetLength, execTideSetLength, if_neg (by omega)]
    exact changeCommand_of_late hfw hx hheld rfl (if_neg (by omega)) hlate (by decide)
  case code => 
    rw [exec_tideSetLength, execTideSetLength, if_pos hk, onFw_of_fwRuns hfw]

/-! A rotation whose charter another member has announced and no boundary has created yet. -/

/-- Member 1 has announced confidential charter 5 for tide 16. -/
def charterPending : State :=
  { State.reset with
      hm := { State.reset.hm with fwReady := true },
      man := { State.reset.man with notices :=
        [{ id := ⟨1, 0⟩, change := .charterCreate 5 true [], atTide := 16, committed := true, ready := true }] } }

/-- A command block in expert form that came by lighter 0. -/
def lighterHdr : CmdHdr := { mailbox := 0, tag := 0, expert := true, viaLighter := true }

/-- As the pending change would leave it, the charter may be rotated at tide 17. -/
theorem rotation_ready_when_charterPending :
    changeHeld lighterHdr (.charterRotate 5 20 (fit 64 [])) charterPending = false ∧
    checkChange (.charterRotate 5 20 (fit 64 [])) 17 none charterPending = 0 ∧
    changeBusy (.charterRotate 5 20 (fit 64 [])) 17 none charterPending = false := by
  decide

/-- The command's own check looks at the charters in force, finds none and refuses it with 0x1001. -/
theorem rotation_refused_when_charterPending :
    exec (.charterRotate lighterHdr 5 2 20 [] 17) charterPending = .next (result lighterHdr 0x0D03 0x1001 [] charterPending) := by
  rw [exec_charterRotate, execCharterRotate, changeCommand_of_code (by decide) rfl (by decide) (by decide)]
  rfl

/-- Refutes O21: CHARTER.ROTATE judges the charter in force besides the one that pending changes leave, so a rotation of a charter
announced for an earlier boundary is refused although it is not held, passes its check and meets no busy change. -/
theorem not_changesAreIssued : ¬ Obligations.ChangesAreIssued := by
  intro h
  obtain ⟨-, -, -, -, -, -, -, -, -, -, -, -, -, hrotate, -⟩ :=
    h lighterHdr 17 charterPending (by decide) (Or.inl rfl) (by decide) (fun hx => absurd hx (by decide))
  obtain ⟨t, k, x, hexec, hman, -⟩ := hrotate 5 20 [] rfl rfl rotation_ready_when_charterPending
  have ht : t = result lighterHdr 0x0D03 0x1001 [] charterPending :=
    (Host.Outcome.next.inj (rotation_refused_when_charterPending.symm.trans hexec)).symm
  have hkept : t.man.nextChange = 0 := by
    rw [ht, (result_frame _ _ _ _ _).man_eq]
    rfl
  have hnext : t.man.nextChange = 1 := by rw [hman]; rfl
  omega

end Sys2Proof.Machine
end

section
/-! PROOFS. MANIFEST.SYNC, SCHEDULES AND COPIES, TELEMETRY. -/

namespace Sys2Proof.Machine
open Sys2Proof

/-! MANIFEST.SYNC. -/

/-- Copies that are no longer current go, with an event each (R267). -/
theorem dropCopies_frame (s : State) : answerFrame { s with copies := (dropCopies s).copies } (dropCopies s) := by
  have hframe : answerFrame { s with copies := s.copies.filter fun c => copyCurrent c s } (dropCopies s) :=
    foldl_frame (fun t c => raise_frame _ _ t) _ _
  rw [hframe.copies_eq]
  exact hframe

section
variable {h : CmdHdr} {source boundary epoch : Nat} {entries : Tbl Entry} {windows : Tbl Window} {route : RouteMap} {s : State}

/-- What another member holds in force at a boundary, for the command that asked for it (R51). -/
def fetchedTables (h : CmdHdr) (boundary : Nat) (entries : Tbl Entry) (windows : Tbl Window) (route : RouteMap) (epoch : Nat) :
    ManSync :=
  { hdr := h, boundary := boundary, entries := entries, windows := windows, route := route, routeEpoch := epoch }

/-- The tables of another member in force (R51). -/
def syncedTo (boundary : Nat) (entries : Tbl Entry) (windows : Tbl Window) (route : RouteMap) (epoch : Nat) (s : State) : State :=
  { s with man := { s.man with
      sync := none, entries := entries, windows := windows, prevRoute := none, route := route, routeEpoch := epoch,
      routeSince := boundary, desyncCharters := [], desyncRoutes := false } }

/-- Where no VALID entry changes, a Manifest whose boundary has come is put in force and the command answered (R51). -/
theorem syncDue_of_reached (hsync : s.man.sync = some (fetchedTables h boundary entries windows route epoch)) (hdue : boundary ≤ s.tide.count)
    (hsame : ∀ p ∈ s.man.entries, p.2.state = 1 → tget entries p.1 = some p.2) :
    syncDue s = result h 0x0704 0 [] (dropCopies (syncedTo boundary entries windows route epoch s)) := by
  have hnone : (s.man.entries.filter fun p => p.2.state == 1 && decide (tget entries p.1 ≠ some p.2)) = [] := by
    rw [List.filter_eq_nil_iff]
    intro p hp
    by_cases hvalid : p.2.state = 1
    · simp [hsame p hp hvalid]
    · simp [hvalid]
  simp only [syncDue, hsync, fetchedTables, if_neg (show ¬ s.tide.count < boundary by omega), hnone, List.foldl_nil]
  rfl

theorem syncDue_frame (hsync : s.man.sync = some (fetchedTables h boundary entries windows route epoch)) (hdue : boundary ≤ s.tide.count)
    (hsame : ∀ p ∈ s.man.entries, p.2.state = 1 → tget entries p.1 = some p.2) :
    answerFrame { syncedTo boundary entries windows route epoch s with copies := (syncDue s).copies } (syncDue s) := by
  rw [syncDue_of_reached hsync hdue hsame, (result_frame _ _ _ _ _).copies_eq]
  exact (dropCopies_frame _).trans (result_frame _ _ _ _ _)

/-- The Manifest fetched waits for its boundary (R51). -/
def tablesWait (h : CmdHdr) (boundary : Nat) (entries : Tbl Entry) (windows : Tbl Window) (route : RouteMap) (epoch : Nat)
    (s : State) : State :=
  { s with man := { s.man with sync := some (fetchedTables h boundary entries windows route epoch) } }

theorem manifestSync_of_member (hfw : fwRuns s = true) (hsource : source ≠ self s) (hmember : deviceMember source s = true)
    (hsync : s.man.sync = none) :
    exec (.manifestSync h source boundary entries windows route epoch) s =
      .next (syncDue (tablesWait h boundary entries windows route epoch s)) := by
  have hok : ¬ (source = self s ∨ deviceMember source s = false) := by simp [hsource, hmember]
  have hidle : ¬ s.man.sync.isSome = true := by simp [hsync]
  rw [exec_manifestSync, execManifestSync, onFw_of_fwRuns hfw, if_neg hok, if_neg hidle]
  rfl

end

/-- Settles O25: a Manifest is put in force by `syncDue`, which waits for its boundary; here no entry's lines are dropped. -/
theorem manifestIsSynchronised : Obligations.ManifestIsSynchronised := by
  intro h source boundary entries windows route epoch s hfw member inForce waits
  refine ⟨fun ⟨hsource, hmember⟩ hsync hdue hsame => ?reached, fun ⟨hsource, hmember⟩ hsync hearly => ?waiting,
    fun hsync hdue hsame => syncDue_frame hsync hdue hsame, fun hnot => ?notMember, fun ⟨hsource, hmember⟩ hsync => ?busy⟩
  case reached =>
    refine ⟨_, manifestSync_of_member hfw hsource hmember hsync, ?_⟩
    exact syncDue_frame (s := tablesWait h boundary entries windows route epoch s) rfl hdue hsame
  case waiting =>
    rw [manifestSync_of_member hfw hsource hmember hsync]
    exact congrArg _ (if_pos hearly)
  case notMember =>
    have hbad : source = self s ∨ deviceMember source s = false := by
      by_cases hsource : source = self s
      · exact Or.inl hsource
      · exact Or.inr (Bool.eq_false_iff.mpr fun hmember => hnot ⟨hsource, hmember⟩)
    rw [exec_manifestSync, execManifestSync, onFw_of_fwRuns hfw, if_pos hbad]
  case busy =>
    have hok : ¬ (source = self s ∨ deviceMember source s = false) := by simp [hsource, hmember]
    rw [exec_manifestSync, execManifestSync, onFw_of_fwRuns hfw, if_neg hok, if_pos hsync]

/-! Schedules and copies. -/

section
variable {h : CmdHdr} {s : State}

theorem streamStop_of_schedule (hfw : fwRuns s = true) {slot : Nat} {j : Job} (hjob : jobOf (jobNo slot s) s = some j)
    (hlive : jobLive j = true) (hin : j.phase ≠ .offered) (hstream : (streamOf? j).isSome = true)
    (hgoing : ∀ c, j.phase ≠ .stopping c) :
    ∃ t, exec (.streamStop h slot) s = .next t ∧ answerFrame (setJob { j with phase := .stopping 0x0E0B } s) t := by
  have hanswer := exists_answer_immediate (exec_streamStop h slot s) hfw (by simp [hjob, hlive, hin, hstream])
  simpa only [hjob] using hanswer

theorem streamStop_of_none (hfw : fwRuns s = true) {slot : Nat} (hjob : jobOf (jobNo slot s) s = none) :
    exec (.streamStop h slot) s = .next (result h 0x1402 0x0E01 [] s) := by
  rw [exec_streamStop, execStreamStop]
  exact immediate_of_check_ne_zero hfw (by simp [hjob]) (by decide)

/-- The copy a TIER.DROP names (R267). -/
def isCopy (objectId stageAddr : Nat) (c : TierCopy) : Bool :=
  c.objectId == objectId && c.stageAddr == stageAddr && c.usable

variable {objectId stageAddr : Nat} {c : TierCopy}

theorem isCopy_iff : isCopy objectId stageAddr c = true ↔ c.objectId = objectId ∧ c.stageAddr = stageAddr ∧ c.usable = true := by
  simp [isCopy, and_assoc]

/-- TIER.DROP's checks where such a copy exists (R267). -/
theorem tierDrop_code (hc : c ∈ s.copies) (hthis : isCopy objectId stageAddr c = true) :
    firstCode [(!s.copies.any (isCopy objectId stageAddr), 0x0E12),
      ((s.copies.filter (isCopy objectId stageAddr)).any fun c => copyInUse c s, 0x0E13)] =
      if (s.copies.filter (isCopy objectId stageAddr)).any fun c => copyInUse c s then 0x0E13 else 0 := by
  have hany : s.copies.any (isCopy objectId stageAddr) = true := List.any_eq_true.mpr ⟨c, hc, hthis⟩
  rw [hany, firstCode_cons, firstCode_cons]
  rfl

theorem tierDrop_of_free (hfw : fwRuns s = true) (hc : c ∈ s.copies) (hthis : isCopy objectId stageAddr c = true)
    (hfree : ∀ x ∈ s.copies, x.objectId = objectId → x.stageAddr = stageAddr → copyInUse x s = false) :
    ∃ t, exec (.tierDrop h objectId stageAddr) s = .next t ∧
      answerFrame { s with copies := s.copies.filter fun x => !isCopy objectId stageAddr x } t := by
  have hnone : ((s.copies.filter (isCopy objectId stageAddr)).any fun c => copyInUse c s) = false := by
    rw [List.any_eq_false]
    intro x hx
    obtain ⟨hmem, hx⟩ := List.mem_filter.mp hx
    obtain ⟨hid, haddr, -⟩ := isCopy_iff.mp hx
    simp [hfree x hmem hid haddr]
  exact exists_answer_immediate (exec_tierDrop h objectId stageAddr s) hfw ((tierDrop_code hc hthis).trans (by rw [hnone]; rfl))

theorem tierDrop_of_used (hfw : fwRuns s = true) (hc : c ∈ s.copies) (hthis : isCopy objectId stageAddr c = true)
    (hused : copyInUse c s = true) : exec (.tierDrop h objectId stageAddr) s = .next (result h 0x1502 0x0E13 [] s) := by
  have hany : ((s.copies.filter (isCopy objectId stageAddr)).any fun c => copyInUse c s) = true :=
    List.any_eq_true.mpr ⟨c, List.mem_filter.mpr ⟨hc, hthis⟩, hused⟩
  rw [exec_tierDrop, execTierDrop]
  exact immediate_of_check_ne_zero hfw ((tierDrop_code hc hthis).trans (by rw [hany]; rfl)) (by decide)

end

/-- Settles O27: each command is immediate; TIER.DROP looks at the jobs that read the copies it names. -/
theorem schedulesAndCopies : Obligations.SchedulesAndCopies := by
  intro h s hfw
  refine ⟨fun slot j hjob hlive hin hstream hgoing => streamStop_of_schedule hfw hjob hlive hin hstream hgoing,
    fun slot hjob => streamStop_of_none hfw hjob, fun objectId stageAddr c hc hid haddr husable hfree => ?drop,
    fun objectId stageAddr c hc hid haddr husable hused =>
      tierDrop_of_used hfw hc (isCopy_iff.mpr ⟨hid, haddr, husable⟩) hused,
    fun objectId => exists_answer_immediate (exec_tierQuery h objectId s) hfw rfl⟩
  obtain ⟨t, hexec, hframe⟩ := tierDrop_of_free (h := h) hfw hc (isCopy_iff.mpr ⟨hid, haddr, husable⟩) hfree
  have hcopies := hframe.copies_eq
  exact ⟨t, hexec, by rw [hcopies]; exact hframe, hcopies⟩

/-! Telemetry. -/

section
variable {h : CmdHdr} {group start n : Nat} {s : State}

theorem telemetrySamples_next (hfw : fwRuns s = true) :
    ∃ t, exec (.telemetrySamples h) s = .next t ∧
      answerFrame { s with sw := { s.sw with samples := s.sw.samples.drop 29 } } t :=
  ⟨_, (exec_telemetrySamples h s).trans (onFw_of_fwRuns hfw _), result_frame _ _ _ _ _⟩

theorem telemetryCounters_of_group (hfw : fwRuns s = true) (hgroup : Config.counterGroup group = some n) (hin : start < n) :
    ∃ t, exec (.telemetryCounters h group start) s = .next t ∧
      answerFrame { s with freeCount := s.freeCount + min 524 (n - start) } t := by
  rw [exec_telemetryCounters, execTelemetryCounters, onFw_of_fwRuns hfw, hgroup]
  simp only [if_neg (show ¬ n ≤ start by omega)]
  exact ⟨_, rfl, result_frame _ _ _ _ _⟩

theorem telemetryCounters_past (hfw : fwRuns s = true) (hgroup : Config.counterGroup group = some n) (hout : n ≤ start) :
    exec (.telemetryCounters h group start) s = .next (result h 0x1A02 0x1401 [] s) := by
  rw [exec_telemetryCounters, execTelemetryCounters, onFw_of_fwRuns hfw, hgroup]
  simp only [if_pos hout]

theorem telemetryCounters_reserved (hfw : fwRuns s = true) (hgroup : Config.counterGroup group = none) :
    exec (.telemetryCounters h group start) s = .next (result h 0x1A02 0x1401 [] s) := by
  rw [exec_telemetryCounters, execTelemetryCounters, onFw_of_fwRuns hfw, hgroup]

end

/-- Settles O37: each read is one RESULT, the samples read are gone and the counters' values are drawn. -/
theorem telemetryIsRead : Obligations.TelemetryIsRead := by
  intro h s hfw
  refine ⟨telemetrySamples_next hfw, fun group start => ?_⟩
  cases hgroup : Config.counterGroup group with
  | none => exact ⟨_, telemetryCounters_reserved hfw hgroup, nofun, nofun, fun _ => rfl⟩
  | some n =>
    by_cases hin : start < n
    · obtain ⟨t, hexec, hframe⟩ := telemetryCounters_of_group (h := h) hfw hgroup hin
      exact ⟨t, hexec, fun m hm _ => Option.some.inj hm ▸ hframe,
        fun m hm hout => absurd hin (Option.some.inj hm ▸ Nat.not_lt.mpr hout), nofun⟩
    · exact ⟨_, telemetryCounters_past hfw hgroup (Nat.not_lt.mp hin), fun m hm hlt => absurd (Option.some.inj hm ▸ hlt) hin,
        fun _ _ _ => rfl, nofun⟩

end Sys2Proof.Machine
end

section
/-! PROOFS. THE SPDM RESPONDER. -/

namespace Sys2Proof.Machine
open Sys2Proof

/-! The SPDM responder. -/

theorem onHm_of_hmRuns {s : State} (hhm : hmRuns s = true) (f : State → State) : onHm s f = .next (f s) := by
  rw [onHm, if_pos hhm]

section
variable {s : State} (hhm : hmRuns s = true)

/-- The one response of the SPDM responder to a request (R440). -/
def replied (code : Nat) (body : Bytes) (s : State) : State := { s with out := s.out ++ [.spdm code body] }

include hhm

theorem getCertificate_of_part {off n : Nat} (hoff : off < (chainBytes s).length) :
    ∃ p q, exec (.getCertificate 0 off n) s = .next (replied 0x02 (packBytes [(2, p.length), (2, q)] ++ p) s) ∧
      p = ((chainBytes s).drop off).take n ∧ off + p.length + q = (chainBytes s).length := by
  have hok : ¬ ((0 : Nat) ≠ 0 ∨ (chainBytes s).length ≤ off) := by omega
  have hpart : (((chainBytes s).drop off).take n).length ≤ (chainBytes s).length - off := by
    rw [List.length_take, List.length_drop]
    omega
  refine ⟨((chainBytes s).drop off).take n, (chainBytes s).length - off - (((chainBytes s).drop off).take n).length, ?_, rfl, by omega⟩
  rw [exec_getCertificate, execGetCertificate, onHm_of_hmRuns hhm]
  exact congrArg _ (if_neg hok)

theorem getCertificate_error {slot off n : Nat} (hbad : slot ≠ 0 ∨ (chainBytes s).length ≤ off) :
    exec (.getCertificate slot off n) s = .next (replied 0x7F (le 1 1) s) := by
  rw [exec_getCertificate, execGetCertificate, onHm_of_hmRuns hhm]
  exact congrArg _ (if_pos hbad)

theorem challenge_answered (nonce : Bytes) :
    ∃ d, exec (.challenge 0 nonce) s = .next (replied 0x03 d s) ∧ Config.sha384 (chainBytes s) ++ nonce <+: d := by
  rw [exec_challenge, execChallenge, onHm_of_hmRuns hhm]
  exact ⟨_, rfl, by rw [List.append_assoc]; exact List.prefix_append _ _⟩

theorem challenge_error {slot : Nat} (nonce : Bytes) (hslot : slot ≠ 0) :
    exec (.challenge slot nonce) s = .next (replied 0x7F (le 1 1) s) := by
  rw [exec_challenge, execChallenge, onHm_of_hmRuns hhm]
  exact congrArg _ (if_pos hslot)

/-- The blocks that GET_MEASUREMENTS asks for (R440). -/
def blocksAsked (index : Nat) : List Nat := if index = 0 then [] else if index = 0xFF then upto 1 6 else [index]

omit hhm in
theorem count_of_blocksAsked (index : Nat) :
    (if index = 0 then 6 else (blocksAsked index).length) = if index = 0 ∨ index = 0xFF then 6 else 1 := by
  by_cases hzero : index = 0
  · simp [hzero]
  · by_cases hall : index = 0xFF <;> simp [blocksAsked, hzero, hall, upto]

theorem getMeasurements_answered {index : Nat} (nonce : Bytes) (hindex : index ≤ 6 ∨ index = 0xFF) :
    ∃ d, exec (.getMeasurements index nonce) s = .next (replied 0x60 d s) ∧
      d.take 1 = le 1 (if index = 0 ∨ index = 0xFF then 6 else 1) := by
  have hok : ¬ (6 < index ∧ index ≠ 0xFF) := by omega
  rw [exec_getMeasurements, execGetMeasurements, onHm_of_hmRuns hhm, if_neg hok, ← count_of_blocksAsked]
  refine ⟨_, rfl, ?_⟩
  rw [List.append_assoc, List.append_assoc]
  exact List.take_left' (le_length 1 _)

theorem getMeasurements_error {index : Nat} (nonce : Bytes) (hpast : 6 < index) (hall : index ≠ 0xFF) :
    exec (.getMeasurements index nonce) s = .next (replied 0x7F (le 1 1) s) := by
  rw [exec_getMeasurements, execGetMeasurements, onHm_of_hmRuns hhm]
  exact congrArg _ (if_pos ⟨hpast, hall⟩)

end

/-! Sessions. -/

/-- The oldest session makes room where four stand (R440). -/
def roomForSession (s : State) : State :=
  if s.sec.sessions.length < 4 then s
  else match s.sec.sessions with
    | x :: _ => endSession x.id s
    | [] => s

theorem roomForSession_length {s : State} (hfour : s.sec.sessions.length ≤ 4) : (roomForSession s).sec.sessions.length ≤ 3 := by
  by_cases hroom : s.sec.sessions.length < 4
  · rw [roomForSession, if_pos hroom]
    omega
  · rw [roomForSession, if_neg hroom]
    cases hsessions : s.sec.sessions with
    | nil => simp [hsessions] at hroom
    | cons x xs =>
      simp only [endSession, hsessions, List.filter_cons, bne_self_eq_false]
      have hrest := List.length_filter_le (fun y => y.id != x.id) xs
      rw [hsessions, List.length_cons] at hfour
      simp only [Bool.false_eq_true, if_false]
      omega

/-- Ending a session changes the sessions and the lighters bound to it only (R393). -/
structure SessionsOnly (s t : State) : Prop where
  man_eq : t.man = s.man
  hm_eq : t.hm = s.hm
  out_eq : t.out = s.out
  next_eq : t.sec.nextSession = s.sec.nextSession

theorem roomForSession_only (s : State) : SessionsOnly s (roomForSession s) := by
  by_cases hroom : s.sec.sessions.length < 4
  · rw [roomForSession, if_pos hroom]
    exact ⟨rfl, rfl, rfl, rfl⟩
  · rw [roomForSession, if_neg hroom]
    cases s.sec.sessions with
    | nil => exact ⟨rfl, rfl, rfl, rfl⟩
    | cons x xs => exact ⟨rfl, rfl, rfl, rfl⟩

/-- The handshake that KEY_EXCHANGE opens (R440). -/
def newSession (req : Nat) (exchange : Bytes) (s : State) : Session :=
  { id := (s.sec.nextSession * 65536 + req % 65536) % 2 ^ 32, open_ := false, secret := Config.ecdhe (s.sec.cdi2 ++ exchange) }

def withSession (x : Session) (s : State) : State :=
  { s with sec := { s.sec with sessions := s.sec.sessions ++ [x], nextSession := (s.sec.nextSession + 1) % 65536 } }

theorem keyExchange_next {s : State} (hhm : hmRuns s = true) (req : Nat) (ex : Bytes) :
    ∃ b, exec (.keyExchange req ex) s =
      .next (replied 0x64 b (withSession (newSession req ex (roomForSession s)) (roomForSession s))) := by
  rw [exec_keyExchange, execKeyExchange, onHm_of_hmRuns hhm]
  exact ⟨_, rfl⟩

theorem find?_handshake (x : Session) (hopen : x.open_ = false) :
    [x].find? (fun y => y.id == x.id && !y.open_) = some x := by
  simp [hopen]

theorem endSession_only (s : State) (x : Session) (hsessions : s.sec.sessions = [x]) :
    (endSession x.id s).sec.sessions = [] := by
  simp [endSession, hsessions]

/-- No lighter stays bound to a session that ended (R393). -/
theorem endSession_unbinds (id : Nat) (s : State) :
    ∀ p ∈ (endSession id s).sec.lighters, p.2.bound = true → p.2.session ≠ id := by
  intro p hp hbound
  obtain ⟨q, -, rfl⟩ := List.mem_map.mp hp
  by_cases hof : (q.2.bound && q.2.session == id) = true
  · rw [if_pos hof] at hbound
    exact absurd hbound (by simp [unbind])
  · rw [if_neg hof] at hbound ⊢
    rintro rfl
    exact hof (by simp [hbound])

section
variable {s : State} {x : Session} (hhm : hmRuns s = true) (hsessions : s.sec.sessions = [x]) (hopen : x.open_ = false)
include hhm hsessions hopen

theorem finish_right {verify : Bytes} (hright : verify = Config.hmac384 x.secret (le 4 x.id)) :
    exec (.finish x.id verify) s =
      .next (replied 0x65 [] { s with sec := { s.sec with sessions := [{ x with open_ := true }] } }) := by
  rw [exec_finish, execFinish, onHm_of_hmRuns hhm, hsessions, find?_handshake x hopen]
  simp only [if_pos hright, List.map_cons, List.map_nil, beq_self_eq_true, if_true]
  rfl

theorem finish_wrong {verify : Bytes} (hwrong : verify ≠ Config.hmac384 x.secret (le 4 x.id)) :
    exec (.finish x.id verify) s = .next (replied 0x7F (le 1 6) (endSession x.id s)) := by
  rw [exec_finish, execFinish, onHm_of_hmRuns hhm, hsessions, find?_handshake x hopen]
  simp only [if_neg hwrong]
  rfl

end

theorem finish_of_none {s : State} (hhm : hmRuns s = true) (hnone : s.sec.sessions = []) (id : Nat) (verify : Bytes) :
    exec (.finish id verify) s = .next (replied 0x7F (le 1 1) s) := by
  rw [exec_finish, execFinish, onHm_of_hmRuns hhm, hnone]
  rfl

/-- Settles O60: each request by its own case; KEY_EXCHANGE makes room before it opens a handshake. -/
theorem spdmResponder : Obligations.SpdmResponder := by
  intro s hhm replies
  refine ⟨fun b => ⟨_, onHm_of_hmRuns hhm _⟩, fun b => ⟨_, onHm_of_hmRuns hhm _⟩, fun b => ⟨_, onHm_of_hmRuns hhm _⟩,
    fun b => onHm_of_hmRuns hhm _, fun slot off n => ?certificate, fun nonce => challenge_answered hhm nonce,
    fun slot nonce hslot => challenge_error hhm nonce hslot, fun n nonce hn => getMeasurements_answered hhm nonce hn,
    fun n nonce hpast hall => getMeasurements_error hhm nonce hpast hall, fun req ex hfour => ?exchange,
    fun x verify hsessions hopen => ⟨fun hright => finish_right hhm hsessions hopen hright, fun hwrong => ?wrong⟩,
    fun id verify hnone => finish_of_none hhm hnone id verify, fun code => onHm_of_hmRuns hhm _⟩
  case certificate =>
    split
    · next hpart =>
      obtain ⟨rfl, hoff⟩ := hpart
      exact getCertificate_of_part hhm hoff
    · next hbad => exact getCertificate_error hhm (by omega)
  case exchange =>
    obtain ⟨b, hexec⟩ := keyExchange_next hhm req ex
    obtain ⟨hman, hhmEq, hout, hnext⟩ := roomForSession_only s
    have hthree := roomForSession_length hfour
    refine ⟨_, newSession req ex (roomForSession s), b, hexec, List.mem_append_right _ (List.mem_singleton_self _), rfl, ?id,
      ?length, ?next, ?out, fun hroom => ?room, hman, hhmEq⟩
    case id => simp only [newSession, hnext]
    case length =>
      simp only [replied, withSession, List.length_append, List.length_singleton]
      omega
    case next => simp only [replied, withSession, hnext]
    case out => simp only [replied, withSession, hout]
    case room => simp only [replied, withSession, roomForSession, if_pos hroom, and_self]
  case wrong =>
    refine ⟨_, finish_wrong hhm hsessions hopen hwrong, endSession_only s x hsessions, rfl, rfl, ?_⟩
    exact endSession_unbinds x.id s

end Sys2Proof.Machine
end

section
/-! PROOFS. PROGRAM KEYS, STAGED BLOCKS AND UNLOADING; WHAT WAS SAID STAYS SAID. -/

namespace Sys2Proof.Machine
open Sys2Proof

/-! What was said stays said: an answer or an event adds to the device's outputs and takes none back. -/

section
variable {o : Out} {s : State}

theorem emit_says (x : Out) (ho : o ∈ s.out) : o ∈ (emit x s).out := List.mem_append_left _ ho

theorem signal_says (v : Nat) (ho : o ∈ s.out) : o ∈ (signal v s).out := by
  rw [signal_out]
  exact List.mem_append_left _ ho

theorem lighterSend_says (l content : Nat) (plain : Bytes) (ho : o ∈ s.out) : o ∈ (lighterSend l content plain s).out := by
  unfold lighterSend
  extract_lets x units ring at_ wrap x' s1 s2
  have hsent : o ∈ s2.out := emit_says _ ho
  split
  · exact ho
  split
  · exact ho
  split
  · exact signal_says _ hsent
  · exact hsent

theorem ringPost_says (m : Nat) (b : Bytes) (j : Option (Nat × Nat)) (ho : o ∈ s.out) : o ∈ (ringPost m b j s).out := by
  unfold ringPost
  extract_lets x n p base padRec mem t mem' t' b' s1
  have hposted : o ∈ s1.out := ho
  clear_value s1
  split
  · exact signal_says _ hposted
  · exact hposted

theorem send_says (m : Nat) (v : Bool) (a : Answer) (j : Option (Nat × Nat)) (ho : o ∈ s.out) : o ∈ (send m v a j s).out := by
  unfold send
  split
  · exact lighterSend_says _ _ _ ho
  · unfold post
    extract_lets b x n k
    split
    · exact ho
    · exact ringPost_says _ _ _ ho

theorem recordReason_says (c : Nat) (ho : o ∈ s.out) : o ∈ (recordReason c s).out := by
  rw [recordReason_out]
  exact ho

theorem resultWith_says (h : CmdHdr) (code reason : Nat) (d : Option (Nat × Nat)) (body : Bytes) (ho : o ∈ s.out) :
    o ∈ (resultWith h code reason d body s).out := by
  refine send_says _ _ _ _ ?_
  rw [untake_out]
  exact recordReason_says _ ho

theorem result_says (h : CmdHdr) (code reason : Nat) (body : Bytes) (ho : o ∈ s.out) :
    o ∈ (result h code reason body s).out := resultWith_says _ _ _ _ _ ho

end

/-! What an answer leaves of the Harbourmaster. -/

section
variable {s t : State} (h : answerFrame s t)
include h

theorem answerFrame.keys_eq : t.hm.keys = s.hm.keys := by rw [h]
theorem answerFrame.programs_eq : t.hm.programs = s.hm.programs := by rw [h]
theorem answerFrame.staged_eq : t.hm.staged = s.hm.staged := by rw [h]
theorem answerFrame.commits_eq : t.hm.commits = s.hm.commits := by rw [h]
theorem answerFrame.meas_eq : t.hm.meas = s.hm.meas := by rw [h]
theorem answerFrame.banks_eq : t.hm.banks = s.hm.banks := by rw [h]
theorem answerFrame.active_eq : t.hm.active = s.hm.active := by rw [h]
theorem answerFrame.fwStage_eq : t.hm.fwStage = s.hm.fwStage := by rw [h]
theorem answerFrame.fwCommit_eq : t.hm.fwCommit = s.hm.fwCommit := by rw [h]
theorem answerFrame.self_eq : self t = self s := h.devid_eq

end

theorem hmRuns_of_fwRuns {s : State} (h : fwRuns s = true) : hmRuns s = true := by
  simp only [fwRuns, Bool.and_eq_true] at h
  obtain ⟨⟨⟨hcore, hready⟩, hthawed⟩, -⟩ := h
  simp only [hmRuns, hcore, hready, hthawed, Bool.and_self]

/-! Tables. -/

theorem tdel_tput_self {α : Type} (t : Tbl α) (k : Nat) (v : α) : tdel (tput t k v) k = tdel t k := by
  induction t with
  | nil => simp [tdel, tput]
  | cons p r ih =>
    obtain ⟨a, w⟩ := p
    simp only [tdel, ne_eq, decide_not] at ih
    by_cases hself : a = k
    · simp [tdel, tput, hself]
    · by_cases hbefore : k < a <;> simp [tdel, tput, hself, hbefore, ih]

@[simp] theorem tget_tdel_self {α : Type} (t : Tbl α) (k : Nat) : tget (tdel t k) k = none := by
  induction t with
  | nil => rfl
  | cons p r ih =>
    obtain ⟨a, w⟩ := p
    simp only [tdel, ne_eq, decide_not] at ih
    by_cases hself : a = k
    · simp [tdel, hself, ih]
    · by_cases hbefore : k < a <;> simp [tdel, tget, hself, hbefore, ih]

/-! Words to other devices about programs and firmware. -/

theorem foldl_emit_eq {α : Type} (f : α → Out) (l : List α) (s : State) :
    l.foldl (fun s d => emit (f d) s) s = { s with out := s.out ++ l.map f } := by
  induction l generalizing s with
  | nil => simp
  | cons x r ih =>
    rw [List.foldl_cons, ih]
    simp [emit]

/-- The devices of a list but this one. -/
def others (devs : List Nat) (s : State) : List Nat := devs.filter fun d => d != self s

theorem tellAbout_eq (kind : Nat) (devs : List Nat) (data : Bytes) (s : State) :
    tellAbout kind devs data s = { s with out := s.out ++ (others devs s).map fun d => .image d kind data } :=
  foldl_emit_eq _ _ _

theorem mem_others {devs : List Nat} {s : State} {d : Nat} (hd : d ∈ devs) (hother : d ≠ self s) : d ∈ others devs s :=
  List.mem_filter.mpr ⟨hd, by simp [hother]⟩

theorem tellAbout_says {kind : Nat} {devs : List Nat} {data : Bytes} {s : State} {d : Nat} (hd : d ∈ devs) (hother : d ≠ self s) :
    Out.image d kind data ∈ (tellAbout kind devs data s).out := by
  rw [tellAbout_eq]
  exact List.mem_append_right _ (List.mem_map_of_mem (f := fun d => Out.image d kind data) (mem_others hd hother))

theorem others_self (s : State) : others [self s] s = [] := by simp [others]

theorem others_one {d : Nat} {s : State} (hd : d ≠ self s) : others [d] s = [d] := by simp [others, hd]

theorem others_pair {d : Nat} {s : State} {devs : List Nat} (hdevs : devs = [self s, d] ∨ devs = [d, self s]) (hd : d ≠ self s) :
    others devs s = [d] := by
  rcases hdevs with rfl | rfl <;> simp [others, hd]

theorem tellAbout_self (kind : Nat) (data : Bytes) (s : State) : tellAbout kind [self s] data s = s := by
  rw [tellAbout_eq, others_self]
  simp

/-- A commit or unload kept is under way, in its present form. -/
theorem mem_keepCommit (c : Commit) (s : State) : c ∈ (keepCommit c s).hm.commits := by
  unfold keepCommit
  extract_lets l same
  have hself : same c = true := by simp [same]
  show c ∈ (if l.any same then l.map fun x => if same x then c else x else l ++ [c])
  split
  · next hany =>
    obtain ⟨x, hx, hxsame⟩ := List.any_eq_true.mp hany
    exact List.mem_map.mpr ⟨x, hx, if_pos hxsame⟩
  · exact List.mem_append_right _ (List.mem_singleton_self c)

theorem setHolders_of_none {id : Nat} {l : List Nat} {s : State} (h : tget s.hm.programs id = none) :
    setHolders id l s = s := by
  rw [setHolders, h]

theorem setHolders_of_some {id : Nat} {l : List Nat} {s : State} {p : Program} (h : tget s.hm.programs id = some p) :
    setHolders id l s = { s with hm := { s.hm with programs := tput s.hm.programs id { p with devices := l } } } := by
  rw [setHolders, h]

/-- Who holds a program is a part of the programs. -/
theorem setHolders_eq (id : Nat) (l : List Nat) (s : State) :
    setHolders id l s = { s with hm := { s.hm with programs := (setHolders id l s).hm.programs } } := by
  cases h : tget s.hm.programs id with
  | none => rw [setHolders_of_none h]
  | some p => rw [setHolders_of_some h]

theorem dropProgram_setHolders (id : Nat) (l : List Nat) (s : State) :
    tdel (setHolders id l s).hm.programs id = tdel s.hm.programs id := by
  cases h : tget s.hm.programs id with
  | none => rw [setHolders_of_none h]
  | some p => rw [setHolders_of_some h]; exact tdel_tput_self _ _ _

theorem holdersOf_setHolders_nil (id : Nat) (s : State) : holdersOf id (setHolders id [] s) = [] := by
  cases h : tget s.hm.programs id with
  | none => rw [setHolders_of_none h, holdersOf, h]
  | some p => rw [setHolders_of_some h, holdersOf, tget_tput_self]

/-! Program keys and staged blocks. -/

/-- A measurement that fits is one entry of its kind, its ID and its digest (R439). -/
theorem measure_of_fits (kind measurer id aux : Nat) (digest : Bytes) {s : State} (hroom : s.hm.meas.length < 8192) :
    ∃ m, measure kind measurer id aux digest s = { s with hm := { s.hm with meas := s.hm.meas ++ [m] } } ∧
      m.kind = kind ∧ m.id = id ∧ m.digest = digest := by
  have hfits : measFits 1 s = true := decide_eq_true (show s.hm.meas.length + 1 ≤ measRoom from hroom)
  unfold measure
  rw [hfits]
  exact ⟨_, rfl, rfl, rfl, rfl⟩

section
variable {h : CmdHdr} {s : State} (hfw : fwRuns s = true)
include hfw

theorem programKeyEnroll_good {slot : Nat} {key : Bytes} (hslot : slot ≤ 7) (hfree : tget s.hm.keys slot = none)
    (hlength : key.length = 97) (hroom : s.hm.meas.length < 8192) (hcurve : Config.onCurve key = true) :
    ∃ t, exec (.programKeyEnroll h slot key) s = .next t ∧ ∃ m, answerFrame { s with hm := { s.hm with
      keys := tput s.hm.keys slot key, meas := s.hm.meas ++ [m] } } t ∧ m.kind = 6 ∧ m.id = slot ∧
      m.digest = Config.sha384 key := by
  have hfits : measFits 1 s = true := decide_eq_true (show s.hm.meas.length + 1 ≤ measRoom from hroom)
  obtain ⟨t, hexec, hframe⟩ := exists_answer_immediate (exec_programKeyEnroll h slot key s) hfw
    (by simp [hfree, hlength, hcurve, hfits, Nat.not_lt.mpr hslot])
  obtain ⟨m, hmeasured, hkind, hid, hdigest⟩ := measure_of_fits 6 1 slot 0 (Config.sha384 key)
    (s := { s with hm := { s.hm with keys := tput s.hm.keys slot key } }) hroom
  rw [hmeasured] at hframe
  exact ⟨t, hexec, m, hframe, hkind, hid, hdigest⟩

theorem programKeyEnroll_bad {slot : Nat} {key : Bytes}
    (hbad : (tget s.hm.keys slot).isSome = true ∨ Config.onCurve key = false) :
    exec (.programKeyEnroll h slot key) s = .next (result h 0x1701 0x1149 [] s) := by
  have hcode : (decide (7 < slot) || (tget s.hm.keys slot).isSome || decide (key.length ≠ 97) || !(Config.onCurve key)) = true := by
    rcases hbad with hused | hoff
    · simp [hused]
    · simp [hoff]
  rw [exec_programKeyEnroll, execProgramKeyEnroll]
  exact immediate_of_check_ne_zero hfw (by rw [hcode, firstCode_cons_true]) (by decide)

theorem programKeyClear_free {slot : Nat} (hslot : slot ≤ 7) (hfree : ∀ p ∈ s.hm.programs, imgKey p.2.image ≠ slot) :
    ∃ t, exec (.programKeyClear h slot) s = .next t ∧
      answerFrame { s with hm := { s.hm with keys := tdel s.hm.keys slot } } t := by
  have hunused : ¬ (s.hm.programs.any fun p => imgKey p.2.image == slot) = true := by
    rw [List.any_eq_true]
    rintro ⟨p, hp, hkey⟩
    exact hfree p hp (beq_iff_eq.mp hkey)
  exact exists_answer_immediate (exec_programKeyClear h slot s) hfw
    (if_neg (not_or.mpr ⟨Nat.not_lt.mpr hslot, hunused⟩))

theorem programLoadBlock_staged {id offset : Nat} {data : Bytes} (hdata : data ≠ []) (hlength : data.length ≤ 4096)
    (hin : offset + data.length ≤ imageMax)
    (hapart : ∀ p ∈ (tgetD s.hm.staged id ([], 0)).1, overlap p.1 p.2.length offset data.length = false)
    (hroom : (tget s.hm.staged id).isSome = true ∨ s.hm.staged.length < 4) :
    ∃ t, exec (.programLoadBlock h id offset data) s = .next t ∧ answerFrame { s with hm := { s.hm with
      staged := tput s.hm.staged id ((tgetD s.hm.staged id ([], 0)).1 ++ [(offset, data)], s.tide.count) } } t := by
  have hnone : ((tgetD s.hm.staged id ([], 0)).1.any fun p => overlap p.1 p.2.length offset data.length) = false := by
    rw [List.any_eq_false]
    intro p hp
    simp [hapart p hp]
  have hfits : ((tget s.hm.staged id).isNone && decide (4 ≤ s.hm.staged.length)) = false := by
    rcases hroom with hused | hfree
    · obtain ⟨x, hx⟩ := Option.isSome_iff_exists.mp hused
      simp [hx]
    · simp [Nat.not_le.mpr hfree]
  have hrange : decide (data = [] ∨ 4096 < data.length ∨ imageMax < offset + data.length) = false :=
    decide_eq_false (by simp only [hdata, false_or]; omega)
  exact exists_answer_immediate (exec_programLoadBlock h id offset data s) hfw
    (by rw [hnone, hrange, hfits, Bool.or_false, firstCode_cons_false, firstCode_cons_false, firstCode_nil])

/-! Unloading. -/

/-- The unload that PROGRAM.UNLOAD begins (R225). -/
def unloadOf (h : CmdHdr) (id : Nat) (devs : List Nat) (s : State) : Commit :=
  { hdr := h, id := id, awaiting := others devs s, first := none, done := [], stage := 2, named := devs,
    holders := holdersOf id s, image := [] }

theorem programUnload_busy {id mask : Nat} (hbusy : programBusy id s = true) (hself : self s ∈ maskDevices mask) :
    exec (.programUnload h id mask) s = .next (result h 0x1705 0x1147 [] s) := by
  have hrefused : ((maskDevices mask).contains (self s) && programBusy id s) = true := by simp [hbusy, hself]
  rw [exec_programUnload, execProgramUnload, onFw_of_fwRuns hfw]
  exact congrArg _ (if_pos hrefused)

theorem programUnload_free {id mask : Nat} (hfree : programBusy id s = false) (hself : self s ∈ maskDevices mask) :
    exec (.programUnload h id mask) s = .next (settleCommit (unloadOf h id (maskDevices mask) s)
      (tellAbout 9 (maskDevices mask) (le 4 id) (setHolders id [] s))) := by
  have hallowed : ¬ ((maskDevices mask).contains (self s) && programBusy id s) = true := by simp [hfree]
  have hmine : (maskDevices mask).contains (self s) = true := List.contains_iff_mem.mpr hself
  rw [exec_programUnload, execProgramUnload, onFw_of_fwRuns hfw]
  simp only [if_neg hallowed, if_pos hmine]
  rfl

end

/-- A program gone here. -/
theorem dropProgram_eq (id : Nat) (s : State) :
    dropProgram id s = { s with hm := { s.hm with programs := tdel s.hm.programs id } } := rfl

/-- The end of an unload at a named device: what other holders learn, and the program gone (R225). -/
theorem endUnload_of_done {c : Commit} {s : State} (hfirst : c.first = none) (hnamed : c.named.contains (self s) = true) :
    endUnload c s = result c.hdr 0x1705 0 [] (dropProgram c.id (tellAbout 11 (sorted (c.named ++ c.holders))
      (le 4 c.id ++ le 8 (deviceMaskOf c.named)) (dropCommit c s))) := by
  have hself : self (tellAbout 11 (sorted (c.named ++ c.holders)) (le 4 c.id ++ le 8 (deviceMaskOf c.named)) (dropCommit c s))
      = self s := by rw [tellAbout_eq]; rfl
  simp only [endUnload, hfirst, hself, if_pos hnamed]

theorem mem_sorted {a : Nat} {l : List Nat} : a ∈ sorted l ↔ a ∈ l := by
  have hgeneral : ∀ l acc : List Nat, a ∈ l.foldl (fun acc x => insertSorted x acc) acc ↔ a ∈ l ∨ a ∈ acc := by
    intro l
    induction l with
    | nil => intro acc; simp
    | cons x r ih =>
      intro acc
      rw [List.foldl_cons, ih, mem_insertSorted_iff, List.mem_cons]
      tauto
  rw [sorted, hgeneral]
  simp

section
variable {h : CmdHdr} {id : Nat} {s : State} (hfw : fwRuns s = true)
include hfw

theorem programUnload_here {mask : Nat} (hfree : programBusy id s = false) (honly : maskDevices mask = [self s]) :
    ∃ t, exec (.programUnload h id mask) s = .next t ∧
      answerFrame { s with hm := { s.hm with programs := tdel s.hm.programs id, commits := t.hm.commits } } t ∧
      ∀ d ∈ holdersOf id s, d ≠ self s → Out.image d 11 (le 4 id ++ le 8 (deviceMaskOf [self s])) ∈ t.out := by
  have hself : self (setHolders id [] s) = self s := by rw [setHolders_eq]; rfl
  have hquiet : tellAbout 9 [self s] (le 4 id) (setHolders id [] s) = setHolders id [] s := by
    rw [← hself]; exact tellAbout_self _ _ _
  have hdone : settleCommit (unloadOf h id [self s] s) (setHolders id [] s) = endUnload (unloadOf h id [self s] s) (setHolders id [] s) := by
    rw [settleCommit, if_neg (by simp [unloadOf, others_self]), if_pos (show (unloadOf h id [self s] s).stage = 2 from rfl)]
  have hnamed : (unloadOf h id [self s] s).named.contains (self (setHolders id [] s)) = true := by simp [unloadOf, hself]
  refine ⟨_, programUnload_free hfw hfree (honly ▸ List.mem_singleton_self _), ?_, fun d hd hother => ?_⟩
  · rw [honly, hquiet, hdone, endUnload_of_done rfl hnamed, (result_frame _ _ _ _ _).commits_eq, dropProgram_eq, tellAbout_eq]
    refine answerFrame.trans ?_ (result_frame _ _ _ _ _)
    have hprograms : tdel (setHolders id [] s).hm.programs id = tdel s.hm.programs id := dropProgram_setHolders _ _ _
    rw [← hprograms]
    rw [setHolders_eq id [] s]
    rfl
  · rw [honly, hquiet, hdone, endUnload_of_done rfl hnamed]
    refine result_says _ _ _ _ (tellAbout_says (mem_sorted.mpr (List.mem_append_right _ hd)) ?_)
    exact fun hd' => hother (hd'.trans hself)

theorem programUnload_asks {mask d : Nat} (hfree : programBusy id s = false)
    (hpair : maskDevices mask = [self s, d] ∨ maskDevices mask = [d, self s]) (hd : d ≠ self s) :
    ∃ t c, exec (.programUnload h id mask) s = .next t ∧ t.out = s.out ++ [.image d 9 (le 4 id)] ∧
      c ∈ t.hm.commits ∧ c.hdr = h ∧ c.id = id ∧ c.stage = 2 ∧ c.awaiting = [d] ∧ c.holders = holdersOf id s ∧
      holdersOf id t = [] ∧
      t = { s with out := t.out, hm := { s.hm with programs := t.hm.programs, commits := t.hm.commits } } := by
  have hself : self s ∈ maskDevices mask := by rcases hpair with hp | hp <;> simp [hp]
  have hawait : (unloadOf h id (maskDevices mask) s).awaiting = [d] := others_pair hpair hd
  have hasked : tellAbout 9 (maskDevices mask) (le 4 id) (setHolders id [] s) =
      { setHolders id [] s with out := s.out ++ [.image d 9 (le 4 id)] } := by
    have hothers : others (maskDevices mask) (setHolders id [] s) = [d] := by
      rw [setHolders_eq]; exact others_pair hpair hd
    rw [tellAbout_eq, hothers, setHolders_eq]
    rfl
  have hkept : settleCommit (unloadOf h id (maskDevices mask) s) { setHolders id [] s with out := s.out ++ [.image d 9 (le 4 id)] } =
      keepCommit (unloadOf h id (maskDevices mask) s) { setHolders id [] s with out := s.out ++ [.image d 9 (le 4 id)] } := by
    rw [settleCommit, if_pos (by simp [hawait])]
  refine ⟨keepCommit (unloadOf h id (maskDevices mask) s) { setHolders id [] s with out := s.out ++ [.image d 9 (le 4 id)] },
    unloadOf h id (maskDevices mask) s, ?exec, ?out, mem_keepCommit _ _, rfl, rfl, rfl, hawait, rfl, ?holders, ?rest⟩
  case exec => rw [programUnload_free hfw hfree hself, hasked, hkept]
  case out => rfl
  case holders => exact holdersOf_setHolders_nil id s
  case rest =>
    rw [setHolders_eq id [] s]
    rfl

end

/-- Settles O28: keys and blocks are immediate; an unload ends at once where no other device is named. -/
theorem programKeysAndBlocks : Obligations.ProgramKeysAndBlocks := by
  intro h s hfw
  have hhm := hmRuns_of_fwRuns hfw
  refine ⟨fun slot key hslot hfree hlength hroom => ?enroll,
    fun slot key k hused => programKeyEnroll_bad hfw (Or.inl (by rw [hused]; rfl)),
    fun slot hslot hfree => programKeyClear_free hfw hslot hfree,
    fun id offset data hdata hlength hin hapart hroom => programLoadBlock_staged hfw hdata hlength hin hapart hroom,
    fun id mask hbusy hself => programUnload_busy hfw hbusy hself, fun id mask hfree honly => programUnload_here hfw hfree honly,
    fun id mask d hfree hpair hd => programUnload_asks hfw hfree hpair hd,
    fun id => exists_answer_immediate (exec_programQuery h id s) hfw rfl, fun id x hx hold => ?expired, fun id x hx hnew => ?fresh⟩
  case enroll =>
    cases hcurve : Config.onCurve key with
    | true =>
      obtain ⟨t, hexec, hframe⟩ := programKeyEnroll_good (h := h) hfw hslot hfree hlength hroom hcurve
      exact ⟨t, hexec, fun _ => hframe, nofun⟩
    | false => exact ⟨_, programKeyEnroll_bad hfw (Or.inr hcurve), nofun, fun _ => rfl⟩
  case expired =>
    rw [exec_programStageExpire, execProgramStageExpire, onHm_of_hmRuns hhm]
    simp only [hx, if_pos hold]
    rfl
  case fresh =>
    rw [exec_programStageExpire, execProgramStageExpire, onHm_of_hmRuns hhm]
    simp only [hx, if_neg (Nat.not_le.mpr hnew)]

end Sys2Proof.Machine
end

section
/-! PROOFS. FIRMWARE BLOCKS AND COMMITS. -/

namespace Sys2Proof.Machine
open Sys2Proof

section
variable {o : Out} {s : State}

theorem eventWrite_says (rec : Bytes) (ho : o ∈ s.out) : o ∈ (eventWrite rec s).out := by
  unfold eventWrite
  extract_lets t src s1
  split
  · exact lighterSend_says _ _ _ ho
  split
  · exact signal_says _ (s := s1) ho
  · exact ho

theorem alerted_leaves {P : State → Prop} (halert : ∀ s, P s → P { s with isl := { s.isl with alert := true } }) (c : Prop)
    [Decidable c] {s : State} (hs : P s) : P (if c then { s with isl := { s.isl with alert := true } } else s) := by
  split
  · exact halert _ hs
  · exact hs

/-- What an event's number, a lost one's count, its record and the alert leave true, the event leaves true (R418). -/
theorem eventPut_leaves {P : State → Prop}
    (hnumber : ∀ s x, P s → P { s with tel := { s.tel with evNumber := x } }) (hlost : ∀ s, P s → P (countLost s))
    (hwrite : ∀ b s, P s → P (eventWrite b s)) (halert : ∀ s, P s → P { s with isl := { s.isl with alert := true } })
    (code : Nat) (summary : Bool) (fields : List (Nat × Nat)) {s : State} (hs : P s) : P (eventPut code summary fields s) := by
  unfold eventPut
  extract_lets n r src s1 s2
  have hnumbered : P s1 := hnumber _ _ hs
  have hwritten : P s2 := by
    unfold s2
    split
    · exact hlost _ hnumbered
    · exact hwrite _ _ hnumbered
  exact alerted_leaves halert _ hwritten

theorem eventPut_says (code : Nat) (summary : Bool) (fields : List (Nat × Nat)) (ho : o ∈ s.out) :
    o ∈ (eventPut code summary fields s).out :=
  eventPut_leaves (P := fun t => o ∈ t.out) (fun _ _ ht => ht) (fun _ ht => ht) (fun b _ ht => eventWrite_says b ht)
    (fun _ ht => ht) code summary fields ho

theorem raise_says (code : Nat) (fields : List (Nat × Nat)) (ho : o ∈ s.out) : o ∈ (raise code fields s).out :=
  eventPut_says _ _ _ (recordReason_says _ ho)

end

/-! Firmware images (R430 to R433, R439). -/

section
variable {h : CmdHdr} {s : State}

theorem onFwOrRom_of_runs (hruns : (fwRuns s || inRecovery s) = true) (f : State → State) : onFwOrRom s f = .next (f s) := by
  rw [onFwOrRom, if_pos hruns]

theorem fwLoadBlock_staged {offset : Nat} {data : Bytes} (hruns : (fwRuns s || inRecovery s) = true) (hidle : fwBusy s = false)
    (hdata : data ≠ []) (hlength : data.length ≤ 4096) (hin : offset + data.length ≤ 33554432)
    (hapart : ∀ p ∈ fwBlocks s, overlap p.1 p.2.length offset data.length = false) :
    ∃ t, exec (.fwLoadBlock h offset data) s = .next t ∧ answerFrame { s with hm := { s.hm with
      fwStage := some (fwBlocks s ++ [(offset, data)], s.tide.count) } } t := by
  have hnone : ((fwBlocks s).any fun p => overlap p.1 p.2.length offset data.length) = false := by
    rw [List.any_eq_false]
    intro p hp
    simp [hapart p hp]
  have hrange : decide (data = [] ∨ 4096 < data.length ∨ 33554432 < offset + data.length) = false :=
    decide_eq_false (by simp only [hdata, false_or]; omega)
  have hcode : firstCode [(fwBusy s, 0x1127), (decide (data = [] ∨ 4096 < data.length ∨ 33554432 < offset + data.length) ||
      (fwBlocks s).any (fun p => overlap p.1 p.2.length offset data.length), 0x1120)] = 0 := by
    rw [hidle, hrange, hnone, Bool.or_false, firstCode_cons_false, firstCode_cons_false, firstCode_nil]
  refine exists_answer (h := h) (code := 0x1801) (reason := 0) (body := []) ?_
  rw [exec_fwLoadBlock, execFwLoadBlock, onFwOrRom_of_runs hruns]
  exact congrArg _ (if_neg (not_not.mpr hcode))

theorem fwLoadBlock_bad {offset : Nat} {data : Bytes} (hruns : (fwRuns s || inRecovery s) = true) (hidle : fwBusy s = false)
    (hbad : data = [] ∨ 4096 < data.length ∨ 33554432 < offset + data.length) :
    exec (.fwLoadBlock h offset data) s = .next (result h 0x1801 0x1120 [] s) := by
  have hcode : firstCode [(fwBusy s, 0x1127), (decide (data = [] ∨ 4096 < data.length ∨ 33554432 < offset + data.length) ||
      (fwBlocks s).any (fun p => overlap p.1 p.2.length offset data.length), 0x1120)] = 0x1120 := by
    rw [hidle, decide_eq_true hbad, Bool.true_or, firstCode_cons_false, firstCode_cons_true]
  rw [exec_fwLoadBlock, execFwLoadBlock, onFwOrRom_of_runs hruns]
  exact congrArg _ ((if_pos (by rw [hcode]; decide)).trans (by rw [hcode]))

theorem fwStageExpire_old {x : List (Nat × Bytes) × Nat} (hcore : coreRuns s = true) (hx : s.hm.fwStage = some x)
    (hold : x.2 + 65536 ≤ s.tide.count) :
    exec .fwStageExpire s = .next { s with hm := { s.hm with fwStage := none } } := by
  rw [exec_fwStageExpire, execFwStageExpire, onCore_of_coreRuns hcore, hx]
  exact congrArg _ (if_pos hold)

theorem fwStageExpire_fresh {x : List (Nat × Bytes) × Nat} (hx : s.hm.fwStage = some x) (hnew : s.tide.count < x.2 + 65536) :
    exec .fwStageExpire s = .next s := by
  rw [exec_fwStageExpire, execFwStageExpire, onCore]
  by_cases hcore : coreRuns s = true
  · rw [if_pos hcore, hx]
    exact congrArg _ (if_neg (Nat.not_le.mpr hnew))
  · rw [if_neg hcore]

end

/-- Settles O30: a block is staged where its range is good and apart from the blocks before it; the others only answer. -/
theorem firmwareBlocks : Obligations.FirmwareBlocks := by
  intro h s
  exact ⟨fun offset data hruns hidle hdata hlength hin hapart => fwLoadBlock_staged hruns hidle hdata hlength hin hapart,
    fun offset data hruns hidle hbad => fwLoadBlock_bad hruns hidle hbad,
    fun x hcore hx hold => fwStageExpire_old hcore hx hold, fun x hx hnew => fwStageExpire_fresh hx hnew,
    fun start hfw => (exec_fwMeasurements h start s).trans (onFw_of_fwRuns hfw _),
    fun hruns => exists_answer ((exec_fwStatus h s).trans (onFwOrRom_of_runs hruns _))⟩

/-! FW.COMMIT (R433). -/

/-- The image that FW.COMMIT or another issuer had written to the inactive bank (R430, R433). -/
def bankWritten (b : Bytes) (s : State) : Bank :=
  { commitCount := match tget s.hm.banks (1 - s.hm.active) with | some k => k.commitCount + 1 | none => 1, image := b, valid := true }

/-- What the writing of an image may change beyond the banks and the staged blocks: the hold-up voltage shown and what an event may. -/
def imageFrame (s t : State) : Prop :=
  answerFrame { s with hm := { s.hm with banks := t.hm.banks, fwStage := t.hm.fwStage }, isl := { s.isl with holdupMv := t.isl.holdupMv } } t

theorem noteHoldup_eq (mv : Option Nat) (s : State) :
    noteHoldup mv s = { s with isl := { s.isl with holdupMv := (noteHoldup mv s).isl.holdupMv } } := by
  cases mv <;> rfl

/-- What an image's writing answers (R433). -/
theorem commitImage_good {b : Bytes} {mv : Option Nat} {s : State} (hgood : commitCode b mv (noteHoldup mv s) = 0) :
    ∃ t, commitImage b mv true s = (0, t) ∧ imageFrame s t ∧ t.hm.fwStage = none ∧
      tget t.hm.banks (1 - s.hm.active) = some (bankWritten b s) := by
  unfold commitImage
  simp only [hgood, if_neg (show ¬ (0 : Nat) = 0x130B by decide), if_neg (show ¬ (0 : Nat) ≠ 0 by decide), if_true]
  refine ⟨_, rfl, ?_, rfl, ?_⟩
  · rw [imageFrame, noteHoldup_eq]
    rfl
  · rw [noteHoldup_eq]
    exact tget_tput_self _ _ _

theorem commitImage_bad {b : Bytes} {mv : Option Nat} {s : State} (hbad : commitCode b mv (noteHoldup mv s) ≠ 0) :
    ∃ t, commitImage b mv true s = (commitCode b mv (noteHoldup mv s), t) ∧ imageFrame s t ∧ t.hm.banks = s.hm.banks := by
  have hnoted : ∀ t, answerFrame (noteHoldup mv s) t → imageFrame s t ∧ t.hm.banks = s.hm.banks := by
    intro t hframe
    rw [noteHoldup_eq] at hframe
    rw [imageFrame, hframe.banks_eq, hframe.fwStage_eq]
    exact ⟨by rw [hframe]; rfl, rfl⟩
  unfold commitImage
  by_cases hpower : commitCode b mv (noteHoldup mv s) = 0x130B
  · simp only [if_pos hpower]
    exact ⟨_, rfl, hnoted _ (raise_frame _ _ _)⟩
  · simp only [if_neg hpower, if_pos hbad]
    exact ⟨_, rfl, hnoted _ (recordReason_frame _ _)⟩

/-- A part of the state that the writing of an image reads alone: the signature's fuses, the fuse floor and the hold-up (R433). -/
theorem commitCode_staged (b : Bytes) (mv : Option Nat) (x : Option (List (Nat × Bytes) × Nat)) (l : List Out) (s : State) :
    commitCode b mv (noteHoldup mv { s with hm := { s.hm with fwStage := x }, out := l }) = commitCode b mv (noteHoldup mv s) := by
  cases mv <;> rfl

/-- An image's writing, its code told: whether it succeeded or not, nothing else moved (R433). -/
theorem commitImage_frame (b : Bytes) (mv : Option Nat) (s : State) :
    ∃ t, commitImage b mv true s = (commitCode b mv (noteHoldup mv s), t) ∧ imageFrame s t ∧
      (commitCode b mv (noteHoldup mv s) = 0 → t.hm.fwStage = none ∧
        tget t.hm.banks (1 - s.hm.active) = some (bankWritten b s)) ∧
      (commitCode b mv (noteHoldup mv s) ≠ 0 → t.hm.banks = s.hm.banks) := by
  by_cases hgood : commitCode b mv (noteHoldup mv s) = 0
  · obtain ⟨t, hcommit, hframe, hstage, hbank⟩ := commitImage_good hgood
    exact ⟨t, by rw [hcommit, hgood], hframe, fun _ => ⟨hstage, hbank⟩, fun hbad => absurd hgood hbad⟩
  · obtain ⟨t, hcommit, hframe, hbanks⟩ := commitImage_bad hgood
    exact ⟨t, hcommit, hframe, fun hzero => absurd hzero hgood, fun _ => hbanks⟩

section
variable {s t : State} (h : imageFrame s t)
include h

theorem imageFrame.man_eq : t.man = s.man := by rw [h]
theorem imageFrame.acc_eq : t.acc = s.acc := by rw [h]
theorem imageFrame.active_eq : t.hm.active = s.hm.active := by rw [h]
theorem imageFrame.self_eq : self t = self s := by rw [h]; rfl

end

/-- A firmware commit goes on or ends; neither touches the banks (R433). -/
theorem settleFw_frame (c : Commit) (s : State) :
    answerFrame { s with hm := { s.hm with fwCommit := if c.awaiting ≠ [] then some c else none } } (settleFw c s) := by
  unfold settleFw
  split
  · rfl
  · cases c.first with
    | none => exact result_frame _ _ _ _ _
    | some f => exact resultWith_frame _ _ _ _ _ _

section
variable {h : CmdHdr} {b : Bytes} {mv : Option Nat} {s : State}

/-- The state in which FW.COMMIT writes this device's bank: the staged blocks fresh, the other devices asked (R432, R433). -/
def fwAsked (b : Bytes) (devs : List Nat) (s : State) : State :=
  { s with hm := { s.hm with fwStage := some (fwBlocks s, s.tide.count) },
           out := s.out ++ (others devs s).map fun d => .image d 2 b }

/-- The commit that FW.COMMIT begins (R433). -/
def fwCommitOf (h : CmdHdr) (devs : List Nat) (p : Nat × State) (s : State) : Commit :=
  { hdr := h, id := 0, awaiting := others devs s, first := if p.1 = 0 then none else some (self p.2, p.1),
    done := if devs.contains (self s) && p.1 == 0 then [self s] else [], stage := 1, named := devs, holders := [], image := [] }

theorem fwCommit_here {mask : Nat} (hfw : fwRuns s = true) (hidle : fwBusy s = false)
    (hstaged : stagedImage (fwBlocks s) b.length = some b) (hself : self s ∈ maskDevices mask) :
    exec (.fwCommit h b.length mask mv true) s =
      .next (settleFw (fwCommitOf h (maskDevices mask) (commitImage b mv true (fwAsked b (maskDevices mask) s)) s)
        (commitImage b mv true (fwAsked b (maskDevices mask) s)).2) := by
  have hmine : (maskDevices mask).contains (self s) = true := List.contains_iff_mem.mpr hself
  rw [exec_fwCommit, execFwCommit, onFwOrRom_of_runs (by rw [hfw, Bool.true_or])]
  simp only [hidle, Bool.false_eq_true, if_false, hstaged, foldl_emit_eq]
  have hasked : self { s with hm := { s.hm with fwStage := some (fwBlocks s, s.tide.count) }, out := s.out ++
    ((maskDevices mask).filter fun d => d != self s).map fun d => .image d 2 b } = self s := rfl
  rw [hasked, if_pos hmine]
  rfl

end

theorem commitImage_says {o : Out} (b : Bytes) (mv : Option Nat) {s : State} (ho : o ∈ s.out) :
    o ∈ (commitImage b mv true s).2.out := by
  have hnoted : o ∈ (noteHoldup mv s).out := by rw [noteHoldup_eq]; exact ho
  unfold commitImage
  by_cases hpower : commitCode b mv (noteHoldup mv s) = 0x130B
  · simp only [if_pos hpower]
    exact raise_says _ _ hnoted
  by_cases hbad : commitCode b mv (noteHoldup mv s) ≠ 0
  · simp only [if_neg hpower, if_pos hbad]
    exact recordReason_says _ hnoted
  · simp only [if_neg hpower, if_neg hbad, if_true]
    exact List.mem_append_left _ (List.mem_append_left _ (List.mem_append_left _ hnoted))

theorem settleFw_says {o : Out} (c : Commit) {s : State} (ho : o ∈ s.out) : o ∈ (settleFw c s).out := by
  unfold settleFw
  split
  · exact ho
  · cases c.first with
    | none => exact result_says _ _ _ _ (s := { s with hm := { s.hm with fwCommit := none } }) ho
    | some f => exact resultWith_says _ _ _ _ _ (s := { s with hm := { s.hm with fwCommit := none } }) ho

theorem mem_maskDevices {d m : Nat} (hbit : bit m d = true) (hd : d < 64) : d ∈ maskDevices m :=
  List.mem_filter.mpr ⟨List.mem_range.mpr hd, hbit⟩

/-- A commit with a device's answer noted: the first failing code is kept (R433). -/
def fwAnswered (d code : Nat) (c : Commit) : Commit :=
  { c with awaiting := c.awaiting.erase d, first := if c.first.isSome || code == 0 then c.first else some (d, code),
           done := if code = 0 then c.done ++ [d] else c.done }

section
variable {s : State} (hfw : fwRuns s = true)
include hfw

theorem fwImageReceive_next (issuer : Nat) (b : Bytes) (mv : Option Nat) :
    exec (.fwImageReceive issuer b mv true) s =
      .next (emit (.image issuer 4 (le 2 (commitImage b mv true s).1)) (commitImage b mv true s).2) :=
  (exec_fwImageReceive issuer b mv true s).trans (onHm_of_hmRuns (hmRuns_of_fwRuns hfw) _)

theorem fwCommitAnswer_next {c : Commit} {d code : Nat} (hc : s.hm.fwCommit = some c) (hd : d ∈ c.awaiting) :
    exec (.fwCommitAnswer d code) s = .next (settleFw (fwAnswered d code c) s) := by
  have hawaited : (!c.awaiting.contains d) = false := by simp [hd]
  rw [exec_fwCommitAnswer, execFwCommitAnswer, onHm_of_hmRuns (hmRuns_of_fwRuns hfw), hc]
  simp only [hawaited, Bool.false_eq_true, if_false]
  rfl

end

/-- Settles O31: an image's writing is `commitImage`'s; a commit goes on by `settleFw`, which leaves the banks. -/
theorem firmwareCommits : Obligations.FirmwareCommits := by
  intro h b mv s hfw n count
  refine ⟨fun mask hidle hstaged hbit hself => ?here, fun issuer => ?received, fun c d code hc hawait hfirst => ?last,
    fun c d e code hc hawait hde hfirst hcode => ?more⟩
  case here =>
    have hmine := mem_maskDevices hbit hself
    obtain ⟨u, hcommit, hframe, hgood, hbad⟩ := commitImage_frame b mv (fwAsked b (maskDevices mask) s)
    rw [fwAsked, commitCode_staged] at hgood hbad
    have hexec := fwCommit_here (h := h) (mv := mv) hfw hidle hstaged hmine
    have hsettled := settleFw_frame (fwCommitOf h (maskDevices mask) (commitImage b mv true (fwAsked b (maskDevices mask) s)) s) u
    rw [hcommit] at hexec
    rw [hcommit] at hsettled
    refine ⟨_, hexec, hsettled.active_eq.trans hframe.active_eq, hsettled.man_eq.trans hframe.man_eq,
      hsettled.acc_eq.trans hframe.acc_eq, fun d hd hother => ⟨settleFw_says _ ?said, ?asked⟩, fun hzero => ?written,
      fun hne => hsettled.banks_eq.trans (hbad hne)⟩
    case said =>
      have hasked := commitImage_says (o := .image d 2 b) b mv (s := fwAsked b (maskDevices mask) s)
        (List.mem_append_right _ (List.mem_map_of_mem (f := fun d => Out.image d 2 b) (mem_others hd hother)))
      rwa [hcommit] at hasked
    case asked =>
      have hin : d ∈ others (maskDevices mask) s := mem_others hd hother
      have hwaits : others (maskDevices mask) s ≠ [] := List.ne_nil_of_mem hin
      exact ⟨_, hsettled.fwCommit_eq.trans (if_pos hwaits), hin⟩
    case written =>
      obtain ⟨hstage, hbank⟩ := hgood hzero
      exact ⟨hsettled.fwStage_eq.trans hstage, by rw [hsettled.banks_eq]; exact hbank⟩
  case received =>
    obtain ⟨u, hcommit, hframe, hgood, hbad⟩ := commitImage_frame b mv s
    refine ⟨_, fwImageReceive_next hfw issuer b mv, ?_⟩
    rw [hcommit]
    exact ⟨hframe.man_eq, hframe.acc_eq, ⟨_, rfl⟩, fun hzero => (hgood hzero).2, hbad⟩
  case last =>
    have hnone : c.awaiting.erase d = [] := by simp [hawait]
    refine ⟨_, fwCommitAnswer_next hfw hc (by simp [hawait]), ?_⟩
    have hframe := settleFw_frame (fwAnswered d code c) s
    rwa [if_neg (show ¬ (fwAnswered d code c).awaiting ≠ [] from not_not.mpr hnone)] at hframe
  case more =>
    have hrest : c.awaiting.erase d = [e] := by simp [hawait]
    have hfailed : (if c.first.isSome || code == 0 then c.first else some (d, code)) = some (d, code) := by simp [hfirst, hcode]
    refine ⟨_, fwAnswered d code c, fwCommitAnswer_next hfw hc (by simp [hawait]), ?_, hrest, hfailed⟩
    exact if_pos (show (fwAnswered d code c).awaiting ≠ [] from fun hnil => List.cons_ne_nil e [] (hrest.symm.trans hnil))

end Sys2Proof.Machine
end

section
/-! PROOFS. PROGRAMS COMMITTED. -/

namespace Sys2Proof.Machine
open Sys2Proof

/-! Programs committed (R222 to R225). -/

/-- What a program's commit leaves alone: the Manifest, acceptance, Stage, the tide and the key slots. -/
structure ProgramQuiet (s t : State) : Prop where
  man : t.man = s.man
  acc : t.acc = s.acc
  stage : t.stage = s.stage
  tide : t.tide = s.tide
  keys : t.hm.keys = s.hm.keys

theorem answerFrame.programQuiet {s t : State} (h : answerFrame s t) : ProgramQuiet s t :=
  ⟨h.man_eq, h.acc_eq, h.stage_eq, h.tide_eq, h.keys_eq⟩

theorem ProgramQuiet.trans {s t u : State} (h : ProgramQuiet s t) (k : ProgramQuiet t u) : ProgramQuiet s u :=
  ⟨k.man.trans h.man, k.acc.trans h.acc, k.stage.trans h.stage, k.tide.trans h.tide, k.keys.trans h.keys⟩

theorem ProgramQuiet.all {s t : State} (h : ProgramQuiet s t) :
    t.man = s.man ∧ t.acc = s.acc ∧ t.stage = s.stage ∧ t.tide = s.tide ∧ t.hm.keys = s.hm.keys :=
  ⟨h.man, h.acc, h.stage, h.tide, h.keys⟩

/-- A program as a device installs it: usable once its commit has completed (R224). -/
def programOf (b : Bytes) : Program := { image := b, measurement := imgMeasurement b, devices := [] }

/-- An image installed, and measured by an entry. -/
def withProgram (id : Nat) (b : Bytes) (m : Meas) (s : State) : State :=
  { s with hm := { s.hm with meas := s.hm.meas ++ [m], programs := tput s.hm.programs id (programOf b) } }

/-- A free ID with room takes the image, and the measurement log one entry for it (R224, R439). -/
theorem install_of_free {id : Nat} {b : Bytes} {s : State} (hfree : tget s.hm.programs id = none) (hcode : installCode id b s = 0) :
    ∃ m, install id b s = withProgram id b m s := by
  have hfits : measFits 1 s = true := by
    by_contra hfull
    by_cases hmany : 256 ≤ s.hm.programs.length <;> simp [installCode, hfree, hmany, hfull] at hcode
  have hroom : s.hm.meas.length < 8192 := of_decide_eq_true hfits
  obtain ⟨m, hmeasured, -⟩ := measure_of_fits 5 1 (imgId b) (imgKind b + 256 * imgScope b + 65536 * imgKey b) (imgMeasurement b) hroom
  refine ⟨m, ?_⟩
  rw [install, hfree]
  simp only [Option.isSome_none, Bool.false_eq_true, if_false, measureProgram, hmeasured]
  rfl

theorem install_of_held {id : Nat} {b : Bytes} {s : State} (hheld : (tget s.hm.programs id).isSome = true) :
    install id b s = s := by
  rw [install, if_pos hheld]

/-- An image that may be installed is held afterwards (R224). -/
theorem install_holds {id : Nat} {b : Bytes} {s : State} (hcode : installCode id b s = 0) :
    (tget (install id b s).hm.programs id).isSome = true := by
  cases hfree : tget s.hm.programs id with
  | none =>
    obtain ⟨m, hinstalled⟩ := install_of_free hfree hcode
    rw [hinstalled, withProgram, tget_tput_self]
    rfl
  | some p =>
    have hheld : (tget s.hm.programs id).isSome = true := by rw [hfree]; rfl
    rw [install_of_held hheld, hheld]

/-- What an installation may change: the programs and the measurement log. -/
theorem install_frame {id : Nat} {b : Bytes} {s : State} (hcode : installCode id b s = 0) :
    install id b s = { s with hm := { s.hm with meas := (install id b s).hm.meas, programs := (install id b s).hm.programs } } := by
  cases hfree : tget s.hm.programs id with
  | none =>
    obtain ⟨m, hinstalled⟩ := install_of_free hfree hcode
    rw [hinstalled]
    rfl
  | some p => rw [install_of_held (by rw [hfree]; rfl)]

theorem sorted_one (x : Nat) : sorted [x] = [x] := rfl

theorem dropCommit_only {c d : Commit} {s : State} (h : s.hm.commits = [c]) (hhdr : d.hdr = c.hdr) (hid : d.id = c.id) :
    dropCommit d s = { s with hm := { s.hm with commits := [] } } := by
  simp only [dropCommit, h, hhdr, hid, List.filter_cons, beq_self_eq_true, Bool.and_self, Bool.not_true, Bool.false_eq_true,
    if_false, List.filter_nil]

theorem keepCommit_only {c d : Commit} {s : State} (h : s.hm.commits = [c]) (hhdr : d.hdr = c.hdr) (hid : d.id = c.id) :
    keepCommit d s = { s with hm := { s.hm with commits := [d] } } := by
  simp only [keepCommit, h, hhdr, hid, List.any_cons, beq_self_eq_true, Bool.and_self, Bool.true_or, List.map_cons, if_true,
    List.map_nil]

section
variable {c : Commit} {s : State}

/-- A commit that succeeded everywhere: its program is usable and every holder learns of the others (R222, R224). -/
theorem endCommit_of_done (hfirst : c.first = none) : ∃ body, endCommit c s = result c.hdr 0x1704 0 body
    (tellAbout 7 (sorted (c.named ++ c.holders)) (le 4 c.id ++ le 8 (deviceMaskOf (sorted (c.named ++ c.holders))))
      (setHolders c.id (sorted (c.named ++ c.holders)) (unstage c.id (dropCommit c s)))) := by
  simp only [endCommit, hfirst]
  exact ⟨_, rfl⟩

/-- What the end of a good commit may change: it is gone, its staged image with it, and its program's holders are known. -/
theorem endCommit_frame (hfirst : c.first = none) :
    answerFrame { s with hm := { s.hm with
      commits := (dropCommit c s).hm.commits, staged := tdel s.hm.staged c.id,
      programs := (setHolders c.id (sorted (c.named ++ c.holders)) s).hm.programs } } (endCommit c s) := by
  obtain ⟨body, hend⟩ := endCommit_of_done (s := s) hfirst
  rw [hend, tellAbout_eq]
  refine answerFrame.trans ?_ (result_frame _ _ _ _ _)
  cases hheld : tget s.hm.programs c.id with
  | none =>
    rw [setHolders_of_none hheld, setHolders_of_none (show tget (unstage c.id (dropCommit c s)).hm.programs c.id = none from hheld)]
    rfl
  | some p =>
    rw [setHolders_of_some hheld,
      setHolders_of_some (show tget (unstage c.id (dropCommit c s)).hm.programs c.id = some p from hheld)]
    rfl

theorem endCommit_of_failed {f : Nat × Nat} (hfirst : c.first = some f) :
    endCommit c s = resultWith c.hdr 0x1704 0x1148 (some f) [] (undoCommit c (unstage c.id (dropCommit c s))) := by
  simp only [endCommit, hfirst]

/-- A commit whose named devices install (R224). -/
def installing (c : Commit) (s : State) : Commit :=
  { c with stage := 1, awaiting := others c.named s, first := none, done := if c.named.contains (self s) then [self s] else [] }

/-- The image installed here where this device is named, and sent to the other named devices (R224). -/
def imageSent (c : Commit) (s : State) : State :=
  tellAbout 1 c.named c.image (if c.named.contains (self s) then install c.id c.image s else s)

theorem self_imageSent : self (imageSent c s) = self s := by
  have hself : self (if c.named.contains (self s) then install c.id c.image s else s) = self s := by
    split
    · exact (install_kept _ _ _).devid
    · rfl
  rw [imageSent, tellAbout_eq]
  exact hself

/-- A commit free to install begins to: here where this device is named, and at the others (R224). -/
theorem startInstall_of_free (hcode : self s ∈ c.named → installCode c.id c.image s = 0) :
    startInstall c s =
      if others c.named s = [] then endCommit (installing c s) (imageSent c s) else keepCommit (installing c s) (imageSent c s) := by
  have hzero : (if c.named.contains (self s) then installCode c.id c.image s else 0) = 0 := by
    split
    · next hmine => exact hcode (List.contains_iff_mem.mp hmine)
    · rfl
  have hself : self (tellAbout 1 c.named c.image (if c.named.contains (self s) then install c.id c.image s else s)) = self s :=
    self_imageSent
  simp only [startInstall, hzero]
  rw [if_neg (by decide), if_neg (by decide)]
  simp only [hself]
  rfl

end

theorem tget_setHolders {id : Nat} {l : List Nat} {s : State} {p : Program} (hp : tget s.hm.programs id = some p) :
    tget (setHolders id l s).hm.programs id = some { p with devices := l } := by
  rw [setHolders_of_some hp]
  exact tget_tput_self _ _ _

section
variable {c : Commit} {s : State}

theorem settleCommit_waits (h : c.awaiting ≠ []) : settleCommit c s = keepCommit c s := by rw [settleCommit, if_pos h]

variable (h : c.awaiting = [])
include h

theorem settleCommit_asked (hstage : c.stage = 0) (hfirst : c.first = none) : settleCommit c s = startInstall c s := by
  rw [settleCommit, if_neg (not_not.mpr h), if_neg (by omega), if_neg (by omega), hfirst]

theorem settleCommit_installed (hstage : c.stage = 1) : settleCommit c s = endCommit c s := by
  rw [settleCommit, if_neg (not_not.mpr h), if_neg (by omega), if_pos hstage]

theorem settleCommit_unloaded (hstage : c.stage = 2) : settleCommit c s = endUnload c s := by
  rw [settleCommit, if_neg (not_not.mpr h), if_pos hstage]

end

section
variable {h : CmdHdr} {id : Nat} {b : Bytes} {s : State} (hfw : fwRuns s = true)
include hfw

/-- The commit that PROGRAM.COMMIT begins (R223). -/
def commitOf (h : CmdHdr) (id : Nat) (b : Bytes) (devs : List Nat) (s : State) : Commit :=
  { hdr := h, id := id, awaiting := others devs s, first := none, done := [], stage := 0, named := devs,
    holders := holdersOf id s, image := b }

variable {mask : Nat} (hstaged : stagedImage (tgetD s.hm.staged id ([], 0)).1 b.length = some b)
include hstaged

theorem programCommit_bad (hbad : imgCheck id b s ≠ 0) :
    exec (.programCommit h id b.length mask) s =
      .next (result h 0x1704 (imgCheck id b s) [] { s with hm := { s.hm with staged := tdel s.hm.staged id } }) := by
  rw [exec_programCommit, execProgramCommit, onFw_of_fwRuns hfw]
  simp only [hstaged, if_pos hbad]
  rfl

theorem programCommit_good (hexpert : h.expert = true) (hgood : imgCheck id b s = 0) (hmembers : ∀ d ∈ maskDevices mask, deviceMember d s = true)
    (hhere : self s ∈ maskDevices mask → installCode id b s = 0) :
    exec (.programCommit h id b.length mask) s =
      .next (settleCommit (commitOf h id b (maskDevices mask) s) (tellAbout 13 (maskDevices mask) (le 4 id ++ imgMeasurement b) s)) := by
  have hinstall : ¬ ((maskDevices mask).contains (self s) && installCode id b s == 0x1145) = true := by
    rw [Bool.and_eq_true, List.contains_iff_mem]
    rintro ⟨hmine, hother⟩
    rw [hhere hmine] at hother
    exact absurd hother (by decide)
  have hall : ¬ ((maskDevices mask).any fun d => !(deviceMember d s)) = true := by
    rw [List.any_eq_true]
    rintro ⟨d, hd, hnot⟩
    rw [hmembers d hd] at hnot
    exact absurd hnot (by decide)
  rw [exec_programCommit, execProgramCommit, onFw_of_fwRuns hfw]
  simp only [hexpert, if_true, hstaged, hgood, if_neg (show ¬ (0 : Nat) ≠ 0 by decide), if_neg hinstall, if_neg hall]
  rfl

/-- PROGRAM.COMMIT with this device alone named installs the program and makes it usable at once (R222, R224). -/
theorem programCommit_here (hexpert : h.expert = true) (hgood : imgCheck id b s = 0) (honly : maskDevices mask = [self s])
    (hmember : deviceMember (self s) s = true) (hfree : tget s.hm.programs id = none) (hcode : installCode id b s = 0) :
    ∃ t p, exec (.programCommit h id b.length mask) s = .next t ∧ ProgramQuiet s t ∧ t.hm.staged = tdel s.hm.staged id ∧
      tget t.hm.programs id = some p ∧ p.image = b ∧ p.measurement = imgMeasurement b ∧ p.devices = [self s] ∧
      t.hm.meas.length = s.hm.meas.length + 1 := by
  have hexec := programCommit_good (mask := mask) hfw hstaged hexpert hgood (by simp [honly, hmember]) (fun _ => hcode)
  rw [honly, tellAbout_self] at hexec
  obtain ⟨m, hinstalled⟩ := install_of_free hfree hcode
  have hnone : others (commitOf h id b [self s] s).named s = [] := others_self s
  have hsent : imageSent (commitOf h id b [self s] s) s = install id b s := by
    have hself : self (install id b s) = self s := (install_kept _ _ _).devid
    have hmine : [self s].contains (self s) = true := by simp
    show tellAbout 1 [self s] b (if [self s].contains (self s) then install id b s else s) = install id b s
    rw [if_pos hmine, ← hself]
    exact tellAbout_self _ _ _
  have hsettled : settleCommit (commitOf h id b [self s] s) s = endCommit (installing (commitOf h id b [self s] s) s) (install id b s) := by
    have hstart := startInstall_of_free (c := commitOf h id b [self s] s) (s := s) (fun _ => hcode)
    rw [if_pos hnone, hsent] at hstart
    exact (settleCommit_asked hnone rfl rfl).trans hstart
  rw [hsettled, hinstalled] at hexec
  have hframe := endCommit_frame (c := installing (commitOf h id b [self s] s) s) (s := withProgram id b m s) rfl
  have hheld : tget (tput s.hm.programs id (programOf b)) id = some (programOf b) := tget_tput_self _ _ _
  have hholders : sorted ([self s] ++ holdersOf id s) = [self s] := by
    rw [holdersOf, hfree]
    rfl
  refine ⟨_, { programOf b with devices := [self s] }, hexec, ?quiet, hframe.staged_eq, ?program, rfl, rfl, rfl, ?meas⟩
  case quiet => exact ⟨hframe.man_eq, hframe.acc_eq, hframe.stage_eq, hframe.tide_eq, hframe.keys_eq⟩
  case program =>
    rw [hframe.programs_eq]
    exact (tget_setHolders (s := withProgram id b m s) hheld).trans
      (congrArg (fun l => some { programOf b with devices := l }) hholders)
  case meas =>
    rw [hframe.meas_eq]
    exact List.length_append

/-- PROGRAM.COMMIT with another device named asks it first (R223). -/
theorem programCommit_away (hexpert : h.expert = true) {d : Nat} (hgood : imgCheck id b s = 0) (honly : maskDevices mask = [d])
    (hother : d ≠ self s) (hmember : deviceMember d s = true) :
    ∃ t c, exec (.programCommit h id b.length mask) s = .next t ∧
      t = { s with out := s.out ++ [.image d 13 (le 4 id ++ imgMeasurement b)], hm := { s.hm with commits := t.hm.commits } } ∧
      c ∈ t.hm.commits ∧ c.hdr = h ∧ c.id = id ∧ c.stage = 0 ∧ c.awaiting = [d] ∧ c.named = [d] ∧ c.image = b := by
  have hexec := programCommit_good (mask := mask) hfw hstaged hexpert hgood (by simp [honly, hmember])
    (fun hmine => absurd (List.mem_singleton.mp (honly ▸ hmine)).symm hother)
  have hawait : (commitOf h id b [d] s).awaiting = [d] := others_one hother
  have hwaits : (commitOf h id b [d] s).awaiting ≠ [] := fun hnil => List.cons_ne_nil d [] (hawait.symm.trans hnil)
  rw [honly, tellAbout_eq, others_one hother, settleCommit_waits hwaits] at hexec
  exact ⟨_, commitOf h id b [d] s, hexec, rfl, mem_keepCommit _ _, rfl, rfl, rfl, hawait, rfl, rfl⟩

end

/-- Removing a pending program changes the programs only. -/
theorem dropPending_eq (id : Nat) (s : State) :
    dropPending id s = { s with hm := { s.hm with programs := (dropPending id s).hm.programs } } := by
  unfold dropPending
  split <;> rfl

/-- A program that a failed commit installed is gone after it (R224). -/
theorem dropPending_gone {id : Nat} {s : State} (hpending : holdersOf id s = []) :
    tget (dropPending id s).hm.programs id = none := by
  unfold dropPending
  rw [hpending]
  cases hheld : tget s.hm.programs id with
  | none => simpa using hheld
  | some p => exact tget_tdel_self _ _

/-- This device's part in undoing a failed installation (R224). -/
def undoneHere (c : Commit) (s : State) : State := if c.done.contains (self s) then dropPending c.id s else s

theorem undoneHere_eq (c : Commit) (s : State) :
    undoneHere c s = { s with hm := { s.hm with programs := (undoneHere c s).hm.programs } } := by
  unfold undoneHere
  split
  · exact dropPending_eq _ _
  · rfl

theorem undoCommit_installed {c : Commit} {s : State} (hstage : c.stage = 1) :
    undoCommit c s = tellAbout 5 c.done (le 4 c.id) (undoneHere c s) := by
  rw [undoCommit, if_pos hstage]
  rfl

/-- The device's one commit gone with its staged image. -/
def withoutCommit (id : Nat) (s : State) : State :=
  { s with hm := { s.hm with commits := [], staged := tdel s.hm.staged id } }

/-! What other devices say (R223 to R225). -/

/-- The code of another device's image: its own check's, or that of its installation (R223, R224). -/
def imageCode (b : Bytes) (s : State) : Nat :=
  if imgCheck (imgId b) b s ≠ 0 then imgCheck (imgId b) b s else installCode (imgId b) b s

theorem installCode_of_imageCode {b : Bytes} {s : State} (hgood : imageCode b s = 0) : installCode (imgId b) b s = 0 := by
  unfold imageCode at hgood
  split at hgood
  · next hbad => exact absurd hgood hbad
  · exact hgood

section
variable {s : State} (hcore : coreRuns s = true)
include hcore

/-- Another device's image is judged; one that fails is refused to its issuer (R223, R224). -/
theorem programImageReceive_refused (issuer : Nat) {b : Bytes} (hbad : imageCode b s ≠ 0) :
    exec (.programImageReceive issuer ⟨1, b⟩) s =
      .next (emit (.image issuer 3 (le 2 (imageCode b s))) (recordReason (imageCode b s) s)) := by
  rw [exec_programImageReceive, execProgramImageReceive, onCore_of_coreRuns hcore]
  exact congrArg _ (if_pos hbad)

/-- One that passes is measured and installed (R224). -/
theorem programImageReceive_installed (issuer : Nat) {b : Bytes} (hgood : imageCode b s = 0) :
    exec (.programImageReceive issuer ⟨1, b⟩) s = .next (emit (.image issuer 3 (le 2 (imageCode b s))) (install (imgId b) b s)) := by
  rw [exec_programImageReceive, execProgramImageReceive, onCore_of_coreRuns hcore, hgood]
  refine congrArg _ ((if_neg (not_not.mpr hgood)).trans ?_)
  rw [recordReason_zero]

variable {data : Bytes} {id : Nat} {p : Program} (hid : fld data 0 4 = id) (hp : tget s.hm.programs id = some p)
include hid hp

theorem programImageReceive_asked (issuer : Nat) :
    exec (.programImageReceive issuer ⟨13, data⟩) s =
      .next (emit (.image issuer 3 (le 2 (if p.measurement = data.drop 4 then 0 else 0x1145)))
        (recordReason (if p.measurement = data.drop 4 then 0 else 0x1145) s)) := by
  rw [exec_programImageReceive, execProgramImageReceive, onCore_of_coreRuns hcore]
  simp only [hid, hp]
  rfl

theorem programImageReceive_undone (issuer : Nat) :
    exec (.programImageReceive issuer ⟨5, data⟩) s =
      .next (if p.devices = [] then { s with hm := { s.hm with programs := tdel s.hm.programs id } } else s) := by
  rw [exec_programImageReceive, execProgramImageReceive, onCore_of_coreRuns hcore]
  have hheld : holdersOf id s = p.devices := by rw [holdersOf, hp]
  simp only [hid]
  show Host.Outcome.next (dropPending id s) = _
  rw [dropPending, hheld, hp]
  by_cases hnone : p.devices = [] <;> simp [hnone, dropProgram_eq]

theorem programImageReceive_holders (issuer : Nat) :
    exec (.programImageReceive issuer ⟨7, data⟩) s = .next { s with hm := { s.hm with
      programs := tput s.hm.programs id { p with devices := sorted (p.devices ++ maskDevices (fld data 4 8)) } } } := by
  rw [exec_programImageReceive, execProgramImageReceive, onCore_of_coreRuns hcore]
  have hheld : holdersOf id s = p.devices := by rw [holdersOf, hp]
  simp only [hid, hheld]
  exact congrArg _ (setHolders_of_some hp)

theorem programImageReceive_unload (issuer : Nat) :
    exec (.programImageReceive issuer ⟨9, data⟩) s = .next (if programBusy id s then
        emit (.image issuer 3 (le 2 0x1147)) (recordReason 0x1147 s)
      else emit (.image issuer 3 (le 2 0)) { s with hm := { s.hm with
        programs := tput s.hm.programs id { p with devices := [] } } }) := by
  rw [exec_programImageReceive, execProgramImageReceive, onCore_of_coreRuns hcore]
  simp only [hid]
  cases programBusy id s with
  | true => rfl
  | false =>
    refine congrArg _ (congrArg (emit (.image issuer 3 (le 2 0))) ?_)
    rw [recordReason_zero, setHolders_of_some hp]

omit hp in
theorem programImageReceive_removed (issuer : Nat) (hself : self s ∈ maskDevices (fld data 4 8)) :
    exec (.programImageReceive issuer ⟨11, data⟩) s =
      .next { s with hm := { s.hm with programs := tdel s.hm.programs id } } := by
  have hmine : (maskDevices (fld data 4 8)).contains (self s) = true := List.contains_iff_mem.mpr hself
  rw [exec_programImageReceive, execProgramImageReceive, onCore_of_coreRuns hcore]
  simp only [hid, hmine]
  rfl

end

/-! Answers to this device's commits (R223 to R225). -/

/-- A commit or unload with a device's answer noted: the first failing code is kept (R224). -/
theorem programCommitAnswer_next {s : State} {c : Commit} {d : Nat} (hfw : fwRuns s = true) (hc : s.hm.commits = [c])
    (hd : d ∈ c.awaiting) (code : Nat) :
    exec (.programCommitAnswer d code) s = .next (settleCommit (fwAnswered d code c) s) := by
  have hfound : (s.hm.commits.find? fun c => c.awaiting.contains d) = some c := by simp [hc, hd]
  rw [exec_programCommitAnswer, execProgramCommitAnswer, onHm_of_hmRuns (hmRuns_of_fwRuns hfw), hfound]
  rfl

section
variable {c : Commit} {s : State}

theorem imageSent_eq (hcode : self s ∈ c.named → installCode c.id c.image s = 0) :
    imageSent c s = { s with out := (imageSent c s).out, hm := { s.hm with
      meas := (imageSent c s).hm.meas, programs := (imageSent c s).hm.programs } } := by
  rw [imageSent, tellAbout_eq]
  by_cases hmine : c.named.contains (self s) = true
  · rw [if_pos hmine, install_frame (hcode (List.contains_iff_mem.mp hmine))]
  · rw [if_neg hmine]

theorem imageSent_says {e : Nat} (he : e ∈ c.named) (hother : e ≠ self s) : Out.image e 1 c.image ∈ (imageSent c s).out := by
  have hself : self (if c.named.contains (self s) then install c.id c.image s else s) = self s := by
    split
    · exact (install_kept _ _ _).devid
    · rfl
  exact tellAbout_says he (fun h => hother (h.trans hself))

theorem imageSent_programs : (imageSent c s).hm.programs =
    if c.named.contains (self s) then (install c.id c.image s).hm.programs else s.hm.programs := by
  rw [imageSent, tellAbout_eq]
  split <;> rfl

end

section
variable {c : Commit} {d : Nat} {s : State} (hfw : fwRuns s = true) (hc : s.hm.commits = [c]) (hawait : c.awaiting = [d])
include hfw hc hawait

/-- The last answer that the ID is free has every named device install (R224). -/
theorem programCommitAnswer_installs (hfirst : c.first = none) (hstage : c.stage = 0) (haway : others c.named s ≠ [])
    (hcode : self s ∈ c.named → installCode c.id c.image s = 0) :
    ∃ t k, exec (.programCommitAnswer d 0) s = .next t ∧ ProgramQuiet s t ∧ t.hm.staged = s.hm.staged ∧ t.hm.commits = [k] ∧
      k = { c with stage := 1, awaiting := others c.named s, first := none, done := k.done } ∧
      (self s ∈ c.named → k.done = [self s] ∧ (tget t.hm.programs c.id).isSome = true) ∧
      (self s ∉ c.named → k.done = [] ∧ t.hm.programs = s.hm.programs) ∧
      ∀ e ∈ c.named, e ≠ self s → Out.image e 1 c.image ∈ t.out := by
  have hnil : (fwAnswered d 0 c).awaiting = [] := by simp [fwAnswered, hawait]
  have hnone : (fwAnswered d 0 c).first = none := by simp [fwAnswered, hfirst]
  have hexec := programCommitAnswer_next hfw hc (hawait ▸ List.mem_singleton_self d) 0
  rw [settleCommit_asked hnil hstage hnone, startInstall_of_free (c := fwAnswered d 0 c) hcode,
    if_neg (show ¬ others (fwAnswered d 0 c).named s = [] from haway)] at hexec
  have hsent := imageSent_eq (c := fwAnswered d 0 c) hcode
  have hone : (imageSent (fwAnswered d 0 c) s).hm.commits = [c] := by rw [hsent]; exact hc
  rw [keepCommit_only (d := installing (fwAnswered d 0 c) s) hone rfl rfl] at hexec
  refine ⟨_, installing (fwAnswered d 0 c) s, hexec, ?quiet, ?staged, rfl, rfl, fun hmine => ⟨?done, ?held⟩,
    fun hmine => ⟨?none, ?programs⟩, fun e he hother => imageSent_says (c := fwAnswered d 0 c) he hother⟩
  case quiet => rw [hsent]; exact ⟨rfl, rfl, rfl, rfl, rfl⟩
  case staged => rw [hsent]
  case done => exact if_pos (List.contains_iff_mem.mpr hmine)
  case held =>
    have hprograms := imageSent_programs (c := fwAnswered d 0 c) (s := s)
    rw [if_pos (show (fwAnswered d 0 c).named.contains (self s) = true from List.contains_iff_mem.mpr hmine)] at hprograms
    show (tget (imageSent (fwAnswered d 0 c) s).hm.programs c.id).isSome = true
    rw [hprograms]
    exact install_holds (hcode hmine)
  case none => exact if_neg (fun hin => hmine (List.contains_iff_mem.mp hin))
  case programs =>
    exact imageSent_programs.trans (if_neg (fun hin => hmine (List.contains_iff_mem.mp hin)))

/-- The last good answer to the installation makes the program usable, and every holder learns of it (R222, R224). -/
theorem programCommitAnswer_usable (hfirst : c.first = none) (hstage : c.stage = 1) :
    ∃ t, exec (.programCommitAnswer d 0) s = .next t ∧ ProgramQuiet s t ∧ t.hm.commits = [] ∧
      t.hm.staged = tdel s.hm.staged c.id ∧
      (∀ p, tget s.hm.programs c.id = some p →
        tget t.hm.programs c.id = some { p with devices := sorted (c.named ++ c.holders) }) ∧
      ∀ e ∈ c.named, e ≠ self s →
        Out.image e 7 (le 4 c.id ++ le 8 (deviceMaskOf (sorted (c.named ++ c.holders)))) ∈ t.out := by
  have hnil : (fwAnswered d 0 c).awaiting = [] := by simp [fwAnswered, hawait]
  have hnone : (fwAnswered d 0 c).first = none := by simp [fwAnswered, hfirst]
  have hexec := programCommitAnswer_next hfw hc (hawait ▸ List.mem_singleton_self d) 0
  rw [settleCommit_installed hnil hstage] at hexec
  have hframe := endCommit_frame (s := s) hnone
  refine ⟨_, hexec, ⟨hframe.man_eq, hframe.acc_eq, hframe.stage_eq, hframe.tide_eq, hframe.keys_eq⟩, ?commits,
    hframe.staged_eq, fun p hp => ?program, fun e he hother => ?said⟩
  case commits =>
    rw [hframe.commits_eq, dropCommit_only hc (by rfl) (by rfl)]
  case program =>
    rw [hframe.programs_eq]
    exact tget_setHolders hp
  case said =>
    obtain ⟨body, hend⟩ := endCommit_of_done (s := s) hnone
    rw [hend]
    refine result_says _ _ _ _ (tellAbout_says (mem_sorted.mpr (List.mem_append_left _ he)) ?_)
    rw [setHolders_eq]
    exact hother

/-- A failed installation is undone at the devices that installed (R224). -/
theorem programCommitAnswer_undone {code : Nat} (hfirst : c.first = none) (hstage : c.stage = 1) (hcode : code ≠ 0) :
    ∃ t, exec (.programCommitAnswer d code) s = .next t ∧ ProgramQuiet s t ∧ t.hm.commits = [] ∧
      t.hm.staged = tdel s.hm.staged c.id ∧ (self s ∈ c.done → holdersOf c.id s = [] → tget t.hm.programs c.id = none) ∧
      (self s ∉ c.done → t.hm.programs = s.hm.programs) ∧ ∀ e ∈ c.done, e ≠ self s → Out.image e 5 (le 4 c.id) ∈ t.out := by
  have hnil : (fwAnswered d code c).awaiting = [] := by simp [fwAnswered, hawait]
  have hfailed : (fwAnswered d code c).first = some (d, code) := by simp [fwAnswered, hfirst, hcode]
  have hdone : (fwAnswered d code c).done = c.done := if_neg hcode
  have hexec := programCommitAnswer_next hfw hc (hawait ▸ List.mem_singleton_self d) code
  have hgone : unstage (fwAnswered d code c).id (dropCommit (fwAnswered d code c) s) = withoutCommit c.id s := by
    rw [dropCommit_only (d := fwAnswered d code c) hc rfl rfl]
    rfl
  rw [settleCommit_installed hnil hstage, endCommit_of_failed hfailed,
    undoCommit_installed (c := fwAnswered d code c) hstage, hgone, hdone] at hexec
  have hundone := undoneHere_eq (fwAnswered d code c) (withoutCommit c.id s)
  have hframe := resultWith_frame c.hdr 0x1704 0x1148 (some (d, code)) []
    (tellAbout 5 c.done (le 4 c.id) (undoneHere (fwAnswered d code c) (withoutCommit c.id s)))
  rw [tellAbout_eq] at hframe
  have hprograms := hframe.programs_eq
  refine ⟨_, hexec, ?quiet, ?commits, ?staged, fun hmine hpending => ?gone, fun hnot => ?kept, fun e he hother => ?said⟩
  case quiet =>
    rw [hundone] at hframe
    rw [tellAbout_eq, hundone]
    exact ⟨hframe.man_eq, hframe.acc_eq, hframe.stage_eq, hframe.tide_eq, hframe.keys_eq⟩
  case commits =>
    rw [hundone] at hframe
    rw [tellAbout_eq, hundone]
    exact hframe.commits_eq
  case staged =>
    rw [hundone] at hframe
    rw [tellAbout_eq, hundone]
    exact hframe.staged_eq
  case gone =>
    rw [tellAbout_eq]
    refine (congrArg (fun p => tget p c.id) hprograms).trans ?_
    have hdropped : undoneHere (fwAnswered d code c) (withoutCommit c.id s) = dropPending c.id (withoutCommit c.id s) :=
      if_pos (show (fwAnswered d code c).done.contains (self s) = true from hdone ▸ List.contains_iff_mem.mpr hmine)
    show tget (undoneHere (fwAnswered d code c) (withoutCommit c.id s)).hm.programs c.id = none
    rw [hdropped]
    exact dropPending_gone hpending
  case kept =>
    rw [tellAbout_eq]
    refine hprograms.trans ?_
    have hsame : undoneHere (fwAnswered d code c) (withoutCommit c.id s) = withoutCommit c.id s :=
      if_neg (show ¬ (fwAnswered d code c).done.contains (self s) = true from hdone ▸ fun hin => hnot (List.contains_iff_mem.mp hin))
    show (undoneHere (fwAnswered d code c) (withoutCommit c.id s)).hm.programs = s.hm.programs
    rw [hsame]
    rfl
  case said =>
    refine resultWith_says _ _ _ _ _ (tellAbout_says he ?_)
    rw [hundone]
    exact hother

/-- The last answer to an unload removes the program here (R225). -/
theorem programCommitAnswer_unloaded (hfirst : c.first = none) (hstage : c.stage = 2) (hmine : self s ∈ c.named) :
    ∃ t, exec (.programCommitAnswer d 0) s = .next t ∧ ProgramQuiet s t ∧ t.hm.commits = [] ∧
      t.hm.programs = tdel s.hm.programs c.id := by
  have hnil : (fwAnswered d 0 c).awaiting = [] := by simp [fwAnswered, hawait]
  have hnone : (fwAnswered d 0 c).first = none := by simp [fwAnswered, hfirst]
  have hnamed : (fwAnswered d 0 c).named.contains (self s) = true := List.contains_iff_mem.mpr hmine
  have hexec := programCommitAnswer_next hfw hc (hawait ▸ List.mem_singleton_self d) 0
  rw [settleCommit_unloaded hnil hstage, endUnload_of_done hnone hnamed,
    dropCommit_only (d := fwAnswered d 0 c) hc rfl rfl, tellAbout_eq, dropProgram_eq] at hexec
  obtain ⟨t, hexec, hframe⟩ := exists_answer hexec
  exact ⟨t, hexec, ⟨hframe.man_eq, hframe.acc_eq, hframe.stage_eq, hframe.tide_eq, hframe.keys_eq⟩, hframe.commits_eq,
    hframe.programs_eq⟩

end

/-- An answer that is not the last one is noted (R224). -/
theorem programCommitAnswer_more {c : Commit} {d e code : Nat} {s : State} (hfw : fwRuns s = true) (hc : s.hm.commits = [c])
    (hawait : c.awaiting = [d, e]) :
    ∃ t k, exec (.programCommitAnswer d code) s = .next t ∧
      t = { s with hm := { s.hm with commits := [k] } } ∧ k.awaiting = [e] ∧ k.id = c.id ∧ k.stage = c.stage := by
  have hrest : (fwAnswered d code c).awaiting = [e] := by simp [fwAnswered, hawait]
  have hexec := programCommitAnswer_next hfw hc (hawait ▸ List.mem_cons_self) code
  rw [settleCommit_waits (fun hnil => List.cons_ne_nil e [] (hrest.symm.trans hnil)),
    keepCommit_only (d := fwAnswered d code c) hc rfl rfl] at hexec
  exact ⟨_, fwAnswered d code c, hexec, rfl, hrest, rfl, rfl⟩

/-- Settles O29: a commit's stages by `settleCommit`, what other devices say by the kind of their message (log 17). -/
theorem programCommits : Obligations.ProgramCommits := by
  intro h id b s hfw quiet staged
  have hcore := coreRuns_of_fwRuns hfw
  refine ⟨fun mask hexpert hstaged hbad => ?bad,
    fun mask hexpert hstaged hgood honly hmember hfree hcode => ?here,
    fun mask d hexpert hstaged hgood honly hother hmember => programCommit_away hfw hstaged hexpert hgood honly hother hmember,
    fun issuer => ?image, fun issuer data p hid hp => ⟨?asked, fun hnone => ?undone, fun hsome => ?usable,
      programImageReceive_holders hcore hid hp issuer, fun hbusy => ?busy, fun hfree => ?free,
      fun hself => programImageReceive_removed hcore hid issuer hself⟩,
    fun c d hc hawait hfirst => ⟨fun hstage haway hcode => ?installs, fun hstage => ?ends, fun code hstage hcode => ?fails,
      fun hstage hmine => ?unloads⟩, fun c d e code hc hawait hde => programCommitAnswer_more hfw hc hawait⟩
  case bad => exact programCommit_bad hfw hstaged hbad
  case here =>
    obtain ⟨t, p, hexec, hquiet, hrest⟩ := programCommit_here (mask := mask) hfw hstaged hexpert hgood honly hmember hfree hcode
    exact ⟨t, p, hexec, hquiet.all, hrest⟩
  case image =>
    by_cases hgood : imageCode b s = 0
    · have hinstall := installCode_of_imageCode hgood
      have hinstalled := install_frame hinstall
      refine ⟨_, programImageReceive_installed hcore issuer hgood, ?quiet, ?staged, ?out, fun _ hfree => ?program,
        fun hne => absurd hgood hne⟩
      case quiet => rw [hinstalled]; exact ⟨rfl, rfl, rfl, rfl, rfl⟩
      case staged => rw [hinstalled]; rfl
      case out => rw [hinstalled]; rfl
      case program =>
        obtain ⟨m, hheld⟩ := install_of_free hfree hinstall
        rw [hheld]
        exact ⟨programOf b, tget_tput_self _ _ _, rfl, rfl, rfl, List.length_append⟩
    · have hframe := recordReason_frame (imageCode b s) s
      exact ⟨_, programImageReceive_refused hcore issuer hgood, hframe.programQuiet.all, hframe.staged_eq,
        congrArg (· ++ _) (recordReason_out _ _), fun hzero => absurd hzero hgood, fun _ => ⟨hframe.programs_eq, hframe.meas_eq⟩⟩
  case asked =>
    have hframe := recordReason_frame (if p.measurement = data.drop 4 then 0 else 0x1145) s
    refine ⟨_, programImageReceive_asked hcore hid hp issuer, ?hm, hframe.programQuiet.all, congrArg (· ++ _) (recordReason_out _ _)⟩
    exact recordReason_hm _ _
  case undone => rw [programImageReceive_undone hcore hid hp, if_pos hnone]
  case usable => rw [programImageReceive_undone hcore hid hp, if_neg hsome]
  case busy =>
    have hexec := programImageReceive_unload hcore hid hp issuer
    rw [if_pos hbusy] at hexec
    exact ⟨_, hexec, recordReason_hm _ _, congrArg (· ++ _) (recordReason_out _ _)⟩
  case free =>
    have hidle : ¬ programBusy id s = true := by simp [hfree]
    have hexec := programImageReceive_unload hcore hid hp issuer
    rw [if_neg hidle] at hexec
    exact ⟨_, hexec, rfl, rfl⟩
  case installs =>
    obtain ⟨t, k, hexec, hquiet, hrest⟩ := programCommitAnswer_installs hfw hc hawait hfirst hstage haway hcode
    exact ⟨t, k, hexec, hquiet.all, hrest⟩
  case ends =>
    obtain ⟨t, hexec, hquiet, hrest⟩ := programCommitAnswer_usable hfw hc hawait hfirst hstage
    exact ⟨t, hexec, hquiet.all, hrest⟩
  case fails =>
    obtain ⟨t, hexec, hquiet, hrest⟩ := programCommitAnswer_undone hfw hc hawait hfirst hstage hcode
    exact ⟨t, hexec, hquiet.all, hrest⟩
  case unloads =>
    obtain ⟨t, hexec, hquiet, hrest⟩ := programCommitAnswer_unloaded hfw hc hawait hfirst hstage hmine
    exact ⟨t, hexec, hquiet.all, hrest⟩

end Sys2Proof.Machine
end

section
/-! PROOFS. POWER, TEMPERATURE AND THE BOARD. -/

namespace Sys2Proof.Machine
open Sys2Proof

/-! Power, temperature, PMBus, the boundary-scan port and the board declaration. -/

theorem raiseLimited_frame (code key period : Nat) (fields : List (Nat × Nat)) (n : Nat) (s : State) :
    answerFrame s (raiseLimited code key period fields n s) := (recordReason_frame code s).trans rfl

theorem summaries_eventBlind : EventBlind (·.tel.summaries) :=
  ⟨fun _ _ => rfl, fun _ _ => rfl, fun _ _ => rfl, fun _ _ _ => rfl, fun _ _ _ => rfl, fun _ _ => rfl, fun _ _ => rfl,
    fun _ _ => rfl⟩

/-- The summaries that a period's end leaves (R418). -/
def withoutPeriod (period : Nat) (s : State) : State :=
  { s with tel := { s.tel with summaries := s.tel.summaries.filter fun x => x.period != period } }

theorem flushSummaries_eq (period : Nat) (s : State) :
    flushSummaries period s = (s.tel.summaries.filter fun x => x.period == period).foldl
      (fun s x => eventPut x.code true ((evCount, x.count) :: x.fields) s) (withoutPeriod period s) := rfl

theorem flushSummaries_frame (period : Nat) (s : State) : answerFrame s (flushSummaries period s) := by
  rw [flushSummaries_eq]
  exact answerFrame.trans (t := withoutPeriod period s) rfl (foldl_frame (fun t x => eventPut_frame _ _ _ t) _ _)

/-- A period's end leaves none of its summaries (R418). -/
theorem flushSummaries_summaries (period : Nat) (s : State) :
    (flushSummaries period s).tel.summaries = s.tel.summaries.filter fun x => x.period != period := by
  have hkept : ∀ (l : List Summary) (t : State),
      (l.foldl (fun s x => eventPut x.code true ((evCount, x.count) :: x.fields) s) t).tel.summaries = t.tel.summaries := by
    intro l
    induction l with
    | nil => intro t; rfl
    | cons x r ih => intro t; rw [List.foldl_cons, ih]; exact eventPut_keeps summaries_eventBlind _ _ _ _
  rw [flushSummaries_eq, hkept]
  rfl

section
variable {s : State} {mw : Nat}

/-- A power average taken in (R13, R457). -/
def powerTaken (mw : Nat) (s : State) : State :=
  { s with hm := { s.hm with power := mw, powerSum := (s.hm.powerSum.1 + mw, s.hm.powerSum.2 + 1) } }

def capDue (on : Bool) (s : State) : State := { s with hm := { s.hm with capNext := some on } }

theorem coreRuns_of_hmRuns (h : hmRuns s = true) : coreRuns s = true := by
  simp only [hmRuns, Bool.and_eq_true] at h
  obtain ⟨⟨hcore, -⟩, -⟩ := h
  exact hcore

theorem powerSample_high (hhm : hmRuns s = true) (hoff : s.hm.capNext.getD s.hm.capped = false) (hhigh : 2000000 < mw) :
    ∃ t, exec (.powerSample mw) s = .next t ∧ answerFrame (capDue true (powerTaken mw s)) t := by
  have hruns : ¬ (!hmRuns (powerTaken mw s)) = true := by
    rw [show hmRuns (powerTaken mw s) = hmRuns s from rfl, hhm]
    decide
  have hexec : exec (.powerSample mw) s = .next (if (capDue true (powerTaken mw s)).sec.confidential then
      raiseLimited 0x1110 0 2 [] 1 (capDue true (powerTaken mw s)) else raise 0x1110 [] (capDue true (powerTaken mw s))) :=
    ((exec_powerSample mw s).trans (onCore_of_coreRuns (coreRuns_of_hmRuns hhm) _)).trans
      (congrArg _ ((if_neg hruns).trans (if_pos ⟨hhigh, hoff⟩)))
  refine ⟨_, hexec, ?_⟩
  split
  · exact raiseLimited_frame _ _ _ _ _ _
  · exact raise_frame _ _ _

theorem powerSample_low (hhm : hmRuns s = true) (hon : s.hm.capNext.getD s.hm.capped = true) (hlow : mw < 1900000) :
    exec (.powerSample mw) s = .next (capDue false (powerTaken mw s)) := by
  have hruns : ¬ (!hmRuns (powerTaken mw s)) = true := by
    rw [show hmRuns (powerTaken mw s) = hmRuns s from rfl, hhm]
    decide
  have hcalm : ¬ (2000000 < mw ∧ (powerTaken mw s).hm.capNext.getD (powerTaken mw s).hm.capped = false) := by omega
  exact ((exec_powerSample mw s).trans (onCore_of_coreRuns (coreRuns_of_hmRuns hhm) _)).trans
    (congrArg _ ((if_neg hruns).trans ((if_neg hcalm).trans (if_pos ⟨hlow, hon⟩))))

theorem thermalLimit_high (hhm : hmRuns s = true) (hcool : s.hm.hot = false) :
    exec (.thermalLimit true) s = .next (raise 0x1111 [] { s with hm := { s.hm with hot := true } }) := by
  have hchanged : ¬ (true == s.hm.hot) = true := by simp [hcool]
  rw [exec_thermalLimit, execThermalLimit, onHm_of_hmRuns hhm]
  exact congrArg _ ((if_neg hchanged).trans (if_pos rfl))

theorem thermalLimit_low (hhm : hmRuns s = true) (hhot : s.hm.hot = true) :
    exec (.thermalLimit false) s = .next { s with hm := { s.hm with hot := false } } := by
  have hchanged : ¬ (false == s.hm.hot) = true := by simp [hhot]
  rw [exec_thermalLimit, execThermalLimit, onHm_of_hmRuns hhm]
  exact congrArg _ ((if_neg hchanged).trans (if_neg Bool.false_ne_true))

/-- The second's end shows its average (R457). -/
def powerAveraged (s : State) : State :=
  { s with hm := { s.hm with powerShown := nearest10W (s.hm.powerSum.1 / s.hm.powerSum.2), powerSum := (0, 0) } }

theorem oneSecondPeriodEnd_next (hcore : coreRuns s = true) (hsome : 0 < s.hm.powerSum.2) :
    exec .oneSecondPeriodEnd s = .next (flushSummaries 2 (powerAveraged s)) := by
  have hshown : (if s.hm.powerSum.2 = 0 then s.hm.powerShown else nearest10W (s.hm.powerSum.1 / s.hm.powerSum.2)) =
      nearest10W (s.hm.powerSum.1 / s.hm.powerSum.2) := if_neg (by omega)
  rw [exec_oneSecondPeriodEnd, execOneSecondPeriodEnd, onCore_of_coreRuns hcore]
  simp only [hshown]
  rfl

/-! The board declaration (R460, R461). -/

variable {decl : Bytes}

/-- The checks of a board declaration (R460). -/
abbrev declGood (decl : Bytes) : Prop :=
  decl.length = 64 ∧ 1000 ≤ fld decl 0 4 ∧ fld decl 0 4 ≤ 10000000 ∧ 1000 ≤ fld decl 4 2 ∧ fld decl 4 2 ≤ 60000 ∧
    fld decl 6 1 < 128 ∧ slice decl 12 48 = zeros 48 ∧ fld decl 60 4 = crc32c (decl.take 60)

theorem boardDeclWrite_good (hidle : s.acc.flushMode = false) (hgood : declGood decl) :
    exec (.boardDeclWrite decl) s = .next { s with isl := { s.isl with
      decl := some (fld decl 0 4, fld decl 4 2, fld decl 6 1, fld decl 7 1, fld decl 8 4) } } := by
  have hok : ¬ (s.acc.flushMode || !decide (declGood decl)) = true := by simp [hidle, hgood]
  exact congrArg _ (if_neg hok)

theorem boardDeclWrite_bad (hbad : ¬ declGood decl ∨ s.acc.flushMode = true) :
    exec (.boardDeclWrite decl) s = .next (recordReason 0x1116 s) := by
  have hrefused : (s.acc.flushMode || !decide (declGood decl)) = true := by
    rcases hbad with hbad | hflush
    · simp [hbad]
    · simp [hflush]
  exact congrArg _ (if_pos hrefused)

theorem tapInstruction_running {code : Nat} (hruns : s.isl.resetState = .running) :
    exec (.tapInstruction code) s =
      .next (emit (.tap (if 3 < code ∨ (s.sec.latch = true ∧ 1 < code) then 1 else code))
        { s with isl := { s.isl with tap := if 3 < code ∨ (s.sec.latch = true ∧ 1 < code) then 1 else code } }) := by
  have hup : ¬ (s.isl.resetState = .cold ∨ s.isl.resetState = .warm) := by simp [hruns]
  exact congrArg _ (if_neg hup)

end

/-- Settles O36: each reading and each limit by its own case; the second's end drops the summaries it tells. -/
theorem powerAndBoard : Obligations.PowerAndBoard := by
  intro s
  refine ⟨fun mw hhm hoff hhigh => powerSample_high hhm hoff hhigh, fun mw hhm hon hlow => powerSample_low hhm hon hlow,
    fun hhm hcool => ⟨_, thermalLimit_high hhm hcool, raise_frame _ _ _, lastCode_raise (by decide) _ _⟩,
    fun hhm hhot => thermalLimit_low hhm hhot,
    fun hcore hsome => ⟨_, oneSecondPeriodEnd_next hcore hsome, flushSummaries_frame _ _, ?summaries⟩, rfl,
    ⟨_, rfl, Nat.mod_lt _ (by decide)⟩, ⟨_, rfl, Nat.mod_lt _ (by decide)⟩, fun c => rfl,
    fun code hruns => tapInstruction_running hruns,
    fun decl hidle hlength hcap hmost hvmin hvmost hfield hzero hcrc =>
      ⟨_, boardDeclWrite_good hidle ⟨hlength, hcap, hmost, hvmin, hvmost, hfield, hzero, hcrc⟩, rfl, rfl⟩,
    fun decl hbad => boardDeclWrite_bad ?bad⟩
  case summaries =>
    intro x hx
    rw [flushSummaries_summaries] at hx
    exact bne_iff_ne.mp (List.mem_filter.mp hx).2
  case bad =>
    by_cases hflush : s.acc.flushMode = true
    · exact Or.inr hflush
    · refine Or.inl fun ⟨hlength, hcap, hmost, _⟩ => ?_
      rcases hbad with h | h | h | h
      · exact h hlength
      · omega
      · omega
      · exact hflush h

end Sys2Proof.Machine
end

section
/-! PROOFS. RESETS AND BOOTS. -/

namespace Sys2Proof.Machine
open Sys2Proof

/-! Resets and boots. -/

/-- A measurement adds to the log, where it fits, and changes nothing else (R439). -/
structure Measured (s t : State) : Prop where
  rest : t = { s with hm := { s.hm with meas := t.hm.meas } }
  grows : s.hm.meas <+: t.hm.meas

theorem Measured.refl (s : State) : Measured s s := ⟨rfl, List.prefix_refl _⟩

theorem Measured.trans {s t u : State} (h : Measured s t) (k : Measured t u) : Measured s u := by
  obtain ⟨hrest, hgrows⟩ := h
  obtain ⟨krest, kgrows⟩ := k
  refine ⟨?_, hgrows.trans kgrows⟩
  rw [krest, hrest]

theorem Measured.foldl {α : Type} {f : State → α → State} (hf : ∀ s x, Measured s (f s x)) (l : List α) (s : State) :
    Measured s (l.foldl f s) := by
  induction l generalizing s with
  | nil => exact Measured.refl s
  | cons x r ih => exact (hf s x).trans (ih _)

theorem measure_measured (kind measurer id aux : Nat) (digest : Bytes) (s : State) :
    Measured s (measure kind measurer id aux digest s) := by
  by_cases hroom : s.hm.meas.length < 8192
  · obtain ⟨m, hmeasured, -⟩ := measure_of_fits kind measurer id aux digest hroom
    rw [hmeasured]
    exact ⟨rfl, List.prefix_append _ _⟩
  · have hfull : (!measFits 1 s) = true := by simp [measFits, measRoom]; omega
    rw [measure, if_pos hfull]
    exact Measured.refl s

theorem measureLayers_measured (s : State) : Measured s (measureLayers s) :=
  ((measure_measured _ _ _ _ _ _).trans (measure_measured _ _ _ _ _ _)).trans (measure_measured _ _ _ _ _ _)

/-- The core that a boot releases: it runs from a slot, with an empty log (R427, R431). -/
def started (n : Nat) (s : State) : State :=
  { s with hm := { s.hm with active := n, meas := [], bootCache := [] },
           isl := { s.isl with resetState := .running, udsLocked := true, corePower := true } }

/-- A boot measures what runs, then keeps the first entries and derives the keys (R427, R439). -/
def derived (s : State) : State := deriveKeys { s with hm := { s.hm with bootCache := s.hm.meas.take 512 } }

/-- The loader's entry, the first of a boot (R427, R439). -/
def loaderMeasured (s : State) : State :=
  measure 1 0 (imageRelease (runImage s)) (imageSvn (runImage s)) (compDigest (runImage s) 0) s

/-- The keys and programs that Stage kept, measured again (R226). -/
def keysMeasured (s : State) : State := s.hm.keys.foldl (fun s k => measure 6 1 k.1 0 (Config.sha384 k.2) s) s

def programsMeasured (s : State) : State := s.hm.programs.foldl (fun s p => measureProgram p.2.image s) s

/-- What a boot measures after the loader. -/
def restMeasured (s : State) : State := programsMeasured (keysMeasured (measureSecurity (measureLayers s)))

theorem restMeasured_measured (s : State) : Measured s (restMeasured s) :=
  (((measureLayers_measured s).trans (measure_measured _ _ _ _ _ _)).trans
    (Measured.foldl (fun _ _ => measure_measured _ _ _ _ _ _) _ _)).trans
    (Measured.foldl (fun _ _ => measure_measured _ _ _ _ _ _) _ _)

theorem bootFrom_eq (n : Nat) (s : State) : bootFrom n s = derived (restMeasured (loaderMeasured (started n s))) := by
  unfold bootFrom derived restMeasured loaderMeasured programsMeasured keysMeasured started
  rfl

/-- A boot starts the core and fills an empty log. -/
theorem boot_measured (n : Nat) (s : State) : Measured (started n s) (restMeasured (loaderMeasured (started n s))) :=
  (measure_measured _ _ _ _ _ _).trans (restMeasured_measured _)

/-- A boot's log holds the loader's entry at least. -/
theorem boot_meas (n : Nat) (s : State) : (restMeasured (loaderMeasured (started n s))).hm.meas ≠ [] := by
  obtain ⟨m, hfirst, -⟩ := measure_of_fits 1 0 (imageRelease (runImage (started n s))) (imageSvn (runImage (started n s)))
    (compDigest (runImage (started n s)) 0) (s := started n s) (Nat.zero_lt_succ _)
  have hloader : (loaderMeasured (started n s)).hm.meas = [m] := by rw [loaderMeasured, hfirst]; rfl
  obtain ⟨r, hr⟩ := (restMeasured_measured (loaderMeasured (started n s))).grows
  rw [hloader] at hr
  exact fun hnil => List.cons_ne_nil m r (hr.trans hnil)

/-- What a boot leaves of the state before it. -/
structure Booted (n : Nat) (s t : State) : Prop where
  running : coreRuns t = true
  active : t.hm.active = n
  stage : t.stage = s.stage
  locked : t.isl.udsLocked = true
  acc : t.acc = s.acc
  floor : t.hm.floor = s.hm.floor
  meas : t.hm.meas ≠ []

section
variable {s t : State} (h : Measured s t)
include h

theorem Measured.isl_eq : t.isl = s.isl := by rw [h.rest]
theorem Measured.stage_eq : t.stage = s.stage := by rw [h.rest]
theorem Measured.acc_eq : t.acc = s.acc := by rw [h.rest]
theorem Measured.active_eq : t.hm.active = s.hm.active := by rw [h.rest]
theorem Measured.floor_eq : t.hm.floor = s.hm.floor := by rw [h.rest]

end

theorem derived_booted {n : Nat} {s t : State} (h : Measured (started n s) t) (hmeas : t.hm.meas ≠ []) :
    Booted n s (derived t) := by
  have hruns : coreRuns (derived t) = coreRuns t := rfl
  have hstarted : coreRuns t = true := by
    rw [coreRuns, h.isl_eq]
    rfl
  have hlocked : t.isl.udsLocked = true := by rw [h.isl_eq]; rfl
  exact ⟨hruns.trans hstarted, h.active_eq, h.stage_eq, hlocked, h.acc_eq, h.floor_eq, hmeas⟩

theorem bootFrom_booted (n : Nat) (s : State) : Booted n s (bootFrom n s) := by
  rw [bootFrom_eq]
  exact derived_booted (boot_measured n s) (boot_meas n s)

/-- A boot from the SSD keeps the fuse floor, and recovery runs no firmware. -/
theorem markBanks_floor (s : State) : (markBanks s).hm.floor = s.hm.floor := rfl

theorem answerFrame.floor_eq {s t : State} (h : answerFrame s t) : t.hm.floor = s.hm.floor := by rw [h]

theorem bootSsd_floor (ok0 ok1 ssdOk : Bool) (s : State) : (bootSsd ok0 ok1 ssdOk s).hm.floor = s.hm.floor := by
  unfold bootSsd
  split
  · rw [(raise_frame _ _ _).floor_eq]
    rfl
  extract_lets n ok t
  have hmarked : t.hm.floor = s.hm.floor := rfl
  clear_value t
  split
  · exact (bootFrom_booted n t).floor.trans hmarked
  split
  · rw [(raise_frame _ _ _).floor_eq]
    exact (bootFrom_booted (1 - n) t).floor.trans hmarked
  · exact hmarked

theorem answerFrame.coreRuns_eq {s t : State} (h : answerFrame s t) : coreRuns t = coreRuns s := by rw [h]; rfl

/-- A core whose Stage cannot be trained stays in the ROM (R454, R487). -/
theorem untrained_idle (s : State) : coreRuns (untrained s) = false := by
  rw [untrained, (raise_frame _ _ _).coreRuns_eq]
  rfl

theorem untrained_floor (s : State) : (untrained s).hm.floor = s.hm.floor := by
  rw [untrained, (raise_frame _ _ _).floor_eq]
  rfl

section
variable {s : State}

theorem resetRelease_held (hheld : s.isl.held = true) (a b c : Bool) (d : StageFound) (bad corrected : List Nat) :
    exec (.resetRelease a b c d bad corrected) s = .next s := by
  have hin : (s.isl.held || s.isl.resetState == .running) = true := by simp [hheld]
  exact congrArg _ (if_pos hin)

theorem resetRelease_warm (hfree : s.isl.held = false) (hwarm : s.isl.resetState = .warm) (a b c : Bool) :
    exec (.resetRelease a b c .kept [] []) s = .next (bootFrom (s.hm.active % 2) s) := by
  have hout : ¬ (s.isl.held || s.isl.resetState == .running) = true := by simp [hfree, hwarm]
  rw [exec_resetRelease, execResetRelease, if_neg hout, if_pos ⟨hwarm, rfl⟩]
  rfl

/-- The logbook of the newest image, as a cold boot takes it up (R371). -/
def logRestored (s : State) : State :=
  { s with refCycles := 0, acc := { s.acc with
      log := restoredLog s, logTail := recordsSize (restoredLog s) % 2 ^ 26,
      nextLog := ((restoredLog s).map fun r => r.logSeq).foldl max 0 + 1 } }

theorem resetRelease_cold (hfree : s.isl.held = false) (hcold : s.isl.resetState = .cold) (a b c : Bool) :
    exec (.resetRelease a b c .untrained [] []) s =
      .next (if !coreRuns (bootSsd a b c (logRestored s)) then bootSsd a b c (logRestored s)
        else untrained (bootSsd a b c (logRestored s))) := by
  have hout : ¬ (s.isl.held || s.isl.resetState == .running) = true := by simp [hfree, hcold]
  have hnotWarm : ¬ (s.isl.resetState = .warm ∧ StageFound.untrained = .kept) := fun h => nomatch h.2
  rw [exec_resetRelease, execResetRelease, if_neg hout, if_neg hnotWarm]
  simp only [if_pos hcold, if_true]
  rfl

theorem coldReset_next (v : Bool) :
    ∃ t, exec (.coldReset v) s = .next t ∧ t.isl.resetState = .cold ∧ t.isl.bypass = .closed ∧ t.isl.held = false ∧
      t.sec.latch = false ∧ t.sec.confidential = false ∧ t.stage = [] ∧ t.mbox = [] ∧ t.man = State.reset.man ∧
      t.tel = State.reset.tel ∧ t.hm.banks = s.hm.banks ∧ t.hm.floor = s.hm.floor ∧ t.acc.images = s.acc.images ∧
      t.acc.jobs = [] ∧ t.isl.devid = s.isl.devid ∧ (v = false → t.isl.buffer = s.isl.buffer) ∧
      (v = true → t.isl.buffer = [] ∧ t.isl.cause = 0) := by
  cases v with
  | false => exact ⟨_, rfl, rfl, rfl, rfl, rfl, rfl, rfl, rfl, rfl, rfl, rfl, rfl, rfl, rfl, rfl, fun _ => rfl, nofun⟩
  | true => exact ⟨_, rfl, rfl, rfl, rfl, rfl, rfl, rfl, rfl, rfl, rfl, rfl, rfl, rfl, rfl, rfl, nofun, fun _ => ⟨rfl, rfl⟩⟩

theorem warmReset_next (hfree : s.isl.held = false) (hup : s.isl.resetState ≠ .cold) (ring : Bool) :
    exec (.warmReset ring) s = .next (warmReset (if ring then 0x0908 else 0) s) := by
  have hout : ¬ (s.isl.held || s.isl.resetState == .cold) = true := by simp [hfree, hup]
  exact congrArg _ (if_neg hout)

theorem railFault_next {rail : Nat} (hlow : 1 ≤ rail) (hhigh : rail ≤ 7) (hup : s.isl.resetState ≠ .cold) :
    exec (.railFault rail) s = .next { raise 0x1113 [(evDetail, rail)] s with isl :=
      { islandReset .cold (raise 0x1113 [(evDetail, rail)] s).isl with
        held := true, alert := true, cause := 0x1113, rail := rail,
        corePower := (raise 0x1113 [(evDetail, rail)] s).isl.corePower && decide (rail ≠ 2) } } := by
  have hin : ¬ (rail = 0 ∨ 7 < rail ∨ s.isl.resetState = .cold) := by simp [hup]; omega
  exact congrArg _ (if_neg hin)

theorem answerFrame.corePower_eq {t : State} (h : answerFrame s t) : t.isl.corePower = s.isl.corePower := by rw [h]

end

/-- Settles O35: each reset by what it keeps, each release by the bank it boots from. -/
theorem resets : Obligations.Resets := by
  intro s
  refine ⟨fun v => coldReset_next v, fun ring hfree hup => ?warm, fun rail hlow hhigh hup => ?rail, ?thermtrip,
    fun a b c d bad corrected hheld => resetRelease_held hheld a b c d bad corrected, fun a b c hfree hwarm => ?released,
    fun a b c hfree hcold => ?cold⟩
  case warm => exact ⟨_, warmReset_next hfree hup ring, rfl, rfl, rfl, rfl, rfl, rfl, rfl, rfl, rfl, rfl, rfl, rfl⟩
  case rail =>
    refine ⟨_, railFault_next hlow hhigh hup, rfl, rfl, rfl, rfl, rfl, ?_⟩
    exact congrArg (· && _) (raise_frame _ _ _).corePower_eq
  case thermtrip => exact ⟨_, rfl, rfl, rfl, rfl, rfl⟩
  case released =>
    obtain ⟨hrunning, hactive, hstage, hlocked, hacc, -, hmeas⟩ := bootFrom_booted (s.hm.active % 2) s
    exact ⟨_, resetRelease_warm hfree hwarm a b c, hrunning, hactive, hstage, hlocked, hmeas, hacc⟩
  case cold =>
    refine ⟨_, resetRelease_cold hfree hcold a b c, ?_⟩
    have hfloor : (bootSsd a b c (logRestored s)).hm.floor = s.hm.floor := bootSsd_floor _ _ _ _
    split
    · next hidle => exact ⟨by simpa using hidle, hfloor⟩
    · exact ⟨untrained_idle _, (untrained_floor _).trans hfloor⟩

end Sys2Proof.Machine
end

section
/-! PROOFS. FIRMWARE THAT RUNS AGAIN. -/

namespace Sys2Proof.Machine
open Sys2Proof

/-! Firmware that runs again. -/

/-- The commands taken are no event's matter. -/
theorem taken_eventBlind : EventBlind (·.hm.taken) :=
  ⟨fun _ _ => rfl, fun _ _ => rfl, fun _ _ => rfl, fun _ _ _ => rfl, fun _ _ _ => rfl, fun _ _ => rfl, fun _ _ => rfl,
    fun _ _ => rfl⟩

theorem ringPost_taken (m : Nat) (b : Bytes) (j : Option (Nat × Nat)) (s : State) :
    (ringPost m b j s).hm.taken = s.hm.taken := by
  unfold ringPost
  extract_lets x n p base padRec mem t mem' t' b' s1
  have hposted : s1.hm.taken = s.hm.taken := rfl
  clear_value s1
  split
  · exact (signal_keeps taken_eventBlind _ _).trans hposted
  · exact hposted

theorem send_taken (m : Nat) (v : Bool) (a : Answer) (j : Option (Nat × Nat)) (s : State) :
    (send m v a j s).hm.taken = s.hm.taken := by
  unfold send
  split
  · exact lighterSend_keeps taken_eventBlind _ _ _ _
  · unfold post
    extract_lets b x n k
    split
    · rfl
    · exact ringPost_taken _ _ _ _

theorem untake_taken {m tag : Nat} {s : State} {x : Taken} (hx : s.hm.taken = [x]) (hm : x.mailbox = m) (htag : x.tag = tag) :
    (untake m tag s).hm.taken = [] := by
  have hfound : (s.hm.taken.find? fun t => t.mailbox == m && t.tag == tag) = some x := by simp [hx, hm, htag]
  simp only [untake, hfound]
  show (s.hm.taken.erase x) = []
  simp [hx]

/-- A RESULT ends the command it answers. -/
theorem result_taken {h : CmdHdr} {s : State} {x : Taken} (hx : s.hm.taken = [x]) (hm : x.mailbox = h.mailbox)
    (htag : x.tag = h.tag) (code reason : Nat) (body : Bytes) : (result h code reason body s).hm.taken = [] := by
  rw [result, resultWith, send_taken]
  exact untake_taken (by rw [recordReason_hm]; exact hx) hm htag

/-- The header by which a command taken before is answered (R420). -/
def takenHdr (x : Taken) : CmdHdr := { mailbox := x.mailbox, tag := x.tag, expert := true, viaLighter := false }

section
variable {s : State}

theorem answerTaken_alone (hissued : s.man.issued = []) (hjobs : s.acc.jobs = []) (x : Taken) :
    answerTaken x s = result (takenHdr x) x.command 0x0008 [] s := by
  simp only [answerTaken, hissued, hjobs, List.any_nil, Bool.false_eq_true, if_false, List.find?_nil]
  rfl

theorem answersTaken_frame (l : List Taken) (hissued : s.man.issued = []) (hjobs : s.acc.jobs = []) :
    answerFrame s (l.foldl (fun s t => answerTaken t s) s) := by
  induction l generalizing s with
  | nil => exact answerFrame.refl s
  | cons x r ih =>
    have hframe := result_frame (takenHdr x) x.command 0x0008 [] s
    rw [List.foldl_cons, answerTaken_alone hissued hjobs]
    exact hframe.trans (ih (by rw [hframe.man_eq]; exact hissued) (by rw [hframe.acc_eq]; exact hjobs))

/-- Nothing was cut off when the firmware stopped (R420). -/
structure NothingCut (s : State) : Prop where
  jobs : s.acc.jobs = []
  waiting : s.acc.waiting = []
  flushFor : s.acc.flushFor = []
  issued : s.man.issued = []
  commits : s.hm.commits = []
  fwCommit : s.hm.fwCommit = none
  enterAt : s.sec.enterAt = none

/-- The state without the commands that a firmware stop cuts off (R420). -/
def cutCleared (commits : List Commit) (fw : Option Commit) (enter : Option (Nat × CmdHdr))
    (waiting : List (JobHdr × Nat × JobDesc)) (flush : List FlushOwner) (s : State) : State :=
  { s with hm := { s.hm with commits := commits, fwCommit := fw }, sec := { s.sec with enterAt := enter },
           acc := { s.acc with waiting := waiting, flushFor := flush } }

theorem cutCleared_self {commits : List Commit} {fw : Option Commit} {enter : Option (Nat × CmdHdr)}
    {waiting : List (JobHdr × Nat × JobDesc)} {flush : List FlushOwner} (hcommits : s.hm.commits = commits)
    (hfw : s.hm.fwCommit = fw) (henter : s.sec.enterAt = enter) (hwaiting : s.acc.waiting = waiting)
    (hflush : s.acc.flushFor = flush) : cutCleared commits fw enter waiting flush s = s := by
  subst hcommits hfw henter hwaiting hflush
  rfl

theorem dropCut_of_nothing (h : NothingCut s) : dropCut s = s := by
  obtain ⟨hjobs, hwaiting, hflush, hissued, hcommits, hfw, henter⟩ := h
  simp only [dropCut, hwaiting, hflush, hcommits, hfw, henter, List.filterMap_nil, List.filter_nil, List.foldl_nil]
  exact cutCleared_self hcommits hfw henter hwaiting hflush

/-- The firmware runs again (R419, R420). -/
def readied (s : State) : State := { s with hm := { s.hm with fwReady := true, alive := true, halved := false } }

theorem becomeReady_of_nothing (h : NothingCut s) :
    becomeReady s = s.hm.taken.foldl (fun s t => answerTaken t s) (readied s) := by
  have hready : NothingCut (readied s) :=
    ⟨h.jobs, h.waiting, h.flushFor, h.issued, h.commits, h.fwCommit, h.enterAt⟩
  have hframe := answersTaken_frame (s := readied s) s.hm.taken h.issued h.jobs
  have hdropped : becomeReady s = wakeOffers (((postOutcomes (s.hm.taken.foldl (fun s t => answerTaken t s) (dropCut (readied s)))).acc.jobs.filter
      fun j => j.phase == .posted).foldl (fun s j => postComplete true j s)
      (postOutcomes (s.hm.taken.foldl (fun s t => answerTaken t s) (dropCut (readied s))))) := rfl
  rw [hdropped, dropCut_of_nothing hready]
  have hissued : (s.hm.taken.foldl (fun s t => answerTaken t s) (readied s)).man.issued = [] := by
    rw [hframe.man_eq]
    exact h.issued
  have hacc : (s.hm.taken.foldl (fun s t => answerTaken t s) (readied s)).acc = s.acc := hframe.acc_eq
  rw [postOutcomes, hissued, List.foldl_nil, hacc, h.jobs, List.filter_nil, List.foldl_nil, wakeOffers, hacc, h.waiting]
  rfl

theorem firmwareReady_next (hcore : coreRuns s = true) (hdown : s.hm.fwReady = false) (hthawed : s.hm.frozen = false)
    (h : NothingCut s) :
    exec .firmwareReady s = .next (s.hm.taken.foldl (fun s t => answerTaken t s) (readied s)) := by
  have hok : ¬ (s.hm.fwReady || s.hm.frozen) = true := by simp [hdown, hthawed]
  rw [exec_firmwareReady, execFirmwareReady, onCore_of_coreRuns hcore, if_neg hok, becomeReady_of_nothing h]

theorem hmHeartbeat_next (hcore : coreRuns s = true) (hthawed : s.hm.frozen = false) (hready : s.hm.fwReady = true) :
    exec .hmHeartbeat s = .next { s with hm := { s.hm with alive := true, halved := false } } := by
  have hok : ¬ s.hm.frozen = true := by simp [hthawed]
  rw [exec_hmHeartbeat, execHmHeartbeat, onCore_of_coreRuns hcore, if_neg hok, if_pos hready]

/-- The Harbourmaster gone for 1 ms (R419). -/
def heartbeatLost (s : State) : State :=
  { s with hm := { s.hm with alive := false, halved := true }, isl := { s.isl with alert := true } }

theorem hmWatchdog_next (halive : s.hm.alive = true) : exec .hmWatchdog s = .next (raise 0x1104 [] (heartbeatLost s)) :=
  congrArg _ (if_pos halive)

theorem signal_isl (v : Nat) (s : State) : (signal v s).isl = s.isl := by
  unfold signal
  split <;> rfl

theorem lighterSend_isl (l content : Nat) (plain : Bytes) (s : State) : (lighterSend l content plain s).isl = s.isl := by
  unfold lighterSend
  extract_lets x units ring at_ wrap x' s1 s2
  have hsent : s2.isl = s.isl := rfl
  clear_value s2
  split
  · rfl
  split
  · rfl
  split
  · exact (signal_isl _ _).trans hsent
  · exact hsent

theorem eventWrite_isl (b : Bytes) (s : State) : (eventWrite b s).isl = s.isl := by
  unfold eventWrite
  extract_lets t src s1
  have hstored : s1.isl = s.isl := rfl
  clear_value s1
  split
  · exact lighterSend_isl _ _ _ _
  split
  · exact (signal_isl _ _).trans hstored
  · exact hstored

theorem recordReason_isl (c : Nat) (s : State) : (recordReason c s).isl = s.isl := by
  unfold recordReason
  split <;> rfl

/-- An alert that stands is released by no event (R482, R483). -/
theorem raise_alert (code : Nat) (fields : List (Nat × Nat)) (h : s.isl.alert = true) :
    (raise code fields s).isl.alert = true :=
  eventPut_leaves (P := fun t => t.isl.alert = true) (fun _ _ ht => ht) (fun _ ht => ht)
    (fun b t ht => (congrArg (·.alert) (eventWrite_isl b t)).trans ht) (fun _ _ => rfl) code false fields
    ((congrArg (·.alert) (recordReason_isl code s)).trans h)

/-! The steps after an activation (R435). -/

theorem noteHoldup_hm (mv : Option Nat) (s : State) : (noteHoldup mv s).hm = s.hm := by rw [noteHoldup_eq]

theorem fwPostReadyWrites_next (hfw : fwRuns s = true) (mv : Option Nat) (hsteps : s.hm.fwSteps ≠ []) :
    exec (.fwPostReadyWrites mv) s = .next (postReady 8 mv (noteHoldup mv s)) := by
  rw [exec_fwPostReadyWrites, execFwPostReadyWrites, onHm_of_hmRuns (hmRuns_of_fwRuns hfw), if_neg hsteps]

theorem fwSelectPending_next (hfw : fwRuns s = true) (mv : Option Nat) (hsteps : s.hm.fwSteps ≠ [])
    (hpending : s.hm.fwPendingRaised = true) :
    exec (.fwSelectPending mv) s = .next (postReady 8 mv (noteHoldup mv s)) := by
  have hok : (s.hm.fwPendingRaised && s.hm.fwSteps != []) = true := by simp [hpending, hsteps]
  rw [exec_fwSelectPending, execFwSelectPending, onHm_of_hmRuns (hmRuns_of_fwRuns hfw), if_pos hok]

variable {mv : Option Nat} {k : Nat} {r : List Nat}

theorem postReady_done (h : s.hm.fwSteps = []) : postReady k mv s = s := by
  cases k with
  | zero => rfl
  | succ k => rw [postReady, h]

/-- The step that raises the fuse floor to the running image's (R437). -/
def floorRaised (r : List Nat) (s : State) : State :=
  { s with hm := { s.hm with fwSteps := r, floor := max s.hm.floor (imageSvn (runImage s)) } }

theorem postReady_floor (h : s.hm.fwSteps = 3 :: r) :
    postReady (k + 1) mv s = postReady k mv (measureSecurity (floorRaised r s)) := by
  rw [postReady, h]
  rfl

theorem postReady_select (h : s.hm.fwSteps = 2 :: r) (hpower : holdupOk mv 4096 s = true) :
    postReady (k + 1) mv s = postReady k mv (writeSelect { s with hm := { s.hm with fwSteps := r } }) := by
  rw [postReady, h]
  exact if_pos hpower

theorem postReady_waits (h : s.hm.fwSteps = 2 :: r) (hpower : holdupOk mv 4096 s = false) :
    postReady (k + 1) mv s = selectPending s := by
  rw [postReady, h]
  exact if_neg (by simp [hpower])

/-- That a write is put off has been said (R435). -/
def pendingRaised (s : State) : State := { s with hm := { s.hm with fwPendingRaised := true } }

theorem answerFrame.fwSteps_eq {s t : State} (h : answerFrame s t) : t.hm.fwSteps = s.hm.fwSteps := by rw [h]

theorem answerFrame.selects_eq {s t : State} (h : answerFrame s t) : t.hm.selects = s.hm.selects := by rw [h]

theorem answerFrame.fwPendingRaised_eq {s t : State} (h : answerFrame s t) :
    t.hm.fwPendingRaised = s.hm.fwPendingRaised := by rw [h]

theorem selectPending_eq (s : State) : selectPending s =
    if (raise 0x130B [] s).hm.fwPendingRaised then raise 0x130B [] s
    else raise 0x112B [] (pendingRaised (raise 0x130B [] s)) := by
  unfold selectPending pendingRaised
  rfl

/-- What a write put off leaves and says (R435). -/
structure PutOff (s t : State) : Prop where
  steps : t.hm.fwSteps = s.hm.fwSteps
  raised : t.hm.fwPendingRaised = true
  selects : t.hm.selects = s.hm.selects

theorem putOff_raised {s t : State} (hframe : answerFrame s t) :
    PutOff s (if t.hm.fwPendingRaised then t else raise 0x112B [] (pendingRaised t)) := by
  by_cases hraised : t.hm.fwPendingRaised = true
  · rw [if_pos hraised]
    exact ⟨hframe.fwSteps_eq, hraised, hframe.selects_eq⟩
  · have hsaid := raise_frame 0x112B [] (pendingRaised t)
    rw [if_neg hraised]
    exact ⟨hsaid.fwSteps_eq.trans hframe.fwSteps_eq, hsaid.fwPendingRaised_eq, hsaid.selects_eq.trans hframe.selects_eq⟩

theorem selectPending_putOff (s : State) : PutOff s (selectPending s) := by
  rw [selectPending_eq]
  exact putOff_raised (raise_frame _ _ _)

/-- The step that raises the floor, alone (R437). -/
theorem fwPostReadyWrites_floor (hfw : fwRuns s = true) (mv : Option Nat) (hsteps : s.hm.fwSteps = [3]) :
    ∃ t, exec (.fwPostReadyWrites mv) s = .next t ∧ Measured (floorRaised [] (noteHoldup mv s)) t := by
  have hnoted : (noteHoldup mv s).hm.fwSteps = [3] := by rw [noteHoldup_hm, hsteps]
  have hmeasured := measure_measured 7 1 (floorRaised [] (noteHoldup mv s)).hm.floor 0 (zeros 48) (floorRaised [] (noteHoldup mv s))
  have hdone : (measureSecurity (floorRaised [] (noteHoldup mv s))).hm.fwSteps = [] := by
    rw [measureSecurity, hmeasured.rest]
    rfl
  refine ⟨measureSecurity (floorRaised [] (noteHoldup mv s)), ?_, hmeasured⟩
  rw [fwPostReadyWrites_next hfw mv (by rw [hsteps]; exact List.cons_ne_nil _ _), postReady_floor hnoted, postReady_done hdone]

theorem fwPostReadyWrites_waits (hfw : fwRuns s = true) (mv : Option Nat) (hsteps : s.hm.fwSteps = 2 :: r)
    (hpower : holdupOk mv 4096 (noteHoldup mv s) = false) :
    exec (.fwPostReadyWrites mv) s = .next (selectPending (noteHoldup mv s)) := by
  have hnoted : (noteHoldup mv s).hm.fwSteps = 2 :: r := by rw [noteHoldup_hm, hsteps]
  rw [fwPostReadyWrites_next hfw mv (by rw [hsteps]; exact List.cons_ne_nil _ _), postReady_waits hnoted hpower]

/-- A select record put off is written when the hold-up suffices (R435). -/
theorem fwSelectPending_writes (hfw : fwRuns s = true) (mv : Option Nat) (hsteps : s.hm.fwSteps = [2])
    (hpending : s.hm.fwPendingRaised = true) (hpower : holdupOk mv 4096 (noteHoldup mv s) = true) :
    exec (.fwSelectPending mv) s = .next (writeSelect { noteHoldup mv s with hm := { (noteHoldup mv s).hm with fwSteps := [] } }) := by
  have hnoted : (noteHoldup mv s).hm.fwSteps = [2] := by rw [noteHoldup_hm, hsteps]
  rw [fwSelectPending_next hfw mv (by rw [hsteps]; exact List.cons_ne_nil _ _) hpending, postReady_select hnoted hpower,
    postReady_done rfl]

/-- A device's report that it has activated, not the last, is noted (R435). -/
theorem fwDoneReport_noted {d : Nat} {i : Issued} (hcore : coreRuns s = true) (hissued : s.man.issued = [i])
    (happlied : i.applied = true) (hd : d ∈ i.awaiting) (hchange : ∃ m r, i.change = .fwActivate m r)
    (hmore : i.awaiting.erase d ≠ []) :
    exec (.fwDoneReport d) s = .next (setIssued { i with awaiting := i.awaiting.erase d } s) := by
  obtain ⟨m, r, hchange⟩ := hchange
  rw [exec_fwDoneReport, execFwDoneReport, onCore_of_coreRuns hcore]
  simp only [fwDone, hissued, List.find?_cons, happlied, List.contains_iff_mem.mpr hd, hchange, Bool.and_self]
  exact congrArg _ (if_neg hmore)

end

theorem setIssued_only {i j : Issued} {s : State} (hissued : s.man.issued = [i]) (hnumber : i.number = j.number) :
    (setIssued j s).man.issued = [j] := by
  simp [setIssued, hissued, hnumber]

/-- Settles O32: the heartbeat and the watchdog at once, readiness by the commands it answers, an activation's steps in order. -/
theorem firmwareRunsAgain : Obligations.FirmwareRunsAgain := by
  intro s
  refine ⟨fun hcore hthawed hready => hmHeartbeat_next hcore hthawed hready, fun halive => ?watchdog,
    fun hcore hdown hthawed hjobs hwaiting hflush hissued hcommits hfw henter => ?ready, fun mv hfw hsteps => ?floor,
    fun mv r hfw hsteps hpower => ?waits, fun mv hfw hsteps hpending hpower => ?select,
    fun d i hcore hissued happlied hd hchange hmore => ?done⟩
  case watchdog =>
    exact ⟨_, hmWatchdog_next halive, answerFrame.trans (t := heartbeatLost s) rfl (raise_frame _ _ _), raise_alert _ _ rfl,
      lastCode_raise (by decide) _ _⟩
  case ready =>
    have hnothing : NothingCut s := ⟨hjobs, hwaiting, hflush, hissued, hcommits, hfw, henter⟩
    refine ⟨_, firmwareReady_next hcore hdown hthawed hnothing, answersTaken_frame _ hissued hjobs, fun x hx => ?_⟩
    rw [hx, List.foldl_cons, List.foldl_nil, answerTaken_alone (s := readied s) hissued hjobs]
    exact result_taken (s := readied s) (h := takenHdr x) hx rfl rfl _ _ _
  case floor =>
    obtain ⟨t, hexec, hmeasured⟩ := fwPostReadyWrites_floor hfw mv hsteps
    refine ⟨t, hexec, ?_, ?_, ?_, ?_, ?_⟩ <;> rw [hmeasured.rest, noteHoldup_eq] <;> rfl
  case waits =>
    obtain ⟨hkept, hraised, hselects⟩ := selectPending_putOff (noteHoldup mv s)
    refine ⟨_, fwPostReadyWrites_waits hfw mv hsteps hpower, ?_, hraised, ?_⟩
    · rw [hkept, noteHoldup_hm, hsteps]
    · rw [hselects, noteHoldup_hm]
  case select =>
    refine ⟨_, fwSelectPending_writes hfw mv hsteps hpending hpower, rfl, ?_⟩
    rw [noteHoldup_eq]
    exact List.mem_append_right _ (List.mem_singleton_self _)
  case done =>
    exact ⟨_, fwDoneReport_noted hcore hissued happlied hd hchange hmore, rfl, setIssued_only hissued rfl⟩

end Sys2Proof.Machine
end

section
/-! PROOFS. FLUSHES OF THE LOGBOOK. -/

namespace Sys2Proof.Machine
open Sys2Proof

/-! Flushes of the logbook (R370, R371). -/

theorem noteHoldup_acc (mv : Option Nat) (s : State) : (noteHoldup mv s).acc = s.acc := by rw [noteHoldup_eq]

/-- A flush serves one more owner. -/
def flushOwned (o : FlushOwner) (s : State) : State := { s with acc := { s.acc with flushFor := s.acc.flushFor ++ [o] } }

/-- A flush begun for an owner: the logbook's records to the older area (R370, R371). -/
def flushBegun (o : FlushOwner) (s : State) : State :=
  emit (.ssd (flushArea (lastFlush s + 1) + 4096) (s.acc.log.flatMap recordBytes))
    (flushOwned o { s with acc := { s.acc with flush := some (true, s.acc.log), flushMode := true } })

/-- A flush of the headers alone, after the event that the full one failed its check (R370). -/
def headersBegun (o : FlushOwner) (s t : State) : State :=
  emit (.ssd (flushArea (lastFlush s + 1) + 4096) ((liveRecords s).flatMap fun r => (recordBytes r).take 64))
    (flushOwned o { t with acc := { t.acc with flush := some (false, liveRecords s), flushMode := true } })

/-- The flush that R370 allows once the hold-up reading is noted. -/
def flushChosen (mv : Option Nat) (o : FlushOwner) (s : State) : Bool × State :=
  if s.acc.flush.isSome then (true, flushOwned o s)
  else if holdupOk mv (recordsSize s.acc.log) s then (true, flushBegun o s)
  else if holdupOk mv (4096 + 64 * (liveRecords s).length) (raise 0x130B [] s) then
    (true, headersBegun o s (raise 0x130B [] s))
  else (false, raise 0x130B [] s)

theorem startFlush_eq (mv : Option Nat) (o : FlushOwner) (s : State) :
    startFlush mv o s = flushChosen mv o (noteHoldup mv s) := rfl

theorem answerFrame.holdupOk_eq {s t : State} (h : answerFrame s t) (mv : Option Nat) (n : Nat) :
    holdupOk mv n t = holdupOk mv n s := by
  rw [h]
  rfl

section
variable {mv : Option Nat} {o : FlushOwner} {s : State} (hidle : s.acc.flush = none)
include hidle

theorem flushChosen_enough (henough : holdupOk mv (recordsSize s.acc.log) s = true) :
    flushChosen mv o s = (true, flushBegun o s) := by
  rw [flushChosen, if_neg (by simp [hidle]), if_pos henough]

theorem flushChosen_none (hfull : holdupOk mv (recordsSize s.acc.log) s = false)
    (hheads : holdupOk mv (4096 + 64 * (liveRecords s).length) s = false) :
    flushChosen mv o s = (false, raise 0x130B [] s) := by
  have hheads' : ¬ holdupOk mv (4096 + 64 * (liveRecords s).length) (raise 0x130B [] s) = true := by
    rw [(raise_frame _ _ _).holdupOk_eq, hheads]
    decide
  rw [flushChosen, if_neg (by simp [hidle]), if_neg (by simp [hfull]), if_neg hheads']

end

/-- What a flush that begins changes of acceptance. -/
def flushAcc (o : FlushOwner) (s : State) : Accept :=
  { s.acc with flush := some (true, s.acc.log), flushMode := true, flushFor := s.acc.flushFor ++ [o] }

theorem flushBegun_eq (o : FlushOwner) (s : State) :
    flushBegun o s = { s with acc := flushAcc o s, out := (flushBegun o s).out } := rfl

theorem liveRecords_noteHoldup (mv : Option Nat) (s : State) : liveRecords (noteHoldup mv s) = liveRecords s := by
  have hlive : ∀ l, liveOf (noteHoldup mv s) l = liveOf s l := by
    intro l
    induction l with
    | nil => rfl
    | cons r t ih =>
      have hsame : recordLive (noteHoldup mv s) t r = recordLive s t r := by rw [noteHoldup_eq]; rfl
      rw [liveOf, liveOf, ih, hsame]
  rw [liveRecords, hlive, noteHoldup_acc]
  rfl

section
variable {h : CmdHdr} {mv : Option Nat} {path : LbPath} {id : Nat} {s : State} (hidle : s.acc.flush = none)
  (henough : holdupOk mv (recordsSize s.acc.log) (noteHoldup mv s) = true)

include hidle

theorem noteHoldup_idle : (noteHoldup mv s).acc.flush = none := by rw [noteHoldup_acc, hidle]

theorem logbookFlush_none (hfw : fwRuns s = true) (hfull : holdupOk mv (recordsSize s.acc.log) (noteHoldup mv s) = false)
    (hheads : holdupOk mv (4096 + 64 * (liveRecords s).length) (noteHoldup mv s) = false) :
    exec (.logbookFlush h mv) s = .next (result h 0x1901 0x130B [] (raise 0x130B [] (noteHoldup mv s))) := by
  rw [← noteHoldup_acc mv s] at hfull
  rw [← liveRecords_noteHoldup mv s] at hheads
  rw [exec_logbookFlush, execLogbookFlush, onFw_of_fwRuns hfw]
  simp only [startFlush_eq, flushChosen_none (noteHoldup_idle hidle) hfull hheads, Bool.false_eq_true, if_false]

include henough

theorem startFlush_enough (o : FlushOwner) : startFlush mv o s = (true, flushBegun o (noteHoldup mv s)) := by
  rw [← noteHoldup_acc mv s] at henough
  rw [startFlush_eq, flushChosen_enough (noteHoldup_idle hidle) henough]

theorem logbookFlush_begins (hfw : fwRuns s = true) :
    exec (.logbookFlush h mv) s = .next (flushBegun (.command h) (noteHoldup mv s)) := by
  rw [exec_logbookFlush, execLogbookFlush, onFw_of_fwRuns hfw]
  simp only [startFlush_enough hidle henough, if_true]

end

/-! The lifeboat's LB_RESULT registers (R479). -/

/-- A path's LB_RESULT, and the island with it set. -/
def lbShown (path : LbPath) (i : Island) : LbResult := match path with | .window => i.window | .sideband => i.sideband

def withResult (path : LbPath) (r : LbResult) (i : Island) : Island :=
  match path with | .window => { i with window := r } | .sideband => { i with sideband := r }

theorem lbShown_withResult (path : LbPath) (r : LbResult) (i : Island) : lbShown path (withResult path r i) = r := by
  cases path <;> rfl

/-- An operation's number, the issue's and its state as LB_RESULT shows them. -/
def lbEntry (op id code state : Nat) : LbResult := { lastOp := op, lastId := id, reason := code, state := state }

/-- RUNNING is shown without a signal (R446, R479). -/
theorem lbReport_running (path : LbPath) (op id : Nat) (s : State) :
    lbReport path op id 0 1 s = { s with isl := withResult path (lbEntry op id 0 1) s.isl } := by
  have hquiet : ∀ t : State, ¬ (coreRuns t && (1 : Nat) != 1) = true := fun t => by simp
  cases path with
  | window =>
    unfold lbReport
    simp only [recordReason_zero, if_neg (hquiet _)]
    rfl
  | sideband =>
    unfold lbReport
    simp only [recordReason_zero]
    rfl

theorem lbReport_isl (path : LbPath) (op id code state : Nat) (s : State) :
    (lbReport path op id code state s).isl = withResult path (lbEntry op id code state) s.isl := by
  have hrecorded := recordReason_isl code s
  unfold lbReport
  extract_lets r t src u
  cases path with
  | window =>
    have hshown : u.isl = withResult .window (lbEntry op id code state) s.isl := by
      rw [← hrecorded]
      rfl
    clear_value u
    dsimp only
    split
    · exact (signal_isl _ _).trans hshown
    · exact hshown
  | sideband =>
    rw [← hrecorded]
    rfl

/-- The hold-up's fail noted (R459). -/
def inputLost (s : State) : State := { s with isl := { s.isl with holdupFail := true } }

def powerSafe (s : State) : State := { s with isl := { s.isl with pwrSafe := true } }

theorem powerSafe_acc (t : State) : (powerSafe t).acc = t.acc := rfl
theorem powerSafe_tel (t : State) : (powerSafe t).tel = t.tel := rfl
theorem powerSafe_pwrSafe (t : State) : (powerSafe t).isl.pwrSafe = true := rfl

/-- Without a flush the device is safe at once (R459). -/
def flushOrSafe (p : Bool × State) : State := if p.1 then p.2 else powerSafe p.2

/-- An exclusive operation shown to run. -/
def exclusively (op : Nat) (s : State) : State := { s with isl := { s.isl with exclusive := some op } }

section
variable {mv : Option Nat} {path : LbPath} {id : Nat} {s : State} (hidle : s.acc.flush = none)
  (henough : holdupOk mv (recordsSize s.acc.log) (noteHoldup mv s) = true) (hcore : coreRuns s = true)
include hidle henough hcore

/-- The device frozen for a flush. -/
def frozenState (s : State) : State := { s with hm := { s.hm with frozen := true } }

omit hidle henough in
theorem freezeDevice_running : freezeDevice s = frozenState s := if_pos hcore

omit hidle hcore in
theorem holdupOk_frozen : holdupOk mv (recordsSize (frozenState s).acc.log) (noteHoldup mv (frozenState s)) = true := by
  rw [← henough]
  cases mv <;> rfl

omit hidle henough hcore in
/-- An exclusive operation that passes its checks is carried out (R423). -/
theorem lbExclusive_runs {op : Nat} {needsCore : Bool} {run : State → State} (hfree : lbBusy s = false)
    (hpower : needsCore = true → s.isl.corePower = true) : lbExclusive path op id true needsCore run s = .next (run s) := by
  have hidle : ¬ lbBusy s = true := by simp [hfree]
  have hon : ¬ (needsCore && !s.isl.corePower) = true := by
    cases needsCore with
    | false => simp
    | true => simp [hpower rfl]
  exact congrArg _ ((if_neg (by decide)).trans ((if_neg hidle).trans (if_neg hon)))

omit hidle henough in
theorem corePower_of_coreRuns : s.isl.corePower = true := by
  simp only [coreRuns, Bool.and_eq_true] at hcore
  exact hcore.1

theorem lifeboatLogbookFlush_begins (hfree : lbBusy s = false) :
    exec (.lifeboatLogbookFlush path id 0 mv) s =
      .next (lbReport path 7 id 0 1 (exclusively 7 (flushBegun (.lifeboat (decide (path = .window))) (noteHoldup mv (frozenState s))))) := by
  have hstart := startFlush_enough (s := frozenState s) hidle (holdupOk_frozen henough) (.lifeboat (decide (path = .window)))
  rw [exec_lifeboatLogbookFlush, execLifeboatLogbookFlush, decide_eq_true (rfl : (0 : Nat) = 0),
    lbExclusive_runs hfree (fun _ => corePower_of_coreRuns hcore)]
  simp only [freezeDevice_running hcore, hstart, if_true]
  rfl

theorem holdupFail_begins :
    exec (.holdupFail mv) s = .next (flushBegun .powerFail (noteHoldup mv (frozenState (inputLost s)))) := by
  have hup : ¬ (!coreRuns (inputLost s)) = true := by
    rw [show coreRuns (inputLost s) = coreRuns s from rfl, hcore]
    decide
  have henough' : holdupOk mv (recordsSize (frozenState (inputLost s)).acc.log) (noteHoldup mv (frozenState (inputLost s))) = true := by
    rw [← henough]
    cases mv <;> rfl
  have hstart := startFlush_enough (s := frozenState (inputLost s)) hidle henough' .powerFail
  refine congrArg _ ((if_neg hup).trans ?_)
  show flushOrSafe (startFlush mv .powerFail (frozenState (inputLost s))) = _
  rw [hstart]
  exact if_pos rfl

end

section
variable {s : State}

theorem holdupFail_idle (mv : Option Nat) (hdown : coreRuns s = false) :
    exec (.holdupFail mv) s = .next { s with isl := { s.isl with holdupFail := true, pwrSafe := true } } := by
  have hoff : (!coreRuns (inputLost s)) = true := by
    rw [show coreRuns (inputLost s) = coreRuns s from rfl, hdown]
    rfl
  exact congrArg _ (if_pos hoff)

/-! The end of a flush (R371). -/

variable {full : Bool} {recs : List LogRec} (hflush : s.acc.flush = some (full, recs)) (hfor : s.acc.flushFor = [.powerFail])
  (hwaiting : s.acc.waiting = [])

/-- The flush over. -/
def flushEnded (s : State) : State := { s with acc := { s.acc with flush := none, flushFor := [], flushMode := false } }

/-- An image written beside the newest one before it (R371). -/
def withImage (count : Nat) (full : Bool) (recs : List LogRec) (s : State) : State :=
  { s with acc := { s.acc with images := (s.acc.images.filter fun x => decide (count < x.1 + 2)) ++ [(count, full, recs)] } }

include hflush in
theorem endFlush_written : (endFlush true s).2.2 = withImage (lastFlush s + 1) full recs
    (emit (.ssd (flushArea (lastFlush s + 1)) (imageHeader full (lastFlush s + 1) recs (flushEnded s))) (flushEnded s)) := by
  simp only [endFlush, hflush, if_true]
  rfl

include hflush in
theorem endFlush_failed : (endFlush false s).2.2 = raise 0x130C [] (flushEnded s) := by
  simp only [endFlush, hflush, Bool.false_eq_true, if_false, flushEnded]

include hflush in
theorem endFlush_owners (ok : Bool) : (endFlush ok s).2.1 = s.acc.flushFor := by
  unfold endFlush
  rw [hflush]

theorem settleFlush_powerFail (code : Nat) (t : State) : settleFlush code [.powerFail] t = powerSafe t := rfl

theorem wakeOffers_none {t : State} (h : t.acc.waiting = []) : wakeOffers t = t := by
  rw [wakeOffers, h]
  rfl

include hflush hfor in
/-- The end of a flush for a hold-up fail alone, with no submission waiting. -/
theorem flushComplete_powerFail (ok : Bool) (hwaiting : (endFlush ok s).2.2.acc.waiting = []) :
    exec (.flushComplete ok) s = .next (powerSafe (endFlush ok s).2.2) := by
  have hunder : ¬ s.acc.flush.isNone = true := by simp [hflush]
  have hsafe : (powerSafe (endFlush ok s).2.2).acc.waiting = [] := hwaiting
  rw [exec_flushComplete, execFlushComplete, if_neg hunder]
  simp only [endFlush_owners hflush ok, hfor, settleFlush_powerFail, wakeOffers_none hsafe, ite_self]

end

/-- Settles O33: a flush begins by `startFlush` for each of its owners, and ends by `endFlush`. -/
theorem flushesBeginAndEnd : Obligations.FlushesBeginAndEnd := by
  intro h mv path id s hidle begun enough
  refine ⟨fun hfw henough => ⟨_, logbookFlush_begins hidle henough hfw, ?command, ?commandRest⟩,
    fun hfw hfull hheads => ⟨_, logbookFlush_none hidle hfw hfull hheads, (raise_frame _ _ _).trans (result_frame _ _ _ _ _)⟩,
    fun hcore hfree henough => ⟨_, lifeboatLogbookFlush_begins hidle henough hcore hfree, ?lifeboat⟩,
    fun hcore henough => ⟨_, holdupFail_begins hidle henough hcore, ?power⟩, fun hdown => ⟨_, holdupFail_idle mv hdown, rfl⟩, rfl,
    fun u full recs hflush hfor hwaiting => ⟨?written, ?failed⟩⟩
  case command =>
    show flushAcc _ (noteHoldup mv s) = _
    rw [flushAcc, noteHoldup_acc]
  case commandRest => rfl
  case lifeboat =>
    rw [lbReport_running]
    refine ⟨?_, ?_, ?_, ?_, ?_⟩
    · show flushAcc _ (noteHoldup mv (frozenState s)) = _
      rw [flushAcc, noteHoldup_acc]
      rfl
    · show (noteHoldup mv (frozenState s)).hm.frozen = true
      rw [noteHoldup_hm]
      rfl
    · cases path <;> rfl
    · rintro rfl
      rfl
    · rintro rfl
      rfl
  case power =>
    refine ⟨?_, ?_, ?_, ?_⟩
    · show flushAcc _ (noteHoldup mv (frozenState (inputLost s))) = _
      rw [flushAcc, noteHoldup_acc]
      rfl
    · show (noteHoldup mv (frozenState (inputLost s))).hm.frozen = true
      rw [noteHoldup_hm]
      rfl
    · show (noteHoldup mv (frozenState (inputLost s))).isl.holdupFail = true
      rw [noteHoldup_eq]
      rfl
    · show (noteHoldup mv (frozenState (inputLost s))).isl.pwrSafe = s.isl.pwrSafe
      rw [noteHoldup_eq]
      rfl
  case written =>
    have hend := endFlush_written hflush
    have hexec := flushComplete_powerFail hflush hfor true (by rw [hend]; exact hwaiting)
    rw [hend] at hexec
    exact ⟨_, hexec, rfl, rfl, rfl, List.mem_append_right _ (List.mem_singleton_self _), rfl, rfl⟩
  case failed =>
    have hend := endFlush_failed hflush
    have hframe := raise_frame 0x130C [] (flushEnded u)
    have hexec := flushComplete_powerFail hflush hfor false (by rw [hend, hframe.acc_eq]; exact hwaiting)
    rw [hend] at hexec
    refine ⟨_, hexec, ?_, powerSafe_pwrSafe _, ?_, ?_⟩
    · rw [powerSafe_acc, hframe.acc_eq]
      rfl
    · rw [powerSafe_acc, hframe.acc_eq]
      rfl
    · rw [powerSafe_tel]
      exact lastCode_raise (by decide) _ _

end Sys2Proof.Machine
end

section
/-! PROOFS. THE LIFEBOAT'S OPERATIONS. -/

namespace Sys2Proof.Machine
open Sys2Proof

/-! The lifeboat's operations (R422, R423, R425, R479). -/

/-- The island as an operation is shown RUNNING on its path (R479; log 20). -/
def lbStarted (path : LbPath) (op id code : Nat) (i : Island) : Island :=
  { withResult path (lbEntry op id 0 1) i with
    lbRuns := (withResult path (lbEntry op id 0 1) i).lbRuns ++ [{ op := op, path := path, id := id, code := code }] }

theorem lbBegin_eq (path : LbPath) (op id code : Nat) (effect : State → State) (s : State) :
    lbBegin path op id code effect s = { effect s with isl := lbStarted path op id code (effect s).isl } := by
  rw [lbBegin, lbReport_running]
  rfl

theorem lbShown_lbStarted (path : LbPath) (op id code : Nat) (i : Island) :
    lbShown path (lbStarted path op id code i) = lbEntry op id 0 1 := by
  cases path <;> rfl

section
variable {path : LbPath} {id op : Nat} {s : State}

/-- An immediate operation with a good parameter is carried out where none of its code runs (R423). -/
theorem lbDone_runs {effect : State → State} (hfree : ∀ r ∈ s.isl.lbRuns, r.op ≠ op) :
    lbDone path op id true effect s = .next { effect s with isl := lbStarted path op id 0 (effect s).isl } := by
  have hnone : ¬ (s.isl.lbRuns.any fun r => r.op == op) = true := by
    rw [List.any_eq_true]
    rintro ⟨r, hr, hop⟩
    exact hfree r hr (beq_iff_eq.mp hop)
  rw [← lbBegin_eq]
  exact congrArg _ ((if_neg (by decide)).trans (if_neg hnone))

theorem lbDone_bad {effect : State → State} : lbDone path op id false effect s = .next (lbReport path op id 0x1102 3 s) := rfl

theorem lbExclusive_busy {needsCore : Bool} {run : State → State} (hbusy : lbBusy s = true) :
    lbExclusive path op id true needsCore run s = .next (lbReport path op id 0x1101 3 s) :=
  congrArg _ ((if_neg (by decide)).trans (if_pos hbusy))

/-- What a report of no code may change beside the island: the signal (R446, R479). -/
structure ReportQuiet (s t : State) : Prop where
  rest : t = { s with isl := t.isl, out := t.out, tel := t.tel }
  reasons : t.tel.reasons = s.tel.reasons

theorem signal_quiet (v : Nat) (s : State) : ReportQuiet s (signal v s) := by
  unfold signal
  split
  · exact ⟨rfl, rfl⟩
  · exact ⟨rfl, rfl⟩

theorem ReportQuiet.trans {s t u : State} (h : ReportQuiet s t) (k : ReportQuiet t u) : ReportQuiet s u := by
  obtain ⟨hrest, hreasons⟩ := h
  obtain ⟨krest, kreasons⟩ := k
  refine ⟨?_, kreasons.trans hreasons⟩
  rw [krest, hrest]

theorem lbReport_quiet (path : LbPath) (op id state : Nat) (s : State) : ReportQuiet s (lbReport path op id 0 state s) := by
  unfold lbReport
  rw [recordReason_zero]
  cases path with
  | window =>
    dsimp only
    split
    · exact ReportQuiet.trans (t := { s with isl := withResult .window (lbEntry op id 0 state) s.isl }) ⟨rfl, rfl⟩
        (signal_quiet _ _)
    · exact ⟨rfl, rfl⟩
  | sideband => exact ⟨rfl, rfl⟩

theorem lbReport_hm (path : LbPath) (op id code state : Nat) (s : State) : (lbReport path op id code state s).hm = s.hm := by
  have hrecorded := recordReason_hm code s
  unfold lbReport
  cases path with
  | window =>
    dsimp only
    split
    · exact signal_hm.trans hrecorded
    · exact hrecorded
  | sideband => exact hrecorded

theorem length_fit (n : Nat) (b : Bytes) : (fit n b).length = n := by
  simp only [fit, slice, zeros, List.length_append, List.length_replicate, List.length_take, List.length_drop]
  omega

theorem withResult_lbRuns (path : LbPath) (r : LbResult) (i : Island) : (withResult path r i).lbRuns = i.lbRuns := by
  cases path <;> rfl

theorem withResult_buffer (path : LbPath) (r : LbResult) (i : Island) : (withResult path r i).buffer = i.buffer := by
  cases path <;> rfl

theorem withResult_bypass (path : LbPath) (r : LbResult) (i : Island) :
    (withResult path r i).bypass = i.bypass ∧ (withResult path r i).granted = i.granted := by
  cases path <;> exact ⟨rfl, rfl⟩

end

/-- The lifeboat's buffer filled. -/
def withBuffer (b : Bytes) (i : Island) : Island := { i with buffer := b }

section
variable {path : LbPath} {id : Nat} {s : State}

theorem lifeboatStatus_next : exec (.lifeboatStatus path id 0) s = .next (lbReport path 1 id 0 2 s) := rfl

theorem freeze_next (hcore : coreRuns s = true) (hfree : ∀ r ∈ s.isl.lbRuns, r.op ≠ 2) :
    exec (.freeze path id 0) s = .next { frozenState s with isl := lbStarted path 2 id 0 s.isl } := by
  rw [exec_freeze, execFreeze, decide_eq_true (rfl : (0 : Nat) = 0), lbDone_runs hfree, freezeDevice_running hcore]
  rfl

theorem freeze_bad {param : Nat} (hparam : param ≠ 0) :
    exec (.freeze path id param) s = .next (lbReport path 2 id 0x1102 3 s) := by
  rw [exec_freeze, execFreeze, decide_eq_false hparam, lbDone_bad]

theorem ringBypassClose_next (hfree : ∀ r ∈ s.isl.lbRuns, r.op ≠ 6) :
    exec (.ringBypassClose path id 0) s = .next { s with isl := lbStarted path 6 id 0 (closeBypass s).isl } := by
  rw [exec_ringBypassClose, execRingBypassClose, decide_eq_true (rfl : (0 : Nat) = 0), lbDone_runs hfree]
  rfl

theorem dumpSnapshot_next (hcore : coreRuns s = true) (hfree : lbBusy s = false) :
    exec (.dumpSnapshot path id 0) s =
      .next { s with isl := lbStarted path 3 id 0 (withBuffer (fit 4096 (Config.snapshot (snapshotItems s))) s.isl) } := by
  rw [exec_dumpSnapshot, execDumpSnapshot, decide_eq_true (rfl : (0 : Nat) = 0),
    lbExclusive_runs hfree (fun _ => corePower_of_coreRuns hcore), lbBegin_eq]
  rfl

theorem dumpSnapshot_busy (hbusy : lbBusy s = true) :
    exec (.dumpSnapshot path id 0) s = .next (lbReport path 3 id 0x1101 3 s) := by
  rw [exec_dumpSnapshot, execDumpSnapshot, decide_eq_true (rfl : (0 : Nat) = 0), lbExclusive_busy hbusy]

/-- The boot cache's bytes (R439). -/
def bootBytes (s : State) : Bytes := (s.hm.bootCache.zipIdx).flatMap fun p => measBytes p.2 p.1

theorem readMeasurements_next {page : Nat} (hpage : page < 16) (hfree : lbBusy s = false) :
    exec (.readMeasurements path id page) s =
      .next { s with isl := lbStarted path 9 id 0 (withBuffer (fit 4096 (slice (bootBytes s) (4096 * page) 4096)) s.isl) } := by
  rw [exec_readMeasurements, execReadMeasurements, decide_eq_true hpage, lbExclusive_runs hfree (fun h => absurd h (by decide))]
  simp only [lbBegin_eq]
  rfl

/-- What a subsystem reset does with the core running (R425). -/
def subsystemWork (param : Nat) (s : State) : State :=
  match subsystemKind param with
  | some k => resetEngines k s
  | none => if param = 0x11 then resetHarbour s else resetTelemetry s

/-- A subsystem reset that passes its checks empties the buffer after its work (R422, R425). -/
theorem subsystemReset_next {param : Nat} (hcore : coreRuns s = true) (hfree : lbBusy s = false)
    (hparam : ((subsystemKind param).isSome || param == 0x11 || param == 0x14) = true) :
    exec (.subsystemReset path id param) s =
      .next { subsystemWork param s with isl := lbStarted path 8 id 0 (withBuffer [] (subsystemWork param s).isl) } := by
  have hup : ¬ (!coreRuns s) = true := by simp [hcore]
  rw [exec_subsystemReset, execSubsystemReset, hparam, lbExclusive_runs hfree (fun _ => corePower_of_coreRuns hcore)]
  simp only [if_neg hup, lbBegin_eq]
  rfl

theorem subsystemWork_harbour : subsystemWork 0x11 s = resetHarbour s := rfl

theorem subsystemWork_customs (hjobs : s.acc.jobs = []) : subsystemWork 0x0C s =
    { s with engines := s.engines.filter fun p => !decide (128 ≤ p.1 ∧ p.1 < 192) } := by
  show resetEngines .customs s = _
  simp only [resetEngines, hjobs, List.filter_nil, List.foldl_nil]
  rfl

/-! Charters zeroized (R397, R399). -/

/-- One page of a charter turned into its ciphertext (R385, R398). -/
def lockPage (c : Nat) (s : State) (p : Nat × Nat × Nat) : State :=
  match tget s.sec.keys (2 * c + p.2.2 % 2) with
  | none => s
  | some k => { s with stage := cipherPage k p.1 s.stage }

theorem lockStage_fold (c : Nat) (s : State) :
    lockStage c s = (s.sec.stagePages.filter fun p => p.2.1 == c).foldl (lockPage c) s := rfl

theorem lockPage_eq (c : Nat) (s : State) (p : Nat × Nat × Nat) :
    lockPage c s p = { s with stage := (lockPage c s p).stage } := by
  unfold lockPage
  cases tget s.sec.keys (2 * c + p.2.2 % 2) <;> rfl

/-- Locking a charter's pages changes Stage only. -/
theorem lockStage_eq (c : Nat) (s : State) : lockStage c s = { s with stage := (lockStage c s).stage } := by
  have hfold : ∀ (l : List (Nat × Nat × Nat)) (t : State),
      l.foldl (lockPage c) t = { t with stage := (l.foldl (lockPage c) t).stage } := by
    intro l
    induction l with
    | nil => intro t; rfl
    | cons p r ih =>
      intro t
      rw [List.foldl_cons, ih, lockPage_eq]
  rw [lockStage_fold]
  exact hfold _ _

/-- Nothing is locked where the charter has no page (R385). -/
theorem lockStage_none {c : Nat} (hnone : ∀ p ∈ s.sec.stagePages, p.2.1 ≠ c) : lockStage c s = s := by
  have hnil : (s.sec.stagePages.filter fun p => p.2.1 == c) = [] := by
    rw [List.filter_eq_nil_iff]
    intro p hp
    simp [hnone p hp]
  rw [lockStage_fold, hnil, List.foldl_nil]

/-- No item of any charter is held or under way here. -/
structure NothingHeld (s : State) : Prop where
  jobs : s.acc.jobs = []
  cells : s.sw.cells = []
  cache : s.ing.cache = []
  policed : s.ing.policed = []
  held : s.ing.held = []
  waiting : s.ing.waiting = []

/-- What a charter's items, handled where there are none, leave alone (R397, R398). -/
structure CharterQuiet (s t : State) : Prop where
  man : t.man = s.man
  stage : t.stage = s.stage
  isl : t.isl = s.isl
  keys : t.sec.keys = s.sec.keys
  zeroized : t.sec.zeroized = s.sec.zeroized

theorem itemsOfCharter_none (c : Nat) (h : NothingHeld s) : CharterQuiet s (itemsOfCharter c s) := by
  obtain ⟨hjobs, hcells, hcache, hpoliced, hheld, hwaiting⟩ := h
  simp only [itemsOfCharter, hcache, List.filter_nil, List.foldl_nil, refuseCharterHeld, hpoliced, hheld, hwaiting,
    List.append_nil, wakeHeld, countRemoval_ing, scrubCells, countRemoval_sw, hcells, List.flatMap_nil, countScrubs,
    List.map_nil, stopCharterJobs, countRemoval_acc, hjobs]
  exact ⟨rfl, rfl, rfl, rfl, rfl⟩

/-- The charter's slots zeroized and its keys gone (R399). -/
def slotsZeroized (c : Nat) (x : Charter) (s : State) : State :=
  { s with man := { s.man with charters := tput s.man.charters c { x with slot0 := 3, slot1 := 3 } },
           sec := { s.sec with keys := tdel (tdel s.sec.keys (2 * c)) (2 * c + 1), zeroized := insertSorted c s.sec.zeroized } }

theorem zeroize_eq {c : Nat} {x : Charter} (hx : tget s.man.charters c = some x) :
    zeroize c s = itemsOfCharter c (slotsZeroized c x (lockStage c s)) := by
  simp only [zeroize, hx]
  rfl

theorem tdel_comm {α : Type} (t : Tbl α) (j k : Nat) : tdel (tdel t j) k = tdel (tdel t k) j := by
  simp only [tdel, List.filter_filter, Bool.and_comm]

theorem zeroizeCharter_next {c : Nat} (hcore : coreRuns s = true) (hc : c < 4096) (hfree : ∀ r ∈ s.isl.lbRuns, r.op ≠ 4) :
    exec (.zeroizeCharter path id c) s = .next { zeroize c s with isl := lbStarted path 4 id 0 (zeroize c s).isl } := by
  rw [exec_zeroizeCharter, execZeroizeCharter, decide_eq_true hc, lbDone_runs hfree, if_pos (corePower_of_coreRuns hcore)]

/-- Every session and the harbour key gone (R399). -/
def sessionsZeroized (s : State) : State :=
  { s with sec := { s.sec with
      harbourKey := none, sessions := [], lighters := s.sec.lighters.map fun p => if p.2.bound then (p.1, unbind p.2) else p } }

theorem zeroizeAll_next (hcore : coreRuns s = true) (hfree : ∀ r ∈ s.isl.lbRuns, r.op ≠ 5) (hnone : s.man.charters = []) :
    exec (.zeroizeAll path id 0) s = .next { sessionsZeroized s with isl := lbStarted path 5 id 0 s.isl } := by
  have hon : ¬ (!s.isl.corePower) = true := by simp [corePower_of_coreRuns hcore]
  rw [exec_zeroizeAll, execZeroizeAll, decide_eq_true (rfl : (0 : Nat) = 0), lbDone_runs hfree]
  simp only [if_neg hon, hnone, List.foldl_nil]
  rfl

theorem sessionsZeroized_unbound : ∀ p ∈ (sessionsZeroized s).sec.lighters, p.2.bound = false := by
  intro p hp
  obtain ⟨q, -, rfl⟩ := List.mem_map.mp hp
  cases hbound : q.2.bound with
  | true => rfl
  | false => exact hbound

theorem zeroizeCharter_effect {c : Nat} {x : Charter} (hcore : coreRuns s = true) (hc : c < 4096)
    (hfree : ∀ r ∈ s.isl.lbRuns, r.op ≠ 4) (hx : tget s.man.charters c = some x) (h : NothingHeld s) :
    ∃ t, exec (.zeroizeCharter path id c) s = .next t ∧ lbShown path t.isl = lbEntry 4 id 0 1 ∧
      t.stage = (lockStage c s).stage ∧ ((∀ p ∈ s.sec.stagePages, p.2.1 ≠ c) → t.stage = s.stage) ∧
      tget t.man.charters c = some { x with slot0 := 3, slot1 := 3 } ∧ tget t.sec.keys (2 * c) = none ∧
      tget t.sec.keys (2 * c + 1) = none ∧ c ∈ t.sec.zeroized := by
  have hlocked := lockStage_eq c s
  have hheld : NothingHeld (slotsZeroized c x (lockStage c s)) := by
    rw [hlocked]
    exact ⟨h.jobs, h.cells, h.cache, h.policed, h.held, h.waiting⟩
  obtain ⟨hman, hstage, hisl, hkeys, hzeroized⟩ := itemsOfCharter_none c hheld
  rw [← zeroize_eq hx] at hman hstage hisl hkeys hzeroized
  have hstage' : (zeroize c s).stage = (lockStage c s).stage := hstage
  refine ⟨_, zeroizeCharter_next hcore hc hfree, lbShown_lbStarted _ _ _ _ _, hstage', fun hnone => ?pages, ?charter, ?even, ?odd,
    ?member⟩
  case pages => exact hstage'.trans (by rw [lockStage_none hnone])
  case charter => exact (congrArg (fun m : Manifest => tget m.charters c) hman).trans (tget_tput_self _ _ _)
  case even =>
    refine (congrArg (fun k => tget k (2 * c)) hkeys).trans ?_
    show tget (tdel (tdel _ (2 * c)) (2 * c + 1)) (2 * c) = none
    rw [tdel_comm]
    exact tget_tdel_self _ _
  case odd => exact (congrArg (fun k => tget k (2 * c + 1)) hkeys).trans (tget_tdel_self _ _)
  case member => exact hzeroized ▸ mem_insertSorted _ _

end

/-- Settles O34: each operation by what it does, its report and its refusals. -/
theorem lifeboatOperations : Obligations.LifeboatOperations := by
  intro path id s hcore shown
  have hshown : ∀ t, shown t = lbShown path t.isl := fun t => by cases path <;> rfl
  have hreported : ∀ op code state, shown (lbReport path op id code state s) = lbEntry op id code state := fun op code state => by
    rw [hshown, lbReport_isl, lbShown_withResult]
  have hstarted : ∀ (t : State) op code i, t.isl = lbStarted path op id code i → shown t = lbEntry op id 0 1 :=
    fun t op code i ht => by rw [hshown, ht, lbShown_lbStarted]
  refine ⟨?status, fun hfree => ⟨_, freeze_next hcore hfree, hstarted _ _ _ _ rfl, rfl⟩, fun hfree => ?bypass, fun hfree => ?snapshot,
    fun page hpage hfree => ?measurements, fun hfree => ?harbour, fun hfree hjobs => ?customs,
    fun c x hc hfree hx hjobs hcells hcache hpoliced hheld hwaiting => ?zeroize, fun hfree hnone => ?zeroizeAll,
    fun param hparam => ?bad, fun hbusy => ?busy⟩
  case status =>
    obtain ⟨hrest, hreasons⟩ := lbReport_quiet path 1 id 2 s
    exact ⟨_, lifeboatStatus_next, hreported _ _ _, hrest, hreasons⟩
  case bypass =>
    refine ⟨_, ringBypassClose_next hfree, hstarted _ _ _ _ rfl, ?_, ?_, rfl⟩
    · cases path <;> rfl
    · cases path <;> rfl
  case snapshot =>
    refine ⟨_, dumpSnapshot_next hcore hfree, hstarted _ _ _ _ rfl, ?_, rfl⟩
    have hbuffer := length_fit 4096 (Config.snapshot (snapshotItems s))
    cases path <;> exact hbuffer
  case measurements =>
    refine ⟨_, readMeasurements_next hpage hfree, hstarted _ _ _ _ rfl, rfl, ?_⟩
    cases path <;> rfl
  case harbour =>
    have hexec := subsystemReset_next (path := path) (id := id) (param := 0x11) hcore hfree rfl
    rw [subsystemWork_harbour] at hexec
    exact ⟨_, hexec, hstarted _ _ _ _ rfl, rfl⟩
  case customs =>
    have hexec := subsystemReset_next (path := path) (id := id) (param := 0x0C) hcore hfree rfl
    rw [subsystemWork_customs hjobs] at hexec
    refine ⟨_, hexec, hstarted _ _ _ _ rfl, rfl, fun p hp => ?_, fun p hp hout => List.mem_filter.mpr ⟨hp, ?_⟩⟩
    · have hkept := (List.mem_filter.mp hp).2
      simp only [Bool.not_eq_true', decide_eq_false_iff_not] at hkept
      omega
    · simp only [Bool.not_eq_true', decide_eq_false_iff_not]
      omega
  case zeroize =>
    obtain ⟨t, hexec, hshow, hrest⟩ := zeroizeCharter_effect (path := path) (id := id) hcore hc hfree hx
      ⟨hjobs, hcells, hcache, hpoliced, hheld, hwaiting⟩
    exact ⟨t, hexec, (hshown t).trans hshow, hrest⟩
  case zeroizeAll =>
    exact ⟨_, zeroizeAll_next hcore hfree hnone, hstarted _ _ _ _ rfl, rfl, rfl, sessionsZeroized_unbound, rfl⟩
  case bad =>
    refine ⟨_, freeze_bad hparam, hreported _ _ _, lbReport_hm _ _ _ _ _ _, ?_⟩
    rw [lbReport_isl, withResult_lbRuns]
  case busy =>
    refine ⟨_, dumpSnapshot_busy hbusy, hreported _ _ _, ?_⟩
    rw [lbReport_isl, withResult_buffer]

end Sys2Proof.Machine
end

section
/-! PROOFS. THE TIDE'S BOUNDARY (O38). -/

namespace Sys2Proof.Machine
open Sys2Proof

/-! The engines' books at a boundary (R34 to R36, R241). -/

theorem tget_map {α : Type} (f : α → α) (t : Tbl α) (k : Nat) :
    tget (t.map fun p => (p.1, f p.2)) k = (tget t k).map f := by
  induction t with
  | nil => rfl
  | cons p r ih =>
    obtain ⟨a, v⟩ := p
    simp only [List.map_cons, tget, ih]
    split
    · rfl
    split
    · rfl
    · rfl

theorem tgetD_map {α : Type} (f : α → α) (t : Tbl α) (k : Nat) {d : α} (hd : f d = d) :
    tgetD (t.map fun p => (p.1, f p.2)) k d = f (tgetD t k d) := by
  simp only [tgetD, tget_map]
  cases tget t k with
  | none => exact hd.symm
  | some v => rfl

/-- One book changed, and nothing else. -/
structure BookStep (k : EngineKind) (e : Nat) (f : EngineSt → EngineSt) (s t : State) : Prop where
  rest : t = { s with engines := t.engines }
  here : bookOf k e t = f (bookOf k e s)
  away : ∀ j i, bookNo j i ≠ bookNo k e → bookOf j i t = bookOf j i s

/-- The first books of a kind changed, and nothing else. -/
structure BooksDone (k : EngineKind) (n : Nat) (f : EngineSt → EngineSt) (s t : State) : Prop where
  rest : t = { s with engines := t.engines }
  done : ∀ e, e < n → bookOf k e t = f (bookOf k e s)
  away : ∀ j i, (∀ e, e < n → bookNo j i ≠ bookNo k e) → bookOf j i t = bookOf j i s

theorem setBook_step (k : EngineKind) (e : Nat) (f : EngineSt → EngineSt) (s : State) :
    BookStep k e f s (setBook k e (f (bookOf k e s)) s) :=
  ⟨rfl, tgetD_tput_self _ _ _ _, fun _ _ hne => tgetD_tput_ne _ _ _ hne.symm⟩

theorem books_foldl {k : EngineKind} {f : EngineSt → EngineSt} {step : State → Nat → State}
    (hstep : ∀ s e, BookStep k e f s (step s e)) (n : Nat) (s : State) :
    BooksDone k n f s ((List.range n).foldl step s) := by
  induction n with
  | zero => exact ⟨rfl, fun e he => absurd he (Nat.not_lt_zero e), fun j i _ => rfl⟩
  | succ n ih =>
    rw [List.range_succ, List.foldl_append, List.foldl_cons, List.foldl_nil]
    obtain ⟨hrest, hdone, haway⟩ := ih
    obtain ⟨krest, khere, kaway⟩ := hstep ((List.range n).foldl step s) n
    have hfar : ∀ i j, i ≠ j → bookNo k i ≠ bookNo k j := fun _ _ hij heq => hij (Nat.add_left_cancel heq)
    refine ⟨?_, fun e he => ?_, fun j i hout => ?_⟩
    · rw [krest, hrest]
    · by_cases hlast : e = n
      · rw [hlast, khere, haway k n fun i hi => hfar n i (by omega)]
      · rw [kaway k e (hfar e n hlast), hdone e (by omega)]
    · rw [kaway j i (hout n (by omega)), haway j i fun e he => hout e (by omega)]

/-- A book with nothing ready and no plan (R34, R36). -/
def emptied (b : EngineSt) : EngineSt := { b with ready := [], plan := [], skipped := false, long := none }

theorem newPlan_nothing (k : EngineKind) (e : Nat) (b : EngineSt) (s : State) (hready : b.ready = []) :
    newPlan k e b s = { b with plan := [], long := none } := by
  unfold newPlan
  split
  · rfl
  · rw [hready]
    rfl

/-- A book as planning finds it with nothing ready (R34). -/
def unready (b : EngineSt) : EngineSt := { b with ready := [], plan := [] }

theorem newPlan_unready (k : EngineKind) (e : Nat) (b : EngineSt) (s : State) :
    newPlan k e { unready b with skipped := false } s = emptied b := newPlan_nothing k e _ s rfl

theorem planEngine_unready (k : EngineKind) (e : Nat) (s : State) : planEngine k e [] [] s =
    if newPlan k e { unready (bookOf k e s) with skipped := false } s = bookOf k e s then s
    else setBook k e (newPlan k e { unready (bookOf k e s) with skipped := false } s) s := by
  have hleft : ((bookOf k e s).plan.flatMap fun x => (([] : List Task) ++ []).filterMap (meetTask x)) = [] := by simp
  have hready : refreshReady (bookOf k e s).ready [] = [] := by simp [refreshReady]
  unfold planEngine
  simp only [hleft, hready, if_true, unready]
  rfl

theorem planEngine_nothing (k : EngineKind) (e : Nat) (s : State) : BookStep k e emptied s (planEngine k e [] [] s) := by
  rw [planEngine_unready, newPlan_unready]
  split
  · next hsame => exact ⟨rfl, hsame.symm, fun _ _ _ => rfl⟩
  · exact setBook_step k e emptied s

theorem planKind_nothing {k : EngineKind} {s : State} (hnone : kindReady k (s.tide.count - 1) s = []) :
    BooksDone k (kindEngines k) emptied s (planKind k s) := by
  unfold planKind
  simp only [hnone, List.filter_nil, List.map_nil, List.filterMap_nil, ite_self]
  exact books_foldl (fun u e => planEngine_nothing k e u) _ _

/-- No job and no frame waits for an engine. -/
def NoWork (s : State) : Prop := s.acc.jobs = [] ∧ ∀ p ∈ s.ports.codecs, p.2.closed = [] ∧ p.2.rx = []

theorem frameReady_of_noWork {s : State} (h : NoWork s) : frameReady s = [] := by
  rw [frameReady, List.flatMap_eq_nil_iff]
  intro p hp
  obtain ⟨hclosed, hrx⟩ := h.2 p hp
  simp [hclosed, hrx]

theorem kindReady_of_noWork {s : State} (h : NoWork s) (k : EngineKind) (t : Nat) : kindReady k t s = [] := by
  have hframes : tieFrames t s = ([], []) := by simp [tieFrames, frameReady_of_noWork h]
  have hjobs : ∀ n, tieOrder n s.acc.jobs = [] := fun n => by rw [h.1]; rfl
  cases k with
  | codec => simp [kindReady, hframes, hjobs]
  | _ => simp [kindReady, hjobs]

theorem BooksDone.noWork {k : EngineKind} {n : Nat} {f : EngineSt → EngineSt} {s t : State} (h : BooksDone k n f s t)
    (hwork : NoWork s) : NoWork t := by
  rw [h.rest]
  exact hwork

theorem bookNo_ne {j k : EngineKind} (hkind : j ≠ k) (hj : j ≠ .stream) (hk : k ≠ .stream) {i e : Nat} (hi : i < kindEngines j)
    (he : e < kindEngines k) : bookNo j i ≠ bookNo k e := by
  cases j <;> cases k <;> simp_all [bookNo, kindNo, kindEngines] <;> omega

/-- A boundary's plan with nothing to do empties the books of every kind but the streams' (R34, R36). -/
structure Planned (s t : State) : Prop where
  rest : t = { s with engines := t.engines }
  done : ∀ k e, k ≠ .stream → e < kindEngines k → bookOf k e t = emptied (bookOf k e s)

theorem planTide_nothing {s : State} (hwork : NoWork s) : Planned s (planTide s) := by
  have h1 := planKind_nothing (k := .crane) (kindReady_of_noWork hwork .crane _)
  have w1 := h1.noWork hwork
  have h2 := planKind_nothing (k := .stevedore) (kindReady_of_noWork w1 .stevedore _)
  have w2 := h2.noWork w1
  have h3 := planKind_nothing (k := .customs) (kindReady_of_noWork w2 .customs _)
  have w3 := h3.noWork w2
  have h4 := planKind_nothing (k := .codec) (kindReady_of_noWork w3 .codec _)
  change Planned s (planKind .codec (planKind .customs (planKind .stevedore (planKind .crane s))))
  generalize planKind .crane s = t1 at *
  generalize planKind .stevedore t1 = t2 at *
  generalize planKind .customs t2 = t3 at *
  generalize planKind .codec t3 = t4 at *
  refine ⟨?_, fun k e hk he => ?_⟩
  · rw [h4.rest, h3.rest, h2.rest, h1.rest]
  · have hfar : ∀ j, j ≠ .stream → k ≠ j → ∀ i, i < kindEngines j → bookNo k e ≠ bookNo j i :=
      fun j hj hkj i hi => bookNo_ne hkj hk hj he hi
    cases k with
    | crane => rw [h4.away _ _ (hfar _ (by decide) (by decide)), h3.away _ _ (hfar _ (by decide) (by decide)),
        h2.away _ _ (hfar _ (by decide) (by decide)), h1.done e he]
    | stevedore => rw [h4.away _ _ (hfar _ (by decide) (by decide)), h3.away _ _ (hfar _ (by decide) (by decide)),
        h2.done e he, h1.away _ _ (hfar _ (by decide) (by decide))]
    | customs => rw [h4.away _ _ (hfar _ (by decide) (by decide)), h3.done e he,
        h2.away _ _ (hfar _ (by decide) (by decide)), h1.away _ _ (hfar _ (by decide) (by decide))]
    | codec => rw [h4.done e he, h3.away _ _ (hfar _ (by decide) (by decide)),
        h2.away _ _ (hfar _ (by decide) (by decide)), h1.away _ _ (hfar _ (by decide) (by decide))]
    | stream => exact absurd rfl hk

/-! Codecs bound to jobs (R241). -/

/-- A book that no job holds. -/
def unbound (b : EngineSt) : EngineSt := { b with bound := none }

theorem tieOrder_nil (n : Nat) : tieOrder n [] = [] := rfl

theorem bindCodecs_nothing {s : State} (hjobs : s.acc.jobs = []) : BooksDone .codec 16 unbound s (bindCodecs s) := by
  unfold bindCodecs
  extract_lets wants u
  have hwants : ∀ key, wants key = 0 := by
    intro key
    simp only [wants, jobOf, hjobs, List.find?_nil]
  have hdone : BooksDone .codec 16 unbound s u := by
    refine books_foldl (fun t e => ?_) 16 s
    split
    · next key hkey =>
      rw [if_pos (hwants key)]
      exact setBook_step .codec e unbound t
    · next hnone => exact ⟨rfl, (show _ = unbound (bookOf .codec e t) by rw [unbound, ← hnone]), fun _ _ _ => rfl⟩
  clear_value u
  have hacc : u.acc.jobs = [] := by rw [hdone.rest]; exact hjobs
  rw [hacc, tieOrder_nil]
  exact hdone

/-! A boundary with nothing due (R32). -/

theorem foldl_fixed {α β : Type} {f : β → α → β} {b : β} {l : List α} (h : ∀ x ∈ l, f b x = b) : l.foldl f b = b := by
  induction l with
  | nil => rfl
  | cons x r ih =>
    rw [List.foldl_cons, h x List.mem_cons_self]
    exact ih fun y hy => h y (List.mem_cons_of_mem x hy)

/-- The next tide counted. -/
def counted (s : State) : State :=
  { s with tide := { s.tide with count := s.tide.count + 1, markerSeen := s.tide.lastMarker == s.tide.count + 1 } }

/-- A pending power cap in effect (R13). -/
def cappedAtDue (s : State) : State := { s with hm := { s.hm with capped := s.hm.capNext.getD s.hm.capped, capNext := none } }

section
variable {s : State}

theorem takeOver_of_none (h : s.tide.takeover = none) : takeOver s = s := by
  unfold takeOver
  rw [h]

theorem westDue_of_nil (h : s.tide.wests = []) : westDue s = s := by
  have hsame : { s.tide with wests := [] } = s.tide := by rw [← h]
  unfold westDue
  simp only [h, List.filter_nil, List.foldl_nil, hsame]

theorem applyDue_of_nil (h : s.man.notices = []) (p : Nat → Bool) : applyDue p s = s := by
  have hnone : (ordered s.man.notices).filter (fun n => decide (n.atTide ≤ s.tide.count) && p (rank n.change)) = [] := by
    rw [h]
    rfl
  unfold applyDue
  simp only [hnone, List.foldl_nil, if_true]

theorem syncDue_of_none (h : s.man.sync = none) : syncDue s = s := by
  unfold syncDue
  rw [h]

theorem boundaryActions_nothing (hnotices : s.man.notices = []) (hsync : s.man.sync = none) :
    boundaryActions s = cappedAtDue s := by
  unfold boundaryActions
  simp only [syncDue_of_none hsync, applyDue_of_nil hnotices]
  rfl

theorem queuesApply_of_nil (h : s.pilot.pendingSubs = []) :
    queuesApply s = { s with pilot := (queuesApply s).pilot } := by
  unfold queuesApply
  rw [h]
  rfl

theorem queuesApply_pilots (h : s.pilot.pendingSubs = []) : (queuesApply s).pilot.pilots = s.pilot.pilots := by
  unfold queuesApply
  rw [h]
  rfl

theorem floorTide_of_nil (h : s.pilot.pilots = []) : floorTide s = s := by
  unfold floorTide livePilots
  rw [h]
  rfl

theorem payOwed_of_none (h : ∀ p ∈ s.ports.ctxs, p.2.owed = 0) : payOwed s = s :=
  foldl_fixed fun p hp => if_pos (.inl (h p hp))

theorem wakePoliced_of_nil (h : s.ing.policed = []) : wakePoliced s = s := by
  have hsame : { s with ing := { s.ing with policed := [] } } = s := by rw [← h]
  unfold wakePoliced
  rw [h, hsame]
  rfl

theorem policeTide_nothing (hhosts : s.ing.hosts = []) (hpoliced : s.ing.policed = [])
    (howed : ∀ p ∈ s.ports.ctxs, p.2.owed = 0) : policeTide s = s := by
  unfold policeTide
  simp only [hhosts, List.foldl_nil, wakePoliced_of_nil hpoliced, payOwed_of_none howed, hpoliced, List.map_nil]
  rfl

theorem degradeGroups_of_nil (h : s.home.failNotices = []) : degradeGroups s = s := if_pos h

theorem lossesDue_of_nil (h : s.ring.losses = []) : lossesDue s = s := by
  have hnone : (s.ring.losses.filter fun p => decide (p.2 ≤ s.tide.count) && !s.ing.lostHomes.contains p.1 && p.1 != self s) = [] := by
    rw [h]
    rfl
  unfold lossesDue
  simp only [hnone, List.map_nil, List.foldl_nil, List.filter_nil, ite_self]

theorem enterConfidential_of_none (h : s.sec.enterAt = none) : enterConfidential s = s := by
  unfold enterConfidential
  rw [h]

theorem keyTide_of_nil (h : s.sec.sweeps = []) : keyTide s = s := by
  have hsame : { s with sec := { s.sec with sweeps := [] } } = s := by rw [← h]
  unfold keyTide
  simp only [h, List.map_nil, hsame, List.foldl_nil]

theorem rebuildTide_of_nil (hrebuilds : s.home.rebuilds = []) (hformats : s.home.formats = []) : rebuildTide s = s := by
  have hsame : { s with home := { s.home with rebuilds := [], formats := [] } } = s := by
    rw [← hrebuilds]
    conv_lhs => rw [← hformats]
  unfold rebuildTide
  simp only [hrebuilds, hformats, List.map_nil, hsame, List.foldl_nil]

theorem trainRestored_of_none (h : s.ring.restoreAt = none) : trainRestored s = s := by
  unfold trainRestored
  rw [h]

theorem isMaster_of_none (h : s.tide.hasMaster = false) : isMaster s = false := by simp [isMaster, h]

theorem sendMarker_of_follower (h : isMaster s = false) : sendMarker s = s := by simp [sendMarker, h]

theorem grantSplice_of_follower (h : isMaster s = false) : grantSplice s = s := by simp [grantSplice, h]

theorem spliceDue_of_none (h : s.isl.granted = none) : spliceDue s = s := by
  unfold spliceDue
  rw [h]

theorem streamCredits_of_none (h : ∀ p ∈ s.ports.ctxs, p.2.owedStream = 0) : streamCredits s = s := by
  have hnone : (s.ports.ctxs.filter fun p => p.2.owedStream != 0) = [] := by
    rw [List.filter_eq_nil_iff]
    intro p hp
    simp [h p hp]
  unfold streamCredits
  rw [hnone]
  rfl

theorem showRecords_of_nil (h : s.ing.hosts = []) : showRecords s = s := by
  have hsame : { s with ing := { s.ing with hosts := [] } } = s := by rw [← h]
  unfold showRecords
  split
  · rfl
  · simp only [h, List.foldl_nil]
    exact hsame

theorem flushSummaries_of_nil (h : s.tel.summaries = []) (period : Nat) : flushSummaries period s = s := by
  have hsame : { s with tel := { s.tel with summaries := [] } } = s := by rw [← h]
  unfold flushSummaries
  simp only [h, List.filter_nil, List.foldl_nil, hsame]

theorem endPeriods_of_nil (h : s.tel.summaries = []) : endPeriods s = s := by
  unfold endPeriods
  simp only [flushSummaries_of_nil h, ite_self]

end

theorem endGrace_eq (s : State) : endGrace s = { s with man := { s.man with prevRoute := (endGrace s).man.prevRoute } } := by
  unfold endGrace
  split <;> rfl

theorem endGrace_over {s : State} (h : s.man.routeSince + 4 ≤ s.tide.count) : (endGrace s).man.prevRoute = none := by
  rw [endGrace, if_pos h]

theorem endGrace_within {s : State} (h : s.tide.count < s.man.routeSince + 4) :
    (endGrace s).man.prevRoute = s.man.prevRoute := by
  rw [endGrace, if_neg (by omega)]

/-- What is due at a boundary of a device that only ends the grace of an old route map (R56). -/
theorem boundaryDue_nothing {s : State} (hlosses : s.ring.losses = []) (hfails : s.home.failNotices = [])
    (henter : s.sec.enterAt = none) (hsweeps : s.sec.sweeps = []) (hrebuilds : s.home.rebuilds = []) (hformats : s.home.formats = [])
    (hrestore : s.ring.restoreAt = none) (hgrant : s.isl.granted = none) (hmaster : s.tide.hasMaster = false) :
    boundaryDue s = endGrace s := by
  have hring : (endGrace s).ring = s.ring := by rw [endGrace_eq]
  have htide : (endGrace s).tide = s.tide := by rw [endGrace_eq]
  have hisl : (endGrace s).isl = s.isl := by rw [endGrace_eq]
  have hfollower : isMaster (endGrace s) = false := isMaster_of_none (by rw [htide]; exact hmaster)
  unfold boundaryDue
  simp only [degradeGroups_of_nil hfails, lossesDue_of_nil hlosses, enterConfidential_of_none henter, keyTide_of_nil hsweeps,
    rebuildTide_of_nil hrebuilds hformats]
  rw [trainRestored_of_none (by rw [hring]; exact hrestore), sendMarker_of_follower hfollower,
    spliceDue_of_none (by rw [hisl]; exact hgrant), grantSplice_of_follower hfollower]

/-- The tide's budgets fixed where the device is in lock (R13, R32, R36). -/
def lockDue (s : State) : State := if s.tide.locked then fixBudgets (policeTide (floorTide (queuesApply (boundaryActions s)))) else s

theorem lockDue_locked {s : State} (hlocked : s.tide.locked = true) (hnotices : s.man.notices = []) (hsync : s.man.sync = none)
    (hsubs : s.pilot.pendingSubs = []) (hpilots : s.pilot.pilots = []) (hhosts : s.ing.hosts = []) (hpoliced : s.ing.policed = [])
    (howed : ∀ p ∈ s.ports.ctxs, p.2.owed = 0) :
    lockDue s = fixBudgets { cappedAtDue s with pilot := (lockDue s).pilot } := by
  have hqueues : queuesApply (cappedAtDue s) = { cappedAtDue s with pilot := (queuesApply (cappedAtDue s)).pilot } :=
    queuesApply_of_nil hsubs
  have hfloor : floorTide (queuesApply (cappedAtDue s)) = queuesApply (cappedAtDue s) :=
    floorTide_of_nil ((queuesApply_pilots (s := cappedAtDue s) hsubs).trans hpilots)
  have hpolice : policeTide (queuesApply (cappedAtDue s)) = queuesApply (cappedAtDue s) := by
    rw [hqueues]
    exact policeTide_nothing hhosts hpoliced howed
  have hdue : lockDue s = fixBudgets (queuesApply (cappedAtDue s)) := by
    rw [lockDue, if_pos hlocked, boundaryActions_nothing hnotices hsync, hfloor, hpolice]
  have hpilot : (lockDue s).pilot = (queuesApply (cappedAtDue s)).pilot := by rw [hdue]; rfl
  rw [hpilot, ← hqueues]
  exact hdue

/-- What fixing a tide's budgets sets, and that nothing else but the sub-queues changes (R13, R32, R320). -/
structure Fixed (s t : State) : Prop where
  rest : t = { s with tide := t.tide, hm := t.hm, pilot := t.pilot, engines := t.engines }
  tide : t.tide = { s.tide with
    budgetCode := if s.tide.locked then s.tide.lengthCode else s.tide.budgetCode,
    budgetHalved := if s.tide.locked then s.hm.halved else s.tide.budgetHalved,
    budgetLow := if s.tide.locked then s.hm.capNext.getD s.hm.capped || s.hm.hot else s.tide.budgetLow }
  capped : t.hm.capped = if s.tide.locked then s.hm.capNext.getD s.hm.capped else s.hm.capped
  books : ∀ k e, bookOf k e t = { bookOf k e s with low := if s.tide.locked then (bookOf k e s).lowered else (bookOf k e s).low }

theorem lockDue_fixed {s : State} (hnotices : s.man.notices = []) (hsync : s.man.sync = none)
    (hsubs : s.pilot.pendingSubs = []) (hpilots : s.pilot.pilots = []) (hhosts : s.ing.hosts = []) (hpoliced : s.ing.policed = [])
    (howed : ∀ p ∈ s.ports.ctxs, p.2.owed = 0) : Fixed s (lockDue s) := by
  cases hlocked : s.tide.locked with
  | false =>
    have hdue : lockDue s = s := by simp [lockDue, hlocked]
    rw [hdue]
    have hif : ∀ {α : Type} (a b : α), (if s.tide.locked then a else b) = b := fun a b => if_neg (by simp [hlocked])
    exact ⟨rfl, by rw [hif, hif, hif], (hif _ _).symm, fun k e => by rw [hif]⟩
  | true =>
    rw [lockDue_locked hlocked hnotices hsync hsubs hpilots hhosts hpoliced howed]
    refine ⟨rfl, ?_, ?_, fun k e => ?_⟩
    · simp [hlocked, fixBudgets, cappedAtDue]
    · simp [hlocked, fixBudgets, cappedAtDue]
    · simp only [hlocked, if_true]
      exact tgetD_map (d := engine0) (fun b => { b with low := b.lowered }) s.engines (bookNo k e) rfl

/-- A book of an opened tide that has neither job nor frame (R34, R36, R241). -/
def opened (k : EngineKind) (b : EngineSt) : EngineSt :=
  { emptied b with used := 0, served := none, bound := if k = .codec then none else b.bound }

/-- A tide opened with nothing to do: fresh books, and no other change that counts. -/
structure Opened (s t : State) : Prop where
  rest : t = { s with engines := t.engines, spillUsed := t.spillUsed, sw := t.sw }
  books : ∀ k e, k ≠ .stream → e < kindEngines k → bookOf k e t = opened k (bookOf k e s)

/-- The books of a new tide before any is bound or planned (R32). -/
def fresh (s : State) : State := freshBooks { s with spillUsed := 0, sw := { s.sw with samplesThisTide := 0 } }

/-- A book as a new tide finds it (R32). -/
def freshBook (b : EngineSt) : EngineSt := { b with used := 0, served := none }

theorem bookOf_fresh (k : EngineKind) (e : Nat) (s : State) : bookOf k e (fresh s) = freshBook (bookOf k e s) :=
  tgetD_map (d := engine0) freshBook s.engines (bookNo k e) rfl

theorem opened_of_planned {s u t : State} (hbound : BooksDone .codec 16 unbound (fresh s) u) (hplan : Planned u t) :
    Opened s t := by
  refine ⟨?_, fun k e hk he => ?_⟩
  · rw [hplan.rest, hbound.rest]
    rfl
  · rw [hplan.done k e hk he]
    by_cases hcodec : k = .codec
    · subst hcodec
      rw [hbound.done e he, bookOf_fresh]
      rfl
    · rw [hbound.away k e fun i hi => bookNo_ne hcodec hk (by decide) he hi, bookOf_fresh, opened, if_neg hcodec]
      rfl

theorem openTide_nothing {s : State} (hwork : NoWork s) (howed : ∀ p ∈ s.ports.ctxs, p.2.owedStream = 0) :
    Opened s (openTide s) := by
  have hjobs : (fresh s).acc.jobs = [] := hwork.1
  have hopen : openTide s = planTide (bindCodecs (fresh s)) := by
    change planTide (bindCodecs (streamCredits (((fresh s).acc.jobs.map keyOf).foldl (fun s k => jobTide k s) (fresh s)))) = _
    rw [hjobs, List.map_nil, List.foldl_nil, streamCredits_of_none (s := fresh s) howed]
  have hbound := bindCodecs_nothing (s := fresh s) hjobs
  rw [hopen]
  exact opened_of_planned hbound (planTide_nothing (hbound.noWork (s := fresh s) hwork))

/-- A boundary with nothing due counts the tide, fixes the budgets, ends an old route map's grace and opens the tide. -/
theorem execTideBoundary_nothing {s : State} (hcore : coreRuns s = true) (h : nothingDue s) :
    ∃ u t, Fixed (counted s) u ∧ Opened (endGrace u) t ∧ execTideBoundary s = .next t := by
  obtain ⟨htake, hwests, hnotices, hsync, hlosses, hfails, henter, hsweeps, hrebuilds, hformats, hrestore, hgrant, hmaster, hsums,
    hhosts, hpoliced, howed, hcodecs, hsubs, hpilots, hjobs⟩ := h
  have hfixed : Fixed (counted s) (lockDue (counted s)) :=
    lockDue_fixed hnotices hsync hsubs hpilots hhosts hpoliced fun p hp => (howed p hp).1
  have hexec : execTideBoundary s = .next (openTide (endPeriods (showRecords (boundaryDue (lockDue (counted s)))))) := by
    have hwest : westDue (counted s) = counted s := westDue_of_nil hwests
    refine (onCore_of_coreRuns hcore _).trans (congrArg _ ?_)
    simp only [takeOver_of_none htake]
    change openTide (endPeriods (showRecords (boundaryDue (lockDue (westDue (counted s)))))) = _
    rw [hwest]
  generalize lockDue (counted s) = u at hfixed hexec
  have hu := hfixed.rest
  have hutide := hfixed.tide
  have hdue : boundaryDue u = endGrace u := boundaryDue_nothing (by rw [hu]; exact hlosses) (by rw [hu]; exact hfails)
    (by rw [hu]; exact henter) (by rw [hu]; exact hsweeps) (by rw [hu]; exact hrebuilds) (by rw [hu]; exact hformats)
    (by rw [hu]; exact hrestore) (by rw [hu]; exact hgrant) (by rw [hutide]; exact hmaster)
  have hshow : showRecords (endGrace u) = endGrace u := showRecords_of_nil (by rw [endGrace_eq, hu]; exact hhosts)
  have hend : endPeriods (endGrace u) = endGrace u := endPeriods_of_nil (by rw [endGrace_eq, hu]; exact hsums)
  have hwork : NoWork (endGrace u) := by
    rw [endGrace_eq, hu]
    exact ⟨hjobs, hcodecs⟩
  have hstream : ∀ p ∈ (endGrace u).ports.ctxs, p.2.owedStream = 0 := by
    rw [endGrace_eq, hu]
    exact fun p hp => (howed p hp).2
  refine ⟨u, openTide (endGrace u), hfixed, openTide_nothing hwork hstream, ?_⟩
  rw [hexec, hdue, hshow, hend]

theorem setBook_eq (k : EngineKind) (e : Nat) (b : EngineSt) (s : State) :
    setBook k e b s = { s with engines := tput s.engines (bookNo k e) b } := rfl

theorem execTideOverrun_late {s : State} (hcore : coreRuns s = true) (k : EngineKind) (e : Nat) (hfrozen : s.hm.frozen = false)
    (hlate : (bookOf k e s).late = true) :
    let b := bookOf k e s
    let l := s.tide.count :: b.overruns.filter fun x => decide (s.tide.count < x + 16)
    execTideOverrun k e s = .next (raise 0x0904 [(evDetail, bookNo k e)]
      (setBook k e { b with late := false, overruns := l, lowered := b.lowered || decide (4 ≤ l.length) } s)) := by
  have hcond : ¬(s.hm.frozen || !(bookOf k e s).late) = true := by simp [hfrozen, hlate]
  exact (onCore_of_coreRuns hcore _).trans (congrArg _ (if_neg hcond))

theorem execTideOverrun_none {s : State} (hcore : coreRuns s = true) (k : EngineKind) (e : Nat)
    (hnone : s.hm.frozen = true ∨ (bookOf k e s).late = false) : execTideOverrun k e s = .next s := by
  have hcond : (s.hm.frozen || !(bookOf k e s).late) = true := by simpa using hnone
  exact (onCore_of_coreRuns hcore _).trans (congrArg _ (if_pos hcond))

theorem execBudgetRestore_due {s : State} (hcore : coreRuns s = true) (k : EngineKind) (e : Nat)
    (hlowered : (bookOf k e s).lowered = true) (hold : ∀ x ∈ (bookOf k e s).overruns, x + 64 ≤ s.tide.count) :
    execBudgetRestore k e s = .next (setBook k e { bookOf k e s with lowered := false, overruns := [] } s) := by
  have hcond : ((bookOf k e s).lowered && (bookOf k e s).overruns.all fun x => decide (x + 64 ≤ s.tide.count)) = true := by
    simpa [hlowered] using hold
  exact (onCore_of_coreRuns hcore _).trans (congrArg _ (if_pos hcond))

/-- Settles O38: with nothing due only the count, the budgets, the route grace and the engines' books move; the overrun clauses read off
the books (R13, R16, R32, R34, R36, R56). -/
theorem tideBoundaryOpensTide : Obligations.TideBoundaryOpensTide := by
  intro s hcore
  refine ⟨fun hnothing => ?_, fun k e hfrozen hlate => ?_, fun k e hnone => execTideOverrun_none hcore k e hnone,
    fun k e hlowered hold => execBudgetRestore_due hcore k e hlowered hold⟩
  · obtain ⟨u, t, hfixed, hopened, hexec⟩ := execTideBoundary_nothing hcore hnothing
    have ht : t = { s with
        tide := u.tide, hm := u.hm, pilot := u.pilot, engines := t.engines, spillUsed := t.spillUsed, sw := t.sw,
        man := { s.man with prevRoute := (endGrace u).man.prevRoute } } := by
      rw [hopened.rest, endGrace_eq, hfixed.rest]
      rfl
    have hcount : u.tide.count = s.tide.count + 1 := by rw [hfixed.tide]; rfl
    have hsince : u.man.routeSince = s.man.routeSince := by rw [hfixed.rest]; rfl
    have hprev : u.man.prevRoute = s.man.prevRoute := by rw [hfixed.rest]; rfl
    have hman : t.man.prevRoute = (endGrace u).man.prevRoute := by rw [ht]
    refine ⟨t, hexec, ?_, fun k e hk he => ?_, ?_, ?_, fun hover => ?_, fun hwithin => ?_, ?_, ?_, ?_, ?_, ?_, ?_⟩
    · rw [ht]
      exact hfixed.tide
    · have hbook : bookOf k e (endGrace u) = bookOf k e u := by rw [endGrace_eq]; rfl
      rw [hopened.books k e hk he, hbook, hfixed.books]
      rfl
    · rw [ht]
      exact hfixed.capped
    · rw [hman, ht]
    · rw [hman, endGrace_over (by omega)]
    · rw [hman, endGrace_within (by omega), hprev]
    all_goals rw [ht]
  · exact ⟨_, execTideOverrun_late hcore k e hfrozen hlate, raise_frame _ _ _, lastCode_raise (by decide) _ _⟩

end Sys2Proof.Machine
end

section
/-! PROOFS. MARKERS (O39). -/

namespace Sys2Proof.Machine
open Sys2Proof

theorem exists_raise {a : Ans} {code : Nat} {fields : List (Nat × Nat)} {s : State} (h : a = .next (raise code fields s))
    (hcode : code ≠ 0) : ∃ t, a = .next t ∧ answerFrame s t ∧ (tgetD t.tel.reasons (code / 256) (0, 0, 0)).2.2 = code :=
  ⟨_, h, raise_frame _ _ _, lastCode_raise hcode _ _⟩

/-! Markers of a boundary (R15 to R17, R24, R25). -/

/-- What every marker heard sets at a follower (R16). -/
def heardMarker (east : Bool) (hops count : Nat) (s : State) : State :=
  { s with tide := { s.tide with
    lastMarker := count, markerSeen := true, missed := 0, takeover := none, hasMaster := true, master := masterOf east hops s } }

/-- A marker's count taken by a device without lock (R15). -/
def countTaken (east : Bool) (hops count : Nat) (s : State) : State :=
  { s with tide := { (heardMarker east hops count s).tide with
    count := count, followed := true, locked := true, hops := hops, offset := 0,
    eastMark := if east then some count else none, wests := [] } }

section
variable {s : State}

theorem useMarker_within {hops : Nat} {offset : Int} (hlow : -160 ≤ offset) (hhigh : offset ≤ 160) :
    useMarker hops offset s = { s with tide := { s.tide with
      hops := hops, offset := offset, phase := s.tide.phase + max (-4) (min 4 offset) } } :=
  if_neg (by omega)

theorem loseLock_of_locked (h : s.tide.locked = true) :
    loseLock s = raise 0x0902 [] { s with tide := { s.tide with locked := false } } := if_pos h

theorem useMarker_beyond {hops : Nat} {offset : Int} (hhigh : 160 < offset) (h : s.tide.locked = true) :
    useMarker hops offset s = raise 0x0902 [] { s with tide := { s.tide with locked := false } } :=
  (if_pos (.inl hhigh)).trans (loseLock_of_locked h)

variable {east : Bool} {hops count : Nat} {offset : Int}

theorem execTideMarkerReceive_master (hcore : coreRuns s = true) (h : isMaster s = true) :
    execTideMarkerReceive east hops count offset s = .next s :=
  (onCore_of_coreRuns hcore _).trans (congrArg _ (if_pos (by simp [h])))

section
variable (hcore : coreRuns s = true) (hopen : s.isl.bypass = .open) (hfollower : isMaster s = false)
include hcore hopen hfollower

theorem execTideMarkerReceive_eastKept (hfollowed : s.tide.followed = true) (hlocked : s.tide.locked = true)
    (hmark : s.tide.eastMark = some count) :
    execTideMarkerReceive east hops count offset s = .next (heardMarker east hops count s) := by
  refine (onCore_of_coreRuns hcore _).trans (congrArg _ ?_)
  cases east <;> simp [hfollower, hopen, hfollowed, hlocked, hmark, heardMarker]

theorem execTideMarkerReceive_west (hfollowed : s.tide.followed = true) (hlocked : s.tide.locked = true)
    (hmark : s.tide.eastMark ≠ some count) :
    execTideMarkerReceive false hops count offset s = .next { s with tide := { (heardMarker false hops count s).tide with
      wests := s.tide.wests ++ [(count, hops, offset)] } } := by
  refine (onCore_of_coreRuns hcore _).trans (congrArg _ ?_)
  simp [hfollower, hopen, hfollowed, hlocked, hmark, heardMarker]

theorem execTideMarkerReceive_east (hfollowed : s.tide.followed = true) (hlocked : s.tide.locked = true)
    (hmark : s.tide.eastMark ≠ some count) :
    execTideMarkerReceive true hops count offset s = .next (useMarker hops offset { s with tide := {
      (heardMarker true hops count s).tide with
        eastMark := some count, wests := s.tide.wests.filter fun w => decide (count < w.1) } }) := by
  refine (onCore_of_coreRuns hcore _).trans (congrArg _ ?_)
  simp [hfollower, hopen, hfollowed, hlocked, hmark, heardMarker]

theorem execTideMarkerReceive_unlocked
    (hfree : s.tide.followed = false ∨ (s.tide.locked = false ∧ -160 ≤ offset ∧ offset ≤ 160)) :
    execTideMarkerReceive east hops count offset s = .next (countTaken east hops count s) := by
  have hunlocked : (!s.tide.followed || !s.tide.locked) = true := by
    obtain h | ⟨h, _, _⟩ := hfree <;> simp [h]
  have hnear : ¬(s.tide.followed = true ∧ (160 < offset ∨ offset < -160)) := by
    rintro ⟨hfollowed, hfar⟩
    obtain h | ⟨_, hlow, hhigh⟩ := hfree
    · exact absurd (hfollowed.symm.trans h) (by decide)
    · omega
  refine (onCore_of_coreRuns hcore _).trans (congrArg _ ?_)
  rw [if_neg (by simp [hfollower, hopen]), if_pos hunlocked, if_neg hnear, if_neg (by simp [hopen])]
  rfl

theorem execMarkerMissed_second (hmissed : s.tide.missed = 1) (hmaster : s.tide.hasMaster = true) :
    execMarkerMissed s = .next { s with tide := { s.tide with
      missed := 2, takeover := if nextMaster s = some (self s) then some (s.tide.lastMarker + 3) else none } } := by
  refine (onCore_of_coreRuns hcore _).trans (congrArg _ ?_)
  rw [if_neg (by simp [hfollower, hopen])]
  simp only [hmissed]
  exact if_pos ⟨trivial, hmaster⟩

theorem execMarkerMissed_third (hmissed : s.tide.missed = 2) (htake : s.tide.takeover = none) (hlocked : s.tide.locked = true) :
    execMarkerMissed s = .next (raise 0x0902 [] { s with tide := { s.tide with missed := 3, locked := false } }) := by
  refine (onCore_of_coreRuns hcore _).trans (congrArg _ ?_)
  rw [if_neg (by simp [hfollower, hopen])]
  simp only [hmissed]
  exact (if_neg (by simp)).trans ((if_pos ⟨by decide, htake⟩).trans (loseLock_of_locked hlocked))

end

theorem takeOver_early {b : Nat} (htake : s.tide.takeover = some b) (hearly : s.tide.count + 1 < b) : takeOver s = s := by
  unfold takeOver
  rw [htake]
  exact if_pos hearly

theorem takeOver_due {b : Nat} (htake : s.tide.takeover = some b) (hdue : b ≤ s.tide.count + 1) :
    takeOver s = { s with
      tide := { s.tide with takeover := none, master := self s, hasMaster := true, hops := 0, missed := 0,
                            lastMarker := b - 1, locked := true, wests := [] },
      ring := { s.ring with heartbeats := s.man.comp.members.foldl (fun t d => tput t d b) [] } } := by
  unfold takeOver
  rw [htake]
  exact if_neg (by omega)

end

/-- Settles O39: what a marker does depends on lock, on the direction and on whether the boundary's eastbound one came (R15 to R17,
R24, R25). -/
theorem tideMarkers : Obligations.TideMarkers := by
  intro s hcore hopen
  refine ⟨fun hops count offset hf hd hl hm hlow hhigh => ?_,
    fun east hops count offset hf hd hl hm => execTideMarkerReceive_eastKept hcore hopen hf hd hl hm,
    fun hops count offset hf hd hl hm => execTideMarkerReceive_west hcore hopen hf hd hl hm,
    fun hops count offset hf hd hl hm hfar => ?_, fun east hops count offset hf hfree => ?_,
    fun hm east hops count offset => execTideMarkerReceive_master hcore hm,
    fun hf hmissed hmaster => execMarkerMissed_second hcore hopen hf hmissed hmaster,
    fun hf hmissed htake hlocked => ?_, fun b htake hdue => ?_, fun b htake hearly => ?_⟩
  · exact (execTideMarkerReceive_east hcore hopen hf hd hl hm).trans (congrArg _ (useMarker_within hlow hhigh))
  · have hexec := (execTideMarkerReceive_east (hops := hops) (offset := offset) hcore hopen hf hd hl hm).trans
      (congrArg _ (useMarker_beyond hfar hl))
    obtain ⟨t, hexec, ht, hcode⟩ := exists_raise hexec (by decide)
    exact ⟨t, hexec, by rw [ht.tide_eq]; exact ht, by rw [ht.tide_eq], by rw [ht.tide_eq]; rfl, by rw [ht.tide_eq]; rfl, hcode⟩
  · exact ⟨_, execTideMarkerReceive_unlocked hcore hopen hf hfree, rfl, rfl, rfl, rfl, rfl, rfl, rfl⟩
  · exact ⟨_, execMarkerMissed_third hcore hopen hf hmissed htake hlocked, raise_frame _ _ _⟩
  · refine ⟨_, (onCore_of_coreRuns hcore takeOver).trans (congrArg _ (takeOver_due htake hdue)), ?_, rfl, rfl, rfl, rfl, rfl⟩
    simp [isMaster, hopen, self]
  · exact (onCore_of_coreRuns hcore takeOver).trans (congrArg _ (takeOver_early htake hearly))

end Sys2Proof.Machine
end

section
/-! PROOFS. THE RING'S LINKS AND THE BYPASS (O41, O42). -/

namespace Sys2Proof.Machine
open Sys2Proof

/-! Messages on the ring (R19 to R23). -/

/-- A message waits for the ring, or has a slot of it. -/
def Posts (m : SlotMsg) (s : State) : Prop := ∃ x ∈ s.ring.tx, x.msg = m

theorem ringPush_posts (e : Bool) (d : Option Nat) (m : SlotMsg) (s : State) : Posts m (ringPush e d m s) :=
  ⟨_, List.mem_append_right _ List.mem_cons_self, rfl⟩

theorem ringPush_posts_of {m' : SlotMsg} {s : State} (h : Posts m' s) (e : Bool) (d : Option Nat) (m : SlotMsg) :
    Posts m' (ringPush e d m s) := by
  obtain ⟨x, hx, hm⟩ := h
  exact ⟨x, List.mem_append_left _ hx, hm⟩

theorem foldl_ringPush_posts {m : SlotMsg} {l : List Bool} (d : Option Nat) {s : State} (h : l ≠ [] ∨ Posts m s) :
    Posts m (l.foldl (fun s e => ringPush e d m s) s) := by
  induction l generalizing s with
  | nil => exact h.resolve_left (fun hne => hne rfl)
  | cons e r ih => exact ih (.inr (ringPush_posts _ _ _ _))

theorem ringSend_posts_some (d : Nat) (m : SlotMsg) (s : State) : Posts m (ringSend (some d) m s) := ringPush_posts _ _ _ _

/-- A message to every member is sent wherever the ring still reaches another site (R18). -/
theorem ringSend_posts_none {s : State} (h : reachesRing s) (m : SlotMsg) : Posts m (ringSend none m s) := by
  unfold ringSend
  simp only
  split
  · exact ringPush_posts _ _ _ _
  · next hbroken =>
    refine foldl_ringPush_posts none (.inl ?_)
    obtain hwhole | heast | hwest := h
    · simp [hwhole] at hbroken
    · simp [heast]
    · cases he : removesSlots true s <;> simp [hwest, he]

/-- A message to the ring adds to those waiting and changes nothing else of the ring. -/
theorem ringSend_ring (d : Option Nat) (m : SlotMsg) (s : State) :
    (ringSend d m s).ring = { s.ring with tx := (ringSend d m s).ring.tx } := by
  have h := ringSend_keeps (fun t : State => { t.ring with tx := s.ring.tx }) (fun _ _ _ _ => rfl) d m s
  calc (ringSend d m s).ring = { ({ (ringSend d m s).ring with tx := s.ring.tx } : RingUnit) with tx := (ringSend d m s).ring.tx } := rfl
    _ = _ := by rw [h]

theorem control_ring (d : Option Nat) (code : Nat) (args : List Nat) (s : State) :
    (control d code args s).ring = { s.ring with tx := (control d code args s).ring.tx, nextMsg := (s.ring.nextMsg + 1) % 65536 } := by
  unfold control
  rw [ringSend_ring]

theorem control_posts_some (d code : Nat) (args : List Nat) (s : State) :
    Posts (.control (self s) s.ring.nextMsg code args) (control (some d) code args s) := ringSend_posts_some _ _ _

theorem broadcast_posts {s : State} (h : reachesRing s) (code : Nat) (args : List Nat) :
    Posts (.control (self s) s.ring.nextMsg code args) (broadcast code args s) :=
  ringSend_posts_none (s := { s with ring := { s.ring with nextMsg := (s.ring.nextMsg + 1) % 65536 } }) h _

/-! Ring training and the ring's links (R12, R18, R22, R26). -/

section
variable {s : State}

theorem execRingMeasure_far (hcore : coreRuns s = true) {span hops : Nat} (hfar : 240 * hops < span) (east : Bool) :
    execRingMeasure east span hops none s =
      .next (recordReason 0x0901 { s with ring := { s.ring with disabled := some 0x0901 } }) :=
  (onCore_of_coreRuns hcore _).trans (congrArg _ (if_pos hfar))

theorem execRingMeasure_ring (hcore : coreRuns s = true) {span hops : Nat} (hnear : span ≤ 240 * hops) (east : Bool) (m : RingMap) :
    execRingMeasure east span hops (some (.ring m)) s = .next { s with
      tide := { s.tide with sites := m.sites, site := m.site }, ring := { s.ring with map := m.devices },
      out := s.out ++ [.ring east (.measure 0 (some (ownIdent 3 false s)))] } :=
  (onCore_of_coreRuns hcore _).trans (congrArg _ (if_neg (Nat.not_lt.mpr hnear)))

theorem execRingMeasure_otherPart (hcore : coreRuns s = true) (east : Bool) (span hops : Nat) {i : Ident} (hpart : i.partClass = 2) :
    execRingMeasure east span hops (some (.partner i)) s =
      .next (recordReason 0x0203 { s with ring := { s.ring with disabled := some 0x0203 } }) :=
  (onCore_of_coreRuns hcore _).trans (congrArg _ (if_pos hpart))

theorem execRingMeasure_partner (hcore : coreRuns s = true) (east : Bool) (span hops : Nat) {i : Ident} (hpart : i.partClass ≠ 2) :
    execRingMeasure east span hops (some (.partner i)) s =
      .next { s with ring := { s.ring with partners := tput s.ring.partners (b2n east) i } } :=
  (onCore_of_coreRuns hcore _).trans (congrArg _ (if_neg hpart))

end

/-- Whether a message is a snoop. -/
def isSnoop (t : RingTx) : Bool := match t.msg with | .snoop _ => true | _ => false

theorem isSnoop_iff {t : RingTx} : isSnoop t = true ↔ ∃ qs, t.msg = .snoop qs := by
  unfold isSnoop
  cases t.msg <;> simp

/-- The ring of a device that found a link failed (R22). -/
def linkFailed (link : Nat) (s : State) : State :=
  raise 0x0903 [(evDetail, link)] { s with ring := { s.ring with broken := some link, tx := s.ring.tx.filter fun t => !isSnoop t } }

theorem execRingLinkFail_whole {s : State} (hcore : coreRuns s = true) (hwhole : s.ring.broken = none) (link : Nat) :
    execRingLinkFail link s = .next (redirect (linkFailed link s)) :=
  (onCore_of_coreRuns hcore _).trans (congrArg _ (if_neg (by simp [hwhole])))

theorem linkFailed_frame (link : Nat) (s : State) : answerFrame
    { s with ring := { s.ring with broken := some link, tx := s.ring.tx.filter fun t => !isSnoop t } } (linkFailed link s) :=
  raise_frame _ _ _

theorem linkFailed_code (link : Nat) (s : State) : (tgetD (linkFailed link s).tel.reasons 9 (0, 0, 0)).2.2 = 0x0903 := by
  unfold linkFailed
  exact lastCode_raise (code := 0x0903) (by decide) _ _

theorem answerFrame.withRing {s t : State} (h : answerFrame s t) (r : RingUnit) :
    answerFrame { s with ring := r } { t with ring := r } := by
  unfold answerFrame
  conv_lhs => rw [h]

section
variable {s : State} {m : RingTx}

theorem redirect_eq (s : State) : redirect s = { s with ring := { s.ring with tx := (redirect s).ring.tx } } := rfl

theorem eastTo_redirect (d : Nat) (s : State) : eastTo d (redirect s) = eastTo d s := rfl

theorem removesSlots_redirect (e : Bool) (s : State) : removesSlots e (redirect s) = removesSlots e s := rfl

theorem mem_redirect_of_slot (hm : m ∈ s.ring.tx) (hslot : m.slot.isSome = true) : m ∈ (redirect s).ring.tx :=
  List.mem_append_right _ (List.mem_filter.mpr ⟨hm, hslot⟩)

theorem mem_redirect_of_dest (hm : m ∈ s.ring.tx) (hslot : m.slot = none) {d : Nat} (hdest : m.dest = some d) :
    { m with east := eastTo d s } ∈ (redirect s).ring.tx := by
  refine List.mem_append_left _ (List.mem_flatMap.mpr ⟨m, List.mem_filter.mpr ⟨hm, by simp [hslot]⟩, ?_⟩)
  rw [hdest]
  exact List.mem_cons_self

theorem mem_redirect_of_all (hm : m ∈ s.ring.tx) (hslot : m.slot = none) (hdest : m.dest = none) {e : Bool}
    (he : removesSlots e s = false) : { m with east := e } ∈ (redirect s).ring.tx := by
  refine List.mem_append_left _ (List.mem_flatMap.mpr ⟨m, List.mem_filter.mpr ⟨hm, by simp [hslot]⟩, ?_⟩)
  rw [hdest]
  exact List.mem_map.mpr ⟨e, List.mem_filter.mpr ⟨by cases e <;> simp, by simp [he]⟩, rfl⟩

/-- What is redirected says what was said before (R22). -/
theorem msg_of_mem_redirect (hm : m ∈ (redirect s).ring.tx) : ∃ x ∈ s.ring.tx, m.msg = x.msg := by
  obtain hturned | hkept := List.mem_append.mp hm
  · obtain ⟨x, hx, hmx⟩ := List.mem_flatMap.mp hturned
    refine ⟨x, (List.mem_filter.mp hx).1, ?_⟩
    split at hmx
    · rw [List.mem_singleton.mp hmx]
    · obtain ⟨e, -, rfl⟩ := List.mem_map.mp hmx
      rfl
  · exact ⟨m, (List.mem_filter.mp hkept).1, rfl⟩

theorem execRingLinkRestore_master (hcore : coreRuns s = true) {link : Nat} (hbroken : s.ring.broken = some link)
    (hmaster : isMaster s = true) : execRingLinkRestore link s =
      .next (broadcast ctlRestore [s.tide.count + 4] { s with ring := { s.ring with restoreAt := some (s.tide.count + 4) } }) :=
  (onCore_of_coreRuns hcore _).trans (congrArg _ (if_pos ⟨hbroken, hmaster⟩))

theorem trainRestored_early {b : Nat} (hat : s.ring.restoreAt = some b) (hearly : s.tide.count < b) : trainRestored s = s := by
  unfold trainRestored
  rw [hat]
  exact if_pos hearly

theorem trainRestored_due {b : Nat} (hat : s.ring.restoreAt = some b) (hdue : b ≤ s.tide.count) (hrounds : s.home.rounds = []) :
    trainRestored s = { s with ring := { s.ring with broken := none, restoreAt := none } } := by
  unfold trainRestored
  rw [hat]
  refine (if_neg (Nat.not_lt.mpr hdue)).trans ?_
  simp only [hrounds, List.foldl_nil]

end

/-- The ring with a link failed and its snoops gone (R22). -/
def withoutSnoops (link : Nat) (s : State) : State :=
  { s with ring := { s.ring with broken := some link, tx := s.ring.tx.filter fun t => !isSnoop t } }

theorem mem_withoutSnoops {s : State} {link : Nat} {m : RingTx} :
    m ∈ (withoutSnoops link s).ring.tx ↔ m ∈ s.ring.tx ∧ ∀ qs, m.msg ≠ .snoop qs := by
  change m ∈ s.ring.tx.filter (fun t => !isSnoop t) ↔ _
  rw [List.mem_filter, Bool.not_eq_true', Bool.eq_false_iff, ne_eq, isSnoop_iff, not_exists]

/-- What a failed link leaves: no snoop waits, a message in a slot waits for its lap, the others turn to where they still arrive. -/
theorem redirect_turns {link : Nat} {s u : State} (hu : u.ring = (withoutSnoops link s).ring) :
    (redirect u).ring.broken = some link ∧ (∀ m ∈ (redirect u).ring.tx, ∀ qs, m.msg ≠ .snoop qs) ∧
      (∀ m ∈ s.ring.tx, (∀ qs, m.msg ≠ .snoop qs) →
        (m.slot.isSome = true → m ∈ (redirect u).ring.tx) ∧
        (m.slot = none → ∀ d, m.dest = some d → { m with east := eastTo d (redirect u) } ∈ (redirect u).ring.tx) ∧
        (m.slot = none → m.dest = none → ∀ e, removesSlots e (redirect u) = false →
          { m with east := e } ∈ (redirect u).ring.tx)) := by
  have hbroken : u.ring.broken = some link := by rw [hu]; rfl
  have hmem : ∀ m, m ∈ u.ring.tx ↔ m ∈ s.ring.tx ∧ ∀ qs, m.msg ≠ .snoop qs := fun m => by rw [hu]; exact mem_withoutSnoops
  refine ⟨hbroken, fun m hm qs hqs => ?_, fun m hm hmsg => ?_⟩
  · obtain ⟨x, hx, hmx⟩ := msg_of_mem_redirect hm
    exact ((hmem x).mp hx).2 qs (hmx.symm.trans hqs)
  · have hmu := (hmem m).mpr ⟨hm, hmsg⟩
    exact ⟨fun hslot => mem_redirect_of_slot hmu hslot, fun hslot d hdest => mem_redirect_of_dest hmu hslot hdest,
      fun hslot hdest e he => mem_redirect_of_all hmu hslot hdest he⟩

theorem redirect_frame {s u : State} (h : answerFrame s u) : answerFrame { s with ring := (redirect u).ring } (redirect u) :=
  answerFrame.withRing h _

theorem redirect_tel (s : State) : (redirect s).tel = s.tel := rfl

theorem execRingLinkFail_turned {s : State} (hcore : coreRuns s = true) (hwhole : s.ring.broken = none) (link : Nat) :
    ∃ u, answerFrame (withoutSnoops link s) u ∧ (tgetD u.tel.reasons 9 (0, 0, 0)).2.2 = 0x0903 ∧
      execRingLinkFail link s = .next (redirect u) :=
  ⟨linkFailed link s, linkFailed_frame link s, linkFailed_code link s, execRingLinkFail_whole hcore hwhole link⟩

theorem ringLinkFail_turns {s : State} (hcore : coreRuns s = true) (hwhole : s.ring.broken = none) (link : Nat) :
    ∃ t, execRingLinkFail link s = .next t ∧ t.ring.broken = some link ∧
      (∀ m ∈ t.ring.tx, ∀ qs, m.msg ≠ .snoop qs) ∧
      (∀ m ∈ s.ring.tx, (∀ qs, m.msg ≠ .snoop qs) →
        (m.slot.isSome = true → m ∈ t.ring.tx) ∧
        (m.slot = none → ∀ d, m.dest = some d → { m with east := eastTo d t } ∈ t.ring.tx) ∧
        (m.slot = none → m.dest = none → ∀ e, removesSlots e t = false → { m with east := e } ∈ t.ring.tx)) ∧
      (tgetD t.tel.reasons 9 (0, 0, 0)).2.2 = 0x0903 ∧ answerFrame { s with ring := t.ring } t := by
  obtain ⟨u, hframe, hcode, hexec⟩ := execRingLinkFail_turned hcore hwhole link
  obtain ⟨hbroken, hsnoops, hturned⟩ := redirect_turns hframe.ring_eq
  exact ⟨redirect u, hexec, hbroken, hsnoops, hturned, by rw [redirect_tel]; exact hcode, redirect_frame (s := withoutSnoops link s) hframe⟩

/-- Settles O41: each clause reads off the operation's one branch, a failed link's through what `redirect` turns (R12, R18, R22, R26). -/
theorem ringLinks : Obligations.RingLinks := by
  intro s hcore
  refine ⟨fun east span hops hfar => execRingMeasure_far hcore hfar east,
    fun east span hops m hnear => ⟨_, execRingMeasure_ring hcore hnear east m, rfl⟩,
    fun east span hops i hpart => execRingMeasure_otherPart hcore east span hops hpart,
    fun east span hops i hpart => execRingMeasure_partner hcore east span hops hpart,
    fun link hwhole => ringLinkFail_turns hcore hwhole link, fun link hbroken hmaster hreach => ?_,
    fun b hat hdue hrounds => (onCore_of_coreRuns hcore _).trans (congrArg _ (trainRestored_due hat hdue hrounds)),
    fun b hat hearly => (onCore_of_coreRuns hcore _).trans (congrArg _ (trainRestored_early hat hearly))⟩
  obtain ⟨x, hx, hmsg⟩ := broadcast_posts (s := { s with ring := { s.ring with restoreAt := some (s.tide.count + 4) } }) hreach
    ctlRestore [s.tide.count + 4]
  refine ⟨_, x, _, execRingLinkRestore_master hcore hbroken hmaster, ?_, hx, hmsg, ?_⟩
  · rw [broadcast, control_ring]
  · rw [broadcast, control_eq]

/-! The bypass and its splices (R18, R29 to R31). -/

/-- Slots sent on the ring, and nothing else but the tide marks due. -/
structure SlotsSent (n : Nat) (s t : State) : Prop where
  rest : t = { s with ring := t.ring, out := t.out }
  sent : ∃ l, t.out = s.out ++ l ∧ l.length = n ∧ ∀ o ∈ l, ∃ y, o = .slot y

theorem SlotsSent.refl (s : State) :
    SlotsSent 0 s s := ⟨rfl, [], (List.append_nil _).symm, rfl, fun o ho => absurd ho (by simp)⟩

theorem SlotsSent.trans {n m : Nat} {s t u : State} (h : SlotsSent n s t) (h' : SlotsSent m t u) : SlotsSent (n + m) s u := by
  obtain ⟨hrest, l, hout, hlen, hslots⟩ := h
  obtain ⟨krest, k, kout, klen, kslots⟩ := h'
  refine ⟨by rw [krest, hrest], l ++ k, by rw [kout, hout, List.append_assoc], by rw [List.length_append, hlen, klen],
    fun o ho => (List.mem_append.mp ho).elim (hslots o) (kslots o)⟩

theorem sendSlot_sends (x : RingSlot) (s : State) : SlotsSent 1 s (sendSlot x s) := by
  unfold sendSlot
  split
  · exact ⟨rfl, [.slot x], rfl, rfl, fun o ho => ⟨x, List.mem_singleton.mp ho⟩⟩
  · exact ⟨rfl, [.slot _], rfl, rfl, fun o ho => ⟨_, List.mem_singleton.mp ho⟩⟩

theorem foldl_sendSlot_sends {α : Type} (f : α → State → RingSlot) (l : List α) (s : State) :
    SlotsSent l.length s (l.foldl (fun s p => sendSlot (f p s) s) s) := by
  induction l generalizing s with
  | nil => exact SlotsSent.refl s
  | cons p r ih =>
    rw [List.length_cons, Nat.add_comm]
    exact (sendSlot_sends _ _).trans (ih _)

theorem formTrain_sends (s : State) : SlotsSent (12 * s.tide.sites) s (formTrain s) := by
  have hlen : (((List.range (6 * s.tide.sites)).map (true, ·)) ++ (List.range (6 * s.tide.sites)).map (false, ·)).length =
      12 * s.tide.sites := by
    simp only [List.length_append, List.length_map, List.length_range]
    omega
  rw [← hlen]
  exact foldl_sendSlot_sends (fun (p : Bool × Nat) s => emptySlot p.1 p.2 s) _ s

theorem tieWinner_one {t n k : Nat} (h : k < n) : tieWinner t (List.range n) [k] = some k := by
  have hmem : k ∈ (List.range n).drop (t % n) ++ (List.range n).take (t % n) := by
    rw [List.mem_append, or_comm, ← List.mem_append, List.take_append_drop]
    exact List.mem_range.mpr h
  unfold tieWinner
  rw [List.length_range]
  refine (if_neg (by omega)).trans ?_
  cases hfind : ((List.range n).drop (t % n) ++ (List.range n).take (t % n)).find? fun p => [k].contains p with
  | none => simpa using List.find?_eq_none.mp hfind k hmem
  | some p => simpa using List.find?_some hfind

section
variable {s : State}

theorem isMaster_iff : isMaster s = true ↔
    (s.isl.bypass = .open ∨ s.isl.bypass = .closing) ∧ s.tide.hasMaster = true ∧ s.tide.master = self s := by
  simp [isMaster, and_assoc]

theorem execBypassReleaseRequest_closed (hcore : coreRuns s = true) (hclosed : s.isl.bypass = .closed)
    (hports : s.ring.disabled = none) (hsites : 0 < s.tide.sites) :
    execBypassReleaseRequest s = .next { s with
      isl := { s.isl with bypass := .releasing }, ring := { s.ring with nextMsg := (s.ring.nextMsg + 1) % 65536 },
      out := s.out ++ [.ring (eastTo s.tide.master s) (.control (self s) s.ring.nextMsg ctlSpliceAsk [s.tide.site, 0])] } := by
  have hfollower : isMaster { s with isl := { s.isl with bypass := .releasing } } = false := by simp [isMaster]
  refine (onCore_of_coreRuns hcore _).trans (congrArg _ ((if_pos ⟨hclosed, hports, hsites⟩).trans ?_))
  unfold askSplice
  rw [hfollower]
  rfl

theorem execBypassReleaseRequest_refused (hcore : coreRuns s = true) (hnone : s.ring.disabled.isSome = true ∨ s.tide.sites = 0) :
    execBypassReleaseRequest s = .next s := by
  refine (onCore_of_coreRuns hcore _).trans (congrArg _ (if_neg ?_))
  rintro ⟨-, hports, hsites⟩
  obtain h | h := hnone
  · simp [hports] at h
  · omega

theorem execBypassLeaveRequest_open (hcore : coreRuns s = true) (hopen : s.isl.bypass = .open) (hfollower : isMaster s = false) :
    execBypassLeaveRequest s = .next (control (some s.tide.master) ctlSpliceAsk [s.tide.site, 1]
      { s with isl := { s.isl with bypass := .closing } }) := by
  have hsame : isMaster { s with isl := { s.isl with bypass := .closing } } = false := by
    rw [Bool.eq_false_iff, ne_eq, isMaster_iff] at hfollower ⊢
    exact fun h => hfollower ⟨.inl hopen, h.2⟩
  refine (onCore_of_coreRuns hcore _).trans (congrArg _ ((if_pos hopen).trans ?_))
  unfold askSplice
  rw [hsame]
  rfl

theorem execSpliceRequest_master (hcore : coreRuns s = true) (hmaster : isMaster s = true) {site : Nat} (leave : Bool)
    (hsplices : ∀ x ∈ s.ring.splices, x.site ≠ site) (hgrants : ∀ x ∈ s.ring.grants, x.site = site → x.tide ≤ s.tide.count) :
    execSpliceRequest site leave s = .next { s with ring := { s.ring with
      splices := s.ring.splices ++ [{ site := site, leave := leave, tide := s.tide.count }] } } := by
  have hnone : (s.ring.splices.any fun x => x.site == site) = false := by simpa using hsplices
  have hlate : (s.ring.grants.any fun x => x.site == site && decide (s.tide.count < x.tide)) = false := by simpa using hgrants
  exact (onCore_of_coreRuns hcore _).trans (congrArg _ (if_neg (by simp [hmaster, hnone, hlate])))

/-- The ring of a master that has granted its only splice. -/
def granted (r : SpliceReq) (s : State) : State :=
  { s with ring := { s.ring with splices := [], grants := (s.ring.grants.filter fun g => decide (s.tide.count ≤ g.tide)) ++
    [{ r with tide := s.tide.count + 4 }] } }

theorem grantSplice_one (hmaster : isMaster s = true) {r : SpliceReq} (hsplices : s.ring.splices = [r])
    (hsite : r.site < s.tide.sites) (hother : r.site ≠ s.tide.site) (hnotices : s.man.notices = [])
    (hgrants : ∀ g ∈ s.ring.grants, g.tide ≠ s.tide.count + 4) :
    grantSplice s = broadcast ctlSpliceGrant [r.site, b2n r.leave, s.tide.count + 4] (granted r s) := by
  have hfree : (s.ring.grants.any fun g => g.tide == s.tide.count + 4) = false := by simpa using hgrants
  have hwins : tieWinner s.tide.count (List.range s.tide.sites) ([r].map fun x => x.site) = some r.site :=
    tieWinner_one hsite
  have hfind : [r].find? (fun x => x.site == r.site) = some r := by simp
  unfold grantSplice
  simp only [hmaster, hfree, hwins, hfind, hnotices, hsplices, hother, List.any_nil, List.erase_cons_head, Bool.not_true,
    Bool.or_self, Bool.false_eq_true, if_false]
  rfl

theorem splice_release {b : Nat} (hrel : s.isl.bypass = .releasing) (hgrant : s.isl.granted = some b) (hdue : b ≤ s.tide.count)
    (hmaster : s.tide.hasMaster = true) : splice s = { s with isl := { s.isl with bypass := .open, granted := none } } := by
  simp [splice, hrel, hgrant, hdue, hmaster]

theorem splice_leave {b : Nat} (hclosing : s.isl.bypass = .closing) (hgrant : s.isl.granted = some b) (hdue : b ≤ s.tide.count) :
    splice s = { s with isl := { s.isl with bypass := .closed, granted := none } } := by
  simp [splice, hclosing, hgrant, hdue]

theorem splice_early {b : Nat} (hrel : s.isl.bypass = .releasing) (hgrant : s.isl.granted = some b) (hearly : s.tide.count < b)
    (hmaster : s.tide.hasMaster = true) : splice s = s := by
  simp [splice, hrel, hgrant, Nat.not_le.mpr hearly, hmaster]

/-- The lowest device of a ring without a master, as it becomes the master in tide 0 (R15). -/
def firstMaster (s : State) : State :=
  { s with
    isl := { s.isl with bypass := .open, granted := none },
    tide := { s.tide with hasMaster := true, master := self s, locked := true, hops := 0, count := 0, lastMarker := 0,
                          markerSeen := true },
    ring := { s.ring with markEast := true, markWest := true } }

theorem splice_first (hrel : s.isl.bypass = .releasing) (hmaster : s.tide.hasMaster = false) (hfollowed : s.tide.followed = false)
    (hlowest : lowestOnRing s = true) : splice s = formTrain (firstMaster s) := by
  have hfirst : (!s.tide.hasMaster && !s.tide.followed && lowestOnRing s) = true := by simp [hmaster, hfollowed, hlowest]
  unfold splice
  simp only [hfirst]
  exact (if_pos ⟨hrel, .inr trivial⟩).trans rfl

end

/-- Settles O42: each clause reads off one branch; a first master's train is a fold of slots sent (R15, R16, R18, R29 to R31). -/
theorem ringBypass : Obligations.RingBypass := by
  intro s hcore
  refine ⟨execBypassReleaseRequest_closed hcore, fun _ hnone => execBypassReleaseRequest_refused hcore hnone,
    fun hrel => congrArg _ (if_pos hrel), fun hopen hfollower => ?leaves,
    fun site leave hmaster hsplices hgrants => execSpliceRequest_master hcore hmaster leave hsplices hgrants,
    fun r hmaster hsplices hsite hother hnotices hgrants hreach => ?grants,
    fun b hrel hgrant hdue hmaster => (onCore_of_coreRuns hcore _).trans (congrArg _ (splice_release hrel hgrant hdue hmaster)),
    fun b hclosing hgrant hdue => (onCore_of_coreRuns hcore _).trans (congrArg _ (splice_leave hclosing hgrant hdue)),
    fun b hrel hgrant hearly hmaster => (onCore_of_coreRuns hcore _).trans (congrArg _ (splice_early hrel hgrant hearly hmaster)),
    fun hrel hmaster hfollowed hlowest => ?first, rfl, rfl⟩
  case leaves =>
    obtain ⟨x, hx, hmsg⟩ := control_posts_some s.tide.master ctlSpliceAsk [s.tide.site, 1]
      { s with isl := { s.isl with bypass := .closing } }
    refine ⟨_, x, _, execBypassLeaveRequest_open hcore hopen hfollower, ?_, hx, hmsg, ?_⟩
    all_goals rw [control_eq]
  case grants =>
    obtain ⟨x, hx, hmsg⟩ := broadcast_posts (s := granted r s) hreach ctlSpliceGrant [r.site, b2n r.leave, s.tide.count + 4]
    refine ⟨_, x, _, (onCore_of_coreRuns hcore _).trans (congrArg _ (grantSplice_one hmaster hsplices hsite hother hnotices hgrants)),
      hx, hmsg, ?_, ?_, ?_⟩
    · rw [broadcast, control_ring]
      rfl
    · rw [broadcast, control_ring]
      exact List.mem_append_right _ List.mem_cons_self
    · rw [broadcast, control_eq]
      rfl
  case first =>
    obtain ⟨hrest, l, hout, hlen, hslots⟩ := formTrain_sends (firstMaster s)
    have hmasters : isMaster (formTrain (firstMaster s)) = true := by
      rw [hrest]
      simp [isMaster, firstMaster, self]
    refine ⟨_, l, (onCore_of_coreRuns hcore _).trans (congrArg _ (splice_first hrel hmaster hfollowed hlowest)), hmasters, ?_, ?_, ?_,
      hout, hlen, hslots, ?_⟩
    all_goals rw [hrest]; rfl

end Sys2Proof.Machine
end

section
/-! PROOFS. THE RING'S SLOTS (O40). -/

namespace Sys2Proof.Machine
open Sys2Proof

/-! An item queued in the switch core (R293). -/

/-- One item stands as one more cell, and nothing but the switch core changed. -/
structure Queued (ingress ctx pool cls : Nat) (i : Item) (s t : State) : Prop where
  rest : t = { s with sw := t.sw }
  cell : ∃ c, t.sw.cells = s.sw.cells ++ [c] ∧ c.ctx = ctx ∧ c.pool = pool ∧ c.ingress = ingress ∧ c.tclass = cls ∧ c.items = [i]

theorem enterPlain_queued {pool : Nat} (hpool : pool ≠ 3) (ingress ctx cls kind channel : Nat) (i : Item) (s : State) :
    Queued ingress ctx pool cls i s (enterPlain ingress ctx pool cls kind channel i s) := by
  unfold enterPlain
  rw [if_neg hpool]
  exact ⟨rfl, _, rfl, rfl, rfl, rfl, rfl, rfl⟩

theorem gathers_of_none {ctx : Nat} {s : State} (h : tget s.ports.codecs ctx = none) (pool cls kind : Nat) (i : Item) :
    gathers ctx pool cls kind i s = none := by
  unfold gathers
  rw [h]

theorem enterItem_of_none {ctx : Nat} {s : State} (h : tget s.ports.codecs ctx = none) (ingress pool cls kind channel : Nat) (i : Item) :
    enterItem ingress ctx pool cls kind channel i s = enterPlain ingress ctx pool cls kind channel i s := by
  unfold enterItem
  rw [gathers_of_none h]

/-! A device's own part in the ring's slots (R19, R21 to R23, R27 to R29, R58). -/

/-- A slot sent as it is. -/
def slotSent (x : RingSlot) (s : State) : State := { s with out := s.out ++ [.slot x] }

section
variable {s : State}

theorem coreRuns_of_onRing (h : onRing s = true) : coreRuns s = true := by
  rw [onRing, Bool.and_eq_true] at h
  exact h.1

theorem not_onRing_of_releasing (h : s.isl.bypass = .releasing) : onRing s = false := by simp [onRing, h]

theorem removesSlots_whole (h : s.ring.broken = none) (east : Bool) : removesSlots east s = false := by
  unfold removesSlots
  rw [h]

theorem originates_whole (h : s.ring.broken = none) (east : Bool) : originates east s = false := by simp [originates, h]

theorem forwardSlot_follower (hwhole : s.ring.broken = none) (hfollower : isMaster s = false) (x : RingSlot) :
    forwardSlot x s = slotSent x s := by
  have hstay : ¬removesSlots x.east s = true := by simp [removesSlots_whole hwhole]
  exact (if_neg hstay).trans (if_pos (by simp [hfollower]))

theorem sendSlot_follower (hfollower : isMaster s = false) (x : RingSlot) : sendSlot x s = slotSent x s :=
  if_pos (by simp [hfollower])

theorem sendSlot_mark (hmaster : isMaster s = true) (hmark : s.ring.markEast = true) {x : RingSlot} (heast : x.east = true) :
    sendSlot x s = slotSent (markSlot true s x) { s with ring := { s.ring with markEast := false } } := by
  have h : ¬(!isMaster s) = true := by simp [hmaster]
  refine (if_neg h).trans ?_
  simp only [heast, hmark, if_true, Bool.not_true, Bool.and_false, Bool.and_true]
  rfl

/-- What a CONTROL message leaves of the ring's memory of messages (R28). -/
def remembered (d id : Nat) (s : State) : State :=
  { s with ring := { s.ring with handled := ((d, id) :: s.ring.handled).take 1024 } }

variable {x : RingSlot} {d id code : Nat} {args : List Nat}

theorem takeMessage_new (hmsg : slotMsg x = .control d id code args) (hpayload : payloadOk x = true) (hother : d ≠ self s)
    (hcomp : compCurrent (slotComp x) s = true) (hnew : (d, id) ∉ s.ring.handled) :
    takeMessage x s = takeControl code args (remembered d id s) := by
  have hcontains : ¬s.ring.handled.contains (d, id) = true := by simpa using hnew
  have hbad : ¬(!payloadOk x || d == self s) = true := by simp [hpayload, hother]
  unfold takeMessage
  rw [hmsg]
  exact (if_neg hbad).trans ((if_neg (by simp [hcomp])).trans (if_neg hcontains))

theorem takeMessage_handled (hmsg : slotMsg x = .control d id code args) (hcomp : compCurrent (slotComp x) s = true)
    (hold : (d, id) ∈ s.ring.handled) : takeMessage x s = s := by
  have hcontains : s.ring.handled.contains (d, id) = true := by simpa using hold
  unfold takeMessage
  rw [hmsg]
  by_cases hbad : (!payloadOk x || d == self s) = true
  · exact if_pos hbad
  · exact (if_neg hbad).trans ((if_neg (by simp [hcomp])).trans (if_pos hcontains))

theorem takeMessage_stale (hmsg : slotMsg x = .control d id code args) (hpayload : payloadOk x = true) (hother : d ≠ self s)
    (hcomp : compCurrent (slotComp x) s = false) : takeMessage x s = countStale s := by
  have hbad : ¬(!payloadOk x || d == self s) = true := by simp [hpayload, hother]
  unfold takeMessage
  rw [hmsg]
  exact (if_neg hbad).trans (if_pos (by simp [hcomp]))

theorem takeControl_spliceGrant (hrel : s.isl.bypass = .releasing) (leave b : Nat) :
    takeControl ctlSpliceGrant [s.tide.site, leave, b] s = { s with isl := { s.isl with granted := some b } } := by
  simp [takeControl, ctlSpliceGrant, ctlDrainDone, ctlUncertain, ctlLoss, ctlRestore, hrel]

theorem takeControl_restore (b : Nat) :
    takeControl ctlRestore [b] s = { s with ring := { s.ring with restoreAt := some b } } := by
  simp [takeControl, ctlDrainDone, ctlUncertain, ctlLoss, ctlRestore]

/-! Slots off the ring. -/

theorem execRingSlotArrive_off (hoff : onRing s = false) (hbypass : s.isl.bypass ≠ .releasing) (x : RingSlot) (n : Nat) :
    execRingSlotArrive x n s = .next (slotSent x s) := by
  refine congrArg _ ((if_pos (by simp [hoff])).trans (if_neg ?_))
  simp [emit, hbypass]

theorem execRingSlotArrive_releasing (hcore : coreRuns s = true) (hrel : s.isl.bypass = .releasing) (hheader : headerOk x = true)
    (hkind : slotKind x = 3) (n : Nat) : execRingSlotArrive x n s = .next (takeMessage x (slotSent x s)) := by
  have hruns : coreRuns (slotSent x s) = true := hcore
  have htakes : (coreRuns (slotSent x s) && (slotSent x s).isl.bypass == .releasing && headerOk x && slotKind x == 3) = true := by
    rw [hruns, hheader, hkind]
    simp [slotSent, hrel]
  exact congrArg _ ((if_pos (by simp [not_onRing_of_releasing hrel])).trans (if_pos htakes))

theorem execSnoopAnswer_off (hoff : onRing s = false) (x : RingSlot) : execSnoopAnswer x s = .next (slotSent x s) :=
  congrArg _ (if_pos (by simp [hoff]))

theorem execSlotReturn_off (hoff : onRing s = false) (e : Bool) (n : Nat) (x : Option RingSlot) :
    execSlotReturn ⟨e, n, x⟩ s = .next (match x with | some y => emit (.slot y) s | none => s) :=
  congrArg _ (if_pos (by simp [hoff]))

/-! Slots on the ring. -/

section
variable (hon : onRing s = true) (hwhole : s.ring.broken = none)
include hon hwhole

theorem execRingSlotArrive_badHeader (hheader : headerOk x = false) (n : Nat) : execRingSlotArrive x n s = .next
    (forwardSlot (emptySlot x.east n s) { s with ring := { s.ring with headerErrors := s.ring.headerErrors + 1 } }) :=
  congrArg _ ((if_neg (by simp [hon])).trans ((if_neg (by simp [originates_whole hwhole])).trans (if_pos (by simp [hheader]))))

theorem execRingSlotArrive_reserved (hheader : headerOk x = true) (hkind : 6 ≤ slotKind x) (n : Nat) :
    execRingSlotArrive x n s = .next
    (forwardSlot x { s with ring := { s.ring with reservedSeen := s.ring.reservedSeen + 1 } }) :=
  congrArg _ ((if_neg (by simp [hon])).trans ((if_neg (by simp [originates_whole hwhole])).trans ((if_neg (by simp [hheader])).trans
    (if_pos hkind))))

theorem execRingSlotArrive_control (hheader : headerOk x = true) (hkind : slotKind x = 3) (n : Nat) :
    execRingSlotArrive x n s = .next (forwardSlot x (takeMessage x s)) :=
  congrArg _ ((if_neg (by simp [hon])).trans ((if_neg (by simp [originates_whole hwhole])).trans ((if_neg (by simp [hheader])).trans
    ((if_neg (by omega)).trans (if_neg (by omega))))))

end

theorem execSnoopAnswer_miss (hon : onRing s = true) (howner : slotOwner x ≠ s.tide.site) (hkind : slotKind x = 1) {q : SnoopReq}
    (hsnoops : snoopsOf (slice x.block 12 496) = [q]) (hpayload : payloadOk x = true) (hanswers : answersOk x = true)
    (hcomp : compCurrent (slotComp x) s = true) (htarget : self s ∉ q.targets) :
    execSnoopAnswer x s = .next (forwardSlot (withAnswers (setNibble (fit 256 x.answers) 0 s.tide.site ansMiss) x) s) := by
  have hmiss : answerSnoop (slotOwner x) q s = (ansMiss, s) := if_pos (by simpa using htarget)
  unfold execSnoopAnswer
  simp [hon, howner, hkind, hanswers, hcomp, hpayload, hsnoops, hmiss]

theorem execSnoopAnswer_stale (hon : onRing s = true) (howner : slotOwner x ≠ s.tide.site) (hkind : slotKind x = 1)
    (hanswers : answersOk x = true) (hcomp : compCurrent (slotComp x) s = false) :
    execSnoopAnswer x s = .next (forwardSlot x (countStale s)) :=
  congrArg _ ((if_neg (by simp [hon])).trans ((if_neg (by simp [howner, hkind])).trans ((if_neg (by simp [hanswers])).trans
    (if_pos (by simp [hcomp])))))

theorem execSlotReturn_other (hon : onRing s = true) (hheader : headerOk x = true) (hown : ownNumber (slotNumber x) s = false)
    (e : Bool) (n : Nat) : execSlotReturn ⟨e, n, some x⟩ s = .next (forwardSlot x s) := by
  simp [execSlotReturn, hon, hheader, hown]

theorem execSlotReturn_own (hon : onRing s = true) (hheader : headerOk x = true) (hown : ownNumber (slotNumber x) s = true)
    (htx : s.ring.tx = []) (e : Bool) (n : Nat) : execSlotReturn ⟨e, n, some x⟩ s = .next (fillSlot e (slotNumber x) s) := by
  simp [execSlotReturn, hon, hheader, hown, htx]

theorem execSlotReturn_lost (hon : onRing s = true) {n : Nat} (hown : ownNumber n s = true) {e : Bool}
    (htx : (s.ring.tx.find? fun t => t.slot == some n && t.east == e) = none) :
    execSlotReturn ⟨e, n, none⟩ s = .next (fillSlot e n s) := by
  simp [execSlotReturn, hon, hown, htx]

theorem execSlotReturn_lostMessage (hon : onRing s = true) (hwhole : s.ring.broken = none) {n : Nat} (hown : ownNumber n s = true)
    {e : Bool} {m : RingTx} (htx : (s.ring.tx.find? fun t => t.slot == some n && t.east == e) = some m) :
    execSlotReturn ⟨e, n, none⟩ s = .next (fillSlot e n (reissue m s)) := by
  simp [execSlotReturn, hon, hown, htx, hwhole]

/-! Filling an owned slot. -/

theorem nextMessage_nil (htx : s.ring.tx = []) (e : Bool) : nextMessage e s = none := by
  unfold nextMessage
  simp only [htx, List.find?_nil]

theorem nextMessage_control {m : RingTx} (htx : s.ring.tx = [m]) (hslot : m.slot = none) (hmsg : m.msg = .control d id code args) :
    nextMessage m.east s = some (m, []) := by
  have hfind : [m].find? (fun t => t.slot.isNone && t.east == m.east) = some m := by simp [hslot]
  unfold nextMessage
  simp only [htx, hfind, hmsg, List.erase_cons_head]

theorem fillSlot_nil (hwhole : s.ring.broken = none) (htx : s.ring.tx = []) (e : Bool) (n : Nat) :
    fillSlot e n s = sendSlot (emptySlot e n s) s := by
  have hstay : ¬removesSlots e s = true := by simp [removesSlots_whole hwhole]
  refine (if_neg hstay).trans ?_
  rw [nextMessage_nil htx]

/-- A message written into a slot of this device's (R23). -/
def inSlot (n : Nat) (m : RingTx) (s : State) : RingTx :=
  { m with slot := some n, routeEpoch := s.man.routeEpoch, compEpoch := s.man.compEpoch }

theorem fillSlot_control (hwhole : s.ring.broken = none) {m : RingTx} (htx : s.ring.tx = [m]) (hslot : m.slot = none)
    (hmsg : m.msg = .control d id code args) (hmore : moreControl m.msg m.at_ = false) (n : Nat) :
    fillSlot m.east n s = sendSlot (makeSlot m.east n m.msg m.at_ s.man.routeEpoch s.man.compEpoch s)
      { s with ring := { s.ring with tx := [inSlot n m s] } } := by
  have hstay : ¬removesSlots m.east s = true := by simp [removesSlots_whole hwhole]
  refine (if_neg hstay).trans ?_
  rw [nextMessage_control htx hslot hmsg]
  simp only [hmore, Bool.false_eq_true, if_false]
  rfl

theorem reissue_one {m : RingTx} (htx : s.ring.tx = [m]) (hless : m.reissues < 3) :
    reissue m s = { s with ring := { s.ring with tx := [{ m with slot := none, reissues := m.reissues + 1 }] } } := by
  refine (if_pos hless).trans ?_
  simp only [htx, List.erase_cons_head]

end

theorem dataSlot_queues {x : RingSlot} {s : State} {b : Bytes} {m : RouteMap} {k : Nat} (hon : onRing s = true) (hkind : slotKind x = 5)
    (hpayload : payloadOk x = true) (hcomp : compCurrent (slotComp x) s = true) (hlink : (linkHdr x.block).kind = 1)
    (hitems : blockItems 1 (linkHdr x.block).unitMap (slice x.block 12 496) = some [(0, b)]) (hhome : (reqOf b []).home ≠ self s)
    (hmap : mapOf (reqOf b []).routeEpoch s = some m) (hctx : deviceCtx (reqOf b []).home m s = some k)
    (hcodec : tget s.ports.codecs k = none) : ∃ t, execDataSlotReceive x s = .next t ∧
      Queued 130 k 1 (arrivedItem 1 b).2 (arrivedItem 1 b).1 s t := by
  refine ⟨ringItem 1 b s, ?_, ?_⟩
  · simp [execDataSlotReceive, hon, hkind, hpayload, hcomp, hlink, hitems]
  · unfold ringItem
    simp only
    rw [if_pos ⟨trivial, hhome⟩, hmap]
    simp only [hctx]
    rw [enterItem_of_none hcodec]
    exact enterPlain_queued (by decide) _ _ _ _ _ _ _

/-- Settles O40: off the ring a slot passes; on it each kind of slot takes one branch, and an owned slot is filled by the waiting
message (R17 to R19, R21 to R23, R27 to R29, R58). -/
theorem ringSlots : Obligations.RingSlots := by
  intro x s
  refine ⟨fun hoff hbypass => ⟨fun n => execRingSlotArrive_off hoff hbypass x n, execSnoopAnswer_off hoff x,
      fun e n => ⟨execSlotReturn_off hoff e n (some x), execSlotReturn_off hoff e n none⟩⟩,
    fun n d id leave b hcore hrel hheader hkind hmsg hpayload hother hcomp hnew => ?splice,
    fun hon hwhole hfollower => ⟨fun n hheader => ?bad, fun n hheader hkind => ?reserved,
      fun n d id b hheader hkind hmsg hpayload hother hcomp hnew => ?restore,
      fun n d id c args hheader hkind hmsg hold hcomp => ?handled,
      fun n d id c args hheader hkind hmsg hpayload hother hcomp => ?stale,
      fun q howner hkind hsnoops hpayload hanswers hcomp htarget => ?miss,
      fun howner hkind hanswers hcomp => ?staleSnoop,
      fun e n hheader hown => ?other, fun e n htx hheader hown => ?empty,
      fun n m d id c args htx hslot hmsg hmore hown => ?fresh,
      fun n m d id c args htx hslot hmsg hmore hless hown => ?again,
      fun b m k hkind hpayload hcomp hlink hitems hhome hmap hctx hcodec => ?data⟩,
    fun hon hwhole hmaster htx hmark n hown => ?mark⟩
  case splice =>
    refine (execRingSlotArrive_releasing hcore hrel hheader hkind n).trans (congrArg _ ?_)
    rw [takeMessage_new (s := slotSent x s) hmsg hpayload hother hcomp hnew]
    exact takeControl_spliceGrant (s := remembered d id (slotSent x s)) hrel leave b
  case bad =>
    exact (execRingSlotArrive_badHeader hon hwhole hheader n).trans (congrArg _ (forwardSlot_follower (by exact hwhole) (by exact hfollower) _))
  case reserved =>
    exact (execRingSlotArrive_reserved hon hwhole hheader hkind n).trans (congrArg _ (forwardSlot_follower (by exact hwhole) (by exact hfollower) _))
  case restore =>
    refine (execRingSlotArrive_control hon hwhole hheader hkind n).trans (congrArg _ ?_)
    rw [takeMessage_new hmsg hpayload hother hcomp hnew, takeControl_restore]
    exact forwardSlot_follower (by exact hwhole) (by exact hfollower) _
  case handled =>
    refine (execRingSlotArrive_control hon hwhole hheader hkind n).trans (congrArg _ ?_)
    rw [takeMessage_handled hmsg hcomp hold]
    exact forwardSlot_follower (by exact hwhole) (by exact hfollower) _
  case stale =>
    refine (execRingSlotArrive_control hon hwhole hheader hkind n).trans (congrArg _ ?_)
    rw [takeMessage_stale hmsg hpayload hother hcomp]
    exact forwardSlot_follower (by exact hwhole) (by exact hfollower) _
  case miss =>
    exact (execSnoopAnswer_miss hon howner hkind hsnoops hpayload hanswers hcomp htarget).trans
      (congrArg _ (forwardSlot_follower (by exact hwhole) (by exact hfollower) _))
  case staleSnoop =>
    exact (execSnoopAnswer_stale hon howner hkind hanswers hcomp).trans (congrArg _ (forwardSlot_follower (by exact hwhole) (by exact hfollower) _))
  case other => exact (execSlotReturn_other hon hheader hown e n).trans (congrArg _ (forwardSlot_follower (by exact hwhole) (by exact hfollower) _))
  case empty =>
    refine (execSlotReturn_own hon hheader hown htx e n).trans (congrArg _ ?_)
    rw [fillSlot_nil hwhole htx]
    exact sendSlot_follower (by exact hfollower) _
  case fresh =>
    refine (execSlotReturn_lost hon hown (by simp [htx, hslot])).trans (congrArg _ ?_)
    rw [fillSlot_control hwhole htx hslot hmsg hmore]
    exact sendSlot_follower (by exact hfollower) _
  case again =>
    refine (execSlotReturn_lostMessage hon hwhole hown (m := m) (by simp [htx, hslot])).trans (congrArg _ ?_)
    rw [reissue_one htx hless]
    refine (fillSlot_control (m := { m with slot := none, reissues := m.reissues + 1 }) (by exact hwhole) (by rfl) rfl hmsg hmore n).trans ?_
    exact sendSlot_follower (by exact hfollower) _
  case data =>
    obtain ⟨t, hexec, hrest, c, hcells, hk, hpool, hingress, -, hitem⟩ :=
      dataSlot_queues hon hkind hpayload hcomp hlink hitems hhome hmap hctx hcodec
    exact ⟨t, c, _, hexec, hrest, hcells, hk, hpool, hingress, hitem, rfl⟩
  case mark =>
    refine (execSlotReturn_lost hon hown (by simp [htx])).trans (congrArg _ ?_)
    rw [fillSlot_nil hwhole htx]
    exact sendSlot_mark hmaster hmark rfl

end Sys2Proof.Machine
end

section
/-! PROOFS. A CONTEXT'S TRAINING (O47). -/

namespace Sys2Proof.Machine
open Sys2Proof

/-! A context's training (R278 to R280, R287, R289, R290). -/

section
variable {n ctx : Nat} {c : PortCtx} {s : State}

theorem setCtx_setCtx (n : Nat) (c d : PortCtx) (s : State) : setCtx n d (setCtx n c s) = setCtx n d s := by
  simp [setCtx, tput_tput_self]

theorem whenTrain_at {t : Train} (hctx : ctxAt n s = some c) (ht : c.train = t) (f : PortCtx → State → State) :
    whenTrain n t f s = f c s := by
  unfold whenTrain
  rw [hctx]
  exact if_pos ht

theorem whenTrain_not {t : Train} (hctx : ctxAt n s = some c) (ht : c.train ≠ t) (f : PortCtx → State → State) :
    whenTrain n t f s = s := by
  unfold whenTrain
  rw [hctx]
  exact if_neg ht

/-- A state of training runs its own operation. -/
theorem onCore_whenTrain {t : Train} (hcore : coreRuns s = true) (hctx : ctxAt n s = some c) (ht : c.train = t)
    (f : PortCtx → State → State) : onCore s (whenTrain n t f) = .next (f c s) :=
  (onCore_of_coreRuns hcore _).trans (congrArg _ (whenTrain_at hctx ht f))

theorem dropCells_of_nil (h : s.sw.cells = []) (p : Cell → Bool) : dropCells p s = s := by
  have hsame : { s with sw := { s.sw with cells := [] } } = s := by rw [← h]
  unfold dropCells
  rw [h, List.filter_nil, hsame]
  unfold admitWaiting
  rw [h]
  rfl

/-- A context that is down, with its cause (R275). -/
def downed (cause : Nat) (c : PortCtx) : PortCtx :=
  { c with train := .down, cause := cause, kept := [], channels := [], cut := [], nakFor := none, owed := 0, owedStream := 0,
           txOpen := [] }

/-- A context that went down, as it is reported (R275). -/
def reportDown (n cause : Nat) (s : State) : State := raise 0x0209 [(evContext, n), (evDetail, cause)] (recordReason cause s)

theorem reportDown_frame (n cause : Nat) (s : State) : answerFrame s (reportDown n cause s) :=
  (recordReason_frame _ _).trans (raise_frame _ _ _)

/-- An analysis context that goes down is reported and holds nothing any more. -/
theorem contextDown_analysis (hctx : ctxAt n s = some c) (hup : c.train ≠ .down) (hrole : c.role = 4) (hcells : s.sw.cells = [])
    (cause : Nat) : answerFrame (setCtx n (downed cause c) s) (contextDown n cause s) := by
  have hframe := reportDown_frame n cause (setCtx n (downed cause c) s)
  have hdown : contextDown n cause s = dropCells (fun x => x.ctx == n) (reportDown n cause (setCtx n (downed cause c) s)) := by
    have h1 : ¬c.role = 1 := by omega
    have h2 : ¬c.role = 2 := by omega
    have h3 : ¬c.role = 3 := by omega
    unfold contextDown
    simp only [hctx, if_neg hup, if_neg h1, if_neg h2, if_neg h3]
    rfl
  have hnone : (reportDown n cause (setCtx n (downed cause c) s)).sw.cells = [] := by
    rw [hframe.sw_eq]
    exact hcells
  rw [hdown, dropCells_of_nil hnone]
  exact hframe

theorem contextDown_analysis_ctx (hctx : ctxAt n s = some c) (hup : c.train ≠ .down) (hrole : c.role = 4) (hcells : s.sw.cells = [])
    (cause : Nat) : ctxAt n (contextDown n cause s) = some (downed cause c) :=
  (ctxAt_congr (contextDown_analysis hctx hup hrole hcells cause).ports_eq n).trans ctxAt_setCtx_self

section
variable (hcore : coreRuns s = true) (hctx : ctxAt ctx s = some c)
include hcore hctx

theorem execEqualizeLock_equalize (ht : c.train = .equalize) :
    execEqualizeLock ctx s = .next (setCtx ctx { c with train := .align } s) := by
  refine (onCore_of_coreRuns hcore _).trans (congrArg _ ?_)
  simp only [whenTrain_at hctx ht]
  exact whenTrain_not ctxAt_setCtx_self (by simp) _

theorem execEqualizeLock_retrain (ht : c.train = .retrain) :
    execEqualizeLock ctx s = .next (setCtx ctx { c with locked := true } s) := by
  refine (onCore_of_coreRuns hcore _).trans (congrArg _ ?_)
  simp only [whenTrain_not hctx (show c.train ≠ .equalize by simp [ht])]
  exact whenTrain_at hctx ht _

theorem execBlockLock_align (ht : c.train = .align) :
    execBlockLock ctx s = .next (sendIdent ctx c false (setCtx ctx { c with train := .identify } s)) := by
  refine (onCore_of_coreRuns hcore _).trans (congrArg _ ?_)
  simp only [hctx]
  exact if_pos ht

theorem execIdentify_accepted {i : Ident} (ht : c.train = .identify) (hcode : identCode ctx c i = 0) (hrefuse : i.refuse = false) :
    execIdentify ctx i s =
      .next (emit (.link ctx 4 []) (setCtx ctx { c with partner := some i, train := .measure, pings := [] } s)) :=
  (onCore_whenTrain hcore hctx ht _).trans (congrArg _ ((if_neg (fun h => h hcode)).trans (if_neg (by simp [hrefuse]))))

theorem execPong_more {rtt : Nat} (ht : c.train = .measure) (hfew : c.pings.length < 15) :
    execPong ctx rtt s = .next (emit (.link ctx 4 []) (setCtx ctx { c with pings := c.pings ++ [rtt] } s)) :=
  (onCore_whenTrain hcore hctx ht _).trans (congrArg _ (if_pos (by simp; omega)))

theorem execPong_last {rtt : Nat} (ht : c.train = .measure) (hlast : c.pings.length = 15)
    (hmean : (c.pings ++ [rtt]).sum ≤ 16 * 6000) :
    execPong ctx rtt s = .next (emit (.link ctx 7 [grantOf ctx c, grantOf ctx c, grantOf ctx c])
      (setCtx ctx { c with pings := c.pings ++ [rtt], train := .credit } s)) := by
  refine (onCore_whenTrain hcore hctx ht _).trans (congrArg _ ?_)
  refine (if_neg (by simp; omega)).trans ((if_neg (Nat.not_lt.mpr hmean)).trans ?_)
  rw [setCtx_setCtx]

theorem execPong_far {rtt : Nat} (ht : c.train = .measure) (hlast : c.pings.length = 15)
    (hmean : 16 * 6000 < (c.pings ++ [rtt]).sum) :
    execPong ctx rtt s = .next (contextDown ctx 0x0204 (setCtx ctx { c with pings := c.pings ++ [rtt] } s)) :=
  (onCore_whenTrain hcore hctx ht _).trans (congrArg _ ((if_neg (by simp; omega)).trans (if_pos hmean)))

theorem execTrainingTimeout_down {code : Nat} (hcode : timeoutCode c = some code) :
    execTrainingTimeout ctx s = .next (contextDown ctx code s) := by
  refine (onCore_of_coreRuns hcore _).trans (congrArg _ ?_)
  simp only [hctx, hcode]

theorem execTrainingTimeout_none (hcode : timeoutCode c = none) : execTrainingTimeout ctx s = .next s := by
  refine (onCore_of_coreRuns hcore _).trans (congrArg _ ?_)
  simp only [hctx, hcode]

end

theorem train_of_timeoutCode {code : Nat} (hcode : timeoutCode c = some code) : c.train ≠ .down := by
  intro hdown
  simp [timeoutCode, hdown] at hcode

/-- A wide context on the half that works (R278). -/
def halfWidth (again : Train) (c : PortCtx) : PortCtx :=
  { c with bad := [4 * c.berth], lanes := 2, train := again, locked := false, replay := false }

/-- What a failed lane has a context do: retrain where it was up, else start over (R278, R289). -/
def afterLaneFail (c : PortCtx) : Train := if c.train = .up ∨ c.train = .retrain then .retrain else .detect

theorem execLaneFail_half (hcore : coreRuns s = true) (hctx : ctxAt ctx s = some c) (hlink : ctx ≠ 256) (hlanes : c.lanes = 4)
    (hbad : c.bad = []) (hdown : c.train ≠ .down) :
    execLaneFail ctx (4 * c.berth) s = .next (raise 0x0105 [(evContext, ctx)] (setCtx ctx (halfWidth (afterLaneFail c) c) s)) := by
  have hhalves : halves ctx c = (upto (4 * c.berth) 2, upto (4 * c.berth + 2) 2) :=
    (if_neg hlink).trans (if_pos (.inl hlanes))
  have hworks : ((upto (4 * c.berth + 2) 2) != [] && (upto (4 * c.berth + 2) 2).all fun x => !([4 * c.berth].contains x)) = true := by
    simp [upto, List.range_succ]
    omega
  refine (onCore_of_coreRuns hcore _).trans (congrArg _ ?_)
  simp only [hctx, if_neg hdown, hhalves, hbad, insertSorted, hworks, Bool.or_true, if_true, if_neg hlink, beq_self_eq_true]
  rfl

/-- Settles O47: each state of training has its own branch, and what goes down is an analysis context with nothing queued (R278 to R280,
R287, R289, R290). -/
theorem linkTraining : Obligations.LinkTraining := by
  intro ctx c s hcore hctx
  refine ⟨fun ht => onCore_whenTrain hcore hctx ht _, execEqualizeLock_equalize hcore hctx, execEqualizeLock_retrain hcore hctx,
    fun ht => ⟨_, execBlockLock_align hcore hctx ht⟩, fun i ht hcode hrefuse => execIdentify_accepted hcore hctx ht hcode hrefuse,
    fun ht => onCore_whenTrain hcore hctx ht _, fun rtt ht hfew => execPong_more hcore hctx ht hfew,
    fun rtt ht hlast hmean => ⟨_, execPong_last hcore hctx ht hlast hmean, rfl, ctxAt_setCtx_self, rfl⟩,
    fun rtt ht hrole hcells hlast hmean => ?far,
    fun a b d ht => ⟨_, onCore_whenTrain hcore hctx ht _, rfl, rfl, rfl, rfl, rfl, rfl, rfl, rfl, rfl, rfl⟩,
    fun code hcode hrole hcells => ?timeout, fun hcode => execTrainingTimeout_none hcore hctx hcode,
    fun hlink hlanes hbad hdown hup hretrain => ?restarts, fun hlink hlanes hbad hup => ?retrains⟩
  case far =>
    exact ⟨_, _, execPong_far hcore hctx ht hlast hmean,
      contextDown_analysis_ctx (c := { c with pings := c.pings ++ [rtt] }) ctxAt_setCtx_self (by simp [ht]) hrole hcells 0x0204, rfl, rfl⟩
  case timeout =>
    have hframe := contextDown_analysis hctx (train_of_timeoutCode hcode) hrole hcells code
    refine ⟨_, _, execTrainingTimeout_down hcore hctx hcode,
      contextDown_analysis_ctx hctx (train_of_timeoutCode hcode) hrole hcells code, rfl, rfl, ?_⟩
    rw [hframe.ports_eq, hframe.sw_eq]
    exact hframe
  case restarts =>
    have hagain : afterLaneFail c = .detect := if_neg (by simp [hup, hretrain])
    obtain ⟨t, hexec, hframe, -⟩ := exists_raise (execLaneFail_half hcore hctx hlink hlanes hbad hdown) (by decide)
    exact ⟨t, _, hexec, (ctxAt_congr hframe.ports_eq ctx).trans ctxAt_setCtx_self, hagain, rfl, rfl⟩
  case retrains =>
    have hagain : afterLaneFail c = .retrain := if_pos (.inl hup)
    obtain ⟨t, hexec, hframe, hcode⟩ := exists_raise (execLaneFail_half hcore hctx hlink hlanes hbad (by simp [hup])) (by decide)
    refine ⟨t, _, hexec, (ctxAt_congr hframe.ports_eq ctx).trans ctxAt_setCtx_self, hagain, rfl, rfl, rfl, hcode, ?_⟩
    rw [hframe.ports_eq]
    exact hframe

end

end Sys2Proof.Machine
end

section
/-! PROOFS. BLOCKS OF A LINK (O48). -/

namespace Sys2Proof.Machine
open Sys2Proof

/-! Blocks of a link (R281, R283 to R288). -/

/-- How far a sequence number lies ahead of the last one acknowledged (R285). -/
def aheadOf (c : PortCtx) (x : Nat) : Nat := (x + 4096 - c.lastAck % 4096) % 4096

/-- A kept block as it is sent again (R286). -/
def sentAgain (ctx : Nat) (k : Nat × Cell) : Out := .block ctx k.1 true (k.2.items.flatMap fun i => padTo 16 i.bytes)

section
variable {n ctx ack : Nat} {c : PortCtx} {s : State}

theorem takeAck_frees (hctx : ctxAt ctx s = some c) (hup : c.train = .up)
    (hsent : aheadOf c ack ≤ aheadOf c ((c.nextTx + 4095) % 4096)) (hnew : aheadOf c ack ≠ 0) :
    takeAck ctx ack s = setCtx ctx { c with
      kept := c.kept.filter fun k => decide (aheadOf c ack < aheadOf c k.1), lastAck := ack, resends := 0 } s := by
  have hstay : ¬c.train ≠ .up := fun h => h hup
  unfold takeAck
  simp only [hctx]
  exact (if_neg hstay).trans ((if_neg (Nat.not_lt.mpr hsent)).trans (if_neg hnew))

theorem takeAck_same (hctx : ctxAt ctx s = some c) (hup : c.train = .up) (hold : aheadOf c ack = 0) :
    takeAck ctx ack s = s := by
  have hstay : ¬c.train ≠ .up := fun h => h hup
  have hsent : ¬aheadOf c ((c.nextTx + 4095) % 4096) < aheadOf c ack := by omega
  unfold takeAck
  simp only [hctx]
  exact (if_neg hstay).trans ((if_neg hsent).trans (if_pos hold))

theorem scrubKept_of_role (hctx : ctxAt n s = some c) (hrole : c.role ≠ 1) : scrubKept n s = s := by
  unfold scrubKept
  simp only [hctx]
  exact if_pos hrole

theorem resendFrom_all (hctx : ctxAt n s = some c) :
    resendFrom n none s = { s with out := s.out ++ c.kept.map (sentAgain n) } := by
  unfold resendFrom
  simp only [hctx]
  exact foldl_emit_eq (sentAgain n) _ _

theorem resendFrom_first (hctx : ctxAt n s = some c) {q : Nat} {k : Cell} {r : List (Nat × Cell)} (hkept : c.kept = (q, k) :: r) :
    resendFrom n (some q) s = { s with out := s.out ++ c.kept.map (sentAgain n) } := by
  have hall : (c.kept.dropWhile fun k => k.1 != q) = c.kept := by simp [hkept]
  unfold resendFrom
  simp only [hctx, hall]
  exact foldl_emit_eq (sentAgain n) _ _

theorem execNak_first (hcore : coreRuns s = true) (hctx : ctxAt ctx s = some c) (hup : c.train = .up) (hrole : c.role ≠ 1)
    {q : Nat} {k : Cell} {r : List (Nat × Cell)} (hkept : c.kept = (q, k) :: r) (hq : q = (c.lastAck + 1) % 4096) :
    execNak ctx q s = .next { s with out := s.out ++ c.kept.map (sentAgain ctx) } := by
  have hin : ¬((c.nextTx + 4096 - (c.lastAck + 1) % 4096) % 4096 < (q % 4096 + 4096 - (c.lastAck + 1) % 4096) % 4096 ∨ 4096 ≤ q) := by
    omega
  refine (onCore_whenTrain hcore hctx hup _).trans (congrArg _ ((if_neg hin).trans ?_))
  rw [scrubKept_of_role hctx hrole, resendFrom_first hctx hkept]

/-- A CREDIT total that counts on from the last one counts fully (R288). -/
theorem execCredit_more (hcore : coreRuns s = true) (hctx : ctxAt ctx s = some c) (hup : c.train = .up) {a b d x y z k : Nat}
    (htotal : c.txTotal = [a, b, d]) (hcredit : c.txCredit = [x, y, z]) (ha : a < 65536) (hb : b < 65536) (hd : d < 65536)
    (hk : k < 32768) : execCredit ctx ((a + k) % 65536) b d s =
      .next (setCtx ctx { c with txTotal := [(a + k) % 65536, b, d], txCredit := [x + k, y, z] } s) := by
  have hmod : (a + k) % 65536 % 65536 = (a + k) % 65536 := Nat.mod_mod _ _
  have hmore : ((a + k) % 65536 + 65536 - a) % 65536 = k := by omega
  have hsame : ∀ v, v < 65536 → (v + 65536 - v) % 65536 = 0 := fun v hv => by omega
  refine (onCore_whenTrain hcore hctx hup _).trans (congrArg _ ?_)
  simp only [htotal, hcredit, List.getD_cons_zero, List.getD_cons_succ, hmod, hmore, if_pos hk, Nat.mod_eq_of_lt hb,
    Nat.mod_eq_of_lt hd, hsame b hb, hsame d hd, List.map_cons, List.map_nil, Nat.add_zero, Nat.zero_lt_succ, if_true]

theorem execResendTimeout_again (hcore : coreRuns s = true) (hctx : ctxAt ctx s = some c) (hup : c.train = .up) (hrole : c.role ≠ 1)
    (hkept : c.kept ≠ []) (hfew : c.resends < 8) : ∃ t, execResendTimeout ctx s = .next t ∧
      ctxAt ctx t = some { c with resends := c.resends + 1 } ∧ t.out = s.out ++ c.kept.map (sentAgain ctx) ∧
      t = { s with ports := t.ports, out := t.out } := by
  have hself : ctxAt ctx (setCtx ctx { c with resends := c.resends + 1 } s) = some { c with resends := c.resends + 1 } :=
    ctxAt_setCtx_self
  refine ⟨_, (onCore_whenTrain hcore hctx hup _).trans (congrArg _ ((if_neg hkept).trans (if_neg (Nat.not_le.mpr hfew)))), ?_⟩
  rw [scrubKept_of_role hself hrole, resendFrom_all hself]
  exact ⟨hself, rfl, rfl⟩

theorem execResendTimeout_retrain (hcore : coreRuns s = true) (hctx : ctxAt ctx s = some c) (hup : c.train = .up)
    (hkept : c.kept ≠ []) (hmany : 8 ≤ c.resends) : execResendTimeout ctx s =
      .next (setCtx ctx { c with train := .retrain, replay := true, locked := false } s) :=
  (onCore_whenTrain hcore hctx hup _).trans (congrArg _ ((if_neg hkept).trans (if_pos hmany)))

/-! A block that is discarded (R286, R287). -/

/-- No cell taken under CUT waits for its block to be judged. -/
def NothingCutThrough (s : State) : Prop :=
  (∀ x ∈ s.sw.cells, x.cutThrough = false) ∧ ∀ p ∈ s.ports.ctxs, ∀ k ∈ p.2.kept, k.2.cutThrough = false

theorem withdraw_nothing (hcut : NothingCutThrough s) (hctx : ctxAt n s = some c) (seq : Nat) :
    withdraw n seq s = setCtx n { c with cut := c.cut.filter fun x => x.1 != seq } s := by
  obtain ⟨hcells, hkept⟩ := hcut
  have hwaiting : (s.sw.cells.filter fun c => c.cutThrough && c.origin == some (n, seq)) = [] := by
    rw [List.filter_eq_nil_iff]
    intro x hx
    simp [hcells x hx]
  have hsent : (s.ports.ctxs.flatMap fun p =>
      (p.2.kept.filter fun k => k.2.cutThrough && k.2.origin == some (n, seq)).map fun k => (p.1, k.1)) = [] := by
    rw [List.flatMap_eq_nil_iff]
    intro p hp
    rw [List.map_eq_nil_iff, List.filter_eq_nil_iff]
    intro k hk
    simp [hkept p hp k hk]
  unfold withdraw
  simp only [hwaiting, hsent, hctx, List.length_nil, Nat.add_zero, if_true]

/-- A context that has asked for a block again (R286). -/
def naked (seq : Nat) (c : PortCtx) : PortCtx := { c with cut := c.cut.filter fun x => x.1 != seq, nakFor := some c.nextRx }

theorem discardBlock_naks (hcut : NothingCutThrough s) (hctx : ctxAt n s = some c) (hnak : c.nakFor ≠ some c.nextRx) (seq : Nat) :
    discardBlock n seq false s = emit (.link n 2 [c.nextRx]) (setCtx n (naked seq c) s) := by
  unfold discardBlock
  simp only [withdraw_nothing hcut hctx, ctxAt_setCtx_self, setCtx_setCtx]
  exact if_neg (by simp [hnak])

theorem execBlockReceive_bad (hcore : coreRuns s = true) (hctx : ctxAt ctx s = some c) (hup : c.train = .up) {block : Bytes}
    (hlow : 1 ≤ (linkHdr block).kind) (hhigh : (linkHdr block).kind ≤ 3) (hcrc : linkCrcOk block = false) (stamp : Option Stamp) :
    execBlockReceive ctx block false stamp s = .next (discardBlock ctx (linkHdr block).seq false s) := by
  refine (onCore_whenTrain hcore hctx hup _).trans (congrArg _ ?_)
  have hkind : ¬((linkHdr block).kind = 0 ∨ 3 < (linkHdr block).kind) := by omega
  exact (if_neg hkind).trans (if_pos (by simp [hcrc]))

/-! A block that is accepted (R282, R284, R288). -/

theorem observe_nothing (hmirrors : s.sw.mirrors = []) (hsamplers : s.sw.samplers = []) (ctx : Nat) (egress : Bool)
    (pool cls kind : Nat) (i : Item) : observe ctx egress pool cls kind i s = s := by
  unfold observe
  split
  · rfl
  · simp only [hmirrors, hsamplers, List.zipIdx_nil, List.foldl_nil, ite_self]

theorem wayOf_here (hctx : ctxAt n s = some c) (hrole : c.role = 3) {b : Bytes} (hhome : (reqOf b []).home = self s) :
    wayOf n 1 b s = .here := by
  simp [wayOf, hctx, hrole, hhome]

theorem forwardItems_here (hctx : ctxAt n s = some c) (hrole : c.role = 3) {b : Bytes} (hhome : (reqOf b []).home = self s)
    (hmirrors : s.sw.mirrors = []) (hsamplers : s.sw.samplers = []) (seq u : Nat) : forwardItems n 1 seq [(u, b)] [] s = s := by
  have hway := wayOf_here hctx hrole hhome
  simp [forwardItems, observe_nothing hmirrors hsamplers, hway]

/-- What a block confirmed leaves of a context's kept cells (R295, R300). -/
def confirmCell (n seq : Nat) (c : Cell) : Cell :=
  if c.cutThrough && c.origin == some (n, seq) then { c with cutThrough := false } else c

/-- A context whose kept cells are confirmed. -/
def confirmKept (n seq : Nat) (c : PortCtx) : PortCtx := { c with kept := c.kept.map fun k => (k.1, confirmCell n seq k.2) }

theorem confirmCut_eq (n seq : Nat) (s : State) : confirmCut n seq s = { s with
    sw := { s.sw with cells := s.sw.cells.map (confirmCell n seq) },
    ports := { s.ports with ctxs := s.ports.ctxs.map fun p => (p.1, confirmKept n seq p.2) } } := rfl

theorem ctxAt_confirmCut (hctx : ctxAt ctx s = some c) (n seq : Nat) :
    ctxAt ctx (confirmCut n seq s) = some (confirmKept n seq c) := by
  have hmap := tget_map (confirmKept n seq) s.ports.ctxs ctx
  rw [show tget s.ports.ctxs ctx = some c from hctx] at hmap
  exact hmap

/-- What a credit given back leaves of its context (R288). -/
structure CreditBack (n pool : Nat) (c : PortCtx) (s t : State) : Prop where
  rest : t = { s with ports := t.ports, out := t.out }
  ctx : ∃ k rx total, ctxAt n t = some k ∧ k = { c with rxCredit := rx, rxTotal := total }
  sent : ∃ l, t.out = s.out ++ [.link n 3 l]

theorem returnCredit_back (hctx : ctxAt n s = some c) (pool k : Nat) : CreditBack n pool c s (returnCredit n pool k s) := by
  unfold returnCredit
  simp only [hctx]
  exact ⟨rfl, ⟨_, _, _, ctxAt_setCtx_self, rfl⟩, _, rfl⟩

theorem settleCredit_back (hctx : ctxAt n s = some c) {pool : Nat} (hpool : pool ≠ 3) (hrole : c.role ≠ 1) (hcells : s.sw.cells = [])
    (seq : Nat) : CreditBack n pool c s (settleCredit n pool seq s) := by
  have hback := returnCredit_back hctx pool 1
  have hsettle : settleCredit n pool seq s = returnCredit n pool 1 s := by
    unfold settleCredit
    simp only [hctx]
    exact (if_neg (by simp [hrole])).trans ((if_neg (fun h => hpool h.1)).trans (if_neg (by simp [hcells])))
  rw [hsettle]
  exact hback

/-- A context that has taken a block in sequence (R284). -/
def accepted (h : LinkHdr) (c : PortCtx) : PortCtx :=
  { c with
    nextRx := (c.nextRx + 1) % 4096, nakFor := none,
    rxCredit := c.rxCredit.zipIdx.map fun x => if x.2 + 1 = h.kind then x.1 - 1 else x.1,
    cut := c.cut.filter fun x => x.1 != h.seq }

theorem acceptBlock_here {h : LinkHdr} {p b : Bytes} (hkind : h.kind = 1) (hrole : c.role = 3) (hcut : c.cut = [])
    (hcredit : 0 < c.rxCredit.getD 0 0) (hitems : blockItems 1 h.unitMap p = some [(0, b)]) (hhome : (reqOf b []).home = self s)
    (hmirrors : s.sw.mirrors = []) (hsamplers : s.sw.samplers = []) (stamp : Option Stamp) :
    acceptBlock n h p stamp c s =
      settleCredit n 1 h.seq (emit (.link n 6 [h.seq]) (confirmCut n h.seq (setCtx n (accepted h c) s))) := by
  have hforward := forwardItems_here (n := n) (s := confirmCut n h.seq (setCtx n (accepted h c) s)) (b := b)
    (ctxAt_confirmCut ctxAt_setCtx_self n h.seq) hrole hhome hmirrors hsamplers h.seq 0
  have hbad : ¬((c.role == 2 && h.kind != 2) || c.role == 4 || (c.role == 1 && h.kind == 3 && h.itemKind != 1)) = true := by
    simp [hrole]
  have hpaid : ¬c.rxCredit.getD (h.kind - 1) 0 = 0 := by
    rw [hkind]
    exact Nat.pos_iff_ne_zero.mp hcredit
  have hskip : ((c.cut.filter fun x => x.1 == h.seq).map fun x => x.2) = [] := by
    rw [hcut]
    rfl
  unfold acceptBlock
  simp only [hskip]
  refine (if_neg hbad).trans ((if_neg hpaid).trans ((if_neg (by omega)).trans ?_))
  simp only [hkind, hitems]
  rw [if_neg (by simp [hrole])]
  refine Eq.trans (congrArg (fun t => settleCredit n 1 h.seq (emit (.link n 6 [h.seq]) t)) ?_)
    (congrArg (fun t => settleCredit n 1 h.seq (emit (.link n 6 [h.seq]) t)) hforward)
  unfold accepted
  rw [hkind]

theorem execBlockReceive_good (hcore : coreRuns s = true) (hctx : ctxAt ctx s = some c) (hup : c.train = .up) {block : Bytes}
    (hkind : (linkHdr block).kind = 1) (hcrc : linkCrcOk block = true) (hack : (linkHdr block).ack = c.lastAck)
    (hseq : (linkHdr block).seq = c.nextRx) (hpool : (linkHdr block).pool = 0) (stamp : Option Stamp) :
    execBlockReceive ctx block false stamp s = .next (acceptBlock ctx (linkHdr block) (slice block 12 496) stamp c s) := by
  have hsame : takeAck ctx (linkHdr block).ack s = s := takeAck_same hctx hup (by rw [hack, aheadOf]; omega)
  have hkinds : ¬((linkHdr block).kind = 0 ∨ 3 < (linkHdr block).kind) := by omega
  refine (onCore_whenTrain hcore hctx hup _).trans (congrArg _ ((if_neg hkinds).trans ((if_neg (by simp [hcrc])).trans ?_)))
  simp only [Bool.false_eq_true, if_false, hsame, hctx]
  refine (if_neg (not_not.mpr hup)).trans ((if_neg (not_not.mpr hseq)).trans ?_)
  rw [if_pos hpool]
  simp only [hctx]

/-- Settles O48: each kind of block takes one branch on a context that is up (R281, R283 to R288). -/
theorem linkBlocks : Obligations.LinkBlocks := by
  intro ctx c s hcore hctx hup
  refine ⟨fun ack hsent hnew => (onCore_of_coreRuns hcore _).trans (congrArg _ (takeAck_frees hctx hup hsent hnew)),
    fun hold => (onCore_of_coreRuns hcore _).trans (congrArg _ (takeAck_same hctx hup hold)),
    fun q k r hrole hkept hq _ => execNak_first hcore hctx hup hrole hkept hq,
    fun a b d x y z k htotal hcredit ha hb hd hk => execCredit_more hcore hctx hup htotal hcredit ha hb hd hk,
    onCore_whenTrain hcore hctx hup _, fun hrole hkept hfew => execResendTimeout_again hcore hctx hup hrole hkept hfew,
    fun hkept hmany => execResendTimeout_retrain hcore hctx hup hkept hmany,
    fun block stamp hlow hhigh hcrc hnak hcells hkept => ?bad,
    fun block stamp b hkind hcrc hack _ hseq hpool hrole hcut hcredit hitems hhome hmirrors hsamplers hcells => ?good⟩
  case bad =>
    have hexec := execBlockReceive_bad hcore hctx hup hlow hhigh hcrc stamp
    rw [discardBlock_naks ⟨hcells, hkept⟩ hctx hnak] at hexec
    exact ⟨_, _, hexec, rfl, ctxAt_setCtx_self, rfl, rfl, rfl⟩
  case good =>
    have hexec := execBlockReceive_good hcore hctx hup hkind hcrc hack hseq hpool stamp
    rw [acceptBlock_here hkind hrole hcut hcredit hitems hhome hmirrors hsamplers] at hexec
    have hself : ctxAt ctx (emit (.link ctx 6 [(linkHdr block).seq])
        (confirmCut ctx (linkHdr block).seq (setCtx ctx (accepted (linkHdr block) c) s))) =
        some (confirmKept ctx (linkHdr block).seq (accepted (linkHdr block) c)) := ctxAt_confirmCut ctxAt_setCtx_self _ _
    have hnone : (confirmCut ctx (linkHdr block).seq (setCtx ctx (accepted (linkHdr block) c) s)).sw.cells = [] := by
      change s.sw.cells.map _ = []
      rw [hcells, List.map_nil]
    obtain ⟨hrest, ⟨k, rx, total, hk, rfl⟩, l, hout⟩ := settleCredit_back hself (pool := 1) (by decide)
      (show c.role ≠ 1 by omega) hnone (linkHdr block).seq
    refine ⟨_, _, hexec, hk, rfl, rfl, hup, ?_, ?_, ?_⟩
    · rw [hout, ← hseq]
      exact List.mem_append_left _ (List.mem_append_right _ List.mem_cons_self)
    · rw [hrest]
      exact hnone
    · rw [hrest]
      rfl

end

end Sys2Proof.Machine
end

section
/-! PROOFS. SPANS AND LINK FRAMES (O49, O50). -/

namespace Sys2Proof.Machine
open Sys2Proof

/-! A span that went down (R291, R342). -/

section
variable {ctx : Nat} {c : PortCtx} {s : State}

/-- A span context that is down keeps its blocks for another span (R291). -/
def spanDowned (cause : Nat) (c : PortCtx) : PortCtx :=
  { c with train := .down, cause := cause, kept := c.kept, channels := [], cut := [], nakFor := none, owed := 0, owedStream := 0,
           txOpen := [] }

theorem contextDown_down (hctx : ctxAt ctx s = some c) (hdown : c.train = .down) (cause : Nat) :
    contextDown ctx cause s = s := by
  unfold contextDown
  split
  · rfl
  · next d hd =>
    obtain rfl : c = d := Option.some.inj (hctx.symm.trans hd)
    exact if_pos hdown

theorem reportDown_fold (n cause : Nat) (s : State) :
    raise 0x0209 [(evContext, n), (evDetail, cause)] (recordReason cause s) = reportDown n cause s := rfl

theorem ctxAt_reportDown (n cause : Nat) (d : PortCtx) (s : State) : ctxAt n (reportDown n cause (setCtx n d s)) = some d :=
  (ctxAt_congr (reportDown_frame _ _ _).ports_eq n).trans ctxAt_setCtx_self

/-- A span context that goes down asks its partner for the last number it accepted. -/
theorem contextDown_span (hctx : ctxAt ctx s = some c) (hup : c.train ≠ .down) (hrole : c.role = 3) (cause : Nat) :
    ∃ u dev since, answerFrame (setCtx ctx (spanDowned cause c) s) u ∧ contextDown ctx cause s =
      control (some dev) ctlSeqQuery [dev, ctx] (setCtx ctx { spanDowned cause c with spanWait := some since } u) := by
  have hframe := reportDown_frame ctx cause (setCtx ctx (spanDowned cause c) s)
  have h1 : ¬c.role = 1 := by omega
  have h2 : ¬c.role = 2 := by omega
  refine ⟨reportDown ctx cause (setCtx ctx (spanDowned cause c) s),
    (match c.partner with | some i => i.deviceId % 64 | none => 64),
    (reportDown ctx cause (setCtx ctx (spanDowned cause c) s)).tide.count, hframe, ?_⟩
  unfold contextDown
  simp only [hctx, if_neg hup, if_neg h1, if_neg h2, if_pos hrole, reportDown_fold, ctxAt_reportDown]
  rfl

/-- What the answer to a span's query leaves of the context: down, with the blocks it kept. -/
theorem contextDown_spanKept (hctx : ctxAt ctx s = some c) (hrole : c.role = 3) (cause : Nat) :
    self (contextDown ctx cause s) = self s ∧
      ∃ k, ctxAt ctx (contextDown ctx cause s) = some k ∧ k.train = .down ∧ k.kept = c.kept := by
  by_cases hdown : c.train = .down
  · rw [contextDown_down hctx hdown]
    exact ⟨rfl, c, hctx, hdown, rfl⟩
  · obtain ⟨u, dev, since, hframe, heq⟩ := contextDown_span hctx hdown hrole cause
    rw [heq, control_eq]
    exact ⟨hframe.devid_eq, _, ctxAt_setCtx_self, rfl, rfl⟩

theorem execSpanSeqQuery_span (hcore : coreRuns s = true) (hctx : ctxAt ctx s = some c) (hrole : c.role = 3) (device : Nat) :
    execSpanSeqQuery device ctx s =
      .next (control (some device) ctlSeqAnswer [device, ctx, (c.nextRx + 4095) % 4096] (contextDown ctx 0 s)) := by
  refine (onCore_of_coreRuns hcore _).trans (congrArg _ ?_)
  simp only [hctx]
  exact if_neg (not_not.mpr hrole)

/-- A span's kept block on its way by another span (R291). -/
def byOther (ctx m : Nat) (k : Cell) (c : PortCtx) (s : State) : State :=
  { setCtx ctx { c with kept := [], spanWait := none } s with
    pilot := { s.pilot with resends := tput s.pilot.resends m (tgetD s.pilot.resends m [] ++ [{ k with ctx := m }]) } }

theorem execSpanSeqAnswer_other (hcore : coreRuns s = true) (hctx : ctxAt ctx s = some c) {seq t0 m q : Nat} {k : Cell}
    (hwait : c.spanWait = some t0) (hdown : c.train = .down) (hother : otherSpan ctx c s = some m) (hkept : c.kept = [(q, k)])
    (hahead : aheadOf c seq < aheadOf c q) :
    execSpanSeqAnswer ctx seq s = .next (raise 0x020A [(evContext, ctx), (evCount, 1)] (byOther ctx m k c s)) := by
  have hlist : ((c.kept.filter fun k => decide ((seq + 4096 - c.lastAck % 4096) % 4096 < (k.1 + 4096 - c.lastAck % 4096) % 4096)).map
      fun k => k.2) = [k] := by
    rw [hkept, List.filter_cons_of_pos (by simpa [aheadOf] using hahead)]
    rfl
  refine (onCore_of_coreRuns hcore _).trans (congrArg _ ?_)
  simp only [hctx, hother, hlist, List.cons_ne_nil, if_false, List.map_cons, List.map_nil]
  exact if_neg (by simp [hwait, hdown])

theorem execSpanAnswerTimeout_due (hcore : coreRuns s = true) (hctx : ctxAt ctx s = some c) {t0 : Nat} {i : Ident}
    (hwait : c.spanWait = some t0) (hpartner : c.partner = some i) (hdue : t0 + 16 ≤ s.tide.count) :
    execSpanAnswerTimeout ctx s = .next (
      if isMaster s then { setCtx ctx { c with spanWait := none } s with
        ring := { s.ring with spanReports := tput s.ring.spanReports (i.deviceId % 64) s.tide.count } }
      else control (some s.tide.master) ctlSpanReport [i.deviceId % 64] (setCtx ctx { c with spanWait := none } s)) := by
  refine (onCore_of_coreRuns hcore _).trans (congrArg _ ?_)
  simp only [hctx, hwait, hpartner]
  exact if_pos hdue

end

/-- Settles O49: what a span that goes down keeps is answered for, resent by another span, or reported (R291, R342). -/
theorem spanLoss : Obligations.SpanLoss := by
  intro ctx c s hcore hctx
  refine ⟨fun device hrole => ?query, fun seq t0 m q k => ?answer, fun t0 i hwait hpartner hdue hmaster => ?report,
    fun t0 i hwait hpartner hdue hfollower => ?tell⟩
  case query =>
    obtain ⟨hself, k, hk, hdown, hkept⟩ := contextDown_spanKept hctx hrole 0
    obtain ⟨x, hx, hmsg⟩ := control_posts_some device ctlSeqAnswer [device, ctx, (c.nextRx + 4095) % 4096] (contextDown ctx 0 s)
    rw [hself] at hmsg
    refine ⟨_, x, k, _, execSpanSeqQuery_span hcore hctx hrole device, hx, hmsg, ?_, hdown, hkept⟩
    rw [control_eq]
    exact hk
  case answer =>
    intro ahead hwait hdown hother hkept hahead
    obtain ⟨t, hexec, hframe, hcode⟩ := exists_raise (execSpanSeqAnswer_other hcore hctx hwait hdown hother hkept hahead) (by decide)
    refine ⟨t, hexec, (ctxAt_congr hframe.ports_eq ctx).trans ctxAt_setCtx_self, ?_, hcode, ?_⟩
    · rw [hframe.pilot_eq]
      exact tget_tput_self _ _ _
    · rw [hframe.ports_eq, hframe.pilot_eq]
      exact hframe
  case report =>
    have hexec := execSpanAnswerTimeout_due hcore hctx hwait hpartner hdue
    rw [if_pos hmaster] at hexec
    exact ⟨_, hexec, ctxAt_setCtx_self, rfl, rfl⟩
  case tell =>
    have hexec := execSpanAnswerTimeout_due hcore hctx hwait hpartner hdue
    rw [if_neg (by simp [hfollower])] at hexec
    obtain ⟨x, hx, hmsg⟩ := control_posts_some s.tide.master ctlSpanReport [i.deviceId % 64] (setCtx ctx { c with spanWait := none } s)
    refine ⟨_, x, _, hexec, ?_, hx, hmsg⟩
    rw [control_eq]
    exact ctxAt_setCtx_self

/-! Link frames (R238, R240, R241, R246). -/

section
variable {ctx : Nat} {k : LinkCodec} {s : State}

/-- A codec whose gathered items are closed into its only frame (R240). -/
def gatheredClosed (k : LinkCodec) (s : State) : LinkCodec :=
  { k with gather := [], closed := [{ seq := 0, since := s.refCycles, items := k.gather }] }

theorem execLinkFrameTimeout_closes (hcore : coreRuns s = true) (hk : tget s.ports.codecs ctx = some k) (hgather : k.gather ≠ [])
    (hclosed : k.closed = []) (hwaited : waited k.since k.maxWait s = true) :
    execLinkFrameTimeout ctx s = .next (setCodec ctx (gatheredClosed k s) s) := by
  refine (onCore_of_coreRuns hcore _).trans (congrArg _ ?_)
  simp only [hk, hclosed, List.takeWhile_nil, List.length_nil, List.drop_nil, List.foldl_nil, Nat.add_zero]
  refine congrArg (fun x => setCodec ctx x s) ((if_pos ⟨hgather, hwaited⟩).trans ((if_neg hgather).trans ?_))
  rfl

theorem execLinkFrameTimeout_early (hcore : coreRuns s = true) (hk : tget s.ports.codecs ctx = some k)
    (hclosed : k.closed = []) (hwaited : waited k.since k.maxWait s = false) :
    execLinkFrameTimeout ctx s = .next (setCodec ctx k s) := by
  have hsame : { k with closed := [] } = k := by rw [← hclosed]
  have hcond : ¬(k.gather ≠ [] ∧ waited k.since k.maxWait s = true) := by simp [hwaited]
  refine (onCore_of_coreRuns hcore _).trans (congrArg _ ?_)
  simp only [hk, hclosed, List.takeWhile_nil, List.length_nil, List.drop_nil, List.foldl_nil, Nat.add_zero]
  exact congrArg (fun x => setCodec ctx x s) ((if_neg hcond).trans hsame)

/-- A frame that has come waits behind those before it (R241). -/
def frameWaits (ctx : Nat) (f : Bytes × Bytes) (k : LinkCodec) (s : State) : State := setCodec ctx { k with rx := k.rx ++ [f] } s

/-- The cycles of a frame counted on the codec that serves its context (R241). -/
def frameServed (ctx e cost : Nat) (s : State) : State :=
  setBook .codec e { bookOf .codec e s with used := (bookOf .codec e s).used + cost, served := some ctx } s

theorem useCycles_served (ctx e cost : Nat) (s : State) :
    setBook .codec e { bookOf .codec e (useCycles .codec e cost s) with served := some ctx } (useCycles .codec e cost s) =
      frameServed ctx e cost s := by
  have hbook : bookOf .codec e (useCycles .codec e cost s) = { bookOf .codec e s with used := (bookOf .codec e s).used + cost } :=
    tgetD_tput_self _ _ _ _
  rw [hbook]
  simp only [useCycles, setBook, frameServed, tput_tput_self]

theorem execLinkFrameReceive_served (hcore : coreRuns s = true) (hk : tget s.ports.codecs ctx = some k) {c : PortCtx}
    (hctx : ctxAt ctx s = some c) (hrole : c.role = 3) {header payload : Bytes} {e : Nat} (hrx : k.rx = [])
    (hserve : mayServe ctx (frameCost header) s = some e) : execLinkFrameReceive ctx header payload s =
      .next (decodeFrame ctx (frameServed ctx e (frameCost header) (frameWaits ctx (header, payload) k s))) := by
  have hserve' : mayServe ctx (frameCost header) (setCodec ctx { k with rx := [(header, payload)] } s) = some e := hserve
  refine (onCore_of_coreRuns hcore _).trans (congrArg _ ?_)
  simp only [hctx]
  refine (if_neg (not_not.mpr hrole)).trans ?_
  simp only [hk, Option.getD_some, hrx, List.nil_append, hserve', useCycles_served]
  unfold frameWaits
  rw [hrx]
  rfl

theorem execLinkFrameReceive_waits (hcore : coreRuns s = true) (hk : tget s.ports.codecs ctx = some k) {c : PortCtx}
    (hctx : ctxAt ctx s = some c) (hrole : c.role = 3) {header payload : Bytes}
    (hbusy : k.rx ≠ [] ∨ mayServe ctx (frameCost header) s = none) :
    execLinkFrameReceive ctx header payload s = .next (frameWaits ctx (header, payload) k s) := by
  refine (onCore_of_coreRuns hcore _).trans (congrArg _ ?_)
  simp only [hctx]
  refine (if_neg (not_not.mpr hrole)).trans ?_
  simp only [hk, Option.getD_some]
  split
  · next hrx hserve => exact absurd ((hbusy.resolve_left (not_not.mpr hrx)).symm.trans hserve) (by simp)
  · rfl

/-- A codec that has taken its first frame (R238). -/
def frameTaken (k : LinkCodec) : LinkCodec := { k with rx := [], rxSeq := (k.rxSeq + 1) % 2 ^ 32, rxBase := k.rxBase + 1 }

variable {header payload : Bytes}

theorem decodeFrame_bad (hk : tget s.ports.codecs ctx = some k) (hrx : k.rx = [(header, payload)])
    (hheader : ktcHeaderOk header = false) (hbad : (decodeBlock header payload 0 k.rxSeq (headerOf header).raw).1 ≠ 0) :
    decodeFrame ctx s = emit (.link ctx 10 [k.rxSeq]) (setCodec ctx (frameTaken k) s) := by
  unfold decodeFrame
  simp only [hk, hrx, hheader, Bool.false_and, Bool.false_eq_true, if_false]
  exact if_pos hbad

theorem decodeFrame_good (hk : tget s.ports.codecs ctx = some k) (hrx : k.rx = [(header, payload)])
    (hindex : (headerOf header).index = k.rxSeq) {raw : Bytes} {x : Nat × Nat × Bytes}
    (hgood : decodeBlock header payload 0 k.rxSeq (headerOf header).raw = (0, raw)) (hitems : frameItems (raw.length + 1) raw = [x]) :
    decodeFrame ctx s = releaseItem ctx x (emit (.link ctx 8 [k.rxSeq]) (setCodec ctx (frameTaken k) s)) := by
  have hbehind : ¬(ktcHeaderOk header && (headerOf header).objectId == 0 &&
      decide (1 ≤ (k.rxSeq + 2 ^ 32 - (headerOf header).index) % 2 ^ 32 ∧
        (k.rxSeq + 2 ^ 32 - (headerOf header).index) % 2 ^ 32 < 2 ^ 31)) = true := by
    rw [hindex, Nat.add_sub_cancel_left, Nat.mod_self]
    simp
  unfold decodeFrame
  simp only [hk, hrx, hgood]
  refine (if_neg hbehind).trans ((if_neg (by simp)).trans ?_)
  rw [hitems]
  rfl

theorem wayOf_other {c : PortCtx} (hctx : ctxAt ctx s = some c) (hrole : c.role = 3) {b : Bytes} {m : RouteMap} {e : Nat}
    (hhome : (reqOf b []).home ≠ self s) (hmap : mapOf (reqOf b []).routeEpoch s = some m)
    (hdev : deviceCtx (reqOf b []).home m s = some e) : wayOf ctx 1 b s = .ctx e := by
  simp [wayOf, hctx, hrole, hhome, hmap, hdev]

theorem releaseItem_onward {c : PortCtx} (hctx : ctxAt ctx s = some c) (hrole : c.role = 3) {b : Bytes} {m : RouteMap} {e : Nat}
    (hhome : (reqOf b []).home ≠ self s) (hmap : mapOf (reqOf b []).routeEpoch s = some m)
    (hdev : deviceCtx (reqOf b []).home m s = some e) (hcodec : tget s.ports.codecs e = none)
    (hmirrors : s.sw.mirrors = []) (hsamplers : s.sw.samplers = []) (cls : Nat) :
    Queued (portOf ctx 1 s) e 1 (arrivedItem 1 b).2 (arrivedItem 1 b).1 s (releaseItem ctx (1, cls, b) s) := by
  unfold releaseItem
  simp only [observe_nothing hmirrors hsamplers, wayOf_other hctx hrole hhome hmap hdev]
  rw [if_neg (by decide), enterItem_of_none hcodec]
  exact enterPlain_queued (by decide) _ _ _ _ _ _ _

theorem sendPlain_one (cls : Nat) (i : Item) (s : State) : Queued homePort ctx 1 cls i s (sendPlain ctx [(1, cls, i)] s) :=
  enterPlain_queued (by decide) homePort ctx cls 0 0 i s

theorem execLinkFrameAck_found (hcore : coreRuns s = true) (hk : tget s.ports.codecs ctx = some k) (seq : Nat) :
    execLinkFrameAck ctx seq s = .next (setCodec ctx { k with sent := k.sent.filter fun f => f.seq != seq } s) := by
  refine (onCore_of_coreRuns hcore _).trans (congrArg _ ?_)
  simp only [hk]

theorem execLinkFrameNack_found (hcore : coreRuns s = true) (hk : tget s.ports.codecs ctx = some k) {f : Frame}
    (hsent : k.sent = [f]) : execLinkFrameNack ctx f.seq s =
      .next (raise 0x0D0A [(evContext, ctx)] (sendPlain ctx f.items (setCodec ctx { k with sent := [] } s))) := by
  have hfind : [f].find? (fun g => g.seq == f.seq) = some f := by simp
  have hgone : [f].filter (fun g => g.seq != f.seq) = [] := by simp
  refine (onCore_of_coreRuns hcore _).trans (congrArg _ ?_)
  simp only [hk, hsent, hfind, hgone]

end

/-- Settles O50: a frame is closed, decoded, refused or acknowledged by one branch each; what it releases is queued as an item of its
own (R238, R240, R241, R246). -/
theorem linkFrames : Obligations.LinkFrames := by
  intro ctx k s hcore hk
  refine ⟨fun hgather hclosed hwaited =>
      ⟨_, _, _, execLinkFrameTimeout_closes hcore hk hgather hclosed hwaited, rfl, rfl, rfl, rfl, rfl⟩,
    fun _ hclosed hwaited => execLinkFrameTimeout_early hcore hk hclosed hwaited,
    fun c header payload hctx hrole hheader hbad e hrx hserve => ?bad,
    fun c header payload hctx hrole hbusy => execLinkFrameReceive_waits hcore hk hctx hrole hbusy,
    fun c header payload raw cls b m e g hctx hrole hrx hserve hindex _ hgood hitems hhome hmap hdev hother hcodec hmirrors hsamplers =>
      ?good, fun seq => execLinkFrameAck_found hcore hk seq, fun seq f cls i hsent hseq hitems => ?nack⟩
  case bad =>
    have hexec := execLinkFrameReceive_served (payload := payload) hcore hk hctx hrole hrx hserve
    rw [decodeFrame_bad (k := { k with rx := k.rx ++ [(header, payload)] }) (tget_tput_self _ _ _) (by rw [hrx]; rfl) hheader hbad] at hexec
    refine ⟨_, hexec, rfl, tgetD_tput_self _ _ _ _, ?_, rfl, rfl, rfl⟩
    refine (tget_tput_self _ _ _).trans (congrArg some ?_)
    rw [frameTaken, ← hrx]
  case good =>
    have hexec := execLinkFrameReceive_served (payload := payload) hcore hk hctx hrole hrx hserve
    rw [decodeFrame_good (k := { k with rx := k.rx ++ [(header, payload)] }) (tget_tput_self _ _ _) (by rw [hrx]; rfl) hindex hgood hitems]
      at hexec
    have hcodec' : tget (setCodec ctx (frameTaken k) (frameServed ctx g (frameCost header) (frameWaits ctx (header, payload) k s))).ports.codecs
        e = none := (tget_tput_ne _ _ hother.symm).trans ((tget_tput_ne _ _ hother.symm).trans hcodec)
    obtain ⟨hrest, x, hcells, hxctx, -, -, -, hxitems⟩ := releaseItem_onward
      (s := emit (.link ctx 8 [k.rxSeq]) (setCodec ctx (frameTaken k) (frameServed ctx g (frameCost header)
        (frameWaits ctx (header, payload) k s)))) hctx hrole hhome hmap hdev hcodec' hmirrors hsamplers cls
    refine ⟨_, x, _, hexec, ?_, ?_, hcells, hxctx, hxitems, rfl⟩
    · exact (congrArg State.out hrest).trans rfl
    · refine (congrArg (fun t : State => tget t.ports.codecs ctx) hrest).trans ((tget_tput_self _ _ _).trans (congrArg some ?_))
      rw [frameTaken, ← hrx]
  case nack =>
    have hexec := execLinkFrameNack_found hcore hk hsent
    rw [hseq, hitems] at hexec
    obtain ⟨t, hexec, hframe, hcode⟩ := exists_raise hexec (by decide)
    obtain ⟨hrest, x, hcells, hxctx, -, -, -, hxitems⟩ := sendPlain_one (ctx := ctx) cls i (setCodec ctx { k with sent := [] } s)
    refine ⟨t, x, hexec, ?_, ?_, hxctx, hxitems, hcode, ?_⟩
    · rw [hframe.ports_eq, hrest]
      exact tget_tput_self _ _ _
    · rw [hframe.sw_eq]
      exact hcells
    · rw [hframe.ports_eq, hframe.sw_eq]
      rw [hrest] at hframe ⊢
      exact hframe

end Sys2Proof.Machine
end

section
/-! PROOFS. THE SWITCH CORE'S MOVES (O51). -/

namespace Sys2Proof.Machine
open Sys2Proof

/-! The switch core's planes, slots and samples (R287, R291, R297, R298, R300, R325). -/

theorem rotating_one (p i : Nat) : rotating p [i] = some i := by
  by_cases h : p ≤ i <;> simp [rotating, sorted_one, h]

section
variable {plane i o : Nat} {m : Matching}

theorem iterate_first (hpairs : m.pairs = []) : (iterate plane true [(i, o)] m).pairs = [(i, o)] := by
  simp [iterate, hpairs, sorted_one, rotating_one]

theorem iterate_again (hpairs : m.pairs = [(i, o)]) : (iterate plane false [(i, o)] m).pairs = [(i, o)] := by
  simp [iterate, hpairs, sorted]

end

/-- The plane's matching after its three iterations (R298). -/
def planeMatching (plane : Nat) (s : State) : Matching :=
  iterate plane false (requestsNow s).dedup (iterate plane false (requestsNow s).dedup
    (iterate plane true (requestsNow s).dedup { pairs := [], grant := s.sw.grant, accept := s.sw.accept }))

section
variable {ctx plane : Nat} {s : State}

theorem planeMatching_one {i o : Nat} (hone : (requestsNow s).dedup = [(i, o)]) : (planeMatching plane s).pairs = [(i, o)] := by
  unfold planeMatching
  rw [hone]
  exact iterate_again (iterate_again (iterate_first rfl))

theorem execPlaneMatch_runs (hcore : coreRuns s = true) : execPlaneMatch plane s = .next { s with sw := { s.sw with
    grant := (planeMatching plane s).grant, accept := (planeMatching plane s).accept,
    matched := tput s.sw.matched plane (planeMatching plane s).pairs } } := onCore_of_coreRuns hcore _

/-- A credit of the second pool taken, and none of the first (R288). -/
theorem paid_getD (l : List Nat) :
    (l.zipIdx.map fun x => if x.2 + 1 = 2 then x.1 - 1 else x.1).getD 1 0 = l.getD 1 0 - 1 ∧
    (l.zipIdx.map fun x => if x.2 + 1 = 2 then x.1 - 1 else x.1).getD 0 0 = l.getD 0 0 := by
  match l with
  | [] => exact ⟨rfl, rfl⟩
  | [a] => exact ⟨rfl, rfl⟩
  | a :: b :: r => exact ⟨rfl, rfl⟩

theorem observeCell_nothing (hmirrors : s.sw.mirrors = []) (hsamplers : s.sw.samplers = []) (role : Nat) {c : Cell}
    (hpool : c.pool ≠ 3) : observeCell ctx role c s = s := by
  unfold observeCell
  rw [if_neg hpool]
  split
  · rfl
  · exact foldl_fixed fun i _ => observe_nothing hmirrors hsamplers _ _ _ _ _ i

/-- A span's context that has sent a cell of the response pool (R285, R287). -/
def sentFrom (ctx : Nat) (c : Cell) (p : PortCtx) : PortCtx :=
  { p with
    nextTx := (p.nextTx + 1) % 4096, txCredit := p.txCredit.zipIdx.map fun x => if x.2 + 1 = c.pool then x.1 - 1 else x.1,
    kept := p.kept ++ [(p.nextTx, { c with ctx := ctx })] }

theorem transmit_response {c : Cell} {p : PortCtx} (hctx : ctxAt ctx s = some p) (hrole : p.role = 3) (hpool : c.pool = 2)
    (hmirrors : s.sw.mirrors = []) (hsamplers : s.sw.samplers = []) (k : Nat) : transmit ctx k false c s =
      emit (.block ctx p.nextTx false (c.items.flatMap fun i => padTo 16 i.bytes)) (setCtx ctx (sentFrom ctx c p) s) := by
  have h1 : ¬p.role = 1 := by omega
  have h3 : ¬c.pool = 3 := by omega
  unfold transmit
  simp only [Bool.false_eq_true, if_false, hctx, if_neg h1, observeCell_nothing hmirrors hsamplers _ h3]
  unfold sendBlock
  simp only [hctx, if_neg h3]
  rfl

theorem execTransmitSlot_resend (hcore : coreRuns s = true) (hup : ctxUp ctx s = true) {c : Cell}
    (hresends : tgetD s.pilot.resends ctx [] = [c]) (hpool : c.pool = 2) (hfree : slotFree ctx 2 s = true) :
    execTransmitSlot ctx 0 s =
      .next (transmit ctx 0 false c { s with pilot := { s.pilot with resends := tdel s.pilot.resends ctx } }) := by
  have hchannel : channelFor ctx c s = some 0 := if_pos (by omega)
  refine (onCore_of_coreRuns hcore _).trans (congrArg _ ((if_neg (by simp [hup])).trans ?_))
  simp only [hresends, hchannel, hpool, hfree]
  rfl

theorem execCutItemArrive_enters (hcore : coreRuns s = true) {c x : PortCtx} {m : RouteMap} {k unit : Nat} {item : Bytes}
    (hctx : ctxAt ctx s = some c) (hup : c.train = .up) (hrole : c.role = 3) (hlink : ctx ≠ 256)
    (hhome : (reqOf item []).home ≠ self s) (hmap : mapOf (reqOf item []).routeEpoch s = some m)
    (hdev : deviceCtx (reqOf item []).home m s = some k) (hx : ctxAt k s = some x) (hlanes : c.lanes ≤ x.lanes)
    (hcutting : (16 * ctx + (reqOf item []).tclass) ∈ s.sw.cut) (hnew : (c.nextRx, unit) ∉ c.cut)
    (hcodec : tget s.ports.codecs k = none) (hmirrors : s.sw.mirrors = []) (hsamplers : s.sw.samplers = []) :
    execCutItemArrive ctx c.nextRx unit 1 item s = .next (nameCell (enterCell
      { cellFor (portOf ctx 1 (setCtx ctx { c with cut := c.cut ++ [(c.nextRx, unit)] } s)) k 1 (arrivedItem 1 item).2
          [(arrivedItem 1 item).1] (setCtx ctx { c with cut := c.cut ++ [(c.nextRx, unit)] } s) with
        origin := some (ctx, c.nextRx), cutThrough := true } (setCtx ctx { c with cut := c.cut ++ [(c.nextRx, unit)] } s))) := by
  have hway := wayOf_other hctx hrole hhome hmap hdev
  have hobserve := observe_nothing (s := setCtx ctx { c with cut := c.cut ++ [(c.nextRx, unit)] } s) hmirrors hsamplers ctx false 1
    (arrivedItem 1 item).2 0 (arrivedItem 1 item).1
  have hgo : ¬(ctx = 256 ∨ c.nextRx ≠ c.nextRx ∨ decide (x.lanes < c.lanes) = true ∨
      s.sw.cut.contains (16 * ctx + (arrivedItem 1 item).2) = false ∨ c.cut.contains (c.nextRx, unit) = true ∨
      (gathers k 1 (arrivedItem 1 item).2 0 (arrivedItem 1 item).1 s).isSome = true) := by
    have hclass : (arrivedItem 1 item).2 = (reqOf item []).tclass := rfl
    simp [hlink, hclass, hcutting, hnew, gathers_of_none hcodec]
    omega
  refine (onCore_whenTrain hcore hctx hup _).trans (congrArg _ ?_)
  simp only [if_true, hway, hx]
  refine (if_neg hgo).trans ?_
  rw [hobserve]

theorem baseOf_of_lt {q : Nat} (hq : q < 12336) : baseOf q s = some q := if_pos hq

/-- A queue's first sample, of one cell and no latency target (R325). -/
theorem sampleQueue_first {c : Cell} (hcells : s.sw.cells = [c]) (hrecs : s.pilot.recs = []) {cls : Nat}
    (htarget : tgetD s.pilot.targets cls 0 = 0) : ∃ r, sampleQueue c.queue cls s = { s with pilot := { s.pilot with
      recs := [(c.queue, r)] } } ∧ r.lastDepth = 1 ∧ r.maxDepth = 1 ∧ r.overTarget = 0 := by
  have hdepth : ([c].filter fun x => x.queue == c.queue).length = 1 := by simp
  have hrec : tgetD s.pilot.recs c.queue rec0 = rec0 := by rw [hrecs]; rfl
  have hput : ∀ r : QueueRec, tput s.pilot.recs c.queue r = [(c.queue, r)] := fun r => by rw [hrecs]; rfl
  unfold sampleQueue
  simp only [hcells, hdepth, hrec, hput, htarget]
  exact ⟨_, rfl, rfl, rfl, rfl⟩

theorem execLatencySample_one (hcore : coreRuns s = true) {c : Cell} (hcells : s.sw.cells = [c]) (hrecs : s.pilot.recs = [])
    (hq : c.queue < 12336) (hdata : isData (queueClass c.queue) s = true) (hrate : tgetD s.pilot.ks (queueClass c.queue) 4 = 0)
    (hopen : queueConfidential c.queue s = false) :
    execLatencySample s = .next (sampleQueue c.queue (queueClass c.queue) s) := by
  have hqueues : sorted ((s.sw.cells.map fun c => c.queue) ++ s.pilot.recs.map fun p => p.1) = [c.queue] := by
    rw [hcells, hrecs]
    rfl
  refine (onCore_of_coreRuns hcore _).trans (congrArg _ ?_)
  simp only [hqueues, List.foldl_cons, List.foldl_nil, baseOf_of_lt hq, hrate, hopen, hdata]
  simp [Nat.mod_one]

end

/-- Settles O51: a lone request is matched, a resent cell is the next block, a cut item is a cell at once, a lone cell's queue is sampled
(R287, R291, R297, R298, R300, R325). -/
theorem switchMoves : Obligations.SwitchMoves := by
  intro s hcore
  refine ⟨fun plane i o hone => ?matched, fun ctx c p hup hresends hpool hfree hctx hrole hmirrors hsamplers => ?resent,
    fun ctx unit item c m k x => ?cut, fun c hcells hrecs hq hdata hrate hopen htarget => ?sampled⟩
  case matched =>
    refine ⟨_, execPlaneMatch_runs hcore, rfl, ?_, rfl⟩
    change tput s.sw.matched plane _ = _
    rw [planeMatching_one hone]
  case resent =>
    have hexec := execTransmitSlot_resend hcore hup hresends hpool hfree
    rw [transmit_response (by exact hctx) hrole hpool (by exact hmirrors) (by exact hsamplers)] at hexec
    obtain ⟨hpaid, hkept⟩ := paid_getD p.txCredit
    refine ⟨_, _, hexec, rfl, rfl, tget_tdel_self _ _, ctxAt_setCtx_self, rfl, rfl, ?_, ?_⟩
    · rw [sentFrom, hpool]
      exact hpaid
    · rw [sentFrom, hpool]
      exact hkept
  case cut =>
    intro r hctx hup hrole hlink hhome hmap hdev hx hlanes hcutting hnew hcodec hmirrors hsamplers
    exact ⟨_, _, _, _, execCutItemArrive_enters hcore hctx hup hrole hlink hhome hmap hdev hx hlanes hcutting hnew hcodec hmirrors
      hsamplers, rfl, rfl, rfl, rfl, rfl, rfl, ctxAt_setCtx_self, rfl, rfl⟩
  case sampled =>
    obtain ⟨r, hsample, hlast, hmax, hover⟩ := sampleQueue_first hcells hrecs htarget
    exact ⟨_, r, (execLatencySample_one hcore hcells hrecs hq hdata hrate hopen).trans (congrArg _ hsample), rfl, rfl, hlast, hmax,
      hover⟩

end Sys2Proof.Machine
end

section
/-! PROOFS. THE ANSWER OF A READ (O46). -/

namespace Sys2Proof.Machine
open Sys2Proof

/-! A READ's answer that gives a cached line back to its home (R68, R118). -/

/-- A line held in S for the combining cache alone. -/
def cachedLine : FilterEnt :=
  { line := 0, entry := 0, generation := 0, charter := 0, home := 0, vas := [], state := 1, holders := [], vector := 0, cached := true,
    asking := none, releasing := none, recalls := [], dirty := none, owed := none, lost := false }

/-- A READ of host 5 of the granule at address 0. -/
def readPacket : FabReq :=
  { opcode := opRead, length := 64, charter := 1, srcEngine := false, source := 5, tag := 3, address := 0, entry := 0, generation := 0,
    routeEpoch := 0, home := 0, tclass := 0, sealWindow := 0, jobValid := false, jobDevice := 0, jobSlot := 0, attempt := 0, parts := 1,
    aux := 0, payload := [] }

/-- The same as it is outstanding. -/
def readAlone : Outst :=
  { host := 5, ctx := 0, tag := 3, tclass := 0, opcode := opRead, req := readPacket, sent := true, waits := false, engine := none,
    since := 0 }

/-- Its data. -/
def readData : Resp :=
  { opcode := opData, dstEngine := false, destination := 5, tag := 3, reason := 0, ll := 0, responder := 0, parts := 1, aux := 0,
    data := zeros 64 }

/-- A context of host 5 that is up. -/
def hostPort : PortCtx :=
  { khlReset with berth := 0, role := 1, host := 5, coherent := false, enable := true, train := .up, lanes := 4 }

/-- The READ is outstanding while the combining cache holds the granule, as a coherent line held for it. -/
def readWithCachedLine : State :=
  { State.reset with
    ports := { State.reset.ports with ctxs := [(0, hostPort)] },
    ing := { State.reset.ing with
      outst := [readAlone], filter := [cachedLine],
      cache := [(0, { entry := 0, charter := 1, generation := 0, filled := 0, cls := 1, data := zeros 64 })] } }

/-- The answer drops the cached copy, and the line's release is then outstanding. -/
theorem release_outstanding : ∃ t, exec (.responseReceive readData) readWithCachedLine = .next t ∧ t.ing.outst.length = 1 :=
  ⟨_, rfl, by decide⟩

/-- Refutes O46: a READ's data drops the combining cache's copy of its granule, and a coherent line that was held for that copy alone is
released to its home, so a request stays outstanding where the statement has none. -/
theorem not_homeTimersAndResponses : ¬ Obligations.HomeTimersAndResponses := by
  intro h
  obtain ⟨-, -, -, -, -, -, -, hanswer⟩ := h readWithCachedLine (by decide)
  obtain ⟨t, a, hexec, hnone, -⟩ := hanswer readData readAlone rfl rfl rfl rfl rfl rfl rfl rfl rfl rfl (by decide) (by decide)
  obtain ⟨u, hexec', hone⟩ := release_outstanding
  obtain rfl : t = u := Host.Outcome.next.inj (hexec.symm.trans hexec')
  rw [hnone] at hone
  exact absurd hone (by decide)

end Sys2Proof.Machine
end

section
/-! PROOFS. WHAT AN ANSWER LEAVES, AND THE HOME'S QUEUES. -/

namespace Sys2Proof.Machine
open Sys2Proof

/-! What an answer, or a request to a tray, leaves unchanged. -/

/-- Besides what an answer may change, only the switch core and the ports changed. -/
def passFrame (s t : State) : Prop :=
  t = { s with
    tel := t.tel, mbox := t.mbox, out := t.out, sw := t.sw, ports := t.ports,
    hm := { s.hm with boxes := t.hm.boxes, taken := t.hm.taken }, sec := { s.sec with lighters := t.sec.lighters },
    isl := { s.isl with alert := t.isl.alert } }

theorem passFrame.refl (s : State) : passFrame s s := rfl

theorem passFrame.trans {s t u : State} (h : passFrame s t) (k : passFrame t u) : passFrame s u := by
  unfold passFrame at *
  refine k.trans ?_
  rw [h]

theorem answerFrame.pass {s t : State} (h : answerFrame s t) : passFrame s t := by
  unfold passFrame
  conv_lhs => rw [h]
  rw [h]

section
variable {s t : State} (h : passFrame s t)
include h

theorem passFrame.man_eq : t.man = s.man := by rw [h]
theorem passFrame.ing_eq : t.ing = s.ing := by rw [h]
theorem passFrame.home_eq : t.home = s.home := by rw [h]
theorem passFrame.acc_eq : t.acc = s.acc := by rw [h]
theorem passFrame.ring_eq : t.ring = s.ring := by rw [h]
theorem passFrame.tide_eq : t.tide = s.tide := by rw [h]
theorem passFrame.stage_eq : t.stage = s.stage := by rw [h]
theorem passFrame.pilot_eq : t.pilot = s.pilot := by rw [h]
theorem passFrame.engines_eq : t.engines = s.engines := by rw [h]
theorem passFrame.copies_eq : t.copies = s.copies := by rw [h]
theorem passFrame.devid_eq : t.isl.devid = s.isl.devid := by rw [h]

end

/-! An item that enters the switch core says nothing yet. -/

/-- Only the switch core and the ports changed. -/
def entryFrame (s t : State) : Prop := t = { s with sw := t.sw, ports := t.ports }

theorem entryFrame.pass {s t : State} (h : entryFrame s t) : passFrame s t := by
  unfold passFrame
  conv_lhs => rw [h]
  rw [h]

theorem entryFrame.trans {s t u : State} (h : entryFrame s t) (k : entryFrame t u) : entryFrame s u := by
  unfold entryFrame at *
  refine k.trans ?_
  rw [h]

theorem entryFrame.out_eq {s t : State} (h : entryFrame s t) : t.out = s.out := by rw [h]

theorem enterPlain_entry (ingress ctx pool cls kind channel : Nat) (i : Item) (s : State) :
    entryFrame s (enterPlain ingress ctx pool cls kind channel i s) := by
  unfold enterPlain
  split
  · have hfold : ∀ (l : List (Bytes × Nat)) (f : Bytes × Nat → State → Cell) (u : State),
        entryFrame u (l.foldl (fun s p => nameCell (enterCell (f p s) s)) u) := by
      intro l f
      induction l with
      | nil => exact fun u => rfl
      | cons p r ih => exact fun u => entryFrame.trans (t := nameCell (enterCell (f p u) u)) rfl (ih _)
    exact hfold _ _ s
  · exact rfl

theorem enterItem_entry (ingress ctx pool cls kind channel : Nat) (i : Item) (s : State) :
    entryFrame s (enterItem ingress ctx pool cls kind channel i s) := by
  unfold enterItem
  split
  · exact enterPlain_entry _ _ _ _ _ _ _ _
  · exact rfl

/-- A response goes out, and only ports and switch core change besides (R95). -/
structure AnswerSent (r : Resp) (s t : State) : Prop where
  frame : entryFrame { s with out := s.out ++ [.answer r] } t

theorem sendAnswer_sent (r : Resp) (charter : Nat) (s : State) : AnswerSent r s (sendAnswer r charter s) := by
  unfold sendAnswer
  extract_lets u cls to_
  clear_value to_
  split
  · exact ⟨rfl⟩
  · exact ⟨enterItem_entry _ _ _ _ _ _ _ _⟩

/-- The answer of a request that is answered at all (R95). -/
def respTo (r : FabReq) (opcode reason aux : Nat) (data : Bytes) (s : State) : Resp :=
  { opcode := opcode, dstEngine := r.srcEngine, destination := r.source, tag := r.tag, reason := reason,
    ll := s.home.ll, responder := self s, parts := r.parts, aux := aux, data := data }

/-- A request answered: only what an answer may change, the ports and the switch core changed, and the answer is said. -/
structure Answered (a : Resp) (s t : State) : Prop where
  frame : passFrame s t
  said : Out.answer a ∈ t.out

theorem answerTo_answered {r : FabReq} (hop : r.opcode < opMark) (opcode reason aux : Nat) (data : Bytes) (s : State) :
    Answered (respTo r opcode reason aux data s) s (answerTo r opcode reason aux data s) := by
  have hreason := recordReason_frame reason s
  unfold answerTo
  rw [if_neg (Nat.not_le.mpr hop)]
  obtain ⟨hsent⟩ := sendAnswer_sent (respTo r opcode reason aux data s) r.charter (recordReason reason s)
  refine ⟨hreason.pass.trans (passFrame.trans ?_ hsent.pass), ?_⟩
  · exact rfl
  · exact hsent.out_eq ▸ List.mem_append_right _ List.mem_cons_self

theorem answerTo_frame (r : FabReq) (opcode reason aux : Nat) (data : Bytes) (s : State) :
    passFrame s (answerTo r opcode reason aux data s) := by
  by_cases hop : opMark ≤ r.opcode
  · rw [answerTo, if_pos hop]
    exact passFrame.refl s
  · exact (answerTo_answered (Nat.lt_of_not_le hop) _ _ _ _ _).frame

/-! The home's queues (R109). -/

section
variable {key m : Nat} {q : GranQ} {s : State}

theorem tgetD_tdel_self {α : Type} (t : Tbl α) (k : Nat) (d : α) : tgetD (tdel t k) k d = d := by
  rw [tgetD, tget_tdel_self]
  rfl

theorem queueOf_setQueue_self : queueOf key (setQueue key q s) = q := by
  unfold queueOf setQueue
  simp only
  split
  · next hempty =>
    obtain ⟨hqueue, hbatch⟩ := hempty
    rw [tgetD_tdel_self, ← hqueue, ← hbatch]
  · exact tgetD_tput_self _ _ _ _

theorem queueOf_setQueue_ne (hfull : ¬(q.queue = [] ∧ q.batch = none)) (hne : m ≠ key) :
    queueOf m (setQueue key q s) = queueOf m s := by
  unfold queueOf setQueue tgetD
  simp only [if_neg hfull]
  rw [tget_tput_ne _ _ hne.symm]

theorem setQueue_home (key : Nat) (q : GranQ) (s : State) :
    setQueue key q s = { s with home := { s.home with queues := (setQueue key q s).home.queues } } := rfl

end

end Sys2Proof.Machine
end

section
/-! PROOFS. A GRANULE'S STEP (R109). -/

namespace Sys2Proof.Machine
open Sys2Proof

/-! A granule's step (R109, R335). -/

/-- What a step's events, pages and tray requests leave: the tables, the ingress and the granule queues. -/
structure StepFrame (s t : State) : Prop where
  man : t.man = s.man
  ing : t.ing = s.ing
  queues : t.home.queues = s.home.queues

theorem StepFrame.refl (s : State) : StepFrame s s := ⟨rfl, rfl, rfl⟩

theorem StepFrame.trans {s t u : State} (h : StepFrame s t) (k : StepFrame t u) : StepFrame s u :=
  ⟨k.man.trans h.man, k.ing.trans h.ing, k.queues.trans h.queues⟩

theorem passFrame.step {s t : State} (h : passFrame s t) : StepFrame s t := ⟨h.man_eq, h.ing_eq, congrArg Home.queues h.home_eq⟩

theorem StepFrame.foldl {α : Type} {f : State → α → State} (hf : ∀ t x, StepFrame t (f t x)) (l : List α) (s : State) :
    StepFrame s (l.foldl f s) := by
  induction l generalizing s with
  | nil => exact StepFrame.refl s
  | cons x r ih => exact (hf s x).trans (ih _)

theorem raise_step (code : Nat) (fields : List (Nat × Nat)) (s : State) : StepFrame s (raise code fields s) :=
  (raise_frame _ _ _).pass.step

theorem poisonEvent_step (entry n : Nat) (e : Entry) (s : State) : StepFrame s (poisonEvent entry n e s) := by
  unfold poisonEvent
  split
  · exact StepFrame.refl s
  · exact (raiseLimited_frame _ _ _ _ _ _).pass.step

theorem sendTray_pass (id device tray module offset cls : Nat) (write : Bool) (data : Bytes) (s : State) :
    passFrame s (sendTray id device tray module offset cls write data s) := by
  unfold sendTray
  extract_lets u r to_
  have hu : passFrame s u := rfl
  clear_value to_ u
  split
  · exact hu
  · exact hu.trans (enterItem_entry _ _ _ _ _ _ _ _).pass

theorem trayIssue_step (l : Lay) (key row m : Nat) (write : Bool) (data : Bytes) (s : State) :
    StepFrame s (trayIssue l key row m write data s) := by
  unfold trayIssue
  split
  · exact StepFrame.refl s
  · extract_lets id x
    exact StepFrame.trans (t := { s with home := { s.home with nextTray := id + 1, trays := s.home.trays ++ [x] } }) ⟨rfl, rfl, rfl⟩
      (sendTray_pass _ _ _ _ _ _ _ _ _).step

theorem issueFor_step (key : Nat) (l : Lay) (write : Bool) (cells : List (Nat × Nat × Bytes)) (s : State) :
    StepFrame s (issueFor key l write cells s) :=
  StepFrame.foldl (fun _ _ => trayIssue_step _ _ _ _ _ _ _) _ _

/-- A step that goes on: its queue and accesses stay, and so do tables and ingress. -/
structure StepOn (key : Nat) (l : List Access) (s t : State) : Prop where
  man : t.man = s.man
  ing : t.ing = s.ing
  queue : (queueOf key t).queue = (queueOf key s).queue
  batch : ∃ b, (queueOf key t).batch = some b ∧ b.accesses = l

theorem setBatch_on {key : Nat} {s u : State} (h : StepFrame s u) (b : Batch) : StepOn key b.accesses s (setBatch key b u) := by
  have hsame : queueOf key u = queueOf key s := by rw [queueOf, queueOf, h.queues]
  refine ⟨h.man, h.ing, ?_, b, ?_, rfl⟩
  · rw [setBatch, queueOf_setQueue_self, hsame]
  · rw [setBatch, queueOf_setQueue_self]

theorem applyGranule_on (key : Nat) (b : Batch) (s : State) : StepOn key b.accesses s (applyGranule key b s) := by
  unfold applyGranule
  extract_lets +onlyGivenNames x e l target whole ep conf found noWriteKey stale s1 base blocked marks damaged
  have h1 : StepFrame s s1 := by
    unfold s1
    split
    · exact raise_step _ _ _
    · exact StepFrame.refl s
  clear_value s1 blocked base marks damaged noWriteKey stale found
  split
  · exact setBatch_on h1 { b with stage := 2, outcomes := _ }
  · extract_lets +onlyGivenNames r changed s2 s3 newAt offs rows ws fixed s4 s5 home s6 s7
    have h2 : StepFrame s s2 := h1.trans (poisonEvent_step _ _ _ _)
    clear_value s2
    have h3 : StepFrame s s3 := by
      unfold s3
      split
      · exact h2.trans (raise_step _ _ _)
      · exact h2
    clear_value s3 fixed ws offs
    have h4 : StepFrame s s4 := h3.trans (StepFrame.foldl (fun _ _ => raise_step _ _ _) _ _)
    clear_value s4
    have h5 : StepFrame s s5 := by
      unfold s5
      split
      · exact h4.trans ⟨rfl, rfl, rfl⟩
      · exact h4
    clear_value s5
    have h6 : StepFrame s s6 := by
      unfold s6
      split
      · exact h5
      · exact h5.trans ⟨rfl, rfl, rfl⟩
    clear_value s6
    exact setBatch_on (h6.trans (issueFor_step _ _ _ _ _)) { b with stage := 2, outcomes := _, awaiting := _, whole := _, final := _ }

theorem stepLay_granule {key : Nat} {b : Batch} (hkind : b.kind ≤ 1) (s : State) : (stepLay key b s).isSome = true := by
  rw [stepLay, if_pos hkind]
  rfl

theorem pumpReads_on {key : Nat} {b : Batch} {s : State} (hbatch : (queueOf key s).batch = some b) (hkind : b.kind ≤ 1) :
    StepOn key b.accesses s (pumpReads key s) := by
  have hlay := stepLay_granule (key := key) hkind s
  unfold pumpReads
  simp only [hbatch]
  split
  · exact ⟨rfl, rfl, rfl, b, hbatch, rfl⟩
  · split
    · exact applyGranule_on _ _ _
    · next hnone _ => simp [hnone] at hlay
    · next cs lay _ _ =>
      exact setBatch_on (issueFor_step _ _ _ _ _) { b with
        awaiting := awaited key (issueFor key lay false (_ : List (Nat × Nat × Bytes)) s) }

/-! A batch's start (R109). -/

section
variable {entry off : Nat} {a : Access} {l r : List Access} {s : State}

theorem startBatch_direct (hbatch : (queueOf (granKey entry (off / 64)) s).batch = none)
    (hqueue : (queueOf (granKey entry (off / 64)) s).queue = a :: r) (hprefix : batchPrefix (a :: r) = a :: l) (hcls : a.ent.cls ≠ 1)
    (hpage : entry ∉ s.home.pageWait) (hfree : stepFree (granKey entry (off / 64)) (newStep 0 (entry, off / 64) (a :: l)) s = true)
    (hdir : dirOf (a.ent.baseFpa + off / 64 * 64) s = none) :
    startBatch entry off s = pumpReads (granKey entry (off / 64)) (setQueue (granKey entry (off / 64))
      { queue := r.drop l.length, batch := some (newStep 0 (entry, off / 64) (a :: l)) } s) := by
  have hpageNot : ¬(s.home.pageWait.contains entry = true ∨ stepFree (granKey entry (off / 64)) (newStep 0 (entry, off / 64) (a :: l)) s = false) := by
    simp [hpage, hfree]
  unfold startBatch
  simp only [hbatch, hqueue, if_neg hcls, hprefix, hdir, beq_false_of_ne hcls, Bool.false_and, Bool.false_eq_true, if_false, if_neg hpageNot,
    if_pos hcls, List.length_cons, List.drop_succ_cons, Option.isSome_none]

end

/-! A tray's answer (R335). -/

theorem trayAnswer_waits {r q : TrayReq} {b : Batch} {s : State} (htrays : s.home.trays = [r, q]) (hother : r.id ≠ q.id)
    (hkey : q.key = r.key) (hread : r.write = false) (hbatch : (queueOf r.key s).batch = some b) (hkind : b.kind = 0) (data : Bytes) :
    trayAnswer r.id opData data s = setBatch r.key { b with
      awaiting := b.awaiting.erase r.id, got := tput b.got r.cell (some (fit 64 data)) }
      { s with home := { s.home with trays := [q] } } := by
  have hfind : [r, q].find? (fun x => x.id == r.id) = some r := by simp
  have hleft : [r, q].filter (fun x => x.id != r.id) = [q] := by simp [hother.symm]
  have hbatch' : (queueOf r.key { s with home := { s.home with trays := [q] } }).batch = some b := hbatch
  unfold trayAnswer
  simp only [htrays, hfind, hleft, hbatch', hread, Bool.false_eq_true, if_false, true_or, if_true]
  generalize hu : setBatch r.key { b with awaiting := b.awaiting.erase r.id, got := tput b.got r.cell (some (fit 64 data)) }
    { s with home := { s.home with trays := [q] } } = u
  have hwaits : awaited r.key u ≠ [] := by
    rw [← hu]
    change ([q].filter fun x => x.key == r.key).map _ ≠ []
    simp [hkey]
  have hub : (queueOf r.key u).batch = some { b with awaiting := b.awaiting.erase r.id, got := tput b.got r.cell (some (fit 64 data)) } := by
    rw [← hu, setBatch, queueOf_setQueue_self]
  have hpump : pumpReads r.key u = u := by
    unfold pumpReads
    simp only [hub]
    exact if_pos (.inr hwaits)
  rw [hpump]
  unfold endOwnStep
  simp only [hub]
  exact if_pos (.inl hkind)

end Sys2Proof.Machine
end

section
/-! PROOFS. REQUESTS AT THEIR HOME (O45). -/

namespace Sys2Proof.Machine
open Sys2Proof

/-! A request's admission at its home (R48, R109). -/

section
variable {r : FabReq} {s : State}

/-- The request and the access of a request of one step, as they are queued (R109). -/
def queuedReq (r : FabReq) (s : State) : HomeReq :=
  { id := s.home.nextId, req := r, left := 1, worst := 0, code := 0, codeAt := 0, data := [] }

def queuedAccess (r : FabReq) (lo n skip : Nat) (e : Entry) (s : State) : Access :=
  { id := s.home.nextId, req := r, lo := lo, len := n, skip := skip, drain := false, ent := e }

/-- The home with one more request known. -/
def requested (r : FabReq) (s : State) : State :=
  { s with home := { s.home with nextId := s.home.nextId + 1, reqs := s.home.reqs ++ [queuedReq r s] } }

theorem pushRequest_one {e : Entry} {g lo n skip : Nat} (hsteps : stepsOf (offsetIn r e) (touched r) = [(g, lo, n, skip)]) :
    pushRequest false r e s = setQueue (granKey r.entry g) { queueOf (granKey r.entry g) s with
      queue := (queueOf (granKey r.entry g) s).queue ++ [queuedAccess r lo n skip e s] } (requested r s) := by
  unfold pushRequest
  simp only [hsteps, List.foldl_cons, List.foldl_nil, Bool.false_eq_true, if_false, List.length_cons, List.length_nil]
  rfl

theorem admitNow_read (hop : r.opcode = opRead) (hjob : r.jobValid = false) (hserves : serves (entryOf r.entry s).charter s = true)
    (hcurrent : entryCurrent r s = true) : admitNow r s = pushRequest false r (entryOf r.entry s) s := by
  have hcount : (countedWrite r || r.opcode == opWriteSeal) = false := by simp [countedWrite, hop, opRead, opWrite, opWritePartial, opStow, opWriteSeal]
  have hplain : ¬(r.opcode = opCShared ∨ r.opcode = opCOwn ∨ r.opcode = opCUpgrade) := by
    simp [hop, opRead, opCShared, opCOwn, opCUpgrade]
  have hwrite : jobWrite r = false := by simp [jobWrite, hjob]
  unfold admitNow
  simp only [hserves, hcurrent, hwrite, hcount, if_neg hplain, Bool.not_true, Bool.false_and, Bool.false_eq_true, if_false]

theorem execHomeAdmit_read (hcore : coreRuns s = true) (hop : r.opcode = opRead) (hfull : queueFull r s = false)
    (hwaiting : s.home.waiting = []) : execHomeAdmit r s = .next (admitNow r s) := by
  have hbehind : (s.home.waiting.any fun w => (waitsFor w s).any fun k => (waitsFor r s).contains k) = false := by
    rw [hwaiting]
    rfl
  refine (onCore_of_coreRuns hcore _).trans (congrArg _ ?_)
  refine (if_neg (by simp [hop, opRead, opFence])).trans ((if_neg (by simp [hop, opRead, opCWriteback, opCEvict])).trans
    ((if_neg (by simp [hop, opRead, opCDone])).trans ?_))
  unfold arriveHome
  simp only [hfull, hbehind, Bool.false_eq_true, or_self, if_false]

/-! Attempt fences (R85). -/

theorem fence_held (hserves : serves r.charter s = true) (hsealed : jobSealed r s = false) (hstale : staleAttempt r s = false)
    (hroom : s.home.fences.length < 4096) : fence r s =
      answerTo r opAck 0 0 [] { s with home := { s.home with fences := tput s.home.fences (jobKey r.jobDevice r.jobSlot) r.attempt } } := by
  have hfits : ¬((tget s.home.fences (jobKey r.jobDevice r.jobSlot)).isNone = true ∧ 4096 ≤ s.home.fences.length) := by omega
  unfold fence
  simp only [hserves, hsealed, hstale, if_neg hfits, Bool.not_true, Bool.false_eq_true, if_false]

theorem fence_stale (hserves : serves r.charter s = true) (hsealed : jobSealed r s = false) (hstale : staleAttempt r s = true) :
    fence r s = answerTo r opRefuse 0x0616 0 [] s := by
  unfold fence
  simp only [hserves, hsealed, hstale, Bool.not_true, Bool.false_eq_true, if_false, if_true]

end

/-! A batch's end (R63, R109). -/

section
variable {a : Access} {h : HomeReq} {s : State}

/-- A request whose only step has ended done. -/
def readDone (a : Access) (d : Bytes) (h : HomeReq) : HomeReq :=
  { h with left := 0, data := [(a.skip, d)] }

theorem answerDone_read (hop : h.req.opcode = opRead) (hworst : h.worst = 0) (listed : Bool) :
    answerDone h listed s = answerTo h.req opData 0 0 (h.data.flatMap fun p => p.2) s := by
  unfold answerDone
  simp [hop, hworst, countedWrite, opRead, opCopy, opMark, opWriteSeal, opWrite, opWritePartial, opStow, opAtomic, opCUpgrade]

theorem noteWrite_read {r : FabReq} (hop : r.opcode = opRead) (refused : Bool) : noteWrite r refused s = s := by
  have hcount : (!countedWrite r) = true := by simp [countedWrite, hop, opRead, opWrite, opWritePartial, opStow]
  unfold noteWrite
  split
  · rfl
  · rw [if_pos hcount]

theorem endStep_last (hdrain : a.drain = false) (hreqs : s.home.reqs = [h]) (hid : h.id = a.id) (hleft : h.left = 1)
    (hworst : h.worst = 0) (hdata : h.data = []) (hop : h.req.opcode = opRead) (hcharter : charterState h.req.charter s ≠ 2)
    (d : Bytes) (listed : Bool) : endStep a 0 0 d listed s =
      answerTo h.req opData 0 0 d { s with home := { s.home with reqs := [] } } := by
  have hfind : [h].find? (fun x => x.id == a.id) = some h := by simp [hid]
  have hgone : [h].filter (fun x => x.id != h.id) = [] := by simp
  have hstate : (charterState h.req.charter { s with home := { s.home with reqs := [] } } == 2) = false := beq_false_of_ne hcharter
  have hseal : ¬h.req.opcode = opWriteSeal := by simp [hop, opRead, opWriteSeal]
  have hbytes : ((tput [] a.skip d : Tbl Bytes).flatMap fun p => p.2) = d := by simp [tput]
  unfold endStep
  simp only [hdrain, Bool.false_eq_true, if_false, hreqs, hfind, hgone, hleft, hworst, hdata, Nat.sub_self, Nat.lt_irrefl]
  rw [noteWrite_read hop]
  refine (answerDone_read (by exact hop) (by simp) listed).trans ?_
  rw [hbytes]
  simp only [hseal, false_and, if_false, hstate, Bool.false_and, Bool.false_eq_true]

/-- A granule whose batch has ended (R109). -/
def batchEnded (key : Nat) (s : State) : State := setQueue key { queueOf key s with batch := none } s

theorem wakeHome_of_nil (hwaiting : s.home.waiting = []) : wakeHome s = s := by
  have hsame : { s with home := { s.home with waiting := [] } } = s := by rw [← hwaiting]
  unfold wakeHome
  simp only [hwaiting, List.foldl_nil, hsame]

theorem endBatch_read {entry off : Nat} {b : Batch} {d : Bytes} (hbatch : (queueOf (granKey entry (off / 64)) s).batch = some b)
    (hkind : b.kind = 0) (hstage : b.stage = 2) (hawaited : awaited (granKey entry (off / 64)) s = []) (haccesses : b.accesses = [a])
    (houtcomes : b.outcomes = [(a.id, 0, 0, d)]) (hcls : a.ent.cls ≠ 1) (hop : a.req.opcode = opRead) :
    ∃ listed, endBatch entry off s = wakeHome (endStep a 0 0 d listed (batchEnded (granKey entry (off / 64)) s)) := by
  have hgo : ¬(b.kind ≠ 0 ∨ b.stage ≠ 2 ∨ awaited (granKey entry (off / 64)) s ≠ []) := by simp [hkind, hstage, hawaited]
  have hreads : readsOnly a = true := by simp [readsOnly, hop]
  have hent : (stepEntry (granKey entry (off / 64)) b s).2.1 = a.ent := by simp [stepEntry, hkind, haccesses]
  have hfound : [(a.id, 0, 0, d)].find? (fun o : Nat × Nat × Nat × Bytes => o.1 == a.id) = some (a.id, 0, 0, d) := by simp
  unfold endBatch
  simp only [hbatch, if_neg hgo, hent, if_neg hcls, haccesses, houtcomes, List.foldl_cons, List.foldl_nil, hfound, hreads, Bool.not_true,
    Bool.and_false, Bool.false_and, Bool.false_eq_true, if_false]
  exact ⟨_, rfl⟩

end

/-- Settles O45: a READ is queued, a fence is held or refused, a batch starts, takes a tray's data and ends with its answer (R48, R62, R63,
R85, R109). -/
theorem homeRequests : Obligations.HomeRequests := by
  intro s hcore
  refine ⟨fun r g lo n skip => ?queued, fun r => ?fences, fun r hop hserves hsealed hstale => ?stale, fun entry off a l r => ?starts,
    fun r q b data htrays hother hkey hread hbatch hkind => ?tray, fun entry off b a h d => ?ends⟩
  case queued =>
    intro e key hop hjob hserves hcurrent hfull hwaiting hsteps
    have hexec := execHomeAdmit_read hcore hop hfull hwaiting
    rw [admitNow_read hop hjob hserves hcurrent, pushRequest_one hsteps] at hexec
    refine ⟨_, queuedReq r s, queuedAccess r lo n skip e s, hexec, rfl, rfl, rfl, ?_, rfl, rfl, rfl, rfl, ?_, fun m hm => ?_⟩
    · rw [queueOf_setQueue_self]
    · rw [queueOf_setQueue_self]
    · exact queueOf_setQueue_ne (by simp) hm
  case fences =>
    intro key hop hserves hsealed hstale hroom
    have hexec : exec (.attemptFence r) s = .next (fence r s) := onCore_of_coreRuns hcore _
    rw [fence_held hserves hsealed hstale hroom] at hexec
    obtain ⟨hframe, hsaid⟩ := answerTo_answered hop opAck 0 0 [] { s with home := { s.home with fences := tput s.home.fences key r.attempt } }
    exact ⟨_, _, hexec, hframe.home_eq, hsaid, rfl, rfl, hframe.man_eq, hframe.ing_eq⟩
  case stale =>
    have hexec : exec (.attemptFence r) s = .next (fence r s) := onCore_of_coreRuns hcore _
    rw [fence_stale hserves hsealed hstale] at hexec
    obtain ⟨hframe, hsaid⟩ := answerTo_answered hop opRefuse 0x0616 0 [] s
    exact ⟨_, _, hexec, hframe.home_eq, hsaid, rfl, rfl⟩
  case starts =>
    intro key hbatch hqueue hprefix hcls hpage hfree hdir
    have hexec : exec (.granuleBatchStart entry off) s = .next (startBatch entry off s) := onCore_of_coreRuns hcore _
    rw [startBatch_direct hbatch hqueue hprefix hcls hpage hfree hdir] at hexec
    obtain ⟨hman, hing, hq, b, hb, haccesses⟩ := pumpReads_on (key := key)
      (s := setQueue key { queue := r.drop l.length, batch := some (newStep 0 (entry, off / 64) (a :: l)) } s)
      (by rw [queueOf_setQueue_self]) (Nat.zero_le 1)
    refine ⟨_, b, hexec, hb, haccesses, ?_, hman, hing⟩
    rw [hq, queueOf_setQueue_self]
  case tray =>
    have hexec : exec (.trayResponse r.id opData data) s = .next (trayAnswer r.id opData data s) := onCore_of_coreRuns hcore _
    rw [trayAnswer_waits htrays hother hkey hread hbatch hkind] at hexec
    refine ⟨_, { b with awaiting := b.awaiting.erase r.id, got := tput b.got r.cell (some (fit 64 data)) }, hexec, rfl, rfl, ?_,
      tget_tput_self _ _ _, rfl⟩
    rw [setBatch, queueOf_setQueue_self]
  case ends =>
    intro key hbatch hkind hstage hawaited haccesses houtcomes hcls hdrain hreq hop hreqs hid hleft hworst hdata hwaiting hcharter
    have hopA : a.req.opcode = opRead := by rw [hreq]; exact hop
    obtain ⟨listed, hend⟩ := endBatch_read hbatch hkind hstage hawaited haccesses houtcomes hcls hopA
    have hexec : exec (.granuleBatchDone entry off) s = .next (endBatch entry off s) := onCore_of_coreRuns hcore _
    have hop' : h.req.opcode < opMark := by rw [hop]; decide
    rw [hend, endStep_last (s := batchEnded (granKey entry (off / 64)) s) hdrain hreqs hid hleft hworst hdata hop hcharter] at hexec
    obtain ⟨hframe, hsaid⟩ := answerTo_answered hop' opData 0 0 d
      { batchEnded (granKey entry (off / 64)) s with home := { (batchEnded (granKey entry (off / 64)) s).home with reqs := [] } }
    rw [wakeHome_of_nil (by rw [hframe.home_eq]; exact hwaiting)] at hexec
    have hkept : queueOf key (answerTo h.req opData 0 0 d
        { batchEnded (granKey entry (off / 64)) s with home := { (batchEnded (granKey entry (off / 64)) s).home with reqs := [] } }) =
        { queueOf key s with batch := none } := by
      rw [queueOf, hframe.home_eq]
      exact queueOf_setQueue_self
    refine ⟨_, _, hexec, ?_, ?_, ?_, hsaid, rfl, rfl, rfl, rfl, hframe.man_eq, hframe.ing_eq⟩
    · rw [hkept]
    · rw [hkept]
    · rw [hframe.home_eq]

end Sys2Proof.Machine
end

section
/-! PROOFS. A LOST HOME'S ANSWER (O56). -/

namespace Sys2Proof.Machine
open Sys2Proof

/-! The answer of a READ to a lost home that gives a cached line back to another home (R68, R118, R343). -/

/-- The READ of `readAlone`, of an extent that device 1 is home of. -/
def readLost : Outst := { readAlone with req := { readPacket with home := 1 } }

/-- Device 1's loss boundary has come while the READ is outstanding to it, and the combining cache holds the granule as a coherent line
whose home is device 0. -/
def lossWithCachedLine : State :=
  { readWithCachedLine with
    ring := { State.reset.ring with losses := [(1, 0)] },
    ing := { readWithCachedLine.ing with outst := [readLost] } }

/-- The READ's refusal drops the cached copy, and the line's release is then outstanding. -/
theorem release_outstanding_after_loss :
    ∃ t, exec .lossBoundary lossWithCachedLine = .next t ∧ t.ing.outst.length = 1 := ⟨_, rfl, by decide⟩

/-- Refutes O56: a READ refused for its lost home drops the combining cache's copy of its granule, and a coherent line that was held for
that copy alone is released to its own home, so a request stays outstanding where the statement has none. -/
theorem not_losses : ¬ Obligations.Losses := by
  intro h
  obtain ⟨-, -, -, -, -, hloss, -⟩ := h lossWithCachedLine
  obtain ⟨-, hboundary⟩ := hloss 1 0 readLost (by decide) rfl (by decide) (by decide)
  obtain ⟨t, a, hexec, -, -, hnone, -⟩ := hboundary (by decide) rfl rfl rfl rfl rfl rfl rfl rfl (by decide) (by decide) (by decide) rfl rfl
    rfl rfl (by decide) rfl rfl rfl rfl (by decide) (by decide)
  obtain ⟨u, hexec', hone⟩ := release_outstanding_after_loss
  obtain rfl : t = u := Host.Outcome.next.inj (hexec.symm.trans hexec')
  rw [hnone] at hone
  exact absurd hone (by decide)

end Sys2Proof.Machine
end

section
/-! PROOFS. Entry into confidential mode, and the records of a lighter (O59). -/

namespace Sys2Proof.Machine
open Sys2Proof

/-! Entry into confidential mode (R393, R417). -/

/-- No answer that waits for its mailbox ends a job. -/
def NoJobWaits (s : State) : Prop := ∀ p ∈ s.hm.boxes, ∀ a ∈ p.2.waiting, a.2 = none

theorem mem_tput {α : Type} {k : Nat} {v : α} : ∀ {t : Tbl α} {p : Nat × α}, p ∈ tput t k v → p = (k, v) ∨ p ∈ t
  | [], p, h => by simpa [tput] using h
  | (a, w) :: r, p, h => by
    rw [tput] at h
    split at h
    · exact (List.mem_cons.1 h).imp_right (List.mem_cons_of_mem _)
    · split at h
      · exact List.mem_cons.1 h
      · rcases List.mem_cons.1 h with h | h
        · exact .inr (h ▸ List.mem_cons_self)
        · exact (mem_tput h).imp_right (List.mem_cons_of_mem _)

theorem mem_of_tget {α : Type} {k : Nat} {v : α} : ∀ {t : Tbl α}, tget t k = some v → (k, v) ∈ t
  | (a, w) :: r, h => by
    rw [tget] at h
    split at h
    · next ha => cases h; simp [ha]
    · split at h
      · cases h
      · exact List.mem_cons_of_mem _ (mem_of_tget h)

section
variable {m tag : Nat} {b : Mailbox} {s : State}

theorem NoJobWaits.boxOf (h : NoJobWaits s) : ∀ a ∈ (boxOf m s).waiting, a.2 = none := by
  unfold Sys2Proof.Machine.boxOf tgetD
  cases hget : tget s.hm.boxes m with
  | none => exact fun _ ha => absurd ha (List.not_mem_nil)
  | some b => exact h (m, b) (mem_of_tget hget)

theorem NoJobWaits.setBox (h : NoJobWaits s) (hb : ∀ a ∈ b.waiting, a.2 = none) : NoJobWaits (setBox m b s) := by
  intro p hp
  rcases mem_tput hp with rfl | hp
  · exact hb
  · exact h p hp

theorem NoJobWaits.recordReason (h : NoJobWaits s) (code : Nat) : NoJobWaits (recordReason code s) := by
  unfold Sys2Proof.Machine.recordReason
  split <;> exact h

theorem NoJobWaits.signal (h : NoJobWaits s) (v : Nat) : NoJobWaits (signal v s) := by
  unfold Sys2Proof.Machine.signal
  split <;> exact h

theorem NoJobWaits.untake (h : NoJobWaits s) : NoJobWaits (untake m tag s) := by
  unfold Sys2Proof.Machine.untake
  split
  · exact h
  · exact NoJobWaits.setBox (s := { s with hm := { s.hm with taken := _ } }) h h.boxOf

theorem NoJobWaits.lighterSend (h : NoJobWaits s) (l content : Nat) (plain : Bytes) :
    NoJobWaits (lighterSend l content plain s) := by
  unfold Sys2Proof.Machine.lighterSend
  extract_lets x units ring at_ wrap x' s1 s2
  have h2 : NoJobWaits s2 := h
  clear_value s2
  split
  · exact h
  · split
    · exact h
    · split
      · exact h2.signal _
      · exact h2

theorem NoJobWaits.ringPost (h : NoJobWaits s) (bytes : Bytes) (job : Option (Nat × Nat)) :
    NoJobWaits (ringPost m bytes job s) := by
  unfold Sys2Proof.Machine.ringPost
  extract_lets b n p base padRec mem t mem' t' b' s1
  have h1 : NoJobWaits s1 := NoJobWaits.setBox (s := { s with mbox := mem' }) h (b := b') h.boxOf
  clear_value s1
  split
  · exact h1.signal _
  · exact h1

theorem NoJobWaits.post (h : NoJobWaits s) (a : Answer) : NoJobWaits (post m a none s) := by
  unfold Sys2Proof.Machine.post
  extract_lets bytes b n kept
  split
  · refine h.setBox fun a ha => ?_
    rcases List.mem_append.1 ha with ha | ha
    · exact h.boxOf a ha
    · rw [List.mem_singleton.1 ha]
  · exact h.ringPost _ _

theorem NoJobWaits.result (h : NoJobWaits s) (hdr : CmdHdr) (code reason : Nat) (body : Bytes) :
    NoJobWaits (result hdr code reason body s) := by
  have h1 : NoJobWaits (Machine.untake hdr.mailbox hdr.tag (Machine.recordReason reason s)) := (h.recordReason _).untake
  unfold Sys2Proof.Machine.result resultWith
  extract_lets a
  unfold send
  split
  · exact h1.lighterSend _ _ _
  · exact h1.post _

/-- One waiting answer goes to the lighter; it ends the job that it is the answer of (`moveAnswers_eq`). -/
def sendWaiting (l : Nat) (s : State) (a : Bytes × Option (Nat × Nat)) : State :=
  match a.2 with
  | some j => retireJob j.2 (lighterSend l 2 a.1 s)
  | none => lighterSend l 2 a.1 s

theorem moveAnswers_eq (s : State) : moveAnswers s = s.hm.boxes.foldl (fun s p =>
    (Machine.boxOf p.1 s).waiting.foldl (sendWaiting p.1)
      (Machine.setBox p.1 { Machine.boxOf p.1 s with waiting := [] } s)) s := rfl

/-- Sending answers that end no job to a lighter leaves no job waiting, and is an answer. -/
theorem sendAnswers_frame (l : Nat) {as : List (Bytes × Option (Nat × Nat))} (has : ∀ a ∈ as, a.2 = none) (h : NoJobWaits s) :
    answerFrame s (as.foldl (sendWaiting l) s) ∧ NoJobWaits (as.foldl (sendWaiting l) s) := by
  refine List.foldlRecOn (motive := fun t => answerFrame s t ∧ NoJobWaits t) as _ ⟨.refl s, h⟩ fun t ht a ha => ?_
  simp only [sendWaiting, has a ha]
  exact ⟨ht.1.trans (lighterSend_frame _ _ _ _), ht.2.lighterSend _ _ _⟩

/-- Answers that end no job move to the lighters as answers do (R417). -/
theorem moveAnswers_frame (h : NoJobWaits s) : answerFrame s (moveAnswers s) := by
  rw [moveAnswers_eq]
  refine (List.foldlRecOn (motive := fun t => answerFrame s t ∧ NoJobWaits t) s.hm.boxes _ ⟨.refl s, h⟩ fun t ht p _ => ?_).1
  obtain ⟨hframe, hjobs⟩ := ht
  have hsent := sendAnswers_frame p.1 (as := (Machine.boxOf p.1 t).waiting) hjobs.boxOf
    (hjobs.setBox (m := p.1) (b := { Machine.boxOf p.1 t with waiting := [] }) fun a ha => absurd ha List.not_mem_nil)
  exact ⟨(hframe.trans (setBox_frame _ _ _)).trans hsent.1, hsent.2⟩

end

theorem execConfidentialEntry_waits {s : State} {at_ : Nat} {h : CmdHdr} (hcore : coreRuns s = true)
    (hat : s.sec.enterAt = some (at_, h)) (hearly : s.tide.count < at_) : exec .confidentialEntry s = .next s := by
  rw [exec_confidentialEntry, execConfidentialEntry, onCore_of_coreRuns hcore, enterConfidential, hat]
  simp only [if_pos hearly]

theorem measureSecurity_boxes (s : State) : (measureSecurity s).hm.boxes = s.hm.boxes := by
  unfold measureSecurity measure
  split <;> rfl

theorem execConfidentialEntry_enters {s : State} {at_ : Nat} {h : CmdHdr} (hcore : coreRuns s = true)
    (hat : s.sec.enterAt = some (at_, h)) (hdue : at_ ≤ s.tide.count) (hboxes : s.hm.boxes = []) :
    ∃ t, exec .confidentialEntry s = .next t ∧
      answerFrame (measureSecurity { s with sec := { s.sec with enterAt := none, latch := true, confidential := true } }) t := by
  have hjobs : NoJobWaits (measureSecurity { s with sec := { s.sec with enterAt := none, latch := true, confidential := true } }) := by
    intro p hp
    rw [measureSecurity_boxes] at hp
    exact absurd (hboxes ▸ hp) List.not_mem_nil
  refine ⟨_, ?_, (result_frame h 0x0E01 0 [] _).trans (moveAnswers_frame (hjobs.result h 0x0E01 0 []))⟩
  rw [exec_confidentialEntry, execConfidentialEntry, onCore_of_coreRuns hcore, enterConfidential, hat]
  simp only [if_neg (Nat.not_lt.2 hdue)]

/-! Lighter records (R393, R446). -/

section
variable {l len code : Nat} {s : State}

/-- A record that ends before the ring's end moves the head past its units. -/
theorem passRecord_fits (hfits : (lighterOf l s).inHead % (ringBytes (lighterOf l s) / 64) + cdiv (48 + roundUp len 16) 64 ≤
    ringBytes (lighterOf l s) / 64) :
    ∃ o, passRecord l len s = { setLighter l { lighterOf l s with
      inHead := ((lighterOf l s).inHead + cdiv (48 + roundUp len 16) 64) % 2 ^ 32, failures := 0 } s with out := o } := by
  unfold passRecord
  simp only [if_pos hfits, Nat.add_zero]
  split
  · exact ⟨_, rfl⟩
  · exact ⟨_, rfl⟩

theorem raiseLimited_tel (code key period : Nat) (fields : List (Nat × Nat)) (n : Nat) (s : State) :
    raiseLimited code key period fields n s = { s with tel := (raiseLimited code key period fields n s).tel } := by
  unfold raiseLimited recordReason
  split <;> rfl

theorem lastCode_raiseLimited (hcode : code ≠ 0) (key period : Nat) (fields : List (Nat × Nat)) (n : Nat) (s : State) :
    (tgetD (raiseLimited code key period fields n s).tel.reasons (code / 256) (0, 0, 0)).2.2 = code :=
  lastCode_recordReason hcode s

/-- What discarding a record changes (R446): the count and what is said of it. -/
theorem discardRecord_eq (l code : Nat) (s : State) : discardRecord l code s =
    { s with sec := { s.sec with discards := tput s.sec.discards l (tgetD s.sec.discards l 0 + 1) },
             tel := (discardRecord l code s).tel } := raiseLimited_tel _ _ _ _ _ _

/-- A discarded record is passed and counted, and its code stands in the reason register. -/
theorem discardRecord_passed (hcode : code ≠ 0)
    (hfits : (lighterOf l s).inHead % (ringBytes (lighterOf l s) / 64) + cdiv (48 + roundUp len 16) 64 ≤
      ringBytes (lighterOf l s) / 64) :
    lighterOf l (passRecord l len (discardRecord l code s)) = { lighterOf l s with
      inHead := ((lighterOf l s).inHead + cdiv (48 + roundUp len 16) 64) % 2 ^ 32, failures := 0 } ∧
    tgetD (passRecord l len (discardRecord l code s)).sec.discards l 0 = tgetD s.sec.discards l 0 + 1 ∧
    (tgetD (passRecord l len (discardRecord l code s)).tel.reasons (code / 256) (0, 0, 0)).2.2 = code ∧
    (passRecord l len (discardRecord l code s)).hm = s.hm ∧ (passRecord l len (discardRecord l code s)).man = s.man := by
  have hlast : (tgetD (discardRecord l code s).tel.reasons (code / 256) (0, 0, 0)).2.2 = code := lastCode_raiseLimited hcode _ _ _ _ _
  have heq := discardRecord_eq l code s
  generalize discardRecord l code s = t at hlast heq
  have hl : lighterOf l t = lighterOf l s := by rw [heq]; rfl
  have hd : tgetD t.sec.discards l 0 = tgetD s.sec.discards l 0 + 1 := by
    rw [heq]
    exact tgetD_tput_self _ _ _ _
  have hhm : t.hm = s.hm := by rw [heq]
  have hman : t.man = s.man := by rw [heq]
  obtain ⟨o, ho⟩ := passRecord_fits (l := l) (len := len) (s := t) (by rw [hl]; exact hfits)
  rw [ho, hl]
  exact ⟨lighterOf_setLighter_self, hd, hlast, hhm, hman⟩

/-- What an accepted record leaves of the lighter and of its session's counter. -/
def recordTaken (id : Nat) (x : Lighter) : Lighter :=
  if x.bound then { x with inCounter := x.inCounter + 1 }
  else { x with bound := true, session := id, inCounter := 1, outCounter := 0 }

/-- What LIGHTER_RECORD does with the record in turn of a session that is known, by its counter and its check (R393, R446). -/
theorem execLighterRecord_inTurn {content id ctr : Nat} {auth : Bool} {d : Bytes} (hcore : coreRuns s = true) (hl : l < 16)
    (hon : (lighterOf l s).enable = true) (hmore : (lighterOf l s).inHead ≠ (lighterOf l s).inTail)
    (hctr : (lighterOf l s).inCounter < 2 ^ 32) (hknown : (s.sec.sessions.any fun y => y.id == id && y.open_) = true)
    (hid : (lighterOf l s).bound = true → (lighterOf l s).session = id) :
    exec (.lighterRecord l content id ctr auth d) s = .next (
      if ctr ≠ (if (lighterOf l s).bound then (lighterOf l s).inCounter else 0) then
        passRecord l d.length (discardRecord l 0x100A s)
      else if auth = false then passRecord l d.length (discardRecord l 0x1009 s)
      else if content = 1 ∧ takesMore l s = false then s
      else
        let t := passRecord l d.length (setLighter l (recordTaken id (lighterOf l s)) s)
        if content = 1 then lighterCommand l d t else if content = 4 then lighterTransaction d t else t) := by
  have hheld : ¬ (16 ≤ l ∨ (lighterOf l s).enable = false ∨ (lighterOf l s).inHead = (lighterOf l s).inTail) := by
    simp [hon, hmore, hl]
  have hsession : (!(lighterOf l s).bound || (lighterOf l s).session == id) = true := by
    cases hb : (lighterOf l s).bound with
    | false => rfl
    | true => simp [hid hb]
  rw [exec_lighterRecord, execLighterRecord, onCore_of_coreRuns hcore]
  simp only [if_neg hheld, hknown, hsession, recordTaken, Nat.not_le.2 hctr, and_false, if_false, Bool.and_self, Bool.not_true,
    Bool.false_or, bne_iff_ne, ne_eq, Bool.not_eq_true']

/-- A command of a lighter that passes its checks is taken (R404, R408). -/
theorem lighterCommand_taken {d : Bytes} (hcommand : (rawHdr d).command ≠ 0)
    (hcode : headerCode (rawHdr d) ((d.drop 32).take (rawHdr d).bodyBytes) 0 = 0)
    (hlive : ∀ j, descOf (rawHdr d).command ((d.drop 32).take (rawHdr d).bodyBytes) = some j → charterState (descCharter j) s ≠ 2) :
    lighterCommand l d s = { s with hm := { s.hm with taken := s.hm.taken ++ [
      { mailbox := l, tag := (rawHdr d).tag, command := (rawHdr d).command, units := 0, job := isJobCode (rawHdr d).command,
        change := none }] } } := by
  unfold lighterCommand
  extract_lets r body h gone c
  have hgone : gone = false := by
    simp only [gone]
    split
    · next j hj => exact beq_false_of_ne (hlive j hj)
    · rfl
  have hc : ¬ c ≠ 0 := by
    simp only [c, hgone]
    exact not_not_intro hcode
  rw [if_neg hcommand, if_neg hc]

/-- LIGHTER_READ_RETRY reads again until the eighth failure in a row. -/
theorem execLighterReadRetry_again (hcore : coreRuns s = true) (hl : l < 16) (hon : (lighterOf l s).enable = true)
    (hmore : (lighterOf l s).inHead ≠ (lighterOf l s).inTail) :
    exec (.lighterReadRetry l) s = .next (
      if 8 ≤ (lighterOf l s).failures + 1 then
        lighterCode l 0x1203 { unbind (lighterOf l s) with enable := false, fault := true } s
      else emit (.lighterRead l (64 * ((lighterOf l s).inHead % (ringBytes (lighterOf l s) / 64))))
        (setLighter l { lighterOf l s with failures := (lighterOf l s).failures + 1 } s)) := by
  have hheld : ¬ (16 ≤ l ∨ (lighterOf l s).enable = false ∨ (lighterOf l s).inHead = (lighterOf l s).inTail) := by
    simp [hon, hmore, hl]
  rw [exec_lighterReadRetry, execLighterReadRetry, onCore_of_coreRuns hcore]
  simp only [if_neg hheld]

end

/-! What saying something leaves of a lighter that is not enabled. -/

section
variable {l : Nat} {s : State}

theorem lighterOf_congr {t : State} (h : t.sec = s.sec) : lighterOf l t = lighterOf l s := by rw [lighterOf, lighterOf, h]

theorem lighterOf_withTel (s : State) (x : Telemetry) : lighterOf l { s with tel := x } = lighterOf l s := rfl

theorem lighterOf_withIsl (s : State) (x : Island) : lighterOf l { s with isl := x } = lighterOf l s := rfl

theorem signal_sec (v : Nat) (s : State) : (signal v s).sec = s.sec := by
  unfold signal
  split <;> rfl

theorem recordReason_sec (code : Nat) (s : State) : (recordReason code s).sec = s.sec := by
  unfold recordReason
  split <;> rfl

/-- A disabled lighter sends nothing. -/
theorem lighterOf_lighterSend_of_disabled (hoff : (lighterOf l s).enable = false) (k content : Nat) (plain : Bytes) :
    lighterOf l (lighterSend k content plain s) = lighterOf l s := by
  unfold lighterSend
  extract_lets x units ring at_ wrap x' s1 s2
  by_cases hk : k = l
  · have hx : (!x.enable || !x.bound) = true := by simp [x, hk, hoff]
    rw [if_pos hx]
  · have h2 : lighterOf l s2 = lighterOf l s := lighterOf_setLighter_ne (Ne.symm hk)
    clear_value s2
    split
    · rfl
    · split
      · rfl
      · split
        · rw [lighterOf_congr (signal_sec _ _), h2]
        · exact h2

theorem lighterOf_eventWrite_of_disabled (hoff : (lighterOf l s).enable = false) (rec : Bytes) :
    lighterOf l (eventWrite rec s) = lighterOf l s := by
  unfold eventWrite
  split
  · exact lighterOf_lighterSend_of_disabled hoff _ _ _
  · extract_lets t s1
    split
    · exact lighterOf_congr (signal_sec _ _)
    · rfl

theorem lighterOf_eventPut_of_disabled (hoff : (lighterOf l s).enable = false) (code : Nat) (summary : Bool)
    (fields : List (Nat × Nat)) : lighterOf l (eventPut code summary fields s) = lighterOf l s := by
  unfold eventPut
  extract_lets n rec tel s1 s2
  have h1 : lighterOf l s1 = lighterOf l s := lighterOf_withTel _ _
  clear_value s1
  have h2 : lighterOf l s2 = lighterOf l s1 := by
    unfold s2
    split
    · exact lighterOf_withTel _ _
    · exact lighterOf_eventWrite_of_disabled (h1.symm ▸ hoff) _
  clear_value s2
  split
  · exact (lighterOf_withIsl _ _).trans (h2.trans h1)
  · exact h2.trans h1

theorem lighterOf_raise_of_disabled (hoff : (lighterOf l s).enable = false) (code : Nat) (fields : List (Nat × Nat)) :
    lighterOf l (raise code fields s) = lighterOf l s := by
  have hreason : lighterOf l (recordReason code s) = lighterOf l s := lighterOf_congr (recordReason_sec _ _)
  exact (lighterOf_eventPut_of_disabled (hreason.symm ▸ hoff) _ _ _).trans hreason

end

/-- A lighter's fault is stored, recorded and raised (R446). -/
theorem lighterCode_disabled {l code : Nat} {x : Lighter} (hcode : code ≠ 0) (hoff : x.enable = false) (s : State) :
    lighterOf l (lighterCode l code x s) = { x with reason := code } ∧
    (tgetD (lighterCode l code x s).tel.reasons (code / 256) (0, 0, 0)).2.2 = code ∧
    (lighterCode l code x s).man = s.man ∧ (lighterCode l code x s).hm = s.hm := by
  refine ⟨(lighterOf_raise_of_disabled ?_ _ _).trans lighterOf_setLighter_self, lastCode_raise hcode _ _, ?_, raise_hm _ _ _⟩
  · exact (congrArg Lighter.enable lighterOf_setLighter_self).trans hoff
  · unfold lighterCode
    rw [show raise code [] _ = _ from raise_frame _ _ _]
    rfl

section
variable {s : State} {l content id ctr : Nat} {d : Bytes}

/-- The first record of a lighter binds its session; one without a command or a transaction is taken without effect (log 14). -/
theorem execLighterRecord_binds (hcore : coreRuns s = true) (hl : l < 16) (hon : (lighterOf l s).enable = true)
    (hmore : (lighterOf l s).inHead ≠ (lighterOf l s).inTail) (hctr : (lighterOf l s).inCounter < 2 ^ 32)
    (hknown : (s.sec.sessions.any fun y => y.id == id && y.open_) = true)
    (hfits : (lighterOf l s).inHead % (ringBytes (lighterOf l s) / 64) + cdiv (48 + roundUp d.length 16) 64 ≤
      ringBytes (lighterOf l s) / 64)
    (hfree : (lighterOf l s).bound = false) (hcommand : content ≠ 1) (htransaction : content ≠ 4) :
    ∃ o, exec (.lighterRecord l content id 0 true d) s = .next { setLighter l { lighterOf l s with
      bound := true, session := id, inCounter := 1, outCounter := 0,
      inHead := ((lighterOf l s).inHead + cdiv (48 + roundUp d.length 16) 64) % 2 ^ 32, failures := 0 }
      (setLighter l (recordTaken id (lighterOf l s)) s) with out := o } := by
  have hnew : recordTaken id (lighterOf l s) =
      { lighterOf l s with bound := true, session := id, inCounter := 1, outCounter := 0 } := by simp [recordTaken, hfree]
  obtain ⟨o, ho⟩ := passRecord_fits (l := l) (len := d.length) (s := setLighter l (recordTaken id (lighterOf l s)) s)
    (by rw [lighterOf_setLighter_self, hnew]; exact hfits)
  refine ⟨o, (execLighterRecord_inTurn hcore hl hon hmore hctr hknown fun h => absurd h (by simp [hfree])).trans ?_⟩
  simp only [hfree, hcommand, htransaction, ho, ne_eq, not_true_eq_false, Bool.false_eq_true, if_false, false_and,
    Bool.true_eq_false]
  rw [lighterOf_setLighter_self, hnew]

/-- A command in turn with its check right is taken, and the counter moves on. -/
theorem execLighterRecord_takes (hcore : coreRuns s = true) (hl : l < 16) (hon : (lighterOf l s).enable = true)
    (hmore : (lighterOf l s).inHead ≠ (lighterOf l s).inTail) (hctr : (lighterOf l s).inCounter < 2 ^ 32)
    (hknown : (s.sec.sessions.any fun y => y.id == id && y.open_) = true)
    (hfits : (lighterOf l s).inHead % (ringBytes (lighterOf l s) / 64) + cdiv (48 + roundUp d.length 16) 64 ≤
      ringBytes (lighterOf l s) / 64)
    (hb : (lighterOf l s).bound = true) (hid : (lighterOf l s).session = id) (hroom : takesMore l s = true)
    (hcommand : (rawHdr d).command ≠ 0) (hcode : headerCode (rawHdr d) ((d.drop 32).take (rawHdr d).bodyBytes) 0 = 0)
    (hlive : ∀ j, descOf (rawHdr d).command ((d.drop 32).take (rawHdr d).bodyBytes) = some j →
      charterState (descCharter j) s ≠ 2) :
    ∃ t, exec (.lighterRecord l 1 id (lighterOf l s).inCounter true d) s = .next t ∧
      t.hm = { s.hm with
        taken := s.hm.taken ++ [{ mailbox := l, tag := (rawHdr d).tag, command := (rawHdr d).command, units := 0,
                                  job := isJobCode (rawHdr d).command, change := none }] } ∧
      lighterOf l t = { lighterOf l s with
        inCounter := (lighterOf l s).inCounter + 1,
        inHead := ((lighterOf l s).inHead + cdiv (48 + roundUp d.length 16) 64) % 2 ^ 32, failures := 0 } ∧
      t.man = s.man := by
  have hnew : recordTaken id (lighterOf l s) = { lighterOf l s with inCounter := (lighterOf l s).inCounter + 1 } := by
    simp [recordTaken, hb]
  obtain ⟨o, ho⟩ := passRecord_fits (l := l) (len := d.length) (s := setLighter l (recordTaken id (lighterOf l s)) s)
    (by rw [lighterOf_setLighter_self, hnew]; exact hfits)
  have hexec := execLighterRecord_inTurn (content := 1) (ctr := (lighterOf l s).inCounter) (auth := true) (d := d) hcore hl hon hmore hctr hknown fun _ => hid
  rw [if_neg (by simp [hb]), if_neg (by decide), if_neg (by simp [hroom])] at hexec
  dsimp only at hexec
  rw [if_pos rfl, ho, lighterCommand_taken hcommand hcode (by exact hlive), lighterOf_setLighter_self, hnew] at hexec
  exact ⟨_, hexec, rfl, lighterOf_setLighter_self, rfl⟩

end

/-- Settles O59: entry is due at the next boundary and measured there; a record in turn is judged by its counter, its check and its
content, and a failed read by the failures before it. -/
theorem confidentialModeAndLighters : Obligations.ConfidentialModeAndLighters := by
  intro s hcore
  refine ⟨fun h hfw => ⟨fun hvia => ?asked, fun hvia => ?refused⟩,
    fun at_ h hat => ⟨execConfidentialEntry_waits hcore hat, execConfidentialEntry_enters hcore hat⟩, ?_, ?_⟩
  case asked =>
    rw [exec_confidentialEnter, execConfidentialEnter, onFw_of_fwRuns hfw]
    simp [hvia]
  case refused =>
    rw [exec_confidentialEnter, execConfidentialEnter, onFw_of_fwRuns hfw]
    simp [hvia]
  · intro l content id ctr auth d x units head known hl hon hmore hctr hknown hfits
    refine ⟨fun hb hid hne => ?counter, fun hb hid heq hauth => ?check, fun hb hzero hauth h1 h4 => ?first,
      fun hb hid heq hauth hcontent hroom hcommand hcode hlive => ?taken⟩
    case counter =>
      obtain ⟨hlighter, hdiscards, hreason, hhm, hman⟩ := discardRecord_passed (l := l) (s := s) (code := 0x100A) (by decide) hfits
      refine ⟨_, execLighterRecord_inTurn hcore hl hon hmore hctr hknown fun _ => hid, ?_⟩
      rw [if_pos (by rw [if_pos hb]; exact hne)]
      exact ⟨hlighter, hdiscards, hreason, hhm, hman⟩
    case check =>
      obtain ⟨hlighter, -, hreason, hhm, hman⟩ := discardRecord_passed (l := l) (s := s) (code := 0x1009) (by decide) hfits
      refine ⟨_, execLighterRecord_inTurn hcore hl hon hmore hctr hknown fun _ => hid, ?_⟩
      rw [if_neg (by rw [if_pos hb]; exact not_not_intro heq), if_pos hauth]
      exact ⟨hlighter, hreason, hhm, hman⟩
    case first =>
      obtain ⟨o, ho⟩ := execLighterRecord_binds (content := content) hcore hl hon hmore hctr hknown hfits hb h1 h4
      rw [hzero, hauth]
      exact ⟨_, ho, lighterOf_setLighter_self, rfl⟩
    case taken =>
      obtain ⟨t, hexec, hhm, hlighter, hman⟩ := execLighterRecord_takes hcore hl hon hmore hctr hknown hfits hb hid hroom hcommand
        hcode hlive
      rw [hcontent, hauth, heq]
      exact ⟨t, _, hexec, hhm, rfl, rfl, rfl, hlighter, hman⟩
  · intro l x hl hon hmore
    refine ⟨fun hfew => ?again, fun hmany => ?fault⟩
    case again =>
      refine ⟨_, 64 * (x.inHead % (ringBytes x / 64)), execLighterReadRetry_again hcore hl hon hmore, ?_⟩
      rw [if_neg (show ¬ 8 ≤ x.failures + 1 by omega)]
      exact ⟨lighterOf_setLighter_self, rfl⟩
    case fault =>
      obtain ⟨hlighter, hreason, hman, hhm⟩ := lighterCode_disabled (l := l) (code := 0x1203)
        (x := { unbind x with enable := false, fault := true }) (by decide) rfl s
      refine ⟨_, execLighterReadRetry_again hcore hl hon hmore, ?_⟩
      rw [if_pos (show 8 ≤ x.failures + 1 by omega)]
      exact ⟨by rw [hlighter], by rw [hlighter]; rfl, by rw [hlighter], by rw [hlighter], hreason, hman, by rw [hhm]⟩

end Sys2Proof.Machine
end

section
/-! PROOFS. Requests to the trays, sweeps, the ends of rotations and removals, harbour keys and page maps (O58). -/

namespace Sys2Proof.Machine
open Sys2Proof

/-! The requests that a step sends to the trays (R335). -/

/-- What sending requests to the trays changes: the requests kept, the items in the switch core and what is said. -/
def trayFrame (s t : State) : Prop :=
  passFrame { s with home := { s.home with trays := t.home.trays, nextTray := t.home.nextTray } } t

theorem trayFrame.refl (s : State) : trayFrame s s := rfl

theorem trayFrame.trans {s t u : State} (h : trayFrame s t) (k : trayFrame t u) : trayFrame s u := by
  unfold trayFrame passFrame at *
  refine k.trans ?_
  rw [h]

theorem passFrame.tray {s t : State} (h : passFrame s t) : trayFrame s t := by
  unfold trayFrame
  rw [h.home_eq]
  exact h

/-- Where a tray's request goes, and for what step. -/
def trayPlace (q : TrayReq) : Nat × Nat × Nat × Nat × Bool × Nat := (q.device, q.tray, q.module, q.offset, q.write, q.key)

section
variable {l : Lay} {key row m : Nat} {p : Nat × Nat × Nat} {write : Bool}

theorem trayIssue_frame (l : Lay) (key row m : Nat) (write : Bool) (data : Bytes) (s : State) :
    trayFrame s (trayIssue l key row m write data s) := by
  unfold trayIssue
  split
  · exact .refl s
  · extract_lets id x
    exact (show trayFrame s { s with home := { s.home with nextTray := id + 1, trays := s.home.trays ++ [x] } } from rfl).trans
      (sendTray_pass _ _ _ _ _ _ _ _ _).tray

theorem trayIssue_places (hm : l.mems[m]? = some p) (data : Bytes) (s : State) :
    (trayIssue l key row m write data s).home.trays.map trayPlace =
      s.home.trays.map trayPlace ++ [(p.1, p.2.1, p.2.2, 64 * row, write, key)] := by
  unfold trayIssue
  rw [hm]
  obtain ⟨d, t, mo⟩ := p
  extract_lets id x
  rw [(sendTray_pass _ _ _ _ _ _ _ _ _).home_eq, List.map_append]
  rfl

theorem issueFor_cons (c : Nat × Nat × Bytes) (cells : List (Nat × Nat × Bytes)) (s : State) :
    issueFor key l write (c :: cells) s = issueFor key l write cells (trayIssue l key c.1 c.2.1 write c.2.2 s) := rfl

theorem issueFor_frame (key : Nat) (l : Lay) (write : Bool) (cells : List (Nat × Nat × Bytes)) (s : State) :
    trayFrame s (issueFor key l write cells s) :=
  List.foldlRecOn (motive := trayFrame s) cells _ (.refl s) fun _ h _ _ => h.trans (trayIssue_frame _ _ _ _ _ _ _)

/-- Each cell of the list is asked for, in order, at the member that holds it. -/
theorem issueFor_places {cells : List (Nat × Nat × Bytes)} (hcells : ∀ c ∈ cells, (l.mems[c.2.1]?).isSome = true) (s : State) :
    (issueFor key l write cells s).home.trays.map trayPlace = s.home.trays.map trayPlace ++ cells.map fun c =>
      let p := (l.mems[c.2.1]?).getD (0, 0, 0)
      (p.1, p.2.1, p.2.2, 64 * c.1, write, key) := by
  induction cells generalizing s with
  | nil => exact (List.append_nil _).symm
  | cons c cells ih =>
    obtain ⟨hc, hcells⟩ := List.forall_mem_cons.1 hcells
    obtain ⟨p, hp⟩ := Option.isSome_iff_exists.1 hc
    rw [issueFor_cons, ih hcells, trayIssue_places hp, List.map_cons, hp, List.append_assoc]
    rfl

end

/-! A step that waits for its reads. -/

section
variable {key : Nat} {b : Batch} {l : Lay} {c : Nat × Nat} {cs : List (Nat × Nat)} {s : State}

theorem setBatch_frame (key : Nat) (b : Batch) (s : State) :
    setBatch key b s = { s with home := { s.home with queues := (setBatch key b s).home.queues } } := rfl

/-- A fresh step asks for the cells it needs and waits for them. -/
theorem pumpReads_asks (hbatch : (queueOf key s).batch = some b) (hstage : b.stage = 1) (hgot : b.got = [])
    (hwaits : awaited key s = []) (hneeds : (stepNeeds key b s).dedup = c :: cs) (hlay : stepLay key b s = some l) :
    pumpReads key s = setBatch key { b with
      awaiting := awaited key (issueFor key l false ((c :: cs).map fun c => (c.1, c.2, [])) s) }
      (issueFor key l false ((c :: cs).map fun c => (c.1, c.2, [])) s) := by
  have hready : ¬(b.stage ≠ 1 ∨ awaited key s ≠ []) := by simp [hstage, hwaits]
  have hmissing : ((stepNeeds key b s).dedup.filter fun c => (tget b.got (cellOf c.1 c.2)).isNone) = c :: cs := by
    rw [hneeds, hgot]
    exact List.filter_eq_self.2 fun _ _ => rfl
  unfold pumpReads
  simp only [hbatch, if_neg hready, hmissing, hlay]

theorem endOwnStep_reading (hbatch : (queueOf key s).batch = some b) (hstage : b.stage = 1) : endOwnStep key s = s := by
  unfold endOwnStep
  simp only [hbatch]
  exact if_pos (.inr (.inl (by simp [hstage])))

theorem queueOf_setBatch (key : Nat) (b : Batch) (s : State) : (queueOf key (setBatch key b s)).batch = some b := by
  rw [setBatch, queueOf_setQueue_self]

/-- A step that starts asks for the cells it needs and goes on waiting. -/
theorem startStep_asks (hstage : b.stage = 1) (hgot : b.got = []) (hwaits : awaited key s = [])
    (hneeds : (stepNeeds key b (setQueue key { queue := [], batch := some b } s)).dedup = c :: cs)
    (hlay : stepLay key b (setQueue key { queue := [], batch := some b } s) = some l) :
    ∃ t, endOwnStep key (pumpReads key (setQueue key { queue := [], batch := some b } s)) = t ∧
      trayFrame { s with home := { s.home with queues := t.home.queues } } t ∧
      ((∀ e ∈ c :: cs, (l.mems[e.2]?).isSome = true) → t.home.trays.map trayPlace = s.home.trays.map trayPlace ++
        (c :: cs).map fun c =>
          let p := (l.mems[c.2]?).getD (0, 0, 0)
          (p.1, p.2.1, p.2.2, 64 * c.1, false, key)) := by
  have hbatch : (queueOf key (setQueue key { queue := [], batch := some b } s)).batch = some b := by rw [queueOf_setQueue_self]
  have hstart : setQueue key { queue := [], batch := some b } s =
    { s with home := { s.home with queues := (setQueue key { queue := [], batch := some b } s).home.queues } } := rfl
  generalize setQueue key { queue := [], batch := some b } s = u at *
  rw [pumpReads_asks hbatch hstage hgot (by rw [hstart]; exact hwaits) hneeds hlay,
    endOwnStep_reading (queueOf_setBatch _ _ _) (by exact hstage)]
  have hframe := issueFor_frame key l false ((c :: cs).map fun c => (c.1, c.2, [])) u
  have hplaces := fun h => issueFor_places (l := l) (key := key) (write := false)
    (cells := (c :: cs).map fun c => (c.1, c.2, ([] : Bytes))) h u
  generalize issueFor key l false ((c :: cs).map fun c => (c.1, c.2, [])) u = v at *
  refine ⟨_, rfl, ?_, fun hcells => ?_⟩
  · rw [setBatch_frame]
    unfold trayFrame passFrame at *
    rw [hframe, hstart]
  · refine (hplaces fun c hc => ?_).trans ?_
    · obtain ⟨e, he, hce⟩ := List.mem_map.1 hc
      exact hce ▸ hcells e he
    · rw [hstart, List.map_map]
      rfl

end

/-! A rotation's sweep (R390, R395). -/

section
variable {c entry page : Nat} {x : Sweep} {s : State}

theorem sweepOf_charter (h : sweepOf c false s = some x) : x.charter = c ∧ x.removal = false := by
  have hx := List.find?_some h
  simpa using hx

/-- A sweep put back stands where the one before it stood. -/
theorem sweepOf_setSweep {y : Sweep} (h : sweepOf c false s = some x) (hc : y.charter = x.charter) (hr : y.removal = x.removal) :
    sweepOf c false (setSweep y s) = some y := by
  obtain ⟨hcharter, hremoval⟩ := sweepOf_charter h
  rw [hcharter] at hc
  rw [hremoval] at hr
  have hsame : ((fun z : Sweep => z.charter == c && z.removal == false) ∘ fun z : Sweep =>
      if z.charter == c && z.removal == false then y else z) = fun z : Sweep => z.charter == c && z.removal == false := by
    funext z
    simp only [Function.comp_apply]
    split
    · next hz => simpa [hc, hr] using hz
    · rfl
  unfold sweepOf at h ⊢
  unfold setSweep
  simp only [hc, hr, List.find?_map, hsame, h, Option.map_some]
  simp [hcharter, hremoval]

/-- A step that reads or marks nothing waits for its credit. -/
theorem execSweepPageStep_waits (hcore : coreRuns s = true) (hx : sweepOf c false s = some x) (hcredit : x.credit < 4096) :
    exec (.sweepPageStep c entry page) s = .next s := by
  rw [exec_sweepPageStep, execSweepPageStep, onCore_of_coreRuns hcore]
  simp only [hx, if_pos hcredit]

theorem reportRotation_reported (hx : sweepOf c false s = some x) (hreported : x.reported = true) : reportRotation c s = s := by
  unfold reportRotation
  simp [hx, hreported]

/-- A page of Stage is marked with the current epoch (log 41, log 42). -/
theorem execSweepPageStep_stage {l : List Nat} (hcore : coreRuns s = true) (hsweeps : s.sec.sweeps = [x]) (hc : x.charter = c)
    (hrotation : x.removal = false) (hreported : x.reported = true) (hcredit : 4096 ≤ x.credit) (hentry : 2 ^ 19 ≤ entry)
    (hold : oldStagePages c s = page :: l) :
    exec (.sweepPageStep c entry page) s = .next { s with sec := { s.sec with
      stagePages := tput s.sec.stagePages page (c, epochOf c s), sweeps := [{ x with credit := x.credit - 4096 }] } } := by
  have hx : sweepOf c false s = some x := by simp [sweepOf, hsweeps, hc, hrotation]
  rw [exec_sweepPageStep, execSweepPageStep, onCore_of_coreRuns hcore]
  simp only [hx, if_neg (Nat.not_lt.2 hcredit), if_pos hentry, hold, List.head?_cons, if_true]
  rw [reportRotation_reported (x := { x with credit := x.credit - 4096 })]
  · simp [setSweep, hsweeps]
  · exact sweepOf_setSweep (s := { s with sec := { s.sec with stagePages := _ } }) hx rfl rfl
  · exact hreported

/-! A page's step needs the cells of the page. -/

/-- The layout of an extent without redundancy has one member. -/
theorem layOf_plain {e : Entry} (h : e.redundancy = 0) (s : State) : layOf e s =
    { k := 1, par := 0, rot := false, mems := [modParts (modAddr e.baseFpa)], states := [0], group := none,
      base := e.baseFpa % 2 ^ 38 / 64 } := by
  rw [layOf, if_pos h]

/-- One member that has not failed is all a row without redundancy needs. -/
theorem needMembers_plain {l : Lay} (hk : l.k = 1) (hpar : l.par = 0) (hrot : l.rot = false)
    (hlive : ∀ row, missing l row 0 s = false) (row j : Nat) (write : Bool) : needMembers l row j write [] s = [0] := by
  have hparity : parityMembers l row = [] := by simp [parityMembers, hrot, hpar]
  have hdata : dataMembers l row = [0] := by simp [dataMembers, hparity, hk, hpar, List.range_succ]
  have hd : dataMember l row j = 0 := by
    rw [dataMember, hdata]
    cases j <;> simp
  have hmembers : liveMembers l row s = [0] := by simp [liveMembers, hk, hpar, List.range_succ, hlive]
  have hbeyond : beyond l row s = false := by simp [beyond, hk, hpar, List.range_succ, hlive]
  simp [needMembers, hd, hmembers, hbeyond, hk, cellBad, tget]

/-- The step that reads a page of an entry without redundancy asks for the page's cells (R390). -/
theorem stepNeeds_page {key : Nat} (hsync : tget s.home.resyncs entry = none) (hplain : (entryOf entry s).redundancy = 0)
    (hpage : pageEpoch entry page s ≠ none)
    (hlive : ∀ row, missing (layOf (entryOf entry s) s) row 0 s = false) :
    (stepNeeds key (newStep 1 (entry, page) []) s).dedup ≠ [] ∧
    ∀ c ∈ (stepNeeds key (newStep 1 (entry, page) []) s).dedup, c.2 = 0 := by
  have hlay := layOf_plain hplain s
  have hread : (stepPage key (newStep 1 (entry, page) []) s).isNone = false := by
    unfold stepPage
    simp only [stepEntry, newStep, one_ne_zero, if_false, Nat.mul_div_cancel page (by decide : 0 < 4096)]
    split
    · simpa using Option.isSome_iff_ne_none.2 hpage
    · rfl
  have hneed : stepNeeds key (newStep 1 (entry, page) []) s = (stepGranules key (newStep 1 (entry, page) []) s).map fun off =>
      (rowOf (layOf (entryOf entry s) s) off, 0) := by
    have hsynced : ∀ row l, mustSync entry row l s = false := by simp [mustSync, unsynced, hsync]
    have hmembers := needMembers_plain (l := layOf (entryOf entry s) s) (by rw [hlay]) (by rw [hlay]) (by rw [hlay]) hlive
    have hfresh : (newStep 1 (entry, page) []).accesses = [] ∧ (newStep 1 (entry, page) []).dirty = none ∧
      (newStep 1 (entry, page) []).lost = false ∧ (newStep 1 (entry, page) []).got = [] ∧
      (newStep 1 (entry, page) []).kind = 1 := ⟨rfl, rfl, rfl, rfl, rfl⟩
    obtain ⟨haccesses, hdirty, hlost, hgot, hkind⟩ := hfresh
    unfold stepNeeds granuleNeeds
    simp only [hkind, le_refl, if_true, haccesses, hdirty, hlost, hgot, hread, Option.isSome_none, Bool.or_false, Bool.and_false,
      Bool.false_eq_true, if_false]
    simp only [stepEntry, one_ne_zero, if_false, newStep, hsynced, Bool.false_eq_true, hmembers, List.map_cons, List.map_nil]
    exact List.map_eq_flatMap.symm
  rw [hneed]
  refine ⟨?_, fun c hc => ?_⟩
  · rw [Ne, List.dedup_eq_nil, List.map_eq_nil_iff]
    simp [stepGranules, newStep]
  · obtain ⟨off, -, rfl⟩ := List.mem_map.1 (List.mem_dedup.1 hc)
    rfl

/-- The sweep reads the charter's next page in step of its credit (R390). -/
theorem execSweepPageStep_reads (hcore : coreRuns s = true) (hx : sweepOf c false s = some x) (hcredit : 4096 ≤ x.credit)
    (hentry : entry < 2 ^ 19) (hnext : nextPage c s = some (entry, page)) (hqueues : s.home.queues = []) (htrays : s.home.trays = [])
    (hwait : s.home.pageWait = []) (hsync : tget s.home.resyncs entry = none) (hplain : (entryOf entry s).redundancy = 0)
    (hpage : pageEpoch entry page s ≠ none)
    (hlive : moduleFailed (modParts (modAddr (entryOf entry s).baseFpa)).1 (modParts (modAddr (entryOf entry s).baseFpa)).2.1
      (modParts (modAddr (entryOf entry s).baseFpa)).2.2 s = false) :
    ∃ t q, exec (.sweepPageStep c entry page) s = .next t ∧ sweepOf c false t = some { x with credit := x.credit - 4096 } ∧
      q ∈ t.home.trays ∧ q.write = false ∧ q.key = 2 ^ 60 + 2 ^ 56 + entry * 2 ^ 36 + page ∧ t.man = s.man := by
  have hsweep : sweepOf c false (setSweep { x with credit := x.credit - 4096 } s) = some { x with credit := x.credit - 4096 } :=
    sweepOf_setSweep hx rfl rfl
  have hpaid : setSweep { x with credit := x.credit - 4096 } s =
    { s with sec := { s.sec with sweeps := (setSweep { x with credit := x.credit - 4096 } s).sec.sweeps } } := rfl
  have hidle : ∀ k, (queueOf k s).batch = none := fun k => by simp [queueOf, hqueues, tgetD, tget]
  have hexec : exec (.sweepPageStep c entry page) s =
      .next (sweepPage entry page (setSweep { x with credit := x.credit - 4096 } s)) := by
    have hsweeping : sweeping entry page s = false := by simp [sweeping, hidle]
    rw [exec_sweepPageStep, execSweepPageStep, onCore_of_coreRuns hcore]
    simp only [hx, if_neg (Nat.not_lt.2 hcredit), if_neg (Nat.not_le.2 hentry), hnext, hsweeping, and_self, if_true]
  generalize setSweep { x with credit := x.credit - 4096 } s = u at hsweep hpaid hexec
  have huhome : u.home = s.home := by rw [hpaid]
  have human : u.man = s.man := by rw [hpaid]
  have huent : entryOf entry u = entryOf entry s := by rw [hpaid]; rfl
  have hstart : sweepPage entry page u = endOwnStep (2 ^ 60 + 2 ^ 56 + entry * 2 ^ 36 + page)
      (pumpReads (2 ^ 60 + 2 ^ 56 + entry * 2 ^ 36 + page) (setQueue (2 ^ 60 + 2 ^ 56 + entry * 2 ^ 36 + page)
        { queue := [], batch := some (newStep 1 (entry, page) []) } u)) := by
    have hfree : stepFree (2 ^ 60 + 2 ^ 56 + entry * 2 ^ 36 + page) (newStep 1 (entry, page) []) u = true := by
      simp [stepFree, huhome, hqueues]
    have hnone : (queueOf (2 ^ 60 + 2 ^ 56 + entry * 2 ^ 36 + page) u).batch = none := by rw [hpaid]; exact hidle _
    unfold sweepPage
    simp only [hnone, hfree, huhome, hwait]
    exact if_neg (by simp)
  generalize 2 ^ 60 + 2 ^ 56 + entry * 2 ^ 36 + page = key at hstart ⊢
  have hvhome : ∀ q, (setQueue key q u).home = { s.home with queues := (setQueue key q u).home.queues } := fun q => by
    rw [← huhome]
    rfl
  have hvplain : ∀ q, (entryOf entry (setQueue key q u)).redundancy = 0 := fun q => by
    rw [show entryOf entry (setQueue key q u) = entryOf entry u from rfl, huent]
    exact hplain
  have hvlay := fun q => layOf_plain (hvplain q) (setQueue key q u)
  have hneeds := fun q => stepNeeds_page (key := key) (page := page) (entry := entry) (s := setQueue key q u)
    (by rw [hvhome]; exact hsync) (hvplain q) (by unfold pageEpoch at hpage ⊢; rw [hvhome]; exact hpage) fun row => by
      have hfailed : ∀ d t m, moduleFailed d t m (setQueue key q u) = moduleFailed d t m s := fun d t m => by
        rw [moduleFailed, hvhome, show (setQueue key q u).ing = s.ing by rw [show (setQueue key q u).ing = u.ing from rfl, hpaid]]
        rfl
      rw [hvlay, show entryOf entry (setQueue key q u) = entryOf entry u from rfl, huent]
      simp [missing, hfailed, hlive]
  obtain ⟨hsome, hzero⟩ := hneeds { queue := [], batch := some (newStep 1 (entry, page) []) }
  obtain ⟨b, l, hcells⟩ := List.exists_cons_of_ne_nil hsome
  obtain ⟨t, ht, hframe, hplaces⟩ := startStep_asks (key := key) (b := newStep 1 (entry, page) []) rfl rfl
    (by rw [awaited, huhome, htrays]; rfl) hcells rfl
  rw [hcells] at hzero
  have hmember : ∀ e ∈ b :: l, ((layOf (entryOf entry (setQueue key { queue := [], batch := some (newStep 1 (entry, page) []) } u))
      (setQueue key { queue := [], batch := some (newStep 1 (entry, page) []) } u)).mems[e.2]?).isSome = true := by
    intro e he
    rw [hzero e he, hvlay]
    rfl
  have hasked := hplaces hmember
  rw [huhome, htrays, List.map_nil, List.nil_append, List.map_cons] at hasked
  obtain ⟨q, hq, hplace⟩ := List.mem_map.1 (hasked ▸ List.mem_cons_self)
  refine ⟨t, q, hexec.trans (by rw [hstart, ht]), ?_, hq, ?_, ?_, hframe.man_eq.trans human⟩
  · rw [← hsweep, sweepOf, sweepOf, hframe]
  · exact congrArg (fun p => p.2.2.2.2.1) hplace
  · exact congrArg (fun p => p.2.2.2.2.2) hplace

end

/-! The reports and the ends of rotations and removals (R395, R398). -/

section
variable {c d : Nat} {i : Issued} {s : State}

theorem issuedFor_only {removal : Bool} (hissued : s.man.issued = [i]) (happlied : i.applied = true)
    (hchange : i.change = .charterRevoke c ∧ removal = true ∨ ∃ rate key, i.change = .charterRotate c rate key ∧ removal = false) :
    issuedFor c removal s = some i := by
  rcases hchange with ⟨hchange, rfl⟩ | ⟨rate, key, hchange, rfl⟩
  · simp [issuedFor, hissued, happlied, hchange]
  · simp [issuedFor, hissued, happlied, hchange]

theorem announceEnd_waits {removal : Bool} {e : Nat} (hfor : issuedFor c removal s = some i) (he : e ∈ i.awaiting)
    (hopen : e ∉ i.reports) (hhere : e ∉ s.ing.lostHomes) : announceEnd c removal s = s := by
  have hmore : ¬ (i.awaiting.all fun m => i.reports.contains m || s.ing.lostHomes.contains m) = true := by
    rw [List.all_eq_true]
    intro h
    have := h e he
    simp [hopen, hhere] at this
  unfold announceEnd
  simp only [hfor, Bool.eq_false_iff.2 hmore]
  exact if_pos (by simp)

/-- The last report has the boundary 4 tides on announced to every member. -/
theorem announceEnd_last {removal : Bool} (hfor : issuedFor c removal s = some i) (hissued : s.man.issued = [i])
    (hend : i.endAt = none) (hreported : ∀ e ∈ i.awaiting, e ∈ i.reports) (hring : reachesRing s) :
    (announceEnd c removal s).man = { s.man with issued := [{ i with endAt := some (s.tide.count + 4) }] } ∧
    Posts (.control (self s) s.ring.nextMsg ctlKeyBoundary [c, s.tide.count + 4, b2n removal]) (announceEnd c removal s) ∧
    (announceEnd c removal s).sec = { s.sec with sweeps := s.sec.sweeps.map fun x =>
      if x.charter == c && x.removal == removal then { x with endAt := some (s.tide.count + 4) } else x } := by
  have hall : (i.awaiting.all fun m => i.reports.contains m || s.ing.lostHomes.contains m) = true := by
    rw [List.all_eq_true]
    intro e he
    simp [hreported e he]
  have hann : announceEnd c removal s = keyBoundary c (s.tide.count + 4) removal (broadcast ctlKeyBoundary
      [c, s.tide.count + 4, b2n removal] (setIssued { i with endAt := some (s.tide.count + 4) } s)) := by
    unfold announceEnd
    simp only [hfor, hall, hend]
    exact if_neg (by decide)
  have hset : (setIssued { i with endAt := some (s.tide.count + 4) } s) =
      { s with man := { s.man with issued := [{ i with endAt := some (s.tide.count + 4) }] } } := by
    simp [setIssued, hissued]
  rw [hann, hset]
  have hposts := broadcast_posts (s := { s with man := { s.man with issued := [{ i with endAt := some (s.tide.count + 4) }] } })
    hring ctlKeyBoundary [c, s.tide.count + 4, b2n removal]
  unfold broadcast at hposts ⊢
  rw [control_eq] at hposts ⊢
  exact ⟨rfl, hposts, rfl⟩

/-- A report that is not yet there is stored, with its counts where it is of a removal, and may end the rotation or removal. -/
theorem takeReport_new {removal : Bool} {counts : List Nat} (hfor : issuedFor c removal s = some i) (hissued : s.man.issued = [i])
    (hnew : d ∉ i.reports) :
    takeReport c d removal counts s = announceEnd c removal { s with man := { s.man with issued := [{ i with
      reports := insertSorted d i.reports,
      tally := if removal then (i.tally.zip counts).map fun p => p.1 + p.2 else i.tally }] } } := by
  unfold takeReport
  simp only [hfor, List.contains_eq_mem, hnew, decide_false, Bool.false_eq_true, if_false]
  simp [setIssued, hissued]

end

section
variable {c at_ : Nat} {x : Sweep} {ch : Charter} {s : State}

theorem issuedFor_of_nil {removal : Bool} (h : s.man.issued = []) : issuedFor c removal s = none := by simp [issuedFor, h]

theorem execRotationComplete_waits (hcore : coreRuns s = true) (hx : sweepOf c false s = some x)
    (hch : tget s.man.charters c = some ch) (hend : x.endAt = some at_) (hearly : s.tide.count < at_) :
    exec (.rotationComplete c) s = .next s := by
  rw [exec_rotationComplete, execRotationComplete, onCore_of_coreRuns hcore, finishRotation]
  simp only [hx, hch, hend, if_pos hearly]

/-- The charter with the slot of the epoch before its own zeroized (R396). -/
def slotCleared (ch : Charter) : Charter :=
  if (ch.epoch + 1) % 2 = 0 then { ch with rotating := false, slot0 := 0 } else { ch with rotating := false, slot1 := 0 }

/-- At its boundary a rotation ends: the old slot's key is zeroized and the sweep is over (R396). -/
theorem execRotationComplete_ends (hcore : coreRuns s = true) (hx : sweepOf c false s = some x)
    (hch : tget s.man.charters c = some ch) (hend : x.endAt = some at_) (hdue : at_ ≤ s.tide.count) (hissued : s.man.issued = []) :
    exec (.rotationComplete c) s = .next { s with
      man := { s.man with charters := tput s.man.charters c (slotCleared ch) },
      sec := { s.sec with keys := tdel s.sec.keys (2 * c + (ch.epoch + 1) % 2),
                          sweeps := s.sec.sweeps.filter fun y => y.charter != c || y.removal } } := by
  rw [exec_rotationComplete, execRotationComplete, onCore_of_coreRuns hcore, finishRotation]
  simp only [hx, hch, hend, if_neg (Nat.not_lt.2 hdue)]
  rw [issuedFor_of_nil (by exact hissued)]
  rfl

theorem execRemovalComplete_waits (hcore : coreRuns s = true) (hx : sweepOf c true s = some x) (hend : x.endAt = some at_)
    (hearly : s.tide.count < at_) : exec (.removalComplete c) s = .next s := by
  rw [exec_removalComplete, execRemovalComplete, onCore_of_coreRuns hcore, finishRemoval]
  simp only [hx, hend, if_pos hearly]

/-- At its boundary a removal leaves nothing of its charter behind (R398). -/
theorem execRemovalComplete_ends (hcore : coreRuns s = true) (hx : sweepOf c true s = some x) (hend : x.endAt = some at_)
    (hdue : at_ ≤ s.tide.count) (hissued : s.man.issued = []) : exec (.removalComplete c) s = .next (clearCharter c s) := by
  rw [exec_removalComplete, execRemovalComplete, onCore_of_coreRuns hcore, finishRemoval]
  simp only [hx, hend, if_neg (Nat.not_lt.2 hdue)]
  rw [issuedFor_of_nil hissued]

theorem clearCharter_leaves (c : Nat) (s : State) :
    tget (clearCharter c s).man.charters c = none ∧ tget (clearCharter c s).man.members c = none ∧
      tget (clearCharter c s).sec.keys (2 * c) = none ∧ tget (clearCharter c s).sec.keys (2 * c + 1) = none ∧
      (∀ y ∈ (clearCharter c s).sec.stagePages, y.2.1 ≠ c) ∧ (∀ y ∈ (clearCharter c s).sec.sweeps, y.charter ≠ c) ∧
      (clearCharter c s).stage = (lockStage c s).stage ∧ (clearCharter c s).man.entries = s.man.entries ∧
      (clearCharter c s).acc = s.acc ∧ (clearCharter c s).ing = s.ing := by
  have hlocked := lockStage_eq c s
  unfold clearCharter
  generalize lockStage c s = u at hlocked ⊢
  refine ⟨tget_tdel_self _ _, tget_tdel_self _ _, ?_, tget_tdel_self _ _, fun y hy => ?_, fun y hy => ?_, rfl, by rw [hlocked],
    by rw [hlocked], by rw [hlocked]⟩
  · change tget (tdel (tdel u.sec.keys (2 * c)) (2 * c + 1)) (2 * c) = none
    rw [tdel_comm]
    exact tget_tdel_self _ _
  · simpa using List.of_mem_filter hy
  · simpa using List.of_mem_filter hy

/-! Harbour keys and page maps (R384). -/

theorem isComposition_of_needsHarbour {k : Change} (h : needsHarbour k s = true) : isComposition k = true := by
  unfold needsHarbour at h
  split at h
  · rfl
  · cases h

theorem setNotice_only {n m : Notice} (hnotices : s.man.notices = [n]) (hid : m.id = n.id) :
    setNotice m s = { s with man := { s.man with notices := [m] } } := by
  simp [setNotice, hnotices, hid]

theorem waiting_notice {n : Notice} (hnotices : s.man.notices = [n]) (hopen : n.committed = false)
    (hcomp : isComposition n.change = true) :
    (s.man.notices.filter fun n => !n.committed && isComposition n.change) = [n] := by
  rw [hnotices]
  simp [hopen, hcomp]

/-- A fresh harbour key has the notice that waited for it answered ready. -/
theorem execHarbourKeyAgreement_ready {n : Notice} {key : Bytes} (hcore : coreRuns s = true) (hnotices : s.man.notices = [n])
    (hopen : n.committed = false) (hwaits : n.ready = false) (hneeds : needsHarbour n.change s = true) (hother : n.id.issuer ≠ self s) :
    exec (.harbourKeyAgreement true key) s = .next (control (some n.id.issuer) ctlReady [n.id.issuer, n.id.number]
      { s with man := { s.man with notices := [{ n with ready := true }] },
               sec := { s.sec with harbourKey := some (fit 32 key) } }) := by
  have hwaiting := waiting_notice hnotices hopen (isComposition_of_needsHarbour hneeds)
  have hunready : ([n].filter fun n => !n.ready && needsHarbour n.change
      { s with sec := { s.sec with harbourKey := some (fit 32 key) } }) = [n] :=
    List.filter_eq_self.2 fun m hm => by
      rw [List.mem_singleton.1 hm, hwaits]
      exact hneeds
  rw [exec_harbourKeyAgreement, execHarbourKeyAgreement, onCore_of_coreRuns hcore]
  simp only [hwaiting, hunready, if_true, List.foldl_cons, List.foldl_nil]
  rw [setNotice_only (n := n) (by exact hnotices) (by rfl)]
  exact congrArg _ (if_neg hother)

/-- A failed agreement has it answered not ready. -/
theorem execHarbourKeyAgreement_notReady {n : Notice} {key : Bytes} (hcore : coreRuns s = true) (hnotices : s.man.notices = [n])
    (hopen : n.committed = false) (hneeds : needsHarbour n.change s = true) (hother : n.id.issuer ≠ self s) :
    exec (.harbourKeyAgreement false key) s =
      .next (control (some n.id.issuer) ctlNotReady [n.id.issuer, n.id.number, 0x100E] s) := by
  rw [exec_harbourKeyAgreement, execHarbourKeyAgreement, onCore_of_coreRuns hcore]
  simp only [waiting_notice hnotices hopen (isComposition_of_needsHarbour hneeds), Bool.false_eq_true, if_false, List.foldl_cons,
    List.foldl_nil, if_neg hother]

theorem mem_tput_of_ne {α : Type} {k : Nat} {v : α} {y : Nat × α} (hne : y.1 ≠ k) : ∀ {t : Tbl α}, y ∈ t → y ∈ tput t k v
  | (a, w) :: r, h => by
    rw [tput]
    split
    · next ha =>
      rcases List.mem_cons.1 h with rfl | h
      · exact absurd ha hne
      · exact List.mem_cons_of_mem _ h
    · split
      · exact List.mem_cons_of_mem _ h
      · rcases List.mem_cons.1 h with rfl | h
        · exact List.mem_cons_self
        · exact List.mem_cons_of_mem _ (mem_tput_of_ne hne h)

/-- A page map of one page replaces the entry's pages. -/
theorem execPageMapTransfer_one {entry p v : Nat} (hcore : coreRuns s = true) (hwait : entry ∈ s.home.pageWait) :
    exec (.pageMapTransfer entry [(p, v)]) s = .next { s with home := { s.home with
      pages := tput (s.home.pages.filter fun y => y.1 / 2 ^ 18 != entry) (2 ^ 18 * entry + p % 2 ^ 18) (v % 16),
      pageWait := s.home.pageWait.filter fun x => x != entry } } := by
  have hasked : ¬(!s.home.pageWait.contains entry) = true := by simp [hwait]
  rw [exec_pageMapTransfer, execPageMapTransfer, onCore_of_coreRuns hcore]
  simp only [if_neg hasked, List.foldl_cons, List.foldl_nil]

theorem reported_of_last {i : Issued} {d : Nat} (hlast : i.awaiting = [d]) :
    ∀ e ∈ i.awaiting, e ∈ insertSorted d i.reports := by
  intro e he
  rw [hlast] at he
  rw [List.mem_singleton.1 he]
  exact mem_insertSorted _ _

/-- The sweeps a boundary is announced for end there. -/
theorem ended_of_boundary {l : List Sweep} {y : Sweep} {b : Nat} {removal : Bool}
    (hy : y ∈ l.map fun x => if x.charter == c && x.removal == removal then { x with endAt := some b } else x)
    (hc : y.charter = c) (hr : y.removal = removal) : y.endAt = some b := by
  obtain ⟨x, -, rfl⟩ := List.mem_map.1 hy
  split at hc
  · next hx => rw [if_pos hx]
  · next hx =>
    rw [if_neg hx] at hr
    exact absurd (by simp [hc, hr]) hx

end

/-- Settles O58: a step of the sweep by what it reads or marks, a report by whether it is the last, an end by its boundary, a key
agreement by the notice that waits for it, a page map by its entry. -/
theorem keysAndPages : Obligations.KeysAndPages := by
  intro c s hcore told b
  refine ⟨fun x entry page hx hcredit hentry hnext hq ht hw hsync hplain hpage hlive =>
      execSweepPageStep_reads hcore hx hcredit hentry hnext hq ht hw hsync hplain hpage hlive,
    fun x entry page l hsweeps hc hrot hrep hcredit hentry hold =>
      execSweepPageStep_stage hcore hsweeps hc hrot hrep hcredit hentry hold,
    fun x entry page hx hcredit => execSweepPageStep_waits hcore hx hcredit,
    fun i rate key d hissued hchange happlied hend hnew => ⟨fun e he hne hopen hhere => ?more, fun hlast hring => ?last⟩,
    fun x ch at_ hx hch hend hissued => ⟨fun hearly => execRotationComplete_waits hcore hx hch hend hearly, fun hdue => ?rotated⟩,
    fun i d p q r p' q' r' hissued hchange happlied hend hnew htally hlast hring => ?removal,
    fun x at_ hx hend => ⟨fun hearly => execRemovalComplete_waits hcore hx hend hearly, fun hdue hissued =>
      ⟨_, execRemovalComplete_ends hcore hx hend hdue hissued, clearCharter_leaves c s⟩⟩,
    fun key hnotices => ?fresh,
    fun n key hnotices hopen hwaits hneeds hother => ⟨?ready, ?notReady⟩,
    fun entry p v hwait => ?pages,
    fun entry l hnot => ?other⟩
  case more =>
    have hfor := issuedFor_only (c := c) (removal := false) hissued happlied (.inr ⟨rate, key, hchange, rfl⟩)
    rw [exec_rotationDoneReport, execRotationDoneReport, onCore_of_coreRuns hcore, takeReport_new hfor hissued hnew]
    refine congrArg _ (announceEnd_waits (i := { i with reports := insertSorted d i.reports })
      (issuedFor_only rfl happlied (.inr ⟨rate, key, hchange, rfl⟩)) he ?_ hhere)
    rw [mem_insertSorted_iff]
    exact not_or.2 ⟨hne, hopen⟩
  case last =>
    have hfor := issuedFor_only (c := c) (removal := false) hissued happlied (.inr ⟨rate, key, hchange, rfl⟩)
    obtain ⟨hman, ⟨m, hm, hmsg⟩, hsec⟩ := announceEnd_last (c := c) (removal := false)
      (i := { i with reports := insertSorted d i.reports })
      (s := { s with man := { s.man with issued := [{ i with reports := insertSorted d i.reports }] } })
      (issuedFor_only rfl happlied (.inr ⟨rate, key, hchange, rfl⟩)) rfl hend (reported_of_last hlast) hring
    refine ⟨_, ?_, congrArg Manifest.issued hman, ⟨m, hm, _, hmsg⟩, fun y hy hc hr => ?_, by rw [hsec]⟩
    · rw [exec_rotationDoneReport, execRotationDoneReport, onCore_of_coreRuns hcore, takeReport_new hfor hissued hnew]
      rfl
    · rw [hsec] at hy
      exact ended_of_boundary hy hc hr
  case rotated =>
    have hkeys : ∀ n, ch.epoch % 2 = n → n < 2 → (ch.epoch + 1) % 2 = 1 - n := by omega
    refine ⟨_, slotCleared ch, execRotationComplete_ends hcore hx hch hend hdue hissued, tget_tput_self _ _ _, ?_, ?_, ?_,
      fun hodd => ?_, fun heven => ?_, ?_, rfl, rfl⟩
    · unfold slotCleared
      split <;> rfl
    · unfold slotCleared
      split <;> rfl
    · unfold slotCleared
      split <;> rfl
    · have hold := hkeys 1 hodd (by decide)
      simp [slotCleared, hold]
    · have hold := hkeys 0 heven (by decide)
      simp [slotCleared, hold]
    · rw [sweepOf, List.find?_eq_none]
      intro y hy
      have hkept := List.of_mem_filter hy
      simp only [Bool.or_eq_true, bne_iff_ne, ne_eq] at hkept
      rcases hkept with hne | hr
      · simp [hne]
      · simp [hr]
  case removal =>
    have hfor := issuedFor_only (c := c) (removal := true) hissued happlied (.inl ⟨hchange, rfl⟩)
    obtain ⟨hman, ⟨m, hm, hmsg⟩, hsec⟩ := announceEnd_last (c := c) (removal := true)
      (i := { i with reports := insertSorted d i.reports, tally := [p + p', q + q', r + r'] })
      (s := { s with man := { s.man with
        issued := [{ i with reports := insertSorted d i.reports, tally := [p + p', q + q', r + r'] }] } })
      (issuedFor_only rfl happlied (.inl ⟨hchange, rfl⟩)) rfl hend (reported_of_last hlast) hring
    refine ⟨_, ?_, congrArg Manifest.issued hman, ⟨m, hm, _, hmsg⟩, by rw [hman], by rw [hsec]⟩
    rw [exec_removalDoneReport, execRemovalDoneReport, onCore_of_coreRuns hcore, takeReport_new hfor hissued hnew, htally]
    rfl
  case fresh =>
    rw [exec_harbourKeyAgreement, execHarbourKeyAgreement, onCore_of_coreRuns hcore]
    simp [hnotices]
  case ready =>
    refine ⟨_, execHarbourKeyAgreement_ready hcore hnotices hopen hwaits hneeds hother, ?_⟩
    obtain ⟨m, hm, hmsg⟩ := control_posts_some n.id.issuer ctlReady [n.id.issuer, n.id.number] { s with
      man := { s.man with notices := [{ n with ready := true }] }, sec := { s.sec with harbourKey := some (fit 32 key) } }
    rw [control_eq] at hm ⊢
    exact ⟨rfl, rfl, m, hm, _, hmsg⟩
  case notReady =>
    obtain ⟨m, hm, hmsg⟩ := control_posts_some n.id.issuer ctlNotReady [n.id.issuer, n.id.number, 0x100E] s
    exact ⟨_, execHarbourKeyAgreement_notReady hcore hnotices hopen hneeds hother, control_eq _ _ _ _, m, hm, _, hmsg⟩
  case pages =>
    refine ⟨_, execPageMapTransfer_one hcore hwait, rfl, tget_tput_self _ _ _, fun y hy hne => ?_, fun y hy he => ?_⟩
    · refine mem_tput_of_ne ?_ (List.mem_filter.2 ⟨hy, by simpa using hne⟩)
      rintro hy
      rw [hy] at hne
      omega
    · rcases mem_tput hy with rfl | hy
      · rfl
      · exact absurd he (by simpa using List.of_mem_filter hy)
  case other =>
    rw [exec_pageMapTransfer, execPageMapTransfer, onCore_of_coreRuns hcore]
    simp [hnot]

end Sys2Proof.Machine
end

section
/-! PROOFS. Replicas, acknowledgements, receipts and the replay of the logbook (O57). -/

namespace Sys2Proof.Machine
open Sys2Proof

/-! The logbook's messages (R351 to R355). -/

section
variable {s : State}

theorem answerAccept_eq (kind dest q : Nat) (full : Bool) (body : Bytes) (s : State) : answerAccept kind dest q full body s =
    { s with ring := { s.ring with nextMsg := (s.ring.nextMsg + 1) % 65536, tx := (answerAccept kind dest q full body s).ring.tx } } := by
  unfold answerAccept
  dsimp only
  conv_lhs => rw [ringSend_eq, ringSend_ring]

theorem answerAccept_posts (kind dest q : Nat) (full : Bool) (body : Bytes) (s : State) :
    Posts (.accept kind (self s) dest s.ring.nextMsg q 0 full body) (answerAccept kind dest q full body s) := ringSend_posts_some _ _ _

/-- A record that arrives again is acknowledged again (R354). -/
theorem execReplica_again {dev msg : Nat} {r : LogRec} (hcore : coreRuns s = true) (hfrags : s.acc.frags = [])
    (hhandled : (dev, msg) ∈ s.ring.handled) (hone : fragments r = 1) (hkind : r.kind ≠ 1) :
    exec (.replica dev msg 0 true r) s = .next (answerAccept 2 dev (r.logSeq % 2 ^ 32) false [] s) := by
  have hone' : fragments { r with replica := true } = 1 := hone
  rw [exec_replica, execReplica, onCore_of_coreRuns hcore]
  simp [hone', hhandled, hfrags, hkind]

/-! A record that stands alone in the logbook. -/

theorem recordLive_replica {r : LogRec} (hreplica : r.replica = true) (h6 : r.kind ≠ 6) (h7 : r.kind ≠ 7) (h15 : r.kind ≠ 15) (s : State) :
    recordLive s [] r = true := by
  simp [recordLive, hreplica, h6, h7, h15]

theorem logTrim_one {r : LogRec} {k : Nat} (hlog : s.acc.log = [r]) (hlive : recordLive s [] r = true)
    (hroom : recordSize r ≤ logRoom) : logTrim k s = s := by
  cases k with
  | zero => rfl
  | succ k =>
    have hsize : recordsSize [r] ≤ logRoom := by simpa [recordsSize] using hroom
    unfold logTrim
    simp only [hlog, hlive, Bool.not_true, Bool.false_eq_true, if_false, if_pos hsize]

theorem logPut_first {r : LogRec} (hlog : s.acc.log = []) (hroom : s.acc.logTail + recordSize r ≤ 2 ^ 26) :
    logPut r s = { s with acc := { s.acc with log := [r], logTail := (s.acc.logTail + recordSize r) % 2 ^ 26 } } := by
  have hfits : recordSize r ≤ 2 ^ 26 - s.acc.logTail := by omega
  unfold logPut
  simp only [if_pos hfits, hlog, List.nil_append]

theorem liveBytes_of_nil (hlog : s.acc.log = []) : liveBytes s = 0 := by
  simp [liveBytes, liveRecords, hlog, liveOf, recordsSize]

/-- The first record of a logbook is written and acknowledged (R352). -/
theorem writeReplica_first {dev : Nat} {r : LogRec} (hlog : s.acc.log = []) (hreplica : r.replica = true) (h6 : r.kind ≠ 6)
    (h7 : r.kind ≠ 7) (h15 : r.kind ≠ 15) (hone : recordSize r ≤ 480) (hroom : s.acc.logTail + recordSize r ≤ 2 ^ 26) :
    writeReplica dev r s = answerAccept 2 dev (r.logSeq % 2 ^ 32) false [] { s with acc := { s.acc with
      log := [r], logTail := (s.acc.logTail + recordSize r) % 2 ^ 26 } } := by
  have hsmall : recordSize r ≤ logRoom := hone.trans (by decide)
  have hfree : ¬(r.kind = 1 ∧ logRoom < liveBytes s + recordSize r) := by
    rw [liveBytes_of_nil hlog]
    omega
  unfold writeReplica
  simp only [if_neg hfree, logPut_first hlog hroom]
  rw [logTrim_one rfl (recordLive_replica hreplica h6 h7 h15 _) hsmall]

theorem recordSize_of_one_fragment {r : LogRec} (h : fragments r = 1) : recordSize r ≤ 480 := by
  unfold fragments cdiv at h
  omega

/-! What the answer of a job says. -/

theorem reasons_eventBlind : EventBlind (·.tel.reasons) :=
  ⟨fun _ _ => rfl, fun _ _ => rfl, fun _ _ => rfl, fun _ _ _ => rfl, fun _ _ _ => rfl, fun _ _ => rfl, fun _ _ => rfl,
    fun _ _ => rfl⟩

theorem ringPost_reasons (m : Nat) (bytes : Bytes) (j : Option (Nat × Nat)) (s : State) :
    (ringPost m bytes j s).tel.reasons = s.tel.reasons := by
  unfold ringPost
  extract_lets b n p base padRec mem t mem' t' b' s1
  have h1 : s1.tel.reasons = s.tel.reasons := rfl
  clear_value s1
  split
  · exact signal_reasons.trans h1
  · exact h1

theorem send_reasons (m : Nat) (v : Bool) (a : Answer) (j : Option (Nat × Nat)) (s : State) :
    (send m v a j s).tel.reasons = s.tel.reasons := by
  unfold send post
  split
  · exact lighterSend_keeps reasons_eventBlind _ _ _ _
  · extract_lets bytes b n kept
    split
    · rfl
    · exact ringPost_reasons _ _ _ _

theorem untake_reasons (m tag : Nat) (s : State) : (untake m tag s).tel.reasons = s.tel.reasons := by
  unfold untake
  split <;> rfl

theorem refuseJob_frame (h : JobHdr) (command reason st : Nat) (s : State) : answerFrame s (refuseJob h command reason st s) :=
  ((recordReason_frame _ _).trans (untake_frame _ _ _)).trans (send_frame _ _ _ _ _)

theorem lastCode_refuseJob {reason : Nat} (hreason : reason ≠ 0) (h : JobHdr) (command st : Nat) (s : State) :
    (tgetD (refuseJob h command reason st s).tel.reasons (reason / 256) (0, 0, 0)).2.2 = reason := by
  rw [refuseJob, send_reasons, untake_reasons]
  exact lastCode_recordReason hreason s

/-! What a record changes. -/

/-- What logging a record and sending it to the buddy changes. -/
def logFrame (s t : State) : Prop :=
  t = { s with ring := t.ring, acc := { s.acc with
    log := t.acc.log, logTail := t.acc.logTail, nextLog := t.acc.nextLog, tx := t.acc.tx } }

theorem logFrame.refl (s : State) : logFrame s s := rfl

theorem logFrame.trans {s t u : State} (h : logFrame s t) (k : logFrame t u) : logFrame s u := by
  unfold logFrame at *
  refine k.trans ?_
  rw [h]

theorem logTrim_frame (k : Nat) (s : State) : logFrame s (logTrim k s) := by
  induction k generalizing s with
  | zero => exact .refl s
  | succ k ih =>
    unfold logTrim
    split
    · exact .refl s
    · extract_lets log s' c
      have h' : logFrame s s' := rfl
      clear_value s'
      split
      · exact h'.trans (ih _)
      · split
        · exact .refl s
        · exact (h'.trans (show logFrame s' { logPut c s' with acc := _ } from rfl)).trans (ih _)

theorem logAppend_frame (r : LogRec) (s : State) : logFrame s (logAppend r s) := by
  unfold logAppend
  exact (show logFrame s (logPut { r with logSeq := s.acc.nextLog } s) from rfl).trans
    ((show logFrame _ { logPut { r with logSeq := s.acc.nextLog } s with acc := _ } from rfl).trans (logTrim_frame _ _))

theorem ringSend_logFrame (d : Option Nat) (m : SlotMsg) (s : State) : logFrame s (ringSend d m s) := by
  rw [ringSend_eq]
  rfl

theorem sendRecord_frame (dest : Nat) (sync : Bool) (r : LogRec) (s : State) : logFrame s (sendRecord dest sync r s) := by
  unfold sendRecord sendFragments
  extract_lets m b n s1 s2
  have h1 : logFrame s s1 :=
    List.foldlRecOn (motive := logFrame s) _ _ (.refl s) fun _ h _ _ => h.trans (ringSend_logFrame _ _ _)
  clear_value s1
  exact h1.trans rfl

theorem logJob_frame (kind : Nat) (body : Bytes) (sync : Bool) (j : Job) (s : State) :
    logFrame s (logJob kind body sync j s) := by
  unfold logJob
  extract_lets r s1
  have h1 : logFrame s s1 := logAppend_frame _ _
  clear_value s1
  split
  · exact h1
  · exact h1.trans (sendRecord_frame _ _ _ _)

theorem logFrame.jobs_eq {s t : State} (h : logFrame s t) : t.acc.jobs = s.acc.jobs := by rw [h]

theorem wakeOffers_of_nil (hwaiting : s.acc.waiting = []) : wakeOffers s = s := by
  rw [wakeOffers, hwaiting]
  rfl

/-- A job that is voided is gone, and its submitter told the reason (R355). -/
theorem voidJob_only {j : Job} {key reason : Nat} (hjobs : s.acc.jobs = [j]) (hkey : keyOf j = key) (hreason : reason ≠ 0) :
    ∃ u, logFrame s u ∧ answerFrame { u with acc := { u.acc with jobs := [] } } (voidJob key reason s) ∧
      (tgetD (voidJob key reason s).tel.reasons (reason / 256) (0, 0, 0)).2.2 = reason := by
  have hof : jobOf key s = some j := by simp [jobOf, hjobs, hkey]
  have hlogged := logJob_frame 7 [] false j s
  unfold voidJob
  simp only [hof]
  generalize logJob 7 [] false j s = u at hlogged ⊢
  have hdrop : dropJob key u = { u with acc := { u.acc with jobs := [] } } := by
    simp [dropJob, hlogged.jobs_eq, hjobs, hkey]
  rw [hdrop]
  exact ⟨u, hlogged, refuseJob_frame _ _ _ _ _, lastCode_refuseJob hreason _ _ _ _⟩

/-! The rows of R352 to R368. -/

section
variable {x : AcceptTx} {r : LogRec}

/-- An acknowledged record is no longer awaited; with no job here it ends nothing else (R353). -/
theorem execReplicaAck_safe (hcore : coreRuns s = true) (hwaiting : s.acc.waiting = []) (htx : s.acc.tx = [x]) (hr : x.record = some r)
    (hjobs : s.acc.jobs = []) :
    exec (.replicaAck x.dest (r.logSeq % 2 ^ 32) false) s = .next { s with acc := { s.acc with
      tx := [], rebuddy := s.acc.rebuddy.filter fun q => q != r.logSeq } } := by
  have hsafe : ∀ u : State, u.acc.jobs = [] → recordSafe r u = u := fun u hu => by simp [recordSafe, jobOf, hu]
  rw [exec_replicaAck, execReplicaAck, onCore_of_coreRuns hcore]
  simp only [htx, hr, List.find?_cons, beq_self_eq_true, Bool.and_self, List.erase_cons_head, Bool.false_eq_true, if_false]
  rw [hsafe _ (by exact hjobs), wakeOffers_of_nil (by exact hwaiting)]

/-- The offer of a record that finds no room is voided (R355). -/
theorem execReplicaAck_full {j : Job} (hcore : coreRuns s = true) (htx : s.acc.tx = [x]) (hr : x.record = some r) (hkind : r.kind = 1)
    (hjobs : s.acc.jobs = [j]) (hof : ofJob r j = true) (hoffered : j.phase = .offered) :
    exec (.replicaAck x.dest (r.logSeq % 2 ^ 32) true) s =
      .next (wakeOffers (voidJob (jobKey r.owner r.jobSlot) 0x1304 { s with acc := { s.acc with tx := [] } })) ∧
    keyOf j = jobKey r.owner r.jobSlot := by
  have hkey : keyOf j = jobKey r.owner r.jobSlot := by
    simp only [ofJob, Bool.and_eq_true, beq_iff_eq] at hof
    obtain ⟨⟨⟨⟨howner, -⟩, -⟩, -⟩, hslot⟩ := hof
    rw [keyOf, howner, hslot]
  have hjob : jobOf (jobKey r.owner r.jobSlot) s = some j := by simp [jobOf, hjobs, hkey]
  refine ⟨?_, hkey⟩
  rw [exec_replicaAck, execReplicaAck, onCore_of_coreRuns hcore]
  simp [htx, hr, hjob, hoffered, hof, hkind]

/-- A record that arrives whole is written (R352). -/
theorem execReplica_first {dev msg : Nat} (hcore : coreRuns s = true) (hlog : s.acc.log = []) (hfrags : s.acc.frags = [])
    (hnew : (dev, msg) ∉ s.ring.handled) (hone : fragments r = 1) :
    exec (.replica dev msg 0 true r) s = .next (writeReplica dev { r with replica := true }
      (markHandled dev msg { s with acc := { s.acc with frags := [] } })) := by
  have hone' : fragments { r with replica := true } = 1 := hone
  have hheld : ∀ (q : LogRec) (u : State), u.acc.log = [] → replicaHeld q u = false := fun q u hu => by simp [replicaHeld, hu]
  have hwhole : ((List.range 1).all fun i => decide ((dev, r.logSeq, 480 * i) ∈ [(dev, r.logSeq, 0)])) = true := by
    simp [List.range_succ]
  have hgone : [(dev, r.logSeq, 0)].filter (fun f => !(f.1 == dev && f.2.1 == r.logSeq)) = [] := by simp
  rw [exec_replica, execReplica, onCore_of_coreRuns hcore]
  simp only [hone', List.contains_eq_mem, hnew, hfrags, List.nil_append, hwhole, hgone, decide_true, decide_false, ne_eq,
    not_true_eq_false, Bool.false_eq_true, if_true, if_false]
  rw [if_neg (by rw [hheld _ _ (by exact hlog)]; decide)]
  rfl

theorem freeSlot_only {j : Job} (hjobs : s.acc.jobs = [j]) (hown : j.device = self s) : freeSlot j s =
    { s with acc := { s.acc with jobs := [], slots := tput s.acc.slots j.slot (s.tide.count, j.attempt) } } := by
  have hdrop : dropJob (keyOf j) s = { s with acc := { s.acc with jobs := [] } } := by simp [dropJob, hjobs]
  unfold freeSlot
  rw [hdrop]
  exact if_pos hown

/-- The homes that a job still waits for a CLEAR_ACK of (R368). -/
theorem execClearAck_taken {home : Nat} {j : Job} (hcore : coreRuns s = true) (hwaiting : s.acc.waiting = []) (hjobs : s.acc.jobs = [j])
    (htx : s.acc.tx = []) (hphase : j.phase = .retiring) :
    (j.clears = [home] → j.device = self s → exec (.clearAck home j.device j.slot) s = .next { s with acc := { s.acc with
      jobs := [], slots := tput s.acc.slots j.slot (s.tide.count, j.attempt) } }) ∧
    (∀ other, j.clears = [home, other] → other ≠ home → exec (.clearAck home j.device j.slot) s =
      .next { s with acc := { s.acc with jobs := [{ j with clears := [other] }] } }) := by
  have hfind : ∀ u : State, u.acc.jobs = [j] → jobOf (jobKey j.device j.slot) u = some j := fun u hu => by simp [jobOf, hu, keyOf]
  have hset : ∀ (k : Job) (u : State), u.acc.jobs = [j] → keyOf k = keyOf j →
      setJob k u = { u with acc := { u.acc with jobs := [k] } } := fun k u hu hk => by simp [setJob, hu, hk]
  rw [exec_clearAck, execClearAck, onCore_of_coreRuns hcore]
  dsimp only
  rw [htx, List.filter_nil, hfind _ (by exact hjobs)]
  refine ⟨fun hclears hown => ?_, fun other hclears hne => ?_⟩
  · have hleft : j.clears.filter (fun h => h != home) = [] := by simp [hclears]
    simp only [hphase, hleft, and_self, if_true]
    rw [hset _ _ (by exact hjobs) (by rfl), freeSlot_only (by rfl) (by exact hown), wakeOffers_of_nil (by exact hwaiting)]
  · have hleft : j.clears.filter (fun h => h != home) = [other] := by simp [hclears, hne]
    simp only [hleft, reduceCtorEq, and_false, if_false]
    rw [hset _ _ (by exact hjobs) (by rfl), ← htx]

theorem execReceiptClear_again {dev msg jd js : Nat} (hcore : coreRuns s = true) (hhandled : (dev, msg) ∈ s.ring.handled) :
    exec (.receiptClear dev msg jd js) s = .next (answerAccept 4 dev 0 false (clearBody jd js) s) := by
  rw [exec_receiptClear, execReceiptClear, onCore_of_coreRuns hcore]
  simp only [List.contains_eq_mem, hhandled, decide_true, if_true]

/-- A RECEIPT_CLEAR empties the job's receipt and its fence (R85, R368). -/
theorem execReceiptClear_new {dev msg jd js : Nat} (hcore : coreRuns s = true) (hnew : (dev, msg) ∉ s.ring.handled) :
    exec (.receiptClear dev msg jd js) s = .next (answerAccept 4 dev 0 false (clearBody jd js)
      (markHandled dev msg (clearHere (jobKey jd js) s))) := by
  rw [exec_receiptClear, execReceiptClear, onCore_of_coreRuns hcore]
  simp only [List.contains_eq_mem, hnew, decide_false, Bool.false_eq_true, if_false]

/-- A CLEAR message that is not answered goes out again (R366). -/
theorem sendAgain_clear {c : Nat × Nat} (hrecord : x.record = none) (hclear : x.clear = some c) (s : State) :
    sendAgain x s = ringSend (some x.dest) (.accept 3 (self s) x.dest x.msgId 0 0 false (clearBody c.1 c.2)) s := by
  unfold sendAgain
  simp only [hrecord, hclear]

theorem execReplicaResendTimeout_clear {c : Nat × Nat} (hcore : coreRuns s = true) (htx : s.acc.tx = [x]) (hrecord : x.record = none)
    (hclear : x.clear = some c) (hfew : x.resends < 3) : exec (.replicaResendTimeout 0) s =
      .next (ringSend (some x.dest) (.accept 3 (self s) x.dest x.msgId 0 0 false (clearBody c.1 c.2))
        { s with acc := { s.acc with tx := [{ x with resends := x.resends + 1, sentTide := s.tide.count }] } }) := by
  rw [exec_replicaResendTimeout, execReplicaResendTimeout, onCore_of_coreRuns hcore]
  simp only [htx, hrecord, beq_self_eq_true, List.filter_cons_of_pos, List.filter_nil, List.foldl_cons, List.foldl_nil, resendOne,
    if_pos hfew, List.map_cons, List.map_nil, if_true, sendAgain_clear hrecord hclear]
  rfl

theorem execReplicaResendTimeout_done (hcore : coreRuns s = true) (htx : s.acc.tx = [x]) (hrecord : x.record = none)
    (hmany : 3 ≤ x.resends) : exec (.replicaResendTimeout 0) s = .next s := by
  rw [exec_replicaResendTimeout, execReplicaResendTimeout, onCore_of_coreRuns hcore]
  simp only [htx, hrecord, beq_self_eq_true, List.filter_cons_of_pos, List.filter_nil, List.foldl_cons, List.foldl_nil, resendOne,
    if_neg (Nat.not_lt.2 hmany)]

/-- After three resends a message goes out once in 64 tides (R366). -/
theorem execAsyncResend_clear {c : Nat × Nat} (hcore : coreRuns s = true) (htx : s.acc.tx = [x]) (hrecord : x.record = none)
    (hclear : x.clear = some c) (hmany : 3 ≤ x.resends) (hlate : x.sentTide + 64 ≤ s.tide.count) : exec .asyncResend s =
      .next (ringSend (some x.dest) (.accept 3 (self s) x.dest x.msgId 0 0 false (clearBody c.1 c.2))
        { s with acc := { s.acc with tx := [{ x with sentTide := s.tide.count }] } }) := by
  rw [exec_asyncResend, execAsyncResend, onCore_of_coreRuns hcore]
  simp only [htx, hmany, hlate, and_self, decide_true, List.filter_cons_of_pos, List.filter_nil, List.foldl_cons, List.foldl_nil,
    List.map_cons, List.map_nil, beq_self_eq_true, if_true, sendAgain_clear hrecord hclear]
  rfl

end

/-! The replay of an accepted job (R367). -/

section
variable {r : LogRec}

/-- What the logbook tells of a job that it holds only the ACCEPT of. -/
theorem tellJobs_accepted (hkind : r.kind = 1) (hcrc : r.crcOk = true) :
    tellJobs [r] = [{ told0 r with accept := some r }] := by
  have hself : sameJob r r = true := by simp [sameJob]
  simp [tellJobs, hkind, hcrc, told0, hself, hear]

/-- What setting sequences and slots again changes. -/
def queueFrame (s t : State) : Prop := t = { s with acc := { s.acc with queues := t.acc.queues, slots := t.acc.slots } }

theorem queueFrame.trans {s t u : State} (h : queueFrame s t) (k : queueFrame t u) : queueFrame s u := by
  unfold queueFrame at *
  refine k.trans ?_
  rw [h]

theorem openQueues_frame (m : Tbl Nat) (s : State) : queueFrame s (openQueues m s) := by
  refine List.foldlRecOn (motive := queueFrame s) m _ rfl fun t h p _ => h.trans ?_
  dsimp only
  split <;> rfl

theorem slotAttempts_frame (ts : List Told) (s : State) : queueFrame s (slotAttempts ts s) := by
  refine List.foldlRecOn (motive := queueFrame s) ts _ rfl fun t h p _ => h.trans ?_
  dsimp only
  split <;> rfl

/-- The replay takes an accepted job up again (R367). -/
theorem replay_accepted (hwaiting : s.acc.waiting = []) (hlost : wasLost s = false) (hjobs : s.acc.jobs = []) (hlog : s.acc.log = [r])
    (hown : r.replica = false) (hkind : r.kind = 1) (hcrc : r.crcOk = true) :
    ∃ u tag, queueFrame { s with acc := { s.acc with buddy := buddyOf (self s) s.ing.lostHomes s.man.comp } } u ∧
      replay s = { u with freeCount := u.freeCount + 1,
                          acc := { u.acc with jobs := [toldJob { told0 r with accept := some r } tag] } } := by
  have hmine : s.acc.log.filter (fun r => !r.replica) = [r] := by simp [hlog, hown]
  have hjobs' : ¬ s.acc.jobs ≠ [] := not_not_intro hjobs
  unfold replay
  rw [hmine]
  simp only [tellJobs_accepted hkind hcrc, List.map_cons, List.map_nil]
  rw [if_neg (Bool.eq_false_iff.1 (by exact hlost)), if_neg hjobs']
  have hset := (openQueues_frame (queueNexts [{ told0 r with accept := some r }])
    { s with acc := { s.acc with buddy := buddyOf (self s) s.ing.lostHomes s.man.comp } }).trans
    (slotAttempts_frame [{ told0 r with accept := some r }] _)
  generalize slotAttempts [{ told0 r with accept := some r }] (openQueues (queueNexts [{ told0 r with accept := some r }])
    { s with acc := { s.acc with buddy := buddyOf (self s) s.ing.lostHomes s.man.comp } }) = u at hset ⊢
  have hujobs : u.acc.jobs = [] := by rw [hset]; exact hjobs
  have huwaiting : u.acc.waiting = [] := by rw [hset]; exact hwaiting
  refine ⟨u, Config.free u.freeCount % 2 ^ 32, hset, (wakeOffers_of_nil (by exact huwaiting)).trans ?_⟩
  simp [replayJob, told0, draw, addJob, hujobs]

end

end

/-- Settles O57: a record by whether it has come before, an acknowledgement by its record, a message that is not answered by its resends,
the replay by whether the device was declared lost. -/
theorem logbookMessages : Obligations.LogbookMessages := by
  intro s hcore hwaiting answers
  refine ⟨fun dev msg r hlog hfrags hnew hone h6 h7 h15 hroom => ?first, fun dev msg r hfrags hhandled hone hkind => ?again,
    fun x r htx hr hjobs => execReplicaAck_safe hcore hwaiting htx hr hjobs,
    fun x r j htx hr hkind hjobs hof hoffered => ?full, fun dev msg jd js => ?clear,
    fun home j hjobs htx hphase => execClearAck_taken hcore hwaiting hjobs htx hphase,
    fun x c htx hrecord hclear => ⟨fun hfew => ?resend, fun hmany => ?many, fun hmany hlate => ?late, fun hearly => ?early⟩,
    fun r hopen hlost hjobs hlog hown howner hkind hcrc => ?replay, fun hopen hlost => ?lost, fun hclosed => ?closed⟩
  case again =>
    exact ⟨_, execReplica_again hcore hfrags hhandled hone hkind, answerAccept_eq _ _ _ _ _ _, answerAccept_posts _ _ _ _ _ _⟩
  case lost =>
    rw [exec_logbookReplay, execLogbookReplay, onCore_of_coreRuns hcore]
    simp only [if_pos hopen, replay]
    rw [if_pos (by exact hlost)]
  case closed =>
    rw [exec_logbookReplay, execLogbookReplay, onCore_of_coreRuns hcore]
    simp only [if_neg hclosed]
  case first =>
    obtain hwritten := writeReplica_first (dev := dev) (r := { r with replica := true })
      (s := markHandled dev msg { s with acc := { s.acc with frags := [] } }) hlog rfl h6 h7 h15
      (recordSize_of_one_fragment hone) hroom
    refine ⟨_, (execReplica_first hcore hlog hfrags hnew hone).trans (congrArg _ hwritten), ?_⟩
    have hposts := answerAccept_posts 2 dev (r.logSeq % 2 ^ 32) false [] { markHandled dev msg s with acc := { s.acc with
      log := [{ r with replica := true }], logTail := (s.acc.logTail + recordSize r) % 2 ^ 26, frags := [] } }
    rw [answerAccept_eq] at hposts ⊢
    exact ⟨rfl, rfl, rfl, by simp [markHandled], hposts, rfl, rfl, rfl⟩
  case full =>
    obtain ⟨hexec, hkey⟩ := execReplicaAck_full hcore htx hr hkind hjobs hof hoffered
    obtain ⟨u, hlogged, hframe, hreason⟩ := voidJob_only (reason := 0x1304) (s := { s with acc := { s.acc with tx := [] } })
      (by exact hjobs) hkey (by decide)
    generalize voidJob (jobKey r.owner r.jobSlot) 0x1304 { s with acc := { s.acc with tx := [] } } = t at hexec hframe hreason
    have hacc : t.acc = { u.acc with jobs := [] } := hframe.acc_eq
    rw [wakeOffers_of_nil (by rw [hacc, hlogged]; exact hwaiting)] at hexec
    refine ⟨t, hexec, by rw [hacc], hreason, by rw [hacc, hlogged], ?_, ?_⟩
    · exact hframe.man_eq.trans (by rw [hlogged])
    · exact hframe.home_eq.trans (by rw [hlogged])
  case clear =>
    by_cases hhandled : (dev, msg) ∈ s.ring.handled
    · have hposts := answerAccept_posts 4 dev 0 false (clearBody jd js) s
      refine ⟨_, execReceiptClear_again hcore hhandled, ?_⟩
      rw [answerAccept_eq] at hposts ⊢
      exact ⟨rfl, hposts, fun _ => rfl, fun h => absurd hhandled h⟩
    · have hposts := answerAccept_posts 4 dev 0 false (clearBody jd js) (markHandled dev msg (clearHere (jobKey jd js) s))
      refine ⟨_, execReceiptClear_new hcore hhandled, ?_⟩
      rw [answerAccept_eq] at hposts ⊢
      exact ⟨rfl, hposts, fun h => absurd h hhandled, fun _ => ⟨by simp [markHandled], rfl⟩⟩
  case resend =>
    obtain ⟨y, hy, hmsg⟩ := ringSend_posts_some x.dest (.accept 3 (self s) x.dest x.msgId 0 0 false (clearBody c.1 c.2))
      { s with acc := { s.acc with tx := [{ x with resends := x.resends + 1, sentTide := s.tide.count }] } }
    refine ⟨_, y, execReplicaResendTimeout_clear hcore htx hrecord hclear hfew, hy, ?_, hmsg⟩
    rw [ringSend_eq]
  case many => exact execReplicaResendTimeout_done hcore htx hrecord hmany
  case late =>
    obtain ⟨y, hy, hmsg⟩ := ringSend_posts_some x.dest (.accept 3 (self s) x.dest x.msgId 0 0 false (clearBody c.1 c.2))
      { s with acc := { s.acc with tx := [{ x with sentTide := s.tide.count }] } }
    refine ⟨_, y, execAsyncResend_clear hcore htx hrecord hclear hmany hlate, hy, ?_, hmsg⟩
    rw [ringSend_eq]
  case early =>
    have hnone : s.acc.tx.filter (fun t => decide (3 ≤ t.resends ∧ t.sentTide + 64 ≤ s.tide.count)) = [] := by
      simp [htx, Nat.not_le.2 hearly]
    rw [exec_asyncResend, execAsyncResend, onCore_of_coreRuns hcore]
    simp only [hnone, List.foldl_nil]
  case replay =>
    obtain ⟨u, tag, hset, hreplay⟩ := replay_accepted hwaiting hlost hjobs hlog hown hkind hcrc
    have hexec : exec .logbookReplay s = .next (replay s) := by
      rw [exec_logbookReplay, execLogbookReplay, onCore_of_coreRuns hcore]
      exact congrArg _ (if_pos hopen)
    rw [hreplay] at hexec
    refine ⟨_, toldJob { told0 r with accept := some r } tag, hexec, rfl, rfl, ?_, rfl, rfl, rfl, ?_, ?_, ?_, ?_⟩
    · exact howner
    · exact (congrArg (fun t => t.acc.log) hset).trans hlog
    · exact congrArg (fun t => t.acc.buddy) hset
    · exact congrArg (fun t => t.man) hset
    · exact congrArg (fun t => t.stage) hset

end Sys2Proof.Machine
end

section
/-! PROOFS. Lines given back, notices stored and answered, commit and cancel of a domain change (O23). -/

namespace Sys2Proof.Machine
open Sys2Proof

/-! A device that leaves gives its lines back (R127): the ingress state changes and requests leave. -/

/-- What handing lines back changes: the ingress state, the switch core and what is said. -/
def lineFrame (s t : State) : Prop := passFrame { s with ing := t.ing } t

theorem lineFrame.refl (s : State) : lineFrame s s := rfl

theorem lineFrame.trans {s t u : State} (h : lineFrame s t) (k : lineFrame t u) : lineFrame s u := by
  unfold lineFrame passFrame at *
  refine k.trans ?_
  rw [h]

theorem passFrame.line {s t : State} (h : passFrame s t) : lineFrame s t := by
  unfold lineFrame
  rw [h.ing_eq]
  exact h

section
variable {s : State}

theorem sendFrom_pass (port : Nat) (r : FabReq) (s : State) : passFrame s (sendFrom port r s) := by
  unfold sendFrom
  extract_lets u
  have hu : passFrame s u := rfl
  clear_value u
  split
  · exact hu
  · split
    · exact hu
    · exact hu.trans (enterItem_entry _ _ _ _ _ _ _ _).pass

theorem askUnder_line (opcode length entry : Nat) (e : Entry) (off aux parts tclass : Nat) (payload : Bytes) (s : State) :
    lineFrame s (askUnder opcode length entry e off aux parts tclass payload s).2 := by
  unfold askUnder
  extract_lets tag r o
  exact (show lineFrame s { s with ing := _ } from rfl).trans (sendFrom_pass _ _ _).line

theorem setFilter_line (f : FilterEnt) (s : State) : lineFrame s (setFilter f s) := rfl

theorem sendRelease_line (op : Nat) (data : Bytes) (part : Option Part) (f : FilterEnt) (s : State) :
    lineFrame s (sendRelease op data part f s) := by
  unfold sendRelease
  extract_lets u v
  have hu : lineFrame s u := rfl
  clear_value u
  have hv : lineFrame s v := hu.trans (setFilter_line _ _)
  clear_value v
  exact hv.trans (askUnder_line _ _ _ _ _ _ _ _ _ _)

theorem sendRecall_pass (host charter va line : Nat) (downgrade : Bool) (s : State) :
    passFrame s (sendRecall host charter va line downgrade s) := by
  unfold sendRecall
  extract_lets u
  have hu : passFrame s u := rfl
  clear_value u
  split
  · exact hu
  · exact hu.trans (enterItem_entry _ _ _ _ _ _ _ _).pass

theorem sendRecalls_line (hosts : List Nat) (downgrade : Bool) (why : Nat) (f : FilterEnt) (s : State) :
    lineFrame s (sendRecalls hosts downgrade why f s) := by
  unfold sendRecalls
  extract_lets u
  have hu : lineFrame s u := setFilter_line _ _
  clear_value u
  exact List.foldlRecOn (motive := lineFrame s) _ _ hu fun _ h _ _ => h.trans (sendRecall_pass _ _ _ _ _ _).line

theorem evictLine_line (f : FilterEnt) (s : State) : lineFrame s (evictLine f s) := by
  unfold evictLine
  split
  · split
    · exact sendRelease_line _ _ _ _ _
    · exact sendRelease_line _ _ _ _ _
  · exact sendRecalls_line _ _ _ _ _

theorem leaveLines_line (s : State) : lineFrame s (leaveLines s) := by
  unfold leaveLines
  split
  · refine List.foldlRecOn (motive := lineFrame s) _ _ (.refl s) fun t h x _ => h.trans ?_
    split
    · split
      · exact .refl t
      · exact evictLine_line _ _
    · exact .refl t
  · exact .refl s

/-! A notice that is stored (R50). -/

/-- What handling a notice changes beside the notice itself, where no entry moves away from here. -/
def noticeFrame (s t : State) : Prop :=
  passFrame { s with
    ing := t.ing, ring := { s.ring with tx := t.ring.tx, nextMsg := t.ring.nextMsg },
    sec := { s.sec with keys := t.sec.keys, staged := t.sec.staged } } t

theorem noticeFrame.trans {s t u : State} (h : noticeFrame s t) (k : noticeFrame t u) : noticeFrame s u := by
  unfold noticeFrame passFrame at *
  refine k.trans ?_
  rw [h]

theorem lineFrame.notice {s t : State} (h : lineFrame s t) : noticeFrame s t := by
  unfold noticeFrame
  unfold lineFrame passFrame at *
  conv_lhs => rw [h]
  rw [h]

theorem control_notice (d : Option Nat) (code : Nat) (args : List Nat) (s : State) : noticeFrame s (control d code args s) := by
  rw [control_eq, control_ring]
  rfl

theorem loadKey_notice (id : ChangeId) (c : Change) (s : State) : noticeFrame s (loadKey id c s) := by
  unfold loadKey
  split <;> rfl

theorem sendUncertain_notice (c : Change) (s : State) : noticeFrame s (sendUncertain c s) := by
  unfold sendUncertain
  split
  · extract_lets offs
    split
    · exact List.foldlRecOn (motive := noticeFrame s) _ _ rfl fun t h x _ => h.trans (control_notice _ _ _ _)
    · rfl
  · rfl

theorem startMoves_of_stays {c : Change} (h : movesHere c s = false) (id : ChangeId) : startMoves id c s = s := by
  unfold startMoves
  split
  · next l =>
    have hnone : l.filter (fun p => (entryOf p.1 s).homeDevice == self s) = [] := by
      rw [List.filter_eq_nil_iff]
      intro p hp hhere
      exact Bool.eq_false_iff.1 h (List.any_eq_true.2 ⟨p, hp, hhere⟩)
    simp only [hnone, List.foldl_nil]
  · rfl

theorem movesHere_congr {c : Change} {t : State} (hman : t.man.entries = s.man.entries) (hself : self t = self s) :
    movesHere c t = movesHere c s := by
  unfold movesHere
  cases c
  case migrate l => simp only [hself, entryOf, hman]
  all_goals rfl

section
variable {t : State} (h : noticeFrame s t)
include h

theorem noticeFrame.man_eq : t.man = s.man := (show passFrame _ t from h).man_eq
theorem noticeFrame.home_eq : t.home = s.home := (show passFrame _ t from h).home_eq
theorem noticeFrame.tide_eq : t.tide = s.tide := (show passFrame _ t from h).tide_eq
theorem noticeFrame.self_eq : self t = self s := (show passFrame _ t from h).devid_eq
theorem noticeFrame.ring_eq : t.ring = { s.ring with tx := t.ring.tx, nextMsg := t.ring.nextMsg } := (show passFrame _ t from h).ring_eq

end

/-- The notice that is stored for a change (R50). -/
def noticeFor (id : ChangeId) (c : Change) (at_ : Nat) (ok : Bool) (s : State) : Notice :=
  { id := id, change := c, atTide := at_, committed := false, ready := ok && !needsHarbour c s && !movesHere c s }

/-- The state with a notice more. -/
def withNotice (n : Notice) (s : State) : State := { s with man := { s.man with notices := s.man.notices ++ [n] } }

theorem storeNotice_frame {c : Change} (hstays : movesHere c s = false) (id : ChangeId) (at_ : Nat) (ok : Bool) :
    noticeFrame (withNotice (noticeFor id c at_ ok s) s) (storeNotice id c at_ ok s) := by
  unfold storeNotice
  extract_lets ready man u
  have hu : u = withNotice (noticeFor id c at_ ok s) s := rfl
  have hstays' : movesHere c u = false := (movesHere_congr rfl rfl).trans hstays
  clear_value u
  subst hu
  split
  · have hloaded := (loadKey_notice id c (withNotice (noticeFor id c at_ ok s) s)).trans (sendUncertain_notice c _)
    generalize sendUncertain c (loadKey id c (withNotice (noticeFor id c at_ ok s) s)) = v at hloaded ⊢
    rw [startMoves_of_stays ((movesHere_congr (by rw [hloaded.man_eq]) hloaded.self_eq).trans hstays')]
    exact hloaded.trans (leaveLines_line _).notice
  · rfl

theorem noticeOf_append {id : ChangeId} {n : Notice} {t : State} (hnone : noticeOf id s = none) (hid : n.id = id)
    (ht : t.man.notices = s.man.notices ++ [n]) : noticeOf id t = some n := by
  unfold noticeOf at hnone ⊢
  rw [ht, List.find?_append, hnone]
  simp [hid]

/-! The rows of R50 and R416. -/

section
variable {id : ChangeId} {n : Notice} {i : Issued} {number : Nat}

theorem noticeOf_setNotice (h : noticeOf id s = some n) {m : Notice} (hid : m.id = id) :
    noticeOf id (setNotice m s) = some m := by
  have hn : n.id = id := by simpa using List.find?_some h
  have hsame : ((fun x : Notice => x.id == id) ∘ fun x : Notice => if x.id == id then m else x) = fun x : Notice => x.id == id := by
    funext x
    simp only [Function.comp_apply]
    split
    · next hx => simpa [hid] using hx
    · rfl
  unfold noticeOf at h ⊢
  unfold setNotice
  simp only [hid, List.find?_map, hsame, h, Option.map_some]
  simp [hn]

theorem issuedOf_setIssued (h : issuedOf number s = some i) {j : Issued} (hnumber : j.number = number) :
    issuedOf number (setIssued j s) = some j := by
  have hi : i.number = number := by simpa using List.find?_some h
  have hsame : ((fun x : Issued => x.number == number) ∘ fun x : Issued => if x.number == number then j else x) =
      fun x : Issued => x.number == number := by
    funext x
    simp only [Function.comp_apply]
    split
    · next hx => simpa [hnumber] using hx
    · rfl
  unfold issuedOf at h ⊢
  unfold setIssued
  simp only [hnumber, List.find?_map, hsame, h, Option.map_some]
  simp [hi]

theorem noticeOf_dropNotice (id : ChangeId) (s : State) : noticeOf id (dropNotice id s) = none := by
  rw [noticeOf, List.find?_eq_none]
  intro n hn
  have := List.of_mem_filter hn
  simpa using this

/-- A commit marks the notice, and an activation's notice its boundary. -/
theorem commitNotice_eq (h : noticeOf id s = some n) : noticeOf id (commitNotice id s) = some { n with committed := true } ∧
    commitNotice id s = { s with man := { s.man with notices := (commitNotice id s).man.notices },
                                 hm := { s.hm with activateAt := (commitNotice id s).hm.activateAt } } := by
  have hn : n.id = id := by simpa using List.find?_some h
  have hset := noticeOf_setNotice h (m := { n with committed := true }) hn
  unfold commitNotice
  simp only [h]
  split
  · split
    · exact ⟨hset, rfl⟩
    · exact ⟨hset, rfl⟩
  · exact ⟨hset, rfl⟩

/-- The end of a change that was issued touches the list of those issued and answers (R50). -/
theorem completeIssued_frame (n reason : Nat) (detail : Option (Nat × Nat)) (boundary : Option Nat) (extra : Bytes) (s : State) :
    answerFrame { s with man := { s.man with issued := (completeIssued n reason detail boundary extra s).man.issued } }
      (completeIssued n reason detail boundary extra s) := by
  unfold completeIssued
  split
  · rfl
  · split
    · rfl
    · next i _ _ h _ =>
      extract_lets man body
      split
      · have hanswer := resultWith_frame h i.command reason detail body (dropIssued n s)
        rw [hanswer.man_eq]
        exact hanswer
      · rfl

/-- A change that is cancelled is told to every member, and its own notice is gone. -/
theorem cancelIssued_open (hissued : issuedOf number s = some i) (hopen : i.committed = false) (hring : reachesRing s) (reason : Nat)
    (detail : Option (Nat × Nat)) : Posts (.control (self s) s.ring.nextMsg ctlCancel [self s, number]) (cancelIssued number reason detail s) ∧
    noticeOf ⟨self s, number⟩ (cancelIssued number reason detail s) = none := by
  have hposts := broadcast_posts hring ctlCancel [self s, number]
  unfold cancelIssued
  simp only [hissued, hopen, Bool.false_eq_true, if_false]
  generalize broadcast ctlCancel [self s, number] s = u at hposts ⊢
  have hgone := noticeOf_dropNotice ⟨self s, number⟩ u
  have hposts' : Posts (.control (self s) s.ring.nextMsg ctlCancel [self s, number]) (dropNotice ⟨self s, number⟩ u) := hposts
  generalize dropNotice ⟨self s, number⟩ u = v at hgone hposts' ⊢
  have hdone := completeIssued_frame number reason detail none [] v
  refine ⟨?_, ?_⟩
  · unfold Posts
    rw [hdone.ring_eq]
    exact hposts'
  · unfold noticeOf at hgone ⊢
    rw [hdone.man_eq]
    exact hgone

theorem reachesRing_congr {t : State} (hbroken : t.ring.broken = s.ring.broken) (htide : t.tide = s.tide) (h : reachesRing s) :
    reachesRing t := by
  unfold reachesRing removesSlots at h ⊢
  rw [hbroken, htide]
  exact h

/-- The last ready answer has the issuer commit (R50). -/
theorem commitReady_last (hissued : issuedOf number s = some i) (hopen : i.committed = false) (hall : i.awaiting = [])
    (hnotice : noticeOf ⟨self s, number⟩ s = some n) (hready : n.ready = true) (htime : s.tide.count + 4 ≤ i.atTide)
    (hring : reachesRing s) :
    Posts (.control (self s) s.ring.nextMsg ctlCommit [self s, number]) (commitReady number s) ∧
    noticeOf ⟨self s, number⟩ (commitReady number s) = some { n with committed := true } := by
  have hi : i.number = number := by simpa using List.find?_some hissued
  have hcond : (i.committed || i.awaiting != [] || !n.ready || decide (i.atTide < s.tide.count + 4)) = false := by
    simp [hopen, hall, hready, Nat.not_lt.2 htime]
  have hcommit := commitNotice_eq (s := setIssued { i with committed := true } s) (id := ⟨self s, number⟩) hnotice
  unfold commitReady
  simp only [hissued, hnotice, hcond, Bool.false_eq_true, if_false]
  generalize commitNotice ⟨self s, number⟩ (setIssued { i with committed := true } s) = u at hcommit ⊢
  obtain ⟨hmarked, hu⟩ := hcommit
  have huring : u.ring = s.ring := by rw [hu]; rfl
  have huisl : u.isl = s.isl := by rw [hu]; rfl
  have hself : self u = self s := by rw [self, self, huisl]
  have hreach : reachesRing u := reachesRing_congr (by rw [huring]) (by rw [hu]; rfl) hring
  have hposts := broadcast_posts hreach ctlCommit [self s, number]
  rw [hself, huring] at hposts
  refine ⟨hposts, ?_⟩
  unfold broadcast
  rw [control_eq]
  exact hmarked

end

end

/-- The code a notice is answered with: what its checks say, else CHANGE_BUSY where another change is under way (R50). -/
def noticeCode (id : ChangeId) (c : Change) (at_ : Nat) (s : State) : Nat :=
  if checkChange c at_ (some id) s ≠ 0 then checkChange c at_ (some id) s
  else if changeBusy c at_ (some id) s then 0x0510 else 0

/-- The answer to a notice (R50). -/
def noticeAnswer (id : ChangeId) (k : Nat) (s : State) : State :=
  if k = 0 then control (some id.issuer) ctlReady [id.issuer, id.number] s
  else control (some id.issuer) ctlNotReady [id.issuer, id.number, k] s

theorem noticeAnswer_posts (id : ChangeId) (k : Nat) (s : State) :
    (k = 0 → Posts (.control (self s) s.ring.nextMsg ctlReady [id.issuer, id.number]) (noticeAnswer id k s)) ∧
    (k ≠ 0 → Posts (.control (self s) s.ring.nextMsg ctlNotReady [id.issuer, id.number, k]) (noticeAnswer id k s)) := by
  unfold noticeAnswer
  refine ⟨fun h => ?_, fun h => ?_⟩
  · rw [if_pos h]
    exact control_posts_some _ _ _ _
  · rw [if_neg h]
    exact control_posts_some _ _ _ _

theorem noticeAnswer_notice (id : ChangeId) (k : Nat) (s : State) : noticeFrame s (noticeAnswer id k s) := by
  unfold noticeAnswer
  split <;> exact control_notice _ _ _ _

/-- A notice is checked, stored and answered (R50). -/
theorem execDomainChangeNotice_new {s : State} {id : ChangeId} {c : Change} {at_ : Nat} (hcore : coreRuns s = true)
    (hnone : noticeOf id s = none) (hother : id.issuer ≠ self s) (hstays : movesHere c s = false) (hkey : needsHarbour c s = false) :
    exec (.domainChangeNotice id c at_) s =
      .next (noticeAnswer id (noticeCode id c at_ s) (storeNotice id c at_ (noticeCode id c at_ s == 0) s)) := by
  have hnew : ¬((noticeOf id s).isSome = true ∨ id.issuer = self s) := by simp [hnone, hother]
  have hstored : noticeOf id (storeNotice id c at_ true s) = some (noticeFor id c at_ true s) :=
    noticeOf_append hnone rfl (by rw [(storeNotice_frame hstays id at_ true).man_eq]; rfl)
  have hready : (noticeFor id c at_ true s).ready = true := by simp [noticeFor, hkey, hstays]
  rw [exec_domainChangeNotice, execDomainChangeNotice, onCore_of_coreRuns hcore]
  dsimp only
  rw [if_neg hnew, ← noticeCode, noticeAnswer]
  by_cases hcode : noticeCode id c at_ s = 0
  · simp only [hcode, ne_eq, not_true_eq_false, if_false, beq_self_eq_true, hstored, hready, if_true]
  · simp only [hcode, ne_eq, not_false_eq_true, if_true, if_false]

/-- Settles O23: a notice by the checks, an answer by whether it is the last or not ready, commit and cancel by the notice stored. -/
theorem changeMessages : Obligations.ChangeMessages := by
  intro s hcore hring
  refine ⟨fun id c at_ hnone hother hstays hkey => ?notice, fun number member i n hissued hopen hlast hnotice hready htime => ?ready,
    fun number member code i hissued hopen => ?notReady, fun number i hissued hopen hlate => ?deadline, fun id n hn => ?commit,
    fun id n hn hopen => ?cancel⟩
  case notice =>
    have hexec := execDomainChangeNotice_new (at_ := at_) hcore hnone hother hstays hkey
    obtain ⟨hready, hnotReady⟩ := noticeAnswer_posts id (noticeCode id c at_ s) (storeNotice id c at_ (noticeCode id c at_ s == 0) s)
    have hframe := (storeNotice_frame hstays id at_ (noticeCode id c at_ s == 0)).trans (noticeAnswer_notice id (noticeCode id c at_ s) _)
    have hself : self (storeNotice id c at_ (noticeCode id c at_ s == 0) s) = self s := (storeNotice_frame hstays id at_ _).self_eq
    have hstored := noticeOf_append (n := noticeFor id c at_ (noticeCode id c at_ s == 0) s) hnone rfl
      (congrArg Manifest.notices hframe.man_eq)
    rw [hself] at hready hnotReady
    change ∃ (t : State) (n : Notice) (x : RingTx), _ ∧ _ ∧ _ ∧ _ ∧ _ ∧ _ ∧ _ ∧ ∃ num, x.msg = if noticeCode id c at_ s = 0
      then SlotMsg.control (self s) num ctlReady [id.issuer, id.number]
      else SlotMsg.control (self s) num ctlNotReady [id.issuer, id.number, noticeCode id c at_ s]
    by_cases hcode : noticeCode id c at_ s = 0
    · obtain ⟨x, hx, hmsg⟩ := hready hcode
      exact ⟨_, _, x, hexec, hstored, rfl, rfl, rfl, hframe.man_eq, hx, _, by rw [if_pos hcode]; exact hmsg⟩
    · obtain ⟨x, hx, hmsg⟩ := hnotReady hcode
      exact ⟨_, _, x, hexec, hstored, rfl, rfl, rfl, hframe.man_eq, hx, _, by rw [if_neg hcode]; exact hmsg⟩
  case ready =>
    have hi : i.number = number := by simpa using List.find?_some hissued
    have hnone : i.awaiting.filter (fun m => m != member) = [] := by
      rw [List.filter_eq_nil_iff]
      intro m hm
      simp [hlast m hm]
    obtain ⟨⟨x, hx, hmsg⟩, hmarked⟩ := commitReady_last (s := setIssued { i with awaiting := [] } s)
      (issuedOf_setIssued hissued (j := { i with awaiting := [] }) hi) hopen rfl hnotice hready htime hring
    refine ⟨_, x, { n with committed := true }, _, ?_, hx, hmsg, hmarked, rfl⟩
    rw [exec_domainChangeReady, execDomainChangeReady, onCore_of_coreRuns hcore]
    simp only [hissued, if_true, hnone]
  case notReady =>
    obtain ⟨⟨x, hx, hmsg⟩, hgone⟩ := cancelIssued_open hissued hopen hring (if code = 0x100E then 0x100E else 0x0509)
      (some (member, code))
    refine ⟨_, x, _, ?_, hx, hmsg, hgone⟩
    rw [exec_domainChangeReady, execDomainChangeReady, onCore_of_coreRuns hcore]
    simp only [hissued, Bool.false_eq_true, if_false]
  case deadline =>
    obtain ⟨⟨x, hx, hmsg⟩, hgone⟩ := cancelIssued_open hissued hopen hring 0x0509 none
    refine ⟨_, x, _, ?_, hx, hmsg, hgone⟩
    rw [exec_changeReadyDeadline, execChangeReadyDeadline, onCore_of_coreRuns hcore]
    simp only [hissued, if_pos hlate]
  case commit =>
    obtain ⟨hmarked, hframe⟩ := commitNotice_eq hn
    refine ⟨_, ?_, hmarked, hframe⟩
    rw [exec_domainChangeCommit, execDomainChangeCommit, onCore_of_coreRuns hcore]
  case cancel =>
    refine ⟨dropNotice id s, ?_, noticeOf_dropNotice _ _, rfl⟩
    rw [exec_domainChangeCancel, execDomainChangeCancel, onCore_of_coreRuns hcore]
    simp only [hn, hopen, Bool.false_eq_true, if_false]

end Sys2Proof.Machine
end

section
/-! PROOFS. A committed change takes effect at its boundary (O24). -/

namespace Sys2Proof.Machine
open Sys2Proof

/-! A boundary with one notice due (R32, R50, R51). -/

section
variable {s : State} {n : Notice}

/-- The state that a notice's change is put in force in: the notice is gone, with its keys and its moves. -/
def noticeTaken (n : Notice) (s : State) : State :=
  { s with
    man := { s.man with
      notices := s.man.notices.filter fun x => x.id != n.id,
      issued := s.man.issued.map fun i =>
        if n.id.issuer == self s && i.number == n.id.number then { i with applied := true } else i },
    sec := { s.sec with staged := s.sec.staged.filter fun k => k.1 != n.id },
    home := { s.home with moves := s.home.moves.filter fun m => m.id != n.id } }

theorem applyDue_only {p : Nat → Bool} (hnotices : s.man.notices = [n]) (hdue : n.atTide ≤ s.tide.count)
    (hrank : p (rank n.change) = true) :
    applyDue p s = dropCopies (if n.committed then applyNotice n s else missNotice n s) := by
  have hlist : (ordered s.man.notices).filter (fun n => decide (n.atTide ≤ s.tide.count) && p (rank n.change)) = [n] := by
    simp [hnotices, ordered, placeNotice, hdue, hrank]
  unfold applyDue
  simp only [hlist, List.foldl_cons, List.foldl_nil, reduceCtorEq, if_false]

/-- Another issuer's change takes effect, and this device has nobody to answer. -/
theorem applyNotice_other (hother : n.id.issuer ≠ self s) (hkind : ∀ g l ok, n.change ≠ .formatEnd g l ok)
    (hself : self (takeEffect n.id n.change n.atTide (noticeTaken n s)) = self s) :
    applyNotice n s = takeEffect n.id n.change n.atTide (noticeTaken n s) := by
  unfold applyNotice
  extract_lets olds mark man sec home taken u v
  have hu : u = takeEffect n.id n.change n.atTide (noticeTaken n s) := rfl
  have hv : v = u := by
    unfold v
    split
    · next g l ok h => exact absurd h (hkind g l ok)
    · rfl
  rw [hv, hu]
  exact if_neg (by rw [hself]; exact hother)

/-- What a device out of lock does at a boundary: nothing (R25). -/
theorem onCore_unlocked {f : State → State} (hcore : coreRuns s = true) (hlock : s.tide.locked = false) :
    onCore s (fun s => if s.tide.locked then f s else s) = .next s := by
  rw [onCore_of_coreRuns hcore]
  simp [hlock]

theorem execDomainChangeApply_locked (hcore : coreRuns s = true) (hlock : s.tide.locked = true) :
    exec .domainChangeApply s = .next (applyDue (fun r => decide (r < 5)) s) := by
  rw [exec_domainChangeApply, execDomainChangeApply, onCore_of_coreRuns hcore]
  simp only [hlock, if_true]

/-- A committed change of another issuer, of a kind that is put in force here, is in force at its boundary. -/
theorem execDomainChangeApply_committed {c : Change} (hcore : coreRuns s = true) (hlock : s.tide.locked = true)
    (hnotices : s.man.notices = [n]) (hother : n.id.issuer ≠ self s) (hdue : n.atTide ≤ s.tide.count) (hcommitted : n.committed = true)
    (hchange : n.change = c) (hrank : rank c < 5) (hkind : ∀ g l ok, c ≠ .formatEnd g l ok)
    (hself : self (takeEffect n.id c n.atTide (noticeTaken n s)) = self s) :
    exec .domainChangeApply s = .next (dropCopies (takeEffect n.id c n.atTide (noticeTaken n s))) := by
  subst hchange
  rw [execDomainChangeApply_locked hcore hlock, applyDue_only hnotices hdue (by simpa using hrank), if_pos hcommitted,
    applyNotice_other hother hkind hself]

theorem noticeTaken_notices (hnotices : s.man.notices = [n]) : (noticeTaken n s).man.notices = [] := by
  simp [noticeTaken, hnotices]

/-- What dropping copies leaves alone. -/
theorem dropCopies_keeps (s : State) :
    (dropCopies s).man = s.man ∧ (dropCopies s).tide = s.tide ∧ (dropCopies s).stage = s.stage ∧
    (dropCopies s).sec.sweeps = s.sec.sweeps ∧ self (dropCopies s) = self s := by
  have h := dropCopies_frame s
  refine ⟨h.man_eq, h.tide_eq, h.stage_eq, ?_, h.devid_eq⟩
  rw [h]

/-! The lines of an entry that is turned (R43). -/

theorem dropSharedLine_line (line : Nat) (s : State) : lineFrame s (dropSharedLine line s) := by
  unfold dropSharedLine
  extract_lets u
  have hu : lineFrame s u := rfl
  clear_value u
  split
  · exact hu
  · split
    · exact hu
    · split
      · exact hu.trans (setFilter_line _ _)
      · extract_lets f
        split
        · exact hu.trans (sendRelease_line _ _ _ _ _)
        · exact hu.trans (setFilter_line _ _)

theorem dropGranule_line (granule : Nat) (s : State) : lineFrame s (dropGranule granule s) := by
  unfold dropGranule
  extract_lets u
  have hu : lineFrame s u := by
    unfold u
    split
    · exact dropSharedLine_line _ _
    · exact .refl s
  clear_value u
  exact hu.trans rfl

theorem dropEntryLines_line (entry : Nat) (s : State) : lineFrame s (dropEntryLines entry s) := by
  unfold dropEntryLines
  extract_lets u tags
  have hu : lineFrame s u := List.foldlRecOn (motive := lineFrame s) _ _ (.refl s) fun t h p _ => h.trans (dropGranule_line _ _)
  clear_value u
  exact hu.trans rfl

/-- A free entry that is mapped without confidentiality is VALID at the next generation (R43). -/
theorem takeEffect_map {i : Nat} {e : Entry} (id : ChangeId) (at_ : Nat) (hfree : (entryOf i s).state = 0)
    (hplain : isConfidential e.charter s = false) :
    lineFrame (clearPages i (putEntry i { e with generation := nextGen (entryOf i s).generation, state := 1 } s))
      (takeEffect id (.map i e) at_ s) := by
  have hput : configure (.map i e) at_ s = putEntry i { e with generation := nextGen (entryOf i s).generation, state := 1 } s := by
    simp [configure, mapEntry, hplain]
  have hentry : entryOf i (putEntry i { e with generation := nextGen (entryOf i s).generation, state := 1 } s) =
      { e with generation := nextGen (entryOf i s).generation, state := 1 } := tgetD_tput_self _ _ _ _
  have hplain' : isConfidential (entryOf i (putEntry i { e with generation := nextGen (entryOf i s).generation, state := 1 } s)).charter
      (putEntry i { e with generation := nextGen (entryOf i s).generation, state := 1 } s) = false := by
    rw [hentry]
    exact hplain
  have hturned : ¬((entryOf i s).state = 1 ∧ (entryOf i s).homeDevice = self
      (dropEntryLines i (clearPages i (putEntry i { e with generation := nextGen (entryOf i s).generation, state := 1 } s)))) := by
    rw [hfree]
    exact fun h => absurd h.1 (by decide)
  unfold takeEffect
  simp only [hput]
  generalize putEntry i { e with generation := nextGen (entryOf i s).generation, state := 1 } s = u at hplain' hturned ⊢
  unfold turnMap rehome mapPages entryTurned
  simp only [hfree, true_or, if_true, hplain', Bool.not_false]
  rw [if_neg (fun h => absurd h.1 (by decide))]
  exact dropEntryLines_line _ _

/-! The effects by kind (R32, R43, R53, R56, R378, R395, R435). -/

section
variable (hcore : coreRuns s = true) (hlock : s.tide.locked = true) (hnotices : s.man.notices = [n])
  (hother : n.id.issuer ≠ self s) (hdue : n.atTide ≤ s.tide.count) (hcommitted : n.committed = true)
include hcore hlock hnotices hother hdue hcommitted

theorem window_applies {ch w : Nat} {d : Window} (hchange : n.change = .window ch w d) :
    ∃ t, exec .domainChangeApply s = .next t ∧ windowOf ch w t = d ∧ t.man.notices = [] ∧ t.man.entries = s.man.entries ∧
      t.tide = s.tide := by
  have hexec := execDomainChangeApply_committed hcore hlock hnotices hother hdue hcommitted hchange (by simp [rank]) (by simp) rfl
  obtain ⟨hman, htide, -⟩ := dropCopies_keeps (takeEffect n.id (.window ch w d) n.atTide (noticeTaken n s))
  refine ⟨_, hexec, ?_, ?_, ?_, htide⟩
  · rw [windowOf, hman]
    exact tgetD_tput_self _ _ _ _
  · rw [hman]
    exact noticeTaken_notices hnotices
  · rw [hman]
    rfl

theorem tideLength_applies {k : Nat} (hchange : n.change = .tideLength k) :
    ∃ t, exec .domainChangeApply s = .next t ∧ t.tide = { s.tide with lengthCode := k } ∧
      t.man = { s.man with notices := [], issued := t.man.issued } := by
  have hexec := execDomainChangeApply_committed hcore hlock hnotices hother hdue hcommitted hchange (by simp [rank]) (by simp) rfl
  obtain ⟨hman, htide, -⟩ := dropCopies_keeps (takeEffect n.id (.tideLength k) n.atTide (noticeTaken n s))
  refine ⟨_, hexec, htide, ?_⟩
  rw [hman]
  exact congrArg (fun l => { s.man with notices := l, issued := (noticeTaken n s).man.issued }) (noticeTaken_notices hnotices)

theorem route_applies {m : RouteMap} (hchange : n.change = .route m) :
    ∃ t, exec .domainChangeApply s = .next t ∧ t.man.route = m ∧ t.man.routeEpoch = (s.man.routeEpoch + 1) % 65536 ∧
      t.man.prevRoute = some s.man.route ∧ t.man.routeSince = n.atTide ∧ t.man.entries = s.man.entries := by
  have hexec := execDomainChangeApply_committed hcore hlock hnotices hother hdue hcommitted hchange (by simp [rank]) (by simp) rfl
  obtain ⟨hman, -⟩ := dropCopies_keeps (takeEffect n.id (.route m) n.atTide (noticeTaken n s))
  refine ⟨_, hexec, ?_⟩
  rw [hman]
  exact ⟨rfl, rfl, rfl, rfl, rfl⟩

theorem charterCreate_applies {ch : Nat} {conf : Bool} {key : Bytes} (hchange : n.change = .charterCreate ch conf key) :
    ∃ t x, exec .domainChangeApply s = .next t ∧ tget t.man.charters ch = some x ∧ x.state = 1 ∧ x.confidential = conf ∧
      x.epoch = 0 := by
  have hexec := execDomainChangeApply_committed hcore hlock hnotices hother hdue hcommitted hchange (by simp [rank]) (by simp) rfl
  obtain ⟨hman, -⟩ := dropCopies_keeps (takeEffect n.id (.charterCreate ch conf key) n.atTide (noticeTaken n s))
  refine ⟨_, { state := 1, confidential := conf, epoch := 0, rotating := false, slot0 := b2n conf, slot1 := 0, createdTide := n.atTide },
    hexec, ?_, rfl, rfl, rfl⟩
  rw [hman]
  exact tget_tput_self _ _ _

theorem map_applies {i : Nat} {e : Entry} (hchange : n.change = .map i e) (hfree : (entryOf i s).state = 0)
    (hplain : isConfidential e.charter s = false) :
    ∃ t, exec .domainChangeApply s = .next t ∧
      entryOf i t = { e with generation := nextGen (entryOf i s).generation, state := 1 } ∧ t.man.notices = [] ∧
      t.tide = s.tide ∧ t.stage = s.stage := by
  have hline : passFrame _ (takeEffect n.id (.map i e) n.atTide (noticeTaken n s)) :=
    takeEffect_map (s := noticeTaken n s) n.id n.atTide hfree hplain
  have hexec := execDomainChangeApply_committed hcore hlock hnotices hother hdue hcommitted hchange (by simp [rank]) (by simp)
    hline.devid_eq
  obtain ⟨hman, htide, hstage, -⟩ := dropCopies_keeps (takeEffect n.id (.map i e) n.atTide (noticeTaken n s))
  refine ⟨_, hexec, ?_, ?_, htide.trans hline.tide_eq, hstage.trans hline.stage_eq⟩
  · rw [entryOf, hman, hline.man_eq]
    exact tgetD_tput_self _ _ _ _
  · rw [hman, hline.man_eq]
    exact noticeTaken_notices hnotices

end

/-- The sweep that a rotation begins (R390). -/
def rotationSweep (ch rate : Nat) (s : State) : Sweep :=
  { charter := ch, rate := rate, credit := max 4096 (rate * tau s), poisoned := 0, refused := 0, stopped := 0, reported := false,
    removal := false, endAt := none }

theorem turnEpoch_charter {ch : Nat} {c : Charter} (hc : tget s.man.charters ch = some c) :
    ∃ x, tget (turnEpoch ch s).man.charters ch = some x ∧ x.epoch = (c.epoch + 1) % 4 ∧ x.rotating = true := by
  unfold turnEpoch
  simp only [hc]
  refine ⟨_, tget_tput_self _ _ _, ?_, ?_⟩ <;> split <;> rfl

theorem turnEpoch_self (ch : Nat) (s : State) : self (turnEpoch ch s) = self s := by
  unfold turnEpoch
  split <;> rfl

/-- A rotation's boundary turns the charter's epoch and begins its sweep (R395). -/
theorem charterRotate_applies (hcore : coreRuns s = true) (hlock : s.tide.locked = true) (hnotices : s.man.notices = [n])
    (hother : n.id.issuer ≠ self s) (hdue : n.atTide ≤ s.tide.count) (hcommitted : n.committed = true) {ch rate : Nat} {key : Bytes}
    {c : Charter} (hchange : n.change = .charterRotate ch rate key) (hc : tget s.man.charters ch = some c) :
    ∃ t x y, exec .keyEpochTurn s = .next t ∧ tget t.man.charters ch = some x ∧ x.epoch = (c.epoch + 1) % 4 ∧
      x.rotating = true ∧ y ∈ t.sec.sweeps ∧ y.charter = ch ∧ y.rate = rate ∧ y.removal = false := by
  have hexec : exec .keyEpochTurn s = .next (dropCopies (takeEffect n.id n.change n.atTide (noticeTaken n s))) := by
    rw [exec_keyEpochTurn, execKeyEpochTurn, onCore_of_coreRuns hcore]
    simp only [hlock, if_true]
    rw [applyDue_only hnotices hdue (by simp [hchange, rank]), if_pos hcommitted, applyNotice_other hother (by simp [hchange])]
    rw [hchange]
    exact turnEpoch_self _ _
  rw [hchange] at hexec
  obtain ⟨hman, -, -, hsweeps, -⟩ := dropCopies_keeps (takeEffect n.id (.charterRotate ch rate key) n.atTide (noticeTaken n s))
  obtain ⟨x, hx, hepoch, hrotating⟩ := turnEpoch_charter (s := noticeTaken n s) hc
  refine ⟨_, x, rotationSweep ch rate (noticeTaken n s), hexec, ?_, hepoch, hrotating, ?_, rfl, rfl, rfl⟩
  · rw [hman]
    exact hx
  · rw [hsweeps]
    exact List.mem_append_right _ (List.mem_singleton.2 rfl)

/-- The bank, the readiness and the steps of an activation (R435). -/
theorem activate_hm (issuer release : Nat) (s : State) :
    (activate issuer release s).hm.active = 1 - s.hm.active ∧ (activate issuer release s).hm.fwReady = false ∧
      (activate issuer release s).hm.halved = true ∧ (activate issuer release s).hm.activateAt = none ∧
      (activate issuer release s).hm.fwIssuer = some issuer ∧ (activate issuer release s).hm.fwSteps ≠ [] ∧
      self (activate issuer release s) = self s := by
  unfold activate
  extract_lets +onlyGivenNames hm1 s1 b hm2 s2 s3
  have h2 : s2.hm.active = 1 - s.hm.active ∧ s2.hm.fwReady = false ∧ s2.hm.halved = true ∧ s2.hm.activateAt = none ∧
      s2.hm.fwIssuer = some issuer ∧ s2.hm.fwSteps ≠ [] ∧ self s2 = self s := ⟨rfl, rfl, rfl, rfl, rfl, by simp [s2], rfl⟩
  have h3 : Measured s2 s3 := (measure_measured _ _ _ _ _ _).trans (measureLayers_measured _)
  clear_value s2 s3
  have hderived : (deriveKeys s3).hm = s3.hm ∧ self (deriveKeys s3) = self s3 := ⟨rfl, rfl⟩
  rw [hderived.1, hderived.2, h3.rest]
  exact h2

/-- An activation's boundary runs the other bank's firmware (R435). -/
theorem fwActivate_applies (hcore : coreRuns s = true) (hlock : s.tide.locked = true) (hnotices : s.man.notices = [n])
    (hother : n.id.issuer ≠ self s) (hdue : n.atTide ≤ s.tide.count) (hcommitted : n.committed = true) {mask r : Nat}
    (hchange : n.change = .fwActivate mask r) (hnamed : named mask s = true) :
    ∃ t, exec .fwActivation s = .next t ∧
        t.hm.active = 1 - s.hm.active ∧ t.hm.fwReady = false ∧ t.hm.halved = true ∧ t.hm.activateAt = none ∧
        t.hm.fwIssuer = some n.id.issuer ∧ t.hm.fwSteps ≠ [] := by
  have htaken : takeEffect n.id (.fwActivate mask r) n.atTide (noticeTaken n s) = activate n.id.issuer r (noticeTaken n s) :=
    if_pos hnamed
  obtain ⟨hactive, hready, hhalved, hat, hissuer, hsteps, hself⟩ := activate_hm n.id.issuer r (noticeTaken n s)
  have hexec : exec .fwActivation s = .next (dropCopies (activate n.id.issuer r (noticeTaken n s))) := by
    rw [exec_fwActivation, execFwActivation, onCore_of_coreRuns hcore]
    simp only [hlock, if_true]
    rw [applyDue_only hnotices hdue (by simp [hchange, rank]), if_pos hcommitted, applyNotice_other hother (by simp [hchange])]
    · rw [hchange, htaken]
    · rw [hchange, htaken]
      exact hself
  have hframe := dropCopies_frame (activate n.id.issuer r (noticeTaken n s))
  generalize dropCopies (activate n.id.issuer r (noticeTaken n s)) = t at hexec hframe
  generalize activate n.id.issuer r (noticeTaken n s) = u at *
  refine ⟨t, hexec, ?_⟩
  rw [hframe]
  exact ⟨hactive, hready, hhalved, hat, hissuer, hsteps⟩

/-- The state in which R51 leaves a member: the charters and routes of the change are unserved. -/
def leftUnserved (cs : List Nat) (route : Bool) (s : State) : State :=
  { s with man := { s.man with
      desyncCharters := sorted (s.man.desyncCharters ++ cs), desyncRoutes := s.man.desyncRoutes || route } }

theorem leftUnserved_tide (cs : List Nat) (route : Bool) (s : State) : (leftUnserved cs route s).tide = s.tide := rfl

theorem missNotice_other (hother : n.id.issuer ≠ self s) : missNotice n s =
    leftUnserved (chartersNamed n.change s) (isRoute n.change) (raise 0x050A [(evDetail, n.id.number)] (dropNotice n.id s)) := by
  simp only [missNotice, if_neg hother, leftUnserved]

theorem dropNotice_keeps (hnotices : s.man.notices = [n]) :
    (dropNotice n.id s).man = { s.man with notices := [] } ∧ (dropNotice n.id s).tide = s.tide := by
  simp [dropNotice, hnotices]

theorem missNotice_leaves (hnotices : s.man.notices = [n]) (hother : n.id.issuer ≠ self s) :
    (missNotice n s).man = { s.man with
      notices := [], desyncCharters := sorted (s.man.desyncCharters ++ chartersNamed n.change s),
      desyncRoutes := s.man.desyncRoutes || isRoute n.change } ∧ (missNotice n s).tide = s.tide := by
  obtain ⟨hman, htide⟩ := dropNotice_keeps hnotices
  rw [missNotice_other hother]
  have hraised := raise_frame 0x050A [(evDetail, n.id.number)] (dropNotice n.id s)
  have hu := hraised.man_eq
  have hv := hraised.tide_eq
  generalize raise 0x050A [(evDetail, n.id.number)] (dropNotice n.id s) = u at hu hv ⊢
  rw [htide] at hv
  rw [hman] at hu
  refine ⟨?_, ?_⟩
  · rw [leftUnserved, hu]
  · rw [leftUnserved_tide]
    exact hv

/-- A notice that was not committed leaves its charters and routes unserved (R51). -/
theorem uncommitted_missed (hcore : coreRuns s = true) (hlock : s.tide.locked = true) (hnotices : s.man.notices = [n])
    (hother : n.id.issuer ≠ self s) (hdue : n.atTide ≤ s.tide.count) (hopen : n.committed = false) (hrank : rank n.change < 5) :
    ∃ t, exec .domainChangeApply s = .next t ∧
      t.man = { s.man with notices := [], desyncCharters := t.man.desyncCharters, desyncRoutes := t.man.desyncRoutes } ∧
      (∀ c ∈ chartersNamed n.change s, c ∈ t.man.desyncCharters) ∧ (isRoute n.change = true → t.man.desyncRoutes = true) ∧
      t.tide = s.tide := by
  have hexec : exec .domainChangeApply s = .next (dropCopies (missNotice n s)) := by
    rw [execDomainChangeApply_locked hcore hlock, applyDue_only hnotices hdue (by simpa using hrank), if_neg (by simp [hopen])]
  obtain ⟨hman, htide, -⟩ := dropCopies_keeps (missNotice n s)
  obtain ⟨hleft, hsame⟩ := missNotice_leaves hnotices hother
  rw [hleft] at hman
  rw [hsame] at htide
  refine ⟨_, hexec, ?_, fun c hc => ?_, fun hroute => ?_, ?_⟩
  · rw [hman]
  · rw [hman]
    exact mem_sorted.2 (List.mem_append_right _ hc)
  · rw [hman]
    simp [hroute]
  · exact htide

end

/-- Settles O24: the notice due is the only one, its change takes effect by its kind where it is committed, and is missed where it is not. -/
theorem changesTakeEffect : Obligations.ChangesTakeEffect := by
  intro s n hcore hlock hnotices hother hdue
  refine ⟨fun hcommitted => ⟨fun ch w d hchange => window_applies hcore hlock hnotices hother hdue hcommitted hchange,
      fun k hchange => tideLength_applies hcore hlock hnotices hother hdue hcommitted hchange,
      fun m hchange => route_applies hcore hlock hnotices hother hdue hcommitted hchange,
      fun ch conf key hchange => charterCreate_applies hcore hlock hnotices hother hdue hcommitted hchange,
      fun i e hchange hfree hplain => map_applies hcore hlock hnotices hother hdue hcommitted hchange hfree hplain,
      fun ch rate key c hchange hc => charterRotate_applies hcore hlock hnotices hother hdue hcommitted hchange hc,
      fun mask r hchange hnamed => fwActivate_applies hcore hlock hnotices hother hdue hcommitted hchange hnamed⟩,
    fun hopen hrank => uncommitted_missed hcore hlock hnotices hother hdue hopen hrank, fun hold => ?ended, fun hyoung => ?kept, ?unlocked⟩
  case ended =>
    rw [exec_routeGraceEnd, execRouteGraceEnd, onCore_of_coreRuns hcore]
    exact congrArg _ (if_pos hold)
  case kept =>
    rw [exec_routeGraceEnd, execRouteGraceEnd, onCore_of_coreRuns hcore]
    exact congrArg _ (if_neg (Nat.not_le.2 hyoung))
  case unlocked => exact ⟨onCore_unlocked hcore rfl, onCore_unlocked hcore rfl, onCore_unlocked hcore rfl⟩

end Sys2Proof.Machine
end

section
/-! PROOFS. A row's step at the home. -/

namespace Sys2Proof.Machine
open Sys2Proof

/-! What a row's step changes at the home (R335). -/

/-- The requests, the granule queues and the rows' books may change, with the items in the switch core and what is said. -/
def rowFrame (s t : State) : Prop :=
  passFrame { s with home := { s.home with
    trays := t.home.trays, nextTray := t.home.nextTray, queues := t.home.queues, pages := t.home.pages,
    resyncs := t.home.resyncs, rebuilds := t.home.rebuilds } } t

theorem rowFrame.refl (s : State) : rowFrame s s := rfl

theorem rowFrame.trans {s t u : State} (h : rowFrame s t) (k : rowFrame t u) : rowFrame s u := by
  unfold rowFrame passFrame at *
  refine k.trans ?_
  rw [h]

theorem trayFrame.row {s t : State} (h : trayFrame s t) : rowFrame s t := by
  unfold rowFrame
  unfold trayFrame passFrame at *
  conv_lhs => rw [h]
  rw [h]

theorem passFrame.row {s t : State} (h : passFrame s t) : rowFrame s t := h.tray.row

theorem raise_row (code : Nat) (fields : List (Nat × Nat)) (s : State) : rowFrame s (raise code fields s) :=
  (raise_frame _ _ _).pass.row

theorem rowFrame.foldl {α : Type} {f : State → α → State} (hf : ∀ t x, rowFrame t (f t x)) (l : List α) (s : State) :
    rowFrame s (l.foldl f s) :=
  List.foldlRecOn (motive := rowFrame s) l f (.refl s) fun _ h _ _ => h.trans (hf _ _)

theorem setQueue_row (key : Nat) (q : GranQ) (s : State) : rowFrame s (setQueue key q s) := rfl

theorem setBatch_row (key : Nat) (b : Batch) (s : State) : rowFrame s (setBatch key b s) := rfl

theorem poisonEvent_row (entry n : Nat) (e : Entry) (s : State) : rowFrame s (poisonEvent entry n e s) := by
  unfold poisonEvent
  split
  · exact .refl s
  · exact (raiseLimited_frame _ _ _ _ _ _).pass.row

theorem rowPoison_row (g anchor row n : Nat) (l : Lay) (s : State) : rowFrame s (rowPoison g anchor row n l s) := by
  unfold rowPoison
  split
  · exact .refl s
  · split
    · exact poisonEvent_row _ _ _ _
    · exact (raiseLimited_frame _ _ _ _ _ _).pass.row

theorem applyGranule_row (key : Nat) (b : Batch) (s : State) : rowFrame s (applyGranule key b s) := by
  unfold applyGranule
  extract_lets +onlyGivenNames x e l target whole ep conf found noWriteKey stale s1 base blocked marks damaged
  have h1 : rowFrame s s1 := by
    unfold s1
    split
    · exact raise_row _ _ _
    · exact .refl s
  clear_value s1 blocked base marks damaged noWriteKey stale found
  split
  · exact h1.trans (setBatch_row _ _ _)
  · extract_lets +onlyGivenNames r changed s2 s3 newAt offs rows ws fixed s4 s5 home s6 s7
    have h2 : rowFrame s s2 := h1.trans (poisonEvent_row _ _ _ _)
    clear_value s2
    have h3 : rowFrame s s3 := by
      unfold s3
      split
      · exact h2.trans (raise_row _ _ _)
      · exact h2
    clear_value s3 fixed ws offs
    have h4 : rowFrame s s4 := h3.trans (rowFrame.foldl (fun _ _ => raise_row _ _ _) _ _)
    clear_value s4
    have h5 : rowFrame s s5 := by
      unfold s5
      split
      · exact h4.trans rfl
      · exact h4
    clear_value s5
    have h6 : rowFrame s s6 := by
      unfold s6
      split
      · exact h5
      · exact h5.trans rfl
    clear_value s6
    exact (h6.trans (issueFor_frame _ _ _ _ _).row).trans (setBatch_row _ _ _)

theorem applyRow_row (key : Nat) (b : Batch) (s : State) : rowFrame s (applyRow key b s) := by
  unfold applyRow
  split
  · exact setBatch_row _ _ _
  · next l _ =>
    extract_lets +onlyGivenNames row anchor p parVal live valOf target parities ws data bad mended ws' s1 s2 s3 s4
    have h1 : rowFrame s s1 := rowFrame.foldl (fun _ _ => raise_row _ _ _) _ _
    clear_value s1
    have h2 : rowFrame s s2 := by
      unfold s2
      split
      · exact h1
      · exact h1.trans (rowPoison_row _ _ _ _ _ _)
    clear_value s2 ws'
    exact ((h2.trans (setBatch_row _ _ _)).trans (issueFor_frame _ _ _ _ _).row).trans (setBatch_row _ _ _)

theorem pumpReads_row (key : Nat) (s : State) : rowFrame s (pumpReads key s) := by
  unfold pumpReads
  split
  · exact .refl s
  · split
    · exact .refl s
    · extract_lets need
      split
      · split
        · exact applyGranule_row _ _ _
        · exact applyRow_row _ _ _
      · exact applyRow_row _ _ _
      · exact (issueFor_frame _ _ _ _ _).row.trans (setBatch_row _ _ _)

theorem endRow_row (b : Batch) (s : State) : rowFrame s (endRow b s) := by
  unfold endRow
  split
  · rfl
  · split
    · split <;> rfl
    · exact .refl s

theorem endOwnStep_row (key : Nat) (s : State) : rowFrame s (endOwnStep key s) := by
  unfold endOwnStep
  split
  · exact .refl s
  · split
    · exact .refl s
    · exact (setQueue_row _ _ _).trans (endRow_row _ _)

theorem failRequests_row (d t m : Nat) (s : State) : rowFrame s (failRequests d t m s) := by
  unfold failRequests
  extract_lets mine home u
  exact (show rowFrame s u from rfl).trans
    (rowFrame.foldl (fun _ _ => (pumpReads_row _ _).trans (endOwnStep_row _ _)) _ _)

/-- A module that is treated as failed stands among the failed ones, whatever its requests' steps did. -/
theorem treatFailed_row (d t m : Nat) (s : State) :
    ∃ f, rowFrame { s with home := { s.home with failed := f } } (treatFailed d t m s) ∧
    moduleFailed d t m (treatFailed d t m s) = true := by
  unfold treatFailed
  split
  · next h => exact ⟨_, .refl s, h⟩
  · have hframe := failRequests_row d t m { s with home := { s.home with failed := s.home.failed ++ [(d, t, m)] } }
    refine ⟨_, hframe, ?_⟩
    rw [moduleFailed, (show passFrame _ _ from hframe).home_eq]
    simp

/-- What judging the groups changes: the list of the lost ones and what is said. -/
def judgedFrame (s t : State) : Prop := answerFrame { s with home := { s.home with lostGroups := t.home.lostGroups } } t

theorem judgedFrame.refl (s : State) : judgedFrame s s := rfl

theorem judgedFrame.trans {s t u : State} (h : judgedFrame s t) (k : judgedFrame t u) : judgedFrame s u := by
  unfold judgedFrame answerFrame at *
  refine k.trans ?_
  rw [h]

theorem answerFrame.judged {s t : State} (h : answerFrame s t) : judgedFrame s t := by
  unfold judgedFrame
  rw [h.home_eq]
  exact h

theorem judgeGroups_frame (s : State) : judgedFrame s (judgeGroups s) := by
  unfold judgeGroups
  refine List.foldlRecOn (motive := judgedFrame s) s.man.groups _ (.refl s) fun t h p _ => h.trans ?_
  extract_lets g bad part open_ lost
  clear_value lost part bad
  split
  · exact (show judgedFrame t { t with home := { t.home with lostGroups := t.home.lostGroups ++ [g.groupId] } } from rfl).trans
      (raise_frame _ _ _).judged
  · split
    · rfl
    · exact .refl t

end Sys2Proof.Machine
end

section
/-! PROOFS. Failed modules and rows that start. -/

namespace Sys2Proof.Machine
open Sys2Proof

/-! Failed modules (R334). -/

section
variable {d tr m : Nat} {s t : State}

theorem moduleFailed_congr (hfailed : t.home.failed = s.home.failed) (hing : t.ing = s.ing) :
    moduleFailed d tr m t = moduleFailed d tr m s := by
  rw [moduleFailed, moduleFailed, hfailed, hing]

theorem judgedFrame.moduleFailed_eq (h : judgedFrame s t) : moduleFailed d tr m t = moduleFailed d tr m s := by
  have h : answerFrame _ t := h
  exact moduleFailed_congr (by rw [h.home_eq]) h.ing_eq

/-- A notice of a failed module waits for the next boundary. -/
def failureNoted (d tr m : Nat) (s : State) : State :=
  { s with home := { s.home with failNotices := s.home.failNotices ++ [(d, tr, m, 1)] } }

theorem failureNoted_self (d tr m : Nat) (s : State) : self (failureNoted d tr m s) = self s := rfl
theorem failureNoted_ring (d tr m : Nat) (s : State) : (failureNoted d tr m s).ring = s.ring := rfl
theorem failureNoted_tide (d tr m : Nat) (s : State) : (failureNoted d tr m s).tide = s.tide := rfl
theorem failureNoted_ing (d tr m : Nat) (s : State) : (failureNoted d tr m s).ing = s.ing := rfl
theorem failureNoted_failed (d tr m : Nat) (s : State) : (failureNoted d tr m s).home.failed = s.home.failed := rfl

theorem declareModule_eq (tr m : Nat) (s : State) : ∃ fields, declareModule tr m false s =
    judgeGroups (broadcast ctlModuleFailed [self s, tr, m, 1] (failureNoted (self s) tr m
      (raise 0x0620 fields (treatFailed (self s) tr m s)))) := by
  refine ⟨[(evContext, tr), (evAddress, modNum (self s) tr m * 2 ^ 38), (evCount, 1)], ?_⟩
  simp only [declareModule, Bool.false_eq_true, if_false, List.foldl_cons, List.foldl_nil, failureNoted]

/-- A module that is declared failed is failed, noted for the next boundary, and told to every member (R334). -/
theorem declareModule_one (hring : reachesRing s) :
    moduleFailed (self s) tr m (declareModule tr m false s) = true ∧
    (declareModule tr m false s).home.failNotices = s.home.failNotices ++ [(self s, tr, m, 1)] ∧
    ∃ num, Posts (.control (self s) num ctlModuleFailed [self s, tr, m, 1]) (declareModule tr m false s) := by
  obtain ⟨f, hframe, hfailed⟩ := treatFailed_row (self s) tr m s
  obtain ⟨fields, heq⟩ := declareModule_eq tr m s
  rw [heq]
  obtain ⟨u, hu⟩ : ∃ u, treatFailed (self s) tr m s = u := ⟨_, rfl⟩
  rw [hu] at hframe hfailed ⊢
  clear hu heq
  have hu : passFrame _ u := hframe
  have hun : u.home.failNotices = s.home.failNotices := by rw [hu.home_eq]
  have huring : u.ring = s.ring := hu.ring_eq
  have hutide : u.tide = s.tide := hu.tide_eq
  have huself : self u = self s := hu.devid_eq
  have hv := raise_frame 0x0620 fields u
  obtain ⟨v, hraised⟩ : ∃ v, raise 0x0620 fields u = v := ⟨_, rfl⟩
  rw [hraised] at hv ⊢
  clear hraised
  have hreach : reachesRing (failureNoted (self s) tr m v) := reachesRing_congr (s := s)
    (by rw [failureNoted_ring, hv.ring_eq, huring]) (by rw [failureNoted_tide, hv.tide_eq, hutide]) hring
  have hwf : moduleFailed (self s) tr m (failureNoted (self s) tr m v) = true := by
    rw [moduleFailed_congr (s := u) (by rw [failureNoted_failed, hv.home_eq]) (by rw [failureNoted_ing, hv.ing_eq]), hfailed]
  have hwn : (failureNoted (self s) tr m v).home.failNotices = s.home.failNotices ++ [(self s, tr, m, 1)] := by
    rw [failureNoted, hv.home_eq, hun]
  have hselfw : self (failureNoted (self s) tr m v) = self s :=
    (failureNoted_self _ _ _ _).trans ((by rw [self, self, hv.devid_eq] : self v = self u).trans huself)
  obtain ⟨w, hnoted⟩ : ∃ w, failureNoted (self s) tr m v = w := ⟨_, rfl⟩
  rw [hnoted] at hreach hwf hwn hselfw ⊢
  clear hnoted
  have hposts := broadcast_posts hreach ctlModuleFailed [self s, tr, m, 1]
  unfold broadcast at hposts ⊢
  have hctl := control_eq none ctlModuleFailed [self s, tr, m, 1] w
  obtain ⟨x, hsent⟩ : ∃ x, control none ctlModuleFailed [self s, tr, m, 1] w = x := ⟨_, rfl⟩
  rw [hsent] at hposts hctl ⊢
  clear hsent
  have hxhome : x.home = w.home := by rw [hctl]
  have hxing : x.ing = w.ing := by rw [hctl]
  have hj := judgeGroups_frame x
  have hjhome : (judgeGroups x).home.failNotices = x.home.failNotices := by rw [(show answerFrame _ _ from hj).home_eq]
  have hjring : (judgeGroups x).ring = x.ring := by rw [(show answerFrame _ _ from hj).ring_eq]
  rw [hselfw] at hposts
  refine ⟨?_, ?_, w.ring.nextMsg, ?_⟩
  · rw [hj.moduleFailed_eq, moduleFailed_congr (by rw [hxhome]) hxing, hwf]
  · rw [hjhome, hxhome, hwn]
  · unfold Posts at hposts ⊢
    rw [hjring]
    exact hposts

end

section
variable {r : TrayReq} {s : State}

theorem execTrayRequestTimeout_counted (hcore : coreRuns s = true) (htrays : s.home.trays = [r]) (hhere : r.device = self s)
    (hlate : r.late = false) :
    exec (.trayRequestTimeout r.id) s = .next (
      if 3 ≤ (((s.home.timeouts.filter fun x => decide (s.refCycles < x.2 + msCycles)) ++
          [(modNum (self s) r.tray r.module, s.refCycles)]).countP fun x => x.1 == modNum (self s) r.tray r.module) ∧
          moduleFailed (self s) r.tray r.module s = false then
        declareModule r.tray r.module false { s with home := { s.home with
          timeouts := (s.home.timeouts.filter fun x => decide (s.refCycles < x.2 + msCycles)) ++
            [(modNum (self s) r.tray r.module, s.refCycles)],
          trays := [{ r with late := true }] } }
      else { s with home := { s.home with
          timeouts := (s.home.timeouts.filter fun x => decide (s.refCycles < x.2 + msCycles)) ++
            [(modNum (self s) r.tray r.module, s.refCycles)],
          trays := [{ r with late := true }] } }) := by
  rw [← hhere]
  have hopen : ¬(r.device ≠ self s ∨ r.late = true) := by simp [hhere, hlate]
  rw [exec_trayRequestTimeout, execTrayRequestTimeout, onCore_of_coreRuns hcore]
  simp only [htrays, List.find?_cons, beq_self_eq_true, if_neg hopen, List.map_cons, List.map_nil, if_true]
  rfl

end

/-! A group's failed members (R334). -/

section
variable {g : Group} {d tr m : Nat} {s : State}

/-- With no request to a tray, a module that failed is only noted. -/
theorem treatFailed_idle (d tr m : Nat) (htrays : s.home.trays = []) :
    ∃ f, treatFailed d tr m s = { s with home := { s.home with failed := f } } := by
  unfold treatFailed
  split
  · exact ⟨s.home.failed, rfl⟩
  · refine ⟨s.home.failed ++ [(d, tr, m)], ?_⟩
    simp [failRequests, htrays]

/-- The members of a group that fail now, with their places (`failMembers_eq`). -/
def failingMembers (p : GroupMember → Bool) (g : Group) : List (GroupMember × Nat) :=
  g.members.zipIdx.filter fun m => p m.1 && m.1.state != 1

/-- The group with those members failed. -/
def membersFailed (p : GroupMember → Bool) (g : Group) : Group :=
  { g with members := g.members.map fun m => if p m then { m with state := 1 } else m }

/-- The group is put back with its failed members, which are told (R334). -/
def membersTold (p : GroupMember → Bool) (g : Group) (s : State) : State :=
  (failingMembers p g).foldl (fun s m => raise 0x0621 [(evAddress, g.anchor * 2 ^ 38), (evDetail, m.2)] s)
    { s with man := { s.man with groups := tput s.man.groups g.groupId (membersFailed p g) } }

/-- Their rebuilds end. -/
def rebuildsEnded (p : GroupMember → Bool) (g : Group) (s : State) : State :=
  { s with home := { s.home with rebuilds := s.home.rebuilds.filter fun r =>
    !(r.groupId == g.groupId && (failingMembers p g).any fun m => m.2 == r.member) } }

/-- What a boundary's notices do to one group. -/
def failGroup (p : GroupMember → Bool) (s : State) (x : Nat × Group) : State :=
  if failingMembers p x.2 = [] then s
  else endFormat x.2.groupId false (rebuildsEnded p x.2 (membersTold p x.2 s))

theorem failMembers_eq (p : GroupMember → Bool) (s : State) :
    failMembers p s = judgeGroups (s.man.groups.foldl (failGroup p) s) := rfl

theorem endFormat_none {ok : Bool} (h : tget s.home.formats g.groupId = none) : endFormat g.groupId ok s = s := by
  unfold endFormat
  rw [h]

/-- Where every member named has failed already, the group stays as it is. -/
theorem membersFailed_of_none {p : GroupMember → Bool} (hnone : failingMembers p g = []) : membersFailed p g = g := by
  have hmembers : g.members.map (fun m => if p m then { m with state := 1 } else m) = g.members := by
    refine (List.map_congr_left fun m hm => ?_).trans (List.map_id _)
    obtain ⟨i, hi⟩ := List.mem_iff_getElem?.1 hm
    have hnot := List.filter_eq_nil_iff.1 hnone (m, i) (List.mk_mem_zipIdx_iff_getElem?.2 hi)
    split
    · next hp =>
      have hstate : m.state = 1 := by simpa [hp] using hnot
      exact congrArg (fun n => { m with state := n }) hstate.symm
    · rfl
  rw [membersFailed, hmembers]

theorem membersTold_frame (p : GroupMember → Bool) (g : Group) (s : State) :
    answerFrame { s with man := { s.man with groups := tput s.man.groups g.groupId (membersFailed p g) } } (membersTold p g s) :=
  foldl_frame (fun _ _ => raise_frame _ _ _) _ _

/-- A group whose formatting is not under way takes its failed members. -/
theorem failGroup_only {p : GroupMember → Bool} (hgroups : s.man.groups = [(g.groupId, g)])
    (hformats : tget s.home.formats g.groupId = none) :
    ∃ t, failGroup p s (g.groupId, g) = t ∧ t.man = { s.man with groups := [(g.groupId, membersFailed p g)] } ∧
      t.home.failNotices = s.home.failNotices ∧ t.home.failed = s.home.failed ∧ t.ing = s.ing := by
  unfold failGroup
  split
  · next hnone =>
    refine ⟨s, rfl, ?_, rfl, rfl, rfl⟩
    rw [membersFailed_of_none hnone, ← hgroups]
  · have hframe := membersTold_frame p g s
    obtain ⟨u, hu⟩ : ∃ u, membersTold p g s = u := ⟨_, rfl⟩
    rw [hu] at hframe ⊢
    have huhome : u.home = s.home := hframe.home_eq
    refine ⟨rebuildsEnded p g u, endFormat_none ?_, ?_, ?_, ?_, hframe.ing_eq⟩
    · change tget u.home.formats g.groupId = none
      rw [huhome]
      exact hformats
    · refine hframe.man_eq.trans ?_
      simp [hgroups, tput]
    · exact (show u.home.failNotices = s.home.failNotices by rw [huhome])
    · exact (show u.home.failed = s.home.failed by rw [huhome])

/-- GROUP_DEGRADED with one notice and one group (R334). -/
theorem execGroupDegraded_one {d tr m : Nat} (hcore : coreRuns s = true) (hgroups : s.man.groups = [(g.groupId, g)])
    (htrays : s.home.trays = []) (hnotices : s.home.failNotices = [(d, tr, m, 1)]) (hformats : tget s.home.formats g.groupId = none) :
    ∃ u, exec .groupDegraded s = .next u ∧
      u.man = { s.man with groups := [(g.groupId, membersFailed (fun x => noticeNames (d, tr, m, 1) x) g)] } ∧
      u.home.failNotices = [] ∧ moduleFailed d tr m u = true := by
  have hstart : degradeGroups s = failMembers (fun m' => [(d, tr, m, 1)].any fun n => noticeNames n m')
      (treatFailed d tr m { s with home := { s.home with failNotices := [] } }) := by
    unfold degradeGroups
    simp [hnotices, upto]
  obtain ⟨f, hframe, hfailed⟩ := treatFailed_row d tr m { s with home := { s.home with failNotices := [] } }
  obtain ⟨f', hidle⟩ := treatFailed_idle (s := { s with home := { s.home with failNotices := [] } }) d tr m htrays
  rw [hidle] at hfailed hstart
  have hp : (fun m' => [(d, tr, m, 1)].any fun n => noticeNames n m') = fun x => noticeNames (d, tr, m, 1) x := by
    funext x
    simp
  obtain ⟨u, hu⟩ : ∃ u : State, { s with home := { s.home with failNotices := [], failed := f' } } = u := ⟨_, rfl⟩
  have human : u.man = s.man := by rw [← hu]
  have hunotices : u.home.failNotices = [] := by rw [← hu]
  have huformats : tget u.home.formats g.groupId = none := by rw [← hu]; exact hformats
  have hufailed : moduleFailed d tr m u = true := by rw [← hu]; exact hfailed
  obtain ⟨v, hv, hvman, hvnotices, hvfailed, hving⟩ := failGroup_only (p := fun x => noticeNames (d, tr, m, 1) x) (s := u) (g := g)
    (by rw [human]; exact hgroups) huformats
  have hstart' : degradeGroups s = failMembers (fun x => noticeNames (d, tr, m, 1) x) u := by
    rw [← hu, ← hp]
    exact hstart
  have hdone : degradeGroups s = judgeGroups v := by
    rw [hstart', failMembers_eq, human, hgroups, List.foldl_cons, List.foldl_nil, hv]
  have hj := judgeGroups_frame v
  refine ⟨judgeGroups v, ?_, ?_, ?_, ?_⟩
  · rw [exec_groupDegraded, execGroupDegraded, onCore_of_coreRuns hcore, hdone]
  · rw [(show answerFrame _ _ from hj).man_eq]
    exact hvman.trans (by rw [human])
  · rw [(show answerFrame _ _ from hj).home_eq]
    exact hvnotices.trans hunotices
  · rw [hj.moduleFailed_eq, moduleFailed_congr hvfailed hving, hufailed]

end

/-! Rows that start (R336, R340). -/

section
variable {kind place row : Nat} {g : Group} {a b : GroupMember} {s : State}

theorem rowFree_of_nil (hqueues : s.home.queues = []) : rowFree kind place row s = true := by
  simp [rowFree, queueOf, hqueues, tgetD, tget, stepFree]

theorem rowBusy_of_nil (hqueues : s.home.queues = []) : rowBusy kind place s = false := by
  simp [rowBusy, hqueues]

/-- A row of kind 2 or 3 that starts reads the one member that it needs. -/
theorem startRow_reads {l : Lay} {p : Nat × Nat × Nat} (hqueues : s.home.queues = []) (htrays : s.home.trays = [])
    (hlay : ∀ q, stepLay (rowKey kind place row) (newStep kind (place, row) []) (setQueue (rowKey kind place row) q s) = some l)
    (hneeds : ∀ q, stepNeeds (rowKey kind place row) (newStep kind (place, row) []) (setQueue (rowKey kind place row) q s) = [(row, 0)])
    (hmem : l.mems[0]? = some p) :
    ∃ t, startRow kind place row s = t ∧ trayFrame { s with home := { s.home with queues := t.home.queues } } t ∧
      ∃ q, t.home.trays = [q] ∧ trayPlace q = (p.1, p.2.1, p.2.2, 64 * row, false, rowKey kind place row) := by
  obtain ⟨t, ht, hframe, hplaces⟩ := startStep_asks (key := rowKey kind place row) (b := newStep kind (place, row) []) (c := (row, 0))
    (cs := []) (s := s) rfl rfl (by rw [awaited, htrays]; rfl) (by rw [hneeds]; rfl) (hlay _)
  refine ⟨t, ?_, hframe, ?_⟩
  · unfold startRow
    simp only [rowFree_of_nil hqueues, if_true]
    exact ht
  · have hone := hplaces fun e he => by rw [List.mem_singleton.1 he, hmem]; rfl
    rw [htrays] at hone
    simp only [List.map_nil, List.nil_append, List.map_cons, hmem, Option.getD_some] at hone
    obtain ⟨q, hq, hplace⟩ := List.map_eq_singleton_iff.1 hone
    exact ⟨q, hq, hplace⟩

/-- The layout of a mirrored group (R332). -/
theorem layGroup_mirror (hmode : g.mode = 1) (hmembers : g.members = [a, b]) (off : Nat) : layGroup g off =
    { k := 1, par := 1, rot := false, mems := [(a.device, a.tray, a.module), (b.device, b.tray, b.module)],
      states := [a.state, b.state], group := some g.groupId, base := off / 64 } := by
  simp [layGroup, hmode, hmembers, modeData, modeParity]

theorem missing_first (hmode : g.mode = 1) (hmembers : g.members = [a, b]) (hgood : a.state = 0)
    (hlive : moduleFailed a.device a.tray a.module s = false) (off : Nat) : missing (layGroup g off) row 0 s = false := by
  rw [layGroup_mirror hmode hmembers]
  simp [missing, hgood, hlive]

/-- A mirror's live members are the first, and the second where it holds the row. -/
theorem liveMembers_mirror (hmode : g.mode = 1) (hmembers : g.members = [a, b]) (hgood : a.state = 0)
    (hlive : moduleFailed a.device a.tray a.module s = false) (off : Nat) :
    liveMembers (layGroup g off) row s = if missing (layGroup g off) row 1 s = true then [0] else [0, 1] := by
  have hfirst := missing_first (row := row) hmode hmembers hgood hlive off
  have hk : (layGroup g off).k + (layGroup g off).par = 2 :=
    congrArg (fun l => l.k + l.par) (layGroup_mirror hmode hmembers off)
  unfold liveMembers
  rw [hk]
  cases hsecond : missing (layGroup g off) row 1 s <;> simp [List.range_succ, hfirst, hsecond]

/-- The row at a rebuild's cursor is not yet rebuilt. -/
theorem belowCursor_at {r : Rebuild} {lo hi c gid : Nat} (hrebuilds : s.home.rebuilds = [r]) (hranges : r.ranges = [(lo, hi, c)]) :
    belowCursor gid c s = false := by
  simp [belowCursor, hrebuilds, hranges]

theorem missing_second {r : Rebuild} {lo hi c : Nat} (hmode : g.mode = 1) (hmembers : g.members = [a, b]) (hspare : b.state = 2)
    (hrebuilds : s.home.rebuilds = [r]) (hranges : r.ranges = [(lo, hi, c)]) (off : Nat) :
    missing (layGroup g off) c 1 s = true := by
  rw [layGroup_mirror hmode hmembers]
  simp [missing, hspare, belowCursor_at hrebuilds hranges]

/-- A rebuild reads its next row within its rate (R340). -/
theorem execRebuildStep_reads {r : Rebuild} {lo hi c : Nat} (hcore : coreRuns s = true) (hqueues : s.home.queues = [])
    (htrays : s.home.trays = []) (hrebuilds : s.home.rebuilds = [r]) (hr : r.groupId = g.groupId) (hranges : r.ranges = [(lo, hi, c)])
    (hopen : c < hi) (hgroup : tget s.man.groups g.groupId = some g) (hmode : g.mode = 1) (hmembers : g.members = [a, b])
    (hgood : a.state = 0) (hspare : b.state = 2) (hlive : moduleFailed a.device a.tray a.module s = false)
    (hrate : r.spent + 64 ≤ r.rate * tau s) :
    ∃ t, exec (.rebuildStep g.groupId) s = .next t ∧
      trayFrame { s with home := { s.home with queues := t.home.queues } } t ∧
      ∃ q, t.home.trays = [q] ∧ trayPlace q = (a.device, a.tray, a.module, 64 * c, false, rowKey 2 g.groupId c) := by
  have hexec : exec (.rebuildStep g.groupId) s = .next (startRow 2 g.groupId c s) := by
    have hfree : ¬(r.rate * tau s < r.spent + 64 ∨ rowBusy 2 g.groupId s = true) := by
      simp [rowBusy_of_nil hqueues, Nat.not_lt.2 hrate]
    have hof : rebuildOf g.groupId s = some r := by simp [rebuildOf, hrebuilds, hr]
    rw [exec_rebuildStep, execRebuildStep, onCore_of_coreRuns hcore]
    simp [hof, hranges, hopen, hfree]
  obtain ⟨t, ht, hframe, hread⟩ := startRow_reads (kind := 2) (place := g.groupId) (row := c) (s := s) (l := layGroup g 0)
    (p := (a.device, a.tray, a.module)) hqueues htrays
    (fun q => by
      simp [stepLay, newStep, layOfGroup, hgroup])
    (fun q => by
      have hl := liveMembers_mirror (row := c) (s := setQueue (rowKey 2 g.groupId c) q s) hmode hmembers hgood (by exact hlive) 0
      rw [missing_second hmode hmembers hspare (by exact hrebuilds) hranges, if_pos rfl] at hl
      simp [stepNeeds, newStep, layOfGroup, hgroup, hl])
    (by rw [layGroup_mirror hmode hmembers]; rfl)
  exact ⟨t, by rw [hexec, ht], hframe, hread⟩

end

end Sys2Proof.Machine
end

section
/-! PROOFS. A formatting's rows. -/

namespace Sys2Proof.Machine
open Sys2Proof

/-! A row of a formatting (R336). -/

section
variable {g : Group} {a b : GroupMember} {s : State}

/-- A batch that applies its writes at once stands at stage 2 with what they wait for. -/
theorem applyRow_format {key place row : Nat} {l : Lay} {bt : Batch} (hkind : bt.kind = 4) (hplace : bt.place = (place, row))
    (hlay : stepLay key bt s = some l) :
    applyRow key bt s =
      let u := issueFor key l true ((List.range (l.k + l.par)).map fun m => (row, m, zeroGranule)) (setBatch key { bt with stage := 2 } s)
      setBatch key { bt with stage := 2, awaiting := awaited key u } u := by
  unfold applyRow
  simp [hlay, hkind, hplace]

theorem awaited_eq_nil_iff {key : Nat} : awaited key s = [] ↔ ∀ r ∈ s.home.trays.map trayPlace, r.2.2.2.2.2 ≠ key := by
  simp [awaited, trayPlace]

/-- A step of a formatting has no reads, so it applies at once. -/
theorem pumpReads_format {key : Nat} {bt : Batch} (hbatch : (queueOf key s).batch = some bt) (hkind : bt.kind = 4)
    (hstage : bt.stage = 1) (hwaits : awaited key s = []) : pumpReads key s = applyRow key bt s := by
  have hready : ¬(bt.stage ≠ 1 ∨ awaited key s ≠ []) := by simp [hstage, hwaits]
  have hneeds : stepNeeds key bt s = [] := by simp [stepNeeds, hkind]
  unfold pumpReads
  simp [hbatch, hready, hneeds, hkind]

/-- A step whose writes are under way goes on waiting. -/
theorem endOwnStep_writing {key : Nat} (hwaits : awaited key s ≠ []) : endOwnStep key s = s := by
  unfold endOwnStep
  split
  · rfl
  · exact if_pos (.inr (.inr hwaits))

/-- A step that starts in its queue and sends its requests changes the queues and the requests. -/
theorem stepStarts_frame {key : Nat} {bt : Batch} {w v : State} (hw : w = { s with home := { s.home with queues := w.home.queues } })
    (hv : trayFrame w v) : trayFrame { s with home := { s.home with queues := (setBatch key bt v).home.queues } } (setBatch key bt v) := by
  rw [setBatch_frame]
  unfold trayFrame passFrame at *
  rw [hv, hw]

/-- A row of a formatting that starts writes its cells at every member, and waits for them. -/
theorem startRow_formats {place row n : Nat} {l : Lay} (hqueues : s.home.queues = []) (htrays : s.home.trays = [])
    (hlay : ∀ q, stepLay (rowKey 4 place row) (newStep 4 (place, row) []) (setQueue (rowKey 4 place row) q s) = some l)
    (hsome : l.k + l.par = n + 1) (hmems : ∀ m < l.k + l.par, (l.mems[m]?).isSome = true) :
    ∃ t, startRow 4 place row s = t ∧ trayFrame { s with home := { s.home with queues := t.home.queues } } t ∧
      t.home.trays.map trayPlace = (List.range (l.k + l.par)).map fun m =>
        let p := (l.mems[m]?).getD (0, 0, 0)
        (p.1, p.2.1, p.2.2, 64 * row, true, rowKey 4 place row) := by
  unfold startRow
  simp only [rowFree_of_nil hqueues, if_true]
  have hlay := hlay { queue := [], batch := some (newStep 4 (place, row) []) }
  have hbatch : (queueOf (rowKey 4 place row) (setQueue (rowKey 4 place row)
      { queue := [], batch := some (newStep 4 (place, row) []) } s)).batch = some (newStep 4 (place, row) []) := by
    rw [queueOf_setQueue_self]
  obtain ⟨u, hu⟩ : ∃ u, setQueue (rowKey 4 place row) { queue := [], batch := some (newStep 4 (place, row) []) } s = u := ⟨_, rfl⟩
  have hframe : { s with home := { s.home with queues := u.home.queues } } = u := by rw [← hu]; rfl
  have hutrays : u.home.trays = [] := by rw [← hframe]; exact htrays
  rw [hu] at hlay hbatch ⊢
  clear hu
  rw [pumpReads_format hbatch rfl rfl (by rw [awaited, hutrays]; rfl), applyRow_format rfl rfl hlay]
  extract_lets v
  have hplaces : v.home.trays.map trayPlace = (List.range (l.k + l.par)).map fun m =>
      let p := (l.mems[m]?).getD (0, 0, 0)
      (p.1, p.2.1, p.2.2, 64 * row, true, rowKey 4 place row) := by
    have h := issueFor_places (l := l) (key := rowKey 4 place row) (write := true)
      (cells := (List.range (l.k + l.par)).map fun m => (row, m, zeroGranule))
      (fun c hc => by
        obtain ⟨m, hm, rfl⟩ := List.mem_map.1 hc
        exact hmems m (List.mem_range.1 hm))
      (setBatch (rowKey 4 place row) { newStep 4 (place, row) [] with stage := 2 } u)
    refine h.trans ?_
    rw [setBatch_frame, List.map_map]
    simp [hutrays]
  have hv := issueFor_frame (rowKey 4 place row) l true ((List.range (l.k + l.par)).map fun m => (row, m, zeroGranule))
    (setBatch (rowKey 4 place row) { newStep 4 (place, row) [] with stage := 2 } u)
  change trayFrame _ v at hv
  clear_value v
  have hwaits : awaited (rowKey 4 place row) v ≠ [] := by
    rw [Ne, awaited_eq_nil_iff, hplaces, hsome]
    intro h
    exact h _ (List.mem_map.2 ⟨0, by simp, rfl⟩) rfl
  rw [endOwnStep_writing (by rw [awaited, setBatch_frame]; exact hwaits)]
  refine ⟨_, rfl, ?_, ?_⟩
  · exact stepStarts_frame (by rw [← hframe]; rfl) hv
  · rw [setBatch_frame]
    exact hplaces

end

end Sys2Proof.Machine
end

section
/-! PROOFS. Formattings and rebuilds. -/

namespace Sys2Proof.Machine
open Sys2Proof

/-! A formatting's rows and its end (R336). -/

section
variable {g : Group} {a b : GroupMember} {f : Formatting} {limit : Nat} {s : State}

theorem execFormatStep_full (hcore : coreRuns s = true) (hf : tget s.home.formats g.groupId = some f)
    (hgroup : tget s.man.groups g.groupId = some g) (hformatting : g.formatting = some limit) (hopen : f.next < rowsBelow g limit)
    (hlate : 20 * tau s < f.spent + 64) : exec (.formatStep g.groupId 1) s = .next s := by
  have hone : min 1 (rowsBelow g limit) = 1 := by omega
  rw [exec_formatStep, execFormatStep, onCore_of_coreRuns hcore]
  simp [hgroup, hformatting, hone, formatRows, hf, hlate]

/-- A formatting writes its next row within the tide's budget. -/
theorem execFormatStep_writes (hcore : coreRuns s = true) (hqueues : s.home.queues = []) (htrays : s.home.trays = [])
    (hf : tget s.home.formats g.groupId = some f) (hgroup : tget s.man.groups g.groupId = some g)
    (hformatting : g.formatting = some limit) (hmode : g.mode = 1) (hmembers : g.members = [a, b])
    (hopen : f.next < rowsBelow g limit) (htime : f.spent + 64 ≤ 20 * tau s) :
    ∃ t, exec (.formatStep g.groupId 1) s = .next t ∧
      tget t.home.formats g.groupId = some { next := f.next + 1, spent := f.spent + 64 } ∧ t.man = s.man ∧
      t.home.trays.map trayPlace =
        [(a.device, a.tray, a.module, 64 * f.next, true, rowKey 4 g.groupId f.next),
         (b.device, b.tray, b.module, 64 * f.next, true, rowKey 4 g.groupId f.next)] := by
  have hone : min 1 (rowsBelow g limit) = 1 := by omega
  obtain ⟨u, hu⟩ : ∃ u : State, { s with home := { s.home with
    formats := tput s.home.formats g.groupId { next := f.next + 1, spent := f.spent + 64 } } } = u := ⟨_, rfl⟩
  have human : u.man = s.man := by rw [← hu]
  have huqueues : u.home.queues = [] := by rw [← hu]; exact hqueues
  have hutrays : u.home.trays = [] := by rw [← hu]; exact htrays
  have huformats : tget u.home.formats g.groupId = some { next := f.next + 1, spent := f.spent + 64 } := by
    rw [← hu]
    exact tget_tput_self _ _ _
  have hexec : exec (.formatStep g.groupId 1) s = .next (startRow 4 g.groupId f.next u) := by
    rw [exec_formatStep, execFormatStep, onCore_of_coreRuns hcore]
    simp [hgroup, hformatting, hone, formatRows, hf, Nat.not_lt.2 htime, Nat.not_le.2 hopen, rowFree_of_nil hqueues, hu]
  clear hu
  obtain ⟨t, ht, hframe, hplaces⟩ := startRow_formats (place := g.groupId) (row := f.next) (l := layGroup g 0) (n := 1) huqueues hutrays
    (fun q => by
      have hq : tget u.man.groups g.groupId = some g := by rw [human]; exact hgroup
      simp [stepLay, newStep, layOfGroup, hq])
    (congrArg (fun l => l.k + l.par) (layGroup_mirror hmode hmembers 0))
    (fun m hm => by
      rw [layGroup_mirror hmode hmembers] at hm ⊢
      change m < 2 at hm
      interval_cases m <;> rfl)
  have hframe : passFrame _ t := hframe
  refine ⟨t, by rw [hexec, ht], ?_, ?_, ?_⟩
  · rw [hframe.home_eq]
    exact huformats
  · exact hframe.man_eq.trans human
  · rw [hplaces, layGroup_mirror hmode hmembers]
    rfl

/-- A commit that is ready touches the change it commits and its notice. -/
theorem commitReady_keeps {number : Nat} {i : Issued} (hissued : s.man.issued = [i]) (hnumber : i.number = number) :
    (commitReady number s).home = s.home ∧ ∃ c, (commitReady number s).man.issued = [{ i with committed := c }] := by
  have hof : issuedOf number s = some i := by simp [issuedOf, hissued, hnumber]
  cases hnotice : noticeOf ⟨self s, number⟩ s with
  | none =>
    have hstays : commitReady number s = s := by simp [commitReady, hof, hnotice]
    rw [hstays]
    exact ⟨rfl, i.committed, hissued⟩
  | some n =>
    unfold commitReady
    simp only [hof, hnotice]
    split
    · exact ⟨rfl, i.committed, hissued⟩
    · have hset : (setIssued { i with committed := true } s).man.issued = [{ i with committed := true }] := by
        simp [setIssued, hissued]
      obtain ⟨v, hv⟩ : ∃ v, setIssued { i with committed := true } s = v := ⟨_, rfl⟩
      have hvhome : v.home = s.home := by rw [← hv]; rfl
      have hvnotices : v.man.notices = s.man.notices := by rw [← hv]; rfl
      rw [hv] at hset ⊢
      clear hv
      have hcommit := (commitNotice_eq (s := v) (id := ⟨self s, number⟩) (n := n) (by rw [noticeOf, hvnotices]; exact hnotice)).2
      rw [broadcast, control_eq]
      exact ⟨(congrArg (·.home) hcommit).trans hvhome, true, (congrArg (·.man.issued) hcommit).trans hset⟩

/-- A change that is issued with none before it stands alone in the list. -/
theorem issue_alone {h : Option CmdHdr} {command at_ : Nat} {c : Change} (hstays : movesHere c s = false) (hissued : s.man.issued = []) :
    (issue h command c at_ s).home = s.home ∧ ∃ i, (issue h command c at_ s).man.issued = [i] ∧ i.hdr = h ∧
      i.number = s.man.nextChange ∧ i.change = c ∧ i.atTide = at_ := by
  unfold issue
  extract_lets +onlyGivenNames n joins await i man u v w
  have hi : u.man.issued = [i] := by
    change s.man.issued ++ [i] = [i]
    rw [hissued]
    rfl
  have huhome : u.home = s.home := rfl
  have hustays : movesHere c u = false := (movesHere_congr rfl rfl).trans hstays
  have hnumber : i.number = n ∧ i.hdr = h ∧ i.change = c ∧ i.atTide = at_ := ⟨rfl, rfl, rfl, rfl⟩
  clear_value i u
  have hv : noticeFrame u v := control_notice _ _ _ _
  clear_value v
  have hw := storeNotice_frame ((movesHere_congr (by rw [hv.man_eq]) hv.self_eq).trans hustays) ⟨self v, n⟩ at_ true
  change noticeFrame _ w at hw
  clear_value w
  have hwi : w.man.issued = [i] := by
    rw [hw.man_eq]
    exact (congrArg (·.issued) hv.man_eq).trans hi
  obtain ⟨hhome, k, hk⟩ := commitReady_keeps hwi hnumber.1
  obtain ⟨hn, hh, hc, hat⟩ := hnumber
  refine ⟨?_, _, hk, hh, hn, hc, hat⟩
  rw [hhome, hw.home_eq]
  exact hv.home_eq.trans huhome

/-- A formatting whose last row is done ends with the keeper's own change. -/
theorem execFormatDone_issues (hcore : coreRuns s = true) (hqueues : s.home.queues = [])
    (hf : tget s.home.formats g.groupId = some f) (hgroup : tget s.man.groups g.groupId = some g)
    (hformatting : g.formatting = some limit) (hdone : rowsBelow g limit ≤ f.next) (hissued : s.man.issued = []) :
    ∃ t, exec (.formatDone g.groupId) s = .next t ∧ tget t.home.formats g.groupId = none ∧
      ∃ i ∈ t.man.issued, i.hdr = none ∧ i.number = s.man.nextChange ∧ i.change = .formatEnd g.groupId limit true ∧
        i.atTide = s.tide.count + 16 := by
  have hexec : exec (.formatDone g.groupId) s = .next (issue none 0x0C02 (.formatEnd g.groupId limit true) (s.tide.count + 16)
      { s with home := { s.home with formats := tdel s.home.formats g.groupId } }) := by
    rw [exec_formatDone, execFormatDone, onCore_of_coreRuns hcore]
    simp [hf, hgroup, hformatting, hdone, rowBusy_of_nil hqueues, endFormat]
  obtain ⟨hhome, i, hi, hhdr, hnumber, hchange, hat⟩ := issue_alone (h := none) (command := 0x0C02) (at_ := s.tide.count + 16)
    (c := .formatEnd g.groupId limit true) (s := { s with home := { s.home with formats := tdel s.home.formats g.groupId } })
    rfl (by exact hissued)
  refine ⟨_, hexec, ?_, i, ?_, hhdr, hnumber, hchange, hat⟩
  · rw [hhome]
    exact tget_tdel_self _ _
  · rw [hi]
    exact List.mem_singleton_self i

end

/-! Rebuilds (R340). -/

section
variable {g : Group} {r : Rebuild} {s : State}

theorem execRebuildDoneReport_only {d gid : Nat} (hcore : coreRuns s = true) (hrebuilds : s.home.rebuilds = [r]) (hr : r.groupId = gid) :
    exec (.rebuildDoneReport gid d) s =
      .next { s with home := { s.home with rebuilds := [{ r with reported := insertSorted d r.reported }] } } := by
  have hof : rebuildOf gid s = some r := by simp [rebuildOf, hrebuilds, hr]
  rw [exec_rebuildDoneReport, execRebuildDoneReport, onCore_of_coreRuns hcore]
  simp [hof, setRebuild, hrebuilds]

theorem finishRebuild_waits {d : Nat} (hof : rebuildOf g.groupId s = some r) (hgroup : tget s.man.groups g.groupId = some g)
    (hd : d ∈ rebuilders g s) (hnot : d ∉ r.reported) : finishRebuild g.groupId s = s := by
  have hopen : ¬(rebuilders g s).all r.reported.contains = true := by
    intro h
    exact hnot (by simpa using List.all_eq_true.1 h d hd)
  unfold finishRebuild
  simp only [hof, hgroup, if_neg hopen]

/-- The member a rebuild rebuilt is in use again. -/
def memberRebuilt (g : Group) (r : Rebuild) : List GroupMember :=
  g.members.zipIdx.map fun m => if m.2 = r.member then { m.1 with state := 0 } else m.1

theorem memberRebuilt_getElem? (m : Nat) :
    (memberRebuilt g r)[m]? = (g.members[m]?).map fun x => if m = r.member then { x with state := 0 } else x := by
  rw [memberRebuilt, List.getElem?_map, List.getElem?_zipIdx, Option.map_map, Nat.zero_add]
  rfl

/-- A rebuild that every device has reported ends. -/
theorem finishRebuild_all (hof : rebuildOf g.groupId s = some r) (hgroup : tget s.man.groups g.groupId = some g)
    (hall : ∀ d ∈ rebuilders g s, d ∈ r.reported) : ∃ t, finishRebuild g.groupId s = t ∧
      judgedFrame { s with
        man := { s.man with groups := tput s.man.groups g.groupId { g with members := memberRebuilt g r, rebuildRate := 0 } },
        home := { s.home with rebuilds := s.home.rebuilds.filter fun x => x.groupId != g.groupId } } t := by
  have hdone : (rebuilders g s).all r.reported.contains = true := List.all_eq_true.2 fun d hd => by simpa using hall d hd
  unfold finishRebuild
  simp only [hof, hgroup, if_pos hdone]
  refine ⟨_, rfl, judgedFrame.trans ?_ (judgeGroups_frame _)⟩
  split
  · exact (raise_frame _ _ _).judged
  · exact .refl _

end

end Sys2Proof.Machine
end

section
/-! PROOFS. Resyncs, and the modules and rows. -/

namespace Sys2Proof.Machine
open Sys2Proof

/-! Resyncs (R344). -/

section
variable {g : Group} {a b : GroupMember} {entry c : Nat} {e : Entry} {s : State}

theorem layOf_group (hred : e.redundancy ≠ 0) (hgroup : groupAt (modAddr e.baseFpa) s = some g) :
    layOf e s = layGroup g (e.baseFpa % 2 ^ 38) := by
  simp [layOf, hred, hgroup]

/-- A mirror's rows are compared from its first member. -/
theorem syncMembers_mirror (hmode : g.mode = 1) (hmembers : g.members = [a, b]) (hgood : a.state = 0)
    (hlive : moduleFailed a.device a.tray a.module s = false) (off row : Nat) : syncMembers (layGroup g off) row [] s = [0] := by
  have hl := liveMembers_mirror (row := row) hmode hmembers hgood hlive off
  have hdata : dataMembers (layGroup g off) row = [0] := by
    rw [layGroup_mirror hmode hmembers]
    simp [dataMembers, parityMembers, List.range_succ]
  have hgot : ¬((layGroup g off).k = 1 ∧ cellBad [] row 0 = true) := by simp [cellBad, tget]
  unfold syncMembers
  simp only [hl, hdata, if_neg hgot]
  split <;> rfl

/-- A resync reads its next row. -/
theorem execResyncStep_reads (hcore : coreRuns s = true) (hqueues : s.home.queues = []) (htrays : s.home.trays = [])
    (hresync : tget s.home.resyncs entry = some (c, [])) (hhere : (entryOf entry s).homeDevice = self s)
    (hred : (entryOf entry s).redundancy ≠ 0) (hgroup : groupAt (modAddr (entryOf entry s).baseFpa) s = some g) (hmode : g.mode = 1)
    (hmembers : g.members = [a, b]) (hgood : a.state = 0) (hlive : moduleFailed a.device a.tray a.module s = false)
    (hopen : c ≤ rowOf (layOf (entryOf entry s) s) (extentBytes (entryOf entry s).sizeCode - 64)) :
    ∃ t, exec (.resyncStep entry) s = .next t ∧ t.man = s.man ∧
      ∃ q, t.home.trays = [q] ∧ trayPlace q = (a.device, a.tray, a.module, 64 * c, false, rowKey 3 entry c) := by
  obtain ⟨u, hu⟩ : ∃ u : State, { s with home := { s.home with resyncs := tput s.home.resyncs entry (c, []) } } = u := ⟨_, rfl⟩
  have hexec : exec (.resyncStep entry) s = .next (startRow 3 entry c u) := by
    have hidle : rowBusy 3 entry u = false := rowBusy_of_nil (by rw [← hu]; exact hqueues)
    rw [exec_resyncStep, execResyncStep, onCore_of_coreRuns hcore]
    simp [hresync, nextUnsynced, hhere, Nat.not_lt.2 hopen, rowBusy_of_nil hqueues, hidle, hu]
  have human : u.man = s.man := by rw [← hu]
  have huqueues : u.home.queues = [] := by rw [← hu]; exact hqueues
  have hutrays : u.home.trays = [] := by rw [← hu]; exact htrays
  have huing : u.ing = s.ing := by rw [← hu]
  have hufailed : u.home.failed = s.home.failed := by rw [← hu]
  clear hu
  have hentry : ∀ q, entryOf entry (setQueue (rowKey 3 entry c) q u) = entryOf entry s := by
    intro q
    change entryOf entry u = _
    rw [entryOf, entryOf, human]
  have hlay : ∀ q, layOf (entryOf entry s) (setQueue (rowKey 3 entry c) q u) =
      layGroup g ((entryOf entry s).baseFpa % 2 ^ 38) := by
    intro q
    refine layOf_group hred ?_
    change groupAt _ u = _
    rw [← hgroup, groupAt, groupAt, human]
  obtain ⟨t, ht, hframe, hread⟩ := startRow_reads (kind := 3) (place := entry) (row := c) (s := u)
    (l := layGroup g ((entryOf entry s).baseFpa % 2 ^ 38)) (p := (a.device, a.tray, a.module)) huqueues hutrays
    (fun q => by simp [stepLay, newStep, hentry, hlay])
    (fun q => by
      have hq : moduleFailed a.device a.tray a.module (setQueue (rowKey 3 entry c) q u) = false := by
        refine Eq.trans ?_ hlive
        exact moduleFailed_congr hufailed huing
      simp [stepNeeds, newStep, hentry, hlay, syncMembers_mirror hmode hmembers hgood hq])
    (by rw [layGroup_mirror hmode hmembers]; rfl)
  refine ⟨t, by rw [hexec, ht], ?_, hread⟩
  exact (show passFrame _ t from hframe).man_eq.trans human

theorem execResyncStep_done (hcore : coreRuns s = true) (hqueues : s.home.queues = [])
    (hresync : tget s.home.resyncs entry = some (c, []))
    (hdone : rowOf (layOf (entryOf entry s) s) (extentBytes (entryOf entry s).sizeCode - 64) < c) :
    exec (.resyncStep entry) s = .next { s with home := { s.home with resyncs := tdel s.home.resyncs entry } } := by
  rw [exec_resyncStep, execResyncStep, onCore_of_coreRuns hcore]
  simp [hresync, nextUnsynced, hdone, rowBusy_of_nil hqueues]

end

section
variable {g : Group} {r : Rebuild} {s : State}

theorem execRebuildStep_full {lo hi c : Nat} (hcore : coreRuns s = true) (hrebuilds : s.home.rebuilds = [r]) (hr : r.groupId = g.groupId)
    (hranges : r.ranges = [(lo, hi, c)]) (hopen : c < hi) (hrate : r.rate * tau s < r.spent + 64) :
    exec (.rebuildStep g.groupId) s = .next s := by
  have hof : rebuildOf g.groupId s = some r := by simp [rebuildOf, hrebuilds, hr]
  rw [exec_rebuildStep, execRebuildStep, onCore_of_coreRuns hcore]
  simp [hof, hranges, hopen, hrate]

/-- R334's rule of three: two timeouts that still count and a third one fail the module. -/
theorem execTrayRequestTimeout_third {q : TrayReq} {u v : Nat} (hcore : coreRuns s = true) (htrays : s.home.trays = [q])
    (hlate : q.late = false) (hring : reachesRing s) (hhere : q.device = self s) (hu : s.refCycles < u + msCycles)
    (hv : s.refCycles < v + msCycles)
    (htimeouts : s.home.timeouts = [(modNum (self s) q.tray q.module, u), (modNum (self s) q.tray q.module, v)])
    (hlive : moduleFailed (self s) q.tray q.module s = false) :
    ∃ t x num, exec (.trayRequestTimeout q.id) s = .next t ∧ moduleFailed (self s) q.tray q.module t = true ∧
      t.home.failNotices = s.home.failNotices ++ [(self s, q.tray, q.module, 1)] ∧ x ∈ t.ring.tx ∧
      x.msg = .control (self s) num ctlModuleFailed [self s, q.tray, q.module, 1] := by
  have hexec := execTrayRequestTimeout_counted hcore htrays hhere hlate
  rw [htimeouts] at hexec
  rw [if_pos (by simp [hu, hv, hlive])] at hexec
  obtain ⟨w, hw⟩ : ∃ w : State, { s with home := { s.home with
    timeouts := (([(modNum (self s) q.tray q.module, u), (modNum (self s) q.tray q.module, v)] : List (Nat × Nat)).filter
      fun x => decide (s.refCycles < x.2 + msCycles)) ++ [(modNum (self s) q.tray q.module, s.refCycles)],
    trays := [{ q with late := true }] } } = w := ⟨_, rfl⟩
  have hself : self w = self s := by rw [← hw]; rfl
  have hwnotices : w.home.failNotices = s.home.failNotices := by rw [← hw]
  have hwring : reachesRing w := by rw [← hw]; exact hring
  have hexec : exec (.trayRequestTimeout q.id) s = .next (declareModule q.tray q.module false w) := by rw [← hw]; exact hexec
  obtain ⟨hfailed, hnotices, num, x, hx, hmsg⟩ := declareModule_one (tr := q.tray) (m := q.module) hwring
  rw [hself] at hfailed hnotices hmsg
  rw [hwnotices] at hnotices
  exact ⟨_, x, num, hexec, hfailed, hnotices, hx, hmsg⟩

theorem execTrayRequestTimeout_first {q : TrayReq} (hcore : coreRuns s = true) (htrays : s.home.trays = [q])
    (hhere : q.device = self s) (htimeouts : s.home.timeouts = []) (hlate : q.late = false) :
    exec (.trayRequestTimeout q.id) s = .next { s with home := { s.home with
        timeouts := [(modNum (self s) q.tray q.module, s.refCycles)], trays := [{ q with late := true }] } } := by
  have hexec := execTrayRequestTimeout_counted hcore htrays hhere hlate
  rw [htimeouts] at hexec
  rw [if_neg (by simp)] at hexec
  exact hexec

theorem execTrayRequestTimeout_late {q : TrayReq} (hcore : coreRuns s = true) (htrays : s.home.trays = [q]) (hlate : q.late = true) :
    exec (.trayRequestTimeout q.id) s = .next s := by
  rw [exec_trayRequestTimeout, execTrayRequestTimeout, onCore_of_coreRuns hcore]
  simp [htrays, hlate]

end

/-- Settles O55: R334's rules of three and of notices, and a row's step of each kind, over the frames of the home's steps. -/
theorem modulesAndRows : Obligations.ModulesAndRows := by
  unfold Obligations.ModulesAndRows
  intro s hcore reads
  have hreads : ∀ (t : State) (m : GroupMember) kind place row, (∃ q, t.home.trays = [q] ∧
      trayPlace q = (m.device, m.tray, m.module, 64 * row, false, rowKey kind place row)) → reads t m kind place row := by
    rintro t m kind place row ⟨q, hq, hplace⟩
    simp only [trayPlace, Prod.mk.injEq] at hplace
    obtain ⟨hd, ht, hm, ho, hw, hk⟩ := hplace
    exact ⟨q, hq, hd, ht, hm, ho, hw, hk⟩
  refine ⟨fun r u v htrays hlate hring hhere _ _ hu hv htimeouts hlive => ?_, fun r htrays hhere htimeouts => ⟨fun hlate => ?_, fun hlate => ?_⟩,
    fun d t m n => ?_, fun g d t m hgroups htrays hnotices hformats => ?_,
    fun g a b limit f hqueues htrays hf hgroup hformatting hmode hmembers => ⟨fun hopen hlate => ?_, fun hopen htime => ?_, fun hdone hissued => ?_⟩,
    fun g r a b lo hi c hqueues htrays hrebuilds hr hranges hopen hgroup hmode hmembers hgood hspare hlive => ⟨fun hrate => ?_, fun hrate => ?_⟩,
    fun g r d hrebuilds hr => ?_, fun g r hof hgroup hall => ?_, fun g r d hof hgroup hd hnot => ?_,
    fun g a b entry c hqueues htrays hresync hhere hred hgroup hmode hmembers hgood hlive => ⟨fun hopen => ?_, fun hdone => ?_⟩⟩
  · exact execTrayRequestTimeout_third hcore htrays hlate hring hhere hu hv htimeouts hlive
  · exact execTrayRequestTimeout_first hcore htrays hhere htimeouts hlate
  · exact execTrayRequestTimeout_late hcore htrays hlate
  · rw [exec_moduleFailedNotice, execModuleFailedNotice, onCore_of_coreRuns hcore]
  · obtain ⟨u, hexec, hman, hdone, hfailed⟩ := execGroupDegraded_one hcore hgroups htrays hnotices hformats
    refine ⟨u, membersFailed (fun x => noticeNames (d, t, m, 1) x) g, hexec, ?_, rfl, rfl, hdone, hfailed, by rw [hman]⟩
    rw [hman]
    simp [tget]
  · exact execFormatStep_full hcore hf hgroup hformatting hopen hlate
  · obtain ⟨t, hexec, hput, hman, hplaces⟩ :=
      execFormatStep_writes hcore hqueues htrays hf hgroup hformatting hmode hmembers hopen htime
    refine ⟨t, hexec, hput, hman, ?_⟩
    have hmap := congrArg (List.map fun p : Nat × Nat × Nat × Nat × Bool × Nat => (p.1, p.2.1, p.2.2.1, p.2.2.2.1, p.2.2.2.2.1)) hplaces
    rw [List.map_map] at hmap
    exact hmap
  · exact execFormatDone_issues hcore hqueues hf hgroup hformatting hdone hissued
  · obtain ⟨t, hexec, hframe, hread⟩ := execRebuildStep_reads hcore hqueues htrays hrebuilds hr hranges hopen hgroup hmode hmembers
      hgood hspare hlive hrate
    have hframe : passFrame _ t := hframe
    exact ⟨t, hexec, hreads _ _ _ _ _ hread, by rw [hframe.home_eq], hframe.man_eq⟩
  · exact execRebuildStep_full hcore hrebuilds hr hranges hopen hrate
  · exact execRebuildDoneReport_only hcore hrebuilds hr
  · obtain ⟨t, ht, hframe⟩ := finishRebuild_all hof hgroup hall
    have hframe : answerFrame _ t := hframe
    refine ⟨t, { g with members := memberRebuilt g r, rebuildRate := 0 }, ?_, ?_, ?_, fun m => memberRebuilt_getElem? m, ?_, ?_⟩
    · rw [← ht]
      exact onCore_of_coreRuns hcore _
    · rw [rebuildOf, hframe.home_eq]
      simp [List.find?_filter]
    · rw [hframe.man_eq]
      exact tget_tput_self _ _ _
    · rw [hframe.man_eq]
    · rw [hframe.home_eq]
  · have hexec : exec (.rebuildDone g.groupId) s = .next (finishRebuild g.groupId s) := onCore_of_coreRuns hcore _
    rw [hexec, finishRebuild_waits hof hgroup hd hnot]
  · obtain ⟨t, hexec, hman, hread⟩ := execResyncStep_reads hcore hqueues htrays hresync hhere hred hgroup hmode hmembers hgood hlive hopen
    exact ⟨t, hexec, hreads _ _ _ _ _ hread, hman⟩
  · exact execResyncStep_done hcore hqueues hresync hdone

end Sys2Proof.Machine
end

section
/-! PROOFS. A host's request that is admitted. -/

namespace Sys2Proof.Machine
open Sys2Proof

/-! A host's request that arrives and is admitted (R323, R46, R91). -/

/-- A request leaves, and only ports and switch core change besides. -/
structure RequestSent (r : FabReq) (s t : State) : Prop where
  frame : entryFrame { s with out := s.out ++ [.request r] } t

theorem sendFrom_sent (port : Nat) (r : FabReq) (s : State) : RequestSent r s (sendFrom port r s) := by
  unfold sendFrom
  extract_lets u
  have hu : RequestSent r s u := ⟨rfl⟩
  split
  · exact hu
  · split
    · exact hu
    · exact ⟨enterItem_entry _ _ _ _ _ _ _ _⟩

section
variable {r : FabReq} {s t : State} (h : RequestSent r s t)
include h

theorem RequestSent.said : Out.request r ∈ t.out := by
  rw [h.frame.out_eq]
  exact List.mem_append_right _ List.mem_cons_self

theorem RequestSent.pass : passFrame s t :=
  passFrame.trans (t := { s with out := s.out ++ [.request r] }) rfl h.frame.pass

end

section
variable {op e off : Nat} {r : HostReq} {c : PortCtx} {hosts : Tbl HostSt} {s : State}

/-- The part of a host's request. -/
def hostPart (op : Nat) (c : PortCtx) (r : HostReq) : Part := { host := c.host, opcode := op, req := r }

/-- The outstanding request that an admitted one becomes (R91). -/
def newOutst (op : Nat) (c : PortCtx) (r : HostReq) (e off : Nat) (s : State) : Outst :=
  { host := c.host, ctx := r.ctx, tag := r.tag, tclass := r.tclass, opcode := op, req := packetOf op c.host r e off s,
    sent := false, waits := false, engine := none, since := s.refCycles }

/-- The state with one request admitted and other figures of the hosts. -/
def hostAdmitted (op : Nat) (c : PortCtx) (r : HostReq) (e off : Nat) (hosts : Tbl HostSt) (s : State) : State :=
  { s with ing := { s.ing with outst := [newOutst op c r e off s], hosts := hosts } }

/-- Other figures of the hosts. -/
def withHosts (hosts : Tbl HostSt) (s : State) : State := { s with ing := { s.ing with hosts := hosts } }

theorem setHost_eq (host : Nat) (h : HostSt) (s : State) : setHost host h s = withHosts (tput s.ing.hosts host h) s := rfl

theorem hostRecord_hosts (host cls : Nat) (f : Nat × Nat × Nat × Nat → Nat × Nat × Nat × Nat) (s : State) :
    ∃ hosts, hostRecord host cls f s = withHosts hosts s := by
  unfold hostRecord
  split
  · exact ⟨s.ing.hosts, rfl⟩
  · exact ⟨_, setHost_eq _ _ _⟩

theorem requestCode_withHosts (op host : Nat) (r : HostReq) (hosts : Tbl HostSt) (s : State) :
    requestCode op host r (withHosts hosts s) = requestCode op host r s := rfl

/-- A host within its limits, with nothing outstanding, has its request pass policing (R323). -/
theorem hostArrive_passes (hctx : hostAt r.ctx s = some c) (hlimit : 0 < (hostOf c.host s).limit)
    (hbalance : 0 < (hostOf c.host s).balance) (houtst : s.ing.outst = []) (hpoliced : s.ing.policed = []) :
    ∃ hosts, hostArrive op r s = admitHost (hostPart op c r) (withHosts hosts s) := by
  have hover : overLimit c.host s = false := by
    simp [overLimit, outstandingOf, houtst, Nat.not_le.2 hlimit, Int.not_le.2 hbalance]
  unfold hostArrive
  simp only [hctx, hover, hpoliced, List.any_nil, Bool.or_self, Bool.false_eq_true, if_false]
  exact ⟨_, rfl⟩

/-- A request that passes its checks goes on as outstanding (R91). -/
theorem admitHost_passes (hcode : requestCode op c.host r s = (0, some e, off)) (houtst : s.ing.outst = []) (hacquire : op ≠ opAcquire)
    (hseal : op = opWriteSeal → sealSpoiled c.host (entryOf e s).homeDevice r.sealWindow s = false) :
    ∃ hosts, admitHost (hostPart op c r) s = dispatchHost (hostPart op c r) (hostAdmitted op c r e off hosts s) := by
  have hnone : outstOf c.host r.tag s = none := by simp [outstOf, houtst]
  have hunspoiled : ¬(op = opWriteSeal ∧ sealSpoiled c.host (packetOf op c.host r e off s).home r.sealWindow s = true) := by
    rintro ⟨hop, hspoiled⟩
    exact Bool.false_ne_true ((hseal hop).symm.trans hspoiled)
  unfold admitHost hostPart
  simp only [hnone, Option.isSome_none, Bool.false_eq_true, if_false, hcode, ne_eq, not_true, Option.getD_some, hacquire, hunspoiled]
  obtain ⟨hosts, hrecord⟩ := hostRecord_hosts c.host r.tclass _ _
  rw [hrecord, houtst]
  exact ⟨hosts, rfl⟩

end

end Sys2Proof.Machine
end

section
/-! PROOFS. A host's only request goes on. -/

namespace Sys2Proof.Machine
open Sys2Proof

/-! The one outstanding request of a host goes on (R66, R102 to R106). -/

section
variable {op e off : Nat} {r : HostReq} {c : PortCtx} {hosts : Tbl HostSt} {s : State}

theorem hostArrive_admits (hctx : hostAt r.ctx s = some c) (hlimit : 0 < (hostOf c.host s).limit)
    (hbalance : 0 < (hostOf c.host s).balance) (houtst : s.ing.outst = []) (hpoliced : s.ing.policed = [])
    (hcode : requestCode op c.host r s = (0, some e, off)) (hacquire : op ≠ opAcquire)
    (hseal : op = opWriteSeal → sealSpoiled c.host (entryOf e s).homeDevice r.sealWindow s = false) :
    ∃ hosts, hostArrive op r s = dispatchHost (hostPart op c r) (hostAdmitted op c r e off hosts s) := by
  obtain ⟨before, harrive⟩ := hostArrive_passes (op := op) hctx hlimit hbalance houtst hpoliced
  obtain ⟨hosts, hadmit⟩ := admitHost_passes (s := withHosts before s) hcode houtst hacquire hseal
  exact ⟨hosts, harrive.trans hadmit⟩

theorem outstOf_admitted : outstOf (hostPart op c r).host (hostPart op c r).req.tag (hostAdmitted op c r e off hosts s) =
    some (newOutst op c r e off s) := by
  simp [outstOf, hostAdmitted, newOutst, hostPart]

/-- The only request of its host waits for none (R66). -/
theorem mustHold_admitted (hheld : s.ing.held = []) (hwaiting : s.ing.waiting = []) (hreads : s.ing.reads = [])
    (hatoms : s.ing.atoms = []) (k : FabReq) :
    mustHold (hostPart op c r) k (hostAdmitted op c r e off hosts s) = false := by
  simp [mustHold, hostAdmitted, hheld, hwaiting, hreads, hatoms, newOutst, hostPart, inReads, inAtoms]

end

section
variable {o : Outst} {host tag : Nat} {s : State}

/-- The one outstanding request leaves as it is (R102). -/
theorem sendAlone_only (houtst : s.ing.outst = [o]) (hhost : o.host = host) (htag : o.tag = tag)
    (hepoch : o.req.routeEpoch = s.man.routeEpoch) :
    RequestSent o.req { s with ing := { s.ing with outst := [{ o with sent := true }] } } (sendAlone host tag s) := by
  have hmarked : markSent host tag s = { s with ing := { s.ing with outst := [{ o with sent := true }] } } := by
    simp [markSent, houtst, hhost, htag, ← hepoch]
  unfold sendAlone
  simp only [hmarked]
  have hof : outstOf host tag { s with ing := { s.ing with outst := [{ o with sent := true }] } } = some { o with sent := true } := by
    simp [outstOf, hhost, htag]
  simp only [hof]
  exact sendFrom_sent _ _ _

/-- Lines and windows given up touch the combining cache and the windows, where no line is in the filter. -/
def linesDropped (s t : State) : Prop := t = { s with ing := { s.ing with cache := t.ing.cache, reads := t.ing.reads } }

theorem linesDropped.trans {s t u : State} (h : linesDropped s t) (k : linesDropped t u) : linesDropped s u := by
  unfold linesDropped at *
  refine k.trans ?_
  rw [h]

theorem dropGranule_lines (hfilter : s.ing.filter = []) (g : Nat) : linesDropped s (dropGranule g s) := by
  have hof : filterOf g (dropCache g s) = none := by simp [filterOf, dropCache, hfilter]
  unfold dropGranule
  split
  · unfold dropSharedLine
    simp only [hof]
    rfl
  · rfl

theorem barWindow_lines (host g : Nat) (s : State) : linesDropped s (barWindow host g s) := rfl

theorem dropGranules_lines (hfilter : s.ing.filter = []) (gs : List Nat) :
    linesDropped s (gs.foldl (fun s g => barWindow host g (dropGranule g s)) s) := by
  refine List.foldlRecOn (motive := linesDropped s) gs _ rfl fun t h g _ => ?_
  have hnone : t.ing.filter = [] := by
    rw [show t = _ from h]
    exact hfilter
  exact (h.trans (dropGranule_lines hnone _)).trans (barWindow_lines _ _ _)

end

section
variable {op e off : Nat} {r : HostReq} {c : PortCtx} {hosts : Tbl HostSt} {s : State}

/-- What an admitted request's packet carries along when it has left (R91). -/
structure HostSent (op : Nat) (c : PortCtx) (r : HostReq) (e off : Nat) (s t : State) : Prop where
  said : Out.request (packetOf op c.host r e off s) ∈ t.out
  outst : t.ing.outst = [{ newOutst op c r e off s with sent := true }]
  man : t.man = s.man
  home : t.home = s.home

theorem sendAlone_admitted {t : State} (ht : linesDropped (hostAdmitted op c r e off hosts s) t) :
    HostSent op c r e off s (sendAlone c.host r.tag t) := by
  have hout : t.ing.outst = [newOutst op c r e off s] := by rw [show t = _ from ht]; rfl
  have hman : t.man = s.man := by rw [show t = _ from ht]; rfl
  have hhome : t.home = s.home := by rw [show t = _ from ht]; rfl
  have hsent := sendAlone_only (host := c.host) (tag := r.tag) hout rfl rfl (by rw [hman]; rfl)
  exact ⟨hsent.said, hsent.pass.ing_eq ▸ rfl, hsent.pass.man_eq.trans hman, hsent.pass.home_eq.trans hhome⟩

/-- R102's requests that are neither combined nor coherent leave at once. -/
theorem dispatchHost_alone (hheld : s.ing.held = []) (hwaiting : s.ing.waiting = []) (hreads : s.ing.reads = [])
    (hatoms : s.ing.atoms = []) (hfilter : s.ing.filter = [])
    (hop : op ∈ [opReadAcq, opWrite, opWritePartial, opWriteSeal, opStow, opPublish]) :
    HostSent op c r e off s (dispatchHost (hostPart op c r) (hostAdmitted op c r e off hosts s)) := by
  have hhold := mustHold_admitted (op := op) (e := e) (off := off) (r := r) (c := c) (hosts := hosts) hheld hwaiting hreads hatoms
    (newOutst op c r e off s).req
  have hplain : ¬(opCWriteback = op ∨ opCEvict = op) ∧ ¬opCShared ≤ op ∧ op ≠ opRead ∧ op ≠ opAtomic := by
    simp only [List.mem_cons, List.not_mem_nil, or_false] at hop
    rcases hop with rfl | rfl | rfl | rfl | rfl | rfl <;> decide
  obtain ⟨hrelease, hcoherent, hread, hatomic⟩ := hplain
  unfold dispatchHost
  simp only [outstOf_admitted, hhold, Bool.false_eq_true, if_false]
  rw [if_neg (by exact hrelease), if_neg (by exact hcoherent), if_neg (by exact hread), if_neg (by exact hatomic)]
  split
  · exact sendAlone_admitted rfl
  · exact sendAlone_admitted (dropGranules_lines (s := hostAdmitted op c r e off hosts s) hfilter _)

end

end Sys2Proof.Machine
end

section
/-! PROOFS. Reads and acquires answered here. -/

namespace Sys2Proof.Machine
open Sys2Proof

/-! A host's answer (R95), and the reads and acquires that are answered here (R78, R103). -/

/-- A host's answer is said, and only the hosts' figures, ports and switch core change besides. -/
structure HostTold (host : Nat) (a : Resp) (s t : State) : Prop where
  frame : ∃ hosts, entryFrame { withHosts hosts s with out := s.out ++ [.response host a] } t

section
variable {host : Nat} {a : Resp} {s t : State}

theorem HostTold.said (h : HostTold host a s t) : Out.response host a ∈ t.out := by
  obtain ⟨hosts, h⟩ := h
  rw [h.out_eq]
  exact List.mem_append_right _ List.mem_cons_self

theorem HostTold.pass (h : HostTold host a s t) : ∃ hosts, passFrame (withHosts hosts s) t := by
  obtain ⟨hosts, h⟩ := h
  exact ⟨hosts, passFrame.trans (t := { withHosts hosts s with out := s.out ++ [.response host a] }) rfl h.pass⟩

/-- A live host is told its answer. -/
theorem toHost_told (halive : hostAlive host s = true) (charter : Option Nat) (a : Resp) :
    HostTold host a s (toHost host charter a s) := by
  have halive' : ∀ h, hostAlive host (setHost host h s) = true := fun _ => halive
  unfold toHost sendHost
  simp only [halive', if_true]
  refine ⟨tput s.ing.hosts host { hostOf host s with llMax := max (hostOf host s).llMax a.ll }, ?_⟩
  split
  · rfl
  · exact enterItem_entry _ _ _ _ _ _ _ _

/-- The answer that a host's request gets. -/
def hostAnswer (p : Part) (opcode : Nat) (data : Bytes) (s : State) : Resp :=
  { opcode := opcode, dstEngine := false, destination := p.host, tag := p.req.tag, reason := 0, ll := s.home.ll,
    responder := self s, parts := 1, aux := 0, data := data }

/-- The only request outstanding is answered, and is outstanding no longer. -/
theorem hostReply_only {o : Outst} {p : Part} (houtst : s.ing.outst = [o]) (hhost : o.host = p.host) (htag : o.tag = p.req.tag)
    (halive : hostAlive p.host s = true) (hlive : charterState o.req.charter s ≠ 2) (opcode : Nat) (data : Bytes) :
    ∃ hosts, HostTold p.host (hostAnswer p opcode data s) (withHosts hosts { s with ing := { s.ing with outst := [] } })
      (hostReply p opcode 0 data s) := by
  have hof : outstOf p.host p.req.tag s = some o := by simp [outstOf, houtst, hhost, htag]
  have hgone : ∀ op, (charterState o.req.charter s == 2 && op == opData) = false := fun op => by simp [hlive]
  obtain ⟨hosts, hrecord⟩ := hostRecord_hosts p.host o.tclass
    (fun x => (x.1, x.2.1, min 0xFFFFFF (max x.2.2.1 ((s.refCycles - o.since) * 64 / 10)), x.2.2.2))
    { s with ing := { s.ing with outst := [] } }
  have hcharter : charterState o.req.charter (withHosts hosts { s with ing := { s.ing with outst := [] } }) =
    charterState o.req.charter s := rfl
  refine ⟨hosts, ?_⟩
  unfold hostReply answerHost
  simp only [hof, houtst, List.erase_cons_head, hrecord, hcharter, hgone, Bool.false_eq_true, if_false]
  exact toHost_told (by exact halive) _ _

end

section
variable {op e off : Nat} {r : HostReq} {c : PortCtx} {hosts : Tbl HostSt} {s : State}

/-- A READ of one granule goes to the unit (R103). -/
theorem dispatchHost_read (hheld : s.ing.held = []) (hwaiting : s.ing.waiting = []) (hreads : s.ing.reads = [])
    (hatoms : s.ing.atoms = []) {g : Nat} (hone : granulesOf (packetOf opRead c.host r e off s) = [g]) :
    dispatchHost (hostPart opRead c r) (hostAdmitted opRead c r e off hosts s) =
      readGranule (hostPart opRead c r) (packetOf opRead c.host r e off s) (hostAdmitted opRead c r e off hosts s) := by
  have hhold := mustHold_admitted (op := opRead) (e := e) (off := off) (r := r) (c := c) (hosts := hosts) hheld hwaiting hreads hatoms
    (newOutst opRead c r e off s).req
  have hone : granulesOf (newOutst opRead c r e off s).req = [g] := hone
  unfold dispatchHost
  simp only [outstOf_admitted, hhold, hone, Bool.false_eq_true, if_false]
  rw [if_neg (by exact (by decide : ¬(opCWriteback = opRead ∨ opCEvict = opRead))), if_neg (by exact (by decide : ¬opCShared ≤ opRead)),
    if_pos (by rfl)]
  rfl

/-- A valid line serves a READ (R103). -/
theorem readGranule_cached {l : CacheLine} (hline : cacheLine e ((packetOf opRead c.host r e off s).address / 64 * 64) s = some l)
    (halive : hostAlive c.host s = true) (hlive : charterState r.charter s ≠ 2) :
    ∃ t a, readGranule (hostPart opRead c r) (packetOf opRead c.host r e off s) (hostAdmitted opRead c r e off hosts s) = t ∧
      Out.response c.host a ∈ t.out ∧ a.opcode = 0x81 ∧ a.tag = r.tag ∧
      a.data = slice l.data ((packetOf opRead c.host r e off s).address % 64) r.length ∧ t.ing.outst = [] ∧ t.man = s.man ∧
      t.home = s.home := by
  have hline' : cacheLine (packetOf opRead c.host r e off s).entry ((packetOf opRead c.host r e off s).address / 64 * 64)
      (hostAdmitted opRead c r e off hosts s) = some l := hline
  unfold readGranule
  simp only [hline']
  obtain ⟨others, htold⟩ := hostReply_only (p := hostPart opRead c r) (o := newOutst opRead c r e off s)
    (s := hostAdmitted opRead c r e off hosts s) rfl rfl rfl halive hlive opData (partBytes (packetOf opRead c.host r e off s) l.data)
  obtain ⟨last, hpass⟩ := htold.pass
  exact ⟨_, _, rfl, htold.said, rfl, rfl, rfl, hpass.ing_eq ▸ rfl, hpass.man_eq, hpass.home_eq⟩

/-- An acquire gives up the lines of its range, and bars the windows (R78). -/
theorem acquireRange_lines (hfilter : s.ing.filter = []) (host charter start n : Nat) :
    linesDropped s (acquireRange host charter start n s) := by
  unfold acquireRange
  extract_lets off lines u
  have hu : linesDropped s u := List.foldlRecOn (motive := linesDropped s) lines _ rfl fun t h x _ => by
    refine h.trans (dropGranule_lines ?_ _)
    rw [show t = _ from h]
    exact hfilter
  clear_value u
  exact hu.trans rfl

/-- The range is remembered besides (R80). -/
theorem noteAcquire_keeps (host charter start n : Nat) (s : State) :
    ∃ acquired, noteAcquire host charter start n s = { s with ing := { s.ing with acquired := acquired } } := by
  unfold noteAcquire
  extract_lets x
  split
  · exact ⟨s.ing.acquired, rfl⟩
  · exact ⟨_, rfl⟩

/-- An ACQUIRE is acknowledged here (R78). -/
theorem admitHost_acquire (hcode : requestCode opAcquire c.host r s = (0, some e, off)) (houtst : s.ing.outst = [])
    (hfilter : s.ing.filter = []) (halive : hostAlive c.host s = true) :
    ∃ t a, admitHost (hostPart opAcquire c r) s = t ∧ Out.response c.host a ∈ t.out ∧ a.opcode = 0x80 ∧ a.tag = r.tag ∧
      t.ing.outst = [] ∧ t.man = s.man ∧ t.home = s.home := by
  have hnone : outstOf c.host r.tag s = none := by simp [outstOf, houtst]
  unfold admitHost hostPart
  simp only [hnone, Option.isSome_none, Bool.false_eq_true, if_false, hcode, ne_eq, not_true, if_true]
  have hlines := acquireRange_lines hfilter c.host r.charter (rangeOf opAcquire r).1 (rangeOf opAcquire r).2
  obtain ⟨u, hu⟩ : ∃ u, acquireRange c.host r.charter (rangeOf opAcquire r).1 (rangeOf opAcquire r).2 s = u := ⟨_, rfl⟩
  rw [hu] at hlines ⊢
  obtain ⟨acquired, hnote⟩ := noteAcquire_keeps c.host r.charter (rangeOf opAcquire r).1 (rangeOf opAcquire r).2 u
  rw [hnote]
  obtain ⟨v, hv⟩ : ∃ v : State, { u with ing := { u.ing with acquired := acquired } } = v := ⟨_, rfl⟩
  have hvouts : v.ing.outst = [] := by rw [← hv, show u = _ from hlines]; exact houtst
  have hvman : v.man = s.man := by rw [← hv, show u = _ from hlines]
  have hvhome : v.home = s.home := by rw [← hv, show u = _ from hlines]
  have hvalive : hostAlive c.host v = true := by rw [← hv, show u = _ from hlines]; exact halive
  rw [hv]
  clear hv hnote hlines hu
  have htold := fun a => toHost_told hvalive (some r.charter) a
  refine ⟨_, _, rfl, (htold _).said, rfl, rfl, ?_⟩
  obtain ⟨hosts, hpass⟩ := (htold _).pass
  exact ⟨hpass.ing_eq ▸ hvouts, hpass.man_eq.trans hvman, hpass.home_eq.trans hvhome⟩

end

end Sys2Proof.Machine
end

section
/-! PROOFS. Requests under the device's own name. -/

namespace Sys2Proof.Machine
open Sys2Proof

/-! Requests that the device sends under its own name (R102 to R104, R116). -/

section
variable {opcode length entry off aux parts tclass : Nat} {payload : Bytes} {en : Entry} {s : State}

/-- A request of the device's own under its next tag. -/
def devRequest (opcode length entry : Nat) (e : Entry) (off aux parts tclass : Nat) (payload : Bytes) (s : State) : FabReq :=
  { opcode := opcode, length := length, charter := e.charter, srcEngine := true, source := devSource (self s),
    tag := s.ing.nextTag, address := e.baseFpa + off, entry := entry, generation := e.generation,
    routeEpoch := s.man.routeEpoch, home := e.homeDevice, tclass := tclass, sealWindow := 0, jobValid := false,
    jobDevice := 0, jobSlot := 0, attempt := 0, parts := parts, aux := aux, payload := payload }

/-- It stands among the outstanding ones. -/
def devOutst (q : FabReq) (s : State) : Outst :=
  { host := ownSource, ctx := 0, tag := s.ing.nextTag, tclass := q.tclass, opcode := q.opcode, req := q,
    sent := true, waits := false, engine := none, since := s.refCycles }

/-- The state with a request of the device's own outstanding. -/
def devAsked (q : FabReq) (s : State) : State :=
  { s with ing := { s.ing with nextTag := (s.ing.nextTag + 1) % 65536, outst := s.ing.outst ++ [devOutst q s] } }

theorem askUnder_sent (opcode length entry : Nat) (e : Entry) (off aux parts tclass : Nat) (payload : Bytes) (s : State) :
    RequestSent (devRequest opcode length entry e off aux parts tclass payload s)
      (devAsked (devRequest opcode length entry e off aux parts tclass payload s) s)
      (askUnder opcode length entry e off aux parts tclass payload s).2 := sendFrom_sent _ _ _

theorem askUnder_asks (opcode length entry : Nat) (e : Entry) (off aux parts tclass : Nat) (payload : Bytes) (s : State) :
    ∃ q v, askUnder opcode length entry e off aux parts tclass payload s = (q.tag, v) ∧
      q = devRequest opcode length entry e off aux parts tclass payload s ∧ RequestSent q (devAsked q s) v :=
  ⟨_, _, rfl, rfl, askUnder_sent _ _ _ _ _ _ _ _ _ _⟩

end

section
variable {op e off : Nat} {r : HostReq} {c : PortCtx} {hosts : Tbl HostSt} {s : State}

theorem windowRoom_of_none (hreads : s.ing.reads = []) (hatoms : s.ing.atoms = []) : windowRoom s = true := by
  simp [windowRoom, windowCount, partRoom, partCount, hreads, hatoms]

/-- A READ with no line and no window opens one, and its granule is asked for (R102). -/
theorem readGranule_opens (hline : cacheLine e ((packetOf opRead c.host r e off s).address / 64 * 64) s = none)
    (hreads : s.ing.reads = []) (hatoms : s.ing.atoms = []) (hcls : (entryOf e s).cls ≠ 1) (haligned : (entryOf e s).baseFpa % 64 = 0) :
    ∃ t w q, readGranule (hostPart opRead c r) (packetOf opRead c.host r e off s) (hostAdmitted opRead c r e off hosts s) = t ∧
      t.ing.reads = [w] ∧ w.parts = [hostPart opRead c r] ∧ Out.request q ∈ t.out ∧
      q.opcode = opRead ∧ q.length = 64 ∧ q.address = (packetOf opRead c.host r e off s).address / 64 * 64 ∧ q.srcEngine = true ∧
      q.tag = w.tag ∧ t.man = s.man ∧ t.home = s.home := by
  obtain ⟨u, hu⟩ : ∃ u, hostAdmitted opRead c r e off hosts s = u := ⟨_, rfl⟩
  have hline' : cacheLine (packetOf opRead c.host r e off s).entry ((packetOf opRead c.host r e off s).address / 64 * 64) u = none := by
    rw [← hu]
    exact hline
  have hentry : entryOf (packetOf opRead c.host r e off s).entry u = entryOf e s := by rw [← hu]; rfl
  have hureads : u.ing.reads = [] := by rw [← hu]; exact hreads
  have huatoms : u.ing.atoms = [] := by rw [← hu]; exact hatoms
  have human : u.man = s.man := by rw [← hu]; rfl
  have huhome : u.home = s.home := by rw [← hu]; rfl
  have haddress : (entryOf e s).baseFpa + ((packetOf opRead c.host r e off s).address / 64 * 64 - (entryOf e s).baseFpa) =
      (packetOf opRead c.host r e off s).address / 64 * 64 := by
    change (entryOf e s).baseFpa + (((entryOf e s).baseFpa + off) / 64 * 64 - (entryOf e s).baseFpa) =
      ((entryOf e s).baseFpa + off) / 64 * 64
    omega
  rw [hu]
  clear hu
  generalize packetOf opRead c.host r e off s = k at *
  unfold readGranule
  simp only [hline', hureads, List.find?_nil, hentry, if_pos hcls]
  unfold openRead
  simp only [windowRoom_of_none hureads huatoms, Bool.not_true, Bool.false_eq_true, if_false, hentry, askHome]
  obtain ⟨q, v, hask, hq, hsent⟩ := askUnder_asks opRead 64 k.entry (entryOf e s) (k.address / 64 * 64 - (entryOf e s).baseFpa) 0 1
    (hostPart opRead c r).req.tclass [] u
  rw [hask]
  refine ⟨_, ReadWin.mk (k.address / 64 * 64) k.entry k.charter k.generation q.tag [hostPart opRead c r] [] true, q, rfl, ?_, rfl, hsent.said, ?_, ?_, ?_, ?_, rfl,
    hsent.pass.man_eq.trans human, hsent.pass.home_eq.trans huhome⟩
  · change v.ing.reads ++ _ = _
    rw [hsent.pass.ing_eq]
    change u.ing.reads ++ _ = _
    rw [hureads]
    rfl
  · rw [hq]; rfl
  · rw [hq]; rfl
  · rw [hq]; exact haddress
  · rw [hq]; rfl

theorem dropGranule_cache (hfilter : s.ing.filter = []) (hreads : s.ing.reads = []) (g : Nat) :
    ∃ cache, dropGranule g s = { s with ing := { s.ing with cache := cache } } := by
  have hof : filterOf g (dropCache g s) = none := by simp [filterOf, dropCache, hfilter]
  have hmap : ∀ f : ReadWin → ReadWin, s.ing.reads.map f = s.ing.reads := fun f => by rw [hreads]; rfl
  unfold dropGranule
  split
  · refine ⟨tdel s.ing.cache g, ?_⟩
    unfold dropSharedLine
    simp only [hof]
    change { s with ing := { s.ing with cache := tdel s.ing.cache g, reads := s.ing.reads.map _ } } = _
    rw [hmap]
  · refine ⟨s.ing.cache, ?_⟩
    simp only [hmap]

theorem barWindow_none (hreads : s.ing.reads = []) (host g : Nat) : barWindow host g s = s := by
  unfold barWindow
  rw [hreads, List.map_nil, ← hreads]

/-- An ATOMIC with no window of its granule opens one with its packet. -/
theorem atomicGranule_opens {o : Outst} {p : Part} (houtst : s.ing.outst = [o]) (hhost : o.host = p.host) (htag : o.tag = p.req.tag)
    (hepoch : o.req.routeEpoch = s.man.routeEpoch) (hreads : s.ing.reads = []) (hatoms : s.ing.atoms = []) (hfilter : s.ing.filter = []) :
    ∃ q v u, atomicGranule p o.req s = { v with ing := { v.ing with
        atoms := v.ing.atoms ++ [AtomWin.mk (o.req.address / 64 * 64) q.tag [p] []] } } ∧ RequestSent q (devAsked q u) v ∧
      q.opcode = opAtomic ∧ q.parts = 1 ∧
      q.address = (entryOf o.req.entry s).baseFpa + (o.req.address - (entryOf o.req.entry s).baseFpa) ∧
      u.man = s.man ∧ u.home = s.home ∧ u.ing.atoms = [] := by
  obtain ⟨cache, hdrop⟩ := dropGranule_cache hfilter hreads (o.req.address / 64 * 64)
  have hbar : barWindow p.host (o.req.address / 64 * 64) (dropGranule (o.req.address / 64 * 64) s) =
      { s with ing := { s.ing with cache := cache } } := by
    rw [hdrop]
    exact barWindow_none (by exact hreads) _ _
  obtain ⟨x, hx⟩ : ∃ x : State, { s with ing := { s.ing with cache := cache } } = x := ⟨_, rfl⟩
  have hmark : markSent p.host p.req.tag x = { s with ing := { s.ing with cache := cache, outst := [{ o with sent := true }] } } := by
    rw [← hx]
    simp [markSent, houtst, hhost, htag, ← hepoch]
  have hxatoms : x.ing.atoms = [] := by rw [← hx]; exact hatoms
  have hroom : windowRoom x = true := windowRoom_of_none (by rw [← hx]; exact hreads) hxatoms
  rw [hx] at hbar
  unfold atomicGranule
  simp only [hbar]
  obtain ⟨u, hu⟩ : ∃ u : State, { s with ing := { s.ing with cache := cache, outst := [{ o with sent := true }] } } = u := ⟨_, rfl⟩
  have human : u.man = s.man := by rw [← hu]
  have huhome : u.home = s.home := by rw [← hu]
  have huatoms : u.ing.atoms = [] := by rw [← hu]; exact hatoms
  have hpackets : packetsOf [p] u = [o.req] := by
    rw [← hu]
    simp [packetsOf, outstOf, hhost, htag]
  simp only [hxatoms, List.find?_nil, hroom, hmark, hu, Bool.not_true, Bool.false_eq_true, if_false, sendAtoms, hpackets, askHome]
  obtain ⟨q, v, hask, hq, hsent⟩ := askUnder_asks opAtomic o.req.length o.req.entry (entryOf o.req.entry u)
    (o.req.address - (entryOf o.req.entry u).baseFpa)
    (o.req.aux % 64 + if ([o.req].all fun b => bit b.aux 6) = true then 64 else 0) 1 o.req.tclass (combinedOperand [o.req]) u
  have hentry : entryOf o.req.entry u = entryOf o.req.entry s := by rw [entryOf, entryOf, human]
  refine ⟨q, v, u, ?_, hsent, ?_, ?_, ?_, human, huhome, huatoms⟩
  · simp only [List.length_singleton]
    rw [hask]
  · rw [hq]; rfl
  · rw [hq]; rfl
  · rw [hq, hentry]; rfl

/-- The first ATOMIC of a granule opens a window and leaves at once (R104). -/
theorem dispatchHost_atomic (hheld : s.ing.held = []) (hwaiting : s.ing.waiting = []) (hreads : s.ing.reads = [])
    (hatoms : s.ing.atoms = []) (hfilter : s.ing.filter = []) :
    ∃ t w q, dispatchHost (hostPart opAtomic c r) (hostAdmitted opAtomic c r e off hosts s) = t ∧ t.ing.atoms = [w] ∧
      w.sent = [hostPart opAtomic c r] ∧ w.collecting = [] ∧ Out.request q ∈ t.out ∧ q.opcode = opAtomic ∧
      q.address = (packetOf opAtomic c.host r e off s).address ∧ q.tag = w.tag ∧ q.parts = 1 ∧ t.man = s.man ∧ t.home = s.home := by
  have hhold := mustHold_admitted (op := opAtomic) (e := e) (off := off) (r := r) (c := c) (hosts := hosts) hheld hwaiting hreads hatoms
    (newOutst opAtomic c r e off s).req
  obtain ⟨u, hu⟩ : ∃ u, hostAdmitted opAtomic c r e off hosts s = u := ⟨_, rfl⟩
  have houtst : outstOf (hostPart opAtomic c r).host (hostPart opAtomic c r).req.tag u = some (newOutst opAtomic c r e off s) := by
    rw [← hu]
    exact outstOf_admitted
  have huoutst : u.ing.outst = [newOutst opAtomic c r e off s] := by rw [← hu]; rfl
  have hureads : u.ing.reads = [] := by rw [← hu]; exact hreads
  have huatoms : u.ing.atoms = [] := by rw [← hu]; exact hatoms
  have hufilter : u.ing.filter = [] := by rw [← hu]; exact hfilter
  have human : u.man = s.man := by rw [← hu]; rfl
  have huhome : u.home = s.home := by rw [← hu]; rfl
  rw [hu] at hhold ⊢
  clear hu
  have hgoes : dispatchHost (hostPart opAtomic c r) u = atomicGranule (hostPart opAtomic c r) (packetOf opAtomic c.host r e off s) u := by
    unfold dispatchHost
    simp only [houtst, hhold, Bool.false_eq_true, if_false]
    rw [if_neg (by exact (by decide : ¬(opCWriteback = opAtomic ∨ opCEvict = opAtomic))),
      if_neg (by exact (by decide : ¬opCShared ≤ opAtomic)), if_neg (by exact (by decide : ¬opAtomic = opRead)), if_pos (by rfl)]
    rfl
  rw [hgoes]
  obtain ⟨q, v, w, hopen, hsent, hop, hparts, haddress, hwman, hwhome, hwatoms⟩ := atomicGranule_opens (s := u)
    (o := newOutst opAtomic c r e off s) (p := hostPart opAtomic c r) huoutst rfl rfl (by rw [human]; rfl) hureads huatoms hufilter
  refine ⟨_, AtomWin.mk ((newOutst opAtomic c r e off s).req.address / 64 * 64) q.tag [hostPart opAtomic c r] [], q, hopen, ?_, rfl, rfl, hsent.said, hop, ?_, rfl, hparts, ?_, ?_⟩
  · change v.ing.atoms ++ _ = _
    rw [hsent.pass.ing_eq]
    change w.ing.atoms ++ _ = _
    rw [hwatoms]
    rfl
  · rw [haddress]
    change (entryOf e u).baseFpa + ((entryOf e s).baseFpa + off - (entryOf e u).baseFpa) = (entryOf e s).baseFpa + off
    rw [entryOf, entryOf, human]
    omega
  · exact hsent.pass.man_eq.trans (hwman.trans human)
  · exact hsent.pass.home_eq.trans (hwhome.trans huhome)

end

end Sys2Proof.Machine
end

section
/-! PROOFS. Coherent requests, and the host's requests. -/

namespace Sys2Proof.Machine
open Sys2Proof

/-! Requests of the coherent class (R116, R117). -/

section
variable {f : FilterEnt} {s : State}

/-- What a request for a line says. -/
structure LineRequest (op : Nat) (data : Bytes) (f : FilterEnt) (q : FabReq) : Prop where
  opcode : q.opcode = op
  address : q.address = f.line
  payload : q.payload = data
  home : q.home = f.home

theorem askFor_asks (op aux tclass : Nat) (data : Bytes) (f : FilterEnt) (s : State) :
    ∃ q, LineRequest op data f q ∧ RequestSent q (devAsked q s) (askFor op aux tclass data f s) := by
  obtain ⟨q, v, hask, hq, hsent⟩ := askUnder_asks op 64 f.entry
    { entryOf f.entry s with baseFpa := f.line, generation := f.generation, charter := f.charter, homeDevice := f.home } 0 aux 1 tclass
    data s
  refine ⟨q, ⟨by rw [hq]; rfl, by rw [hq]; rfl, by rw [hq]; rfl, by rw [hq]; rfl⟩, ?_⟩
  unfold askFor
  simp only [hask]
  exact hsent

/-- A line that no host holds is asked for, and stands in the filter (R116). -/
theorem askLine_new {op : Nat} {p : Part} (hfilter : s.ing.filter = []) : ∃ q, LineRequest op [] f q ∧
    Out.request q ∈ (askLine op (some p) f s).out ∧ (askLine op (some p) f s).ing.filter = [{ f with asking := some (op, some p) }] ∧
    (askLine op (some p) f s).man = s.man ∧ (askLine op (some p) f s).home = s.home := by
  have hset : (setFilter { f with asking := some (op, some p) } s).ing.filter = [{ f with asking := some (op, some p) }] := by
    simp [setFilter, hfilter]
  unfold askLine
  obtain ⟨u, hu⟩ : ∃ u, setFilter { f with asking := some (op, some p) } s = u := ⟨_, rfl⟩
  have human : u.man = s.man := by rw [← hu]; rfl
  have huhome : u.home = s.home := by rw [← hu]; rfl
  rw [hu] at hset ⊢
  obtain ⟨q, hq, hsent⟩ := askFor_asks op 0 p.req.tclass [] { f with asking := some (op, some p) } u
  obtain ⟨hop, haddress, hpayload, hhome⟩ := hq
  exact ⟨q, ⟨hop, haddress, hpayload, hhome⟩, hsent.said, hsent.pass.ing_eq ▸ hset, hsent.pass.man_eq.trans human,
    hsent.pass.home_eq.trans huhome⟩

/-- The only line in the filter is given back to its home (R117). -/
theorem sendRelease_only (hfilter : s.ing.filter = [f]) (op : Nat) (data : Bytes) (part : Option Part) :
    ∃ q, LineRequest op data f q ∧
    Out.request q ∈ (sendRelease op data part f s).out ∧
    (sendRelease op data part f s).ing.filter = [{ f with
      state := 0, holders := [], vector := 0, cached := false, dirty := none, owed := none, releasing := some (op, part) }] ∧
    (sendRelease op data part f s).man = s.man ∧ (sendRelease op data part f s).home = s.home := by
  unfold sendRelease
  extract_lets u v
  have hv : v.ing.filter = [{ f with
      state := 0, holders := [], vector := 0, cached := false, dirty := none, owed := none, releasing := some (op, part) }] := by
    have hu : u.ing.filter = [f] := hfilter
    simp [v, setFilter, hu]
  have hvman : v.man = s.man := rfl
  have hvhome : v.home = s.home := rfl
  clear_value v
  obtain ⟨q, hq, hsent⟩ := askFor_asks op 0 0 data f v
  exact ⟨q, hq, hsent.said, hsent.pass.ing_eq ▸ hv, hsent.pass.man_eq.trans hvman, hsent.pass.home_eq.trans hvhome⟩

end

section
variable {op e off : Nat} {r : HostReq} {c : PortCtx} {hosts : Tbl HostSt} {s : State}

/-- The admitted request is on its way. -/
def hostSent (op : Nat) (c : PortCtx) (r : HostReq) (e off : Nat) (hosts : Tbl HostSt) (s : State) : State :=
  { s with ing := { s.ing with outst := [{ newOutst op c r e off s with sent := true }], hosts := hosts } }

theorem markSent_admitted : markSent (hostPart op c r).host (hostPart op c r).req.tag (hostAdmitted op c r e off hosts s) =
    hostSent op c r e off hosts s := by
  simp [markSent, hostAdmitted, hostSent, newOutst, packetOf, hostPart]

/-- A coherent request goes to the unit with its line (R116). -/
theorem dispatchHost_coherent (hheld : s.ing.held = []) (hwaiting : s.ing.waiting = []) (hreads : s.ing.reads = [])
    (hatoms : s.ing.atoms = []) (hop : op ∈ [opCShared, opCOwn, opCUpgrade]) :
    dispatchHost (hostPart op c r) (hostAdmitted op c r e off hosts s) =
      askCoherent (hostPart op c r) e off (hostSent op c r e off hosts s) := by
  have hhold := mustHold_admitted (op := op) (e := e) (off := off) (r := r) (c := c) (hosts := hosts) hheld hwaiting hreads hatoms
    (newOutst op c r e off s).req
  have hask : ¬(opCWriteback = op ∨ opCEvict = op) ∧ opCShared ≤ op := by
    simp only [List.mem_cons, List.not_mem_nil, or_false] at hop
    rcases hop with rfl | rfl | rfl <;> decide
  obtain ⟨hrelease, hcoherent⟩ := hask
  unfold dispatchHost
  simp only [outstOf_admitted, hhold, Bool.false_eq_true, if_false]
  rw [if_neg (by exact hrelease), if_pos (by exact hcoherent), markSent_admitted]
  have hoff : (newOutst op c r e off s).req.address - (entryOf (newOutst op c r e off s).req.entry (hostAdmitted op c r e off hosts s)).baseFpa =
      off := Nat.add_sub_cancel_left _ _
  rw [hoff]
  rfl

/-- A release goes to the unit with its line (R117). -/
theorem dispatchHost_release (hheld : s.ing.held = []) (hwaiting : s.ing.waiting = []) (hreads : s.ing.reads = [])
    (hatoms : s.ing.atoms = []) (hop : op ∈ [opCWriteback, opCEvict]) :
    dispatchHost (hostPart op c r) (hostAdmitted op c r e off hosts s) =
      releaseLine (hostPart op c r) e off (hostSent op c r e off hosts s) := by
  have hhold := mustHold_admitted (op := op) (e := e) (off := off) (r := r) (c := c) (hosts := hosts) hheld hwaiting hreads hatoms
    (newOutst op c r e off s).req
  have hrelease : opCWriteback = op ∨ opCEvict = op := by
    simp only [List.mem_cons, List.not_mem_nil, or_false] at hop
    exact hop.imp Eq.symm Eq.symm
  unfold dispatchHost
  simp only [outstOf_admitted, hhold, Bool.false_eq_true, if_false]
  rw [if_pos (by exact hrelease), markSent_admitted]
  have hoff : (newOutst op c r e off s).req.address - (entryOf (newOutst op c r e off s).req.entry (hostAdmitted op c r e off hosts s)).baseFpa =
      off := Nat.add_sub_cancel_left _ _
  rw [hoff]
  rfl

theorem askCoherent_asks (hfilter : s.ing.filter = []) :
    ∃ t f q, askCoherent (hostPart op c r) e off (hostSent op c r e off hosts s) = t ∧ t.ing.filter = [f] ∧
      f.line = (entryOf e s).baseFpa + off / 64 * 64 ∧ f.asking = some (op, some (hostPart op c r)) ∧ Out.request q ∈ t.out ∧
      q.opcode = op ∧ q.address = f.line ∧ q.home = (entryOf e s).homeDevice ∧ t.man = s.man ∧ t.home = s.home := by
  have hnone : ∀ l, filterOf l (hostSent op c r e off hosts s) = none := fun l => by simp [filterOf, hostSent, hfilter]
  have hroom : ¬filterLimit ≤ (hostSent op c r e off hosts s).ing.filter.length := by simp [hostSent, hfilter, filterLimit]
  unfold askCoherent
  simp only [hnone, if_neg hroom]
  obtain ⟨q, hq, hsaid, hline, hman, hhome⟩ := askLine_new (op := (hostPart op c r).opcode) (p := hostPart op c r)
    (s := hostSent op c r e off hosts s) (f := newFilter ((entryOf e s).baseFpa + off / 64 * 64) e (entryOf e s).generation
      (entryOf e s).charter (entryOf e s).homeDevice) hfilter
  exact ⟨_, _, q, rfl, hline, rfl, rfl, hsaid, hq.opcode, hq.address, hq.home, hman, hhome⟩

/-- The owner's release of its clean line leaves as the device's (R117). -/
theorem releaseLine_owner {f : FilterEnt} {data : Bytes} (hfilter : s.ing.filter = [f])
    (hline : f.line = (entryOf e s).baseFpa + off / 64 * 64) (hstate : f.state = 2) (hdirty : f.dirty = none) (howed : f.owed = none)
    (hrecalls : f.recalls = []) (hreleasing : f.releasing = none) (hholders : f.holders = [c.host])
    (hop : op = opCWriteback ∧ data = fit 64 r.payload ∨ op = opCEvict ∧ data = []) :
    ∃ t q, releaseLine (hostPart op c r) e off (hostSent op c r e off hosts s) = t ∧ Out.request q ∈ t.out ∧ q.opcode = op ∧
      q.address = f.line ∧ q.payload = data ∧ q.home = f.home ∧ t.man = s.man ∧ t.home = s.home ∧ t.ing.filter = [{ f with
        state := 0, holders := [], vector := 0, cached := false, dirty := none, owed := none,
        releasing := some (op, some (hostPart op c r)) }] := by
  have hof : filterOf ((entryOf e (hostSent op c r e off hosts s)).baseFpa + off / 64 * 64) (hostSent op c r e off hosts s) = some f := by
    have hentry : entryOf e (hostSent op c r e off hosts s) = entryOf e s := rfl
    have hset : (hostSent op c r e off hosts s).ing.filter = [f] := hfilter
    rw [hentry, filterOf, hset]
    simp [hline]
  have hgo : releaseLine (hostPart op c r) e off (hostSent op c r e off hosts s) =
      sendRelease op data (some (hostPart op c r)) f (hostSent op c r e off hosts s) := by
    unfold releaseLine
    simp only [hof, hrecalls, hholders, hreleasing, hstate, hdirty, howed]
    rcases hop with ⟨rfl, rfl⟩ | ⟨rfl, rfl⟩ <;> simp [hostPart, opCWriteback, opCEvict]
  obtain ⟨q, hq, hsaid, hdone, hman, hhome⟩ := sendRelease_only (s := hostSent op c r e off hosts s) hfilter op data
    (some (hostPart op c r))
  exact ⟨_, q, hgo, hsaid, hq.opcode, hq.address, hq.payload, hq.home, hman, hhome, hdone⟩

end

/-- Settles O43: a request that passes policing and its checks is the only one outstanding, so it goes on at once as its type says. -/
theorem hostRequests : Obligations.HostRequests := by
  unfold Obligations.HostRequests
  intro r c e off s k part passes alone asks gives hcore hctx hlimit hbalance houtst hheld hwaiting hpoliced hreads hatoms
  have hgoes : ∀ (i : Instr) (op : Nat), exec i s = onCore s (hostArrive op r) → passes op → op ≠ opAcquire →
      (op ≠ opWriteSeal ∨ sealSpoiled c.host (entryOf e s).homeDevice r.sealWindow s = false) →
      ∃ hosts, exec i s = .next (dispatchHost (hostPart op c r) (hostAdmitted op c r e off hosts s)) := by
    intro i op hexec hpasses hacquire hseal
    obtain ⟨hosts, hadmits⟩ := hostArrive_admits hctx hlimit hbalance houtst hpoliced hpasses hacquire
      fun h => hseal.resolve_left (not_not_intro h)
    exact ⟨hosts, by rw [hexec, onCore_of_coreRuns hcore, hadmits]⟩
  have halone : ∀ (i : Instr) (op : Nat), exec i s = onCore s (hostArrive op r) →
      op ∈ [opReadAcq, opWrite, opWritePartial, opWriteSeal, opStow, opPublish] →
      (op ≠ opWriteSeal ∨ sealSpoiled c.host (entryOf e s).homeDevice r.sealWindow s = false) → alone i op := by
    intro i op hexec hop hseal hpasses hfilter
    have hacquire : op ≠ opAcquire := by rintro rfl; exact absurd hop (by decide)
    obtain ⟨hosts, hgo⟩ := hgoes i op hexec hpasses hacquire hseal
    obtain ⟨hsaid, hout, hman, hhome⟩ := dispatchHost_alone (op := op) (e := e) (off := off) (r := r) (c := c) (hosts := hosts)
      hheld hwaiting hreads hatoms hfilter hop
    exact ⟨_, _, hgo, hsaid, hout, rfl, rfl, rfl, rfl, hman, hhome⟩
  have hasks : ∀ (i : Instr) (op : Nat), exec i s = onCore s (hostArrive op r) → op ∈ [opCShared, opCOwn, opCUpgrade] → asks i op := by
    intro i op hexec hop hpasses hfilter
    obtain ⟨hosts, hgo⟩ := hgoes i op hexec hpasses (by rintro rfl; exact absurd hop (by decide))
      (.inl (by rintro rfl; exact absurd hop (by decide)))
    rw [dispatchHost_coherent hheld hwaiting hreads hatoms hop] at hgo
    obtain ⟨t, f, q, ht, hline⟩ := askCoherent_asks (op := op) (e := e) (off := off) (r := r) (c := c) (hosts := hosts) hfilter
    exact ⟨t, f, q, by rw [hgo, ht], hline⟩
  have hgives : ∀ (i : Instr) (op : Nat) data, exec i s = onCore s (hostArrive op r) →
      (op = opCWriteback ∧ data = fit 64 r.payload ∨ op = opCEvict ∧ data = []) → gives i op data := by
    intro i op data hexec hop hpasses f hfilter hline hstate hdirty howed hrecalls hreleasing hholders
    have hmem : op ∈ [opCWriteback, opCEvict] := by rcases hop with ⟨rfl, _⟩ | ⟨rfl, _⟩ <;> simp
    obtain ⟨hosts, hgo⟩ := hgoes i op hexec hpasses (by rintro rfl; exact absurd hmem (by decide))
      (.inl (by rintro rfl; exact absurd hmem (by decide)))
    rw [dispatchHost_release hheld hwaiting hreads hatoms hmem] at hgo
    obtain ⟨t, q, ht, hrest⟩ := releaseLine_owner (hosts := hosts) hfilter hline hstate hdirty howed hrecalls hreleasing hholders hop
    exact ⟨t, q, by rw [hgo, ht], hrest⟩
  refine ⟨halone _ _ rfl (by decide) (.inl (by decide)), halone _ _ rfl (by decide) (.inl (by decide)), halone _ _ rfl (by decide) (.inl (by decide)),
    fun hseal => halone _ _ rfl (by decide) (.inr hseal), halone _ _ rfl (by decide) (.inl (by decide)), halone _ _ rfl (by decide) (.inl (by decide)),
    fun l g hpasses hone hline halive hlive => ?_, fun g hpasses hone hline hcls haligned => ?_, fun hpasses hfilter => ?_,
    fun hpasses hfilter halive => ?_, hasks _ _ rfl (by decide), hasks _ _ rfl (by decide), hasks _ _ rfl (by decide),
    hgives _ _ _ rfl (.inl ⟨rfl, rfl⟩), hgives _ _ _ rfl (.inr ⟨rfl, rfl⟩)⟩
  · obtain ⟨hosts, hgo⟩ := hgoes (.read r) opRead rfl hpasses (by decide) (.inl (by decide))
    rw [dispatchHost_read hheld hwaiting hreads hatoms hone] at hgo
    obtain ⟨t, a, ht, hrest⟩ := readGranule_cached (hosts := hosts) hline halive hlive
    exact ⟨t, a, by rw [hgo, ht], hrest⟩
  · obtain ⟨hosts, hgo⟩ := hgoes (.read r) opRead rfl hpasses (by decide) (.inl (by decide))
    rw [dispatchHost_read hheld hwaiting hreads hatoms hone] at hgo
    obtain ⟨t, w, q, ht, hrest⟩ := readGranule_opens (hosts := hosts) hline hreads hatoms hcls haligned
    exact ⟨t, w, q, by rw [hgo, ht], hrest⟩
  · obtain ⟨hosts, hgo⟩ := hgoes (.atomic r) opAtomic rfl hpasses (by decide) (.inl (by decide))
    obtain ⟨t, w, q, ht, hrest⟩ := dispatchHost_atomic (e := e) (off := off) (r := r) (c := c) (hosts := hosts) hheld hwaiting hreads
      hatoms hfilter
    exact ⟨t, w, q, by rw [hgo, ht], hrest⟩
  · obtain ⟨hosts, harrive⟩ := hostArrive_passes (op := opAcquire) hctx hlimit hbalance houtst hpoliced
    obtain ⟨t, a, ht, hrest⟩ := admitHost_acquire (s := withHosts hosts s) hpasses houtst hfilter halive
    refine ⟨t, a, ?_, hrest⟩
    rw [exec_acquire, execAcquire, onCore_of_coreRuns hcore, harrive, ht]

end Sys2Proof.Machine
end

section
/-! PROOFS. Recalls of a line. -/

namespace Sys2Proof.Machine
open Sys2Proof

/-! Recalls of a line (R112, R116). -/

section
variable {s : State}

theorem raise_counts {code : Nat} (h : code ≠ 0) (fields : List (Nat × Nat)) (s : State) :
    (tgetD (raise code fields s).tel.reasons (code / 256) (0, 0, 0)).2.1 ≠ 0 := by
  rw [raise, (eventPut_codesKept _ _ _ _).reasons_eq, recordReason, if_neg h]
  simp only [tgetD_tput_self]
  split <;> omega

theorem leaving_congr {t : State} (hman : t.man = s.man) (hself : self t = self s) : leaving t = leaving s := by
  rw [leaving, leaving, hman, hself]

theorem wakeLines_idle (hwaiting : s.ing.waiting = []) (hstays : leaving s = false) : wakeLines s = s := by
  have hsame : { s with ing := { s.ing with waiting := [] } } = s := by rw [← hwaiting]
  unfold wakeLines
  simp only [hwaiting, List.foldl_nil, hsame]
  simp [leaveLines, hstays]

theorem wakeHeld_idle (hheld : s.ing.held = []) : wakeHeld s = s := by
  have hsame : { s with ing := { s.ing with held := [] } } = s := by rw [← hheld]
  simp only [wakeHeld, hheld, List.foldl_nil, hsame]

/-- Another filter. -/
def withFilter (l : List FilterEnt) (s : State) : State := { s with ing := { s.ing with filter := l } }

section
variable {f g : FilterEnt}

theorem filterOf_single (hfilter : s.ing.filter = [f]) : filterOf f.line s = some f := by simp [filterOf, hfilter]

theorem setFilter_single (hfilter : s.ing.filter = [f]) (hline : g.line = f.line) : setFilter g s = withFilter [g] s := by
  simp [setFilter, withFilter, hfilter, hline]

/-- A line that is settled wakes no request, where none waits. -/
theorem settle_twice {g : FilterEnt} (hfilter : s.ing.filter = [f]) (hline : g.line = f.line) (hwaiting : s.ing.waiting = [])
    (hstays : leaving s = false) {h : FilterEnt} (hh : h.line = f.line) : wakeLines (setFilter g (setFilter h s)) = withFilter [g] s := by
  rw [setFilter_single hfilter hh, setFilter_single (f := h) (s := withFilter [h] s) rfl (hline.trans hh.symm)]
  exact wakeLines_idle hwaiting hstays

/-- A recall that asked to downgrade for a waiting host, answered with dirty data: the data is kept (R112). -/
theorem recallAnswer_dirty {host : Nat} {d : Bytes} (hfilter : s.ing.filter = [f]) (hrecalls : f.recalls = [(host, true, 0)])
    (hlost : f.lost = false) (hwaiting : s.ing.waiting = []) (hstays : leaving s = false) :
    recallAnswer false host f.line (some d) false s = withFilter [{ f with
      recalls := [], dirty := some d, owed := if f.state = 2 ∧ f.dirty = none ∧ host ∈ f.holders then none else f.owed }] s := by
  have howner : (f.state == 2 && f.dirty.isNone && f.holders.contains host) = decide (f.state = 2 ∧ f.dirty = none ∧ host ∈ f.holders) := by
    rw [Bool.eq_iff_iff]
    simp [and_assoc]
  unfold recallAnswer
  simp only [filterOf_single hfilter, hrecalls, List.find?_cons, beq_self_eq_true, howner, hlost]
  have hnone : f.recalls.filter (fun r => r.1 != host) = [] := by simp [hrecalls]
  simp only [Bool.not_false, Bool.and_self, if_true, Bool.false_and, hnone, hlost, Bool.or_self, decide_eq_true_eq, ne_eq, not_true,
    if_false, Bool.false_eq_true]
  have hdone : ∀ g u, recallsDone 0 (!true) (some d) false g u = wakeLines (setFilter { g with dirty := some d } u) := fun _ _ => rfl
  rw [hdone]
  refine settle_twice hfilter ?_ hwaiting hstays ?_ <;> rfl

/-- The answers to recalls that took a line from its host or left it there (R112). -/
theorem recallAnswer_gone {host : Nat} (hfilter : s.ing.filter = [f]) (hrecalls : f.recalls = [(host, true, 0)]) (hstate : f.state = 1)
    (hdirty : f.dirty = none) (hlost : f.lost = false) (hwaiting : s.ing.waiting = []) (hstays : leaving s = false) :
    ∃ g, recallAnswer true host f.line none true s = withFilter [g] s ∧ g.recalls = [] := by
  have hnone : f.recalls.filter (fun r => r.1 != host) = [] := by simp [hrecalls]
  unfold recallAnswer
  simp only [filterOf_single hfilter, hrecalls, List.find?_cons, beq_self_eq_true]
  have howner : (f.state == 2) = false := by simp [hstate]
  have hkeeps : (removeHolder host f s).lost = f.lost ∧ (removeHolder host f s).recalls = f.recalls ∧
      (removeHolder host f s).dirty = f.dirty ∧ (removeHolder host f s).line = f.line := ⟨rfl, rfl, rfl, rfl⟩
  obtain ⟨hlost', hrecalls', hdirty', hline'⟩ := hkeeps
  obtain ⟨g, hg⟩ : ∃ g, removeHolder host f s = g := ⟨_, rfl⟩
  rw [hg] at hlost' hrecalls' hdirty' hline'
  have hdone : ∀ g u, recallsDone 0 false none false g u = wakeLines (setFilter { g with state := 1 } u) := fun _ _ => rfl
  simp only [Bool.not_true, Bool.and_false, if_false, Bool.false_eq_true, howner, Bool.false_and, hg, hlost', hlost, hrecalls',
    Bool.or_self, hdirty', hdirty, hnone, ne_eq, not_true, ite_self]
  rw [hdone]
  refine ⟨_, settle_twice hfilter ?_ hwaiting hstays ?_, rfl⟩ <;> exact hline'

/-- A host that dies while it is recalled from the only line in the filter (R126). -/
theorem hostDies_recalled {host : Nat} (hfilter : s.ing.filter = [f]) (hrecalls : f.recalls = [(host, true, 0)]) (hstate : f.state = 1)
    (hdirty : f.dirty = none) (hlost : f.lost = false) (hwaiting : s.ing.waiting = []) (hstays : leaving s = false)
    (hlive : host ∉ s.ing.deadHosts) (hcount : (tgetD s.tel.reasons 8 (0, 0, 0)).2.1 ≠ 0) :
    ∃ u g, hostDies host s = withFilter [g] { u with ing := { u.ing with deadHosts := insertSorted host u.ing.deadHosts } } ∧
      g.recalls = [] ∧ answerFrame s u ∧ (tgetD u.tel.reasons 8 (0, 0, 0)).2.1 ≠ 0 := by
  have hopen : s.ing.deadHosts.contains host = false := by simpa using hlive
  unfold hostDies
  simp only [hopen, Bool.false_eq_true, if_false]
  obtain ⟨u, hu⟩ : ∃ u, (if coherentHost host s = true then raise 0x0807 [(evHost, host)] s else s) = u := ⟨_, rfl⟩
  have hframe : answerFrame s u ∧ (tgetD u.tel.reasons 8 (0, 0, 0)).2.1 ≠ 0 := by
    rw [← hu]
    split
    · exact ⟨raise_frame _ _ _, raise_counts (code := 0x0807) (by decide) _ _⟩
    · exact ⟨rfl, hcount⟩
  obtain ⟨hframe, hcount⟩ := hframe
  rw [hu]
  obtain ⟨v, hv⟩ : ∃ v : State, { u with ing := { u.ing with deadHosts := insertSorted host u.ing.deadHosts } } = v := ⟨_, rfl⟩
  have hvfilter : v.ing.filter = [f] := by rw [← hv]; exact (congrArg (·.filter) hframe.ing_eq).trans hfilter
  have hvwaiting : v.ing.waiting = [] := by rw [← hv]; exact (congrArg (·.waiting) hframe.ing_eq).trans hwaiting
  have hvstays : leaving v = false := by
    have hself : self v = self s := by rw [← hv]; exact hframe.devid_eq
    have hman : v.man = s.man := by rw [← hv]; exact hframe.man_eq
    rw [leaving_congr hman hself, hstays]
  rw [hv]
  obtain ⟨g, hg, hclear⟩ := recallAnswer_gone (s := v) hvfilter hrecalls hstate hdirty hlost hvwaiting hvstays
  refine ⟨u, g, ?_, hclear, hframe, hcount⟩
  rw [hv, buryHost, hvfilter]
  simp only [List.foldl_cons, List.foldl_nil, filterOf_single hvfilter]
  rw [if_pos (by simp [hrecalls])]
  exact hg

end

end

end Sys2Proof.Machine
end

section
/-! PROOFS. STOW fills. -/

namespace Sys2Proof.Machine
open Sys2Proof

/-! The commands of the coherent class at a device and a home. -/

section
variable {r : FabReq} {s : State}

/-- A STOW fill with room installs its line in S (R124). -/
theorem execCStowFill_taken (hcore : coreRuns s = true) (hop : r.opcode < opMark) (hroom : s.ing.filter.length < filterLimit)
    (hcache : s.ing.cache.length < cacheLimit) (hnone : filterOf r.address s = none) (hvalid : (entryOf r.entry s).state = 1)
    (hgen : (entryOf r.entry s).generation = r.generation) :
    ∃ t l f a, exec (.cStowFill r) s = .next t ∧ tget t.ing.cache r.address = some l ∧ l.data = fit 64 r.payload ∧
      l.charter = (entryOf r.entry s).charter ∧ l.generation = r.generation ∧ t.ing.filter = s.ing.filter ++ [f] ∧
      f.line = r.address ∧ f.state = 1 ∧ f.cached = true ∧ Out.answer a ∈ t.out ∧ a.opcode = 0x80 ∧ a.tag = r.tag ∧
      t.man = s.man ∧ t.home = s.home := by
  have hfresh : (s.ing.filter.any fun x => x.line == r.address) = false := by
    rw [List.any_eq_false]
    exact List.find?_eq_none.1 hnone
  obtain ⟨l, hl⟩ : ∃ l : CacheLine, l =
    { entry := r.entry, charter := (entryOf r.entry s).charter, generation := r.generation, filled := s.tide.count,
      cls := (entryOf r.entry s).cls, data := fit 64 r.payload } := ⟨_, rfl⟩
  obtain ⟨f, hf⟩ : ∃ f : FilterEnt, f =
    { newFilter r.address r.entry r.generation (entryOf r.entry s).charter (entryOf r.entry s).homeDevice with
      state := 1, cached := true } := ⟨_, rfl⟩
  obtain ⟨u, hu⟩ : ∃ u : State, { s with ing := { s.ing with cache := tput s.ing.cache r.address l, filter := s.ing.filter ++ [f] } } = u :=
    ⟨_, rfl⟩
  have hexec : exec (.cStowFill r) s = .next (answerTo r opAck 0 0 [] u) := by
    rw [exec_cStowFill, execCStowFill, onCore_of_coreRuns hcore]
    simp [hnone, hroom, hvalid, hgen, cacheRoom, hcache, setFilter, ← hu, hf, hl, newFilter, hfresh]
  obtain ⟨hframe, hsaid⟩ := answerTo_answered hop opAck 0 0 [] u
  refine ⟨_, l, f, _, hexec, ?_, by rw [hl], by rw [hl], by rw [hl], ?_, by rw [hf]; rfl, by rw [hf], by rw [hf], hsaid, rfl, rfl, ?_, ?_⟩
  · rw [hframe.ing_eq, ← hu]
    exact tget_tput_self _ _ _
  · rw [hframe.ing_eq, ← hu]
  · rw [hframe.man_eq, ← hu]
  · rw [hframe.home_eq, ← hu]

theorem execCStowFill_declined (hcore : coreRuns s = true) (hop : r.opcode < opMark) (hsome : (filterOf r.address s).isSome = true) :
    ∃ t a, exec (.cStowFill r) s = .next t ∧ t.ing = s.ing ∧ Out.answer a ∈ t.out ∧ a.opcode = 0x82 ∧ a.reason = 0x0801 := by
  obtain ⟨f, hf⟩ := Option.isSome_iff_exists.1 hsome
  have hexec : exec (.cStowFill r) s = .next (answerTo r opRefuse 0x0801 0 [] s) := by
    rw [exec_cStowFill, execCStowFill, onCore_of_coreRuns hcore]
    simp [hf]
  obtain ⟨hframe, hsaid⟩ := answerTo_answered hop opRefuse 0x0801 0 [] s
  exact ⟨_, _, hexec, hframe.ing_eq, hsaid, rfl, rfl⟩

end

/-! Answers to STOW fills (R124). -/

section
variable {line : Nat} {d : DirEnt} {s : State}

theorem dirOf_dropDir (line : Nat) (s : State) : dirOf line (dropDir line s) = none := by
  simp [dirOf, dropDir, List.find?_filter]

theorem execCStowFillAnswer_declined {device : Nat} (hcore : coreRuns s = true) (hd : dirOf line s = some d) (hbusy : d.busy = true)
    (hround : roundOf line s = none) (hpresence : d.presence = [device]) :
    exec (.cStowFillAnswer device line false) s = .next (dropDir line s) := by
  rw [exec_cStowFillAnswer, execCStowFillAnswer, onCore_of_coreRuns hcore]
  simp [fillAnswered, hd, hbusy, hround, hpresence]

theorem dirOf_single (hdir : s.home.dir = [d]) : dirOf d.line s = some d := by simp [dirOf, hdir]

theorem setDir_single {e : DirEnt} (hdir : s.home.dir = [d]) (hline : e.line = d.line) :
    setDir e s = { s with home := { s.home with dir := [e] } } := by
  simp [setDir, hdir, hline]

theorem recallStale_fresh (hdir : dirOf line s = some d) (hgen : (entryOf d.entry s).generation = d.generation) :
    recallStale line s = s := by
  simp [recallStale, hdir, staleLine, hgen]

theorem execCStowFillAnswer_taken {device : Nat} (hcore : coreRuns s = true) (hdir : s.home.dir = [d]) (hbusy : d.busy = true)
    (hround : roundOf d.line s = none) (hpresence : d.presence = [device]) (hgen : (entryOf d.entry s).generation = d.generation) :
    exec (.cStowFillAnswer device d.line true) s = .next { s with home := { s.home with dir := [{ d with busy := false }] } } := by
  have hopen : (!d.busy || (roundOf d.line s).isSome || decide (d.presence ≠ [device])) = false := by simp [hbusy, hround, hpresence]
  rw [exec_cStowFillAnswer, execCStowFillAnswer, onCore_of_coreRuns hcore]
  simp only [fillAnswered, dirOf_single hdir, hopen, Bool.false_eq_true, if_false, if_true]
  rw [setDir_single (e := { d with busy := false }) hdir rfl]
  rw [recallStale_fresh (d := { d with busy := false }) (dirOf_single (d := { d with busy := false }) rfl) (by exact hgen)]

end

end Sys2Proof.Machine
end

section
/-! PROOFS. Snoop rounds, and the coherent agents. -/

namespace Sys2Proof.Machine
open Sys2Proof

/-! Snoop rounds (R121, R125, R126). -/

section
variable {r : FabReq} {x : Round} {s : State}

theorem dirOf_nil (hdir : s.home.dir = []) (line : Nat) : dirOf line s = none := by simp [dirOf, hdir]

theorem roundOf_single (hrounds : s.home.rounds = [x]) : roundOf x.line s = some x := by simp [roundOf, hrounds]

theorem setRound_single {y : Round} (hrounds : s.home.rounds = [x]) (hid : y.snoopId = x.snoopId) :
    setRound y s = { s with home := { s.home with rounds := [y] } } := by
  simp [setRound, hrounds, hid]

/-- A round that still asks only notes what it heard. -/
theorem finishRound_asking {y : Round} (hdir : s.home.dir = []) (hask : y.ask ≠ []) : finishRound y s = setRound y s := by
  unfold finishRound
  simp only [dirOf_nil hdir]
  rw [if_pos (.inl hask)]

/-- A device's early C_SNOOP_DONE with data ends its part in the round (R121). -/
theorem execCSnoopDone_early {e : Nat} (hcore : coreRuns s = true) (hop : r.opcode < opMark) (hlive : srcDevice r ∉ s.home.dead)
    (hrounds : s.home.rounds = [x]) (hline : x.line = r.address) (hdir : s.home.dir = []) (hkind : x.kind = 1)
    (hask : x.ask = [srcDevice r, e]) (hearly : srcDevice r ∉ x.early) (haux : r.aux = 0) (hpayload : r.payload ≠ []) :
    ∃ t a y, exec (.cSnoopDone r) s = .next t ∧ Out.answer a ∈ t.out ∧ a.opcode = 0x80 ∧ t.home.rounds = [y] ∧
      srcDevice r ∈ y.early ∧ y.data = some (fit 64 r.payload) ∧ y.ask = x.ask ∧ t.man = s.man := by
  obtain ⟨hframe, hsaid⟩ := answerTo_answered hop opAck 0 0 [] s
  have hexec : exec (.cSnoopDone r) s = .next (snoopDone r s) := by
    rw [exec_cSnoopDone, execCSnoopDone, onCore_of_coreRuns hcore]
  have hdead : s.home.dead.contains (srcDevice r) = false := by simpa using hlive
  unfold snoopDone at hexec
  simp only [hdead, Bool.false_eq_true, if_false] at hexec
  obtain ⟨u, hu⟩ : ∃ u, answerTo r opAck 0 0 [] s = u := ⟨_, rfl⟩
  rw [hu] at hframe hsaid hexec
  have hurounds : u.home.rounds = [x] := by rw [hframe.home_eq]; exact hrounds
  have hudir : u.home.dir = [] := by rw [hframe.home_eq]; exact hdir
  have hround : roundOf r.address u = some x := hline ▸ roundOf_single hurounds
  have hopen : (!(x.ask.contains (srcDevice r) || x.awaiting.contains (srcDevice r)) || x.early.contains (srcDevice r)) = false := by
    simp [hask, hearly]
  have hnotlost : (r.aux % 2 == 1) = false := by simp [haux]
  simp only [hround, hopen, hkind, hnotlost, hpayload, Bool.false_eq_true, if_false, if_true] at hexec
  rw [finishRound_asking hudir (by simp [hask]), setRound_single hurounds (by exact rfl)] at hexec
  exact ⟨_, _, _, hexec, hsaid, rfl, rfl, mem_insertSorted _ _, rfl, rfl, hframe.man_eq⟩

theorem execCSnoopDone_dead (hcore : coreRuns s = true) (hop : r.opcode < opMark) (hdead : srcDevice r ∈ s.home.dead) :
    ∃ t a, exec (.cSnoopDone r) s = .next t ∧ t.home = s.home ∧ Out.answer a ∈ t.out ∧ a.opcode = 0x82 ∧ a.reason = 0x0806 := by
  have hexec : exec (.cSnoopDone r) s = .next (answerTo r opRefuse 0x0806 0 [] s) := by
    rw [exec_cSnoopDone, execCSnoopDone, onCore_of_coreRuns hcore, snoopDone, if_pos (by simpa using hdead)]
  obtain ⟨hframe, hsaid⟩ := answerTo_answered hop opRefuse 0x0806 0 [] s
  exact ⟨_, _, hexec, hframe.home_eq, hsaid, rfl, rfl⟩

theorem reAsk_single (hrounds : s.home.rounds = [x]) (hring : reachesRing s) :
    (reAsk x s).home.rounds = [{ x with snoopId := s.home.nextSnoop }] ∧
    ∃ m q, m ∈ (reAsk x s).ring.tx ∧ m.msg = .snoop [q] ∧ q.line = x.line ∧ q.targets = x.ask ∧ q.snoopId = s.home.nextSnoop := by
  unfold reAsk
  extract_lets id gen entry r' home u
  have hurounds : u.home.rounds = [r'] := by simp [u, hrounds]
  have huring : reachesRing u := hring
  clear_value gen entry u
  obtain ⟨m, hm, hmsg⟩ := ringSend_posts_none huring (.snoop [
    { line := x.line, kind := x.kind, requester := x.requester, snoopId := id, generation := gen, entry := entry,
      targets := x.ask }])
  refine ⟨?_, m, _, hm, hmsg, rfl, rfl, rfl⟩
  rw [ringSend_eq]
  exact hurounds

/-- A round asks again those that asked for a retry (R121). -/
theorem roundReturns_retry {id d e : Nat} (hrounds : s.home.rounds = [x]) (hid : x.snoopId = id) (hask : x.ask = [d, e])
    (hne : d ≠ e) (hd : d ≠ self s) (he : e ≠ self s) (hdir : s.home.dir = []) (hretries : x.retries < 15) :
    roundReturns id [(d, ansMiss), (e, ansRetry)] s =
      reAsk { x with ask := [e], retries := x.retries + 1 }
        { s with home := { s.home with rounds := [{ x with ask := [e], retries := x.retries + 1 }] } } := by
  have hfind : s.home.rounds.find? (fun r => r.snoopId == id) = some x := by simp [hrounds, hid]
  have hown : x.ask.contains (self s) = false := by simp [hask, hd.symm, he.symm]
  have hheard : ([(d, ansMiss), (e, ansRetry)] : List (Nat × Nat)).filter (fun a => a.1 != self s && x.ask.contains a.1) =
      [(d, ansMiss), (e, ansRetry)] := by
    simp [hask, hd, he]
  have hmiss : ∀ y : Round, takeAnswer d ansMiss y s = ({ y with ask := y.ask.filter fun k => k != d }, s, false) := by
    intro y
    simp [takeAnswer, unlist, dirOf_nil hdir]
  have hretry : ∀ y : Round, takeAnswer e ansRetry y s = (y, s, false) := fun y => by simp [takeAnswer, ansRetry, ansMiss, ansClean, ansDirty]
  have hrest : x.ask.filter (fun k => k != d) = [e] := by simp [hask, hne.symm]
  unfold roundReturns
  simp only [hfind, hown, Bool.false_eq_true, if_false, List.nil_append, hheard, List.foldl_cons, List.foldl_nil, hmiss, hretry, hrest]
  rw [setRound_single hrounds (by exact rfl)]
  have hretried : ([(d, ansMiss), (e, ansRetry)] : List (Nat × Nat)).any (fun a => a.2 != ansMiss && a.2 != ansClean && a.2 != ansDirty && a.2 != 0) = true := rfl
  simp only [hretried, if_true]
  have hround : roundOf x.line { s with home := { s.home with rounds := [{ x with ask := [e], retries := x.retries + 1 }] } } =
      some { x with ask := [e], retries := x.retries + 1 } := roundOf_single (x := { x with ask := [e], retries := x.retries + 1 }) rfl
  simp only [hround]
  rw [if_neg (by simp; omega), if_neg (by simp)]

/-- A dead agent without rounds is only noted (R126). -/
theorem buryDevice_quiet {d : Nat} (hrounds : s.home.rounds = []) (hlive : d ∉ s.home.dead) :
    buryDevice d s = { s with home := { s.home with dead := insertSorted d s.home.dead } } := by
  simp [buryDevice, hlive, hrounds]

/-- The scan for a dead device takes it out of a shared line (R126). -/
theorem scanDirectory_shared {d e : Nat} {x : DirEnt} (hrounds : s.home.rounds = []) (hdir : s.home.dir = [x]) (hstate : x.state = 1)
    (hpresence : x.presence = [d, e]) (hne : d ≠ e) (hpoisoned : tgetD s.home.linesPoisoned d 0 = 0) :
    scanDirectory d s = { s with home := { s.home with dir := [{ x with presence := [e] }], linesPoisoned := tdel s.home.linesPoisoned d } } := by
  have hidle : s.home.dir.filter (fun x => x.presence.contains d && (roundOf x.line s).isNone) = [x] := by
    simp [hdir, hpresence, roundOf, hrounds]
  have hrest : x.presence.filter (fun k => k != d) = [e] := by simp [hpresence, hne.symm]
  have hkept : ¬([e] = [] ∧ x.busy = false) := by simp
  have hnot : ¬x.state = 2 := by omega
  unfold scanDirectory
  simp only [hidle, List.foldl_cons, List.foldl_nil, if_neg hnot, hrest, if_neg hkept]
  rw [setDir_single hdir (by exact rfl)]
  simp [hpoisoned]

end

/-- Settles O44: the lines, rounds and directory entries are alone in their lists, so each command's branches are decided. -/
theorem coherentAgents : Obligations.CoherentAgents := by
  unfold Obligations.CoherentAgents
  intro s hcore
  refine ⟨fun host line f d hfilter hline hrecalls hlost hwaiting hheld hstays => ?_,
    fun host line f hfilter hline hrecalls hstate hdirty hlost hwaiting hheld hstays hlive => ?_,
    fun r hop hroom hcache hnone hvalid hgen => execCStowFill_taken hcore hop hroom hcache hnone hvalid hgen,
    fun r hop hsome => execCStowFill_declined hcore hop hsome,
    fun device line d hd hbusy hround hpresence =>
      ⟨_, execCStowFillAnswer_declined hcore hd hbusy hround hpresence, dirOf_dropDir _ _, rfl⟩,
    fun device line d hdir hline hbusy hround hpresence hgen => ?_,
    fun r x e hop hlive hrounds hline hdir hkind hask hearly haux hpayload =>
      execCSnoopDone_early hcore hop hlive hrounds hline hdir hkind hask hearly haux hpayload,
    fun r hop hdead => execCSnoopDone_dead hcore hop hdead,
    fun id d e x hrounds hid hask hne hd he hdir hring hretries => ?_, fun d hrounds hlive => ?_,
    fun d e x hdead hrounds hdir hstate hpresence hne hpoisoned => ?_⟩
  · subst hline
    rw [exec_cRecallAnswer, execCRecallAnswer, onCore_of_coreRuns hcore]
    simp only [Option.map_some]
    rw [recallAnswer_dirty hfilter hrecalls hlost hwaiting hstays, wakeHeld_idle (by exact hheld)]
    rfl
  · subst hline
    have hframe := raise_frame 0x0808 [(evHost, host), (evAddress, f.line)] s
    have hcount := raise_counts (code := 0x0808) (by decide) [(evHost, host), (evAddress, f.line)] s
    have hexec : exec (.hostRecallTimeout host f.line) s =
        .next (wakeHeld (hostDies host (raise 0x0808 [(evHost, host), (evAddress, f.line)] s))) := by
      rw [exec_hostRecallTimeout, execHostRecallTimeout, onCore_of_coreRuns hcore]
      simp [filterOf_single hfilter, hrecalls]
    obtain ⟨v, hv⟩ : ∃ v, raise 0x0808 [(evHost, host), (evAddress, f.line)] s = v := ⟨_, rfl⟩
    rw [hv] at hframe hcount hexec
    clear hv
    obtain ⟨u, g, hdies, hclear, huframe, hucount⟩ := hostDies_recalled (s := v) (f := f) (host := host)
      (by rw [hframe.ing_eq]; exact hfilter) hrecalls hstate hdirty hlost (by rw [hframe.ing_eq]; exact hwaiting)
      (by rw [leaving_congr hframe.man_eq hframe.devid_eq]; exact hstays) (by rw [hframe.ing_eq]; exact hlive) hcount
    have huing : u.ing = s.ing := huframe.ing_eq.trans hframe.ing_eq
    rw [hdies, wakeHeld_idle (by exact (congrArg (·.held) huing).trans hheld)] at hexec
    exact ⟨_, hexec, mem_insertSorted _ _, fun x hx => by rw [List.mem_singleton.1 hx]; exact hclear, hucount,
      huframe.man_eq.trans hframe.man_eq, huframe.home_eq.trans hframe.home_eq⟩
  · subst hline
    exact execCStowFillAnswer_taken hcore hdir hbusy hround hpresence hgen
  · have hexec : exec (.snoopRoundReturn id [(d, ansMiss), (e, ansRetry)]) s =
        .next (roundReturns id [(d, ansMiss), (e, ansRetry)] s) := by
      rw [exec_snoopRoundReturn, execSnoopRoundReturn, onCore_of_coreRuns hcore]
    rw [roundReturns_retry hrounds hid hask hne hd he hdir hretries] at hexec
    obtain ⟨hagain, m, q, hsent⟩ := reAsk_single (x := { x with ask := [e], retries := x.retries + 1 })
      (s := { s with home := { s.home with rounds := [{ x with ask := [e], retries := x.retries + 1 }] } }) rfl hring
    exact ⟨_, m, q, hexec, hagain, hsent⟩
  · rw [exec_deadAgentNotice, execDeadAgentNotice, onCore_of_coreRuns hcore, buryDevice_quiet hrounds hlive]
  · have hexec : exec (.directoryScanDone d) s = .next (scanDirectory d s) := by
      rw [exec_directoryScanDone, execDirectoryScanDone, onCore_of_coreRuns hcore, if_pos (by simpa using hdead)]
    rw [scanDirectory_shared hrounds hdir hstate hpresence hne hpoisoned] at hexec
    exact ⟨_, hexec, rfl, rfl, rfl, rfl⟩

end Sys2Proof.Machine
end

section
/-! PROOFS. Slots and offers of jobs. -/

namespace Sys2Proof.Machine
open Sys2Proof

/-! Slots of jobs (R351). -/

section
variable {slot : Nat} {j : Job} {s : State}

theorem foldl_choice_mem {α : Type} {f : α → α → α} (hf : ∀ a b, f a b = a ∨ f a b = b) (l : List α) (a : α) :
    l.foldl f a ∈ a :: l := by
  induction l generalizing a with
  | nil => simp
  | cons b l ih =>
    have h := ih (f a b)
    rw [List.foldl_cons]
    rcases List.mem_cons.1 h with h | h
    · rw [h]
      rcases hf a b with hab | hab <;> simp [hab]
    · simp [h]

/-- A slot that is given out holds no job of this device (R351). -/
theorem allocSlot_free (halloc : allocSlot s = some slot) (hslots : ∀ x ∈ s.acc.slots, x.1 < 4096) :
    slot ∉ usedSlots s ∧ slot < 4096 := by
  unfold allocSlot at halloc
  extract_lets used free at halloc
  have hmine : ∀ p ∈ free, p.1 ∉ usedSlots s ∧ p ∈ s.acc.slots := fun p hp => by
    obtain ⟨hin, hgood⟩ := List.mem_filter.1 hp
    simp only [Bool.and_eq_true, Bool.not_eq_true', List.contains_eq_mem, decide_eq_false_iff_not] at hgood
    exact ⟨hgood.1, hin⟩
  clear_value free
  split at halloc
  · next k hk =>
    obtain rfl := Option.some.inj halloc
    have hmem := List.mem_of_find?_eq_some hk
    have hfree := List.find?_some hk
    simp only [Bool.and_eq_true, Bool.not_eq_true', List.contains_eq_mem, decide_eq_false_iff_not] at hfree
    exact ⟨hfree.1, List.mem_range.1 hmem⟩
  · split at halloc
    · exact absurd halloc nofun
    · next p r =>
      obtain rfl := Option.some.inj halloc
      have hmem := foldl_choice_mem (f := fun b q : Nat × (Nat × Nat) => if q.2.1 < b.2.1 then q else b)
        (fun a b => by split <;> simp) r p
      obtain ⟨hnew, hin⟩ := hmine _ hmem
      exact ⟨hnew, hslots _ hin⟩

/-- A job in a fresh slot of this device shares its key with none. -/
theorem keyOf_ne_of_fresh (hjobs : ∀ x ∈ s.acc.jobs, x.slot < 4096) (hfresh : j.slot ∉ usedSlots s) (hslot : j.slot < 4096)
    (hdevice : j.device = self s) : ∀ x ∈ s.acc.jobs, keyOf x ≠ keyOf j := by
  intro x hx hkey
  have hbound := hjobs x hx
  have hsame : x.device = j.device ∧ x.slot = j.slot := by
    unfold keyOf jobKey at hkey
    omega
  refine hfresh (List.mem_map.2 ⟨x, List.mem_filter.2 ⟨hx, ?_⟩, hsame.2⟩)
  simp [hsame.1, hdevice]

theorem jobOf_added {jobs : List Job} (hjobs : s.acc.jobs = jobs ++ [j]) (hfresh : ∀ x ∈ jobs, keyOf x ≠ keyOf j) :
    jobOf (keyOf j) s = some j := by
  rw [jobOf, hjobs, List.find?_append, List.find?_eq_none.2 fun x hx => by simpa using hfresh x hx]
  simp

end

/-! An offer (R349 to R351). -/

section
variable {h : JobHdr} {command slot : Nat} {d : JobDesc} {q : JobQueue} {s : State}

/-- The job that an offer makes. -/
def offeredJob (h : JobHdr) (command slot : Nat) (d : JobDesc) (s : State) : Job :=
  newJob slot (self s) command (tgetD s.acc.slots slot (0, 0)).2 h d (attachments d s)

/-- An offer that finds its turn, a slot and room is logged, and accepted at once without a buddy. -/
theorem judge_offers (hqueue : queueAt h.queue (queueOwner h (self s)) s = some q) (hnext : q.next = h.seq)
    (halloc : allocSlot s = some slot) (hroom : liveBytes s + 64 + roundUp (descBytes d ++ attachments d s).length 64 ≤ logRoom) :
    judge h command d s =
      let j := offeredJob h command slot d s
      let t := logJob 1 (descBytes d ++ attachments d s) true j (addJob j s)
      if s.acc.buddy = none then acceptJob (keyOf j) t else t := by
  have hfits : ¬logRoom < liveBytes s + 64 + roundUp (descBytes d ++ attachments d s).length 64 := Nat.not_lt.2 hroom
  have hbuddy : ∀ j, (logJob 1 (descBytes d ++ attachments d s) true j (addJob j s)).acc.buddy = s.acc.buddy := fun j =>
    congrArg (·.acc.buddy) (show _ = _ from logJob_frame _ _ _ _ _)
  unfold judge
  simp only [hqueue, hnext, Nat.lt_irrefl, if_false, halloc, hfits]
  split <;> rename_i hb <;> rw [hbuddy] at hb <;> simp [hb, offeredJob]

end

end Sys2Proof.Machine
end

section
/-! PROOFS. Submissions that are accepted. -/

namespace Sys2Proof.Machine
open Sys2Proof

section
variable {h : JobHdr} {command slot : Nat} {d : JobDesc} {q : JobQueue} {j : Job} {s : State}

theorem queueAt_setNext {queue owner : Nat} (hqueue : queueAt queue owner s = some q) (n : Nat) :
    queueAt queue owner (setNext queue owner n s) = some { q with next := n } := by
  have hsame : ((fun x : JobQueue => x.queue == queue && x.owner == owner) ∘
      fun x : JobQueue => if x.queue == queue && x.owner == owner then { x with next := n } else x) =
        fun x : JobQueue => x.queue == queue && x.owner == owner := by
    funext x
    simp only [Function.comp_apply]
    split <;> rfl
  have hq := List.find?_some hqueue
  unfold queueAt at hqueue ⊢
  unfold setNext
  simp only [List.find?_map, hsame, hqueue, Option.map_some]
  rw [if_pos hq]

/-- A job that is accepted: its queue's next sequence moves on, and its notice is posted. -/
theorem acceptJob_of (hof : jobOf (keyOf j) s = some j) (hin : j ∈ s.acc.jobs) (howner : queueOwner j.hdr j.device = self s)
    (hqueue : queueAt j.hdr.queue (self s) s = some q) :
    ∃ t, acceptJob (keyOf j) s = t ∧ { j with phase := .accepted } ∈ t.acc.jobs ∧
      queueAt j.hdr.queue (self s) t = some { q with next := j.hdr.seq + 1 } ∧
      answerFrame { s with acc := { s.acc with jobs := t.acc.jobs, queues := t.acc.queues } } t := by
  unfold acceptJob
  simp only [hof, howner]
  obtain ⟨u, hu⟩ : ∃ u, setNext j.hdr.queue (self s) (j.hdr.seq + 1) (setJob { j with phase := .accepted } s) = u := ⟨_, rfl⟩
  have huframe : u = { s with acc := { s.acc with jobs := u.acc.jobs, queues := u.acc.queues } } := by rw [← hu]; rfl
  have hujob : { j with phase := .accepted } ∈ u.acc.jobs := by
    rw [← hu]
    refine List.mem_map.2 ⟨j, hin, ?_⟩
    exact if_pos (by simp [keyOf])
  have huqueue : queueAt j.hdr.queue (self s) u = some { q with next := j.hdr.seq + 1 } := by
    rw [← hu]
    exact queueAt_setNext (s := setJob { j with phase := .accepted } s) hqueue _
  rw [hu]
  refine ⟨_, rfl, ?_⟩
  obtain ⟨v, hv⟩ : ∃ v, (if hmRuns u = true then postAccepted { j with phase := .accepted } u else u) = v := ⟨_, rfl⟩
  have hframe : answerFrame u v := by
    rw [← hv]
    split
    · exact (untake_frame _ _ _).trans (send_frame _ _ _ _ _)
    · rfl
  rw [hv]
  refine ⟨by rw [hframe.acc_eq]; exact hujob, by rw [queueAt, hframe.acc_eq]; exact huqueue, ?_⟩
  rw [hframe.acc_eq, ← huframe]
  exact hframe

/-- A record is on its way to the buddy (R352). -/
theorem logJob_sends {kind b : Nat} {body : Bytes} {sync : Bool} (hbuddy : s.acc.buddy = some b) :
    ∃ x ∈ (logJob kind body sync j s).acc.tx, x.dest = b ∧ x.sync = sync ∧
      ∃ r, x.record = some r ∧ r.kind = kind ∧ r.jobSlot = j.slot := by
  have hkept : (logAppend (recordOf kind body j s) s).acc.buddy = some b :=
    (congrArg (·.acc.buddy) (show _ = _ from logAppend_frame _ _)).trans hbuddy
  unfold logJob
  simp only [hkept]
  unfold sendRecord
  exact ⟨_, List.mem_append_right _ List.mem_cons_self, rfl, rfl, _, rfl, rfl, rfl⟩

/-- A submission alone that has come to its turn becomes a job (R349 to R351). -/
theorem submitChecked_takes (howner : queueOwner h (self s) = self s) (hqueue : queueAt h.queue (self s) s = some q)
    (hnext : q.next = h.seq) (hwaiting : s.acc.waiting = []) (hoffers : offersOpen s = true) (hidle : offerBusy h s = false)
    (hjobs : ∀ x ∈ s.acc.jobs, x.slot < 4096) (hslots : ∀ x ∈ s.acc.slots, x.1 < 4096) (halloc : allocSlot s = some slot)
    (hroom : liveBytes s + 64 + roundUp (descBytes d ++ attachments d s).length 64 ≤ logRoom) :
    ∃ t j, submitChecked h command d s = t ∧ j ∈ t.acc.jobs ∧ j.desc = d ∧ j.command = command ∧ j.hdr = h ∧ j.device = self s ∧
        j.slot = slot ∧ j.attach = attachments d s ∧ t.acc.waiting = [] ∧ t.man = s.man ∧ t.tide = s.tide ∧
        t.stage = s.stage ∧
        (s.acc.buddy = none → j.phase = .accepted ∧ queueAt h.queue (self s) t = some { q with next := h.seq + 1 }) ∧
        (∀ b, s.acc.buddy = some b → j.phase = .offered ∧ queueAt h.queue (self s) t = some q ∧
          ∃ x ∈ t.acc.tx, x.dest = b ∧ x.sync = true ∧ ∃ r, x.record = some r ∧ r.kind = 1 ∧ r.jobSlot = slot) := by
  have hjudge : submitChecked h command d s = judge h command d s := by
    have hsame : { s with acc := { s.acc with waiting := [] } } = s := by rw [← hwaiting]
    have hopen : ∀ w, offersOpen { s with acc := { s.acc with waiting := w } } = true := fun _ => hoffers
    have hfree : ∀ w, offerBusy h { s with acc := { s.acc with waiting := w } } = false := fun _ => hidle
    simp [submitChecked, wakeOffers, hwaiting, judgeWaiting, hopen, hfree, hsame]
  rw [hjudge, judge_offers (by rw [howner]; exact hqueue) hnext halloc hroom]
  obtain ⟨hfresh, hbound⟩ := allocSlot_free halloc hslots
  obtain ⟨j, hj⟩ : ∃ j, offeredJob h command slot d s = j := ⟨_, rfl⟩
  have hjob : j.desc = d ∧ j.command = command ∧ j.hdr = h ∧ j.device = self s ∧ j.slot = slot ∧ j.attach = attachments d s ∧
      j.phase = .offered := by
    rw [← hj]
    exact ⟨rfl, rfl, rfl, rfl, rfl, rfl, rfl⟩
  obtain ⟨hdesc, hcommand, hhdr, hdevice, hslot, hattach, hphase⟩ := hjob
  simp only [hj]
  have hframe := logJob_frame 1 (descBytes d ++ attachments d s) true j (addJob j s)
  have hsends := fun b hb => logJob_sends (kind := 1) (body := descBytes d ++ attachments d s) (sync := true) (j := j)
    (s := addJob j s) (b := b) hb
  obtain ⟨u, hu⟩ : ∃ u, logJob 1 (descBytes d ++ attachments d s) true j (addJob j s) = u := ⟨_, rfl⟩
  rw [hu] at hframe hsends ⊢
  have hframe : u = _ := hframe
  have hujobs : u.acc.jobs = s.acc.jobs ++ [j] := by rw [hframe]; rfl
  have huqueues : u.acc.queues = s.acc.queues := by rw [hframe]; rfl
  have huwaiting : u.acc.waiting = [] := by rw [hframe]; exact hwaiting
  have huself : self u = self s := by rw [hframe]; rfl
  have human : u.man = s.man := by rw [hframe]; rfl
  have hutide : u.tide = s.tide := by rw [hframe]; rfl
  have hustage : u.stage = s.stage := by rw [hframe]; rfl
  have huqueue : queueAt h.queue (self s) u = some q := by rw [queueAt, huqueues]; exact hqueue
  clear hframe
  cases hbuddy : s.acc.buddy with
  | none =>
    obtain ⟨t, haccept, hin, hmoved, htframe⟩ := acceptJob_of (j := j) (s := u) (q := q)
      (jobOf_added hujobs (keyOf_ne_of_fresh hjobs (by rw [hslot]; exact hfresh) (by rw [hslot]; exact hbound) hdevice))
      (by rw [hujobs]; simp) (by rw [hhdr, hdevice, huself, howner]) (by rw [hhdr, huself]; exact huqueue)
    rw [hhdr, huself] at hmoved
    refine ⟨t, { j with phase := .accepted }, ?_, hin, hdesc, hcommand, hhdr, hdevice, hslot, hattach, ?_, htframe.man_eq.trans human,
      htframe.tide_eq.trans hutide, htframe.stage_eq.trans hustage, fun _ => ⟨rfl, hmoved⟩, nofun⟩
    · simpa using haccept
    · rw [htframe.acc_eq]
      exact huwaiting
  | some b =>
    refine ⟨u, j, by simp, by rw [hujobs]; simp, hdesc, hcommand, hhdr, hdevice, hslot, hattach, huwaiting, human, hutide, hustage, nofun,
      fun c hc => ?_⟩
    obtain rfl := Option.some.inj hc
    obtain ⟨x, hx, hdest, hsync, r, hrecord, hkind, hrslot⟩ := hsends b hbuddy
    exact ⟨hphase, huqueue, x, hx, hdest, hsync, r, hrecord, hkind, hrslot.trans hslot⟩

end

end Sys2Proof.Machine
end

section
/-! PROOFS. Job commands, and the job submissions. -/

namespace Sys2Proof.Machine
open Sys2Proof

/-! Job commands (R408, R409). -/

section
variable {h : JobHdr} {command slot : Nat} {desc : JobDesc} {q : JobQueue} {fill : State → JobDesc × State}
  {check : JobDesc → State → Nat} {p : JobDesc × State} {s : State}

/-- Filling in a descriptor draws free values and nothing else. -/
def onlyDraws (s u : State) : Prop := ∃ n, u = { s with freeCount := n }

theorem onlyDraws.refl (s : State) : onlyDraws s s := ⟨s.freeCount, rfl⟩

theorem firmwareArea_draws (n : Nat) (s : State) : onlyDraws s (firmwareArea n s).2 := ⟨s.freeCount + 1, rfl⟩

theorem craneFill_draws (d : CraneDesc) (s : State) : onlyDraws s (craneFill d s).2 := ⟨s.freeCount + 1, rfl⟩

theorem stevFill_draws (d : StevDesc) (s : State) : onlyDraws s (stevFill d s).2 := by
  unfold stevFill
  extract_lets d' a
  split
  · exact ⟨s.freeCount + 1, rfl⟩
  · exact .refl s

theorem custFill_draws (d : CustDesc) (s : State) : onlyDraws s (custFill d s).2 := by
  unfold custFill
  extract_lets d' a
  split
  · exact ⟨s.freeCount + 1, rfl⟩
  · exact .refl s

theorem codecFill_draws (d : CodecDesc) (s : State) : onlyDraws s (codecFill d s).2 := .refl s

theorem streamFill_draws (d : StreamDesc) (s : State) : onlyDraws s (streamFill d s).2 := ⟨s.freeCount + 1, rfl⟩

/-- A job command that passes its checks is submitted with its descriptor as applied. -/
theorem submit_passes (hfw : fwRuns s = true) (howner : h.owner = 0) (hseq : h.seq ≠ 0) (hreserved : descReserved desc = false)
    (hbasic : h.hdr.expert = false → basicSet desc = false) (hp : (if h.hdr.expert = true then (desc, s) else fill s) = p)
    (hcheck : check p.1 p.2 = 0) : submit h command desc fill check s = .next (submitChecked h command p.1 p.2) := by
  have hopen : ¬(descReserved desc = true ∨ 64 ≤ h.owner % 128 ∨ (h.owner < 128 ∧ h.owner ≠ 0)) := by simp [hreserved, howner]
  have hplain : (!h.hdr.expert && basicSet desc) = false := by
    cases hx : h.hdr.expert <;> simp [hbasic, hx]
  rw [submit, onFw_of_fwRuns hfw]
  simp only [if_neg hopen, hplain, Bool.false_eq_true, if_false, if_neg hseq, hp, hcheck, ne_eq, not_true]

/-- It becomes a job of this device (R349 to R351). -/
theorem submit_takes (hfw : fwRuns s = true) (hoffers : offersOpen s = true) (hidle : offerBusy h s = false) (howner : h.owner = 0)
    (hseq : h.seq ≠ 0) (hqueue : queueAt h.queue (self s) s = some q) (hnext : q.next = h.seq) (hwaiting : s.acc.waiting = [])
    (hjobs : ∀ x ∈ s.acc.jobs, x.slot < 4096) (hslots : ∀ x ∈ s.acc.slots, x.1 < 4096)
    (hp : (if h.hdr.expert = true then (desc, s) else fill s) = p) (hdraws : onlyDraws s (fill s).2)
    (hreserved : descReserved desc = false) (hbasic : h.hdr.expert = false → basicSet desc = false) (hcheck : check p.1 p.2 = 0)
    (halloc : allocSlot p.2 = some slot)
    (hroom : liveBytes p.2 + 64 + roundUp (descBytes p.1 ++ attachments p.1 p.2).length 64 ≤ logRoom) :
    ∃ t j, submit h command desc fill check s = .next t ∧ j ∈ t.acc.jobs ∧ j.desc = p.1 ∧ j.command = command ∧ j.hdr = h ∧
        j.device = self s ∧ j.slot = slot ∧ j.attach = attachments p.1 p.2 ∧ t.acc.waiting = [] ∧ t.man = s.man ∧ t.tide = s.tide ∧
        t.stage = s.stage ∧
        (s.acc.buddy = none → j.phase = .accepted ∧ queueAt h.queue (self s) t = some { q with next := h.seq + 1 }) ∧
        (∀ b, s.acc.buddy = some b → j.phase = .offered ∧ queueAt h.queue (self s) t = some q ∧
          ∃ x ∈ t.acc.tx, x.dest = b ∧ x.sync = true ∧ ∃ r, x.record = some r ∧ r.kind = 1 ∧ r.jobSlot = slot) := by
  have hdrawn : onlyDraws s p.2 := by
    rw [← hp]
    split
    · exact .refl s
    · exact hdraws
  rw [submit_passes hfw howner hseq hreserved hbasic hp hcheck]
  obtain ⟨d, u⟩ := p
  obtain ⟨n, hu⟩ := hdrawn
  have hu : u = { s with freeCount := n } := hu
  have huqueue : queueAt h.queue (self u) u = some q := by rw [hu]; exact hqueue
  obtain ⟨t, j, hgo, hrest⟩ := submitChecked_takes (command := command) (d := d) (s := u)
    (by simp [queueOwner, howner]) huqueue hnext (by rw [hu]; exact hwaiting) (by rw [hu]; exact hoffers) (by rw [hu]; exact hidle)
    (by rw [hu]; exact hjobs) (by rw [hu]; exact hslots) halloc hroom
  have huself : self u = self s := by rw [hu]; rfl
  have human : u.man = s.man := by rw [hu]
  have hutide : u.tide = s.tide := by rw [hu]
  have hustage : u.stage = s.stage := by rw [hu]
  have hubuddy : u.acc.buddy = s.acc.buddy := by rw [hu]
  rw [huself, human, hutide, hustage, hubuddy] at hrest
  exact ⟨t, j, congrArg _ hgo, hrest⟩

/-- A search command is one submission, checked by its own operation. -/
theorem custSubmit_check {op : Nat} {d e : CustDesc} (x : JobDesc) (u : State) (hx : x = .cust e) :
    ∃ check, custSubmit command op h d s = submit h command (.cust d) (custFill d) check s ∧
      check x u = custCheck h.hdr.expert op e u := by
  subst hx
  exact ⟨_, custSubmit.eq_1 _ _ _ _ _, rfl⟩

end

/-- Settles O26: each command is one submission with its own fill and check, and a submission that has its turn is offered. -/
theorem jobSubmissions : Obligations.JobSubmissions := by
  unfold Obligations.JobSubmissions
  intro h slot q s taken hfw hoffers hidle howner hseq hqueue hnext hwaiting hjobs hslots
  have htakes : ∀ (i : Instr) (command : Nat) (desc : JobDesc) (fill : State → JobDesc × State) (p : JobDesc × State) (code : Nat),
      (∃ check, exec i s = submit h command desc fill check s ∧ check p.1 p.2 = code) →
      (if h.hdr.expert = true then (desc, s) else fill s) = p → onlyDraws s (fill s).2 → taken i command desc p code := by
    rintro i command desc fill p code ⟨check, hexec, hcheck⟩ hp hdraws hreserved hbasic hcode halloc hroom
    rw [hexec]
    exact submit_takes hfw hoffers hidle howner hseq hqueue hnext hwaiting hjobs hslots hp hdraws hreserved hbasic (hcheck.trans hcode)
      halloc hroom
  refine ⟨?_, ?_, ?_, ?_, ?_, ?_, ?_⟩
  · intro d p e he
    refine htakes (.craneCollective h d) cmdCrane (.crane d) (craneFill d) p _ ⟨_, exec_craneCollective h d s, ?_⟩ rfl (craneFill_draws _ _)
    simp only [he]
  · intro d p e he
    refine htakes (.stevedoreMove h d) cmdStev (.stev d) (stevFill d) p _ ⟨_, exec_stevedoreMove h d s, ?_⟩ rfl (stevFill_draws _ _)
    simp only [he]
  · intro d p e he
    refine ⟨?_, ?_, ?_⟩
    · exact htakes (.customsScan h d) cmdScan (.cust d) (custFill d) p _
        (custSubmit_check p.1 p.2 he) rfl (custFill_draws _ _)
    · exact htakes (.customsScore h d) cmdScore (.cust d) (custFill d) p _
        (custSubmit_check p.1 p.2 he) rfl (custFill_draws _ _)
    · exact htakes (.customsMerge h d) cmdMerge (.cust d) (custFill d) p _
        (custSubmit_check p.1 p.2 he) rfl (custFill_draws _ _)
  · intro d p e he
    refine ⟨?_, ?_⟩
    · refine htakes (.codecEncode h d) cmdEncode (.codec d) (codecFill d) p _ ⟨_, exec_codecEncode h d s, ?_⟩ rfl (codecFill_draws _ _)
      simp only [he]
    · refine htakes (.codecDecode h d) cmdDecode (.codec d) (codecFill d) p _ ⟨_, exec_codecDecode h d s, ?_⟩ rfl (codecFill_draws _ _)
      simp only [he]
  · intro d p e he
    refine htakes (.streamSchedule h d) cmdStream (.stream d) (streamFill d) p _ ⟨_, exec_streamSchedule h d s, ?_⟩ rfl (streamFill_draws _ _)
    simp only [he]
  · intro d a p
    refine htakes (.tierPlace h d) cmdPlace (.place d)
      (fun s => (.place { d with stageAddr := (firmwareArea d.bytes s).1 }, (firmwareArea d.bytes s).2)) (.place p.1, p.2) _
      ⟨_, exec_tierPlace h d s, rfl⟩ ?_ (firmwareArea_draws d.bytes s)
    simp only [p, a]
    split <;> rfl
  · intro d
    exact htakes (.copyRun h d) cmdCopy (.copy d) (fun s => (.copy d, s)) (.copy d, s) _ ⟨_, exec_copyRun h d s, rfl⟩ (ite_self _) (.refl s)

end Sys2Proof.Machine
end

section
/-! PROOFS. What a job's requests change. -/

namespace Sys2Proof.Machine
open Sys2Proof

/-! What a job's requests change (R259, R415). -/

/-- The only job keeps its descriptor, its progress and what has landed for it; tables and Stage stay, and what was said stays said. -/
structure AsksOnly (s t : State) : Prop where
  man : t.man = s.man
  stage : t.stage = s.stage
  tide : t.tide = s.tide
  jobs : ∀ j, s.acc.jobs = [j] → ∃ k, t.acc.jobs = [k] ∧ k.st = j.st ∧ k.desc = j.desc ∧ keyOf k = keyOf j ∧ k.landing = j.landing
  kept : ∀ o ∈ s.out, o ∈ t.out

theorem AsksOnly.refl (s : State) : AsksOnly s s := ⟨rfl, rfl, rfl, fun j h => ⟨j, h, rfl, rfl, rfl, rfl⟩, fun _ h => h⟩

theorem AsksOnly.trans {s t u : State} (h : AsksOnly s t) (k : AsksOnly t u) : AsksOnly s u := by
  refine ⟨k.man.trans h.man, k.stage.trans h.stage, k.tide.trans h.tide, fun j hj => ?_, fun o ho => k.kept o (h.kept o ho)⟩
  obtain ⟨a, ha, hst, hdesc, hkey, hland⟩ := h.jobs j hj
  obtain ⟨b, hb, hst', hdesc', hkey', hland'⟩ := k.jobs a ha
  exact ⟨b, hb, hst'.trans hst, hdesc'.trans hdesc, hkey'.trans hkey, hland'.trans hland⟩

section
variable {key : Nat} {j k : Job} {s : State}

theorem jobOf_single (hjobs : s.acc.jobs = [j]) (hkey : keyOf j = key) : jobOf key s = some j := by
  simp [jobOf, hjobs, hkey]

theorem eq_of_jobOf_single (hjobs : s.acc.jobs = [j]) (hof : jobOf key s = some k) : k = j :=
  List.mem_singleton.1 (hjobs ▸ List.mem_of_find?_eq_some hof)

theorem setJob_single (hjobs : s.acc.jobs = [j]) (hkey : keyOf k = keyOf j) :
    setJob k s = { s with acc := { s.acc with jobs := [k] } } := by
  simp [setJob, hjobs, hkey]

/-- The job put back with the same descriptor, progress and landed reads. -/
theorem setJob_asks (hof : jobOf key s = some j) (hst : k.st = j.st) (hdesc : k.desc = j.desc) (hkey : keyOf k = keyOf j)
    (hland : k.landing = j.landing) : AsksOnly s (setJob k s) := by
  refine ⟨rfl, rfl, rfl, fun i hi => ?_, fun _ h => h⟩
  obtain rfl := eq_of_jobOf_single hi hof
  exact ⟨k, by rw [setJob_single hi hkey], hst, hdesc, hkey, hland⟩

theorem ing_asks (ing : Ingress) (s : State) : AsksOnly s { s with ing := ing } :=
  ⟨rfl, rfl, rfl, fun j h => ⟨j, h, rfl, rfl, rfl, rfl⟩, fun _ h => h⟩

theorem stopJob_asks (key code : Nat) (s : State) : AsksOnly s (stopJob key code s) := by
  unfold stopJob
  split
  · exact .refl s
  · next hof =>
    split
    · exact setJob_asks hof rfl rfl rfl rfl
    · exact .refl s

theorem recordReason_asks (code : Nat) (s : State) : AsksOnly s (recordReason code s) := by
  unfold recordReason
  split
  · exact .refl s
  · exact ⟨rfl, rfl, rfl, fun j h => ⟨j, h, rfl, rfl, rfl, rfl⟩, fun _ h => h⟩

theorem RequestSent.asks {r : FabReq} {t : State} (h : RequestSent r s t) : AsksOnly s t := by
  have hp := h.pass
  refine ⟨hp.man_eq, hp.stage_eq, hp.tide_eq, fun j hj => ⟨j, by rw [hp.acc_eq]; exact hj, rfl, rfl, rfl, rfl⟩, fun o ho => ?_⟩
  rw [h.frame.out_eq]
  exact List.mem_append_left _ ho

theorem jobAsk_asks (key : Nat) (engine : Option Nat) (op len va aux : Nat) (payload : Bytes) (s : State) :
    AsksOnly s (jobAsk key engine op len va aux payload s) := by
  unfold jobAsk
  split
  · exact .refl s
  · next j hof =>
    extract_lets +onlyGivenNames t e c tag counted r waits o j' ing s'
    have hs' : AsksOnly s s' := by
      have hj' : j'.st = j.st ∧ j'.desc = j.desc ∧ keyOf j' = keyOf j ∧ j'.landing = j.landing := by
        unfold j'
        split <;> exact ⟨rfl, rfl, rfl, rfl⟩
      obtain ⟨hst, hdesc, hkey, hland⟩ := hj'
      exact (ing_asks { s.ing with nextTag := (tag + 1) % 65536, outst := s.ing.outst ++ [o] } s).trans
        (setJob_asks (j := j) (by exact hof) hst hdesc hkey hland)
    clear_value s' c r waits
    split
    · exact (recordReason_asks _ _).trans (stopJob_asks _ _ _)
    · split
      · exact .refl s
      · split
        · exact hs'
        · exact hs'.trans (sendFrom_sent _ _ _).asks

theorem askPiece_asks (key book limit room : Nat) (p : Nat × Nat) (s : State) :
    AsksOnly s (askPiece key book limit room p s) := by
  unfold askPiece
  split
  · exact .refl s
  · split
    · exact .refl s
    · split
      · exact .refl s
      · split
        · exact .refl s
        · exact jobAsk_asks _ _ _ _ _ _ _ _

theorem askPieces_asks (key book limit room : Nat) (ps : List (Nat × Nat)) (s : State) :
    AsksOnly s (askPieces key book limit room ps s) :=
  List.foldlRecOn (motive := AsksOnly s) ps _ (.refl s) fun _ h _ _ => h.trans (askPiece_asks _ _ _ _ _ _)

end

end Sys2Proof.Machine
end

section
/-! PROOFS. Stream records, and what a step of a schedule leaves. -/

namespace Sys2Proof.Machine
open Sys2Proof

/-! Stream records, and what a step of a schedule leaves (R264, R265, R268). -/

section
variable {s : State}

theorem enterCell_asks (c : Cell) (s : State) : AsksOnly s (enterCell c s) :=
  ⟨rfl, rfl, rfl, fun j h => ⟨j, h, rfl, rfl, rfl, rfl⟩, fun _ h => h⟩

theorem nameCell_asks (s : State) :
    AsksOnly s (nameCell s) := ⟨rfl, rfl, rfl, fun j h => ⟨j, h, rfl, rfl, rfl, rfl⟩, fun _ h => h⟩

theorem raiseLimited_asks (code key period : Nat) (fields : List (Nat × Nat)) (n : Nat) (s : State) :
    AsksOnly s (raiseLimited code key period fields n s) := by
  rw [raiseLimited_tel]
  exact ⟨rfl, rfl, rfl, fun j h => ⟨j, h, rfl, rfl, rfl, rfl⟩, fun _ h => h⟩

theorem raise_asks (code : Nat) (fields : List (Nat × Nat)) (s : State) : AsksOnly s (raise code fields s) := by
  have h := raise_frame code fields s
  exact ⟨h.man_eq, h.stage_eq, h.tide_eq, fun j hj => ⟨j, by rw [h.acc_eq]; exact hj, rfl, rfl, rfl, rfl⟩, fun _ ho => raise_says _ _ ho⟩

theorem enterGroup_asks (ingress g epoch cls kind channel : Nat) (i : Item) (s : State) :
    AsksOnly s (enterGroup ingress g epoch cls kind channel i s) := by
  unfold enterGroup
  split
  · exact AsksOnly.trans (t := { s with sw := { s.sw with groupMisses := s.sw.groupMisses + 1 } })
      ⟨rfl, rfl, rfl, fun j h => ⟨j, h, rfl, rfl, rfl, rfl⟩, fun _ h => h⟩ (raiseLimited_asks _ _ _ _ _ _)
  · extract_lets ps
    refine List.foldlRecOn (motive := AsksOnly s) _ _ (.refl s) fun t h p _ => h.trans ?_
    exact (List.foldlRecOn (motive := AsksOnly t) _ _ (.refl t) fun _ h _ _ => h.trans (enterCell_asks _ _)).trans (nameCell_asks _)

/-- A stream record is said. -/
theorem sendRecord'_told (j : Job) (d : StreamDesc) (g : StreamRec) (s : State) :
    AsksOnly s (sendRecord' j d g s) ∧ Out.stream g ∈ (sendRecord' j d g s).out := by
  have h := enterGroup_asks homePort d.group s.man.routeEpoch d.tclass 2 0
    { bytes := strmBytes j.device g, opcode := 0, charter := some d.charter, source := j.device, home := 0 } (emit (.stream g) s)
  have hemit : AsksOnly s (emit (.stream g) s) :=
    ⟨rfl, rfl, rfl, fun j h => ⟨j, h, rfl, rfl, rfl, rfl⟩, fun _ h => List.mem_append_left _ h⟩
  exact ⟨hemit.trans h, h.kept _ (List.mem_append_right _ List.mem_cons_self)⟩

end

/-- The only job is a schedule under its key, with the progress given; tables and Stage stay, and what was said stays said. -/
structure StreamAt (key : Nat) (d : StreamDesc) (p : StreamSt) (s t : State) : Prop where
  man : t.man = s.man
  stage : t.stage = s.stage
  tide : t.tide = s.tide
  job : ∃ k, t.acc.jobs = [k] ∧ keyOf k = key ∧ k.st = .stream p ∧ k.desc = .stream d
  kept : ∀ o ∈ s.out, o ∈ t.out

section
variable {key : Nat} {j : Job} {d : StreamDesc} {p q : StreamSt} {s t u : State}

theorem streamOf?_of (hdesc : j.desc = .stream d) (hst : j.st = .stream p) : streamOf? j = some (d, p) := by
  simp [streamOf?, hdesc, hst]

theorem StreamAt.of_jobs (hjobs : s.acc.jobs = [j]) (hkey : keyOf j = key) (hdesc : j.desc = .stream d) (hst : j.st = .stream p) :
    StreamAt key d p s s := ⟨rfl, rfl, rfl, ⟨j, hjobs, hkey, hst, hdesc⟩, fun _ h => h⟩

theorem StreamAt.asks (h : StreamAt key d p s t) (k : AsksOnly t u) : StreamAt key d p s u := by
  obtain ⟨i, hi, hkey, hst, hdesc⟩ := h.job
  obtain ⟨a, ha, hast, hadesc, hakey, -⟩ := k.jobs i hi
  exact ⟨k.man.trans h.man, k.stage.trans h.stage, k.tide.trans h.tide, ⟨a, ha, hakey.trans hkey, hast.trans hst, hadesc.trans hdesc⟩,
    fun o ho => k.kept o (h.kept o ho)⟩

theorem StreamAt.trans (h : StreamAt key d p s t) (k : StreamAt key d q t u) : StreamAt key d q s u :=
  ⟨k.man.trans h.man, k.stage.trans h.stage, k.tide.trans h.tide, k.job, fun o ho => k.kept o (h.kept o ho)⟩

theorem setStream_single (hjobs : s.acc.jobs = [j]) (hkey : keyOf j = key) (q : StreamSt) :
    setStream key q s = { s with acc := { s.acc with jobs := [{ j with st := .stream q }] } } := by
  unfold setStream
  simp only [jobOf_single hjobs hkey]
  exact setJob_single hjobs rfl

theorem StreamAt.set (h : StreamAt key d p s t) (q : StreamSt) : StreamAt key d q s (setStream key q t) := by
  obtain ⟨i, hi, hkey, hst, hdesc⟩ := h.job
  rw [setStream_single hi hkey]
  exact ⟨h.man, h.stage, h.tide, ⟨_, rfl, hkey, rfl, hdesc⟩, h.kept⟩

/-- The job put back with the same progress. -/
theorem StreamAt.put (h : StreamAt key d p s t) (hkey : keyOf j = key) (hst : j.st = .stream p) (hdesc : j.desc = .stream d) :
    StreamAt key d p s (setJob j t) := by
  obtain ⟨i, hi, hikey, -, -⟩ := h.job
  rw [setJob_single hi (hkey.trans hikey.symm)]
  exact ⟨h.man, h.stage, h.tide, ⟨j, rfl, hkey, hst, hdesc⟩, h.kept⟩

/-- Planning asks for reads and counts what was asked, and nothing else of the progress changes. -/
theorem StreamAt.plan (h : StreamAt key d p s t) : ∃ n, StreamAt key d { p with asked := n } s (streamPlan key t) := by
  obtain ⟨i, hi, hkey, hst, hdesc⟩ := h.job
  unfold streamPlan
  simp only [jobOf_single hi hkey, streamOf?_of hdesc hst]
  split
  · exact ⟨p.asked, h⟩
  · split
    · exact ⟨p.asked, h⟩
    · split
      · exact ⟨p.asked, h⟩
      · split
        · exact ⟨p.asked, h⟩
        · exact ⟨_, (h.set _).asks (askPieces_asks _ _ _ _ _ _)⟩

/-- What a delivery that opens is. -/
def openedDelivery (shadow : Bool) (deadline : Nat) (s : State) : Delivery :=
  { shadow := shadow, opened := s.tide.count, deadline := deadline, poison := false, bytes := [], poisonAt := none }

/-- A delivery opens, and its OPEN record is said (R263, R265). -/
theorem StreamAt.opens (h : StreamAt key d p s t) (shadow : Bool) (deadline : Nat) :
    StreamAt key d { p with delivery := some (openedDelivery shadow deadline t) } s (openDelivery key shadow deadline t) ∧
    ∃ r, Out.stream r ∈ (openDelivery key shadow deadline t).out ∧ r.kind = 1 ∧ r.layer = p.layer ∧ r.shadow = shadow := by
  obtain ⟨i, hi, hkey, hst, hdesc⟩ := h.job
  unfold openDelivery
  simp only [jobOf_single hi hkey, streamOf?_of hdesc hst]
  have hset := h.set { p with delivery := some (openedDelivery shadow deadline t) }
  have hsent := fun g => sendRecord'_told i d g (setStream key { p with delivery := some (openedDelivery shadow deadline t) } t)
  split
  · exact ⟨(hset.asks (hsent _).1).asks (raise_asks _ _ _), _, (raise_asks _ _ _).kept _ (hsent _).2, rfl, rfl, rfl⟩
  · exact ⟨hset.asks (hsent _).1, _, (hsent _).2, rfl, rfl, rfl⟩

/-- A delivery under way is abandoned, and its ABANDON record is said (R267). -/
theorem StreamAt.abandons {x : Delivery} (h : StreamAt key d p s t) (hdelivery : p.delivery = some x) (code : Nat) :
    StreamAt key d { p with delivery := none, abandoned := p.abandoned + 1 } s (abandonDelivery key code t) ∧
    ∃ r, Out.stream r ∈ (abandonDelivery key code t).out ∧ r.kind = 4 := by
  obtain ⟨i, hi, hkey, hst, hdesc⟩ := h.job
  unfold abandonDelivery
  simp only [jobOf_single hi hkey, streamOf?_of hdesc hst, hdelivery]
  have hset := h.set { p with delivery := none, abandoned := p.abandoned + 1 }
  have hsent := fun g => sendRecord'_told i d g (setStream key { p with delivery := none, abandoned := p.abandoned + 1 } t)
  exact ⟨hset.asks (hsent _).1, _, (hsent _).2, rfl⟩

end

end Sys2Proof.Machine
end

section
/-! PROOFS. Forms and their blocks. -/

namespace Sys2Proof.Machine
open Sys2Proof

/-! The progress of a form (R259, R260). -/

section
variable {p : StreamSt} {f : FormSt} {g : Nat} {shadow : Bool}

theorem formSt_names (p : StreamSt) (g : Nat) (shadow : Bool) :
    (formSt p g shadow).g = g ∧ (formSt p g shadow).shadow = shadow := by
  unfold formSt
  cases hfound : p.forms.find? fun f => f.g == g && f.shadow == shadow with
  | none => exact ⟨rfl, rfl⟩
  | some f => simpa using List.find?_some hfound

theorem formSt_putForm_self (hg : f.g = g) (hshadow : f.shadow = shadow) : formSt (putForm f p) g shadow = f := by
  subst hg hshadow
  have hrest : ((p.forms.filter fun x => !(x.g == f.g && x.shadow == f.shadow)).find?
      fun x => x.g == f.g && x.shadow == f.shadow) = none := by
    simp only [List.find?_eq_none, List.mem_filter]
    rintro x ⟨-, hx⟩
    simpa only [Bool.not_eq_true', Bool.not_eq_true] using hx
  have hnew : ([f].find? fun x => x.g == f.g && x.shadow == f.shadow) = some f := by simp
  rw [formSt, putForm, List.find?_append, hrest, hnew]
  rfl

theorem formSt_putForm_ne (hne : ¬ (f.g = g ∧ f.shadow = shadow)) : formSt (putForm f p) g shadow = formSt p g shadow := by
  have hkept : ((p.forms.filter fun x => !(x.g == f.g && x.shadow == f.shadow)).find? fun x => x.g == g && x.shadow == shadow) =
      p.forms.find? fun x => x.g == g && x.shadow == shadow := by
    rw [List.find?_filter]
    refine congrArg (fun q => List.find? q p.forms) (funext fun x => ?_)
    by_cases hx : x.g = g ∧ x.shadow = shadow
    · obtain ⟨rfl, rfl⟩ := hx
      have hother : (x.g == f.g && x.shadow == f.shadow) = false := by
        by_contra hsame
        simp only [Bool.not_eq_false, Bool.and_eq_true, beq_iff_eq] at hsame
        exact hne ⟨hsame.1.symm, hsame.2.symm⟩
      simp [hother]
    · have hno : ¬ (x.g == g && x.shadow == shadow) = true := by simpa using hx
      simp [hno]
  have hnew : ([f].find? fun x => x.g == g && x.shadow == shadow) = none := by
    simpa using hne
  simp only [formSt, putForm, List.find?_append, hkept, hnew, Option.or_none]

/-- A form is unavailable from here on. -/
def withdrawForm (shadow : Bool) (p : StreamSt) (g : Nat) : StreamSt := putForm { formSt p g shadow with available := false } p

theorem withdrawForm_self : (formSt (withdrawForm shadow p g) g shadow).available = false := by
  have hself := formSt_putForm_self (p := p) (f := { formSt p g shadow with available := false })
    (formSt_names p g shadow).1 (formSt_names p g shadow).2
  exact congrArg FormSt.available hself

theorem withdrawForm_keeps (x : Nat) (h : (formSt p g shadow).available = false) :
    (formSt (withdrawForm shadow p x) g shadow).available = false := by
  by_cases hx : x = g
  · exact hx ▸ withdrawForm_self
  · have hne : (formSt p x shadow).g ≠ g := fun h => hx ((formSt_names p x shadow).1.symm.trans h)
    have hother := formSt_putForm_ne (p := p) (f := { formSt p x shadow with available := false }) (g := g) (shadow := shadow)
      fun h => hne h.1
    exact (congrArg FormSt.available hother).trans h

/-- Withdrawn once, and left so by the rest of the list. -/
theorem foldl_withdraws {F : StreamSt → Nat → StreamSt} {gs : List Nat} (hF : ∀ x ∈ gs, ∀ p, F p x = withdrawForm shadow p x)
    (p : StreamSt) (hor : g ∈ gs ∨ (formSt p g shadow).available = false) :
    (formSt (gs.foldl F p) g shadow).available = false := by
  induction gs generalizing p with
  | nil => exact hor.resolve_left List.not_mem_nil
  | cons x xs ih =>
    rw [List.foldl_cons, hF x List.mem_cons_self]
    refine ih (fun y hy => hF y (List.mem_cons_of_mem _ hy)) _ ?_
    rcases hor with hg | hout
    · rcases List.mem_cons.1 hg with rfl | hg
      · exact .inr withdrawForm_self
      · exact .inl hg
    · exact .inr (withdrawForm_keeps x hout)

end

/-! A block lands in its slot. -/

section
variable {key g i : Nat} {j : Job} {d : StreamDesc} {p : StreamSt} {s t : State} {shadow : Bool}

/-- A write to Stage changes Stage and its page keys. -/
theorem stageWrite_only (charter a n : Nat) (data : Option Bytes) (s : State) :
    ∃ m sec, (stageWrite charter a n data s).2 = { s with stage := m, sec := sec } := by
  have htake : ∃ sec, takePages charter a n s = { s with sec := sec } := by
    unfold takePages
    split
    · exact ⟨_, rfl⟩
    · exact ⟨s.sec, rfl⟩
  obtain ⟨sec, htake⟩ := htake
  unfold stageWrite
  split
  · exact ⟨s.stage, s.sec, rfl⟩
  · split
    · exact ⟨s.stage, s.sec, rfl⟩
    · rw [htake]
      cases data with
      | none => exact ⟨_, sec, rfl⟩
      | some b => exact ⟨_, sec, rfl⟩

/-- A block of an uncompressed form as it lands, good and whole. -/
def rawBlock (j : Job) (d : StreamDesc) (g i : Nat) (shadow : Bool) (gens : List (Nat × Nat)) : FormBlock :=
  let n := blockRaw (formAt j d g shadow).2.2.1 i
  { index := i, gens := gens, bad := false, stored := n, offset := 65536 * i }

/-- The progress once that block has landed. -/
def landed (j : Job) (d : StreamDesc) (p : StreamSt) (g i : Nat) (shadow : Bool) (gens : List (Nat × Nat)) : StreamSt :=
  putForm { formSt p g shadow with blocks := (formSt p g shadow).blocks ++ [rawBlock j d g i shadow gens] } p

theorem mem_landed (j : Job) (d : StreamDesc) (p : StreamSt) (g i : Nat) (shadow : Bool) (gens : List (Nat × Nat)) :
    rawBlock j d g i shadow gens ∈ (formSt (landed j d p g i shadow gens) g shadow).blocks := by
  have hself := formSt_putForm_self (p := p)
    (f := { formSt p g shadow with blocks := (formSt p g shadow).blocks ++ [rawBlock j d g i shadow gens] })
    (formSt_names p g shadow).1 (formSt_names p g shadow).2
  rw [landed, hself]
  exact List.mem_append_right _ List.mem_cons_self

theorem landBlock_raw (hjobs : s.acc.jobs = [j]) (hkey : keyOf j = key) (hdesc : j.desc = .stream d) (hst : j.st = .stream p)
    (hraw : (formAt j d g shadow).2.2.2 = false)
    (hroom : slotHead (formAt j d g shadow) + 65536 * i + blockRaw (formAt j d g shadow).2.2.1 i ≤ slotSize d shadow)
    (header data : Bytes) (gens : List (Nat × Nat)) :
    ∃ u, landBlock key g shadow i false header data gens s = u ∧ u.man = s.man ∧
      u.acc.jobs = [{ j with st := .stream (landed j d p g i shadow gens) }] := by
  have hfits : ¬ slotSize d shadow < slotHead (formAt j d g shadow) + 65536 * i + blockRaw (formAt j d g shadow).2.2.1 i := by omega
  refine ⟨_, rfl, ?_⟩
  unfold landBlock
  simp only [jobOf_single hjobs hkey, streamOf?_of hdesc hst, hraw, Bool.false_and, Bool.or_false, Bool.not_false, if_true,
    Bool.false_eq_true, if_false, if_neg hfits, setStream_single hjobs hkey]
  split
  · exact ⟨rfl, rfl⟩
  · next hstored =>
    obtain ⟨m, sec, hwrite⟩ := stageWrite_only d.charter
      (slotAt d g shadow + slotHead (formAt j d g shadow) + 65536 * i) (blockRaw (formAt j d g shadow).2.2.1 i)
      (some (fit (blockRaw (formAt j d g shadow).2.2.1 i) data))
      { s with acc := { s.acc with jobs := [{ j with st := .stream (landed j d p g i shadow gens) }] } }
    exact hwrite ▸ ⟨rfl, rfl⟩

/-- R259: a block read from the pool, of a form that stands there uncompressed, lands in its slot and the schedule plans on. -/
theorem prefetchBlockLand_lands {slot e : Nat} {f : Nat × Nat × Nat × Bool} (data : Bytes) (hruns : coreRuns s = true)
    (hjobs : s.acc.jobs = [j]) (hno : jobNo slot s = keyOf j) (hdesc : j.desc = .stream d) (hst : j.st = .stream p)
    (hphase : j.phase = .running) (hfetch : fetching j d p = some (g, false, i)) (hform : formAt j d g false = f)
    (hraw : f.2.2.2 = false) (hcopies : s.copies = []) (hentry : entryHolding d.charter (f.1 + 65536 * i) s = some e)
    (hroom : slotHead f + 65536 * i + blockRaw f.2.2.1 i ≤ slotSize d false) :
    ∃ t, exec (.prefetchBlockLand slot (g % d.layerCount) false i (entryOf e s).generation false [] data) s = .next t ∧
      t.man = s.man ∧ ∃ n gens k, t.acc.jobs = [k] ∧ k.st = .stream { landed j d p g i false gens with asked := n } ∧
        k.desc = .stream d := by
  subst hform
  have hof := jobOf_single hjobs (rfl : keyOf j = keyOf j)
  have hnone : ∀ va n ing, formBytesAt d.charter (formAt j d g false) false va n { s with ing := ing } = none := by
    intro va n ing
    simp [formBytesAt, copyFor, hcopies]
  rw [exec_prefetchBlockLand, execPrefetchBlockLand, onCore_of_coreRuns hruns]
  refine ⟨_, rfl, ?_⟩
  simp only [hno, hof, streamOf?_of hdesc hst, hfetch, hraw, Bool.not_false, if_true, Bool.false_eq_true, if_false, hentry, hphase,
    ne_eq, not_true_eq_false, bne_self_eq_false, or_self, hnone, Option.isNone_some, Bool.or_false, Option.getD_some]
  have hland := fun gens ing => landBlock_raw (s := { s with ing := ing }) hjobs rfl hdesc hst hraw hroom [] data gens
  choose u hu hman hu_jobs using hland
  have hof' := fun gens ing => jobOf_single (hu_jobs gens ing) (rfl : keyOf _ = keyOf j)
  simp only [hu, hof']
  have hat := fun gens ing => StreamAt.of_jobs (hu_jobs gens ing) (rfl : keyOf _ = keyOf j) hdesc rfl
  have hplan := fun ps gens ing => ((hat gens ing).put
    (j := dropLanded ps { j with st := .stream (landed j d p g i false gens) } (u gens ing)) rfl rfl hdesc).plan
  choose n hplan using hplan
  exact ⟨(hplan _ _ _).man.trans (hman _ _), n _ _ _, _,
    (hplan _ _ _).job.imp fun _ ⟨hk, _, hst', hdesc'⟩ => ⟨hk, hst', hdesc'⟩⟩

end

end Sys2Proof.Machine
end

section
/-! PROOFS. What a schedule's steps do, and O54. -/

namespace Sys2Proof.Machine
open Sys2Proof

/-! What a schedule's steps do (R260, R263 to R268). -/

section
variable {slot : Nat} {j : Job} {d : StreamDesc} {p : StreamSt} {s t : State}

/-- The schedule itself, as its own steps find it. -/
theorem StreamAt.now {key : Nat} {q : StreamSt} (h : StreamAt key d q s t) : StreamAt key d q t t :=
  ⟨rfl, rfl, rfl, h.job, fun _ h => h⟩

/-- R260: a form whose areas the charter no longer reads is withdrawn. -/
theorem formRetranslate_withdraws {g : Nat} {shadow : Bool} (hruns : coreRuns s = true) (hjobs : s.acc.jobs = [j])
    (hno : jobNo slot s = keyOf j) (hdesc : j.desc = .stream d) (hst : j.st = .stream p) (hfetch : (g, shadow) ∈ fetchOrder j d p)
    (hdelivery : p.delivery = none) (hrange : formRangeOk d.charter (formAt j d g shadow) s = false) :
    ∃ t q, exec (.formRetranslate slot (g % d.layerCount) shadow) s = .next t ∧ StreamAt (keyOf j) d q s t ∧
      (formSt q g shadow).available = false := by
  rw [exec_formRetranslate, execFormRetranslate, onCore_of_coreRuns hruns]
  simp only [hno, jobOf_single hjobs rfl, streamOf?_of hdesc hst, hdelivery, Bool.not_false, List.filter_true]
  obtain ⟨n, hplan⟩ := ((StreamAt.of_jobs hjobs rfl hdesc hst).set _).plan
  refine ⟨_, _, rfl, hplan, ?_⟩
  refine foldl_withdraws (fun x hx q => ?_) p (.inl (mem_sorted.2 ?_))
  · obtain ⟨⟨y, b⟩, hy, rfl⟩ := List.mem_map.1 (mem_sorted.1 hx)
    obtain ⟨rfl, hlayer⟩ : b = shadow ∧ y % d.layerCount = g % d.layerCount := by
      simpa using (List.mem_filter.1 hy).2
    have hsame : formAt j d y b = formAt j d g b := by simp [formAt, hlayer]
    simp only [hsame, hrange, Bool.false_eq_true, if_false]
    rfl
  · exact List.mem_map.2 ⟨(g, shadow), List.mem_filter.2 ⟨hfetch, by simp⟩, rfl⟩

/-- R263: a clean full form that can be delivered in time opens its delivery. -/
theorem layerChoice_opens (hruns : coreRuns s = true) (hjobs : s.acc.jobs = [j]) (hno : jobNo slot s = keyOf j)
    (hdesc : j.desc = .stream d) (hst : j.st = .stream p) (hphase : j.phase = .running) (hdelivery : p.delivery = none)
    (hpasses : passesDone d p = false) (hlead : deadlineOf j d p ≤ s.tide.count + d.leadTides) (hearly : p.earliest ≤ s.tide.count)
    (hclean : formClean j d p (formNo d p) false s = true)
    (htime : s.tide.count + deliveryTime d (layerEnt j.attach p.layer).fullRaw s ≤ deadlineOf j d p) :
    exec (.layerChoice slot) s = .next (openDelivery (keyOf j) false (deadlineOf j d p) s) := by
  have havailable : (formSt p (formNo d p) false).available = true := by
    simp only [formClean, formResident, Bool.and_eq_true] at hclean
    exact hclean.1.1.2
  have hskip : ¬ (j.phase ≠ .running ∨ p.delivery.isSome = true ∨ passesDone d p = true ∨
      s.tide.count + d.leadTides < deadlineOf j d p ∨ s.tide.count < p.earliest) := by
    simp only [hphase, hdelivery, hpasses]
    simp
    omega
  rw [exec_layerChoice, execLayerChoice, onCore_of_coreRuns hruns]
  simp only [hno, jobOf_single hjobs rfl, streamOf?_of hdesc hst, if_neg hskip, havailable, hclean, htime, Bool.not_true,
    Bool.false_and, Bool.false_eq_true, false_and, if_false, and_self, if_true]

/-- R263: nothing is delivered before the tide after the delivery before it. -/
theorem layerChoice_waits (hruns : coreRuns s = true) (hjobs : s.acc.jobs = [j]) (hno : jobNo slot s = keyOf j)
    (hdesc : j.desc = .stream d) (hst : j.st = .stream p) (hearly : s.tide.count < p.earliest) :
    exec (.layerChoice slot) s = .next s := by
  rw [exec_layerChoice, execLayerChoice, onCore_of_coreRuns hruns]
  simp only [hno, jobOf_single hjobs rfl, streamOf?_of hdesc hst, hearly, or_true, if_true]

/-- A job's progress record leaves the job with its progress (R366). -/
theorem logProgress_at {i : Job} {q : StreamSt} (code value : Nat) (hjobs : s.acc.jobs = [j]) (hkey : keyOf i = keyOf j)
    (hguest : i.guest = none) (hdesc : i.desc = .stream d) (hst : i.st = .stream q) :
    StreamAt (keyOf j) d q s (logProgress code value i s) := by
  unfold logProgress
  rw [if_neg (by simp [hguest])]
  extract_lets item
  rw [setJob_single hjobs (by exact hkey)]
  have hlog := logJob_frame 3 (le 8 item) false i
    { s with acc := { s.acc with jobs := [{ i with log := i.log ++ [item] }] } }
  generalize logJob _ _ _ _ _ = u at hlog ⊢
  exact ⟨by rw [hlog], by rw [hlog], by rw [hlog], ⟨_, hlog.jobs_eq, hkey, hst, hdesc⟩, by rw [hlog]; exact fun _ h => h⟩

/-- The progress once the delivery `x` has closed in time. -/
def closedSt (d : StreamDesc) (p : StreamSt) (x : Delivery) (s : State) : StreamSt :=
  let next := if p.layer + 1 = d.layerCount then (p.pass + 1, 0) else (p.pass, p.layer + 1)
  let q := { p with
    pass := next.1, layer := next.2, delivery := none, earliest := s.tide.count + 1, full := p.full + b2n !x.shadow,
    shadows := p.shadows + b2n x.shadow, late := p.late + b2n false, poisoned := p.poisoned + b2n x.poison }
  { q with forms := q.forms.filter fun f => isResident d || decide (cursorOf d q ≤ f.g) }

/-- R265: a delivery whose bytes have all gone closes with their checksum, and the turn passes on. -/
theorem deliveryClose_closes {x : Delivery} (hruns : coreRuns s = true) (hjobs : s.acc.jobs = [j]) (hno : jobNo slot s = keyOf j)
    (hdesc : j.desc = .stream d) (hst : j.st = .stream p) (hguest : j.guest = none) (hdelivery : p.delivery = some x)
    (hbytes : x.bytes.length = (formAt j d (formNo d p) x.shadow).2.2.1) (htime : s.tide.count ≤ x.deadline) :
    ∃ t n r, exec (.deliveryClose slot) s = .next t ∧ StreamAt (keyOf j) d { closedSt d p x s with asked := n } s t ∧
      Out.stream r ∈ t.out ∧ r.kind = 3 ∧ r.aux = crc32c x.bytes := by
  have hintime : ¬ x.deadline < s.tide.count := by omega
  rw [exec_deliveryClose, execDeliveryClose, onCore_of_coreRuns hruns]
  simp only [hno, jobOf_single hjobs rfl, streamOf?_of hdesc hst, hdelivery, hbytes, ne_eq, not_true_eq_false, if_false, hintime,
    decide_false, Bool.false_eq_true]
  have hsent := sendRecord'_told j d (streamRec j d p 3 x false x.poison (crc32c x.bytes) [] s) s
  have hkind : (streamRec j d p 3 x false x.poison (crc32c x.bytes) [] s).kind = 3 := rfl
  have haux : (streamRec j d p 3 x false x.poison (crc32c x.bytes) [] s).aux = crc32c x.bytes := rfl
  generalize streamRec j d p 3 x false x.poison (crc32c x.bytes) [] s = r at *
  have hat := (StreamAt.of_jobs hjobs rfl hdesc hst).asks hsent.1
  obtain ⟨k, hk, hkey, -, -⟩ := hat.job
  have hsaid := hsent.2
  generalize sendRecord' j d r s = u at *
  have hlogged := logProgress_at (i := { j with st := .stream (closedSt d p x u) }) 2 (p.pass % 2 ^ 32 * 2 ^ 28 + p.layer * 2 ^ 16)
    hk hkey.symm hguest hdesc rfl
  have hsame : closedSt d p x s = closedSt d p x u := by rw [closedSt, closedSt, hat.tide]
  rw [hkey] at hlogged
  obtain ⟨n, hplan⟩ := (hat.trans hlogged).plan
  exact ⟨_, n, r, rfl, hsame ▸ hplan, ((hlogged.plan).elim fun _ h => h.kept _ hsaid), hkind, haux⟩

/-- R267: a delivery stays while it is a shadow's, or not poisoned in the tide before. -/
theorem streamAbandoned_waits {x : Delivery} (hruns : coreRuns s = true) (hjobs : s.acc.jobs = [j]) (hno : jobNo slot s = keyOf j)
    (hdesc : j.desc = .stream d) (hst : j.st = .stream p) (hdelivery : p.delivery = some x)
    (hpoison : x.poisonAt.map (fun t => t + 1) ≠ some s.tide.count) : exec (.streamAbandoned slot) s = .next s := by
  rw [exec_streamAbandoned, execStreamAbandoned, onCore_of_coreRuns hruns]
  simp only [hno, jobOf_single hjobs rfl, streamOf?_of hdesc hst, hdelivery, ne_eq, hpoison, not_false_eq_true, true_or, or_true, if_true]

/-- R267: a poisoned full delivery gives way to a clean shadow that can be delivered by its deadline. -/
theorem streamAbandoned_reopens {x : Delivery} {t0 : Nat} (hruns : coreRuns s = true) (hjobs : s.acc.jobs = [j])
    (hno : jobNo slot s = keyOf j)
    (hdesc : j.desc = .stream d) (hst : j.st = .stream p) (hphase : j.phase = .running) (hdelivery : p.delivery = some x)
    (hshadow : x.shadow = false) (hpoison : x.poisonAt = some t0) (hnow : s.tide.count = t0 + 1)
    (hclean : formClean j d p (formNo d p) true s = true)
    (htime : s.tide.count + deliveryTime d (layerEnt j.attach p.layer).shadowRaw s ≤ x.deadline) :
    ∃ t y r, exec (.streamAbandoned slot) s = .next t ∧
      StreamAt (keyOf j) d { p with delivery := some y, abandoned := p.abandoned + 1 } s t ∧
      y.shadow = true ∧ y.deadline = x.deadline ∧ Out.stream r ∈ t.out ∧ r.kind = 4 := by
  have hgo : ¬ (j.phase ≠ .running ∨ x.shadow = true ∨ x.poisonAt.map (fun t => t + 1) ≠ some s.tide.count ∨
      formClean j d p (formNo d p) true s = false ∨
      x.deadline < s.tide.count + deliveryTime d (layerEnt j.attach p.layer).shadowRaw s) := by
    simp only [hphase, hshadow, hpoison, hclean, hnow, Option.map_some]
    rw [hnow] at htime
    simp
    omega
  rw [exec_streamAbandoned, execStreamAbandoned, onCore_of_coreRuns hruns]
  simp only [hno, jobOf_single hjobs rfl, streamOf?_of hdesc hst, hdelivery, if_neg hgo]
  obtain ⟨hat, r, hsaid, hkind⟩ := (StreamAt.of_jobs hjobs rfl hdesc hst).abandons hdelivery 0x0E0A
  have hraise := raise_asks 0x0E0A (streamFields j d p) (abandonDelivery (keyOf j) 0x0E0A s)
  have hat' := hat.asks hraise
  have hkept := hraise.kept _ hsaid
  generalize raise 0x0E0A (streamFields j d p) (abandonDelivery (keyOf j) 0x0E0A s) = u at *
  obtain ⟨hopen, -⟩ := hat'.opens true x.deadline
  obtain ⟨hopen', -⟩ := hat'.now.opens true x.deadline
  exact ⟨_, _, r, rfl, hopen, rfl, rfl, hopen'.kept _ hkept, hkind⟩

end

/-- Settles O54: each step leaves the only job a schedule with the progress that `StreamAt` names. -/
theorem streamDeliveries : Obligations.StreamDeliveries := by
  unfold Obligations.StreamDeliveries
  intro slot j d p s hruns hjobs hno hdesc hst hphase hguest dl now progress
  have hprogress : ∀ {t q}, StreamAt (keyOf j) d q s t → progress t q := by
    rintro t q h
    obtain ⟨k, hk, -, hkst, hkdesc⟩ := h.job
    exact ⟨k, by rw [hk]; exact List.mem_singleton_self k, hkst, hkdesc⟩
  refine ⟨?land, ?withdraw, ?opens, ?early, ?close, ?stays, ?reopen⟩
  case land =>
    intro g i e data f hfetch hform hraw hcopies hentry hroom
    obtain ⟨t, ht, hman, n, gens, k, hk, hkst, hkdesc⟩ :=
      prefetchBlockLand_lands data hruns hjobs hno hdesc hst hphase hfetch hform hraw hcopies hentry hroom
    exact ⟨t, _, rawBlock j d g i false gens, ht, ⟨k, by rw [hk]; exact List.mem_singleton_self k, hkst, hkdesc⟩,
      mem_landed j d p g i false gens, rfl, rfl, by rw [← hform]; rfl, hman⟩
  case withdraw =>
    intro g shadow hfetch hdelivery hrange
    obtain ⟨t, q, ht, hat, hout⟩ := formRetranslate_withdraws hruns hjobs hno hdesc hst hfetch hdelivery hrange
    exact ⟨t, q, ht, hprogress hat, hout, hat.man, hat.stage⟩
  case opens =>
    intro hdelivery hpasses hlead hearly hclean htime
    obtain ⟨hat, r, hsaid, hkind, hlayer, hshadow⟩ := (StreamAt.of_jobs hjobs rfl hdesc hst).opens false dl
    exact ⟨_, _, _, r, layerChoice_opens hruns hjobs hno hdesc hst hphase hdelivery hpasses hlead hearly hclean htime,
      hprogress hat, rfl, rfl, rfl, rfl, rfl, hsaid, hkind, hlayer, hshadow, hat.man, hat.stage⟩
  case early => exact fun _ hearly => layerChoice_waits hruns hjobs hno hdesc hst hearly
  case close =>
    intro x hdelivery hbytes htime _
    obtain ⟨t, n, r, ht, hat, hsaid, hkind, haux⟩ :=
      deliveryClose_closes hruns hjobs hno hdesc hst hguest hdelivery hbytes htime
    exact ⟨t, _, r, ht, hprogress hat, rfl, rfl, rfl, rfl, rfl, hsaid, hkind, haux, hat.man, hat.stage⟩
  case stays => exact fun x hdelivery _ hpoison => streamAbandoned_waits hruns hjobs hno hdesc hst hdelivery hpoison
  case reopen =>
    intro x t0 hdelivery hshadow hpoison hnow hclean htime
    obtain ⟨t, y, r, ht, hat, hy, hdeadline, hsaid, hkind⟩ :=
      streamAbandoned_reopens hruns hjobs hno hdesc hst hphase hdelivery hshadow hpoison hnow hclean htime
    exact ⟨t, _, y, r, ht, hprogress hat, rfl, hy, hdeadline, rfl, hsaid, hkind, hat.man, hat.stage⟩

end Sys2Proof.Machine
end

section
/-! PROOFS. Attempts and their ends. -/

namespace Sys2Proof.Machine
open Sys2Proof

/-! Attempts and their ends (R361, R362, R365). -/

section
variable {slot key b kind : Nat} {j k : Job} {s t : State}

/-- A record of the job's kind is on its way to the buddy. -/
def recordSent (b kind slot : Nat) (t : State) : Prop :=
  ∃ x ∈ t.acc.tx, x.dest = b ∧ ∃ r, x.record = some r ∧ r.kind = kind ∧ r.jobSlot = slot

/-- A job put back and its record logged: the job stands as put, and the record is on its way (R352, R360). -/
theorem logJob_setJob {body : Bytes} {sync : Bool} (hjobs : s.acc.jobs = [j]) (hkey : keyOf k = keyOf j)
    (hbuddy : s.acc.buddy = some b) :
    ∃ t, logJob kind body sync k (setJob k s) = t ∧ t.acc.jobs = [k] ∧ t.acc.buddy = some b ∧ recordSent b kind k.slot t ∧
      t.man = s.man ∧ t.stage = s.stage := by
  rw [setJob_single hjobs hkey]
  have hlog := logJob_frame kind body sync k { s with acc := { s.acc with jobs := [k] } }
  have hsent := logJob_sends (kind := kind) (body := body) (sync := sync) (j := k)
    (s := { s with acc := { s.acc with jobs := [k] } }) hbuddy
  refine ⟨_, rfl, ?_⟩
  generalize logJob kind body sync k { s with acc := { s.acc with jobs := [k] } } = u at hlog hsent ⊢
  obtain ⟨x, hx, hdest, -, r, hr, hkind, hslot⟩ := hsent
  refine ⟨hlog.jobs_eq, ?_, ⟨x, hx, hdest, r, hr, hkind, hslot⟩, ?_, ?_⟩ <;> rw [hlog]
  exact hbuddy

/-- R361: an accepted job alone takes the next attempt number, and its ATTEMPT record goes to the buddy. -/
theorem startAttempt_logs (hjobs : s.acc.jobs = [j]) (hkey : keyOf j = key) (hbuddy : s.acc.buddy = some b)
    (hphase : j.phase = .accepted) (hcharter : charterState (charterOf j) s ≠ 2) (haccept : acceptSent j s = false)
    (hattempts : j.attempts < 127) :
    ∃ t, startAttempt key s = t ∧
      t.acc.jobs = [{ j with phase := .starting, attempt := nextAttempt j.attempt, attempts := j.attempts + 1 }] ∧
      recordSent b 2 j.slot t ∧ t.man = s.man ∧ t.stage = s.stage := by
  have hturn : queueTurn j s = true := by simp [queueTurn, hjobs]
  have hfew : ¬ 127 ≤ j.attempts := by omega
  obtain ⟨t, ht, hjobs', hbuddy', hsent, hman, hstage⟩ := logJob_setJob (kind := 2) (body := []) (sync := true)
    (k := { j with phase := .starting, attempt := nextAttempt j.attempt, attempts := j.attempts + 1 }) hjobs rfl hbuddy
  refine ⟨t, ?_, hjobs', hsent, hman, hstage⟩
  unfold startAttempt
  simp only [jobOf_single hjobs hkey, hphase, ne_eq, not_true_eq_false, if_false, hcharter, hturn, haccept, Bool.false_eq_true,
    Bool.true_eq_false, or_self, hfew]
  simp only [ht, hbuddy']

/-- R365: a copy ends with COMPLETE logged under its code. -/
theorem endJob_copy {d : CopyDesc} (hjobs : s.acc.jobs = [j]) (hkey : keyOf j = key) (hbuddy : s.acc.buddy = some b)
    (hdesc : j.desc = .copy d) (hguest : j.guest = none) (reason : Nat) :
    ∃ t r, endJob key reason s = t ∧ t.acc.jobs = [{ j with phase := .completing, reason := reason, result := r }] ∧
      recordSent b 4 j.slot t ∧ t.stage = s.stage := by
  have hdones : sendDones j reason s = s := by simp [sendDones, craneOf?, hdesc]
  have hkept : ∀ ing, jobOf key { s with ing := ing } = some j := fun ing => jobOf_single hjobs hkey
  have hdelivery : abandonDelivery key reason (supersede key s) = supersede key s := by
    simp [abandonDelivery, supersede, hkept, streamOf?, hdesc]
  obtain ⟨t, ht, hjobs', hbuddy', hsent, -, hstage⟩ := logJob_setJob (kind := 4) (sync := true) (s := supersede key s)
    (body := resultHeader j reason (supersede key s))
    (k := { j with phase := .completing, reason := reason, result := resultHeader j reason (supersede key s) }) hjobs rfl hbuddy
  refine ⟨t, _, ?_, hjobs', hsent, hstage⟩
  unfold endJob
  rw [jobOf_single hjobs hkey]
  simp only [hguest, Option.isSome_none, Bool.false_eq_true, if_false, hdones, hdelivery, hdesc]
  have hof : jobOf key (supersede key s) = some j := hkept _
  simp only [hof, completeJob]
  simp only [ht, hbuddy']

end

end Sys2Proof.Machine
end

section
/-! PROOFS. A copy's reads and pieces. -/

namespace Sys2Proof.Machine
open Sys2Proof

/-! A copy's reads and pieces (R415). -/

section
variable {slot key : Nat} {j k : Job} {s t : State} {d : CopyDesc} {p : CopySt}

theorem fit_of_length {n : Nat} {b : Bytes} (h : b.length = n) : fit n b = b := by
  subst h
  simp [fit, slice, zeros]

theorem granulesIn_one (g : Nat) : granulesIn (64 * g) 64 = [64 * g] := by
  have hcount : (64 * g + 64 - 1) / 64 + 1 - 64 * g / 64 = 1 := by omega
  have hfirst : 64 * g / 64 = g := by omega
  rw [granulesIn, if_neg (by decide), hcount, hfirst]
  simp [upto]

theorem pieces64_one (g : Nat) : pieces64 (64 * g) 64 = [(64 * g, 64)] := by
  simp [pieces64, granulesIn_one]

theorem copyPlan_asks (key : Nat) (s : State) : AsksOnly s (copyPlan key s) := by
  unfold copyPlan
  split
  · exact .refl s
  · split
    · exact .refl s
    · split
      · exact askPieces_asks _ _ _ _ _ _
      · exact .refl s

/-- No seal goes out before the job's work is done (R362). -/
theorem trySeals_unfinished (hjobs : s.acc.jobs = [j]) (hkey : keyOf j = key) (hwork : workDone j s = false) :
    trySeals key s = s := by
  unfold trySeals
  simp [jobOf_single hjobs hkey, hwork]

/-- No seal goes out while the job waits for its fences (R361, R362). -/
theorem trySeals_fenced (hjobs : s.acc.jobs = [j]) (hkey : keyOf j = key) (hfence : j.awaitFence ≠ []) :
    trySeals key s = s := by
  unfold trySeals sendSeals
  simp [jobOf_single hjobs hkey, hfence]

theorem landRead_single {engine : Option Nat} {fpa : Nat} {poison : Bool} {data : Bytes} (hjobs : s.acc.jobs = [j])
    (hkey : keyOf j = key) (hphase : j.phase = .running) :
    landRead key engine fpa poison data s =
      { s with acc := { s.acc with jobs :=
        [{ j with landing := j.landing ++ [{ engine := engine, address := fpa, poison := poison, data := data }] }] } } := by
  unfold landRead
  simp only [jobOf_single hjobs hkey, hphase, if_true]
  rw [← hphase]
  exact setJob_single hjobs rfl

/-- R415: what a running copy has read lands, and the copy reads on. -/
theorem jobLand_copy {engine : Option Nat} {fpa : Nat} {poison : Bool} {data : Bytes} (hjobs : s.acc.jobs = [j])
    (hkey : keyOf j = key) (hphase : j.phase = .running) (hdesc : j.desc = .copy d) (hst : j.st = .copy p) (hmore : p.copied < d.bytes) :
    ∃ t k, trySeals key (jobLand key (landRead key engine fpa poison data s)) = t ∧ k ∈ t.acc.jobs ∧
      { engine := engine, address := fpa, poison := poison, data := data } ∈ k.landing ∧ t.stage = s.stage ∧ t.man = s.man := by
  rw [landRead_single hjobs hkey hphase]
  obtain ⟨u, hu⟩ : ∃ u : State, u = { s with acc := { s.acc with jobs :=
    [{ j with landing := j.landing ++ [{ engine := engine, address := fpa, poison := poison, data := data }] }] } } := ⟨_, rfl⟩
  have huj : u.acc.jobs = [{ j with landing := j.landing ++ [{ engine := engine, address := fpa, poison := poison, data := data }] }] := by
    rw [hu]
  have hus : u.stage = s.stage ∧ u.man = s.man := by rw [hu]; exact ⟨rfl, rfl⟩
  rw [← hu]
  clear hu
  have hland : jobLand key u = copyPlan key u := by
    unfold jobLand jobPlan
    simp only [jobOf_single huj hkey, hdesc]
  have hasks := copyPlan_asks key u
  obtain ⟨k, hk, hkst, hkdesc, hkkey, hkland⟩ := hasks.jobs _ huj
  have hwork : workDone k (copyPlan key u) = false := by
    simp [workDone, hkst, hkdesc, hdesc, hst, copyWritten, copyOps, hmore]
  refine ⟨copyPlan key u, k, ?_, ?_, ?_, hasks.stage.trans hus.1, hasks.man.trans hus.2⟩
  · rw [hland]
    exact trySeals_unfinished hk (hkkey.trans hkey) hwork
  · rw [hk]
    exact List.mem_singleton_self k
  · rw [hkland]
    exact List.mem_append_right _ List.mem_cons_self

/-- R415: the answer to a copy's read lands as it came, or as poison. -/
theorem engineReadResponse_lands {o : Outst} {data : Bytes} (poison : Bool) (hruns : coreRuns s = true) (hjobs : s.acc.jobs = [j])
    (hno : jobNo slot s = keyOf j) (hphase : j.phase = .running) (hdesc : j.desc = .copy d) (hst : j.st = .copy p)
    (hmore : p.copied < d.bytes) (houts : s.ing.outst = [o]) (hhost : o.host = jobHost (keyOf j)) (hop : o.opcode = opRead)
    (hsent : o.sent = true) (hreq : o.req.length = 64) (hlength : data.length = 64) (hdata : isPoison data = false) :
    ∃ t k, exec (.engineReadResponse slot o.req.address poison data [] []) s = .next t ∧ k ∈ t.acc.jobs ∧
      { engine := o.engine, address := o.req.address, poison := poison, data := if poison then [] else data } ∈ k.landing ∧
      t.stage = s.stage ∧ t.man = s.man := by
  have herrors : stageErrors [] [] s = s := rfl
  have hfound : (readsOut (keyOf j) s ++ (jobOuts (keyOf j) s).filter fun o => o.opcode == opRead).find?
      (fun x => x.req.address == o.req.address) = some o := by
    simp [readsOut, jobOuts, houts, hhost, hop, hsent]
  have hclean : ((granulesIn 0 data.length).any fun g => decide (g + 64 ≤ data.length) && isPoison (slice data g 64)) = false := by
    have hslice : slice data 0 64 = data := fit_of_length hlength
    rw [hlength, granulesIn_one 0]
    simp [hslice, hdata]
  rw [exec_engineReadResponse, execEngineReadResponse, onCore_of_coreRuns hruns]
  simp only [herrors, hno, hfound, hreq, fit_of_length hlength, hclean, Bool.or_false, hsent, Bool.not_true, Bool.false_eq_true,
    if_false]
  obtain ⟨t, k, ht, hrest⟩ := jobLand_copy (key := keyOf j) (engine := o.engine) (fpa := o.req.address) (poison := poison)
    (data := if poison then [] else data) (s := { s with ing := { s.ing with outst := s.ing.outst.erase o } })
    hjobs rfl hphase hdesc hst hmore
  exact ⟨t, k, congrArg _ ht, hrest⟩

end

end Sys2Proof.Machine
end

section
/-! PROOFS. A piece of a copy from Stage to Stage, and O53. -/

namespace Sys2Proof.Machine
open Sys2Proof

/-! A piece of a copy from Stage to Stage, and O53. -/

section
variable {slot src dst charter : Nat} {j : Job} {s t : State} {d : CopyDesc} {p : CopySt}

theorem pageForeign_nil {a n : Nat} (hpages : s.sec.stagePages = []) : pageForeign charter a n s = false := by
  simp [pageForeign, hpages, tget]

theorem pageLocked_nil {a n : Nat} (hpages : s.sec.stagePages = []) : pageLocked charter a n s = false := by
  simp [pageLocked, hpages, tget]

/-- A whole granule of an open charter is read from Stage as it stands (R415). -/
theorem stageRead_granule (hpages : s.sec.stagePages = []) (hclean : isPoison (mread s.stage (64 * src) 64) = false) :
    stageRead charter (64 * src) 64 s = some (mread s.stage (64 * src) 64) := by
  simp [stageRead, pageForeign_nil hpages, pageLocked_nil hpages, granulesIn_one, hclean]

/-- A whole granule of an open charter is written to Stage as it is (R415). -/
theorem stageWrite_granule {b : Bytes} (hpages : s.sec.stagePages = []) (hopen : isConfidential charter s = false) (hlength : b.length = 64) :
    stageWrite charter (64 * dst) 64 (some b) s = (0, { s with stage := mwrite s.stage (64 * dst) b }) := by
  have hkept : keptPoison (64 * dst) 64 s = [] := by simp [keptPoison, granulesIn_one]
  have htake : takePages charter (64 * dst) 64 s = s := by simp [takePages, hopen]
  have hkey : noStageKey charter s = 0 := by simp [noStageKey, hopen]
  have hwhole : b.take 64 = b := List.take_of_length_le hlength.le
  simp only [stageWrite, pageForeign_nil hpages, hkey, htake, hkept, hwhole, Bool.false_eq_true, if_false, ne_eq, not_true_eq_false,
    List.foldl_nil]

/-- R415: a granule of a copy from Stage to Stage. -/
theorem copyGranule_stage (hjobs : s.acc.jobs = [j])
    (hdesc : j.desc = .copy { d with spaces := 0, bytes := 64, srcAddr := 64 * src, dstAddr := 64 * dst }) (hst : j.st = .copy p)
    (hcopied : p.copied = 0) (hwf : Memory.wf s.stage) (hpages : s.sec.stagePages = [])
    (hopen : isConfidential d.charter s = false) (hclean : isPoison (mread s.stage (64 * src) 64) = false) :
    copyGranule (keyOf j) (64 * src) false (64 * dst) (64 * src, 64) s = { s with
      acc := { s.acc with jobs := [{ j with st := .copy { p with copied := 64 } }] }
      stage := mwrite s.stage (64 * dst) (mread s.stage (64 * src) 64) } := by
  have hops : copyOf? j = some ((false, 64 * src, false, 64 * dst, 64), p) := by simp [copyOf?, hst, hdesc, copyOps, bit]
  have hcharter : charterOf j = d.charter := by simp [charterOf, hdesc, descCharter]
  have hlength : (mread s.stage (64 * src) 64).length = 64 := by rw [mread_eq hwf]; simp
  unfold copyGranule
  simp only [jobOf_single hjobs rfl, hops, hcharter, stageRead_granule hpages hclean, Bool.false_eq_true, if_false, Option.isNone_some,
    b2n, Nat.add_zero, hcopied, Nat.zero_add, Nat.sub_self]
  rw [setJob_single (k := { j with st := .copy { p with copied := 64 } }) hjobs rfl]
  unfold outWrite
  simp only [Nat.reduceEqDiff, if_false, Bool.false_eq_true]
  rw [jobOf_single (key := keyOf j) (j := { j with st := .copy { p with copied := 64 } }) rfl rfl]
  simp only [charterOf, hdesc, descCharter]
  rw [stageWrite_granule (by exact hpages) (by exact hopen) hlength]
  rfl

/-- R415: the only piece of a copy from Stage to Stage. -/
theorem copySlice_granule (hjobs : s.acc.jobs = [j])
    (hdesc : j.desc = .copy { d with spaces := 0, bytes := 64, srcAddr := 64 * src, dstAddr := 64 * dst }) (hst : j.st = .copy p)
    (hphase : j.phase = .running) (hcopied : p.copied = 0) (hwf : Memory.wf s.stage) (hpages : s.sec.stagePages = [])
    (hopen : isConfidential d.charter s = false) (hclean : isPoison (mread s.stage (64 * src) 64) = false)
    (huse : mayUse .stream (keyOf j) 64 s = true) :
    copySlice (keyOf j) (.piece 0 64) s = { useCycles .stream (keyOf j) 64 s with
      acc := { s.acc with jobs := [{ j with st := .copy { p with copied := 64 } }] }
      stage := mwrite s.stage (64 * dst) (mread s.stage (64 * src) 64) } := by
  have hops : copyOf? j = some ((false, 64 * src, false, 64 * dst, 64), p) := by simp [copyOf?, hst, hdesc, copyOps, bit]
  have hops' : copyOf? { j with st := .copy { p with copied := 64 } } =
      some ((false, 64 * src, false, 64 * dst, 64), { p with copied := 64 }) := by
    simp [copyOf?, hdesc, copyOps, bit]
  unfold copySlice
  have hgo : ¬ (j.phase ≠ .running ∨ 0 ≠ p.copied ∨ 64 ≠ min 65536 (64 - 0) ∨ 64 = 0 ∨ (false = true ∧ j.awaitFence ≠ []) ∨
      (false = true ∧ ((pieces64 (64 * src + 0) 64).all fun x => (landedPiece j x s).isSome) = false) ∨
      mayUse .stream (keyOf j) 64 s = false) := by
    simp [hphase, hcopied, huse]
  have hgran := copyGranule_stage (s := useCycles .stream (keyOf j) 64 s) hjobs hdesc hst hcopied hwf hpages hopen hclean
  simp only [jobOf_single hjobs rfl, hops]
  rw [if_neg hgo]
  simp only [Nat.add_zero, pieces64_one, List.foldl_cons, List.foldl_nil, hgran]
  unfold copyPlan
  rw [jobOf_single (key := keyOf j) (j := { j with st := .copy { p with copied := 64 } }) rfl rfl]
  simp only [hops', Bool.false_eq_true, if_false]
  rfl

/-- R415: the retired piece stands at its destination, and nothing else in Stage changes. -/
theorem sliceRetire_copies (hruns : coreRuns s = true) (hjobs : s.acc.jobs = [j]) (hno : jobNo slot s = keyOf j)
    (hdesc : j.desc = .copy { d with spaces := 0, bytes := 64, srcAddr := 64 * src, dstAddr := 64 * dst }) (hst : j.st = .copy p)
    (hphase : j.phase = .running) (hcopied : p.copied = 0) (hfence : j.awaitFence ≠ []) (hwf : Memory.wf s.stage)
    (hpages : s.sec.stagePages = []) (hopen : isConfidential d.charter s = false)
    (hclean : isPoison (mread s.stage (64 * src) 64) = false) (huse : mayUse .stream (keyOf j) 64 s = true) :
    exec (.sliceRetire .stream 0 slot (.piece 0 64) [] []) s = .next { useCycles .stream (keyOf j) 64 s with
      acc := { s.acc with jobs := [{ j with st := .copy { p with copied := 64 } }] }
      stage := mwrite s.stage (64 * dst) (mread s.stage (64 * src) 64) } := by
  have herrors : stageErrors [] [] s = s := rfl
  have hslice := copySlice_granule hjobs hdesc hst hphase hcopied hwf hpages hopen hclean huse
  refine Eq.trans (b := .next (trySeals (keyOf j) (copySlice (keyOf j) (.piece 0 64) s))) ?_ ?_
  · rw [exec_sliceRetire, execSliceRetire, onCore_of_coreRuns hruns]
    simp only [herrors, hno, jobOf_single hjobs rfl, hdesc]
    all_goals exact fun _ _ _ h => nomatch h
  · rw [hslice]
    exact congrArg _ (trySeals_fenced (key := keyOf j) (j := { j with st := .copy { p with copied := 64 } }) rfl rfl hfence)

end

/-- Settles O53: the job is alone, so its turn has come; its record leaves with it put back, and a granule written to Stage changes no other
byte. -/
theorem jobAttempts : Obligations.JobAttempts := by
  unfold Obligations.JobAttempts
  intro slot j b s hruns hjobs hno hbuddy logged
  refine ⟨?start, ?stop, ?complete, ?read, ?retire⟩
  case start =>
    intro hphase hcharter haccept hattempts
    rw [exec_attemptStart, execAttemptStart, onCore_of_coreRuns hruns]
    obtain ⟨t, ht, hrest⟩ := startAttempt_logs hjobs hno.symm hbuddy hphase hcharter haccept hattempts
    exact ⟨t, congrArg _ ht, hrest⟩
  case stop =>
    intro d p hdesc hst hguest hstopping hwrites
    obtain ⟨c, hphase⟩ := hstopping
    rw [exec_engineJobStop, execEngineJobStop, onCore_of_coreRuns hruns]
    simp only [hno, jobOf_single hjobs rfl, hphase, hwrites, if_true]
    obtain ⟨t, r, ht, hrest⟩ := endJob_copy hjobs rfl hbuddy hdesc hguest c
    exact ⟨t, r, c, congrArg _ ht, rfl, hrest⟩
  case complete =>
    intro d p hdesc hst hdone
    have hguest : j.guest = none := by
      simp only [jobDone, Bool.and_eq_true, Option.isNone_iff_eq_none] at hdone
      obtain ⟨⟨⟨⟨⟨-, hguest⟩, -⟩, -⟩, -⟩, -⟩ := hdone
      exact hguest
    have hreason : endReason j = 0 := by simp [endReason, hst]
    rw [exec_jobComplete, execJobComplete, onCore_of_coreRuns hruns]
    simp only [hno, jobOf_single hjobs rfl, hdone, if_true, hreason]
    obtain ⟨t, r, ht, hrest⟩ := endJob_copy hjobs rfl hbuddy hdesc hguest 0
    exact ⟨t, r, congrArg _ ht, hrest⟩
  case read =>
    intro d p o data hdesc hst hphase hmore houts hhost hop hsent hreq hlength hdata
    have hread := fun poison =>
      engineReadResponse_lands poison hruns hjobs hno hphase hdesc hst hmore houts hhost hop hsent hreq hlength hdata
    exact ⟨hread true, hread false⟩
  case retire =>
    intro d p src dst hdesc hst hphase hcopied hfence hwf hpages hopen hclean huse
    have hlength : (mread s.stage (64 * src) 64).length = 64 := by rw [mread_eq hwf]; simp
    refine ⟨_, sliceRetire_copies hruns hjobs hno hdesc hst hphase hcopied hfence hwf hpages hopen hclean huse, rfl, ?_, ?_, rfl, rfl⟩
    · have hread := mread_mwrite hwf (64 * dst) (mread s.stage (64 * src) 64)
      rwa [hlength] at hread
    · intro a ha
      have hout : ¬ (64 * dst ≤ a ∧ a < 64 * dst + (mread s.stage (64 * src) 64).length) := by omega
      exact (mread1_mwrite _ _ a hwf).trans (if_neg hout)

end Sys2Proof.Machine
end

section
/-! PROOFS. A segment that waits for a tile already open (O52). -/

namespace Sys2Proof.Machine
open Sys2Proof

/-! A segment that waits for a tile already open (R155, R157). -/

/-- A Crane job whose first tile of 2^20 elements fills its Crane's deck. -/
def wholeDeck : CraneDesc := { craneOf [] with collective := 1, op := 1, charter := 1, memberCount := 1, tileCode := 10, elementCount := 2 ^ 25 }

/-- A partial of device 1 for that tile. -/
def partialWaiting : Segment :=
  { kind := 3, jobDevice := 0, jobSlot := 0, attempt := 0, srcDevice := true, sender := 64, tile := 0, aux := 0, members := 1,
    format := 0, poison := false, seqLo := 1, data := zeros 4 }

/-- The tile is open, and the partial waits. -/
def openWithWaiting : CraneSt :=
  { members := [5], live := [5], parts := [0, 1], heard := [], counts := [], excluded := [], firstDead := none,
    tiles := [(0, { tile0 with opened := true })], waiting := [partialWaiting], sealedTiles := 0, shortTiles := 0, lastUsed := 0,
    saturated := 0, inOverflow := 0, poisonedTiles := 0, nanOut := 0, discarded := 0 }

/-- The job runs on this device. -/
def wholeDeckJob : Job :=
  let hdr : CmdHdr := { mailbox := 0, tag := 0, expert := true, viaLighter := false }
  { newJob 0 0 cmdCrane 0 { hdr := hdr, seq := 1, queue := 255, owner := 0 } (.crane wholeDeck) [] with
    phase := .running, st := .crane openWithWaiting }

/-- The device with that job alone. -/
def deckFull : State := { State.reset with acc := { State.reset.acc with jobs := [wholeDeckJob] } }

/-- How many segments wait for the Crane jobs of a device. -/
def segmentsWaiting (s : State) : Nat :=
  (s.acc.jobs.map fun j => match craneOf? j with
    | some (_, p) => p.waiting.length
    | none => 0).sum

/-- The waiting partial is taken into the open tile, which needs no further room. -/
theorem waiting_taken_into_open_tile : ∃ t, exec (.tileOpen 0 0) deckFull = .next t ∧ segmentsWaiting t = 0 := ⟨_, rfl, by decide⟩

/-- Refutes O52: where a tile is open already, TILE_OPEN takes the segments that wait for it although no further tile would find room on the
deck, so the command has an effect where the statement has none. -/
theorem not_craneMessages : ¬ Obligations.CraneMessages := by
  intro h
  obtain ⟨-, -, -, -, -, hidle, -⟩ := h wholeDeckJob wholeDeck openWithWaiting deckFull (by decide) rfl rfl rfl rfl
  have hstays : exec (.tileOpen 0 0) deckFull = .next deckFull := hidle 0 0 (by decide) (by decide)
  obtain ⟨t, hexec, hnone⟩ := waiting_taken_into_open_tile
  obtain rfl : t = deckFull := Host.Outcome.next.inj (hexec.symm.trans hstays)
  exact absurd hnone (by decide)

end Sys2Proof.Machine
end
